-- ==== Sys2Proof/Word.lean ====
section
/-! DEFINITION. The word types of the model and their plainest arithmetic. -/

namespace Sys2Proof

/-- One byte of memory or of a token's payload (00 R1). -/
abbrev Byte := BitVec 8

/-- A run of bytes, byte 0 first (00 R1, 03 R48). -/
abbrev Bytes := List (BitVec 8)

end Sys2Proof
end

