-- ==== Sys2Proof/Machine/Bits.lean ====
section
/-! DEFINITION. Bytes, bit fields, and sorted maps with natural-number keys: the helpers that every other file uses. -/

namespace Sys2Proof.Machine

/-- The little-endian number of a run of bytes (00 R1). -/
def leNat : Bytes → Nat
  | [] => 0
  | b :: bs => b.toNat + 256 * leNat bs

/-- The `n` little-endian bytes of a number, modulo `2 ^ (8 * n)` (00 R1). -/
def leBytes : Nat → Nat → Bytes
  | 0, _ => []
  | n + 1, v => BitVec.ofNat 8 v :: leBytes n (v / 256)

/-- Byte `i` of a payload; a missing byte reads zero (04 R72). -/
def byteAt (bs : Bytes) (i : Nat) : Byte := bs.getD i 0

/-- `n` zero bytes. -/
def zeros (n : Nat) : Bytes := List.replicate n 0

/-- The bytes `off` to `off + n - 1`; missing bytes read zero (04 R72). -/
def sliceB (bs : Bytes) (off n : Nat) : Bytes :=
  let t := (bs.drop off).take n
  t ++ zeros (n - t.length)

/-- The little-endian number in the `n` bytes at `off`; missing bytes read zero (04 R72). -/
def numAt (bs : Bytes) (off n : Nat) : Nat := leNat ((bs.drop off).take n)

/-- `bs` with `new` laid over the bytes at `off`; what lies past the end of `bs` is dropped. -/
def overlay (bs : Bytes) (off : Nat) (new : Bytes) : Bytes :=
  bs.take off ++ (new.take (bs.length - off) ++ bs.drop (off + new.length))

/-- Bits `lo` to `lo + n - 1` of a number. -/
def bitsN (v lo n : Nat) : Nat := v / 2 ^ lo % 2 ^ n

/-- Bit `i` of a number. -/
def bitN (v i : Nat) : Bool := v.testBit i

/-- A number with the `n` bits at `lo` replaced. -/
def setBitsN (v lo n x : Nat) : Nat :=
  v - bitsN v lo n * 2 ^ lo + x % 2 ^ n * 2 ^ lo

/-- The signed reading of the low `w` bits of a number (03 R59). -/
def asSigned (w v : Nat) : Int :=
  let u := v % 2 ^ w
  if u < 2 ^ (w - 1) then (u : Int) else (u : Int) - (2 ^ w : Nat)

/-- A number modulo `2 ^ w`, as its bit pattern (03 R59). -/
def wrapInt (w : Nat) (x : Int) : Nat := (x % ((2 ^ w : Nat) : Int)).toNat

/-- The bits `lo` to `lo + n - 1` of a register. -/
def fieldOf {w : Nat} (v : BitVec w) (lo n : Nat) : Nat := bitsN v.toNat lo n

/-- A register with the `n` bits at `lo` replaced. -/
def withField {w : Nat} (v : BitVec w) (lo n x : Nat) : BitVec w :=
  BitVec.ofNat w (setBitsN v.toNat lo n x)

/-- A register with one bit set. -/
def withBit {w : Nat} (v : BitVec w) (i : Nat) : BitVec w := withField v i 1 1

/-- A map with natural-number keys, kept in rising order of the keys. -/
abbrev NMap (α : Type) := List (Nat × α)

/-- The entry of a key. -/
def NMap.find {α : Type} : NMap α → Nat → Option α
  | [], _ => none
  | (k, v) :: m, n => if k = n then some v else if n < k then none else NMap.find m n

/-- The entry of a key, or a default. -/
def NMap.getD {α : Type} (m : NMap α) (n : Nat) (d : α) : α := (NMap.find m n).getD d

/-- The map with one entry replaced or added. -/
def NMap.put {α : Type} : NMap α → Nat → α → NMap α
  | [], n, v => [(n, v)]
  | (k, w) :: m, n, v =>
    if k = n then (n, v) :: m else if n < k then (n, v) :: (k, w) :: m else (k, w) :: NMap.put m n v

/-- The map without one entry. -/
def NMap.del {α : Type} : NMap α → Nat → NMap α
  | [], _ => []
  | (k, w) :: m, n => if k = n then m else if n < k then (k, w) :: m else (k, w) :: NMap.del m n

/-- The map with one entry changed, if there is one. -/
def NMap.alter {α : Type} (m : NMap α) (n : Nat) (g : α → α) : NMap α :=
  match NMap.find m n with
  | some v => NMap.put m n (g v)
  | none => m

/-- The first free key below a bound. -/
def NMap.freeKey {α : Type} (m : NMap α) (bound : Nat) : Option Nat :=
  (List.range bound).find? (fun k => (NMap.find m k).isNone)

/-- An association list with keys of any kind that has a decidable equality: the entry of a key. -/
def lookupK {κ α : Type} [DecidableEq κ] (l : List (κ × α)) (k : κ) : Option α :=
  (l.find? (fun p => p.1 = k)).map (·.2)

/-- The list with the entry of a key replaced, or added at its end. -/
def putK {κ α : Type} [DecidableEq κ] : List (κ × α) → κ → α → List (κ × α)
  | [], k, v => [(k, v)]
  | (j, w) :: l, k, v => if j = k then (k, v) :: l else (j, w) :: putK l k v

/-- The list without the entry of a key. -/
def delK {κ α : Type} [DecidableEq κ] (l : List (κ × α)) (k : κ) : List (κ × α) :=
  l.filter (fun p => p.1 ≠ k)

/-- The list with the first element that meets a test removed. -/
def removeFirst {α : Type} (p : α → Bool) : List α → List α
  | [] => []
  | x :: xs => if p x then xs else x :: removeFirst p xs

/-- The list with the element at an index replaced. -/
def setAt {α : Type} (l : List α) (i : Nat) (x : α) : List α := l.set i x

/-- The element with the smallest key under an order given by numbers, the first of equals. -/
def minBy {α : Type} (key : α → Nat) : List α → Option α
  | [] => none
  | x :: xs =>
    match minBy key xs with
    | none => some x
    | some y => if key y < key x then some y else some x

/-- An element put into a list that rises in a key, after its equals. -/
def insertBy {α : Type} (key : α → Nat) (x : α) : List α → List α
  | [] => [x]
  | y :: ys => if key x < key y then x :: y :: ys else y :: insertBy key x ys

/-- A list in rising order of a key, equals in their old order. -/
def sortBy {α : Type} (key : α → Nat) (l : List α) : List α := l.foldl (fun acc x => insertBy key x acc) []

/-- A number as the sum of a list. -/
def sumN (l : List Nat) : Nat := l.foldl (· + ·) 0

/-- The quotient rounded up. -/
def ceilDiv (a b : Nat) : Nat := (a + b - 1) / b

/-- The integer `⌊log₂ n⌋ + 1`, and 0 for 0. -/
def bitLen (n : Nat) : Nat := if n = 0 then 0 else Nat.log2 n + 1

/-- The state of CRC-32C (reflected polynomial 0x82F63B78) after one more bit step. -/
def crcStep (c : Nat) : Nat := if c % 2 = 1 then (c / 2) ^^^ 0x82F63B78 else c / 2

/-- CRC-32C of a run of bytes (04 R82). -/
def crc32c (bs : Bytes) : Nat :=
  (bs.foldl (fun c b =>
    crcStep (crcStep (crcStep (crcStep (crcStep (crcStep (crcStep (crcStep (c ^^^ b.toNat))))))))) 0xFFFFFFFF)
    ^^^ 0xFFFFFFFF

end Sys2Proof.Machine
end

