-- ==== Sys2Proof/Syntax.lean ====
section
/-! DEFINITION. The instruction set as data: the fields of a station, the operands of the machine's other steps, and the one
inductive of every row of the opcode table. -/

namespace Sys2Proof

/-- The fields of a station's 32-bit word (02 R22) and 64-bit side-table entry (02 R30), but for the major and minor opcode. -/
structure Fields where
  srcA : BitVec 2
  srcB : BitVec 2
  dstA : BitVec 7
  dstB : BitVec 7
  tag : BitVec 4
  pm : BitVec 2
  ext : BitVec 2
  mod : BitVec 8
  ty : BitVec 5
  sty : BitVec 5
  sa : BitVec 3
  sb : BitVec 3
  lit : BitVec 32
  deriving DecidableEq, Repr

/-- Element types (02 R32). -/
inductive Ty where
  | none | f32 | bf16 | f16 | e4m3 | e5m2 | dv8 | mx4 | mx8
  | i8 | i16 | i32 | i64 | n8 | n16 | n32 | n64 | sk4
  deriving DecidableEq, Repr

/-- Rounding modes (02 R31, 03 R60). -/
inductive Rnd where
  | rne | rtz | rdn | rup
  deriving DecidableEq, Repr

/-- Token kinds (04 R70). -/
inductive Kind where
  | value | thread | key | query | control
  deriving DecidableEq, Repr

/-- A token's tag (04 R69), with the sync level of 11 R424 that travels with it. `deps` are the SEQs of the accesses
of its frame whose completion tokens lie behind it, each access by that of its last part (11 R236); `seen` counts the stores performed
before what it is ordered after (11 R232, R234). -/
structure Tag where
  ctx : BitVec 12 := 0
  frame : BitVec 64 := 0
  iter : BitVec 16 := 0
  phase : BitVec 8 := 0
  kind : Kind := .value
  pred : Bool := false
  null : Bool := false
  level : BitVec 32 := 0
  deps : List Nat := []
  seen : Nat := 0
  deriving DecidableEq, Repr

/-- A token: a tag, a payload of 0 to 128 bytes (04 R69), and the cycle at which it entered its tile (04 R73). -/
structure Token where
  tag : Tag := {}
  payload : Bytes := []
  arrival : BitVec 32 := 0
  deriving DecidableEq, Repr

/-- A tile of the package: its die and its die-local index (01 R11). -/
structure TileId where
  die : Nat
  tile : Nat
  deriving DecidableEq, Repr

/-- A destination within a tile: block index, station and side (04 R73 `dest`, `block`). -/
structure Place where
  block : Nat
  station : Nat
  sideB : Bool
  deriving DecidableEq, Repr

/-- A token on its way into a tile. `src` names the source station or engine, whose tokens to one destination stay in
order (04 R79); `outside` says that it does not come from a station of the destination block (05 R103); `trap` marks the trap
token of 18 R371, which opens a handler instance (18 R373); `spilling` says that it stands in the spill buffer on its way to memory
(04 R78). -/
structure Arrival where
  at_ : TileId
  place : Place
  tok : Token
  src : Nat
  outside : Bool
  trap : Bool := false
  inst : Nat := 0
  spilling : Bool := false
  deriving DecidableEq, Repr

/-- The atomic operations of 10 R214 (14 R310's release atomics are three of them). -/
inductive AtomOp where
  | add | min | max | and | or | xor | xchg | cas | casw | fadd
  deriving DecidableEq, Repr

/-- What a request packet asks of its owner (14 R295, 10 R210, R214, R221). -/
inductive MemOp where
  | load (n : Nat) (install : Bool)
  | store (data : Bytes)
  | atomic (op : AtomOp) (size : Nat) (signed : Bool) (b0 b1 : Bytes)
  | barInit (aExp phase : BitVec 32) (bExp : BitVec 64)
  | barJoin (n : BitVec 32)
  | barWait (target : BitVec 32)
  | prefetch (n : Nat)
  | credit (n : Nat)
  | flag (data : Bytes)
  | complete
  | gapReport (missing : List Nat)
  | abort (n : Nat) (f : Bool)
  | data (bytes : Bytes) (line : Bool)
  | remoteFault (code : BitVec 8)
  | retry
  | notice
  deriving DecidableEq, Repr

/-- The ordering stamp of 11 R236; `after` are the accesses of the frame that arcs order before it, which PRED and SUCC link for the owner. -/
structure Stamp where
  frame : BitVec 64 := 0
  seq : BitVec 48 := 0
  pred : BitVec 48 := 0
  succ : BitVec 48 := 0
  level : BitVec 48 := 0
  after : List Nat := []
  deriving DecidableEq, Repr

/-- A slot of a link input that a credit gives back (14 R297). -/
inductive SlotKind where
  | shared
  | reserved (channel : Nat)
  | escape (cls which : Nat)
  deriving DecidableEq, Repr

/-- A Chitis packet (14 R294). `to_` and `from_` are package and die codes of 13 bits; `toHost` and `fromHost` are the H bits;
`tile`, `slot` and `serial` name the reply slot or the access that the packet belongs to (the 16-bit tag; a tile number of 1024 + k is
streamer k), `part` its part; `offset` is the place of these `n` bytes in the whole access; `soNum` is the SO stream number of
11 R230; `cred` the credit barrier of 10 R220; `rel` marks a release atomic (14 R295); `viaLink` and `held` name the link at whose input
the packet stands and the slot that it holds there; `dir` is the ring direction that it has taken; in a reply that brings a line `readAt` counts the
stores performed when it was read (11 R234), and `levels` are those of its units (11 R424). -/
structure Packet where
  typ : BitVec 8
  addr : BitVec 64 := 0
  to_ : BitVec 13 := 0
  toHost : Bool := false
  from_ : BitVec 13 := 0
  fromHost : Bool := false
  inc : BitVec 8 := 0
  cls : BitVec 2 := 0
  gHops : Nat := 0
  lHops : Nat := 0
  dateline : Bool := false
  escape : Bool := false
  ring : BitVec 2 := 0
  ctx : BitVec 12 := 0
  phase : BitVec 8 := 0
  age : BitVec 8 := 0
  rc : BitVec 8 := 0
  epoch : BitVec 8 := 0
  index : Nat := 0
  phys : Bool := false
  stamp : Stamp := {}
  op : MemOp
  tile : Nat := 0
  slot : Nat := 0
  serial : Nat := 0
  part : Nat := 0
  offset : Nat := 0
  n : Nat := 0
  soNum : Option Nat := none
  cred : BitVec 64 := 0
  rel : Bool := false
  viaLink : Option Nat := none
  held : Option SlotKind := none
  dir : BitVec 2 := 0
  readAt : Nat := 0
  levels : List Nat := []
  deriving DecidableEq, Repr

/-- An end's view of a link (14 R299): width, lane map and speed. -/
structure LinkView where
  width : Nat
  lanes : Nat
  speed : Nat
  deriving DecidableEq, Repr

/-- The key of a send or receive entry (14 R303, R304): the other die, its incarnation (receive entries), context, channel,
epoch. -/
structure GroupKey where
  other : BitVec 13
  inc : BitVec 8
  ctx : BitVec 12
  rc : BitVec 8
  epoch : BitVec 8
  deriving DecidableEq, Repr

/-- What a packet of the Ultra Ethernet transport carries (15 R323, R324). -/
inductive NetBody where
  | write (window : Nat) (roff : BitVec 64) (length : Nat) (notify : Bool) (data : Bytes)
  | readRequest (window : Nat) (roff : BitVec 64) (length : Nat) (notify : Bool)
  | readData (data : Bytes)
  | ack
  | refuse
  deriving DecidableEq, Repr

/-- A packet of the Ultra Ethernet transport as the engine sees it (15 R317, R318, R323, R324): the Ethernet port that it leaves or comes by,
and the MAC and IP address that it names for that end; the IP address and the die of the other end; its DSCP value and UDP source port;
`ord` that it belongs to an ROD message, `supported` that it asks for a service of R317. `ctx` is the context that it names at the
receiver, `src` the sender's; an answer (data of a read, acknowledgement, refusal) repeats `peer`, `ctx`, `src` and `msg` of its request. -/
structure NetPacket where
  peer : Nat
  ctx : BitVec 12
  src : BitVec 12 := 0
  msg : BitVec 32
  index : Nat
  port : Nat := 0
  ord : Bool := false
  dscp : Nat := 0
  udp : Nat := 0
  mac : Bytes := []
  ip : Bytes := []
  otherIp : Bytes := []
  otherDie : Nat := 0
  supported : Bool := true
  body : NetBody
  deriving DecidableEq, Repr

/-- Where an uncorrectable error lies (17 R361). -/
inductive ErrorSite where
  | line (pa : Nat)
  | chip
  deriving DecidableEq, Repr

/-- A Curator command as it stands in the command ring (20 R406). -/
structure Command where
  die : Nat
  index : Nat
  opcode : BitVec 16
  flags : BitVec 16
  ctxField : BitVec 16
  reserved : BitVec 16
  tag : BitVec 64
  args : Bytes
  deriving DecidableEq, Repr

/-- The steps of the machine itself with their operands: the events of the opcode table that are due, or that come from outside. -/
inductive Event where
  | tokenArrival (a : Arrival)
  | spillProbeDone (t : TileId)
  | spillRefill (t : TileId)
  | schedulerDecision (t : TileId)
  | blockLoadDone (t : TileId) (slot : Nat)
  | instanceAdmit (t : TileId)
  | commitDrain (t : TileId)
  | fullEmptyWaitPerform (t : TileId)
  | forwardingRetire (t : TileId)
  | scratchpadClearDone (t : TileId)
  | qtailWrite (die q : Nat) (tail : BitVec 32)
  | queueDecision (die : Nat)
  | launchRecordCheck (launch : Nat)
  | leaseResidencyCheck (launch : Nat)
  | reswaitTimeout (die slot : Nat)
  | regionConfigured (launch : Nat)
  | heldLaunchConfigure (launch : Nat)
  | quiescenceWave (region : Nat)
  | phaseSum (region : Nat)
  | agPortIssue (t : TileId)
  | ownerPerform (die : Nat) (p : Packet)
  | tlbMissFill (die : Nat) (p : Packet)
  | soHeldPerform (die : Nat) (p : Packet)
  | replyDelivery (p : Packet)
  | byteCredit (die : Nat) (p : Packet)
  | barwaitRetry (t : TileId) (slot : Nat)
  | orderConditionMet (t : TileId)
  | drainTokenArrival (op : Nat)
  | streamerTakeCopy (die k : Nat)
  | islandCommandEntry (die island : Nat)
  | rowUpdateLand (die island : Nat)
  | releaseTokenOut (die island : Nat)
  | rampWindow (die : Nat)
  | forecastUpdate (die : Nat)
  | keystoreCompletion (t : TileId)
  | gramRequestPerform (die : Nat)
  | packetHop (die : Nat) (p : Packet)
  | creditReturn (link : Nat) (c : SlotKind)
  | packetAgeDrop (die : Nat) (p : Packet)
  | requestTimeoutResend (t : TileId) (slot : Nat)
  | linkRetrainRequest (die port : Nat)
  | trainingComplete (die port : Nat)
  | confirmViews (die port : Nat) (own peer : LinkView)
  | retrainTimeout (die port : Nat)
  | releaseWriteArrival (die : Nat) (p : Packet)
  | releaseFlagArrival (die : Nat) (p : Packet)
  | releaseCompleteArrival (die : Nat) (p : Packet)
  | gapReportArrival (die : Nat) (p : Packet)
  | groupAbortArrival (die : Nat) (p : Packet)
  | flagResendTimer (die : Nat) (g : GroupKey)
  | abortResendTimer (die : Nat) (g : GroupKey)
  | gapTimer (die : Nat) (g : GroupKey)
  | receiveEntryExpiry (die : Nat) (g : GroupKey)
  | relopenSpacingExpiry (t : TileId) (slot : Nat)
  | incarnationNotice (die source : Nat) (inc : BitVec 8)
  | netMessageSend (die msg : Nat)
  | netPacketReceive (die : Nat) (p : NetPacket)
  | netLocalCompletion (die msg : Nat)
  | netTransportAbandon (die msg : Nat)
  | accHeadWrite (die ctx : Nat) (v : BitVec 64)
  | accTailWrite (die ctx : Nat) (v : BitVec 64)
  | replayTimeout (die ctx : Nat)
  | intervalBoundary (ctx : Nat) (cause : BitVec 2)
  | firstWriteCopy (die ctx unit : Nat)
  | rollback (ctx : Nat)
  | memoryUncorrectable (die ctx : Nat) (e : ErrorSite)
  | preemptSaveComplete (ctx : Nat)
  | mailboxWrite (die : Nat) (p : Packet)
  | restoreProceed (ctx : Nat)
  | catHeadWrite (die ctx : Nat) (v : BitVec 64)
  | hangIntervalExpiry (ctx : Nat)
  | curCtailWrite (die : Nat) (tail : BitVec 32)
  | curEheadWrite (die : Nat) (head : BitVec 32)
  | cmdCreate (c : Command)
  | cmdDestroy (c : Command)
  | cmdResident (c : Command)
  | cmdEvict (c : Command)
  | cmdMode (c : Command)
  | cmdRegw (c : Command)
  | cmdMap (c : Command)
  | cmdUnmap (c : Command)
  | cmdProtect (c : Command)
  | cmdResdone (c : Command)
  | cmdResfail (c : Command)
  | cmdPreempt (c : Command)
  | cmdRestore (c : Command)
  | cmdResume (c : Command)
  | cmdKill (c : Command)
  | cmdTrapw (c : Command)
  | cmdGramw (c : Command)
  | cmdGramwClear (c : Command)
  | cmdEpw (c : Command)
  | cmdWinw (c : Command)
  | cmdWatchAdd (c : Command)
  | cmdWatchClear (c : Command)
  | cmdObsread (c : Command)
  | cmdVitrineFreeze (c : Command)
  | cmdVitrineThaw (c : Command)
  | cmdLinkrst (c : Command)
  | cmdMemrd (c : Command)
  | cmdMemwr (c : Command)
  | cmdPatch (c : Command)
  | cmdIdent (c : Command)
  | cmdStatclr (c : Command)
  | cmdCtxinfo (c : Command)
  | cmdPwrcap (c : Command)
  | cmdNetcfg (c : Command)
  | powerMeasure (watts : Nat)
  | hostRequest (p : Packet)
  | registerWrite (die offset : Nat) (v : BitVec 64) (named : Nat)
  | powerUp
  | powerLoss
  | queueWaiterAnswer (die q : Nat) (level : BitVec 32)
  | transportRetransmission (die msg : Nat)
  deriving DecidableEq, Repr

/-- Every row of the opcode table: the 195 instructions of 02 R35, and the steps of the machine itself, whose operands stand in the
state (`State.ev`) as an instruction's tokens do (`State.cur`). -/
inductive Instr where
  | ialuAdd (f : Fields)
  | ialuSub (f : Fields)
  | ialuMul (f : Fields)
  | ialuMulh (f : Fields)
  | ialuMin (f : Fields)
  | ialuMax (f : Fields)
  | ialuAnd (f : Fields)
  | ialuOr (f : Fields)
  | ialuXor (f : Fields)
  | ialuNot (f : Fields)
  | ialuShl (f : Fields)
  | ialuShr (f : Fields)
  | ialuRot (f : Fields)
  | ialuPopc (f : Fields)
  | ialuClz (f : Fields)
  | ialuAbs (f : Fields)
  | icmpEq (f : Fields)
  | icmpNe (f : Fields)
  | icmpLt (f : Fields)
  | icmpLe (f : Fields)
  | icmpGt (f : Fields)
  | icmpGe (f : Fields)
  | icmpTst (f : Fields)
  | addrAmov (f : Fields)
  | addrAoff (f : Fields)
  | addrAscale (f : Fields)
  | addrApw (f : Fields)
  | addrAread (f : Fields)
  | vfmaFma (f : Fields)
  | vfmaFms (f : Fields)
  | vfmaFnma (f : Fields)
  | vfmaFnms (f : Fields)
  | vfmaDot (f : Fields)
  | vfmaDotacc (f : Fields)
  | vfarithFadd (f : Fields)
  | vfarithFsub (f : Fields)
  | vfarithFmul (f : Fields)
  | vfarithFdiv (f : Fields)
  | vfarithFmin (f : Fields)
  | vfarithFmax (f : Fields)
  | vfarithFabs (f : Fields)
  | vfarithFneg (f : Fields)
  | vfarithFsqrt (f : Fields)
  | vfarithFclass (f : Fields)
  | vfarithFeq (f : Fields)
  | vfarithFlt (f : Fields)
  | vfarithFle (f : Fields)
  | vcvtCvt (f : Fields)
  | vcvtFtoi (f : Fields)
  | vcvtItof (f : Fields)
  | vcvtCvtmx (f : Fields)
  | vcvtUnmx (f : Fields)
  | vcvtSketch (f : Fields)
  | vspecialExp2 (f : Fields)
  | vspecialLog2 (f : Fields)
  | vspecialRcp (f : Fields)
  | vspecialRsqrt (f : Fields)
  | vspecialTanh (f : Fields)
  | vspecialSigm (f : Fields)
  | vredRsum (f : Fields)
  | vredRmax (f : Fields)
  | vredRmin (f : Fields)
  | vredRsumsq (f : Fields)
  | vpermBcast (f : Fields)
  | vpermShuf (f : Fields)
  | vpermSlide (f : Fields)
  | vpermZip (f : Fields)
  | vpermUnzip (f : Fields)
  | steerSteer (f : Fields)
  | steerRoute (f : Fields)
  | steerSel (f : Fields)
  | mergeMerge (f : Fields)
  | mergeMergeo (f : Fields)
  | gateGate (f : Fields)
  | gateNullify (f : Fields)
  | gateDup (f : Fields)
  | tagopGetit (f : Fields)
  | tagopGetfr (f : Fields)
  | tagopGetph (f : Fields)
  | tagopSetit (f : Fields)
  | tagopSetph (f : Fields)
  | spawnSpawn (f : Fields)
  | spawnSpawnn (f : Fields)
  | spawnSpawnr (f : Fields)
  | joinJoin (f : Fields)
  | joinJoinall (f : Fields)
  | exitExit (f : Fields)
  | exitAbort (f : Fields)
  | stateSld (f : Fields)
  | stateSst (f : Fields)
  | stateSacc (f : Fields)
  | stateSclr (f : Fields)
  | ldlLdl (f : Fields)
  | ldlLdls (f : Fields)
  | ldlLdlx (f : Fields)
  | stlStl (f : Fields)
  | stlStls (f : Fields)
  | stlStlx (f : Fields)
  | ldLd (f : Fields)
  | ldLdnt (f : Fields)
  | ldLdpw (f : Fields)
  | ldLdfc (f : Fields)
  | ldFcinv (f : Fields)
  | stSt (f : Fields)
  | stStnt (f : Fields)
  | gatherGath (f : Fields)
  | gatherGathw (f : Fields)
  | scatterScat (f : Fields)
  | scatterScatm (f : Fields)
  | atomAtadd (f : Fields)
  | atomAtmin (f : Fields)
  | atomAtmax (f : Fields)
  | atomAtand (f : Fields)
  | atomAtor (f : Fields)
  | atomAtxor (f : Fields)
  | atomAtxchg (f : Fields)
  | atomAtcas (f : Fields)
  | atomAtcasw (f : Fields)
  | atomAtfadd (f : Fields)
  | orderAcq (f : Fields)
  | orderRel (f : Fields)
  | orderAcqrel (f : Fields)
  | orderFence (f : Fields)
  | barBarinit (f : Fields)
  | barBarjoin (f : Fields)
  | barBarwait (f : Fields)
  | mmaMldb (f : Fields)
  | mmaMrow (f : Fields)
  | mmaMgat (f : Fields)
  | mmaMscale (f : Fields)
  | mmaMend (f : Fields)
  | mmaMdrain (f : Fields)
  | maccAcinit (f : Fields)
  | maccAcadd (f : Fields)
  | maccAcread (f : Fields)
  | maccAcsave (f : Fields)
  | maccAcload (f : Fields)
  | msparseMsldb (f : Fields)
  | msparseMsmeta (f : Fields)
  | msparseMsrow (f : Fields)
  | kputKput (f : Fields)
  | kputKputs (f : Fields)
  | kputKdrop (f : Fields)
  | kputKseq (f : Fields)
  | kputKfork (f : Fields)
  | kqueryKq (f : Fields)
  | kqueryKqd (f : Fields)
  | kqueryKqsk (f : Fields)
  | kqueryKmerge (f : Fields)
  | smaxSmref (f : Fields)
  | smaxSmacc (f : Fields)
  | smaxSmnorm (f : Fields)
  | smaxSmresc (f : Fields)
  | smaxSmflag (f : Fields)
  | rmtRld (f : Fields)
  | rmtRst (f : Fields)
  | rmtRadd (f : Fields)
  | rmtRcas (f : Fields)
  | rmtRxchg (f : Fields)
  | rmtRpf (f : Fields)
  | rrelRelopen (f : Fields)
  | rrelRelflag (f : Fields)
  | rrelRelwait (f : Fields)
  | rrelRelabort (f : Fields)
  | netPost (f : Fields)
  | netWait (f : Fields)
  | netNcget (f : Fields)
  | netNcset (f : Fields)
  | netCancel (f : Fields)
  | netNfence (f : Fields)
  | netNstat (f : Fields)
  | gramStep (f : Fields)
  | gramMask (f : Fields)
  | gramGstate (f : Fields)
  | gramGset (f : Fields)
  | gramGreset (f : Fields)
  | xferCopy (f : Fields)
  | xferCopy2d (f : Fields)
  | xferFill (f : Fields)
  | sysClock (f : Fields)
  | sysTileid (f : Fields)
  | sysTimer (f : Fields)
  | sysCtxst (f : Fields)
  | sysCtxend (f : Fields)
  | trapTrap (f : Fields)
  | trapTret (f : Fields)
  | dbgBrk (f : Fields)
  | dbgTrace (f : Fields)
  | dbgHist (f : Fields)
  | accnIntv (f : Fields)
  | accnArec (f : Fields)
  | aspaceInval (f : Fields)
  | aspacePgattr (f : Fields)
  | aspaceLpin (f : Fields)
  | aspaceLquery (f : Fields)
  | tokenArrival
  | spillProbeDone
  | spillRefill
  | schedulerDecision
  | blockLoadDone
  | instanceAdmit
  | commitDrain
  | fullEmptyWaitPerform
  | forwardingRetire
  | scratchpadClearDone
  | qtailWrite
  | queueDecision
  | launchRecordCheck
  | leaseResidencyCheck
  | reswaitTimeout
  | regionConfigured
  | heldLaunchConfigure
  | quiescenceWave
  | phaseSum
  | agPortIssue
  | ownerPerform
  | tlbMissFill
  | soHeldPerform
  | replyDelivery
  | byteCredit
  | barwaitRetry
  | orderConditionMet
  | drainTokenArrival
  | streamerTakeCopy
  | islandCommandEntry
  | rowUpdateLand
  | releaseTokenOut
  | rampWindow
  | forecastUpdate
  | keystoreCompletion
  | gramRequestPerform
  | packetHop
  | creditReturn
  | packetAgeDrop
  | requestTimeoutResend
  | linkRetrainRequest
  | trainingComplete
  | confirmViews
  | retrainTimeout
  | releaseWriteArrival
  | releaseFlagArrival
  | releaseCompleteArrival
  | gapReportArrival
  | groupAbortArrival
  | flagResendTimer
  | abortResendTimer
  | gapTimer
  | receiveEntryExpiry
  | relopenSpacingExpiry
  | incarnationNotice
  | netMessageSend
  | netPacketReceive
  | netLocalCompletion
  | netTransportAbandon
  | accHeadWrite
  | accTailWrite
  | replayTimeout
  | intervalBoundary
  | firstWriteCopy
  | rollback
  | memoryUncorrectable
  | preemptSaveComplete
  | mailboxWrite
  | restoreProceed
  | catHeadWrite
  | hangIntervalExpiry
  | curCtailWrite
  | curEheadWrite
  | cmdCreate
  | cmdDestroy
  | cmdResident
  | cmdEvict
  | cmdMode
  | cmdRegw
  | cmdMap
  | cmdUnmap
  | cmdProtect
  | cmdResdone
  | cmdResfail
  | cmdPreempt
  | cmdRestore
  | cmdResume
  | cmdKill
  | cmdTrapw
  | cmdGramw
  | cmdGramwClear
  | cmdEpw
  | cmdWinw
  | cmdWatchAdd
  | cmdWatchClear
  | cmdObsread
  | cmdVitrineFreeze
  | cmdVitrineThaw
  | cmdLinkrst
  | cmdMemrd
  | cmdMemwr
  | cmdPatch
  | cmdIdent
  | cmdStatclr
  | cmdCtxinfo
  | cmdPwrcap
  | cmdNetcfg
  | powerMeasure
  | hostRequest
  | registerWrite
  | powerUp
  | powerLoss
  | queueWaiterAnswer
  | transportRetransmission
  deriving DecidableEq, Repr

/-- The row of the opcode table of an event. -/
def Event.instr : Event → Instr
  | .tokenArrival _ => .tokenArrival
  | .spillProbeDone _ => .spillProbeDone
  | .spillRefill _ => .spillRefill
  | .schedulerDecision _ => .schedulerDecision
  | .blockLoadDone _ _ => .blockLoadDone
  | .instanceAdmit _ => .instanceAdmit
  | .commitDrain _ => .commitDrain
  | .fullEmptyWaitPerform _ => .fullEmptyWaitPerform
  | .forwardingRetire _ => .forwardingRetire
  | .scratchpadClearDone _ => .scratchpadClearDone
  | .qtailWrite _ _ _ => .qtailWrite
  | .queueDecision _ => .queueDecision
  | .launchRecordCheck _ => .launchRecordCheck
  | .leaseResidencyCheck _ => .leaseResidencyCheck
  | .reswaitTimeout _ _ => .reswaitTimeout
  | .regionConfigured _ => .regionConfigured
  | .heldLaunchConfigure _ => .heldLaunchConfigure
  | .quiescenceWave _ => .quiescenceWave
  | .phaseSum _ => .phaseSum
  | .agPortIssue _ => .agPortIssue
  | .ownerPerform _ _ => .ownerPerform
  | .tlbMissFill _ _ => .tlbMissFill
  | .soHeldPerform _ _ => .soHeldPerform
  | .replyDelivery _ => .replyDelivery
  | .byteCredit _ _ => .byteCredit
  | .barwaitRetry _ _ => .barwaitRetry
  | .orderConditionMet _ => .orderConditionMet
  | .drainTokenArrival _ => .drainTokenArrival
  | .streamerTakeCopy _ _ => .streamerTakeCopy
  | .islandCommandEntry _ _ => .islandCommandEntry
  | .rowUpdateLand _ _ => .rowUpdateLand
  | .releaseTokenOut _ _ => .releaseTokenOut
  | .rampWindow _ => .rampWindow
  | .forecastUpdate _ => .forecastUpdate
  | .keystoreCompletion _ => .keystoreCompletion
  | .gramRequestPerform _ => .gramRequestPerform
  | .packetHop _ _ => .packetHop
  | .creditReturn _ _ => .creditReturn
  | .packetAgeDrop _ _ => .packetAgeDrop
  | .requestTimeoutResend _ _ => .requestTimeoutResend
  | .linkRetrainRequest _ _ => .linkRetrainRequest
  | .trainingComplete _ _ => .trainingComplete
  | .confirmViews _ _ _ _ => .confirmViews
  | .retrainTimeout _ _ => .retrainTimeout
  | .releaseWriteArrival _ _ => .releaseWriteArrival
  | .releaseFlagArrival _ _ => .releaseFlagArrival
  | .releaseCompleteArrival _ _ => .releaseCompleteArrival
  | .gapReportArrival _ _ => .gapReportArrival
  | .groupAbortArrival _ _ => .groupAbortArrival
  | .flagResendTimer _ _ => .flagResendTimer
  | .abortResendTimer _ _ => .abortResendTimer
  | .gapTimer _ _ => .gapTimer
  | .receiveEntryExpiry _ _ => .receiveEntryExpiry
  | .relopenSpacingExpiry _ _ => .relopenSpacingExpiry
  | .incarnationNotice _ _ _ => .incarnationNotice
  | .netMessageSend _ _ => .netMessageSend
  | .netPacketReceive _ _ => .netPacketReceive
  | .netLocalCompletion _ _ => .netLocalCompletion
  | .netTransportAbandon _ _ => .netTransportAbandon
  | .accHeadWrite _ _ _ => .accHeadWrite
  | .accTailWrite _ _ _ => .accTailWrite
  | .replayTimeout _ _ => .replayTimeout
  | .intervalBoundary _ _ => .intervalBoundary
  | .firstWriteCopy _ _ _ => .firstWriteCopy
  | .rollback _ => .rollback
  | .memoryUncorrectable _ _ _ => .memoryUncorrectable
  | .preemptSaveComplete _ => .preemptSaveComplete
  | .mailboxWrite _ _ => .mailboxWrite
  | .restoreProceed _ => .restoreProceed
  | .catHeadWrite _ _ _ => .catHeadWrite
  | .hangIntervalExpiry _ => .hangIntervalExpiry
  | .curCtailWrite _ _ => .curCtailWrite
  | .curEheadWrite _ _ => .curEheadWrite
  | .cmdCreate _ => .cmdCreate
  | .cmdDestroy _ => .cmdDestroy
  | .cmdResident _ => .cmdResident
  | .cmdEvict _ => .cmdEvict
  | .cmdMode _ => .cmdMode
  | .cmdRegw _ => .cmdRegw
  | .cmdMap _ => .cmdMap
  | .cmdUnmap _ => .cmdUnmap
  | .cmdProtect _ => .cmdProtect
  | .cmdResdone _ => .cmdResdone
  | .cmdResfail _ => .cmdResfail
  | .cmdPreempt _ => .cmdPreempt
  | .cmdRestore _ => .cmdRestore
  | .cmdResume _ => .cmdResume
  | .cmdKill _ => .cmdKill
  | .cmdTrapw _ => .cmdTrapw
  | .cmdGramw _ => .cmdGramw
  | .cmdGramwClear _ => .cmdGramwClear
  | .cmdEpw _ => .cmdEpw
  | .cmdWinw _ => .cmdWinw
  | .cmdWatchAdd _ => .cmdWatchAdd
  | .cmdWatchClear _ => .cmdWatchClear
  | .cmdObsread _ => .cmdObsread
  | .cmdVitrineFreeze _ => .cmdVitrineFreeze
  | .cmdVitrineThaw _ => .cmdVitrineThaw
  | .cmdLinkrst _ => .cmdLinkrst
  | .cmdMemrd _ => .cmdMemrd
  | .cmdMemwr _ => .cmdMemwr
  | .cmdPatch _ => .cmdPatch
  | .cmdIdent _ => .cmdIdent
  | .cmdStatclr _ => .cmdStatclr
  | .cmdCtxinfo _ => .cmdCtxinfo
  | .cmdPwrcap _ => .cmdPwrcap
  | .cmdNetcfg _ => .cmdNetcfg
  | .powerMeasure _ => .powerMeasure
  | .hostRequest _ => .hostRequest
  | .registerWrite _ _ _ _ => .registerWrite
  | .powerUp => .powerUp
  | .powerLoss => .powerLoss
  | .queueWaiterAnswer _ _ _ => .queueWaiterAnswer
  | .transportRetransmission _ _ => .transportRetransmission

end Sys2Proof
end

