-- ==== Sys2Proof/Machine/Formats.lean ====
section
/-! DEFINITION. The number formats of chapter 03: decoding, exact arithmetic, rounding once, conversions, the order of
sums. -/

namespace Sys2Proof.Machine

/-! ### Element types -/

/-- The type of a type code (02 R32); codes 10010 to 11111 are reserved. -/
def tyOfCode (c : BitVec 5) : Option Ty :=
  match c.toNat with
  | 0 => some .none | 1 => some .f32 | 2 => some .bf16 | 3 => some .f16 | 4 => some .e4m3 | 5 => some .e5m2
  | 6 => some .dv8 | 7 => some .mx4 | 8 => some .mx8 | 9 => some .i8 | 10 => some .i16 | 11 => some .i32
  | 12 => some .i64 | 13 => some .n8 | 14 => some .n16 | 15 => some .n32 | 16 => some .n64 | 17 => some .sk4
  | _ => none

end Sys2Proof.Machine

namespace Sys2Proof

/-- Bytes of one element; 1 for the types whose elements are not whole bytes (03 R48). -/
def Ty.size : Ty → Nat
  | .f32 | .i32 | .n32 => 4
  | .bf16 | .f16 | .i16 | .n16 => 2
  | .i64 | .n64 => 8
  | _ => 1

/-- The eight integer types, group I of 02 R35. -/
def Ty.isInt : Ty → Bool
  | .i8 | .i16 | .i32 | .i64 | .n8 | .n16 | .n32 | .n64 => true
  | _ => false

/-- Signed integer types (03 R59). -/
def Ty.isSigned : Ty → Bool
  | .i8 | .i16 | .i32 | .i64 => true
  | _ => false

/-- Group F of 02 R35. -/
def Ty.isF : Ty → Bool
  | .f32 | .bf16 | .f16 => true
  | _ => false

/-- Group F8 of 02 R35. -/
def Ty.isF8 : Ty → Bool
  | .e4m3 | .e5m2 | .dv8 => true
  | _ => false

/-- Group MX of 02 R35. -/
def Ty.isMx : Ty → Bool
  | .mx4 | .mx8 => true
  | _ => false

/-- Width of an element in bits. -/
def Ty.width (t : Ty) : Nat := 8 * t.size

end Sys2Proof

namespace Sys2Proof.Machine

/-- The bit patterns of the whole elements of a payload (03 R48). -/
def elems (size : Nat) (bs : Bytes) : List Nat :=
  (List.range (bs.length / size)).map (fun i => numAt bs (i * size) size)

/-- Elements packed from byte 0 (03 R48). -/
def packElems (size : Nat) (l : List Nat) : Bytes := (l.map (leBytes size)).flatten

/-- Nibble `i` of an array of 4-bit elements (03 R48). -/
def nibbleAt (bs : Bytes) (i : Nat) : Nat :=
  let b := (byteAt bs (i / 2)).toNat
  if i % 2 = 0 then b % 16 else b / 16

/-- 4-bit elements packed two to a byte (03 R48). -/
def packNibbles : List Nat → Bytes
  | [] => []
  | [a] => [BitVec.ofNat 8 (a % 16)]
  | a :: b :: l => BitVec.ofNat 8 (a % 16 + 16 * (b % 16)) :: packNibbles l

/-- The exact integer that an element holds (03 R59). -/
def intOf (t : Ty) (v : Nat) : Int := if t.isSigned then asSigned t.width v else (v % 2 ^ t.width : Nat)

/-- The least and the largest value of an integer type (03 R59). -/
def intMin (t : Ty) : Int := if t.isSigned then -((2 ^ (t.width - 1) : Nat) : Int) else 0
def intMax (t : Ty) : Int := if t.isSigned then ((2 ^ (t.width - 1) : Nat) : Int) - 1 else ((2 ^ t.width : Nat) : Int) - 1

/-- SAT(x, T) of 03 R59. -/
def satInt (t : Ty) (x : Int) : Int := max (intMin t) (min (intMax t) x)

/-! ### Exact numbers -/

/-- A number `± (m + ε) · 2 ^ e` with `ε = 0`, or `0 < ε < 1` when `sticky`. -/
structure Num where
  neg : Bool
  m : Nat
  e : Int
  sticky : Bool := false
  deriving DecidableEq, Repr

/-- What a floating code stands for (03 R49, R51). -/
inductive FVal where
  | nan
  | inf (neg : Bool)
  | fin (x : Num)
  deriving DecidableEq, Repr

/-- The floating formats: the six of 03 R49 and DV8. -/
inductive FTy where
  | f32 | bf16 | f16 | e4m3 | e5m2 | dv8 | e2m1
  deriving DecidableEq, Repr

end Sys2Proof.Machine

namespace Sys2Proof

open Machine in
/-- The floating format of an element type; `.mx4` has E2M1 elements, `.mx8` E4M3 ones (03 R54). -/
def Ty.fty : Ty → FTy
  | .bf16 => .bf16 | .f16 => .f16 | .e4m3 => .e4m3 | .e5m2 => .e5m2 | .dv8 => .dv8 | .mx4 => .e2m1 | .mx8 => .e4m3
  | _ => .f32

end Sys2Proof

namespace Sys2Proof.Machine

/-- Fraction bits, exponent bits and bias (03 R49). -/
def FTy.fbits : FTy → Nat
  | .f32 => 23 | .bf16 => 7 | .f16 => 10 | .e4m3 => 3 | .e5m2 => 2 | .dv8 => 0 | .e2m1 => 1
def FTy.ebits : FTy → Nat
  | .f32 | .bf16 => 8 | .f16 | .e5m2 => 5 | .e4m3 => 4 | .dv8 => 0 | .e2m1 => 2
def FTy.bias : FTy → Int
  | .f32 | .bf16 => 127 | .f16 | .e5m2 => 15 | .e4m3 => 7 | .dv8 => 0 | .e2m1 => 1

/-- The bit of the sign. -/
def FTy.signBit (t : FTy) : Nat := match t with | .dv8 => 7 | _ => t.fbits + t.ebits

/-- The code of the largest finite magnitude, of infinity where there is one, and of the canonical NaN (03 R49, R52). -/
def FTy.maxCode : FTy → Nat
  | .f32 => 0x7F7FFFFF | .bf16 => 0x7F7F | .f16 => 0x7BFF | .e4m3 => 0x7E | .e5m2 => 0x7B | .dv8 => 0x03 | .e2m1 => 7
def FTy.infCode : FTy → Option Nat
  | .f32 => some 0x7F800000 | .bf16 => some 0x7F80 | .f16 => some 0x7C00 | .e5m2 => some 0x7C | _ => none
def FTy.nanCode : FTy → Nat
  | .f32 => 0x7FC00000 | .bf16 => 0x7FC0 | .f16 => 0x7E00 | .e4m3 => 0x7F | .e5m2 => 0x7E | .dv8 => 0x80 | .e2m1 => 0

/-- The exponent of the last place of the subnormals. -/
def FTy.qmin (t : FTy) : Int := 1 - t.bias - t.fbits

/-- The magnitude of a nonzero DV8 code's low seven bits, in units of 2^-18 (03 R52). -/
def dv8Units (b : Nat) : Nat :=
  if b = 0 then 0
  else
    let m := Nat.log2 b
    let z := 6 - m
    if z = 6 then 1
    else
      let w := if z = 0 then 2 else if z ≤ 3 then 3 else if z = 4 then 2 else 1
      let fb := if z = 0 then 4 else if z = 1 then 2 else if z = 2 then 1 else 0
      let v := bitsN b (m - w) w
      let f := bitsN b 0 fb
      let h := 2 ^ (w - 1)
      let bb := if z = 1 then 2 else if z = 2 then 6 else if z = 3 then 10 else if z = 4 then 14 else 16
      -- exponent plus 18
      let e18 := if z = 0 then v + 16 else if v < h then 18 - (bb + 1 + (h - 1 - v)) else 18 + bb + (v - h)
      (2 ^ fb + f) * 2 ^ e18 / 2 ^ fb

/-- What a floating code stands for (03 R49, R52). -/
def decodeF (t : FTy) (c : Nat) : FVal :=
  match t with
  | .dv8 =>
    let b := bitsN c 0 7
    let s := bitN c 7
    if b = 0 then (if s then .nan else .fin ⟨false, 0, 0, false⟩) else .fin ⟨s, dv8Units b, -18, false⟩
  | _ =>
    let s := bitN c t.signBit
    let mag := bitsN c 0 t.signBit
    let e := mag / 2 ^ t.fbits
    let f := mag % 2 ^ t.fbits
    match t.infCode with
    | some ic =>
      if mag = ic then .inf s
      else if mag > ic then .nan
      else if e = 0 then .fin ⟨s, f, t.qmin, false⟩
      else .fin ⟨s, 2 ^ t.fbits + f, (e : Int) - t.bias - t.fbits, false⟩
    | none =>
      if t = .e4m3 ∧ mag = 0x7F then .nan
      else if e = 0 then .fin ⟨s, f, t.qmin, false⟩
      else .fin ⟨s, 2 ^ t.fbits + f, (e : Int) - t.bias - t.fbits, false⟩

/-- Whether a rounding away from zero is due: `odd` is the last kept bit, `half` compares the dropped part with one half
(0 below, 1 equal, 2 above), `exact` says that nothing was dropped (03 R60). -/
def roundUpMag (mode : Rnd) (neg odd : Bool) (half : Nat) (exact : Bool) : Bool :=
  match mode with
  | .rne => half = 2 || (half = 1 && odd)
  | .rtz => false
  | .rdn => neg && !exact
  | .rup => !neg && !exact

/-- `(m + ε) · 2 ^ e` rounded to a multiple of `2 ^ q`, as that multiple (03 R60). -/
def roundToPlace (x : Num) (mode : Rnd) (q : Int) : Nat :=
  if x.e ≥ q then
    let k := x.m * 2 ^ (x.e - q).toNat
    if x.sticky && roundUpMag mode x.neg (k % 2 = 1) 0 false then k + 1 else k
  else
    let d := (q - x.e).toNat
    let k := x.m / 2 ^ d
    let r := x.m % 2 ^ d
    let hf := 2 ^ (d - 1)
    let half := if r > hf || (r = hf && x.sticky) then 2 else if r = hf then 1 else 0
    let exact := r = 0 && !x.sticky
    if roundUpMag mode x.neg (k % 2 = 1) half exact then k + 1 else k

/-- The sign put on a magnitude code. -/
def withSign (t : FTy) (neg : Bool) (mag : Nat) : Nat := if neg then mag + 2 ^ t.signBit else mag

/-- The result of an overflow (03 R61). -/
def overflowCode (t : FTy) (mode : Rnd) (nanovf neg : Bool) : Nat :=
  match t with
  | .f32 =>
    let toInf := match mode with | .rne => true | .rtz => false | .rdn => neg | .rup => !neg
    withSign .f32 neg (if toInf then 0x7F800000 else 0x7F7FFFFF)
  | _ => if nanovf then t.nanCode else withSign t neg t.maxCode

/-- ROUND into DV8: the neighbours among the 128 magnitudes, a tie to the even rank (03 R53, R60, R61). -/
def roundDv8 (x : Num) (mode : Rnd) (nanovf : Bool) : Nat :=
  if x.m = 0 && !x.sticky then 0
  else
    -- |x| in units of 2^-18, as (u + ε') with `more` for a part below one unit
    let d := (-18 - x.e).toNat
    let u := if x.e ≥ -18 then x.m * 2 ^ (x.e + 18).toNat else x.m / 2 ^ d
    let r := if x.e ≥ -18 then 0 else x.m % 2 ^ d
    let more := r ≠ 0 || x.sticky
    if u > 65536 * 2 ^ 18 || (u = 65536 * 2 ^ 18 && more) then overflowCode .dv8 mode nanovf x.neg
    else
      let codes := List.range 128
      let lo := codes.foldl (fun best b => if dv8Units b ≤ u && dv8Units b ≥ dv8Units best then b else best) 0
      if dv8Units lo = u && !more then (if lo = 0 then 0 else withSign .dv8 x.neg lo)
      else
        let hi := codes.foldl (fun best b =>
          if dv8Units b > u && (dv8Units b < dv8Units best || dv8Units best ≤ u) then b else best) 0
        let rank := (codes.filter (fun b => dv8Units b < dv8Units lo)).length
        -- twice the distance from lo, compared with the gap
        let two := 2 * (u - dv8Units lo)
        let gap := dv8Units hi - dv8Units lo
        let half :=
          if two + 1 < gap then 0
          else if two > gap || (two = gap && more) then 2
          else if two = gap then 1
          else -- two + 1 = gap: the part below one unit decides
            if x.e ≥ -18 then 0
            else if 2 * r > 2 ^ d || (2 * r = 2 ^ d && x.sticky) then 2
            else if 2 * r = 2 ^ d then 1 else 0
        let pick := if roundUpMag mode x.neg (rank % 2 = 1) half false then hi else lo
        if pick = 0 then 0 else withSign .dv8 x.neg pick

/-- ROUND of an exact finite number into a format: the code, and whether it overflowed (03 R60, R61). -/
def roundNumOv (t : FTy) (mode : Rnd) (nanovf : Bool) (x : Num) : Nat × Bool :=
  match t with
  | .dv8 =>
    let d := (-18 - x.e).toNat
    let u := if x.e ≥ -18 then x.m * 2 ^ (x.e + 18).toNat else x.m / 2 ^ d
    let more := x.sticky || (x.e < -18 && x.m % 2 ^ d ≠ 0)
    (roundDv8 x mode nanovf, u > 65536 * 2 ^ 18 || (u = 65536 * 2 ^ 18 && more))
  | _ =>
    let top : Int := x.e + (bitLen x.m : Int) - 1
    let q := if x.m = 0 then t.qmin else max (top - t.fbits) t.qmin
    let r := roundToPlace x mode q
    let mag := (q - t.qmin).toNat * 2 ^ t.fbits + r
    if mag > t.maxCode then (overflowCode t mode nanovf x.neg, true) else (withSign t x.neg mag, false)

/-- ROUND(x, T, mode) for a value that may be infinite or a NaN (03 R51, R60, R61, R62). -/
def roundF (t : FTy) (mode : Rnd) (nanovf : Bool) (v : FVal) : Nat :=
  match v with
  | .nan => t.nanCode
  | .inf s =>
    match t.infCode with
    | some ic => withSign t s ic
    | none => if nanovf then t.nanCode else withSign t s t.maxCode
  | .fin x => (roundNumOv t mode nanovf x).1

/-! ### Exact arithmetic on values -/

/-- Zero with a sign. -/
def fzero (neg : Bool) : FVal := .fin ⟨neg, 0, 0, false⟩

/-- The sign-inverted value. -/
def fneg : FVal → FVal
  | .nan => .nan
  | .inf s => .inf (!s)
  | .fin x => .fin { x with neg := !x.neg }

/-- The exact product (07 R155). -/
def fmul : FVal → FVal → FVal
  | .nan, _ => .nan
  | _, .nan => .nan
  | .inf s, .inf r => .inf (s != r)
  | .inf s, .fin x => if x.m = 0 then .nan else .inf (s != x.neg)
  | .fin x, .inf s => if x.m = 0 then .nan else .inf (s != x.neg)
  | .fin x, .fin y => .fin ⟨x.neg != y.neg, x.m * y.m, x.e + y.e, false⟩

/-- The exact sum; `rdn` says that an exact zero sum of unlike signs is −0 (03 R60). -/
def faddR (rdn : Bool) : FVal → FVal → FVal
  | .nan, _ => .nan
  | _, .nan => .nan
  | .inf s, .inf r => if s = r then .inf s else .nan
  | .inf s, .fin _ => .inf s
  | .fin _, .inf s => .inf s
  | .fin x, .fin y =>
    if x.m = 0 && y.m = 0 then fzero (if x.neg = y.neg then x.neg else rdn)
    else
      let e := min x.e y.e
      let a : Int := (x.m * 2 ^ (x.e - e).toNat : Nat)
      let b : Int := (y.m * 2 ^ (y.e - e).toNat : Nat)
      let s := (if x.neg then -a else a) + (if y.neg then -b else b)
      if s = 0 then fzero rdn else .fin ⟨s < 0, s.natAbs, e, false⟩

/-- The quotient, with enough bits and a sticky remainder (07 R155). -/
def fdiv : FVal → FVal → FVal
  | .nan, _ => .nan
  | _, .nan => .nan
  | .inf _, .inf _ => .nan
  | .inf s, .fin y => .inf (s != y.neg)
  | .fin x, .inf s => fzero (x.neg != s)
  | .fin x, .fin y =>
    let s := x.neg != y.neg
    if y.m = 0 then (if x.m = 0 then .nan else .inf s)
    else if x.m = 0 then fzero s
    else
      let k := 80 + bitLen y.m
      let n := x.m * 2 ^ k
      .fin ⟨s, n / y.m, x.e - y.e - k, n % y.m ≠ 0⟩

/-- The integer square root, one bit at a time from bit `k - 1` down. -/
def isqrtGo : Nat → Nat → Nat → Nat
  | 0, _, r => r
  | k + 1, n, r => isqrtGo k n (if (r + 2 ^ k) * (r + 2 ^ k) ≤ n then r + 2 ^ k else r)

/-- `⌊√n⌋`. -/
def isqrt (n : Nat) : Nat := isqrtGo (bitLen n / 2 + 1) n 0

/-- The square root, with enough bits and a sticky remainder (07 R155). -/
def fsqrt : FVal → FVal
  | .nan => .nan
  | .inf s => if s then .nan else .inf false
  | .fin x =>
    if x.m = 0 then .fin x
    else if x.neg then .nan
    else
      let m := if x.e % 2 = 0 then x.m else 2 * x.m
      let e := if x.e % 2 = 0 then x.e else x.e - 1
      let n := m * 2 ^ 160
      let r := isqrt n
      .fin ⟨false, r, e / 2 - 80, r * r ≠ n⟩

/-- The order of two finite or infinite values as integers at a common place, −0 and +0 equal. -/
def fcmpFin (x y : Num) : Int :=
  let e := min x.e y.e
  let a : Int := (x.m * 2 ^ (x.e - e).toNat : Nat)
  let b : Int := (y.m * 2 ^ (y.e - e).toNat : Nat)
  (if x.neg then -a else a) - (if y.neg then -b else b)

/-- `a < b` and `a = b`, false with a NaN (07 R156). -/
def flt : FVal → FVal → Bool
  | .nan, _ => false
  | _, .nan => false
  | .inf s, .inf r => s && !r
  | .inf s, .fin _ => s
  | .fin _, .inf r => !r
  | .fin x, .fin y => fcmpFin x y < 0
def feq : FVal → FVal → Bool
  | .nan, _ => false
  | _, .nan => false
  | .inf s, .inf r => s = r
  | .inf _, .fin _ => false
  | .fin _, .inf _ => false
  | .fin x, .fin y => fcmpFin x y = 0

/-- The sign of a value. -/
def FVal.sign : FVal → Bool
  | .nan => false
  | .inf s => s
  | .fin x => x.neg

/-- Whether `a` lies below `b` with −0 below +0; neither is a NaN (07 R156). -/
def fbelow (a b : FVal) : Bool := flt a b || (feq a b && a.sign && !b.sign)

/-- Whether a value is a NaN, an infinity, or zero. -/
def FVal.isNan : FVal → Bool
  | .nan => true
  | _ => false
def FVal.isInf : FVal → Bool
  | .inf _ => true
  | _ => false
def FVal.isZero : FVal → Bool
  | .fin x => x.m = 0
  | _ => false

/-- `x · 2 ^ k`, exact. -/
def fscale (k : Int) : FVal → FVal
  | .fin x => .fin { x with e := x.e + k }
  | v => v

/-! ### FP32 in round-to-nearest: the adds and products of 03 R64 to R67 -/

/-- The value of an FP32 code. -/
def f32Val (c : Nat) : FVal := decodeF .f32 c

/-- FP32 sums and products of codes under rne. -/
def addF32 (a b : Nat) : Nat := roundF .f32 .rne false (faddR false (f32Val a) (f32Val b))
def mulF32 (a b : Nat) : Nat := roundF .f32 .rne false (fmul (f32Val a) (f32Val b))

/-- One level of TREE_SUM over a list, padded with −0 to even length. -/
def treeLevel : List Nat → List Nat
  | [] => []
  | [a] => [addF32 a 0x80000000]
  | a :: b :: l => addF32 a b :: treeLevel l

/-- TREE_SUM levels until one value stands; `fuel` bounds the levels. -/
def treeGo : Nat → List Nat → List Nat
  | 0, l => l
  | k + 1, l => if l.length ≤ 1 then l else treeGo k (treeLevel l)

/-- TREE_SUM of 03 R64 over FP32 codes. The padding of R64 adds −0 to the right of every level; a level whose right half is
all padding gives −0 again, so padding each level to even length adds the same values (a sum of a list of one value is that value). -/
def treeSum (l : List Nat) : Nat :=
  match l with
  | [] => 0
  | _ => (treeGo 16 l).headD 0

/-! ### Conversions -/

/-- ROUND_INT: an exact value rounded to an integer in the mode, and its sign (03 R58, R63). -/
def roundInt (mode : Rnd) (x : Num) : Int :=
  let r : Int := (roundToPlace x mode 0 : Nat)
  if x.neg then -r else r

/-- VCVT.FTOI of one value: NaN gives 0, infinities the end of the range, else SAT of the rounded value (03 R63). -/
def ftoi (t : Ty) (mode : Rnd) : FVal → Nat
  | .nan => 0
  | .inf s => wrapInt t.width (if s then intMin t else intMax t)
  | .fin x => wrapInt t.width (satInt t (roundInt mode x))

/-- The exact value of an integer. -/
def fOfInt (x : Int) : FVal := .fin ⟨x < 0, x.natAbs, 0, false⟩

/-- The 32 element codes and the scale of CVT_MX (03 R57). -/
def cvtMx (t : FTy) (mode : Rnd) (nanovf : Bool) (xs : List FVal) : List Nat × Nat :=
  let mags : List Num := xs.filterMap (fun v => match v with | .fin x => some x | _ => none)
  if mags.length ≠ xs.length then (xs.map (fun _ => 0), 0xFF)
  else
    let nz := mags.filter (fun x => x.m ≠ 0)
    let emax : Int := match t with | .e2m1 => 2 | _ => 8
    -- the largest ⌊log₂|x|⌋ is ⌊log₂ M⌋
    let lg := nz.map (fun x => x.e + (Nat.log2 x.m : Int))
    let sc : Int := match lg with
      | [] => 127
      | a :: l => max 0 (min 254 ((l.foldl max a) - emax + 127))
    let rs := mags.map (fun x => (roundNumOv t mode false { x with e := x.e + (127 - sc) }))
    if nanovf && rs.any (·.2) then (xs.map (fun _ => 0), 0xFF)
    else (rs.map (·.1), sc.toNat)

/-- Lists cut into pieces of `n`, at most `fuel` of them. -/
def chunks {α : Type} (n : Nat) : Nat → List α → List (List α)
  | 0, _ => []
  | k + 1, l => if l.isEmpty then [] else l.take n :: chunks n k (l.drop n)

/-- The payload of MX blocks: all elements, then the scales (03 R55). -/
def mxPayload (t : Ty) (blocks : List (List Nat × Nat)) : Bytes :=
  let el := (blocks.map (·.1)).flatten
  (if t = .mx4 then packNibbles el else el.map (BitVec.ofNat 8)) ++ blocks.map (fun b => BitVec.ofNat 8 b.2)

/-- The bytes of the elements of one MX block. -/
def mxBytes (t : Ty) : Nat := if t = .mx4 then 16 else 32

/-- The number of blocks of an MX payload, at least one, at most 7 or 3 (03 R55). -/
def mxBlocks (t : Ty) (bs : Bytes) : Nat := max 1 (min (if t = .mx4 then 7 else 3) (bs.length / (mxBytes t + 1)))

/-- An MX element times its scale; a scale of 0xFF is a NaN (03 R54, R56). -/
def mxScaled (t : Ty) (code scale : Nat) : FVal :=
  if scale = 0xFF then .nan else fscale ((scale : Int) - 127) (decodeF t.fty code)

/-- Element `e` of an MX payload of `k` blocks (03 R55, R56). -/
def mxElem (t : Ty) (bs : Bytes) (k e : Nat) : FVal :=
  let code := if t = .mx4 then nibbleAt bs e else (byteAt bs e).toNat
  mxScaled t code (byteAt bs (mxBytes t * k + e / 32)).toNat

/-- SKETCH of 03 R58: the 128 nibbles packed and the FP32 scale, 68 bytes. -/
def sketchOf (mode : Rnd) (xs : List FVal) : Bytes :=
  let xs := xs.take 128
  let mags : List Num := xs.filterMap (fun v => match v with | .fin x => some x | _ => none)
  if mags.length ≠ xs.length then zeros 64 ++ leBytes 4 0x7FC00000
  else
    let mx := mags.foldl (fun a x => if fcmpFin { a with neg := false } { x with neg := false } < 0 then x else a)
      ⟨false, 0, 0, false⟩
    let q := roundF .f32 mode false (fdiv (.fin { mx with neg := false }) (.fin ⟨false, 7, 0, false⟩))
    let n := mags.map (fun x =>
      if (f32Val q).isZero then 0
      else match fdiv (.fin x) (f32Val q) with
        | .fin y => wrapInt 4 (max (-7) (min 7 (roundInt mode y)))
        | _ => 0)
    let nb := packNibbles n
    nb ++ zeros (64 - nb.length) ++ leBytes 4 q

end Sys2Proof.Machine
end

