-- ==== Sys2Proof/Config.lean ====
section
/-! DEFINITION. What one implementation fixes, and the free values: constants without a body, so that nothing can be
proved of what they are. -/

namespace Sys2Proof.Config

/-- The choice of what takes place in a cycle among what may (log entry 1): the bits of the number name the things that do. -/
opaque pick : Nat → Nat

/-- The cycles that pass, beyond one, before something takes effect again (log entry 2). -/
opaque stepCycles : Nat → Nat

/-- The time, in units of 100 ns, by which a packet has aged when a router takes it in hand (14 R298, log entry 2). -/
opaque hopAge : Nat → Nat

/-- Whether the training that a port has started completes, and the views of a link that its two ends send: width, lanes, speed
(14 R299, log entry 8). -/
opaque trains : Nat → Nat → Nat → Bool
opaque linkView : Nat → Nat → Nat → Nat × Nat × Nat

/-- The flits that a link has resent after CRC errors when it has taken a packet, or asks to retrain (14 R315, log entry 8). -/
opaque crcResends : Nat → Nat

/-- Whether global link `k` from a group to another is up, of the links that do not end at this package (14 R300, log entry 4). -/
opaque globalLinkUp : Nat → Nat → Nat → Nat → Bool

/-- The mappings beyond the first that the table area of a die holds (20 R409 map, log entry 67). -/
opaque tablePages : Nat → Nat

/-- The first incarnation of a die: 20 R417 takes it from the die's random source (log entry 8). -/
opaque firstIncarnation : Nat → Nat → BitVec 8

/-- The fuse image of die `d`: 16-byte serial (20 R416), log entry 9. -/
opaque fuseSerial : Nat → Bytes

/-- The fused digest of the patch-signing key, 32 bytes (20 R414), log entry 9. -/
opaque fuseKeyDigest : Nat → Bytes

/-- The fused minimum of the security version at first power-up (20 R414), log entry 9. -/
opaque fuseSecurityMin : Nat → Nat

/-- The fused defect map: physical rows marked bad (01 R10), log entry 9. -/
opaque fuseBadRows : Nat → List Nat

/-- The rest of the fuse image that 20 R416 digests, log entry 9. -/
opaque fuseImage : Nat → Bytes

/-- The identity public key, 64 bytes, and Dvorilo's signature over it, 64 bytes (20 R416), log entry 9. -/
opaque identityKey : Nat → Bytes
opaque dvoriloSignature : Nat → Bytes

/-- The identity signature over a digest (20 R416): the private key is in no register (log entry 9). -/
opaque identitySign : Nat → Bytes → Bytes

/-- The version of the control ROM (20 R414, R416), log entry 9. -/
opaque romVersion : BitVec 16

/-- The length of the control ROM in bytes (20 R414), log entry 9. -/
opaque romLength : Nat

/-- Whether training of the LPDDR6 channels succeeds at power-up (20 R417), log entry 8. -/
opaque channelsTrain : Nat → Nat → Bool

/-- The transport's choices (15 R317, R319, R323): the entropy value of a packet that is sent, which of the packets of an RUD message that may
be sent goes next, and which of those not acknowledged is sent again; log entry 21. -/
opaque netEntropy : Nat → Nat
opaque netNext : Nat → Nat
opaque netAgain : Nat → Nat

/-- The bytes that the checkpoint of a region takes, by its tiles and islands on a die (17 R357, R358), log entry 34. -/
opaque checkpointBytes : Nat → Nat → Nat

/-- The bytes that a save takes on a die, by its tiles and islands, within the bound of 18 R380; and the item count and items of a section
of kinds 4 to 9, whose layout the spec does not give, by kind, unit and step (18 R380), log entry 34. -/
opaque saveBytes : Nat → Nat → Nat
opaque saveSection : Nat → Nat → Nat → Nat × Bytes

/-- The outstanding count of a phase in the other packages of a region (06 R134), log entry 4. -/
opaque outsidePhase : Nat → Nat → Int

end Sys2Proof.Config
end

