-- ==== Sys2Proof/Machine/State.lean ====
section
/-! DEFINITION. The state of the machine as plain data: everything that the spec gives one package of eight dies, the events
that are due, and the state right after power-up. A field's docstring names the rule of spec/ that gives it. -/

namespace Sys2Proof.Machine

/-! ### Memory -/

/-- Memory: the bytes that differ from 0, in strictly rising order of their addresses. An address that is not listed reads 0
(log entry 3). -/
abbrev Memory := List Host.Cell

/-- What an address that is not listed reads as (log entry 3). -/
def memDefault : Byte := 0

/-- The byte at an address. -/
def Memory.get : Memory → Nat → Byte
  | [], _ => memDefault
  | (k, v) :: m, a => if k = a then v else Memory.get m a

/-- A byte put at its place in the order of addresses. -/
def Memory.put : Memory → Nat → Byte → Memory
  | [], a, v => [(a, v)]
  | (k, w) :: m, a, v =>
    if k = a then (a, v) :: m
    else if a < k then (a, v) :: (k, w) :: m
    else (k, w) :: Memory.put m a v

/-- The memory with one byte written, in canonical form. -/
def Memory.set (m : Memory) (a : Nat) (v : Byte) : Memory :=
  if v = memDefault then m.filter (fun c => c.1 ≠ a) else Memory.put m a v

/-- The canonical form: addresses strictly rising, no byte equal to the default. -/
def Memory.wf : Memory → Bool
  | [] => true
  | (_, v) :: [] => v ≠ memDefault
  | (k, v) :: (j, w) :: m => v ≠ memDefault && k < j && Memory.wf ((j, w) :: m)

/-- `n` bytes from an address upward. -/
def Memory.getN (m : Memory) (a n : Nat) : Bytes := (List.range n).map (fun i => Memory.get m (a + i))

/-- A run of bytes written from an address upward. -/
def Memory.setN : Memory → Nat → Bytes → Memory
  | m, _, [] => m
  | m, a, b :: bs => Memory.setN (Memory.set m a b) (a + 1) bs

/-! ### Firings and held effects -/

/-- A complete set at a station of a resident block, and what the firing needs of its surroundings (04 R74, R75). `joined` are the phases
of the tokens that a JOINALL's side B counts; `watched` says that the set is consumed and its access is not tested against the watch filter again (19 R389);
`parts` is the number of parts of the access that the firing issued; `stopped` says that the set was completed during a precise stop and is still to be delivered to the
firing rule (19 R387). `since` is the cycle in which the set became complete (07 R142); `held` says that it was offered and not
issued, so that it holds back no other set (10 R203). -/
structure Firing where
  die : Nat := 0
  tile : Nat := 0
  slot : Nat := 0
  station : Nat := 0
  block : Nat := 0
  region : Nat := 0
  inst : Nat := 0
  tokA : Option Token := none
  tokB : Option Token := none
  desc : Bytes := []
  joined : List (BitVec 8) := []
  watched : Bool := false
  parts : Nat := 0
  stopped : Bool := false
  since : Nat := 0
  held : Bool := false
  deriving DecidableEq, Repr

/-- A step that may come next: an event that is due, or a set that stands ready. -/
inductive Choice where
  | event (e : Event)
  | set (fi : Firing)
  deriving DecidableEq, Repr

/-- A firing whose tokens are still to be emitted: the firing and its station's fields. -/
structure Job where
  fi : Firing := {}
  f : Fields
  deriving DecidableEq, Repr

/-- A global access, formed and checked, ready to be issued (10 R203, R205): the byte runs that it loads, in order of the result, or
the bytes that it stores, or its atomic or barrier operation; the length of its result, its credit barrier and its scope; for RMT and RREL the
release channel and the ring direction. -/
structure Access where
  job : Job
  major : Nat
  minor : Nat
  loads : List (Nat × Nat) := []
  writes : List (Nat × Bytes) := []
  op : Option (Nat × MemOp) := none
  size : Nat := 0
  credit : BitVec 64 := 0
  scope : Nat := 0
  rc : Nat := 0
  ring : Nat := 0
  deriving DecidableEq, Repr

/-- The copy that a streamer performs (10 R224, R225). -/
structure CopyReq where
  job : Job
  minor : Nat
  src : BitVec 64
  dst : BitVec 64
  len : Nat
  rows : Nat
  sstride : Nat
  dstride : Nat
  credit : BitVec 64
  pattern : Bytes
  dsp : Option Nat
  streamer : Nat
  ctx : Nat
  serial : Nat := 0
  row : Nat := 0
  col : Nat := 0
  piece : Nat := 0
  busy : Bool := false
  rid : Nat := 0
  tries : Nat := 0
  since : Nat := 0
  deriving DecidableEq, Repr

/-- A held effect of an open block pass (05 R103). `src` names the station that sent a token; `rel` says that the token leaves only
when the accesses of its block pass are visible (06 R138). -/
inductive Effect where
  | chan (c : Nat) (t : Token) (rel : Bool) (src : Nat)
  | exit (x : Nat) (t : Token) (rel : Bool) (target src : Nat)
  | stl (j : Job) (writes : List (Nat × Bytes)) (ef : Bool)
  | store (a : Access)
  | copy (c : CopyReq)
  | rst (a : Access)
  | spawn (j : Job) (kids : List Arrival)
  deriving DecidableEq, Repr

/-- An exit token that reached its exit in the cycle under way (05 R105): the exit's number, the token as an effect, and whether the pass's
held effects are kept (05 R107). -/
structure ExitTok where
  exit : Nat
  eff : Effect
  keep : Bool
  deriving DecidableEq, Repr

/-- One frame's pass through one block on one tile (05 R103). `exits` are its exit tokens of the cycle under way (05 R105). -/
structure Pass where
  id : Nat
  frame : BitVec 64
  block : Nat
  quota : Nat
  handler : Bool
  held : List Effect := []
  exits : List ExitTok := []
  deriving DecidableEq, Repr

/-- Effects on their way out of the commit buffer, oldest first (05 R105). `waiting` says that the first, an STL, stands in the wait
list (08 R172). -/
structure Drain where
  inst : Nat
  effects : List Effect
  waiting : Bool := false
  deriving DecidableEq, Repr

/-! ### Tiles -/

/-- Tile kinds (01 R15, 05 R95). -/
inductive TileKind where
  | none | ag | cp | rd
  deriving DecidableEq, Repr

/-- A configuration slot is free, loading or resident (05 R101). -/
inductive SlotState where
  | free | loading | resident
  deriving DecidableEq, Repr

/-- A configuration slot (05 R101, R115) with its histogram bins (19 R391): bin `b` of station `n` at key `16 n + b`. -/
structure Slot where
  st : SlotState := .free
  ctx : Nat := 0
  block : Nat := 0
  words : List (BitVec 32) := []
  sides : List (BitVec 64) := []
  desc : Bytes := []
  firedAt : Nat := 0
  hist : NMap Nat := []
  deriving DecidableEq, Repr

/-- An entry of the matching store (04 R77). `inst` 0 means that the token has not been admitted to a block pass yet (05 R103);
`more` are the phases of the further tokens that a JOINALL's side B counts in this entry (06 R138). -/
structure Entry where
  place : Place
  tok : Token
  outside : Bool
  trap : Bool := false
  inst : Nat := 0
  more : List (BitVec 8) := []
  src : Nat := 0
  deriving DecidableEq, Repr

/-- A token in the tile's slice of the spill region: its spill sequence number and slot (bucket × 5 + slot), where its record lies
(04 R82, R83), and what the record does not hold of where it came from. -/
structure Spilled where
  seq : BitVec 32
  slot : Nat
  inst : Nat
  outside : Bool
  trap : Bool
  src : Nat
  deps : List Nat
  seen : Nat
  deriving DecidableEq, Repr

/-- An entry of the wait list (08 R170): a load, or the STL at the head of a drain. -/
structure Waiting where
  job : Job
  writes : List (Nat × Bytes) := []
  reads : List Nat := []
  size : Nat := 1
  qual : Nat := 0
  drain : Option Nat := none
  deriving DecidableEq, Repr

/-- What a reply slot waits for (10 R203). -/
inductive ReplyKind where
  | data
  | atomic
  | barrier
  | barwait (scope : Nat)
  | status
  | drain
  | remote
  | netWait (c : Nat) (t : Nat)
  | netFence (msgs : List Nat)
  | relopen (ch : Nat)
  | relwait (ch : Nat)
  | weights (island : Nat)
  deriving DecidableEq, Repr

/-- A reply slot of an AG tile (10 R203): the parts not yet returned, the bytes gathered so far, the bytes of its own pass's held
stores that lie over them (05 R104), the highest level of a reply (11 R424). `tries` counts the resends of 14 R298; `pkts` are its
packets, for a resend. -/
structure Reply where
  job : Job
  kind : ReplyKind
  major : Nat
  minor : Nat := 0
  serial : Nat
  left : List Nat := []
  buf : Bytes := []
  own : List (Nat × Byte) := []
  level : BitVec 32 := 0
  tries : Nat := 0
  pkts : List Packet := []
  since : Nat := 0
  deriving DecidableEq, Repr

/-- A request part in the request port (10 R203). `gate` names the parts that must be performed first (09 R187); `l1` says what it
does with the L1: 0 nothing, 1 it reads a present line, 2 it reads or installs a line, 3 the same with the fabric cache, 4 it updates a
present line, 5 it drops a line (08 R181, 10 R209); `seen` is that of its firing. -/
structure Part where
  pkt : Packet
  gate : List Nat := []
  l1 : Nat := 0
  seen : Nat := 0
  deriving DecidableEq, Repr

/-- An access of a tile that has not completed (10 R208, R218): the parts that its tokens wait for, and the parts not yet performed. -/
structure Out where
  serial : Nat
  inst : Nat
  job : Job
  tokens : Bool
  left : List Nat
  unseen : List Nat
  copy : Bool := false
  deriving DecidableEq, Repr

/-- An ORDER or JOIN firing that waits for earlier accesses (10 R218, 06 R138). -/
structure OrderWait where
  job : Job
  serials : List Nat
  scope : Nat
  acquire : Bool
  fence : Bool
  kind : Kind
  pay : Bytes
  tag : Tag
  deriving DecidableEq, Repr

/-- A key slot that is not free, with its tag (13 R264): its 256 bytes, its 68-byte sketch and the sketch bound E. -/
structure KeySlot where
  streaming : Bool := false
  handle : Nat := 0
  pos : Nat := 0
  d : Nat := 0
  firstOfPair : Bool := true
  vo : Nat := 0
  data : Bytes := []
  sketch : Bytes := []
  present : Bool := false
  err : Nat := 0
  deriving DecidableEq, Repr

/-- A line of an L1 (08 R179): its address in lines, its bytes, the level of the last write to each of its units (11 R424). `stale` is the
number of the first store performed by another agent that the line does not show: a load that is ordered after that store misses it
(11 R234). -/
structure L1Line where
  line : Nat
  bytes : Bytes
  stale : Option Nat := none
  levels : List Nat := []
  deriving DecidableEq, Repr

/-- A register of a tile: a state, weight-scale or address register (01 R14, R15). -/
inductive RegName where
  | s (k : Nat)
  | w (k : Nat)
  | a (k : Nat)
  deriving DecidableEq, Repr

/-- A register write of the cycle under way, by a station (05 R109, 07 R144). -/
structure RegWrite where
  station : Nat
  reg : RegName
  off : Nat
  bytes : Bytes
  deriving DecidableEq, Repr

/-- One tile (01 R14, R15). `regNext` are the register writes of the cycle under way, in the order of their firings. `seen` is the highest `seen` of its scratchpad accesses (11 R232 rule 2). `trapAt` is the cycle of its last synchronous trap and the tile of its handler (18 R383). -/
structure Tile where
  kind : TileKind := .none
  region : Nat := 0
  lastCtx : Option Nat := none
  clearing : Bool := false
  trapAt : Option (Nat × Nat) := none
  position : Nat := 0
  sregs : List Bytes := List.replicate 8 (List.replicate 128 0)
  wregs : List Bytes := List.replicate 16 (List.replicate 32 0x7F)
  aregs : List (BitVec 64) := List.replicate 16 0
  regNext : List RegWrite := []
  spad : Memory := []
  full : List Nat := []
  entries : List Entry := []
  spillBuf : List Arrival := []
  latch : Option Arrival := none
  spillSeq : BitVec 32 := 0
  spilled : List Spilled := []
  filter : List Nat := []
  mstat : BitVec 64 := 0
  slots : List Slot := List.replicate 8 {}
  ages : NMap Nat := []
  passes : List Pass := []
  drains : List Drain := []
  waitList : List Waiting := []
  fwd : List (List Nat) := []
  spadStat : BitVec 64 := 0
  l1 : List L1Line := []
  l1Skip : List Nat := []
  replies : NMap Reply := []
  port : List Part := []
  outs : List Out := []
  orders : List OrderWait := []
  agqStat : BitVec 64 := 0
  soNum : NMap Nat := []
  keys : NMap KeySlot := []
  kqueue : List (Nat × Nat × Job) := []
  kstat : BitVec 64 := 0
  spawns : List ((BitVec 64 × Nat) × Nat) := []
  channels : NMap (BitVec 64) := []
  chanFree : NMap Nat := []
  chanSparse : List Nat := []
  watchStat : BitVec 64 := 0
  sent : Nat := 0
  recv : Nat := 0
  sregWriter : NMap (BitVec 64 × Nat) := []
  seen : Nat := 0
  deriving DecidableEq, Repr

/-! ### Matrix islands -/

/-- A B bank (12 R243, R251, R258): its type, none when it is empty; the stored values, the scales and the metadata of the island's
own columns, column after column. -/
structure Bank where
  ty : Ty := .none
  sparse : Bool := false
  kp : Nat := 0
  kb : Nat := 0
  vals : Bytes := []
  scales : Bytes := []
  metas : Bytes := []
  deriving DecidableEq, Repr

/-- A command of an island (12 R250). -/
inductive IslOp where
  | rows (rs : List (Nat × Bytes)) (ty : Ty) (sparse : Bool)
  | load (ty : Ty) (sparse : Bool) (kp kb nb nEl : Nat)
  | metas (kp nb : Nat)
  | scale (f : Nat) (bs : Bytes)
  | mend (g0 m n : Nat)
  | drain
  | init (g0 m : Nat)
  | add (g0 seg : Nat) (b : Bytes)
  | read (g0 seg : Nat)
  | save (g0 m : Nat)
  | put (g0 seg n : Nat) (b : Bytes)
  deriving DecidableEq, Repr

/-- A command in a port of a lead island (12 R244): the tile and the channel that it came by, and the data that a weights command
waits for. `todo` are the rows of a gather still to be read, each with its scratchpad offset (12 R252); `here` says that the command has
reached the entry (12 R247). -/
structure IslCmd where
  id : Nat
  job : Job
  port : Nat
  tile : Nat
  chan : Nat
  op : IslOp
  data : Bytes := []
  ready : Bool := true
  todo : List (Nat × Nat) := []
  here : Bool := false
  level : BitVec 32 := 0
  deriving DecidableEq, Repr

/-- A pending end of reduction (12 R255). -/
structure PendEnd where
  g0 : Nat
  m : Nat
  n : Nat
  job : Job
  deriving DecidableEq, Repr

/-- The update of a row on its way to its accumulator node: for each column the rounded chunk sums (12 R247, R253). -/
structure RowUpd where
  row : Nat
  terms : List (List Nat)
  deriving DecidableEq, Repr

/-- A token that an island releases (12 R256); `last` ends a pending entry. -/
structure RelTok where
  job : Job
  iter : Nat
  payload : Bytes
  last : Bool
  deriving DecidableEq, Repr

/-- A matrix island (12 R243, R262). The commands, the row transfer under way, the blocked MEND and the open sparse transfer of a group
stand at its lead. `stat` holds ROWS, MODE, OVER and META. -/
structure Island where
  region : Nat := 0
  ctx : Nat := 0
  lead : Nat := 0
  rows : Nat := 1
  cols : Nat := 1
  active : Bank := {}
  loading : Bank := {}
  acc : NMap (List Nat) := []
  count : NMap Nat := []
  pend : List PendEnd := []
  stat : BitVec 64 := 0
  flight : List RowUpd := []
  outq : List RelTok := []
  cmds : List IslCmd := []
  lock : Option Nat := none
  blocked : Option Nat := none
  busy : Bool := false
  held : Bool := false
  rampHeld : Bool := false
  deriving DecidableEq, Repr

/-- The ramp limiter of a die (20 R412): `ctl` and `ceil` are RAMP_CTL and the CEIL last written, `eff` what holds in this window (20 R419),
`count` the entry cycles of the
window under way, `last` and `empty` those of the last window, `held` says that an entry was held in this window, `hist` in which of the
last 1000, `since` the cycle at which the window began. -/
structure Ramp where
  ctl : BitVec 64 := BitVec.ofNat 64 (197600 * 2 ^ 32 + 4096 * 2 ^ 16 + 4096)
  eff : BitVec 64 := BitVec.ofNat 64 (197600 * 2 ^ 32 + 4096 * 2 ^ 16 + 4096)
  ceil : Nat := 197600
  count : Nat := 0
  last : Nat := 0
  empty : Nat := 0
  held : Bool := false
  hist : List Bool := []
  since : Nat := 0
  fcst : BitVec 64 := 0
  deriving DecidableEq, Repr

/-! ### Chitis (14) -/

/-- The states of a link (14 R299). -/
inductive LinkState where
  | up | retrain | confirm | failed | down
  deriving DecidableEq, Repr

/-- A port of a die and its outgoing link: LINKSTAT (14 R315), and the free counts that the sender keeps of the slots of the link's
other end (14 R297): `shared`, and those of reserved and escape slots that are not at their full count. `view` is the view that the port
has sent, the confirmed one while the link is up; `since` the cycle at which its training began. -/
structure Link where
  st : LinkState := .down
  since : Nat := 0
  view : LinkView := ⟨0, 0, 0⟩
  attempts : Nat := 0
  crcErr : Nat := 0
  shared : Nat := 32
  reserved : NMap Nat := []
  escape : NMap Nat := []
  deriving DecidableEq, Repr

/-- The states of a send entry (14 R303). -/
inductive SendState where
  | opened | flagged | done | aborted
  deriving DecidableEq, Repr

/-- A send entry (14 R302, R303): its count, its resends, the flag or release atomic that was sent, the resends of its abort and whether
it was answered, the highest level of its writes (11 R424), the cycle at which its timer was set. -/
structure SendEntry where
  dst : Nat
  ctx : Nat
  rc : Nat
  epoch : Nat
  st : SendState := .opened
  count : Nat := 0
  resends : Nat := 0
  flag : Option Packet := none
  abortPkt : Option Packet := none
  abortResends : Nat := 0
  answered : Bool := false
  level : BitVec 48 := 0
  since : Nat := 0
  deriving DecidableEq, Repr

/-- The states of a receive entry (14 R304). -/
inductive RecvState where
  | counting | waiting | done | aborted
  deriving DecidableEq, Repr

/-- A receive entry (14 R302, R304): `bits` are the indices that have arrived; `reply` answers a repeated request of a done entry. -/
structure RecvEntry where
  st : RecvState := .counting
  arrivals : Nat := 0
  bits : List Nat := []
  held : Option Packet := none
  gaps : Nat := 0
  reply : Option Packet := none
  since : Nat := 0
  deriving DecidableEq, Repr

/-- A release channel of a context on a die: its open epoch and the cycle of its last RELOPEN (14 R312). -/
structure RelChan where
  epoch : Nat
  openedAt : Nat
  deriving DecidableEq, Repr

/-! ### The network engine (15) -/

/-- An accepted message (15 R321, R323): the fields of its work request, the packets sent, the indices acknowledged or placed, whether
its post's completion token is still owed, the packets that the transport can send again. `ghost` says that a rollback has undone its
post, which has not run again (17 R360). -/
structure NetMsg where
  job : Job
  ctx : Nat
  num : BitVec 32
  write : Bool
  lsp : Bool
  ord : Bool
  notify : Bool
  lnc : Nat
  ep : Nat
  window : Nat
  addr : Nat
  roff : BitVec 64
  length : Nat
  credit : BitVec 64
  tag : BitVec 64
  sent : Nat := 0
  acked : List Nat := []
  tokens : Bool := true
  ghost : Bool := false
  out : List NetPacket := []
  deriving DecidableEq, Repr

/-- A message on its way in (15 R324): its sender, its number, the window entry on which it was judged, the indices placed. -/
structure NetIn where
  peer : Nat
  ctx : Nat
  msg : BitVec 32
  window : Nat
  entry : Bytes
  placed : List Nat := []
  deriving DecidableEq, Repr

/-- An update of a completion counter that is due (15 R326, R327): `fin` is the local message that it ends, `place` the endpoint, or the
window of a notify increment. -/
structure NetUpd where
  ctx : Nat
  counter : Nat
  fail : Bool
  num : BitVec 32
  place : Nat
  notify : Bool
  fin : Bool
  cause : Nat := 0
  stalled : Bool := false
  deriving DecidableEq, Repr

/-- The network engine of a die (15 R318, R323, R333): its configuration, the outstanding messages and the updates that are due by
number, the messages on their way in, the senders' messages that are over, the counts of NET_STAT. -/
structure Net where
  cfg : Bytes := []
  up : Bool := false
  msgs : NMap NetMsg := []
  upds : NMap NetUpd := []
  ins : List NetIn := []
  past : List (Nat × Nat × BitVec 32) := []
  stat : BitVec 64 := 0
  out : List NetPacket := []
  deriving DecidableEq, Repr

/-! ### The grammar engine (16) -/

/-- A request to a grammar engine (16 R342): its minor, whether its slot was valid when it was sent, its operands. -/
structure GramReq where
  job : Job
  minor : Nat
  valid : Bool
  a : Bytes
  b : Bytes
  deriving DecidableEq, Repr

/-- The grammar engine of a die (16 R342, R343): the requests that wait; the lines of the mask cache by context, slot and line address;
the bits and the misses of GRAM_STAT. -/
structure Gram where
  queue : List GramReq := []
  cache : List (Nat × Nat × Nat) := []
  stat : BitVec 64 := 0
  deriving DecidableEq, Repr

/-! ### Regions and launches -/

/-- A lease range of a launch (09 R190): base, size, writable; `kind` 0 a lease entry, 1 the image, 2 a window, 3 the spill region. -/
structure LeaseRange where
  base : Nat
  size : Nat
  w : Bool
  kind : Nat := 0
  deriving DecidableEq, Repr

/-- The fields of a launch record and its tables (06 R123 to R126) once they are read and checked. `active` are the ranges that are
confirmed (09 R192), `waitLevel` the done level of the wait barrier, `slot`, `since` and `failPage` belong to the residency slot
(09 R193). -/
structure Launch where
  id : Nat
  ctx : Nat
  die : Nat
  queue : Nat
  head : BitVec 32
  irq : Bool
  record : Bytes := []
  image : Nat := 0
  blocks : Nat := 0
  blockTable : Nat := 0
  dataOff : Nat := 0
  imgSize : Nat := 0
  levels : List (BitVec 16) := []
  leases : List LeaseRange := []
  windows : NMap (Nat × Nat) := []
  kinds : NMap (List Nat) := []
  islands : NMap (List Nat) := []
  channels : NMap (List (BitVec 64)) := []
  tokens : List (Nat × Bytes) := []
  spillBase : Nat := 0
  spillLog : Nat := 0
  doneBar : Nat := 0
  mode : Nat := 0
  fuse : Bool := false
  dies : List Nat := []
  pkgFirst : Nat := 0
  pkgCount : Nat := 1
  tag : BitVec 64 := 0
  slot : Option Nat := none
  since : Nat := 0
  failPage : Nat := 0
  waitLevel : Option (BitVec 32) := none
  active : List LeaseRange := []
  deriving DecidableEq, Repr

/-- A running region (05 R95, 06 R123): its launch, and what quiescence needs: the totals of the last wave, the last sums and the
closed phases, the cycle of the last wave or sum; `joining` says that it is quiescent and its done barrier's answer is awaited (06 R135); the highest level among its accesses (11 R424). -/
structure Region where
  launch : Launch
  tiles : List TileId := []
  islands : List (Nat × Nat) := []
  lastWave : Option (Nat × Nat) := none
  lastSums : NMap Int := []
  joining : Bool := false
  closed : List Nat := []
  since : Nat := 0
  level : BitVec 32 := 0
  deriving DecidableEq, Repr

/-! ### Contexts -/

/-- The states of a context (18 R366). -/
inductive CtxState where
  | free | idle | running | halted | preempting | saved | ended
  deriving DecidableEq, Repr

/-- A pending-trap entry (18 R371). `acc` is the access that a watch fault keeps back (19 R389). -/
structure Pending where
  index : Nat
  code : Nat
  sync : Bool
  stopping : Bool
  job : Option Job := none
  acc : Option Access := none
  deriving DecidableEq, Repr

/-- A mapped page (09 R185, R186): its virtual base and its descriptor. -/
structure PageMap where
  va : Nat
  desc : BitVec 64
  deriving DecidableEq, Repr

/-- The Accession Ring of a context on a die (17 R350, R353 to R355) and the shadow pool's registers (17 R357). `redo` is the range of
records that a rollback at RECORD enforces (17 R360); `since` the cycle at which the head record became the head; `failed` the record
whose divergence has been raised; `marked` whether a boundary has been taken since the last change of LEVEL. -/
structure Ring where
  base : BitVec 64 := 0
  size : BitVec 64 := 16
  head : BitVec 64 := 0
  tail : BitVec 64 := 0
  commit : BitVec 64 := 0
  shdBase : BitVec 64 := 0
  shdSize : BitVec 64 := 21
  redo : Option (Nat × Nat) := none
  since : Nat := 0
  movedAt : Nat := 0
  failed : Option Nat := none
  marked : Bool := false
  highPosted : Bool := false
  lowPosted : Bool := false
  deriving DecidableEq, Repr

/-- The observation registers of a context on a die (19 R385, R388). -/
structure Obs where
  ctl : BitVec 64 := BitVec.ofNat 64 (10000 * 2 ^ 32)
  catBase : BitVec 64 := 0
  catSize : BitVec 64 := 16
  catHead : BitVec 64 := 0
  catTail : BitVec 64 := 0
  histBase : BitVec 64 := 0
  histSize : BitVec 64 := 0
  hangBase : BitVec 64 := 0
  hangSize : BitVec 64 := 0
  filter : List Nat := []
  deriving DecidableEq, Repr

/-- A plain access that an owner has performed on an 8-byte unit in the current interval (11 R236, R237). -/
structure UnitAccess where
  unit : Nat
  stamp : Stamp
  write : Bool
  deriving DecidableEq, Repr

/-- An end of a context that waits for a handler (18 R383): the handler's tile, the handlers to come there, the die where the end arose, the
code of a CTXEND or a kill, the record of an ending fault. -/
structure HeldEnd where
  handler : TileId
  left : Nat
  die : Nat
  code : Nat
  record : Option Bytes
  deriving DecidableEq, Repr

/-- A context as a whole (18 R365, R366). `heldEnd` is an end that waits for a handler; `interval` the interval number (17 R358), `intv` the ACCN.INTV firings that wait for a boundary;
with what they emit, `brk` the DBG.BRK firings that emit when the context resumes (19 R400); `reruns` the reruns of the interval in
succession (11 R238), 256 once they have halted the context; `cause` the cause of the rollback that is due, its die and frame; `badLines`
the lines with an uncorrectable error in the interval (17 R361); `hangSince` the cycle at which the hang interval began, `hangMark` the
totals then. -/
structure Ctx where
  st : CtxState := .free
  mode : BitVec 64 := 0
  created : Nat := 0
  dies : List Nat := []
  fcReader : Bool := false
  heldEnd : Option HeldEnd := none
  interval : Nat := 0
  intv : List (Job × Bytes) := []
  brk : List (Job × Bytes) := []
  reruns : Nat := 0
  cause : Nat × Nat × Nat := (0, 0, 0)
  badLines : List Nat := []
  hangSince : Nat := 0
  hangMark : Nat × Nat := (0, 0)
  deriving DecidableEq, Repr

/-- A record, but for its die and run (17 R351). -/
structure LogRec where
  typ : Nat
  unit : Nat
  index : Nat
  frame : BitVec 64 := 0
  seq : Nat := 0
  detail : Nat := 0
  run : Nat := 0
  deriving DecidableEq, Repr

/-- What a context holds on one die (18 R365). `logNext` are the records of the cycle under way (17 R352), `catNext` those of the Catalogue, each with its place in the order of R352 (19 R393). `gpins` are the ranges of the images of its valid grammar slots (16 R336). -/
structure CtxDie where
  status : BitVec 64 := 0
  trape : List (BitVec 64) := List.replicate 32 0
  pending : NMap Pending := []
  save : BitVec 64 := 0
  saveSz : BitVec 64 := 0
  pages : List PageMap := []
  pins : List (Nat × Nat) := []
  sent : Nat := 0
  recv : Nat := 0
  phases : NMap Int := []
  ring : Ring := {}
  logNext : List LogRec := []
  catNext : List (Nat × Bytes) := []
  obs : Obs := {}
  copies : NMap Memory := []
  atoms : NMap (BitVec 64 × Nat) := []
  unitLevels : NMap (BitVec 32) := []
  history : List UnitAccess := []
  heldUnits : List UnitAccess := []
  endpoints : NMap Bytes := []
  windows : NMap Bytes := []
  ncnt : NMap (BitVec 64) := []
  msgNo : BitVec 32 := 0
  netDone : List (BitVec 32) := []
  gslots : NMap (BitVec 64) := []
  gpins : NMap (List (Nat × Nat)) := []
  deriving DecidableEq, Repr

/-! ### Dies -/

/-- A work queue's registers and its age (06 R128, R129); `asked` says that its head's waiter has been sent, `met` is the done level
that its answer brought; `taken` counts the launches that its context has taken from it in the interval under way (17 R360). -/
structure Queue where
  base : BitVec 64 := 0
  ctl : BitVec 64 := 0x0000000001100000
  head : BitVec 32 := 0
  tail : BitVec 32 := 0
  age : Nat := 0
  asked : Bool := false
  met : Option (BitVec 32) := none
  taken : Nat := 0
  deriving DecidableEq, Repr

/-- A round-robin pointer of the queue unit and the launches its queue has had in a row (06 R129). -/
structure Turn where
  queue : Nat := 0
  served : Nat := 0
  deriving DecidableEq, Repr

/-- Curator's rings on one die (20 R405, R411); `kept` are the events and `cplKept` the completions, each with its address, that wait to be written; `busy` is the command
that it performs (20 R408), `rungAt` one more than the cycle of the last doorbell that brought commands (20 R419). -/
structure Rings where
  cq : BitVec 64 := 6
  chead : BitVec 32 := 0
  ctail : BitVec 32 := 0
  rungAt : Nat := 0
  cpl : BitVec 64 := 0
  eq : BitVec 64 := 8
  ehead : BitVec 32 := 0
  etail : BitVec 32 := 0
  lost : Nat := 0
  kept : List Bytes := []
  cplKept : List (Nat × Bytes) := []
  busy : Option Command := none
  deriving DecidableEq, Repr

/-- The boot registers of a die and what is in force there (20 R414, R417, R418): BOOT_STAT, BOOT_PATCH, the applied patch table's digest and
security version, its entries as ROM offset and bytes, the fused minimum of the security version as it was raised; the remap of the mesh: the
physical row of each logical row, and the good rows that are powered down (01 R10). -/
structure Boot where
  stat : BitVec 64 := 0
  patch : BitVec 64 := 0
  digest : Option Bytes := none
  version : Nat := 0
  rom : List (Nat × Bytes) := []
  secMin : Option Nat := none
  rows : List Nat := []
  rowsOff : List Nat := []
  deriving DecidableEq, Repr

/-- One die (01 R7). -/
structure Die where
  boot : Boot := {}
  rings : Rings := {}
  queues : NMap Queue := []
  turns : NMap Turn := []
  bsched : BitVec 64 := 8
  aspCtl : BitVec 64 := 0x6400
  tlb : List (Nat × Nat × Nat) := []
  resSlots : NMap Nat := []
  waiters : List (Nat × Packet) := []
  soNext : List ((Nat × Nat) × Nat) := []
  fcache : List ((Nat × Nat) × Bytes) := []
  fcSkip : List Nat := []
  streams : NMap (List CopyReq) := []
  accCtl : BitVec 64 := 5000
  tbk : List (BitVec 64) := List.replicate 4 0
  tbf : List (BitVec 64) := List.replicate 4 0
  frozen : Bool := false
  memord : BitVec 64 := 0x100
  stalled : List Packet := []
  inc : BitVec 8 := 0
  incs : NMap (BitVec 8) := []
  ramp : Ramp := {}
  links : NMap Link := []
  cctl : BitVec 64 := BitVec.ofNat 64 (80 * 2 ^ 40 + 50 * 2 ^ 16 + 20)
  cstat : BitVec 64 := 0
  sends : List SendEntry := []
  recvs : List (GroupKey × RecvEntry) := []
  copies : List Packet := []
  relChans : NMap RelChan := []
  net : Net := {}
  gram : Gram := {}
  deriving DecidableEq, Repr

/-! ### The machine -/

/-- An operation that waits for drain tokens (09 R197): the parts that its tokens follow, and what takes place when all have
arrived: an ASPACE firing's job, or a Curator command. -/
structure DrainOp where
  id : Nat
  ctx : Nat
  base : Nat
  len : Nat
  waits : List Nat
  job : Option Job := none
  kindTo : Option Nat := none
  cmd : Option Command := none
  deriving DecidableEq, Repr

/-- What a checkpoint holds of a context (17 R358), or its save (18 R380): its regions and launches, their tiles and islands, its ready
sets, its events; for a checkpoint also what its dies hold of it, the release tables, the outstanding messages, the streams, the
waiters and the queues, each with its die. -/
structure Snapshot where
  st : CtxState := .idle
  regions : NMap Region := []
  launches : NMap Launch := []
  tiles : NMap Tile := []
  islands : NMap Island := []
  ready : List Firing := []
  events : List Event := []
  cds : NMap CtxDie := []
  sends : List (Nat × SendEntry) := []
  recvs : List (Nat × (GroupKey × RecvEntry)) := []
  copies : List (Nat × Packet) := []
  relChans : List (Nat × (Nat × RelChan)) := []
  msgs : List (Nat × (Nat × NetMsg)) := []
  upds : List (Nat × (Nat × NetUpd)) := []
  soNext : List (Nat × ((Nat × Nat) × Nat)) := []
  waiters : List (Nat × (Nat × Packet)) := []
  queues : List (Nat × (Nat × Queue)) := []
  drainOps : List DrainOp := []
  intv : List (Job × Bytes) := []
  brk : List (Job × Bytes) := []
  deriving DecidableEq, Repr

/-- A saved context (18 R379 to R382): its on-chip state, the state in which it resumes, the replies that have reached each die's
mailbox, in order. -/
structure Save where
  snap : Snapshot := {}
  cstate : CtxState := .running
  mail : List (Nat × Packet) := []
  deriving DecidableEq, Repr

/-- The package, the events that are due, the sets that stand ready, and the firing or event that the step performs (`cur`, `ev`).
`batch` is what the cycle under way still holds, in the order in which the spec has things of one cycle take effect (log entry 44); `touched`
are the tiles with register writes or exit tokens of this cycle.
`outbound` are the packets that have left the package, or gone to the host die, `outTokens` the tokens for tiles of other packages
(log entry 4).
`overfull` says that a firing would hold more effects than its pass's quota (05 R103). `snaps` are the checkpoints and `saves` the saved
states of contexts; `stores` counts the stores performed (11 R234); `pwrCap` is the host's ceiling, `powers` the last measurements, newest first, `raised` the measurements since CEIL
was last changed (20 R413). -/
structure State where
  ticks : Nat := 0
  cycles : Nat := 0
  nextId : Nat := 1
  pkg : Nat := 0
  agenda : List Event := []
  ready : List Firing := []
  cur : Firing := {}
  ev : Event := .powerUp
  batch : List Choice := []
  touched : List TileId := []
  overfull : Bool := false
  tiles : NMap Tile := []
  islands : NMap Island := []
  dies : NMap Die := []
  ctxs : NMap Ctx := []
  ctxDies : NMap CtxDie := []
  regions : NMap Region := []
  launches : NMap Launch := []
  drainOps : List DrainOp := []
  snaps : NMap Snapshot := []
  saves : NMap Save := []
  pwrCap : Nat := 7200
  powers : List Nat := []
  raised : Nat := 0
  stores : Nat := 0
  outbound : List Packet := []
  outTokens : List Arrival := []
  mem : Memory := []
  hostMem : Memory := []
  deriving DecidableEq, Repr

/-- The machine right after power is applied: every field at its reset value, the power-up step due (20 R417, log entry 7). -/
def State.reset : State := { agenda := [.powerUp] }

/-! ### Why a step can stop -/

/-- The faults of the model: it has none. 00 R4 leaves no behaviour of the S4 open, so no step stops; the faults of the spec are taken
(18 R371), an access without a mapping ends in the fault that 09 R188 names, an address past the end of LPDDR6 in the status or
fault of its request (09 R185, 20 R409). Safe: no state is left out by a stop. -/
inductive Fault where
  deriving DecidableEq, Repr

/-- Why an instruction has no meaning in the model. -/
inductive Refusal where
  /-- Raised by an arm of the dispatch whose instruction is not modelled yet. Safe: nothing is claimed of it. -/
  | notModelled (mnemonic : String)
  deriving DecidableEq, Repr

end Sys2Proof.Machine
end

