-- ==== Sys2Proof/Machine/Ops.lean ====
section
/-! DEFINITION. The named operations over the state: parts of the state, memory and translation, events due, the counters of
quiescence, Curator's event ring, raising a fault and releasing a trap (18 R371, R375). -/

namespace Sys2Proof.Machine

/-! ### Parts of the state -/

/-- The key of a tile, and of a context on a die. -/
def tileKey (t : TileId) : Nat := t.die * 1024 + t.tile
def cdKey (ctx die : Nat) : Nat := ctx * 8 + die

/-- A tile, and the state with a tile changed. -/
def State.tile (s : State) (t : TileId) : Tile := NMap.getD s.tiles (tileKey t) {}
def State.setTile (s : State) (t : TileId) (x : Tile) : State := { s with tiles := NMap.put s.tiles (tileKey t) x }
def State.modTile (s : State) (t : TileId) (g : Tile → Tile) : State := s.setTile t (g (s.tile t))

/-- The key of an island; an island, and the state with it changed. -/
def islKey (d k : Nat) : Nat := d * 128 + k
def State.island (s : State) (d k : Nat) : Island := NMap.getD s.islands (islKey d k) {}
def State.modIsland (s : State) (d k : Nat) (g : Island → Island) : State :=
  { s with islands := NMap.put s.islands (islKey d k) (g (s.island d k)) }

/-- A die, and the state with a die changed. -/
def State.die (s : State) (d : Nat) : Die := NMap.getD s.dies d {}
def State.modDie (s : State) (d : Nat) (g : Die → Die) : State := { s with dies := NMap.put s.dies d (g (s.die d)) }

/-- A context, and the state with a context changed. -/
def State.ctx (s : State) (c : Nat) : Ctx := NMap.getD s.ctxs c {}
def State.modCtx (s : State) (c : Nat) (g : Ctx → Ctx) : State := { s with ctxs := NMap.put s.ctxs c (g (s.ctx c)) }

/-- What a context holds on a die, and the state with it changed. -/
def State.cd (s : State) (c d : Nat) : CtxDie := NMap.getD s.ctxDies (cdKey c d) {}
def State.modCd (s : State) (c d : Nat) (g : CtxDie → CtxDie) : State :=
  { s with ctxDies := NMap.put s.ctxDies (cdKey c d) (g (s.cd c d)) }

/-- A region, and the state with a region changed. -/
def State.region? (s : State) (r : Nat) : Option Region := NMap.find s.regions r
def State.modRegion (s : State) (r : Nat) (g : Region → Region) : State := { s with regions := NMap.alter s.regions r g }

/-- The region of a tile. -/
def State.regionOf (s : State) (t : TileId) : Option Region := s.region? (s.tile t).region

/-- The context of a region; 0 where there is none. -/
def State.regionCtx (s : State) (r : Nat) : Nat := ((s.region? r).map (·.launch.ctx)).getD 0

/-- The context of a tile's region. -/
def State.ctxOf (s : State) (t : TileId) : Nat := s.regionCtx (s.tile t).region

/-- The determinism level of a context: 0 FREE, 1 ORDERED, 2 RECORD, 3 REPLAY (17 R345). -/
def State.level (s : State) (c : Nat) : Nat := fieldOf (s.ctx c).mode 0 2

/-- A fresh number. -/
def State.fresh (s : State) : Nat × State := (s.nextId, { s with nextId := s.nextId + 1 })

/-- The tile of a firing, and its identity. -/
def Firing.at_ (fi : Firing) : TileId := ⟨fi.die, fi.tile⟩

/-- A sticky bit of CTX_STATUS set in a die's copy (18 R367). -/
def State.setStatus (s : State) (c d bit : Nat) : State :=
  s.modCd c d (fun x => { x with status := withBit x.status bit })

/-- The key under which the timers of an entry stand. -/
def SendEntry.key (e : SendEntry) : GroupKey :=
  ⟨BitVec.ofNat 13 e.dst, 0, BitVec.ofNat 12 e.ctx, BitVec.ofNat 8 e.rc, BitVec.ofNat 8 e.epoch⟩

/-! ### Events due -/

/-- An event put at the end of the agenda. -/
def State.post (s : State) (e : Event) : State := { s with agenda := s.agenda ++ [e] }

/-- An event put into the agenda unless it stands there already. -/
def State.due (s : State) (e : Event) : State := if e ∈ s.agenda then s else s.post e

/-- A set that stands ready. -/
def State.addReady (s : State) (fi : Firing) : State := { s with ready := s.ready ++ [fi] }

/-- A set that was offered and not issued: it stays ready and is offered again (10 R203). -/
def State.offerAgain (s : State) (fi : Firing) : State := s.addReady { fi with held := true }

/-- The events of the agenda that meet a test, taken out. -/
def State.dropEvents (s : State) (p : Event → Bool) : State := { s with agenda := s.agenda.filter (fun e => !p e) }

/-! ### The counters of quiescence (06 R132, R134) -/

/-- `n` tokens of a phase sent by a tile. -/
def State.countSent (s : State) (t : TileId) (phase : BitVec 8) (n : Nat) : State :=
  let s := s.modTile t (fun x => { x with sent := x.sent + n })
  -- a phase of which a token is sent is open (06 R134)
  let s := s.modRegion (s.tile t).region (fun r => { r with closed := r.closed.filter (· ≠ phase.toNat) })
  s.modCd (s.ctxOf t) t.die (fun x =>
    let k := phase.toNat
    { x with phases := NMap.put x.phases k (NMap.getD x.phases k 0 + n) })

/-- `n` tokens of a phase received by a tile. -/
def State.countRecv (s : State) (t : TileId) (phase : BitVec 8) (n : Nat) : State :=
  let s := s.modTile t (fun x => { x with recv := x.recv + n })
  s.modCd (s.ctxOf t) t.die (fun x =>
    let k := phase.toNat
    { x with phases := NMap.put x.phases k (NMap.getD x.phases k 0 - n) })

/-- A message of a phase sent, or received, by an engine or memory side of a die (06 R132, R134). -/
def State.dieSent (s : State) (c d : Nat) (phase : BitVec 8) : State :=
  s.modCd c d (fun x =>
    let k := phase.toNat
    { x with sent := x.sent + 1, phases := NMap.put x.phases k (NMap.getD x.phases k 0 + 1) })
def State.dieRecv (s : State) (c d : Nat) (phase : BitVec 8) : State :=
  s.modCd c d (fun x =>
    let k := phase.toNat
    { x with recv := x.recv + 1, phases := NMap.put x.phases k (NMap.getD x.phases k 0 - 1) })

/-- The phases of a set's tokens; a JOINALL set holds its counted tokens (06 R138). -/
def Firing.phases (fi : Firing) : List (BitVec 8) :=
  (fi.tokA.map (·.tag.phase)).toList ++ (if fi.joined.isEmpty then (fi.tokB.map (·.tag.phase)).toList else fi.joined)

/-- The tokens of a set consumed, each under its own phase: a firing, an absorption or a discard (04 R87, 06 R134). A set that a
watch fault has consumed is not consumed again. -/
def State.consume (s : State) (fi : Firing) : State :=
  if fi.watched then s else fi.phases.foldl (fun s ph => s.countRecv fi.at_ ph 1) s

/-! ### Addresses, pages and physical memory (09 R183 to R188) -/

/-- The bytes of a die's LPDDR6: 384 GiB (01 R7, 09 R185). -/
def dieBytes : Nat := 384 * 2 ^ 30

/-- The key of a physical byte of a die in the one memory list. -/
def physKey (die pa : Nat) : Nat := die * 2 ^ 39 + pa

/-- The package, the die and the owner field of a virtual address (09 R183). -/
def vaPkg (va : Nat) : Nat := va / 2 ^ 54 % 1024
def vaDie (va : Nat) : Nat := va / 2 ^ 51 % 8
def vaOwner (va : Nat) : Nat := va / 2 ^ 51 % 8192

/-- The size of a page by its SIZE code (09 R186). -/
def pageSize (code : Nat) : Nat := if code = 0 then 2 ^ 16 else if code = 1 then 2 ^ 21 else 2 ^ 30

/-- The fields of a page descriptor (09 R186). -/
def pdValid (d : BitVec 64) : Bool := bitN d.toNat 63
def pdSize (d : BitVec 64) : Nat := pageSize (fieldOf d 61 2)
def pdKind (d : BitVec 64) : Nat := fieldOf d 59 2
def pdW (d : BitVec 64) : Bool := bitN d.toNat 58
def pdAttrw (d : BitVec 64) : Bool := bitN d.toNat 57
def pdPin (d : BitVec 64) : Bool := bitN d.toNat 56
def pdLeased (d : BitVec 64) : Bool := bitN d.toNat 55
def pdIw (d : BitVec 64) : Bool := bitN d.toNat 54
def pdPa (d : BitVec 64) : Nat := fieldOf d 16 23 * 2 ^ 16

/-- The mapped page of a context on its owner die that holds an address. A descriptor whose range does not lie in the die's LPDDR6
maps nothing (09 R185). -/
def State.page? (s : State) (c va : Nat) : Option PageMap :=
  if vaPkg va ≠ s.pkg then none
  else (s.cd c (vaDie va)).pages.find? (fun p =>
    pdValid p.desc && p.va ≤ va && va < p.va + pdSize p.desc && pdPa p.desc + pdSize p.desc ≤ dieBytes)

/-- The physical key of a context's address (09 R188). -/
def State.phys? (s : State) (c va : Nat) : Option Nat :=
  (s.page? c va).map (fun p => physKey (vaDie va) (pdPa p.desc + (va - p.va)))

/-- One byte of a context's memory; an unmapped address reads zero. -/
def State.readByte (s : State) (c va : Nat) : Byte :=
  match s.phys? c va with
  | some k => Memory.get s.mem k
  | none => 0

/-- `n` bytes of a context's memory. -/
def State.readVa (s : State) (c va n : Nat) : Bytes := (List.range n).map (fun i => s.readByte c (va + i))

/-- Whether `n` bytes from an address are all mapped. -/
def State.mappedVa (s : State) (c va n : Nat) : Bool :=
  n = 0 || ((List.range n).all (fun i => (s.page? c (va + i)).isSome))

/-- A byte of a context's memory written; the page's IW bit is set (09 R186). An unmapped address takes nothing. -/
def State.writeByte (s : State) (c va : Nat) (b : Byte) : State :=
  match s.page? c va with
  | none => s
  | some p =>
    let k := physKey (vaDie va) (pdPa p.desc + (va - p.va))
    let s := { s with mem := Memory.set s.mem k b }
    if pdIw p.desc then s
    else s.modCd c (vaDie va) (fun x =>
      { x with pages := x.pages.map (fun q => if q = p then { q with desc := withBit q.desc 54 } else q) })

/-- A run of bytes written to a context's memory. -/
def State.writeVa (s : State) (c va : Nat) (bs : Bytes) : State :=
  (bs.zipIdx).foldl (fun s p => s.writeByte c (va + p.2) p.1) s

/-- The KIND of the page of an address: 0 SO, 1 RC, 2 UN (09 R186); unmapped addresses count as SO. -/
def State.kindAt (s : State) (c va : Nat) : Nat := ((s.page? c va).map (fun p => pdKind p.desc)).getD 0

/-! ### Curator's event ring (20 R405, R411) -/

/-- The place of an event in host memory. -/
def eventAddr (r : Rings) (i : Nat) : Nat := fieldOf r.eq 12 52 * 2 ^ 12 + 32 * (i % 2 ^ fieldOf r.eq 0 4)

/-- Whether the event ring is full. -/
def Rings.full (r : Rings) : Bool := (r.etail - r.ehead).toNat ≥ 2 ^ fieldOf r.eq 0 4

/-- Whether Curator reaches the host's memory: a host link has not failed (01 R8, 20 R405). -/
def State.hostOpen (s : State) : Bool :=
  [0, 4].any (fun d => (NMap.getD (s.die d).links 6 {}).st ≠ .failed)

/-- An event written into the ring, kept while the ring is full or the host cannot be reached (log entry 64), or dropped (20 R411). -/
def State.curEvent (s : State) (die typ ctx datum : Nat) (detail : Bytes) : State :=
  let bs : Bytes := [BitVec.ofNat 8 typ, 0] ++ leBytes 2 (s.pkg * 8 + die) ++ leBytes 2 ctx ++ [0, 0] ++
    leBytes 8 datum ++ sliceB detail 0 16
  let r := (s.die die).rings
  if s.hostOpen && !r.full && r.kept.isEmpty then
    let s := { s with hostMem := Memory.setN s.hostMem (eventAddr r r.etail.toNat) bs }
    s.modDie die (fun d => { d with rings := { d.rings with etail := d.rings.etail + 1 } })
  else if r.kept.length < 256 then
    s.modDie die (fun d => { d with rings := { d.rings with kept := d.rings.kept ++ [bs] } })
  else s.modDie die (fun d => { d with rings := { d.rings with lost := min 0xFFFF (d.rings.lost + 1) } })

/-! ### The Catalogue (19 R393, R394) -/

/-- The code of a kind (04 R70). -/
def kindCode : Kind → Nat
  | .value => 0 | .thread => 1 | .key => 2 | .query => 3 | .control => 4

/-- The kind of the site that writes a Catalogue record (17 R351): a launch is taken by the queue unit, a message fails at the network engine, a
region's end and a hang map are the control core's, all others are a tile's. -/
def catSite (typ : Nat) : Nat :=
  match typ with
  | 5 => 2
  | 7 => 4
  | 6 | 8 => 5
  | _ => 0

/-- A Catalogue record of the cycle: type, code, tile, station and slot, block, tag, launch tag and 24 data bytes. It is written as the
cycle ends (19 R393). -/
def State.catalogueAt (s : State) (c d typ code tile station block : Nat) (g : Tag) (tag : BitVec 64) (data : Bytes) : State :=
  if !bitN (s.cd c d).obs.ctl.toNat 3 then s
  else
    let bs := [BitVec.ofNat 8 typ, BitVec.ofNat 8 code] ++ leBytes 2 tile ++ leBytes 2 (s.pkg * 8 + d)
      ++ [BitVec.ofNat 8 station, BitVec.ofNat 8 (kindCode g.kind + (if g.pred then 8 else 0) + (if g.null then 16 else 0))]
      ++ leBytes 8 g.frame.toNat ++ leBytes 2 c ++ leBytes 2 g.iter.toNat ++ [g.phase, 0]
      ++ leBytes 2 block ++ leBytes 8 s.cycles ++ leBytes 8 tag.toNat ++ sliceB data 0 24
    s.modCd c d (fun x => { x with
      catNext := x.catNext ++ [((catSite typ * 1024 + (if catSite typ = 0 then tile else 0)) * 256 + typ, bs)] })

/-- A Catalogue record dropped (19 R393): LOST rises, saturating. -/
def Obs.lose (o : Obs) : Obs := { o with catSize := withField o.catSize 32 32 (min (2 ^ 32 - 1) (fieldOf o.catSize 32 32 + 1)) }

/-! ### Where a request stands at its owner -/

/-- The L2 slice of a physical address (10 R206). -/
def sliceOf (pa : Nat) : Nat := pa / 256 % 48

/-- The bytes that an operation touches at its address. -/
def opSpan : MemOp → Nat
  | .load n _ => n
  | .store bs => bs.length
  | .atomic _ size _ _ _ => size
  | .barInit .. | .barJoin _ | .barWait _ | .credit _ => 64
  | .flag bs => bs.length
  | _ => 0

/-- The physical key of a request's address: translated for its context, or as it stands for a host packet with P set (20 R404). -/
def State.pktKey (s : State) (d : Nat) (p : Packet) : Option Nat :=
  if p.phys then
    let a := p.addr.toNat % 2 ^ 51
    if a + opSpan p.op ≤ dieBytes then some (physKey d a) else none
  else if vaDie p.addr.toNat = d then s.phys? p.ctx.toNat p.addr.toNat else none

/-- The slice of a request; one without a mapping stands with the slice of its virtual address. -/
def State.sliceAt (s : State) (d : Nat) (p : Packet) : Nat := sliceOf (((s.pktKey d p).getD p.addr.toNat) % 2 ^ 39)

/-! ### Blocks, exits and sides of an image (02 R47, 05 R97, R98) -/

/-- The address of a block's record in its image (02 R47). -/
def blockAddr (l : Launch) (b : Nat) : Nat := l.image + l.blockTable + 448 * b

/-- The fields of a block descriptor (05 R97). -/
def dExits (d : Bytes) : Nat := (byteAt d 0).toNat
def dMask (d : Bytes) : Nat := (byteAt d 1).toNat
def dQuota (d : Bytes) : Nat := (byteAt d 2).toNat
def dCol0 (d : Bytes) : Nat := (byteAt d 4).toNat
def dCol1 (d : Bytes) : Nat := (byteAt d 5).toNat
def dRow0 (d : Bytes) : Nat := (byteAt d 6).toNat
def dRow1 (d : Bytes) : Nat := (byteAt d 7).toNat
def dExit (d : Bytes) (k : Nat) : Nat := numAt d (8 + 4 * k) 4
def dImage (d : Bytes) : Nat := numAt d 0x28 4
def dArc (d : Bytes) (k : Nat) : Nat := (byteAt d (0x2C + k)).toNat

/-- Whether a tile lies within a block's bounds (05 R97). -/
def inBounds (d : Bytes) (tile : Nat) : Bool :=
  dCol0 d ≤ tile % 32 && tile % 32 ≤ dCol1 d && dRow0 d ≤ tile / 32 && tile / 32 ≤ dRow1 d

/-- Whether a station's word and side entry make a token side of side A, or B: the station is not empty and the source select is
00 (02 R23, R24, R38). -/
def sideIsToken (w : BitVec 32) (e : BitVec 64) (sideB : Bool) : Bool :=
  (w ≠ 0 || e ≠ 0) && (if sideB then fieldOf w 22 2 = 0 else fieldOf w 24 2 = 0)

/-- Whether a block of an image, read from memory, has a token side at `d`: station `d / 2`, side `d % 2`. -/
def State.imageSide (s : State) (l : Launch) (b d : Nat) : Bool :=
  let base := blockAddr l b
  let w := BitVec.ofNat 32 (leNat (s.readVa l.ctx (base + 4 * (d / 2)) 4))
  let e := BitVec.ofNat 64 (leNat (s.readVa l.ctx (base + 128 + 8 * (d / 2)) 8))
  sideIsToken w e (d % 2 = 1)

/-- The descriptor of a block, read from its image. -/
def State.imageDesc (s : State) (l : Launch) (b : Nat) : Bytes := s.readVa l.ctx (blockAddr l b + 384) 64

/-! ### Taking a fault (18 R369 to R374) -/

/-- A fault as it is raised: its index and code, whether a firing raised it, its detail and operand excerpt. -/
structure FaultInfo where
  index : Nat
  code : Nat := 0
  sync : Bool := true
  ctx : Nat
  die : Nat
  tile : Option Nat := none
  region : Nat := 0
  job : Option Job := none
  named : Option (Nat × Nat) := none
  block : Nat := 0xFFFF
  detail : Bytes := []
  operand : Bytes := []
  acc : Option Access := none
  deriving DecidableEq, Repr

/-- The class of a fault (18 R369). -/
inductive FaultClass where
  | cont | stop | ends
  deriving DecidableEq, Repr
def faultClass (index code : Nat) : FaultClass :=
  if index = 1 || index = 9 then .ends
  else if index = 10 || index ≥ 16 then .cont
  else if index = 6 && code = 1 then .cont
  else .stop

/-- The 32-byte fault record (18 R372). -/
def faultRecord (s : State) (fi : FaultInfo) (flags gen entry : Nat) : Bytes :=
  let st : Nat := match fi.named, fi.job with
    | some (slot, station), _ => slot * 32 + station
    | none, some j => if fi.sync then j.fi.slot * 32 + j.fi.station else 0
    | none, none => 0
  let blk : Nat := match fi.job with
    | some j => j.fi.block
    | none => fi.block
  [BitVec.ofNat 8 fi.index, BitVec.ofNat 8 fi.code, BitVec.ofNat 8 flags, BitVec.ofNat 8 st]
    ++ leBytes 2 (fi.tile.getD 0 + fi.die * 1024) ++ leBytes 2 s.pkg ++ leBytes 2 blk ++ leBytes 2 gen
    ++ leBytes 4 (entry + (s.pkg * 8 + fi.die) * 64) ++ sliceB fi.detail 0 16

/-- The fields of a trap-table entry (18 R370). -/
def teV (e : BitVec 64) : Bool := bitN e.toNat 63
def teStay (e : BitVec 64) : Bool := bitN e.toNat 62
def teBlock (e : BitVec 64) : Nat := fieldOf e 32 16
def teD (e : BitVec 64) : Nat := fieldOf e 26 6
def teTile (e : BitVec 64) : Nat := fieldOf e 16 10
def teGen (e : BitVec 64) : Nat := fieldOf e 0 16

/-- The tiles of a region on one die in tile order (06 R124). -/
def Region.tilesOn (r : Region) (die : Nat) : List Nat := (r.tiles.filter (·.die = die)).map (·.tile)

/-- The region that a fault belongs to: its own, or the context's first with a tile on the die. -/
def State.faultRegion (s : State) (fi : FaultInfo) : Option Region :=
  match s.region? fi.region with
  | some r => some r
  | none => (s.regions.find? (fun p => p.2.launch.ctx = fi.ctx && !(p.2.tilesOn fi.die).isEmpty)).map (·.2)

/-- The tile that a fault's handler runs on (18 R371). -/
def State.handlerTile (s : State) (fi : FaultInfo) (e : BitVec 64) : Option Nat :=
  if !teStay e then some (teTile e)
  else match fi.tile with
    | some t => some t
    | none => (s.faultRegion fi).bind (fun r => (r.tilesOn fi.die).head?)

/-- Whether an entry can be used, and the handler's tile (18 R374). -/
def State.usableEntry (s : State) (fi : FaultInfo) (e : BitVec 64) : Option Nat :=
  match s.faultRegion fi, s.handlerTile fi e with
  | some r, some t =>
    if teV e && teBlock e < r.launch.blocks && (r.tiles.contains ⟨fi.die, t⟩)
      && inBounds (s.imageDesc r.launch (teBlock e)) t && s.imageSide r.launch (teBlock e) (teD e)
    then some t else none
  | _, _ => none

/-- The context halted (18 R373). -/
def State.halt (s : State) (c : Nat) : State :=
  s.modCtx c (fun x => if x.st = .running then { x with st := .halted } else x)

/-- The tiles of a context, by the regions that hold them. -/
def State.ctxTiles (s : State) (c : Nat) : List TileId :=
  (s.regions.filter (fun p => p.2.launch.ctx = c)).flatMap (fun p => p.2.tiles)

/-- Whether an event of the agenda acts on one of some tiles alone. -/
def onTiles (ts : List TileId) (e : Event) : Bool :=
  match e with
  | .tokenArrival a => ts.contains a.at_
  | .spillProbeDone t | .spillRefill t | .schedulerDecision t | .instanceAdmit t | .commitDrain t
  | .fullEmptyWaitPerform t | .forwardingRetire t | .agPortIssue t | .orderConditionMet t
  | .keystoreCompletion t => ts.contains t
  | .blockLoadDone t _ | .barwaitRetry t _ | .requestTimeoutResend t _ | .relopenSpacingExpiry t _ => ts.contains t
  | _ => false

/-- The SO stream numbers of a tile whose parts in the request port are dropped: those parts bear the last numbers (11 R230). -/
def Tile.soBack (x : Tile) : NMap Nat :=
  x.port.foldl (fun m p => match p.pkt.soNum with
    | some n => NMap.put m p.pkt.to_.toNat (min n (NMap.getD m p.pkt.to_.toNat n))
    | none => m) x.soNum

/-- A tile freed at step 2 of 06 R135: its stores emptied, its scratchpad to be cleared (08 R167), its caches dropped. The registers
keep their contents until the tile is typed for another context (07 R146). -/
def freeTile (x : Tile) : Tile :=
  { ({} : Tile) with
    lastCtx := x.lastCtx, sregs := x.sregs, wregs := x.wregs, aregs := x.aregs,
    spad := x.spad, full := x.full, clearing := true, soNum := x.soBack, watchStat := x.watchStat,
    mstat := x.mstat &&& 3, spadStat := x.spadStat &&& 3, agqStat := x.agqStat &&& 3, kstat := x.kstat &&& 7 }

/-- A lease range's pages unmarked, unless another range of the context covers them (09 R192). -/
def State.dropLeases (s : State) (c : Nat) (gone : List LeaseRange) : State :=
  let still := (s.regions.filter (fun p => p.2.launch.ctx = c)).flatMap (fun p => p.2.launch.active)
    ++ (s.launches.filter (fun p => p.2.ctx = c)).flatMap (fun p => p.2.active)
  gone.foldl (fun s r =>
    if vaPkg r.base ≠ s.pkg then s
    else s.modCd c (vaDie r.base) (fun x => { x with pages := x.pages.map (fun p =>
      let covers := fun (q : LeaseRange) => q.base < p.va + pdSize p.desc && p.va < q.base + q.size
      if covers r && !still.any covers then { p with desc := withField p.desc 55 1 0 } else p) })) s

/-- The islands of a state with some of them freed; the bits that only a write of 1 clears stay (12 R262). -/
def State.freeIslands (s : State) (is : List (Nat × Nat)) : State :=
  { s with islands := s.islands.map (fun p =>
      if is.any (fun i => islKey i.1 i.2 = p.1) then (p.1, { ({} : Island) with stat := p.2.stat &&& 7 }) else p) }

/-- A region's tiles, islands, slots, leases and windows freed (06 R135 step 2), and its context's lines in the fabric caches of its dies
(10 R212). -/
def State.freeRegion (s : State) (r : Nat) : State :=
  match s.region? r with
  | none => s
  | some g =>
    let s := g.tiles.foldl (fun s t => (s.modTile t freeTile).due (.scratchpadClearDone t)) s
    let s := s.freeIslands g.islands
    let s := { s with
      regions := NMap.del s.regions r
      ready := s.ready.filter (fun fi => fi.region ≠ r) }
    let s := s.dropEvents (fun e => match e with
      | .islandCommandEntry d k | .rowUpdateLand d k | .releaseTokenOut d k => g.islands.contains (d, k)
      | _ => false)
    let s := s.dropEvents (fun e => onTiles g.tiles e && (match e with | .scratchpadClearDone _ => false | _ => true))
    let s := ((g.tiles.map (·.die)).eraseDups).foldl (fun s d => s.modDie d (fun x => { x with
      fcache := x.fcache.filter (fun e => e.1.1 ≠ g.launch.ctx) })) s
    s.dropLeases g.launch.ctx g.launch.active

/-- The context ended (18 R368): its tiles stop, open passes, held effects and pending traps are discarded, the regions are freed
without joining their done barriers, each of its queues is put in error, Curator posts the event with `code` or, where a fault ends it,
with the fault's record. -/
def State.endContext (s : State) (c die code : Nat) (record : Option Bytes) : State :=
  let away := (s.ctx c).st = .preempting || (s.ctx c).st = .saved
  let s := s.modCtx c (fun x => { x with st := .ended, heldEnd := none, intv := [], brk := [], badLines := [] })
  let ids := (s.regions.filter (fun p => p.2.launch.ctx = c)).map (·.1)
  let s := ids.foldl (fun s r => s.freeRegion r) s
  let s := (List.range 8).foldl (fun s d =>
    let s := s.modCd c d (fun y => { y with pending := [] })
    -- open release groups are aborted and messages that have sent nothing fail, in steps of their own
    let s := ((s.die d).sends.filter (fun e => e.ctx = c)).foldl (fun s e => s.due (.abortResendTimer d e.key)) s
    s.modDie d (fun x => { x with queues := x.queues.map (fun q =>
      if fieldOf q.2.ctl 0 12 = c then (q.1, { q.2 with ctl := withBit q.2.ctl 62 }) else q) })) s
  let s := { s with
    launches := s.launches.filter (fun p => p.2.ctx ≠ c), snaps := NMap.del s.snaps c, saves := NMap.del s.saves c }
  let s := s.dropEvents (fun e => match e with
    | .preemptSaveComplete k | .restoreProceed k | .intervalBoundary k _ | .rollback k | .hangIntervalExpiry k => k = c
    | .mailboxWrite _ p => p.ctx.toNat = c
    | _ => false)
  -- the save area of a context that was being saved, or was saved, becomes empty (18 R384)
  let s := if away then (List.range 8).foldl (fun s d => s.writeVa c (fieldOf (s.cd c d).save 16 48 * 2 ^ 16 + 6) [0]) s else s
  match record with
  | some r =>
    let s := s.writeVa c (fieldOf (s.cd c die).save 16 48 * 2 ^ 16 + 0x40) (sliceB r 0 32)
    s.curEvent die 0x0A c (numAt r 0 8) (sliceB r 8 16)
  | none => s.curEvent die 0x0A c code []

/-- The handlers still to run on a tile: the open one, and the trap tokens that are on their way or wait (18 R373). -/
def State.handlersOn (s : State) (t : TileId) : Nat :=
  let x := s.tile t
  (x.passes.filter (·.handler)).length + (x.entries.filter (fun e => e.trap && e.inst = 0)).length
    + (x.spilled.filter (·.trap)).length + (x.spillBuf.filter (·.trap)).length
    + (s.agenda.filter (fun e => match e with
      | .tokenArrival a => a.trap && a.at_ = t
      | _ => false)).length

/-- The tile of the handler of a synchronous trap that a tile of a context took in this very cycle (18 R383). -/
def State.trapNow (s : State) (c : Nat) : Option TileId :=
  (s.ctxTiles c).findSome? (fun t => match (s.tile t).trapAt with
    | some (n, h) => if n = s.cycles then some ⟨t.die, h⟩ else none
    | none => none)

/-- The end of a context: held while the handler of a trap of the same cycle is to run, else applied (18 R368, R383). -/
def State.endOrHold (s : State) (c d code : Nat) (record : Option Bytes) : State :=
  match s.trapNow c with
  | some h =>
    let n := s.handlersOn h
    if n = 0 then s.endContext c d code record
    else if (s.ctx c).heldEnd.isSome then s
    else s.modCtx c (fun x => { x with heldEnd := some ⟨h, n, d, code, record⟩ })
  | none => s.endContext c d code record

/-- A fault taken (18 R371): the entry of the die's copy is read, an ending fault ends the context, a pending entry is taken, the trap
token is sent, a stopping fault halts the context; an end that meets a trap is held (18 R383). A synchronous fault consumes the set of its firing (18 R369); one that finds no
entry puts its set back. A context that is free or has ended takes none, and one that is idle or saved is ended by none (18 R366). -/
def State.raiseFault (s : State) (fi : FaultInfo) : State :=
  let cls := faultClass fi.index fi.code
  let st := (s.ctx fi.ctx).st
  if st = .free || st = .ended || (cls = .ends && (st = .idle || st = .saved)) then s else
  let x := s.cd fi.ctx fi.die
  let e := x.trape.getD fi.index 0
  let syncBit := if fi.sync then 1 else 0
  if cls = .ends then s.endOrHold fi.ctx fi.die 0 (some (faultRecord s fi (syncBit + 4) (teGen e) 0))
  else
    let stopBit := if cls = .stop then 2 else 0
    match NMap.freeKey x.pending (if fi.sync then 63 else 64) with
    | none =>
      if fi.sync then (match fi.job with
        | some j => s.offerAgain j.fi
        | none => s)
      else
        let lost := fieldOf x.status 32 8
        let s := s.modCd fi.ctx fi.die (fun y => { y with status := withField y.status 32 8 (min 255 (lost + 1)) })
        if cls = .stop then s.halt fi.ctx else s
    | some k =>
      let use := s.usableEntry fi e
      let flags := syncBit + stopBit + (if use.isNone then 8 else 0)
      let rec_ := faultRecord s fi flags (teGen e) k
      let p : Pending := ⟨fi.index, fi.code, fi.sync, cls = .stop, fi.job, fi.acc⟩
      let s := match fi.sync, fi.job with
        | true, some j => s.consume j.fi
        | _, _ => s
      let s := s.modCd fi.ctx fi.die (fun y =>
        { y with pending := NMap.put y.pending k p, sent := y.sent + 1 })
      match use with
      | some t =>
        let tg : Tag := match fi.job with
          | some j =>
            let st := ((j.fi.tokA.map (·.tag)).getD ((j.fi.tokB.map (·.tag)).getD {}))
            if fi.sync then { ctx := BitVec.ofNat 12 fi.ctx, frame := st.frame, iter := st.iter, phase := st.phase,
                              kind := .control, level := st.level }
            else { ctx := BitVec.ofNat 12 fi.ctx, kind := .control }
          | none => { ctx := BitVec.ofNat 12 fi.ctx, kind := .control }
        let at_ : TileId := ⟨fi.die, t⟩
        let s := match fi.tile, fi.sync with
          | some n, true => s.modTile ⟨fi.die, n⟩ (fun y => { y with trapAt := some (s.cycles, t) })
          | _, _ => s
        let s := s.post (.tokenArrival {
          at_ := at_, place := ⟨teBlock e, teD e / 2, teD e % 2 = 1⟩,
          tok := { tag := tg, payload := rec_ ++ fi.operand.take 96 }, src := 2 ^ 40, outside := true, trap := true })
        let s := s.countSent at_ tg.phase 1
        let s := s.catalogueAt fi.ctx fi.die 4 fi.index t (teD e / 2) (teBlock e) tg
          (((s.faultRegion fi).map (·.launch.tag)).getD 0) rec_
        if cls = .stop then s.halt fi.ctx else s
      | none => (s.halt fi.ctx).curEvent fi.die 0x0B fi.ctx (numAt rec_ 0 8) (sliceB rec_ 8 16)

/-- Whether a stopping trap of a context is still pending, on any die. -/
def State.stopPending (s : State) (c : Nat) : Bool :=
  (List.range 8).any (fun d => (s.cd c d).pending.any (fun p => p.2.stopping))

/-- Whether a boundary of a context is due (17 R358). -/
def State.bounding (s : State) (c : Nat) : Bool :=
  s.agenda.any (fun e => match e with
    | .intervalBoundary k _ => k = c
    | _ => false)

/-- A boundary asked for: a request joins the one that is due (17 R358). -/
def State.askBoundary (s : State) (c cause : Nat) : State :=
  if s.bounding c then s else s.post (.intervalBoundary c (BitVec.ofNat 2 cause))

/-! ### First-write copies (17 R359) -/

/-- Whether a page is never copied: it holds the ring, the shadow pool, or a network window (17 R359). -/
def State.uncopied (s : State) (c d va : Nat) : Bool :=
  let g := (s.cd c d).ring
  let pg := match s.page? c va with
    | some m => (m.va, pdSize m.desc)
    | none => (va / 65536 * 65536, 65536)
  let meets := fun (b n : Nat) => b < pg.1 + pg.2 && pg.1 < b + n
  meets (fieldOf g.base 21 43 * 2 ^ 21) (2 ^ fieldOf g.size 0 5)
    || meets (fieldOf g.shdBase 21 43 * 2 ^ 21) (2 ^ fieldOf g.shdSize 0 5)
    || (s.cd c d).windows.any (fun w => bitN (byteAt w.2 0x18).toNat 0 && meets (numAt w.2 0 8) (numAt w.2 8 8))

/-- Whether the copy half of a context's shadow pool on a die is full (17 R357, R358). -/
def State.copiesFull (s : State) (c d : Nat) : Bool :=
  let x := s.cd c d
  x.copies.length ≥ 2 ^ fieldOf x.ring.shdSize 0 5 / 2 / 65536

/-- The bytes of a 64 KiB unit that differ from the default. -/
def unitBytes (m : Memory) (unit : Nat) : Memory := m.filter (fun p => p.1 / 65536 = unit)

/-- A unit copied into the pool, and the IW bits of the pages that meet it set (17 R359). -/
def State.takeCopy (s : State) (c d unit : Nat) : State :=
  s.modCd c d (fun x => { x with
    copies := NMap.put x.copies unit (unitBytes s.mem unit)
    pages := x.pages.map (fun p =>
      if physKey d (pdPa p.desc) / 65536 ≤ unit && unit < (physKey d (pdPa p.desc) + pdSize p.desc) / 65536
      then { p with desc := withBit p.desc 54 } else p) })

/-- The copy of a unit of a spill slice, taken with the write of a tile's own that needs it; a full pool has a boundary follow (log
entry 39). -/
def State.spillCopy (s : State) (c va : Nat) : State :=
  match s.phys? c va with
  | none => s
  | some k =>
    let d := vaDie va
    if s.level c = 0 || s.uncopied c d va || (NMap.find (s.cd c d).copies (k / 65536)).isSome then s
    else (if s.copiesFull c d then s.askBoundary c 2 else s).takeCopy c d (k / 65536)

/-! ### Physical pages (20 R404) -/

/-- Whether a context maps a page of a die that meets `n` bytes from a physical address. -/
def State.physMapped (s : State) (d pa n : Nat) : Bool :=
  s.ctxDies.any (fun (x : Nat × CtxDie) => x.1 % 8 = d && x.2.pages.any (fun m =>
    pdValid m.desc && pdPa m.desc < pa + n && pa < pdPa m.desc + pdSize m.desc))

/-- A saturating field of CHITIS_STAT raised (14 R315): the lowest bit and the width of the field. -/
def State.cstatUp (s : State) (d lo n : Nat) : State :=
  s.modDie d (fun x => { x with cstat := withField x.cstat lo n (min (2 ^ n - 1) (fieldOf x.cstat lo n + 1)) })

/-- The events that a tile's stores may have waiting: asked for again when the context resumes. -/
def State.wakeTile (s : State) (t : TileId) : State :=
  ((((s.due (.instanceAdmit t)).due (.schedulerDecision t)).due (.commitDrain t)).due (.spillRefill t))

end Sys2Proof.Machine
end

