-- ==== Sys2Proof/Machine/Operands.lean ====
section
/-! DEFINITION. Operand forms: where each side of a station gets its operand (02 R23 to R25, R33). -/

namespace Sys2Proof

/-- The element type of T, and of S; a reserved code counts as untyped (the loader refuses it, 02 R32). -/
def Fields.tyT (f : Fields) : Ty := (Machine.tyOfCode f.ty).getD .none
def Fields.tyS (f : Fields) : Ty := (Machine.tyOfCode f.sty).getD .none

/-- The rounding mode, sat and nanovf of the arithmetic layout (02 R31). -/
def Fields.rnd (f : Fields) : Rnd :=
  match Machine.fieldOf f.mod 6 2 with
  | 0 => .rne | 1 => .rtz | 2 => .rdn | _ => .rup
def Fields.sat (f : Fields) : Bool := Machine.bitN f.mod.toNat 5
def Fields.nanovf (f : Fields) : Bool := Machine.bitN f.mod.toNat 4

/-- The scope and the full-empty qualifier of the access layout (02 R31). -/
def Fields.scope (f : Fields) : Nat := Machine.fieldOf f.mod 5 3
def Fields.qual (f : Fields) : Nat := Machine.fieldOf f.mod 2 3

/-- Bits `lo` to `lo + n - 1` of the literal. -/
def Fields.litBits (f : Fields) (lo n : Nat) : Nat := Machine.fieldOf f.lit lo n

end Sys2Proof

namespace Sys2Proof.Machine

/-- The tags of a set's tokens. -/
def Firing.tagA (fi : Firing) : Option Tag := fi.tokA.map (·.tag)
def Firing.tagB (fi : Firing) : Option Tag := fi.tokB.map (·.tag)

/-- The station tag (04 R74); the highest sync level of the set travels with it (11 R424), and what 11 R232 and R236 order before it. -/
def Firing.stTag (fi : Firing) : Tag :=
  match fi.tagA, fi.tagB with
  | some a, some b => { a with
      level := if a.level < b.level then b.level else a.level
      deps := (a.deps ++ b.deps).eraseDups
      seen := max a.seen b.seen }
  | some a, none => a
  | none, some b => b
  | none, none => {}

/-- Whether any token of the set is null (04 R74). -/
def Firing.anyNull (fi : Firing) : Bool :=
  ((fi.tagA.map (·.null)).getD false) || ((fi.tagB.map (·.null)).getD false)

/-- The payload of a side's token; a null token's payload is never read (04 R72). -/
def Firing.payload (fi : Firing) (sideB : Bool) : Bytes :=
  match (if sideB then fi.tokB else fi.tokA) with
  | some t => if t.tag.null then [] else t.payload
  | none => []

/-- The bytes of a state register. -/
def Tile.sreg (x : Tile) (k : Nat) : Bytes := x.sregs.getD k (zeros 128)

/-- The source select of a side, and the state register it names. -/
def Fields.sel (f : Fields) (sideB : Bool) : Nat := if sideB then f.srcB.toNat else f.srcA.toNat
def Fields.sregNo (f : Fields) (sideB : Bool) : Nat := if sideB then f.sb.toNat else f.sa.toNat

/-- The one element of a literal operand (02 R25). -/
def litElem (t : Ty) (lit : BitVec 32) : Bytes :=
  if t = .i64 then leBytes 8 (wrapInt 64 (asSigned 32 lit.toNat)) else leBytes t.size lit.toNat

/-- A pattern of bytes repeated to a length. -/
def repeatTo (n : Nat) (p : Bytes) : Bytes := (List.range n).map (fun i => byteAt p (i % p.length))

/-- The bytes of whole elements: bytes that form none are not read (03 R48). -/
def wholeElems (t : Ty) (bs : Bytes) : Bytes := bs.take (bs.length / t.size * t.size)

/-- The operand of a side read in an element type (02 R23, R25). A side that holds no token has the element count of the token side;
an untyped literal repeats its four bytes to the length of the token side (07 R151). -/
def operandIn (s : State) (j : Job) (t : Ty) (sideB : Bool) : Bytes :=
  match Fields.sel j.f sideB with
  | 0 => wholeElems t (j.fi.payload sideB)
  | k =>
    let other := (j.fi.payload (!sideB)).length
    let len := other / t.size * t.size
    if k = 1 then (if t = .none then repeatTo len (leBytes 4 j.f.lit.toNat) else repeatTo len (litElem t j.f.lit))
    else if k = 2 then sliceB ((s.tile j.fi.at_).sreg (Fields.sregNo j.f sideB)) 0 (min 128 len)
    else zeros len

/-- A descriptor on a side: the token's payload, a literal as the first four bytes, a whole state register, or zeros
(08 R174, 10 R204). -/
def descriptorOn (s : State) (j : Job) (sideB : Bool) : Bytes :=
  match Fields.sel j.f sideB with
  | 0 => j.fi.payload sideB
  | 1 => leBytes 4 j.f.lit.toNat
  | 2 => (s.tile j.fi.at_).sreg (Fields.sregNo j.f sideB)
  | _ => []

/-- An addend on side B: its first `n` bytes, or the literal as it stands (08 R174, 10 R205). -/
def addendOn (s : State) (j : Job) (n : Nat) : Nat :=
  match Fields.sel j.f true with
  | 1 => j.f.lit.toNat
  | 3 => 0
  | _ => numAt (operandIn s j .none true) 0 n

/-- Bit 0 of byte 0 of an operand, 0 when it has length 0 (04 R89). -/
def condBit (b : Bytes) : Bool := bitN (byteAt b 0).toNat 0

end Sys2Proof.Machine
end

