-- ==== Sys2Proof/Decode.lean ====
section
/-! DEFINITION. The decoder: a station's 32-bit word (02 R22) and 64-bit side-table entry (02 R30) read as an instruction, every
unassigned opcode refused by name (02 R34, R35); the decoder of a Curator command (20 R406, R409); after them the encoder. -/

namespace Sys2Proof

/-- Why a word and side entry name no instruction. -/
inductive DecodeError where
  /-- Major opcode 0x00 or 0x2B to 0x3F (02 R34). -/
  | reservedMajor (major : Nat)
  /-- A minor above the last of its class (02 R35). -/
  | unassignedMinor (major minor : Nat)
  /-- Fewer than the twelve bytes of a word and its side entry. -/
  | tooShort (length : Nat)
  deriving DecidableEq, Repr

/-- The fields of a word and side entry (02 R22, R30). -/
def fieldsOf (w : BitVec 32) (e : BitVec 64) : Fields where
  srcA := w.extractLsb' 24 2
  srcB := w.extractLsb' 22 2
  dstA := w.extractLsb' 15 7
  dstB := w.extractLsb' 8 7
  tag := w.extractLsb' 4 4
  pm := w.extractLsb' 2 2
  ext := w.extractLsb' 0 2
  mod := e.extractLsb' 48 8
  ty := e.extractLsb' 43 5
  sty := e.extractLsb' 38 5
  sa := e.extractLsb' 35 3
  sb := e.extractLsb' 32 3
  lit := e.extractLsb' 0 32

/-- The minors of IALU (02 R35). -/
def decodeIalu (n : Nat) (f : Fields) : Except DecodeError Instr :=
  match n with
  | 0 => .ok (.ialuAdd f)
  | 1 => .ok (.ialuSub f)
  | 2 => .ok (.ialuMul f)
  | 3 => .ok (.ialuMulh f)
  | 4 => .ok (.ialuMin f)
  | 5 => .ok (.ialuMax f)
  | 6 => .ok (.ialuAnd f)
  | 7 => .ok (.ialuOr f)
  | 8 => .ok (.ialuXor f)
  | 9 => .ok (.ialuNot f)
  | 10 => .ok (.ialuShl f)
  | 11 => .ok (.ialuShr f)
  | 12 => .ok (.ialuRot f)
  | 13 => .ok (.ialuPopc f)
  | 14 => .ok (.ialuClz f)
  | 15 => .ok (.ialuAbs f)
  | k => .error (.unassignedMinor 1 k)

/-- The minors of ICMP (02 R35). -/
def decodeIcmp (n : Nat) (f : Fields) : Except DecodeError Instr :=
  match n with
  | 0 => .ok (.icmpEq f)
  | 1 => .ok (.icmpNe f)
  | 2 => .ok (.icmpLt f)
  | 3 => .ok (.icmpLe f)
  | 4 => .ok (.icmpGt f)
  | 5 => .ok (.icmpGe f)
  | 6 => .ok (.icmpTst f)
  | k => .error (.unassignedMinor 2 k)

/-- The minors of ADDR (02 R35). -/
def decodeAddr (n : Nat) (f : Fields) : Except DecodeError Instr :=
  match n with
  | 0 => .ok (.addrAmov f)
  | 1 => .ok (.addrAoff f)
  | 2 => .ok (.addrAscale f)
  | 3 => .ok (.addrApw f)
  | 4 => .ok (.addrAread f)
  | k => .error (.unassignedMinor 3 k)

/-- The minors of VFMA (02 R35). -/
def decodeVfma (n : Nat) (f : Fields) : Except DecodeError Instr :=
  match n with
  | 0 => .ok (.vfmaFma f)
  | 1 => .ok (.vfmaFms f)
  | 2 => .ok (.vfmaFnma f)
  | 3 => .ok (.vfmaFnms f)
  | 4 => .ok (.vfmaDot f)
  | 5 => .ok (.vfmaDotacc f)
  | k => .error (.unassignedMinor 4 k)

/-- The minors of VFARITH (02 R35). -/
def decodeVfarith (n : Nat) (f : Fields) : Except DecodeError Instr :=
  match n with
  | 0 => .ok (.vfarithFadd f)
  | 1 => .ok (.vfarithFsub f)
  | 2 => .ok (.vfarithFmul f)
  | 3 => .ok (.vfarithFdiv f)
  | 4 => .ok (.vfarithFmin f)
  | 5 => .ok (.vfarithFmax f)
  | 6 => .ok (.vfarithFabs f)
  | 7 => .ok (.vfarithFneg f)
  | 8 => .ok (.vfarithFsqrt f)
  | 9 => .ok (.vfarithFclass f)
  | 10 => .ok (.vfarithFeq f)
  | 11 => .ok (.vfarithFlt f)
  | 12 => .ok (.vfarithFle f)
  | k => .error (.unassignedMinor 5 k)

/-- The minors of VCVT (02 R35). -/
def decodeVcvt (n : Nat) (f : Fields) : Except DecodeError Instr :=
  match n with
  | 0 => .ok (.vcvtCvt f)
  | 1 => .ok (.vcvtFtoi f)
  | 2 => .ok (.vcvtItof f)
  | 3 => .ok (.vcvtCvtmx f)
  | 4 => .ok (.vcvtUnmx f)
  | 5 => .ok (.vcvtSketch f)
  | k => .error (.unassignedMinor 6 k)

/-- The minors of VSPECIAL (02 R35). -/
def decodeVspecial (n : Nat) (f : Fields) : Except DecodeError Instr :=
  match n with
  | 0 => .ok (.vspecialExp2 f)
  | 1 => .ok (.vspecialLog2 f)
  | 2 => .ok (.vspecialRcp f)
  | 3 => .ok (.vspecialRsqrt f)
  | 4 => .ok (.vspecialTanh f)
  | 5 => .ok (.vspecialSigm f)
  | k => .error (.unassignedMinor 7 k)

/-- The minors of VRED (02 R35). -/
def decodeVred (n : Nat) (f : Fields) : Except DecodeError Instr :=
  match n with
  | 0 => .ok (.vredRsum f)
  | 1 => .ok (.vredRmax f)
  | 2 => .ok (.vredRmin f)
  | 3 => .ok (.vredRsumsq f)
  | k => .error (.unassignedMinor 8 k)

/-- The minors of VPERM (02 R35). -/
def decodeVperm (n : Nat) (f : Fields) : Except DecodeError Instr :=
  match n with
  | 0 => .ok (.vpermBcast f)
  | 1 => .ok (.vpermShuf f)
  | 2 => .ok (.vpermSlide f)
  | 3 => .ok (.vpermZip f)
  | 4 => .ok (.vpermUnzip f)
  | k => .error (.unassignedMinor 9 k)

/-- The minors of STEER (02 R35). -/
def decodeSteer (n : Nat) (f : Fields) : Except DecodeError Instr :=
  match n with
  | 0 => .ok (.steerSteer f)
  | 1 => .ok (.steerRoute f)
  | 2 => .ok (.steerSel f)
  | k => .error (.unassignedMinor 10 k)

/-- The minors of MERGE (02 R35). -/
def decodeMerge (n : Nat) (f : Fields) : Except DecodeError Instr :=
  match n with
  | 0 => .ok (.mergeMerge f)
  | 1 => .ok (.mergeMergeo f)
  | k => .error (.unassignedMinor 11 k)

/-- The minors of GATE (02 R35). -/
def decodeGate (n : Nat) (f : Fields) : Except DecodeError Instr :=
  match n with
  | 0 => .ok (.gateGate f)
  | 1 => .ok (.gateNullify f)
  | 2 => .ok (.gateDup f)
  | k => .error (.unassignedMinor 12 k)

/-- The minors of TAGOP (02 R35). -/
def decodeTagop (n : Nat) (f : Fields) : Except DecodeError Instr :=
  match n with
  | 0 => .ok (.tagopGetit f)
  | 1 => .ok (.tagopGetfr f)
  | 2 => .ok (.tagopGetph f)
  | 3 => .ok (.tagopSetit f)
  | 4 => .ok (.tagopSetph f)
  | k => .error (.unassignedMinor 13 k)

/-- The minors of SPAWN (02 R35). -/
def decodeSpawn (n : Nat) (f : Fields) : Except DecodeError Instr :=
  match n with
  | 0 => .ok (.spawnSpawn f)
  | 1 => .ok (.spawnSpawnn f)
  | 2 => .ok (.spawnSpawnr f)
  | k => .error (.unassignedMinor 14 k)

/-- The minors of JOIN (02 R35). -/
def decodeJoin (n : Nat) (f : Fields) : Except DecodeError Instr :=
  match n with
  | 0 => .ok (.joinJoin f)
  | 1 => .ok (.joinJoinall f)
  | k => .error (.unassignedMinor 15 k)

/-- The minors of EXIT (02 R35). -/
def decodeExit (n : Nat) (f : Fields) : Except DecodeError Instr :=
  match n with
  | 0 => .ok (.exitExit f)
  | 1 => .ok (.exitAbort f)
  | k => .error (.unassignedMinor 16 k)

/-- The minors of STATE (02 R35). -/
def decodeState (n : Nat) (f : Fields) : Except DecodeError Instr :=
  match n with
  | 0 => .ok (.stateSld f)
  | 1 => .ok (.stateSst f)
  | 2 => .ok (.stateSacc f)
  | 3 => .ok (.stateSclr f)
  | k => .error (.unassignedMinor 17 k)

/-- The minors of LDL (02 R35). -/
def decodeLdl (n : Nat) (f : Fields) : Except DecodeError Instr :=
  match n with
  | 0 => .ok (.ldlLdl f)
  | 1 => .ok (.ldlLdls f)
  | 2 => .ok (.ldlLdlx f)
  | k => .error (.unassignedMinor 18 k)

/-- The minors of STL (02 R35). -/
def decodeStl (n : Nat) (f : Fields) : Except DecodeError Instr :=
  match n with
  | 0 => .ok (.stlStl f)
  | 1 => .ok (.stlStls f)
  | 2 => .ok (.stlStlx f)
  | k => .error (.unassignedMinor 19 k)

/-- The minors of LD (02 R35). -/
def decodeLd (n : Nat) (f : Fields) : Except DecodeError Instr :=
  match n with
  | 0 => .ok (.ldLd f)
  | 1 => .ok (.ldLdnt f)
  | 2 => .ok (.ldLdpw f)
  | 3 => .ok (.ldLdfc f)
  | 4 => .ok (.ldFcinv f)
  | k => .error (.unassignedMinor 20 k)

/-- The minors of ST (02 R35). -/
def decodeSt (n : Nat) (f : Fields) : Except DecodeError Instr :=
  match n with
  | 0 => .ok (.stSt f)
  | 1 => .ok (.stStnt f)
  | k => .error (.unassignedMinor 21 k)

/-- The minors of GATHER (02 R35). -/
def decodeGather (n : Nat) (f : Fields) : Except DecodeError Instr :=
  match n with
  | 0 => .ok (.gatherGath f)
  | 1 => .ok (.gatherGathw f)
  | k => .error (.unassignedMinor 22 k)

/-- The minors of SCATTER (02 R35). -/
def decodeScatter (n : Nat) (f : Fields) : Except DecodeError Instr :=
  match n with
  | 0 => .ok (.scatterScat f)
  | 1 => .ok (.scatterScatm f)
  | k => .error (.unassignedMinor 23 k)

/-- The minors of ATOM (02 R35). -/
def decodeAtom (n : Nat) (f : Fields) : Except DecodeError Instr :=
  match n with
  | 0 => .ok (.atomAtadd f)
  | 1 => .ok (.atomAtmin f)
  | 2 => .ok (.atomAtmax f)
  | 3 => .ok (.atomAtand f)
  | 4 => .ok (.atomAtor f)
  | 5 => .ok (.atomAtxor f)
  | 6 => .ok (.atomAtxchg f)
  | 7 => .ok (.atomAtcas f)
  | 8 => .ok (.atomAtcasw f)
  | 9 => .ok (.atomAtfadd f)
  | k => .error (.unassignedMinor 24 k)

/-- The minors of ORDER (02 R35). -/
def decodeOrder (n : Nat) (f : Fields) : Except DecodeError Instr :=
  match n with
  | 0 => .ok (.orderAcq f)
  | 1 => .ok (.orderRel f)
  | 2 => .ok (.orderAcqrel f)
  | 3 => .ok (.orderFence f)
  | k => .error (.unassignedMinor 25 k)

/-- The minors of BAR (02 R35). -/
def decodeBar (n : Nat) (f : Fields) : Except DecodeError Instr :=
  match n with
  | 0 => .ok (.barBarinit f)
  | 1 => .ok (.barBarjoin f)
  | 2 => .ok (.barBarwait f)
  | k => .error (.unassignedMinor 26 k)

/-- The minors of MMA (02 R35). -/
def decodeMma (n : Nat) (f : Fields) : Except DecodeError Instr :=
  match n with
  | 0 => .ok (.mmaMldb f)
  | 1 => .ok (.mmaMrow f)
  | 2 => .ok (.mmaMgat f)
  | 3 => .ok (.mmaMscale f)
  | 4 => .ok (.mmaMend f)
  | 5 => .ok (.mmaMdrain f)
  | k => .error (.unassignedMinor 27 k)

/-- The minors of MACC (02 R35). -/
def decodeMacc (n : Nat) (f : Fields) : Except DecodeError Instr :=
  match n with
  | 0 => .ok (.maccAcinit f)
  | 1 => .ok (.maccAcadd f)
  | 2 => .ok (.maccAcread f)
  | 3 => .ok (.maccAcsave f)
  | 4 => .ok (.maccAcload f)
  | k => .error (.unassignedMinor 28 k)

/-- The minors of MSPARSE (02 R35). -/
def decodeMsparse (n : Nat) (f : Fields) : Except DecodeError Instr :=
  match n with
  | 0 => .ok (.msparseMsldb f)
  | 1 => .ok (.msparseMsmeta f)
  | 2 => .ok (.msparseMsrow f)
  | k => .error (.unassignedMinor 29 k)

/-- The minors of KPUT (02 R35). -/
def decodeKput (n : Nat) (f : Fields) : Except DecodeError Instr :=
  match n with
  | 0 => .ok (.kputKput f)
  | 1 => .ok (.kputKputs f)
  | 2 => .ok (.kputKdrop f)
  | 3 => .ok (.kputKseq f)
  | 4 => .ok (.kputKfork f)
  | k => .error (.unassignedMinor 30 k)

/-- The minors of KQUERY (02 R35). -/
def decodeKquery (n : Nat) (f : Fields) : Except DecodeError Instr :=
  match n with
  | 0 => .ok (.kqueryKq f)
  | 1 => .ok (.kqueryKqd f)
  | 2 => .ok (.kqueryKqsk f)
  | 3 => .ok (.kqueryKmerge f)
  | k => .error (.unassignedMinor 31 k)

/-- The minors of SMAX (02 R35). -/
def decodeSmax (n : Nat) (f : Fields) : Except DecodeError Instr :=
  match n with
  | 0 => .ok (.smaxSmref f)
  | 1 => .ok (.smaxSmacc f)
  | 2 => .ok (.smaxSmnorm f)
  | 3 => .ok (.smaxSmresc f)
  | 4 => .ok (.smaxSmflag f)
  | k => .error (.unassignedMinor 32 k)

/-- The minors of RMT (02 R35). -/
def decodeRmt (n : Nat) (f : Fields) : Except DecodeError Instr :=
  match n with
  | 0 => .ok (.rmtRld f)
  | 1 => .ok (.rmtRst f)
  | 2 => .ok (.rmtRadd f)
  | 3 => .ok (.rmtRcas f)
  | 4 => .ok (.rmtRxchg f)
  | 5 => .ok (.rmtRpf f)
  | k => .error (.unassignedMinor 33 k)

/-- The minors of RREL (02 R35). -/
def decodeRrel (n : Nat) (f : Fields) : Except DecodeError Instr :=
  match n with
  | 0 => .ok (.rrelRelopen f)
  | 1 => .ok (.rrelRelflag f)
  | 2 => .ok (.rrelRelwait f)
  | 3 => .ok (.rrelRelabort f)
  | k => .error (.unassignedMinor 34 k)

/-- The minors of NET (02 R35). -/
def decodeNet (n : Nat) (f : Fields) : Except DecodeError Instr :=
  match n with
  | 0 => .ok (.netPost f)
  | 1 => .ok (.netWait f)
  | 2 => .ok (.netNcget f)
  | 3 => .ok (.netNcset f)
  | 4 => .ok (.netCancel f)
  | 5 => .ok (.netNfence f)
  | 6 => .ok (.netNstat f)
  | k => .error (.unassignedMinor 35 k)

/-- The minors of GRAM (02 R35). -/
def decodeGram (n : Nat) (f : Fields) : Except DecodeError Instr :=
  match n with
  | 0 => .ok (.gramStep f)
  | 1 => .ok (.gramMask f)
  | 2 => .ok (.gramGstate f)
  | 3 => .ok (.gramGset f)
  | 4 => .ok (.gramGreset f)
  | k => .error (.unassignedMinor 36 k)

/-- The minors of XFER (02 R35). -/
def decodeXfer (n : Nat) (f : Fields) : Except DecodeError Instr :=
  match n with
  | 0 => .ok (.xferCopy f)
  | 1 => .ok (.xferCopy2d f)
  | 2 => .ok (.xferFill f)
  | k => .error (.unassignedMinor 37 k)

/-- The minors of SYS (02 R35). -/
def decodeSys (n : Nat) (f : Fields) : Except DecodeError Instr :=
  match n with
  | 0 => .ok (.sysClock f)
  | 1 => .ok (.sysTileid f)
  | 2 => .ok (.sysTimer f)
  | 3 => .ok (.sysCtxst f)
  | 4 => .ok (.sysCtxend f)
  | k => .error (.unassignedMinor 38 k)

/-- The minors of TRAP (02 R35). -/
def decodeTrap (n : Nat) (f : Fields) : Except DecodeError Instr :=
  match n with
  | 0 => .ok (.trapTrap f)
  | 1 => .ok (.trapTret f)
  | k => .error (.unassignedMinor 39 k)

/-- The minors of DBG (02 R35). -/
def decodeDbg (n : Nat) (f : Fields) : Except DecodeError Instr :=
  match n with
  | 0 => .ok (.dbgBrk f)
  | 1 => .ok (.dbgTrace f)
  | 2 => .ok (.dbgHist f)
  | k => .error (.unassignedMinor 40 k)

/-- The minors of ACCN (02 R35). -/
def decodeAccn (n : Nat) (f : Fields) : Except DecodeError Instr :=
  match n with
  | 0 => .ok (.accnIntv f)
  | 1 => .ok (.accnArec f)
  | k => .error (.unassignedMinor 41 k)

/-- The minors of ASPACE (02 R35). -/
def decodeAspace (n : Nat) (f : Fields) : Except DecodeError Instr :=
  match n with
  | 0 => .ok (.aspaceInval f)
  | 1 => .ok (.aspacePgattr f)
  | 2 => .ok (.aspaceLpin f)
  | 3 => .ok (.aspaceLquery f)
  | k => .error (.unassignedMinor 42 k)

/-- The instruction of a major and a minor opcode (02 R34, R35). -/
def decodeParts (m n : Nat) (f : Fields) : Except DecodeError Instr :=
  match m with
  | 1 => decodeIalu n f
  | 2 => decodeIcmp n f
  | 3 => decodeAddr n f
  | 4 => decodeVfma n f
  | 5 => decodeVfarith n f
  | 6 => decodeVcvt n f
  | 7 => decodeVspecial n f
  | 8 => decodeVred n f
  | 9 => decodeVperm n f
  | 10 => decodeSteer n f
  | 11 => decodeMerge n f
  | 12 => decodeGate n f
  | 13 => decodeTagop n f
  | 14 => decodeSpawn n f
  | 15 => decodeJoin n f
  | 16 => decodeExit n f
  | 17 => decodeState n f
  | 18 => decodeLdl n f
  | 19 => decodeStl n f
  | 20 => decodeLd n f
  | 21 => decodeSt n f
  | 22 => decodeGather n f
  | 23 => decodeScatter n f
  | 24 => decodeAtom n f
  | 25 => decodeOrder n f
  | 26 => decodeBar n f
  | 27 => decodeMma n f
  | 28 => decodeMacc n f
  | 29 => decodeMsparse n f
  | 30 => decodeKput n f
  | 31 => decodeKquery n f
  | 32 => decodeSmax n f
  | 33 => decodeRmt n f
  | 34 => decodeRrel n f
  | 35 => decodeNet n f
  | 36 => decodeGram n f
  | 37 => decodeXfer n f
  | 38 => decodeSys n f
  | 39 => decodeTrap n f
  | 40 => decodeDbg n f
  | 41 => decodeAccn n f
  | 42 => decodeAspace n f
  | m => .error (.reservedMajor m)

/-- The instruction of a word and its side entry. -/
def decode (w : BitVec 32) (e : BitVec 64) : Except DecodeError Instr :=
  decodeParts (w.extractLsb' 26 6).toNat (e.extractLsb' 56 8).toNat (fieldsOf w e)

/-- Four bytes, and eight, as a little-endian word (00 R1). -/
def wordAt (bs : Bytes) : BitVec 32 := BitVec.ofNat 32 (Machine.numAt bs 0 4)
def sideAt (bs : Bytes) : BitVec 64 := BitVec.ofNat 64 (Machine.numAt bs 4 8)

/-- The decoder on bytes: the word's four, then the side entry's eight, and the bytes that follow. -/
def decodeBytes (bs : Bytes) : Except DecodeError (Instr × Bytes) :=
  if bs.length < 12 then .error (.tooShort bs.length)
  else match decode (wordAt bs) (sideAt bs) with
    | .ok i => .ok (i, bs.drop 12)
    | .error x => .error x

/-- The instruction that the decoder reads from a word in bits 31 to 0 and a side entry in bits 95 to 32. -/
def decodeTableWord (_nbits w : Nat) : Option Instr :=
  match decodeBytes (Machine.leBytes 12 w) with
  | .ok (i, _) => some i
  | .error _ => none

/-! ### The encoder -/

/-- The major and minor opcode and the fields of a Larsum instruction; none for the machine's other steps. -/
def Instr.parts : Instr → Option (BitVec 6 × BitVec 8 × Fields)
  | .ialuAdd f => some (1, 0, f)
  | .ialuSub f => some (1, 1, f)
  | .ialuMul f => some (1, 2, f)
  | .ialuMulh f => some (1, 3, f)
  | .ialuMin f => some (1, 4, f)
  | .ialuMax f => some (1, 5, f)
  | .ialuAnd f => some (1, 6, f)
  | .ialuOr f => some (1, 7, f)
  | .ialuXor f => some (1, 8, f)
  | .ialuNot f => some (1, 9, f)
  | .ialuShl f => some (1, 10, f)
  | .ialuShr f => some (1, 11, f)
  | .ialuRot f => some (1, 12, f)
  | .ialuPopc f => some (1, 13, f)
  | .ialuClz f => some (1, 14, f)
  | .ialuAbs f => some (1, 15, f)
  | .icmpEq f => some (2, 0, f)
  | .icmpNe f => some (2, 1, f)
  | .icmpLt f => some (2, 2, f)
  | .icmpLe f => some (2, 3, f)
  | .icmpGt f => some (2, 4, f)
  | .icmpGe f => some (2, 5, f)
  | .icmpTst f => some (2, 6, f)
  | .addrAmov f => some (3, 0, f)
  | .addrAoff f => some (3, 1, f)
  | .addrAscale f => some (3, 2, f)
  | .addrApw f => some (3, 3, f)
  | .addrAread f => some (3, 4, f)
  | .vfmaFma f => some (4, 0, f)
  | .vfmaFms f => some (4, 1, f)
  | .vfmaFnma f => some (4, 2, f)
  | .vfmaFnms f => some (4, 3, f)
  | .vfmaDot f => some (4, 4, f)
  | .vfmaDotacc f => some (4, 5, f)
  | .vfarithFadd f => some (5, 0, f)
  | .vfarithFsub f => some (5, 1, f)
  | .vfarithFmul f => some (5, 2, f)
  | .vfarithFdiv f => some (5, 3, f)
  | .vfarithFmin f => some (5, 4, f)
  | .vfarithFmax f => some (5, 5, f)
  | .vfarithFabs f => some (5, 6, f)
  | .vfarithFneg f => some (5, 7, f)
  | .vfarithFsqrt f => some (5, 8, f)
  | .vfarithFclass f => some (5, 9, f)
  | .vfarithFeq f => some (5, 10, f)
  | .vfarithFlt f => some (5, 11, f)
  | .vfarithFle f => some (5, 12, f)
  | .vcvtCvt f => some (6, 0, f)
  | .vcvtFtoi f => some (6, 1, f)
  | .vcvtItof f => some (6, 2, f)
  | .vcvtCvtmx f => some (6, 3, f)
  | .vcvtUnmx f => some (6, 4, f)
  | .vcvtSketch f => some (6, 5, f)
  | .vspecialExp2 f => some (7, 0, f)
  | .vspecialLog2 f => some (7, 1, f)
  | .vspecialRcp f => some (7, 2, f)
  | .vspecialRsqrt f => some (7, 3, f)
  | .vspecialTanh f => some (7, 4, f)
  | .vspecialSigm f => some (7, 5, f)
  | .vredRsum f => some (8, 0, f)
  | .vredRmax f => some (8, 1, f)
  | .vredRmin f => some (8, 2, f)
  | .vredRsumsq f => some (8, 3, f)
  | .vpermBcast f => some (9, 0, f)
  | .vpermShuf f => some (9, 1, f)
  | .vpermSlide f => some (9, 2, f)
  | .vpermZip f => some (9, 3, f)
  | .vpermUnzip f => some (9, 4, f)
  | .steerSteer f => some (10, 0, f)
  | .steerRoute f => some (10, 1, f)
  | .steerSel f => some (10, 2, f)
  | .mergeMerge f => some (11, 0, f)
  | .mergeMergeo f => some (11, 1, f)
  | .gateGate f => some (12, 0, f)
  | .gateNullify f => some (12, 1, f)
  | .gateDup f => some (12, 2, f)
  | .tagopGetit f => some (13, 0, f)
  | .tagopGetfr f => some (13, 1, f)
  | .tagopGetph f => some (13, 2, f)
  | .tagopSetit f => some (13, 3, f)
  | .tagopSetph f => some (13, 4, f)
  | .spawnSpawn f => some (14, 0, f)
  | .spawnSpawnn f => some (14, 1, f)
  | .spawnSpawnr f => some (14, 2, f)
  | .joinJoin f => some (15, 0, f)
  | .joinJoinall f => some (15, 1, f)
  | .exitExit f => some (16, 0, f)
  | .exitAbort f => some (16, 1, f)
  | .stateSld f => some (17, 0, f)
  | .stateSst f => some (17, 1, f)
  | .stateSacc f => some (17, 2, f)
  | .stateSclr f => some (17, 3, f)
  | .ldlLdl f => some (18, 0, f)
  | .ldlLdls f => some (18, 1, f)
  | .ldlLdlx f => some (18, 2, f)
  | .stlStl f => some (19, 0, f)
  | .stlStls f => some (19, 1, f)
  | .stlStlx f => some (19, 2, f)
  | .ldLd f => some (20, 0, f)
  | .ldLdnt f => some (20, 1, f)
  | .ldLdpw f => some (20, 2, f)
  | .ldLdfc f => some (20, 3, f)
  | .ldFcinv f => some (20, 4, f)
  | .stSt f => some (21, 0, f)
  | .stStnt f => some (21, 1, f)
  | .gatherGath f => some (22, 0, f)
  | .gatherGathw f => some (22, 1, f)
  | .scatterScat f => some (23, 0, f)
  | .scatterScatm f => some (23, 1, f)
  | .atomAtadd f => some (24, 0, f)
  | .atomAtmin f => some (24, 1, f)
  | .atomAtmax f => some (24, 2, f)
  | .atomAtand f => some (24, 3, f)
  | .atomAtor f => some (24, 4, f)
  | .atomAtxor f => some (24, 5, f)
  | .atomAtxchg f => some (24, 6, f)
  | .atomAtcas f => some (24, 7, f)
  | .atomAtcasw f => some (24, 8, f)
  | .atomAtfadd f => some (24, 9, f)
  | .orderAcq f => some (25, 0, f)
  | .orderRel f => some (25, 1, f)
  | .orderAcqrel f => some (25, 2, f)
  | .orderFence f => some (25, 3, f)
  | .barBarinit f => some (26, 0, f)
  | .barBarjoin f => some (26, 1, f)
  | .barBarwait f => some (26, 2, f)
  | .mmaMldb f => some (27, 0, f)
  | .mmaMrow f => some (27, 1, f)
  | .mmaMgat f => some (27, 2, f)
  | .mmaMscale f => some (27, 3, f)
  | .mmaMend f => some (27, 4, f)
  | .mmaMdrain f => some (27, 5, f)
  | .maccAcinit f => some (28, 0, f)
  | .maccAcadd f => some (28, 1, f)
  | .maccAcread f => some (28, 2, f)
  | .maccAcsave f => some (28, 3, f)
  | .maccAcload f => some (28, 4, f)
  | .msparseMsldb f => some (29, 0, f)
  | .msparseMsmeta f => some (29, 1, f)
  | .msparseMsrow f => some (29, 2, f)
  | .kputKput f => some (30, 0, f)
  | .kputKputs f => some (30, 1, f)
  | .kputKdrop f => some (30, 2, f)
  | .kputKseq f => some (30, 3, f)
  | .kputKfork f => some (30, 4, f)
  | .kqueryKq f => some (31, 0, f)
  | .kqueryKqd f => some (31, 1, f)
  | .kqueryKqsk f => some (31, 2, f)
  | .kqueryKmerge f => some (31, 3, f)
  | .smaxSmref f => some (32, 0, f)
  | .smaxSmacc f => some (32, 1, f)
  | .smaxSmnorm f => some (32, 2, f)
  | .smaxSmresc f => some (32, 3, f)
  | .smaxSmflag f => some (32, 4, f)
  | .rmtRld f => some (33, 0, f)
  | .rmtRst f => some (33, 1, f)
  | .rmtRadd f => some (33, 2, f)
  | .rmtRcas f => some (33, 3, f)
  | .rmtRxchg f => some (33, 4, f)
  | .rmtRpf f => some (33, 5, f)
  | .rrelRelopen f => some (34, 0, f)
  | .rrelRelflag f => some (34, 1, f)
  | .rrelRelwait f => some (34, 2, f)
  | .rrelRelabort f => some (34, 3, f)
  | .netPost f => some (35, 0, f)
  | .netWait f => some (35, 1, f)
  | .netNcget f => some (35, 2, f)
  | .netNcset f => some (35, 3, f)
  | .netCancel f => some (35, 4, f)
  | .netNfence f => some (35, 5, f)
  | .netNstat f => some (35, 6, f)
  | .gramStep f => some (36, 0, f)
  | .gramMask f => some (36, 1, f)
  | .gramGstate f => some (36, 2, f)
  | .gramGset f => some (36, 3, f)
  | .gramGreset f => some (36, 4, f)
  | .xferCopy f => some (37, 0, f)
  | .xferCopy2d f => some (37, 1, f)
  | .xferFill f => some (37, 2, f)
  | .sysClock f => some (38, 0, f)
  | .sysTileid f => some (38, 1, f)
  | .sysTimer f => some (38, 2, f)
  | .sysCtxst f => some (38, 3, f)
  | .sysCtxend f => some (38, 4, f)
  | .trapTrap f => some (39, 0, f)
  | .trapTret f => some (39, 1, f)
  | .dbgBrk f => some (40, 0, f)
  | .dbgTrace f => some (40, 1, f)
  | .dbgHist f => some (40, 2, f)
  | .accnIntv f => some (41, 0, f)
  | .accnArec f => some (41, 1, f)
  | .aspaceInval f => some (42, 0, f)
  | .aspacePgattr f => some (42, 1, f)
  | .aspaceLpin f => some (42, 2, f)
  | .aspaceLquery f => some (42, 3, f)
  | .tokenArrival => none
  | .spillProbeDone => none
  | .spillRefill => none
  | .schedulerDecision => none
  | .blockLoadDone => none
  | .instanceAdmit => none
  | .commitDrain => none
  | .fullEmptyWaitPerform => none
  | .forwardingRetire => none
  | .scratchpadClearDone => none
  | .qtailWrite => none
  | .queueDecision => none
  | .launchRecordCheck => none
  | .leaseResidencyCheck => none
  | .reswaitTimeout => none
  | .regionConfigured => none
  | .heldLaunchConfigure => none
  | .quiescenceWave => none
  | .phaseSum => none
  | .agPortIssue => none
  | .ownerPerform => none
  | .tlbMissFill => none
  | .soHeldPerform => none
  | .replyDelivery => none
  | .byteCredit => none
  | .barwaitRetry => none
  | .orderConditionMet => none
  | .drainTokenArrival => none
  | .streamerTakeCopy => none
  | .islandCommandEntry => none
  | .rowUpdateLand => none
  | .releaseTokenOut => none
  | .rampWindow => none
  | .forecastUpdate => none
  | .keystoreCompletion => none
  | .gramRequestPerform => none
  | .packetHop => none
  | .creditReturn => none
  | .packetAgeDrop => none
  | .requestTimeoutResend => none
  | .linkRetrainRequest => none
  | .trainingComplete => none
  | .confirmViews => none
  | .retrainTimeout => none
  | .releaseWriteArrival => none
  | .releaseFlagArrival => none
  | .releaseCompleteArrival => none
  | .gapReportArrival => none
  | .groupAbortArrival => none
  | .flagResendTimer => none
  | .abortResendTimer => none
  | .gapTimer => none
  | .receiveEntryExpiry => none
  | .relopenSpacingExpiry => none
  | .incarnationNotice => none
  | .netMessageSend => none
  | .netPacketReceive => none
  | .netLocalCompletion => none
  | .netTransportAbandon => none
  | .accHeadWrite => none
  | .accTailWrite => none
  | .replayTimeout => none
  | .intervalBoundary => none
  | .firstWriteCopy => none
  | .rollback => none
  | .memoryUncorrectable => none
  | .preemptSaveComplete => none
  | .mailboxWrite => none
  | .restoreProceed => none
  | .catHeadWrite => none
  | .hangIntervalExpiry => none
  | .curCtailWrite => none
  | .curEheadWrite => none
  | .cmdCreate => none
  | .cmdDestroy => none
  | .cmdResident => none
  | .cmdEvict => none
  | .cmdMode => none
  | .cmdRegw => none
  | .cmdMap => none
  | .cmdUnmap => none
  | .cmdProtect => none
  | .cmdResdone => none
  | .cmdResfail => none
  | .cmdPreempt => none
  | .cmdRestore => none
  | .cmdResume => none
  | .cmdKill => none
  | .cmdTrapw => none
  | .cmdGramw => none
  | .cmdGramwClear => none
  | .cmdEpw => none
  | .cmdWinw => none
  | .cmdWatchAdd => none
  | .cmdWatchClear => none
  | .cmdObsread => none
  | .cmdVitrineFreeze => none
  | .cmdVitrineThaw => none
  | .cmdLinkrst => none
  | .cmdMemrd => none
  | .cmdMemwr => none
  | .cmdPatch => none
  | .cmdIdent => none
  | .cmdStatclr => none
  | .cmdCtxinfo => none
  | .cmdPwrcap => none
  | .cmdNetcfg => none
  | .powerMeasure => none
  | .hostRequest => none
  | .registerWrite => none
  | .powerUp => none
  | .powerLoss => none
  | .queueWaiterAnswer => none
  | .transportRetransmission => none

/-- The word of a major opcode and fields (02 R22). -/
def wordOf (major : BitVec 6) (f : Fields) : BitVec 32 :=
  major ++ f.srcA ++ f.srcB ++ f.dstA ++ f.dstB ++ f.tag ++ f.pm ++ f.ext

/-- The side entry of a minor opcode and fields (02 R30). -/
def sideOf (minor : BitVec 8) (f : Fields) : BitVec 64 :=
  minor ++ f.mod ++ f.ty ++ f.sty ++ f.sa ++ f.sb ++ f.lit

/-- The word and side entry of a Larsum instruction; none for the machine's other steps. -/
def encode (i : Instr) : Option (BitVec 32 × BitVec 64) :=
  i.parts.map (fun p => (wordOf p.1 p.2.2, sideOf p.2.1 p.2.2))

end Sys2Proof
end

