-- ==== Sys2Proof/Machine/Special.lean ====
section
/-! DEFINITION. The six special functions of 07 R159 and R160: each value is found to some 390 binary places in integer
arithmetic and rounded once. A result that is not exact carries a sticky bit, so that the one rounding sees it as lying above
the kept bits (log entry 11). -/

namespace Sys2Proof.Machine

/-- Binary places of the fixed-point values of this file. -/
def fixP : Nat := 400

/-- One in fixed point. -/
def fixOne : Nat := 2 ^ fixP

/-- `2 · Σ z ^ (2 k + 1) / (2 k + 1)`, the natural logarithm of `(1 + z) / (1 - z)`, for a fixed-point `z ≤ 1/3`. -/
def atanhGo : Nat → Nat → Nat → Nat → Nat
  | 0, _, _, _ => 0
  | n + 1, k, t, z2 => t / (2 * k + 1) + atanhGo n (k + 1) (t * z2 / fixOne) z2

/-- The natural logarithm of `(1 + z) / (1 - z)`. -/
def lnRatio (z : Nat) : Nat := 2 * atanhGo 140 0 z (z * z / fixOne)

/-- The natural logarithm of 2, in fixed point. -/
def ln2Fix : Nat := lnRatio (fixOne / 3)

/-- `Σ x ^ k / k!` for a fixed-point `x < 1`. -/
def expGo : Nat → Nat → Nat → Nat → Nat
  | 0, _, _, _ => 0
  | n + 1, k, t, x => t + expGo n (k + 1) (t * x / fixOne / k) x

/-- `2 ^ f` for a fixed-point `f < 1`: between 1 and 2. -/
def exp2Frac (f : Nat) : Nat := expGo 100 1 fixOne (f * ln2Fix / fixOne)

/-- `|x|` of a number in fixed point, rounded down. -/
def toFix (x : Num) : Nat :=
  let e := x.e + fixP
  if e ≥ 0 then x.m * 2 ^ e.toNat else x.m / 2 ^ (-e).toNat

/-- The place of the highest bit of `|x|`. -/
def topOf (x : Num) : Int := x.e + (bitLen x.m : Int) - 1

/-- `e ^ (-y)` for a fixed-point `y ≥ 0`, in fixed point, and whether it lies below the last place. -/
def expNeg (y : Nat) : Nat :=
  let t := y * fixOne / ln2Fix
  let n := t / fixOne
  let f := t % fixOne
  -- 2 ^ (-(n + f)) = 2 ^ (1 - f) / 2 ^ (n + 1)
  if f = 0 then fixOne / 2 ^ n else exp2Frac (fixOne - f) / 2 ^ (n + 1)

/-- A number just below, and just above, a power of two: `1 - ε` and `1 + ε` times `2 ^ e`. -/
def justBelow (neg : Bool) (m : Nat) (e : Int) : FVal := .fin ⟨neg, m * 2 ^ 200 - 1, e - 200, true⟩
def justAbove (neg : Bool) (m : Nat) (e : Int) : FVal := .fin ⟨neg, m * 2 ^ 200, e - 200, true⟩

/-- exp2 (07 R159, R160). -/
def spExp2 : FVal → FVal
  | .nan => .nan
  | .inf s => if s then fzero false else .inf false
  | .fin x =>
    if x.m = 0 then .fin ⟨false, 1, 0, false⟩
    else if topOf x ≥ 12 then (if x.neg then justAbove false 1 (-5000) else justAbove false 1 5000)
    else if topOf x < -60 then (if x.neg then justBelow false 1 0 else justAbove false 1 0)
    else
      let v := toFix x
      let n := v / fixOne
      let f := v % fixOne
      if f = 0 then .fin ⟨false, 1, if x.neg then -(n : Int) else n, false⟩
      else if x.neg then .fin ⟨false, exp2Frac (fixOne - f), -(n : Int) - 1 - fixP, true⟩
      else .fin ⟨false, exp2Frac f, (n : Int) - fixP, true⟩

/-- log2 (07 R159, R160). -/
def spLog2 : FVal → FVal
  | .nan => .nan
  | .inf s => if s then .nan else .inf false
  | .fin x =>
    if x.m = 0 then .inf true
    else if x.neg then .nan
    else
      let top := topOf x
      let w := bitLen x.m - 1
      if x.m = 2 ^ w then (if top = 0 then fzero false else .fin ⟨top < 0, top.natAbs, 0, false⟩)
      else
        -- x = 2 ^ top · z, 1 < z < 2: log2 z = ln z / ln 2
        let z := x.m * fixOne / 2 ^ w
        let l := lnRatio ((z - fixOne) * fixOne / (z + fixOne)) * fixOne / ln2Fix
        if top ≥ 0 then .fin ⟨false, top.toNat * fixOne + l, -(fixP : Int), true⟩
        else .fin ⟨true, (-top).toNat * fixOne - l - 1, -(fixP : Int), true⟩

/-- rcp (07 R159, R160). -/
def spRcp (v : FVal) : FVal := fdiv (.fin ⟨false, 1, 0, false⟩) v

/-- rsqrt (07 R159, R160). -/
def spRsqrt : FVal → FVal
  | .nan => .nan
  | .inf s => if s then .nan else fzero false
  | .fin x =>
    if x.m = 0 then .inf x.neg
    else if x.neg then .nan
    else
      let m := if x.e % 2 = 0 then x.m else 2 * x.m
      let e := if x.e % 2 = 0 then x.e else x.e - 1
      -- 1 / √(m · 2 ^ e) = √(2 ^ 400 / m) · 2 ^ (-200 - e / 2)
      let r := isqrt (2 ^ 400 / m)
      .fin ⟨false, r, -200 - e / 2, r * r * m ≠ 2 ^ 400⟩

/-- tanh (07 R159, R160). -/
def spTanh : FVal → FVal
  | .nan => .nan
  | .inf s => .fin ⟨s, 1, 0, false⟩
  | .fin x =>
    if x.m = 0 then .fin x
    else if topOf x < -60 then justBelow x.neg x.m x.e
    else if topOf x ≥ 7 then justBelow x.neg 1 0
    else
      let u := expNeg (2 * toFix x)
      .fin ⟨x.neg, (fixOne - u) * fixOne / (fixOne + u), -(fixP : Int), true⟩

/-- sigm (07 R159, R160). -/
def spSigm : FVal → FVal
  | .nan => .nan
  | .inf s => if s then fzero false else .fin ⟨false, 1, 0, false⟩
  | .fin x =>
    if x.m = 0 then .fin ⟨false, 1, -1, false⟩
    else if topOf x < -60 then (if x.neg then justBelow false 1 (-1) else justAbove false 1 (-1))
    else if topOf x ≥ 8 then (if x.neg then justAbove false 1 (-300) else justBelow false 1 0)
    else
      let u := expNeg (toFix x)
      if x.neg then .fin ⟨false, u * fixOne / (fixOne + u), -(fixP : Int), true⟩
      else .fin ⟨false, fixOne * fixOne / (fixOne + u), -(fixP : Int), true⟩

end Sys2Proof.Machine
end

