-- ==== Sys2Proof/Machine/Lanes.lean ====
section
/-! DEFINITION. What the nine arithmetic classes of chapter 07 compute, as functions of their operands' bytes. -/

namespace Sys2Proof.Machine

/-! ### Operand shapes (07 R143) -/

/-- Element codes padded with zero elements to a count. -/
def padTo (n : Nat) (l : List Nat) : List Nat := l.take n ++ List.replicate (n - l.length) 0

/-- The elements of both operands, the shorter padded with zero elements (07 R143). -/
def pairElems (size : Nat) (a b : Bytes) : List (Nat × Nat) :=
  let ea := elems size a
  let eb := elems size b
  let n := max ea.length eb.length
  List.zip (padTo n ea) (padTo n eb)

/-- An element-wise result of one operand. -/
def mapOne (size : Nat) (g : Nat → Nat) (a : Bytes) : Bytes := packElems size ((elems size a).map g)

/-- An element-wise result of two operands. -/
def mapTwo (size : Nat) (g : Nat → Nat → Nat) (a b : Bytes) : Bytes :=
  packElems size ((pairElems size a b).map (fun p => g p.1 p.2))

/-! ### IALU and ICMP (07 R148 to R150) -/

/-- The minors of IALU. -/
inductive IOp where
  | add | sub | mul | mulh | min | max | and | or | xor | not | shl | shr | rot | popc | clz | abs
  deriving DecidableEq, Repr

/-- The number of one bits among the low `w`. -/
def popcount : Nat → Nat → Nat
  | 0, _ => 0
  | w + 1, v => v % 2 + popcount w (v / 2)

/-- The result of an IALU minor on one element, as the exact integer before wrapping (07 R149). -/
def ialuExact (op : IOp) (t : Ty) (a b : Nat) : Int :=
  let w := t.width
  let x := intOf t a
  let y := intOf t b
  let s := (b % 2 ^ w) % w
  match op with
  | .add => x + y
  | .sub => x - y
  | .mul => x * y
  | .mulh => Int.fdiv (x * y) ((2 ^ w : Nat) : Int)
  | .min => if x < y then x else y
  | .max => if x > y then x else y
  | .and => (a &&& b : Nat)
  | .or => (a ||| b : Nat)
  | .xor => (a ^^^ b : Nat)
  | .not => (2 ^ w - 1 - a % 2 ^ w : Nat)
  | .shl => x * ((2 ^ s : Nat) : Int)
  | .shr => Int.fdiv x ((2 ^ s : Nat) : Int)
  | .rot => ((a % 2 ^ w) * 2 ^ s % 2 ^ w + (a % 2 ^ w) / 2 ^ (w - s) : Nat)
  | .popc => (popcount w a : Nat)
  | .clz => (w - bitLen (a % 2 ^ w) : Nat)
  | .abs => (x.natAbs : Nat)

/-- The minors on which sat has effect (07 R148). -/
def IOp.satMatters : IOp → Bool
  | .add | .sub | .mul | .shl | .abs => true
  | _ => false

/-- One element of an IALU result (07 R149). -/
def ialuElem (op : IOp) (t : Ty) (sat : Bool) (a b : Nat) : Nat :=
  let x := ialuExact op t a b
  wrapInt t.width (if sat && op.satMatters then satInt t x else x)

/-- The minors of ICMP. -/
inductive ICmp where
  | eq | ne | lt | le | gt | ge | tst
  deriving DecidableEq, Repr

/-- All bits of an element set, or zero (07 R149, R156). -/
def maskOf (w : Nat) (c : Bool) : Nat := if c then 2 ^ w - 1 else 0

/-- One element of an ICMP result (07 R149). -/
def icmpElem (op : ICmp) (t : Ty) (a b : Nat) : Nat :=
  let x := intOf t a
  let y := intOf t b
  maskOf t.width (match op with
    | .eq => x = y
    | .ne => x ≠ y
    | .lt => x < y
    | .le => x ≤ y
    | .gt => x > y
    | .ge => x ≥ y
    | .tst => a &&& b ≠ 0)

/-! ### VFMA (07 R153, R154) -/

/-- Element `i` of a B operand with its weight scale (07 R145, R154). -/
def wscaled (t : Ty) (w : Option Bytes) (i : Nat) (v : FVal) : FVal :=
  match w with
  | none => v
  | some ws =>
    let x := (byteAt ws (i * t.size / 4)).toNat
    if x = 0xFF then .nan else fscale ((x : Int) - 127) v

/-- The four element-wise minors of VFMA: negate the product, negate the addend (07 R154). -/
def vfmaElems (negP negC : Bool) (t : Ty) (mode : Rnd) (nanovf : Bool) (w : Option Bytes) (c : Option Bytes)
    (a b : Bytes) : Bytes :=
  let ps := pairElems t.size a b
  packElems t.size (ps.zipIdx.map (fun q =>
    let i := q.2
    let p := fmul (decodeF t.fty q.1.1) (wscaled t w i (decodeF t.fty q.1.2))
    let cv := match c with
      | none => fzero true
      | some cs => decodeF t.fty (numAt cs (i * t.size) t.size)
    roundF t.fty mode nanovf (faddR (mode = .rdn) (if negP then fneg p else p) (if negC then fneg cv else cv))))

/-- dot and dotacc: the products rounded to FP32, the tree, the accumulator, the last conversion (03 R65, 07 R154). -/
def vfmaDot (t : Ty) (mode : Rnd) (nanovf f32 : Bool) (w : Option Bytes) (acc : Option Nat) (a b : Bytes) : Bytes :=
  let ps := (pairElems t.size a b).zipIdx.map (fun q =>
    roundF .f32 .rne false (fmul (decodeF t.fty q.1.1) (wscaled t w q.2 (decodeF t.fty q.1.2))))
  let y := treeSum ps
  let y := match acc with
    | none => y
    | some c => addF32 y c
  if f32 then leBytes 4 y else leBytes t.size (roundF t.fty mode nanovf (f32Val y))

/-! ### VFARITH (07 R155, R156) -/

/-- The minors of VFARITH. -/
inductive FOp where
  | add | sub | mul | div | min | max | abs | neg | sqrt | cls | eq | lt | le
  deriving DecidableEq, Repr

/-- The class mask of a code (07 R156). -/
def fclassMask (t : FTy) (c : Nat) : Nat :=
  match decodeF t c with
  | .nan => 1
  | .inf s => if s then 2 else 2 ^ 8
  | .fin x =>
    let normal := bitsN c t.fbits t.ebits ≠ 0
    if x.m = 0 then (if x.neg then 2 ^ 4 else 2 ^ 5)
    else if normal then (if x.neg then 2 ^ 2 else 2 ^ 7)
    else if x.neg then 2 ^ 3 else 2 ^ 6

/-- One element of a VFARITH result (07 R155, R156). -/
def vfarithElem (op : FOp) (t : Ty) (mode : Rnd) (nanovf : Bool) (a b : Nat) : Nat :=
  let f := t.fty
  let x := decodeF f a
  let y := decodeF f b
  let rnd := roundF f mode nanovf
  match op with
  | .add => rnd (faddR (mode = .rdn) x y)
  | .sub => rnd (faddR (mode = .rdn) x (fneg y))
  | .mul => rnd (fmul x y)
  | .div => rnd (fdiv x y)
  | .min => if x.isNan || y.isNan then f.nanCode else if fbelow y x then b else a
  | .max => if x.isNan || y.isNan then f.nanCode else if fbelow x y then b else a
  | .abs => if x.isNan then f.nanCode else bitsN a 0 f.signBit
  | .neg => if x.isNan then f.nanCode else a ^^^ 2 ^ f.signBit
  | .sqrt => rnd (fsqrt x)
  | .cls => fclassMask f a
  | .eq => maskOf t.width (feq x y)
  | .lt => maskOf t.width (flt x y)
  | .le => maskOf t.width (flt x y || feq x y)

/-! ### VCVT (07 R157, R158) -/

/-- The elements that part `p` of a source of `n` converts into elements of `m` a register (07 R157). -/
def partOf (l : List Nat) (m p : Nat) : List Nat := (l.drop (p * m)).take m

/-- cvt: floating to floating (03 R62). -/
def vcvtCvtB (t s : Ty) (mode : Rnd) (nanovf : Bool) (p : Nat) (a : Bytes) : Bytes :=
  packElems t.size ((partOf (elems s.size a) (128 / t.size) p).map (fun c => roundF t.fty mode nanovf (decodeF s.fty c)))

/-- ftoi: floating to integer (03 R63). -/
def vcvtFtoiB (t s : Ty) (mode : Rnd) (p : Nat) (a : Bytes) : Bytes :=
  packElems t.size ((partOf (elems s.size a) (128 / t.size) p).map (fun c => ftoi t mode (decodeF s.fty c)))

/-- itof: integer to floating (03 R63). -/
def vcvtItofB (t s : Ty) (mode : Rnd) (nanovf : Bool) (p : Nat) (a : Bytes) : Bytes :=
  packElems t.size ((partOf (elems s.size a) (128 / t.size) p).map (fun c =>
    roundF t.fty mode nanovf (fOfInt (intOf s c))))

/-- cvtmx: floating to MX blocks, the last block padded with +0 (03 R57). -/
def vcvtCvtmxB (t s : Ty) (mode : Rnd) (nanovf : Bool) (a : Bytes) : Bytes :=
  let vs := (elems s.size a).map (decodeF s.fty)
  let bl := chunks 32 4 vs
  mxPayload t (bl.map (fun b => cvtMx t.fty mode nanovf (b ++ List.replicate (32 - b.length) (fzero false))))

/-- unmx: MX blocks to floating (03 R55, R56, R62). -/
def vcvtUnmxB (t s : Ty) (mode : Rnd) (nanovf : Bool) (p : Nat) (a : Bytes) : Bytes :=
  let k := mxBlocks s a
  let idx := partOf (List.range (32 * k)) (128 / t.size) p
  packElems t.size (idx.map (fun e => roundF t.fty mode nanovf (mxElem s a k e)))

/-- sketch: the elements of A followed by those of B (03 R58, 07 R157). -/
def vcvtSketchB (s : Ty) (mode : Rnd) (a b : Bytes) : Bytes :=
  sketchOf mode ((elems s.size a ++ elems s.size b).map (decodeF s.fty))

/-! ### VRED (07 R161) -/

/-- The larger (or smaller) of two floating codes, −0 below +0. -/
def pickF (t : FTy) (larger : Bool) (a b : Nat) : Nat :=
  let x := decodeF t a
  let y := decodeF t b
  if larger then (if fbelow x y then b else a) else (if fbelow y x then b else a)

/-- The minors of VRED. -/
inductive ROp where
  | sum | max | min | sumsq
  deriving DecidableEq, Repr

/-- A reduction of floating elements (03 R65, 07 R161). -/
def vredF (op : ROp) (t : Ty) (mode : Rnd) (nanovf : Bool) (l : List Nat) : Nat :=
  let f := t.fty
  let out (y : Nat) : Nat := roundF f mode nanovf (f32Val y)
  match op with
  | .sum => out (treeSum (l.map (fun c => roundF .f32 .rne false (decodeF f c))))
  | .sumsq => out (treeSum (l.map (fun c => roundF .f32 .rne false (fmul (decodeF f c) (decodeF f c)))))
  | .max =>
    if l.any (fun c => (decodeF f c).isNan) then f.nanCode
    else match l with
      | [] => withSign f true (f.infCode.getD 0)
      | a :: r => r.foldl (pickF f true) a
  | .min =>
    if l.any (fun c => (decodeF f c).isNan) then f.nanCode
    else match l with
      | [] => f.infCode.getD 0
      | a :: r => r.foldl (pickF f false) a

/-- A reduction of integer elements (03 R65, 07 R161). -/
def vredI (op : ROp) (t : Ty) (l : List Nat) : Nat :=
  let xs := l.map (intOf t)
  wrapInt t.width (match op with
    | .sum => xs.foldl (· + ·) 0
    | .sumsq => xs.foldl (fun a x => a + x * x) 0
    | .max => xs.foldl max (intMin t)
    | .min => xs.foldl min (intMax t))

/-- A VRED result: one element (07 R161). -/
def vredB (op : ROp) (t : Ty) (mode : Rnd) (nanovf : Bool) (a : Bytes) : Bytes :=
  let l := elems t.size a
  leBytes t.size (if t.isInt then vredI op t l else vredF op t mode nanovf l)

/-! ### VPERM (07 R162, R163) -/

/-- The minors of VPERM. -/
inductive POp where
  | bcast | shuf | slide | zip | unzip
  deriving DecidableEq, Repr

/-- A VPERM result (07 R163). -/
def vpermB (op : POp) (t : Ty) (amt sel : Nat) (a b : Bytes) : Bytes :=
  let ea := elems t.size a
  let n := ea.length
  let eb := padTo n (elems t.size b)
  let c := ea ++ eb
  let s : Int := asSigned 8 amt
  packElems t.size (match op with
    | .bcast => ea.map (fun _ => if amt < n then ea.getD amt 0 else 0)
    | .shuf => (List.range n).map (fun i =>
        let j := (byteAt b i).toNat
        if j < n then ea.getD j 0 else 0)
    | .slide => (List.range n).map (fun (i : Nat) =>
        let k := (i : Int) + s
        if 0 ≤ k ∧ k < 2 * (n : Int) then c.getD k.toNat 0 else 0)
    | .zip => (List.range n).map (fun i =>
        let h := n / 2 * sel
        if i = n - 1 ∧ n % 2 = 1 then 0
        else if i % 2 = 0 then ea.getD (h + i / 2) 0 else eb.getD (h + i / 2) 0)
    | .unzip => (List.range n).map (fun i => c.getD (2 * i + sel) 0))

end Sys2Proof.Machine
end

