-- ==== Sys2Proof/Machine/Flags.lean ====
section
/-! DEFINITION. Tags and flags: hierarchy fields of a frame (06 R117 to R120), the tag action and the predicate of emitted tokens
(02 R28, 04 R76). -/

namespace Sys2Proof.Machine

/-- The width of a level from its launch-record word, 1 to 64 (06 R123). -/
def levelWidth (w : BitVec 16) : Nat := fieldOf w 0 6 + 1

/-- The domain and scope codes of a level (06 R121, R123). -/
def levelDomain (w : BitVec 16) : Nat := fieldOf w 6 3
def levelScope (w : BitVec 16) : Nat := fieldOf w 9 3

/-- The lowest bit of level `k`'s field (06 R117). -/
def levelLow (ls : List (BitVec 16)) (k : Nat) : Nat := 64 - sumN ((ls.take (k + 1)).map levelWidth)

/-- A frame's field of level `k`. -/
def levelField (ls : List (BitVec 16)) (f : BitVec 64) (k : Nat) : Nat :=
  match ls[k]? with
  | none => 0
  | some w => fieldOf f (levelLow ls k) (levelWidth w)

/-- A frame with the fields of levels `k` to 7 cleared: all bits below the field of level `k - 1` (06 R118). -/
def clearFrom (ls : List (BitVec 16)) (f : BitVec 64) (k : Nat) : BitVec 64 :=
  let p := sumN ((ls.take k).map levelWidth)
  withField f 0 (64 - p) 0

/-- Whether a frame has a nonzero field at a declared level from `k` on (06 R137). -/
def reaches (ls : List (BitVec 16)) (f : BitVec 64) (k : Nat) : Bool :=
  (List.range ls.length).any (fun i => k ≤ i && levelField ls f i ≠ 0)

/-- `tag=parent`: the field of the last declared level cleared, every other left (06 R120). -/
def parentOf (ls : List (BitVec 16)) (f : BitVec 64) : BitVec 64 :=
  match ls.getLast? with
  | none => f
  | some w => withField f (levelLow ls (ls.length - 1)) (levelWidth w) 0

/-- The levels of the region of a firing. -/
def State.levelsOf (s : State) (fi : Firing) : List (BitVec 16) :=
  ((s.region? fi.region).map (·.launch.levels)).getD []

/-- Element 0 of the side A operand as a bit pattern of 16 bits, for `tag=seta` (02 R28). -/
def setaValue (t : Ty) (f : Fields) (a : Bytes) : BitVec 16 :=
  if f.srcA = 3 then 0
  else if t = .mx4 || t = .sk4 then BitVec.ofNat 16 (nibbleAt a 0)
  else if t.size = 1 && t ≠ .none then BitVec.ofNat 16 (numAt a 0 1)
  else BitVec.ofNat 16 (numAt a 0 2)

/-- Whether the tag action makes the result a null token (02 R28). -/
def actNull (f : Fields) : Bool := f.tag = 6

/-- The tag action of 02 R28 on a tag: `res` is the result, none for a null result; `a` the side A operand. -/
def tagAct (ls : List (BitVec 16)) (t : Ty) (f : Fields) (a : Bytes) (res : Option Bytes) (g : Tag) : Tag :=
  match f.tag.toNat with
  | 1 => { g with iter := g.iter + 1 }
  | 2 => { g with iter := 0 }
  | 3 => { g with iter := setaValue t f a }
  | 4 => { g with phase := g.phase + 1 }
  | 5 => { g with frame := parentOf ls g.frame }
  | 7 => match res with
    | some p => { g with pred := condBit p }
    | none => g
  | 8 => match res with
    | some p => { g with pred := !condBit p }
    | none => g
  | _ => g

end Sys2Proof.Machine
end

