-- ==== Sys2Proof/Machine/Log.lean ====
section
/-! DEFINITION. What is written about a run: records of the Accession Ring and their enforcement (17 R348 to R355), the Catalogue
(19 R393, R394), wait histograms (19 R391, R392), breakpoints and the precise stop (19 R386). -/

namespace Sys2Proof.Machine

/-! ### The Accession Ring -/

/-- The SEQ of a part of an access of a firing (11 R236). -/
def seqOf (g : Tag) (block station part : Nat) : Nat :=
  g.iter.toNat * 2 ^ 32 + block % 2 ^ 16 * 2 ^ 16 + station % 32 * 2 ^ 11 + part % 2 ^ 11
def Firing.seq (fi : Firing) (part : Nat) : Nat := seqOf fi.stTag fi.block fi.station part

/-- The 32 bytes of a record (17 R351). -/
def recBytes (pkgDie : Nat) (r : LogRec) : Bytes :=
  [BitVec.ofNat 8 r.typ, BitVec.ofNat 8 r.unit] ++ leBytes 2 r.index ++ leBytes 2 pkgDie ++ leBytes 2 r.run
    ++ leBytes 8 r.frame.toNat ++ leBytes 8 r.seq ++ leBytes 8 r.detail

/-- The detail bits of a type that name a place (17 R351). -/
def placeMask (typ : Nat) : Nat :=
  match typ with
  | 0x03 => 7
  | 0x06 => 0x3FFF
  | 0x07 => 2 ^ 48 - 1
  | 0x08 => 2 ^ 45 - 1
  | 0x09 => 0x1FFFE000
  | 0x0A => 0x3F
  | _ => 0

/-- The identity of a record: every field but run and detail, with the place bits of detail (17 R351). -/
def recIdentity (b : Bytes) : List Nat :=
  [numAt b 0 1, numAt b 1 1, numAt b 2 2, numAt b 4 2, numAt b 8 8, numAt b 0x10 8,
   numAt b 0x18 8 &&& placeMask (numAt b 0 1)]

/-- The address of record `i` of a ring (17 R350), and the ring's capacity. -/
def Ring.cap (r : Ring) : Nat := 2 ^ fieldOf r.size 0 5 / 32
def Ring.addr (r : Ring) (i : Nat) : Nat := fieldOf r.base 21 43 * 2 ^ 21 + 32 * (i % r.cap)

/-- What becomes of a loggable event: it is performed, or held and tried again. -/
inductive Gate where
  | go (s : State)
  | wait (s : State)
  deriving DecidableEq, Repr

/-- A ring changed. -/
def State.modRing (s : State) (c d : Nat) (g : Ring → Ring) : State := s.modCd c d (fun x => { x with ring := g x.ring })

/-- A divergence fault (17 R355), raised once for a record. -/
def State.diverge (s : State) (c d cause : Nat) (idx : Nat) (head : Bytes) : State :=
  if (s.cd c d).ring.failed = some idx then s
  else (s.modRing c d (fun x => { x with failed := some idx })).raiseFault {
    index := 8, code := cause, sync := false, ctx := c, die := d,
    detail := leBytes 8 idx ++ [byteAt head 0, byteAt head 1] ++ sliceB head 2 2 }

/-- Whether a record has a reserved type or a nonzero reserved bit (17 R351, R355). -/
def recReserved (b : Bytes) : Bool :=
  let typ := numAt b 0 1
  typ = 0 || typ > 0x0B || numAt b 1 1 ≥ 8 || numAt b 2 2 ≥ 1024 || numAt b 4 2 ≥ 8192

/-- The record at an index of a context's ring on a die. -/
def State.recordAt (s : State) (c d i : Nat) : Bytes := s.readVa c ((s.cd c d).ring.addr i) 32

/-- An event tested against the head record at index `i` (17 R354, R355): `step` moves the head past it. -/
def State.enforce (s : State) (c d i : Nat) (r : LogRec) (step : State → State) : Gate :=
  let hb := s.recordAt c d i
  let mine := recBytes (s.pkg * 8 + d) r
  if recReserved hb then .wait (s.diverge c d 3 i hb)
  else if recIdentity hb ≠ recIdentity mine then .wait s
  else
    let runs := r.typ = 3 || r.typ = 7
    if runs && r.run < numAt hb 6 2 then .wait s
    else if numAt hb 6 2 ≠ numAt mine 6 2 || numAt hb 0x18 8 ≠ numAt mine 0x18 8 then .wait (s.diverge c d 2 i hb)
    else .go (step s)

/-- Whether fewer than 64 records are free in a ring (17 R353). -/
def Ring.short (g : Ring) : Bool := g.cap < (g.tail - g.head).toNat + 64

/-- The ring-high event posted when the free space of a ring has fallen below 64 records (17 R353). -/
def State.ringHigh (s : State) (c d : Nat) : State :=
  let g := (s.cd c d).ring
  if g.short && !g.highPosted then
    (s.modRing c d (fun x => { x with highPosted := true })).curEvent d 4 c g.tail.toNat (leBytes 8 g.head.toNat)
  else s

/-- A record written at the tail of a ring (17 R350, R352). -/
def State.writeRecord (s : State) (c d : Nat) (r : LogRec) : State :=
  let g := (s.cd c d).ring
  let s := s.writeVa c (g.addr g.tail.toNat) (recBytes (s.pkg * 8 + d) r)
  (s.modRing c d (fun x => { x with
    tail := x.tail + 1, commit := if r.typ = 1 then x.tail else x.commit, marked := x.marked || r.typ = 1 })).ringHigh c d

/-- The records of a cycle in the order of site kind, index, type, those equal in all three as their site performed them (17 R352). -/
def logOrder (rs : List LogRec) : List LogRec := sortBy (fun r => (r.unit * 1024 + r.index) * 256 + r.typ) rs

/-- A record at the tail of a Catalogue stream (19 R393); one that finds no room is dropped. -/
def State.writeCat (s : State) (c d : Nat) (bs : Bytes) : State :=
  let o := (s.cd c d).obs
  let n := 2 ^ fieldOf o.catSize 0 5 / 64
  if (o.catTail - o.catHead).toNat ≥ n then s.modCd c d (fun x => { x with obs := x.obs.lose })
  else
    let s := s.writeVa c (fieldOf o.catBase 16 48 * 2 ^ 16 + 64 * (o.catTail.toNat % n)) bs
    s.modCd c d (fun x => { x with obs := { x.obs with catTail := x.obs.catTail + 1 } })

/-- The Catalogue records of a cycle, in the order of R352: the first four are written, the others dropped (19 R393). -/
def State.writeCats (s : State) (c d : Nat) (l : List (Nat × Bytes)) : State :=
  (sortBy (·.1) l).zipIdx.foldl (fun s q => if q.2 < 4 then s.writeCat c d q.1.2 else s.modCd c d (fun x => { x with obs := x.obs.lose })) s

/-- The records of the cycle that ends written, on every die (17 R352, 19 R393). -/
def State.writeLogs (s : State) : State :=
  s.ctxDies.foldl (fun s p =>
    let c := p.1 / 8
    let d := p.1 % 8
    if p.2.logNext.isEmpty && p.2.catNext.isEmpty then s
    else
      let s := s.modCd c d (fun x => { x with logNext := [], catNext := [] })
      ((logOrder p.2.logNext).foldl (fun s r => s.writeRecord c d r) s).writeCats c d p.2.catNext) s

/-- Whether a context's events on a die are held to recorded ones: at REPLAY, and in a rerun at RECORD (17 R354, R360). -/
def State.replaying (s : State) (c d : Nat) : Bool := s.level c = 3 || (s.level c = 2 && (s.cd c d).ring.redo.isSome)

/-- A loggable event at the level of its context (17 R348, R352 to R354). Its record is written as the cycle ends: at once when the cycle
holds nothing more, and for a boundary, which the control core, the last of the sites, takes. An event that would be a die's fifth of
the cycle is held. One record of a die is satisfied in a cycle: another event is tested against the next head in the next cycle (17
R364). The ring-low event is posted when a loggable event finds HEAD = TAIL (log entry 66). -/
def State.logEvent (s : State) (c d : Nat) (r : LogRec) : Gate :=
  let g := (s.cd c d).ring
  let lv := s.level c
  if lv < 2 then .go s
  else if lv = 2 then
    match g.redo with
    | some (i, stop) =>
      if g.movedAt = s.cycles + 1 then .wait s
      else s.enforce c d i r (fun s => s.modRing c d (fun x => { x with
        redo := if i + 1 < stop then some (i + 1, stop) else none, since := s.cycles, movedAt := s.cycles + 1, failed := none }))
    | none =>
      if g.short || (s.cd c d).logNext.length ≥ 4 then .wait s
      else
        .go (if r.typ = 1 || (s.batch.isEmpty && (s.cd c d).logNext.isEmpty) then s.writeRecord c d r
          else s.modCd c d (fun x => { x with logNext := x.logNext ++ [r] }))
  else if g.movedAt = s.cycles + 1 then .wait s
  else if g.head < g.tail then
    s.enforce c d g.head.toNat r (fun s => s.modRing c d (fun x => { x with
      head := x.head + 1, since := s.cycles, movedAt := s.cycles + 1, failed := none, lowPosted := false,
      commit := if r.typ = 1 then x.head else x.commit, marked := x.marked || r.typ = 1 }))
  else if g.lowPosted then .wait s
  else .wait ((s.modRing c d (fun x => { x with lowPosted := true })).curEvent d 5 c g.tail.toNat (leBytes 8 g.head.toNat))

/-- Whether an event of a kind that is logged by change of frame must be logged, and its run (17 R349): `last` is the frame of the
last event on the place and the events since the last record that named it. -/
def runOf (last : Option (BitVec 64 × Nat)) (frame : BitVec 64) : Bool × Nat :=
  match last with
  | none => (true, 0)
  | some (f, n) => (f ≠ frame || n ≥ 65535, n)

/-- The writers of a state register after one more write (17 R349). -/
def noteRun (last : Option (BitVec 64 × Nat)) (frame : BitVec 64) : BitVec 64 × Nat :=
  let (l, _) := runOf last frame
  match last with
  | none => (frame, 1)
  | some (_, n) => (frame, if l then 1 else n + 1)

/-- The records that are still to be enforced on a die, from the next one on (17 R354, R360). -/
def State.dueRecords (s : State) (c d : Nat) : List Nat :=
  let g := (s.cd c d).ring
  match s.level c with
  | 2 => (g.redo.map (fun p => List.range' p.1 (p.2 - p.1))).getD []
  | 3 => List.range' g.head.toNat (g.tail - g.head).toNat
  | _ => []

/-- Whether an event of the frame of the last one on its register or unit is held all the same (17 R354): the next record that names the
place stands after as many events as its site has performed there. -/
def State.runSpent (s : State) (c d : Nat) (r : LogRec) : Bool :=
  let place := fun (b : Bytes) => [numAt b 0 1, numAt b 1 1, numAt b 2 2, numAt b 4 2, numAt b 0x18 8 &&& placeMask (numAt b 0 1)]
  let mine := place (recBytes (s.pkg * 8 + d) r)
  match ((s.dueRecords c d).map (s.recordAt c d)).find? (fun b => place b = mine) with
  | some b => numAt b 6 2 ≤ r.run
  | none => false

/-- The writes of a firing to state registers, each logged where it must be (05 R110, 17 R349). -/
def State.sregGate (s : State) (fi : Firing) (regs : List Nat) : Gate :=
  let c := s.regionCtx fi.region
  if s.level c < 2 then .go s
  else regs.eraseDups.foldl (fun g k =>
    match g with
    | .wait s => .wait s
    | .go s =>
      let last := NMap.find (s.tile fi.at_).sregWriter k
      let fr := fi.stTag.frame
      let (must, run) := runOf last fr
      let mark := fun (s : State) =>
        s.modTile fi.at_ (fun x => { x with sregWriter := NMap.put x.sregWriter k (noteRun last fr) })
      let r : LogRec := ⟨3, 0, fi.tile, fr, fi.seq 0, k + fi.slot * 8, run⟩
      if must || s.runSpent c fi.die r then
        match s.logEvent c fi.die r with
        | .go s => .go (mark s)
        | .wait s => .wait s
      else .go (mark s)) (.go s)

/-! ### The Catalogue (19 R393, R394) -/

/-- A Catalogue record of a firing or event: type, code, where, and 24 data bytes. -/
def State.catalogue (s : State) (c d : Nat) (typ code : Nat) (fi : Option Firing) (data : Bytes) : State :=
  let f := fi.getD {}
  s.catalogueAt c d typ code f.tile (f.station + f.slot * 32) (if fi.isSome then f.block else 0xFFFF) f.stTag
    (((s.region? f.region).map (·.launch.tag)).getD 0) data

/-! ### Wait histograms (19 R391, R392) -/

/-- The bin of a set: from the earlier of its two tokens' arrival to now. -/
def waitBin (now : Nat) (a b : Token) : Nat :=
  let w := max ((now - a.arrival.toNat) % 2 ^ 32) ((now - b.arrival.toNat) % 2 ^ 32)
  if w < 2 then 0 else min 15 (Nat.log2 w)

/-- A station's bins of a slot. -/
def Slot.bins (sl : Slot) (station : Nat) : List Nat := (List.range 16).map (fun b => NMap.getD sl.hist (16 * station + b) 0)

/-- A station's bins added into memory and cleared (19 R392). -/
def State.histSpill (s : State) (t : TileId) (slot station : Nat) : State :=
  let c := s.ctxOf t
  let sl := (s.tile t).slots.getD slot {}
  let o := (s.cd c t.die).obs
  let bins := sl.bins station
  if bins.all (· = 0) then s
  else
    let off := 128 * (sl.block * 32 + station)
    let s :=
      if off + 128 > fieldOf o.histSize 0 40 then
        s.modCd c t.die (fun x => { x with obs := x.obs.lose })
      else
        bins.zipIdx.foldl (fun s p =>
          let a := fieldOf o.histBase 16 48 * 2 ^ 16 + off + 8 * p.2
          if p.1 = 0 then s else s.writeVa c a (leBytes 8 (leNat (s.readVa c a 8) + p.1))) s
    s.modTile t (fun x => { x with slots := setAt x.slots slot { sl with
      hist := sl.hist.filter (fun q => q.1 / 16 ≠ station) } })

/-- Every station's bins of a slot spilled: at eviction, and at the region's end (19 R392). -/
def State.histSpillAll (s : State) (t : TileId) (slot : Nat) : State :=
  (List.range 32).foldl (fun s n => s.histSpill t slot n) s

/-- A delivery of a two-sided set counted in its station's bins while HISTEN is set (19 R391). -/
def State.histCount (s : State) (fi : Firing) : State :=
  match fi.tokA, fi.tokB with
  | some a, some b =>
    let t := fi.at_
    if !bitN (s.cd (s.ctxOf t) t.die).obs.ctl.toNat 2 then s
    else
      let k := 16 * fi.station + waitBin s.cycles a b
      let s := if NMap.getD ((s.tile t).slots.getD fi.slot {}).hist k 0 ≥ 0xFFFF then s.histSpill t fi.slot fi.station else s
      s.modTile t (fun x =>
        let sl := x.slots.getD fi.slot {}
        { x with slots := setAt x.slots fi.slot { sl with hist := NMap.put sl.hist k (NMap.getD sl.hist k 0 + 1) } })
  | _, _ => s

/-! ### Breakpoints (19 R386) -/

/-- Whether comparator `n` of a die hits a set. -/
def breakHit (dd : Die) (c : Nat) (fi : Firing) (n : Nat) : Bool :=
  let k := (dd.tbk.getD n 0)
  let g := fi.stTag
  bitN k.toNat 63 && fieldOf k 48 12 = c && fieldOf k 16 16 = fi.block && fieldOf k 11 5 = fi.station
    && (!bitN k.toNat 61 || g.frame = dd.tbf.getD n 0) && (!bitN k.toNat 62 || g.iter.toNat = fieldOf k 32 16)

/-- A precise stop (19 R386): the context halted with no pending trap, the event posted, the record written. -/
def State.preciseStop (s : State) (c : Nat) (fi : Firing) (n : Nat) : State :=
  let s := (s.halt c).curEvent fi.die 9 c n (leBytes 8 fi.tile)
  s.catalogue c fi.die 3 0 (some fi) (leBytes 1 n)

/-- A complete set delivered to the firing rule: its wait is counted, the lowest comparator that hits it acts, and it stands
ready. During a precise stop it is kept back (19 R387). -/
def State.deliverSet (s : State) (fi : Firing) : State :=
  let c := s.ctxOf fi.at_
  let handler := (s.tile fi.at_).passes.any (fun p => p.id = fi.inst && p.handler)
  if (s.ctx c).st = .halted && !s.stopPending c && !handler then s.addReady { fi with stopped := true }
  else
  let s := s.histCount fi
  match (List.range 4).find? (breakHit (s.die fi.die) c fi) with
  | none => s.addReady fi
  | some n =>
    if bitN ((s.die fi.die).tbk.getD n 0).toNat 60 then
      (s.catalogue c fi.die 2 0 (some fi) (sliceB ((fi.tokA.map (·.payload)).getD []) 0 24)).addReady fi
    else
      let s := s.modDie fi.die (fun d => { d with tbk := setAt d.tbk n (withField (d.tbk.getD n 0) 63 1 0) })
      (s.addReady fi).preciseStop c fi n

end Sys2Proof.Machine
end

