-- ==== Sys2Proof/Machine/Records.lean ====
section
/-! DEFINITION. Token records (04 R73) and where a tile's spilled tokens lie (04 R81, R82). -/

namespace Sys2Proof.Machine

/-! ### Token records (04 R73) -/

/-- The kind of a code (04 R70). -/
def kindOf (n : Nat) : Kind :=
  match n with
  | 1 => .thread | 2 => .key | 3 => .query | 4 => .control | _ => .value

/-- The header of a token record. -/
def recordHeader (a : Arrival) (seq : BitVec 32) : Bytes :=
  let g := a.tok.tag
  leBytes 8 g.frame.toNat ++ leBytes 2 g.ctx.toNat ++ leBytes 2 g.iter.toNat ++ leBytes 1 g.phase.toNat
    ++ leBytes 1 (kindCode g.kind + (if g.pred then 8 else 0) + (if g.null then 16 else 0))
    ++ leBytes 1 a.tok.payload.length ++ leBytes 1 (2 * a.place.station + (if a.place.sideB then 1 else 0))
    ++ leBytes 2 a.place.block ++ leBytes 2 a.at_.tile ++ leBytes 4 seq.toNat ++ leBytes 4 a.tok.arrival.toNat
    ++ leBytes 4 g.level.toNat

/-- A token record: the header and the payload. -/
def tokenRecord (a : Arrival) (seq : BitVec 32) : Bytes := recordHeader a seq ++ a.tok.payload

/-- The token and its destination that a record holds. -/
def recordToken (die : Nat) (r : Bytes) : Arrival :=
  let fl := (byteAt r 0x0D).toNat
  let d := (byteAt r 0x0F).toNat % 64
  let n := (byteAt r 0x0E).toNat
  { at_ := ⟨die, numAt r 0x12 2 % 1024⟩, place := ⟨numAt r 0x10 2, d / 2, d % 2 = 1⟩,
    tok := {
      tag := {
        ctx := BitVec.ofNat 12 (numAt r 8 2), frame := BitVec.ofNat 64 (numAt r 0 8), iter := BitVec.ofNat 16 (numAt r 0x0A 2),
        phase := BitVec.ofNat 8 (numAt r 0x0C 1), kind := kindOf (fl % 8), pred := bitN fl 3, null := bitN fl 4,
        level := BitVec.ofNat 32 (numAt r 0x1C 4) },
      payload := sliceB r 32 n, arrival := BitVec.ofNat 32 (numAt r 0x18 4) },
    src := 0, outside := true }

/-- A rule of 04 R73 that a record of software breaks, apart from its destination. -/
def recordBad (r : Bytes) (launch : Bool) : Bool :=
  let fl := (byteAt r 0x0D).toNat
  fl % 8 > 4 || fl / 32 ≠ 0 || (byteAt r 0x0E).toNat > 128 || (byteAt r 0x0F).toNat / 64 ≠ 0
    || numAt r 8 2 / 4096 ≠ 0 || numAt r 0x12 2 / 1024 ≠ 0 || (launch && numAt r 0x1C 4 ≠ 0)

/-! ### The slice of a tile (04 R81, R82) -/

/-- The first address of a tile's slice of the spill region, and the buckets of the slice (04 R81, R82). -/
def sliceBase (r : Region) (position : Nat) : Nat × Nat :=
  let n := max 1 (r.launch.pkgCount * r.tiles.length)
  let c := if n ≤ 1 then 0 else Nat.log2 (n - 1) + 1
  let bytes := 2 ^ (r.launch.spillLog - c)
  (r.launch.spillBase + position * bytes, max 1 (bytes / 1024))

/-- The address of a slot of a slice. -/
def slotAddr (base : Nat) (n : Nat) : Nat := base + 1024 * (n / 5) + 0x40 + 192 * (n % 5)

end Sys2Proof.Machine
end

