-- ==== Sys2Proof/Machine/Hang.lean ====
section
/-! DEFINITION. The hang map (19 R396): what every blocked unit of a context on a die awaits. The widths within the fields awaits and
detail are log entry 33. -/

namespace Sys2Proof.Machine

/-- An entry of a hang map (19 R396). -/
structure HangEntry where
  kind : Nat
  site : Nat := 0
  index : Nat := 0
  frame : BitVec 64 := 0
  awaits : Nat := 0
  detail : Nat := 0
  deriving DecidableEq, Repr

/-- The 32 bytes of an entry. -/
def HangEntry.bytes (pkgDie : Nat) (e : HangEntry) : Bytes :=
  [BitVec.ofNat 8 e.kind, BitVec.ofNat 8 e.site] ++ leBytes 2 e.index ++ leBytes 2 pkgDie ++ [0, 0]
    ++ leBytes 8 e.frame.toNat ++ leBytes 8 e.awaits ++ leBytes 8 e.detail

/-- A waiting token: its missing side and station, its block and iteration. -/
def hangToken (tile : Nat) (p : Place) (g : Tag) : HangEntry :=
  { kind := 1, index := tile, frame := g.frame, awaits := (if p.sideB then 0 else 32) + p.station % 32,
    detail := p.block % 65536 + g.iter.toNat * 65536 }

/-- What a ready set that is not issued waits for (19 R396 kind 4), by the class of its station. -/
def readyCause (major minor : Nat) : Nat :=
  if major = 0x0E then 4
  else if major = 0x12 then 5
  else if major = 0x1B || major = 0x1C || major = 0x1D then 3
  else if major = 0x21 && minor = 1 then 8
  else if major = 0x23 && minor ≤ 1 then 7
  else if [0x14, 0x16, 0x18, 0x1A, 0x21, 0x22, 0x23, 0x25, 0x2A].contains major then 1
  else 2

/-- The frame of a held effect. -/
def Effect.frame (e : Effect) : BitVec 64 :=
  match e with
  | .chan _ t _ _ | .exit _ t _ _ _ => t.tag.frame
  | .stl j _ _ | .spawn j _ => j.fi.stTag.frame
  | .store a | .rst a => a.job.fi.stTag.frame
  | .copy c => c.job.fi.stTag.frame

/-- The number by which a map names a held effect: 1 a channel token, 2 an exit token, 3 an STL, 4 a store, 5 a copy, 6 an RST, 7 a spawn. -/
def Effect.code (e : Effect) : Nat :=
  match e with
  | .chan .. => 1 | .exit .. => 2 | .stl .. => 3 | .store _ => 4 | .copy _ => 5 | .rst _ => 6 | .spawn .. => 7

/-- What a reply slot awaits: the address of its request, or its counter or channel. -/
def Reply.awaits (r : Reply) : Nat :=
  match r.kind with
  | .netWait c t => c + t * 64
  | .relopen ch | .relwait ch => ch
  | _ => (r.pkts.head?.map (fun p => p.addr.toNat)).getD 0

/-- What a scratchpad wait-list entry awaits: the granule and the state (19 R396). -/
def Waiting.awaits (w : Waiting) : Nat :=
  ((w.writes.map (·.1) ++ w.reads).head?.getD 0) / 16 * 2 + (if w.writes.isEmpty then 1 else 0)

/-- A ready set that is not issued. -/
def hangReady (x : Tile) (fi : Firing) : HangEntry :=
  let sl := x.slots.getD fi.slot {}
  let why := readyCause (fieldOf (sl.words.getD fi.station 0) 26 6) (fieldOf (sl.sides.getD fi.station 0) 56 8)
  { kind := 4, index := fi.tile, frame := fi.stTag.frame, awaits := why, detail := fi.station }

/-- A block pass that is open, and one whose effects are still leaving. -/
def hangPass (tile : Nat) (p : Pass) : HangEntry :=
  { kind := 5, index := tile, frame := p.frame, awaits := (p.held.head?.map Effect.code).getD 0, detail := p.held.length }
def hangDrain (tile : Nat) (d : Drain) : Option HangEntry :=
  d.effects.head?.map (fun e => { kind := 5, index := tile, frame := e.frame, awaits := e.code, detail := d.effects.length })

/-- The station of an RST that waits at the head of its drain for a send entry or store room (14 R302, 19 R396 kind 4). -/
def hangRst (tile : Nat) (d : Drain) : Option HangEntry :=
  match d.effects with
  | .rst a :: _ => some { kind := 4, index := tile, frame := a.job.fi.stTag.frame, awaits := readyCause 0x21 1, detail := a.job.fi.station }
  | _ => none

/-- The blocked units of a tile. -/
def State.hangTile (s : State) (t : TileId) : List HangEntry :=
  let x := s.tile t
  let n := t.tile
  let waits := x.waitList.map (fun w =>
    ({ kind := 2, index := n, frame := w.job.fi.stTag.frame, awaits := w.awaits, detail := w.job.fi.station } : HangEntry))
  let slots := x.replies.map (fun (r : Nat × Reply) =>
    ({ kind := 3, index := n, frame := r.2.job.fi.stTag.frame, awaits := r.2.awaits, detail := r.2.major } : HangEntry))
  let mem := match s.regionOf t with
    | none => []
    | some r => x.spilled.map (fun p =>
      let a := recordToken t.die (s.readVa r.launch.ctx (slotAddr (sliceBase r x.position).1 p.slot) 160)
      hangToken n a.place a.tok.tag)
  x.entries.map (fun e => hangToken n e.place e.tok.tag) ++ x.spillBuf.map (fun a => hangToken n a.place a.tok.tag)
    ++ x.latch.toList.map (fun a => hangToken n a.place a.tok.tag) ++ mem
    ++ waits ++ slots ++ (s.ready.filter (fun fi => fi.at_ = t)).map (hangReady x)
    ++ x.passes.map (hangPass n) ++ x.drains.filterMap (hangDrain n) ++ x.drains.filterMap (hangRst n)

/-- The blocked ports and pending entries of an island. -/
def hangIsland (k : Nat) (x : Island) : List HangEntry :=
  let lack := fun (p : PendEnd) => sumN ((List.range p.m).map (fun i => p.n - NMap.getD x.count (p.g0 + i) 0))
  x.cmds.map (fun c => { kind := 6, site := 6, index := k, frame := c.job.fi.stTag.frame, detail := c.port })
    ++ x.pend.map (fun p => { kind := 6, site := 6, index := k, frame := p.job.fi.stTag.frame, awaits := lack p })

/-- The code of a slot's channel in a link input. -/
def slotCode (k : SlotKind) : Nat :=
  match k with
  | .shared => 0
  | .reserved c => 1 + c
  | .escape c w => 256 + 2 * c + w

/-- The packets of a context that stand in the input slots of a die's links, the receive entries that wait, and, where
recorded events are enforced or the ring is short of room, the units that wait for a record (17 R353, R355). -/
def State.hangDie (s : State) (c d : Nat) : List HangEntry :=
  let ports := s.agenda.filterMap (fun e => match e with
    | .packetHop n p =>
      match p.held, p.viaLink with
      | some k, some l =>
        if n = d && p.ctx.toNat = c then
          let x := NMap.getD (s.die d).links l {}
          let sum := fun (m : NMap Nat) => sumN (m.map (·.2))
          let free := x.shared + sum x.reserved * 2 ^ 16 + sum x.escape * 2 ^ 32
          some ({ kind := 7, site := 7, index := l, awaits := slotCode k, detail := free } : HangEntry)
        else none
      | _, _ => none
    | _ => none)
  let recvs := ((s.die d).recvs.filter (fun r => r.1.ctx.toNat = c && r.2.st = .waiting)).map (fun r =>
    ({ kind := 8, site := 3, index := 0, awaits := (r.2.held.map (·.index)).getD 0, detail := r.2.arrivals } : HangEntry))
  let g := (s.cd c d).ring
  let typ := (byteAt (s.recordAt c d g.head.toNat) 0).toNat
  let unit := fun (site idx : Nat) => ({ kind := 9, site := site, index := idx, awaits := g.head.toNat, detail := typ } : HangEntry)
  let units := if !(s.replaying c d || (s.level c = 2 && g.short)) then [] else s.agenda.filterMap (fun e => match e with
    | .spillRefill t => if t.die = d && s.ctxOf t = c && !(s.tile t).spilled.isEmpty then some (unit 0 t.tile) else none
    | .ownerPerform n p => if n = d && p.ctx.toNat = c && (match p.op with
        | .atomic .. | .barJoin _ => true
        | _ => false) then some (unit 1 (s.sliceAt d p)) else none
    | .releaseFlagArrival n p => if n = d && p.ctx.toNat = c then some (unit 3 0) else none
    | .netLocalCompletion n _ => if n = d then some (unit 4 0) else none
    | .schedulerDecision t => if t.die = d && s.ctxOf t = c then some (unit 0 t.tile) else none
    | .queueDecision n => if n = d then some (unit 2 0) else none
    | .intervalBoundary n _ => if n = c then some (unit 5 0) else none
    | _ => none)
  let traps := (s.cd c d).pending.map (fun (p : Nat × Pending) =>
    let tile := (p.2.job.map (·.fi.tile)).getD 0
    let fr := (p.2.job.map (·.fi.stTag.frame)).getD 0
    ({ kind := 10, index := tile, frame := fr, awaits := p.1 + (s.pkg * 8 + d) * 64, detail := p.2.index } : HangEntry))
  ports ++ recvs ++ units ++ traps

/-- The entries of a context's hang map on a die. -/
def State.hangEntries (s : State) (c d : Nat) : List HangEntry :=
  let ts := (s.ctxTiles c).filter (fun t => t.die = d)
  let is := ((s.regions.filter (fun (p : Nat × Region) => p.2.launch.ctx = c)).flatMap (fun p => p.2.islands)).filter (fun i => i.1 = d)
  ts.flatMap (fun t => s.hangTile t) ++ is.flatMap (fun i => hangIsland i.2 (s.island d i.2))
    ++ s.hangDie c d

/-- The lowest frame in a map; 0 in a map that names none. -/
def lowestFrame (es : List HangEntry) : Nat :=
  (minBy id ((es.map (fun e => e.frame.toNat)).filter (· ≠ 0))).getD 0

/-- A hang map written on a die, its header last, and its Catalogue record; an area of no bytes takes none (19 R385, R396). -/
def State.writeHangMap (s : State) (c d code : Nat) (es : List HangEntry) : State :=
  let o := (s.cd c d).obs
  let base := fieldOf o.hangBase 16 48 * 2 ^ 16
  let size := fieldOf o.hangSize 0 40
  if size < 64 then s
  else
    let fit := es.take ((size - 64) / 32)
    let counts := leBytes 4 fit.length ++ leBytes 4 (es.length - fit.length)
    let head := counts ++ [BitVec.ofNat 8 code, 1] ++ zeros 6 ++ leBytes 8 s.cycles ++ zeros 40
    let s := s.writeVa c (base + 64) (fit.flatMap (HangEntry.bytes (s.pkg * 8 + d)))
    let s := s.writeVa c base head
    s.catalogue c d 8 0 none counts

/-! ### The hang interval (19 R395) -/

/-- The sent and received totals of a context over its dies (06 R132). -/
def State.hangTotals (s : State) (c : Nat) : Nat × Nat :=
  let ts := s.ctxTiles c
  let ds := List.range 8
  (sumN (ts.map (fun t => (s.tile t).sent)) + sumN (ds.map (fun d => (s.cd c d).sent)),
   sumN (ts.map (fun t => (s.tile t).recv)) + sumN (ds.map (fun d => (s.cd c d).recv)))

/-- The hang interval of a context in µs: the longest of its dies; 0, no detection, when one of them has 0 (log entry 36). -/
def State.hangWait (s : State) (c : Nat) : Nat :=
  let ws := (s.ctx c).dies.map (fun d => fieldOf (s.cd c d).obs.ctl 32 32)
  if ws.contains 0 then 0 else ws.foldl max 0

/-- What keeps the interval from advancing: a ring-high or ring-low event, a residency slot, a frozen die. -/
def State.hangExcused (s : State) (c : Nat) : Bool :=
  (List.range 8).any (fun d => (s.cd c d).ring.highPosted || (s.cd c d).ring.lowPosted)
    || s.launches.any (fun p => p.2.ctx = c && p.2.slot.isSome) || s.dies.any (fun d => d.2.frozen)

/-- Whether nothing took place in the interval: the totals stand, and no slot has fired since. -/
def State.hangStill (s : State) (c : Nat) : Bool :=
  let x := s.ctx c
  s.hangTotals c = x.hangMark
    && (s.ctxTiles c).all (fun t => (s.tile t).slots.all (fun sl => sl.st ≠ .resident || sl.firedAt < x.hangSince))

/-- The hang interval of a context begins. -/
def State.startHang (s : State) (c : Nat) : State :=
  (s.modCtx c (fun x => { x with hangSince := s.cycles, hangMark := s.hangTotals c })).due (.hangIntervalExpiry c)

end Sys2Proof.Machine
end

