-- ==== Sys2Proof/Machine/Tokens.lean ====
section
/-! DEFINITION. Tokens on their way: emission to stations, exits, channels, registers and arcs (02 R26, R27), block passes and their
commit (05 R103 to R105), the firing rule (04 R75). -/

namespace Sys2Proof.Machine

/-! ### Registers of a tile (05 R109, 07 R144) -/

/-- Bytes written into a state register. -/
def Tile.writeSreg (x : Tile) (k off : Nat) (bs : Bytes) : Tile := { x with sregs := setAt x.sregs k (overlay (x.sreg k) off bs) }
def State.writeSreg (s : State) (t : TileId) (k off : Nat) (bs : Bytes) : State := s.modTile t (fun x => x.writeSreg k off bs)

/-- A register write applied. -/
def Tile.writeReg (x : Tile) (r : RegWrite) : Tile :=
  match r.reg with
  | .s k => x.writeSreg k r.off r.bytes
  | .w k => { x with wregs := setAt x.wregs k (overlay (x.wregs.getD k []) r.off (r.bytes.take 32)) }
  | .a k => { x with aregs := setAt x.aregs k (BitVec.ofNat 64 (leNat r.bytes)) }

/-- The register writes of a cycle applied, in ascending order of their stations (05 R109). -/
def Tile.writeRegs (x : Tile) : Tile :=
  (sortBy (·.station) x.regNext).foldl Tile.writeReg { x with regNext := [] }

/-- A tile that the cycle under way has to end for. -/
def State.touch (s : State) (t : TileId) : State := if t ∈ s.touched then s else { s with touched := s.touched ++ [t] }

/-- A register write of a firing: it takes place as the cycle ends, so that every firing of the cycle reads the register as it stood
before (05 R109, 07 R144). -/
def State.regLater (s : State) (j : Job) (reg : RegName) (off : Nat) (bs : Bytes) : State :=
  (s.modTile j.fi.at_ (fun x => { x with regNext := x.regNext ++ [⟨j.fi.station, reg, off, bs⟩] })).touch j.fi.at_

/-! ### Passes (05 R103) -/

/-- The open pass with a number. -/
def Tile.pass? (x : Tile) (id : Nat) : Option Pass := x.passes.find? (fun p => p.id = id)

/-- The open pass of a frame through a block; one whose exit token has been sent in this cycle takes no token from outside (05 R116). -/
def Tile.passOf (x : Tile) (frame : BitVec 64) (block : Nat) : Option Pass :=
  x.passes.find? (fun p => p.frame = frame && p.block = block && p.exits.isEmpty)

/-- The entries reserved by the open ordinary passes of a tile. -/
def Tile.reserved (x : Tile) : Nat := sumN ((x.passes.filter (fun p => !p.handler)).map (·.quota))

/-- The entries of its quota that a pass has used: one for each held effect, and one for its exit token (05 R103). -/
def Pass.used (p : Pass) : Nat := p.held.length + (if p.exits.isEmpty then 0 else 1)

/-- Side A's operand as a fault record's excerpt holds it: a token's payload as it stands (18 R372). -/
def excerptA (s : State) (j : Job) : Bytes := if j.f.srcA = 0 then j.fi.payload false else operandIn s j j.f.tyT false

/-- A fault of a firing: synchronous, with its tile, station and operand A (18 R369, R372). -/
def State.jobFault (s : State) (j : Job) (index code : Nat) (detail : Bytes) : State :=
  s.raiseFault { index := index, code := code, sync := true, ctx := s.regionCtx j.fi.region, die := j.fi.die,
                 tile := some j.fi.tile, region := j.fi.region, job := some j, block := j.fi.block, detail := detail,
                 operand := excerptA s j }

/-- A held effect added to the pass of a firing (05 R103). An effect that its pass has no entry left for marks the firing as
overflowing. An effect whose pass has closed leaves at once (05 R99). -/
def State.hold (s : State) (j : Job) (e : Effect) : State :=
  let t := j.fi.at_
  match (s.tile t).pass? j.fi.inst with
  | none =>
    let s := s.modTile t (fun x => { x with drains := x.drains ++ [⟨j.fi.inst, [e], false⟩] })
    s.due (.commitDrain t)
  | some p =>
    if p.used ≥ p.quota then { s with overfull := true }
    else s.modTile t (fun x => { x with
      passes := x.passes.map (fun q => if q.id = p.id then { q with held := q.held ++ [e] } else q) })

/-- The phases of the tokens that an entry stands for. -/
def Entry.phases (e : Entry) : List (BitVec 8) := e.tok.tag.phase :: e.more

/-- What is left of a pass when it closes: its waiting entries and ready sets discarded and counted as received, BLKLEFT set when there
was any (05 R105). -/
def State.sweepPass (s : State) (t : TileId) (id : Nat) : State :=
  let x := s.tile t
  let left := x.entries.filter (fun e => e.inst = id)
  let sets := s.ready.filter (fun fi => fi.at_ = t && fi.inst = id)
  let s := if left.isEmpty && sets.isEmpty then s else s.setStatus (s.ctxOf t) t.die 2
  let s := left.foldl (fun s e => e.phases.foldl (fun s ph => s.countRecv t ph 1) s) s
  let s := sets.foldl (fun s fi => s.consume fi) s
  let s := s.modTile t (fun x => { x with entries := x.entries.filter (fun e => e.inst ≠ id) })
  { s with ready := s.ready.filter (fun fi => !(fi.at_ = t && fi.inst = id)) }

/-- The tokens of a held effect that is discarded count as received (04 R87). -/
def State.dropEffect (s : State) (t : TileId) (e : Effect) : State :=
  match e with
  | .chan _ tok _ _ | .exit _ tok _ _ _ => s.countRecv t tok.tag.phase 1
  | .spawn _ kids => kids.foldl (fun s k => s.countRecv t k.tok.tag.phase 1) s
  | _ => s

/-- An end held behind a handler is applied when the handler commits (18 R383). -/
def State.handlerDone (s : State) (t : TileId) : State :=
  match (s.ctx (s.ctxOf t)).heldEnd with
  | some e =>
    if e.handler ≠ t then s
    else if e.left ≤ 1 then s.endContext (s.ctxOf t) e.die e.code e.record
    else s.modCtx (s.ctxOf t) (fun x => { x with heldEnd := some { e with left := e.left - 1 } })
  | none => s

/-- A pass committed by an exit token: its held effects leave in order, the exit token last, or are discarded where the exit token is an
ABORT's (05 R107); the pass closes and its reservation is released (05 R105). -/
def State.commitPass (s : State) (t : TileId) (p : Pass) (x : ExitTok) : State :=
  let s := if x.keep then s else p.held.foldl (fun s e => s.dropEffect t e) s
  let s := s.modTile t (fun y => { y with
    passes := y.passes.filter (fun q => q.id ≠ p.id),
    drains := y.drains ++ [⟨p.id, (if x.keep then p.held else []) ++ [x.eff], false⟩] })
  let s := s.sweepPass t p.id
  let s := ((s.due (.commitDrain t)).due (.instanceAdmit t)).due (.schedulerDecision t)
  if p.handler then s.handlerDone t else s

/-- A pass with exit tokens in the cycle that ends: the token to the lowest exit commits it, the others are discarded and EXIT2 is set
(05 R105, R116). Of two tokens to one exit the earlier commits (log entry 45). -/
def State.closePass (s : State) (t : TileId) (p : Pass) : State :=
  match minBy (·.exit) p.exits with
  | none => s
  | some x =>
    let rest := removeFirst (fun y => y = x) p.exits
    let s := if rest.isEmpty then s else (rest.foldl (fun s y => s.dropEffect t y.eff) s).setStatus (s.ctxOf t) t.die 1
    s.commitPass t p x

/-- The end of a cycle on a tile: its register writes take place, its passes that have exit tokens commit (05 R105, R109). -/
def State.closeTile (s : State) (t : TileId) : State :=
  let s := { s with touched := s.touched.filter (· ≠ t) }
  let s := s.modTile t Tile.writeRegs
  ((s.tile t).passes.filter (fun p => !p.exits.isEmpty)).foldl (fun s p => s.closePass t p) s

/-- The end of the cycle on every tile that has something to do. -/
def State.closeCycle (s : State) : State := s.touched.foldl (fun s t => s.closeTile t) s

/-- Whether something that the cycle under way still holds may fire, or emit, on a tile. -/
def firesAt (t : TileId) (c : Choice) : Bool :=
  match c with
  | .set fi => fi.at_ = t
  | .event (.replyDelivery _) | .event (.netLocalCompletion ..) | .event (.gramRequestPerform _) => true
  | .event (.orderConditionMet u) | .event (.keystoreCompletion u) | .event (.fullEmptyWaitPerform u) => u = t
  | .event _ => false

/-- The cycle ended on a tile once nothing more of it fires or emits there. -/
def State.flush (s : State) (t : TileId) : State :=
  if t ∈ s.touched && !s.batch.any (firesAt t) then s.closeTile t else s

/-! ### Destinations (02 R26, R27) -/

/-- A token discarded at once: sent, and received (05 R105). -/
def State.discardTok (s : State) (t : TileId) (tok : Token) : State :=
  (s.countSent t tok.tag.phase 1).countRecv t tok.tag.phase 1

/-- The number by which the tokens of one station to one destination stay in order (04 R79). -/
def srcKey (fi : Firing) : Nat := (tileKey fi.at_ * 65536 + fi.block) * 32 + fi.station

/-- A token emitted to a station, a channel or `drop`; `rel` holds a channel token until the accesses of its pass are visible
(06 R138). -/
def State.sendTo (s : State) (j : Job) (rel : Bool) (d : Nat) (tok : Token) : State :=
  let t := j.fi.at_
  if d < 0x40 then
    if ((s.tile t).pass? j.fi.inst).isSome then
      (s.countSent t tok.tag.phase 1).post (.tokenArrival {
        at_ := t, place := ⟨j.fi.block, d / 2, d % 2 = 1⟩, tok := tok, src := srcKey j.fi, outside := false,
        inst := j.fi.inst })
    else (s.discardTok t tok).setStatus (s.ctxOf t) t.die 2
  else if 0x48 ≤ d && d < 0x50 then
    (s.countSent t tok.tag.phase 1).hold j (.chan (d - 0x48) tok rel (srcKey j.fi))
  else s

/-- A token emitted to exits: each joins the pass's exit tokens of this cycle; a token of a pass that has committed is discarded and EXIT2
is set (05 R105). `keep` false is an EXIT.ABORT's (05 R107). -/
def State.sendExits (s : State) (j : Job) (rel keep : Bool) (xs : List Nat) (tok : Token) : State :=
  let t := j.fi.at_
  if xs.isEmpty then s
  else match (s.tile t).pass? j.fi.inst with
    | none => (xs.foldl (fun s _ => s.discardTok t tok) s).setStatus (s.ctxOf t) t.die 1
    | some p =>
      if keep && p.exits.isEmpty && p.held.length ≥ p.quota then { s with overfull := true }
      else
        let s := s.countSent t tok.tag.phase xs.length
        let es := xs.map (fun x => ExitTok.mk x (.exit x tok rel (dExit j.fi.desc x) (srcKey j.fi)) keep)
        (s.modTile t (fun x => { x with
          passes := x.passes.map (fun q => if q.id = p.id then { q with exits := q.exits ++ es } else q) })).touch t

/-- The destination that an arc of the block passes its token on to (05 R97, R99); `drop` for an arc that is not bound. -/
def arcTarget (desc : Bytes) (d : Nat) : Nat :=
  let b := dArc desc (d - 0x58)
  if b ≥ 128 then b - 128 else 0x7F

/-- Whether a destination is an arc, a state register, an exit. -/
def isArc (d : Nat) : Bool := 0x58 ≤ d && d < 0x60
def isSreg (d : Nat) : Bool := 0x50 ≤ d && d < 0x58
def isExit (d : Nat) : Bool := 0x40 ≤ d && d < 0x48

/-- A token to several destinations of the namespace, each once: stations and channels in order, then the exits (02 R27). -/
def State.deliver (s : State) (j : Job) (rel : Bool) (ds : List Nat) (tok : Token) : State :=
  let ds := ds.eraseDups
  let s := (ds.filter (fun d => !isExit d)).foldl (fun s d => s.sendTo j rel d tok) s
  s.sendExits j rel true ((ds.filter isExit).map (· - 0x40)) tok

/-- The two destination fields. -/
def dests (f : Fields) : List Nat := [f.dstA.toNat, f.dstB.toNat]

/-- The state registers among the destinations. -/
def sregDests (f : Fields) : List Nat := ((dests f).filter isSreg).map (· - 0x50)

/-- The tag of tokens that are ordered after every store performed so far (11 R232, R234): those of an access that has been performed, and
of a firing that acquires. -/
def State.sawAll (s : State) (g : Tag) : Tag := { g with seen := s.stores }

/-- A firing whose tokens are ordered after every store performed so far. -/
def State.sawAllJob (s : State) (j : Job) : Job :=
  let up := fun (t : Token) => { t with tag := s.sawAll t.tag }
  { j with fi := { j.fi with tokA := j.fi.tokA.map up, tokB := j.fi.tokB.map up } }

/-- The tag of an acquiring firing's tokens: one sync level more at ORDERED and above (11 R424). A firing with `tag=parent` takes that
step with its tag action. -/
def State.syncUp (s : State) (j : Job) (g : Tag) : Tag :=
  if s.level (s.regionCtx j.fi.region) ≥ 1 && j.f.tag ≠ 5 then { g with level := g.level + 1 } else g

/-- The tag of what a firing emits: the station tag, changed by the class, then by the tag action (04 R76). A firing with
`tag=parent` is an acquiring one (11 R424). A token of another frame than its firing's lies behind no access of its frame (11 R236). -/
def State.outTag (s : State) (j : Job) (g : Tag) (res : Option Bytes) : Tag :=
  let t := if j.f.sty = 0 then j.f.tyT else j.f.tyS
  let a := if ((j.fi.tagA.map (·.null)).getD false) then [] else operandIn s j t false
  let g := if j.f.tag = 5 && s.level (s.regionCtx j.fi.region) ≥ 1 then { g with level := g.level + 1 } else g
  let h := tagAct (s.levelsOf j.fi) t j.f a res g
  if h.frame = j.fi.stTag.frame then h else { h with deps := [] }

/-- The result of a firing sent to its token destinations and state registers (02 R27, R28): `res` is none for a null result. A
state-register destination takes the result whatever the tag action (02 R28). -/
def State.emitRes (s : State) (j : Job) (rel : Bool) (ds : List Nat) (g : Tag) (kind : Kind) (res : Option Bytes) : State :=
  let null := res.isNone || actNull j.f
  let tg := s.outTag j g (if null then none else res)
  let tok : Token := { tag := { tg with kind := kind, null := null }, payload := if null then [] else res.getD [] }
  let s := match res with
    | none => s
    | some p => (ds.eraseDups.filter isSreg).foldl (fun s d => s.regLater j (.s (d - 0x50)) 0 (p.take 128)) s
  s.deliver j rel (ds.filter (fun d => !isArc d && !isSreg d)) tok

/-- The completion token of a firing sent through its arcs (02 R27, 04 R76): a non-null value token of length 0. -/
def State.emitDone (s : State) (j : Job) (rel : Bool) (ds : List Nat) (g : Tag) (res : Option Bytes) : State :=
  let tg := s.outTag j g res
  let last := seqOf j.fi.stTag j.fi.block j.fi.station (j.fi.parts - 1)
  let tg := if j.fi.parts = 0 || tg.frame ≠ j.fi.stTag.frame then tg else { tg with deps := (tg.deps ++ [last]).eraseDups }
  let tok : Token := { tag := { tg with kind := .value, null := false }, payload := [] }
  s.deliver j rel (((ds.filter isArc).eraseDups).map (arcTarget j.fi.desc)) tok

/-- Result to dstA and dstB under the station tag. -/
def State.emit2 (s : State) (j : Job) (kind : Kind) (res : Bytes) : State :=
  s.emitRes j false (dests j.f) j.fi.stTag kind (some res)

/-- Result and completion token of an access under the station tag. -/
def State.emitBoth (s : State) (j : Job) (kind : Kind) (res : Bytes) : State :=
  (s.emit2 j kind res).emitDone j false (dests j.f) j.fi.stTag (some res)

/-- A token through one exit of a base of exits: `keep` false discards the held effects of the pass first (05 R107). -/
def State.emitExit (s : State) (j : Job) (keep : Bool) (x : Nat) (g : Tag) (res : Option Bytes) : State :=
  let null := res.isNone || actNull j.f
  let tg := s.outTag j g (if null then none else res)
  s.sendExits j false keep [x] { tag := { tg with null := null }, payload := if null then [] else res.getD [] }

/-- A null-pass (04 R75): null to every token destination, the completion token to every arc. `kind` is the kind that the class
emits, none for the station tag's own (04 R70). -/
def State.nullPass (s : State) (j : Job) (kind : Option Kind) (ds : List Nat) : State :=
  let g := j.fi.stTag
  (s.emitRes j false ds g (kind.getD g.kind) none).emitDone j false ds g none

/-- What a firing or a reply leaves: the hang fault, and nothing else, when it would hold more effects than its pass's quota
(05 R103); else its effects, and the cycle's end where the cycle holds no more firings of the tile. A hang fault of this code writes a
hang map too (19 R395). -/
def State.settle (s : State) (j : Job) (after : State) : State :=
  if after.overfull then
    let c := s.regionCtx j.fi.region
    (s.writeHangMap c j.fi.die 1 (s.hangEntries c j.fi.die)).jobFault j 11 1 (leBytes 8 ((((s.tile j.fi.at_).pass? j.fi.inst).map (·.frame)).getD j.fi.stTag.frame).toNat)
  else after.flush j.fi.at_

/-! ### The firing rule (04 R75) -/

/-- Whether the predicate match lets a set fire (02 R29, 04 R75). -/
def predOk (f : Fields) (g : Tag) : Bool :=
  match f.pm.toNat with
  | 1 => g.pred
  | 2 => !g.pred
  | _ => true

/-- The cycle at which a block last fired, kept with its slot (05 R111); a set that is offered again has not fired. -/
def State.noteFired (s : State) (fi : Firing) : State :=
  if s.ready.contains { fi with held := true } then s
  else s.modTile fi.at_ (fun x => { x with slots := x.slots.zipIdx.map (fun p =>
    if p.2 = fi.slot then { p.1 with firedAt := s.cycles } else p.1) })

/-- Whether a set fires, or is passed as null: it is not absorbed (04 R75). -/
def Firing.fires (fi : Firing) (f : Fields) : Bool := if fi.anyNull then f.pm = 3 else predOk f fi.stTag

/-- Whether a firing is at the last level: one more would pass it (11 R424). -/
def State.levelFull (s : State) (j : Job) : Bool :=
  s.level (s.regionCtx j.fi.region) ≥ 1 && j.fi.stTag.level.toNat = 2 ^ 32 - 1

/-- The firing of the current set: null and predicate rules first, then the effect of the class, or of its null-pass. The effect consumes
the set itself (a set whose request waits in a reply slot is consumed with its reply, 04 R87). `regs` are the state registers that the firing
writes as it fires: at RECORD and REPLAY the firing waits for their records (05 R110). -/
def State.fireWith (s : State) (f : Fields) (regs : List Nat) (nullEff eff : Job → State → State) : State :=
  let j : Job := ⟨s.cur, f⟩
  if s.cur.fires f && f.tag = 5 && s.levelFull j then (s.askBoundary (s.regionCtx j.fi.region) 0).offerAgain j.fi
  else if s.cur.anyNull then
    if f.pm = 3 then (s.settle j (nullEff j s)).noteFired j.fi else s.consume s.cur
  else if predOk f s.cur.stTag then
    match s.sregGate s.cur regs with
    | .go t => (s.settle j (eff j t)).noteFired j.fi
    | .wait s => s.offerAgain j.fi
  else s.consume s.cur

/-- The firing of a class whose null-pass goes to its destinations: `kind` is the kind that it emits, none for the station tag's own. -/
def State.fire (s : State) (f : Fields) (kind : Option Kind) (nullDests regs : List Nat) (eff : Job → State → State) : State :=
  s.fireWith f regs (fun j s => (s.consume j.fi).nullPass j kind nullDests) eff

/-- The firing of an acquiring class: one whose tokens' level would pass the last one waits while a boundary is requested (11 R424). -/
def State.fireAcquiring (s : State) (f : Fields) (kind : Option Kind) (nullDests regs : List Nat) (eff : Job → State → State) : State :=
  let j : Job := ⟨s.cur, f⟩
  if !s.cur.anyNull && predOk f s.cur.stTag && s.levelFull j then (s.askBoundary (s.regionCtx j.fi.region) 0).offerAgain j.fi
  else s.fire f kind nullDests regs eff

/-- A firing whose effect is to emit a value computed from its operands, at once (07 R143). -/
def State.fireValue (s : State) (f : Fields) (val : Job → State → Bytes) : State :=
  s.fire f (some .value) (dests f) (sregDests f) (fun j s => (s.consume j.fi).emit2 j .value (val j s))

end Sys2Proof.Machine
end

