-- ==== Sys2Proof/Machine/Address.lean ====
section
/-! DEFINITION. Parameter windows (06 R126), address registers (07 R147) and the meanings of the class ADDR (07 R151, R152). -/

namespace Sys2Proof.Machine

/-- An address register of a tile (07 R147). -/
def Tile.areg (x : Tile) (k : Nat) : BitVec 64 := x.aregs.getD k 0

/-- An address register written by a firing, as the cycle ends (07 R144, R152). -/
def State.aregLater (s : State) (j : Job) (k : Nat) (v : BitVec 64) : State := s.regLater j (.a k) 0 (leBytes 8 v.toNat)

/-- A window of a launch: base and bound; none when its windows bit is clear (06 R126). -/
def State.window? (s : State) (region k : Nat) : Option (Nat × Nat) :=
  (s.region? region).bind (fun r => NMap.find r.launch.windows k)

/-- `n` bytes at an offset of a window: bytes from the bound upward read zero (06 R126). -/
def State.windowBytes (s : State) (c : Nat) (w : Nat × Nat) (off n : Nat) : Bytes :=
  (List.range n).map (fun i => if off + i < w.2 then s.readByte c (w.1 + off + i) else 0)

/-- Whether a read of a window reaches its bound (06 R126). -/
def windowOver (w : Nat × Nat) (off n : Nat) : Bool := n > 0 && off + n > w.2

/-- Side A's bytes 0 to 7 as a number. -/
def addrValue (s : State) (j : Job) : Nat := numAt (operandIn s j .none false) 0 8

/-- Side B's register number, and its parameter byte. -/
def addrReg (s : State) (j : Job) : Nat := bitsN (byteAt (operandIn s j .none true) 0).toNat 0 4
def addrPar (s : State) (j : Job) : Nat := (byteAt (operandIn s j .none true) 1).toNat

/-- An ADDR firing that emits an address, and writes it into the register when `w` is set (07 R151). -/
def fireAddr (w : Bool) (g : Job → State → BitVec 64) (f : Fields) (s : State) : State :=
  s.fire f (some .value) (dests f) (sregDests f) (fun j s =>
    let v := g j s
    let k := addrReg s j
    let s := (s.consume j.fi).emit2 j .value (leBytes 8 v.toNat)
    if w then s.aregLater j k v else s)

def execAddrAmov (f : Fields) (s : State) : Host.Outcome State Fault Refusal :=
  .next (fireAddr true (fun j s => BitVec.ofNat 64 (addrValue s j)) f s)

def execAddrAoff (f : Fields) (s : State) : Host.Outcome State Fault Refusal :=
  .next (fireAddr true (fun j s => (s.tile j.fi.at_).areg (addrReg s j) + BitVec.ofNat 64 (addrValue s j)) f s)

def execAddrAscale (f : Fields) (s : State) : Host.Outcome State Fault Refusal :=
  .next (fireAddr false (fun j s =>
    (s.tile j.fi.at_).areg (addrReg s j) + BitVec.ofNat 64 (addrValue s j * 2 ^ bitsN (addrPar s j) 0 6)) f s)

/-- A window that is not bound raises the parameter-window fault and writes no register (07 R152). -/
def execAddrApw (f : Fields) (s : State) : Host.Outcome State Fault Refusal :=
  .next (s.fire f (some .value) (dests f) (sregDests f) (fun j s =>
    let k := bitsN (addrPar s j) 0 3
    let off := numAt (operandIn s j .none false) 0 4
    match s.window? j.fi.region k with
    | none => s.jobFault j 2 k []
    | some w =>
      let c := s.regionCtx j.fi.region
      let v := s.windowBytes c w off 8
      let r := addrReg s j
      let s := if windowOver w off 8 then s.setStatus c j.fi.die 4 else s
      ((s.consume j.fi).emit2 j .value v).aregLater j r (BitVec.ofNat 64 (leNat v))))

def execAddrAread (f : Fields) (s : State) : Host.Outcome State Fault Refusal :=
  .next (fireAddr false (fun j s => (s.tile j.fi.at_).areg (addrReg s j)) f s)

end Sys2Proof.Machine
end

