-- ==== Sys2Proof/Machine/Spad.lean ====
section
/-! DEFINITION. The scratchpad (08 R166 to R173) and the meanings of LDL and STL (08 R174 to R177), with the steps of the wait list, the
forwarding table and the clearing of a freed tile. -/

namespace Sys2Proof.Machine

/-- The bytes of a scratchpad, and its last offset (08 R166). -/
def spadBytes : Nat := 0x30000

/-- The granules that a run of bytes touches, each once (08 R166, R168). -/
def granulesOf (runs : List (Nat × Nat)) : List Nat :=
  (runs.flatMap (fun r => if r.2 = 0 then [] else (List.range ((r.1 + r.2 - 1) / 16 - r.1 / 16 + 1)).map (· + r.1 / 16))).eraseDups

/-- One byte that a list of writes leaves at an offset, the later write before the earlier. -/
def writtenAt (ws : List (Nat × Bytes)) (a : Nat) : Option Byte :=
  ws.foldl (fun acc w => if w.1 ≤ a && a < w.1 + w.2.length then w.2[a - w.1]? else acc) none

/-- The held effects of a pass, in order: those of the open pass, or those on their way out of the commit buffer (05 R103, R105). -/
def Tile.heldOf (x : Tile) (inst : Nat) : List Effect :=
  (x.drains.filter (fun d => d.inst = inst)).flatMap (·.effects) ++ ((x.pass? inst).map (·.held)).getD []

/-- The writes that a pass's held STLs will make (05 R104). -/
def Tile.heldWrites (x : Tile) (inst : Nat) : List (Nat × Bytes) :=
  (x.heldOf inst).flatMap (fun e => match e with
    | .stl _ ws _ => ws
    | _ => [])

/-- `n` bytes of a scratchpad as a firing of a pass reads them (05 R104, 08 R173). -/
def Tile.spadRead (x : Tile) (inst off n : Nat) : Bytes :=
  let ws := x.heldWrites inst
  (List.range n).map (fun i => (writtenAt ws (off + i)).getD (Memory.get x.spad (off + i)))

/-- The granules of a tile that full-empty bits say are full, after an access left them (08 R168). -/
def leaveBits (full gs : List Nat) (qual : Nat) : List Nat :=
  match qual with
  | 2 => full.filter (fun g => !gs.contains g)
  | 3 | 4 => full ++ gs.filter (fun g => !full.contains g)
  | _ => full

/-- Whether the condition of a qualifier holds on some granules (08 R168). -/
def qualHolds (full gs : List Nat) (qual : Nat) : Bool :=
  match qual with
  | 1 | 2 => gs.all (fun g => full.contains g)
  | 3 => gs.all (fun g => !full.contains g)
  | _ => true

/-- The runs that a waiting access touches. -/
def Waiting.runs (w : Waiting) : List (Nat × Nat) :=
  if w.drain.isSome then w.writes.map (fun p => (p.1, p.2.length)) else w.reads.map (fun a => (a, w.size))
def Waiting.granules (w : Waiting) : List Nat := granulesOf w.runs

/-- Whether an access can be performed on a tile now: its condition holds and the forwarding table has a place (08 R168, R173). -/
def Tile.canPerform (x : Tile) (w : Waiting) : Bool := x.fwd.length < 16 && qualHolds x.full w.granules w.qual

/-! ### Engine accesses (08 R168, R173) -/

/-- Whether an engine may write some bytes of a tile now: no forwarding entry covers their granules. -/
def Tile.engineMay (x : Tile) (off n : Nat) : Bool :=
  (granulesOf [(off, n)]).all (fun g => !x.fwd.any (fun e => e.contains g))

/-- An engine's write: the bytes, and their granules full. -/
def State.engineWrite (s : State) (t : TileId) (off : Nat) (bs : Bytes) : State :=
  let s := s.modTile t (fun x => { x with
    spad := Memory.setN x.spad off bs, full := leaveBits x.full (granulesOf [(off, bs.length)]) 4 })
  s.due (.fullEmptyWaitPerform t)

/-! ### Performing an access (08 R169, R176) -/

/-- A scratchpad access of a firing performed: what lies behind it lies behind every later one of its tile (11 R232 rule 2); the job with what
lay behind earlier ones. -/
def State.spadSeen (s : State) (j : Job) : Job × State :=
  let t := j.fi.at_
  let n := max (s.tile t).seen j.fi.stTag.seen
  let up := fun (k : Token) => { k with tag := { k.tag with seen := n } }
  ({ j with fi := { j.fi with tokA := j.fi.tokA.map up, tokB := j.fi.tokB.map up } }, s.modTile t (fun x => { x with seen := n }))

/-- A load performed: the bytes are read, the bits changed, the set consumed, the tokens emitted. -/
def State.ldlPerform (s : State) (w : Waiting) : State :=
  let t := w.job.fi.at_
  let (j, s) := s.spadSeen w.job
  let x := s.tile t
  let d := w.reads.flatMap (fun a => x.spadRead w.job.fi.inst a w.size)
  let s1 := s.modTile t (fun x => { x with full := leaveBits x.full w.granules w.qual })
  let s1 := if w.qual = 2 then s1.due (.fullEmptyWaitPerform t) else s1
  s.settle j ((s1.consume j.fi).emitBoth j .value d)

/-- A store performed: its bytes written, its granules full, an entry of the forwarding table taken, the tokens emitted. -/
def State.stlPerform (s : State) (j : Job) (writes : List (Nat × Bytes)) : State :=
  let t := j.fi.at_
  let (j, s) := s.spadSeen j
  let gs := granulesOf (writes.map (fun p => (p.1, p.2.length)))
  let s := s.modTile t (fun x => { x with
    spad := writes.foldl (fun m p => Memory.setN m p.1 p.2) x.spad,
    full := leaveBits x.full gs 4, fwd := x.fwd ++ [gs] })
  ((s.due (.forwardingRetire t)).due (.fullEmptyWaitPerform t)).emitBoth j .value []

/-- The record of a full-empty access performed from the wait list, where one is due: an access of another frame waits on one of its
granules (08 R171). It names that granule; of several, the first that the access touches (log entry 59). -/
def State.waitGate (s : State) (t : TileId) (w : Waiting) : Gate :=
  let fr := w.job.fi.stTag.frame
  let rivals := ((s.tile t).waitList.filter (fun v => v.job.fi.stTag.frame ≠ fr)).flatMap Waiting.granules
  match w.granules.find? (fun g => rivals.contains g) with
  | some g =>
    if w.qual ≠ 0 && w.qual ≠ 4 then s.logEvent (s.ctxOf t) t.die ⟨6, 0, t.tile, fr, w.job.fi.seq 0, g, 0⟩ else .go s
  | none => .go s

/-- The waiting accesses of a tile in the order in which they are taken (08 R170). -/
def State.waitOrder (s : State) (t : TileId) : List Waiting :=
  let l := (s.tile t).waitList
  if s.level (s.ctxOf t) = 0 then l
  else sortBy (fun w =>
    let g := w.job.fi.stTag
    ((g.frame.toNat * 2 ^ 16 + g.iter.toNat) * 8 + w.job.fi.slot) * 32 + w.job.fi.station) l

/-- The first of some waiting accesses that can be performed now, and the state in which its record stands; an access that waits for its
record leaves what that comes to, and at RECORD the later ones to its granules, `held`, wait behind it (17 R352). -/
def State.firstOf (s : State) (t : TileId) (held : List Nat) : List Waiting → Option Waiting × State
  | [] => (none, s)
  | w :: ws =>
    if (s.tile t).canPerform w && !w.granules.any (fun g => held.contains g) then
      match s.waitGate t w with
      | .go s => (some w, s)
      | .wait s => s.firstOf t (if s.replaying (s.ctxOf t) t.die then held else held ++ w.granules) ws
    else s.firstOf t held ws
def State.firstWaiting (s : State) (t : TileId) : Option Waiting × State := s.firstOf t [] (s.waitOrder t)

/-- Whether a new access touches a granule of a waiting one that waits at RECORD for its record alone (17 R352). -/
def State.behindRecord (s : State) (t : TileId) (w : Waiting) : Bool :=
  !s.replaying (s.ctxOf t) t.die && (s.tile t).waitList.any (fun v =>
    (s.tile t).canPerform v && v.granules.any (fun g => w.granules.contains g) && (match s.waitGate t v with
      | .go _ => false
      | .wait _ => true))

/-- Whether some waiting access can be performed but for its record. -/
def State.waitHeld (s : State) (t : TileId) : Bool := (s.tile t).waitList.any (fun w => (s.tile t).canPerform w)

/-- A bit of SPAD_STAT set (08 R178). -/
def State.spadNote (s : State) (t : TileId) (bit : Nat) : State :=
  s.modTile t (fun x => { x with spadStat := withBit x.spadStat bit })

/-- Whether a waiting access waits for a place in the forwarding table alone (08 R173). -/
def Tile.waitsForPlace (x : Tile) : Bool := x.fwd.length ≥ 16 && x.waitList.any (fun w => qualHolds x.full w.granules w.qual)

/-- The step of the wait list: one waiting access is performed (08 R170, R171). -/
def State.waitStep (s : State) (t : TileId) : State :=
  match s.firstWaiting t with
  | (none, s) =>
    let s := if (s.tile t).waitsForPlace then s.spadNote t 0 else s
    -- an access that waits for its record alone is tried again (17 R353, R354)
    if s.waitHeld t && (s.tile t).fwd.length < 16 then s.post (.fullEmptyWaitPerform t) else s
  | (some w, s) =>
    let s := s.modTile t (fun x => { x with waitList := removeFirst (fun v => v = w) x.waitList })
    let s := match w.drain with
      | none => s.ldlPerform w
      | some id =>
        let s := s.modTile t (fun x => { x with drains := x.drains.map (fun (d : Drain) =>
          if d.inst = id && d.waiting then { d with effects := d.effects.drop 1, waiting := false } else d) })
        s.stlPerform w.job w.writes
    (s.due (.fullEmptyWaitPerform t)).due (.commitDrain t)

/-- What becomes of a new access: it is performed, waits in the list, or is offered again (08 R170, R173). -/
inductive Issue where
  | perform | enter | again (full : Option Nat)
  deriving DecidableEq, Repr

/-- The decision on a new access: waiting accesses that can be performed come first. -/
def State.issueOf (s : State) (t : TileId) (w : Waiting) : Issue :=
  let x := s.tile t
  if x.fwd.length ≥ 16 then .again (some 0)
  else if (s.firstWaiting t).1.isSome || s.behindRecord t w then .again none
  else if x.canPerform w then .perform
  else if x.waitList.length ≥ 32 then .again (some 1)
  else .enter

/-! ### Forming an access (08 R175, R176) -/

/-- The element addresses of an access, in order: none when the descriptor or an address breaks the limits. -/
def spadAddrs (minor s : Nat) (isStl : Bool) (desc : Bytes) (addend lenB : Nat) (hasB : Bool) : Option (List Nat) :=
  let base := (numAt desc 0 4 + (if isStl then 0 else addend)) % 2 ^ 32
  let l := (byteAt desc 4).toNat
  let lb := if l = 0 then (if isStl && hasB then lenB else 128) else l
  let n := if minor = 2 then l else lb / s
  let stride := asSigned 16 (numAt desc 6 2)
  let as : List Int := (List.range n).map (fun i =>
    match minor with
    | 0 => (base + i * s : Nat)
    | 1 => (base : Int) + i * stride
    | _ => (base + numAt desc (8 + 2 * i) 2 * s : Nat))
  if (minor = 2 && l > 60) || (minor ≠ 2 && l > 128)
    || as.any (fun a => a < 0 || a + (s : Int) - 1 ≥ (spadBytes : Int)) then none
  else some (as.map Int.toNat)

/-- The lease fault of a scratchpad access (08 R176, 18 R369). -/
def State.spadFault (s : State) (j : Job) (major : Nat) (desc : Bytes) : State :=
  s.jobFault j 1 0 (leBytes 8 (numAt desc 0 4) ++ leBytes 1 major)

/-- An LDL firing. One of no element is performed as it issues, also while the forwarding table is full, where 08 R173 and R176 differ (log
entry 60). -/
def fireLdl (minor : Nat) (f : Fields) (s : State) : State :=
  s.fire f (some .value) (dests f) (sregDests f) (fun j s =>
    let t := j.fi.at_
    let desc := descriptorOn s j false
    let add := addendOn s j 4
    match spadAddrs minor f.tyT.size false desc add 0 false with
    | none => s.spadFault j 0x12 desc
    | some as =>
      let w : Waiting := { job := j, reads := as, size := f.tyT.size, qual := f.qual }
      if as.isEmpty then (s.consume j.fi).emitBoth j .value []
      else match s.issueOf t w with
        | .perform => s.ldlPerform w
        | .enter => s.modTile t (fun x => { x with waitList := x.waitList ++ [w] })
        | .again b => ((match b with
          | some k => s.spadNote t k
          | none => s.due (.fullEmptyWaitPerform t)).offerAgain j.fi))

/-- An STL firing: the store is held (05 R103); one of no element is performed at once. -/
def fireStl (minor : Nat) (f : Fields) (s : State) : State :=
  s.fire f (some .value) (dests f) [] (fun j s =>
    let desc := descriptorOn s j false
    let sz := f.tyT.size
    let data := operandIn s j f.tyT true
    match spadAddrs minor sz true desc 0 (j.fi.payload true).length (f.srcB = 0) with
    | none => s.spadFault j 0x13 desc
    | some as =>
      let ws := as.zipIdx.map (fun p => (p.1, sliceB data (p.2 * sz) sz))
      let s := s.consume j.fi
      if as.isEmpty then s.emitBoth j .value [] else s.hold j (.stl j ws (f.qual = 3)))

/-! ### The meanings -/

def execLdlLdl (f : Fields) (s : State) : Host.Outcome State Fault Refusal := .next (fireLdl 0 f s)
def execLdlLdls (f : Fields) (s : State) : Host.Outcome State Fault Refusal := .next (fireLdl 1 f s)
def execLdlLdlx (f : Fields) (s : State) : Host.Outcome State Fault Refusal := .next (fireLdl 2 f s)
def execStlStl (f : Fields) (s : State) : Host.Outcome State Fault Refusal := .next (fireStl 0 f s)
def execStlStls (f : Fields) (s : State) : Host.Outcome State Fault Refusal := .next (fireStl 1 f s)
def execStlStlx (f : Fields) (s : State) : Host.Outcome State Fault Refusal := .next (fireStl 2 f s)

def execFullEmptyWaitPerform (s : State) : Host.Outcome State Fault Refusal :=
  match s.ev with
  | .fullEmptyWaitPerform t => .next (s.waitStep t)
  | _ => .next s

/-- The oldest entry of the forwarding table retires (08 R173). -/
def execForwardingRetire (s : State) : Host.Outcome State Fault Refusal :=
  match s.ev with
  | .forwardingRetire t =>
    let s := s.modTile t (fun x => { x with fwd := x.fwd.drop 1 })
    let s := if (s.tile t).fwd.isEmpty then s else s.due (.forwardingRetire t)
    .next ((s.due (.fullEmptyWaitPerform t)).due (.commitDrain t))
  | _ => .next s

/-- A freed tile's scratchpad is zero and every granule empty (08 R167). -/
def execScratchpadClearDone (s : State) : Host.Outcome State Fault Refusal :=
  match s.ev with
  | .scratchpadClearDone t => .next (s.modTile t (fun x => { x with spad := [], full := [], clearing := false }))
  | _ => .next s

end Sys2Proof.Machine
end

