-- ==== Sys2Proof/Machine/Requests.lean ====
section
/-! DEFINITION. The tile's side of a global access: lease checks (09 R191), the L1 (08 R179 to R181), splitting into parts and stamps
(09 R187, 11 R236), reply slots and the request port (10 R203), watch tests (19 R389) and completion (10 R208). -/

namespace Sys2Proof.Machine

/-! ### Lease checks (09 R183, R190, R191) -/

/-- How far the ranges of a list cover addresses from `a` upward without a gap. -/
def leaseReach (rs : List LeaseRange) : Nat → Nat → Nat
  | 0, a => a
  | k + 1, a =>
    match rs.find? (fun r => r.base ≤ a && a < r.base + r.size) with
    | none => a
    | some r => leaseReach rs k (r.base + r.size)

/-- The first address of a run that its launch's leases do not allow: none when every byte is allowed. -/
def firstDenied (l : Launch) (write : Bool) (a n : Nat) : Option Nat :=
  if n = 0 then none
  else if a + n > 2 ^ 64 || a / 2 ^ 51 ≠ (a + n - 1) / 2 ^ 51 then some a
  else
    let good := l.leases.filter (fun r => if write then r.kind = 0 && r.w else r.kind ≠ 3)
    let bad := l.leases.filter (fun r => r.kind = 3 || (write && (r.kind = 1 || r.kind = 2)))
    let reach := leaseReach good (good.length + 1) a
    let stops := (if reach < a + n then [reach] else [])
      ++ bad.filterMap (fun r => if r.base < a + n && a < r.base + r.size then some (max a r.base) else none)
    minBy id stops

/-- The first denied address of the runs of one access: the lowest one where the lowest and the highest byte have different owners (09 R183,
log entry 57), else that of the first run that is denied. -/
def firstDeniedOf (l : Launch) (write : Bool) (runs : List (Nat × Nat)) : Option Nat :=
  let rs := runs.filter (fun r => r.2 ≠ 0)
  match minBy id (rs.map (·.1)) with
  | none => none
  | some lo =>
    if rs.any (fun r => (r.1 + r.2 - 1) / 2 ^ 51 ≠ lo / 2 ^ 51) then some lo
    else rs.findSome? (fun r => firstDenied l write r.1 r.2)

/-- The lease fault of an access (18 R369): `mark` is 1 for an alignment, 2 for a descriptor. -/
def State.leaseFault (s : State) (j : Job) (major addr mark : Nat) : State :=
  s.jobFault j 1 0 (leBytes 8 addr ++ leBytes 1 major ++ leBytes 1 mark)

/-! ### The L1 (08 R179 to R181) -/

/-- The index of a tile's cluster, and the tiles of a cluster (01 R11). -/
def clusterOf (tile : Nat) : Nat := tile / 32 / 4 * 8 + tile % 32 / 4
def clusterTiles (tile : Nat) : List Nat :=
  (List.range 1024).filter (fun n => clusterOf n = clusterOf tile)

/-- Whether the L1s of a tile's cluster are fused (08 R180). -/
def State.fused (s : State) (t : TileId) : Bool :=
  match s.regionOf t with
  | none => false
  | some r => r.launch.fuse && (clusterTiles t.tile).all (fun n => r.tiles.contains ⟨t.die, n⟩)

/-- The tile whose L1 holds a line for a tile (08 R180). -/
def State.lineHome (s : State) (t : TileId) (line : Nat) : TileId :=
  if s.fused t then
    let k := line % 16
    let n := t.tile
    ⟨t.die, (n / 32 / 4 * 4 + k / 4) * 32 + n % 32 / 4 * 4 + k % 4⟩
  else t

/-- The set that a line falls into. -/
def State.lineSet (s : State) (t : TileId) (line : Nat) : Nat := if s.fused t then line / 16 % 128 else line % 128

/-- A line put into an L1; the oldest of eight in its set leaves (log entry 13). -/
def State.l1Put (s : State) (t : TileId) (e : L1Line) : State :=
  let k := s.lineSet t e.line
  s.modTile (s.lineHome t e.line) (fun x =>
    let l := x.l1.filter (fun q => q.line ≠ e.line)
    let same := l.filter (fun q => s.lineSet t q.line = k)
    let l := if same.length ≥ 8 then removeFirst (fun q => s.lineSet t q.line = k) l else l
    { x with l1 := l ++ [e] })

/-- A line in the L1 that serves a tile, for a load that is ordered after the first `seen` stores: one that lacks such a store is missed, as
the line may be replaced at any time (08 R179, 11 R234). -/
def State.l1Get (s : State) (t : TileId) (line seen : Nat) : Option L1Line :=
  (s.tile (s.lineHome t line)).l1.find? (fun e => e.line = line && (match e.stale with
    | none => true
    | some n => seen < n))

/-- A line dropped from the L1 that serves a tile. -/
def State.l1Drop (s : State) (t : TileId) (line : Nat) : State :=
  s.modTile (s.lineHome t line) (fun x => { x with l1 := x.l1.filter (fun e => e.line ≠ line) })

/-- The aligned 8-byte units that a run touches. -/
def unitsOf (a n : Nat) : List Nat := if n = 0 then [] else (List.range ((a + n - 1) / 8 - a / 8 + 1)).map (· + a / 8)

/-- The highest level of the units of a line that a run touches (11 R424). -/
def L1Line.levelOf (e : L1Line) (a n : Nat) : Nat := (unitsOf (a % 64) n).foldl (fun acc u => max acc (e.levels.getD u 0)) 0

/-- A present line updated by a passing store (08 R181), and the level of its units (11 R424). -/
def State.l1Patch (s : State) (t : TileId) (a level : Nat) (bs : Bytes) : State :=
  s.modTile (s.lineHome t (a / 64)) (fun x => { x with
    l1 := x.l1.map (fun e => if e.line = a / 64 then { e with
      bytes := overlay e.bytes (a % 64) bs,
      levels := e.levels.zipIdx.map (fun p => if (unitsOf (a % 64) bs.length).contains p.2 then level else p.1) } else e) })

/-- A line of an L1 marked when its bytes are no longer those of memory; `k` is the physical key of the line. -/
def L1Line.judge (m : Memory) (stores k : Nat) (e : L1Line) : L1Line :=
  if e.stale.isSome || Memory.getN m k 64 = e.bytes then e else { e with stale := some stores }

/-- A store of `n` bytes at a physical key is counted as performed, and the L1 lines over it that do not show it are marked (11 R234). -/
def State.noteWrite (s : State) (key n : Nat) : State :=
  let s := { s with stores := s.stores + 1 }
  { s with tiles := s.tiles.map (fun q => (q.1, { q.2 with l1 := q.2.l1.map (fun e =>
      match s.phys? (s.regionCtx q.2.region) (e.line * 64) with
      | some k => if k < key + n && key < k + 64 then e.judge s.mem s.stores k else e
      | none => e) })) }

/-- The numbers of a tile's load parts that have not returned. -/
def Tile.inFlight (x : Tile) : List Nat := x.replies.flatMap (fun r => r.2.left)

/-- Every line of a tile's L1 dropped; parts under way are not installed (09 R198, log entry 13). -/
def State.l1Clear (s : State) (t : TileId) : State :=
  s.modTile t (fun x => { x with l1 := [], l1Skip := x.inFlight })

/-- An acquire at a scope (08 R181, 10 R218): 0 tile, 1 cluster, 2 die, 3 package, 4 system. -/
def State.acquire (s : State) (t : TileId) (scope : Nat) : State :=
  if s.fused t then
    if scope ≥ 2 then (clusterTiles t.tile).foldl (fun s n => s.l1Clear ⟨t.die, n⟩) s else s
  else if scope ≥ 1 then s.l1Clear t else s

/-! ### Parts (09 R187, 10 R203) -/

/-- A run cut at the 64-byte lines: address, place in the run, length. -/
def linePieces : Nat → Nat → Nat → Nat → List (Nat × Nat × Nat)
  | 0, _, _, _ => []
  | k + 1, a, off, n =>
    if n = 0 then []
    else
      let m := min n (64 - a % 64)
      (a, off, m) :: linePieces k (a + m) (off + m) (n - m)

/-- The pieces of several runs, each with its place in the whole access. -/
def runPieces (runs : List (Nat × Nat)) : List (Nat × Nat × Nat) :=
  (runs.foldl (fun (acc : Nat × List (Nat × Nat × Nat)) r =>
    (acc.1 + r.2, acc.2 ++ linePieces (r.2 / 64 + 2) r.1 acc.1 r.2)) (0, [])).2

/-- The package and die code of a die of this package. -/
def State.code (s : State) (d : Nat) : BitVec 13 := BitVec.ofNat 13 (s.pkg * 8 + d)

/-- The stamp of part `k` of `n` of an access (11 R236, R424); all zero at FREE. -/
def stampOf (lv : Nat) (fi : Firing) (k n : Nat) : Stamp :=
  if lv = 0 then {}
  else
    let none48 : BitVec 48 := BitVec.ofNat 48 (2 ^ 48 - 1)
    let sq := fun (i : Nat) => BitVec.ofNat 48 (fi.seq i)
    let deps := fi.stTag.deps
    { frame := fi.stTag.frame, seq := sq k,
      pred := if k > 0 then sq (k - 1) else if deps.isEmpty then none48 else BitVec.ofNat 48 (deps.foldl max 0),
      succ := if k + 1 < n then sq (k + 1) else none48,
      level := BitVec.ofNat 48 fi.stTag.level.toNat, after := deps }

/-- The type and the operation of the parts of an access (14 R295). -/
def accessType (a : Access) : BitVec 8 :=
  match a.op with
  | some _ => 0x02
  | none => if a.writes.isEmpty then 0x01 else 0x04

/-- What a part does with the L1 (08 R181, 10 R209, R212, R215). A load of a UN page at ORDERED and above asks the owner, which keeps its
place in the rebuilt order (11 R237). Whether an RMT.RST that leaves the tile is a store from the tile that updates a present line the
spec does not say: it leaves the line as it is (log entry 58). -/
def State.l1Mode (s : State) (a : Access) (va : Nat) : Nat :=
  let c := s.regionCtx a.job.fi.region
  if (a.major = 0x14 || a.major = 0x16) && s.level c ≥ 1 && s.kindAt c va = 2 then 0
  else match a.major, a.minor with
  | 0x14, 1 => 1
  | 0x14, 3 =>
    if (s.ctx c).fcReader && s.level c = 0 && vaOwner va ≠ (s.code a.job.fi.die).toNat then 3 else 2
  | 0x14, _ => 2
  | 0x16, _ => 2
  | 0x15, 1 => 5
  | 0x15, _ => 4
  | 0x17, _ => 4
  | 0x18, _ => 5
  | _, _ => 0

/-- The pieces of an access, with the bytes that they store. -/
def Access.pieces (a : Access) : List (Nat × Nat × Nat × Bytes) :=
  match a.op with
  | some (ea, _) => [(ea, 0, a.size, [])]
  | none =>
    if a.writes.isEmpty then (runPieces a.loads).map (fun p => (p.1, p.2.1, p.2.2, []))
    else
      let all := a.writes.flatMap (·.2)
      (runPieces (a.writes.map (fun w => (w.1, w.2.length)))).map (fun p => (p.1, p.2.1, p.2.2, sliceB all p.2.1 p.2.2))

/-- A remote access cut at its page boundaries alone (14 R310): a boundary of 64 KiB at which both sides are known to lie in one page is
none. -/
def State.pagePieces (s : State) (a : Access) : List (Nat × Nat × Nat × Bytes) :=
  let c := s.regionCtx a.job.fi.region
  let data := a.writes.flatMap (·.2)
  let runs := a.loads ++ a.writes.map (fun (w : Nat × Bytes) => (w.1, w.2.length))
  runs.flatMap (fun r =>
    let m := 65536 - r.1 % 65536
    let one := r.2 ≤ m || ((s.page? c r.1).isSome && s.page? c r.1 = s.page? c (r.1 + m))
    let cuts := if one then [(r.1, 0, r.2)] else [(r.1, 0, m), (r.1 + m, m, r.2 - m)]
    cuts.map (fun q => (q.1, q.2.1, q.2.2, if a.writes.isEmpty then [] else sliceB data q.2.1 q.2.2)))

/-- The pieces in the order of 09 R187: those on SO pages first, by page, when the access also lies on other pages or on several. -/
def State.orderPieces (s : State) (c : Nat) (ps : List (Nat × Nat × Nat × Bytes)) : List (Nat × Nat × Nat × Bytes) :=
  let so := ps.filter (fun p => s.kindAt c p.1 = 0)
  let rest := ps.filter (fun p => s.kindAt c p.1 ≠ 0)
  sortBy (fun p => p.1 / 65536) so ++ rest

/-- The highest level among a region's accesses, which its done barrier's join carries (11 R424). -/
def State.noteLevel (s : State) (j : Job) : State :=
  let lv := j.fi.stTag.level
  if s.level (s.regionCtx j.fi.region) = 0 then s
  else s.modRegion j.fi.region (fun r => { r with level := if r.level < lv then lv else r.level })

/-- The parts of an access, which has one owner (09 R183). `slot` is its reply slot; parts of an access that lies on SO pages and on others
wait for the SO parts on the issuing die, and follow them in the SO stream on another die (09 R187, 11 R230, R231). Release traffic keeps
no stream number (14 R306): the parts of an RST that follow one on an SO page leave when that is performed (09 R187, 14 R310). -/
def State.mkParts (s : State) (a : Access) (serial slot : Nat) : List Part × State :=
  let fi := a.job.fi
  let t := fi.at_
  let c := s.regionCtx fi.region
  let ps := s.orderPieces c (if a.major = 0x21 && a.op.isNone then s.pagePieces a else a.pieces)
  let ids := (List.range ps.length).map (· + s.nextId)
  let isSo := fun (p : Nat × Nat × Nat × Bytes) => s.kindAt c p.1 = 0
  let soIds := ((ps.zip ids).filter (fun q => isSo q.1)).map (·.2)
  let mixed := !soIds.isEmpty && soIds.length < ps.length
  let s1 := { s with nextId := s.nextId + ps.length }.noteLevel a.job
  ((ps.zip ids).zipIdx).foldl (fun (acc : List Part × State) q =>
    let p := q.1.1
    let own := vaOwner p.1
    let here := own = (s.code fi.die).toNat
    let rst := a.major = 0x21 && a.minor = 1
    let num := (isSo p || (mixed && !here)) && !(a.major = 0x21 && a.minor ≠ 0)
    let n := NMap.getD (acc.2.tile t).soNum own 0
    let s2 := if num then acc.2.modTile t (fun x => { x with soNum := NMap.put x.soNum own (n + 1) }) else acc.2
    let op : MemOp := match a.op with
      | some (_, o) => o
      | none => if a.writes.isEmpty then .load p.2.2.1 (s.l1Mode a p.1 = 2 || s.l1Mode a p.1 = 3) else .store p.2.2.2
    let pkt : Packet := {
      typ := accessType a, addr := BitVec.ofNat 64 p.1, to_ := BitVec.ofNat 13 own, from_ := s.code fi.die,
      inc := (s.die fi.die).inc, cls := if accessType a = 0x04 then 2 else 0, ctx := BitVec.ofNat 12 c,
      phase := fi.stTag.phase, stamp := stampOf (s.level c) fi q.2 ps.length, op := op, tile := fi.tile, slot := slot,
      serial := serial, part := q.1.2, offset := p.2.1, n := p.2.2.1, ring := BitVec.ofNat 2 a.ring, soNum := if num then some n else none,
      cred := a.credit }
    let part : Part := {
      pkt := pkt, l1 := s.l1Mode a p.1, seen := fi.stTag.seen,
      gate := if rst then soIds.filter (· < q.1.2) else if mixed && here && !isSo p then soIds else [] }
    (acc.1 ++ [part], s2)) ([], s1)

/-! ### Watch tests (19 R388 to R390) -/

/-- The three filter bits of a line (19 R388). -/
def watchBits (line : Nat) : List Nat :=
  (List.range 3).map (fun i => crc32c (leBytes 8 line ++ leBytes 1 i) % 4096)

/-- The lines that an access touches, in order. -/
def Access.lines (a : Access) : List Nat :=
  let runs : List (Nat × Nat) := match a.op with
    | some (ea, _) => [(ea, max 1 a.size)]
    | none => a.loads ++ a.writes.map (fun (w : Nat × Bytes) => (w.1, w.2.length))
  sortBy id ((runs.flatMap (fun r => if r.2 = 0 then [] else
    (List.range ((r.1 + r.2 - 1) / 64 - r.1 / 64 + 1)).map (· + r.1 / 64))).eraseDups)

/-- The bit of OBS_CTL that selects an access's class (19 R385). -/
def watchClass (a : Access) : Nat :=
  match a.major with
  | 0x14 | 0x16 => 5
  | 0x15 | 0x17 => 6
  | 0x21 => if a.minor = 0 then 5 else if a.minor = 1 then 6 else 7
  | _ => 7

/-- The lowest line of a watched access that hits the filter; none when the access is not watched or no line hits. -/
def State.watchHit (s : State) (a : Access) : Option Nat :=
  let o := (s.cd (s.regionCtx a.job.fi.region) a.job.fi.die).obs
  if a.job.fi.watched || !bitN o.ctl.toNat (watchClass a) then none
  else a.lines.find? (fun n => (watchBits n).all (fun b => o.filter.contains b))

/-- The watch fault of an access (19 R389). -/
def State.watchFault (s : State) (a : Access) (line : Nat) : State :=
  let j := a.job
  let t := j.fi.at_
  let held : Access := { a with job := { j with fi := { j.fi with watched := true } } }
  let n := fieldOf (s.tile t).watchStat 0 32
  let s := s.modTile t (fun x => { x with watchStat := withField x.watchStat 0 32 (min (2 ^ 32 - 1) (n + 1)) })
  s.raiseFault { index := 10, sync := true, ctx := s.regionCtx j.fi.region, die := j.fi.die, tile := some j.fi.tile,
                 region := j.fi.region, job := some j, block := j.fi.block, detail := leBytes 8 (line * 64),
                 operand := excerptA s j, acc := some held }

/-- Whether a synchronous fault would find a pending entry (18 R371). -/
def State.pendingFree (s : State) (c d : Nat) : Bool := (NMap.freeKey (s.cd c d).pending 63).isSome

/-! ### Issuing (10 R203) -/

/-- A bit of AGQ_STAT set (10 R227). -/
def State.agqNote (s : State) (t : TileId) (bit : Nat) : State :=
  s.modTile t (fun x => { x with agqStat := withBit x.agqStat bit })

/-- The first free reply slot of a tile. -/
def Tile.freeSlot (x : Tile) : Option Nat := NMap.freeKey x.replies 64

/-- The bytes of its own pass's held stores that lie over the result of a load (05 R104), by their place in the result. -/
def Tile.ownBytes (x : Tile) (a : Access) : List (Nat × Byte) :=
  match x.pass? a.job.fi.inst with
  | none => []
  | some p =>
    let ws := p.held.flatMap (fun e => match e with
      | .store b => b.writes
      | .rst b => b.writes
      | _ => [])
    if ws.isEmpty then []
    else (runPieces a.loads).flatMap (fun q => (List.range q.2.2).filterMap (fun i =>
      (writtenAt ws (q.1 + i)).map (fun b => (q.2.1 + i, b))))

/-- The sends of an access counted (06 R132). -/
def State.countParts (s : State) (fi : Firing) (typ : BitVec 8) (n : Nat) : State :=
  if typ = 0x01 then s
  else (List.range n).foldl (fun s _ => s.dieSent (s.regionCtx fi.region) fi.die fi.stTag.phase) s

/-- A load, an atomic or a barrier operation issued into a reply slot. -/
def State.issueSlot (s : State) (a : Access) (kind : ReplyKind) (slot : Nat) : State :=
  let t := a.job.fi.at_
  let (serial, s) := s.fresh
  let own := (s.tile t).ownBytes a
  let (parts, s) := s.mkParts a serial slot
  let job : Job := { a.job with fi := { a.job.fi with parts := parts.length } }
  let r : Reply := {
    job := job, kind := kind, major := a.major, minor := a.minor, serial := serial, left := parts.map (·.pkt.part), buf := zeros a.size,
    own := own, pkts := parts.map (·.pkt), since := s.cycles }
  let s := s.countParts a.job.fi (accessType a) parts.length
  let s := s.modTile t (fun x => { x with replies := NMap.put x.replies slot r, port := x.port ++ parts })
  s.due (.agPortIssue t)

/-- A store issued: its parts enter the port, its tokens wait for them (10 R208). -/
def State.issueStore (s : State) (a : Access) : State :=
  let t := a.job.fi.at_
  let (serial, s) := s.fresh
  let (parts, s) := s.mkParts a serial 0
  let job : Job := { a.job with fi := { a.job.fi with parts := parts.length } }
  let ids := parts.map (·.pkt.part)
  let s := s.countParts a.job.fi 0x04 parts.length
  let s := s.modTile t (fun x => { x with
    outs := x.outs ++ [⟨serial, a.job.fi.inst, job, true, ids, ids, false⟩], port := x.port ++ parts })
  s.due (.agPortIssue t)

/-- What an access of a firing comes to: it finds no reply slot and is offered again, hits the watch filter, or is issued. -/
def State.startSlot (s : State) (a : Access) (kind : ReplyKind) : State :=
  let t := a.job.fi.at_
  match (s.tile t).freeSlot with
  | none => (s.agqNote t 0).offerAgain a.job.fi
  | some k =>
    match s.watchHit a with
    | some line => s.watchFault a line
    | none => s.issueSlot a kind k

/-! ### Completion (10 R208, R218) -/

/-- An access out of the lists of the firings that wait for it. -/
def State.serialDone (s : State) (t : TileId) (serial : Nat) : State :=
  let s := s.modTile t (fun x => { x with
    orders := x.orders.map (fun o => { o with serials := o.serials.filter (· ≠ serial) }) })
  if (s.tile t).orders.any (fun o => o.serials.isEmpty) then s.due (.orderConditionMet t) else s

/-- The tile that holds the unfinished access with a number. -/
def State.outTile (s : State) (serial : Nat) : Option TileId :=
  (s.tiles.find? (fun p => p.2.outs.any (fun o => o.serial = serial))).map (fun p => ⟨p.1 / 1024, p.1 % 1024⟩)

/-- An access's parts struck off: `posted` for its tokens, `seen` for its performance. When no part is left its tokens are emitted;
when every part is performed the access is done. -/
def State.strike (s : State) (serial part : Nat) (posted seen : Bool) : State :=
  match s.outTile serial with
  | none => s
  | some t =>
    let upd := fun (o : Out) => if o.serial = serial then { o with
        left := if posted then o.left.filter (· ≠ part) else o.left,
        unseen := if seen then o.unseen.filter (· ≠ part) else o.unseen } else o
    let s := s.modTile t (fun x => { x with outs := x.outs.map upd })
    match (s.tile t).outs.find? (fun o => o.serial = serial) with
    | none => s
    | some o =>
      let s :=
        if o.left.isEmpty && o.tokens then
          let s := s.modTile t (fun x => { x with
            outs := x.outs.map (fun q => if q.serial = serial then { q with tokens := false } else q) })
          -- its tokens are ordered after it when it is performed; posted, only after its departure (11 R232)
          let j := if o.unseen.isEmpty then s.sawAllJob o.job else o.job
          (s.settle j (s.emitBoth j .value [])).serialDone t serial
        else s
      if o.left.isEmpty && o.unseen.isEmpty then
        (s.modTile t (fun x => { x with outs := x.outs.filter (fun q => q.serial ≠ serial) })).due (.commitDrain t)
      else s

/-- A reply slot freed. -/
def State.freeReply (s : State) (t : TileId) (slot : Nat) : State :=
  s.modTile t (fun x => { x with replies := NMap.del x.replies slot })

/-- The channel and the epoch of a slot's request, as bytes: zero outside release groups (14 R314). -/
def Reply.group (r : Reply) : Bytes :=
  match r.pkts with
  | p :: _ => [p.rc, p.epoch]
  | [] => [0, 0]

/-- A set whose reply slot ends in a remote fault (09 R188, 14 R314): the set is consumed, the fault asynchronous (18 R369). -/
def State.replyFault (s : State) (t : TileId) (slot code : Nat) (addr : Nat) (die : Nat) (unmapped : Bool) : State :=
  match NMap.find (s.tile t).replies slot with
  | none => s
  | some r =>
    -- a weights command whose data do not come leaves its port (12 R251)
    let s := match r.kind with
      | .weights lead =>
        let ch := ((s.island t.die lead).cmds.find? (fun (c : IslCmd) => c.id = r.serial)).map IslCmd.chan
        let s := s.modIsland t.die lead (fun x => { x with cmds := x.cmds.filter (fun (c : IslCmd) => c.id ≠ r.serial) })
        match ch with
        | some k => s.modTile t (fun x => { x with chanFree := NMap.alter x.chanFree k (· + 1) })
        | none => s
      | _ => s
    let s := ((s.freeReply t slot).serialDone t r.serial).consume r.job.fi
    s.raiseFault { index := 7, code := code, sync := false, ctx := s.regionCtx r.job.fi.region, die := t.die,
                   tile := some t.tile, region := r.job.fi.region, job := some r.job, block := r.job.fi.block,
                   detail := leBytes 8 addr ++ leBytes 2 die ++ r.group ++ [if unmapped then 1 else 0] }

/-! ### Requests under way (09 R197) -/

/-- The request that an event carries on, on its way or at its owner. -/
def eventRequest (e : Event) : Option Packet :=
  match e with
  | .packetHop _ p => if p.typ = 0x03 then none else some p
  | .ownerPerform _ p | .tlbMissFill _ p | .soHeldPerform _ p | .releaseWriteArrival _ p | .releaseFlagArrival _ p => some p
  | _ => none

/-- The parts of the programs' requests that have not been performed: those in a request port, on their way, or held at their owner. -/
def State.underWay (s : State) (mine : Packet → Bool) : List Nat :=
  let ps := s.tiles.flatMap (fun x => x.2.port.map (·.pkt)) ++ s.agenda.filterMap eventRequest
  ((ps.filter (fun p => mine p && p.part ≠ 0 && !p.fromHost)).map (·.part)).eraseDups

/-- Whether the drain tokens of an operation have arrived: every request that they follow has been performed (09 R197). -/
def State.drainHere (s : State) (op : Nat) : Bool :=
  match s.drainOps.find? (fun o => o.id = op) with
  | none => true
  | some o => let now := s.underWay (fun _ => true)
    o.waits.all (fun p => !now.contains p)

/-! ### Sending (14 R294, R295) -/

/-- What a packet does at the die that it is bound for, by its type. -/
def arrivalEvent (d : Nat) (p : Packet) : Option Event :=
  match p.typ.toNat with
  | 0x02 => if p.rel then some (.releaseFlagArrival d p) else some (.ownerPerform d p)
  | 0x01 | 0x04 | 0x0A => some (.ownerPerform d p)
  | 0x03 => some (.replyDelivery p)
  | 0x05 => some (.releaseWriteArrival d p)
  | 0x06 => some (.releaseFlagArrival d p)
  | 0x07 => some (.releaseCompleteArrival d p)
  | 0x08 => some (.gapReportArrival d p)
  | 0x09 => some (.groupAbortArrival d p)
  | 0x0B => some (.byteCredit d p)
  | 0x0C => some (.incarnationNotice d p.from_.toNat p.inc)
  | _ => none

/-- The age of a packet when a router has had it in hand (14 R298). -/
def aged (tick : Nat) (p : Packet) : Packet := { p with age := BitVec.ofNat 8 (min 255 (p.age.toNat + Config.hopAge tick)) }

/-- Whether a packet has reached the age at which a die drops it (14 R298). -/
def State.tooOld (s : State) (d : Nat) (p : Packet) : Bool := p.age.toNat ≥ fieldOf (s.die d).cctl 40 8

/-- A packet sent from a die: across its own mesh to its memory side, else on its way through the fabric. -/
def State.emitPkt (s : State) (d : Nat) (p : Packet) : State :=
  if p.to_ = s.code d && !p.toHost then
    let p := aged s.ticks p
    if s.tooOld d p then s.post (.packetAgeDrop d p)
    else match arrivalEvent d p with
    | some e => s.post e
    | none => s
  else s.post (.packetHop d p)

/-- The reply to a packet (14 R295). -/
def State.replyPkt (s : State) (d : Nat) (p : Packet) (op : MemOp) (level : BitVec 48) : Packet :=
  { p with
    typ := 0x03, to_ := p.from_, toHost := p.fromHost, from_ := s.code d, fromHost := false, inc := (s.die d).inc,
    cls := 1, op := op, viaLink := none, held := none, dir := 0, gHops := 0, lHops := 0, dateline := false, escape := false, age := 0, soNum := none, ring := 0,
    stamp := { p.stamp with level := level }, cred := 0 }

/-! ### The request port -/

/-- Whether the parts that a part follows are performed. -/
def Tile.gateOpen (x : Tile) (p : Part) : Bool :=
  let open_ := x.inFlight ++ x.outs.flatMap (·.unseen)
  p.gate.all (fun g => !open_.contains g)

/-- A part leaves the port (10 R203): a load that a cache serves is answered from it, a store updates or drops a present line. -/
def State.sendPart (s : State) (t : TileId) (p : Part) : State :=
  let a := p.pkt.addr.toNat
  match p.pkt.op with
  | .load _ _ =>
    let s := s.due (.requestTimeoutResend t p.pkt.slot)
    let hit : Option L1Line := match p.l1 with
      | 0 => none
      | 3 =>
        match s.l1Get t (a / 64) p.seen with
        | some l => some l
        | none => (lookupK (s.die t.die).fcache (p.pkt.ctx.toNat, a / 64)).map (fun b => { line := a / 64, bytes := b })
      | _ => s.l1Get t (a / 64) p.seen
    match hit with
    | some l =>
      let lv := if s.level p.pkt.ctx.toNat = 0 then 0 else BitVec.ofNat 48 (max p.pkt.stamp.level.toNat (l.levelOf a p.pkt.n))
      s.post (.replyDelivery (s.replyPkt t.die p.pkt (.data (sliceB l.bytes (a % 64) p.pkt.n) false) lv))
    | none => s.emitPkt t.die p.pkt
  | .store bs =>
    let s := if p.l1 = 4 then s.l1Patch t a p.pkt.stamp.level.toNat bs else if p.l1 = 5 then s.l1Drop t (a / 64) else s
    let s := s.emitPkt t.die p.pkt
    -- a release write to the tile's own die is posted as it leaves the port
    if p.pkt.typ = 0x05 && p.pkt.to_ = s.code t.die then s.strike p.pkt.serial p.pkt.part true false else s
  | _ => (if p.l1 = 5 then s.l1Drop t (a / 64) else s).emitPkt t.die p.pkt

/-- The request port issues its first part that may go. -/
def State.portStep (s : State) (t : TileId) : State :=
  let x := s.tile t
  match x.port.find? (fun p => x.gateOpen p) with
  | none => s
  | some p =>
    let s := s.modTile t (fun x => { x with port := removeFirst (fun q => q = p) x.port })
    let s := if (s.tile t).port.isEmpty then s else s.due (.agPortIssue t)
    s.sendPart t p

end Sys2Proof.Machine
end

