-- ==== Sys2Proof/Machine/Owner.lean ====
section
/-! DEFINITION. The owner's side of a request: translation (09 R188), SO streams (11 R230), first-write copies (17 R359), the rebuilt order
(11 R236 to R238), atomic units and barriers (10 R214 to R222), and the performance of a request at its slice (10 R206, R207). -/

namespace Sys2Proof.Machine

/-! ### Places -/

/-- The LPDDR6 channel of a physical address: one of the two behind its slice (01 R13, 10 R206). -/
def channelOf (pa : Nat) : Nat := 2 * sliceOf pa + pa / 256 / 48 % 2

/-- Whether a packet's operation writes memory (17 R359). -/
def opWrites : MemOp → Bool
  | .store _ | .atomic .. | .barInit .. | .barJoin _ | .flag _ | .credit _ => true
  | _ => false

/-- Bytes at a physical key written; the IW bits of the pages of the request's context are set (09 R186). -/
def State.writePkt (s : State) (d : Nat) (p : Packet) (key : Nat) (bs : Bytes) : State :=
  let s := { s with mem := Memory.setN s.mem key bs }.noteWrite key bs.length
  if p.phys then s
  else s.modCd p.ctx.toNat d (fun x => { x with pages := x.pages.map (fun q =>
    if q.va ≤ p.addr.toNat && p.addr.toNat < q.va + pdSize q.desc then { q with desc := withBit q.desc 54 } else q) })

/-! ### First-write copies (17 R359) -/

/-- The context and unit whose copy a write by a request still needs; a host's physical write meets no context's page (20 R404). -/
def State.copyNeed (s : State) (d : Nat) (p : Packet) (key : Nat) : Option (Nat × Nat) :=
  let c := p.ctx.toNat
  let unit := key / 65536
  if p.phys || !opWrites p.op then none
  else if s.level c ≥ 1 && !s.uncopied c d p.addr.toNat && (NMap.find (s.cd c d).copies unit).isNone then some (c, unit)
  else none

/-! ### The rebuilt order (11 R236 to R238) -/

/-- The key of a stamp: level first, then frame, then SEQ (11 R236). -/
def stampKey (x : Stamp) : Nat := (x.level.toNat * 2 ^ 64 + x.frame.toNat) * 2 ^ 48 + x.seq.toNat

/-- Whether arcs order an access before another (11 R236, R237, log entry 14). -/
def stampBefore (x y : Stamp) : Bool := x.frame = y.frame && y.after.any (fun q => q / 2048 = x.seq.toNat / 2048)

/-- The rebuilt order of the accesses to one unit (11 R237): again and again the one of lowest key among those whose predecessors have all
been taken. -/
def rebuildOrder : Nat → List UnitAccess → List UnitAccess
  | 0, _ => []
  | n + 1, l =>
    let free := l.filter (fun g => !l.any (fun h => stampBefore h.stamp g.stamp))
    match minBy (fun g => stampKey g.stamp) (if free.isEmpty then l else free) with
    | none => []
    | some g => g :: rebuildOrder n (removeFirst (fun h => h = g) l)

/-- The accesses that the rebuilt order places after a new one to their unit. -/
def UnitAccess.placedAfter (x : UnitAccess) (hs : List UnitAccess) : List UnitAccess :=
  ((rebuildOrder (hs.length + 1) (hs ++ [x])).dropWhile (fun h => h ≠ x)).drop 1

/-- Whether one of the accesses performed on a unit conflicts with a new one that the rebuilt order places before it (11 R238). -/
def UnitAccess.late (x : UnitAccess) (hs : List UnitAccess) : Bool := (x.placedAfter hs).any (fun h => h.write || x.write)

/-- Whether a request takes part in the rebuilt order: a plain access of a tile or a streamer to a UN page at ORDERED and above. -/
def State.rebuilt (s : State) (p : Packet) : Bool :=
  !p.phys && !p.fromHost && s.level p.ctx.toNat ≥ 1 && s.kindAt p.ctx.toNat p.addr.toNat = 2
    && (match p.op with
      | .load .. | .store _ => p.typ = 0x01 || p.typ = 0x04 || p.typ = 0x05
      | _ => false)

/-- Whether a unit of a request is held for an access of an earlier run that the rebuilt order places first (11 R238). -/
def State.unitHeld (s : State) (d : Nat) (p : Packet) : Bool :=
  s.rebuilt p &&
    let x := s.cd p.ctx.toNat d
    (unitsOf p.addr.toNat (opSpan p.op)).any (fun u =>
      let me : UnitAccess := ⟨u, p.stamp, opWrites p.op⟩
      let done := x.history.filter (fun h => h.unit = u)
      let due := x.heldUnits.filter (fun h => h.unit = u && h ≠ me && !done.contains h)
      let l := (done ++ due).filter (fun h => h ≠ me) ++ [me]
      ((rebuildOrder l.length l).takeWhile (fun h => h ≠ me)).any (fun h => due.contains h))

/-- The accesses of a request noted, or the conflict that it meets: the units that conflict. -/
def State.noteAccess (s : State) (d : Nat) (p : Packet) : List Nat × State :=
  if !s.rebuilt p then ([], s)
  else
    let c := p.ctx.toNat
    let w := opWrites p.op
    let us := unitsOf p.addr.toNat (opSpan p.op)
    let x := s.cd c d
    let bad := us.filter (fun u => UnitAccess.late ⟨u, p.stamp, w⟩ (x.history.filter (fun h => h.unit = u)))
    (bad, s.modCd c d (fun y => { y with history := y.history ++ us.map (fun u => ⟨u, p.stamp, w⟩) }))

/-- A conflict: every access seen to its units is kept for the rerun, and a rollback is due; a conflict that meets one that is due starts no
rerun of its own (11 R238). -/
def State.conflict (s : State) (d : Nat) (p : Packet) (us : List Nat) : State :=
  let c := p.ctx.toNat
  let s := s.modCd c d (fun y => { y with
    heldUnits := (y.heldUnits ++ y.history.filter (fun h => us.contains h.unit)).eraseDups })
  if s.agenda.contains (.rollback c) then s else
  let n := fieldOf (s.die d).memord 32 32
  let s := s.modDie d (fun x => { x with memord := withBit (withField x.memord 32 32 (min (2 ^ 32 - 1) (n + 1))) 0 })
  ((s.setStatus c d 10).modCtx c (fun x => { x with cause := (0, d, p.stamp.frame.toNat) })).due (.rollback c)

/-! ### Levels of units (11 R424) -/

/-- The level that a read of some bytes returns: the highest of its own and of the last writes to its units. -/
def State.readLevel (s : State) (d : Nat) (p : Packet) : BitVec 48 :=
  if s.level p.ctx.toNat = 0 then 0
  else
    let m := (s.cd p.ctx.toNat d).unitLevels
    BitVec.ofNat 48 ((unitsOf p.addr.toNat (max 1 (opSpan p.op))).foldl (fun acc u => max acc ((NMap.getD m u 0).toNat)) p.stamp.level.toNat)

/-- The level of a write kept for its units. -/
def State.writeLevel (s : State) (d : Nat) (p : Packet) (n : Nat) : State :=
  if s.level p.ctx.toNat = 0 then s
  else s.modCd p.ctx.toNat d (fun x => { x with
    unitLevels := (unitsOf p.addr.toNat n).foldl (fun m u => NMap.put m u (BitVec.ofNat 32 p.stamp.level.toNat)) x.unitLevels })

/-! ### Atomics (10 R214) -/

/-- The new value at the location: `b0` and `b1` are the operand elements, `b` is `b0`. -/
def atomicNew (op : AtomOp) (size : Nat) (signed : Bool) (old b0 b1 : Nat) : Nat :=
  let w := 8 * size
  let v := fun (x : Nat) => if signed then asSigned w x else (x : Int)
  match op with
  | .add => (old + b0) % 2 ^ w
  | .min => if v b0 < v old then b0 else old
  | .max => if v b0 > v old then b0 else old
  | .and => old &&& b0
  | .or => old ||| b0
  | .xor => old ^^^ b0
  | .xchg => b0
  | .cas | .casw => if old = b0 then b1 else old
  | .fadd => addF32 old b0

/-- The SEQ of part 0 of the access of a stamp (17 R351). -/
def seqPart0 (x : Stamp) : Nat := x.seq.toNat / 2 ^ 11 * 2 ^ 11

/-- The key of the 16-byte unit of an 8-byte unit. -/
def wideUnit (u : Nat) : Nat := 2 ^ 61 + u / 2

/-- The site's record of an atomic: due when the last atomic on its unit, of 8 bytes or for an ATCASW
of 16, came from another frame (10 R216, 17 R349). -/
def State.atomGate (s : State) (d : Nat) (p : Packet) (key : Nat) : Gate :=
  let c := p.ctx.toNat
  if s.level c < 2 then .go s
  else
    let u := p.addr.toNat / 8
    let wide := opSpan p.op = 16
    let last := NMap.find (s.cd c d).atoms (if wide then wideUnit u else u)
    let fr := p.stamp.frame
    let (must, run) := runOf last fr
    -- each unit that the atomic lies on has it as its last one
    let us := (if wide then [u, u + 1] else [u]) ++ [wideUnit u]
    let mark := fun (s : State) => s.modCd c d (fun x => { x with
      atoms := us.foldl (fun m k => NMap.put m k (noteRun (NMap.find x.atoms k) fr)) x.atoms })
    let r : LogRec := ⟨7, 1, sliceOf (key % 2 ^ 39), fr, seqPart0 p.stamp, p.addr.toNat % 2 ^ 51 / 8, run⟩
    if must || s.runSpent c d r then
      match s.logEvent c d r with
      | .go s => .go (mark s)
      | .wait s => .wait s
    else .go (mark s)

/-! ### Barriers (10 R219 to R222) -/

/-- The 64 bytes of a barrier with one field of four bytes replaced. -/
def bar4 (b : Bytes) (off v : Nat) : Bytes := overlay b off (leBytes 4 v)

/-- The test for completion after a join or a credit: the bytes, and whether the phase completed (10 R219). -/
def barTest (b : Bytes) : Bytes × Bool :=
  let aExp := numAt b 4 4
  let aCnt := numAt b 8 4
  let bExp := numAt b 0x10 8
  let bCnt := numAt b 0x18 8
  let b := if aCnt > aExp || bCnt > bExp then bar4 b 0x0C (numAt b 0x0C 4 ||| 1) else b
  if aCnt ≥ aExp && bCnt ≥ bExp then
    let b := bar4 (bar4 b 0 (numAt b 0 4 + 1)) 8 0
    let b := overlay b 0x18 (zeros 8)
    (bar4 (bar4 b 0x24 (numAt b 0x20 4)) 0x20 0, true)
  else (b, false)

/-- The open level of a barrier raised to that of a join or credit (11 R424). -/
def barLevel (b : Bytes) (lv : Nat) : Bytes := bar4 b 0x20 (max (numAt b 0x20 4) lv)

/-- Whether a phase is reached (10 R219). -/
def phaseReached (phase p : Nat) : Bool := (phase + 2 ^ 32 - p % 2 ^ 32) % 2 ^ 32 < 2 ^ 31

/-- A waiter answered: a queue unit's waiter wakes its queue (06 R129), a tile's BARWAIT gets its reply. -/
def State.answer (s : State) (d : Nat) (p : Packet) (b : Bytes) : State :=
  if p.tile = 4095 then s.post (.queueWaiterAnswer (p.from_.toNat % 8) p.slot (BitVec.ofNat 32 (numAt b 0x24 4)))
  else s.emitPkt d (s.replyPkt d p (.data (leBytes 4 (numAt b 0 4)) false) (BitVec.ofNat 48 (numAt b 0x24 4)))

/-- A barrier's bytes written after a join or credit, its waiters answered when the phase completed (10 R219, R221). -/
def State.barStore (s : State) (d : Nat) (p : Packet) (key : Nat) (b : Bytes) : State :=
  let (b, done) := barTest b
  let s := s.writePkt d p key b
  if !done then s
  else
    let ready := (s.die d).waiters.filter (fun w => w.1 = key && (match w.2.op with
      | .barWait target => phaseReached (numAt b 0 4) target.toNat
      | _ => false))
    let s := s.modDie d (fun x => { x with waiters := x.waiters.filter (fun w => !ready.contains w) })
    ready.foldl (fun s w => s.answer d w.2 b) s

/-! ### Performing -/

/-- A posted or answered write is performed: counted (06 R132), struck off its access, its credit sent (10 R220). -/
def State.writeDone (s : State) (d : Nat) (p : Packet) (n : Nat) : State :=
  let c := p.ctx.toNat
  let s := if p.fromHost then s else s.dieRecv c d p.phase
  let s := if p.typ = 0x04 && !p.fromHost then s.strike p.serial p.part (p.from_ = s.code d) true
    else if p.typ = 0x05 then s.strike p.serial p.part false true else s
  if p.cred = 0 || n = 0 then s
  else
    let s := s.dieSent c d p.phase
    s.emitPkt d {
      typ := 0x0B, addr := p.cred, to_ := BitVec.ofNat 13 (vaOwner p.cred.toNat), from_ := s.code d, inc := (s.die d).inc,
      cls := 2, ctx := p.ctx, phase := p.phase, stamp := { p.stamp with seq := 0 }, op := .credit n }

/-- The next number of an SO stream at its owner moved on (11 R230); a request performed again moves it no further. -/
def State.soDone (s : State) (d : Nat) (p : Packet) : State :=
  match p.soNum with
  | none => s
  | some n => s.modDie d (fun x =>
    let k := (p.from_.toNat, p.tile)
    { x with soNext := putK x.soNext k (max (n + 1) ((lookupK x.soNext k).getD 0)) })

/-- A request with no valid mapping (09 R188): answered with the fault, or dropped with the fault raised here; its SO stream goes on. -/
def State.unmapped (s : State) (d : Nat) (p : Packet) : State :=
  let c := p.ctx.toNat
  let s := s.soDone d p
  match p.op with
  | .prefetch _ => s
  | _ =>
    if p.fromHost then s.emitPkt d (s.replyPkt d p (.remoteFault 0x0D) p.stamp.level)
    else if p.typ = 0x01 || p.typ = 0x02 then
      let s := if p.typ = 0x02 then s.dieRecv c d p.phase else s
      s.emitPkt d (s.replyPkt d p (.remoteFault 0x0D) p.stamp.level)
    else
      let s := s.dieRecv c d p.phase
      let s := if p.typ = 0x04 then s.strike p.serial p.part (p.from_ = s.code d) true
        else if p.typ = 0x05 then s.strike p.serial p.part false true else s
      s.raiseFault { index := 7, code := 0x0D, sync := false, ctx := c, die := d,
                     detail := leBytes 8 p.addr.toNat ++ leBytes 2 (s.code d).toNat ++ [p.rc, p.epoch, 1] }

/-- Whether a request stands ahead of its predecessor in its SO stream (11 R230). -/
def State.soAhead (s : State) (d : Nat) (p : Packet) : Bool :=
  match p.soNum with
  | none => false
  | some n => (lookupK (s.die d).soNext (p.from_.toNat, p.tile)).getD 0 < n

/-- A barrier operation's record (10 R222). -/
def State.joinGate (s : State) (d : Nat) (p : Packet) (key : Nat) : Gate :=
  s.logEvent p.ctx.toNat d ⟨8, 1, sliceOf (key % 2 ^ 39), p.stamp.frame, seqPart0 p.stamp, p.addr.toNat % 2 ^ 51 / 64, 0⟩

/-- A request held for its record: it stands before later requests to its unit (17 R352), but where recorded events are enforced, of
which the next may be another request's (10 R216, R222). -/
def State.stall (s : State) (d : Nat) (p : Packet) : State :=
  let s := if s.replaying p.ctx.toNat d then s
    else s.modDie d (fun x => if x.stalled.contains p then x else { x with stalled := x.stalled ++ [p] })
  s.post (.ownerPerform d p)

/-- A counted request received at its owner (06 R132); a host's request is in no count, and its atomics are not logged (11 R240). -/
def State.reqRecv (s : State) (d : Nat) (p : Packet) : State := if p.fromHost then s else s.dieRecv p.ctx.toNat d p.phase

/-- A request performed at its slice (10 R207): `key` is the physical key of its address. -/
def State.performAt (s : State) (d : Nat) (p : Packet) (key : Nat) : State :=
  let c := p.ctx.toNat
  let slice := sliceOf (key % 2 ^ 39)
  let s := s.modDie d (fun x => { x with stalled := x.stalled.filter (· ≠ p) })
  let lv := p.stamp.level
  let reply := fun (s : State) (op : MemOp) (lv : BitVec 48) => s.emitPkt d (s.replyPkt d p op lv)
  match p.op with
  | .load n inst =>
    let line := inst && !p.phys && s.kindAt c p.addr.toNat ≠ 0
    let bs := if line then Memory.getN s.mem (key / 64 * 64) 64 else Memory.getN s.mem key n
    let lvs := if line && s.level c ≥ 1
      then (List.range 8).map (fun i => (NMap.getD (s.cd c d).unitLevels (p.addr.toNat / 64 * 8 + i) 0).toNat) else []
    let s := s.soDone d p
    s.emitPkt d { s.replyPkt d p (.data bs line) (s.readLevel d p) with readAt := s.stores, levels := lvs }
  | .store bs =>
    let s := ((s.writePkt d p key bs).writeLevel d p bs.length).soDone d p
    let s := s.writeDone d p bs.length
    if p.fromHost && p.typ ≠ 0x04 then reply s (.data [] false) 0 else s
  | .atomic op size signed b0 b1 =>
    match (if p.fromHost then .go s else s.atomGate d p key) with
    | .wait s => s.stall d p
    | .go s =>
      let old := Memory.getN s.mem key size
      let new := leBytes size (atomicNew op size signed (leNat old) (leNat b0) (leNat b1))
      let lv := s.readLevel d p
      let s := ((s.writePkt d p key new).writeLevel d p size).soDone d p
      reply (s.reqRecv d p) (.data old false) lv
  | .barInit aExp phase bExp =>
    let old := Memory.getN s.mem key 64
    let b := overlay old 0 (leBytes 4 phase.toNat ++ leBytes 4 aExp.toNat ++ zeros 8 ++ leBytes 8 bExp.toNat ++ zeros 16)
    let s := (s.writePkt d p key b).soDone d p
    reply (s.reqRecv d p) (.data (leBytes 4 phase.toNat) false) lv
  | .barJoin n =>
    let go := fun (s : State) =>
      let b := Memory.getN s.mem key 64
      let ph := numAt b 0 4
      let b := bar4 b 8 (min (2 ^ 32 - 1) (numAt b 8 4 + n.toNat))
      let b := if s.level c ≥ 1 then barLevel b lv.toNat else b
      let s := (s.barStore d p key b).soDone d p
      reply (s.reqRecv d p) (.data (leBytes 4 ph) false) lv
    match (if p.fromHost then .go s else s.joinGate d p key) with
    | .wait s => s.stall d p
    | .go s => go s
  | .barWait target =>
    let b := Memory.getN s.mem key 64
    let s := (s.soDone d p).reqRecv d p
    if phaseReached (numAt b 0 4) target.toNat then s.answer d p b
    else if ((s.die d).waiters.filter (fun w => sliceOf (w.1 % 2 ^ 39) = slice)).length ≥ 256 then reply s .retry lv
    else s.modDie d (fun x => { x with waiters := x.waiters ++ [(key, p)] })
  | .credit n =>
    let b := Memory.getN s.mem key 64
    let b := overlay b 0x18 (leBytes 8 (min (2 ^ 64 - 1) (numAt b 0x18 8 + n)))
    let b := if s.level c ≥ 1 then barLevel b lv.toNat else b
    (s.barStore d p key b).reqRecv d p
  | .flag bs => (s.writePkt d p key bs).writeLevel d p bs.length
  | _ => s

/-- A translated request: held in its SO stream, for a first-write copy, or performed; an order conflict rolls the context back. -/
def State.ownerGo (s : State) (d : Nat) (p : Packet) (key : Nat) : State :=
  if s.soAhead d p then s.post (.soHeldPerform d p)
  else match s.copyNeed d p key with
    | some (c, u) => (s.due (.firstWriteCopy d c u)).post (.ownerPerform d p)
    | none =>
      let (bad, s') := s.noteAccess d p
      if bad.isEmpty then s'.performAt d p key else s'.conflict d p bad

/-- Whether the TLB of a die holds the page of a request (09 R188). -/
def State.tlbHit (s : State) (d : Nat) (p : Packet) : Bool :=
  p.phys || (match s.page? p.ctx.toNat p.addr.toNat with
    | none => false
    | some g => (s.die d).tlb.contains (p.ctx.toNat, g.va, fieldOf g.desc 61 2))

/-- A request that reaches its owner (10 R206, R207). A host's physical write to a page that a context maps is dropped and counted in
CHITIS_STAT.BAD (20 R404). -/
def State.ownerStep (s : State) (d : Nat) (p : Packet) : State :=
  if p.phys && opWrites p.op && s.physMapped d (p.addr.toNat % 2 ^ 51) (opSpan p.op) then s.cstatUp d 4 12
  else if s.tlbHit d p then
    match s.pktKey d p with
    | some key => s.ownerGo d p key
    | none => s.unmapped d p
  else s.post (.tlbMissFill d p)

/-- A TLB miss: the tables are read and the entry filled, the oldest of 4096 replaced; a request with no mapping faults. -/
def State.tlbStep (s : State) (d : Nat) (p : Packet) : State :=
  match s.page? p.ctx.toNat p.addr.toNat, s.pktKey d p with
  | some g, some key =>
    let e := (p.ctx.toNat, g.va, fieldOf g.desc 61 2)
    let s := s.modDie d (fun x =>
      let l := if x.tlb.contains e then x.tlb else x.tlb ++ [e]
      { x with tlb := l.drop (l.length - 4096) })
    s.ownerGo d p key
  | _, _ => s.unmapped d p

/-- Whether a request stands behind an earlier part of its port to the same line, which is performed first (10 R210), unless that part itself
waits for the rebuilt order. -/
def State.lineBehind (s : State) (d : Nat) (p : Packet) : Bool :=
  p.part ≠ 0 && !p.fromHost && s.agenda.any (fun e => match e with
    | .ownerPerform d2 q | .tlbMissFill d2 q | .soHeldPerform d2 q => d2 = d && q.part ≠ 0 && q.part < p.part && !q.fromHost
        && q.from_ = p.from_ && q.tile = p.tile && q.ctx = p.ctx && q.addr.toNat / 64 = p.addr.toNat / 64 && !s.unitHeld d q
    | _ => false)

/-- Whether a request must still wait at its owner: for a copy under way, an earlier access of a held unit, a stalled request to one of
its units, an earlier part of its port to its line, or an atomic of its frame that comes first (10 R210, R216, 11 R238, 17 R352, R359). -/
def State.ownerBlocked (s : State) (d : Nat) (p : Packet) : Bool :=
  let key := s.pktKey d p
  (match key with
    | some k => (match s.copyNeed d p k with
      | some (c, u) => s.agenda.contains (.firstWriteCopy d c u)
      | none => false)
    | none => false)
  || s.unitHeld d p
  || (s.die d).stalled.any (fun q => q ≠ p && q.ctx = p.ctx &&
      (unitsOf q.addr.toNat (opSpan q.op)).any (fun u => (unitsOf p.addr.toNat (opSpan p.op)).contains u))
  || s.lineBehind d p
  || (p.typ = 0x02 && s.level p.ctx.toNat ≥ 1 && s.agenda.any (fun e => match e with
      | .ownerPerform d2 q => d2 = d && q.typ = 0x02 && q.ctx = p.ctx && q.addr = p.addr && q.stamp.frame = p.stamp.frame
          && q.stamp.level = p.stamp.level && q.stamp.seq.toNat < p.stamp.seq.toNat
      | _ => false))

/-! ### The steps -/

def execTlbMissFill (s : State) : Host.Outcome State Fault Refusal :=
  match s.ev with
  | .tlbMissFill d p => .next (s.tlbStep d p)
  | _ => .next s

/-- A held request of an SO stream whose turn has come (11 R230). -/
def execSoHeldPerform (s : State) : Host.Outcome State Fault Refusal :=
  match s.ev with
  | .soHeldPerform d p => .next (match s.pktKey d p with
    | some key => s.ownerGo d p key
    | none => s.unmapped d p)
  | _ => .next s

/-- A byte credit at its barrier's slice (10 R220); a credit to no mapping is dropped with the fault of 09 R188. -/
def execByteCredit (s : State) : Host.Outcome State Fault Refusal :=
  match s.ev with
  | .byteCredit d p => .next (s.ownerStep d p)
  | _ => .next s

end Sys2Proof.Machine
end

