-- ==== Sys2Proof/Machine/Access.lean ====
section
/-! DEFINITION. The meanings of LD, ST, GATHER, SCATTER (10 R209 to R213), ATOM (10 R214), ORDER (10 R218), BAR (10 R221) and XFER (10 R224),
with the steps of the request port, the delivery of replies, BARWAIT's retry and the conditions of ORDER and JOIN. -/

namespace Sys2Proof.Machine

/-! ### Descriptors (10 R204, R205) -/

/-- The launch of a firing's region. -/
def State.launchOf (s : State) (fi : Firing) : Option Launch := (s.region? fi.region).map (·.launch)

/-- The base address that a descriptor forms: offset, address register, addend (10 R205). -/
def baseAddr (s : State) (j : Job) (desc : Bytes) (add : Nat) : Nat :=
  let b := (byteAt desc 8).toNat
  let a := if bitN b 4 then ((s.tile j.fi.at_).areg (bitsN b 0 4)).toNat else 0
  (numAt desc 0 8 + a + add) % 2 ^ 64

/-- The element runs of LD, ST, GATHER and SCATTER (10 R205): none when the descriptor breaks its limits. `lenB` is the length of B for a
store with a token on side B. -/
def elementRuns (major minor sz ea : Nat) (desc : Bytes) (lenB : Option Nat) : Option (List (Nat × Nat)) :=
  let l := (byteAt desc 9).toNat
  let idx := fun (i : Nat) => numAt desc (24 + 4 * i) 4
  let gw := major = 0x16 && minor = 1
  let r := numAt desc 10 2
  let runs : List (Nat × Nat) :=
    if major = 0x14 || major = 0x15 then
      let lb := if l = 0 then lenB.getD 128 else l
      (List.range (lb / sz)).map (fun i => (ea + i * sz, sz))
    else if gw then (List.range l).map (fun i => (ea + idx i, r))
    else (List.range l).map (fun i => (ea + idx i * sz, sz))
  let bad := if major = 0x14 || major = 0x15 then l > 128
    else l > 26 || (if gw then r = 0 || l * r > 128 else l * sz > 128)
  if bad || runs.any (fun q => q.1 + q.2 > 2 ^ 64) then none else some runs

/-- Contiguous runs joined: the runs of a contiguous access are one run. -/
def joinRuns (runs : List (Nat × Nat)) : List (Nat × Nat) :=
  match runs with
  | [] => []
  | r :: _ => [(r.1, sumN (runs.map (·.2)))]

/-- What a firing's result and completion tokens carry when they leave together under a tag. -/
def State.emitAll (s : State) (j : Job) (g : Tag) (kind : Kind) (res : Bytes) : State :=
  (s.emitRes j false (dests j.f) g kind (some res)).emitDone j false (dests j.f) g (some res)

/-! ### LD and GATHER -/

/-- A load or gather firing (10 R205, R210). -/
def fireLoad (major minor : Nat) (f : Fields) (s : State) : State :=
  s.fire f (some .value) (dests f) (sregDests f) (fun j s =>
    let desc := descriptorOn s j false
    let ea := baseAddr s j desc (addendOn s j 8)
    match elementRuns major minor f.tyT.size ea desc none, s.launchOf j.fi with
    | some runs, some l =>
      match firstDeniedOf l false (if major = 0x14 then joinRuns runs else runs) with
      | some a => s.leaseFault j major a 0
      | none =>
        let loads := if major = 0x14 then joinRuns runs else runs
        let n := sumN (loads.map (·.2))
        if n = 0 then (s.consume j.fi).emitBoth j .value []
        else s.startSlot { job := j, major := major, minor := minor, loads := loads, size := n } .data
    | _, _ => s.leaseFault j major ea 2)

/-- A parameter-window load (10 R211): bytes from the bound upward read zero. -/
def fireLdpw (f : Fields) (s : State) : State :=
  s.fire f (some .value) (dests f) (sregDests f) (fun j s =>
    let desc := descriptorOn s j false
    let k := bitsN (byteAt desc 8).toNat 0 3
    let off := (numAt desc 0 8 + addendOn s j 8) % 2 ^ 32
    let l := (byteAt desc 9).toNat
    let n := (if l = 0 then 128 else l) / f.tyT.size * f.tyT.size
    let c := s.regionCtx j.fi.region
    if l > 128 then s.leaseFault j 0x14 off 2
    else match s.window? j.fi.region k with
      | none => s.jobFault j 2 k []
      | some w =>
        let s' := if windowOver w off n then s.setStatus c j.fi.die 4 else s
        let m := min n (w.2 - off)
        if n = 0 then (s'.consume j.fi).emitBoth j .value []
        else if m = 0 then (s'.consume j.fi).emitBoth j .value (zeros n)
        else match (s.launchOf j.fi).bind (fun l => firstDenied l false (w.1 + off) m) with
        | some a => s.leaseFault j 0x14 a 0
        | none => s'.startSlot { job := j, major := 0x14, minor := 2, loads := [(w.1 + off, m)], size := n } .data)

/-- The parts under way of a context on a die that fill the fabric cache. -/
def State.fcFlight (s : State) (c d : Nat) : List Nat :=
  (s.ctxTiles c).flatMap (fun t => if t.die = d then
    (s.tile t).replies.flatMap (fun r => if r.2.major = 0x14 && r.2.minor = 3 then r.2.left else []) else [])

/-- A context's lines dropped from a die's fabric cache; parts under way are not installed (10 R212). -/
def State.fcClear (s : State) (c d : Nat) : State :=
  let fl := s.fcFlight c d
  s.modDie d (fun x => { x with fcache := x.fcache.filter (fun e => e.1.1 ≠ c), fcSkip := x.fcSkip ++ fl })

/-- An FCINV firing: at package and system scope every die of the package (10 R212). -/
def fireFcinv (f : Fields) (s : State) : State :=
  s.fire f (some .value) (dests f) (sregDests f) (fun j s =>
    let c := s.regionCtx j.fi.region
    let s := if f.scope = 2 then s.fcClear c j.fi.die else (List.range 8).foldl (fun s d => s.fcClear c d) s
    (s.consume j.fi).emitBoth j .value [])

def execLdLd (f : Fields) (s : State) : Host.Outcome State Fault Refusal := .next (fireLoad 0x14 0 f s)
def execLdLdnt (f : Fields) (s : State) : Host.Outcome State Fault Refusal := .next (fireLoad 0x14 1 f s)
def execLdLdpw (f : Fields) (s : State) : Host.Outcome State Fault Refusal := .next (fireLdpw f s)
def execLdLdfc (f : Fields) (s : State) : Host.Outcome State Fault Refusal := .next (fireLoad 0x14 3 f s)
def execLdFcinv (f : Fields) (s : State) : Host.Outcome State Fault Refusal := .next (fireFcinv f s)
def execGatherGath (f : Fields) (s : State) : Host.Outcome State Fault Refusal := .next (fireLoad 0x16 0 f s)
def execGatherGathw (f : Fields) (s : State) : Host.Outcome State Fault Refusal := .next (fireLoad 0x16 1 f s)

/-! ### ST and SCATTER -/

/-- A store or scatter firing: checked and held (10 R205, R210, 05 R103). One that stores nothing emits at issue. -/
def fireStore (major minor : Nat) (f : Fields) (s : State) : State :=
  s.fire f (some .value) (dests f) [] (fun j s =>
    let desc := descriptorOn s j false
    let sz := f.tyT.size
    let ea := baseAddr s j desc 0
    let lenB := if f.srcB = 0 then some (j.fi.payload true).length else none
    match elementRuns major minor sz ea desc lenB, s.launchOf j.fi with
    | some runs, some l =>
      let data := operandIn s j f.tyT true
      let mask := numAt desc 12 4
      let els := runs.zipIdx.filter (fun q => !(major = 0x17 && minor = 1) || bitN mask q.2)
      let ws := els.map (fun q => (q.1.1, sliceB data (q.2 * sz) sz))
      -- every element is checked, whether the mask enables it or not (10 R205)
      match firstDeniedOf l true (if major = 0x15 then joinRuns runs else runs) with
      | some a => s.leaseFault j major a 0
      | none =>
        let s' := s.consume j.fi
        if ws.isEmpty then s'.emitBoth j .value []
        else
          let ws := if major = 0x15 then [(ea, ws.flatMap (·.2))] else ws
          s'.hold j (.store { job := j, major := major, minor := minor, writes := ws,
                              credit := BitVec.ofNat 64 (numAt desc 16 8) })
    | _, _ => s.leaseFault j major ea 2)

def execStSt (f : Fields) (s : State) : Host.Outcome State Fault Refusal := .next (fireStore 0x15 0 f s)
def execStStnt (f : Fields) (s : State) : Host.Outcome State Fault Refusal := .next (fireStore 0x15 1 f s)
def execScatterScat (f : Fields) (s : State) : Host.Outcome State Fault Refusal := .next (fireStore 0x17 0 f s)
def execScatterScatm (f : Fields) (s : State) : Host.Outcome State Fault Refusal := .next (fireStore 0x17 1 f s)

/-! ### ATOM -/

/-- Side B of an atomic: the token's bytes, the literal in every element, the register, or zeros (10 R214). -/
def atomOperand (s : State) (j : Job) (sz : Nat) : Bytes :=
  match Fields.sel j.f true with
  | 0 => wholeElems j.f.tyT (j.fi.payload true)
  | 1 => if j.f.tyT = .none then repeatTo 32 (leBytes 4 j.f.lit.toNat) else repeatTo (2 * sz) (litElem j.f.tyT j.f.lit)
  | 2 => (s.tile j.fi.at_).sreg (Fields.sregNo j.f true)
  | _ => []

/-- An atomic firing (10 R214, R215). -/
def fireAtom (minor : Nat) (op : AtomOp) (f : Fields) (s : State) : State :=
  s.fire f (some .value) (dests f) (sregDests f) (fun j s =>
    let ea := baseAddr s j (descriptorOn s j false) 0
    let sz := if minor = 8 then 16 else f.tyT.size
    let b := atomOperand s j sz
    match s.launchOf j.fi with
    | none => s
    | some l =>
      if ea % sz ≠ 0 then s.leaseFault j 0x18 ea 1
      else match firstDenied l true ea sz with
        | some a => s.leaseFault j 0x18 a 0
        | none =>
          s.startSlot { job := j, major := 0x18, minor := minor, size := sz,
                        op := some (ea, .atomic op sz f.tyT.isSigned (sliceB b 0 sz) (sliceB b sz sz)) } .atomic)

def execAtomAtadd (f : Fields) (s : State) : Host.Outcome State Fault Refusal := .next (fireAtom 0 .add f s)
def execAtomAtmin (f : Fields) (s : State) : Host.Outcome State Fault Refusal := .next (fireAtom 1 .min f s)
def execAtomAtmax (f : Fields) (s : State) : Host.Outcome State Fault Refusal := .next (fireAtom 2 .max f s)
def execAtomAtand (f : Fields) (s : State) : Host.Outcome State Fault Refusal := .next (fireAtom 3 .and f s)
def execAtomAtor (f : Fields) (s : State) : Host.Outcome State Fault Refusal := .next (fireAtom 4 .or f s)
def execAtomAtxor (f : Fields) (s : State) : Host.Outcome State Fault Refusal := .next (fireAtom 5 .xor f s)
def execAtomAtxchg (f : Fields) (s : State) : Host.Outcome State Fault Refusal := .next (fireAtom 6 .xchg f s)
def execAtomAtcas (f : Fields) (s : State) : Host.Outcome State Fault Refusal := .next (fireAtom 7 .cas f s)
def execAtomAtcasw (f : Fields) (s : State) : Host.Outcome State Fault Refusal := .next (fireAtom 8 .casw f s)
def execAtomAtfadd (f : Fields) (s : State) : Host.Outcome State Fault Refusal := .next (fireAtom 9 .fadd f s)

/-! ### ORDER -/

/-- The kinds of reply slots that hold memory accesses. -/
def ReplyKind.isAccess : ReplyKind → Bool
  | .data | .atomic | .barrier | .barwait _ | .status | .drain | .remote => true
  | _ => false

/-- The earlier accesses of a tile that have not emitted their completion tokens (10 R218). -/
def Tile.earlier (x : Tile) : List Nat :=
  (x.outs.filter (·.tokens)).map (·.serial) ++ (x.replies.filter (fun r => r.2.kind.isAccess)).map (·.2.serial)

/-- The condition of an ORDER or JOIN firing holds: it acquires, and emits (10 R218, 06 R138). Its tokens are ordered after what it waited
for, and after what it acquires (11 R232, R233). -/
def State.finishOrder (s : State) (o : OrderWait) : State :=
  let t := o.job.fi.at_
  let s' := if o.fence then (s.acquire t 4).fcClear (s.regionCtx o.job.fi.region) t.die
    else if o.acquire then s.acquire t o.scope else s
  s.settle o.job (s'.emitAll o.job (s'.sawAll o.tag) o.kind o.pay)

/-- An ORDER firing. -/
def fireOrder (rel acq fence : Bool) (f : Fields) (s : State) : State :=
  (if acq then s.fireAcquiring f else s.fire f) (some .value) (dests f) (sregDests f) (fun j s =>
    let t := j.fi.at_
    let a := operandIn s j .none false
    let g := if acq then s.syncUp j j.fi.stTag else j.fi.stTag
    let o : OrderWait := {
      job := j, serials := if rel then (s.tile t).earlier else [], scope := f.scope, acquire := acq, fence := fence,
      kind := .value, pay := a, tag := g }
    let s := s.consume j.fi
    if o.serials.isEmpty then s.finishOrder o
    else s.modTile t (fun x => { x with orders := x.orders ++ [o] }))

def execOrderAcq (f : Fields) (s : State) : Host.Outcome State Fault Refusal := .next (fireOrder false true false f s)
def execOrderRel (f : Fields) (s : State) : Host.Outcome State Fault Refusal := .next (fireOrder true false false f s)
def execOrderAcqrel (f : Fields) (s : State) : Host.Outcome State Fault Refusal := .next (fireOrder true true false f s)
def execOrderFence (f : Fields) (s : State) : Host.Outcome State Fault Refusal := .next (fireOrder true true true f s)

/-- The condition of a waiting ORDER or JOIN holds (10 R218). -/
def execOrderConditionMet (s : State) : Host.Outcome State Fault Refusal :=
  match s.ev with
  | .orderConditionMet t =>
    match (s.tile t).orders.find? (fun o => o.serials.isEmpty) with
    | none => .next s
    | some o =>
      let s := s.modTile t (fun x => { x with orders := removeFirst (fun q => q = o) x.orders })
      let s := if (s.tile t).orders.any (fun q => q.serials.isEmpty) then s.due (.orderConditionMet t) else s
      .next (s.finishOrder o)
  | _ => .next s

/-! ### BAR -/

/-- A barrier firing (10 R221): `w` says that its range must be writable. -/
def fireBar (minor : Nat) (w : Bool) (f : Fields) (s : State) : State :=
  s.fire f (some .value) (dests f) (sregDests f) (fun j s =>
    let ea := baseAddr s j (descriptorOn s j false) 0
    let b := match Fields.sel f true with
      | 0 => j.fi.payload true
      | 1 => leBytes 4 f.lit.toNat
      | 2 => (s.tile j.fi.at_).sreg (Fields.sregNo f true)
      | _ => []
    let n4 := fun (o : Nat) => BitVec.ofNat 32 (numAt b o 4)
    let op : MemOp := match minor with
      | 0 => .barInit (n4 0) (n4 4) (BitVec.ofNat 64 (numAt b 8 8))
      | 1 => .barJoin (if f.srcB = 3 then 1 else n4 0)
      | _ => .barWait (n4 0)
    match s.launchOf j.fi with
    | none => s
    | some l =>
      if ea % 64 ≠ 0 then s.leaseFault j 0x1A ea 1
      else match firstDenied l w ea 64 with
        | some a => s.leaseFault j 0x1A a 0
        | none =>
          s.startSlot { job := j, major := 0x1A, minor := minor, size := 4, op := some (ea, op), scope := f.scope }
            (if minor = 2 then .barwait f.scope else .barrier))

def execBarBarinit (f : Fields) (s : State) : Host.Outcome State Fault Refusal := .next (fireBar 0 true f s)
def execBarBarjoin (f : Fields) (s : State) : Host.Outcome State Fault Refusal := .next (fireBar 1 true f s)
def execBarBarwait (f : Fields) (s : State) : Host.Outcome State Fault Refusal := .next (fireBar 2 false f s)

/-- A refused BARWAIT is issued again (10 R221). -/
def execBarwaitRetry (s : State) : Host.Outcome State Fault Refusal :=
  match s.ev with
  | .barwaitRetry t slot =>
    match NMap.find (s.tile t).replies slot with
    | some r =>
      let s := s.countParts r.job.fi 0x02 r.pkts.length
      .next (r.pkts.foldl (fun s p => s.emitPkt t.die p) s)
    | none => .next s
  | _ => .next s

/-! ### XFER -/

/-- The source and destination ranges of a copy: runs of the rows (10 R225). -/
def copyRuns (base stride rows len : Nat) : List (Nat × Nat) := (List.range rows).map (fun r => (base + r * stride, len))

/-- The first denied address of the rows of a copy. -/
def rowDenied (l : Launch) (write : Bool) (base stride rows len : Nat) : Option Nat :=
  if rows = 0 || len = 0 then none else firstDeniedOf l write (copyRuns base stride rows len)

/-- An XFER firing: checked and held (10 R224, R225). -/
def fireXfer (minor : Nat) (f : Fields) (s : State) : State :=
  s.fire f (some .value) (dests f) [] (fun j s =>
    let t := j.fi.at_
    let d := descriptorOn s j false
    let src := numAt d 0 8
    let dst := numAt d 8 8
    let len := numAt d 16 4
    let rows := if minor = 1 then numAt d 20 4 else 1
    let ss := numAt d 24 4
    let ds := numAt d 28 4
    let dsp := bitN (byteAt d 48).toNat 0
    let home := numAt d 50 2 % 1024
    match s.launchOf j.fi, s.region? j.fi.region with
    | some l, some r =>
      if minor = 1 && (len > 2 ^ 24 || rows > 65536) then s.leaseFault j 0x25 src 2
      else
        let off := dst % 2 ^ 18
        let bad := if minor = 2 then none else rowDenied l false src ss rows len
        let badD :=
          if dsp then
            if !r.tiles.contains ⟨t.die, home⟩ || (rows > 0 && len > 0 && off + (rows - 1) * ds + len > spadBytes) then some dst
            else none
          else rowDenied l true dst ds rows len
        match bad, badD with
        | some a, _ => s.leaseFault j 0x25 a 0
        | none, some a => s.leaseFault j 0x25 a 0
        | none, none =>
          let k := if f.litBits 3 1 = 1 then t.tile % 8 else f.litBits 0 3
          let c : CopyReq := {
            job := j, minor := minor, src := BitVec.ofNat 64 src, dst := BitVec.ofNat 64 (if dsp then off else dst), len := len,
            rows := rows, sstride := ss, dstride := ds, credit := BitVec.ofNat 64 (numAt d 32 8), pattern := sliceB d 40 8,
            dsp := if dsp then some home else none, streamer := k, ctx := s.regionCtx j.fi.region }
          (s.consume j.fi).hold j (.copy c)
    | _, _ => s)

def execXferCopy (f : Fields) (s : State) : Host.Outcome State Fault Refusal := .next (fireXfer 0 f s)
def execXferCopy2d (f : Fields) (s : State) : Host.Outcome State Fault Refusal := .next (fireXfer 1 f s)
def execXferFill (f : Fields) (s : State) : Host.Outcome State Fault Refusal := .next (fireXfer 2 f s)

/-! ### The streamers (10 R225) -/

/-- A copy handed to its streamer: the queue holds 16 (10 R225). -/
def State.handOff (s : State) (c : CopyReq) : State :=
  let t := c.job.fi.at_
  let (serial, s) := s.fresh
  let c := { c with serial := serial }
  let s := s.noteLevel c.job
  let s := s.dieSent c.ctx t.die c.job.fi.stTag.phase
  let s := s.modTile t (fun x => { x with outs := x.outs ++ [⟨serial, c.job.fi.inst, c.job, true, [0], [0], true⟩] })
  let s := s.modDie t.die (fun x => { x with
    streams := NMap.put x.streams c.streamer (NMap.getD x.streams c.streamer [] ++ [c]) })
  s.due (.streamerTakeCopy t.die c.streamer)

/-- The next piece of a copy: it crosses a line of neither side. -/
def CopyReq.piece? (c : CopyReq) : Option (Nat × Nat × Nat) :=
  if c.row ≥ c.rows || c.len = 0 then none
  else
    let a := c.src.toNat + c.row * c.sstride + c.col
    let b := c.dst.toNat + c.row * c.dstride + c.col
    let n := min (c.len - c.col) (64 - b % 64)
    some (a, b, if c.minor = 2 then n else min n (64 - a % 64))

/-- A copy moved past a piece of `n` bytes. -/
def CopyReq.next (c : CopyReq) (n : Nat) : CopyReq :=
  if c.col + n ≥ c.len then { c with row := c.row + 1, col := 0, piece := c.piece + 1, busy := false, tries := 0 }
  else { c with col := c.col + n, piece := c.piece + 1, busy := false, tries := 0 }

/-- The first copy of a streamer's queue replaced, or removed. -/
def State.setCopy (s : State) (d k : Nat) (c : Option CopyReq) : State :=
  s.modDie d (fun x =>
    let q := NMap.getD x.streams k []
    { x with streams := NMap.put x.streams k (match c with
      | some c => c :: q.drop 1
      | none => q.drop 1) })

/-- Whether a piece of `n` bytes is a copy's last one. -/
def CopyReq.ends (c : CopyReq) (n : Nat) : Bool := (c.next n).piece?.isNone

/-- The stamp of a piece of a copy (11 R236); `last` says that no piece follows. -/
def copyStamp (s : State) (c : CopyReq) (last : Bool) : Stamp :=
  stampOf (s.level c.ctx) c.job.fi (c.piece % 2048) (c.piece % 2048 + (if last then 1 else 2))

/-- The read of a piece of a copy. -/
def CopyReq.readPkt (c : CopyReq) (s : State) (d k a n : Nat) : Packet :=
  { typ := 0x01, addr := BitVec.ofNat 64 a, to_ := BitVec.ofNat 13 (vaOwner a), from_ := s.code d,
    inc := (s.die d).inc, cls := 0, ctx := BitVec.ofNat 12 c.ctx, phase := c.job.fi.stTag.phase,
    stamp := copyStamp s c (c.ends n), op := .load n false, tile := 1024 + k, serial := c.serial, part := c.rid, n := n }

/-- A piece's bytes written at its destination: the scratchpad, or a posted write. -/
def State.copyWrite (s : State) (d k : Nat) (c : CopyReq) (dst : Nat) (bs : Bytes) : State :=
  let stamp := copyStamp s c (c.ends bs.length)
  let s := s.setCopy d k (some (c.next bs.length))
  let s := s.due (.streamerTakeCopy d k)
  match c.dsp with
  | some n =>
    -- a tile that its region has left takes no more of the context's bytes (18 R368)
    let s := if s.ctxOf ⟨d, n⟩ = c.ctx then s.engineWrite ⟨d, n⟩ dst bs else s
    if c.credit = 0 then s
    else
      let s := s.dieSent c.ctx d c.job.fi.stTag.phase
      s.emitPkt d {
        typ := 0x0B, addr := c.credit, to_ := BitVec.ofNat 13 (vaOwner c.credit.toNat), from_ := s.code d,
        inc := (s.die d).inc, cls := 2, ctx := BitVec.ofNat 12 c.ctx, phase := c.job.fi.stTag.phase,
        stamp := { stamp with seq := 0 }, op := .credit bs.length }
  | none =>
    let (id, s) := s.fresh
    let s := s.dieSent c.ctx d c.job.fi.stTag.phase
    let s := s.modTile c.job.fi.at_ (fun x => { x with outs := x.outs.map (fun o =>
      if o.serial = c.serial then { o with left := o.left ++ [id], unseen := o.unseen ++ [id] } else o) })
    s.emitPkt d {
      typ := 0x04, addr := BitVec.ofNat 64 dst, to_ := BitVec.ofNat 13 (vaOwner dst), from_ := s.code d, inc := (s.die d).inc,
      cls := 2, ctx := BitVec.ofNat 12 c.ctx, phase := c.job.fi.stTag.phase, stamp := stamp, op := .store bs,
      tile := 1024 + k, serial := c.serial, part := id, n := bs.length, cred := c.credit }

/-- A streamer's step: the next piece of its first copy is read, or written, or the copy is done. -/
def State.streamStep (s : State) (d k : Nat) : State :=
  match (NMap.getD (s.die d).streams k []).head? with
  | none => s
  | some c =>
    if c.busy then s
    else match c.piece? with
      | none =>
        let s := s.setCopy d k none
        let s := s.dieRecv c.ctx d c.job.fi.stTag.phase
        -- its completion token lies behind every piece (11 R236)
        let s := s.modTile c.job.fi.at_ (fun x => { x with outs := x.outs.map (fun o =>
          if o.serial = c.serial then { o with job := { o.job with fi := { o.job.fi with parts := min c.piece 2048 } } } else o) })
        let s := (s.strike c.serial 0 true true).due (.commitDrain c.job.fi.at_)
        if (NMap.getD (s.die d).streams k []).isEmpty then s else s.due (.streamerTakeCopy d k)
      | some (a, b, n) =>
        let may := match c.dsp with
          | some m => (s.tile ⟨d, m⟩).engineMay b n
          | none => true
        if !may then s.post (.streamerTakeCopy d k)
        else if c.minor = 2 then
          let o := c.col % 8
          s.copyWrite d k c b ((List.range n).map (fun i => byteAt c.pattern ((o + i) % 8)))
        else
          let (id, s) := s.fresh
          let c := { c with busy := true, rid := id, since := s.cycles }
          let s := s.due (.requestTimeoutResend ⟨d, 1024 + k⟩ 0)
          (s.setCopy d k (some c)).emitPkt d (c.readPkt s d k a n)

def execStreamerTakeCopy (s : State) : Host.Outcome State Fault Refusal :=
  match s.ev with
  | .streamerTakeCopy d k => .next (s.streamStep d k)
  | _ => .next s

/-- A read of a streamer answered: its bytes are written; a fault of the owner is raised here and the piece is left out. -/
def State.streamReply (s : State) (d k : Nat) (p : Packet) : State :=
  match (NMap.getD (s.die d).streams k []).head? with
  | none => s
  | some c =>
    if !(c.busy && c.serial = p.serial && c.rid = p.part) then s
    else
      match p.op, c.piece? with
      | .data bs _, some (_, b, n) =>
        -- bytes that a forwarding entry covers wait until it retires (08 R173)
        let may := match c.dsp with
          | some m => (s.tile ⟨d, m⟩).engineMay b n
          | none => true
        if may then s.copyWrite d k c b (sliceB bs 0 n) else s.post (.replyDelivery p)
      | .remoteFault code, some (_, _, n) =>
        let s := (s.setCopy d k (some (c.next n))).due (.streamerTakeCopy d k)
        s.raiseFault { index := 7, code := code.toNat, sync := false, ctx := c.ctx, die := d, tile := some c.job.fi.tile,
                       region := c.job.fi.region, job := some c.job, block := c.job.fi.block,
                       detail := leBytes 8 p.addr.toNat ++ leBytes 2 p.from_.toNat ++ [0, 0, if code = 0x0D then 1 else 0] }
      | _, _ => s

/-! ### Replies (10 R203, R208) -/

/-- The tokens of a firing at a raised level (11 R424). -/
def Job.raiseLevel (j : Job) (lv : BitVec 32) : Job :=
  let up := fun (t : Token) => { t with tag := { t.tag with level := if t.tag.level < lv then lv else t.tag.level } }
  { j with fi := { j.fi with tokA := j.fi.tokA.map up, tokB := j.fi.tokB.map up } }

/-- The mark of a line read when `n` stores had been performed: it lacks a later one when memory holds other bytes now (08 R179, 11 R234). -/
def State.staleOf (s : State) (c line n : Nat) (bs : Bytes) : Option Nat :=
  match s.phys? c (line * 64) with
  | some k => if Memory.getN s.mem k 64 = bs then none else some (n + 1)
  | none => none

/-- A line that a reply brings is put into the L1, or the fabric cache, unless a drain token or an FCINV has passed (09 R198). -/
def State.install (s : State) (t : TileId) (r : Reply) (p : Packet) (bs : Bytes) : State :=
  let c := p.ctx.toNat
  let line := p.addr.toNat / 64
  if r.major = 0x14 && r.minor = 3 && (s.ctx c).fcReader && s.level c = 0 && p.from_ ≠ s.code t.die then
    if (s.die t.die).fcSkip.contains p.part then
      s.modDie t.die (fun x => { x with fcSkip := x.fcSkip.filter (· ≠ p.part) })
    else s.modDie t.die (fun x =>
      let l := x.fcache.filter (fun e => e.1 ≠ (c, line)) ++ [((c, line), bs)]
      { x with fcache := l.drop (l.length - 65536) })
  else if (s.tile t).l1Skip.contains p.part then
    s.modTile t (fun x => { x with l1Skip := x.l1Skip.filter (· ≠ p.part) })
  else
    s.l1Put t { line := line, bytes := bs, stale := s.staleOf c line p.readAt bs, levels := p.levels }

/-- The data of a weights command have reached its port (12 R251): the slot is held until the command's result. -/
def State.weightsHere (s : State) (t : TileId) (slot : Nat) (r : Reply) (lead : Nat) : State :=
  let s := s.modTile t (fun x => { x with replies := NMap.put x.replies slot { r with left := [] } })
  let s := s.modIsland t.die lead (fun x => { x with cmds := x.cmds.map (fun c =>
    if c.id = r.serial then { c with data := r.buf, ready := true, level := r.level } else c) })
  s.due (.islandCommandEntry t.die lead)

/-- A reply slot whose parts have all returned: its set is consumed and its tokens are emitted. -/
def State.finishReply (s : State) (t : TileId) (slot : Nat) (r : Reply) : State :=
  match r.kind with
  | .weights lead => s.weightsHere t slot r lead
  | _ =>
  let c := s.regionCtx r.job.fi.region
  let j := if s.level c = 0 then r.job else r.job.raiseLevel r.level
  let j := match r.kind with
    | .data | .remote => j
    | _ => s.sawAllJob j
  let s := (s.freeReply t slot).serialDone t r.serial
  let s' := s.consume j.fi
  let whole := r.own.foldl (fun b o => overlay b o.1 [o.2]) r.buf
  let res := if r.kind = .remote then whole.take (whole.length / j.f.tyT.size * j.f.tyT.size) else whole
  s.settle j (match r.kind with
    | .barwait scope => (s'.acquire t scope).emitAll j (s'.syncUp j j.fi.stTag) .value res
    | _ => s'.emitAll j j.fi.stTag .value res)

/-- Whether the tokens of a BARWAIT would pass the last level with the level that its answer brings: it waits while a boundary is requested
(11 R424). -/
def State.replyFull (s : State) (r : Reply) (lv : BitVec 32) : Bool :=
  s.level (s.regionCtx r.job.fi.region) ≥ 1 && r.job.f.tag ≠ 5 && lv.toNat = 2 ^ 32 - 1 && (match r.kind with
    | .barwait _ => true
    | _ => false)

/-- A reply at its tile (10 R203): a part's bytes are gathered; a fault ends the slot; a refused BARWAIT is tried again. A reply for a
saved context goes to its mailbox (18 R381). -/
def State.replyStep (s : State) (p : Packet) : State :=
  let d := p.to_.toNat % 8
  if (s.ctx p.ctx.toNat).st = .saved && p.tile < 1024 then s.post (.mailboxWrite d p)
  else if p.tile = 4095 then
    match p.op with
    | .retry =>
      -- a queue unit's waiter that finds no place is sent again at a later decision (06 R129)
      (s.modDie d (fun x => { x with queues := NMap.alter x.queues p.slot (fun q => { q with asked := false }) })).due (.queueDecision d)
    | .remoteFault code =>
      -- one that finds no page raises the fault for the queue's context, and its head waits on (09 R188)
      s.raiseFault { index := 7, code := code.toNat, sync := false, ctx := p.ctx.toNat, die := d,
                     detail := leBytes 8 p.addr.toNat ++ leBytes 2 p.from_.toNat ++ [0, 0, if code = 0x0D then 1 else 0] }
    | _ => s
  else if p.tile ≥ 1024 then s.streamReply d (p.tile - 1024) p
  else
    let t : TileId := ⟨d, p.tile⟩
    match NMap.find (s.tile t).replies p.slot with
    | none => s
    | some r =>
      if r.serial ≠ p.serial || !r.left.contains p.part then s
      else match p.op with
        | .data bs line =>
          let lv := BitVec.ofNat 32 p.stamp.level.toNat
          let got := if line then sliceB bs (p.addr.toNat % 64) p.n else bs
          if s.replyFull r lv then (s.askBoundary p.ctx.toNat 0).post (.replyDelivery p) else
          let s := if line then s.install t r p bs else s
          let r := { r with
            left := r.left.filter (· ≠ p.part), buf := overlay r.buf p.offset got,
            level := if r.level < lv then lv else r.level }
          if r.left.isEmpty then s.finishReply t p.slot r
          else (s.modTile t (fun x => { x with replies := NMap.put x.replies p.slot r })).due (.agPortIssue t)
        | .remoteFault code => s.replyFault t p.slot code.toNat p.addr.toNat p.from_.toNat (code = 0x0D)
        | .retry => (s.agqNote t 1).due (.barwaitRetry t p.slot)
        | _ => s

/-- The request port issues one part (10 R203). -/
def execAgPortIssue (s : State) : Host.Outcome State Fault Refusal :=
  match s.ev with
  | .agPortIssue t => .next (s.portStep t)
  | _ => .next s

end Sys2Proof.Machine
end

