-- ==== Sys2Proof/Machine/Aspace.lean ====
section
/-! DEFINITION. Drain tokens (09 R197, R198) and the meanings of ASPACE (09 R195, R199 to R201). -/

namespace Sys2Proof.Machine

/-! ### Drain tokens -/

/-- Whether a tile of a context lies within a scope of another tile (10 R218's scopes, 09 R199). -/
def scopeHas (scope : Nat) (from_ t : TileId) : Bool :=
  match scope with
  | 0 => t = from_
  | 1 => t.die = from_.die && clusterOf t.tile = clusterOf from_.tile
  | 2 => t.die = from_.die
  | _ => true

/-- The lines of a range dropped from the L1s that a tile's requests pass; the loads under way of the tiles that share them are not installed
(09 R197, R198). -/
def State.dropRange (s : State) (t : TileId) (a n : Nat) : State :=
  let homes := if s.fused t then (clusterTiles t.tile).map (fun k => TileId.mk t.die k) else [t]
  homes.foldl (fun s h => s.modTile h (fun x => { x with
    l1 := x.l1.filter (fun e => !(a < e.line * 64 + 64 && e.line * 64 < a + n))
    l1Skip := (x.l1Skip ++ x.inFlight).eraseDups })) s

/-- The lines of a range of a context dropped from a die's fabric read-only cache. -/
def State.dropFabric (s : State) (c d a n : Nat) : State :=
  let fl := s.fcFlight c d
  s.modDie d (fun x => { x with
    fcache := x.fcache.filter (fun e => !(e.1.1 = c && a < e.1.2 * 64 + 64 && e.1.2 * 64 < a + n)),
    fcSkip := (x.fcSkip ++ fl).eraseDups })

/-- The lines of a range of a context dropped from the caches that the stream ports of some tiles pass (09 R197). -/
def State.dropLines (s : State) (c : Nat) (ts : List TileId) (a n : Nat) : State :=
  let s := ts.foldl (fun s t => s.dropRange t a n) s
  ((ts.map (·.die)).eraseDups).foldl (fun s d => s.dropFabric c d a n) s

/-- Drain tokens injected at stream ports: they follow the requests of those ports that are under way (09 R197). -/
def State.inject (s : State) (mine : Packet → Bool) (o : DrainOp) : State :=
  { s with drainOps := s.drainOps ++ [{ o with waits := s.underWay mine }] }.post (.drainTokenArrival o.id)

/-! ### Pages of a range -/

/-- The pages of a context that a range touches, on its owner die. -/
def State.pagesIn (s : State) (c a n : Nat) : List PageMap :=
  if vaPkg a ≠ s.pkg then []
  else (s.cd c (vaDie a)).pages.filter (fun p => pdValid p.desc && p.va < a + n && a < p.va + pdSize p.desc)

/-- The pages that a range touches changed. -/
def State.modPages (s : State) (c a n : Nat) (g : PageMap → BitVec 64) : State :=
  if vaPkg a ≠ s.pkg then s
  else s.modCd c (vaDie a) (fun x => { x with pages := x.pages.map (fun p =>
    if pdValid p.desc && p.va < a + n && a < p.va + pdSize p.desc then { p with desc := g p } else p) })

/-- Whether a range begins and ends at page boundaries. -/
def State.pageAligned (s : State) (c a n : Nat) : Bool :=
  let ps := s.pagesIn c a n
  ps.any (fun p => p.va = a) && ps.any (fun p => p.va + pdSize p.desc = a + n)

/-- The status of a PGATTR (09 R200). -/
def State.pgattrStatus (s : State) (c a n kind : Nat) : Nat :=
  if !s.pageAligned c a n then 2
  else if kind = 3 then 5
  else if (s.pagesIn c a n).any (fun p => !pdAttrw p.desc) then 1
  else 0

/-- The areas of the observation registers, which are read-only to programs (19 R385). -/
def obsAreas (o : Obs) : List (Nat × Nat) :=
  [(fieldOf o.catBase 16 48 * 2 ^ 16, 2 ^ fieldOf o.catSize 0 5), (fieldOf o.histBase 16 48 * 2 ^ 16, fieldOf o.histSize 0 40),
   (fieldOf o.hangBase 16 48 * 2 ^ 16, fieldOf o.hangSize 0 40)]

/-- The areas whose pages no context may write: those, and the grammar images (16 R336). -/
def CtxDie.readOnlyAreas (x : CtxDie) : List (Nat × Nat) :=
  (obsAreas x.obs ++ x.gpins.flatMap (·.2)).filter (fun r => r.1 ≠ 0 && r.2 ≠ 0)

/-- The ranges that Curator keeps pinned: those, the Accession Ring, the shadow pool and the save area (17 R350, R357, 18 R380). -/
def CtxDie.fixedRanges (x : CtxDie) : List (Nat × Nat) :=
  x.readOnlyAreas ++ ([(fieldOf x.ring.base 21 43 * 2 ^ 21, 2 ^ fieldOf x.ring.size 0 5),
    (fieldOf x.ring.shdBase 21 43 * 2 ^ 21, 2 ^ fieldOf x.ring.shdSize 0 5),
    (fieldOf x.save 16 48 * 2 ^ 16, fieldOf x.saveSz 0 40)] : List (Nat × Nat)).filter (fun r => r.1 ≠ 0 && r.2 ≠ 0)

/-- Whether a page meets a range. -/
def PageMap.meets (p : PageMap) (r : Nat × Nat) : Bool := r.1 < p.va + pdSize p.desc && p.va < r.1 + r.2

/-- The PIN bits of a context's pages on a die set as its pins and Curator's ranges say (09 R195). -/
def State.repin (s : State) (c d : Nat) : State :=
  s.modCd c d (fun x =>
    let rs := x.pins ++ x.fixedRanges
    { x with pages := x.pages.map (fun p => { p with desc := withField p.desc 56 1 (if rs.any p.meets then 1 else 0) }) })

/-- A range pinned, with its status (09 R195, R200). -/
def State.pinRange (s : State) (c a n : Nat) : Nat × State :=
  let d := vaDie a
  if (s.cd c d).pins.length ≥ 64 then (3, s)
  else (0, (s.modCd c d (fun x => { x with pins := x.pins ++ [(a, n)] })).repin c d)

/-- A range unpinned, with its status. -/
def State.unpinRange (s : State) (c a n : Nat) : Nat × State :=
  let d := vaDie a
  if !(s.cd c d).pins.contains (a, n) then (4, s)
  else
    (0, (s.modCd c d (fun x => { x with pins := removeFirst (fun q => q = (a, n)) x.pins })).repin c d)

/-- What LQUERY reads: the page's base and its descriptor with PA zero; IW reads 0 at ORDERED and above (17 R347). -/
def State.lquery (s : State) (c a : Nat) : Bytes :=
  match s.page? c a with
  | none => leBytes 8 (a / 65536 * 65536) ++ zeros 8
  | some p =>
    let d := withField p.desc 16 23 0
    let d := if s.level c ≥ 1 then withField d 54 1 0 else d
    leBytes 8 p.va ++ leBytes 8 d.toNat

/-! ### The meanings -/

/-- An ASPACE firing that holds a reply slot (10 R203). -/
def State.holdSlot (s : State) (j : Job) (minor slot serial : Nat) (kind : ReplyKind) : State :=
  s.modTile j.fi.at_ (fun x => { x with replies := NMap.put x.replies slot {
    job := j, kind := kind, major := 0x2A, minor := minor, serial := serial, left := [0], buf := [], since := s.cycles } })

/-- The tokens of an ASPACE firing under the station tag. -/
def State.emitStatus (s : State) (j : Job) (st : Nat) : State := (s.consume j.fi).emitBoth j .value (leBytes 4 st)

/-- An ASPACE firing whose checks hold; the detail of its lease fault holds the major opcode where 09 R200 has the minor, for which 18 R369 has
no place (log entry 19): `go` is its effect with a free slot. -/
def fireAspace (minor : Nat) (w : Bool) (f : Fields) (go : Job → State → Nat → Nat → Nat → State) (s : State) : State :=
  s.fire f (some .value) (dests f) (sregDests f) (fun j s =>
    let r := descriptorOn s j false
    let a := numAt r 0 8
    let n := if minor = 3 then 1 else numAt r 8 8
    match s.launchOf j.fi with
    | none => s
    | some l =>
      if n = 0 || n > 2 ^ 40 then s.leaseFault j 0x2A a 2
      else match firstDenied l w a n with
        | some _ => s.leaseFault j 0x2A a 0
        | none =>
          match (s.tile j.fi.at_).freeSlot with
          | none => (s.agqNote j.fi.at_ 0).offerAgain j.fi
          | some k =>
            -- the owner of another package answers from outside (log entry 4); a PGATTR drains its ports before
            if vaPkg a ≠ s.pkg && minor ≥ 2 then (s.holdSlot j minor k 0 .status) else go j s a n k)

/-- The drain of an INVAL or a PGATTR started: the slot waits for it. -/
def State.aspaceDrain (s : State) (j : Job) (minor a n slot : Nat) (kindTo : Option Nat) : State :=
  let (id, s) := s.fresh
  let c := s.regionCtx j.fi.region
  let s := s.holdSlot j minor slot id .drain
  let me := j.fi.at_
  let ts := (s.ctxTiles c).filter (fun t => scopeHas j.f.scope me t)
  -- a port of a tile within scope, or from die scope on one of a streamer of a die within scope
  let mine := fun (p : Packet) => p.ctx.toNat = c && (ts.any (fun t => p.from_ = s.code t.die && p.tile = t.tile)
    || (1024 ≤ p.tile && p.tile < 4094 && (j.f.scope ≥ 3 || (j.f.scope = 2 && p.from_ = s.code me.die))))
  (s.dropLines c ts a n).inject mine { id := id, ctx := c, base := a, len := n, waits := [], job := some j, kindTo := kindTo }

/-- The new KIND of a PGATTR: bits 1 and 0 of B (09 R199). -/
def aspaceB (s : State) (j : Job) : Nat := addendOn s j 4

def execAspaceInval (f : Fields) (s : State) : Host.Outcome State Fault Refusal :=
  .next (fireAspace 0 false f (fun j s a n k => s.aspaceDrain j 0 a n k none) s)
def execAspacePgattr (f : Fields) (s : State) : Host.Outcome State Fault Refusal :=
  .next (fireAspace 1 true f (fun j s a n k =>
    let kind := aspaceB s j % 4
    match (if vaPkg a ≠ s.pkg then 0 else s.pgattrStatus (s.regionCtx j.fi.region) a n kind) with
    | 0 => s.aspaceDrain j 1 a n k (some kind)
    | st => s.emitStatus j st) s)
def execAspaceLpin (f : Fields) (s : State) : Host.Outcome State Fault Refusal :=
  .next (fireAspace 2 false f (fun j s a n _ =>
    let c := s.regionCtx j.fi.region
    let r := if aspaceB s j % 2 = 1 then s.pinRange c a n else s.unpinRange c a n
    r.2.emitStatus j r.1) s)
def execAspaceLquery (f : Fields) (s : State) : Host.Outcome State Fault Refusal :=
  .next (fireAspace 3 false f (fun j s a _ _ =>
    (s.consume j.fi).emitBoth j .value (s.lquery (s.regionCtx j.fi.region) a)) s)

/-- The drain tokens of an ASPACE firing have arrived: the KIND is changed, the slot freed, the tokens emitted (09 R200). A PGATTR of
another package's range then waits for the status that comes from outside (log entry 4). -/
def State.aspaceArrived (s : State) (o : DrainOp) (j : Job) : State :=
  let t := j.fi.at_
  match (s.tile t).replies.find? (fun r => r.2.serial = o.id && r.2.kind = .drain) with
  | none => s
  | some (slot, r) =>
    if o.kindTo.isSome && vaPkg o.base ≠ s.pkg then
      s.modTile t (fun x => { x with replies := NMap.put x.replies slot { r with kind := .status } })
    else
    let s := match o.kindTo with
      | none => s
      | some k => s.modPages o.ctx o.base o.len (fun p => withField p.desc 59 2 k)
    let s := ((s.freeReply t slot).serialDone t r.serial).consume j.fi
    s.settle j (s.emitAll j j.fi.stTag .value (match o.kindTo with
      | none => []
      | some _ => leBytes 4 0))

end Sys2Proof.Machine
end

