-- ==== Sys2Proof/Machine/Crypto.lean ====
section
/-! DEFINITION. SHA-256 and the verification of an ECDSA P-256 signature, which 20 R414 and R416 name (FIPS 180-4, FIPS 186-5). -/

namespace Sys2Proof.Machine

/-! ### SHA-256 -/

/-- The first 64 prime numbers, of which the standard takes its constants. -/
def shaPrimes : List Nat :=
  (List.range 312).filter (fun n => n ≥ 2 && (List.range 18).all (fun d => d < 2 || d ≥ n || n % d ≠ 0))

/-- The greatest number below `2 ^ 36` whose power `k` is at most `n`, found bit by bit. -/
def rootOf (k n : Nat) : Nat :=
  (List.range 36).foldr (fun i r => if (r + 2 ^ i) ^ k ≤ n then r + 2 ^ i else r) 0

/-- The first 32 bits of the fraction of a root of a number. -/
def rootFraction (k n : Nat) : Nat := rootOf k (n * 2 ^ (32 * k)) % 2 ^ 32

/-- The first hash value, from square roots, and the constants of the rounds, from cube roots. -/
def shaStart : List Nat := (shaPrimes.take 8).map (rootFraction 2)
def shaSteps : List Nat := shaPrimes.map (rootFraction 3)

/-- The big-endian number of a run of bytes, and the big-endian bytes of a number. -/
def beNat (bs : Bytes) : Nat := leNat bs.reverse
def beBytes (n v : Nat) : Bytes := (leBytes n v).reverse

/-- A message padded to whole blocks of 64 bytes. -/
def shaPad (m : Bytes) : Bytes := m ++ [0x80] ++ zeros ((119 - m.length % 64) % 64) ++ beBytes 8 (8 * m.length)

/-- A 32-bit number turned right by some numbers of places, and the results put together bit by bit. -/
def turned (x : Nat) (places : List Nat) : Nat :=
  places.foldl (fun acc n => acc ^^^ (x / 2 ^ n + x * 2 ^ (32 - n)) % 2 ^ 32) 0

/-- One more number of the schedule, which is held newest first. -/
def shaExtend (w : List Nat) : List Nat :=
  let back := fun (i : Nat) => w.getD (i - 1) 0
  let near := turned (back 2) [17, 19] ^^^ back 2 / 2 ^ 10
  let far := turned (back 15) [7, 18] ^^^ back 15 / 2 ^ 3
  ((near + back 7 + far + back 16) % 2 ^ 32) :: w

/-- The schedule of a block, oldest first. -/
def shaSchedule (b : Bytes) : List Nat :=
  (Nat.repeat shaExtend 48 ((List.range 16).foldl (fun w i => beNat (sliceB b (4 * i) 4) :: w) [])).reverse

/-- One round; `n` is the sum of its constant and of its number of the schedule. -/
def shaRound (v : List Nat) (n : Nat) : List Nat :=
  match v with
  | [a, b, c, d, e, f, g, h] =>
    let low := n + h + turned e [6, 11, 25] + (g ^^^ (e &&& (f ^^^ g)))
    let high := turned a [2, 13, 22] + ((b &&& c) ||| (a &&& (b ||| c)))
    [(low + high) % 2 ^ 32, a, b, c, (d + low) % 2 ^ 32, e, f, g]
  | _ => v

/-- One block. -/
def shaBlock (h : List Nat) (b : Bytes) : List Nat :=
  let sums := List.zipWith (· + ·) shaSteps (shaSchedule b)
  List.zipWith (fun x y => (x + y) % 2 ^ 32) h (sums.foldl shaRound h)

/-- The SHA-256 digest of a message, 32 bytes. -/
def sha256 (m : Bytes) : Bytes :=
  let p := shaPad m
  ((List.range (p.length / 64)).foldl (fun h i => shaBlock h (sliceB p (64 * i) 64)) shaStart).flatMap (beBytes 4)

/-! ### P-256 -/

/-- The field, the order of the group, the constant `b` and the base point. -/
def p256P : Nat := 2 ^ 256 - 2 ^ 224 + 2 ^ 192 + 2 ^ 96 - 1
def p256N : Nat := 0xffffffff00000000ffffffffffffffffbce6faada7179e84f3b9cac2fc632551
def p256B : Nat := 0x5ac635d8aa3a93e7b3ebbd55769886bc651d06b0cc53b0f63bce3c3e27d2604b
def p256G : Nat × Nat :=
  (0x6b17d1f2e12c4247f8bce6e563a440f277037d812deb33a0f4a13945d898c296,
   0x4fe342e2fe1a7f9b8ee7eb4a7c0f9e162bce33576b315ececbb6406837bf51f5)

/-- `x ^ e` modulo `m`, `e` below `2 ^ k`. -/
def powMod (m x e : Nat) : Nat → Nat
  | 0 => 1 % m
  | k + 1 =>
    let h := powMod m x (e / 2) k
    if e % 2 = 1 then h * h % m * x % m else h * h % m

/-- The inverse modulo a prime. -/
def invMod (m x : Nat) : Nat := powMod m (x % m) (m - 2) 256

/-- A point: none is the point at infinity. -/
abbrev Point := Option (Nat × Nat)

/-- The third point on the line of slope `l` through two points. -/
def lineThird (l : Nat) (a b : Nat × Nat) : Nat × Nat :=
  let p := p256P
  let x := (l * l + 2 * p - a.1 - b.1) % p
  (x, (l * (a.1 + p - x) + p - a.2) % p)

/-- The sum of two points. -/
def pointAdd (x y : Point) : Point :=
  let p := p256P
  match x, y with
  | none, q => q
  | q, none => q
  | some a, some b =>
    if a.1 = b.1 then
      if (a.2 + b.2) % p = 0 then none
      else some (lineThird ((3 * a.1 * a.1 + p - 3) * invMod p (2 * a.2) % p) a b)
    else some (lineThird ((b.2 + p - a.2) * invMod p (b.1 + p - a.1) % p) a b)

/-- A point times a number below `2 ^ k`. -/
def pointMul (x : Point) (n : Nat) : Nat → Point
  | 0 => none
  | k + 1 =>
    let h := pointMul x (n / 2) k
    let d := pointAdd h h
    if n % 2 = 1 then pointAdd d x else d

/-- Whether a pair of numbers is a point of the curve. -/
def onCurve (q : Nat × Nat) : Bool :=
  let p := p256P
  q.1 < p && q.2 < p && q.2 * q.2 % p = (q.1 * q.1 * q.1 + (p - 3) * q.1 + p256B) % p

/-- Whether a signature over a digest verifies under a public key; numbers are little-endian as in the table (00 R1, 20 R414). -/
def ecdsaOk (key sig digest : Bytes) : Bool :=
  let n := p256N
  let q := (numAt key 0 32, numAt key 32 32)
  let r := numAt sig 0 32
  let s := numAt sig 32 32
  if onCurve q && 0 < r && r < n && 0 < s && s < n then
    let w := invMod n s
    let e := beNat digest
    match pointAdd (pointMul (some p256G) (e * w % n) 256) (pointMul (some q) (r * w % n) 256) with
    | none => false
    | some a => a.1 % n = r
  else false

end Sys2Proof.Machine
end

