-- ==== Sys2Proof/Machine/Release.lean ====
section
/-! DEFINITION. Release groups (14 R302 to R308) and the meanings of RMT and RREL (14 R309 to R313). -/

namespace Sys2Proof.Machine

/-! ### Times and counts -/

/-- The cycles of a microsecond at 1.9 GHz (01 R9). -/
def usCycles : Nat := 1900

/-- A die's GAP in cycles (14 R315). -/
def State.gapCycles (s : State) (d : Nat) : Nat := fieldOf (s.die d).cctl 0 16 * usCycles

/-- The detail of a remote fault (18 R369). -/
def remoteDetail (addr die rc epoch : Nat) (unmapped : Bool) : Bytes :=
  leBytes 8 addr ++ leBytes 2 die ++ leBytes 1 rc ++ leBytes 1 epoch ++ [if unmapped then 1 else 0]

/-- A remote fault that no firing raises as it fires (14 R314). -/
def State.remoteFault (s : State) (c d code addr other rc epoch : Nat) : State :=
  s.raiseFault { index := 7, code := code, sync := false, ctx := c, die := d, detail := remoteDetail addr other rc epoch false }

/-- A remote fault of a firing as it fires. -/
def State.remoteSync (s : State) (j : Job) (code addr other rc epoch : Nat) : State :=
  s.jobFault j 7 code (remoteDetail addr other rc epoch false)

/-- A remote fault of a held RST as it leaves the commit buffer: it names the tile, the slot, the station and the block (14 R310,
18 R372). -/
def State.remoteHeld (s : State) (j : Job) (code addr other rc epoch : Nat) : State :=
  s.raiseFault { index := 7, code := code, sync := false, ctx := s.regionCtx j.fi.region, die := j.fi.die, tile := some j.fi.tile,
                 region := j.fi.region, job := some j, named := some (j.fi.slot, j.fi.station), block := j.fi.block,
                 detail := remoteDetail addr other rc epoch false }

/-- A remote fault that a firing raises after it has waited in a reply slot: it is asynchronous and names no station (18 R369, R372). -/
def State.remoteLate (s : State) (j : Job) (code addr other rc epoch : Nat) : State :=
  s.raiseFault { index := 7, code := code, sync := false, ctx := s.regionCtx j.fi.region, die := j.fi.die, tile := some j.fi.tile,
                 region := j.fi.region, job := some j, block := j.fi.block, detail := remoteDetail addr other rc epoch false }

/-! ### Send entries (14 R303) -/

/-- The key of a release channel of a context. -/
def chanKey (c rc : Nat) : Nat := c * 256 + rc

/-- The open epoch of a channel. -/
def State.openEpoch (s : State) (c d rc : Nat) : Option Nat := (NMap.find (s.die d).relChans (chanKey c rc)).map RelChan.epoch

/-- Whether a send entry belongs to a group, and to a destination of it. -/
def SendEntry.ofGroup (e : SendEntry) (c rc ep : Nat) : Bool := e.ctx = c && e.rc = rc && e.epoch = ep
def SendEntry.is (e : SendEntry) (c rc ep dst : Nat) : Bool := e.ofGroup c rc ep && e.dst = dst

/-- The entry of a group toward a destination. -/
def State.send? (s : State) (d c rc ep dst : Nat) : Option SendEntry := (s.die d).sends.find? (fun e => e.is c rc ep dst)

/-- The entries of a group. -/
def State.groupSends (s : State) (d c rc ep : Nat) : List SendEntry := (s.die d).sends.filter (fun e => e.ofGroup c rc ep)

/-- An entry put in its place, or added. -/
def State.putSend (s : State) (d : Nat) (e : SendEntry) : State :=
  let same := fun (q : SendEntry) => q.is e.ctx e.rc e.epoch e.dst
  let put := fun (l : List SendEntry) => if l.any same then l.map (fun q => if same q then e else q) else l ++ [e]
  s.modDie d (fun x => { x with sends := put x.sends })

/-- Whether a copy in the retransmit store belongs to an entry. -/
def SendEntry.owns (e : SendEntry) (p : Packet) : Bool :=
  p.ctx.toNat = e.ctx && p.rc.toNat = e.rc && p.epoch.toNat = e.epoch && p.to_.toNat = e.dst

/-- The bytes of the retransmit store that a copy takes: its flits (14 R294, R302). -/
def copyBytes (p : Packet) : Nat := 64 * (1 + ceilDiv p.n 64)

/-- Whether the destination of an entry lies in another package, whose receipts only the answers of its group tell (log entry 4). -/
def State.farSend (s : State) (e : SendEntry) : Bool := e.dst / 8 ≠ s.pkg

/-- The copies of an entry freed; `gone` says that the writes will not be performed any more, so that nothing waits for them. In another
package they are received by now, performed or accounted for (14 R307). -/
def State.freeCopies (s : State) (d : Nat) (e : SendEntry) (gone : Bool) : State :=
  let mine := (s.die d).copies.filter (fun p => e.owns p)
  let s := s.modDie d (fun x => { x with copies := x.copies.filter (fun p => !e.owns p) })
  let s := if s.farSend e then mine.foldl (fun s p => s.dieRecv e.ctx d p.phase) s else s
  if gone || s.farSend e then mine.foldl (fun s p => s.strike p.serial p.part true true) s else s

/-- The flag or release atomic of an entry to another package received by now (14 R307). -/
def State.flagReceived (s : State) (d : Nat) (e : SendEntry) : State :=
  match e.flag with
  | some p => if s.farSend e then s.dieRecv e.ctx d p.phase else s
  | none => s

/-- A packet of an entry's group to its destination (14 R294, R295). -/
def State.groupPkt (s : State) (d : Nat) (e : SendEntry) (typ : BitVec 8) (op : MemOp) : Packet :=
  { typ := typ, to_ := BitVec.ofNat 13 e.dst, from_ := s.code d, inc := (s.die d).inc, cls := 2, ctx := BitVec.ofNat 12 e.ctx,
    rc := BitVec.ofNat 8 e.rc, epoch := BitVec.ofNat 8 e.epoch, op := op }

/-- An entry aborted: the abort is sent with its count and flag bit, its copies are freed (14 R303). -/
def State.abortSend (s : State) (d : Nat) (e : SendEntry) : State :=
  let p := { s.groupPkt d e 0x09 (.abort e.count e.flag.isSome) with phase := ((e.flag.map Packet.phase).getD 0) }
  let s := s.putSend d { e with st := .aborted, abortPkt := some p, abortResends := 0, answered := false, since := s.cycles }
  let s := (s.freeCopies d e true).flagReceived d e
  (s.post (.abortResendTimer d e.key)).emitPkt d p

/-! ### RELOPEN and RELWAIT (14 R312) -/

/-- What a RELOPEN, or a RELWAIT, comes to now. -/
inductive RelTest where
  | wait
  | fault (code : Nat)
  | done (s : State) (epoch : Nat)
  deriving DecidableEq, Repr

/-- Whether an entry of a group is open or flagged. -/
def State.groupLive (s : State) (d c rc ep : Nat) : Bool :=
  (s.groupSends d c rc ep).any (fun e => e.st = .opened || e.st = .flagged)

/-- The cycle from which a channel may be opened again: GAP / 32 after its last RELOPEN. -/
def State.openFrom (s : State) (d : Nat) (ch : RelChan) : Nat := ch.openedAt + s.gapCycles d / 32

/-- RELOPEN: the previous epoch is settled and the spacing has passed, every destination of the open epoch is flagged; the next epoch
opens and the entries of two epochs before are freed. -/
def State.relopenTest (s : State) (c d rc : Nat) : RelTest :=
  let set := fun (s : State) (e : Nat) => s.modDie d (fun x => { x with
    relChans := NMap.put x.relChans (chanKey c rc) ⟨e, s.cycles⟩,
    sends := x.sends.filter (fun q => !q.ofGroup c rc ((e + 254) % 256)) })
  match NMap.find (s.die d).relChans (chanKey c rc) with
  | none => .done (set s 0) 0
  | some ch =>
    if s.groupLive d c rc ((ch.epoch + 255) % 256) || s.cycles < s.openFrom d ch then .wait
    else if (s.groupSends d c rc ch.epoch).any (fun e => e.st = .opened) then .fault 0x0B
    else .done (set s ((ch.epoch + 1) % 256)) ((ch.epoch + 1) % 256)

/-- RELWAIT on epoch `e`. -/
def State.relwaitTest (s : State) (c d rc e : Nat) : RelTest :=
  match s.openEpoch c d rc with
  | none => .done s e
  | some o =>
    if e ≠ o && e ≠ (o + 255) % 256 then .done s e
    else if s.groupLive d c rc e then .wait
    else if (s.groupSends d c rc e).any (fun q => q.st = .aborted) then .fault 0x09
    else .done s e

/-- The channel literal of an RREL station. -/
def Fields.rcLit (f : Fields) : Nat := f.litBits 0 8

/-- A waiting RELOPEN or RELWAIT looked at again. -/
def State.relCheck (s : State) (t : TileId) (slot : Nat) : State :=
  match NMap.find (s.tile t).replies slot with
  | none => s
  | some r =>
    let j := r.job
    let c := s.regionCtx j.fi.region
    let free := fun (s : State) => ((s.freeReply t slot).serialDone t r.serial).consume j.fi
    match r.kind with
    | .relopen rc =>
      (match s.relopenTest c t.die rc with
      | .wait =>
        match NMap.find (s.die t.die).relChans (chanKey c rc) with
        | some ch => if s.cycles < s.openFrom t.die ch then s.due (.relopenSpacingExpiry t slot) else s
        | none => s
      | .fault code => (free s).remoteLate j code 0 (s.code t.die).toNat rc ((s.openEpoch c t.die rc).getD 0)
      | .done s' e => s.settle j ((free s').emitBoth j .value (leBytes 4 e)))
    | .relwait rc =>
      let e := (byteAt r.buf 0).toNat
      (match s.relwaitTest c t.die rc e with
      | .wait => s
      | .fault code => (free s).remoteLate j code 0 (s.code t.die).toNat rc e
      | .done s' _ => s.settle j ((free s').emitAll j (s'.sawAll (s'.syncUp j j.fi.stTag)) .value r.buf))
    | _ => s

/-- The waiting RELOPENs and RELWAITs of a channel looked at again, when one of its entries has changed. -/
def State.relWake (s : State) (d c rc : Nat) : State :=
  let slots := (s.ctxTiles c).flatMap (fun t => if t.die ≠ d then [] else
    ((s.tile t).replies.filter (fun r => r.2.kind = .relopen rc || r.2.kind = .relwait rc)).map (fun r => (t, r.1)))
  slots.foldl (fun s q => s.relCheck q.1 q.2) s

/-- A reply slot that holds a waiting RREL firing. -/
def State.relHold (s : State) (j : Job) (minor : Nat) (kind : ReplyKind) (a : Bytes) : State :=
  let t := j.fi.at_
  match (s.tile t).freeSlot with
  | none => (s.agqNote t 0).offerAgain j.fi
  | some k =>
    let (id, s) := s.fresh
    (s.modTile t (fun x => { x with replies := NMap.put x.replies k {
      job := j, kind := kind, major := 0x22, minor := minor, serial := id, left := [], buf := a, since := s.cycles } })).relCheck t k

/-! ### The sender (14 R303) -/

/-- The entry toward a destination is done: its copies are freed. -/
def State.sendDone (s : State) (d : Nat) (e : SendEntry) : State :=
  (((s.putSend d { e with st := .done, answered := true }).freeCopies d e false).flagReceived d e).relWake d e.ctx e.rc

/-- A packet sent again: its time in flight begins anew. -/
def State.again (s : State) (d : Nat) (p : Packet) : State := s.emitPkt d { p with age := 0 }

/-- A release-complete at the sender. -/
def State.completeStep (s : State) (d : Nat) (p : Packet) : State :=
  match s.send? d p.ctx.toNat p.rc.toNat p.epoch.toNat p.from_.toNat with
  | none => s
  | some e =>
    match e.st with
    | .flagged => s.sendDone d e
    | .aborted => s.putSend d { e with answered := true }
    | _ => s

/-- A gap report at the sender: each listed index is sent again from the store. -/
def State.gapReportStep (s : State) (d : Nat) (p : Packet) : State :=
  match s.send? d p.ctx.toNat p.rc.toNat p.epoch.toNat p.from_.toNat, p.op with
  | some e, .gapReport miss =>
    if e.st ≠ .flagged then s
    else ((s.die d).copies.filter (fun q => e.owns q && miss.contains q.index)).foldl (fun s q => s.again d q) s
  | _, _ => s

/-- The entry that a timer's key names. -/
def State.sendOf (s : State) (d : Nat) (g : GroupKey) : Option SendEntry :=
  s.send? d g.ctx.toNat g.rc.toNat g.epoch.toNat g.other.toNat

/-- The flag timer: the flag or atomic is sent again, at most twice, then the group is aborted. -/
def State.flagTimer (s : State) (d : Nat) (g : GroupKey) : State :=
  match s.sendOf d g with
  | none => s
  | some e =>
    if e.st ≠ .flagged then s
    else if e.resends < 2 then
      let s := (s.putSend d { e with resends := e.resends + 1, since := s.cycles }).post (.flagResendTimer d g)
      match e.flag with
      | some p => s.again d p
      | none => s
    else
      let addr := (e.flag.map (fun (p : Packet) => p.addr.toNat)).getD 0
      ((s.abortSend d e).remoteFault e.ctx d 0x08 addr e.dst e.rc e.epoch).relWake d e.ctx e.rc

/-- The abort timer: an abort that is not answered is sent again, at most three times. A group of a context that has ended is aborted
(18 R368). -/
def State.abortTimer (s : State) (d : Nat) (g : GroupKey) : State :=
  match s.sendOf d g with
  | none => s
  | some e =>
    if (e.st = .opened || e.st = .flagged) && (s.ctx e.ctx).st = .ended then s.abortSend d e
    else if e.st ≠ .aborted || e.answered || e.abortResends ≥ 3 then s
    else
      let s := (s.putSend d { e with abortResends := e.abortResends + 1, since := s.cycles }).post (.abortResendTimer d g)
      match e.abortPkt with
      | some p => s.again d p
      | none => s

/-- What stands against closing or writing to a group toward a destination: a fault code, or no room. -/
inductive SendTest where
  | ok (e : SendEntry)
  | fault (code : Nat)
  | noRoom
  deriving DecidableEq, Repr

/-- The test for release writes to a destination whose copies take `bytes` bytes of the store (14 R302, R303): of a group's destinations
those count that have been written to. -/
def State.writeTest (s : State) (d c rc ep dst bytes : Nat) : SendTest :=
  let room := sumN ((s.die d).copies.map copyBytes) + bytes ≤ 2 ^ 24
  match s.send? d c rc ep dst with
  | none =>
    if ((s.groupSends d c rc ep).filter (fun e => e.count > 0)).length ≥ 32 then .fault 0x07
    else if (s.die d).sends.length ≥ 4096 || !room then .noRoom
    else .ok { dst := dst, ctx := c, rc := rc, epoch := ep }
  | some e =>
    if e.st ≠ .opened then .fault 0x0C
    else if e.count ≥ 4096 then .fault 0x06
    else if !room then .noRoom
    else .ok e

/-- The test for a flag or release atomic. -/
def State.flagTest (s : State) (d c rc ep dst : Nat) : SendTest :=
  match s.send? d c rc ep dst with
  | none => if (s.die d).sends.length ≥ 4096 then .noRoom else .ok { dst := dst, ctx := c, rc := rc, epoch := ep }
  | some e => if e.st = .opened then .ok e else .fault 0x0C

/-- The highest of two levels. -/
def maxLevel (a b : BitVec 48) : BitVec 48 := if a < b then b else a

/-- A flag or release atomic sent: it carries the count and the highest level of the group toward its destination. -/
def State.sendFlag (s : State) (d : Nat) (e : SendEntry) (p : Packet) : State :=
  let p := { p with rc := BitVec.ofNat 8 e.rc, epoch := BitVec.ofNat 8 e.epoch, index := e.count,
                    stamp := { p.stamp with level := maxLevel p.stamp.level e.level } }
  let s := s.putSend d { e with st := .flagged, flag := some p, resends := 0, since := s.cycles }
  (s.post (.flagResendTimer d e.key)).emitPkt d p

/-! ### A held RST leaves the commit buffer (14 R310) -/

/-- One part of an RST: it takes the next index of its destination and its copy is kept. -/
def State.rstPart (s : State) (a : Access) (ep : Nat) (p : Part) (e : SendEntry) : State :=
  let j := a.job
  let t := j.fi.at_
  let q := { p.pkt with typ := 0x05, cls := 2, rc := BitVec.ofNat 8 a.rc, epoch := BitVec.ofNat 8 ep, index := e.count,
                        soNum := none }
  let s := s.putSend t.die { e with count := e.count + 1, level := maxLevel e.level q.stamp.level }
  let s := s.dieSent e.ctx t.die j.fi.stTag.phase
  let s := s.modDie t.die (fun x => { x with copies := x.copies ++ [q] })
  (s.modTile t (fun x => { x with port := x.port ++ [{ p with pkt := q }] })).due (.agPortIssue t)

/-- An RST at the head of its drain: none while it must wait for an entry or store space; else the state in which each of its parts is
issued, or none is and the fault is raised. -/
def State.rstLeave (s : State) (a : Access) : Option State :=
  let j := a.job
  let rc := a.rc
  let t := j.fi.at_
  let c := s.regionCtx j.fi.region
  let addr := (a.writes.map (·.1)).headD 0
  match s.openEpoch c t.die rc with
  | none => some (s.remoteHeld j 0x05 addr (vaOwner addr) rc 0)
  | some ep =>
    let (serial, s0) := s.fresh
    let (parts, s0) := s0.mkParts a serial 0
    -- the parts lie in one die's memory (09 R183), so that one entry counts them all
    match s.writeTest t.die c rc ep (vaOwner addr) (sumN (parts.map (fun p => copyBytes p.pkt))) with
    | .noRoom => none
    | .fault code => some (s.remoteHeld j code addr (vaOwner addr) rc ep)
    | .ok e0 =>
      let ids := parts.map (·.pkt.part)
      let job : Job := { j with fi := { j.fi with parts := parts.length } }
      let s1 := s0.modTile t (fun x => { x with outs := x.outs ++ [⟨serial, j.fi.inst, job, true, ids, ids, false⟩] })
      some (parts.foldl (fun s p =>
        let e := (s.send? t.die c rc ep (vaOwner addr)).getD e0
        if e.count ≥ 4096 then (s.strike serial p.pkt.part false true).remoteHeld j 0x06 p.pkt.addr.toNat (vaOwner addr) rc ep
        else s.rstPart a ep p e) s1)

/-! ### The receiver (14 R304) -/

/-- The key of the receive entry of a packet. -/
def relKey (p : Packet) : GroupKey := ⟨p.from_, p.inc, p.ctx, p.rc, p.epoch⟩

/-- A receive entry replaced or added. -/
def State.putRecv (s : State) (d : Nat) (g : GroupKey) (e : RecvEntry) : State :=
  s.modDie d (fun x => { x with recvs := putK x.recvs g e })

/-- A receive entry. -/
def State.recv? (s : State) (d : Nat) (g : GroupKey) : Option RecvEntry := lookupK (s.die d).recvs g

/-- A release-complete sent to the source of a group. -/
def State.sendComplete (s : State) (d : Nat) (g : GroupKey) : State :=
  s.emitPkt d { typ := 0x07, to_ := g.other, from_ := s.code d, inc := (s.die d).inc, cls := 2, ctx := g.ctx, rc := g.rc,
                epoch := g.epoch, op := .complete }

/-- An entry that has come to its end: it absorbs what is repeated, for 7 × GAP. -/
def State.closeRecv (s : State) (d : Nat) (g : GroupKey) (e : RecvEntry) : State :=
  (s.putRecv d g { e with since := s.cycles }).post (.receiveEntryExpiry d g)

/-- The record of a satisfied group (17 R351 type 0x09). -/
def relRecord (g : GroupKey) (p : Packet) : LogRec :=
  ⟨9, 3, 0, p.stamp.frame, seqPart0 p.stamp,
   g.other.toNat + g.rc.toNat * 2 ^ 13 + g.epoch.toNat * 2 ^ 21 + p.index * 2 ^ 29 + (if p.rel then 2 ^ 42 else 0), 0⟩

/-- The new bytes that a flag or release atomic leaves, and the reply of an atomic. -/
def State.relEffect (s : State) (d : Nat) (p : Packet) (key : Nat) : State × Option Packet :=
  match p.op with
  | .flag bs => (((s.writePkt d p key bs).writeLevel d p bs.length).dieRecv p.ctx.toNat d p.phase, none)
  | .atomic op size signed b0 b1 =>
    let old := Memory.getN s.mem key size
    let new := leBytes size (atomicNew op size signed (leNat old) (leNat b0) (leNat b1))
    let r := s.replyPkt d p (.data old false) (s.readLevel d p)
    (((s.writePkt d p key new).writeLevel d p size).dieRecv p.ctx.toNat d p.phase, some r)
  | _ => (s, none)

/-- The flag or atomic of a group whose arrivals equal its count: it waits for the copy of its page (17 R359) or for its record
(14 R308); then the flag is stored, or the atomic performed and its reply sent, and release-complete sent. -/
def State.relSatisfy (s : State) (d : Nat) (g : GroupKey) (e : RecvEntry) (p : Packet) : State :=
  let c := p.ctx.toNat
  match s.pktKey d p with
  | none =>
    let s := s.unmapped d p
    let r := if p.rel then some (s.replyPkt d p (.remoteFault 0x0D) p.stamp.level) else none
    (s.closeRecv d g { e with st := .done, reply := r }).sendComplete d g
  | some key =>
    match s.copyNeed d p key with
    | some (c, u) => (s.due (.firstWriteCopy d c u)).post (.releaseFlagArrival d p)
    | none =>
      match s.logEvent c d (relRecord g p) with
      | .wait s => s.post (.releaseFlagArrival d p)
      | .go s =>
        let (s, r) := s.relEffect d p key
        let s := s.closeRecv d g { e with st := .done, reply := r }
        let s := match r with
          | some q => s.emitPkt d q
          | none => s
        s.sendComplete d g

/-- The test "arrivals = count", made after every arrival. -/
def State.relTest (s : State) (d : Nat) (g : GroupKey) : State :=
  match s.recv? d g with
  | none => s
  | some e =>
    match e.st, e.held with
    | .waiting, some p => if e.arrivals = p.index then s.relSatisfy d g e p else s
    | _, _ => s

/-- A release write performed, its bit set and its arrival counted. One without a mapping is dropped and counted as arrived. -/
def State.relPerform (s : State) (d : Nat) (p : Packet) (e : RecvEntry) : State :=
  let g := relKey p
  let mark := fun (s : State) => (s.putRecv d g { e with arrivals := e.arrivals + 1, bits := e.bits ++ [p.index] }).relTest d g
  match s.pktKey d p with
  | none => mark (s.unmapped d p)
  | some key =>
    match s.copyNeed d p key with
    | some (c, u) => (s.due (.firstWriteCopy d c u)).post (.releaseWriteArrival d p)
    | none =>
      let (bad, s') := s.noteAccess d p
      if bad.isEmpty then mark (s'.performAt d p key) else s'.conflict d p bad

/-- Whether the receive table has room for one more entry. -/
def State.recvFull (s : State) (d : Nat) : Bool := (s.die d).recvs.length ≥ 8192

/-- A release write at its receive entry. -/
def State.releaseWriteStep (s : State) (d : Nat) (p : Packet) : State :=
  match s.recv? d (relKey p) with
  | none => if s.recvFull d then s.cstatUp d 28 12 else s.relPerform d p {}
  | some e =>
    match e.st with
    | .counting => if e.bits.contains p.index then s else s.relPerform d p e
    | .waiting =>
      if p.index ≥ ((e.held.map Packet.index).getD 0) then s.cstatUp d 4 12
      else if e.bits.contains p.index then s else s.relPerform d p e
    | _ => s

/-- A flag or release atomic at its receive entry. -/
def State.releaseFlagStep (s : State) (d : Nat) (p : Packet) : State :=
  let g := relKey p
  let hold := fun (s : State) (e : RecvEntry) =>
    ((s.putRecv d g { e with st := .waiting, held := some p, gaps := 0, since := s.cycles }).post (.gapTimer d g)).relTest d g
  match s.recv? d g with
  | none => if s.recvFull d then s.cstatUp d 28 12 else hold s {}
  | some e =>
    match e.st with
    | .counting => hold s e
    | .waiting => s.relTest d g
    | .done => (match e.reply with
      | some r => s.emitPkt d r
      | none => s.sendComplete d g)
    | .aborted => s

/-- The gap timer: the missing indices are reported, at most 96 at a time; after 16 reports the group is given up. -/
def State.gapStep (s : State) (d : Nat) (g : GroupKey) : State :=
  match s.recv? d g with
  | none => s
  | some e =>
    match e.st, e.held with
    | .waiting, some p =>
      -- a group that waits for its record alone is short of nothing (14 R308)
      if e.arrivals = p.index then (s.putRecv d g { e with since := s.cycles }).post (.gapTimer d g)
      else
        let miss := ((List.range p.index).filter (fun i => !e.bits.contains i)).take 96
        let s := (s.cstatUp d 16 12).emitPkt d {
          typ := 0x08, to_ := g.other, from_ := s.code d, inc := (s.die d).inc, cls := 2, ctx := g.ctx, rc := g.rc, epoch := g.epoch,
          op := .gapReport miss }
        if e.gaps + 1 ≥ 16 then
          (s.modDie d (fun x => { x with recvs := delK x.recvs g })).remoteFault
            g.ctx.toNat d 0x0A p.addr.toNat g.other.toNat g.rc.toNat g.epoch.toNat
        else (s.putRecv d g { e with gaps := e.gaps + 1, since := s.cycles }).post (.gapTimer d g)
    | _, _ => s

/-- An abort at its receive entry: the received total takes the writes that will never be performed, and the flag. -/
def State.abortStep (s : State) (d : Nat) (p : Packet) : State :=
  let g := relKey p
  match p.op with
  | .abort n f =>
    let go := fun (s : State) (e : RecvEntry) =>
      let k := n - e.arrivals + (if f then 1 else 0)
      let s := (List.range k).foldl (fun s _ => s.dieRecv p.ctx.toNat d p.phase) s
      (s.closeRecv d g { e with st := .aborted }).sendComplete d g
    (match s.recv? d g with
    | none => if s.recvFull d then s.cstatUp d 28 12 else go s {}
    | some e =>
      match e.st with
      | .counting | .waiting => go s e
      | _ => s.sendComplete d g)
  | _ => s

/-- An entry freed at its end. -/
def State.expireRecv (s : State) (d : Nat) (g : GroupKey) : State :=
  match s.recv? d g with
  | none => s
  | some e => match e.st with
    | .done | .aborted => s.modDie d (fun x => { x with recvs := delK x.recvs g })
    | _ => s

/-! ### RMT (14 R309, R310) -/

/-- The effective address, the ring code, the channel and the length of a remote descriptor. -/
def rmtRing (desc : Bytes) : Nat := bitsN (byteAt desc 8).toNat 5 2
def rmtRc (desc : Bytes) : Nat := (byteAt desc 9).toNat
def rmtLen (desc : Bytes) : Nat := numAt desc 10 2

/-- An RMT firing whose descriptor keeps its limits; `go` takes the address and the descriptor. -/
def fireRmt (limit : Nat) (f : Fields) (regs : List Nat) (go : Job → Launch → Nat → Bytes → State → State) (s : State) : State :=
  s.fire f (some .value) (dests f) regs (fun j s =>
    let desc := descriptorOn s j false
    let ea := baseAddr s j desc 0
    match s.launchOf j.fi with
    | none => s
    | some l =>
      if rmtRing desc = 3 || (limit > 0 && rmtLen desc > limit) then
        s.leaseFault j 0x21 ea 2
      else go j l ea desc s)

/-- A remote load. -/
def execRmtRld (f : Fields) (s : State) : Host.Outcome State Fault Refusal :=
  .next (fireRmt 128 f (sregDests f) (fun j l ea desc s =>
    let n := rmtLen desc
    match firstDenied l false ea n with
    | some a => s.leaseFault j 0x21 a 0
    | none =>
      if n = 0 then (s.consume j.fi).emitBoth j .value []
      else s.startSlot { job := j, major := 0x21, minor := 0, loads := [(ea, n)], size := n, ring := rmtRing desc } .remote) s)

/-- A release write: checked and held (05 R103). -/
def execRmtRst (f : Fields) (s : State) : Host.Outcome State Fault Refusal :=
  .next (fireRmt 256 f [] (fun j l ea desc s =>
    let sz := f.tyT.size
    let len := if f.srcB = 3 then rmtLen desc else min 128 (rmtLen desc)
    let n := len / sz * sz
    let so := numAt desc 12 4
    if f.srcB = 3 && len > 0 && so + len > spadBytes then s.leaseFault j 0x21 ea 2
    else match firstDenied l true ea len with
      | some a => s.leaseFault j 0x21 a 0
      | none =>
        let data := if f.srcB = 3 then (s.tile j.fi.at_).spadRead j.fi.inst so n else sliceB (operandIn s j f.tyT true) 0 n
        let s := s.consume j.fi
        if n = 0 then s.emitBoth j .value []
        else s.hold j (.rst { job := j, major := 0x21, minor := 1, writes := [(ea, data)], size := n, rc := rmtRc desc,
                              ring := rmtRing desc })) s)

/-- The first check that a RELFLAG at an address fails, in the order of 14 R312: its open epoch, its lease, its alignment, its ring code
(log entry 65). -/
def State.relflagBad (s : State) (j : Job) (l : Launch) (rc addr ring : Nat) : Option State :=
  match s.openEpoch (s.regionCtx j.fi.region) j.fi.die rc, firstDenied l true addr 8 with
  | none, _ => some (s.remoteSync j 0x05 addr (vaOwner addr) rc 0)
  | _, some x => some (s.leaseFault j 0x22 x 0)
  | _, none =>
    if addr % 8 ≠ 0 then some (s.leaseFault j 0x22 addr 1)
    else if ring = 3 then some (s.leaseFault j 0x22 addr 2)
    else none

/-- A release atomic, or a RELFLAG, as it issues (14 R303, R310, R312): a fault of its channel or destination is raised, it is offered
again where the tables are full, or a watched one waits for its trap. -/
def State.startFlag (s : State) (a : Access) (go : SendEntry → State → State) : State :=
  let j := a.job
  let d := j.fi.die
  let c := s.regionCtx j.fi.region
  let ea := match a.op with
    | some (ea, _) => ea
    | none => (a.writes.map (·.1)).headD 0
  match s.openEpoch c d a.rc with
  | none => s.remoteSync j 0x05 ea (vaOwner ea) a.rc 0
  | some ep =>
    match s.flagTest d c a.rc ep (vaOwner ea), s.watchHit a with
    | .fault code, _ => s.remoteSync j code ea (vaOwner ea) a.rc ep
    | .noRoom, _ => s.offerAgain j.fi
    | .ok _, some line => s.watchFault a line
    | .ok e, none => go e (s.dieSent c d j.fi.stTag.phase)

/-- A release atomic issued into a reply slot. -/
def State.issueRelAtom (s : State) (a : Access) : State :=
  let j := a.job
  let t := j.fi.at_
  match (s.tile t).freeSlot with
  | none => (s.agqNote t 0).offerAgain j.fi
  | some k => s.startFlag a (fun e s =>
    let (serial, s) := s.fresh
    let (parts, s) := s.mkParts a serial k
    let pkts := parts.map (fun p => { p.pkt with rel := true, soNum := none, rc := BitVec.ofNat 8 e.rc, epoch := BitVec.ofNat 8 e.epoch })
    let job : Job := { j with fi := { j.fi with parts := 1 } }
    -- like an ATOM it drops the line that it acts on from the L1 (10 R215)
    let s := s.l1Drop t (((a.op.map (·.1)).getD 0) / 64)
    let s := s.modTile t (fun x => { x with replies := NMap.put x.replies k {
      job := job, kind := .atomic, major := 0x21, minor := a.minor, serial := serial, left := pkts.map Packet.part,
      buf := zeros a.size, pkts := pkts, since := s.cycles } })
    pkts.foldl (fun s p => s.sendFlag t.die e p) s)

/-- A RELFLAG issued: its token is emitted when it is posted. -/
def State.issueRelflag (s : State) (a : Access) : State :=
  let j := a.job
  let d := j.fi.die
  let c := s.regionCtx j.fi.region
  let w := a.writes.headD (0, [])
  s.startFlag a (fun e s =>
    let s := s.noteLevel j
    let (part, s) := s.fresh
    let s := s.sendFlag d e {
      typ := 0x06, part := part, addr := BitVec.ofNat 64 w.1, to_ := BitVec.ofNat 13 (vaOwner w.1), from_ := s.code d,
      inc := (s.die d).inc, cls := 2, ctx := BitVec.ofNat 12 c, phase := j.fi.stTag.phase,
      ring := BitVec.ofNat 2 a.ring, stamp := stampOf (s.level c) j.fi 0 1, op := .flag w.2, n := 8 }
    (s.consume j.fi).emitBoth j .value [])

/-- A release atomic (14 R310). -/
def fireRmtAtom (minor : Nat) (op : AtomOp) (f : Fields) (s : State) : State :=
  fireRmt 0 f (sregDests f) (fun j l ea desc s =>
    let sz := f.tyT.size
    let b := atomOperand s j sz
    if ea % sz ≠ 0 then s.leaseFault j 0x21 ea 1
    else match firstDenied l true ea sz with
      | some a => s.leaseFault j 0x21 a 0
      | none => s.issueRelAtom {
          job := j, major := 0x21, minor := minor, size := sz, rc := rmtRc desc, ring := rmtRing desc,
          op := some (ea, .atomic op sz f.tyT.isSigned (sliceB b 0 sz) (sliceB b sz sz)) }) s

def execRmtRadd (f : Fields) (s : State) : Host.Outcome State Fault Refusal := .next (fireRmtAtom 2 .add f s)
def execRmtRcas (f : Fields) (s : State) : Host.Outcome State Fault Refusal := .next (fireRmtAtom 3 .cas f s)
def execRmtRxchg (f : Fields) (s : State) : Host.Outcome State Fault Refusal := .next (fireRmtAtom 4 .xchg f s)

/-- A prefetch: sent, never answered. -/
def execRmtRpf (f : Fields) (s : State) : Host.Outcome State Fault Refusal :=
  .next (fireRmt 4096 f (sregDests f) (fun j l ea desc s =>
    let t := j.fi.at_
    let n := rmtLen desc
    match firstDenied l false ea n with
    | some a => s.leaseFault j 0x21 a 0
    | none =>
      let a : Access := { job := j, major := 0x21, minor := 5, loads := [(ea, n)], size := n }
      let s' := s.consume j.fi
      let s' := if n = 0 then s' else (s.pagePieces a).foldl (fun s p => s.emitPkt t.die {
        typ := 0x0A, addr := BitVec.ofNat 64 p.1, to_ := BitVec.ofNat 13 (vaOwner p.1), from_ := s.code t.die, inc := (s.die t.die).inc,
        cls := 2, ctx := BitVec.ofNat 12 (s.regionCtx j.fi.region), phase := j.fi.stTag.phase, ring := BitVec.ofNat 2 (rmtRing desc),
        op := .prefetch p.2.2.1, n := p.2.2.1 }) s'
      s'.emitBoth j .value []) s)

/-! ### RREL (14 R312) -/

def execRrelRelopen (f : Fields) (s : State) : Host.Outcome State Fault Refusal :=
  .next (s.fire f (some .value) (dests f) (sregDests f) (fun j s =>
    let d := j.fi.die
    let c := s.regionCtx j.fi.region
    let rc := Fields.rcLit f
    match s.relopenTest c d rc with
    | .wait => s.relHold j 0 (.relopen rc) []
    | .fault code => s.remoteSync j code 0 (s.code d).toNat rc ((s.openEpoch c d rc).getD 0)
    | .done s' e => (s'.consume j.fi).emitBoth j .value (leBytes 4 e)))

def execRrelRelflag (f : Fields) (s : State) : Host.Outcome State Fault Refusal :=
  .next (s.fire f (some .value) (dests f) (sregDests f) (fun j s =>
    let a := descriptorOn s j false
    let addr := numAt a 0 8
    match s.launchOf j.fi with
    | none => s
    | some l =>
      match s.relflagBad j l (Fields.rcLit f) addr (rmtRing a) with
      | some s => s
      | none => s.issueRelflag {
          job := j, major := 0x22, minor := 1, writes := [(addr, sliceB (operandIn s j .none true) 0 8)], size := 8,
          rc := Fields.rcLit f, ring := rmtRing a }))

def execRrelRelwait (f : Fields) (s : State) : Host.Outcome State Fault Refusal :=
  .next (s.fireAcquiring f (some .value) (dests f) (sregDests f) (fun j s =>
    let d := j.fi.die
    let c := s.regionCtx j.fi.region
    let rc := Fields.rcLit f
    let a := operandIn s j .none false
    let e := (byteAt a 0).toNat
    match s.relwaitTest c d rc e with
    | .wait => s.relHold j 2 (.relwait rc) a
    | .fault code => s.remoteSync j code 0 (s.code d).toNat rc e
    | .done s' _ => (s'.consume j.fi).emitAll j (s'.sawAll (s'.syncUp j j.fi.stTag)) .value a))

def execRrelRelabort (f : Fields) (s : State) : Host.Outcome State Fault Refusal :=
  .next (s.fire f (some .value) (dests f) (sregDests f) (fun j s =>
    let d := j.fi.die
    let c := s.regionCtx j.fi.region
    let rc := Fields.rcLit f
    let live : List SendEntry := match s.openEpoch c d rc with
      | none => []
      | some ep => (s.groupSends d c rc ep).filter (fun e => e.st = .opened || e.st = .flagged)
    let s := (live.foldl (fun s e => s.abortSend d e) s).relWake d c rc
    (s.consume j.fi).emitBoth j .value (leBytes 4 live.length)))

/-! ### The steps -/

def execReleaseWriteArrival (s : State) : Host.Outcome State Fault Refusal :=
  match s.ev with
  | .releaseWriteArrival d p => .next (s.releaseWriteStep d p)
  | _ => .next s
def execReleaseFlagArrival (s : State) : Host.Outcome State Fault Refusal :=
  match s.ev with
  | .releaseFlagArrival d p => .next (s.releaseFlagStep d p)
  | _ => .next s
def execReleaseCompleteArrival (s : State) : Host.Outcome State Fault Refusal :=
  match s.ev with
  | .releaseCompleteArrival d p => .next (s.completeStep d p)
  | _ => .next s
def execGapReportArrival (s : State) : Host.Outcome State Fault Refusal :=
  match s.ev with
  | .gapReportArrival d p => .next (s.gapReportStep d p)
  | _ => .next s
def execGroupAbortArrival (s : State) : Host.Outcome State Fault Refusal :=
  match s.ev with
  | .groupAbortArrival d p => .next (s.abortStep d p)
  | _ => .next s
def execFlagResendTimer (s : State) : Host.Outcome State Fault Refusal :=
  match s.ev with
  | .flagResendTimer d g => .next (s.flagTimer d g)
  | _ => .next s
def execAbortResendTimer (s : State) : Host.Outcome State Fault Refusal :=
  match s.ev with
  | .abortResendTimer d g => .next (s.abortTimer d g)
  | _ => .next s
def execGapTimer (s : State) : Host.Outcome State Fault Refusal :=
  match s.ev with
  | .gapTimer d g => .next (s.gapStep d g)
  | _ => .next s
def execReceiveEntryExpiry (s : State) : Host.Outcome State Fault Refusal :=
  match s.ev with
  | .receiveEntryExpiry d g => .next (s.expireRecv d g)
  | _ => .next s
def execRelopenSpacingExpiry (s : State) : Host.Outcome State Fault Refusal :=
  match s.ev with
  | .relopenSpacingExpiry t slot => .next (s.relCheck t slot)
  | _ => .next s

end Sys2Proof.Machine
end

