-- ==== Sys2Proof/Machine/Rings.lean ====
section
/-! DEFINITION. Curator's command ring (20 R405 to R408): the doorbell, commands taken one at a time, their completions. -/

namespace Sys2Proof.Machine

/-- Whether a command acts on a context across dies (20 R409). -/
def ctxWide (opcode : Nat) : Bool := [0x02, 0x05, 0x0C, 0x0D, 0x0E, 0x0F, 0x10].contains opcode

/-- The step that performs a command: none for a reserved opcode (20 R409). -/
def cmdEvent (c : Command) : Option Event :=
  let b := fun (i : Nat) => byteAt c.args i
  match c.opcode.toNat with
  | 0x01 => some (.cmdCreate c)
  | 0x02 => some (.cmdDestroy c)
  | 0x03 => some (.cmdResident c)
  | 0x04 => some (.cmdEvict c)
  | 0x05 => some (.cmdMode c)
  | 0x06 => some (.cmdRegw c)
  | 0x07 => some (.cmdMap c)
  | 0x08 => some (.cmdUnmap c)
  | 0x09 => some (.cmdProtect c)
  | 0x0A => some (.cmdResdone c)
  | 0x0B => some (.cmdResfail c)
  | 0x0C => some (.cmdPreempt c)
  | 0x0D => some (.cmdRestore c)
  | 0x0E => some (.cmdResume c)
  | 0x0F => some (.cmdKill c)
  | 0x10 => some (.cmdTrapw c)
  | 0x11 => if numAt c.args 8 8 = 0 then some (.cmdGramwClear c) else some (.cmdGramw c)
  | 0x12 => some (.cmdEpw c)
  | 0x13 => some (.cmdWinw c)
  | 0x14 => if b 2 = 1 then some (.cmdWatchClear c) else some (.cmdWatchAdd c)
  | 0x15 => some (.cmdObsread c)
  | 0x16 => if b 1 = 1 then some (.cmdVitrineThaw c) else some (.cmdVitrineFreeze c)
  | 0x17 => some (.cmdLinkrst c)
  | 0x18 => some (.cmdMemrd c)
  | 0x19 => some (.cmdMemwr c)
  | 0x1A => some (.cmdPatch c)
  | 0x1B => some (.cmdIdent c)
  | 0x1C => some (.cmdStatclr c)
  | 0x1D => some (.cmdCtxinfo c)
  | 0x1E => some (.cmdPwrcap c)
  | 0x1F => some (.cmdNetcfg c)
  | _ => none

/-- A die's rings changed. -/
def State.modRings (s : State) (d : Nat) (g : Rings → Rings) : State := s.modDie d (fun x => { x with rings := g x.rings })

/-- The context of a command. -/
def cmdCtx (c : Command) : Nat := fieldOf c.ctxField 0 12

/-- The commands of a ring, and the base of a register that holds one in bits [63:12]. -/
def Rings.slots (r : Rings) : Nat := 2 ^ fieldOf r.cq 0 4
def baseOf (v : BitVec 64) : Nat := fieldOf v 12 52 * 4096

/-- The command at an index of a die's ring, in host memory (20 R406). -/
def State.commandAt (s : State) (d i : Nat) : Command :=
  let r := (s.die d).rings
  let b := Memory.getN s.hostMem (baseOf r.cq + 64 * (i % r.slots)) 64
  { die := d, index := i, opcode := BitVec.ofNat 16 (numAt b 0 2), flags := BitVec.ofNat 16 (numAt b 2 2),
    ctxField := BitVec.ofNat 16 (numAt b 4 2), reserved := BitVec.ofNat 16 (numAt b 6 2),
    tag := BitVec.ofNat 64 (numAt b 8 8), args := b.drop 16 }

/-- A completion written (20 R406): none when the command asks for none and is done. One that cannot reach the host is kept (log
entry 64). -/
def State.complete (s : State) (c : Command) (status result : Nat) : State :=
  if bitN c.flags.toNat 0 && status = 0 then s
  else
    let r := (s.die c.die).rings
    let bs := leBytes 8 c.tag.toNat ++ leBytes 2 c.opcode.toNat ++ leBytes 2 status ++ leBytes 4 result
    let at_ := baseOf r.cpl + 16 * (c.index % r.slots)
    if s.hostOpen then { s with hostMem := Memory.setN s.hostMem at_ bs }
    else s.modRings c.die (fun x => { x with cplKept := x.cplKept ++ [(at_, bs)] })

/-- The next commands of a die taken while it performs none: one with a reserved opcode, flag or field is completed at once with
status 1 (20 R407, R408). -/
def State.takeNext (s : State) (d : Nat) : Nat → State
  | 0 => s
  | n + 1 =>
    let r := (s.die d).rings
    if r.busy.isSome || r.chead = r.ctail || !s.hostOpen then s
    else
      let c := s.commandAt d r.chead.toNat
      let s := s.modRings d (fun x => { x with chead := x.chead + 1 })
      let bad := fieldOf c.flags 1 15 ≠ 0 || fieldOf c.ctxField 12 4 ≠ 0 || c.reserved ≠ 0
      match bad, cmdEvent c with
      | false, some e => (s.modRings d (fun x => { x with busy := some c })).post e
      | _, _ => (s.complete c 1 0).takeNext d n

/-- A command finished: its completion is written and the next is taken. -/
def State.finish (s : State) (c : Command) (status result : Nat) : State :=
  ((s.complete c status result).modRings c.die (fun x => { x with busy := none })).takeNext c.die 32768

/-- A command finished without a result. -/
def State.done (s : State) (c : Command) (status : Nat) : State := s.finish c status 0

/-- The context-wide command of an opcode that is being performed for a context. -/
def State.busyWith (s : State) (ctx opcode : Nat) : Option Command :=
  s.dies.findSome? (fun d => match d.2.rings.busy with
    | some c => if c.opcode.toNat = opcode && cmdCtx c = ctx then some c else none
    | none => none)

/-- Whether all dies of the package are up: a package in which any die stays down takes no command (20 R417). -/
def State.allReady (s : State) : Bool := (List.range 8).all (fun d => fieldOf (s.die d).boot.stat 0 3 = 6)

/-- The doorbell (20 R405); the cycle of one that brings commands is kept: in it BASE and LOG2 take no write (20 R419). -/
def State.doorbell (s : State) (d : Nat) (tail : BitVec 32) : State :=
  let s := s.modRings d (fun x => { x with ctail := tail, rungAt := if x.chead = tail then x.rungAt else s.cycles + 1 })
  if s.allReady then s.takeNext d 32768 else s

/-- Kept events written as the event ring has room (20 R411). -/
def State.flushEvents (s : State) (d : Nat) : Nat → State
  | 0 => s
  | n + 1 =>
    let r := (s.die d).rings
    match r.kept with
    | [] => s
    | b :: bs =>
      if r.full || !s.hostOpen then s
      else
        let s := { s with hostMem := Memory.setN s.hostMem (eventAddr r r.etail.toNat) b }
        (s.modRings d (fun x => { x with kept := bs, etail := x.etail + 1 })).flushEvents d n

/-- The host is reached again: every die's kept completions and events are written, and its commands taken. -/
def State.hostBack (s : State) : State :=
  (List.range 8).foldl (fun s d =>
    let s := (s.die d).rings.cplKept.foldl (fun s (q : Nat × Bytes) => ({ s with hostMem := Memory.setN s.hostMem q.1 q.2 } : State)) s
    let s := (s.modRings d (fun x => { x with cplKept := [] })).flushEvents d 256
    if s.allReady then s.takeNext d 32768 else s) s

/-- A write of CUR_EHEAD. -/
def State.eheadWrite (s : State) (d : Nat) (v : BitVec 32) : State :=
  (s.modRings d (fun x => { x with ehead := v })).flushEvents d 256

def execCurCtailWrite (s : State) : Host.Outcome State Fault Refusal :=
  match s.ev with
  | .curCtailWrite d v => .next (s.doorbell d v)
  | _ => .next s

def execCurEheadWrite (s : State) : Host.Outcome State Fault Refusal :=
  match s.ev with
  | .curEheadWrite d v => .next (s.eheadWrite d v)
  | _ => .next s

end Sys2Proof.Machine
end

