-- ==== Sys2Proof/Machine/Fabric.lean ====
section
/-! DEFINITION. The way of packets through the package and out of it (14 R294 to R301): routes, slots and credits, loss and resending,
the machine of a link, and notices of a die's incarnation (14 R305). -/

namespace Sys2Proof.Machine

/-! ### Links (14 R299, R315) -/

/-- The ports of a die: 0 clockwise ring, 1 anticlockwise ring, 2 and 3 local optical, 4 and 5 global optical, 6 host (20 R408). -/
def State.link (s : State) (d port : Nat) : Link := NMap.getD (s.die d).links port {}
def State.modLink (s : State) (d port : Nat) (g : Link → Link) : State :=
  s.modDie d (fun x => { x with links := NMap.put x.links port (g (NMap.getD x.links port {})) })

/-- The code of a link's state (14 R315). -/
def LinkState.code : LinkState → Nat
  | .up => 0 | .retrain => 1 | .confirm => 2 | .failed => 3 | .down => 4

/-- LINKSTAT of a port (14 R315): the speed code of an optical port is 0010, of the others 0001. -/
def Link.stat (port : Nat) (l : Link) : BitVec 64 :=
  let up := if l.st = .up then 1 else 0
  let speed := if 2 ≤ port && port ≤ 5 then 2 else 1
  BitVec.ofNat 64 (up * (l.view.width % 256 * 2 ^ 40 + speed * 2 ^ 36) + l.attempts % 4 * 2 ^ 34
    + min 0xFFFF l.crcErr * 2 ^ 16 + l.st.code)

/-- Flits resent after CRC errors, counted. -/
def Link.resent (l : Link) (n : Nat) : Link := { l with crcErr := min 0xFFFF (l.crcErr + n) }

/-- The ends of a port's link that lie in the package: the port, and of a ring link the port at its other end (01 R7). -/
def linkEnds (d port : Nat) : List (Nat × Nat) :=
  if port = 0 then [(d, 0), ((d + 1) % 8, 1)] else if port = 1 then [(d, 1), ((d + 7) % 8, 0)] else [(d, port)]

/-- A port begins to train; whether training completes within 1 ms is not the model's to say (log entry 8). -/
def State.trainEnd (s : State) (d port : Nat) : State :=
  let s := s.modLink d port (fun l => { l with st := .retrain, since := s.cycles })
  if Config.trains s.ticks d port then s.post (.trainingComplete d port) else s.post (.retrainTimeout d port)

/-- A port that is up retrains, and the other end of its link with it: the one asks the other (14 R299). -/
def State.retrain (s : State) (d port : Nat) : State :=
  (linkEnds d port).foldl (fun s e => if (s.link e.1 e.2).st = .up then s.trainEnd e.1 e.2 else s) s

/-- A link brought up, or reset, by Curator (14 R299). -/
def State.linkReset (s : State) (d port : Nat) : State :=
  (linkEnds d port).foldl (fun s e => match (s.link e.1 e.2).st with
    | .down | .failed => (s.modLink e.1 e.2 (fun l => { l with attempts := 0 })).trainEnd e.1 e.2
    | _ => s) s

/-- The view of a link that an end sends. -/
def viewOf (v : Nat × Nat × Nat) : LinkView := ⟨v.1, v.2.1, v.2.2⟩

/-- Training has completed: the end sends its view; the views are compared when both ends have sent theirs. -/
def State.trained (s : State) (d port : Nat) : State :=
  if (s.link d port).st ≠ .retrain then s
  else
    let own := viewOf (Config.linkView s.ticks d port)
    let s := s.modLink d port (fun l => { l with st := .confirm, view := own })
    match (linkEnds d port).drop 1 with
    | [] => s.post (.confirmViews d port own (viewOf (Config.linkView s.ticks d (port + 8))))
    | e :: _ => if (s.link e.1 e.2).st = .confirm then s.post (.confirmViews d port own (s.link e.1 e.2).view) else s

/-- A link failed: its ends fail together, and Curator posts a link event for each. The packets that wait for it are rerouted or dropped at
their next hop. -/
def State.linkFailed (s : State) (d port : Nat) : State :=
  (linkEnds d port).foldl (fun s e =>
    let s := s.modLink e.1 e.2 (fun l => { l with st := .failed })
    s.curEvent e.1 8 0 e.2 (leBytes 8 ((s.link e.1 e.2).stat e.2).toNat)) s

/-- A link is up: what waited for the host is written, and commands are taken again, when it is a host link (20 R405). -/
def State.linkUp (s : State) (d port : Nat) (v : LinkView) : State :=
  let s := (linkEnds d port).foldl (fun s e => s.modLink e.1 e.2 (fun l => { l with st := .up, view := v, attempts := 0 })) s
  if port = 6 then s.hostBack else s

/-- The two views of a link compared. -/
def State.confirm (s : State) (d port : Nat) (own peer : LinkView) : State :=
  let l := s.link d port
  if l.st ≠ .confirm then s
  else if own = peer then s.linkUp d port own
  else if l.attempts < 2 then (linkEnds d port).foldl (fun s e =>
    (s.modLink e.1 e.2 (fun l => { l with attempts := l.attempts + 1 })).trainEnd e.1 e.2) s
  else s.linkFailed d port

/-! ### Slots (14 R297) -/

/-- The channel of a packet: its class, its label, and on the ring its dateline bit. -/
def labelOf (p : Packet) : Nat := 3 * p.gHops + p.lHops
def vcOf (ring : Bool) (p : Packet) : Nat := p.cls.toNat * 32 + (if ring && p.dateline then 16 else 0) + labelOf p

/-- The key of an escape slot. -/
def escKey (cls which : Nat) : Nat := cls * 2 + which

/-- The escape slot of a packet on a link. -/
def escapeOf (ring : Bool) (p : Packet) : Nat :=
  if ring then (if p.dateline then 1 else 0) else if p.gHops = 0 then 0 else 1

/-- The slot that a packet takes at the other end of a link. -/
def Link.slotFor (l : Link) (ring : Bool) (p : Packet) : Option SlotKind :=
  let e := escKey p.cls.toNat (escapeOf ring p)
  let esc := if NMap.getD l.escape e 1 = 1 then some (SlotKind.escape p.cls.toNat (escapeOf ring p)) else none
  if p.escape then esc
  else if l.shared > 0 then some .shared
  else if NMap.getD l.reserved (vcOf ring p) 2 > 0 then some (.reserved (vcOf ring p))
  else esc

/-- A free count taken down, or up. -/
def Link.take (l : Link) (k : SlotKind) : Link :=
  match k with
  | .shared => { l with shared := l.shared - 1 }
  | .reserved v => { l with reserved := NMap.put l.reserved v (NMap.getD l.reserved v 2 - 1) }
  | .escape c w => { l with escape := NMap.put l.escape (escKey c w) 0 }
def Link.give (l : Link) (k : SlotKind) : Link :=
  match k with
  | .shared => { l with shared := min 32 (l.shared + 1) }
  | .reserved v => { l with reserved := NMap.put l.reserved v (min 2 (NMap.getD l.reserved v 2 + 1)) }
  | .escape c w => { l with escape := NMap.put l.escape (escKey c w) 1 }

/-- A packet has left the slot in which it stood: the credit goes back. -/
def State.leaveSlot (s : State) (p : Packet) : State :=
  match p.viaLink, p.held with
  | some l, some k => s.post (.creditReturn l k)
  | _, _ => s

/-! ### Routes (14 R296, R300) -/

/-- Whether a port of a die has failed. -/
def State.failedPort (s : State) (d port : Nat) : Bool := (s.link d port).st = .failed

/-- The die and the port of local port `j`, and of global port `g`, of a package. -/
def localPort (j : Nat) : Nat × Nat := (j / 2, 2 + j % 2)
def globalPort (g : Nat) : Nat × Nat := (g / 2, 4 + g % 2)

/-- The port toward member `q` of the group, after `l` local hops: the direct link, else by way of the member that port 15 leads to, which a
packet that has come by a local hop already does not take (14 R300: `l` is at most 2). -/
def State.toMember (s : State) (l q : Nat) : Option (Nat × Nat) :=
  let m := s.pkg % 16
  let pair := if m % 2 = 0 then m + 1 else m - 1
  let direct := localPort ((q + 15 - m) % 16)
  let second := localPort 15
  if !s.failedPort direct.1 direct.2 then some direct
  else if !s.failedPort second.1 second.2 && (q = pair || l = 0) then some second
  else none

/-- The number of global link `k` from group `g` to group `h`. -/
def globalLink (g h k : Nat) : Nat := 4 * ((h + 64 - g) % 64 - 1) + k

/-- Whether global link `k` from group `g` to group `h` is up: a link of this package by its port, another as the package knows it. -/
def State.globalUp (s : State) (g h k : Nat) : Bool :=
  let n := globalLink g h k
  let q := globalPort (n % 16)
  if g = s.pkg / 16 && n / 16 = s.pkg % 16 then !s.failedPort q.1 q.2 else Config.globalLinkUp s.ticks g h k

/-- Whether a group has a link to another that is up. -/
def State.groupOpen (s : State) (g h : Nat) : Bool := (List.range 4).any (fun k => s.globalUp g h k)

/-- The port toward another group, after `l` local hops: global link `src` modulo 4, then the next ones, at the member that holds it. -/
def State.toGroup (s : State) (l src h : Nat) : Option (Nat × Nat) :=
  let g := s.pkg / 16
  (((List.range 4).map (fun i => (src + i) % 4)).filter (fun k => s.globalUp g h k)).findSome? (fun k =>
    let n := globalLink g h k
    if n / 16 = s.pkg % 16 then some (globalPort (n % 16)) else s.toMember l (n / 16))

/-- The port by which a packet to another package leaves this one: the minimal route; where all four links to the group have failed and
no global hop is behind it, by the lowest group that has links to both (14 R300). -/
def State.wayOut (s : State) (p : Packet) (src dst : Nat) : Option (Nat × Nat) :=
  let g := s.pkg / 16
  let h := dst / 16
  if h = g then s.toMember p.lHops (dst % 16)
  else if s.groupOpen g h then s.toGroup p.lHops src h
  else if p.gHops ≠ 0 then none
  else ((List.range 64).find? (fun i => i ≠ g && i ≠ h && s.groupOpen g i && s.groupOpen i h)).bind (fun i => s.toGroup p.lHops src i)

/-- Where a packet goes within the package: a die and the port by which it leaves there, none for the die itself. A packet to the host
takes the other host link where its own has failed (01 R8). -/
def State.route (s : State) (p : Packet) : Option (Nat × Option Nat) :=
  let pk := p.to_.toNat / 8
  let d := p.to_.toNat % 8
  if pk ≠ s.pkg then (s.wayOut p (p.from_.toNat / 8) pk).map (fun q => (q.1, some q.2))
  else if p.toHost then
    let other := if d = 0 then 4 else 0
    if !s.failedPort d 6 then some (d, some 6) else if !s.failedPort other 6 then some (other, some 6) else none
  else some (d, none)

/-- Whether a way along the ring crosses a failed link: clockwise from `d`, or anticlockwise, over `n` links. -/
def State.ringBlocked (s : State) (cw : Bool) (d : Nat) : Nat → Bool
  | 0 => false
  | n + 1 => s.failedPort d (if cw then 0 else 1) || s.ringBlocked cw ((d + (if cw then 1 else 7)) % 8) n

/-- The ring direction of a packet from die `d` to die `t`, 1 clockwise or 2 anticlockwise: the one it goes already or is forced to, else
the shorter; the other where it crosses a failed link. -/
def State.ringWay (s : State) (d t : Nat) (p : Packet) : Option Nat :=
  let n := (t + 8 - d) % 8
  let want := if p.dir ≠ 0 then p.dir.toNat else if p.ring = 1 || p.ring = 2 then p.ring.toNat else if n ≤ 4 then 1 else 2
  let bad := fun (w : Nat) => if w = 1 then s.ringBlocked true d n else s.ringBlocked false d (8 - n)
  if !bad want then some want else if !bad (3 - want) then some (3 - want) else none

/-! ### Hops -/

/-- Whether a packet outside a release group is of a type that counts under 06 R132 (14 R295). -/
def countedType (p : Packet) : Bool := (p.typ = 0x02 && !p.rel) || p.typ = 0x04 || p.typ = 0x0B

/-- A packet has left its source die: a posted write is posted. One that leaves the package is recorded; a write, credit or atomic among them
counts as received, and the write as seen (log entry 4), but for release traffic, which its send entry accounts for. -/
def State.departed (s : State) (d : Nat) (p : Packet) (out : Bool) : State :=
  let own := p.from_ = s.code d && !p.fromHost && p.viaLink.isNone
  let s := if own && (p.typ = 0x04 || p.typ = 0x05) then s.strike p.serial p.part true false else s
  if !out then s
  else
    let mine := p.from_.toNat / 8 = s.pkg && !p.fromHost
    let s := if mine && countedType p then s.dieRecv p.ctx.toNat d p.phase else s
    let s := if mine && p.typ = 0x04 then s.strike p.serial p.part true true else s
    { s with outbound := s.outbound ++ [p] }

/-- A packet put on a link: it waits while the link is not up or no slot is free. `next` is the packet after the hop; on a global link it
goes under the label that it has before it (14 R296). -/
def State.sendOn (s : State) (d port : Nat) (p next : Packet) : State :=
  let l := s.link d port
  let ring := port < 2
  let label := if port = 4 || port = 5 then { next with gHops := p.gHops, lHops := p.lHops } else next
  match (if l.st = .up then l.slotFor ring label else none) with
  | none => s.post (.packetHop d p)
  | some k =>
    let s := (s.modLink d port (fun l => (l.take k).resent (Config.crcResends s.ticks))).leaveSlot p
    let esc := match k with
      | .escape _ _ => true
      | _ => next.escape
    let q := { next with viaLink := some (d * 8 + port), held := some k, escape := esc }
    if ring then (s.departed d p false).post (.packetHop ((d + (if port = 0 then 1 else 7)) % 8) q)
    -- beyond the package the slot is given back when the packet has gone (log entry 4)
    else (s.departed d p true).post (.creditReturn (d * 8 + port) k)

/-- Whether a packet breaks the layout of its header (14 R295). -/
def badPacket (p : Packet) : Bool := p.typ = 0 || p.typ.toNat > 0x0C || p.cls = 3 || (p.phys && !p.fromHost)

/-- A packet at the die that it is bound for: a stale one is dropped; a notice brings the table up to date (14 R305). -/
def State.deliverPkt (s : State) (d : Nat) (p : Packet) : State :=
  let s := s.leaveSlot p
  let known := NMap.getD (s.die d).incs p.from_.toNat 0
  if !p.fromHost && p.typ ≠ 0x0C && p.inc ≠ known then s.cstatUp d 52 12
  else match arrivalEvent d { p with viaLink := none, held := none, dir := 0, dateline := false, escape := false } with
    | some e => s.post e
    | none => s

/-- One hop of a packet: it ages, and goes on toward its destination (14 R296 to R298). -/
def State.hop (s : State) (d : Nat) (p : Packet) : State :=
  let p := aged s.ticks p
  if badPacket p then (s.leaveSlot p).cstatUp d 4 12
  else if s.tooOld d p then s.post (.packetAgeDrop d p)
  else match s.route p with
    | none => s.post (.packetAgeDrop d p)
    | some (t, port) =>
      if t = d then
        match port with
        | none => s.deliverPkt d p
        | some q =>
          let off := { p with dir := 0, dateline := false, escape := false }
          let next := if q = 6 then off
            else if q < 4 then { off with lHops := p.lHops + 1 }
            else { off with gHops := p.gHops + 1, lHops := 0 }
          s.sendOn d q p next
      else match s.ringWay d t p with
        | none => s.post (.packetAgeDrop d p)
        | some w =>
          let forced := (p.ring = 1 || p.ring = 2) && p.ring.toNat ≠ w && p.dir.toNat ≠ w
          let s := if forced then s.cstatUp d 0 4 else s
          let crosses := (w = 1 && d = 7) || (w = 2 && d = 0)
          s.sendOn d (if w = 1 then 0 else 1) { p with dir := BitVec.ofNat 2 w }
            { p with dir := BitVec.ofNat 2 w, dateline := p.dateline || crosses }

/-! ### Loss (14 R298) -/

/-- The reply slot of a tile that a packet belongs to. -/
def State.slotOf (s : State) (d : Nat) (p : Packet) : Option Reply :=
  match NMap.find (s.tile ⟨d, p.tile⟩).replies p.slot with
  | some r => if r.serial = p.serial then some r else none
  | none => none

/-- A request or reply of an atomic outside a release group lost: its slot, its region's join or its queue's waiter ends with remote fault
0x03. -/
def State.atomLost (s : State) (p : Packet) (req : BitVec 13) (other : Nat) : State :=
  let d := req.toNat % 8
  if req.toNat / 8 ≠ s.pkg || p.rel then s
  else if p.tile ≥ 1024 then s.post (.replyDelivery { p with
    typ := 0x03, to_ := req, from_ := BitVec.ofNat 13 other, op := .remoteFault 0x03, viaLink := none, held := none })
  else match s.slotOf d p with
    | some r => match r.kind with
      | .atomic | .barrier | .barwait _ => s.replyFault ⟨d, p.tile⟩ p.slot 0x03 p.addr.toNat other false
      | _ => s
    | none => s

/-- A packet dropped. -/
def State.dropPkt (s : State) (d : Nat) (p : Packet) : State :=
  let s := (s.leaveSlot p).cstatUp d 40 12
  match p.typ.toNat with
  | 0x02 => if p.fromHost then s else s.atomLost p p.from_ p.to_.toNat
  | 0x03 => if p.toHost then s else s.atomLost p p.to_ p.from_.toNat
  | 0x04 | 0x0B =>
    if p.fromHost then s
    else
      let s := if p.typ = 0x04 then s.strike p.serial p.part true true else s
      s.remoteFault p.ctx.toNat d 0x04 p.addr.toNat p.to_.toNat p.rc.toNat p.epoch.toNat
  | _ => s

/-- The requests of a tile's slot, or of a streamer's read, that are still out: sent again up to three times, then remote
fault 0x02. -/
def State.resend (s : State) (t : TileId) (slot : Nat) : State :=
  let d := t.die
  if t.tile ≥ 1024 then
    let k := t.tile - 1024
    match (NMap.getD (s.die d).streams k []).head? with
    | none => s
    | some c =>
      match c.busy, c.piece? with
      | true, some (a, _, n) =>
        let p := c.readPkt s d k a n
        if c.tries < 3 then
          ((s.setCopy d k (some { c with tries := c.tries + 1, since := s.cycles })).post (.requestTimeoutResend t slot)).emitPkt d p
        else s.streamReply d k { s.replyPkt d p (.remoteFault 0x02) 0 with from_ := p.to_ }
      | _, _ => s
  else match NMap.find (s.tile t).replies slot with
    | none => s
    | some r =>
      let out := r.pkts.filter (fun p => r.left.contains p.part && p.typ = 0x01)
      match out with
      | [] => s
      | p :: _ =>
        if r.tries < 3 then
          let s := s.modTile t (fun x => { x with
            replies := NMap.put x.replies slot { r with tries := r.tries + 1, since := s.cycles } })
          out.foldl (fun s q => s.emitPkt d q) (s.post (.requestTimeoutResend t slot))
        else s.replyFault t slot 0x02 p.addr.toNat p.to_.toNat false

/-! ### Incarnations (14 R305) -/

/-- The requests to a die that the reply slots of a saved context's tiles on another die wait for: for each, a reply that brings its
remote fault, for the mailbox (18 R381). -/
def Save.lostReplies (v : Save) (s : State) (d source : Nat) : List Packet :=
  (v.snap.tiles.filter (fun q => q.1 / 1024 = d)).flatMap (fun q => q.2.replies.flatMap (fun r =>
    (r.2.pkts.filter (fun p => p.to_.toNat = source && r.2.left.contains p.part)).map (fun p =>
      { s.replyPkt d p (.remoteFault 0x01) 0 with from_ := p.to_ })))

/-- A die learns of a new incarnation of another: requests to it end, groups toward it are aborted, groups from it are freed. An entry that
is aborted already sends no second abort (14 R303). -/
def State.notice (s : State) (d source : Nat) (inc : BitVec 8) : State :=
  if NMap.getD (s.die d).incs source 0 = inc then s
  else
    let s := s.modDie d (fun x => { x with incs := NMap.put x.incs source inc })
    let slots := (s.tiles.filter (fun q => q.1 / 1024 = d)).flatMap (fun q =>
      (q.2.replies.filter (fun r => r.2.pkts.any (fun p => p.to_.toNat = source && r.2.left.contains p.part))).map (fun r =>
        (TileId.mk d (q.1 % 1024), r.1, ((r.2.pkts.find? (fun p => p.to_.toNat = source)).map (fun p => p.addr.toNat)).getD 0)))
    let s := slots.foldl (fun s q => s.replyFault q.1 q.2.1 0x01 q.2.2 source false) s
    let reads := (s.die d).streams.filterMap (fun q => match q.2.head? with
      | some c => match c.busy, c.piece? with
        | true, some (a, _, n) => if vaOwner a = source then some (q.1, c.readPkt s d q.1 a n) else none
        | _, _ => none
      | none => none)
    let s := reads.foldl (fun s q => s.streamReply d q.1 { s.replyPkt d q.2 (.remoteFault 0x01) 0 with from_ := q.2.to_ }) s
    let s := (s.saves.flatMap (fun v => v.2.lostReplies s d source)).foldl (fun s p => s.post (.replyDelivery p)) s
    let live := (s.die d).sends.filter (fun e => e.dst = source && e.st ≠ .done)
    let s := live.foldl (fun s e =>
      let s := if e.st = .aborted then s else s.abortSend d e
      (s.remoteFault e.ctx d 0x09 0 source e.rc e.epoch).relWake d e.ctx e.rc) s
    let gone := (s.die d).recvs.filter (fun r => r.1.other.toNat = source && r.1.inc ≠ inc)
    gone.foldl (fun s r => (s.modDie d (fun x => { x with recvs := delK x.recvs r.1 })).remoteFault
      r.1.ctx.toNat d 0x09 0 source r.1.rc.toNat r.1.epoch.toNat) s

/-! ### The steps -/

def execPacketHop (s : State) : Host.Outcome State Fault Refusal :=
  match s.ev with
  | .packetHop d p => .next (s.hop d p)
  | _ => .next s
def execCreditReturn (s : State) : Host.Outcome State Fault Refusal :=
  match s.ev with
  | .creditReturn l k => .next (s.modLink (l / 8) (l % 8) (fun x => x.give k))
  | _ => .next s
def execPacketAgeDrop (s : State) : Host.Outcome State Fault Refusal :=
  match s.ev with
  | .packetAgeDrop d p => .next (s.dropPkt d p)
  | _ => .next s
def execRequestTimeoutResend (s : State) : Host.Outcome State Fault Refusal :=
  match s.ev with
  | .requestTimeoutResend t slot => .next (s.resend t slot)
  | _ => .next s
/-- A CRC replay that has failed 8 times, or a peer that asks to retrain (14 R299). -/
def execLinkRetrainRequest (s : State) : Host.Outcome State Fault Refusal :=
  match s.ev with
  | .linkRetrainRequest d port =>
    .next (if (s.link d port).st = .up then (s.modLink d port (fun l => l.resent (Config.crcResends s.ticks))).retrain d port else s)
  | _ => .next s
def execTrainingComplete (s : State) : Host.Outcome State Fault Refusal :=
  match s.ev with
  | .trainingComplete d port => .next (s.trained d port)
  | _ => .next s
def execConfirmViews (s : State) : Host.Outcome State Fault Refusal :=
  match s.ev with
  | .confirmViews d port own peer => .next (s.confirm d port own peer)
  | _ => .next s
def execRetrainTimeout (s : State) : Host.Outcome State Fault Refusal :=
  match s.ev with
  | .retrainTimeout d port => .next (if (s.link d port).st = .retrain then s.linkFailed d port else s)
  | _ => .next s
def execIncarnationNotice (s : State) : Host.Outcome State Fault Refusal :=
  match s.ev with
  | .incarnationNotice d source inc => .next (s.notice d source inc)
  | _ => .next s

end Sys2Proof.Machine
end

