-- ==== Sys2Proof/Machine/Control.lean ====
section
/-! DEFINITION. The meanings of the control classes STEER, MERGE, GATE, TAGOP (04 R88 to R93), EXIT and STATE (05 R107, R108). -/

namespace Sys2Proof.Machine

/-- Operand A, and operand B, as untyped bytes. -/
def opA (s : State) (j : Job) : Bytes := operandIn s j .none false
def opB (s : State) (j : Job) : Bytes := operandIn s j .none true

/-- The `inv` bit of a control literal (04 R88). -/
def invOf (f : Fields) : Bool := f.litBits 0 1 = 1

/-! ### STEER -/

/-- A firing that sends operand A one of two ways (04 R89): dstA when the test holds. -/
def fireSteer (k : Job → State → Bool) (f : Fields) (s : State) : State :=
  let way := fun (j : Job) (s : State) => if k j s then f.dstA.toNat else f.dstB.toNat
  s.fire f none (dests f) (([way ⟨s.cur, f⟩ s].filter isSreg).map (· - 0x50)) (fun j s =>
    (s.consume j.fi).emitRes j false [way j s] j.fi.stTag j.fi.stTag.kind (some (opA s j)))

def execSteerSteer (f : Fields) (s : State) : Host.Outcome State Fault Refusal :=
  .next (fireSteer (fun j s => condBit (opB s j) ^^ invOf f) f s)
def execSteerRoute (f : Fields) (s : State) : Host.Outcome State Fault Refusal :=
  .next (fireSteer (fun j _ => j.fi.stTag.pred ^^ invOf f) f s)
def execSteerSel (f : Fields) (s : State) : Host.Outcome State Fault Refusal :=
  .next (s.fire f none (dests f) (sregDests f) (fun j s =>
    (s.consume j.fi).emit2 j j.fi.stTag.kind (if j.fi.stTag.pred ^^ invOf f then opA s j else opB s j)))

/-! ### MERGE -/

/-- The payload of the one token of a MERGE set (04 R90). -/
def mergePayload (fi : Firing) : Bytes := if fi.tokA.isSome then fi.payload false else fi.payload true

def execMergeMerge (f : Fields) (s : State) : Host.Outcome State Fault Refusal :=
  .next (s.fire f none (dests f) (sregDests f) (fun j s => (s.consume j.fi).emit2 j j.fi.stTag.kind (mergePayload j.fi)))
/-- pred says on which side the token came, unless the tag action sets it (04 R90). -/
def execMergeMergeo (f : Fields) (s : State) : Host.Outcome State Fault Refusal :=
  .next (s.fire f none (dests f) (sregDests f) (fun j s =>
    let g := j.fi.stTag
    (s.consume j.fi).emitRes j false (dests f) { g with pred := j.fi.tokA.isSome } g.kind (some (mergePayload j.fi))))

/-! ### GATE -/

def execGateGate (f : Fields) (s : State) : Host.Outcome State Fault Refusal :=
  .next (s.fire f none (dests f) (sregDests f) (fun j s => (s.consume j.fi).emit2 j j.fi.stTag.kind (opA s j)))
def execGateNullify (f : Fields) (s : State) : Host.Outcome State Fault Refusal :=
  let gone := fun (j : Job) (s : State) => condBit (opB s j) ^^ invOf f
  .next (s.fire f none (dests f) (if gone ⟨s.cur, f⟩ s then [] else sregDests f) (fun j s =>
    (s.consume j.fi).emitRes j false (dests f) j.fi.stTag j.fi.stTag.kind (if gone j s then none else some (opA s j))))
/-- The four destinations of DUP (04 R92). -/
def dupDests (f : Fields) : List Nat := dests f ++ [f.litBits 0 7, f.litBits 8 7]
def execGateDup (f : Fields) (s : State) : Host.Outcome State Fault Refusal :=
  .next (s.fire f none (dupDests f) (((dupDests f).filter isSreg).map (· - 0x50)) (fun j s =>
    (s.consume j.fi).emitRes j false (dupDests f) j.fi.stTag j.fi.stTag.kind (some (opA s j))))

/-! ### TAGOP -/

/-- A firing that emits a field of the station tag as a value (04 R89). -/
def fireGet (g : Tag → Bytes) (f : Fields) (s : State) : State := s.fireValue f (fun j _ => g j.fi.stTag)
/-- A firing that emits operand A under a changed tag (04 R89). -/
def fireSet (g : Bytes → Tag → Tag) (f : Fields) (s : State) : State :=
  s.fire f none (dests f) (sregDests f) (fun j s =>
    (s.consume j.fi).emitRes j false (dests f) (g (opB s j) j.fi.stTag) j.fi.stTag.kind (some (opA s j)))

def execTagopGetit (f : Fields) (s : State) : Host.Outcome State Fault Refusal :=
  .next (fireGet (fun g => leBytes 4 g.iter.toNat) f s)
def execTagopGetfr (f : Fields) (s : State) : Host.Outcome State Fault Refusal :=
  .next (fireGet (fun g => leBytes 8 g.frame.toNat) f s)
def execTagopGetph (f : Fields) (s : State) : Host.Outcome State Fault Refusal :=
  .next (fireGet (fun g => leBytes 4 g.phase.toNat) f s)
def execTagopSetit (f : Fields) (s : State) : Host.Outcome State Fault Refusal :=
  .next (fireSet (fun b g => { g with iter := BitVec.ofNat 16 (numAt b 0 2 + f.litBits 0 16) }) f s)
def execTagopSetph (f : Fields) (s : State) : Host.Outcome State Fault Refusal :=
  .next (fireSet (fun b g => { g with phase := BitVec.ofNat 8 (numAt b 0 1 + f.litBits 0 8) }) f s)

/-! ### EXIT (05 R107) -/

/-- The exit that an EXIT firing takes: the base exit and the index, limited by the span; the index is 0 when B is null or absent. -/
def exitOf (s : State) (j : Job) : Nat :=
  let nullB := (j.fi.tagB.map (·.null)).getD false
  let i := if nullB then 0 else bitsN (byteAt (opB s j) 0).toNat 0 3
  j.f.dstA.toNat - 0x40 + min i (j.f.litBits 0 3)

/-- An EXIT firing: `keep` says whether the held effects are committed or discarded. A null-pass emits a null token by the chosen exit
and treats the held effects alike. -/
def fireExit (keep : Bool) (f : Fields) (s : State) : State :=
  s.fireWith f [] (fun j s => (s.consume j.fi).emitExit j keep (exitOf s j) j.fi.stTag none)
    (fun j s => (s.consume j.fi).emitExit j keep (exitOf s j) j.fi.stTag (some (opA s j)))

def execExitExit (f : Fields) (s : State) : Host.Outcome State Fault Refusal := .next (fireExit true f s)
def execExitAbort (f : Fields) (s : State) : Host.Outcome State Fault Refusal := .next (fireExit false f s)

/-! ### STATE (05 R108) -/

/-- The register, the offset and the length of a STATE literal. -/
def stReg (f : Fields) : Nat := f.litBits 0 3
def stOff (f : Fields) : Nat := f.litBits 3 7
def stLen (f : Fields) : Nat := f.litBits 10 8

/-- The bytes that a STATE station names. -/
def stateBytes (s : State) (j : Job) : Bytes := sliceB ((s.tile j.fi.at_).sreg (stReg j.f)) (stOff j.f) (stLen j.f)

/-- An element-wise sum of two runs of elements in the type of an SACC station (05 R108). -/
def saccBytes (ty : Nat) (cur a : Bytes) : Bytes :=
  let n := if ty = 1 then 8 else 4
  packElems n ((List.range (cur.length / n)).map (fun i =>
    let x := numAt cur (n * i) n
    let y := numAt a (n * i) n
    if ty = 2 then addF32 x y else (x + y) % 2 ^ (8 * n)))

/-- A STATE firing that writes the register and emits a value. -/
def fireState (new out : Job → State → Bytes) (f : Fields) (s : State) : State :=
  s.fire f (some .value) (dests f) ((if stLen f = 0 then [] else [stReg f]) ++ sregDests f) (fun j s =>
    let s' := (s.consume j.fi).regLater j (.s (stReg f)) (stOff f) (new j s)
    s'.emit2 j .value (out j s))

def execStateSld (f : Fields) (s : State) : Host.Outcome State Fault Refusal := .next (s.fireValue f (fun j s => stateBytes s j))
def execStateSst (f : Fields) (s : State) : Host.Outcome State Fault Refusal :=
  .next (fireState (fun j s => sliceB (opA s j) 0 (stLen f)) (fun j s => opA s j) f s)
def execStateSacc (f : Fields) (s : State) : Host.Outcome State Fault Refusal :=
  .next (fireState (fun j s => saccBytes (f.litBits 18 3) (stateBytes s j) (opA s j))
    (fun j s => saccBytes (f.litBits 18 3) (stateBytes s j) (opA s j)) f s)
def execStateSclr (f : Fields) (s : State) : Host.Outcome State Fault Refusal :=
  .next (fireState (fun _ _ => zeros (stLen f)) (fun j s => opA s j) f s)

end Sys2Proof.Machine
end

