-- ==== Sys2Proof/Machine/Grammar.lean ====
section
/-! DEFINITION. The grammar engine and the meanings of GRAM (16 R335 to R344). -/

namespace Sys2Proof.Machine

/-! ### Images (16 R335) -/

/-- The fields of a grammar image's header. -/
structure GramHead where
  states : Nat
  syms : Nat
  vocab : Nat
  classes : Nat
  start : Nat
  classMap : Nat
  trans : Nat
  index : Nat
  maskRows : Nat
  nrows : Nat
  deriving DecidableEq, Repr

/-- The header in 64 bytes. -/
def gramHead (h : Bytes) : GramHead :=
  { states := numAt h 4 2, syms := numAt h 6 2, vocab := numAt h 8 4, classes := numAt h 0x0C 2, start := numAt h 0x0E 2,
    classMap := numAt h 0x10 8, trans := numAt h 0x18 8, index := numAt h 0x20 8, maskRows := numAt h 0x28 8, nrows := numAt h 0x30 4 }

/-- The chunks of a mask row. -/
def GramHead.chunks (g : GramHead) : Nat := ceilDiv g.vocab 512

/-- The image of a context's grammar slot on a die; none while the slot is not valid (16 R336). -/
def State.gramImage (s : State) (c d g : Nat) : Option GramHead :=
  let v := NMap.getD (s.cd c d).gslots g 0
  if bitN v.toNat 0 then some (gramHead (s.readVa c (fieldOf v 6 58 * 64) 64)) else none

/-- The addresses of a transition, of a mask-index entry, of a chunk. -/
def GramHead.transAt (g : GramHead) (q k : Nat) : Nat := g.trans + 4 * (q * g.classes + k)
def GramHead.indexAt (g : GramHead) (q top : Nat) : Nat := g.index + 16 * (q * (g.syms + 1) + top)
def GramHead.chunkAt (g : GramHead) (row k : Nat) : Nat := g.maskRows + 64 * (g.chunks * row + k)

/-- A mask-index entry: row, count and lowest allowed token. -/
def State.gramEntry (s : State) (c : Nat) (g : GramHead) (q top : Nat) : Nat × Nat × Nat :=
  let b := s.readVa c (g.indexAt q top) 16
  (numAt b 0 4, numAt b 4 4, numAt b 8 4)

/-! ### Cursors (16 R337) -/

/-- A cursor, but for what the engine computes again. -/
structure Cursor where
  q : Nat
  depth : Nat
  trap : Nat
  slot : Nat
  status : Nat
  stack : Bytes
  deriving DecidableEq, Repr

/-- The cursor in the first 80 bytes of a payload (25 R423). -/
def cursorOf (a : Bytes) : Cursor :=
  { q := bitsN (numAt a 0 2) 0 12, depth := numAt a 2 1, trap := numAt a 3 1, slot := bitsN (numAt a 4 1) 0 4, status := numAt a 5 1,
    stack := sliceB a 0x10 64 }

/-- Whether a field of a cursor's payload that must be zero is not. -/
def cursorZeros (a : Bytes) : Bool := bitsN (numAt a 0 2) 12 4 = 0 && bitsN (numAt a 4 1) 4 4 = 0 && numAt a 6 2 = 0

/-- Whether a cursor keeps its limits in a grammar. -/
def Cursor.good (x : Cursor) (g : GramHead) : Bool :=
  x.q < g.states && x.depth ≤ 64 && 1 ≤ x.trap && x.trap ≤ 64 && x.depth ≤ x.trap
    && (List.range 64).all (fun i => if i < x.depth then (byteAt x.stack i).toNat < g.syms else byteAt x.stack i = 0)

/-- The stack's top, or `Y` when it is empty. -/
def Cursor.top (x : Cursor) (g : GramHead) : Nat := if x.depth = 0 then g.syms else (byteAt x.stack (x.depth - 1)).toNat

/-- The payload of a cursor, its count and first recomputed. -/
def State.cursorBytes (s : State) (c : Nat) (g : GramHead) (x : Cursor) : Bytes :=
  let e := s.gramEntry c g x.q (x.top g)
  leBytes 2 x.q ++ leBytes 1 x.depth ++ leBytes 1 x.trap ++ leBytes 1 x.slot ++ leBytes 1 x.status ++ zeros 2
    ++ leBytes 4 e.2.1 ++ leBytes 4 e.2.2 ++ x.stack

/-! ### Requests (16 R339) -/

/-- What a request comes to: results for dstA and dstB (none: nothing to that destination), with the lines that it read, or a stack
fault with its token. -/
inductive GramOut where
  | emit (a b : Option Bytes) (oov : Bool) (lines : List Nat)
  | fault (code t : Nat)
  deriving DecidableEq, Repr

/-- STEP on a cursor. -/
def State.gramStep (s : State) (c : Nat) (g : GramHead) (x : Cursor) (t : Nat) : GramOut :=
  let out := fun (y : Cursor) (oov : Bool) (ls : List Nat) =>
    let b := s.cursorBytes c g y
    GramOut.emit (some b) (some b) oov (ls ++ [g.indexAt y.q (y.top g)])
  if t ≥ g.vocab then out { x with status := 2 } true []
  else
    let k := numAt (s.readVa c (g.classMap + 2 * t) 2) 0 2
    let at_ := g.transAt x.q k
    let e := numAt (s.readVa c at_ 4) 0 4
    let op := bitsN e 30 2
    let y := bitsN e 22 8
    let q := bitsN e 10 12
    if op = 3 || (op = 2 && (x.depth = 0 || x.top g ≠ y)) then out { x with status := 1 } false [at_]
    else if op = 1 && x.depth = x.trap then .fault 1 t
    else if op = 1 then
      out { x with q := q, status := 0, depth := x.depth + 1, stack := x.stack.set x.depth (BitVec.ofNat 8 y) } false [at_]
    else if op = 2 then out { x with q := q, status := 0, depth := x.depth - 1, stack := x.stack.set (x.depth - 1) 0 } false [at_]
    else out { x with q := q, status := 0 } false [at_]

/-- MASK of a chunk. -/
def State.gramMask (s : State) (c : Nat) (g : GramHead) (x : Cursor) (k : Nat) (fpath : Bool) : GramOut :=
  let e := s.gramEntry c g x.q (x.top g)
  let ls := [g.indexAt x.q (x.top g)]
  if fpath && e.2.1 = 1 then .emit none (some (leBytes 4 e.2.2 ++ leBytes 4 1)) false ls
  else
    let a := g.chunkAt e.1 k
    let ch := if k ≥ g.chunks then zeros 64 else s.readVa c a 64
    .emit (some ch) (if fpath then none else some ch) false (if k ≥ g.chunks then ls else ls ++ [a])

/-- GSET on a cursor. -/
def State.gramSet (s : State) (c : Nat) (g : GramHead) (x : Cursor) (b : Bytes) : GramOut :=
  let f := (byteAt b 3).toNat
  let q := numAt b 0 2
  let t := (byteAt b 2).toNat
  if bitN f 0 && q ≥ g.states then .fault 2 0
  else if bitN f 1 && (t = 0 || t > 64 || t < x.depth) then .fault 2 0
  else
    let y := { x with q := if bitN f 0 then q else x.q, trap := if bitN f 1 then t else x.trap, status := 0 }
    let o := s.cursorBytes c g y
    .emit (some o) (some o) false [g.indexAt y.q (y.top g)]

/-- A request performed: `minor` 0 step, 1 mask, 2 gstate, 3 gset, 4 greset. -/
def State.gramDo (s : State) (c d minor : Nat) (sentValid : Bool) (a b : Bytes) (fpath : Bool) : GramOut :=
  if minor = 4 then
    let g0 := (byteAt a 0).toNat
    let t := (byteAt a 1).toNat
    match s.gramImage c d (g0 % 16) with
    | none => .fault 3 0
    | some g =>
      if t > 64 || g0 / 16 ≠ 0 then .fault 2 0
      else
        let y : Cursor := { q := g.start, depth := 0, trap := if t = 0 then 64 else t, slot := g0 % 16, status := 0, stack := zeros 64 }
        let o := s.cursorBytes c g y
        .emit (some o) (some o) false [g.indexAt y.q g.syms]
  else
    let x := cursorOf a
    match s.gramImage c d x.slot with
    | none => .fault (if sentValid then 3 else 2) 0
    | some g =>
      if !cursorZeros a || !x.good g then .fault 2 0
      else match minor with
        | 0 => s.gramStep c g x (numAt b 0 4)
        | 1 => s.gramMask c g x (numAt b 0 2) fpath
        | 2 =>
          let e := s.gramEntry c g x.q (x.top g)
          let o := leBytes 4 x.q ++ leBytes 4 x.depth ++ leBytes 4 e.2.1 ++ leBytes 4 e.2.2
          .emit (some o) (some o) false [g.indexAt x.q (x.top g)]
        | _ => s.gramSet c g x b

/-! ### The engine (16 R342) -/

def State.modGram (s : State) (d : Nat) (g : Gram → Gram) : State := s.modDie d (fun x => { x with gram := g x.gram })

/-- GRAM_STAT with the requests that wait (16 R343). -/
def State.gramStat (s : State) (d : Nat) : BitVec 64 :=
  withField (s.die d).gram.stat 16 8 (min 255 (s.die d).gram.queue.length)

/-- The slot that a request names. -/
def gramSlot (minor : Nat) (a : Bytes) : Nat := if minor = 4 then (byteAt a 0).toNat % 16 else (cursorOf a).slot

/-- The lines of a request looked up in the mask cache: misses are counted and their lines enter, the oldest of 4096 leaving (log
entry 13). -/
def State.gramTouch (s : State) (d c slot : Nat) (lines : List Nat) : State :=
  (lines.map (· / 64)).foldl (fun s l =>
    let k := (c, slot, l)
    if (s.die d).gram.cache.contains k then s
    else s.modGram d (fun x =>
      let q := x.cache ++ [k]
      { x with cache := q.drop (q.length - 4096), stat := withField x.stat 32 16 (min 0xFFFF (fieldOf x.stat 32 16 + 1)) })) s

/-- The detail of a stack fault (16 R340, 18 R369). -/
def gramDetail (minor : Nat) (a : Bytes) (t : Nat) : Bytes :=
  let x := cursorOf a
  let (q, depth) := if minor = 4 then (0, 0) else (x.q, x.depth)
  leBytes 1 (gramSlot minor a) ++ [0] ++ leBytes 2 q ++ leBytes 1 depth ++ zeros 3 ++ leBytes 4 t

/-- The first waiting request taken and performed; its result returns to the issuing tile. -/
def State.gramTake (s : State) (d : Nat) : State :=
  match (s.die d).gram.queue with
  | [] => s
  | r :: rest =>
    let j := r.job
    let s := s.modGram d (fun x => { x with queue := rest })
    let s := if rest.isEmpty then s else s.due (.gramRequestPerform d)
    let c := s.regionCtx j.fi.region
    let minor := r.minor
    let a := r.a
    match s.gramDo c d minor r.valid a r.b (j.f.litBits 0 1 = 1) with
    | .fault code t =>
      (s.modGram d (fun x => { x with stat := withBit x.stat (if code = 1 then 1 else 2) })).jobFault j 6 code (gramDetail minor a t)
    | .emit ra rb oov lines =>
      let s := if oov then s.modGram d (fun x => { x with stat := withBit x.stat 0 }) else s
      let s := (s.gramTouch d c (gramSlot minor a) lines).consume j.fi
      let g := j.fi.stTag
      s.settle j (if ra = rb then s.emitRes j false (dests j.f) g .value ra
        else match ra, rb with
          | some x, _ => s.emitRes j false [j.f.dstA.toNat] g .value (some x)
          | none, some x => s.emitRes j false [j.f.dstB.toNat] g .value (some x)
          | none, none => s)

/-- A GRAM firing: the request goes to the die's engine with its set. -/
def fireGram (minor : Nat) (f : Fields) (s : State) : State :=
  s.fire f (some .value) (dests f) (sregDests f) (fun j s =>
    let d := j.fi.die
    let a := operandIn s j .none false
    let ok := (s.gramImage (s.regionCtx j.fi.region) d (gramSlot minor a)).isSome
    let r : GramReq := ⟨j, minor, ok, a, operandIn s j .none true⟩
    (s.modGram d (fun x => { x with queue := x.queue ++ [r] })).due (.gramRequestPerform d))

def execGramStep (f : Fields) (s : State) : Host.Outcome State Fault Refusal := .next (fireGram 0 f s)
def execGramMask (f : Fields) (s : State) : Host.Outcome State Fault Refusal := .next (fireGram 1 f s)
def execGramGstate (f : Fields) (s : State) : Host.Outcome State Fault Refusal := .next (fireGram 2 f s)
def execGramGset (f : Fields) (s : State) : Host.Outcome State Fault Refusal := .next (fireGram 3 f s)
def execGramGreset (f : Fields) (s : State) : Host.Outcome State Fault Refusal := .next (fireGram 4 f s)

def execGramRequestPerform (s : State) : Host.Outcome State Fault Refusal :=
  match s.ev with
  | .gramRequestPerform d => .next (s.gramTake d)
  | _ => .next s

end Sys2Proof.Machine
end

