-- ==== Sys2Proof/Machine/Store.lean ====
section
/-! DEFINITION. The exact matching store (04 R77 to R79), the spill region (04 R81 to R86), the admission of tokens to block passes
(05 R103) and the delivery of complete sets. -/

namespace Sys2Proof.Machine

/-! ### Match keys (04 R77, R82) -/

/-- Whether a token and an entry have equal match keys. -/
def sameKey (g h : Tag) (p q : Place) : Bool :=
  g.ctx = h.ctx && g.frame = h.frame && g.iter = h.iter && p.block = q.block && p.station = q.station

/-- The 16-byte key K of 04 R82. -/
def keyBytes (a : Arrival) : Bytes :=
  leBytes 8 a.tok.tag.frame.toNat ++ leBytes 2 a.tok.tag.iter.toNat ++ leBytes 2 a.place.block
    ++ leBytes 1 a.place.station ++ [0] ++ leBytes 2 a.tok.tag.ctx.toNat

/-! ### Stations of a block -/

/-- The slot that holds a block, resident. -/
def Tile.slotOf (x : Tile) (block : Nat) : Option Nat :=
  (List.range 8).find? (fun i => match x.slots[i]? with
    | some sl => sl.st = .resident && sl.block = block
    | none => false)

/-- The word and the side entry of a station of a slot. -/
def Tile.station (x : Tile) (slot n : Nat) : BitVec 32 × BitVec 64 :=
  let sl := x.slots.getD slot {}
  (sl.words.getD n 0, sl.sides.getD n 0)

/-- The word and side entry of a station of a block: from the slot where it is resident, else from the image. -/
def State.stationOf (s : State) (t : TileId) (block n : Nat) : BitVec 32 × BitVec 64 :=
  let x := s.tile t
  match x.slotOf block with
  | some i => x.station i n
  | none =>
    match s.regionOf t with
    | none => (0, 0)
    | some r =>
      let base := blockAddr r.launch block
      (BitVec.ofNat 32 (leNat (s.readVa r.launch.ctx (base + 4 * n) 4)),
       BitVec.ofNat 64 (leNat (s.readVa r.launch.ctx (base + 128 + 8 * n) 8)))

/-- A station's major and minor opcode. -/
def majorOf (w : BitVec 32) : Nat := fieldOf w 26 6
def minorOf (e : BitVec 64) : Nat := fieldOf e 56 8

/-- MERGE stations fire on single tokens (04 R90); JOINALL counts its side B (06 R138). -/
def isMerge (w : BitVec 32) : Bool := majorOf w = 0x0B
def isJoinall (w : BitVec 32) (e : BitVec 64) : Bool := majorOf w = 0x0F && minorOf e = 1

/-! ### Delivery -/

/-- The set of an entry's tokens at a resident slot. -/
def mkSet (s : State) (t : TileId) (slot : Nat) (p : Place) (inst : Nat) (a b : Option Token) (joined : List (BitVec 8)) : Firing :=
  let x := s.tile t
  { die := t.die, tile := t.tile, slot := slot, station := p.station, block := p.block, region := x.region, inst := inst,
    tokA := a, tokB := b, desc := (x.slots.getD slot {}).desc, joined := joined, since := s.cycles }

/-- The order in which tokens that wait for a reservation are admitted: frame, then iteration (05 R103). -/
def admitKey (g : Tag) : Nat := g.frame.toNat * 2 ^ 16 + g.iter.toNat

/-- Whether a token with a lower frame and iteration waits in the store for a reservation: no other opens an instance before it
(05 R103, log entry 47). -/
def Tile.lowerWaits (x : Tile) (g : Tag) : Bool :=
  x.entries.any (fun e => e.inst = 0 && e.outside && !e.trap && (x.slotOf e.place.block).isSome
    && (x.passOf e.tok.tag.frame e.place.block).isNone && admitKey e.tok.tag < admitKey g)

/-- The pass that a token belongs to, opened when it may open one (05 R103, 18 R373): none where it must wait. -/
def State.takeIn (s : State) (t : TileId) (slot : Nat) (outside trap : Bool) (inst : Nat) (p : Place) (tok : Token) :
    Option (Nat × State) :=
  let x := s.tile t
  let q := dQuota (x.slots.getD slot {}).desc
  if inst ≠ 0 && (x.pass? inst).isSome then some (inst, s)
  else if trap then
    if x.passes.any (·.handler) then none
    else
      let (id, s) := s.fresh
      some (id, s.modTile t (fun y => { y with passes := y.passes ++ [{ id := id, frame := tok.tag.frame, block := p.block, quota := q, handler := true }] }))
  else if !outside then none
  else match x.passOf tok.tag.frame p.block with
    | some ps => some (ps.id, s)
    | none =>
      if x.reserved + q > 256 || x.lowerWaits tok.tag then none
      else
        let (id, s) := s.fresh
        some (id, s.modTile t (fun y => { y with passes := y.passes ++ [{ id := id, frame := tok.tag.frame, block := p.block, quota := q, handler := false }] }))

/-- The partner's entry of an admitted token: the oldest on the other side with an equal key (04 R77, R79). -/
def Tile.partner (x : Tile) (p : Place) (g : Tag) : Option Entry :=
  x.entries.find? (fun e => e.inst ≠ 0 && e.place.sideB ≠ p.sideB && sameKey e.tok.tag g e.place p)

/-- An entry taken out of the store; a place is free for a spilled token (04 R85). -/
def State.freeEntry (s : State) (t : TileId) (e : Entry) : State :=
  let s := s.modTile t (fun x => { x with entries := removeFirst (fun q => q = e) x.entries })
  if (s.tile t).spilled.isEmpty then s else s.due (.spillRefill t)

/-- The DUP and HIGH bits of MSTORE_STAT (04 R79, R80). -/
def State.noteStore (s : State) (t : TileId) (dup : Bool) : State :=
  let s := if dup then (s.modTile t (fun x => { x with mstat := withBit x.mstat 0 })).setStatus (s.ctxOf t) t.die 0 else s
  if (s.tile t).entries.length ≥ 496 then s.modTile t (fun x => { x with mstat := withBit x.mstat 1 }) else s

/-! ### Spilling (04 R81 to R86) -/

/-- The buckets of a probe sequence (04 R82). -/
def probeSeq (a : Arrival) (buckets : Nat) : List Nat :=
  let home := crc32c (keyBytes a) % buckets
  (List.range 8).map (fun i => (home + i) % buckets)

/-- The three places of a key in the presence filter (04 R84; which hashes they are changes no outcome, log entry 12). -/
def filterBits (a : Arrival) : List Nat :=
  let h := crc32c (keyBytes a)
  [h % 4096, h / 4096 % 4096, (h / 64 + h / 2 ^ 20) % 4096]

/-- The first free slot along a probe sequence: bucket and slot, by the occupancy bytes in memory. The model neither clears those bytes
when a launch begins nor when its region ends: a set bit is a taken slot (log entry 50). -/
def State.freeSpillSlot (s : State) (c base : Nat) (probes : List Nat) : Option (Nat × Nat) :=
  (probes.flatMap (fun b => (List.range 5).map (fun k => (b, k)))).find? (fun p =>
    !bitN (s.readByte c (base + 1024 * p.1)).toNat p.2)

/-- A token of the spill buffer written to its slice, or latched with the spill-full fault (04 R83, R86). A token that finds no slot takes
no spill sequence number (log entry 48). -/
def State.spillWrite (s : State) (a : Arrival) : State :=
  let t := a.at_
  match s.regionOf t with
  | none => s
  | some r =>
    let c := r.launch.ctx
    let x := s.tile t
    let (base, n) := sliceBase r x.position
    match s.freeSpillSlot c base (probeSeq a n) with
    | some (b, k) =>
      let slot := b * 5 + k
      let s := (s.spillCopy c (base + 1024 * b)).writeVa c (slotAddr base slot) (tokenRecord a x.spillSeq)
      let occ := s.readByte c (base + 1024 * b)
      let s := s.writeByte c (base + 1024 * b) (occ ||| BitVec.ofNat 8 (2 ^ k))
      s.modTile t (fun y => { y with
        spillSeq := y.spillSeq + 1,
        spilled := y.spilled ++ [⟨y.spillSeq, slot, a.inst, a.outside, a.trap, a.src, a.tok.tag.deps, a.tok.tag.seen⟩],
        filter := (y.filter ++ filterBits a).eraseDups })
    | none =>
      let s := s.modTile t (fun y => { y with latch := some { a with spilling := false } })
      s.raiseFault { index := 3, sync := false, ctx := c, die := t.die, tile := some t.tile, region := x.region,
                     detail := leBytes 4 (crc32c (keyBytes a) % n), operand := recordHeader a 0 }

/-- Whether a slot along a token's probe sequence is free. -/
def State.canSpill (s : State) (a : Arrival) : Bool :=
  match s.regionOf a.at_ with
  | none => false
  | some r =>
    let (base, n) := sliceBase r (s.tile a.at_).position
    (s.freeSpillSlot r.launch.ctx base (probeSeq a n)).isSome

/-- A token put into the spill buffer: `out` says that it is on its way to memory, else it waits for a probe (04 R78, R84). -/
def State.buffer (s : State) (a : Arrival) (out : Bool) : State :=
  (s.modTile a.at_ (fun x => { x with spillBuf := x.spillBuf ++ [{ a with spilling := out }] })).due (.spillProbeDone a.at_)

/-- The token of a tile's spilled entry, as its record in memory holds it. -/
def State.spilledTok (s : State) (t : TileId) (p : Spilled) : Arrival :=
  match s.regionOf t with
  | none => { at_ := t, place := ⟨0, 0, false⟩, tok := {}, src := 0, outside := true }
  | some r =>
    let r := recordToken t.die (s.readVa r.launch.ctx (slotAddr (sliceBase r (s.tile t).position).1 p.slot) 160)
    { r with
      at_ := t, inst := p.inst, outside := p.outside, trap := p.trap, src := p.src,
      tok := { r.tok with tag := { r.tok.tag with deps := p.deps, seen := p.seen } } }

/-- The record of a spilled token, and its slot freed; the filter is cleared when none is left (04 R82 to R84). -/
def State.takeSpilled (s : State) (t : TileId) (p : Spilled) : Arrival × State :=
  match s.regionOf t with
  | none => (s.spilledTok t p, s)
  | some r =>
    let c := r.launch.ctx
    let ob := (sliceBase r (s.tile t).position).1 + 1024 * (p.slot / 5)
    let a := s.spilledTok t p
    let s := (s.spillCopy c ob).writeByte c ob (s.readByte c ob &&& BitVec.ofNat 8 (255 - 2 ^ (p.slot % 5)))
    let s := s.modTile t (fun x =>
      let l := x.spilled.filter (fun q => q ≠ p)
      { x with spilled := l, filter := if l.isEmpty then [] else x.filter })
    (a, s)

/-- Whether a token waits on the side and with the key of another: in an entry, in the spill buffer or in the slice (04 R79). -/
def State.sameSideWaits (s : State) (a : Arrival) : Bool :=
  let t := a.at_
  let x := s.tile t
  let same := fun (g : Tag) (p : Place) => p.sideB = a.place.sideB && sameKey g a.tok.tag p a.place
  x.entries.any (fun e => same e.tok.tag e.place) || x.spillBuf.any (fun b => same b.tok.tag b.place)
    || x.spilled.any (fun p => let b := s.spilledTok t p; same b.tok.tag b.place)

/-- A token that occupies an entry, or goes to the spill buffer on its way to memory when all 512 are in use (04 R77 step 3, R83).
`countDup` says that a token already waiting on its side makes it a queued arrival (04 R79): a partner that waits beside it for a block
that is not resident does not change that (log entry 49). -/
def State.occupy (s : State) (a : Arrival) (inst : Nat) (countDup : Bool) : State :=
  let t := a.at_
  let dup := countDup && s.sameSideWaits a
  let s :=
    if (s.tile t).entries.length ≥ 512 then s.buffer { a with inst := inst } true
    else s.modTile t (fun x => { x with entries := x.entries ++ [⟨a.place, a.tok, a.outside, a.trap, inst, [], a.src⟩] })
  s.noteStore t dup

/-! ### Placement (04 R77) -/

/-- The joins that a side A token of a JOINALL station waits for; a null token waits for none (04 R75, 06 R138). -/
def joinNeed (tok : Token) : Nat := if tok.tag.null then 0 else numAt tok.payload 8 4

/-- The admitted entry on a side of a station with a key, the oldest. -/
def Tile.admitted (x : Tile) (p : Place) (g : Tag) (sideB : Bool) : Option Entry :=
  x.entries.find? (fun e => e.inst ≠ 0 && e.place.sideB = sideB && sameKey e.tok.tag g e.place p)

/-- An entry's token and phases after `n` of its counted tokens have gone; none when none is left. -/
def Entry.less (e : Entry) (n : Nat) : Option Entry :=
  match e.phases.drop n with
  | [] => none
  | ph :: rest => some { e with tok := { e.tok with tag := { e.tok.tag with phase := ph } }, more := rest }

/-- An entry changed, or taken out of the store. -/
def State.putEntry (s : State) (t : TileId) (e : Entry) (new : Option Entry) : State :=
  match new with
  | some q => s.modTile t (fun x => { x with entries := x.entries.map (fun y => if y = e then q else y) })
  | none => s.freeEntry t e

/-- The set of a JOINALL station delivered: side A's token and `n` of the tokens that an entry counts on side B (06 R138). -/
def State.joinSet (s : State) (t : TileId) (slot inst : Nat) (p : Place) (a : Token) (b : Option Entry) (n : Nat) : State :=
  s.deliverSet (mkSet s t slot p inst (some a) (if n = 0 then none else b.map (·.tok)) ((b.map (fun e => e.phases.take n)).getD []))

/-- The side A tokens of a JOINALL station fired in their order, as far as the count on side B reaches (06 R138); at most `fuel`. -/
def State.joinLoop (s : State) (t : TileId) (slot : Nat) (p : Place) (g : Tag) : Nat → State
  | 0 => s
  | fuel + 1 =>
    match (s.tile t).admitted p g false with
    | none => s
    | some a =>
      let b := (s.tile t).admitted p g true
      let n := joinNeed a.tok
      if ((b.map (fun e => e.phases.length)).getD 0) < n then s
      else
        let s := s.freeEntry t a
        let s := match b with
          | some e => if n = 0 then s else s.putEntry t e (e.less n)
          | none => s
        (s.joinSet t slot a.inst p a.tok b n).joinLoop t slot p g fuel

/-- The entry of counted tokens on side B of a JOINALL station that a token joins: of the same key, and of a pass or waiting as it is. -/
def Tile.joinEntry (x : Tile) (a : Arrival) (inst : Nat) : Option Entry :=
  x.entries.find? (fun e => e.place.sideB && sameKey e.tok.tag a.tok.tag e.place a.place && e.outside = a.outside
    && (if inst = 0 then e.inst = 0 else e.inst ≠ 0))

/-- A side B token of a JOINALL station counted in the entry of its key, or put into one of its own; `more` are the phases of the
tokens that it stands for beside itself. -/
def State.countJoin (s : State) (a : Arrival) (inst : Nat) (more : List (BitVec 8)) : State :=
  let t := a.at_
  match (s.tile t).joinEntry a inst with
  | some e =>
    let lv := if e.tok.tag.level < a.tok.tag.level then a.tok.tag.level else e.tok.tag.level
    s.putEntry t e (some { e with
      more := e.more ++ a.tok.tag.phase :: more, tok := { e.tok with tag := { e.tok.tag with level := lv } } })
  | none =>
    let s := s.occupy a inst false
    s.modTile t (fun x => { x with entries := x.entries.map (fun e =>
      if e = ⟨a.place, a.tok, a.outside, a.trap, inst, [], a.src⟩ then { e with more := more } else e) })

/-- A token of a JOINALL station placed (06 R138): a token that completes the count takes no entry; what is left over stays counted. -/
def State.placeJoin (s : State) (a : Arrival) (slot inst : Nat) (more : List (BitVec 8)) : State :=
  let t := a.at_
  let x := s.tile t
  let g := a.tok.tag
  let first := x.admitted a.place g false
  let mine := x.admitted a.place g true
  if a.place.sideB then
    if g.null then (g.phase :: more).foldl (fun s ph => s.countRecv t ph 1) s
    else match first, mine with
      | some ea, none =>
        let e : Entry := ⟨a.place, a.tok, a.outside, a.trap, inst, more, a.src⟩
        let n := joinNeed ea.tok
        if e.phases.length < n then s.countJoin a inst more
        else
          let s := (s.freeEntry t ea).joinSet t slot ea.inst a.place ea.tok (some e) n
          let s := match e.less n with
            | some q => s.countJoin { a with tok := q.tok } inst q.more
            | none => s
          s.joinLoop t slot a.place g x.entries.length
      | _, _ => (s.countJoin a inst more).joinLoop t slot a.place g x.entries.length
  else
    let n := joinNeed a.tok
    if first.isSome || ((mine.map (fun e => e.phases.length)).getD 0) < n then s.occupy a inst true
    else
      let s := match mine with
        | some e => if n = 0 then s else s.putEntry t e (e.less n)
        | none => s
      s.joinSet t slot inst a.place a.tok mine n

/-- A token for a resident block, once it belongs to a pass: delivered alone, paired, or put into an entry. A side that does not select 00
holds no token for a set (02 R24): a token sent there only waits. -/
def State.placeIn (s : State) (a : Arrival) (slot inst : Nat) (more : List (BitVec 8)) : State :=
  let t := a.at_
  let (w, e) := (s.tile t).station slot a.place.station
  if !sideIsToken w e a.place.sideB then s.occupy a inst true
  else if isJoinall w e then s.placeJoin a slot inst more
  else
    let both := sideIsToken w e false && sideIsToken w e true
    let single := fun (s : State) => s.deliverSet (mkSet s t slot a.place inst
      (if a.place.sideB then none else some a.tok) (if a.place.sideB then some a.tok else none) [])
    if isMerge w || !both then single s
    else match (s.tile t).partner a.place a.tok.tag with
      | some p =>
        let s := s.freeEntry t p
        let (ta, tb) := if a.place.sideB then (p.tok, a.tok) else (a.tok, p.tok)
        -- the set belongs to the pass of its side A token
        let i := if a.place.sideB then p.inst else inst
        s.deliverSet (mkSet s t slot a.place i (some ta) (some tb) [])
      | none => s.occupy a inst true

/-- A token that waits in the store, not yet admitted to a pass: a side B token of a JOINALL station is counted (06 R138), any other
occupies an entry. -/
def State.wait (s : State) (a : Arrival) : State :=
  let (w, e) := s.stationOf a.at_ a.place.block a.place.station
  if isJoinall w e && a.place.sideB && !a.tok.tag.null then s.countJoin a 0 [] else s.occupy a 0 true

/-- A token placed as an arrival (04 R77): for a resident block once it is admitted, else in an entry. -/
def State.place (s : State) (a : Arrival) : State :=
  let t := a.at_
  match (s.tile t).slotOf a.place.block with
  | none => (s.wait a).due (.schedulerDecision t)
  | some slot =>
    match s.takeIn t slot a.outside a.trap a.inst a.place a.tok with
    | some (id, s) => s.placeIn a slot id []
    | none => s.wait a

/-- The entries of a resident block that wait for admission: trap tokens in their order, then the others in ascending order of
frame, then iteration, then station (04 R77, 05 R103). -/
def admitOrder (es : List Entry) : List Entry :=
  let key := fun (e : Entry) => (e.tok.tag.frame.toNat * 2 ^ 16 + e.tok.tag.iter.toNat) * 32 + e.place.station
  es.filter (·.trap) ++ sortBy key (es.filter (fun e => !e.trap))

/-- An entry admitted, taken out and placed again in its pass. -/
def State.admitEntry (s : State) (t : TileId) (e : Entry) : State :=
  match (s.tile t).slotOf e.place.block with
  | none => s
  | some slot =>
    match s.takeIn t slot e.outside e.trap e.inst e.place e.tok with
    | none => s
    | some (id, s) =>
      let s := s.freeEntry t e
      s.placeIn { at_ := t, place := e.place, tok := e.tok, src := e.src, outside := e.outside, trap := e.trap, inst := id } slot id e.more

/-- Whether an entry belongs to a pass that has closed: such a token is discarded (05 R105). -/
def Tile.stale (x : Tile) (e : Entry) : Bool := !e.outside && !e.trap && (x.pass? e.inst).isNone

/-- The waiting entries of resident blocks admitted where they can be (05 R103), in order. -/
def State.admitAll (s : State) (t : TileId) : State :=
  let x := s.tile t
  let es := x.entries.filter (fun e => e.inst = 0 && (x.slotOf e.place.block).isSome)
  (admitOrder es).foldl (fun s e => s.admitEntry t e) s

end Sys2Proof.Machine
end

