-- ==== Sys2Proof/Machine/Islands.lean ====
section
/-! DEFINITION. Matrix islands: the meanings of MMA, MACC and MSPARSE (12 R249 to R258) and the steps of an island: a command's entry, the
landing of a row, the release of tokens, and the ramp limiter's window (20 R412). -/

namespace Sys2Proof.Machine

/-! ### Banks and rows -/

/-- The bytes of some elements of a matrix type (03 R48). -/
def elemBytes (t : Ty) (n : Nat) : Nat :=
  match t with
  | .mx4 => n / 2
  | .bf16 => 2 * n
  | _ => n

/-- The code of an element of a packed array. -/
def arrayElem (t : Ty) (bs : Bytes) (i : Nat) : Nat :=
  match t with
  | .mx4 => nibbleAt bs i
  | .bf16 => numAt bs (2 * i) 2
  | _ => (byteAt bs i).toNat

/-- The positions of a row, and its length in bytes (12 R252). -/
def rowPositions (sparse : Bool) : Nat := if sparse then 512 else 256
def rowLen (t : Ty) (sparse : Bool) : Nat :=
  elemBytes t (rowPositions sparse) + (if t.isMx then rowPositions sparse / 32 else 0)

/-- Element `k` of column `c` of a bank, at its logical position (12 R251, R258). -/
def Bank.elem (b : Bank) (c k : Nat) : Nat :=
  if k ≥ b.kb then 0
  else if !b.sparse then arrayElem b.ty b.vals (c * b.kp + k)
  else
    let q := k / 4
    let m := nibbleAt b.metas (c * (b.kp / 4) + q)
    let at_ := fun (i : Nat) => arrayElem b.ty b.vals (c * (b.kp / 2) + 2 * q + i)
    if k % 4 = m % 4 then at_ 0 else if k % 4 = m / 4 then at_ 1 else 0

/-- The scale of a chunk of a column of a bank. -/
def Bank.scale (b : Bank) (c i : Nat) : Nat := (byteAt b.scales (c * (b.kp / 32) + i)).toNat

/-- A value with the two scales of its chunk (12 R253, 03 R66). -/
def scaledSum (t : Ty) (sa sb : Nat) (v : FVal) : FVal :=
  if !t.isMx then v
  else if sa = 0xFF || sb = 0xFF then .nan
  else fscale ((sa : Int) + sb - 254) v

/-- The rounded sum of one chunk of one column (03 R66). -/
def chunkSum (b : Bank) (a : Bytes) (sparse : Bool) (c i : Nat) : Nat :=
  let f := b.ty.fty
  let p := (List.range 32).foldl (fun acc k =>
    faddR false acc (fmul (decodeF f (arrayElem b.ty a (32 * i + k))) (decodeF f (b.elem c (32 * i + k))))) (fzero false)
  let p := if p.isZero then fzero false else p
  let sa := (byteAt a (elemBytes b.ty (rowPositions sparse) + i)).toNat
  roundF .f32 .rne false (scaledSum b.ty sa (b.scale c i) p)

/-- The chunk sums of every column of an island for a row (12 R253). -/
def rowTerms (b : Bank) (a : Bytes) (sparse : Bool) : List (List Nat) :=
  (List.range 256).map (fun c => (List.range (b.kp / 32)).map (fun i => chunkSum b a sparse c i))

/-- An accumulator row of an island, and its count. -/
def Island.row (x : Island) (r : Nat) : List Nat := NMap.getD x.acc r (List.replicate 256 0)
def Island.cnt (x : Island) (r : Nat) : Nat := NMap.getD x.count r 0

/-- A row's update added: every chunk in ascending order, the count raised (12 R253). -/
def Island.land (x : Island) (u : RowUpd) : Island :=
  { x with
    acc := if u.terms.isEmpty then x.acc
      else NMap.put x.acc u.row (((x.row u.row).zip u.terms).map (fun p => p.2.foldl addF32 p.1)),
    count := NMap.put x.count u.row (min 0xFFFF (x.cnt u.row + 1)) }

/-- The 128 bytes of a segment of a row. -/
def Island.segment (x : Island) (r sg : Nat) : Bytes := packElems 4 (((x.row r).drop (32 * sg)).take 32)

/-! ### Groups (12 R245, R246) -/

/-- The islands of a group, as row block and column block. -/
def State.groupOf (s : State) (d lead : Nat) : List (Nat × Nat) :=
  let x := s.island d lead
  (List.range x.rows).flatMap (fun i => (List.range x.cols).map (fun j => (i, j)))

/-- The number of the island at a place of a group. -/
def State.member (s : State) (d lead : Nat) (p : Nat × Nat) : Nat := lead + p.1 * (s.island d lead).cols + p.2

/-- The islands of a group that hold some rows, and those that hold some rows' segment. -/
def State.rowBlocks (s : State) (d lead g0 m : Nat) : List (Nat × Nat) :=
  (s.groupOf d lead).filter (fun p => p.1 * 256 < g0 + m && g0 < p.1 * 256 + 256)

/-- A sticky bit of an island's status, with a context's flag. -/
def State.islandNote (s : State) (d k bit flag : Nat) : State :=
  let s := s.modIsland d k (fun x => { x with stat := withBit x.stat bit })
  s.setStatus (s.island d k).ctx d flag

/-! ### Returned tokens (12 R249) -/

/-- A token returned to the station of a command, with its counts: the region may have ended. -/
def State.returnTok (s : State) (j : Job) (g : Tag) (res : Bytes) : State :=
  match s.region? j.fi.region with
  | none => s
  | some _ => s.settle j (s.emitRes j false (dests j.f) g .value (some res))

/-- A command's count as received (06 R132). -/
def State.cmdDone (s : State) (j : Job) : State := s.countRecv j.fi.at_ j.fi.stTag.phase 1

/-- The result token of a weights command that held a reply slot: the slot is freed, its set consumed (10 R203, 04 R87). -/
def State.weightsDone (s : State) (c : IslCmd) : State :=
  let t := c.job.fi.at_
  match (s.tile t).replies.find? (fun r => r.2.serial = c.id) with
  | none => s
  | some (k, _) =>
    let j := if s.level (s.regionCtx c.job.fi.region) = 0 then c.job else c.job.raiseLevel c.level
    let s := ((s.freeReply t k).serialDone t c.id).consume j.fi
    s.returnTok j j.fi.stTag []

/-- A weights command that ends with no result: its slot is freed, its set consumed. -/
def State.weightsGone (s : State) (c : IslCmd) : State :=
  let t := c.job.fi.at_
  match (s.tile t).replies.find? (fun r => r.2.serial = c.id) with
  | none => s
  | some (k, _) => ((s.freeReply t k).serialDone t c.id).consume c.job.fi

/-! ### Releases (12 R256) -/

/-- The rows of a range released on one island. -/
def State.release (s : State) (d lead : Nat) (p : Nat × Nat) (g0 m : Nat) (n : Option Nat) (j : Job) : State :=
  let k := s.member d lead p
  let rows := (List.range m).map (· + g0) |>.filter (fun g => g / 256 = p.1)
  let lastRow := rows.getLast?.getD 0
  let s := rows.foldl (fun s g =>
    let x := s.island d k
    let toks := (List.range 8).map (fun sg =>
      (⟨j, g * 32 + 8 * p.2 + sg, x.segment (g % 256) sg, g = lastRow && sg = 7⟩ : RelTok))
    let past : Bool := match n with
      | some n => decide (x.cnt (g % 256) > n)
      | none => false
    let s := if past then s.islandNote d k 1 8 else s
    s.modIsland d k (fun x => { x with
      outq := x.outq ++ toks, acc := NMap.del x.acc (g % 256), count := NMap.put x.count (g % 256) 0 })) s
  s.due (.releaseTokenOut d k)

/-- Whether a pending end is satisfied on an island. -/
def Island.satisfied (x : Island) (i : Nat) (e : PendEnd) : Bool :=
  (List.range e.m).all (fun t => (e.g0 + t) / 256 ≠ i || x.cnt ((e.g0 + t) % 256) ≥ e.n)

/-- The pending ends of an island tested in the order in which they entered. -/
def State.testEnds (s : State) (d lead : Nat) (p : Nat × Nat) : State :=
  let k := s.member d lead p
  (s.island d k).pend.foldl (fun s e =>
    if (s.island d k).satisfied p.1 e then
      let s := s.modIsland d k (fun x => { x with pend := removeFirst (fun q => q = e) x.pend })
      (s.release d lead p e.g0 e.m (some e.n) e.job).due (.islandCommandEntry d lead)
    else s) s

/-- The place of an island in its group. -/
def State.placeOf (s : State) (d k : Nat) : Nat × Nat :=
  let x := s.island d k
  ((k - x.lead) / max 1 x.cols, (k - x.lead) % max 1 x.cols)

/-- The oldest update of an island lands; the pending ends are tested (12 R253, R256). -/
def State.landOne (s : State) (d k : Nat) : State :=
  match (s.island d k).flight with
  | [] => s
  | u :: us =>
    let s := s.modIsland d k (fun x => { x.land u with flight := us })
    s.testEnds d (s.island d k).lead (s.placeOf d k)

/-- Every update of an island that has entered lands. -/
def State.landAll (s : State) (d k : Nat) : State :=
  (s.island d k).flight.foldl (fun s _ => s.landOne d k) s

/-! ### Commands taken into the array (12 R247, R248) -/

/-- The entry cycles of a row by its type, of any other command 1. -/
def IslOp.cycles : IslOp → Nat
  | .rows _ ty _ => match ty with
    | .mx4 => 1
    | .bf16 => 4
    | _ => 2
  | _ => 1

/-- The part of a packed array that holds the columns of column block `j`: `n` bits a column. -/
def columnSlice (bs : Bytes) (bits j : Nat) : Bytes := sliceB bs (j * 256 * bits / 8) (min (256 * bits / 8) (bs.length - j * 256 * bits / 8))

/-- The bank that a weights transfer fills on column block `j`. -/
def loadedBank (ty : Ty) (sparse : Bool) (kp kb nEl : Nat) (data : Bytes) (j : Nat) : Bank :=
  let per := if sparse then kp / 2 else kp
  let el := data.take nEl
  let sc := data.drop nEl
  { ty := ty, sparse := sparse, kp := kp, kb := kb,
    vals := columnSlice el (8 * elemBytes ty per) j,
    scales := if ty.isMx then columnSlice sc (8 * (kp / 32)) j else [] }

/-- The loading bank becomes active and the old active bank is emptied (12 R248). -/
def Island.switch (x : Island) : Island := { x with active := x.loading, loading := {} }

/-- A row taken into the islands of its row block (12 R253). -/
def State.rowEnter (s : State) (d lead g : Nat) (a : Bytes) (ty : Ty) (sparse : Bool) : State :=
  (s.rowBlocks d lead g 1).foldl (fun s p =>
    let k := s.member d lead p
    let b := (s.island d k).active
    let fits := b.ty ≠ .none && b.ty = ty && b.sparse = sparse
    let s := if fits then s else s.islandNote d k 2 7
    let u : RowUpd := ⟨g % 256, if fits then rowTerms b a sparse else []⟩
    let s := s.modIsland d k (fun x => { x with
      flight := x.flight ++ [u], stat := withField x.stat 16 16 (fieldOf x.stat 16 16 + 1) })
    s.due (.rowUpdateLand d k)) s

/-- A scale rewrite at one island (12 R254). -/
def State.scaleEnter (s : State) (d lead : Nat) (p : Nat × Nat) (f : Nat) (bs : Bytes) : State :=
  let k := s.member d lead p
  let x := s.island d k
  if x.active.ty = .none then s.islandNote d k 2 7
  else
    let kc := x.active.kp / 32
    let s := s.modIsland d k (fun x => { x with active := { x.active with
      scales := bs.zipIdx.foldl (fun sc q =>
        let i := f + q.2
        if i / kc / 256 = p.2 then
          let at_ := (i / kc % 256) * kc + i % kc
          overlay (sc ++ zeros (at_ + 1 - sc.length)) at_ [q.1]
        else sc) x.active.scales } })
    if (f + bs.length - 1) / kc ≥ 256 * x.cols then s.islandNote d k 2 7 else s

/-- The first group of a metadata array that breaks 2:4 sparsity: column, group and nibble (12 R258). -/
def badMeta (bs : Bytes) (nb kp : Nat) : Option (Nat × Nat × Nat) :=
  ((List.range nb).flatMap (fun c => (List.range (kp / 4)).map (fun q => (c, q)))).findSome? (fun g =>
    let m := nibbleAt bs (g.1 * (kp / 4) + g.2)
    if m / 4 ≤ m % 4 then some (g.1, g.2, m) else none)

/-- The sparse-metadata fault (12 R258, 18 R369). -/
def State.metaFault (s : State) (d lead : Nat) (j : Job) (bad : Option (Nat × Nat × Nat)) : State :=
  let s := (s.groupOf d lead).foldl (fun s p =>
    s.modIsland d (s.member d lead p) (fun x => { x with loading := {}, stat := withBit x.stat 0 })) s
  let s := s.modIsland d lead (fun x => { x with held := true, busy := false })
  let (c, q, m) := bad.getD (0, 0, 0)
  let k := s.member d lead (0, c / 256)
  s.raiseFault { index := 4, sync := false, ctx := s.regionCtx j.fi.region, die := d, tile := some j.fi.tile,
                 region := j.fi.region, job := some j, block := j.fi.block,
                 detail := leBytes 2 k ++ leBytes 2 c ++ leBytes 2 q ++ leBytes 1 m ++ leBytes 1 (if bad.isSome then 0 else 1) }

/-- A metadata transfer at its entry (12 R258). -/
def State.metaEnter (s : State) (d lead : Nat) (c : IslCmd) (kp nb : Nat) : State :=
  let sparse := (s.groupOf d lead).all (fun p =>
    let b := (s.island d (s.member d lead p)).loading
    b.ty ≠ .none && b.sparse)
  if !sparse then (s.weightsGone c).metaFault d lead c.job none
  else match badMeta c.data nb kp with
    | some b => (s.weightsGone c).metaFault d lead c.job (some b)
    | none =>
      let s := (s.groupOf d lead).foldl (fun s p =>
        s.modIsland d (s.member d lead p) (fun x => { x with
          loading := { x.loading with metas := columnSlice c.data (4 * (kp / 4)) p.2 } }.switch)) s
      (s.modIsland d lead (fun x => { x with busy := false })).weightsDone c

/-- The effect of a command at its entry, but for rows (12 R251 to R258). -/
def State.cmdEnter (s : State) (d lead : Nat) (c : IslCmd) : State :=
  let j := c.job
  let each := fun (s : State) (ps : List (Nat × Nat)) (g : State → Nat × Nat → Nat → State) =>
    ps.foldl (fun s p => g s p (s.member d lead p)) s
  let landed := fun (s : State) (ps : List (Nat × Nat)) => each s ps (fun s _ k => s.landAll d k)
  let all := s.groupOf d lead
  let seg := fun (g0 sg : Nat) => (s.rowBlocks d lead g0 1).filter (fun p => p.2 = sg / 8)
  match c.op with
  | .rows _ _ _ => s
  | .load ty sparse kp kb _ nEl =>
    let s := each s all (fun s p k => s.modIsland d k (fun x =>
      let b := loadedBank ty sparse kp kb nEl c.data p.2
      if sparse then { x with loading := b } else { x with loading := b }.switch))
    (s.modIsland d lead (fun x => { x with busy := sparse })).weightsDone c
  | .metas kp nb => s.metaEnter d lead c kp nb
  | .scale f bs => ((each s all (fun s p _ => s.scaleEnter d lead p f bs)).returnTok j j.fi.stTag []).cmdDone j
  | .drain => ((landed s all).returnTok j j.fi.stTag (operandIn s j .none false)).cmdDone j
  | .mend g0 m n =>
    let ps := s.rowBlocks d lead g0 m
    let s := landed s ps
    let s := each s ps (fun s _ k =>
      (s.countSent j.fi.at_ j.fi.stTag.phase 1).modIsland d k (fun x => { x with pend := x.pend ++ [⟨g0, m, n, j⟩] }))
    (each s ps (fun s p _ => s.testEnds d lead p)).cmdDone j
  | .init g0 m =>
    let ps := s.rowBlocks d lead g0 m
    let s := landed s ps
    let s := each s ps (fun s p k => s.modIsland d k (fun x =>
      let mine := fun (r : Nat) => let g := p.1 * 256 + r; g0 ≤ g && g < g0 + m
      { x with acc := x.acc.filter (fun q => !mine q.1), count := x.count.filter (fun q => !mine q.1) }))
    ((each s ps (fun s p _ => s.testEnds d lead p)).returnTok j j.fi.stTag []).cmdDone j
  | .add g0 sg b =>
    let ps := seg g0 sg
    let s := landed s ps
    let s := each s ps (fun s _ k => s.modIsland d k (fun x =>
      let o := 32 * (sg % 8)
      let r := x.row (g0 % 256)
      { x with
        acc := NMap.put x.acc (g0 % 256) (r.zipIdx.map (fun q =>
          if o ≤ q.2 && q.2 < o + 32 then addF32 q.1 (numAt b (4 * (q.2 - o)) 4) else q.1)),
        count := NMap.put x.count (g0 % 256) (min 0xFFFF (x.cnt (g0 % 256) + 1)) }))
    ((each s ps (fun s p _ => s.testEnds d lead p)).returnTok j j.fi.stTag []).cmdDone j
  | .read g0 sg =>
    let ps := seg g0 sg
    let s := landed s ps
    let res := ((ps.head?).map (fun p => (s.island d (s.member d lead p)).segment (g0 % 256) (sg % 8))).getD []
    (s.returnTok j j.fi.stTag res).cmdDone j
  | .save g0 m =>
    let ps := s.rowBlocks d lead g0 m
    let s := landed s ps
    (each s ps (fun s p _ => (s.countSent j.fi.at_ j.fi.stTag.phase 1).release d lead p g0 m none j)).cmdDone j
  | .put g0 sg n b =>
    let ps := seg g0 sg
    let s := landed s ps
    let s := each s ps (fun s _ k => s.modIsland d k (fun x =>
      let o := 32 * (sg % 8)
      { x with
        acc := NMap.put x.acc (g0 % 256) ((x.row (g0 % 256)).zipIdx.map (fun q =>
          if o ≤ q.2 && q.2 < o + 32 then numAt b (4 * (q.2 - o)) 4 else q.1)),
        count := NMap.put x.count (g0 % 256) (min 0xFFFF (x.cnt (g0 % 256) + n)) }))
    ((each s ps (fun s p _ => s.testEnds d lead p)).returnTok j j.fi.stTag []).cmdDone j

/-! ### Entry -/

/-- Whether a MEND finds a pending entry free on every island that holds rows of it (12 R256). -/
def State.endRoom (s : State) (d lead : Nat) (c : IslCmd) : Bool :=
  match c.op with
  | .mend g0 m _ => (s.rowBlocks d lead g0 m).all (fun p => (s.island d (s.member d lead p)).pend.length < 8)
  | _ => true

/-- The oldest command of each channel. -/
def headCmds : List (Nat × Nat) → List IslCmd → List IslCmd
  | _, [] => []
  | seen, c :: cs => if seen.contains (c.tile, c.chan) then headCmds seen cs else c :: headCmds ((c.tile, c.chan) :: seen) cs

/-- The commands of a group that may be next at the entry (12 R247, R248, R252, R256). -/
def State.mayEnter (s : State) (d lead : Nat) : List IslCmd :=
  let x := s.island d lead
  if x.held || x.rampHeld then []
  else (headCmds [] x.cmds).filter (fun c =>
    c.ready
    && (match x.lock with
      | some id => c.id = id
      | none => true)
    && (c.port ≠ 0 || !x.busy || (match c.op with | .metas _ _ => true | _ => false))
    && (c.port ≠ 1 || (match x.blocked with
      | some id => c.id = id && s.endRoom d lead c
      | none => true)))

/-- A command out of its port, with a slot given back to its channel (12 R244). -/
def State.leavePort (s : State) (d lead : Nat) (c : IslCmd) : State :=
  let s := s.modIsland d lead (fun x => { x with cmds := removeFirst (fun q => q.id = c.id) x.cmds, lock := none, blocked := none })
  s.modTile ⟨d, c.tile⟩ (fun x => { x with chanFree := NMap.alter x.chanFree c.chan (· + 1) })

/-- The islands that a command occupies. -/
def State.cmdIslands (s : State) (d lead : Nat) (c : IslCmd) : Nat :=
  match c.op with
  | .rows ((g, _) :: _) _ _ => (s.rowBlocks d lead g 1).length
  | .mend g0 m _ | .init g0 m | .save g0 m => (s.rowBlocks d lead g0 m).length
  | .add _ _ _ | .read _ _ | .put _ _ _ _ => 1
  | _ => (s.groupOf d lead).length

/-- The entry cycles that the ramp limiter allows in this window (20 R412). -/
def Ramp.limit (r : Ramp) : Nat := min (fieldOf r.eff 32 18) (r.last + fieldOf r.eff 16 16)

/-- The commands of those that may be next which have reached the entry: those that had, and of the others an open choice, at least one
in all (12 R247: the delay on the way is not the model's to say, log entry 1). -/
def arrivedOf (n : Nat) (cs : List IslCmd) : List IslCmd :=
  match cs.filter (·.here), (cs.zipIdx.filter (fun p => n.testBit p.2)).map (·.1) with
  | [], [] => (cs[n % max 1 cs.length]?).toList
  | old, new => old ++ new.filter (fun c => !c.here)

/-- The order of the ports among commands that are ready together: weights, accumulator, rows (12 R247, R263). -/
def portRank (port : Nat) : Nat := if port = 0 then 0 else if port = 2 then 1 else 2

/-- The command that enters: of those that have arrived one of the first port in order. -/
def nextEntry (n : Nat) (cs : List IslCmd) : Option IslCmd :=
  let here := arrivedOf n cs
  let first := here.filter (fun c => here.all (fun x => portRank c.port ≤ portRank x.port))
  first[n % max 1 first.length]?

/-- One command, or one row of a gather, taken in. One that the ramp limiter holds is the next to enter (12 R260). -/
def State.islandStep (s : State) (d lead : Nat) : State :=
  let cs := s.mayEnter d lead
  let here := (arrivedOf (Config.pick s.ticks) cs).map (·.id)
  match nextEntry (Config.pick s.ticks) cs with
  | none => s
  | some c =>
    let s := s.modIsland d lead (fun x => { x with cmds := x.cmds.map (fun q => if here.contains q.id then { q with here := true } else q) })
    if !s.endRoom d lead c then
      (s.modIsland d lead (fun x => { x with blocked := some c.id })).due (.islandCommandEntry d lead)
    else if (s.die d).ramp.count ≥ (s.die d).ramp.limit then
      let s := (s.groupOf d lead).foldl (fun s p => s.modIsland d (s.member d lead p) (fun x => { x with rampHeld := true })) s
      (s.modIsland d lead (fun x => { x with lock := some c.id })).modDie d (fun x => { x with ramp := { x.ramp with held := true } })
    else
      let n := c.op.cycles * s.cmdIslands d lead c
      let s := s.modDie d (fun x => { x with ramp := { x.ramp with count := x.ramp.count + n } })
      let s := match c.op with
        | .rows ((g, a) :: rs) ty sparse =>
          let s := s.rowEnter d lead g a ty sparse
          if rs.isEmpty then (s.leavePort d lead c).cmdDone c.job
          else
            let s := s.modTile ⟨d, c.tile⟩ (fun x => { x with chanFree := NMap.alter x.chanFree c.chan (· + 1) })
            s.modIsland d lead (fun x => { x with
              lock := some c.id, cmds := x.cmds.map (fun q => if q.id = c.id then { q with op := .rows rs ty sparse } else q) })
        | _ => (s.leavePort d lead c).cmdEnter d lead c
      if (s.island d lead).cmds.isEmpty then s else s.due (.islandCommandEntry d lead)

def execIslandCommandEntry (s : State) : Host.Outcome State Fault Refusal :=
  match s.ev with
  | .islandCommandEntry d k => .next (s.islandStep d k)
  | _ => .next s

def execRowUpdateLand (s : State) : Host.Outcome State Fault Refusal :=
  match s.ev with
  | .rowUpdateLand d k =>
    let s := s.landOne d k
    .next (if (s.island d k).flight.isEmpty then s else s.due (.rowUpdateLand d k))
  | _ => .next s

/-- One release token leaves an island (12 R256). -/
def execReleaseTokenOut (s : State) : Host.Outcome State Fault Refusal :=
  match s.ev with
  | .releaseTokenOut d k =>
    match (s.island d k).outq with
    | [] => .next s
    | r :: rs =>
      let s := s.modIsland d k (fun x => { x with outq := rs })
      let s := s.returnTok r.job { r.job.fi.stTag with iter := BitVec.ofNat 16 r.iter } r.payload
      let s := if r.last then s.cmdDone r.job else s
      .next (if rs.isEmpty then s else s.due (.releaseTokenOut d k))
  | _ => .next s

/-! ### The ramp limiter and the forecast (20 R412) -/

/-- The end of a window: idle islands are given empty slots up to E − FALL, the next window begins with the values then written
(20 R412, R419). -/
def Ramp.window (r : Ramp) (now : Nat) : Ramp :=
  let low := r.last - fieldOf r.eff 0 16
  let empty := low - r.count
  { r with last := r.count + empty, empty := empty, count := 0, held := false, eff := r.ctl,
           hist := (r.hist ++ [r.held]).drop (r.hist.length + 1 - 1000), since := now }

def execRampWindow (s : State) : Host.Outcome State Fault Refusal :=
  match s.ev with
  | .rampWindow d =>
    let s := s.modDie d (fun x => { x with ramp := x.ramp.window s.cycles })
    let s := (List.range 104).foldl (fun s k =>
      if (s.island d k).rampHeld then (s.modIsland d k (fun x => { x with rampHeld := false })).due (.islandCommandEntry d k) else s) s
    .next (s.due (.rampWindow d))
  | _ => .next s

/-- The records that wait in a die's enabled queues. -/
def Die.waiting (x : Die) : Nat :=
  sumN ((x.queues.filter (fun q => bitN q.2.ctl.toNat 63)).map (fun q => (q.2.tail - q.2.head).toNat))

def execForecastUpdate (s : State) : Host.Outcome State Fault Refusal :=
  match s.ev with
  | .forecastUpdate d =>
    .next ((s.modDie d (fun x => { x with ramp := { x.ramp with
      fcst := withField x.ramp.fcst 0 32 (min (2 ^ 32 - 1) x.waiting) } })).due (.forecastUpdate d))
  | _ => .next s

/-! ### Firings (12 R249, R250) -/

/-- The binding of the channel of a station: its island, and the rows and columns of its group. -/
structure IslPort where
  chan : Nat
  lead : Nat
  rows : Nat
  cols : Nat
  free : Nat
  deriving DecidableEq, Repr

/-- The port that a station sends to. -/
def State.islPort (s : State) (j : Job) : Option IslPort :=
  let x := s.tile j.fi.at_
  let ch := j.f.litBits 0 3
  match NMap.find x.channels ch with
  | none => none
  | some b =>
    if fieldOf b 13 3 ≠ 4 then none else
    let k := fieldOf b 16 8
    let g := s.island j.fi.die k
    some ⟨ch, k, g.rows, g.cols, NMap.getD x.chanFree ch 0⟩

/-- A descriptor error of an island command, and a row beyond the scratchpad (12 R259). -/
def State.islFault (s : State) (j : Job) (a : Nat) (desc : Bool) : State :=
  s.leaseFault j (majorOf ((s.tile j.fi.at_).station j.fi.slot j.fi.station).1) a (if desc then 2 else 0)

/-- A command sent: its slots are taken. -/
def State.sendCmd (s : State) (j : Job) (q : IslPort) (port n : Nat) (op : IslOp) (id : Nat) (ready : Bool) : State :=
  let t := j.fi.at_
  let s := s.modTile t (fun x => { x with chanFree := NMap.put x.chanFree q.chan (q.free - n) })
  let s := s.modIsland t.die q.lead (fun x => { x with
    cmds := x.cmds ++ [{ id := id, job := j, port := port, tile := t.tile, chan := q.chan, op := op, ready := ready }] })
  s.due (.islandCommandEntry t.die q.lead)

/-- A command without data of memory: its set is consumed, its slots taken; it counts as sent until it is done. -/
def State.sendNow (s : State) (j : Job) (q : IslPort) (port n : Nat) (op : IslOp) : State :=
  let (id, s) := s.fresh
  ((s.consume j.fi).countSent j.fi.at_ j.fi.stTag.phase 1).sendCmd j q port n op id true

/-- A firing of an island class: it is offered again while its channel has no slots for it. `go` is its effect. -/
def fireIsland (slots : Job → State → Nat) (f : Fields) (go : Job → State → IslPort → State) (s : State) : State :=
  s.fire f (some .value) (dests f) (sregDests f) (fun j s =>
    match s.islPort j with
    | none => s.offerAgain j.fi
    | some q => if q.free < slots j s then s.offerAgain j.fi else go j s q)

/-- Side A of a firing as a descriptor, and its fields. -/
def descA (s : State) (j : Job) : Bytes := descriptorOn s j false

/-- A transfer of weights or metadata: the ranges are checked, the slot is taken, the parts are issued (12 R251). -/
def State.sendLoad (s : State) (j : Job) (q : IslPort) (major minor : Nat) (loads : List (Nat × Nat)) (op : IslOp) (sparse : Bool) : State :=
  let t := j.fi.at_
  match s.launchOf j.fi with
  | none => s
  | some l =>
    let loads := loads.filter (fun r => r.2 ≠ 0)
    match firstDeniedOf l false loads with
    | some a => s.leaseFault j major a 0
    | none =>
      match (s.tile t).freeSlot with
      | none => (s.agqNote t 0).offerAgain j.fi
      | some k =>
        let n := sumN (loads.map (·.2))
        let mark := fun (s : State) => s.modTile t (fun x => { x with
          chanSparse := if sparse then q.chan :: x.chanSparse.filter (· ≠ q.chan) else x.chanSparse.filter (· ≠ q.chan) })
        if n = 0 then
          let (id, s) := s.fresh
          let s := (mark s).modTile t (fun x => { x with replies := NMap.put x.replies k {
            job := j, kind := .weights q.lead, major := major, minor := minor, serial := id } })
          s.sendCmd j q 0 1 op id true
        else
          let id := s.nextId
          let s := s.issueSlot { job := j, major := major, minor := minor, loads := loads, size := n } (.weights q.lead) k
          (mark s).sendCmd j q 0 1 op id false

/-- A load of a B tile (12 R251, R258). -/
def fireLoadB (major : Nat) (sparse : Bool) (f : Fields) (s : State) : State :=
  fireIsland (fun _ _ => 1) f (fun j s q =>
    let d := descA s j
    let kb := numAt d 16 2
    let nb := numAt d 18 2
    let kp := ceilDiv kb 32 * 32
    if kb = 0 || kb > rowPositions sparse || nb = 0 || nb > 256 * q.cols then s.islFault j (numAt d 0 8) true
    else
      let nEl := elemBytes f.tyT (nb * (if sparse then kp / 2 else kp))
      let nSc := if f.tyT.isMx then nb * (kp / 32) else 0
      s.sendLoad j q major 0 [(numAt d 0 8, nEl), (numAt d 8 8, nSc)] (.load f.tyT sparse kp kb nb nEl) sparse) s

/-- The last sparse transfer of a group: its depth and width. -/
def State.lastSparse (s : State) (d lead : Nat) : Option (Nat × Nat) :=
  let x := s.island d lead
  let q := x.cmds.filterMap (fun c => match c.op with
    | .load _ true kp _ nb _ => some (kp, nb)
    | _ => none)
  match q.getLast? with
  | some r => some r
  | none =>
    let n := sumN ((s.groupOf d lead).map (fun p =>
      let b := (s.island d (s.member d lead p)).loading
      if p.1 = 0 && b.sparse && b.kp ≠ 0 then b.vals.length / max 1 (elemBytes b.ty (b.kp / 2)) else 0))
    if n = 0 then none else some (x.loading.kp, n)

def execMmaMldb (f : Fields) (s : State) : Host.Outcome State Fault Refusal := .next (fireLoadB 0x1B false f s)
def execMsparseMsldb (f : Fields) (s : State) : Host.Outcome State Fault Refusal := .next (fireLoadB 0x1D true f s)
/-- A metadata transfer: a nibble for each group (12 R258). -/
def execMsparseMsmeta (f : Fields) (s : State) : Host.Outcome State Fault Refusal :=
  .next (fireIsland (fun _ _ => 1) f (fun j s q =>
    let (kp, nb) := (s.lastSparse j.fi.die q.lead).getD (0, 0)
    s.sendLoad j q 0x1D 1 [(numAt (descA s j) 0 8, nb * (kp / 4) / 2)] (.metas kp nb) true) s)

/-- Rows of a gather read, at most `n`, one in each cycle (12 R252); the command is ready when all are. -/
def State.gatherRows (s : State) (d n : Nat) (c : IslCmd) : IslCmd :=
  match c.op, c.todo with
  | .rows rs ty sparse, _ :: _ =>
    let x := s.tile ⟨d, c.tile⟩
    let new := (c.todo.take n).map (fun r => (r.1, x.spadRead c.job.fi.inst r.2 (rowLen ty sparse)))
    { c with op := .rows (rs ++ new) ty sparse, todo := c.todo.drop n, ready := c.todo.length ≤ n }
  | _, _ => c

/-- The gathers under way, on dies that are not frozen, when `n` cycles have passed. -/
def State.gatherAll (s : State) (n : Nat) : State :=
  { s with islands := s.islands.map (fun p =>
      let d := p.1 / 128
      if (s.die d).frozen then p else (p.1, { p.2 with cmds := p.2.cmds.map (s.gatherRows d n) })) }

/-- Rows read from the scratchpad and sent: offset and global row of each (12 R252). The first is read as the station fires, those of a
gather that follow in the cycles after it. -/
def State.sendRows (s : State) (j : Job) (q : IslPort) (rs : List (Nat × Nat)) (sparse : Bool) : State :=
  let n := rowLen j.f.tyT sparse
  match rs.find? (fun r => r.2 ≥ 256 * q.rows), rs.find? (fun r => r.1 + n > spadBytes) with
  | some r, _ => s.islFault j r.1 true
  | none, some r => s.islFault j r.1 false
  | none, none =>
    let x := s.tile j.fi.at_
    let rows := (rs.take 1).map (fun r => (r.2, x.spadRead j.fi.inst r.1 n))
    let id := s.nextId
    let s := s.sendNow j q 1 rs.length (.rows rows j.f.tyT sparse)
    let later := (rs.drop 1).map (fun r => (r.2, r.1))
    let s := if later.isEmpty then s
      else s.modIsland j.fi.die q.lead (fun y => { y with
        cmds := y.cmds.map (fun c => if c.id = id then { c with todo := later, ready := false } else c) })
    s.returnTok j j.fi.stTag []

def execMmaMrow (f : Fields) (s : State) : Host.Outcome State Fault Refusal :=
  .next (fireIsland (fun _ _ => 1) f (fun j s q => s.sendRows j q [(numAt (descA s j) 0 4, numAt (descA s j) 4 2)] false) s)
def execMsparseMsrow (f : Fields) (s : State) : Host.Outcome State Fault Refusal :=
  .next (fireIsland (fun _ _ => 1) f (fun j s q => s.sendRows j q [(numAt (descA s j) 0 4, numAt (descA s j) 4 2)] true) s)
/-- The rows of a gather: `c` of them from the indices (12 R252). -/
def execMmaMgat (f : Fields) (s : State) : Host.Outcome State Fault Refusal :=
  let cnt := fun (j : Job) (s : State) => (byteAt (descA s j) 6).toNat
  .next (fireIsland (fun j s => if cnt j s > 16 then 1 else max 1 (cnt j s)) f (fun j s q =>
    let d := descA s j
    let c := cnt j s
    if c = 0 || c > 16 then s.islFault j (numAt d 0 4) true
    else s.sendRows j q ((List.range c).map (fun i =>
      (numAt d 0 4 + numAt d (8 + 2 * i) 2 * rowLen f.tyT false, numAt d 4 2 + i))) false) s)

/-- A scale rewrite: its indices are checked against the depth of the last weights command on the channel (12 R254). -/
def execMmaMscale (f : Fields) (s : State) : Host.Outcome State Fault Refusal :=
  .next (fireIsland (fun _ _ => 1) f (fun j s q =>
    let d := descA s j
    let a := numAt d 0 2
    let n := (byteAt d 2).toNat
    let kp := if (s.tile j.fi.at_).chanSparse.contains q.chan then 512 else 256
    if n = 0 || n > 128 || a + n > 256 * q.cols * (kp / 32) then s.islFault j a true
    else s.sendNow j q 0 1 (.scale a (sliceB (operandIn s j .none true) 0 n))) s)

/-- An end of reduction (12 R255). -/
def execMmaMend (f : Fields) (s : State) : Host.Outcome State Fault Refusal :=
  .next (fireIsland (fun _ _ => 1) f (fun j s q =>
    let d := descA s j
    let g := numAt d 0 2
    let m := numAt d 2 2
    if m = 0 || g + m > 256 * q.rows then s.islFault j g true
    else s.sendNow j q 1 1 (.mend g m (numAt d 8 2))) s)
def execMmaMdrain (f : Fields) (s : State) : Host.Outcome State Fault Refusal :=
  .next (fireIsland (fun _ _ => 1) f (fun j s q => s.sendNow j q 1 1 .drain) s)

/-- An accumulator command over a range of rows, or over one segment (12 R255). -/
def fireAcc (f : Fields) (seg : Bool) (op : Job → State → Bytes → IslOp) (s : State) : State :=
  fireIsland (fun _ _ => 1) f (fun j s q =>
    let d := descA s j
    let g := numAt d 0 2
    let m := numAt d 2 2
    let sg := (byteAt d 4).toNat
    if (if seg then g ≥ 256 * q.rows || sg ≥ 8 * q.cols else m = 0 || g + m > 256 * q.rows) then s.islFault j g true
    else s.sendNow j q 2 1 (op j s d)) s

/-- The 32 values of side B (12 R255). -/
def accB (s : State) (j : Job) : Bytes := sliceB (operandIn s j .f32 true) 0 128

def execMaccAcinit (f : Fields) (s : State) : Host.Outcome State Fault Refusal :=
  .next (fireAcc f false (fun _ _ d => .init (numAt d 0 2) (numAt d 2 2)) s)
def execMaccAcadd (f : Fields) (s : State) : Host.Outcome State Fault Refusal :=
  .next (fireAcc f true (fun j s d => .add (numAt d 0 2) (byteAt d 4).toNat (accB s j)) s)
def execMaccAcread (f : Fields) (s : State) : Host.Outcome State Fault Refusal :=
  .next (fireAcc f true (fun _ _ d => .read (numAt d 0 2) (byteAt d 4).toNat) s)
def execMaccAcsave (f : Fields) (s : State) : Host.Outcome State Fault Refusal :=
  .next (fireAcc f false (fun _ _ d => .save (numAt d 0 2) (numAt d 2 2)) s)
def execMaccAcload (f : Fields) (s : State) : Host.Outcome State Fault Refusal :=
  .next (fireAcc f true (fun j s d => .put (numAt d 0 2) (byteAt d 4).toNat (numAt d 8 2) (accB s j)) s)

end Sys2Proof.Machine
end

