-- ==== Sys2Proof/Machine/Checks.lean ====
section
/-! DEFINITION. What the configuration loader accepts of one station, as far as the station alone decides it: the checks of 02 R39
that need neither the rest of the block nor the region. Each check answers true where it FAILS. -/

namespace Sys2Proof.Machine

/-- The number of minors of each class, from major 0x01 (02 R35). -/
def minorCounts : List Nat :=
  [16, 7, 5, 6, 13, 6, 6, 4, 5, 3, 2, 3, 5, 3, 2, 2, 4, 3, 3, 5, 2, 2, 2, 10, 4, 3, 6, 5, 3, 5, 4, 5, 6, 4, 7, 5, 3, 5, 2, 3, 2, 4]

/-- The number of minors of a class; 0 for a reserved major. -/
def minorsOf (major : Nat) : Nat := if major = 0 then 0 else minorCounts.getD (major - 1) 0

/-- Instructions that read one operand (02 R24): their side B selects 11. -/
def oneOperand (major minor : Nat) : Bool :=
  match major with
  | 0x01 => minor = 9 || minor ≥ 13
  | 0x05 => 6 ≤ minor && minor ≤ 9
  | 0x06 => minor = 3
  | 0x07 | 0x08 => true
  | 0x09 => minor = 0
  | 0x0A => minor = 1
  | 0x0C => minor = 2
  | 0x0D => minor ≤ 2
  | 0x0E | 0x0F => minor = 0
  | 0x11 => true
  | 0x14 => minor = 4
  | 0x19 => true
  | 0x1B => minor ≠ 3
  | 0x1C => minor = 0 || minor = 2 || minor = 3
  | 0x1D | 0x1E | 0x1F | 0x20 => true
  | 0x21 => minor = 0 || minor = 5
  | 0x22 => minor ≠ 1
  | 0x23 => minor ≠ 1 && minor ≠ 3
  | 0x24 => minor = 2 || minor = 4
  | 0x25 => true
  | 0x26 => minor ≠ 3
  | 0x27 => minor = 0
  | 0x28 => minor ≠ 1
  | 0x29 => minor = 0
  | _ => false

/-- Parameter-literal classes (02 R35). -/
def paramLiteral (major : Nat) : Bool :=
  major = 0x04 || major = 0x09 || (0x0A ≤ major && major ≤ 0x11) || major = 0x19 || (0x1B ≤ major && major ≤ 0x20)
    || (0x22 ≤ major && major ≤ 0x29)

/-- The arithmetic layout, and the access layout, of the modifier byte (02 R31). -/
def arithLayout (major : Nat) : Bool := (1 ≤ major && major ≤ 9) || (0x1B ≤ major && major ≤ 0x1D) || major = 0x20
def accessLayout (major : Nat) : Bool :=
  (0x12 ≤ major && major ≤ 0x1A) || major = 0x25 || (0x21 ≤ major && major ≤ 0x23) || major = 0x2A

/-- The access classes, on which an arc destination is valid (02 R27): those of the access layout. -/
def arcClass (major : Nat) : Bool := accessLayout major

/-- The destination fields of a station: dstA, dstB, and for GATE.DUP d2 and d3 (04 R92). -/
def allDests (major minor : Nat) (f : Fields) : List Nat :=
  [f.dstA.toNat, f.dstB.toNat] ++ (if major = 0x0C && minor = 2 then [f.litBits 0 7, f.litBits 8 7] else [])

/-- Type groups of 02 R35. -/
def tyFFI (t : Ty) : Bool := t.isF || t.isF8 || t.isInt
def tyMatrix (t : Ty) : Bool := t.isMx || t.isF8 || t = .bf16
def tyAtomInt (t : Ty) : Bool := t = .i32 || t = .i64 || t = .n32 || t = .n64

/-- Whether a minor accepts the type T, and S (02 R35, R36). -/
def typesOk (major minor : Nat) (t s : Ty) : Bool :=
  if major = 0x06 then
    match minor with
    | 0 => (t.isF || t.isF8) && (s.isF || s.isF8) && s ≠ t
    | 1 => t.isInt && (s.isF || s.isF8)
    | 2 => (t.isF || t.isF8) && s.isInt
    | 3 => t.isMx && s.isF
    | 4 => t.isF && s.isMx
    | 5 => t = .sk4 && s.isF
    | _ => false
  else s = .none &&
    (match major with
    | 0x01 | 0x02 => t.isInt
    | 0x04 => t.isF || t.isF8
    | 0x05 | 0x07 => t.isF
    | 0x08 => t.isF || t.isInt
    | 0x09 | 0x12 | 0x13 | 0x15 | 0x16 | 0x17 => tyFFI t
    | 0x14 => if minor = 4 then t = .none else tyFFI t
    | 0x18 => if minor = 8 then t = .none else if minor = 9 then t = .f32 else tyAtomInt t
    | 0x1B => if minor = 3 then t.isMx else tyMatrix t
    | 0x1D => tyMatrix t
    | 0x1C | 0x20 => t = .f32
    | 0x1E => if minor = 2 || minor = 3 then t = .none else t = .bf16
    | 0x1F => if minor = 2 then t = .sk4 else if minor = 3 then t = .f32 else t = .bf16
    | 0x21 =>
      if minor ≤ 1 then tyFFI t else if minor = 2 then tyAtomInt t else if minor = 5 then t = .none else t = .n32 || t = .n64
    | _ => t = .none)

/-- The types whose overflow nanovf changes (02 R31). -/
def nanovfType (t : Ty) : Bool := t = .bf16 || t = .f16 || t.isF8 || t.isMx

/-- Whether the scope and qualifier of an access class are within its set (02 R31 and the class chapters). -/
def scopeOk (major minor scope : Nat) : Bool :=
  scope ≤ 4 &&
    (match major with
    | 0x14 => if minor = 4 then scope ≥ 2 else scope = 0
    | 0x19 | 0x1A => true
    | 0x2A => minor ≤ 1 || scope = 0
    | 0x23 => if minor = 1 then scope ≥ 2 else scope = 0
    | _ => scope = 0)
def qualOk (major q : Nat) : Bool :=
  match major with
  | 0x12 => q ≤ 2
  | 0x13 => q = 3 || q = 4
  | _ => q = 0

/-- Whether the modifier byte keeps the rules of its layout (02 R31). -/
def modOk (major minor : Nat) (f : Fields) : Bool :=
  if arithLayout major then
    fieldOf f.mod 0 4 = 0
      && (fieldOf f.mod 6 2 = 0 || !(major ≤ 3 || major = 9 || (major = 8 && f.tyT.isInt)))
      && (!f.sat || major = 1)
      && (!f.nanovf || (nanovfType f.tyT && major ≠ 9))
  else if accessLayout major then
    fieldOf f.mod 0 2 = 0 && scopeOk major minor f.scope && qualOk major f.qual
  else f.mod = 0

/-- Whether the parameter literal keeps the rules of its class chapter (02 R39 check 0x13), where the station alone decides. -/
def litOk (major minor : Nat) (f : Fields) : Bool :=
  let l := f.litBits
  match major with
  | 0x04 =>
    let f32 := l 9 1 = 1
    let cz := l 3 1 = 1
    let ck := l 0 3
    l 10 22 = 0 && !(f32 && minor ≤ 3) && !((ck ≠ 0 || cz) && minor = 4) && !(cz && minor = 5) && !(cz && ck ≠ 0)
  | 0x09 => l 9 18 = 0 && (l 8 1 = 0 || minor = 3 || minor = 4) && (l 0 8 = 0 || minor = 0 || minor = 2)
      && (minor ≠ 0 || l 0 8 ≤ 127)
  | 0x0E => l 25 7 = 0
  | 0x0F => l 3 29 = 0
  | 0x10 => l 3 29 = 0 && 0x40 ≤ f.dstA.toNat && f.dstA.toNat ≤ 0x47 && f.dstB.toNat = 0x7F
  | 0x11 =>
    let off := l 3 7
    let len := l 10 8
    let ty := l 18 3
    l 21 11 = 0 && len ≤ 128 && off + len ≤ 128 && ty ≤ 2 && (ty = 0 || minor = 2)
      && (minor ≠ 2 || len % (if ty = 1 then 8 else 4) = 0)
  | 0x19 | 0x20 => f.lit = 0
  | 0x1B | 0x1C | 0x1D => l 3 29 = 0
  | 0x1E => l 10 22 = 0 && l 8 2 ≤ 2 && (minor = 2 || l 8 2 = 0)
  | 0x1F => if minor = 3 then f.lit = 0 else l 8 24 = 0
  | 0x22 => l 8 24 = 0
  | 0x23 => l 6 26 = 0 && ((1 ≤ minor && minor ≤ 3) || l 0 6 = 0)
  | 0x24 => l 1 31 = 0 && (minor = 1 || l 0 1 = 0)
  | 0x25 => l 4 28 = 0
  | 0x26 => f.lit = 0
  | 0x27 => if minor = 0 then l 4 28 = 0 else l 1 31 = 0
  | 0x28 =>
    if minor ≤ 1 then l 8 24 = 0
    else l 13 3 = 0 && l 23 9 = 0 && l 0 8 ≤ 0x18 && (l 8 5 = 0 || l 0 8 = 0) && (l 16 7 = 0 || l 0 8 = 0x0D) && l 16 7 ≤ 103
  | 0x29 => if minor = 0 then f.lit = 0 else l 8 24 = 0
  | _ => true

/-- Whether the destinations keep a restriction of their class (02 R39 check 0x15): the island classes name stations or `drop` (12 R249,
R259). -/
def destsOk (major minor : Nat) (f : Fields) : Bool :=
  !(0x1B ≤ major && major ≤ 0x1D && (allDests major minor f).any (fun d => 0x40 ≤ d && d < 0x7F))

/-- The checks of 02 R39 on one station that need nothing but the station, by code: true where the check FAILS. -/
def stationFails (code major minor : Nat) (f : Fields) : Bool :=
  match code with
  | 0x01 => major = 0 || major > 0x2A
  | 0x02 => minor ≥ minorsOf major
  | 0x03 => f.ext ≠ 0
  | 0x04 => (allDests major minor f).any (fun d => 0x60 ≤ d && d < 0x7F)
  | 0x07 => !arcClass major && (allDests major minor f).any (fun d => 0x58 ≤ d && d < 0x60)
  | 0x08 => f.tag.toNat ≥ 9
  | 0x09 => f.srcA ≠ 0 && f.srcB ≠ 0
  | 0x0A => oneOperand major minor && f.srcB ≠ 3
  | 0x0B => (f.srcA = 1 || f.srcB = 1) && (paramLiteral major || f.tyT.isMx)
  | 0x0C => (tyOfCode f.ty).isNone || (tyOfCode f.sty).isNone || !typesOk major minor f.tyT f.tyS
  | 0x0D => !modOk major minor f
  | 0x0E => (f.sa ≠ 0 && f.srcA ≠ 2) || (f.sb ≠ 0 && f.srcB ≠ 2)
  | 0x13 => !litOk major minor f
  | 0x15 => !destsOk major minor f
  | _ => false

/-- The codes of the station's own checks in the order of 02 R39. -/
def ownChecks : List Nat := [0x01, 0x02, 0x03, 0x04, 0x07, 0x08, 0x09, 0x0A, 0x0B, 0x0C, 0x0D, 0x0E, 0x13, 0x15]

end Sys2Proof.Machine
end

