-- ==== Sys2Proof/Machine/Match.lean ====
section
/-! DEFINITION. The steps of a tile's matching store: a token taken in, the end of a probe of the spill region, a refill, the admission
to block passes (04 R77 to R86, 05 R103), and a context that goes on after a halt (18 R366). -/

namespace Sys2Proof.Machine

/-- Whether the station that a token is bound for pairs tokens now: its block is resident and it has two token sides that are paired
one by one (04 R77, R78). -/
def State.pairSlot (s : State) (a : Arrival) : Option Nat :=
  match (s.tile a.at_).slotOf a.place.block with
  | none => none
  | some slot =>
    let (w, e) := (s.tile a.at_).station slot a.place.station
    if sideIsToken w e false && sideIsToken w e true && !isMerge w && !isJoinall w e then some slot else none

/-- Whether a token on its way belongs to a pass that has closed (05 R105). -/
def Tile.staleArrival (x : Tile) (a : Arrival) : Bool := !a.outside && !a.trap && (x.pass? a.inst).isNone

/-- A token of a closed pass discarded (05 R105). -/
def State.leftBehind (s : State) (a : Arrival) : State :=
  (s.countRecv a.at_ a.tok.tag.phase 1).setStatus (s.ctxOf a.at_) a.at_.die 2

/-- A token placed as an arrival, or discarded when its pass has closed. -/
def State.placeOr (s : State) (a : Arrival) : State :=
  if (s.tile a.at_).staleArrival a then s.leftBehind a else s.place a

/-- Two partners that are in no entry delivered as a set in the pass of the side A token: none where that pass cannot open. -/
def State.pairUp (s : State) (slot : Nat) (x y : Arrival) : Option State :=
  let (a, b) := if x.place.sideB then (y, x) else (x, y)
  match s.takeIn a.at_ slot a.outside a.trap a.inst a.place a.tok with
  | none => none
  | some (id, s) => some (s.deliverSet (mkSet s a.at_ slot a.place id (some a.tok) (some b.tok) []))

/-- Whether two tokens are partners: equal keys, the two sides of a station (04 R78). -/
def partners (a b : Arrival) : Bool := b.place.sideB ≠ a.place.sideB && sameKey b.tok.tag a.tok.tag b.place a.place

/-- A token taken into the store (04 R77 to R79, R84): a partner in an entry is paired, one in the spill buffer is withdrawn; a token
whose key the presence filter may hold waits for a probe; any other is placed. -/
def State.intake (s : State) (a : Arrival) : State :=
  let t := a.at_
  let x := s.tile t
  if x.staleArrival a then s.leftBehind a
  else match s.pairSlot a with
    | none => s.place a
    | some slot =>
      if (x.partner a.place a.tok.tag).isSome then s.place a
      else match x.spillBuf.find? (fun b => partners a b && !x.staleArrival b) with
        | some b =>
          let s' := s.modTile t (fun y => { y with spillBuf := removeFirst (fun q => q = b) y.spillBuf })
          (s'.pairUp slot a b).getD (s.place a)
        | none =>
          if x.spillBuf.any (fun b => !b.spilling && sameKey b.tok.tag a.tok.tag b.place a.place && b.place.sideB = a.place.sideB)
            || (!x.spilled.isEmpty && (filterBits a).all (fun n => x.filter.contains n)) then s.buffer a false
          else s.place a

/-- A token stamped with the cycle at which it enters its tile (04 R73). -/
def State.stamped (s : State) (a : Arrival) : Arrival := { a with tok := { a.tok with arrival := BitVec.ofNat 32 s.cycles } }

/-- Whether a token comes from a station of the tile that it is bound for, and not by the router (04 R78). -/
def ownToken (a : Arrival) : Bool := a.src / 2 ^ 21 = tileKey a.at_ && !a.trap

/-- The partner of a token that is taken in during the same cycle (04 R78): one comes by the router, the other from the tile's own
stations. -/
def State.sameCycle (s : State) (a : Arrival) : Option Arrival :=
  s.batch.findSome? (fun c => match c with
    | .event (.tokenArrival b) => if b.at_ = a.at_ && partners a b && ownToken a != ownToken b then some b else none
    | _ => none)

/-- A token taken in at a tile: with a partner that is taken in during the same cycle it forms a set, and neither occupies an entry,
unless another token waits on the side of one of them (04 R78, R79, R94). -/
def State.arrive (s : State) (a : Arrival) : State :=
  let a := s.stamped a
  let x := s.tile a.at_
  match s.pairSlot a, s.sameCycle a with
  | some slot, some b =>
    if x.staleArrival a || x.staleArrival b || s.sameSideWaits a || s.sameSideWaits b then s.intake a
    else
      let e : Event := .tokenArrival b
      let s' := { s with agenda := removeFirst (fun x => x = e) s.agenda, batch := removeFirst (fun x => x = Choice.event e) s.batch }
      (s'.pairUp slot a (s.stamped b)).getD (s.intake a)
  | _, _ => s.intake a

/-- The oldest spilled partner of a token along its probe sequence (04 R84). -/
def State.spilledPartner (s : State) (a : Arrival) : Option Spilled :=
  match s.regionOf a.at_ with
  | none => none
  | some r =>
    let x := s.tile a.at_
    let probes := probeSeq a (sliceBase r x.position).2
    x.spilled.find? (fun p => probes.contains (p.slot / 5) && partners a (s.spilledTok a.at_ p))

/-- Whether a token is taken in while its context holds a latched token: a trap token, and the tokens of a handler instance (04 R86,
18 R373, log entry 51). -/
def Tile.handlers (x : Tile) (a : Arrival) : Bool := a.trap || ((x.pass? a.inst).map (·.handler)).getD false

/-- Whether a context's tiles stop taking tokens: some tile of it holds a latched token (04 R86). -/
def State.latched (s : State) (c : Nat) : Bool :=
  (s.ctxTiles c).any (fun t => (s.tile t).latch.isSome)

/-- The token of the spill buffer that is dealt with next: the oldest, while a token is latched the oldest that is still taken. -/
def State.bufHead (s : State) (t : TileId) : Option Arrival :=
  let x := s.tile t
  if s.latched (s.ctxOf t) then x.spillBuf.find? (fun a => x.handlers a && (x.latch.isNone || !a.spilling || s.canSpill a)) else x.spillBuf.head?

/-- A token leaves the spill buffer (04 R78, R84): one on its way to memory is written there; the probe of another ends: a partner in
memory is removed and the pair delivered, else the token is placed. -/
def State.probeStep (s : State) (t : TileId) : State :=
  match s.bufHead t with
  | none => s
  | some a =>
    let x := s.tile t
    let rest := removeFirst (fun b => b = a) x.spillBuf
    let off := fun (s : State) =>
      let s := s.modTile t (fun x => { x with spillBuf := rest })
      if rest.isEmpty then s else s.due (.spillProbeDone t)
    if x.staleArrival a then (off s).leftBehind a
    else if a.spilling then (off s).spillWrite a
    else match s.pairSlot a, s.spilledPartner a with
      | some slot, some p =>
        if (x.partner a.place a.tok.tag).isSome then (off s).place a
        else
          let (b, s') := s.takeSpilled t p
          if x.staleArrival b then (s'.leftBehind b).due (.spillProbeDone t)
          else ((off s').pairUp slot a b).getD ((off s).place a)
      | _, _ => (off s).place a

/-- The spilled token that is refilled next: the oldest, and where recorded events are enforced the one that the next record names, when it is
present (17 R354). -/
def State.refillPick (s : State) (t : TileId) : Option Spilled :=
  let c := s.ctxOf t
  let l := (s.tile t).spilled
  match (s.dueRecords c t.die).head?.map (s.recordAt c t.die) with
  | some b =>
    if numAt b 0 1 = 2 && numAt b 2 2 = t.tile then
      match l.find? (fun p => p.seq.toNat = numAt b 0x18 4) with
      | some p => some p
      | none => l.head?
    else l.head?
  | none => l.head?

/-- A refill (04 R85): the oldest spilled token is taken back and placed as an arrival; at RECORD and REPLAY with its record. -/
def State.refillStep (s : State) (t : TileId) : State :=
  match s.refillPick t, s.regionOf t with
  | some p, some _ =>
    let a := s.spilledTok t p
    let rc : LogRec := ⟨2, 0, t.tile, a.tok.tag.frame, seqOf a.tok.tag a.place.block a.place.station 0, p.seq.toNat, 0⟩
    match s.logEvent (s.ctxOf t) t.die rc with
    | .wait s => s.post (.spillRefill t)
    | .go s =>
      let s := ((s.takeSpilled t p).2).intake a
      if (s.tile t).spilled.isEmpty then s else s.due (.spillRefill t)
  | _, _ => s

/-! ### A context goes on (18 R366) -/

/-- A tile's latched token retried (04 R86): placed when an entry is free, else written to its slice, else latched and the fault raised
again. The tokens of the spill buffer follow. -/
def State.retryLatch (s : State) (t : TileId) : State :=
  match (s.tile t).latch with
  | none => s
  | some a =>
    let s := s.modTile t (fun x => { x with latch := none })
    let s := if (s.tile t).entries.length < 512 then s.placeOr a
      else if (s.tile t).staleArrival a then s.leftBehind a
      else s.spillWrite a
    if (s.tile t).spillBuf.isEmpty then s else s.due (.spillProbeDone t)

/-- A saved tile's latched token placed ahead of every other saved token (04 R86): where all entries are in use, the youngest token goes
to the spill buffer in its stead. -/
def State.restoreLatch (s : State) (t : TileId) : State :=
  let x := s.tile t
  match x.latch, x.entries.reverse.find? (fun e => e.more.isEmpty) with
  | some a, some e =>
    if x.entries.length < 512 then s.retryLatch t
    else
      let s := s.modTile t (fun x => { x with latch := none, entries := (removeFirst (fun q => q = e) x.entries.reverse).reverse })
      (s.placeOr a).buffer
        { at_ := t, place := e.place, tok := e.tok, src := e.src, outside := e.outside, trap := e.trap, inst := e.inst } true
  | _, _ => s.retryLatch t

/-- A halted context goes on: each tile retries its latched token, the sets that a precise stop kept back are delivered, the BRK firings
emit (19 R400), and the tiles' stores are looked through again. The count of reruns that halted the context starts again (11 R238). -/
def State.goOn (s : State) (c : Nat) : State :=
  let ts := s.ctxTiles c
  let brk := (s.ctx c).brk
  let s := s.modCtx c (fun x => { x with
    st := if x.st = .halted then .running else x.st, brk := [], hangSince := s.cycles, reruns := if x.reruns ≥ 256 then 0 else x.reruns })
  let s := ts.foldl (fun s t => s.retryLatch t) s
  let kept := s.ready.filter (fun fi => fi.stopped && ts.contains fi.at_)
  let s := { s with ready := s.ready.filter (fun fi => !kept.contains fi) }
  let s := kept.foldl (fun s fi => s.deliverSet { fi with stopped := false }) s
  let s := brk.foldl (fun s p => s.settle p.1 (s.emit2 p.1 .value p.2)) s
  ts.foldl (fun s t => s.wakeTile t) s

/-! ### The steps -/

def execTokenArrival (s : State) : Host.Outcome State Fault Refusal :=
  match s.ev with
  | .tokenArrival a => .next (s.arrive a)
  | _ => .next s

def execSpillProbeDone (s : State) : Host.Outcome State Fault Refusal :=
  match s.ev with
  | .spillProbeDone t => .next (s.probeStep t)
  | _ => .next s

def execSpillRefill (s : State) : Host.Outcome State Fault Refusal :=
  match s.ev with
  | .spillRefill t => .next (s.refillStep t)
  | _ => .next s

/-- Tokens of resident blocks that wait for a reservation are admitted (05 R103). -/
def execInstanceAdmit (s : State) : Host.Outcome State Fault Refusal :=
  match s.ev with
  | .instanceAdmit t => .next (s.admitAll t)
  | _ => .next s

end Sys2Proof.Machine
end

