-- ==== Sys2Proof/Machine/Sched.lean ====
section
/-! DEFINITION. The block scheduler (05 R111 to R115), the load of a block and its validation (05 R96 to R101, 02 R39, R40). -/

namespace Sys2Proof.Machine

/-! ### Candidates (05 R111) -/

/-- A waiting thread token as the scheduler sees it; `stored` says that it lies in an entry. -/
structure Wanted where
  block : Nat
  frame : Nat
  iter : Nat
  stored : Bool
  deriving DecidableEq, Repr

/-- Whether a token is counted by the scheduler: a thread token, or a trap token, whose handler block must load (18 R371, log entry
32). -/
def wantsLoad (g : Tag) (trap : Bool) : Bool := g.kind = .thread || trap

/-- The waiting thread tokens of a tile for blocks that are in no slot. -/
def State.wanted (s : State) (t : TileId) : List Wanted :=
  let x := s.tile t
  let mk := fun (p : Place) (g : Tag) (st : Bool) => Wanted.mk p.block g.frame.toNat g.iter.toNat st
  let ent := (x.entries.filter (fun e => wantsLoad e.tok.tag e.trap)).map (fun e => mk e.place e.tok.tag true)
  let buf := (x.spillBuf.filter (fun a => wantsLoad a.tok.tag a.trap)).map (fun a => mk a.place a.tok.tag false)
  let mem := match s.regionOf t with
    | none => []
    | some _ => x.spilled.filterMap (fun p =>
      let a := s.spilledTok t p
      if wantsLoad a.tok.tag p.trap then some (mk a.place a.tok.tag false) else none)
  (ent ++ buf ++ mem).filter (fun w => !x.slots.any (fun sl => sl.st ≠ .free && sl.block = w.block))

/-- Whether one list of numbers comes before another in the order of the first difference. -/
def lexLt : List Nat → List Nat → Bool
  | [], [] => false
  | [], _ => true
  | _, [] => false
  | a :: as, b :: bs => a < b || (a = b && lexLt as bs)

/-- What the six rules compare, the picked candidate's the least: its age, whether a token of it lies outside the entries, its waiting
count, its lowest frame, that frame's lowest iteration, its index. -/
def rankOf (ws : List Wanted) (age limit b : Nat) : List Nat :=
  let mine := ws.filter (fun w => w.block = b)
  let fr := (minBy id (mine.map (·.frame))).getD 0
  let it := (minBy id ((mine.filter (fun w => w.frame = fr)).map (·.iter))).getD 0
  [if age ≥ limit then 15 - age else 16, if mine.all (·.stored) then 0 else 1, 2 ^ 64 - mine.length, fr, it, b]

/-- The candidate that the rules pick. -/
def pickOf (rank : Nat → List Nat) : List Nat → Option Nat
  | [] => none
  | b :: bs =>
    match pickOf rank bs with
    | none => some b
    | some c => if lexLt (rank c) (rank b) then some c else some b

/-- Whether a block has an open pass on a tile. -/
def Tile.blockOpen (x : Tile) (b : Nat) : Bool := x.passes.any (fun p => p.block = b)

/-- Whether a slot is free, or holds an idle block. -/
def Slot.usable (x : Tile) (sl : Slot) : Bool := sl.st = .free || (sl.st = .resident && !x.blockOpen sl.block)

/-- The slot that a load takes: a free one, the lowest of several (log entry 52), else that of the idle block that has gone longest
without firing; a block that has not fired since its load counts from the load's end (log entry 53). -/
def Tile.victim (x : Tile) : Option Nat :=
  match x.slots.zipIdx.find? (fun p => p.1.st = .free) with
  | some p => some p.2
  | none => (minBy (fun (p : Slot × Nat) => p.1.firedAt * 8 + p.2) (x.slots.zipIdx.filter (fun p => p.1.usable x))).map (·.2)

/-- The index of the record that the next logged event of a context must match, at REPLAY and in a rerun (17 R354, R360). -/
def State.nextRecord (s : State) (c d : Nat) : Option Nat :=
  let g := (s.cd c d).ring
  match s.level c with
  | 2 => g.redo.map (·.1)
  | 3 => if g.head < g.tail then some g.head.toNat else none
  | _ => none

/-- The decision of a tile: the block and the slot; a recorded pick is followed (05 R113). -/
def State.decide (s : State) (t : TileId) : Option (Nat × Nat) :=
  let x := s.tile t
  let ws := s.wanted t
  let cands := (ws.map (·.block)).eraseDups
  let free := (pickOf (rankOf' ws x) cands).bind (fun b => x.victim.map (fun k => (b, k)))
  match s.nextRecord (s.ctxOf t) t.die with
  | none => free
  | some i =>
    let r := s.recordAt (s.ctxOf t) t.die i
    let b := numAt r 0x18 2
    let k := numAt r 0x1A 1 % 8
    if numAt r 0 1 = 4 && numAt r 2 2 = t.tile then
      -- the recorded pick waits until its block has a waiting token and its slot can be taken
      (if cands.contains b && (x.slots.getD k {}).usable x then some (b, k) else none)
    else free
where
  /-- The rank of a block with its age. -/
  rankOf' (ws : List Wanted) (x : Tile) (b : Nat) : List Nat :=
    rankOf ws (NMap.getD x.ages b 0) (fieldOf (s.die t.die).bsched 0 4) b

/-- The ages after a decision: the picked block's 0, every other candidate's one more, at most 15. -/
def agesAfter (ages : NMap Nat) (cands : List Nat) (b : Nat) : NMap Nat :=
  (cands.filter (· ≠ b)).foldl (fun m c => NMap.put m c (min 15 (NMap.getD ages c 0 + 1))) []

/-- A decision of the block scheduler: the pick is logged, the slot's idle block is evicted with its histograms, the load begins. -/
def State.scheduleStep (s : State) (t : TileId) : State :=
  match s.decide t, s.regionOf t with
  | some (b, k), some r =>
    let c := r.launch.ctx
    let x := s.tile t
    let ws := s.wanted t
    let sl := x.slots.getD k {}
    let ev := sl.st = .resident
    let fr := (minBy id ((ws.filter (fun w => w.block = b)).map (·.frame))).getD 0
    let det := b + k * 2 ^ 16 + (if ev then 2 ^ 19 + sl.block * 2 ^ 20 else 0)
    match s.logEvent c t.die ⟨4, 0, t.tile, BitVec.ofNat 64 fr, 0, det, 0⟩ with
    | .wait s => s.post (.schedulerDecision t)
    | .go s =>
      let s := if ev then s.histSpillAll t k else s
      let s := s.modTile t (fun x => { x with
        ages := agesAfter x.ages (ws.map (·.block)).eraseDups b,
        slots := setAt x.slots k { st := .loading, ctx := c, block := b } })
      (s.post (.blockLoadDone t k)).due (.schedulerDecision t)
  | _, _ => s

/-! ### Validation (05 R96, R99, 02 R39) -/

/-- Whether a tile kind accepts a class and minor (05 R96, 12 R250). -/
def kindAccepts (k : TileKind) (major minor : Nat) : Bool :=
  let all := major ≤ 2 || (0x0A ≤ major && major ≤ 0x13) || major = 0x19 || (0x26 ≤ major && major ≤ 0x29)
  all || (match k with
    | .ag => major = 0x03 || (0x14 ≤ major && major ≤ 0x18) || major = 0x1A || (0x21 ≤ major && major ≤ 0x23) || major = 0x2A
        || major = 0x25 || (major = 0x1B && (minor = 0 || minor ≥ 3)) || (major = 0x1D && minor ≤ 1)
    | .cp => (0x04 ≤ major && major ≤ 0x09) || (major = 0x1B && minor ≠ 0) || (major = 0x1D && minor = 2) || major = 0x1C
        || major = 0x24 || (0x1E ≤ major && major ≤ 0x20)
    | .rd => major = 0x05 || (0x06 ≤ major && major ≤ 0x09 && major ≠ 0x07) || major = 0x1F || major = 0x20 || major = 0x25
    | .none => false)

/-- A block record: words, side entries, descriptor (02 R47). -/
structure BlockRec where
  words : List (BitVec 32)
  sides : List (BitVec 64)
  desc : Bytes
  deriving DecidableEq, Repr
def State.readBlock (s : State) (l : Launch) (b : Nat) : BlockRec :=
  let bs := s.readVa l.ctx (blockAddr l b) 448
  ⟨(List.range 32).map (fun n => BitVec.ofNat 32 (numAt bs (4 * n) 4)),
   (List.range 32).map (fun n => BitVec.ofNat 64 (numAt bs (128 + 8 * n) 8)), sliceB bs 384 64⟩

/-- Whether an image header passes, for a block index (02 R39 check 0x10, R47). -/
def headerOk (h : Bytes) (b : Nat) : Bool := numAt h 0 4 = 0x48534C42 && numAt h 4 2 = 1 && b < numAt h 6 2

/-- Whether the descriptor of a block breaks 05 R99 on a tile. -/
def descBad (d : Bytes) (blocks dataOff imgSize tile : Nat) : Bool :=
  let ks := List.range 8
  byteAt d 3 ≠ 0 || (sliceB d 0x34 12).any (· ≠ 0)
    || dQuota d = 0 || dQuota d > 64
    || dCol0 d > 31 || dCol1 d > 31 || dRow0 d > 31 || dRow1 d > 31 || dCol0 d > dCol1 d || dRow0 d > dRow1 d
    || ks.any (fun k =>
        let x := dExit d k
        let kind := bitsN x 30 2
        bitsN x 22 8 ≠ 0 || (bitN (dExits d) k != (kind ≠ 0))
          || (kind = 1 && bitsN x 0 16 ≥ blocks)
          || (kind = 2 && (bitsN x 0 16 ≠ 0 || bitsN x 19 3 ≠ 0))
          || ((kind = 0 || kind = 3) && (bitsN x 0 16 ≠ 0 || bitsN x 16 6 ≠ 0)))
    || (dMask d ≠ 0 && (dImage d % 64 ≠ 0 || dataOff + dImage d + 1024 > imgSize))
    || ks.any (fun k =>
        let a := dArc d k
        if a < 128 then a ≠ 0 else a - 128 ≥ 0x50 && a ≠ 0xFF)
    || !inBounds d tile

/-- The station of a block record. -/
def BlockRec.at_ (r : BlockRec) (n : Nat) : BitVec 32 × BitVec 64 := (r.words.getD n 0, r.sides.getD n 0)

/-- Whether a station is empty (02 R38). -/
def emptyStation (w : BitVec 32) (e : BitVec 64) : Bool := w = 0 && e = 0

/-- Whether a destination names something that is not there: check 0x05. `chans` are the tile's bound channels. -/
def BlockRec.absent (r : BlockRec) (chans : List Nat) (d : Nat) : Bool :=
  if d < 0x40 then emptyStation (r.at_ (d / 2)).1 (r.at_ (d / 2)).2
  else if d < 0x48 then !bitN (dExits r.desc) (d - 0x40)
  else if d < 0x50 then !chans.contains (d - 0x48)
  else false

/-- Whether a destination names a side that holds no token: check 0x06. -/
def BlockRec.noSide (r : BlockRec) (d : Nat) : Bool :=
  d < 0x40 && (let w := (r.at_ (d / 2)).1; if d % 2 = 1 then fieldOf w 22 2 ≠ 0 else fieldOf w 24 2 ≠ 0)

/-- A destination with its arc followed: the arc itself fails when it is not bound. -/
def BlockRec.follow (r : BlockRec) (d : Nat) : Option Nat :=
  if isArc d then (if dArc r.desc (d - 0x58) < 128 then none else some (arcTarget r.desc d)) else some d

/-- The port code of an island minor (12 R244). -/
def portOf (major minor : Nat) : Nat :=
  if major = 0x1C then 2
  else if (major = 0x1B && (minor = 0 || minor = 3)) || (major = 0x1D && minor ≤ 1) then 0
  else 1

/-- The context checks 0x05, 0x06 and 0x0F of a station, and the level check of SPAWN and JOIN (06 R136, R138): true where the
check FAILS. -/
def State.contextFails (s : State) (l : Launch) (x : Tile) (r : BlockRec) (code major minor : Nat) (f : Fields) : Bool :=
  let ds := allDests major minor f
  let chans := x.channels.map (·.1)
  match code with
  | 0x05 =>
    ds.any (fun d => match r.follow d with
      | none => true
      | some e => r.absent chans e)
    || (major = 0x10 && (List.range (f.litBits 0 3 + 1)).any (fun i =>
        0x40 ≤ f.dstA.toNat && f.dstA.toNat < 0x48 && (f.dstA.toNat + i ≥ 0x48 || !bitN (dExits r.desc) (f.dstA.toNat + i - 0x40))))
    || (major = 0x0E && (f.litBits 0 16 ≥ l.blocks || !s.imageSide l (f.litBits 0 16) (f.litBits 16 6)))
    || (0x1B ≤ major && major ≤ 0x1D && (match NMap.find x.channels (f.litBits 0 3) with
      | none => true
      | some b => fieldOf b 13 3 ≠ 4 || fieldOf b 24 2 ≠ portOf major minor))
  | 0x06 => ds.any (fun d => ((r.follow d).map r.noSide).getD false)
  | 0x0F => !kindAccepts x.kind major minor
  | 0x13 => (major = 0x0E && f.litBits 22 3 ≥ l.levels.length) || (major = 0x0F && f.litBits 0 3 ≥ l.levels.length)
  | _ => false

/-- The codes of a station's checks in the order of 02 R39. -/
def stationChecks : List Nat :=
  [0x01, 0x02, 0x03, 0x04, 0x05, 0x06, 0x07, 0x08, 0x09, 0x0A, 0x0B, 0x0C, 0x0D, 0x0E, 0x0F, 0x13, 0x15]

/-- The first check that a station fails. -/
def State.stationCheck (s : State) (l : Launch) (x : Tile) (r : BlockRec) (n : Nat) : Option Nat :=
  let (w, e) := r.at_ n
  if emptyStation w e then none
  else
    let f := fieldsOf w e
    stationChecks.find? (fun c =>
      stationFails c (majorOf w) (minorOf e) f || s.contextFails l x r c (majorOf w) (minorOf e) f)

/-- Whether an exit of a block leads to a block whose bounds exclude the tile, or to a channel that the tile does not bind
(05 R99, check 0x05). -/
def State.exitFails (s : State) (l : Launch) (x : Tile) (d : Bytes) (tile : Nat) : Bool :=
  (List.range 8).any (fun k =>
    let v := dExit d k
    match bitsN v 30 2 with
    | 1 => !inBounds (s.imageDesc l (bitsN v 0 16)) tile
    | 2 => !(x.channels.map (·.1)).contains (bitsN v 16 3)
    | _ => false)

/-- The first failing check of a block on a tile, with its station. The spec names no place in the order, and no station, for the failure
of an exit's target (check 0x05, 05 R99): the model reports it after 0x12 and before n0, with station 0 (log entry 55). -/
def State.blockCheck (s : State) (l : Launch) (t : TileId) (b : Nat) : Option (Nat × Nat) :=
  let x := s.tile t
  if !headerOk (s.readVa l.ctx l.image 64) b then some (0x10, 0)
  else
    let r := s.readBlock l b
    if descBad r.desc l.blocks l.dataOff l.imgSize t.tile then some (0x12, 0)
    else if s.exitFails l x r.desc t.tile then some (0x05, 0)
    else (List.range 32).findSome? (fun n => (s.stationCheck l x r n).map (fun c => (c, n)))

/-! ### A load ends (05 R101) -/

/-- The state registers that a block's mask names, written from its state image. -/
def State.loadSregs (s : State) (l : Launch) (t : TileId) (d : Bytes) : State :=
  (List.range 8).foldl (fun s k =>
    if bitN (dMask d) k then
      s.writeSreg t k 0 (s.readVa l.ctx (l.image + l.dataOff + dImage d + 128 * k) 128)
    else s) s

/-- Whether a context stands in a precise stop (19 R387): halted with no stopping trap pending. -/
def State.precise (s : State) (c : Nat) : Bool := (s.ctx c).st = .halted && !s.stopPending c

/-- The end of a load: the block is checked; its state registers are written, it is resident and its waiting tokens are delivered, or
its slot is free again and the configuration fault is raised. The cycles without firing of 05 R111 and R115 count from here (log entry
53). -/
def State.loadStep (s : State) (t : TileId) (k : Nat) : State :=
  let sl := (s.tile t).slots.getD k {}
  match s.regionOf t with
  | none => s
  | some r =>
    let l := r.launch
    if sl.st ≠ .loading then s
    else match s.blockCheck l t sl.block with
      | some (code, n) =>
        let s := s.modTile t (fun x => { x with slots := setAt x.slots k {} })
        (s.raiseFault { index := 0, code := code, sync := false, ctx := l.ctx, die := t.die, tile := some t.tile,
                        region := (s.tile t).region, block := sl.block, detail := leBytes 2 sl.block ++ leBytes 1 n }).due
          (.schedulerDecision t)
      | none =>
        let b := s.readBlock l sl.block
        let s := s.loadSregs l t b.desc
        let s := s.modTile t (fun x => { x with slots := setAt x.slots k {
          st := .resident, ctx := l.ctx, block := sl.block, words := b.words, sides := b.sides, desc := b.desc, firedAt := s.cycles } })
        let s := s.due (.schedulerDecision t)
        if s.precise l.ctx then s else s.admitAll t

/-- The register BSLOT of a slot (05 R115). -/
def State.bslot (s : State) (t : TileId) (k : Nat) : BitVec 64 :=
  let x := s.tile t
  let sl := x.slots.getD k {}
  if sl.st = .free then 0
  else
    let open_ := (x.passes.filter (fun p => p.block = sl.block)).length
    let idle := if sl.st = .loading then 0 else min 0xFFFF (s.cycles - sl.firedAt)
    BitVec.ofNat 64 (2 ^ 63 + (if sl.st = .loading then 2 ^ 62 else 0) + sl.ctx % 2 ^ 12 * 2 ^ 48 + sl.block % 2 ^ 16 * 2 ^ 32
      + open_ % 2 ^ 10 * 2 ^ 16 + idle)

/-! ### The steps -/

def execSchedulerDecision (s : State) : Host.Outcome State Fault Refusal :=
  match s.ev with
  | .schedulerDecision t => .next (s.scheduleStep t)
  | _ => .next s

def execBlockLoadDone (s : State) : Host.Outcome State Fault Refusal :=
  match s.ev with
  | .blockLoadDone t k => .next (s.loadStep t k)
  | _ => .next s

end Sys2Proof.Machine
end

