-- ==== Sys2Proof/Machine/Launch.lean ====
section
/-! DEFINITION. Work queues (06 R128 to R130), the checks of a launch record (06 R127), residency of its leases (09 R192 to R194), the
configuration of its region (06 R131), completion by waves and phases (06 R132 to R135). -/

namespace Sys2Proof.Machine

/-! ### A refused launch (06 R127) -/

/-- Why a launch is refused: check code, structure, offset of the failing field, index of the entry. -/
structure LaunchError where
  code : Nat := 0x11
  struct : Nat := 0
  off : Nat
  idx : Nat := 0
  deriving DecidableEq, Repr

/-- A queue changed. -/
def State.modQueue (s : State) (d q : Nat) (g : Queue → Queue) : State :=
  s.modDie d (fun x => { x with queues := NMap.put x.queues q (g (NMap.getD x.queues q {})) })

/-- A queue of a die. -/
def State.queue (s : State) (d q : Nat) : Queue := NMap.getD (s.die d).queues q {}

/-- Whether a context has a region or a launch under way. -/
def State.busy (s : State) (c : Nat) : Bool :=
  s.regions.any (fun p => p.2.launch.ctx = c) || s.launches.any (fun p => p.2.ctx = c)

/-- A running context with no region left and no launch under way is idle; at ORDERED and above a boundary is taken
(18 R366, 17 R358). -/
def State.settleCtx (s : State) (c : Nat) : State :=
  if (s.ctx c).st = .running && !s.busy c then
    let s := s.modCtx c (fun x => { x with st := .idle })
    if s.level c = 0 then s else s.due (.intervalBoundary c 1)
  else s

/-- A launch taken off: its slot is freed, its confirmed ranges leave the active lists, its queue is put in error. -/
def State.dropLaunch (s : State) (id : Nat) (l : Launch) : State :=
  let s := { s with launches := NMap.del s.launches id }
  let s := s.dropLeases l.ctx l.active
  let s := match l.slot with
    | none => s
    | some k => (s.modDie l.die (fun x => { x with resSlots := NMap.del x.resSlots k })).dropEvents (fun e => e = Event.reswaitTimeout l.die k)
  let s := s.modQueue l.die l.queue (fun q => { q with ctl := withBit q.ctl 62 })
  (s.settleCtx l.ctx).due (.queueDecision l.die)

/-- A launch refused by a check: Curator posts the event (06 R127, 20 R411). -/
def State.refuse (s : State) (id : Nat) (l : Launch) (e : LaunchError) : State :=
  (s.dropLaunch id l).curEvent l.die 0x0E l.ctx (l.queue + l.head.toNat * 2 ^ 16)
    ([BitVec.ofNat 8 e.code, BitVec.ofNat 8 e.struct] ++ leBytes 2 e.off ++ leBytes 4 e.idx)

/-! ### Work queues -/

/-- The ring entry of a queue's head. -/
def State.headRecord (s : State) (d q : Nat) : Bytes :=
  let r := s.queue d q
  s.readVa (fieldOf r.ctl 0 12) (fieldOf r.base 7 57 * 128 + 128 * (r.head.toNat % 2 ^ fieldOf r.ctl 24 4)) 128

/-- Whether a queue is enabled and without error, and holds a record that has not been taken. -/
def Queue.offers (q : Queue) : Bool := bitN q.ctl.toNat 63 && !bitN q.ctl.toNat 62 && q.head ≠ q.tail

/-- The launch that a queue's head would be. -/
def State.headLaunch (s : State) (d q : Nat) : Launch :=
  let r := s.queue d q
  { id := 0, ctx := fieldOf r.ctl 0 12, die := d, queue := q, head := r.head, irq := bitN r.ctl.toNat 61,
    record := s.headRecord d q, waitLevel := r.met }

/-- The first bad page of a range at its owner: the first address that no fitting page of the context covers (09 R192). The owner in
another package answers from outside (log entry 4). -/
def pageReach (ps : List PageMap) (w : Bool) : Nat → Nat → Nat
  | 0, a => a
  | k + 1, a =>
    match ps.find? (fun p => pdValid p.desc && p.va ≤ a && a < p.va + pdSize p.desc && (pdW p.desc || !w)) with
    | none => a
    | some p => pageReach ps w k (p.va + pdSize p.desc)
def State.badPage (s : State) (c : Nat) (r : LeaseRange) : Option Nat :=
  if r.size = 0 || vaPkg r.base ≠ s.pkg then none
  else
    let ps := (s.cd c (vaDie r.base)).pages
    let e := pageReach ps r.w (ps.length + 1) r.base
    if e < r.base + r.size then some (e / 65536 * 65536) else none

/-! ### Reading a launch record (06 R123 to R127) -/

/-- The narrowest scope that a level's domain allows (06 R121). -/
def leastScope (dom : Nat) : Nat :=
  match dom with
  | 0 | 1 => 4
  | 2 => 3
  | 3 => 2
  | 4 => 1
  | _ => 0

/-- The level words of a record. -/
def recLevel (r : Bytes) (k : Nat) : BitVec 16 := BitVec.ofNat 16 (numAt r (0x50 + 2 * k) 2)

/-- A check with the error that its failure gives. -/
def chk (b : Bool) (e : LaunchError) : Bool × LaunchError := (b, e)

/-- The first of some checks that fails. -/
def firstErr (l : List (Bool × LaunchError)) : Option LaunchError := (l.find? (·.1)).map (·.2)

/-- The checks of the record itself, in the order of 06 R127. -/
def recordErr (r : Bytes) (level : Nat) : Option LaunchError :=
  let n := numAt r 0x49 1
  let ks := List.range n
  let dom := fun (k : Nat) => levelDomain (recLevel r k)
  firstErr ([
    chk (numAt r 0x4A 1 / 8 ≠ 0) ⟨0x11, 0, 0x4A, 0⟩,
    chk (numAt r 0x4C 2 / 1024 ≠ 0) ⟨0x11, 0, 0x4C, 0⟩,
    chk ((sliceB r 0x68 24).any (· ≠ 0)) ⟨0x11, 0, 0x68, 0⟩]
  ++ (List.range 8).map (fun k =>
    chk (if k < n then fieldOf (recLevel r k) 12 4 ≠ 0 else recLevel r k ≠ 0) ⟨0x11, 0, 0x50 + 2 * k, 0⟩)
  ++ [
    chk (numAt r 0x44 2 = 0 || numAt r 0x44 2 > 1024) ⟨0x11, 0, 0x44, 0⟩,
    chk (numAt r 0x46 1 > 16) ⟨0x11, 0, 0x46, 0⟩,
    chk (numAt r 0x48 1 < 16 || numAt r 0x48 1 > 32) ⟨0x11, 0, 0x48, 0⟩,
    chk (n = 0 || n > 8) ⟨0x11, 0, 0x49, 0⟩,
    chk (numAt r 0x4E 2 = 0 || numAt r 0x4E 2 > 1024) ⟨0x11, 0, 0x4E, 0⟩,
    chk (numAt r 0 8 % 64 ≠ 0) ⟨0x11, 0, 0, 0⟩,
    chk (numAt r 8 8 % 64 ≠ 0) ⟨0x11, 0, 8, 0⟩,
    chk (numAt r 0x28 8 % 4096 ≠ 0) ⟨0x11, 0, 0x28, 0⟩,
    chk (numAt r 0x30 8 % 64 ≠ 0) ⟨0x11, 0, 0x30, 0⟩,
    chk (numAt r 0x38 8 % 64 ≠ 0) ⟨0x11, 0, 0x38, 0⟩]
  ++ ks.map (fun k =>
    chk (dom k > 5 || levelScope (recLevel r k) > 4 || levelScope (recLevel r k) < leastScope (dom k) || (k > 0 && dom k < dom (k - 1)))
      ⟨0x11, 0, 0x50 + 2 * k, 0⟩)
  ++ [
    chk (sumN (ks.map (fun k => levelWidth (recLevel r k))) > 64) ⟨0x11, 0, 0x50, 0⟩,
    chk (numAt r 0x4A 1 % 4 ≠ level) ⟨0x11, 0, 0x4A, 0⟩,
    chk (numAt r 0x4C 2 % 1024 + numAt r 0x4E 2 > 1024) ⟨0x11, 0, 0x4C, 0⟩])

/-- The image's size, block count, block table and data offset, put into a launch. -/
def Launch.withImage (l : Launch) (h : Bytes) : Launch :=
  { l with image := numAt l.record 0 8, blocks := numAt h 6 2, blockTable := numAt h 8 4, dataOff := numAt h 0x0C 4, imgSize := numAt h 0x14 4 }

/-- The kind of a tile in a region table entry. -/
def kindCodeAt (e : Bytes) (i : Nat) : Nat := bitsN (byteAt e (i / 4)).toNat (2 * (i % 4)) 2
def tileKindOf (n : Nat) : TileKind :=
  match n with
  | 1 => .ag | 2 => .cp | 3 => .rd | _ => .none

/-- The region table entries of a record: die and entry. -/
def State.tableOf (s : State) (c : Nat) (r : Bytes) : List (Nat × Bytes) :=
  let ds := (List.range 8).filter (fun d => bitN (byteAt r 0x4B).toNat d)
  ds.zipIdx.map (fun p => (p.1, s.readVa c (numAt r 8 8 + 320 * p.2) 320))

/-- The edges' island ranges (01 R12). -/
def sameEdge (a b : Nat) : Bool := a < 104 && b < 104 && a / 26 = b / 26

/-- The islands of a group by its lead and the byte of its binding (12 R245). -/
def islandGroup (b : BitVec 64) : List Nat :=
  (List.range ((fieldOf b 27 1 + 1) * (fieldOf b 28 2 + 1))).map (· + fieldOf b 16 8)

/-- The slots of a port (12 R244). -/
def portSlots (p : Nat) : Nat := if p = 0 then 4 else if p = 1 then 16 else 8

/-- Whether a channel binding breaks 06 R124 or 12 R245: `e` its table entry, `bs` the bindings of its die, `i` its place. -/
def State.bindingErr (s : State) (l : Launch) (e : Bytes) (bs : List (BitVec 64)) (i : Nat) (b : BitVec 64) : Option LaunchError :=
  let t := fieldOf b 0 10
  let peer := fieldOf b 13 3
  let k := fieldOf b 16 8
  let at_ := fun (o : Nat) => LaunchError.mk 0x11 2 o i
  let others := (bs.zipIdx.filter (fun p => p.2 < i)).map (·.1)
  let isle := peer = 4
  let nb := neighbour t peer
  let grp := islandGroup b
  firstErr [
    (fieldOf b 54 10 ≠ 0, at_ 6),
    (kindCodeAt e t = 0, at_ 0),
    (others.any (fun c => fieldOf c 0 13 = fieldOf b 0 13), at_ 1),
    (peer > 4, at_ 1),
    (!isle && fieldOf b 16 16 ≠ 0, at_ 2),
    (!isle && (match nb with
      | none => true
      | some n => kindCodeAt e n = 0), at_ 1),
    (!isle && (fieldOf b 32 16 ≥ l.blocks || !s.imageSide l (fieldOf b 32 16) (fieldOf b 48 6)
      || !inBounds (s.imageDesc l (fieldOf b 32 16)) (nb.getD 0)), at_ 4),
    (isle && fieldOf b 32 22 ≠ 0, at_ 4),
    (isle && (fieldOf b 26 1 ≠ 0 || fieldOf b 30 2 ≠ 0 || fieldOf b 24 2 = 3 || fieldOf b 28 2 = 3), at_ 3),
    (isle && !(sameEdge k (k + grp.length - 1) && grp.all (fun n => bitN (byteAt e (0x100 + n / 8)).toNat (n % 8))), at_ 2),
    (isle && others.any (fun c => fieldOf c 13 3 = 4 && fieldOf c 16 8 = k && fieldOf c 27 3 ≠ fieldOf b 27 3), at_ 3),
    (isle && others.any (fun c => fieldOf c 13 3 = 4 && fieldOf c 16 8 ≠ k && (islandGroup c).any (fun n => grp.contains n)), at_ 2),
    (isle && (others.filter (fun c => fieldOf c 13 3 = 4 && fieldOf c 16 8 = k && fieldOf c 24 2 = fieldOf b 24 2)).length
      ≥ portSlots (fieldOf b 24 2), at_ 3)]
where
  /-- The neighbour tile that a peer code names, when there is one. -/
  neighbour (t peer : Nat) : Option Nat :=
    match peer with
    | 0 => if t ≥ 32 then some (t - 32) else none
    | 1 => if t % 32 < 31 then some (t + 1) else none
    | 2 => if t < 992 then some (t + 32) else none
    | 3 => if t % 32 > 0 then some (t - 1) else none
    | _ => none

/-- The bindings of a table entry. -/
def State.bindingsOf (s : State) (c : Nat) (e : Bytes) : List (BitVec 64) :=
  (List.range (numAt e 0x118 2)).map (fun i => BitVec.ofNat 64 (leNat (s.readVa c (numAt e 0x110 8 + 8 * i) 8)))

/-- The first failing check of the region table and its bindings (06 R124). -/
def State.tableErr (s : State) (l : Launch) (tab : List (Nat × Bytes)) : Option LaunchError :=
  let ents := tab.zipIdx.findSome? (fun p =>
    firstErr [
      ((sliceB p.1.2 0x10D 3).any (· ≠ 0), ⟨0x11, 1, 0x100, p.2⟩),
      (numAt p.1.2 0x118 2 > 8192, ⟨0x11, 1, 0x118, p.2⟩),
      ((sliceB p.1.2 0x11A 38).any (· ≠ 0), ⟨0x11, 1, 0x11A, p.2⟩)])
  match ents with
  | some e => some e
  | none =>
    if tab.all (fun p => (List.range 1024).all (fun i => kindCodeAt p.2 i = 0)) then some ⟨0x11, 0, 0x4B, 0⟩
    else tab.findSome? (fun p =>
      let bs := s.bindingsOf l.ctx p.2
      bs.zipIdx.findSome? (fun b => s.bindingErr l p.2 bs b.2 b.1))

/-- A lease entry of a record, and whether it breaks 09 R190. -/
def leaseOf (b : Bytes) : LeaseRange := ⟨numAt b 0 8, numAt b 8 8 % 2 ^ 40, bitN (numAt b 8 8) 40, 0⟩
def leaseErr (b : Bytes) (i : Nat) : Option LaunchError :=
  let r := leaseOf b
  firstErr [
    (r.base % 65536 ≠ 0, ⟨0x11, 3, 0, i⟩),
    (r.size = 0 || r.size % 65536 ≠ 0 || numAt b 8 8 / 2 ^ 41 ≠ 0 || r.base / 2 ^ 51 ≠ (r.base + r.size - 1) / 2 ^ 51, ⟨0x11, 3, 8, i⟩)]

/-- The window entries of a record: window, base, bound. -/
def State.windowsOf (s : State) (c : Nat) (r : Bytes) : NMap (Nat × Nat) :=
  ((List.range 8).filter (fun k => bitN (byteAt r 0x47).toNat k)).map (fun k =>
    let b := s.readVa c (numAt r 0x18 8 + 16 * k) 16
    (k, (numAt b 0 8, numAt b 8 8)))
def windowErr (k base bound : Nat) : Option LaunchError :=
  firstErr [(base % 64 ≠ 0, ⟨0x11, 4, 0, k⟩), (bound > 2 ^ 32, ⟨0x11, 4, 8, k⟩)]

/-- Whether a region has a tile: every package of its range has the tiles of the table. -/
def tableHas (tab : List (Nat × Bytes)) (die tile : Nat) : Bool := tab.any (fun p => p.1 = die && kindCodeAt p.2 tile ≠ 0)

/-- The first failing check of an initial-token entry (06 R125, 04 R73). -/
def State.tokenErr (s : State) (l : Launch) (tab : List (Nat × Bytes)) (b : Bytes) (i : Nat) : Option LaunchError :=
  let r := sliceB b 0x20 160
  let at_ := fun (o : Nat) => LaunchError.mk 0x11 5 o i
  let p := numAt b 0 2
  firstErr [
    (p / 1024 ≠ 0 || p < l.pkgFirst || p ≥ l.pkgFirst + l.pkgCount, at_ 0),
    (numAt b 2 1 ≥ 8, at_ 2),
    ((sliceB b 3 29).any (· ≠ 0), at_ 3),
    (numAt r 8 2 / 4096 ≠ 0, at_ 0x28),
    (numAt r 0x0D 1 % 8 > 4 || numAt r 0x0D 1 / 32 ≠ 0, at_ 0x2D),
    (numAt r 0x0E 1 > 128, at_ 0x2E),
    (numAt r 0x0F 1 / 64 ≠ 0, at_ 0x2F),
    (numAt r 0x12 2 / 1024 ≠ 0, at_ 0x32),
    (numAt r 0x1C 4 ≠ 0, at_ 0x3C),
    (!tableHas tab (numAt b 2 1) (numAt r 0x12 2), at_ 0x32),
    (numAt r 0x10 2 ≥ l.blocks, at_ 0x30),
    (!s.imageSide l (numAt r 0x10 2) (numAt r 0x0F 1 % 64), at_ 0x2F)]

/-- The initial-token entries of a record. -/
def State.tokensOf (s : State) (c : Nat) (r : Bytes) : List Bytes :=
  (List.range (numAt r 0x44 2)).map (fun i => s.readVa c (numAt r 0x20 8 + 192 * i) 192)

/-- The slice of a spill region in bytes (04 R81). -/
def sliceBytes (log n : Nat) : Nat := 2 ^ log / 2 ^ (if n ≤ 1 then 0 else Nat.log2 (n - 1) + 1)

/-- Whether some mapped page of a range has another kind than UN (04 R81). -/
def State.notUn (s : State) (c a n : Nat) : Bool :=
  vaPkg a = s.pkg && (s.cd c (vaDie a)).pages.any (fun p =>
    pdValid p.desc && p.va < a + n && a < p.va + pdSize p.desc && pdKind p.desc ≠ 2)

/-- A launch read from its record, or the first check that it fails. -/
def State.readLaunch (s : State) (l : Launch) : Except LaunchError Launch :=
  let r := l.record
  let c := l.ctx
  let h := s.readVa c (numAt r 0 8) 64
  -- the image header is checked first (02 R39)
  if numAt h 0 4 ≠ 0x48534C42 then .error ⟨0x10, 6, 0, 0⟩
  else if numAt h 4 2 ≠ 1 then .error ⟨0x10, 6, 4, 0⟩
  else match recordErr r (s.level c) with
    | some e => .error e
    | none =>
      let tab := s.tableOf c r
      let ls := (List.range (numAt r 0x46 1)).map (fun i => s.readVa c (numAt r 0x10 8 + 16 * i) 16)
      let ws := s.windowsOf c r
      let toks := s.tokensOf c r
      let dies := tab.map (·.1)
      let l := { (l.withImage h) with
        levels := (List.range (numAt r 0x49 1)).map (recLevel r),
        windows := ws, tokens := toks.zipIdx.map (fun p => (p.2, p.1)),
        kinds := tab.map (fun p => (p.1, (List.range 1024).map (kindCodeAt p.2))),
        islands := tab.map (fun p => (p.1, (List.range 104).filter (fun j => bitN (byteAt p.2 (0x100 + j / 8)).toNat (j % 8)))),
        channels := tab.map (fun p => (p.1, s.bindingsOf c p.2)),
        spillBase := numAt r 0x28 8, spillLog := numAt r 0x48 1, doneBar := numAt r 0x38 8,
        mode := numAt r 0x4A 1 % 4, fuse := bitN (byteAt r 0x4A).toNat 2, dies := dies,
        pkgFirst := numAt r 0x4C 2, pkgCount := numAt r 0x4E 2, tag := BitVec.ofNat 64 (numAt r 0x60 8),
        leases := ls.map leaseOf
          ++ [⟨numAt r 0 8, numAt h 0x14 4, false, 1⟩]
          ++ ws.map (fun w => ⟨w.2.1, w.2.2, false, 2⟩)
          ++ [⟨numAt r 0x28 8, 2 ^ numAt r 0x48 1, true, 3⟩] }
      let nTiles := sumN (l.kinds.map (fun k => (k.2.filter (· ≠ 0)).length))
      let big := s.level c ≥ 1 && dies.any (fun d =>
        Config.checkpointBytes (((NMap.getD l.kinds d []).filter (· ≠ 0)).length) ((NMap.getD l.islands d []).length)
          > 2 ^ fieldOf (s.cd c d).ring.shdSize 0 5 / 2)
      let err : Option LaunchError :=
        match s.tableErr l tab with
        | some e => some e
        | none => match ls.zipIdx.findSome? (fun p => leaseErr p.1 p.2) with
          | some e => some e
          | none => match ws.findSome? (fun w => windowErr w.1 w.2.1 w.2.2) with
            | some e => some e
            | none => match toks.zipIdx.findSome? (fun p => s.tokenErr l tab p.1 p.2) with
              | some e => some e
              | none =>
                if sliceBytes l.spillLog (l.pkgCount * nTiles) < 8192 || s.notUn c l.spillBase (2 ^ l.spillLog) then some ⟨0x11, 7, 0, 0⟩
                else if big then some ⟨0x11, 0, 0x4A, 0⟩
                else none
      match err with
      | some e => .error e
      | none => .ok l

/-- Whether every lease range of a launch is resident. -/
def State.resident (s : State) (l : Launch) : Bool := l.leases.all (fun r => (s.badPage l.ctx r).isNone)

/-! ### The queue unit's decision (06 R129, R130) -/

/-- Whether the next record that must be met allows a launch from a queue (06 R130). -/
def State.recordAllows (s : State) (c d q : Nat) : Bool :=
  match s.nextRecord c d with
  | none => true
  | some i =>
    let r := s.recordAt c d i
    numAt r 0 1 = 5 && numAt r 0x18 8 % 4096 = q

/-- Whether a queue's head waits for no barrier: it names none, or one that has reached its phase, or a misaligned address, for which the
check refuses the launch (06 R127). -/
def State.waitOver (s : State) (d q : Nat) : Bool :=
  let bar := numAt (s.headRecord d q) 0x30 8
  bar = 0 || bar % 64 ≠ 0 || (s.queue d q).met.isSome

/-- Whether a queue's head is eligible. -/
def State.eligibleQueue (s : State) (d q : Nat) : Bool :=
  let r := s.queue d q
  let c := fieldOf r.ctl 0 12
  let x := s.ctx c
  r.offers && s.waitOver d q
    && x.dies.contains d && (x.st = .idle || x.st = .running) && !s.bounding c
    && !s.launches.any (fun p => p.2.die = d && p.2.queue = q && p.2.slot.isSome)
    && s.recordAllows c d q

/-- Whether a decision may take an eligible head: while all 8 residency slots are held, one that would need a slot is passed over
(09 R193). -/
def State.takable (s : State) (d q : Nat) : Bool :=
  (s.die d).resSlots.length < 8 || (match s.readLaunch (s.headLaunch d q) with
    | .ok l => s.resident l
    | .error _ => true)

/-- The queues of a die with an eligible head. -/
def State.eligibleQueues (s : State) (d : Nat) : List Nat := ((s.die d).queues.map (·.1)).filter (s.eligibleQueue d)

/-- A queue's effective priority. -/
def Queue.prio (q : Queue) : Nat := min 7 (fieldOf q.ctl 16 3 + q.age / 32)

/-- The queue that a level's pointer serves next among its eligible queues, and the pointer after it. -/
def serve (t : Turn) (weight : Nat → Nat) (qs : List Nat) : Option (Nat × Turn) :=
  if qs.contains t.queue && t.served < weight t.queue then some (t.queue, { t with served := t.served + 1 })
  else
    let after := qs.filter (fun q => q > t.queue)
    match minBy id (if after.isEmpty then qs else after) with
    | none => none
    | some q => some (q, ⟨q, 1⟩)

/-- The queue that the next decision picks, its level and the level's pointer. -/
def State.pickQueue (s : State) (d : Nat) : Option (Nat × Nat × Turn) :=
  let qs := (s.eligibleQueues d).filter (s.takable d)
  match (sortBy (fun q => 7 - (s.queue d q).prio) qs).head? with
  | none => none
  | some top =>
    let p := (s.queue d top).prio
    (serve (NMap.getD (s.die d).turns p {}) (fun q => fieldOf (s.queue d q).ctl 20 4)
      (qs.filter (fun q => (s.queue d q).prio = p))).map (fun r => (r.1, p, r.2))

/-- Whether a queue's head waits on a barrier that has not been asked yet (06 R129). -/
def State.mustAsk (s : State) (d q : Nat) : Bool :=
  let r := s.queue d q
  let bar := numAt (s.headRecord d q) 0x30 8
  r.offers && bar ≠ 0 && bar % 64 = 0 && r.met.isNone && !r.asked

/-- Whether the queue unit has something to do: an eligible head, or a waiter to send (06 R129). -/
def State.queueDue (s : State) (d : Nat) : Bool :=
  !(s.eligibleQueues d).isEmpty || (s.die d).queues.any (fun p => s.mustAsk d p.1)

/-- The waiter of a queue's head sent to its barrier (06 R129). -/
def State.askBarrier (s : State) (d q : Nat) : State :=
  let r := s.queue d q
  let h := s.headRecord d q
  let bar := numAt h 0x30 8
  if s.mustAsk d q then
    let c := fieldOf r.ctl 0 12
    let s := (s.modQueue d q (fun x => { x with asked := true })).dieSent c d 0
    s.emitPkt d {
      typ := 0x02, addr := BitVec.ofNat 64 bar, to_ := BitVec.ofNat 13 (vaOwner bar), from_ := s.code d, inc := (s.die d).inc,
      ctx := BitVec.ofNat 12 c, op := .barWait (BitVec.ofNat 32 (numAt h 0x40 4)), tile := 4095, slot := q }
  else s

/-- The age of a queue that a decision passes over while its head is eligible (06 R129). -/
def State.passOver (s : State) (d q : Nat) : State := s.modQueue d q (fun x => { x with age := x.age + 1 })

/-- A decision stays due while a queue of the die offers a record: it takes place in every cycle in which a head is eligible (06 R129). -/
def State.decideAgain (s : State) (d : Nat) : State :=
  if (s.die d).queues.any (fun p => p.2.offers) then s.due (.queueDecision d) else s

/-- A decision of the queue unit: waiters are sent for heads that wait; one eligible head is taken. -/
def State.queueStep (s : State) (d : Nat) : State :=
  let s := ((s.die d).queues.map (·.1)).foldl (fun s q => s.askBarrier d q) s
  match s.pickQueue d with
  | none => ((s.eligibleQueues d).foldl (fun s n => s.passOver d n) s).decideAgain d
  | some (q, p, turn) =>
    let l := s.headLaunch d q
    match s.logEvent l.ctx d ⟨5, 2, 0, 0, 0, q + l.head.toNat * 2 ^ 32, 0⟩ with
    | .wait s => s.post (.queueDecision d)
    | .go s =>
      let s := ((s.eligibleQueues d).filter (· ≠ q)).foldl (fun s n => s.passOver d n) s
      let s := s.modQueue d q (fun x => { x with head := x.head + 1, age := 0, asked := false, met := none, taken := x.taken + 1 })
      let s := s.modDie d (fun x => { x with turns := NMap.put x.turns p turn })
      let s := if (s.ctx l.ctx).st = .idle then (s.modCtx l.ctx (fun x => { x with st := .running })).startHang l.ctx else s
      let s := s.catalogueAt l.ctx d 5 0 0 0 0xFFFF {} l.tag (leBytes 2 q ++ leBytes 4 l.head.toNat)
      let (id, s) := s.fresh
      let s := { s with launches := NMap.put s.launches id { l with id := id } }
      (s.post (.launchRecordCheck id)).decideAgain d

/-- ERR is set while more records are counted than the queue has entries (06 R128). -/
def Queue.judged (x : Queue) : Queue :=
  if (x.tail - x.head).toNat > 2 ^ fieldOf x.ctl 24 4 then { x with ctl := withBit x.ctl 62 } else x

/-- A write of TAIL (06 R128): the doorbell. -/
def State.tailWrite (s : State) (d q : Nat) (v : BitVec 32) : State :=
  let r := s.queue d q
  if !bitN r.ctl.toNat 63 then s
  else
    let s := s.modQueue d q (fun x => { x with tail := v })
    (s.modQueue d q Queue.judged).due (.queueDecision d)

/-- A write of QBASE and of QCTL (06 R128). -/
def State.qbaseWrite (s : State) (d q : Nat) (v : BitVec 64) : State :=
  s.modQueue d q (fun x => if bitN x.ctl.toNat 63 then x
    else { x with base := withField v 0 7 0, asked := false, met := none })
def State.qctlWrite (s : State) (d q : Nat) (v : BitVec 64) : State :=
  let s := s.modQueue d q (fun x =>
    let on := bitN x.ctl.toNat 63
    let n := if on then fieldOf x.ctl 24 4 else max 1 (fieldOf v 24 4)
    let c := if on then fieldOf x.ctl 0 12 else fieldOf v 0 12
    let err := if bitN v.toNat 62 then 0 else fieldOf x.ctl 62 1
    let w := fieldOf v 20 4
    { x with
      ctl := BitVec.ofNat 64 (fieldOf v 63 1 * 2 ^ 63 + err * 2 ^ 62 + fieldOf v 61 1 * 2 ^ 61 + n * 2 ^ 24
        + (max 1 w) * 2 ^ 20 + fieldOf v 16 3 * 2 ^ 16 + c)
      asked := if on then x.asked else false
      met := if on then x.met else none
      taken := if c = fieldOf x.ctl 0 12 then x.taken else 0 } |>.judged)
  s.due (.queueDecision d)

/-! ### Checks and residency -/

/-- The record of a taken launch is read and checked (06 R127). -/
def State.checkStep (s : State) (id : Nat) : State :=
  match NMap.find s.launches id with
  | none => s
  | some l =>
    match s.readLaunch l with
    | .error e => s.refuse id l e
    | .ok l => { s with launches := NMap.put s.launches id l }.post (.leaseResidencyCheck id)

/-- The pages of a range marked as leased (09 R192). -/
def State.markLeased (s : State) (c : Nat) (r : LeaseRange) : State :=
  if vaPkg r.base ≠ s.pkg then s
  else s.modCd c (vaDie r.base) (fun x => { x with pages := x.pages.map (fun p =>
    if pdValid p.desc && r.base < p.va + pdSize p.desc && p.va < r.base + r.size then { p with desc := withBit p.desc 55 } else p) })

/-- The residency check of a launch (09 R192, R193): confirmed ranges become active; when all are, the launch proceeds; for each range that
is not the owner's Curator asks the host, and the launch holds a residency slot. -/
def State.residencyStep (s : State) (id : Nat) : State :=
  match NMap.find s.launches id with
  | none => s
  | some l =>
    let good := l.leases.filter (fun r => (s.badPage l.ctx r).isNone)
    let s := good.foldl (fun s r => s.markLeased l.ctx r) s
    let l := { l with active := good }
    let bad := l.leases.zipIdx.filterMap (fun p => (s.badPage l.ctx p.1).map (fun a => (p.2, a, vaDie p.1.base)))
    match bad with
    | [] =>
      -- a page of the spill region that has become mapped since the record was checked must be UN as well (04 R81)
      if s.notUn l.ctx l.spillBase (2 ^ l.spillLog) then
        ({ s with launches := NMap.put s.launches id l }).refuse id l ⟨0x11, 7, 0, 0⟩
      else
      let s := match l.slot with
        | none => s
        | some k => (s.modDie l.die (fun x => { x with resSlots := NMap.del x.resSlots k })).dropEvents
            (fun e => e = Event.reswaitTimeout l.die k)
      ({ s with launches := NMap.put s.launches id { l with slot := none } }.post (.regionConfigured id)).due (.queueDecision l.die)
    | (_, a, _) :: _ =>
      let put := fun (s : State) (k : Nat) =>
        let since := if l.slot.isSome then l.since else s.cycles
        let s := { s with launches := NMap.put s.launches id { l with slot := some k, since := since, failPage := a } }
        let s := s.modDie l.die (fun x => { x with resSlots := NMap.put x.resSlots k id })
        (bad.foldl (fun s b => s.curEvent b.2.2 3 l.ctx b.2.1 (leBytes 8 k ++ leBytes 8 b.1)) s).due (.reswaitTimeout l.die k)
      match l.slot with
      | some k => put s k
      | none =>
        match NMap.freeKey (s.die l.die).resSlots 8 with
        | some k => put s k
        | none => { s with launches := NMap.put s.launches id l }.post (.leaseResidencyCheck id)

/-- The launch in a residency slot refused: 0 by the host's command, 1 by the timeout (09 R193). -/
def State.failResidency (s : State) (d k cause : Nat) : State :=
  match NMap.find (s.die d).resSlots k with
  | none => s
  | some id =>
    match NMap.find s.launches id with
    | none => s.modDie d (fun x => { x with resSlots := NMap.del x.resSlots k })
    | some l => (s.dropLaunch id l).curEvent d 0x0D l.ctx l.failPage
        (leBytes 4 k ++ leBytes 4 cause ++ leBytes 4 l.queue ++ leBytes 4 l.head.toNat)

/-- The cycle by which a residency slot's launch is refused (09 R193, R196): RESWAIT milliseconds after it was taken. -/
def State.reswaitDue (s : State) (d k : Nat) : Nat :=
  match (NMap.find (s.die d).resSlots k).bind (NMap.find s.launches) with
  | none => 0
  | some l => l.since + fieldOf (s.die d).aspCtl 8 16 * 1900000

/-! ### Configuring a region (06 R131) -/

/-- The tiles of a launch in this package, in the tile order (06 R124), and its islands. -/
def Launch.tilesHere (l : Launch) (pkg : Nat) : List TileId :=
  if l.pkgFirst ≤ pkg && pkg < l.pkgFirst + l.pkgCount then
    l.kinds.flatMap (fun k => ((List.range 1024).filter (fun i => k.2.getD i 0 ≠ 0)).map (fun i => ⟨k.1, i⟩))
  else []
def Launch.islandsHere (l : Launch) (pkg : Nat) : List (Nat × Nat) :=
  if l.pkgFirst ≤ pkg && pkg < l.pkgFirst + l.pkgCount then l.islands.flatMap (fun k => k.2.map (fun j => (k.1, j))) else []

/-- Whether the tiles and islands of a launch are free (08 R167, 12 R243). -/
def State.placesFree (s : State) (l : Launch) : Bool :=
  (l.tilesHere s.pkg).all (fun t => (s.tile t).region = 0 && !(s.tile t).clearing)
    && (l.islandsHere s.pkg).all (fun i => (s.island i.1 i.2).region = 0)

/-- A tile typed for a launch: kind, channels and slot counts; the registers of another context's launch are reset, whatever kind the tile
is now typed (07 R146). A context that is destroyed and created again under its number counts as the same one (log entry 56). -/
def State.typeTile (s : State) (l : Launch) (id pos : Nat) (t : TileId) : State :=
  let bs := (NMap.getD l.channels t.die []).filter (fun b => fieldOf b 0 10 = t.tile)
  let all := NMap.getD l.channels t.die []
  let share := fun (b : BitVec 64) =>
    portSlots (fieldOf b 24 2) / max 1 (all.filter (fun c =>
      fieldOf c 13 3 = 4 && fieldOf c 16 8 = fieldOf b 16 8 && fieldOf c 24 2 = fieldOf b 24 2)).length
  let kind := tileKindOf ((NMap.getD l.kinds t.die []).getD t.tile 0)
  s.modTile t (fun x =>
    let same := x.lastCtx = some l.ctx
    { x with
      kind := kind, region := id, lastCtx := some l.ctx, position := pos,
      sregs := if same then x.sregs else List.replicate 8 (zeros 128),
      wregs := if same then x.wregs else List.replicate 16 (List.replicate 32 0x7F),
      aregs := if same then x.aregs else List.replicate 16 0,
      channels := bs.foldl (fun m b => NMap.put m (fieldOf b 10 3) b) [],
      chanFree := (bs.filter (fun b => fieldOf b 13 3 = 4)).foldl (fun m b => NMap.put m (fieldOf b 10 3) (share b)) [] })

/-- An island claimed (12 R243, R245): its state is fresh; it stands in the group that a binding names, else alone. -/
def State.claimIsland (s : State) (l : Launch) (id d k : Nat) : State :=
  let g := (NMap.getD l.channels d []).find? (fun b => fieldOf b 13 3 = 4 && (islandGroup b).contains k)
  s.modIsland d k (fun x => match g with
    | none => { region := id, ctx := l.ctx, lead := k, stat := x.stat }
    | some b => { region := id, ctx := l.ctx, lead := fieldOf b 16 8, rows := fieldOf b 27 1 + 1, cols := fieldOf b 28 2 + 1, stat := x.stat })

/-- An initial token: its context is the launch's (04 R71), its level one above the wait barrier's done level (11 R424). -/
def State.initialToken (s : State) (l : Launch) (b : Bytes) : Arrival :=
  let a := recordToken (numAt b 2 1) (sliceB b 0x20 160)
  let lv : BitVec 32 := match l.waitLevel with
    | some v => if s.level l.ctx = 0 then 0 else v + 1
    | none => 0
  { a with src := 2 ^ 41, outside := true, tok := { a.tok with tag := { a.tok.tag with ctx := BitVec.ofNat 12 l.ctx, level := lv } } }

/-- A region configured: tiles and islands are written and the initial tokens of this package placed in list order; a launch whose
places are not all free is held. -/
def State.configureStep (s : State) (id : Nat) : State :=
  match NMap.find s.launches id with
  | none => s
  | some l =>
    if !s.placesFree l then s.due (.heldLaunchConfigure id)
    else
      let ts := l.tilesHere s.pkg
      let is := l.islandsHere s.pkg
      let first := (s.pkg - l.pkgFirst) * ts.length
      let s := { s with
        launches := NMap.del s.launches id
        regions := NMap.put s.regions id { launch := l, tiles := ts, islands := is, since := s.cycles } }
      let s := ts.zipIdx.foldl (fun s p => s.typeTile l id (first + p.2) p.1) s
      let s := is.foldl (fun s i => s.claimIsland l id i.1 i.2) s
      let toks := (l.tokens.filter (fun p => numAt p.2 0 2 = s.pkg)).map (fun p => s.initialToken l p.2)
      let s := toks.foldl (fun s a => (s.countSent a.at_ a.tok.tag.phase 1).arrive a) s
      s.post (if l.pkgCount > 1 then .phaseSum id else .quiescenceWave id)

/-! ### Completion (06 R132 to R135) -/

/-- The totals of sent and received of a region in this package. -/
def State.totals (s : State) (r : Region) : Nat × Nat :=
  let ts := r.tiles.map s.tile
  let ds := (List.range 8).map (fun d => s.cd r.launch.ctx d)
  (sumN (ts.map (·.sent)) + sumN (ds.map (·.sent)), sumN (ts.map (·.recv)) + sumN (ds.map (·.recv)))

/-- Steps 2 and 3 of 06 R135: everything of a region is freed, the completion posted. -/
def State.finishRegion (s : State) (id : Nat) (r : Region) : State :=
  let l := r.launch
  let s := r.tiles.foldl (fun s t => (List.range 8).foldl (fun s k => s.histSpillAll t k) s) s
  let s := (s.freeRegion id).catalogueAt l.ctx l.die 6 0 0 0 0xFFFF {} l.tag []
  let q := s.queue l.die l.queue
  let s := if bitN q.ctl.toNat 61 then s.curEvent l.die 2 l.ctx l.tag.toNat (leBytes 8 l.queue ++ leBytes 8 l.head.toNat) else s
  s.settleCtx l.ctx

/-- A region quiescent (06 R135): the done barrier is joined; when the join is performed everything is freed and the completion posted. A
join at another package is performed outside (log entry 4). -/
def State.completeRegion (s : State) (id : Nat) (r : Region) : State :=
  let l := r.launch
  let bar := l.doneBar
  if bar = 0 then s.finishRegion id r
  else
    let s := (s.dieSent l.ctx l.die 0).emitPkt l.die {
      typ := 0x02, addr := BitVec.ofNat 64 bar, to_ := BitVec.ofNat 13 (vaOwner bar), from_ := s.code l.die, inc := (s.die l.die).inc,
      ctx := BitVec.ofNat 12 l.ctx, op := .barJoin 1, tile := 4094, serial := id,
      stamp := { level := if s.level l.ctx = 0 then 0 else BitVec.ofNat 48 r.level.toNat } }
    if vaPkg bar = s.pkg then s.modRegion id (fun x => { x with joining := true }) else s.finishRegion id r

/-- The answer to a done barrier's join (06 R135): the region is finished. A join that finds no page raises the fault, and the region goes
on without its done barrier (09 R188, log entry 61). -/
def State.joinReply (s : State) (p : Packet) : State :=
  match s.region? p.serial with
  | none => s
  | some r =>
    if !r.joining then s
    else match p.op with
      | .data .. => s.finishRegion p.serial r
      | .remoteFault code =>
        let s := s.modRegion p.serial (fun x => { x with joining := false, launch := { x.launch with doneBar := 0 }, since := s.cycles })
        let s := s.post (if r.launch.pkgCount > 1 then .phaseSum p.serial else .quiescenceWave p.serial)
        s.raiseFault { index := 7, code := code.toNat, sync := false, ctx := r.launch.ctx, die := r.launch.die, region := p.serial,
                       detail := remoteDetail p.addr.toNat p.from_.toNat 0 0 (code = 0x0D) }
      | _ => s

/-- A wave (06 R133). -/
def State.waveStep (s : State) (id : Nat) : State :=
  match s.region? id with
  | none => s
  | some r =>
    let w := s.totals r
    if w.1 = w.2 && r.lastWave = some w then s.completeRegion id r
    else (s.modRegion id (fun x => { x with lastWave := some w, since := s.cycles })).post (.quiescenceWave id)

/-- The outstanding count of the phases `k` modulo 4 of a region (06 R134). -/
def State.phaseCount (s : State) (r : Region) (k : Nat) : Int :=
  let mine := (List.range 8).flatMap (fun d => ((s.cd r.launch.ctx d).phases.filter (fun p => p.1 % 4 = k)).map (·.2))
  mine.foldl (· + ·) (Config.outsidePhase s.ticks k)

/-- A sum of the phases (06 R134): a phase whose sum reads zero twice closes; when all do, the region is quiescent. -/
def State.phaseStep (s : State) (id : Nat) : State :=
  match s.region? id with
  | none => s
  | some r =>
    let sums := (List.range 4).map (fun k => (k, s.phaseCount r k))
    let shut := (sums.filter (fun p => p.2 = 0 && NMap.find r.lastSums p.1 = some 0)).map (·.1)
    let opened := (List.range 256).filter (fun p => (List.range 8).any (fun d => (NMap.find (s.cd r.launch.ctx d).phases p).isSome))
    let closed := (r.closed ++ opened.filter (fun p => shut.contains (p % 4))).eraseDups
    if shut.length = 4 then s.completeRegion id r
    else (s.modRegion id (fun x => { x with lastSums := sums, closed := closed, since := s.cycles })).post (.phaseSum id)

/-! ### The steps -/

/-- A reply at its tile, its queue unit or its control core; the reply of a release atomic ends its send entry too (14 R303). -/
def execReplyDelivery (s : State) : Host.Outcome State Fault Refusal :=
  match s.ev with
  | .replyDelivery p =>
    let d := p.to_.toNat % 8
    let s := if p.tile = 4094 then s.joinReply p else s.replyStep p
    .next (if !p.rel then s else match s.send? d p.ctx.toNat p.rc.toNat p.epoch.toNat p.from_.toNat with
      | some e => if e.st = .flagged then s.sendDone d e else s
      | none => s)
  | _ => .next s

def execQtailWrite (s : State) : Host.Outcome State Fault Refusal :=
  match s.ev with
  | .qtailWrite d q v => .next (s.tailWrite d q v)
  | _ => .next s

def execQueueDecision (s : State) : Host.Outcome State Fault Refusal :=
  match s.ev with
  | .queueDecision d => .next (s.queueStep d)
  | _ => .next s

/-- The answer of a waiter makes its queue's head eligible (06 R129). -/
def execQueueWaiterAnswer (s : State) : Host.Outcome State Fault Refusal :=
  match s.ev with
  | .queueWaiterAnswer d q lv =>
    .next ((s.modQueue d q (fun x => if x.asked then { x with met := some lv } else x)).due (.queueDecision d))
  | _ => .next s

def execLaunchRecordCheck (s : State) : Host.Outcome State Fault Refusal :=
  match s.ev with
  | .launchRecordCheck id => .next (s.checkStep id)
  | _ => .next s

def execLeaseResidencyCheck (s : State) : Host.Outcome State Fault Refusal :=
  match s.ev with
  | .leaseResidencyCheck id => .next (s.residencyStep id)
  | _ => .next s

def execReswaitTimeout (s : State) : Host.Outcome State Fault Refusal :=
  match s.ev with
  | .reswaitTimeout d k => .next (s.failResidency d k 1)
  | _ => .next s

def execRegionConfigured (s : State) : Host.Outcome State Fault Refusal :=
  match s.ev with
  | .regionConfigured id => .next (s.configureStep id)
  | _ => .next s

/-- A launch held for a place that is free now (12 R243). -/
def execHeldLaunchConfigure (s : State) : Host.Outcome State Fault Refusal :=
  match s.ev with
  | .heldLaunchConfigure id => .next (s.configureStep id)
  | _ => .next s

def execQuiescenceWave (s : State) : Host.Outcome State Fault Refusal :=
  match s.ev with
  | .quiescenceWave r => .next (s.waveStep r)
  | _ => .next s

def execPhaseSum (s : State) : Host.Outcome State Fault Refusal :=
  match s.ev with
  | .phaseSum r => .next (s.phaseStep r)
  | _ => .next s

end Sys2Proof.Machine
end

