-- ==== Sys2Proof/Machine/Network.lean ====
section
/-! DEFINITION. The network engine and the meanings of NET (15 R317 to R334). What the transport does on the wire (acknowledgement,
choice of paths, congestion) is outside; packets that come in are events, packets that leave are recorded in `Net.out`. -/

namespace Sys2Proof.Machine

/-! ### The engine of a die -/

def State.modNet (s : State) (d : Nat) (g : Net → Net) : State := s.modDie d (fun x => { x with net := g x.net })

/-- A saturating count of NET_STAT raised: its lowest bit (15 R333). -/
def State.netCount (s : State) (d lo : Nat) : State :=
  s.modNet d (fun x => { x with stat := withField x.stat lo 10 (min 1023 (fieldOf x.stat lo 10 + 1)) })

/-- NET_STAT: the mode and the outstanding requests with the counts. -/
def State.netStat (s : State) (d : Nat) : BitVec 64 :=
  let x := (s.die d).net
  withField (withField x.stat 63 1 (byteAt x.cfg 0).toNat) 40 12 x.msgs.length

/-- The number of Ethernet ports of a configuration, the MAC and the IP address of a port (15 R317, R318). -/
def netPorts (cfg : Bytes) : Nat := if byteAt cfg 0 = 1 then 2 else 1
def netMac (cfg : Bytes) (port : Nat) : Bytes := sliceB cfg (0x08 + 6 * port) 6
def netIp (cfg : Bytes) (port : Nat) : Bytes := sliceB cfg (0x20 + 16 * port) 16

/-- The port by which the messages of an endpoint leave. -/
def netPortOf (cfg : Bytes) (ep : Nat) : Nat := ep % netPorts cfg

/-- A packet as it leaves by its port: the configured DSCP value, the UDP source port of its entropy value, the port's addresses. -/
def State.netHead (s : State) (d : Nat) (p : NetPacket) : NetPacket :=
  let cfg := (s.die d).net.cfg
  { p with
    dscp := (byteAt cfg 1).toNat % 64, udp := (numAt cfg 2 2 + Config.netEntropy s.ticks) % 2 ^ 16
    mac := netMac cfg p.port, ip := netIp cfg p.port }

/-- A packet leaves by its Ethernet port. -/
def State.netSend (s : State) (d : Nat) (p : NetPacket) : State := s.modNet d (fun x => { x with out := x.out ++ [s.netHead d p] })

/-- Whether a packet that arrives at a port is sent to that port's own addresses (15 R318). -/
def State.netOwn (s : State) (d : Nat) (p : NetPacket) : Bool :=
  let cfg := (s.die d).net.cfg
  p.port < netPorts cfg && p.mac = netMac cfg p.port && p.ip = netIp cfg p.port

/-- Whether a packet is well formed and of a service that the engine supports (15 R317, R323): at most 4096 bytes, the bytes of its index. -/
def netFormed (p : NetPacket) : Bool :=
  p.supported && (match p.body with
    | .write _ _ length _ data => 4096 * p.index < length && data.length = min 4096 (length - 4096 * p.index)
    | .readData data => data.length ≤ 4096
    | _ => true)

/-! ### Window and endpoint entries (15 R320) -/

def winValid (w : Bytes) : Bool := bitN (byteAt w 0x18).toNat 0
def winW (w : Bytes) : Bool := bitN (byteAt w 0x18).toNat 1
def winR (w : Bytes) : Bool := bitN (byteAt w 0x18).toNat 2
def winNotify (w : Bytes) : Option Nat :=
  if bitN (byteAt w 0x18).toNat 3 then some ((byteAt w 0x19).toNat % 64) else none
def winBase (w : Bytes) : Nat := numAt w 0 8
def winSize (w : Bytes) : Nat := numAt w 8 8
def winCredit (w : Bytes) : BitVec 64 := BitVec.ofNat 64 (numAt w 0x10 8)

/-- Whether the counter is one that a window of the context names (17 R359). -/
def CtxDie.windowCounter (x : CtxDie) (k : Nat) : Bool := x.windows.any (fun w => winValid w.2 && winNotify w.2 = some k)

/-! ### Counters (15 R327) -/

/-- A counter, and the 8 bytes in which a program reads it (15 R331). -/
def State.ncnt (s : State) (c d k : Nat) : BitVec 64 := NMap.getD (s.cd c d).ncnt k 0
def ncBytes (v : BitVec 64) : Bytes := leBytes 4 (fieldOf v 0 32) ++ leBytes 2 (fieldOf v 48 16) ++ [0, 0]
def State.setNcnt (s : State) (c d k : Nat) (v : BitVec 64) : State :=
  s.modCd c d (fun x => { x with ncnt := NMap.put x.ncnt k v })

/-- Whether a counter has reached a threshold (15 R327). -/
def ncReached (v : BitVec 64) (t : Nat) : Bool := phaseReached (fieldOf v 0 32) t

/-- A waiting WAIT answered: it acquires at its scope and emits the counter (15 R331). -/
def State.netAnswer (s : State) (t : TileId) (slot k : Nat) (r : Reply) : State :=
  let j := r.job
  let c := s.regionCtx j.fi.region
  let v := ncBytes (s.ncnt c t.die k)
  let s := ((s.freeReply t slot).serialDone t r.serial).consume j.fi
  s.settle j ((s.acquire t j.f.scope).emitAll j (s.sawAll (s.syncUp j j.fi.stTag)) .value v)

/-- The slots of a context's tiles on a die that meet a test. -/
def State.slotsOn (s : State) (c d : Nat) (p : Reply → Bool) : List (TileId × Nat × Reply) :=
  (s.ctxTiles c).flatMap (fun t => if t.die ≠ d then [] else
    ((s.tile t).replies.filter (fun r => p r.2)).map (fun r => (t, r.1, r.2)))

/-- The waiting WAITs of a counter that its value now reaches are answered. -/
def State.netWake (s : State) (c d k : Nat) : State :=
  let v := s.ncnt c d k
  let hit := s.slotsOn c d (fun r => match r.kind with
    | .netWait n t => n = k && ncReached v t
    | _ => false)
  hit.foldl (fun s q => s.netAnswer q.1 q.2.1 k q.2.2) s

/-- A message out of the lists of the NFENCEs that wait for it; those that wait for none any more emit (15 R331). -/
def State.fenceWake (s : State) (c d id : Nat) : State :=
  (s.slotsOn c d (fun r => match r.kind with
    | .netFence ms => ms.contains id
    | _ => false)).foldl (fun s q =>
      match q.2.2.kind with
      | .netFence ms =>
        let ms := ms.filter (· ≠ id)
        if ms.isEmpty then
          let j := q.2.2.job
          let s := ((s.freeReply q.1 q.2.1).serialDone q.1 q.2.2.serial).consume j.fi
          s.settle j (s.emitAll j j.fi.stTag .value q.2.2.buf)
        else s.modTile q.1 (fun x => { x with replies := NMap.put x.replies q.2.1 { q.2.2 with kind := .netFence ms } })
      | _ => s) s

/-! ### The end of a message (15 R326) -/

/-- A post's completion token, when it is still owed (15 R331). -/
def State.postDone (s : State) (d id : Nat) : State :=
  match NMap.find (s.die d).net.msgs id with
  | none => s
  | some m =>
    if !m.tokens then s
    else
      let s := s.modNet d (fun x => { x with msgs := NMap.put x.msgs id { m with tokens := false } })
      if (s.ctx m.ctx).st = .ended then s
      else s.settle m.job (s.emitDone m.job false (dests m.job.f) m.job.fi.stTag (some (leBytes 4 m.num.toNat)))

/-- The end of a message is due: its update of the counter follows. `cause` is 0 for a completion; 1 refused, 2 abandoned, 3 cancelled,
4 port down (log entry 26). -/
def State.netEnd (s : State) (d id cause : Nat) : State :=
  match NMap.find (s.die d).net.msgs id, NMap.find (s.die d).net.upds id with
  | some m, none =>
    let s := s.postDone d id
    let s := s.modNet d (fun x => { x with
      upds := NMap.put x.upds id ⟨m.ctx, m.lnc, cause ≠ 0, m.num, m.ep, false, true, cause, false⟩ })
    s.post (.netLocalCompletion d id)
  | _, _ => s

/-- An update of a counter performed, with its record at RECORD and REPLAY (15 R327, R329, 17 R351). The completions of a context that
has ended are discarded (18 R368). -/
def State.netUpdate (s : State) (d id : Nat) : State :=
  match NMap.find (s.die d).net.upds id with
  | none => s
  | some u =>
    let drop := fun (s : State) => s.modNet d (fun x => { x with
      upds := NMap.del x.upds id, msgs := if u.fin then NMap.del x.msgs id else x.msgs })
    let m := NMap.find (s.die d).net.msgs id
    if (s.ctx u.ctx).st = .ended || (s.ctx u.ctx).st = .free then drop s
    else if u.fin && (m.map NetMsg.ghost).getD false then
      -- a rollback has undone the post: when it runs again it is complete at once (17 R360)
      (drop s).modCd u.ctx d (fun x => { x with netDone := if u.fail then x.netDone else x.netDone ++ [u.num] })
    else
      let detail := u.counter % 64 + (if u.fail then 64 else 0) + (if u.notify then 128 else 0) + u.place % 4096 * 256
      match s.logEvent u.ctx d ⟨10, 4, 0, 0, u.num.toNat, detail, 0⟩ with
      | .wait s =>
        -- at RECORD later updates of the counter wait behind it (17 R352)
        let s := if s.replaying u.ctx d then s
          else s.modNet d (fun x => { x with upds := NMap.put x.upds id { u with stalled := true } })
        s.post (.netLocalCompletion d id)
      | .go s =>
        let v := s.ncnt u.ctx d u.counter
        let v' := if u.fail then withField v 48 16 (min 0xFFFF (fieldOf v 48 16 + 1)) else withField v 0 32 (fieldOf v 0 32 + 1)
        let s := (drop s).setNcnt u.ctx d u.counter v'
        let s := match m with
          | some m =>
            if !u.fin then s
            else
              let s := s.dieRecv u.ctx d m.job.fi.stTag.phase
              let s := s.modCd u.ctx d (fun x => { x with netDone := if m.write && !u.fail then x.netDone ++ [m.num] else x.netDone })
              let s := if u.fail then
                (s.curEvent d 7 u.ctx m.tag.toNat (leBytes 4 m.num.toNat ++ leBytes 4 u.cause)).catalogue u.ctx d 7 0 (some m.job.fi)
                  (leBytes 8 m.tag.toNat ++ leBytes 4 m.num.toNat ++ leBytes 4 u.cause)
              else s
              s.fenceWake u.ctx d id
          | none => s
        s.netWake u.ctx d u.counter

/-! ### NET.POST (15 R322, R323) -/

/-- The fields of a work request (15 R321). -/
def wrMsg (j : Job) (c : Nat) (num : BitVec 32) (w : Bytes) : NetMsg :=
  { job := j, ctx := c, num := num, write := byteAt w 0 = 1, lsp := bitN (byteAt w 1).toNat 0, ord := bitN (byteAt w 1).toNat 1,
    notify := bitN (byteAt w 1).toNat 2,
    lnc := (byteAt w 2).toNat % 64, ep := numAt w 4 2 % 4096, window := (byteAt w 6).toNat, addr := numAt w 8 8,
    roff := BitVec.ofNat 64 (numAt w 0x10 8), length := numAt w 0x18 4, credit := BitVec.ofNat 64 (numAt w 0x20 8),
    tag := BitVec.ofNat 64 (numAt w 0x28 8) }

/-- The first check of 15 R322 that a work request fails: the address that the fault names; none when it passes. -/
def State.wrBad (s : State) (j : Job) (l : Launch) (w : Bytes) : Bool :=
  let c := s.regionCtx j.fi.region
  let m := wrMsg j c 0 w
  let ep := NMap.getD (s.cd c j.fi.die).endpoints m.ep []
  let shape := (byteAt w 0 = 1 || byteAt w 0 = 2) && bitsN (byteAt w 1).toNat 3 5 = 0 && bitsN (byteAt w 2).toNat 6 2 = 0
    && byteAt w 3 = 0 && bitsN (numAt w 4 2) 12 4 = 0 && byteAt w 7 = 0 && numAt w 0x1C 4 = 0 && numAt w 0x30 16 = 0
    && (!m.lsp || m.addr < 2 ^ 18)
  !shape || m.length = 0 || m.length > 2 ^ 24 || !bitN (byteAt ep 0).toNat 0
    || (bitN (byteAt w 1).toNat 1 && !bitN (byteAt ep 0).toNat 1)
    || (if m.lsp then m.addr + m.length > spadBytes
        else vaOwner m.addr ≠ (s.code j.fi.die).toNat || (firstDenied l (!m.write) m.addr m.length).isSome)

/-- The outstanding messages of a context on a die. -/
def State.netOf (s : State) (c d : Nat) : List (Nat × NetMsg) := (s.die d).net.msgs.filter (fun m => m.2.ctx = c)

/-- A message accepted: its number is emitted; a read's completion token with it. A write that a rollback runs again joins the running
message, or is complete at once (17 R360). -/
def State.netAccept (s : State) (j : Job) (w : Bytes) : State :=
  let d := j.fi.die
  let c := s.regionCtx j.fi.region
  let num := (s.cd c d).msgNo
  let m := wrMsg j c num w
  let s := s.modCd c d (fun x => { x with msgNo := x.msgNo + 1 })
  let s := (s.consume j.fi).dieSent c d j.fi.stTag.phase
  let ended := fun (s : State) (id : Nat) => if (s.die d).net.up then s.post (.netMessageSend d id) else s.netEnd d id 4
  let res := fun (s : State) (done : Bool) =>
    let s := s.emitRes j false (dests j.f) j.fi.stTag .value (some (leBytes 4 num.toNat))
    if done then s.emitDone j false (dests j.f) j.fi.stTag (some (leBytes 4 num.toNat)) else s
  let fin := m.write && (s.cd c d).netDone.contains num
  let running := (s.netOf c d).find? (fun q => q.2.write && q.2.num = num && m.write)
  match fin, running with
  | true, _ =>
    let (id, s) := s.fresh
    let s := res s true
    let s := s.modNet d (fun x => { x with msgs := NMap.put x.msgs id { m with tokens := false } })
    s.netEnd d id 0
  | false, some (id, q) =>
    let read := q.sent * 4096 ≥ q.length
    let s := res s read
    s.modNet d (fun x => { x with msgs := NMap.put x.msgs id { q with job := j, ghost := false, tokens := !read } })
  | false, none =>
    let (id, s) := s.fresh
    let s := s.modNet d (fun x => { x with msgs := NMap.put x.msgs id { m with tokens := m.write } })
    ended (res s (!m.write)) id

def execNetPost (f : Fields) (s : State) : Host.Outcome State Fault Refusal :=
  .next (s.fire f (some .value) (dests f) (sregDests f) (fun j s =>
    let d := j.fi.die
    let c := s.regionCtx j.fi.region
    let off := numAt (operandIn s j .none false) 0 4
    match s.launchOf j.fi with
    | none => s
    | some l =>
      if off % 64 ≠ 0 || off + 64 > spadBytes then s.leaseFault j 0x23 off 2
      else
        let w := (s.tile j.fi.at_).spadRead j.fi.inst off 64
        if s.wrBad j l w then s.leaseFault j 0x23 off 0
        else if (s.die d).net.msgs.length ≥ 2048 || (s.netOf c d).length ≥ 256 then s.offerAgain j.fi
        else s.netAccept j w))

/-! ### The engine sends (15 R323) -/

/-- The local bytes of a message: from the scratchpad with the instance's held stores, or from memory. -/
def State.netLocal (s : State) (d : Nat) (m : NetMsg) (off n : Nat) : Bytes :=
  if m.lsp then (s.tile ⟨d, m.job.fi.tile⟩).spadRead m.job.fi.inst (m.addr + off) n else s.readVa m.ctx (m.addr + off) n

/-- A local range with no mapping: the fault of 09 R188 on this die; the bytes read as zero. -/
def State.netUnmapped (s : State) (d c a n : Nat) : State :=
  if s.mappedVa c a n then s
  else s.raiseFault { index := 7, code := 0x0D, sync := false, ctx := c, die := d, detail := remoteDetail a (s.code d).toNat 0 0 true }

/-- The index of the packet of a write that is sent next: of an ROD message the lowest, of an RUD message the transport's choice of those
not sent (15 R317, R323). -/
def NetMsg.nextIndex (m : NetMsg) (tick : Nat) : Nat :=
  let open_ := (List.range (ceilDiv m.length 4096)).filter (fun i => !m.out.any (fun p => p.index = i))
  if m.ord then open_.headD 0 else open_.getD (Config.netNext tick % open_.length) 0

/-- A packet of a message, but for its index and body: it leaves by the port of its endpoint for the peer that the entry names. -/
def State.netPacket (s : State) (d : Nat) (m : NetMsg) (index : Nat) (body : NetBody) : NetPacket :=
  let e := NMap.getD (s.cd m.ctx d).endpoints m.ep []
  { peer := m.ep, ctx := BitVec.ofNat 12 (numAt e 2 2), src := BitVec.ofNat 12 m.ctx, msg := m.num, index := index, ord := m.ord,
    port := netPortOf (s.die d).net.cfg m.ep, otherIp := sliceB e 8 16, otherDie := (byteAt e 4).toNat % 8, body := body }

/-- The next packet of a message is sent. -/
def State.netSendStep (s : State) (d id : Nat) : State :=
  match NMap.find (s.die d).net.msgs id with
  | none => s
  | some m =>
    if (NMap.find (s.die d).net.upds id).isSome then s
    else if m.sent = 0 && (s.ctx m.ctx).st = .ended then s.netEnd d id 2
    else
      let put := fun (s : State) (m : NetMsg) => s.modNet d (fun x => { x with msgs := NMap.put x.msgs id m })
      if m.write then
        let i := m.nextIndex s.ticks
        let off := 4096 * i
        let n := min 4096 (m.length - off)
        let s := if m.lsp then s else s.netUnmapped d m.ctx (m.addr + off) n
        let p := s.netPacket d m i (.write m.window m.roff m.length m.notify (s.netLocal d m off n))
        let s := (put s { m with sent := m.sent + 1, out := m.out ++ [p] }).netSend d p
        if 4096 * (m.sent + 1) ≥ m.length then s.postDone d id else s.post (.netMessageSend d id)
      else
        let p := s.netPacket d m 0 (.readRequest m.window m.roff m.length m.notify)
        (put s { m with sent := 1, out := [p] }).netSend d p

/-! ### Packets come in (15 R324, R325) -/

/-- A placed run credited to a barrier (10 R220); a run of which no byte was performed is not. -/
def State.netCredit (s : State) (c d : Nat) (cred : BitVec 64) (n : Nat) : State :=
  if cred = 0 || n = 0 then s
  else (s.dieSent c d 0).emitPkt d {
    typ := 0x0B, addr := cred, to_ := BitVec.ofNat 13 (vaOwner cred.toNat), from_ := s.code d, inc := (s.die d).inc, cls := 2,
    ctx := BitVec.ofNat 12 c, op := .credit n }

/-- The units of a run that must be copied before it is written (17 R359). -/
def State.netCopies (s : State) (c d a n : Nat) : List Nat :=
  if s.level c = 0 then []
  else ((List.range (n / 65536 + 2)).filterMap (fun i =>
    let va := if i = 0 then a else (a / 65536 + i) * 65536
    if va ≥ a + n || s.uncopied c d va then none
    else match s.phys? c va with
      | none => none
      | some k => if (NMap.find (s.cd c d).copies (k / 65536)).isNone then some (k / 65536) else none)).eraseDups

/-- A run placed in memory by the engine: no level and no stamp goes with it (15 R324). -/
def State.netWrite (s : State) (c d a : Nat) (bs : Bytes) : State :=
  let s := s.writeVa c a bs
  let s := (linePieces (bs.length / 64 + 2) a 0 bs.length).foldl (fun (s : State) q => match s.phys? c q.1 with
    | some k => s.noteWrite k q.2.2
    | none => s) s
  s.modCd c d (fun x => { x with unitLevels := x.unitLevels.filter (fun u => !(unitsOf a bs.length).contains u.1) })

/-- The bytes of a run that lie in mapped pages: those that a placement performs (09 R188). -/
def State.mappedBytes (s : State) (c a n : Nat) : Nat := ((List.range n).filter (fun i => (s.page? c (a + i)).isSome)).length

/-- The answer to a packet: by the port that it came by, to its sender. -/
def netReply (p : NetPacket) (i : Nat) (b : NetBody) : NetPacket :=
  { peer := p.peer, ctx := p.ctx, src := p.src, msg := p.msg, index := i, port := p.port, ord := p.ord, otherIp := p.otherIp
    otherDie := p.otherDie, body := b }

/-- The sender of a packet: the peer and its context. -/
def netSender (p : NetPacket) : Nat := p.peer * 4096 + p.src.toNat

/-- A message on its way in is over. -/
def State.netPast (s : State) (d : Nat) (p : NetPacket) : State :=
  s.modNet d (fun x => { x with
    ins := x.ins.filter (fun i => !(i.peer = netSender p && i.ctx = p.ctx.toNat && i.msg = p.msg)),
    past := x.past ++ [(netSender p, p.ctx.toNat, p.msg)] })

/-- The notify increment of a message that is over (15 R324). -/
def State.netNotify (s : State) (d : Nat) (p : NetPacket) (window : Nat) (entry : Bytes) (notify : Bool) : State :=
  match notify, winNotify entry with
  | true, some k =>
    let (id, s) := s.fresh
    (s.modNet d (fun x => { x with upds := NMap.put x.upds id ⟨p.ctx.toNat, k, false, p.msg, window, true, false, 0, false⟩ })).post
      (.netLocalCompletion d id)
  | _, _ => s

/-- A message that finds its window closed, or too small, is refused (15 R325). -/
def State.netRefuse (s : State) (d : Nat) (p : NetPacket) : State :=
  ((s.netCount d 10).netPast d p).netSend d (netReply p p.index .refuse)

/-- Whether an entry takes a message (15 R325). -/
def winTakes (w : Bytes) (write : Bool) (roff length : Nat) : Bool :=
  winValid w && (if write then winW w else winR w) && roff + length ≤ winSize w

/-- A packet of a write placed (15 R324). -/
def State.netPlace (s : State) (d : Nat) (p : NetPacket) (m : NetIn) (roff length : Nat) (notify : Bool) (data : Bytes) : State :=
  if m.placed.contains p.index then s.netCount d 20
  else
    let c := p.ctx.toNat
    let n := data.length
    let a := winBase m.entry + roff + 4096 * p.index
    let done := s.mappedBytes c a n
    let s := (s.netUnmapped d c a n).netWrite c d a data
    let s := (s.netCredit c d (winCredit m.entry) done).netSend d (netReply p p.index .ack)
    let m := { m with placed := m.placed ++ [p.index] }
    let same := fun (i : NetIn) => i.peer = netSender p && i.ctx = c && i.msg = p.msg
    let s := s.modNet d (fun x => { x with ins := x.ins.filter (fun i => !same i) ++ [m] })
    if m.placed.length * 4096 ≥ length then (s.netPast d p).netNotify d p m.window m.entry notify else s

/-- The data of a read placed at its local address. -/
def State.netData (s : State) (d : Nat) (p : NetPacket) (data : Bytes) : State :=
  match (s.die d).net.msgs.find? (fun m => !m.2.write && m.2.num = p.msg && m.2.ctx = p.src.toNat) with
  | none => s.netCount d 20
  | some (id, m) =>
    let off := 4096 * p.index
    if off ≥ m.length || data.length ≠ min 4096 (m.length - off) then s.netCount d 0
    else if m.acked.contains p.index then s.netCount d 20
    else
      let n := data.length
      let t : TileId := ⟨d, m.job.fi.tile⟩
      if m.lsp && !(s.tile t).engineMay (m.addr + off) n then s.post (.netPacketReceive d p)
      else match (if m.lsp then [] else s.netCopies m.ctx d (m.addr + off) n) with
        | u :: _ => (s.due (.firstWriteCopy d m.ctx u)).post (.netPacketReceive d p)
        | [] =>
          let done := if m.lsp then n else s.mappedBytes m.ctx (m.addr + off) n
          let s := if m.lsp then s.engineWrite t (m.addr + off) data
            else (s.netUnmapped d m.ctx (m.addr + off) n).netWrite m.ctx d (m.addr + off) data
          let s := s.netCredit m.ctx d m.credit done
          let m := { m with acked := m.acked ++ [p.index] }
          let s := s.modNet d (fun x => { x with msgs := NMap.put x.msgs id m })
          if m.acked.length * 4096 ≥ m.length then s.netEnd d id 0 else s

/-- The outstanding write that an answer from a peer belongs to. -/
def State.netWriteOf (s : State) (d : Nat) (p : NetPacket) : Option (Nat × NetMsg) :=
  (s.die d).net.msgs.find? (fun m => m.2.num = p.msg && m.2.ctx = p.src.toNat)

/-- Whether the transport has brought what a packet follows: the packets of an ROD message are delivered in order (15 R317). -/
def State.netTurn (s : State) (d : Nat) (p : NetPacket) : Bool :=
  !p.ord || (match p.body with
    | .write .. => match (s.die d).net.ins.find? (fun i => i.peer = netSender p && i.ctx = p.ctx.toNat && i.msg = p.msg) with
      | some m => p.index ≤ m.placed.length
      | none => p.index = 0 || (s.die d).net.past.contains (netSender p, p.ctx.toNat, p.msg)
    | .readData _ => (match (s.die d).net.msgs.find? (fun m => !m.2.write && m.2.num = p.msg && m.2.ctx = p.src.toNat) with
      | some (_, m) => p.index ≤ m.acked.length
      | none => true)
    | _ => true)

/-- A packet at the port (15 R317 to R319, R324, R325). -/
def State.netReceive (s : State) (d : Nat) (p : NetPacket) : State :=
  if !(s.die d).net.up then s
  else if !s.netOwn d p || !netFormed p then s.netCount d 0
  else
    let c := p.ctx.toNat
    let gone := (s.die d).net.past.contains (netSender p, c, p.msg)
    match p.body with
    | .write w roff length notify data =>
      if gone then s.netCount d 20
      else match (s.die d).net.ins.find? (fun i => i.peer = netSender p && i.ctx = c && i.msg = p.msg) with
        | some m => s.netPlace d p m roff.toNat length notify data
        | none =>
          let e := NMap.getD (s.cd c d).windows w []
          if !winTakes e true roff.toNat length then s.netRefuse d p
          else s.netPlace d p { peer := netSender p, ctx := c, msg := p.msg, window := w, entry := e } roff.toNat length notify data
    | .readRequest w roff length notify =>
      if gone then s.netCount d 20
      else
        let e := NMap.getD (s.cd c d).windows w []
        if !winTakes e false roff.toNat length then s.netRefuse d p
        else
          let a := winBase e + roff.toNat
          let s := s.netUnmapped d c a length
          let s := (List.range (ceilDiv length 4096)).foldl (fun s i =>
            s.netSend d (netReply p i (.readData (s.readVa c (a + 4096 * i) (min 4096 (length - 4096 * i)))))) s
          (s.netPast d p).netNotify d p w e notify
    | .readData data => s.netData d p data
    | .ack =>
      match s.netWriteOf d p with
      | some (id, m) =>
        if !m.write || m.acked.contains p.index then s
        else
          let m := { m with acked := m.acked ++ [p.index] }
          let s := s.modNet d (fun x => { x with msgs := NMap.put x.msgs id m })
          if m.acked.length * 4096 ≥ m.length then s.netEnd d id 0 else s
      | none => s
    | .refuse =>
      match s.netWriteOf d p with
      | some (id, _) => s.netEnd d id 1
      | none => s

/-! ### The other minors (15 R331) -/

/-- The counter of a NET literal. -/
def Fields.ncLit (f : Fields) : Nat := f.litBits 0 6

/-- A firing that waits in a reply slot. -/
def State.netHold (s : State) (j : Job) (minor : Nat) (kind : ReplyKind) (a : Bytes) : State :=
  let t := j.fi.at_
  match (s.tile t).freeSlot with
  | none => (s.agqNote t 0).offerAgain j.fi
  | some k =>
    let (id, s) := s.fresh
    s.modTile t (fun x => { x with replies := NMap.put x.replies k {
      job := j, kind := kind, major := 0x23, minor := minor, serial := id, left := [], buf := a, since := s.cycles } })

def execNetWait (f : Fields) (s : State) : Host.Outcome State Fault Refusal :=
  .next (s.fireAcquiring f (some .value) (dests f) (sregDests f) (fun j s =>
    let c := s.regionCtx j.fi.region
    let k := Fields.ncLit f
    let t := numAt (operandIn s j .none true) 0 4
    let v := s.ncnt c j.fi.die k
    if ncReached v t then
      ((s.consume j.fi).acquire j.fi.at_ f.scope).emitAll j (s.sawAll (s.syncUp j j.fi.stTag)) .value (ncBytes v)
    else s.netHold j 1 (.netWait k t) []))

/-- A read of timing or occupancy: zeros at ORDERED and above, and TIMEREAD (17 R347). -/
def State.emitTimed (s : State) (j : Job) (bs : Bytes) : State :=
  let c := s.regionCtx j.fi.region
  let s' := s.consume j.fi
  if s.level c ≥ 1 then (s'.setStatus c j.fi.die 9).emitBoth j .value (zeros bs.length) else s'.emitBoth j .value bs

def execNetNcget (f : Fields) (s : State) : Host.Outcome State Fault Refusal :=
  .next (s.fire f (some .value) (dests f) (sregDests f) (fun j s =>
    s.emitTimed j (ncBytes (s.ncnt (s.regionCtx j.fi.region) j.fi.die (Fields.ncLit f)))))

def execNetNcset (f : Fields) (s : State) : Host.Outcome State Fault Refusal :=
  .next (s.fire f (some .value) (dests f) (sregDests f) (fun j s =>
    let c := s.regionCtx j.fi.region
    let v := BitVec.ofNat 64 (numAt (operandIn s j .none true) 0 4)
    let s := (s.consume j.fi).setNcnt c j.fi.die (Fields.ncLit f) v
    (s.netWake c j.fi.die (Fields.ncLit f)).emitBoth j .value (ncBytes v)))

def execNetCancel (f : Fields) (s : State) : Host.Outcome State Fault Refusal :=
  .next (s.fire f (some .value) (dests f) (sregDests f) (fun j s =>
    let d := j.fi.die
    let n := BitVec.ofNat 32 (numAt (operandIn s j .none false) 0 4)
    let s := s.consume j.fi
    match (s.netOf (s.regionCtx j.fi.region) d).find? (fun m => m.2.num = n) with
    | none => s.emitBoth j .value (leBytes 4 2)
    | some (id, m) =>
      if m.sent = 0 && (NMap.find (s.die d).net.upds id).isNone then (s.netEnd d id 3).emitBoth j .value (leBytes 4 0)
      else s.emitBoth j .value (leBytes 4 1)))

def execNetNfence (f : Fields) (s : State) : Host.Outcome State Fault Refusal :=
  .next (s.fire f (some .value) (dests f) (sregDests f) (fun j s =>
    let a := operandIn s j .none false
    let mine := ((s.netOf (s.regionCtx j.fi.region) j.fi.die).filter (fun m => m.2.job.fi.tile = j.fi.tile)).map (·.1)
    if mine.isEmpty then (s.consume j.fi).emitBoth j .value a else s.netHold j 5 (.netFence mine) a))

def execNetNstat (f : Fields) (s : State) : Host.Outcome State Fault Refusal :=
  .next (s.fire f (some .value) (dests f) (sregDests f) (fun j s => s.emitTimed j (leBytes 8 (s.netStat j.fi.die).toNat)))

/-! ### The steps -/

def execNetMessageSend (s : State) : Host.Outcome State Fault Refusal :=
  match s.ev with
  | .netMessageSend d id => .next (s.netSendStep d id)
  | _ => .next s
def execNetPacketReceive (s : State) : Host.Outcome State Fault Refusal :=
  match s.ev with
  | .netPacketReceive d p => .next (s.netReceive d p)
  | _ => .next s
def execNetLocalCompletion (s : State) : Host.Outcome State Fault Refusal :=
  match s.ev with
  | .netLocalCompletion d id => .next (s.netUpdate d id)
  | _ => .next s
def execNetTransportAbandon (s : State) : Host.Outcome State Fault Refusal :=
  match s.ev with
  | .netTransportAbandon d id => .next (s.netEnd d id 2)
  | _ => .next s
/-- The transport sends again one of the packets of a message that are not acknowledged (15 R319). -/
def execTransportRetransmission (s : State) : Host.Outcome State Fault Refusal :=
  match s.ev with
  | .transportRetransmission d id =>
    .next (match NMap.find (s.die d).net.msgs id with
      | none => s
      | some m =>
        let open_ := m.out.filter (fun p => !m.acked.contains p.index)
        match open_[Config.netAgain s.ticks % open_.length]? with
        | none => s
        | some p => (s.netCount d 30).netSend d p)
  | _ => .next s

end Sys2Proof.Machine
end

