-- ==== Sys2Proof/Machine/Boundary.lean ====
section
/-! DEFINITION. The drain of a context (17 R358, 18 R379), checkpoints and interval boundaries (17 R358), first-write copies (17 R359),
rollbacks (17 R360), uncorrectable errors (17 R361) and the host's side of the Accession Ring (17 R350, R353, R355). -/

namespace Sys2Proof.Machine

/-! ### What belongs to a context -/

/-- The context of a packet: none for a host packet, a packet for the host, and a physical request. -/
def pktOwner (p : Packet) : Option Nat := if p.phys || p.fromHost || p.toHost then none else some p.ctx.toNat

/-- The context that an event belongs to. -/
def State.evCtx (s : State) (e : Event) : Option Nat :=
  match e with
  | .tokenArrival a => some (s.ctxOf a.at_)
  | .spillProbeDone t | .spillRefill t | .schedulerDecision t | .instanceAdmit t | .commitDrain t | .fullEmptyWaitPerform t
  | .forwardingRetire t | .agPortIssue t | .orderConditionMet t | .keystoreCompletion t => some (s.ctxOf t)
  | .blockLoadDone t _ | .barwaitRetry t _ | .requestTimeoutResend t _ | .relopenSpacingExpiry t _ =>
    if t.tile < 1024 then some (s.ctxOf t) else none
  | .launchRecordCheck id | .leaseResidencyCheck id | .regionConfigured id | .heldLaunchConfigure id =>
    (NMap.find s.launches id).map (·.ctx)
  | .reswaitTimeout d k => ((NMap.find (s.die d).resSlots k).bind (NMap.find s.launches)).map (·.ctx)
  | .quiescenceWave r | .phaseSum r => (s.region? r).map (·.launch.ctx)
  | .queueWaiterAnswer d q _ => some (fieldOf (s.queue d q).ctl 0 12)
  | .ownerPerform _ p | .tlbMissFill _ p | .soHeldPerform _ p | .byteCredit _ p | .packetHop _ p | .packetAgeDrop _ p
  | .releaseWriteArrival _ p | .releaseFlagArrival _ p | .releaseCompleteArrival _ p | .gapReportArrival _ p
  | .groupAbortArrival _ p | .replyDelivery p => if p.typ = 0x0C then none else pktOwner p
  | .islandCommandEntry d k | .rowUpdateLand d k | .releaseTokenOut d k => some (s.island d k).ctx
  | .netMessageSend d m | .netTransportAbandon d m | .transportRetransmission d m =>
    (NMap.find (s.die d).net.msgs m).map (·.ctx)
  | .netLocalCompletion d m => (NMap.find (s.die d).net.upds m).map (·.ctx)
  | .flagResendTimer _ g | .abortResendTimer _ g | .gapTimer _ g | .receiveEntryExpiry _ g => some g.ctx.toNat
  | .drainTokenArrival op => (s.drainOps.find? (fun o => o.id = op)).map (·.ctx)
  | .firstWriteCopy _ c _ => some c
  | _ => none

/-! ### The drain -/

/-- Whether a request at its owner waits for something that this drain does not bring about: a copy that finds no room, an access of an
earlier run, the SO request before it. -/
def State.ownerWaits (s : State) (d : Nat) (p : Packet) (so : Bool) : Bool := s.ownerBlocked d p || (so && s.soAhead d p)

/-- Whether a reply is a BARWAIT's that waits for the levels to restart (11 R424). -/
def State.waitsForLevel (s : State) (p : Packet) : Bool :=
  p.tile < 1024 && (match NMap.find (s.tile ⟨p.to_.toNat % 8, p.tile⟩).replies p.slot with
    | some r => s.replyFull r (BitVec.ofNat 32 p.stamp.level.toNat)
    | none => false)

/-- Whether an event carries on a request of a context that is under way: a drain waits for it. -/
def State.flying (s : State) (c : Nat) (e : Event) : Bool :=
  let mine := s.evCtx e = some c
  match e with
  | .forwardingRetire _ | .keystoreCompletion _ | .orderConditionMet _ => mine
  | .agPortIssue t => mine && (s.tile t).port.any (fun p => (s.tile t).gateOpen p)
  | .ownerPerform d p | .byteCredit d p => mine && !s.ownerWaits d p false
  | .soHeldPerform d p => mine && !s.ownerWaits d p true
  | .tlbMissFill _ _ => mine
  | .replyDelivery p => mine && !s.waitsForLevel p
  | .packetHop _ p | .packetAgeDrop _ p => mine && !(0x05 ≤ p.typ.toNat && p.typ.toNat ≤ 0x09)
  | .islandCommandEntry d k =>
    mine && !((s.modIsland d k (fun x => { x with held := false, rampHeld := false })).mayEnter d k).isEmpty
  | .rowUpdateLand _ _ | .releaseTokenOut _ _ => mine
  | .firstWriteCopy d _ _ => mine && !s.copiesFull c d
  | .drainTokenArrival op => mine && s.drainHere op
  | _ => false

/-- The parts of a context's requests that stay behind in a drain. -/
def State.stuckParts (s : State) (c : Nat) : List Nat :=
  (s.ctxTiles c).flatMap (fun t => (s.tile t).port.map (·.pkt.part))
    ++ s.agenda.filterMap (fun e => match e with
      | .ownerPerform _ p | .soHeldPerform _ p => if pktOwner p = some c then some p.part else none
      | _ => none)

/-- Whether a reply slot still waits for a part under way. -/
def Reply.draining (r : Reply) (stuck : List Nat) : Bool :=
  match r.kind with
  | .data | .atomic | .barrier | .remote | .weights _ => r.left.any (fun p => !stuck.contains p)
  | _ => false

/-- Whether the drain markers of a context have all arrived (17 R358, 18 R379). -/
def State.drained (s : State) (c : Nat) : Bool :=
  let stuck := s.stuckParts c
  !s.agenda.any (s.flying c)
    && (s.ctxTiles c).all (fun t =>
      let x := s.tile t
      x.kqueue.isEmpty && x.fwd.isEmpty && x.replies.all (fun r => !r.2.draining stuck)
        && x.outs.all (fun o => o.unseen.all (fun p => stuck.contains p)))
    && s.dies.all (fun d =>
      d.2.streams.all (fun q => q.2.all (fun r => r.ctx ≠ c)) && d.2.gram.queue.all (fun r => s.regionCtx r.job.fi.region ≠ c))
    && s.islands.all (fun i => i.2.ctx ≠ c || i.2.region = 0 || (i.2.flight.isEmpty && i.2.outq.isEmpty))

/-- Whether a rollback of a context is due. -/
def State.rollingBack (s : State) (c : Nat) : Bool := s.agenda.contains (.rollback c)

/-- Whether a context's tiles neither fire nor take tokens because it is drained, saved or rolled back. -/
def State.draining (s : State) (c : Nat) : Bool :=
  s.bounding c || s.rollingBack c || (s.ctx c).st = .preempting || (s.ctx c).st = .saved

/-! ### Checkpoints -/

/-- The entries of every die's list that belong to a context, each with its die. -/
def State.perDie (s : State) {α : Type} (l : Die → List α) (p : α → Bool) : List (Nat × α) :=
  s.dies.flatMap (fun d => ((l d.2).filter p).map (fun x => (d.1, x)))

/-- The entries of a context put back into every die's list: `get` reads the list, the rest of which stays. -/
def backTo {α : Type} (l : List α) (p : α → Bool) (d : Nat) (es : List (Nat × α)) : List α :=
  l.filter (fun x => !p x) ++ (es.filter (fun e => e.1 = d)).map (·.2)

/-- The same for a map. -/
def backToMap {α : Type} (l : NMap α) (p : α → Bool) (d : Nat) (es : List (Nat × (Nat × α))) : NMap α :=
  (es.filter (fun e => e.1 = d)).foldl (fun m e => NMap.put m e.2.1 e.2.2) (l.filter (fun x => !p x.2))

/-- Whether an SO stream is one of some tiles of this package. -/
def State.soOf (s : State) (ts : List TileId) (k : (Nat × Nat) × Nat) : Bool :=
  ts.any (fun t => (s.code t.die).toNat = k.1.1 && t.tile = k.1.2)

/-- The tiles of a context's launches under way and regions. -/
def State.regionsOf (s : State) (c : Nat) : NMap Region := s.regions.filter (fun p => p.2.launch.ctx = c)

/-- The state of a context's tiles and islands, with its ready sets and the events of its tiles. -/
def State.chipState (s : State) (c : Nat) : Snapshot :=
  let rs := s.regionsOf c
  let ts := s.ctxTiles c
  let is := rs.flatMap (fun r => r.2.islands)
  { st := (s.ctx c).st, regions := rs,
    tiles := s.tiles.filter (fun p => ts.any (fun t => tileKey t = p.1)),
    islands := s.islands.filter (fun p => is.any (fun i => islKey i.1 i.2 = p.1)),
    ready := s.ready.filter (fun fi => rs.any (fun r => r.1 = fi.region)),
    events := s.agenda.filter (fun e => onTiles ts e || (match e with
      | .islandCommandEntry d k | .rowUpdateLand d k | .releaseTokenOut d k => is.contains (d, k)
      | _ => false)),
    intv := (s.ctx c).intv, brk := (s.ctx c).brk }

/-- The checkpoint of a context (17 R358). -/
def State.checkpoint (s : State) (c : Nat) : Snapshot :=
  let ts := s.ctxTiles c
  { s.chipState c with
    launches := s.launches.filter (fun p => p.2.ctx = c)
    events := s.agenda.filter (fun e => s.evCtx e = some c)
    cds := (List.range 8).map (fun d => (d, s.cd c d))
    sends := s.perDie (·.sends) (fun e => e.ctx = c)
    recvs := s.perDie (·.recvs) (fun e => e.1.ctx.toNat = c)
    copies := s.perDie (·.copies) (fun p => p.ctx.toNat = c)
    relChans := s.perDie (·.relChans) (fun p => p.1 / 256 = c)
    msgs := s.perDie (·.net.msgs) (fun p => p.2.ctx = c)
    upds := s.perDie (·.net.upds) (fun p => p.2.ctx = c && p.2.fin)
    soNext := s.perDie (·.soNext) (s.soOf ts)
    waiters := s.perDie (·.waiters) (fun w => w.2.ctx.toNat = c)
    queues := s.perDie (·.queues) (fun q => fieldOf q.2.ctl 0 12 = c)
    drainOps := s.drainOps.filter (fun o => o.ctx = c && o.cmd.isNone) }

/-! ### Levels restart (11 R424) -/

def Token.level0 (t : Token) : Token := { t with tag := { t.tag with level := 0 } }
def Arrival.level0 (a : Arrival) : Arrival := { a with tok := Token.level0 a.tok }
def Firing.level0 (fi : Firing) : Firing := { fi with tokA := fi.tokA.map Token.level0, tokB := fi.tokB.map Token.level0 }
def Job.level0 (j : Job) : Job := { j with fi := j.fi.level0 }
def Access.level0 (a : Access) : Access := { a with job := a.job.level0 }
def Packet.level0 (p : Packet) : Packet := { p with stamp := { p.stamp with level := 0 } }

def Effect.level0 (e : Effect) : Effect :=
  match e with
  | .chan c t rel src => .chan c (Token.level0 t) rel src
  | .exit x t rel target src => .exit x (Token.level0 t) rel target src
  | .stl j ws ef => .stl j.level0 ws ef
  | .store a => .store a.level0
  | .copy c => .copy { c with job := c.job.level0 }
  | .rst a => .rst a.level0
  | .spawn j kids => .spawn j.level0 (kids.map Arrival.level0)

/-- A tile with every level at 0. -/
def Tile.level0 (x : Tile) : Tile :=
  { x with
    entries := x.entries.map (fun e => { e with tok := Token.level0 e.tok })
    spillBuf := x.spillBuf.map Arrival.level0
    latch := x.latch.map Arrival.level0
    passes := x.passes.map (fun p => { p with
      held := p.held.map Effect.level0
      exits := p.exits.map (fun e => { e with eff := e.eff.level0 }) })
    l1 := x.l1.map (fun e => { e with levels := e.levels.map (fun _ => 0) })
    drains := x.drains.map (fun d => { d with effects := d.effects.map Effect.level0 })
    waitList := x.waitList.map (fun w => { w with job := w.job.level0 })
    replies := x.replies.map (fun r => (r.1, { r.2 with job := r.2.job.level0, level := 0, pkts := r.2.pkts.map Packet.level0 }))
    port := x.port.map (fun p => { p with pkt := Packet.level0 p.pkt })
    outs := x.outs.map (fun o => { o with job := o.job.level0 })
    orders := x.orders.map (fun o => { o with job := o.job.level0, tag := { o.tag with level := 0 } }) }

/-- An event with every level at 0. -/
def eventLevel0 (e : Event) : Event :=
  match e with
  | .tokenArrival a => .tokenArrival (Arrival.level0 a)
  | .ownerPerform d p => .ownerPerform d (Packet.level0 p)
  | .soHeldPerform d p => .soHeldPerform d (Packet.level0 p)
  | .byteCredit d p => .byteCredit d (Packet.level0 p)
  | .tlbMissFill d p => .tlbMissFill d (Packet.level0 p)
  | .packetHop d p => .packetHop d (Packet.level0 p)
  | .packetAgeDrop d p => .packetAgeDrop d (Packet.level0 p)
  | .releaseWriteArrival d p => .releaseWriteArrival d (Packet.level0 p)
  | .releaseFlagArrival d p => .releaseFlagArrival d (Packet.level0 p)
  | .replyDelivery p => .replyDelivery (Packet.level0 p)
  | .mailboxWrite d p => .mailboxWrite d (Packet.level0 p)
  | _ => e

/-- The sync field of the records of a tile's spilled tokens set to 0 (04 R73). -/
def State.spillLevel0 (s : State) (t : TileId) : State :=
  match s.regionOf t with
  | none => s
  | some r =>
    let (base, _) := sliceBase r (s.tile t).position
    (s.tile t).spilled.foldl (fun s p => s.writeVa r.launch.ctx (slotAddr base p.slot + 0x1C) (zeros 4)) s

/-- Every level of a context at 0. -/
def State.levels0 (s : State) (c : Nat) : State :=
  let ts := s.ctxTiles c
  let s := ts.foldl (fun s t => (s.spillLevel0 t).modTile t Tile.level0) s
  { s with
    ready := s.ready.map (fun fi => if s.regionCtx fi.region = c then fi.level0 else fi)
    agenda := s.agenda.map (fun e => if s.evCtx e = some c then eventLevel0 e else e)
    regions := s.regions.map (fun p => if p.2.launch.ctx = c then (p.1, { p.2 with level := 0 }) else p)
    islands := s.islands.map (fun i => if i.2.ctx = c then (i.1, { i.2 with
      cmds := i.2.cmds.map (fun k => { k with job := k.job.level0, level := 0 })
      pend := i.2.pend.map (fun e => { e with job := e.job.level0 }) }) else i)
    dies := s.dies.map (fun d => (d.1, { d.2 with
      waiters := d.2.waiters.map (fun w => if w.2.ctx.toNat = c then (w.1, Packet.level0 w.2) else w)
      sends := d.2.sends.map (fun e => if e.ctx = c
        then { e with level := 0, flag := e.flag.map Packet.level0, abortPkt := e.abortPkt.map Packet.level0 } else e)
      recvs := d.2.recvs.map (fun e => if e.1.ctx.toNat = c
        then (e.1, { e.2 with held := e.2.held.map Packet.level0, reply := e.2.reply.map Packet.level0 }) else e)
      copies := d.2.copies.map (fun p => if p.ctx.toNat = c then Packet.level0 p else p)
      net := { d.2.net with msgs := d.2.net.msgs.map (fun m => if m.2.ctx = c then (m.1, { m.2 with job := m.2.job.level0 }) else m) } }))
    ctxs := s.ctxs.map (fun x => if x.1 = c
      then (x.1, { x.2 with brk := x.2.brk.map (fun b => (b.1.level0, b.2)), intv := x.2.intv.map (fun b => (b.1.level0, b.2)) }) else x)
    ctxDies := s.ctxDies.map (fun x => if x.1 / 8 = c then (x.1, { x.2 with pending := x.2.pending.map (fun p =>
      (p.1, { p.2 with job := p.2.job.map Job.level0, acc := p.2.acc.map Access.level0 })) }) else x) }

/-! ### The interval boundary (17 R358) -/

/-- The record of a boundary on every die where the context is resident: the first die whose ring cannot take it holds the boundary. -/
def State.boundaryGate (s : State) (c : Nat) (r : LogRec) : Gate :=
  let ds := (s.ctx c).dies
  match ds.findSome? (fun d => match s.logEvent c d r with
    | .wait s => some s
    | .go _ => none) with
  | some s => .wait s
  | none => .go (ds.foldl (fun s d => match s.logEvent c d r with
    | .go s => s
    | .wait s => s) s)

/-- What a die holds of a context once a boundary is taken: no copy, no IW bit, no order of the old interval. -/
def CtxDie.newInterval (x : CtxDie) : CtxDie :=
  { x with
    copies := [], history := [], heldUnits := [], atoms := [], unitLevels := [], netDone := []
    pages := x.pages.map (fun p => { p with desc := withField p.desc 54 1 0 }) }

/-- The work queues of a context, each with its die, changed. -/
def State.mapQueues (s : State) (c : Nat) (g : Nat → Nat → Queue → Queue) : State :=
  { s with dies := s.dies.map (fun d => (d.1, { d.2 with
      queues := d.2.queues.map (fun q => if fieldOf q.2.ctl 0 12 = c then (q.1, g d.1 q.1 q.2) else q) })) }

/-- A new interval of a context: no copy, no IW bit, no order of the old one, no launch taken in it. -/
def State.newInterval (s : State) (c : Nat) : State :=
  ((List.range 8).foldl (fun s d => s.modCd c d CtxDie.newInterval) s).mapQueues c (fun _ _ q => { q with taken := 0 })

/-- A work queue as it stood at the boundary: the launches taken since are to be taken again. -/
def Queue.rolledBack (now old : Queue) : Queue :=
  { now with
    head := now.head - BitVec.ofNat 32 now.taken, taken := 0
    age := old.age, asked := old.asked, met := old.met }

/-- The INTV firings that waited for a boundary emit (17 R362). -/
def State.intvOut (s : State) (js : List (Job × Bytes)) : State :=
  js.foldl (fun s p => s.settle p.1 ((s.consume p.1.fi).emit2 p.1 .value p.2)) s

/-- A boundary of a context taken: the records, the new interval, the checkpoint. -/
def State.boundaryStep (s : State) (c cause : Nat) : State :=
  if s.level c = 0 then s
  else
    let n := (s.ctx c).interval + 1
    match s.boundaryGate c ⟨1, 5, 0, 0, n, cause, 0⟩ with
    | .wait s => s.post (.intervalBoundary c (BitVec.ofNat 2 cause))
    | .go s =>
      let s := s.levels0 c
      let s := s.newInterval c
      let s := (s.ctxTiles c).foldl (fun s t => s.modTile t (fun x => { x with sregWriter := [] })) s
      let js := (s.ctx c).intv
      let s := s.modCtx c (fun x => { x with
        interval := n, reruns := if x.reruns ≥ 256 then x.reruns else 0, badLines := [] })
      let s := { s with snaps := NMap.put s.snaps c (s.checkpoint c) }
      let s := (s.modCtx c (fun x => { x with intv := [] })).intvOut js
      (s.ctxTiles c).foldl (fun s t => s.wakeTile t) s

/-! ### First-write copies (17 R359) -/

/-- A unit copied into the pool before its first write of the interval: with no room a boundary is asked for and the copy waits. -/
def State.copyStep (s : State) (d c unit : Nat) : State :=
  if (NMap.find (s.cd c d).copies unit).isSome then s
  else if s.copiesFull c d then (s.askBoundary c 2).post (.firstWriteCopy d c unit)
  else s.takeCopy c d unit

/-! ### Rollback (17 R360) -/

/-- A memory with a 64 KiB unit as it was. -/
def restoreUnit (m : Memory) (unit : Nat) (old : Memory) : Memory :=
  old.foldl (fun m p => Memory.set m p.1 p.2) (m.filter (fun p => p.1 / 65536 ≠ unit))

/-- The events of a context thrown away; the slots of links in which its packets stood are given back. -/
def State.throwEvents (s : State) (c : Nat) : State :=
  let gone := s.agenda.filter (fun e => s.evCtx e = some c)
  let s := { s with agenda := s.agenda.filter (fun e => !gone.contains e) }
  gone.foldl (fun s e => match e with
    | .packetHop _ p | .packetAgeDrop _ p => s.leaveSlot p
    | _ => s) s

/-- An event put back: a packet stands in no slot of a link. -/
def eventBack (e : Event) : Event :=
  match e with
  | .packetHop d p => .packetHop d { p with viaLink := none, held := none }
  | .packetAgeDrop d p => .packetAgeDrop d { p with viaLink := none, held := none }
  | _ => e

/-- The on-chip state of a context thrown away: its regions, launches, ready sets, streams and engine requests. -/
def State.throwChip (s : State) (c : Nat) : State :=
  let rs := s.regionsOf c
  let ts := s.ctxTiles c
  let is := rs.flatMap (fun r => r.2.islands)
  let s := (s.throwEvents c).freeIslands is
  let s := { s with
    ready := s.ready.filter (fun fi => !rs.any (fun r => r.1 = fi.region))
    regions := s.regions.filter (fun p => p.2.launch.ctx ≠ c)
    launches := s.launches.filter (fun p => p.2.ctx ≠ c)
    drainOps := s.drainOps.filter (fun o => !(o.ctx = c && o.cmd.isNone))
    dies := s.dies.map (fun d => (d.1, { d.2 with
      streams := d.2.streams.map (fun q => (q.1, q.2.filter (fun r => r.ctx ≠ c)))
      stalled := d.2.stalled.filter (fun p => p.ctx.toNat ≠ c)
      resSlots := d.2.resSlots.filter (fun k => ((NMap.find s.launches k.2).map (·.ctx)) ≠ some c)
      gram := { d.2.gram with queue := d.2.gram.queue.filter (fun r => s.regionCtx r.job.fi.region ≠ c) } })) }
  ts.foldl (fun s t => (s.modTile t freeTile).due (.scratchpadClearDone t)) s

/-- What a die holds of a context put back: counters that a window names stand, and so do copies and what Curator wrote. -/
def CtxDie.rolledBack (x old : CtxDie) (level : Nat) (now : Nat) : CtxDie :=
  let mine := fun (p : Nat × BitVec 64) => !x.windowCounter p.1
  let g := x.ring
  let from_ := if g.marked then g.commit.toNat + 1 else 0
  { x with
    pending := old.pending, sent := old.sent, recv := old.recv, phases := old.phases, msgNo := old.msgNo
    ncnt := (old.ncnt.filter mine).foldl (fun m p => NMap.put m p.1 p.2) (x.ncnt.filter (fun p => !mine p))
    atoms := old.atoms, unitLevels := old.unitLevels, history := []
    ring := if level = 2 then { g with
        redo := if from_ < g.tail.toNat then some (from_, g.tail.toNat) else none, since := now, failed := none }
      else if level = 3 then { g with head := BitVec.ofNat 64 from_, since := now, failed := none, lowPosted := false }
      else g }

/-- A tile put back: its L1 is empty, and the bits that only their own means clear stand (00 R5). -/
def Tile.rolledBack (old now : Tile) : Tile :=
  { old with
    l1 := [], l1Skip := [], watchStat := now.watchStat, mstat := now.mstat, spadStat := now.spadStat, agqStat := now.agqStat,
    kstat := now.kstat }

/-- The messages of a context put back (17 R360): writes posted before the boundary go on, or end as they have ended; writes posted after
it run on, to be joined; reads are sent again. -/
def State.netBack (s : State) (c d : Nat) (snap : Snapshot) : State :=
  let now := s.netOf c d
  let old := (snap.msgs.filter (fun m => m.1 = d)).map (·.2)
  let keep := now.filter (fun m => m.2.write && !(old.any (fun o => o.1 = m.1)))
  let done := (s.cd c d).netDone
  let rest := (s.die d).net.msgs.filter (fun m => m.2.ctx ≠ c)
  let msgs := old.foldl (fun (l : NMap NetMsg) o =>
    match o.2.write, NMap.find now o.1 with
    | true, some m => NMap.put l o.1 { m with job := o.2.job, tokens := o.2.tokens }
    | true, none => NMap.put l o.1 { o.2 with sent := ceilDiv o.2.length 4096 }
    | false, _ => NMap.put l o.1 { o.2 with sent := 0, acked := [], out := [] }) rest
  let msgs := keep.foldl (fun l m => NMap.put l m.1 { m.2 with ghost := true, tokens := false }) msgs
  let upds := (s.die d).net.upds.filter (fun u => !(u.2.ctx = c && u.2.fin))
  let s := s.modNet d (fun x => { x with msgs := msgs, upds := upds })
  old.foldl (fun s o =>
    match o.2.write, NMap.find now o.1 with
    | true, some m =>
      if (NMap.find (s.die d).net.upds o.1).isSome then s
      else if m.acked.length * 4096 ≥ m.length then s.netEnd d o.1 0
      else if m.sent * 4096 ≥ m.length then s.postDone d o.1 else s.due (.netMessageSend d o.1)
    | true, none => s.netEnd d o.1 (if done.contains o.2.num then 0 else 2)
    | false, _ => s.due (.netMessageSend d o.1)) s

/-- A launch of the checkpoint put back: one that stood in a residency slot is checked again. -/
def State.launchBack (s : State) (p : Nat × Launch) : State :=
  let s := { s with launches := NMap.put s.launches p.1 { p.2 with slot := none } }
  if p.2.slot.isSome then s.due (.leaseResidencyCheck p.1) else s

/-- The state of a checkpoint put back (17 R360 steps 1 to 3). -/
def State.restoreSnap (s : State) (c : Nat) (snap : Snapshot) : State :=
  let gone := (s.regionsOf c).flatMap (fun p => p.2.launch.active) ++ (s.launches.filter (fun p => p.2.ctx = c)).flatMap (fun p => p.2.active)
  let units : NMap Memory := (List.range 8).flatMap (fun d => (s.cd c d).copies)
  let s : State := { s with mem := units.foldl (fun m (u : Nat × Memory) => restoreUnit m u.1 u.2) s.mem }
  let s := s.throwChip c
  let ts := snap.regions.flatMap (fun (p : Nat × Region) => p.2.tiles)
  let s : State := { s with
    regions := snap.regions.foldl (fun m p => NMap.put m p.1 p.2) s.regions
    tiles := snap.tiles.foldl (fun m p => NMap.put m p.1 (p.2.rolledBack (NMap.getD m p.1 {}))) s.tiles
    islands := snap.islands.foldl (fun m p => NMap.put m p.1 p.2) s.islands
    ready := s.ready ++ snap.ready
    drainOps := s.drainOps ++ snap.drainOps
    dies := s.dies.map (fun (d : Nat × Die) => (d.1, { d.2 with
      sends := backTo d.2.sends (fun e => e.ctx = c) d.1 snap.sends
      recvs := backTo d.2.recvs (fun e => e.1.ctx.toNat = c) d.1 snap.recvs
      copies := backTo d.2.copies (fun p => p.ctx.toNat = c) d.1 snap.copies
      relChans := (snap.relChans.filter (fun e => e.1 = d.1)).foldl (fun m e => NMap.put m e.2.1 e.2.2)
        (d.2.relChans.filter (fun p => p.1 / 256 ≠ c))
      soNext := backTo d.2.soNext (s.soOf ts) d.1 snap.soNext
      waiters := backTo d.2.waiters (fun w => w.2.ctx.toNat = c) d.1 snap.waiters })) }
  let s := s.mapQueues c (fun d k q => q.rolledBack (NMap.getD ((snap.queues.filter (fun e => e.1 = d)).map (·.2)) k {}))
  let s := s.dropEvents (fun e => match e with
    | .scratchpadClearDone t => ts.contains t
    | _ => false)
  let s := snap.launches.foldl (fun s p => s.launchBack p) s
  let s := snap.events.foldl (fun s e => match e with
    | .reswaitTimeout _ _ | .netMessageSend _ _ | .netLocalCompletion _ _ => s
    | _ => s.due (eventBack e)) s
  let lv := s.level c
  let s := snap.cds.foldl (fun s p => s.modCd c p.1 (fun x => x.rolledBack p.2 lv s.cycles)) s
  let s := (List.range 8).foldl (fun s d => s.netBack c d snap) s
  let s := s.dropLeases c gone
  let held := (s.regionsOf c).flatMap (fun (p : Nat × Region) => p.2.launch.active)
  let s := held.foldl (fun (s : State) r => s.markLeased c r) s
  let s := s.modCtx c (fun x => { x with st := snap.st, brk := snap.brk, intv := [], heldEnd := none })
  let s := s.intvOut snap.intv
  let s := (List.range 8).foldl (fun s d => s.decideAgain d) s
  ts.foldl (fun s t => s.wakeTile t) s

/-- Whether a rollback finds the tiles and islands of its checkpoint (log entry 35). -/
def State.placesForSnap (s : State) (c : Nat) : Bool :=
  match NMap.find s.snaps c with
  | none => true
  | some snap =>
    (snap.regions.flatMap (fun p => p.2.tiles)).all (fun t => (s.tile t).region = 0 || s.ctxOf t = c)
      && (snap.regions.flatMap (fun p => p.2.islands)).all (fun i => (s.island i.1 i.2).region = 0 || (s.island i.1 i.2).ctx = c)

/-- A context rolled back to its last boundary (17 R360); one that has been rerun too often halts there (11 R238). -/
def State.rollbackStep (s : State) (c : Nat) : State :=
  match NMap.find s.snaps c with
  | none => s
  | some snap =>
    let (cause, d, frame) := (s.ctx c).cause
    let n := (s.ctx c).reruns
    let s := s.restoreSnap c snap
    let s := s.curEvent d 6 c (s.ctx c).interval (leBytes 8 cause)
    let s := if s.level c = 2 then (s.ctx c).dies.foldl (fun s d =>
      if (s.cd c d).ring.redo.isSome then s.due (.replayTimeout d c) else s) s else s
    if n ≥ fieldOf (s.die d).memord 4 8 then
      (s.modCtx c (fun x => { x with reruns := 256 })).raiseFault {
        index := 11, code := 2, sync := false, ctx := c, die := d, detail := leBytes 8 frame }
    else s.modCtx c (fun x => { x with reruns := n + 1 })

/-! ### Uncorrectable errors (17 R361) -/

/-- Whether a line lies in a range of a context's virtual addresses. -/
def State.lineIn (s : State) (c d pa base n : Nat) : Bool :=
  match s.page? c base with
  | none => false
  | some p => vaDie base = d && pdPa p.desc + (base - p.va) ≤ pa && pa < pdPa p.desc + (base - p.va) + n

/-- An uncorrectable error of a context (17 R361): it ends the context, or is corrected by a rollback. -/
def State.errorStep (s : State) (d c : Nat) (e : ErrorSite) : State :=
  let x := s.cd c d
  let g := x.ring
  let pa := match e with
    | .line pa => pa / 64 * 64
    | .chip => 0
  let again := match e with
    | .line pa => (s.ctx c).badLines.contains (d * 2 ^ 40 + pa / 64)
    | .chip => false
  let lost := match e with
    | .line pa =>
      s.lineIn c d pa (fieldOf g.base 21 43 * 2 ^ 21) (2 ^ fieldOf g.size 0 5)
        || s.lineIn c d pa (fieldOf g.shdBase 21 43 * 2 ^ 21) (2 ^ fieldOf g.shdSize 0 5)
        || (NMap.find x.copies (physKey d pa / 65536)).isNone
    | .chip => false
  let during := s.bounding c
  let st := (s.ctx c).st
  if st = .free || st = .ended then s
  else if s.level c = 0 || during || again || lost || (NMap.find s.snaps c).isNone then
    s.raiseFault { index := 9, sync := false, ctx := c, die := d,
                   detail := leBytes 8 pa ++ [BitVec.ofNat 8 ((if again then 1 else 0) + (if during then 2 else 0))] }
  else
    let s := s.modDie d (fun x => { x with
      memord := withBit (withField x.memord 32 32 (min (2 ^ 32 - 1) (fieldOf x.memord 32 32 + 1))) 0 })
    let s := s.modCtx c (fun y => { y with
      cause := (1, d, 0)
      badLines := match e with
        | .line pa => y.badLines ++ [d * 2 ^ 40 + pa / 64]
        | .chip => y.badLines })
    s.due (.rollback c)

/-! ### The host's side of the ring (17 R350, R353, R355) -/

/-- A write of HEAD: at RECORD at most COMMIT; at REPLAY it is ignored. -/
def State.headWrite (s : State) (d c : Nat) (v : BitVec 64) : State :=
  if s.level c = 3 then s
  else s.modRing c d (fun g =>
    let h := if g.commit < v then g.commit else v
    { g with head := h, highPosted := g.highPosted && ({ g with head := h } : Ring).short })

/-- A write of TAIL: at REPLAY the host has supplied records. -/
def State.tailSupply (s : State) (d c : Nat) (v : BitVec 64) : State :=
  if s.level c ≠ 3 then s
  else
    let fresh := (s.cd c d).ring.head = (s.cd c d).ring.tail
    let s := s.modRing c d (fun g => { g with tail := v, lowPosted := false, since := if fresh then s.cycles else g.since })
    s.due (.replayTimeout d c)

/-- The record that must be satisfied next on a die, by its index. -/
def State.headIndex (s : State) (d c : Nat) : Option Nat :=
  let g := (s.cd c d).ring
  if s.level c = 2 then g.redo.map (·.1)
  else if s.level c = 3 && g.head < g.tail then some g.head.toNat else none

/-- The replay timeout has passed for the head record (17 R355). -/
def State.replayLate (s : State) (d c : Nat) : State :=
  match s.headIndex d c with
  | none => s
  | some i => (s.diverge c d 1 i (s.recordAt c d i)).due (.replayTimeout d c)

/-! ### The steps -/

def execIntervalBoundary (s : State) : Host.Outcome State Fault Refusal :=
  match s.ev with
  | .intervalBoundary c cause => .next (s.boundaryStep c cause.toNat)
  | _ => .next s

def execFirstWriteCopy (s : State) : Host.Outcome State Fault Refusal :=
  match s.ev with
  | .firstWriteCopy d c u => .next (s.copyStep d c u)
  | _ => .next s

def execRollback (s : State) : Host.Outcome State Fault Refusal :=
  match s.ev with
  | .rollback c => .next (s.rollbackStep c)
  | _ => .next s

def execMemoryUncorrectable (s : State) : Host.Outcome State Fault Refusal :=
  match s.ev with
  | .memoryUncorrectable d c e => .next (s.errorStep d c e)
  | _ => .next s

def execAccHeadWrite (s : State) : Host.Outcome State Fault Refusal :=
  match s.ev with
  | .accHeadWrite d c v => .next (s.headWrite d c v)
  | _ => .next s

def execAccTailWrite (s : State) : Host.Outcome State Fault Refusal :=
  match s.ev with
  | .accTailWrite d c v => .next (s.tailSupply d c v)
  | _ => .next s

def execReplayTimeout (s : State) : Host.Outcome State Fault Refusal :=
  match s.ev with
  | .replayTimeout d c => .next (s.replayLate d c)
  | _ => .next s

end Sys2Proof.Machine
end

