-- ==== Sys2Proof/Machine/Spawn.lean ====
section
/-! DEFINITION. The meanings of SPAWN and JOIN (06 R118 to R122, R136 to R138). -/

namespace Sys2Proof.Machine

/-! ### Tiles of other packages -/

/-- A tile of a package of the region, seen from this one: the die number of another package's tile is `8 + 8 × package + die`
(log entry 4). -/
def State.farTile (s : State) (pkg die tile : Nat) : TileId := if pkg = s.pkg then ⟨die, tile⟩ else ⟨8 + 8 * pkg + die, tile⟩

/-- The package and the die of a tile. -/
def State.pkgOf (s : State) (t : TileId) : Nat := if t.die < 8 then s.pkg else (t.die - 8) / 8
def TileId.dieNo (t : TileId) : Nat := if t.die < 8 then t.die else (t.die - 8) % 8

/-- Whether a tile belongs to a region: every package of its range receives the same region table (06 R124). -/
def State.hasTile (s : State) (r : Region) (pkg die tile : Nat) : Bool :=
  r.launch.pkgFirst ≤ pkg && pkg < r.launch.pkgFirst + max 1 r.launch.pkgCount && (pkg = s.pkg || r.launch.pkgCount > 1)
    && r.tiles.contains ⟨die, tile⟩

/-- Whether a tile lies within a level's domain relative to another tile (06 R121). -/
def State.inDomain (s : State) (dom : Nat) (t : TileId) (pkg die tile : Nat) : Bool :=
  let home := pkg = s.pkg && die = t.die
  match dom with
  | 0 => true
  | 1 => pkg / 16 = s.pkg / 16
  | 2 => pkg = s.pkg
  | 3 => home
  | 4 => home && clusterOf tile = clusterOf t.tile
  | _ => home && tile = t.tile

/-! ### SPAWN -/

/-- RESULT (06 R137). -/
def spawnResult (frame : BitVec 64) (n k : Nat) : Bytes := leBytes 8 frame.toNat ++ leBytes 4 n ++ leBytes 1 k ++ zeros 3

/-- The child of a frame at a level with an ordinal (06 R118). -/
def childFrame (ls : List (BitVec 16)) (p : BitVec 64) (k n : Nat) : BitVec 64 :=
  clearFrom ls p k ||| BitVec.ofNat 64 ((n + 1) * 2 ^ levelLow ls k)

/-- The width of a level's field. -/
def widthOf (ls : List (BitVec 16)) (k : Nat) : Nat := (ls[k]?.map levelWidth).getD 0

/-- The tile that a placement names, when it may take the children (06 R136, R137). -/
def State.placement (s : State) (r : Region) (t : TileId) (k block b : Nat) : Option TileId :=
  let tile := bitsN b 0 10
  let die := bitsN b 10 3
  let pkg := bitsN b 13 10
  let dom := ((r.launch.levels[k]?).map levelDomain).getD 5
  if bitsN b 23 9 = 0 && s.hasTile r pkg die tile && s.inDomain dom t pkg die tile
      && inBounds (s.imageDesc r.launch block) tile
  then some (s.farTile pkg die tile) else none

/-- The children of a spawn (06 R137): thread tokens under the tag action, one sync level up at ORDERED and above (11 R424). -/
def State.spawnKids (s : State) (j : Job) (ls : List (BitVec 16)) (at_ : TileId) (k c n : Nat) (res : Bytes) : List Arrival :=
  let g := j.fi.stTag
  let lv := if s.level (s.regionCtx j.fi.region) ≥ 1 && j.f.tag ≠ 5 then g.level + 1 else g.level
  let d := j.f.litBits 16 6
  let a := operandIn s j .none false
  (List.range n).map (fun i =>
    let child : Tag := { ctx := g.ctx, frame := childFrame ls g.frame k (c + i), phase := g.phase, kind := .thread, level := lv, seen := g.seen }
    let tg := s.outTag j child (if actNull j.f then none else some res)
    { at_ := at_, place := ⟨j.f.litBits 0 16, d / 2, d % 2 = 1⟩,
      tok := { tag := { tg with kind := .thread, null := actNull j.f }, payload := if actNull j.f then [] else a },
      src := srcKey j.fi, outside := true })

/-- The effect of a spawn of `n` children on a tile; `at_` is none where the placement, the count or the frame breaks a rule. -/
def State.spawnN (s : State) (j : Job) (r : Region) (at_ : Option TileId) (n : Nat) : State :=
  let t := j.fi.at_
  let c := s.regionCtx j.fi.region
  let ls := r.launch.levels
  let k := j.f.litBits 22 3
  let p := j.fi.stTag.frame
  match at_ with
  | none => ((s.consume j.fi).setStatus c t.die 3).emit2 j .value (spawnResult 0 0 k)
  | some at_ =>
    if reaches ls p k || n > 1024 then ((s.consume j.fi).setStatus c t.die 3).emit2 j .value (spawnResult 0 0 k)
    else if n = 0 then (s.consume j.fi).emit2 j .value (spawnResult 0 0 k)
    else
      let cnt := lookupK (s.tile t).spawns (p, k)
      let m := cnt.getD 0
      if cnt.isNone && (s.tile t).spawns.length ≥ 128 then s.offerAgain j.fi
      else if m + n > 2 ^ widthOf ls k - 1 then s.jobFault j 0 0x14 (leBytes 8 p.toNat ++ leBytes 1 k)
      else
        let res := spawnResult (childFrame ls p k m) n k
        let kids := s.spawnKids j ls at_ k m n res
        let s := s.consume j.fi
        let s := kids.foldl (fun s a => s.countSent t a.tok.tag.phase 1) s
        let s := s.modTile t (fun x => { x with spawns := putK x.spawns (p, k) (m + n) })
        (s.hold j (.spawn j kids)).emit2 j .value res

/-- A SPAWN firing. -/
def fireSpawn (minor : Nat) (f : Fields) (s : State) : State :=
  s.fireAcquiring f (some .value) (dests f) (sregDests f) (fun j s =>
    match s.region? j.fi.region with
    | none => s
    | some r =>
      let b := numAt (operandIn s j .none true) 0 4
      match minor with
      | 0 => s.spawnN j r (some j.fi.at_) 1
      | 1 => s.spawnN j r (some j.fi.at_) b
      | _ => s.spawnN j r (s.placement r j.fi.at_ (j.f.litBits 22 3) (j.f.litBits 0 16) b) 1)

def execSpawnSpawn (f : Fields) (s : State) : Host.Outcome State Fault Refusal := .next (fireSpawn 0 f s)
def execSpawnSpawnn (f : Fields) (s : State) : Host.Outcome State Fault Refusal := .next (fireSpawn 1 f s)
def execSpawnSpawnr (f : Fields) (s : State) : Host.Outcome State Fault Refusal := .next (fireSpawn 2 f s)

/-! ### JOIN -/

/-- The level and the scope of a JOIN station (06 R121, R138). -/
def joinLevel (f : Fields) : Nat := f.litBits 0 3
def State.joinScope (s : State) (j : Job) : Nat := (((s.levelsOf j.fi)[joinLevel j.f]?).map levelScope).getD 0

/-- The accesses of an instance that are not yet visible: stores, copies and remote writes under way, and atomics (06 R138). -/
def Tile.instOpen (x : Tile) (inst : Nat) : List Nat :=
  (x.outs.filter (fun o => o.inst = inst)).map (·.serial)
    ++ (x.replies.filter (fun r => r.2.job.fi.inst = inst && r.2.kind = .atomic)).map (·.2.serial)

/-- A station with the destinations that meet a test; `drop` in the others' places. -/
def keepDests (f : Fields) (p : Nat → Bool) : Fields :=
  { f with dstA := if p f.dstA.toNat then f.dstA else 0x7F, dstB := if p f.dstB.toNat then f.dstB else 0x7F }

/-- A JOIN.JOIN firing: the tokens that leave the instance are held until its accesses are visible, those to stations of the instance
wait for them. -/
def fireJoin (f : Fields) (s : State) : State :=
  s.fireAcquiring f (some .control) (dests f) (sregDests f) (fun j s =>
    let t := j.fi.at_
    let a := operandIn s j .none false
    let g := s.syncUp j { j.fi.stTag with frame := clearFrom (s.levelsOf j.fi) j.fi.stTag.frame (joinLevel f) }
    let far := fun (d : Nat) => 0x40 ≤ d && d < 0x50
    let o : OrderWait := {
      job := { j with f := keepDests f (fun d => !far d) }, serials := (s.tile t).instOpen j.fi.inst, scope := s.joinScope j,
      acquire := false, fence := false, kind := .control, pay := a, tag := g }
    let s := s.consume j.fi
    let s := if o.serials.isEmpty then s.finishOrder o else s.modTile t (fun x => { x with orders := x.orders ++ [o] })
    s.emitRes j true ((dests f).filter far) g .control (some a))

/-- A JOIN.JOINALL firing: the counter of the next level is freed, the accesses that the joins released are acquired. -/
def fireJoinall (f : Fields) (s : State) : State :=
  s.fireAcquiring f (some .control) (dests f) (sregDests f) (fun j s =>
    let t := j.fi.at_
    let k := joinLevel f
    let a := operandIn s j .none false
    let s := s.consume j.fi
    let s := if k + 1 < (s.levelsOf j.fi).length
      then s.modTile t (fun x => { x with spawns := delK x.spawns (j.fi.stTag.frame, k + 1) }) else s
    (s.acquire t (s.joinScope j)).emitRes j false (dests f) (s.sawAll (s.syncUp j j.fi.stTag)) .control (some a))

def execJoinJoin (f : Fields) (s : State) : Host.Outcome State Fault Refusal := .next (fireJoin f s)
def execJoinJoinall (f : Fields) (s : State) : Host.Outcome State Fault Refusal := .next (fireJoinall f s)

end Sys2Proof.Machine
end

