-- ==== Sys2Proof/Machine/Drain.lean ====
section
/-! DEFINITION. The commit buffer drains (05 R105): held effects leave in order, one in a step; a drain stops behind a waiting STL (08 R172),
a token that waits for the accesses of its pass (06 R138), and whatever finds no room. -/

namespace Sys2Proof.Machine

/-- The neighbour of a tile by a channel's peer code: north, east, south, west (01 R10, 06 R124). -/
def neighbourOf (tile peer : Nat) : Nat :=
  match peer with
  | 0 => tile - 32
  | 1 => tile + 1
  | 2 => tile + 32
  | _ => tile - 1

/-- A token sent out by an outbound channel: it arrives at the bound neighbour (06 R124). One to a channel that is bound to no tile is
discarded (log entry 31). -/
def State.sendChannel (s : State) (t : TileId) (ch src : Nat) (tok : Token) : State :=
  match NMap.find (s.tile t).channels ch with
  | none => s.countRecv t tok.tag.phase 1
  | some b =>
    if fieldOf b 13 3 > 3 then s.countRecv t tok.tag.phase 1
    else
      let d := fieldOf b 48 6
      s.post (.tokenArrival {
        at_ := ⟨t.die, neighbourOf t.tile (fieldOf b 13 3)⟩, place := ⟨fieldOf b 32 16, d / 2, d % 2 = 1⟩, tok := tok, src := src,
        outside := true })

/-- A token that leaves by an exit with a target (05 R98). -/
def State.sendExit (s : State) (t : TileId) (target src : Nat) (tok : Token) : State :=
  match bitsN target 30 2 with
  | 1 =>
    let d := bitsN target 16 6
    s.post (.tokenArrival {
      at_ := t, place := ⟨bitsN target 0 16, d / 2, d % 2 = 1⟩, tok := tok, src := src, outside := true })
  | 2 => s.sendChannel t (bitsN target 16 3) src tok
  | _ => s.countRecv t tok.tag.phase 1

/-- A child released: it arrives at its tile, or leaves the package (06 R137, log entry 4). -/
def State.sendChild (s : State) (a : Arrival) : State :=
  if a.at_.die < 8 then s.post (.tokenArrival a) else { s with outTokens := s.outTokens ++ [a] }

/-- A held access with its set marked as consumed: a watch fault does not consume it again (19 R389). -/
def Access.asWatched (a : Access) : Access := { a with job := { a.job with fi := { a.job.fi with watched := true } } }

/-- A held store at the head of its drain: tested against the watch filter, or let go by `go`. -/
def State.leaveWatched (s : State) (a : Access) (go : State → Option State) : Option State :=
  match s.watchHit a with
  | none => go s
  | some line =>
    let t := a.job.fi.at_
    if s.pendingFree (s.ctxOf t) t.die then some (s.watchFault a.asWatched line) else none

/-- What becomes of the first effect of a drain: it stays, leaves, or stands in the wait list. -/
inductive Leave where
  | stay (s : State)
  | gone (s : State)
  | waits (s : State)
  deriving DecidableEq, Repr

/-- An effect that leaves where there is room for it. -/
def leaveIf (s : State) (o : Option State) : Leave :=
  match o with
  | some s => .gone s
  | none => .stay s

/-- The first effect of a drain (05 R105). -/
def State.leave (s : State) (t : TileId) (inst : Nat) (e : Effect) : Leave :=
  let free := (Tile.instOpen (s.tile t) inst).isEmpty
  match e with
  | .chan c tok rel src => if rel && !free then .stay s else .gone (s.sendChannel t c src tok)
  | .exit _ tok rel target src => if rel && !free then .stay s else .gone (s.sendExit t target src tok)
  | .stl j ws ef =>
    let w : Waiting := { job := j, writes := ws, qual := if ef then 3 else 4, drain := some inst }
    match s.issueOf t w with
    | .perform => .gone (s.stlPerform j ws)
    | .enter => .waits (s.modTile t (fun x => { x with waitList := x.waitList ++ [w] }))
    | .again b => .stay (match b with
      | some k => s.spadNote t k
      | none => s.due (.fullEmptyWaitPerform t))
  | .store a => leaveIf s (s.leaveWatched a (fun s => some (s.issueStore a)))
  | .copy c =>
    -- a copy of no byte writes nothing and completes at hand-off (10 R225)
    if c.len = 0 || c.rows = 0 then .gone (s.settle c.job (s.emitBoth c.job .value []))
    else if (NMap.getD (s.die t.die).streams c.streamer []).length < 16 then .gone (s.handOff c) else .stay s
  | .rst a => leaveIf s (s.leaveWatched a (fun s => s.rstLeave a))
  | .spawn _ kids => .gone (kids.foldl (fun s a => s.sendChild a) s)

/-- A drain of a tile changed, by its place. -/
def State.modDrain (s : State) (t : TileId) (i : Nat) (g : Drain → Drain) : State :=
  s.modTile t (fun x => { x with drains := x.drains.zipIdx.map (fun p => if p.2 = i then g p.1 else p.1) })

/-- The drains of a tile in order, from place `i` on: the first effect that can leave leaves. -/
def State.drainFirst (s : State) (t : TileId) : Nat → List Drain → State
  | _, [] => s
  | i, d :: ds =>
    match d.waiting, d.effects with
    | false, e :: es =>
      match s.leave t d.inst e with
      | .gone s => s.modDrain t i (fun q => { q with effects := es })
      | .waits s => s.modDrain t i (fun q => { q with waiting := true })
      | .stay s => s.drainFirst t (i + 1) ds
    | _, _ => s.drainFirst t (i + 1) ds

/-- A step of the commit buffer: one effect leaves; empty drains are dropped. -/
def State.drainStep (s : State) (t : TileId) : State :=
  let s := s.drainFirst t 0 (s.tile t).drains
  let s := s.modTile t (fun x => { x with drains := x.drains.filter (fun d => !d.effects.isEmpty) })
  if (s.tile t).drains.any (fun d => !d.waiting) then s.due (.commitDrain t) else s

def execCommitDrain (s : State) : Host.Outcome State Fault Refusal :=
  match s.ev with
  | .commitDrain t => .next (s.drainStep t)
  | _ => .next s

end Sys2Proof.Machine
end

