-- ==== Sys2Proof/Machine/Status.lean ====
section
/-! DEFINITION. The status registers as they are read (19 R399), and what clears them (20 R409 statclr). -/

namespace Sys2Proof.Machine

/-! ### Registers of a tile -/

/-- MSTORE_STAT (04 R80). -/
def Tile.mstoreStat (x : Tile) : BitVec 64 :=
  BitVec.ofNat 64 (min 0xFFFF x.spilled.length * 2 ^ 32 + x.entries.length % 1024 * 2 ^ 16
    + (if x.spillBuf.isEmpty then 0 else 8) + (if x.latch.isSome then 4 else 0) + fieldOf x.mstat 0 2)

/-- SPAD_STAT (08 R178). -/
def Tile.spadStatus (x : Tile) : BitVec 64 :=
  BitVec.ofNat 64 (x.waitList.length % 256 * 2 ^ 16 + x.fwd.length % 256 * 2 ^ 8 + fieldOf x.spadStat 0 2)

/-- AGQ_STAT (10 R227). -/
def Tile.agqStatus (x : Tile) : BitVec 64 :=
  BitVec.ofNat 64 ((x.outs.filter (·.copy)).length % 256 * 2 ^ 16 + x.replies.length % 256 * 2 ^ 8 + fieldOf x.agqStat 0 2)

/-- KSTORE_STAT (13 R265). -/
def Tile.kstoreStat (x : Tile) : BitVec 64 :=
  BitVec.ofNat 64 (x.keys.length % 512 * 2 ^ 32 + (x.keys.filter (·.2.streaming)).length % 512 * 2 ^ 16 + fieldOf x.kstat 0 3)

/-- WATCH_STAT (19 R390): the filter is the context's. -/
def State.watchStatus (s : State) (t : TileId) : BitVec 64 :=
  withField (s.tile t).watchStat 32 13 (s.cd (s.ctxOf t) t.die).obs.filter.length

/-! ### Registers of islands and dies -/

/-- The type code of an element type (02 R32). -/
def tyCode (t : Ty) : Nat := ((List.range 18).find? (fun n => tyOfCode (BitVec.ofNat 5 n) = some t)).getD 0

/-- Whether the loading bank of an island is being filled: it holds values, or its lead's first weights command is the transfer that brings
them (12 R248, R262). -/
def State.bankFilling (s : State) (d k : Nat) : Bool :=
  let x := s.island d k
  let lead := s.island d x.lead
  x.loading.ty ≠ .none || (!lead.busy && (match lead.cmds.find? (fun (c : IslCmd) => c.port = 0) with
    | some c => (match c.op with
      | .load .. => true
      | _ => false)
    | none => false))

/-- ISLAND_STAT (12 R262). -/
def State.islandStatus (s : State) (d k : Nat) : BitVec 64 :=
  let x := s.island d k
  BitVec.ofNat 64 (tyCode x.active.ty * 2 ^ 54 + (if x.active.sparse then 2 ^ 53 else 0)
    + (if s.bankFilling d k then 2 ^ 52 else 0) + x.pend.length % 16 * 2 ^ 48 + x.ctx % 2 ^ 12 * 2 ^ 32
    + fieldOf x.stat 16 16 * 2 ^ 16 + (if x.rampHeld then 8 else 0) + fieldOf x.stat 0 3)

/-- The units that an owner holds (11 R238): those of accesses of earlier runs that have not come yet. -/
def State.unitsHeld (s : State) (d : Nat) : Nat :=
  sumN ((s.ctxDies.filter (fun p => p.1 % 8 = d)).map (fun p => ((p.2.heldUnits.map (·.unit)).eraseDups).length))

/-- ASP_CTL as it is read (09 R196): RESWAIT as it was written, and the residency slots that are held. -/
def Die.aspRead (x : Die) : BitVec 64 := withField x.aspCtl 0 4 x.resSlots.length

/-- MEMORD_STAT (11 R238). -/
def State.memordStat (s : State) (d : Nat) : BitVec 64 := withField (s.die d).memord 16 16 (min 0xFFFF (s.unitsHeld d))

/-- The register that a DBG selector names, but for the histogram bins (19 R399). -/
def State.dbgRead (s : State) (t : TileId) (sel isl : Nat) : BitVec 64 :=
  let x := s.tile t
  if sel = 1 then x.mstoreStat
  else if sel = 2 then x.spadStatus
  else if 3 ≤ sel && sel ≤ 0x0A then s.bslot t (sel - 3)
  else if sel = 0x0B then (if x.kind = .ag then x.agqStatus else 0)
  else if sel = 0x0C then x.kstoreStat
  else if sel = 0x0D then (if (s.island t.die isl).region = x.region && x.region ≠ 0 then s.islandStatus t.die isl else 0)
  else if sel = 0x0E then (s.die t.die).cstat
  else if sel = 0x0F then s.netStat t.die
  else if sel = 0x10 then s.gramStat t.die
  else if sel = 0x11 then s.memordStat t.die
  else if sel = 0x12 then (if x.kind = .ag then s.watchStatus t else 0)
  else if 0x13 ≤ sel && sel ≤ 0x18 then (s.link t.die (sel - 0x13)).stat (sel - 0x13)
  else 0

/-- The bins of a station of the firing's block, zero while HISTEN is 0 (19 R400). -/
def State.dbgBins (s : State) (fi : Firing) (station : Nat) : Bytes :=
  if bitN (s.cd (s.ctxOf fi.at_) fi.die).obs.ctl.toNat 2 then
    (((s.tile fi.at_).slots.getD fi.slot {}).bins station).flatMap (leBytes 2)
  else zeros 32

/-- Every tile of a die changed. -/
def State.modTilesOn (s : State) (d : Nat) (g : Tile → Tile) : State :=
  { s with tiles := s.tiles.map (fun p => if p.1 / 1024 = d then (p.1, g p.2) else p) }

/-- The RS fields of a selector's register cleared by Curator, on every tile of the die that has it (20 R409); a register without an
RS field is left as it is. -/
def State.statClear (s : State) (d sel : Nat) : State :=
  if sel = 0x0E then s.modDie d (fun x => { x with cstat := 0 })
  else if sel = 0x0F then s.modNet d (fun x => { x with stat := withField x.stat 0 40 0 })
  else if sel = 0x10 then s.modGram d (fun x => { x with stat := withField x.stat 32 16 0 })
  else if sel = 0x12 then s.modTilesOn d (fun x => { x with watchStat := withField x.watchStat 0 32 0 })
  else if 0x13 ≤ sel && sel ≤ 0x18 then s.modLink d (sel - 0x13) (fun l => { l with crcErr := 0 })
  else s

end Sys2Proof.Machine
end

