-- ==== Sys2Proof/Machine/Contexts.lean ====
section
/-! DEFINITION. The meanings of SYS (18 R377), TRAP (18 R375), DBG (19 R399, R400) and ACCN (17 R362), and the end of a context that meets a
trap (18 R383). -/

namespace Sys2Proof.Machine

/-! ### SYS -/

/-- The code of a context's state (18 R367). -/
def CtxState.code : CtxState → Nat
  | .free => 0 | .idle => 1 | .running => 2 | .halted => 3 | .preempting => 4 | .saved => 5 | .ended => 6

/-- CTX_STATUS of a context on a die, as it is read (18 R367). -/
def State.ctxStatus (s : State) (c d : Nat) : BitVec 64 := withField (s.cd c d).status 44 4 (s.ctx c).st.code

/-- CTX_STATUS with the bits of a mask cleared: bit 11 stands for LOST (18 R377). -/
def clearStatus (v : BitVec 64) (mask : Nat) : BitVec 64 :=
  let v := v &&& ~~~(BitVec.ofNat 64 (mask % 2 ^ 11))
  if bitN mask 11 then withField v 32 8 0 else v

/-- The tile's kind code (01 R15, 18 R377). -/
def TileKind.code : TileKind → Nat
  | .none => 0 | .ag => 1 | .cp => 2 | .rd => 3

/-- What TILEID reads. -/
def State.tileIdWord (s : State) (t : TileId) : Nat :=
  let x := s.tile t
  t.tile + t.die * 2 ^ 10 + s.pkg * 2 ^ 13 + x.kind.code * 2 ^ 23 + x.position % 2 ^ 32 * 2 ^ 32

/-- The nanoseconds since a context was created: a cycle takes 10/19 ns (01 R20). -/
def State.ctxAge (s : State) (c : Nat) : Nat := (s.cycles - (s.ctx c).created) * 10 / 19

def execSysClock (f : Fields) (s : State) : Host.Outcome State Fault Refusal :=
  .next (s.fire f (some .value) (dests f) (sregDests f) (fun j s => s.emitTimed j (leBytes 8 s.cycles)))
def execSysTileid (f : Fields) (s : State) : Host.Outcome State Fault Refusal :=
  .next (s.fire f (some .value) (dests f) (sregDests f) (fun j s => s.emitTimed j (leBytes 8 (s.tileIdWord j.fi.at_))))
def execSysTimer (f : Fields) (s : State) : Host.Outcome State Fault Refusal :=
  .next (s.fire f (some .value) (dests f) (sregDests f) (fun j s =>
    s.emitTimed j (leBytes 8 (s.ctxAge (s.regionCtx j.fi.region)))))

def execSysCtxst (f : Fields) (s : State) : Host.Outcome State Fault Refusal :=
  .next (s.fire f (some .value) (dests f) (sregDests f) (fun j s =>
    let c := s.regionCtx j.fi.region
    let v := s.ctxStatus c j.fi.die
    let mask := if f.srcB = 3 then 0 else numAt (operandIn s j .none true) 0 4
    let s := s.modCd c j.fi.die (fun x => { x with status := clearStatus x.status mask })
    (s.consume j.fi).emit2 j .value (leBytes 8 v.toNat)))

def execSysCtxend (f : Fields) (s : State) : Host.Outcome State Fault Refusal :=
  .next (s.fire f (some .value) (dests f) [] (fun j s =>
    (s.consume j.fi).endOrHold (s.regionCtx j.fi.region) j.fi.die (numAt (operandIn s j .none false) 0 4) none))

/-! ### TRAP -/

/-- The software trap of index 16 + n (18 R375). -/
def execTrapTrap (f : Fields) (s : State) : Host.Outcome State Fault Refusal :=
  .next (s.fire f (some .value) (dests f) [] (fun j s => s.jobFault j (16 + f.litBits 0 4) (f.litBits 0 4) []))

/-- What TRET, or Curator, delivers for a faulting firing (18 R375): the value to each token destination under the station tag and the
station's tag action, the completion token to each arc; one sync level more at ORDERED and above (11 R424). -/
def State.trapDeliver (s : State) (j : Job) (b : Bytes) : State :=
  let g := s.sawAll (s.syncUp j j.fi.stTag)
  let ds := (dests j.f).filter (fun d => !isSreg d)
  let j := { j with fi := { j.fi with watched := true } }
  s.settle j ((s.emitRes j false ds g .value (some b)).emitDone j false ds g (some b))

/-- The access that a watch fault held back issues; one that finds no reply slot is offered again as a set (19 R389, 10 R203). -/
def State.issueHeld (s : State) (a : Access) : State :=
  let again := fun (kind : ReplyKind) => match (s.tile a.job.fi.at_).freeSlot with
    | some k => s.issueSlot a kind k
    | none => (s.agqNote a.job.fi.at_ 0).offerAgain a.job.fi
  match a.major, a.minor with
  | 0x15, _ | 0x17, _ => s.issueStore a
  | 0x14, _ | 0x16, _ => again .data
  | 0x18, _ => again .atomic
  | 0x1A, 2 => again (.barwait a.scope)
  | 0x1A, _ => again .barrier
  | 0x21, 0 => again .remote
  | 0x21, 1 => s.hold a.job (.rst a)
  | 0x21, _ => s.issueRelAtom a
  | _, _ => s.issueRelflag a

/-- A pending trap of a context on a die, released (18 R371): its entry counts as received. -/
def State.freePending (s : State) (c d k : Nat) : State :=
  s.modCd c d (fun x => { x with pending := NMap.del x.pending k, recv := x.recv + 1 })

/-- A pending trap released (18 R375), the context's going on apart: `b` is what is delivered, none with nores = 1. -/
def State.dropTrap (s : State) (c d k : Nat) (p : Pending) (b : Option Bytes) : State :=
  let s := s.freePending c d k
  match p.sync, p.index, p.acc, b, p.job with
  | true, 10, some a, _, _ => s.issueHeld a
  | true, 10, none, _, _ => s
  | true, _, _, some b, some j => s.trapDeliver j b
  | _, _, _, _, _ => s

/-- The effects of the release of a pending trap (18 R375). -/
def State.releaseTrap (s : State) (c d k : Nat) (p : Pending) (b : Option Bytes) : State :=
  let s := s.dropTrap c d k p b
  if p.stopping && !s.stopPending c then s.goOn c else s

def execTrapTret (f : Fields) (s : State) : Host.Outcome State Fault Refusal :=
  .next (s.fireAcquiring f (some .value) (dests f) (sregDests f) (fun j s =>
    let c := s.regionCtx j.fi.region
    let k := numAt (operandIn s j .none false) 0x0C 4
    let b := operandIn s j .none true
    let d := bitsN k 6 3
    let s' := s.consume j.fi
    let here := bitsN k 9 10 = s.pkg && bitsN k 19 13 = 0
    match (if here then NMap.find (s.cd c d).pending (k % 64) else none) with
    | none => s'.emit2 j .value (leBytes 4 1)
    | some p =>
      let s' := s'.releaseTrap c d (k % 64) p (if f.litBits 0 1 = 1 then none else some b)
      s'.emit2 j .value (leBytes 4 0)))

/-! ### DBG -/

/-- BRK: a precise stop while BRKEN is set; A is emitted when the context resumes (19 R400). -/
def execDbgBrk (f : Fields) (s : State) : Host.Outcome State Fault Refusal :=
  .next (s.fire f (some .value) (dests f) (sregDests f) (fun j s =>
    let c := s.regionCtx j.fi.region
    let a := operandIn s j .none false
    let s' := s.consume j.fi
    if bitN (s.cd c j.fi.die).obs.ctl.toNat 1 then
      (s'.modCtx c (fun x => { x with brk := x.brk ++ [(j, a)] })).preciseStop c j.fi 0xFF
    else s'.emit2 j .value a))

/-- TRACE: a Catalogue record while CATEN is set (19 R400). -/
def execDbgTrace (f : Fields) (s : State) : Host.Outcome State Fault Refusal :=
  .next (s.fire f (some .value) (dests f) (sregDests f) (fun j s =>
    let c := s.regionCtx j.fi.region
    let b := if f.srcB = 3 then [] else operandIn s j .none true
    let s' := s.catalogue c j.fi.die 1 (f.litBits 0 8) (some j.fi) (sliceB b 0 24)
    (s'.consume j.fi).emit2 j .value (operandIn s j .none false)))

/-- HIST: a status register, or a station's bins (19 R399, R400). -/
def execDbgHist (f : Fields) (s : State) : Host.Outcome State Fault Refusal :=
  .next (s.fire f (some .value) (dests f) (sregDests f) (fun j s =>
    let sel := f.litBits 0 8
    s.emitTimed j (if sel = 0 then s.dbgBins j.fi (f.litBits 8 5) else leBytes 8 (s.dbgRead j.fi.at_ sel (f.litBits 16 7)).toNat)))

/-! ### ACCN -/

/-- INTV: at FREE it emits A at once; above it asks for a boundary and emits when that is taken (17 R362). -/
def execAccnIntv (f : Fields) (s : State) : Host.Outcome State Fault Refusal :=
  .next (s.fire f (some .value) (dests f) (sregDests f) (fun j s =>
    let c := s.regionCtx j.fi.region
    let a := operandIn s j .none false
    if s.level c = 0 then (s.consume j.fi).emit2 j .value a
    else (s.askBoundary c 0).modCtx c (fun x => { x with intv := x.intv ++ [(j, a)] })))

/-- The first 8 bytes of AREC's side B: a state register supplies its own first bytes (17 R362). -/
def arecDetail (s : State) (j : Job) : Nat :=
  match Fields.sel j.f true with
  | 2 => numAt ((s.tile j.fi.at_).sreg (Fields.sregNo j.f true)) 0 8
  | 3 => 0
  | _ => numAt (operandIn s j .none true) 0 8

/-- AREC: a software record at RECORD and REPLAY (17 R362). -/
def execAccnArec (f : Fields) (s : State) : Host.Outcome State Fault Refusal :=
  .next (s.fire f (some .value) (dests f) (sregDests f) (fun j s =>
    let c := s.regionCtx j.fi.region
    let a := operandIn s j .none false
    match s.logEvent c j.fi.die ⟨11, 0, j.fi.tile, j.fi.stTag.frame, j.fi.seq 0, arecDetail s j, f.litBits 0 8⟩ with
    | .go s => (s.consume j.fi).emit2 j .value a
    | .wait s => s.offerAgain j.fi))

end Sys2Proof.Machine
end

