-- ==== Sys2Proof/Machine/Preempt.lean ====
section
/-! DEFINITION. Pre-emption, the save area, the mailbox and the restore of a context (18 R379 to R382). -/

namespace Sys2Proof.Machine

/-! ### The save area (18 R380) -/

/-- The first address of a die's save area of a context. -/
def State.saveBase (s : State) (c d : Nat) : Nat := fieldOf (s.cd c d).save 16 48 * 2 ^ 16

/-- The bytes that a save needs on a die, by its tiles and islands. -/
def saveNeed (tiles islands : Nat) : Nat :=
  min (65536 + 393216 * tiles + 589824 * islands) (Config.saveBytes tiles islands)

/-- A section: kind, unit, item count and items, padded to a multiple of 64. -/
def sectionOf (kind unit count : Nat) (items : Bytes) : Bytes :=
  let len := ceilDiv (16 + items.length) 64 * 64
  [BitVec.ofNat 8 kind, 0] ++ leBytes 2 unit ++ leBytes 4 count ++ leBytes 8 len ++ items ++ zeros (len - 16 - items.length)

/-- A section whose item layout the spec does not give (log entry 34). -/
def openSection (kind unit tick : Nat) : Bytes :=
  let x := Config.saveSection kind unit tick
  sectionOf kind unit x.1 x.2

/-- The tokens of a tile that a save holds: entries, spill buffer, latch, and those on their way in. -/
def State.heldTokens (s : State) (t : TileId) : List Arrival :=
  let x := s.tile t
  x.entries.map (fun e => { at_ := t, place := e.place, tok := e.tok, src := e.src, outside := e.outside, trap := e.trap, inst := e.inst })
    ++ x.spillBuf ++ (match x.latch with
      | some a => [a]
      | none => [])
    ++ s.agenda.filterMap (fun e => match e with
      | .tokenArrival a => if a.at_ = t then some a else none
      | _ => none)

/-- A token record padded to 160 bytes. -/
def paddedRecord (a : Arrival) : Bytes := sliceB (tokenRecord a 0) 0 160

/-- Bits as bytes: bit g mod 8 of byte g div 8 is set for each `g` of the list. -/
def bitBytes (n : Nat) (l : List Nat) : Bytes :=
  (List.range n).map (fun i => BitVec.ofNat 8 (sumN ((List.range 8).map (fun b => if l.contains (8 * i + b) then 2 ^ b else 0))))

/-- The sections of a tile. -/
def State.tileSections (s : State) (t : TileId) : Bytes :=
  let x := s.tile t
  let toks := s.heldTokens t
  let regs := x.sregs.flatten ++ x.wregs.flatten ++ (if x.kind = .ag then x.aregs.flatMap (fun a => leBytes 8 a.toNat) else [])
  sectionOf 1 t.tile toks.length (toks.flatMap paddedRecord)
    ++ sectionOf 2 t.tile 1 (Memory.getN x.spad 0 196608 ++ bitBytes 1536 x.full)
    ++ sectionOf 3 t.tile 1 regs
    ++ openSection 4 t.tile s.ticks ++ openSection 5 t.tile s.ticks ++ openSection 6 t.tile s.ticks

/-- The sections of a die, with their number. -/
def State.dieSections (s : State) (c d : Nat) : Nat × Bytes :=
  let ts := (s.ctxTiles c).filter (fun t => t.die = d)
  let is := ((s.regionsOf c).flatMap (fun r => r.2.islands)).filter (fun i => i.1 = d)
  (6 * ts.length + is.length + 2,
   ts.flatMap (fun t => s.tileSections t) ++ is.flatMap (fun i => openSection 7 i.2 s.ticks)
     ++ openSection 8 0 s.ticks ++ openSection 9 0 s.ticks)

/-- The save written on a die: the header, with the last fault kept, and the sections; the mailbox is empty. -/
def State.writeSave (s : State) (c d : Nat) (st : CtxState) : State :=
  let base := s.saveBase c d
  let (n, bs) := s.dieSections c d
  let mail := 0x80 + bs.length
  let ags := ((s.ctxTiles c).filter (fun t => t.die = d && (s.tile t).kind = .ag)).length
  let head := leBytes 4 0x56535843 ++ leBytes 2 1 ++ [2, BitVec.ofNat 8 st.code]
    ++ leBytes 8 (ceilDiv (mail + 192 * 64 * ags) 64 * 64) ++ leBytes 4 n ++ leBytes 4 mail ++ leBytes 4 0 ++ zeros 36
  (s.writeVa c base head).writeVa c (base + 0x80) bs

/-- The dies on which a context has tiles or islands. -/
def State.chipDies (s : State) (c : Nat) : List Nat :=
  (List.range 8).filter (fun d => (s.ctxTiles c).any (fun t => t.die = d)
    || (s.regionsOf c).any (fun r => r.2.islands.any (fun i => i.1 = d)))

/-! ### Pre-emption (18 R379) -/

/-- Whether the save of a context fits the save area of a die. -/
def State.saveFits (s : State) (c d : Nat) : Bool :=
  let nt := ((s.ctxTiles c).filter (fun t => t.die = d)).length
  let ni := (((s.regionsOf c).flatMap (fun r => r.2.islands)).filter (fun i => i.1 = d)).length
  saveNeed nt ni ≤ fieldOf (s.cd c d).saveSz 0 40

/-- PREEMPT: the context drains, unless it is in the wrong state or its save does not fit. -/
def State.preempt (s : State) (k : Command) : State :=
  let c := cmdCtx k
  let st := (s.ctx c).st
  if st ≠ .running && st ≠ .halted then s.done k 3
  else if (s.chipDies c).any (fun d => !s.saveFits c d) then s.done k 5
  else
    let s := s.modCtx c (fun x => { x with st := .preempting })
    { s with saves := NMap.put s.saves c { cstate := st } }.post (.preemptSaveComplete c)

/-- The kill commands that were queued for a context while a pre-emption held its lock: each is the later one, and returns 3 (20 R419). -/
def State.lateKills (s : State) (c : Nat) : State :=
  let late := s.agenda.filterMap (fun e => match e with
    | .cmdKill q => if cmdCtx q = c then some q else none
    | _ => none)
  late.foldl (fun s q => s.done q 3) { s with agenda := s.agenda.filter (fun e => !(late.map Event.cmdKill).contains e) }

/-- The save of a drained context: every die writes its area; tiles and islands are freed; leases, windows and the rest stay. -/
def State.saveStep (s : State) (c : Nat) : State :=
  match NMap.find s.saves c with
  | none => s
  | some v =>
    let snap := s.chipState c
    let who := s.busyWith c 0x0C
    let ts := s.ctxTiles c
    let is := (s.regionsOf c).flatMap (fun r => r.2.islands)
    let s := ((s.chipDies c).foldl (fun s d => s.writeSave c d v.cstate) s).freeIslands is
    let s : State := { s with
      saves := NMap.put s.saves c { v with snap := snap }
      ready := s.ready.filter (fun fi => !snap.ready.contains fi)
      agenda := s.agenda.filter (fun e => !snap.events.contains e)
      regions := s.regions.map (fun (p : Nat × Region) => if p.2.launch.ctx = c then (p.1, { p.2 with tiles := [], islands := [] }) else p) }
    let s := ts.foldl (fun s t => (s.modTile t freeTile).due (.scratchpadClearDone t)) s
    let s := (s.modCtx c (fun x => { x with st := .saved, intv := [], brk := [] })).lateKills c
    match who with
    | some k => s.done k 0
    | none => s

/-! ### The mailbox (18 R381) -/

/-- The first 32 bytes of a packet's header (14 R294). -/
def headerBytes (p : Packet) : Bytes :=
  let n := match p.op with
    | .data bs _ => bs.length
    | _ => 0
  leBytes 8 p.addr.toNat
    ++ leBytes 2 (p.to_.toNat + (if p.toHost then 2 ^ 13 else 0)) ++ leBytes 2 (p.from_.toNat + (if p.fromHost then 2 ^ 13 else 0))
    ++ [p.inc, BitVec.ofNat 8 (p.cls.toNat + labelOf p % 32 * 4 + (if p.escape then 128 else 0)), p.typ,
        BitVec.ofNat 8 (ceilDiv n 64)]
    ++ leBytes 2 p.ctx.toNat ++ [p.phase, p.age] ++ leBytes 2 n ++ [p.rc, p.epoch] ++ leBytes 2 (p.index % 4096)
    ++ leBytes 2 (p.tile * 64 + p.slot) ++ leBytes 4 (if p.phys then 1 else 0)

/-- The reply slot of a saved context that a packet answers. -/
def Save.reply? (v : Save) (d : Nat) (p : Packet) : Option Reply :=
  (NMap.find v.snap.tiles (tileKey ⟨d, p.tile⟩)).bind (fun x => NMap.find x.replies p.slot)

/-- A mailbox entry: a reply, or the answer to a BARWAIT. -/
def mailEntry (p : Packet) (bar : Bool) (order : Nat) : Bytes :=
  let data := match p.op with
    | .data bs _ => bs
    | _ => []
  let pay := if bar then [] else data
  [BitVec.ofNat 8 (if bar then 2 else 1), BitVec.ofNat 8 p.slot] ++ leBytes 2 p.tile ++ leBytes 2 pay.length ++ [0, 0]
    ++ leBytes 8 order
    ++ (if bar then leBytes 8 p.addr.toNat ++ sliceB data 0 4 ++ zeros 20 else headerBytes p)
    ++ sliceB pay 0 128 ++ zeros 16

/-- A reply for a saved context put into the mailbox of its die. -/
def State.mailStep (s : State) (d : Nat) (p : Packet) : State :=
  let c := p.ctx.toNat
  match NMap.find s.saves c with
  | none => s
  | some v =>
    match v.reply? d p with
    | none => s
    | some r =>
      let bar := match r.kind with
        | .barwait _ => true
        | _ => false
      let n := (v.mail.filter (fun m => m.1 = d)).length
      let base := s.saveBase c d
      let at_ := base + leNat (s.readVa c (base + 0x14) 4) + 192 * n
      let s := (s.writeVa c at_ (mailEntry p bar n)).writeVa c (base + 0x18) (leBytes 4 (n + 1))
      { s with saves := NMap.put s.saves c { v with mail := v.mail ++ [(d, p)] } }

/-! ### Restore (18 R382) -/

/-- Whether a saved token record names a token side of a block of the region that held its tile (04 R73). -/
def State.savedDest (s : State) (d : Nat) (v : Save) (r : Bytes) : Bool :=
  match v.snap.regions.find? (fun p => p.2.tiles.contains ⟨d, numAt r 0x12 2⟩) with
  | none => false
  | some p => numAt r 0x10 2 < p.2.launch.blocks && s.imageSide p.2.launch (numAt r 0x10 2) (numAt r 0x0F 1 % 64)

/-- Whether the sections from an offset on are sound: token records obey 04 R73, lengths are multiples of 64. -/
def State.sectionsOk (s : State) (c d : Nat) (v : Save) (base : Nat) : Nat → Nat → Bool
  | 0, _ => true
  | n + 1, off =>
    let h := s.readVa c (base + off) 16
    let len := numAt h 8 8
    let ok := len ≥ 16 && len % 64 = 0
      && (numAt h 0 1 ≠ 1 || (List.range (numAt h 4 4)).all (fun i =>
        let r := s.readVa c (base + off + 16 + 160 * i) 160
        !recordBad r false && s.savedDest d v r))
    ok && s.sectionsOk c d v base n (off + len)

/-- Whether a mailbox entry is one that a restore takes. -/
def State.mailOk (s : State) (c d base off : Nat) (v : Save) (i : Nat) : Bool :=
  let b := s.readVa c (base + off + 192 * i) 4
  let t := numAt b 2 2
  (numAt b 0 1 = 1 || numAt b 0 1 = 2) && t < 1024
    && (match NMap.find v.snap.tiles (tileKey ⟨d, t⟩) with
      | some x => (NMap.find x.replies (numAt b 1 1)).isSome
      | none => false)

/-- Whether a die's save area can be restored. -/
def State.saveOk (s : State) (c d : Nat) (v : Save) : Bool :=
  let base := s.saveBase c d
  let h := s.readVa c base 0x80
  numAt h 0 4 = 0x56535843 && numAt h 4 2 = 1 && numAt h 6 1 = 2 && s.sectionsOk c d v base (numAt h 0x10 4) 0x80
    && (List.range (numAt h 0x18 4)).all (fun i => s.mailOk c d base (numAt h 0x14 4) v i)

/-- The dies of a saved context. -/
def Save.dies (v : Save) : List Nat :=
  (v.snap.regions.flatMap (fun r => r.2.tiles.map (·.die) ++ r.2.islands.map (·.1))).eraseDups

/-- RESTORE: the areas are examined; the context waits for its places. -/
def State.restore (s : State) (k : Command) : State :=
  let c := cmdCtx k
  match (s.ctx c).st, NMap.find s.saves c with
  | .saved, some v =>
    if v.dies.all (fun d => s.saveOk c d v) then
      let s := v.dies.foldl (fun s d => s.writeVa c (s.saveBase c d + 6) [3]) s
      s.post (.restoreProceed c)
    else s.done k 2
  | _, _ => s.done k 3

/-- Whether every tile and island of a saved context is free. -/
def State.saveFree (s : State) (c : Nat) : Bool :=
  match NMap.find s.saves c with
  | none => true
  | some v =>
    (v.snap.regions.flatMap (fun r => r.2.tiles)).all (fun t => (s.tile t).region = 0 && !(s.tile t).clearing)
      && (v.snap.regions.flatMap (fun r => r.2.islands)).all (fun i => (s.island i.1 i.2).region = 0)

/-- A saved tile put back: its L1 is empty and its SO streams go on where they are. -/
def tileBack (saved now : Tile) : Tile := { saved with soNum := now.soNum, l1 := [], l1Skip := [], clearing := false }

/-- The reply slots that wait for something outside their tile are tested again. -/
def State.retest (s : State) (t : TileId) (slot : Nat) (r : Reply) : State :=
  let c := s.ctxOf t
  match r.kind with
  | .netWait k _ => s.netWake c t.die k
  | .netFence ms =>
    let gone := ms.filter (fun m => !(s.netOf c t.die).any (fun q => q.1 = m))
    gone.foldl (fun s m => s.fenceWake c t.die m) s
  | .relopen _ | .relwait _ => s.relCheck t slot
  | _ => s

/-- The context put back: tiles, islands, ready sets, events; the latched tokens are placed first (04 R86); then its state, and the
mailbox in order. -/
def State.restoreStep (s : State) (c : Nat) : State :=
  match NMap.find s.saves c with
  | none => s
  | some v =>
    let snap := v.snap
    let ts := snap.regions.flatMap (fun r => r.2.tiles)
    let s : State := { s with
      saves := NMap.del s.saves c
      regions := s.regions.map (fun p => match NMap.find snap.regions p.1 with
        | some r => (p.1, { p.2 with tiles := r.tiles, islands := r.islands })
        | none => p)
      tiles := snap.tiles.foldl (fun m p => NMap.put m p.1 (tileBack p.2 (NMap.getD m p.1 {}))) s.tiles
      islands := snap.islands.foldl (fun m p => NMap.put m p.1 p.2) s.islands
      ready := s.ready ++ snap.ready }
    let s := snap.events.foldl (fun s e => s.due e) s
    let s := ts.foldl (fun s t => s.restoreLatch t) s
    let s := s.modCtx c (fun x => { x with st := v.cstate, intv := snap.intv, brk := snap.brk })
    let s := s.startHang c
    let s := v.mail.foldl (fun s m => s.replyStep m.2) s
    let slots := ts.flatMap (fun t => (s.tile t).replies.map (fun r => (t, r.1, r.2)))
    let s := slots.foldl (fun s q => s.retest q.1 q.2.1 q.2.2) s
    let s := v.dies.foldl (fun s d => s.writeVa c (s.saveBase c d + 6) [0]) s
    let s := ts.foldl (fun s t => s.wakeTile t) s
    match s.busyWith c 0x0D with
    | some k => s.done k 0
    | none => s

/-! ### The steps -/

def execCmdPreempt (s : State) : Host.Outcome State Fault Refusal :=
  match s.ev with
  | .cmdPreempt k => .next (s.preempt k)
  | _ => .next s

def execPreemptSaveComplete (s : State) : Host.Outcome State Fault Refusal :=
  match s.ev with
  | .preemptSaveComplete c => .next (s.saveStep c)
  | _ => .next s

def execMailboxWrite (s : State) : Host.Outcome State Fault Refusal :=
  match s.ev with
  | .mailboxWrite d p => .next (s.mailStep d p)
  | _ => .next s

def execCmdRestore (s : State) : Host.Outcome State Fault Refusal :=
  match s.ev with
  | .cmdRestore k => .next (s.restore k)
  | _ => .next s

def execRestoreProceed (s : State) : Host.Outcome State Fault Refusal :=
  match s.ev with
  | .restoreProceed c => .next (s.restoreStep c)
  | _ => .next s

end Sys2Proof.Machine
end

