-- ==== Sys2Proof/Machine/Observe.lean ====
section
/-! DEFINITION. Observation (19): the host's HEAD of the Catalogue, hang detection, the watch filter, the observation read, the freeze and the
thaw of dies. -/

namespace Sys2Proof.Machine

/-! ### Arguments of commands (20 R409) -/

/-- A number in the arguments of a command. -/
def Args.num (k : Command) (off n : Nat) : Nat := numAt k.args off n

/-- The die that an argument names: a die of the package, 0 to 7. -/
def argDie (k : Command) (off : Nat) : Option Nat :=
  let d := Args.num k off 2
  if d < 8 then some d else none

/-- The die that an argument names with its package: `some none` is a die of another package (log entry 4). -/
def argPkgDie (s : State) (k : Command) (off : Nat) : Option (Option Nat) :=
  let v := Args.num k off 2
  if v ≥ 8192 then none else some (if v / 8 = s.pkg then some (v % 8) else none)

/-! ### The Catalogue's HEAD (19 R385) -/

/-- A write of CAT_HEAD: a value above TAIL is stored as TAIL. -/
def State.catHead (s : State) (d c : Nat) (v : BitVec 64) : State :=
  s.modCd c d (fun x => { x with obs := { x.obs with catHead := if x.obs.catTail < v then x.obs.catTail else v } })

def execCatHeadWrite (s : State) : Host.Outcome State Fault Refusal :=
  match s.ev with
  | .catHeadWrite d c v => .next (s.catHead d c v)
  | _ => .next s

/-! ### Hang detection (19 R395) -/

/-- A context suspected: on every die its map is written and the hang fault is raised (code 3). -/
def State.hangSuspect (s : State) (c : Nat) : State :=
  (s.ctx c).dies.foldl (fun s d =>
    let es := s.hangEntries c d
    (s.writeHangMap c d 3 es).raiseFault {
      index := 11, code := 3, sync := false, ctx := c, die := d, detail := leBytes 8 (lowestFrame es) }) s

/-- The end of a hang interval; an interval in which something took place, or that was kept from advancing, begins again. -/
def State.hangStep (s : State) (c : Nat) : State :=
  match (s.ctx c).st with
  | .running =>
    let s' := if s.regions.any (fun p => p.2.launch.ctx = c) && !s.hangExcused c && s.hangStill c then s.hangSuspect c else s
    s'.startHang c
  | .halted => s.startHang c
  | _ => s

def execHangIntervalExpiry (s : State) : Host.Outcome State Fault Refusal :=
  match s.ev with
  | .hangIntervalExpiry c => .next (s.hangStep c)
  | _ => .next s

/-! ### The watch filter (19 R388) -/

/-- WATCH, add: the three bits of every line of the range are set. -/
def State.watchAdd (s : State) (k : Command) : State :=
  let a := Args.num k 8 8
  let n := Args.num k 16 8
  match argDie k 0 with
  | none => s.done k 2
  | some d =>
    if Args.num k 2 1 ≠ 0 || a + n > 2 ^ 64 then s.done k 2
    else
      let lines := if n = 0 then [] else (List.range ((a + n - 1) / 64 - a / 64 + 1)).map (fun i => a / 64 + i)
      (s.modCd (cmdCtx k) d (fun x => { x with obs := { x.obs with
        filter := lines.foldl (fun l i => ((watchBits i).filter (fun b => !l.contains b)).eraseDups ++ l) x.obs.filter } })).done k 0

/-- WATCH, clear. -/
def State.watchClear (s : State) (k : Command) : State :=
  match argDie k 0 with
  | none => s.done k 2
  | some d => (s.modCd (cmdCtx k) d (fun x => { x with obs := { x.obs with filter := [] } })).done k 0

def execCmdWatchAdd (s : State) : Host.Outcome State Fault Refusal :=
  match s.ev with
  | .cmdWatchAdd k => .next (s.watchAdd k)
  | _ => .next s

def execCmdWatchClear (s : State) : Host.Outcome State Fault Refusal :=
  match s.ev with
  | .cmdWatchClear k => .next (s.watchClear k)
  | _ => .next s

/-! ### The observation read (19 R387) -/

/-- An entry of the list: the token's header and the side that it lacks, in 40 bytes (log entry 36). -/
def obsEntry (a : Arrival) : Bytes := recordHeader a 0 ++ [if a.place.sideB then 0 else 1] ++ zeros 7

/-- The tokens of a context on a die that wait on one side: in entries, spill buffers, latches and the spill region. -/
def State.obsTokens (s : State) (c d : Nat) : List Arrival :=
  ((s.ctxTiles c).filter (fun t => t.die = d)).flatMap (fun t =>
    let x := s.tile t
    let mem := match s.regionOf t with
      | none => []
      | some r => x.spilled.map (fun p => recordToken d (s.readVa r.launch.ctx (slotAddr (sliceBase r x.position).1 p.slot) 160))
    let ents := x.entries.map (fun e =>
      ({ at_ := t, place := e.place, tok := e.tok, src := e.src, outside := e.outside } : Arrival))
    ents ++ x.spillBuf ++ (match x.latch with
      | some a => [a]
      | none => []) ++ mem)

/-- OBSREAD: the entries that fit the length are written to host memory. -/
def State.obsRead (s : State) (k : Command) : State :=
  let c := cmdCtx k
  match argDie k 0 with
  | none => s.done k 2
  | some d =>
    if (s.ctx c).st ≠ .halted then s.done k 3
    else
      let bs := ((s.obsTokens c d).take (Args.num k 16 4 / 40)).flatMap obsEntry
      ({ s with hostMem := Memory.setN s.hostMem (Args.num k 8 8) bs }).finish k 0 bs.length

def execCmdObsread (s : State) : Host.Outcome State Fault Refusal :=
  match s.ev with
  | .cmdObsread k => .next (s.obsRead k)
  | _ => .next s

/-! ### Vitrine (19 R397, R398) -/

/-- The dies of a Vitrine command: its own, or the package's. -/
def vitrineDies (k : Command) : Option (List Nat) :=
  match Args.num k 0 1 with
  | 0 => some [k.die]
  | 1 => some (List.range 8)
  | _ => none

/-- The capture of a die: header, then the sections of every tile and island, of routers, links and L2 slices. -/
def State.capture (s : State) (d : Nat) : Bytes :=
  let tiles := (List.range 1024).flatMap (fun n => s.tileSections ⟨d, n⟩)
  let isles := (List.range 104).flatMap (fun n => openSection 7 n s.ticks)
  let kinds := (List.range 1024).flatMap (fun n => openSection 0x20 n s.ticks)
  let slices := (List.range 48).flatMap (fun n => openSection 0x22 n s.ticks)
  let body := tiles ++ isles ++ kinds ++ openSection 0x21 0 s.ticks ++ slices
  leBytes 4 0x52544956 ++ leBytes 2 1 ++ leBytes 2 (s.pkg * 8 + d) ++ leBytes 8 (64 + body.length) ++ zeros 48 ++ body

/-- A freeze: the dies stop, and their captures are written one after another to the host's memory. -/
def State.vitrineFreeze (s : State) (k : Command) : State :=
  match vitrineDies k with
  | none => s.done k 2
  | some ds =>
    if Args.num k 1 1 ≠ 0 then s.done k 2
    else if ds.all (fun d => (s.die d).frozen) then s.done k 3
    else
      let s := ds.foldl (fun s d => s.modDie d (fun x => { x with frozen := true })) s
      let host := (ds.flatMap s.capture)
      ({ s with hostMem := Memory.setN s.hostMem (Args.num k 8 8) host }).done k 0

/-- A thaw: the dies go on; their links to what was not frozen with them retrain. -/
def State.vitrineThaw (s : State) (k : Command) : State :=
  match vitrineDies k with
  | none => s.done k 2
  | some ds =>
    if ds.all (fun d => !(s.die d).frozen) then s.done k 3
    else
      let was := (List.range 8).filter (fun d => (s.die d).frozen)
      let s := ds.foldl (fun s d => s.modDie d (fun x => { x with frozen := false })) s
      let s := (ds.filter was.contains).foldl (fun s d =>
        let s := [2, 3, 4, 5, 6].foldl (fun s p => s.retrain d p) s
        let next := (d + 1) % 8
        let prev := (d + 7) % 8
        let s := if was.contains next then s else s.retrain d 0
        if was.contains prev then s else s.retrain d 1) s
      s.done k 0

def execCmdVitrineFreeze (s : State) : Host.Outcome State Fault Refusal :=
  match s.ev with
  | .cmdVitrineFreeze k => .next (s.vitrineFreeze k)
  | _ => .next s

def execCmdVitrineThaw (s : State) : Host.Outcome State Fault Refusal :=
  match s.ev with
  | .cmdVitrineThaw k => .next (s.vitrineThaw k)
  | _ => .next s

end Sys2Proof.Machine
end

