-- ==== Sys2Proof/Machine/Boot.lean ====
section
/-! DEFINITION. Patch tables and attestation (20 R414 to R416), the package's power (20 R413), bring-up and the loss of power (20 R417,
R418). -/

namespace Sys2Proof.Machine

/-! ### Patch tables (20 R414) -/

/-- An entry of a patch table. -/
structure PatchEntry where
  rom : Nat
  len : Nat
  data : Nat
  zero : Bool
  deriving DecidableEq, Repr

/-- The entries of a table. -/
def patchEntries (t : Bytes) (n : Nat) : List PatchEntry :=
  (List.range n).map (fun i =>
    let o := 0x80 + 32 * i
    ⟨numAt t o 4, numAt t (o + 4) 4, numAt t (o + 8) 4, numAt t (o + 12) 20 = 0⟩)

/-- The length of a table whose first bytes are given: the signature follows the last byte of entries and data (log entry 37). -/
def patchLength (t : Bytes) : Nat :=
  let n := numAt t 8 2
  (patchEntries t n).foldl (fun m e => max m (e.data + e.len)) (0x80 + 32 * n) + 64

/-- The fused minimum of the security version, as it has been raised. -/
def State.securityMin (s : State) (d : Nat) : Nat := ((s.die d).boot.secMin).getD (Config.fuseSecurityMin d)

/-- The first check that a table fails on a die: 6, 7 or 2; 0 when it passes all. -/
def State.patchStatus (s : State) (d addr : Nat) : Nat :=
  let big := Memory.getN s.hostMem addr 65536
  let n := numAt big 8 2
  let len := patchLength big
  let es := patchEntries big n
  let t := big.take len
  let key := sliceB t 0x40 64
  let ver := numAt t 6 2
  if addr % 64 ≠ 0 || numAt big 0 4 ≠ 0x54505643 || len > 65536 then 2
  else if sha256 key ≠ sliceB (Config.fuseKeyDigest d) 0 32 then 6
  else if !ecdsaOk key (sliceB t (len - 64) 64) (sha256 (t.take (len - 64))) then 6
  else if numAt t 4 2 ≠ Config.romVersion.toNat || ver = 0 || ver > 32 || numAt t 0x0A 54 ≠ 0 then 2
  else if ver < s.securityMin d then 7
  else if es.any (fun e => !e.zero || e.rom + e.len > Config.romLength || e.data < 0x80 + 32 * n) then 2
  else 0

/-- A table applied on a die. -/
def State.patchApply (s : State) (d addr : Nat) (commit : Bool) : State :=
  let big := Memory.getN s.hostMem addr 65536
  let t := big.take (patchLength big)
  let ver := numAt t 6 2
  s.modDie d (fun x => { x with boot := { x.boot with
    digest := some (sha256 t), version := ver
    rom := (patchEntries t (numAt t 8 2)).map (fun e => (e.rom, sliceB t e.data e.len))
    secMin := if commit then some (max ver (s.securityMin d)) else x.boot.secMin } })

/-- PATCH: refused while a launch is in progress (20 R415). -/
def State.patch (s : State) (k : Command) : State :=
  let addr := Args.num k 0 8
  let ds := List.range 8
  if Args.num k 8 1 > 1 then s.done k 1
  else if !s.launches.isEmpty || !s.regions.isEmpty then s.done k 3
  else match ds.find? (fun d => s.patchStatus d addr ≠ 0) with
    | some d => s.done k (s.patchStatus d addr)
    | none => (ds.foldl (fun s d => s.patchApply d addr (Args.num k 8 1 = 1)) s).done k 0

/-! ### The identity report (20 R416) -/

/-- The first 256 bytes of a report. -/
def State.identBody (s : State) (d : Nat) (nonce : Bytes) : Bytes :=
  let b := (s.die d).boot
  sliceB (Config.fuseSerial d) 0 16 ++ leBytes 4 Config.romVersion.toNat ++ leBytes 2 b.version ++ [0, 0]
    ++ sliceB (b.digest.getD []) 0 32 ++ sha256 (Config.fuseImage d) ++ sliceB nonce 0 32 ++ leBytes 8 b.stat.toNat
    ++ sliceB (Config.identityKey d) 0 64 ++ sliceB (Config.dvoriloSignature d) 0 64

/-- IDENT: the report is written to the host's memory. -/
def State.ident (s : State) (k : Command) : State :=
  let body := s.identBody k.die (k.args.take 32)
  let rep := body ++ sliceB (Config.identitySign k.die (sha256 body)) 0 64
  ({ s with hostMem := Memory.setN s.hostMem (Args.num k 32 8) rep }).done k 0

/-! ### Power (20 R413) -/

/-- PWRCAP. -/
def State.pwrcap (s : State) (k : Command) : State :=
  let w := Args.num k 0 2
  if w < 1000 || w > 7200 then s.done k 2 else ({ s with pwrCap := w }).done k 0

/-- CEIL of a die set by the power control; a change posts the event. -/
def State.setCeil (s : State) (d v watts : Nat) : State :=
  if fieldOf (s.die d).ramp.ctl 32 18 = v then s
  else (s.modDie d (fun x => { x with ramp := { x.ramp with ctl := withField x.ramp.ctl 32 18 v } })).curEvent d 0x0C 0 v (leBytes 8 watts)

/-- A measurement of the package's power: the mean of the last ten decides. -/
def State.measure (s : State) (watts : Nat) : State :=
  let ps := (watts :: s.powers).take 10
  let sum := sumN ps
  let n := ps.length
  let limit := min 7200 s.pwrCap
  let s := { s with powers := ps }
  let ceil := fun (s : State) (d : Nat) => fieldOf (s.die d).ramp.ctl 32 18
  if sum > limit * n then
    { (List.range 8).foldl (fun s d => s.setCeil d (ceil s d * 92 / 100) watts) s with raised := 0 }
  else if sum * 100 < limit * n * 96 then
    if s.raised + 1 < 10 then { s with raised := s.raised + 1 }
    else { (List.range 8).foldl (fun s d => s.setCeil d (min (s.die d).ramp.ceil (ceil s d * 102 / 100)) watts) s with raised := 0 }
  else { s with raised := 0 }

/-! ### Bring-up (20 R417) -/

/-- BOOT_STAT: the last stage completed and the error. -/
def bootStat (stage err : Nat) : BitVec 64 := BitVec.ofNat 64 (err * 256 + stage)

/-- The good physical rows of a die's mesh, from the north: logical row `k` is the one at place `k`, and those past 32 are powered down
(01 R10). -/
def goodRows (d : Nat) : List Nat := (List.range 34).filter (fun r => !(Config.fuseBadRows d).contains r)

/-- How far stages 1 to 3 bring a die: the last stage completed and the error. -/
def State.bringStage (s : State) (d : Nat) : Nat × Nat :=
  if (goodRows d).length < 32 then (1, 0x82)
  else if !Config.channelsTrain s.ticks d then (2, 0x83)
  else (3, 0)

/-- The ports of a die: a host port on dies 0 and 4 (01 R8). -/
def portsOf (d : Nat) : List Nat := [0, 1, 2, 3, 4, 5] ++ (if d = 0 || d = 4 then [6] else [])

/-- A die announces its incarnation: to the package's dies, and in one packet to all others (log entry 4). -/
def State.announce (s : State) (d : Nat) : State :=
  let inc := (s.die d).inc
  let me := (s.code d).toNat
  let s := (List.range 8).foldl (fun s t => s.modDie t (fun x => { x with incs := NMap.put x.incs me inc })) s
  { s with outbound := s.outbound ++ [{ typ := 0x0C, from_ := s.code d, inc := inc, op := .notice }] }

/-- Stage 5: a patch table that BOOT_PATCH names is checked and applied on the die. -/
def State.attest (s : State) (d : Nat) : Nat × State :=
  let a := fieldOf (s.die d).boot.patch 6 58 * 64
  if a = 0 then (0, s)
  else match s.patchStatus d a with
    | 0 => (0, s.patchApply d a false)
    | e => (e, s)

/-- Stage 4 of a die: its incarnation is announced once its links are trained; then stage 5. -/
def State.bringDie (s : State) (d : Nat) : State :=
  let s := s.announce d
  let (e, s) := s.attest d
  let s := s.modDie d (fun x => { x with boot := { x.boot with stat := bootStat 5 e } })
  (s.due (.rampWindow d)).due (.forecastUpdate d)

/-- Stage 6 of a die: it accepts commands and posts its event. -/
def State.dieReady (s : State) (d : Nat) : State :=
  let s := s.modDie d (fun x => { x with boot := { x.boot with stat := withField x.boot.stat 0 3 6 } })
  let b := (s.die d).boot
  s.curEvent d 1 0 b.stat.toNat (leBytes 8 Config.romVersion.toNat ++ leBytes 8 b.version)

/-- The last stage that a die has completed. -/
def State.stage (s : State) (d : Nat) : Nat := fieldOf (s.die d).boot.stat 0 3

/-- Power applied: every die goes through stages 1 to 3, and those that pass begin to train their ports (20 R417). -/
def State.bringOn (s : State) : State :=
  let ds := List.range 8
  let s := ds.foldl (fun s d =>
    let r := s.bringStage d
    s.modDie d (fun x => { x with
      boot := { x.boot with stat := bootStat r.1 r.2, rows := (goodRows d).take 32, rowsOff := (goodRows d).drop 32 }
      inc := Config.firstIncarnation s.ticks d })) s
  let live := ds.filter (fun d => s.stage d = 3)
  let s := live.foldl (fun s d => (portsOf d).foldl (fun s p => s.linkReset d p) s) s
  s.post .powerUp

/-- Whether stage 4 has come to its end: every ring and host port of the dies in it is up or has failed. Optical ports go on training. -/
def State.portsSettled (s : State) : Bool :=
  (List.range 8).all (fun d => s.stage d ≠ 3 || ((portsOf d).filter (fun p => p < 2 || p = 6)).all (fun p =>
    (s.link d p).st = .up || (s.link d p).st = .failed))

/-- Stages 4 to 6: all dies are ready, or none (20 R417). -/
def State.bringUp (s : State) : State :=
  let ds := List.range 8
  if ds.all (fun d => s.stage d = 0) then s.bringOn
  else
    let live := ds.filter (fun d => s.stage d = 3)
    let s := live.foldl (fun s d => s.bringDie d) s
    if live.length = 8 && s.hostOpen then
      let s := ds.foldl (fun s d => s.dieReady d) s
      ds.foldl (fun s d => s.takeNext d 32768) s
    else s

/-- Power lost and applied again: only the fuses survive; what lies outside the package stands (20 R417). -/
def State.powerLost (s : State) : State :=
  let r : State := { State.reset with
    ticks := s.ticks, cycles := 0, nextId := s.nextId, pkg := s.pkg, hostMem := s.hostMem, outbound := s.outbound, outTokens := s.outTokens }
  (List.range 8).foldl (fun r d => r.modDie d (fun x => { x with boot := { x.boot with secMin := (s.die d).boot.secMin } })) r

/-! ### The steps -/

def execCmdPatch (s : State) : Host.Outcome State Fault Refusal :=
  match s.ev with
  | .cmdPatch k => .next (s.patch k)
  | _ => .next s

def execCmdIdent (s : State) : Host.Outcome State Fault Refusal :=
  match s.ev with
  | .cmdIdent k => .next (s.ident k)
  | _ => .next s

def execCmdPwrcap (s : State) : Host.Outcome State Fault Refusal :=
  match s.ev with
  | .cmdPwrcap k => .next (s.pwrcap k)
  | _ => .next s

def execPowerMeasure (s : State) : Host.Outcome State Fault Refusal :=
  match s.ev with
  | .powerMeasure w => .next (s.measure w)
  | _ => .next s

def execPowerUp (s : State) : Host.Outcome State Fault Refusal :=
  match s.ev with
  | .powerUp => .next s.bringUp
  | _ => .next s

def execPowerLoss (s : State) : Host.Outcome State Fault Refusal :=
  match s.ev with
  | .powerLoss => .next s.powerLost
  | _ => .next s

end Sys2Proof.Machine
end

