-- ==== Sys2Proof/Machine/Curator.lean ====
section
/-! DEFINITION. Curator's commands (20 R409): contexts, registers, mappings, tables, links and memory. -/

namespace Sys2Proof.Machine

/-- Whether `n` bytes of the arguments at an offset are zero. -/
def argsZero (k : Command) (off n : Nat) : Bool := numAt k.args off n = 0

/-! ### Contexts (18 R365, R366) -/

/-- The release channels of a context go, and its entries in the release tables but the sends that `keep` passes (14 R302, R312). -/
def State.dropGroups (s : State) (c : Nat) (keep : SendEntry → Bool) : State :=
  (List.range 8).foldl (fun s d => s.modDie d (fun x => { x with
    relChans := x.relChans.filter (fun p => p.1 / 256 ≠ c)
    sends := x.sends.filter (fun e => e.ctx ≠ c || keep e)
    copies := x.copies.filter (fun p => p.ctx.toNat ≠ c)
    recvs := x.recvs.filter (fun r => r.1.ctx.toNat ≠ c) })) s

/-- CREATE: free → idle, with everything zero and CTX_MODE FREE. -/
def State.createCtx (s : State) (k : Command) : State :=
  let c := cmdCtx k
  if (s.ctx c).st ≠ .free then s.done k 3
  else
    let s := (List.range 8).foldl (fun s d => s.modCd c d (fun x => { x with
      status := 0, trape := List.replicate 32 0, sent := 0, recv := 0, phases := [], ncnt := [], msgNo := 0 })) s
    let s := s.dropGroups c (fun _ => false)
    (s.modCtx c (fun x => { dies := x.dies, fcReader := x.fcReader, st := .idle, created := s.cycles })).done k 0

/-- The regions and launches of a context that is destroyed go, with the events that act on them. -/
def State.dropCtx (s : State) (c : Nat) : State :=
  let ids := (s.regions.filter (fun (p : Nat × Region) => p.2.launch.ctx = c)).map (·.1)
  let s := ids.foldl (fun s r => s.freeRegion r) s
  let s : State := { s with
    launches := s.launches.filter (fun p => p.2.ctx ≠ c), snaps := NMap.del s.snaps c, saves := NMap.del s.saves c }
  s.dropEvents (fun e => match e with
    | .intervalBoundary n _ | .rollback n | .hangIntervalExpiry n => n = c
    | .replayTimeout _ n | .firstWriteCopy _ n _ => n = c
    | _ => false)

/-- A command that changes pages, each named with its context, waits for drain tokens at every stream port of those contexts (09 R189). -/
def State.drainPages (s : State) (k : Command) (ps : List (Nat × PageMap)) : State :=
  let (id, s) := s.fresh
  let s := ps.foldl (fun s q => s.dropLines q.1 (s.ctxTiles q.1) q.2.va (pdSize q.2.desc)) s
  s.inject (fun p => !p.phys && ps.any (fun q => q.1 = p.ctx.toNat)) { id := id, ctx := cmdCtx k, base := 0, len := 0, waits := [], cmd := some k }

/-- DESTROY once its pages are drained: the save areas are marked empty; every mapping, pin and table of the context goes (09 R195,
18 R366). An abort that is not answered yet is still sent again (14 R303). -/
def State.destroyNow (s : State) (k : Command) : State :=
  let c := cmdCtx k
  match (s.ctx c).st with
  | .idle | .saved | .ended =>
    let s := (List.range 8).foldl (fun s d => s.writeVa c (s.saveBase c d + 6) [0]) s
    let s := (s.dropCtx c).dropGroups c (fun e => e.st = .aborted && !e.answered)
    let s := (List.range 8).foldl (fun s d =>
      let s := s.modCd c d (fun _ => {})
      s.modDie d (fun x => { x with tlb := x.tlb.filter (fun t => t.1 ≠ c), fcache := x.fcache.filter (fun f => f.1.1 ≠ c) })) s
    (s.modCtx c (fun x => { dies := x.dies, st := .free })).done k 0
  | _ => s.done k 3

/-- DESTROY: it removes every page of the context (09 R189). -/
def State.destroyCtx (s : State) (k : Command) : State :=
  let c := cmdCtx k
  match (s.ctx c).st with
  | .idle | .saved | .ended =>
    s.drainPages k ((List.range 8).flatMap (fun d => ((s.cd c d).pages.filter (fun q => pdValid q.desc)).map (fun q => (c, q))))
  | _ => s.done k 3

/-- The dies of the package that RESIDENT and EVICT name: none where the arguments are out of range. -/
def residentDies (s : State) (k : Command) : Option (List Nat) :=
  let first := Args.num k 0 2
  let count := Args.num k 2 2
  let mask := Args.num k 4 1
  if count = 0 || first + count > 1024 || mask = 0 then none
  else if first ≤ s.pkg && s.pkg < first + count then some ((List.range 8).filter (fun d => bitN mask d)) else some []

/-- The contexts resident on a die. -/
def State.residents (s : State) (d : Nat) : Nat := (s.ctxs.filter (fun p => p.2.dies.contains d)).length

/-- RESIDENT (18 R365): at most 512 contexts on a die. -/
def State.makeResident (s : State) (k : Command) : State :=
  let c := cmdCtx k
  match residentDies s k with
  | none => s.done k 2
  | some ds =>
    let new := ds.filter (fun d => !(s.ctx c).dies.contains d)
    if new.any (fun d => s.residents d ≥ 512) then s.done k 5
    else
      let s := s.modCtx c (fun x => { x with dies := (List.range 8).filter (fun d => x.dies.contains d || new.contains d) })
      (new.foldl (fun s d => s.due (.queueDecision d)) s).done k 0

/-- EVICT: refused while a region of the context is on one of the dies. -/
def State.evict (s : State) (k : Command) : State :=
  let c := cmdCtx k
  match residentDies s k with
  | none => s.done k 2
  | some ds =>
    let on := fun (d : Nat) => s.regions.any (fun (p : Nat × Region) => p.2.launch.ctx = c && p.2.launch.dies.contains d)
    if ds.any on then s.done k 3
    else (s.modCtx c (fun x => { x with dies := x.dies.filter (fun d => !ds.contains d) })).done k 0

/-- MODE (17 R346): refused while the context is busy. A change of LEVEL starts the ring, the copies and the intervals anew. -/
def State.setMode (s : State) (k : Command) : State :=
  let c := cmdCtx k
  let v := Args.num k 0 1
  if v > 3 then s.done k 2
  else if (s.ctx c).st = .free || s.busy c then s.done k 3
  else if s.level c = v then s.done k 0
  else
    let s := (List.range 8).foldl (fun s d => s.modCd c d (fun x =>
      { x with ring := { x.ring with
          head := 0, tail := 0, commit := 0, redo := none, failed := none, marked := false, highPosted := false, lowPosted := false, since := s.cycles } })) (s.newInterval c)
    let s := s.modCtx c (fun x => { x with mode := BitVec.ofNat 64 v, interval := 0, reruns := 0, badLines := [] })
    let s : State := { s with snaps := if v = 0 then NMap.del s.snaps c else NMap.put s.snaps c (s.checkpoint c) }
    let s := if v = 3 then (s.ctx c).dies.foldl (fun s d => s.due (.replayTimeout d c)) s else s
    s.done k 0

/-- RESUME: every pending trap is released as by TRET with nores = 1, and the context goes on (18 R366, R374). -/
def State.resume (s : State) (k : Command) : State :=
  let c := cmdCtx k
  if (s.ctx c).st ≠ .halted then s.done k 3
  else
    let ps := (List.range 8).flatMap (fun d => (s.cd c d).pending.map (fun p => (d, p)))
    let s := ps.foldl (fun s q => s.dropTrap c q.1 q.2.1 q.2.2 none) s
    (s.goOn c).done k 0

/-- KILL (18 R366, R368): an end that is held behind a handler is waited for (18 R383). -/
def State.kill (s : State) (k : Command) : State :=
  let c := cmdCtx k
  match (s.ctx c).st with
  | .free => s.done k 3
  | .ended => s.done k 0
  | _ =>
    let s := s.endOrHold c k.die (Args.num k 0 4) none
    if (s.ctx c).st = .ended then s.done k 0 else s.post (.cmdKill k)

/-- TRAPW (18 R370, 25: the argument is the number in bits [63:16] of the entry): every die's copy is replaced, its generation one more. -/
def State.trapWrite (s : State) (k : Command) : State :=
  let c := cmdCtx k
  let i := Args.num k 0 1
  let v := BitVec.ofNat 64 (Args.num k 8 6 * 2 ^ 16)
  if i ≥ 32 then s.done k 2
  else
    let e := withField v 48 14 0
    ((List.range 8).foldl (fun s d => s.modCd c d (fun x =>
      { x with trape := setAt x.trape i (withField e 0 16 (teGen (x.trape.getD i 0) + 1)) })) s).done k 0

/-- CTXINFO: the checkpoint size on a die in units of 64 KiB (17 R357). -/
def State.ctxInfo (s : State) (k : Command) : State :=
  let c := cmdCtx k
  match argDie k 0 with
  | none => s.done k 2
  | some d =>
    if (s.ctx c).st = .free then s.done k 3
    else
      let nt := ((s.ctxTiles c).filter (fun t => t.die = d)).length
      let ni := (((s.regionsOf c).flatMap (fun r => r.2.islands)).filter (fun i => i.1 = d)).length
      s.finish k 0 (ceilDiv (Config.checkpointBytes nt ni) 65536)

/-! ### Physical pages -/

/-- The physical bytes on a die of the pages of a context that a range meets. -/
def State.physOf (s : State) (c d : Nat) (r : Nat × Nat) : List (Nat × Nat) :=
  ((s.cd c d).pages.filter (fun p => pdValid p.desc && p.meets r)).map (fun p => (pdPa p.desc, pdSize p.desc))

/-- Whether physical ranges meet. -/
def physMeet (a b : Nat × Nat) : Bool := a.1 < b.1 + b.2 && b.1 < a.1 + a.2

/-- Whether a page of a range of a context lies in a writable lease range that is active for any context (19 R385, 16 R336). -/
def State.writableLeased (s : State) (c d : Nat) (r : Nat × Nat) : Bool :=
  let mine := s.physOf c d r
  let act := s.regions.map (fun (p : Nat × Region) => p.2.launch) ++ s.launches.map (·.2)
  act.any (fun l => l.active.any (fun q => q.w && vaPkg q.base = s.pkg && vaDie q.base = d
    && (s.physOf l.ctx d (q.base, q.size)).any (fun x => mine.any (physMeet x))))

/-- Whether physical bytes of a die belong to an area that no context may write. -/
def State.physReadOnly (s : State) (d : Nat) (x : Nat × Nat) : Bool :=
  s.ctxDies.any (fun (p : Nat × CtxDie) => p.1 % 8 = d
    && p.2.readOnlyAreas.any (fun r => (s.physOf (p.1 / 8) d r).any (physMeet x)))

/-- The W bits of every page of a die that lies in such an area cleared. -/
def State.clearW (s : State) (d : Nat) : State :=
  { s with ctxDies := s.ctxDies.map (fun (p : Nat × CtxDie) => if p.1 % 8 ≠ d then p else
      (p.1, { p.2 with pages := p.2.pages.map (fun q =>
        if s.physReadOnly d (pdPa q.desc, pdSize q.desc) then { q with desc := withField q.desc 58 1 0 } else q) })) }

/-! ### Registers (20 R410) -/

/-- A register field that stores 1 when 0 is written. -/
def atLeast1 (v : Nat) : Nat := max 1 v

/-- LOG2 of a size register within its limits, else the default. -/
def log2Of (v lo hi dflt : Nat) : Nat := if lo ≤ v % 32 && v % 32 ≤ hi then v % 32 else dflt

/-- CHITIS_CTL as it is stored (14 R315). -/
def chitisCtl (v : BitVec 64) : BitVec 64 :=
  let gap := atLeast1 (fieldOf v 0 16)
  let life := min (atLeast1 (fieldOf v 40 8)) (min (5 * gap) 255)
  BitVec.ofNat 64 (fieldOf v 48 1 * 2 ^ 48 + life * 2 ^ 40 + atLeast1 (fieldOf v 16 16) * 2 ^ 16 + gap)

/-- RAMP_CTL as it is stored (20 R412). -/
def rampCtl (v : BitVec 64) : BitVec 64 :=
  BitVec.ofNat 64 (min 197600 (fieldOf v 32 18) * 2 ^ 32 + atLeast1 (fieldOf v 16 16) * 2 ^ 16 + atLeast1 (fieldOf v 0 16))

/-- OBS_CTL as it is stored (19 R385). -/
def obsCtl (v : BitVec 64) : BitVec 64 := v &&& BitVec.ofNat 64 (0xFFFFFFFF * 2 ^ 32 + 0xEE)

/-- A register of one die (selectors without a context). -/
def Die.regw (x : Die) (sel : Nat) (v : BitVec 64) : Die :=
  match sel with
  | 0x01 => { x with bsched := BitVec.ofNat 64 (atLeast1 (fieldOf v 0 4)) }
  | 0x02 => { x with aspCtl := BitVec.ofNat 64 (atLeast1 (fieldOf v 8 16) * 256) }
  | 0x04 => { x with memord := withField x.memord 4 8 (atLeast1 (fieldOf v 4 8)) }
  | 0x09 => { x with accCtl := BitVec.ofNat 64 (atLeast1 (fieldOf v 0 16)) }
  | 0x1D => { x with ramp := { x.ramp with ctl := rampCtl v, ceil := fieldOf (rampCtl v) 32 18 } }
  | 0x1E => { x with ramp := { x.ramp with fcst := withField x.ramp.fcst 32 32 (fieldOf v 32 32) } }
  | n =>
    if 0x0E ≤ n && n ≤ 0x11 then { x with tbk := setAt x.tbk (n - 0x0E) (withField v 0 11 0) }
    else if 0x12 ≤ n && n ≤ 0x15 then { x with tbf := setAt x.tbf (n - 0x12) v }
    else x

/-- A register of a context on a die; a write of CAT_SIZE clears LOST (log entry 62). `busy` says that ACC_BASE and ACC_SIZE take no write (17 R350). -/
def CtxDie.regw (x : CtxDie) (busy : Bool) (sel : Nat) (v : BitVec 64) : CtxDie :=
  match sel with
  | 0x05 => if busy then x else { x with ring := { x.ring with base := withField v 0 21 0 } }
  | 0x06 => if busy then x else { x with ring := { x.ring with size := BitVec.ofNat 64 (log2Of (fieldOf v 0 5) 16 30 16) } }
  | 0x0A => { x with ring := { x.ring with shdBase := withField v 0 21 0 } }
  | 0x0B => { x with ring := { x.ring with shdSize := BitVec.ofNat 64 (log2Of (fieldOf v 0 5) 21 36 21) } }
  | 0x0C => { x with save := withField v 0 16 0 }
  | 0x0D => { x with saveSz := BitVec.ofNat 64 (fieldOf v 0 40) }
  | 0x16 => { x with obs := { x.obs with catBase := withField v 0 16 0 } }
  | 0x17 => { x with obs := { x.obs with catSize := BitVec.ofNat 64 (log2Of (fieldOf v 0 5) 12 30 16) } }
  | 0x19 => { x with obs := { x.obs with histBase := withField v 0 16 0 } }
  | 0x1A => { x with obs := { x.obs with histSize := BitVec.ofNat 64 (fieldOf v 0 40) } }
  | 0x1B => { x with obs := { x.obs with hangBase := withField v 0 16 0 } }
  | 0x1C => { x with obs := { x.obs with hangSize := BitVec.ofNat 64 (fieldOf v 0 40) } }
  | 0x20 => { x with obs := { x.obs with ctl := obsCtl v } }
  | _ => x

/-- The kind of a selector: 0 none, 1 a die's, 2 a context's on a die. -/
def selKind (sel : Nat) : Nat :=
  if [0x01, 0x02, 0x03, 0x04, 0x09, 0x1D, 0x1E].contains sel || (0x0E ≤ sel && sel ≤ 0x15) then 1
  else if 1 ≤ sel && sel ≤ 0x20 then 2
  else 0

/-- The area that a write of CAT_BASE, HIST_BASE or HANG_BASE names (19 R385). -/
def areaOf (o : Obs) (sel : Nat) (v : BitVec 64) : Option (Nat × Nat) :=
  let b := fieldOf v 16 48 * 2 ^ 16
  match sel with
  | 0x16 => some (b, 2 ^ fieldOf o.catSize 0 5)
  | 0x19 => some (b, fieldOf o.histSize 0 40)
  | 0x1B => some (b, fieldOf o.hangSize 0 40)
  | _ => none

/-- Whether a size register is given a size that is no multiple of 64 KiB (18 R380, 19 R385). -/
def sizeBad (sel : Nat) (v : BitVec 64) : Bool := (sel = 0x0D || sel = 0x1A || sel = 0x1C) && fieldOf v 0 16 ≠ 0

/-- The write of a register of a context on a die; the pages of its areas are pinned, and read-only where they must be. -/
def State.regwCtx (s : State) (c d sel : Nat) (v : BitVec 64) : State :=
  match sel with
  | 0x07 => s.headWrite d c v
  | 0x08 => s.tailSupply d c v
  | 0x18 => s.catHead d c v
  | 0x1F => s.modCtx c (fun x => { x with fcReader := bitN v.toNat 0 })
  | _ => ((s.modCd c d (fun x => x.regw (s.busy c) sel v)).repin c d).clearW d

/-- The pages of a die, each with its context, that a change makes read-only. -/
def State.lostW (s t : State) (d : Nat) : List (Nat × PageMap) :=
  s.ctxDies.flatMap (fun (p : Nat × CtxDie) => if p.1 % 8 ≠ d then [] else
    (p.2.pages.filter (fun q => pdW q.desc && !(t.cd (p.1 / 8) d).pages.any (fun r => r.va = q.va && pdW r.desc))).map (fun q => (p.1 / 8, q)))

/-- A command whose effect makes pages read-only takes effect once they are drained (09 R189), any other at once. -/
def State.orDrain (s : State) (k : Command) (d : Nat) (t : State) : State :=
  match s.lostW t d with
  | [] => t
  | ps => s.drainPages k ps

/-- REGW. Weight-scale registers, and the sticky bits of tiles and islands other than those of STATCLR, are written by Curator as the spec
says, but no command of 20 R409 names them, and no selector of 20 R410: nothing writes them here (log entry 62). -/
def State.regw (s : State) (k : Command) : State :=
  let c := cmdCtx k
  let sel := Args.num k 0 2
  let v := BitVec.ofNat 64 (Args.num k 8 8)
  match selKind sel, argPkgDie s k 2 with
  | 0, _ | _, none => s.done k 2
  | 1, some d? =>
    if sel = 0x03 then ((List.range 8).foldl (fun s d => s.modDie d (fun x => { x with cctl := chitisCtl v })) s).done k 0
    else (match d? with
      | some d => s.modDie d (fun x => x.regw sel v)
      | none => s).done k 0
  | _, some none => s.done k 0
  | _, some (some d) =>
    let bad := match areaOf (s.cd c d).obs sel v with
      | some r => s.writableLeased c d r
      | none => false
    if sizeBad sel v then s.done k 2
    else if bad then s.done k 4
    else s.orDrain k d ((s.regwCtx c d sel v).done k 0)

/-! ### Mappings (09 R185, R186, R189) -/

/-- Whether the table area of a die, which holds one mapping at least, has no room for one more (log entry 67). -/
def State.tableFull (s : State) (d : Nat) : Bool :=
  sumN ((s.ctxDies.filter (fun p => p.1 % 8 = d)).map (fun p => p.2.pages.length)) > Config.tablePages d

/-- MAP. -/
def State.mapPage (s : State) (k : Command) : State :=
  let c := cmdCtx k
  let va := Args.num k 0 8
  let pa := Args.num k 8 8
  let b := Args.num k 16 1
  let size := pageSize (b % 4)
  let d := vaDie va
  if b ≥ 64 then s.done k 1
  else if b % 4 = 3 || b / 4 % 4 = 3 || va % size ≠ 0 || pa % size ≠ 0 || pa + size > dieBytes then s.done k 2
  else if vaPkg va ≠ s.pkg then s.done k 0
  else if (s.cd c d).pages.any (fun p => pdValid p.desc && p.meets (va, size)) then s.done k 2
  else if s.tableFull d then s.done k 5
  else
    let desc := BitVec.ofNat 64 (2 ^ 63 + b % 4 * 2 ^ 61 + b / 4 % 4 * 2 ^ 59 + b / 16 % 2 * 2 ^ 58 + b / 32 % 2 * 2 ^ 57 + pa)
    (((s.modCd c d (fun x => { x with pages := x.pages ++ [PageMap.mk va desc] })).repin c d).clearW d).done k 0

/-- The page of a command that names it by its base. -/
def State.cmdPage (s : State) (k : Command) : Option PageMap :=
  let va := Args.num k 0 8
  match s.page? (cmdCtx k) va with
  | some p => if p.va = va then some p else none
  | none => none

/-- Whether a page is leased or pinned. -/
def PageMap.held (p : PageMap) : Bool := pdLeased p.desc || pdPin p.desc

/-- UNMAP. -/
def State.unmap (s : State) (k : Command) : State :=
  if vaPkg (Args.num k 0 8) ≠ s.pkg then s.done k 0
  else match s.cmdPage k with
    | none => s.done k 2
    | some p => if p.held then s.done k 4 else s.drainPages k [(cmdCtx k, p)]

/-- PROTECT: W and ATTRW of a page; clearing W drains. -/
def State.protect (s : State) (k : Command) : State :=
  let b := Args.num k 8 1
  if b > 3 then s.done k 1
  else if vaPkg (Args.num k 0 8) ≠ s.pkg then s.done k 0
  else match s.cmdPage k with
    | none => s.done k 2
    | some p =>
      if pdW p.desc && b % 2 = 0 then (if p.held then s.done k 4 else s.drainPages k [(cmdCtx k, p)])
      else
        let d := vaDie p.va
        let new := withField (withField p.desc 58 1 (b % 2)) 57 1 (b / 2)
        ((s.modCd (cmdCtx k) d (fun x => { x with pages := x.pages.map (fun q => if q = p then { q with desc := new } else q) })).clearW d).done k 0

/-- The drain tokens of a mapping command have arrived: the descriptor changes and the TLB entry goes, unless the page has been leased
or pinned in the meantime (09 R189, R194). -/
def State.pageDrained (s : State) (k : Command) : State :=
  let c := cmdCtx k
  match s.cmdPage k with
  | none => s.done k 2
  | some p =>
    if p.held then s.done k 4
    else
      let d := vaDie p.va
      let b := Args.num k 8 1
      let off := fun (q : PageMap) => if q = p then { q with desc := withField (withField q.desc 58 1 0) 57 1 (b / 2) } else q
      let gone := k.opcode.toNat = 0x08
      let s := s.modCd c d (fun x => { x with pages := (if gone then x.pages.filter (fun q => q ≠ p) else x.pages.map off) })
      (s.modDie d (fun x => { x with tlb := x.tlb.filter (fun t => !(t.1 = c && t.2.1 = p.va)) })).done k 0

/-! ### Residency (09 R193) -/

/-- RESDONE: the launch is checked again; the timer wins over it (20 R419). -/
def State.resDone (s : State) (k : Command) : State :=
  let n := Args.num k 0 1
  match NMap.find (s.die k.die).resSlots n with
  | none => s.done k 2
  | some id =>
    if s.cycles ≥ s.reswaitDue k.die n then (s.failResidency k.die n 1).done k 2
    else (s.due (.leaseResidencyCheck id)).done k 0

/-- RESFAIL. -/
def State.resFail (s : State) (k : Command) : State :=
  let n := Args.num k 0 1
  match NMap.find (s.die k.die).resSlots n with
  | none => s.done k 2
  | some _ => (s.failResidency k.die n 0).done k 0

/-! ### Grammar slots (16 R335, R336) -/

/-- The ranges of an image: header, class map, transitions, mask index, mask rows. -/
def imageRanges (base : Nat) (g : GramHead) : List (Nat × Nat) :=
  [(base, 64), (g.classMap, 2 * g.vocab), (g.trans, 4 * g.states * g.classes), (g.index, 16 * g.states * (g.syms + 1)),
   (g.maskRows, 64 * g.chunks * g.nrows)]

/-- The header's first failing offset. -/
def headFails (h : Bytes) (g : GramHead) : Option Nat :=
  if numAt h 0 4 ≠ 0x4D475247 then some 0
  else if g.states = 0 || g.states > 4096 then some 4
  else if g.syms = 0 || g.syms > 256 then some 6
  else if g.vocab = 0 || g.vocab > 262144 then some 8
  else if g.classes = 0 || g.classes > 1024 then some 0x0C
  else if g.start ≥ g.states then some 0x0E
  else if numAt h 0x34 12 ≠ 0 then some 0x34
  else none

/-- The class of a token, and a transition. -/
def State.gramClass (s : State) (c : Nat) (g : GramHead) (t : Nat) : Nat := leNat (s.readVa c (g.classMap + 2 * t) 2)
def State.gramTrans (s : State) (c : Nat) (g : GramHead) (q k : Nat) : Nat := leNat (s.readVa c (g.transAt q k) 4)

/-- Whether a transition keeps its limits: the next state and the symbol of a transition that uses them, the reserved bits. -/
def transOk (g : GramHead) (v : Nat) : Bool :=
  let op := bitsN v 30 2
  bitsN v 0 10 = 0 && (op = 3 || bitsN v 10 12 < g.states) && ((op ≠ 1 && op ≠ 2) || bitsN v 22 8 < g.syms)

/-- Whether a token is allowed in a state with a top of the stack. -/
def State.gramAllows (s : State) (c : Nat) (g : GramHead) (q top t : Nat) : Bool :=
  let v := s.gramTrans c g q (s.gramClass c g t)
  match bitsN v 30 2 with
  | 3 => false
  | 2 => top < g.syms && bitsN v 22 8 = top
  | _ => true

/-- The allowed tokens of a state and top. -/
def State.gramAllowed (s : State) (c : Nat) (g : GramHead) (q top : Nat) : List Nat :=
  (List.range g.vocab).filter (fun t => s.gramAllows c g q top t)

/-- Whether a mask-index entry is right. -/
def State.indexOk (s : State) (c : Nat) (g : GramHead) (q top : Nat) : Bool :=
  let b := s.readVa c (g.indexAt q top) 16
  let ts := s.gramAllowed c g q top
  numAt b 0 4 < g.nrows && numAt b 4 4 = ts.length && numAt b 8 4 = ts.head?.getD 0xFFFFFFFF && numAt b 12 4 = 0

/-- The first wrong byte of the mask row of a state and top: its address. -/
def State.rowFails (s : State) (c : Nat) (g : GramHead) (q top : Nat) : Option Nat :=
  let row := (s.gramEntry c g q top).1
  let ts := s.gramAllowed c g q top
  let want := bitBytes (64 * g.chunks) ts
  ((List.range (64 * g.chunks)).find? (fun i => s.readByte c (g.chunkAt row 0 + i) ≠ want.getD i 0)).map (fun i => g.chunkAt row 0 + i)

/-- The first failing offset of an image (16 R336). -/
def State.imageFails (s : State) (c base : Nat) : Option Nat :=
  let h := s.readVa c base 64
  let g := gramHead h
  let off := fun (a : Nat) => (a + 2 ^ 64 - base) % 2 ^ 32
  let pairs := (List.range g.states).flatMap (fun q => (List.range (g.syms + 1)).map (fun y => (q, y)))
  let cells := (List.range g.states).flatMap (fun q => (List.range g.classes).map (fun k => (q, k)))
  match headFails h g, (imageRanges base g).find? (fun r => !s.mappedVa c r.1 r.2) with
  | some o, _ => some o
  | none, some r => some (off r.1)
  | none, none =>
    match (List.range g.vocab).find? (fun t => s.gramClass c g t ≥ g.classes), cells.find? (fun p => !transOk g (s.gramTrans c g p.1 p.2)) with
    | some t, _ => some (off (g.classMap + 2 * t))
    | none, some p => some (off (g.transAt p.1 p.2))
    | none, none =>
      match pairs.find? (fun p => !s.indexOk c g p.1 p.2) with
      | some p => some (off (g.indexAt p.1 p.2))
      | none => (pairs.findSome? (fun p => s.rowFails c g p.1 p.2)).map off

/-- A slot made invalid: its lines leave the mask cache, its image's pages are no longer pinned for it. -/
def State.gramDrop (s : State) (c d slot : Nat) : State :=
  let s := s.modCd c d (fun x => { x with gslots := NMap.del x.gslots slot, gpins := NMap.del x.gpins slot })
  let s := s.modGram d (fun x => { x with cache := x.cache.filter (fun e => !(e.1 = c && e.2.1 = slot)) })
  s.repin c d

/-- The slot of a GRAMW made valid: its image's pages are pinned and read-only. -/
def State.gramValid (s : State) (k : Command) : State :=
  let c := cmdCtx k
  let slot := Args.num k 2 1
  let base := Args.num k 8 8
  match argDie k 0 with
  | none => s.done k 2
  | some d =>
    let rs := imageRanges base (gramHead (s.readVa c base 64))
    let s := (s.gramDrop c d slot).modCd c d (fun x => { x with
      gslots := NMap.put x.gslots slot (BitVec.ofNat 64 (base + 1)), gpins := NMap.put x.gpins slot rs })
    ((s.repin c d).clearW d).done k 0

/-- GRAMW: the image is examined, the slot made valid, its pages pinned and read-only; a failing image leaves the slot invalid. -/
def State.gramWrite (s : State) (k : Command) : State :=
  let c := cmdCtx k
  let slot := Args.num k 2 1
  let base := Args.num k 8 8
  match argDie k 0 with
  | none => s.done k 2
  | some d =>
    if slot ≥ 16 || base % 64 ≠ 0 || vaOwner base ≠ s.pkg * 8 + d then s.done k 2
    else
      let rs := imageRanges base (gramHead (s.readVa c base 64))
      if rs.any (fun r => s.writableLeased c d r) then s.done k 4
      else match s.imageFails c base with
        | some o => (s.gramDrop c d slot).finish k 2 o
        | none => s.orDrain k d (s.gramValid k)

/-- GRAMW with address 0. -/
def State.gramClear (s : State) (k : Command) : State :=
  match argDie k 0 with
  | none => s.done k 2
  | some d => if Args.num k 2 1 ≥ 16 then s.done k 2 else (s.gramDrop (cmdCtx k) d (Args.num k 2 1)).done k 0

/-- What a command does once the drain tokens that it waited for have arrived (09 R189). -/
def State.cmdDrained (s : State) (k : Command) : State :=
  match k.opcode.toNat with
  | 0x02 => s.destroyNow k
  | 0x06 => (match argPkgDie s k 2 with
    | some (some d) => (s.regwCtx (cmdCtx k) d (Args.num k 0 2) (BitVec.ofNat 64 (Args.num k 8 8))).done k 0
    | _ => s.done k 2)
  | 0x11 => s.gramValid k
  | _ => s.pageDrained k

/-- The drain tokens of an operation have arrived (09 R197). -/
def State.drainArrived (s : State) (op : Nat) : State :=
  match s.drainOps.find? (fun o => o.id = op) with
  | none => s
  | some o =>
    let s : State := { s with drainOps := s.drainOps.filter (fun q => q.id ≠ op) }
    match o.job, o.cmd with
    | some j, _ => s.aspaceArrived o j
    | none, some k => s.cmdDrained k
    | none, none => s

/-! ### The network tables (15 R318, R320) -/

/-- Whether an IP address of a family keeps its rest zero. -/
def ipOk (v6 : Bool) (b : Bytes) : Bool := v6 || numAt b 4 12 = 0

/-- Whether an endpoint entry keeps its zero fields. -/
def endpointOk (cfg e : Bytes) : Bool :=
  (byteAt e 0).toNat < 4 && byteAt e 1 = 0 && numAt e 2 2 < 4096 && (byteAt e 4).toNat < 8 && numAt e 5 3 = 0
    && (cfg.isEmpty || ipOk (bitN (byteAt cfg 4).toNat 0) (sliceB e 8 16))

/-- EPW. -/
def State.endpointWrite (s : State) (k : Command) : State :=
  let i := Args.num k 2 2
  let e := sliceB k.args 8 24
  match argDie k 0 with
  | none => s.done k 2
  | some d =>
    if i ≥ 4096 || !endpointOk (s.die d).net.cfg e then s.done k 2
    else (s.modCd (cmdCtx k) d (fun x => { x with endpoints := NMap.put x.endpoints i e })).done k 0

/-- Whether a window entry keeps its limits (15 R320). -/
def windowOk (owner : Nat) (w : Bytes) : Bool :=
  let f := (byteAt w 0x18).toNat
  let n := (byteAt w 0x19).toNat
  f < 16 && n < 64 && (bitN f 3 || n = 0) && numAt w 0x1A 6 = 0 && numAt w 8 8 < 2 ^ 41
    && (!bitN f 0 || (1 ≤ winSize w && winSize w ≤ 2 ^ 40 && winBase w % 64 = 0 && vaOwner (winBase w) = owner
      && (winCredit w).toNat % 64 = 0))

/-- WINW: the old window's pin goes, the new one's is taken. -/
def State.windowWrite (s : State) (k : Command) : State :=
  let c := cmdCtx k
  let i := Args.num k 2 1
  let w := sliceB k.args 8 32
  match argDie k 0 with
  | none => s.done k 2
  | some d =>
    if !windowOk (s.pkg * 8 + d) w then s.done k 2
    else
      let old := NMap.getD (s.cd c d).windows i []
      let s' := if winValid old then (s.unpinRange c (winBase old) (winSize old)).2 else s
      let r := if winValid w then s'.pinRange c (winBase w) (winSize w) else (0, s')
      if r.1 ≠ 0 then s.done k 5
      else (r.2.modCd c d (fun x => { x with windows := NMap.put x.windows i w })).done k 0

/-- Whether a port configuration keeps its zero fields. -/
def netCfgOk (b : Bytes) : Bool :=
  let v6 := bitN (byteAt b 4).toNat 0
  (byteAt b 0).toNat < 2 && (byteAt b 1).toNat < 64 && (byteAt b 4).toNat < 2 && numAt b 5 3 = 0 && numAt b 0x14 12 = 0
    && ipOk v6 (sliceB b 0x20 16) && (byteAt b 0 = 0 || ipOk v6 (sliceB b 0x30 16))

/-- NETCFG: the ports train with the new configuration. -/
def State.netConfigure (s : State) (k : Command) : State :=
  match argDie k 0 with
  | none => s.done k 2
  | some d =>
    let b := Memory.getN s.hostMem (Args.num k 8 8) 64
    let live := s.ctxDies.any (fun (p : Nat × CtxDie) => p.1 % 8 = d && p.2.windows.any (fun w => winValid w.2))
    if !(s.die d).net.msgs.isEmpty || live then s.done k 3
    else if !netCfgOk b then s.done k 2
    else (s.modNet d (fun x => { x with cfg := b, up := true })).done k 0

/-! ### Links, status, memory -/

/-- LINKRST (14 R299). -/
def State.linkRst (s : State) (k : Command) : State :=
  let p := Args.num k 2 1
  match argDie k 0 with
  | none => s.done k 2
  | some d => if (portsOf d).contains p then (s.linkReset d p).done k 0 else s.done k 2

/-- STATCLR: a selector of 19 R399 that names a register. -/
def State.statClrCmd (s : State) (k : Command) : State :=
  let sel := Args.num k 2 1
  match argDie k 0 with
  | none => s.done k 2
  | some d => if sel = 0 || sel > 0x18 then s.done k 2 else (s.statClear d sel).done k 0

/-- MEMRD, and MEMWR, which no mapped page allows. -/
def State.memRead (s : State) (k : Command) : State :=
  let pa := Args.num k 8 8
  let n := Args.num k 24 8
  match argPkgDie s k 0 with
  | none => s.done k 2
  | some none => s.done k 0
  | some (some d) =>
    if pa + n > dieBytes then s.done k 2
    else ({ s with hostMem := Memory.setN s.hostMem (Args.num k 16 8) (Memory.getN s.mem (physKey d pa) n) }).done k 0
def State.memWrite (s : State) (k : Command) : State :=
  let pa := Args.num k 8 8
  let n := Args.num k 24 8
  match argPkgDie s k 0 with
  | none => s.done k 2
  | some none => s.done k 0
  | some (some d) =>
    if pa + n > dieBytes then s.done k 2
    else if s.physMapped d pa n then s.done k 4
    else ({ s with mem := Memory.setN s.mem (physKey d pa) (Memory.getN s.hostMem (Args.num k 16 8) n) }).done k 0

/-! ### The steps -/

def execCmdCreate (s : State) : Host.Outcome State Fault Refusal :=
  match s.ev with
  | .cmdCreate k => .next (s.createCtx k)
  | _ => .next s

def execCmdDestroy (s : State) : Host.Outcome State Fault Refusal :=
  match s.ev with
  | .cmdDestroy k => .next (s.destroyCtx k)
  | _ => .next s

def execCmdResident (s : State) : Host.Outcome State Fault Refusal :=
  match s.ev with
  | .cmdResident k => .next (s.makeResident k)
  | _ => .next s

def execCmdEvict (s : State) : Host.Outcome State Fault Refusal :=
  match s.ev with
  | .cmdEvict k => .next (s.evict k)
  | _ => .next s

def execCmdMode (s : State) : Host.Outcome State Fault Refusal :=
  match s.ev with
  | .cmdMode k => .next (s.setMode k)
  | _ => .next s

def execCmdRegw (s : State) : Host.Outcome State Fault Refusal :=
  match s.ev with
  | .cmdRegw k => .next (s.regw k)
  | _ => .next s

def execCmdMap (s : State) : Host.Outcome State Fault Refusal :=
  match s.ev with
  | .cmdMap k => .next (s.mapPage k)
  | _ => .next s

def execCmdUnmap (s : State) : Host.Outcome State Fault Refusal :=
  match s.ev with
  | .cmdUnmap k => .next (s.unmap k)
  | _ => .next s

def execCmdProtect (s : State) : Host.Outcome State Fault Refusal :=
  match s.ev with
  | .cmdProtect k => .next (s.protect k)
  | _ => .next s

def execCmdResdone (s : State) : Host.Outcome State Fault Refusal :=
  match s.ev with
  | .cmdResdone k => .next (s.resDone k)
  | _ => .next s

def execCmdResfail (s : State) : Host.Outcome State Fault Refusal :=
  match s.ev with
  | .cmdResfail k => .next (s.resFail k)
  | _ => .next s

def execCmdResume (s : State) : Host.Outcome State Fault Refusal :=
  match s.ev with
  | .cmdResume k => .next (s.resume k)
  | _ => .next s

def execCmdKill (s : State) : Host.Outcome State Fault Refusal :=
  match s.ev with
  | .cmdKill k => .next (s.kill k)
  | _ => .next s

def execCmdTrapw (s : State) : Host.Outcome State Fault Refusal :=
  match s.ev with
  | .cmdTrapw k => .next (s.trapWrite k)
  | _ => .next s

def execCmdGramw (s : State) : Host.Outcome State Fault Refusal :=
  match s.ev with
  | .cmdGramw k => .next (s.gramWrite k)
  | _ => .next s

def execCmdGramwClear (s : State) : Host.Outcome State Fault Refusal :=
  match s.ev with
  | .cmdGramwClear k => .next (s.gramClear k)
  | _ => .next s

def execCmdEpw (s : State) : Host.Outcome State Fault Refusal :=
  match s.ev with
  | .cmdEpw k => .next (s.endpointWrite k)
  | _ => .next s

def execCmdWinw (s : State) : Host.Outcome State Fault Refusal :=
  match s.ev with
  | .cmdWinw k => .next (s.windowWrite k)
  | _ => .next s

def execCmdLinkrst (s : State) : Host.Outcome State Fault Refusal :=
  match s.ev with
  | .cmdLinkrst k => .next (s.linkRst k)
  | _ => .next s

def execCmdMemrd (s : State) : Host.Outcome State Fault Refusal :=
  match s.ev with
  | .cmdMemrd k => .next (s.memRead k)
  | _ => .next s

def execCmdMemwr (s : State) : Host.Outcome State Fault Refusal :=
  match s.ev with
  | .cmdMemwr k => .next (s.memWrite k)
  | _ => .next s

def execCmdStatclr (s : State) : Host.Outcome State Fault Refusal :=
  match s.ev with
  | .cmdStatclr k => .next (s.statClrCmd k)
  | _ => .next s

def execCmdCtxinfo (s : State) : Host.Outcome State Fault Refusal :=
  match s.ev with
  | .cmdCtxinfo k => .next (s.ctxInfo k)
  | _ => .next s

def execCmdNetcfg (s : State) : Host.Outcome State Fault Refusal :=
  match s.ev with
  | .cmdNetcfg k => .next (s.netConfigure k)
  | _ => .next s

def execDrainTokenArrival (s : State) : Host.Outcome State Fault Refusal :=
  match s.ev with
  | .drainTokenArrival op => .next (s.drainArrived op)
  | _ => .next s

end Sys2Proof.Machine
end

