-- ==== Sys2Proof/Machine/Window.lean ====
section
/-! DEFINITION. What the host does over its links (20 R403 to R405): requests of its own, the register window of each die, the sideband
register BOOT_PATCH (20 R418). -/

namespace Sys2Proof.Machine

/-! ### The register window (20 R404, R405) -/

/-- RAMP_STAT (20 R412). -/
def Ramp.status (r : Ramp) : BitVec 64 :=
  BitVec.ofNat 64 (r.last * 2 ^ 28 + r.empty * 2 ^ 10 + min 1023 (r.hist.filter id).length)

/-- The registers of the window, each 8 bytes at its offset: the work queues', Curator's rings in the order of 20 R405 (log entry 38), BOOT_STAT and
RAMP_STAT. -/
def State.windowReg (s : State) (d off : Nat) : BitVec 64 :=
  let r := (s.die d).rings
  if off < 0x20000 then
    let q := s.queue d (off / 32)
    match off % 32 with
    | 0 => q.base
    | 8 => q.ctl
    | 0x10 => q.head.zeroExtend 64
    | _ => q.tail.zeroExtend 64
  else match off with
    | 0x20000 => r.cq
    | 0x20008 => r.chead.zeroExtend 64
    | 0x20010 => r.ctail.zeroExtend 64
    | 0x20018 => r.cpl
    | 0x20020 => r.eq
    | 0x20028 => r.ehead.zeroExtend 64
    | 0x20030 => BitVec.ofNat 64 (r.lost * 2 ^ 48 + r.etail.toNat)
    | 0x20100 => (s.die d).boot.stat
    | 0x20200 => (s.die d).ramp.status
    | _ => 0

/-- What the bytes of a register that a narrow write leaves out stand for: the register, with the bits that a write of 1 clears at 0 (QCTL.ERR,
and the bit of CUR_ETAIL that clears LOST). -/
def windowKeep (off : Nat) (v : BitVec 64) : BitVec 64 :=
  if (off < 0x20000 && off % 32 = 8) then withField v 62 1 0 else if off = 0x20030 then withField v 63 1 0 else v

/-- A value of which a write names some bytes, one bit of `named` each, over what the others stand for. -/
def mergeNamed (old new : BitVec 64) (named : Nat) : BitVec 64 :=
  BitVec.ofNat 64 (leNat ((List.range 8).map (fun b => byteAt (leBytes 8 (if bitN named b then new else old).toNat) b)))

/-- A write of CUR_CQ, CUR_CPL and CUR_EQ: taken only while HEAD equals TAIL (20 R405). -/
def ringBase (v : BitVec 64) (dflt : Nat) : BitVec 64 :=
  let n := fieldOf v 0 4
  withField (withField v 0 12 0) 0 4 (if n < 6 then dflt else n)

/-- Whether a register of the window has 32 bits; a write that names none of them is ignored (00 R3). -/
def windowNarrow (off : Nat) : Bool := (off < 0x20000 && off % 32 = 0x18) || off = 0x20010 || off = 0x20028

/-- A register of the window written, of which `named` gives the bytes. The offset 2 ^ 20 is the sideband's BOOT_PATCH (log entry 38). -/
def State.windowWrite64 (s : State) (d off : Nat) (v : BitVec 64) (named : Nat) : State :=
  let v := mergeNamed (windowKeep off (s.windowReg d off)) v named
  if windowNarrow off && named % 16 = 0 then s
  else if off < 0x20000 then
    match off % 32 with
    | 0 => s.qbaseWrite d (off / 32) v
    | 8 => s.qctlWrite d (off / 32) v
    | 0x18 => s.tailWrite d (off / 32) (BitVec.ofNat 32 v.toNat)
    | _ => s
  else match off with
    | 0x20000 => s.modRings d (fun r => if r.chead = r.ctail && r.rungAt ≠ s.cycles + 1 then { r with cq := ringBase v 6 } else r)
    | 0x20010 => s.doorbell d (BitVec.ofNat 32 v.toNat)
    | 0x20018 => s.modRings d (fun r => if r.chead = r.ctail && r.rungAt ≠ s.cycles + 1 then { r with cpl := withField v 0 12 0 } else r)
    | 0x20020 => s.modRings d (fun r => if r.ehead = r.etail then { r with eq := ringBase v 8 } else r)
    | 0x20028 => s.eheadWrite d (BitVec.ofNat 32 v.toNat)
    | 0x20030 => s.modRings d (fun r => if bitN v.toNat 63 then { r with lost := 0 } else r)
    | 0x100000 => s.modDie d (fun x => { x with boot := { x.boot with patch := withField v 0 6 0 } })
    | _ => s

/-- Bytes read from the window. -/
def State.windowRead (s : State) (d off n : Nat) : Bytes :=
  (List.range n).map (fun i =>
    let a := (off + i) % 2 ^ 20
    byteAt (leBytes 8 (s.windowReg d (a / 8 * 8)).toNat) (a % 8))

/-- Bytes written into the window: the registers that they touch, from the lowest, each with the bytes that are named. -/
def State.windowStore (s : State) (d off : Nat) (bs : Bytes) : State :=
  if bs.isEmpty then s
  else (List.range ((off + bs.length - 1) / 8 - off / 8 + 1)).foldl (fun s i =>
    let r := off / 8 + i
    let in_ := fun (b : Nat) => off ≤ 8 * r + b && 8 * r + b < off + bs.length
    let new := (List.range 8).map (fun b => if in_ b then byteAt bs (8 * r + b - off) else 0)
    s.post (.registerWrite d (8 * r % 2 ^ 20) (BitVec.ofNat 64 (leNat new))
      (sumN ((List.range 8).map (fun b => if in_ b then 2 ^ b else 0))))) s

/-! ### Host requests (20 R403, R404) -/

/-- A host request for a die's window performed: a read is answered, a write writes registers, anything else is dropped and counted. -/
def State.windowRequest (s : State) (d : Nat) (p : Packet) : State :=
  let off := p.addr.toNat % 2 ^ 20
  match p.op with
  | .load n _ => s.emitPkt d (s.replyPkt d p (.data (s.windowRead d off n) false) 0)
  | .store bs =>
    let s := s.windowStore d off bs
    if p.typ = 0x04 then s else s.emitPkt d (s.replyPkt d p (.data [] false) 0)
  | _ => s.cstatUp d 4 12

/-- The die at which the host's traffic for a die enters: for dies 3 to 6 die 4, else die 0 (01 R8); by the number that the die has in its
own package (log entry 64). -/
def hostDie (owner : Nat) : Nat := if 3 ≤ owner % 8 && owner % 8 ≤ 6 then 4 else 0

/-- The die whose host link the traffic for a die takes: its own, or the other where that has failed. -/
def State.hostLink (s : State) (owner : Nat) : Option Nat :=
  let e := hostDie owner
  if !s.failedPort e 6 then some e else if !s.failedPort (4 - e) 6 then some (4 - e) else none

/-- A request that the host sends (20 R403): it enters by the host link of its target, which must be up, and goes on as a packet. Its fresh
number keeps the SO requests of one link in the order in which they were sent (11 R240). -/
def State.hostSends (s : State) (p : Packet) : State :=
  let owner := vaOwner p.addr.toNat
  match s.hostLink owner with
  | none => s
  | some e =>
    let (n, s) := s.fresh
    let p := { p with
      from_ := s.code e, fromHost := true, toHost := false, inc := 0, serial := n, soNum := none, rel := false
      stamp := {}, viaLink := none, held := none, dir := 0, dateline := false, escape := false, gHops := 0, lHops := 0
      to_ := BitVec.ofNat 13 owner }
    if (s.link e 6).st ≠ .up then s else if badPacket p then s.cstatUp e 4 12 else s.emitPkt e p

/-! ### The steps -/

/-- A request at its owner: at the slice of its address, or in the die's register window. -/
def execOwnerPerform (s : State) : Host.Outcome State Fault Refusal :=
  match s.ev with
  | .ownerPerform d p => .next (if p.phys && bitN p.addr.toNat 50 then s.windowRequest d p else s.ownerStep d p)
  | _ => .next s

def execHostRequest (s : State) : Host.Outcome State Fault Refusal :=
  match s.ev with
  | .hostRequest p => .next (s.hostSends p)
  | _ => .next s

def execRegisterWrite (s : State) : Host.Outcome State Fault Refusal :=
  match s.ev with
  | .registerWrite d off v m => .next (s.windowWrite64 d off v m)
  | _ => .next s

end Sys2Proof.Machine
end

