-- ==== Sys2Proof/Machine/Choice.lean ====
section
/-! DEFINITION. What may come next: the events of the agenda that may take place now and the ready sets that may fire, and how one of
them is taken (log entry 1). -/

namespace Sys2Proof.Machine

/-- The lane of an event: events of one lane take place in the order in which they became due. Tokens of one source to one destination
stay in order (04 R79), and so do the host's requests of one link. -/
def laneOf (e : Event) : Option (List Nat) :=
  match e with
  | .tokenArrival a => some [1, a.src, tileKey a.at_, a.place.block, a.place.station, if a.place.sideB then 1 else 0]
  | .hostRequest p => some [2, hostDie (vaOwner p.addr.toNat)]
  | _ => none

/-- The die whose clock an event of its units needs; the control core and the readout go on while a die is frozen (19 R397). -/
def dieOf (e : Event) : Option Nat :=
  match e with
  | .tokenArrival a => some a.at_.die
  | .spillProbeDone t | .spillRefill t | .schedulerDecision t | .instanceAdmit t | .commitDrain t | .fullEmptyWaitPerform t
  | .forwardingRetire t | .scratchpadClearDone t | .agPortIssue t | .orderConditionMet t | .keystoreCompletion t => some t.die
  | .blockLoadDone t _ | .barwaitRetry t _ | .requestTimeoutResend t _ | .relopenSpacingExpiry t _ => some t.die
  | .qtailWrite d _ _ | .queueDecision d | .reswaitTimeout d _ | .ownerPerform d _ | .tlbMissFill d _ | .soHeldPerform d _
  | .byteCredit d _ | .streamerTakeCopy d _ | .islandCommandEntry d _ | .rowUpdateLand d _ | .releaseTokenOut d _
  | .rampWindow d | .forecastUpdate d | .gramRequestPerform d | .packetHop d _ | .packetAgeDrop d _ | .releaseWriteArrival d _
  | .releaseFlagArrival d _ | .releaseCompleteArrival d _ | .gapReportArrival d _ | .groupAbortArrival d _
  | .netMessageSend d _ | .netPacketReceive d _ | .netLocalCompletion d _ | .netTransportAbandon d _ | .transportRetransmission d _
  | .queueWaiterAnswer d _ _ | .flagResendTimer d _ | .abortResendTimer d _ | .gapTimer d _ | .receiveEntryExpiry d _
  | .incarnationNotice d _ _ | .accHeadWrite d _ _ | .accTailWrite d _ _ | .replayTimeout d _ | .firstWriteCopy d _ _
  | .memoryUncorrectable d _ _ | .mailboxWrite d _ | .catHeadWrite d _ _ | .registerWrite d _ _ _ => some d
  | _ => none

/-- Whether a context's tiles fire ordinary sets: it is running (18 R366, R373). -/
def State.running (s : State) (c : Nat) : Bool := (s.ctx c).st = .running

/-- Whether the time of a timer has come (log entry 5); a timer whose entry is gone may run out at once, with no effect. -/
def State.timeReady (s : State) (e : Event) : Bool :=
  let now := s.cycles
  match e with
  | .reswaitTimeout d k => now ≥ s.reswaitDue d k
  | .retrainTimeout d port => now ≥ (s.link d port).since + 1000 * usCycles
  | .quiescenceWave r => (match s.region? r with
    | some g => now ≥ g.since + 256
    | none => true)
  | .phaseSum r => (match s.region? r with
    | some g => now ≥ g.since + 2 * usCycles
    | none => true)
  | .rampWindow d => now ≥ (s.die d).ramp.since + usCycles
  | .requestTimeoutResend t slot =>
    let wait := fieldOf (s.die t.die).cctl 16 16 * usCycles
    if t.tile ≥ 1024 then (match (NMap.getD (s.die t.die).streams (t.tile - 1024) []).head? with
      | some c => now ≥ c.since + wait
      | none => true)
    else (match NMap.find (s.tile t).replies slot with
      | some r => now ≥ r.since + wait
      | none => true)
  | .flagResendTimer d g => (match s.sendOf d g with
    | some x => now ≥ x.since + 2 * s.gapCycles d
    | none => true)
  | .abortResendTimer d g => (match s.sendOf d g with
    | some x => now ≥ x.since + 2 * s.gapCycles d || (s.ctx x.ctx).st = .ended
    | none => true)
  | .gapTimer d g => (match s.recv? d g with
    | some x => now ≥ x.since + s.gapCycles d
    | none => true)
  | .receiveEntryExpiry d g => (match s.recv? d g with
    | some x => now ≥ x.since + 7 * s.gapCycles d
    | none => true)
  | .relopenSpacingExpiry t slot => (match (NMap.find (s.tile t).replies slot).map (fun (r : Reply) => r.kind) with
    | some (ReplyKind.relopen rc) => (match NMap.find (s.die t.die).relChans (chanKey (s.ctxOf t) rc) with
      | some ch => now ≥ s.openFrom t.die ch
      | none => true)
    | _ => true)
  | .replayTimeout d c => (match s.headIndex d c with
    | some i => (s.cd c d).ring.failed ≠ some i
        && now ≥ (s.cd c d).ring.since + fieldOf (s.die d).accCtl 0 16 * usCycles
    | none => s.level c ≠ 3)
  | .hangIntervalExpiry c => (s.ctx c).st ≠ .running && (s.ctx c).st ≠ .halted
      || ((s.ctx c).st = .running && !s.hangStill c)
    || (s.hangWait c ≠ 0 && now ≥ (s.ctx c).hangSince + s.hangWait c * usCycles)
  | _ => true

/-- Whether a host's request to an SO page, or to a register window (log entry 64), stands behind an earlier such one of its link to the same
owner (11 R240). -/
def State.hostBehind (s : State) (p : Packet) : Bool :=
  let so := fun (q : Packet) => q.fromHost && (if q.phys then bitN q.addr.toNat 50 else s.kindAt q.ctx.toNat q.addr.toNat = 0)
  so p && s.agenda.any (fun e => match e with
    | .packetHop _ q | .ownerPerform _ q | .tlbMissFill _ q => so q && q.from_ = p.from_ && q.to_ = p.to_ && q.serial < p.serial
    | _ => false)

/-- The context-wide command of an event (20 R408). -/
def ctxCommand (e : Event) : Option Command :=
  match e with
  | .cmdDestroy k | .cmdMode k | .cmdPreempt k | .cmdRestore k | .cmdResume k | .cmdKill k | .cmdTrapw k => some k
  | _ => none

/-- Whether a context-wide command must wait: for one that holds its context's lock, or one that came before it (20 R408), or for an end
that is held (18 R383). -/
def State.cmdWaits (s : State) (e : Event) (k : Command) : Bool :=
  let c := cmdCtx k
  let due := s.agenda.filterMap ctxCommand
  (s.agenda.takeWhile (fun x => x ≠ e)).any (fun x => match ctxCommand x with
    | some q => cmdCtx q = c
    | none => false)
  || s.dies.any (fun d => match d.2.rings.busy with
    | some q => q ≠ k && ctxWide q.opcode.toNat && cmdCtx q = c && !due.contains q
    | none => false)
  || ((s.ctx c).heldEnd.isSome && (k.opcode = 0x0C || k.opcode = 0x0F))

/-- The events that a context's drain, save or rollback holds back (17 R358, R360, 18 R379). -/
def heldByDrain (e : Event) : Bool :=
  match e with
  | .tokenArrival _ | .spillProbeDone _ | .spillRefill _ | .schedulerDecision _ | .blockLoadDone _ _ | .instanceAdmit _
  | .commitDrain _ | .fullEmptyWaitPerform _ | .barwaitRetry _ _ | .quiescenceWave _ | .phaseSum _ => true
  | _ => false

/-- Whether an owner performs a request now: in its place in its SO stream, and behind nothing that it must follow. -/
def State.ownerMay (s : State) (d : Nat) (p : Packet) : Bool := !s.ownerBlocked d p && !s.hostBehind p

/-- Whether a die reaches the memory that holds an address: its own, or over the ring that of another die of the package; memory of other
packages is not the model's (01 R7, log entry 63). -/
def State.memOpen (s : State) (d va : Nat) : Bool :=
  vaPkg va ≠ s.pkg || (s.ringWay d (vaDie va) { typ := 0x01, op := .load 0 false }).isSome

/-- Whether a tile reaches its slice of the spill region. -/
def State.spillOpen (s : State) (t : TileId) : Bool :=
  match s.regionOf t with
  | some r => s.memOpen t.die r.launch.spillBase
  | none => true

/-- Whether Curator reads the record, the tables and the image that a launch names (06 R123). -/
def State.launchOpen (s : State) (id : Nat) : Bool :=
  match NMap.find s.launches id with
  | some l =>
    let q := s.queue l.die l.queue
    (fieldOf q.base 7 57 * 128 :: [0x00, 0x08, 0x10, 0x18, 0x20].map (numAt l.record · 8)).all (fun a => s.memOpen l.die a)
  | none => true

/-- Whether the host link of the host's traffic for an address is not training (01 R8, 14 R299). -/
def State.hostLinkReady (s : State) (va : Nat) : Bool :=
  match s.hostLink (vaOwner va) with
  | some e => (s.link e 6).st ≠ .retrain && (s.link e 6).st ≠ .confirm
  | none => true

/-- Whether an event may take place now, its die and its timer apart. -/
def State.mayTake (s : State) (e : Event) : Bool :=
  match e with
  | .tokenArrival a => (!s.latched (s.ctxOf a.at_) || (s.tile a.at_).handlers a) && (s.tile a.at_).spillBuf.length < 8
    && !(s.tile a.at_).clearing
  | .spillProbeDone t => (s.bufHead t).isSome && s.spillOpen t
  | .spillRefill t => s.spillOpen t && (s.ctx (s.ctxOf t)).st ≠ .halted && (s.tile t).entries.length < 512 && (s.tile t).spillBuf.length < 8
    && !s.latched (s.ctxOf t)
  | .blockLoadDone t _ => ((s.regionOf t).map (fun r => s.memOpen t.die r.launch.image)).getD true
  | .launchRecordCheck id => s.launchOpen id
  | .hostRequest p => s.hostLinkReady p.addr.toNat
  | .powerUp => s.portsSettled
  | .cmdPatch _ | .cmdIdent _ | .cmdObsread _ | .cmdMemrd _ | .cmdMemwr _ | .cmdNetcfg _ => s.hostOpen
  | .schedulerDecision t => (s.decide t).isSome
  | .queueDecision d => s.queueDue d
  | .instanceAdmit t => (s.ctx (s.ctxOf t)).st ≠ .halted || s.stopPending (s.ctxOf t)
  | .ownerPerform d p | .byteCredit d p | .releaseWriteArrival d p | .releaseFlagArrival d p => s.ownerMay d p
  | .tlbMissFill _ p => !s.hostBehind p
  | .soHeldPerform d p => s.ownerMay d p && !s.soAhead d p
  | .drainTokenArrival op => s.drainHere op
  | .keystoreCompletion t => (s.tile t).fwd.length < 16
  | .islandCommandEntry d k => !(s.mayEnter d k).isEmpty
  | .netMessageSend d m => !s.agenda.any (fun x => match x with
    | .netMessageSend n i => n = d && i < m && ((NMap.find (s.die d).net.msgs i).map (·.sent)).getD 1 = 0
    | _ => false)
  | .netPacketReceive d p => s.netTurn d p
  | .netLocalCompletion d m => (match NMap.find (s.die d).net.upds m with
    | some u => u.stalled || !(s.die d).net.upds.any (fun q => q.2.stalled && q.2.ctx = u.ctx && q.2.counter = u.counter)
    | none => true)
  | .heldLaunchConfigure id => ((NMap.find s.launches id).map s.placesFree).getD true
  | .intervalBoundary c cause => (s.ctx c).st ≠ .preempting && (s.ctx c).st ≠ .saved && (cause = 1 || s.drained c)
  | .firstWriteCopy d c _ => !s.copiesFull c d || !s.bounding c
  | .rollback c => s.placesForSnap c && ((s.ctx c).st = .idle || (s.ctx c).st = .running || (s.ctx c).st = .halted)
  | .preemptSaveComplete c => s.drained c
  | .restoreProceed c => s.saveFree c
  | e => match ctxCommand e with
    | some k => !s.cmdWaits e k
    | none => true

/-- Whether an event may take place now: its die is not frozen (19 R397), its context's drain does not hold it back, its time has come,
and what it waits for is there. -/
def State.mayHappen (s : State) (e : Event) : Bool :=
  (match dieOf e with
  | some d => !(s.die d).frozen
  | none => true)
  && (!heldByDrain e || (match s.evCtx e with
    | some c => !s.draining c
    | none => true))
  && s.timeReady e && s.mayTake e

/-- The agenda's events that may take place now, the oldest of each lane. -/
def eligibleEvents (s : State) : List (List Nat) → List Event → List Event
  | _, [] => []
  | seen, e :: es =>
    match laneOf e with
    | none => (if s.mayHappen e then [e] else []) ++ eligibleEvents s seen es
    | some l =>
      if l ∈ seen then eligibleEvents s seen es
      else (if s.mayHappen e then [e] else []) ++ eligibleEvents s (l :: seen) es

/-- Whether a set belongs to a handler's pass (18 R373). -/
def State.inHandler (s : State) (fi : Firing) : Bool := (((s.tile fi.at_).pass? fi.inst).map (·.handler)).getD false

/-- Whether a set emits tokens as it fires: it is not absorbed (04 R75), and has a token destination, children or a command's tokens to
come. -/
def Firing.emits (fi : Firing) (major minor : Nat) (f : Fields) : Bool :=
  (if fi.anyNull then f.pm = 3 else predOk f fi.stTag)
    && (major = 0x0E || (allDests major minor f).any (fun d => d < 0x50 || isArc d))

/-- The phase of the tokens that a set emits: SETPH's own (04 R93), and one more under `tag=phase` (02 R28). -/
def State.phaseOf (s : State) (fi : Firing) (major minor : Nat) (f : Fields) : BitVec 8 :=
  let p : BitVec 8 := if major = 0x0D && minor = 4 && !fi.anyNull
    then BitVec.ofNat 8 (numAt (operandIn s ⟨fi, f⟩ .none true) 0 1 + f.litBits 0 8) else fi.stTag.phase
  if f.tag = 4 then p + 1 else p

/-- Whether the station of a set would emit tokens of a phase `p` while its region, which spans packages, still holds phase `p - 4` open
(06 R134): phases count modulo 256. -/
def State.phaseBlocked (s : State) (fi : Firing) : Bool :=
  match s.region? fi.region with
  | none => false
  | some r =>
    let (w, e) := (s.tile fi.at_).station fi.slot fi.station
    let f := fieldsOf w e
    let q := (s.phaseOf fi (majorOf w) (minorOf e) f - 4).toNat
    r.launch.pkgCount > 1 && fi.emits (majorOf w) (minorOf e) f && !r.closed.contains q
      && (List.range 8).any (fun d => (NMap.find (s.cd r.launch.ctx d).phases q).isSome)

/-- Whether the tile of a ready set issues it now, other sets apart: its context runs or it belongs to a handler (18 R373). -/
def State.canFire (s : State) (fi : Firing) : Bool :=
  let c := s.ctxOf fi.at_
  !(s.die fi.die).frozen && !s.draining c && !s.phaseBlocked fi && (s.running c || s.inHandler fi)

/-! ### Registers that firings wait for (07 R144, 17 R352) -/

/-- The state registers that a station reads: its sources, the addend or accumulator of VFMA (07 R153), the register of SLD and SACC
(05 R108). -/
def sregReads (major minor : Nat) (f : Fields) : List Nat :=
  (if f.srcA = 2 then [f.sa.toNat] else []) ++ (if f.srcB = 2 then [f.sb.toNat] else [])
    ++ (if major = 0x04 && (minor = 5 || (minor < 4 && f.litBits 3 1 = 0)) then [f.litBits 0 3] else [])
    ++ (if major = 0x11 && (minor = 0 || minor = 2) then [stReg f] else [])

/-- The state registers that a station writes as it fires: its destinations, and the register of SST, SACC and SCLR. -/
def sregWrites (major minor : Nat) (f : Fields) : List Nat :=
  sregDests f ++ (if major = 0x11 && minor ≠ 0 && stLen f ≠ 0 then [stReg f] else [])

/-- The firings of a tile whose results are still to come. -/
def State.dueJobs (s : State) (t : TileId) : List Job :=
  let x := s.tile t
  x.replies.map (·.2.job) ++ x.waitList.map (·.job) ++ x.orders.map (·.job) ++ x.kqueue.map (·.2.2)
    ++ ((s.die t.die).gram.queue.map (·.job)).filter (fun j => j.fi.at_ = t)

/-- Whether a set reads a state register to which the result of a firing issued in an earlier cycle is still to come: it waits for that
(07 R144). -/
def State.interlocked (s : State) (fi : Firing) : Bool :=
  let p := (s.tile fi.at_).station fi.slot fi.station
  let rs := sregReads (majorOf p.1) (minorOf p.2) (fieldsOf p.1 p.2)
  !rs.isEmpty && (s.dueJobs fi.at_).any (fun j => (sregDests j.f).any rs.contains)

/-- The state registers that a set writes as it fires. -/
def State.writesOf (s : State) (fi : Firing) : List Nat :=
  let p := (s.tile fi.at_).station fi.slot fi.station
  sregWrites (majorOf p.1) (minorOf p.2) (fieldsOf p.1 p.2)

/-- Whether a set that waits for its state-order record while the ring is short writes a register that another set of its tile writes too:
that one waits behind it (17 R352). -/
def State.recordHolds (s : State) (x fi : Firing) : Bool :=
  x.held && x ≠ fi && x.at_ = fi.at_ && !s.replaying (s.ctxOf fi.at_) fi.die && (s.writesOf x).any (s.writesOf fi).contains
    && (match s.sregGate x (s.writesOf x) with
      | .go _ => false
      | .wait _ => true)

/-- Whether two sets stand at one station. -/
def sameStation (a b : Firing) : Bool :=
  a.die = b.die && a.tile = b.tile && a.slot = b.slot && a.station = b.station

/-- The unit that issues the firings of a station, one at a time: integer, float, iterative, permute (07 R140), the key-store unit
(13 R266); none for a class that has no such unit. -/
def unitOf (major minor : Nat) : Option Nat :=
  if 1 ≤ major && major ≤ 3 then some 0
  else if major = 5 && (minor = 3 || minor = 8) || major = 7 then some 2
  else if major = 4 || major = 5 || major = 6 || major = 8 then some 1
  else if major = 9 then some 3
  else if 0x1E ≤ major && major ≤ 0x20 then some 4
  else none

/-- The unit of a set. -/
def State.unitAt (s : State) (fi : Firing) : Option Nat :=
  let p := (s.tile fi.at_).station fi.slot fi.station
  unitOf (majorOf p.1) (minorOf p.2)

/-- The order of the sets of one station at ORDERED and above: frame, then iteration (05 R110). -/
def frameKey (fi : Firing) : Nat := fi.stTag.frame.toNat * 2 ^ 16 + fi.stTag.iter.toNat

/-- The order of the sets of one unit (07 R142): the cycle in which they became complete, at ORDERED and above frame, iteration, slot
and station; at FREE what follows the first rule is unspecified. -/
def issueKey (level : Nat) (fi : Firing) : List Nat :=
  if level = 0 then [fi.since] else [fi.since, frameKey fi, fi.slot, fi.station]

/-- Whether a ready set `x` goes before a set of its station: at ORDERED and above by frame and iteration (05 R110); at a MERGE station,
and there among equals, side A's first and each side's in arrival order, where `earlier` says that `x` was delivered before (04 R90, log
entry 54). -/
def stationFirst (level : Nat) (merge earlier : Bool) (x fi : Firing) : Bool :=
  if level ≥ 1 && frameKey x ≠ frameKey fi then frameKey x < frameKey fi
  else merge && (if x.tokA.isSome = fi.tokA.isSome then earlier else x.tokA.isSome)

/-- Whether a ready set is held back by another one, `x`: a set that cannot fire, or was offered and not issued, holds back none. -/
def State.holdsBack (s : State) (earlier : Bool) (x fi : Firing) : Bool :=
  let lv := s.level (s.ctxOf fi.at_)
  !x.held && s.canFire x && !s.interlocked x
    && (if sameStation x fi then stationFirst lv (isMerge ((s.tile fi.at_).station fi.slot fi.station).1) earlier x fi
        else x.at_ = fi.at_ && (s.unitAt fi).isSome && s.unitAt x = s.unitAt fi && lexLt (issueKey lv x) (issueKey lv fi))

/-- Whether a ready set may fire now; `before` are the ready sets that were delivered before it. -/
def State.mayFire (s : State) (before : List Firing) (fi : Firing) : Bool :=
  s.canFire fi && !s.interlocked fi && !s.ready.any (fun x => s.recordHolds x fi) && !before.any (fun x => s.holdsBack true x fi) && !s.ready.any (fun x => s.holdsBack false x fi)

/-- The ready sets that may fire now. -/
def eligibleSets (s : State) : List Firing → List Firing → List Firing
  | _, [] => []
  | before, fi :: fs => (if s.mayFire before fi then [fi] else []) ++ eligibleSets s (before ++ [fi]) fs

/-- The steps that may come next. -/
def State.choices (s : State) : List Choice :=
  (eligibleEvents s [] s.agenda).map .event ++ (eligibleSets s [] s.ready).map .set

/-! ### What one cycle holds (log entry 44) -/

/-- The place of a request in what its slice performs in one cycle (10 R207): the slice, byte credits before atomics and barrier operations
before loads and stores, the host's last; then frame, source tile, port. Loads and stores of the rebuilt order go by its key, the level
before the frame (11 R242). -/
def State.requestKey (s : State) (d : Nat) (p : Packet) : List Nat :=
  let group := match p.op with
    | .credit _ => 0
    | .atomic .. | .barInit .. | .barJoin _ | .barWait _ => 1
    | _ => 2
  [4, d, s.sliceAt d p, group, if p.fromHost then 1 else 0, if s.rebuilt p then p.stamp.level.toNat else 0, p.stamp.frame.toNat, p.from_.toNat * 2048 + p.tile, p.stamp.seq.toNat]

/-- The place of a set among the firings of one cycle: a SPAWN by its station (06 R137), an ORDER before the accesses of its cycle
(10 R228), the others in issue order (07 R142); a TRET after the faults of its cycle (18 R384), an end of the context after those and after a
kill, of several the one of the lowest die and tile (18 R378). -/
def State.setKey (s : State) (fi : Firing) : List Nat :=
  let p := (s.tile fi.at_).station fi.slot fi.station
  let m := majorOf p.1
  if m = 0x0E then [1, 0, fi.station]
  else if m = 0x19 then [1, 1, fi.station]
  else if m = 0x27 && minorOf p.2 = 1 then [8, 0]
  else if m = 0x26 && minorOf p.2 = 4 then [8, 2, tileKey fi.at_]
  else [1, 2, fi.since, frameKey fi, fi.slot, fi.station]

/-- The place of a choice in the cycle: of two things that take effect in one cycle, the one with the lower key does so first. The groups: 0
what goes before the firings, 1 firings, 2 what emits, 3 a tile's stores, 4 a slice's requests, 5 and 6 the fabric and the engines, 7
Curator and the registers, 8 what comes after all the rest. -/
def State.cycleKey (s : State) (c : Choice) : List Nat :=
  match c with
  | .set fi => s.setKey fi
  | .event e => match e with
    | .linkRetrainRequest .. | .trainingComplete .. | .confirmViews .. | .retrainTimeout .. => [0, 0]
    | .incarnationNotice .. => [0, 1]
    | .accHeadWrite .. | .accTailWrite .. | .catHeadWrite .. | .curEheadWrite .. | .leaseResidencyCheck _ | .reswaitTimeout .. => [0, 2]
    | .netMessageSend .. | .netLocalCompletion .. => [0, 3]
    | .replyDelivery _ | .keystoreCompletion _ | .orderConditionMet _ | .gramRequestPerform _ => [2, 1]
    | .fullEmptyWaitPerform _ => [2, 0]
    | .spillProbeDone _ => [3, 0]
    | .schedulerDecision _ => [3, 1]
    | .blockLoadDone .. => [3, 2]
    | .tokenArrival a => [3, 3, if ownToken a then 1 else 0]
    | .instanceAdmit _ => [3, 4]
    | .spillRefill _ => [3, 5]
    | .commitDrain _ => [3, 6]
    | .ownerPerform d p | .soHeldPerform d p | .byteCredit d p | .tlbMissFill d p => s.requestKey d p
    | .groupAbortArrival .. => [5, 0]
    | .releaseWriteArrival .. => [5, 1]
    | .releaseFlagArrival .. => [5, 2]
    | .releaseCompleteArrival .. => [5, 3]
    | .gapReportArrival .. => [5, 4]
    | .netPacketReceive .. => [6, 0]
    | .drainTokenArrival _ => [6, 1]
    | .queueDecision _ => [6, 3]
    | .qtailWrite .. | .curCtailWrite .. => [7, 0]
    | .registerWrite _ off .. => if off = 0x20028 then [0, 2] else if off = 0x20010 then [7, 0] else [7, 1]
    | .cmdRegw _ => [7, 1]
    | .powerMeasure _ => [7, 2]
    | .cmdKill _ => [8, 1]
    | .cmdPreempt _ => [8, 3]
    | .intervalBoundary .. => [8, 4]
    | .rollback _ | .preemptSaveComplete _ | .restoreProceed _ | .cmdDestroy _ | .cmdVitrineFreeze _ => [8, 5]
    | .replayTimeout .. | .quiescenceWave _ | .phaseSum _ | .hangIntervalExpiry _ | .cmdTrapw _ | .powerLoss => [8, 6]
    | _ => [6, 2]

/-- A choice put at its place among others. -/
def insertChoice (key : Choice → List Nat) (c : Choice) : List Choice → List Choice
  | [] => [c]
  | x :: xs => if lexLt (key c) (key x) then c :: x :: xs else x :: insertChoice key c xs

/-- What a choice takes of which a cycle has only one: the station of a set and its unit (05 R110, 07 R140), the intake of a tile for the router's
tokens or its own (04 R78). -/
def State.portsOf (s : State) (c : Choice) : List (List Nat) :=
  match c with
  | .set fi => [[0, tileKey fi.at_, fi.slot, fi.station]] ++ (match s.unitAt fi with
    | some u => [[1, tileKey fi.at_, u]]
    | none => [])
  | .event (.tokenArrival a) => [[2, tileKey a.at_, if ownToken a then 1 else 0]]
  | .event _ => []

/-- Choices with those left out that need what an earlier one has taken. -/
def State.limited (s : State) : List (List Nat) → List Choice → List Choice
  | _, [] => []
  | used, c :: cs =>
    if (s.portsOf c).any (fun p => used.contains p) then s.limited used cs
    else c :: s.limited (used ++ s.portsOf c) cs

/-- The choices that take place in one cycle, of those that may: an open choice (log entry 1), at least one. -/
def someOf (n : Nat) (cs : List Choice) : List Choice :=
  match cs with
  | [] => []
  | [c] => [c]
  | c :: _ =>
    let l := (cs.zipIdx.filter (fun p => n.testBit p.2)).map (·.1)
    if l.isEmpty then [cs.getD (n % cs.length) c] else l

/-- What the next cycle holds, in order. -/
def State.cycleBatch (s : State) : List Choice :=
  s.limited [] ((someOf (Config.pick s.ticks) s.choices).foldl (fun l c => insertChoice s.cycleKey c l) [])

/-- The cycle under way has ended and the next has begun (log entry 2): register writes, exits and records of the one take place, then
time goes on, and with it the gathers (12 R252). -/
def State.tick (s : State) : State :=
  let s := { s.closeCycle.writeLogs with touched := [] }
  let n := 1 + Config.stepCycles s.ticks
  { s.gatherAll n with cycles := s.cycles + n }

/-- Whether a thing that the cycle holds may still take place. -/
def State.still (s : State) (c : Choice) : Bool :=
  match c with
  | .event e => s.agenda.contains e && s.mayHappen e
  | .set fi => s.ready.contains fi && s.canFire fi

/-- The next thing of the cycle that may still take place, and what is left of the cycle then. -/
def State.nextOf (s : State) : List Choice → Option (Choice × List Choice)
  | [] => none
  | c :: cs => if s.still c then some (c, cs) else s.nextOf cs

/-- The state in which a thing of the cycle takes place: after the last firing of the cycle its register writes and exits take place, and
before what comes last its records are written. -/
def State.readyFor (s : State) (c : Choice) : State :=
  let k := (s.cycleKey c).headD 0
  let s := if k ≥ 3 then s.closeCycle else s
  if k ≥ 8 then s.writeLogs else s

/-- The state in which a ready set is being fired: the set is taken from the ready sets and becomes the current firing. -/
def State.fetched (s : State) (fi : Firing) : State :=
  { s with ready := removeFirst (fun x => x = fi) s.ready, cur := fi }

/-- The state in which an event is taking place: it is taken from the agenda and becomes the
current event. -/
def State.started (s : State) (e : Event) : State := { s with agenda := removeFirst (fun x => x = e) s.agenda, ev := e }

/-- The instruction at the station of a set, decoded from the tile's configuration slot. -/
def State.fetchInstr (s : State) (fi : Firing) : Except DecodeError Instr :=
  let p := (s.tile fi.at_).station fi.slot fi.station
  decode p.1 p.2

/-- A set at a station whose word names no instruction: the configuration fault of 02 R39, checks 0x01 and 0x02. -/
def State.badStation (s : State) (fi : Firing) (x : DecodeError) : State :=
  let code := match x with
    | .unassignedMinor _ _ => 2
    | _ => 1
  (s.consume fi).raiseFault { index := 0, code := code, sync := false, ctx := s.ctxOf fi.at_, die := fi.die,
                              tile := some fi.tile, region := fi.region, block := fi.block,
                              detail := leBytes 2 fi.block ++ leBytes 1 fi.station }

end Sys2Proof.Machine
end

