-- ==== Sys2Proof/Machine/Arith.lean ====
section
/-! DEFINITION. The meanings of the arithmetic classes IALU, ICMP, VFMA, VFARITH, VCVT, VSPECIAL, VRED and VPERM (chapter 07): each
fires under 04 R75, computes its result from its operands and emits it as a value token under the station tag (07 R143). -/

namespace Sys2Proof.Machine

/-! ### Shared operations -/

/-- An IALU firing (07 R149). -/
def fireIalu (op : IOp) (f : Fields) (s : State) : State :=
  s.fireValue f (fun j s => mapTwo f.tyT.size (ialuElem op f.tyT f.sat) (operandIn s j f.tyT false) (operandIn s j f.tyT true))

/-- An IALU firing of one operand (07 R149). -/
def fireIalu1 (op : IOp) (f : Fields) (s : State) : State :=
  s.fireValue f (fun j s => mapOne f.tyT.size (fun a => ialuElem op f.tyT f.sat a 0) (operandIn s j f.tyT false))

/-- An ICMP firing (07 R149). -/
def fireIcmp (op : ICmp) (f : Fields) (s : State) : State :=
  s.fireValue f (fun j s => mapTwo f.tyT.size (icmpElem op f.tyT) (operandIn s j f.tyT false) (operandIn s j f.tyT true))

/-- The weight scales that a VFMA station names (07 R153). -/
def vfmaScale (s : State) (j : Job) : Option Bytes :=
  if j.f.litBits 8 1 = 1 then some ((s.tile j.fi.at_).wregs.getD (j.f.litBits 4 4) []) else none

/-- The register that a VFMA station names with `c=` (07 R153). -/
def vfmaReg (s : State) (j : Job) : Bytes := (s.tile j.fi.at_).sreg (j.f.litBits 0 3)

/-- A firing of the fma family (07 R154). -/
def fireFma (negP negC : Bool) (f : Fields) (s : State) : State :=
  s.fireValue f (fun j s =>
    vfmaElems negP negC f.tyT f.rnd f.nanovf (vfmaScale s j) (if f.litBits 3 1 = 1 then none else some (vfmaReg s j))
      (operandIn s j f.tyT false) (operandIn s j f.tyT true))

/-- A firing of dot, or of dotacc (07 R154). -/
def fireDot (acc : Bool) (f : Fields) (s : State) : State :=
  s.fireValue f (fun j s =>
    vfmaDot f.tyT f.rnd f.nanovf (f.litBits 9 1 = 1) (vfmaScale s j) (if acc then some (numAt (vfmaReg s j) 0 4) else none)
      (operandIn s j f.tyT false) (operandIn s j f.tyT true))

/-- A VFARITH firing of two operands (07 R155, R156). -/
def fireFarith (op : FOp) (f : Fields) (s : State) : State :=
  s.fireValue f (fun j s =>
    mapTwo f.tyT.size (vfarithElem op f.tyT f.rnd f.nanovf) (operandIn s j f.tyT false) (operandIn s j f.tyT true))

/-- A VFARITH firing of one operand (07 R155, R156). -/
def fireFarith1 (op : FOp) (f : Fields) (s : State) : State :=
  s.fireValue f (fun j s => mapOne f.tyT.size (fun a => vfarithElem op f.tyT f.rnd f.nanovf a 0) (operandIn s j f.tyT false))

/-- The part select of a conversion: byte 0 of side B (07 R157). -/
def partSelect (s : State) (j : Job) : Nat := (byteAt (descriptorOn s j true) 0).toNat

/-- A VSPECIAL firing (07 R159, R160). -/
def fireSpecial (g : FVal → FVal) (f : Fields) (s : State) : State :=
  s.fireValue f (fun j s =>
    mapOne f.tyT.size (fun a => roundF f.tyT.fty f.rnd f.nanovf (g (decodeF f.tyT.fty a))) (operandIn s j f.tyT false))

/-- A VRED firing (07 R161). -/
def fireRed (op : ROp) (f : Fields) (s : State) : State :=
  s.fireValue f (fun j s => vredB op f.tyT f.rnd f.nanovf (operandIn s j f.tyT false))

/-- Side B of a VPERM firing: elements of its type; shuf reads the bytes of a token as they stand (07 R163). -/
def permB (op : POp) (s : State) (j : Job) : Bytes :=
  if op = .shuf && j.f.srcB = 0 then j.fi.payload true else operandIn s j j.f.tyT true

/-- A VPERM firing (07 R162, R163). -/
def firePerm (op : POp) (f : Fields) (s : State) : State :=
  s.fire f (some .value) (dests f) (sregDests f) (fun j s =>
    let d := vpermB op f.tyT (f.litBits 0 8) (f.litBits 8 1) (operandIn s j f.tyT false) (permB op s j)
    let s := (s.consume j.fi).emit2 j .value d
    if f.litBits 31 1 = 1 then s.regLater j (.w (f.litBits 27 4)) 0 d else s)

/-! ### IALU -/

def execIaluAdd (f : Fields) (s : State) : Host.Outcome State Fault Refusal := .next (fireIalu .add f s)
def execIaluSub (f : Fields) (s : State) : Host.Outcome State Fault Refusal := .next (fireIalu .sub f s)
def execIaluMul (f : Fields) (s : State) : Host.Outcome State Fault Refusal := .next (fireIalu .mul f s)
def execIaluMulh (f : Fields) (s : State) : Host.Outcome State Fault Refusal := .next (fireIalu .mulh f s)
def execIaluMin (f : Fields) (s : State) : Host.Outcome State Fault Refusal := .next (fireIalu .min f s)
def execIaluMax (f : Fields) (s : State) : Host.Outcome State Fault Refusal := .next (fireIalu .max f s)
def execIaluAnd (f : Fields) (s : State) : Host.Outcome State Fault Refusal := .next (fireIalu .and f s)
def execIaluOr (f : Fields) (s : State) : Host.Outcome State Fault Refusal := .next (fireIalu .or f s)
def execIaluXor (f : Fields) (s : State) : Host.Outcome State Fault Refusal := .next (fireIalu .xor f s)
def execIaluNot (f : Fields) (s : State) : Host.Outcome State Fault Refusal := .next (fireIalu1 .not f s)
def execIaluShl (f : Fields) (s : State) : Host.Outcome State Fault Refusal := .next (fireIalu .shl f s)
def execIaluShr (f : Fields) (s : State) : Host.Outcome State Fault Refusal := .next (fireIalu .shr f s)
def execIaluRot (f : Fields) (s : State) : Host.Outcome State Fault Refusal := .next (fireIalu .rot f s)
def execIaluPopc (f : Fields) (s : State) : Host.Outcome State Fault Refusal := .next (fireIalu1 .popc f s)
def execIaluClz (f : Fields) (s : State) : Host.Outcome State Fault Refusal := .next (fireIalu1 .clz f s)
def execIaluAbs (f : Fields) (s : State) : Host.Outcome State Fault Refusal := .next (fireIalu1 .abs f s)

/-! ### ICMP -/

def execIcmpEq (f : Fields) (s : State) : Host.Outcome State Fault Refusal := .next (fireIcmp .eq f s)
def execIcmpNe (f : Fields) (s : State) : Host.Outcome State Fault Refusal := .next (fireIcmp .ne f s)
def execIcmpLt (f : Fields) (s : State) : Host.Outcome State Fault Refusal := .next (fireIcmp .lt f s)
def execIcmpLe (f : Fields) (s : State) : Host.Outcome State Fault Refusal := .next (fireIcmp .le f s)
def execIcmpGt (f : Fields) (s : State) : Host.Outcome State Fault Refusal := .next (fireIcmp .gt f s)
def execIcmpGe (f : Fields) (s : State) : Host.Outcome State Fault Refusal := .next (fireIcmp .ge f s)
def execIcmpTst (f : Fields) (s : State) : Host.Outcome State Fault Refusal := .next (fireIcmp .tst f s)

/-! ### VFMA -/

def execVfmaFma (f : Fields) (s : State) : Host.Outcome State Fault Refusal := .next (fireFma false false f s)
def execVfmaFms (f : Fields) (s : State) : Host.Outcome State Fault Refusal := .next (fireFma false true f s)
def execVfmaFnma (f : Fields) (s : State) : Host.Outcome State Fault Refusal := .next (fireFma true false f s)
def execVfmaFnms (f : Fields) (s : State) : Host.Outcome State Fault Refusal := .next (fireFma true true f s)
def execVfmaDot (f : Fields) (s : State) : Host.Outcome State Fault Refusal := .next (fireDot false f s)
def execVfmaDotacc (f : Fields) (s : State) : Host.Outcome State Fault Refusal := .next (fireDot true f s)

/-! ### VFARITH -/

def execVfarithFadd (f : Fields) (s : State) : Host.Outcome State Fault Refusal := .next (fireFarith .add f s)
def execVfarithFsub (f : Fields) (s : State) : Host.Outcome State Fault Refusal := .next (fireFarith .sub f s)
def execVfarithFmul (f : Fields) (s : State) : Host.Outcome State Fault Refusal := .next (fireFarith .mul f s)
def execVfarithFdiv (f : Fields) (s : State) : Host.Outcome State Fault Refusal := .next (fireFarith .div f s)
def execVfarithFmin (f : Fields) (s : State) : Host.Outcome State Fault Refusal := .next (fireFarith .min f s)
def execVfarithFmax (f : Fields) (s : State) : Host.Outcome State Fault Refusal := .next (fireFarith .max f s)
def execVfarithFabs (f : Fields) (s : State) : Host.Outcome State Fault Refusal := .next (fireFarith1 .abs f s)
def execVfarithFneg (f : Fields) (s : State) : Host.Outcome State Fault Refusal := .next (fireFarith1 .neg f s)
def execVfarithFsqrt (f : Fields) (s : State) : Host.Outcome State Fault Refusal := .next (fireFarith1 .sqrt f s)
def execVfarithFclass (f : Fields) (s : State) : Host.Outcome State Fault Refusal := .next (fireFarith1 .cls f s)
def execVfarithFeq (f : Fields) (s : State) : Host.Outcome State Fault Refusal := .next (fireFarith .eq f s)
def execVfarithFlt (f : Fields) (s : State) : Host.Outcome State Fault Refusal := .next (fireFarith .lt f s)
def execVfarithFle (f : Fields) (s : State) : Host.Outcome State Fault Refusal := .next (fireFarith .le f s)

/-! ### VCVT -/

def execVcvtCvt (f : Fields) (s : State) : Host.Outcome State Fault Refusal :=
  .next (s.fireValue f (fun j s => vcvtCvtB f.tyT f.tyS f.rnd f.nanovf (partSelect s j) (operandIn s j f.tyS false)))
def execVcvtFtoi (f : Fields) (s : State) : Host.Outcome State Fault Refusal :=
  .next (s.fireValue f (fun j s => vcvtFtoiB f.tyT f.tyS f.rnd (partSelect s j) (operandIn s j f.tyS false)))
def execVcvtItof (f : Fields) (s : State) : Host.Outcome State Fault Refusal :=
  .next (s.fireValue f (fun j s => vcvtItofB f.tyT f.tyS f.rnd f.nanovf (partSelect s j) (operandIn s j f.tyS false)))
def execVcvtCvtmx (f : Fields) (s : State) : Host.Outcome State Fault Refusal :=
  .next (s.fireValue f (fun j s => vcvtCvtmxB f.tyT f.tyS f.rnd f.nanovf (operandIn s j f.tyS false)))
/-- Side A is MX data; a side without a token has the length of the token side (02 R25), a literal repeats its four bytes (log entry 46). -/
def execVcvtUnmx (f : Fields) (s : State) : Host.Outcome State Fault Refusal :=
  .next (s.fireValue f (fun j s => vcvtUnmxB f.tyT f.tyS f.rnd f.nanovf (partSelect s j) (operandIn s j .none false)))
/-- Side B extends the source unless it selects a literal or zero (07 R157). -/
def execVcvtSketch (f : Fields) (s : State) : Host.Outcome State Fault Refusal :=
  .next (s.fireValue f (fun j s => vcvtSketchB f.tyS f.rnd (operandIn s j f.tyS false)
    (if Fields.sel f true = 1 ∨ Fields.sel f true = 3 then [] else operandIn s j f.tyS true)))

/-! ### VSPECIAL -/

def execVspecialExp2 (f : Fields) (s : State) : Host.Outcome State Fault Refusal := .next (fireSpecial spExp2 f s)
def execVspecialLog2 (f : Fields) (s : State) : Host.Outcome State Fault Refusal := .next (fireSpecial spLog2 f s)
def execVspecialRcp (f : Fields) (s : State) : Host.Outcome State Fault Refusal := .next (fireSpecial spRcp f s)
def execVspecialRsqrt (f : Fields) (s : State) : Host.Outcome State Fault Refusal := .next (fireSpecial spRsqrt f s)
def execVspecialTanh (f : Fields) (s : State) : Host.Outcome State Fault Refusal := .next (fireSpecial spTanh f s)
def execVspecialSigm (f : Fields) (s : State) : Host.Outcome State Fault Refusal := .next (fireSpecial spSigm f s)

/-! ### VRED -/

def execVredRsum (f : Fields) (s : State) : Host.Outcome State Fault Refusal := .next (fireRed .sum f s)
def execVredRmax (f : Fields) (s : State) : Host.Outcome State Fault Refusal := .next (fireRed .max f s)
def execVredRmin (f : Fields) (s : State) : Host.Outcome State Fault Refusal := .next (fireRed .min f s)
def execVredRsumsq (f : Fields) (s : State) : Host.Outcome State Fault Refusal := .next (fireRed .sumsq f s)

/-! ### VPERM -/

def execVpermBcast (f : Fields) (s : State) : Host.Outcome State Fault Refusal := .next (firePerm .bcast f s)
def execVpermShuf (f : Fields) (s : State) : Host.Outcome State Fault Refusal := .next (firePerm .shuf f s)
def execVpermSlide (f : Fields) (s : State) : Host.Outcome State Fault Refusal := .next (firePerm .slide f s)
def execVpermZip (f : Fields) (s : State) : Host.Outcome State Fault Refusal := .next (firePerm .zip f s)
def execVpermUnzip (f : Fields) (s : State) : Host.Outcome State Fault Refusal := .next (firePerm .unzip f s)

end Sys2Proof.Machine
end

