-- ==== Sys2Proof/Machine/KeyStore.lean ====
section
/-! DEFINITION. The key store: the meanings of KPUT, KQUERY and SMAX (13 R264 to R284) and the completion of a firing in the key-store unit. -/

namespace Sys2Proof.Machine

/-! ### The unit at work -/

/-- A key fault: its code, handle, and position or record offset (13 R290). -/
structure KFault where
  code : Nat
  handle : Nat
  pos : Nat
  deriving DecidableEq, Repr

/-- A firing in its completion cycle: the tile, the pass whose held stores it sees, the bytes it has written, the slots, and the flags it
sets. -/
structure KUnit where
  x : Tile
  inst : Nat
  ws : List (Nat × Bytes) := []
  keys : NMap KeySlot := []
  nan : Bool := false
  fallbk : Bool := false
  flush : Bool := false
  deriving DecidableEq, Repr

/-- The result of a firing, or its key fault. -/
abbrev KRes := Except KFault (KUnit × Bytes)

/-- Bytes read as an LDL with qualifier nw would read them, after the firing's own writes (13 R266). -/
def KUnit.rd (u : KUnit) (a n : Nat) : Bytes :=
  let base := u.x.spadRead u.inst a n
  (List.range n).map (fun i => (writtenAt u.ws (a + i)).getD (base.getD i 0))

/-- Bytes written. -/
def KUnit.wr (u : KUnit) (a : Nat) (bs : Bytes) : KUnit := { u with ws := u.ws ++ [(a, bs)] }

/-! ### The sequence table (13 R267) -/

/-- An entry of the sequence table. -/
structure SeqEnt where
  seq : Nat
  base : Nat
  cap : Nat
  length : Nat
  parent : Nat
  refs : Nat
  fork : Nat
  low : Nat
  vbase : Nat
  valid : Bool
  wide : Bool
  sketch : Bool
  released : Bool
  g : Nat
  dv : Nat
  t : Nat
  deriving DecidableEq, Repr

/-- The offset of an entry. -/
def seqAddr (h : Nat) : Nat := 0x2E000 + 32 * h

/-- An entry read. -/
def KUnit.ent (u : KUnit) (h : Nat) : SeqEnt :=
  let b := u.rd (seqAddr h) 32
  let fl := numAt b 0x1C 1
  { seq := numAt b 0 4, base := numAt b 4 2, cap := numAt b 6 2, length := numAt b 8 4, parent := numAt b 0xC 2,
    refs := numAt b 0xE 2, fork := numAt b 0x10 4, low := numAt b 0x14 4, vbase := numAt b 0x18 4,
    valid := bitN fl 0, wide := bitN fl 1, sketch := bitN fl 2, released := bitN fl 3, g := fl / 16,
    dv := numAt b 0x1D 1, t := numAt b 0x1E 2 }

/-- The bytes of an entry. -/
def SeqEnt.bytes (e : SeqEnt) : Bytes :=
  let b := fun (x : Bool) (k : Nat) => if x then 2 ^ k else 0
  leBytes 4 e.seq ++ leBytes 2 e.base ++ leBytes 2 e.cap ++ leBytes 4 e.length ++ leBytes 2 e.parent ++ leBytes 2 e.refs
    ++ leBytes 4 e.fork ++ leBytes 4 e.low ++ leBytes 4 e.vbase
    ++ leBytes 1 (b e.valid 0 + b e.wide 1 + b e.sketch 2 + b e.released 3 + e.g * 16) ++ leBytes 1 e.dv ++ leBytes 2 e.t

/-- An entry written. -/
def KUnit.putEnt (u : KUnit) (h : Nat) (e : SeqEnt) : KUnit := u.wr (seqAddr h) e.bytes

/-- The slots of one key, the tiles of the group, the first ordinal of a tile (13 R267, R268). -/
def SeqEnt.w (e : SeqEnt) : Nat := if e.wide then 2 else 1
def SeqEnt.tiles (e : SeqEnt) : Nat := 2 ^ e.g
def SeqEnt.i0 (e : SeqEnt) (t tiles : Nat) : Nat := ceilDiv (e.fork - t) tiles

/-- The ring place of a position in an entry, and its slot. -/
def SeqEnt.ordinal (e : SeqEnt) (t tiles p : Nat) : Nat := (p / tiles - e.i0 t tiles) % max 1 e.cap
def SeqEnt.slotAt (e : SeqEnt) (t tiles p : Nat) : Nat := e.base + e.w * e.ordinal t tiles p

/-- Whether two slot ranges overlap. -/
def rangesMeet (a n b m : Nat) : Bool := a < b + m && b < a + n

/-- The fields of an entry checked at its use (13 R267). -/
def entryCheck (h pos : Nat) (e : SeqEnt) : Except KFault Unit :=
  if e.g > 10 || e.t ≥ 2 ^ e.g || e.dv = 0 || e.dv > 128 || e.cap = 0 || e.cap > 256 then .error ⟨8, h, pos⟩
  else if e.base + e.w * e.cap > 256 then .error ⟨3, h, pos⟩
  else .ok ()

/-- An entry that must be valid and not released. -/
def KUnit.live (u : KUnit) (h pos : Nat) : Except KFault SeqEnt :=
  let e := u.ent h
  if !e.valid || e.released then .error ⟨1, h, pos⟩
  else match entryCheck h pos e with
    | .ok _ => .ok e
    | .error x => .error x

/-- The valid entries. -/
def KUnit.validEnts (u : KUnit) : List (Nat × SeqEnt) :=
  ((List.range 256).map (fun h => (h, u.ent h))).filter (fun p => p.2.valid)

/-- Whether a new range is taken: it passes slot 255, meets a valid entry's range, or a streaming slot (13 R273). -/
def KUnit.rangeTaken (u : KUnit) (h base n : Nat) : Bool :=
  base + n > 256
    || u.validEnts.any (fun p => p.1 ≠ h && rangesMeet base n p.2.base (p.2.w * p.2.cap))
    || u.keys.any (fun k => k.2.streaming && base ≤ k.1 && k.1 < base + n)

/-- The entry that holds a position, walking the fork chain (13 R269); none when the chain is deeper than 8. -/
def KUnit.walk (u : KUnit) (p : Nat) : Nat → Nat → Option (Nat × SeqEnt)
  | 0, _ => none
  | k + 1, h =>
    let e := u.ent h
    if p < e.fork && e.parent ≠ 0xFFFF then u.walk p k e.parent else some (h, e)

/-- Whether a persistent slot is the one that LOOKUP finds for its position (13 R269). -/
def KUnit.found (u : KUnit) (h : Nat) (top : SeqEnt) (s : Nat) (k : KeySlot) : Bool :=
  !k.streaming && k.firstOfPair &&
    (match u.walk k.pos 9 h with
      | none => false
      | some (h', e) =>
        k.pos % top.tiles = top.t && e.low ≤ k.pos && k.pos < e.length && k.handle = h'
          && s = e.slotAt top.t top.tiles k.pos)

/-! ### Keys -/

/-- The BF16 value of an element of a run of bytes. -/
def bf16At (b : Bytes) (i : Nat) : FVal := decodeF .bf16 (numAt b (2 * i) 2)

/-- The sketch of a slot and its bound (13 R272, 03 R58). -/
def sketchSlot (data : Bytes) (n : Nat) : Bytes × Nat :=
  let xs := (List.range n).map (bf16At data)
  let sk := sketchOf .rne xs
  let q := f32Val (numAt sk 64 4)
  let err := (List.range n).foldl (fun acc i =>
    let v := faddR false (bf16At data i) (fneg (fmul q (fOfInt (asSigned 4 (nibbleAt sk i)))))
    faddR false acc (match v with
      | .fin x => .fin { x with neg := false }
      | .inf _ => .inf false
      | .nan => .nan)) (fzero false)
  (sk, roundF .f32 .rup false err)

/-- A key written into its slot or its two slots. -/
def KUnit.putKey (u : KUnit) (s : Nat) (k : KeySlot) (key : Bytes) (sk : Bool) : KUnit :=
  let one := fun (u : KUnit) (s off n : Nat) (first : Bool) =>
    let data := sliceB key off 256
    let r := sketchSlot data n
    { u with keys := NMap.put u.keys s { k with
        firstOfPair := first, data := data, present := sk, sketch := if sk then r.1 else [], err := if sk then r.2 else 0 } }
  let u := one u s 0 (min 128 k.d) true
  if k.d > 128 then one u (s + 1) 256 (k.d - 128) false else u

/-- A key token (13 R271). -/
structure KeyTok where
  p : Nat
  d : Nat
  keyIn : Bool
  valIn : Bool
  sk : Bool
  ko : Nat
  vo : Nat
  deriving DecidableEq, Repr
def keyTok (a : Bytes) : KeyTok :=
  let fl := numAt a 6 2
  ⟨numAt a 0 4, numAt a 4 2, bitN fl 0, bitN fl 1, bitN fl 2, numAt a 8 4, numAt a 12 4⟩

/-- Whether the dimensions and the inline data of a key token fit its entry (13 R272). -/
def KeyTok.fits (k : KeyTok) (e : SeqEnt) : Bool :=
  1 ≤ k.d && k.d ≤ 256 && (decide (k.d > 128) = e.wide)
    && 32 + (if k.keyIn then 2 * k.d else 0) + (if k.valIn then 2 * e.dv else 0) ≤ 128

/-- The key's bytes of a key token. -/
def KeyTok.bytes (k : KeyTok) (u : KUnit) (a : Bytes) : Bytes :=
  if k.keyIn then sliceB a 32 (2 * k.d) else u.rd k.ko (2 * k.d)

/-- Whether the key that is not inline lies in the scratchpad. -/
def KeyTok.keyInRange (k : KeyTok) : Bool := k.keyIn || k.ko + 2 * k.d ≤ spadBytes

/-- KPUT.KPUT (13 R272). -/
def kput (u : KUnit) (h : Nat) (a : Bytes) : KRes := do
  let k := keyTok a
  let e ← u.live h k.p
  let err := fun (c : Nat) => (Except.error ⟨c, h, k.p⟩ : KRes)
  let s := e.slotAt e.t e.tiles k.p
  let mine := fun (s : Nat) => match NMap.find u.keys s with
    | none => true
    | some q => !q.streaming && q.handle = h && q.pos = k.p
  let va := e.vbase + 2 * e.dv * e.ordinal e.t e.tiles k.p
  if !k.fits e then err 8
  else if k.p % e.tiles ≠ e.t then err 4
  else if k.p < e.low || (e.parent ≠ 0xFFFF && k.p < e.fork) then err 5
  else if !mine s || (e.wide && !mine (s + 1)) then err 6
  else if !k.keyInRange || (k.valIn && va + 2 * e.dv > spadBytes) then err 0xC
  else
    let key := k.bytes u a
    let vo := if k.valIn then va else k.vo
    let u := if k.valIn then u.wr va (sliceB a (32 + (if k.keyIn then 2 * k.d else 0)) (2 * e.dv)) else u
    let u := u.putKey s { handle := h, pos := k.p, d := k.d, vo := vo } key (k.sk || e.sketch)
    let u := u.wr (seqAddr h + 8) (leBytes 4 (max e.length (k.p + 1)))
    .ok (u, leBytes 2 s ++ [0, 0] ++ leBytes 4 k.p)

/-- KPUT.KPUTS (13 R272). -/
def kputs (u : KUnit) (h : Nat) (a : Bytes) : KRes := do
  let k := keyTok a
  let e ← u.live h k.p
  let err := fun (c : Nat) => (Except.error ⟨c, h, k.p⟩ : KRes)
  let ranges := u.validEnts.map (fun p => (p.2.base, p.2.w * p.2.cap))
  let free := fun (s : Nat) => s < 256 && (NMap.find u.keys s).isNone && !ranges.any (fun r => r.1 ≤ s && s < r.1 + r.2)
  let slot := (List.range 256).find? (fun s => free s && (k.d ≤ 128 || (s % 2 = 0 && free (s + 1))))
  if !k.fits e then err 8
  else if k.p % e.tiles ≠ e.t then err 4
  else if k.valIn then err 0xD
  else match slot with
    | none => err 7
    | some s =>
      if !k.keyInRange then err 0xC
      else
        let u := u.putKey s { streaming := true, handle := h, pos := k.p, d := k.d, vo := k.vo } (k.bytes u a) (k.sk || e.sketch)
        .ok (u, leBytes 2 s ++ [0, 0] ++ leBytes 4 k.p)

/-- KPUT.KSEQ (13 R273). -/
def kseq (u : KUnit) (h : Nat) (a : Bytes) : KRes :=
  let fl := numAt a 13 1
  let e : SeqEnt := {
    seq := numAt a 0 4, base := numAt a 4 2, cap := numAt a 6 2, length := 0, parent := 0xFFFF, refs := 0, fork := 0, low := 0,
    vbase := numAt a 8 4, valid := true, wide := bitN fl 4, sketch := bitN fl 5, released := false, g := fl % 16,
    dv := numAt a 12 1, t := numAt a 14 2 }
  if (u.ent h).valid then .error ⟨2, h, 0⟩
  else if e.dv = 0 || e.dv > 128 || e.cap = 0 || e.cap > 256 || e.g > 10 || e.t ≥ 2 ^ e.g then .error ⟨8, h, 0⟩
  else if u.rangeTaken h e.base (e.w * e.cap) then .error ⟨3, h, 0⟩
  else .ok (u.putEnt h e, [])

/-- KPUT.KFORK (13 R274). -/
def kfork (u : KUnit) (h : Nat) (a : Bytes) : KRes := do
  let c := numAt a 0 1
  let f := numAt a 8 4
  let p ← u.live h f
  let e : SeqEnt := { p with
    seq := numAt a 4 4, base := numAt a 12 2, cap := numAt a 14 2, vbase := numAt a 16 4, parent := h, fork := f, length := f,
    low := 0, refs := 0 }
  if (u.ent c).valid then .error ⟨2, c, f⟩
  else if f > p.length || p.refs ≥ 0xFFFF then .error ⟨0xA, h, f⟩
  else if e.cap = 0 || e.cap > 256 then .error ⟨8, c, f⟩
  else if u.rangeTaken c e.base (e.w * e.cap) then .error ⟨3, c, f⟩
  else .ok ((u.putEnt c e).putEnt h { p with refs := p.refs + 1 }, leBytes 4 (p.refs + 1))

/-- Slots freed: how many, and the unit without them. -/
def KUnit.free (u : KUnit) (p : Nat → KeySlot → Bool) : Nat × KUnit :=
  ((u.keys.filter (fun k => p k.1 k.2)).length, { u with keys := u.keys.filter (fun k => !p k.1 k.2) })

/-- An entry released, and its released ancestors that no entry names any longer (13 R275). -/
def KUnit.release (u : KUnit) : Nat → Nat → Nat × KUnit
  | 0, _ => (0, u)
  | k + 1, h =>
    let e := u.ent h
    let (n, u) := u.free (fun _ q => q.handle = h)
    let u := u.putEnt h { e with valid := false }
    if e.parent = 0xFFFF then (n, u)
    else
      let p := u.ent e.parent
      let r := p.refs - 1
      let u := u.putEnt e.parent { p with refs := r }
      if p.valid && p.released && r = 0 then
        let (m, u) := u.release k e.parent
        (n + m, u)
      else (n, u)

/-- KPUT.KDROP (13 R275). -/
def kdrop (u : KUnit) (h mode : Nat) (a : Bytes) : KRes :=
  let p := numAt a 0 4
  let e := u.ent h
  if !e.valid then .error ⟨1, h, p⟩
  else match entryCheck h p e with
    | .error x => .error x
    | .ok _ =>
      let (n, u) := match mode with
        | 0 =>
          if e.refs = 0 then u.release 256 h
          else (u.putEnt h { e with released := true }).free (fun _ q => q.handle = h && q.streaming)
        | 1 => (u.putEnt h { e with low := max e.low p }).free (fun _ q => q.handle = h && !q.streaming && q.pos < p)
        | _ => u.free (fun _ q => q.handle = h && q.pos = p)
      .ok (u, leBytes 4 n)

/-! ### Records (13 R277, R278) -/

/-- A soft-max record. -/
structure SmRec where
  m : Nat
  flags : Nat
  l : Nat
  count : Nat
  dv : Nat
  k : Nat
  rest : Bytes
  list : List (Nat × Nat)
  acc : List Nat
  deriving DecidableEq, Repr

/-- The record at an offset. -/
def KUnit.recAt (u : KUnit) (ro : Nat) : SmRec :=
  let b := u.rd ro 0xA0
  let dv := numAt b 0x10 2
  let n := min 16 (numAt b 0x13 1)
  { m := numAt b 0 4, flags := numAt b 4 4, l := numAt b 8 4, count := numAt b 0xC 4, dv := dv, k := numAt b 0x12 1,
    rest := sliceB b 0x14 12, list := (List.range n).map (fun i => (numAt b (0x20 + 8 * i) 4, numAt b (0x24 + 8 * i) 4)),
    acc := elems 4 (u.rd (ro + 0xA0) (4 * dv)) }

/-- The bytes of a record. -/
def SmRec.bytes (r : SmRec) : Bytes :=
  leBytes 4 r.m ++ leBytes 4 r.flags ++ leBytes 4 r.l ++ leBytes 4 r.count ++ leBytes 2 r.dv ++ leBytes 1 r.k
    ++ leBytes 1 r.list.length ++ sliceB r.rest 0 12
    ++ sliceB ((r.list.map (fun p => leBytes 4 p.1 ++ leBytes 4 p.2)).flatten) 0 128 ++ packElems 4 (sliceN r.acc r.dv)
where
  /-- The first `n` of a list, filled with zeros. -/
  sliceN (l : List Nat) (n : Nat) : List Nat := l.take n ++ List.replicate (n - l.length) 0

/-- Whether an offset and a size make a record that lies in the scratchpad (13 R277). -/
def recPlace (ro dv : Nat) : Bool := ro % 64 = 0 && ro + 0xA0 + 4 * dv ≤ spadBytes
def SmRec.ok (r : SmRec) (ro : Nat) : Bool :=
  recPlace ro r.dv && 1 ≤ r.dv && r.dv ≤ 128 && 1 ≤ r.k && r.k ≤ 16

/-- The record at an offset, checked; key fault 0x0B. -/
def KUnit.rec? (u : KUnit) (ro : Nat) : Except KFault SmRec :=
  if ro % 64 ≠ 0 || ro + 0xA0 > spadBytes then .error ⟨0xB, 0, ro⟩
  else
    let r := u.recAt ro
    if r.ok ro then .ok r else .error ⟨0xB, 0, ro⟩

/-- The unset reference, and a reference as an integer. -/
def mUnset : Nat := 0x80000000
def SmRec.ref (r : SmRec) : Int := asSigned 32 r.m

/-- Whether one list entry ranks before another: higher score, then lower position (13 R276). -/
def ranksBefore (a b : Nat × Nat) : Bool :=
  let x := f32Val a.1
  let y := f32Val b.1
  flt y x || (feq x y && a.2 < b.2)

/-- An entry put into a list in rank order, behind those that rank equal: keys come in rank order, a persistent one before a streaming one
of its position. -/
def rankInsert (e : Nat × Nat) : List (Nat × Nat) → List (Nat × Nat)
  | [] => [e]
  | a :: as => if ranksBefore e a then e :: a :: as else a :: rankInsert e as

/-- The clamped ceiling of a score (13 R278). -/
def clampCeil (v : FVal) : Int :=
  match v with
  | .fin x => max (-(2 ^ 24)) (min (2 ^ 24) (roundInt .rup x))
  | _ => 0

/-- A value divided by `2 ^ delta`, and whether it was flushed to zero (13 R278). -/
def rescaleOne (delta : Nat) (c : Nat) : Nat × Bool :=
  match f32Val c with
  | .fin x =>
    if x.m = 0 then (c, false)
    else if topOf x - delta < -126 then (if x.neg then 0x80000000 else 0, true)
    else (roundF .f32 .rne false (.fin { x with e := x.e - delta }), false)
  | _ => (c, false)

/-- RESCALE of a record by a positive step; whether a value was flushed. -/
def SmRec.rescale (r : SmRec) (delta : Int) : SmRec × Bool :=
  let d := delta.toNat
  let l := rescaleOne d r.l
  let acc := r.acc.map (rescaleOne d)
  let fl := l.2 || acc.any (·.2)
  ({ r with l := l.1, acc := acc.map (·.1), flags := if fl then r.flags ||| 1 else r.flags }, fl)

/-- The reference raised to `c` where it is higher, with the marks of the rescale. -/
def raiseRef (u : KUnit) (r : SmRec) (c : Int) (online : Bool) : KUnit × SmRec :=
  let m := wrapInt 32 c
  if r.m = mUnset then (u, { r with m := m })
  else if c > r.ref then
    let (r, fl) := r.rescale (c - r.ref)
    let fb := online && bitN r.flags 3
    ({ u with flush := u.flush || fl, fallbk := u.fallbk || fb },
     { r with m := m, flags := if fb then r.flags ||| 2 else r.flags })
  else (u, r)

/-- UPDATE of a record by a selected key (13 R278). -/
def updateRec (u : KUnit) (r : SmRec) (score pos : Nat) (v : Bytes) : KUnit × SmRec :=
  let s := f32Val score
  let (u, r) := raiseRef u r (clampCeil s) true
  let wt := roundF .f32 .rne false (spExp2 (faddR false s (fOfInt (-r.ref))))
  let w := f32Val wt
  (u, { r with
    l := addF32 r.l wt,
    acc := r.acc.zipIdx.map (fun p => roundF .f32 .rne false (faddR false (f32Val p.1) (fmul w (bf16At v p.2)))),
    count := min (2 ^ 32 - 1) (r.count + 1),
    list := (rankInsert (score, pos) r.list).take r.k })

/-- The summary of a record (13 R280). -/
def SmRec.summary (r : SmRec) : Bytes :=
  leBytes 4 r.count ++ leBytes 4 r.m ++ leBytes 4 r.l ++ leBytes 4 ((r.list.head?.map (·.1)).getD 0xFF800000)

/-- A record written back. -/
def KUnit.putRec (u : KUnit) (ro : Nat) (r : SmRec) : KUnit := u.wr ro r.bytes

/-! ### Queries (13 R276, R279 to R282) -/

/-- The score of a key (03 R67): `q` and `k` are packed BF16 elements. -/
def scoreOf (q k : Bytes) (d scale : Nat) : Nat :=
  let p := (List.range d).map (fun i => roundF .f32 .rne false (fmul (bf16At q i) (bf16At k i)))
  mulF32 (treeSum p) scale

/-- The unscaled sketch score of one slot over `n` elements of a query from element `o` on. -/
def sketchPart (q : Bytes) (o n : Nat) (sk : Bytes) : Nat :=
  let p := (List.range n).map (fun i =>
    roundF .f32 .rne false (fmul (bf16At q (o + i)) (fOfInt (asSigned 4 (nibbleAt sk i)))))
  mulF32 (treeSum p) (numAt sk 64 4)

/-- The magnitude of a value. -/
def fabsV : FVal → FVal
  | .fin x => .fin { x with neg := false }
  | .inf _ => .inf false
  | .nan => .nan

/-- The larger of two magnitudes; a NaN stays. -/
def fmaxV (a b : FVal) : FVal := if a.isNan || b.isNan then .nan else if flt a b then b else a

/-- A key that a query reads: its slot, tag, and the tag of its second slot. -/
structure KeyRef where
  s : Nat
  k : KeySlot
  k2 : Option KeySlot
  deriving DecidableEq, Repr

/-- The bytes of a key. -/
def KeyRef.data (r : KeyRef) : Bytes := r.k.data ++ ((r.k2.map (·.data)).getD [])

/-- The bound of a key (13 R279). -/
def KeyRef.bound (r : KeyRef) (q : Bytes) (d scale : Nat) : Nat :=
  let t1 := sketchPart q 0 (min d 128) r.k.sketch
  let t := match r.k2 with
    | some k2 => if d > 128 then addF32 t1 (sketchPart q 128 (d - 128) k2.sketch) else t1
    | none => t1
  let e := match r.k2 with
    | some k2 => faddR false (f32Val r.k.err) (f32Val k2.err)
    | none => f32Val r.k.err
  let mq := (List.range d).foldl (fun m i => fmaxV m (fabsV (bf16At q i))) (fzero false)
  roundF .f32 .rup false (faddR false (f32Val (mulF32 t scale)) (fmul (fmul (fabsV (f32Val scale)) mq) e))

/-- A query (13 R280). -/
structure Query where
  plim : Nat
  d : Nat
  k : Nat
  inl : Bool
  qo : Nat
  scale : Nat
  ro : Nat
  deriving DecidableEq, Repr
def queryOf (a : Bytes) : Query :=
  ⟨numAt a 0 4, numAt a 4 2, numAt a 6 1, bitN (numAt a 7 1) 0, numAt a 8 4, numAt a 12 4, numAt a 16 4⟩

/-- The query's vector. -/
def Query.vec (q : Query) (u : KUnit) (a : Bytes) : Bytes := if q.inl then sliceB a 32 (2 * q.d) else u.rd q.qo (2 * q.d)

/-- The checks of a query (13 R281): the entry, the record, the vector. -/
def queryCheck (u : KUnit) (h : Nat) (q : Query) (top : Bool) : Except KFault (SeqEnt × SmRec) := do
  let e ← u.live h q.ro
  let bad := (Except.error ⟨0xB, h, q.ro⟩ : Except KFault (SeqEnt × SmRec))
  match u.rec? q.ro with
  | .error _ => bad
  | .ok r =>
    if r.dv ≠ e.dv || (top && (q.k = 0 || q.k > 16)) then bad
    else if q.d = 0 || q.d > 256 || (q.inl && q.d > 48) then .error ⟨8, h, q.ro⟩
    else if !q.inl && q.qo + 2 * q.d > spadBytes then .error ⟨0xC, h, q.ro⟩
    else .ok (e, r)

/-- The eligible keys of a query: those that LOOKUP finds below plim and the length, and the streaming keys below plim (13 R281). -/
def eligible (u : KUnit) (h : Nat) (e : SeqEnt) (q : Query) : Except KFault (List KeyRef) :=
  if min q.plim e.length > 0 && (u.walk 0 9 h).isNone then .error ⟨9, h, q.ro⟩
  else
    let ok := fun (p : Nat × KeySlot) =>
      p.2.pos < q.plim && p.2.firstOfPair &&
        (if p.2.streaming then p.2.handle = h else p.2.pos < e.length && u.found h e p.1 p.2)
    .ok ((u.keys.filter ok).map (fun p => ⟨p.1, p.2, if p.2.d > 128 then NMap.find u.keys (p.1 + 1) else none⟩))

/-- Whether a scored key ranks before another (13 R276). -/
def keyBefore (a b : Nat × KeyRef) : Bool :=
  let x := f32Val a.1
  let y := f32Val b.1
  let key := fun (r : KeyRef) => (r.k.pos * 2 + (if r.k.streaming then 1 else 0)) * 256 + r.s
  flt y x || (feq x y && key a.2 < key b.2)

/-- Scored keys in rank order. -/
def rankKeys : List (Nat × KeyRef) → List (Nat × KeyRef)
  | [] => []
  | a :: as => ins a (rankKeys as)
where
  /-- A key put into a ranked list. -/
  ins (e : Nat × KeyRef) : List (Nat × KeyRef) → List (Nat × KeyRef)
  | [] => [e]
  | a :: as => if keyBefore a e then a :: ins e as else e :: a :: as

/-- Whether an FP32 code is a NaN or infinite. -/
def notFinite (c : Nat) : Bool := (f32Val c).isNan || (f32Val c).isInf

/-- KQ and KQD (13 R281): `top` says that the query keeps its best `k`. -/
def kquery (u : KUnit) (h : Nat) (a : Bytes) (top : Bool) : KRes := do
  let q := queryOf a
  let (e, r) ← queryCheck u h q top
  let ks ← eligible u h e q
  let v := q.vec u a
  let scored := ks.map (fun k => (scoreOf v k.data q.d q.scale, k))
  let bad := scored.any (fun p => notFinite p.1)
  let ranked := rankKeys (scored.filter (fun p => !notFinite p.1))
  let sel := if top then ranked.take q.k else ranked
  if sel.any (fun p => p.2.k.vo + 2 * e.dv > spadBytes) then .error ⟨0xC, h, q.ro⟩
  else
    let r := if bad then { r with flags := r.flags ||| 4 } else r
    let u := { u with nan := u.nan || bad }
    let (u, r) := sel.foldl (fun (acc : KUnit × SmRec) p =>
      updateRec acc.1 acc.2 p.1 p.2.k.pos (acc.1.rd p.2.k.vo (2 * e.dv))) (u, r)
    let u := if ks.isEmpty then u else u.putRec q.ro r
    .ok ((u.free (fun _ k => k.streaming && k.handle = h)).2, r.summary)

/-- KQSK (13 R282). -/
def kqsk (u : KUnit) (h : Nat) (a : Bytes) : KRes := do
  let q := queryOf a
  let (e, r) ← queryCheck u h q false
  let ks ← eligible u h e q
  let v := q.vec u a
  if ks.any (fun k => !k.k.present || !((k.k2.map (·.present)).getD true)) then .error ⟨0xE, h, q.ro⟩
  else
    let ubs := (ks.map (fun k => k.bound v q.d q.scale)).filter (fun c => !notFinite c)
    let (u, r) := match ubs with
      | [] => (u, r)
      | c :: cs =>
        let m := cs.foldl (fun m c => fmaxV m (f32Val c)) (f32Val c)
        raiseRef u r (clampCeil m) false
    let r := if ks.isEmpty then r else { r with flags := r.flags ||| 8 }
    .ok (if ks.isEmpty then u else u.putRec q.ro r, leBytes 4 r.m ++ leBytes 4 ubs.length)

/-- The best `n` entries of two lists in rank order. A record does not hold which of two entries of equal score and position was persistent:
across the lists the lower code goes first, so that both orders of a merge give the same bits (13 R283). -/
def mergeRanked : Nat → List (Nat × Nat) → List (Nat × Nat) → List (Nat × Nat)
  | 0, _, _ => []
  | n + 1, [], ys => ys.take (n + 1)
  | n + 1, xs, [] => xs.take (n + 1)
  | n + 1, x :: xs, y :: ys =>
    if ranksBefore x y || (!ranksBefore y x && x.1 ≤ y.1) then x :: mergeRanked n xs (y :: ys) else y :: mergeRanked n (x :: xs) ys

/-- Two records merged (13 R283); whether a value was flushed. -/
def mergeRec (x y : SmRec) : SmRec × Bool :=
  if x.m = mUnset then (y, false)
  else if y.m = mUnset then (x, false)
  else
    let m := max x.ref y.ref
    let (x', fx) := if m > x.ref then x.rescale (m - x.ref) else (x, false)
    let (y', fy) := if m > y.ref then y.rescale (m - y.ref) else (y, false)
    ({ x with
       m := wrapInt 32 m, l := addF32 x'.l y'.l, acc := (x'.acc.zip y'.acc).map (fun p => addF32 p.1 p.2),
       count := min (2 ^ 32 - 1) (x.count + y.count), list := mergeRanked x.k x.list y.list,
       flags := x.flags ||| y.flags ||| (if fx || fy then 1 else 0), rest := [] }, fx || fy)

/-- KMERGE (13 R283). -/
def kmerge (u : KUnit) (a : Bytes) : KRes := do
  let z := numAt a 8 4
  let x ← u.rec? (numAt a 0 4)
  let y ← u.rec? (numAt a 4 4)
  if x.dv ≠ y.dv || x.k ≠ y.k || !recPlace z x.dv then .error ⟨0xB, 0, z⟩
  else
    let (r, fl) := mergeRec x y
    .ok (({ u with flush := u.flush || fl }).putRec z r, r.summary)

/-! ### SMAX (13 R284) -/

def smref (u : KUnit) (a : Bytes) : KRes :=
  let ro := numAt a 0 4
  let r : SmRec := {
    m := numAt a 4 4, flags := 0, l := 0, count := 0, dv := numAt a 8 2, k := numAt a 10 1, rest := [], list := [], acc := [] }
  if !r.ok ro || (r.m ≠ mUnset && (r.ref < -(2 ^ 24) || r.ref > 2 ^ 24)) then .error ⟨0xB, 0, ro⟩
  else .ok (u.putRec ro r, [])

def smacc (u : KUnit) (a : Bytes) : KRes := do
  let ro := numAt a 0 4
  let r ← u.rec? ro
  let score := numAt a 4 4
  let vo := numAt a 12 4
  if notFinite score then
    let r := { r with flags := r.flags ||| 4 }
    .ok (({ u with nan := true }).putRec ro r, r.summary)
  else if vo + 2 * r.dv > spadBytes then .error ⟨0xC, 0, ro⟩
  else
    let (u, r) := updateRec u r score (numAt a 8 4) (u.rd vo (2 * r.dv))
    .ok (u.putRec ro r, r.summary)

def smnorm (u : KUnit) (a : Bytes) : KRes := do
  let r ← u.rec? (numAt a 0 4)
  let g := numAt a 4 1
  .ok (u, packElems 4 (((r.acc.drop (32 * g)).take 32).map (fun c => roundF .f32 .rne false (fdiv (f32Val c) (f32Val r.l)))))

def smresc (u : KUnit) (a : Bytes) : KRes := do
  let ro := numAt a 0 4
  let r ← u.rec? ro
  let target := asSigned 32 (numAt a 4 4)
  if r.m ≠ mUnset && target ≤ r.ref then .ok (u, r.summary)
  else
    let (u, r) := raiseRef u r target false
    .ok (u.putRec ro r, r.summary)

def smflag (u : KUnit) (a : Bytes) : KRes := do
  let ro := numAt a 0 4
  let r ← u.rec? ro
  .ok (u.wr (ro + 4) (leBytes 4 (r.flags / 8 * 8)), leBytes 4 r.flags)

/-! ### The key-store unit (13 R266) -/

/-- A firing of the key-store unit performed on a unit, by its class, minor and literal. -/
def keyStep (major minor : Nat) (lit : BitVec 32) (u : KUnit) (a : Bytes) : KRes :=
  let h := fieldOf lit 0 8
  match major, minor with
  | 0x1E, 0 => kput u h a
  | 0x1E, 1 => kputs u h a
  | 0x1E, 2 => kdrop u h (fieldOf lit 8 2) a
  | 0x1E, 3 => kseq u h a
  | 0x1E, _ => kfork u h a
  | 0x1F, 0 => kquery u h a true
  | 0x1F, 1 => kquery u h a false
  | 0x1F, 2 => kqsk u h a
  | 0x1F, _ => kmerge u a
  | _, 0 => smref u a
  | _, 1 => smacc u a
  | _, 2 => smnorm u a
  | _, 3 => smresc u a
  | _, _ => smflag u a

/-- The effects of a firing on its tile: the slots, the bytes with their granules full and a place of the forwarding table, the flags. -/
def State.keyApply (s : State) (t : TileId) (u : KUnit) : State :=
  let gs := granulesOf (u.ws.map (fun p => (p.1, p.2.length)))
  let s := s.modTile t (fun x =>
    let st := if u.nan then withBit x.kstat 2 else x.kstat
    let st := if u.fallbk then withBit st 1 else st
    let st := if u.flush then withBit st 0 else st
    { x with
      keys := u.keys, kstat := st, spad := u.ws.foldl (fun m p => Memory.setN m p.1 p.2) x.spad,
      full := if gs.isEmpty then x.full else leaveBits x.full gs 4, fwd := if gs.isEmpty then x.fwd else x.fwd ++ [gs] })
  let s := if gs.isEmpty then s else (s.due (.forwardingRetire t)).due (.fullEmptyWaitPerform t)
  let s := if u.nan then s.setStatus (s.ctxOf t) t.die 5 else s
  if u.flush then s.setStatus (s.ctxOf t) t.die 6 else s

/-- The key fault of a firing (13 R290, 18 R369). -/
def State.keyFault (s : State) (j : Job) (x : KFault) : State :=
  s.jobFault j 5 x.code (leBytes 4 x.handle ++ leBytes 4 x.pos)

/-- The oldest firing of the unit completes: its effects take place, its tokens are emitted. -/
def State.keyComplete (s : State) (t : TileId) : State :=
  match (s.tile t).kqueue with
  | [] => s
  | (major, minor, j) :: js =>
    let s := s.modTile t (fun x => { x with kqueue := js })
    let s := if js.isEmpty then s else s.due (.keystoreCompletion t)
    let x := s.tile t
    match keyStep major minor j.f.lit { x := x, inst := j.fi.inst, keys := x.keys } (descriptorOn s j false) with
    | .error e => s.keyFault j e
    | .ok (u, res) => s.settle j (((s.consume j.fi).keyApply t u).emit2 j .value res)

def execKeystoreCompletion (s : State) : Host.Outcome State Fault Refusal :=
  match s.ev with
  | .keystoreCompletion t => .next (s.keyComplete t)
  | _ => .next s

/-- A firing issued to the key-store unit. -/
def fireKey (major minor : Nat) (f : Fields) (s : State) : State :=
  s.fire f (some .value) (dests f) (sregDests f) (fun j s =>
    let t := j.fi.at_
    (s.modTile t (fun x => { x with kqueue := x.kqueue ++ [(major, minor, j)] })).due (.keystoreCompletion t))

def execKputKput (f : Fields) (s : State) : Host.Outcome State Fault Refusal := .next (fireKey 0x1E 0 f s)
def execKputKputs (f : Fields) (s : State) : Host.Outcome State Fault Refusal := .next (fireKey 0x1E 1 f s)
def execKputKdrop (f : Fields) (s : State) : Host.Outcome State Fault Refusal := .next (fireKey 0x1E 2 f s)
def execKputKseq (f : Fields) (s : State) : Host.Outcome State Fault Refusal := .next (fireKey 0x1E 3 f s)
def execKputKfork (f : Fields) (s : State) : Host.Outcome State Fault Refusal := .next (fireKey 0x1E 4 f s)
def execKqueryKq (f : Fields) (s : State) : Host.Outcome State Fault Refusal := .next (fireKey 0x1F 0 f s)
def execKqueryKqd (f : Fields) (s : State) : Host.Outcome State Fault Refusal := .next (fireKey 0x1F 1 f s)
def execKqueryKqsk (f : Fields) (s : State) : Host.Outcome State Fault Refusal := .next (fireKey 0x1F 2 f s)
def execKqueryKmerge (f : Fields) (s : State) : Host.Outcome State Fault Refusal := .next (fireKey 0x1F 3 f s)
def execSmaxSmref (f : Fields) (s : State) : Host.Outcome State Fault Refusal := .next (fireKey 0x20 0 f s)
def execSmaxSmacc (f : Fields) (s : State) : Host.Outcome State Fault Refusal := .next (fireKey 0x20 1 f s)
def execSmaxSmnorm (f : Fields) (s : State) : Host.Outcome State Fault Refusal := .next (fireKey 0x20 2 f s)
def execSmaxSmresc (f : Fields) (s : State) : Host.Outcome State Fault Refusal := .next (fireKey 0x20 3 f s)
def execSmaxSmflag (f : Fields) (s : State) : Host.Outcome State Fault Refusal := .next (fireKey 0x20 4 f s)

end Sys2Proof.Machine
end

