-- ==== Sys2Proof/Machine/Dispatch.lean ====
section
/-! DEFINITION. The dispatch: one arm for every row of the opcode table. -/

namespace Sys2Proof.Machine

/-- The meaning of every instruction. -/
def exec (i : Instr) (s : State) : Host.Outcome State Fault Refusal :=
  match i with
  | .ialuAdd a => Sys2Proof.Machine.execIaluAdd a s
  | .ialuSub a => Sys2Proof.Machine.execIaluSub a s
  | .ialuMul a => Sys2Proof.Machine.execIaluMul a s
  | .ialuMulh a => Sys2Proof.Machine.execIaluMulh a s
  | .ialuMin a => Sys2Proof.Machine.execIaluMin a s
  | .ialuMax a => Sys2Proof.Machine.execIaluMax a s
  | .ialuAnd a => Sys2Proof.Machine.execIaluAnd a s
  | .ialuOr a => Sys2Proof.Machine.execIaluOr a s
  | .ialuXor a => Sys2Proof.Machine.execIaluXor a s
  | .ialuNot a => Sys2Proof.Machine.execIaluNot a s
  | .ialuShl a => Sys2Proof.Machine.execIaluShl a s
  | .ialuShr a => Sys2Proof.Machine.execIaluShr a s
  | .ialuRot a => Sys2Proof.Machine.execIaluRot a s
  | .ialuPopc a => Sys2Proof.Machine.execIaluPopc a s
  | .ialuClz a => Sys2Proof.Machine.execIaluClz a s
  | .ialuAbs a => Sys2Proof.Machine.execIaluAbs a s
  | .icmpEq a => Sys2Proof.Machine.execIcmpEq a s
  | .icmpNe a => Sys2Proof.Machine.execIcmpNe a s
  | .icmpLt a => Sys2Proof.Machine.execIcmpLt a s
  | .icmpLe a => Sys2Proof.Machine.execIcmpLe a s
  | .icmpGt a => Sys2Proof.Machine.execIcmpGt a s
  | .icmpGe a => Sys2Proof.Machine.execIcmpGe a s
  | .icmpTst a => Sys2Proof.Machine.execIcmpTst a s
  | .addrAmov a => Sys2Proof.Machine.execAddrAmov a s
  | .addrAoff a => Sys2Proof.Machine.execAddrAoff a s
  | .addrAscale a => Sys2Proof.Machine.execAddrAscale a s
  | .addrApw a => Sys2Proof.Machine.execAddrApw a s
  | .addrAread a => Sys2Proof.Machine.execAddrAread a s
  | .vfmaFma a => Sys2Proof.Machine.execVfmaFma a s
  | .vfmaFms a => Sys2Proof.Machine.execVfmaFms a s
  | .vfmaFnma a => Sys2Proof.Machine.execVfmaFnma a s
  | .vfmaFnms a => Sys2Proof.Machine.execVfmaFnms a s
  | .vfmaDot a => Sys2Proof.Machine.execVfmaDot a s
  | .vfmaDotacc a => Sys2Proof.Machine.execVfmaDotacc a s
  | .vfarithFadd a => Sys2Proof.Machine.execVfarithFadd a s
  | .vfarithFsub a => Sys2Proof.Machine.execVfarithFsub a s
  | .vfarithFmul a => Sys2Proof.Machine.execVfarithFmul a s
  | .vfarithFdiv a => Sys2Proof.Machine.execVfarithFdiv a s
  | .vfarithFmin a => Sys2Proof.Machine.execVfarithFmin a s
  | .vfarithFmax a => Sys2Proof.Machine.execVfarithFmax a s
  | .vfarithFabs a => Sys2Proof.Machine.execVfarithFabs a s
  | .vfarithFneg a => Sys2Proof.Machine.execVfarithFneg a s
  | .vfarithFsqrt a => Sys2Proof.Machine.execVfarithFsqrt a s
  | .vfarithFclass a => Sys2Proof.Machine.execVfarithFclass a s
  | .vfarithFeq a => Sys2Proof.Machine.execVfarithFeq a s
  | .vfarithFlt a => Sys2Proof.Machine.execVfarithFlt a s
  | .vfarithFle a => Sys2Proof.Machine.execVfarithFle a s
  | .vcvtCvt a => Sys2Proof.Machine.execVcvtCvt a s
  | .vcvtFtoi a => Sys2Proof.Machine.execVcvtFtoi a s
  | .vcvtItof a => Sys2Proof.Machine.execVcvtItof a s
  | .vcvtCvtmx a => Sys2Proof.Machine.execVcvtCvtmx a s
  | .vcvtUnmx a => Sys2Proof.Machine.execVcvtUnmx a s
  | .vcvtSketch a => Sys2Proof.Machine.execVcvtSketch a s
  | .vspecialExp2 a => Sys2Proof.Machine.execVspecialExp2 a s
  | .vspecialLog2 a => Sys2Proof.Machine.execVspecialLog2 a s
  | .vspecialRcp a => Sys2Proof.Machine.execVspecialRcp a s
  | .vspecialRsqrt a => Sys2Proof.Machine.execVspecialRsqrt a s
  | .vspecialTanh a => Sys2Proof.Machine.execVspecialTanh a s
  | .vspecialSigm a => Sys2Proof.Machine.execVspecialSigm a s
  | .vredRsum a => Sys2Proof.Machine.execVredRsum a s
  | .vredRmax a => Sys2Proof.Machine.execVredRmax a s
  | .vredRmin a => Sys2Proof.Machine.execVredRmin a s
  | .vredRsumsq a => Sys2Proof.Machine.execVredRsumsq a s
  | .vpermBcast a => Sys2Proof.Machine.execVpermBcast a s
  | .vpermShuf a => Sys2Proof.Machine.execVpermShuf a s
  | .vpermSlide a => Sys2Proof.Machine.execVpermSlide a s
  | .vpermZip a => Sys2Proof.Machine.execVpermZip a s
  | .vpermUnzip a => Sys2Proof.Machine.execVpermUnzip a s
  | .steerSteer a => Sys2Proof.Machine.execSteerSteer a s
  | .steerRoute a => Sys2Proof.Machine.execSteerRoute a s
  | .steerSel a => Sys2Proof.Machine.execSteerSel a s
  | .mergeMerge a => Sys2Proof.Machine.execMergeMerge a s
  | .mergeMergeo a => Sys2Proof.Machine.execMergeMergeo a s
  | .gateGate a => Sys2Proof.Machine.execGateGate a s
  | .gateNullify a => Sys2Proof.Machine.execGateNullify a s
  | .gateDup a => Sys2Proof.Machine.execGateDup a s
  | .tagopGetit a => Sys2Proof.Machine.execTagopGetit a s
  | .tagopGetfr a => Sys2Proof.Machine.execTagopGetfr a s
  | .tagopGetph a => Sys2Proof.Machine.execTagopGetph a s
  | .tagopSetit a => Sys2Proof.Machine.execTagopSetit a s
  | .tagopSetph a => Sys2Proof.Machine.execTagopSetph a s
  | .spawnSpawn a => Sys2Proof.Machine.execSpawnSpawn a s
  | .spawnSpawnn a => Sys2Proof.Machine.execSpawnSpawnn a s
  | .spawnSpawnr a => Sys2Proof.Machine.execSpawnSpawnr a s
  | .joinJoin a => Sys2Proof.Machine.execJoinJoin a s
  | .joinJoinall a => Sys2Proof.Machine.execJoinJoinall a s
  | .exitExit a => Sys2Proof.Machine.execExitExit a s
  | .exitAbort a => Sys2Proof.Machine.execExitAbort a s
  | .stateSld a => Sys2Proof.Machine.execStateSld a s
  | .stateSst a => Sys2Proof.Machine.execStateSst a s
  | .stateSacc a => Sys2Proof.Machine.execStateSacc a s
  | .stateSclr a => Sys2Proof.Machine.execStateSclr a s
  | .ldlLdl a => Sys2Proof.Machine.execLdlLdl a s
  | .ldlLdls a => Sys2Proof.Machine.execLdlLdls a s
  | .ldlLdlx a => Sys2Proof.Machine.execLdlLdlx a s
  | .stlStl a => Sys2Proof.Machine.execStlStl a s
  | .stlStls a => Sys2Proof.Machine.execStlStls a s
  | .stlStlx a => Sys2Proof.Machine.execStlStlx a s
  | .ldLd a => Sys2Proof.Machine.execLdLd a s
  | .ldLdnt a => Sys2Proof.Machine.execLdLdnt a s
  | .ldLdpw a => Sys2Proof.Machine.execLdLdpw a s
  | .ldLdfc a => Sys2Proof.Machine.execLdLdfc a s
  | .ldFcinv a => Sys2Proof.Machine.execLdFcinv a s
  | .stSt a => Sys2Proof.Machine.execStSt a s
  | .stStnt a => Sys2Proof.Machine.execStStnt a s
  | .gatherGath a => Sys2Proof.Machine.execGatherGath a s
  | .gatherGathw a => Sys2Proof.Machine.execGatherGathw a s
  | .scatterScat a => Sys2Proof.Machine.execScatterScat a s
  | .scatterScatm a => Sys2Proof.Machine.execScatterScatm a s
  | .atomAtadd a => Sys2Proof.Machine.execAtomAtadd a s
  | .atomAtmin a => Sys2Proof.Machine.execAtomAtmin a s
  | .atomAtmax a => Sys2Proof.Machine.execAtomAtmax a s
  | .atomAtand a => Sys2Proof.Machine.execAtomAtand a s
  | .atomAtor a => Sys2Proof.Machine.execAtomAtor a s
  | .atomAtxor a => Sys2Proof.Machine.execAtomAtxor a s
  | .atomAtxchg a => Sys2Proof.Machine.execAtomAtxchg a s
  | .atomAtcas a => Sys2Proof.Machine.execAtomAtcas a s
  | .atomAtcasw a => Sys2Proof.Machine.execAtomAtcasw a s
  | .atomAtfadd a => Sys2Proof.Machine.execAtomAtfadd a s
  | .orderAcq a => Sys2Proof.Machine.execOrderAcq a s
  | .orderRel a => Sys2Proof.Machine.execOrderRel a s
  | .orderAcqrel a => Sys2Proof.Machine.execOrderAcqrel a s
  | .orderFence a => Sys2Proof.Machine.execOrderFence a s
  | .barBarinit a => Sys2Proof.Machine.execBarBarinit a s
  | .barBarjoin a => Sys2Proof.Machine.execBarBarjoin a s
  | .barBarwait a => Sys2Proof.Machine.execBarBarwait a s
  | .mmaMldb a => Sys2Proof.Machine.execMmaMldb a s
  | .mmaMrow a => Sys2Proof.Machine.execMmaMrow a s
  | .mmaMgat a => Sys2Proof.Machine.execMmaMgat a s
  | .mmaMscale a => Sys2Proof.Machine.execMmaMscale a s
  | .mmaMend a => Sys2Proof.Machine.execMmaMend a s
  | .mmaMdrain a => Sys2Proof.Machine.execMmaMdrain a s
  | .maccAcinit a => Sys2Proof.Machine.execMaccAcinit a s
  | .maccAcadd a => Sys2Proof.Machine.execMaccAcadd a s
  | .maccAcread a => Sys2Proof.Machine.execMaccAcread a s
  | .maccAcsave a => Sys2Proof.Machine.execMaccAcsave a s
  | .maccAcload a => Sys2Proof.Machine.execMaccAcload a s
  | .msparseMsldb a => Sys2Proof.Machine.execMsparseMsldb a s
  | .msparseMsmeta a => Sys2Proof.Machine.execMsparseMsmeta a s
  | .msparseMsrow a => Sys2Proof.Machine.execMsparseMsrow a s
  | .kputKput a => Sys2Proof.Machine.execKputKput a s
  | .kputKputs a => Sys2Proof.Machine.execKputKputs a s
  | .kputKdrop a => Sys2Proof.Machine.execKputKdrop a s
  | .kputKseq a => Sys2Proof.Machine.execKputKseq a s
  | .kputKfork a => Sys2Proof.Machine.execKputKfork a s
  | .kqueryKq a => Sys2Proof.Machine.execKqueryKq a s
  | .kqueryKqd a => Sys2Proof.Machine.execKqueryKqd a s
  | .kqueryKqsk a => Sys2Proof.Machine.execKqueryKqsk a s
  | .kqueryKmerge a => Sys2Proof.Machine.execKqueryKmerge a s
  | .smaxSmref a => Sys2Proof.Machine.execSmaxSmref a s
  | .smaxSmacc a => Sys2Proof.Machine.execSmaxSmacc a s
  | .smaxSmnorm a => Sys2Proof.Machine.execSmaxSmnorm a s
  | .smaxSmresc a => Sys2Proof.Machine.execSmaxSmresc a s
  | .smaxSmflag a => Sys2Proof.Machine.execSmaxSmflag a s
  | .rmtRld a => Sys2Proof.Machine.execRmtRld a s
  | .rmtRst a => Sys2Proof.Machine.execRmtRst a s
  | .rmtRadd a => Sys2Proof.Machine.execRmtRadd a s
  | .rmtRcas a => Sys2Proof.Machine.execRmtRcas a s
  | .rmtRxchg a => Sys2Proof.Machine.execRmtRxchg a s
  | .rmtRpf a => Sys2Proof.Machine.execRmtRpf a s
  | .rrelRelopen a => Sys2Proof.Machine.execRrelRelopen a s
  | .rrelRelflag a => Sys2Proof.Machine.execRrelRelflag a s
  | .rrelRelwait a => Sys2Proof.Machine.execRrelRelwait a s
  | .rrelRelabort a => Sys2Proof.Machine.execRrelRelabort a s
  | .netPost a => Sys2Proof.Machine.execNetPost a s
  | .netWait a => Sys2Proof.Machine.execNetWait a s
  | .netNcget a => Sys2Proof.Machine.execNetNcget a s
  | .netNcset a => Sys2Proof.Machine.execNetNcset a s
  | .netCancel a => Sys2Proof.Machine.execNetCancel a s
  | .netNfence a => Sys2Proof.Machine.execNetNfence a s
  | .netNstat a => Sys2Proof.Machine.execNetNstat a s
  | .gramStep a => Sys2Proof.Machine.execGramStep a s
  | .gramMask a => Sys2Proof.Machine.execGramMask a s
  | .gramGstate a => Sys2Proof.Machine.execGramGstate a s
  | .gramGset a => Sys2Proof.Machine.execGramGset a s
  | .gramGreset a => Sys2Proof.Machine.execGramGreset a s
  | .xferCopy a => Sys2Proof.Machine.execXferCopy a s
  | .xferCopy2d a => Sys2Proof.Machine.execXferCopy2d a s
  | .xferFill a => Sys2Proof.Machine.execXferFill a s
  | .sysClock a => Sys2Proof.Machine.execSysClock a s
  | .sysTileid a => Sys2Proof.Machine.execSysTileid a s
  | .sysTimer a => Sys2Proof.Machine.execSysTimer a s
  | .sysCtxst a => Sys2Proof.Machine.execSysCtxst a s
  | .sysCtxend a => Sys2Proof.Machine.execSysCtxend a s
  | .trapTrap a => Sys2Proof.Machine.execTrapTrap a s
  | .trapTret a => Sys2Proof.Machine.execTrapTret a s
  | .dbgBrk a => Sys2Proof.Machine.execDbgBrk a s
  | .dbgTrace a => Sys2Proof.Machine.execDbgTrace a s
  | .dbgHist a => Sys2Proof.Machine.execDbgHist a s
  | .accnIntv a => Sys2Proof.Machine.execAccnIntv a s
  | .accnArec a => Sys2Proof.Machine.execAccnArec a s
  | .aspaceInval a => Sys2Proof.Machine.execAspaceInval a s
  | .aspacePgattr a => Sys2Proof.Machine.execAspacePgattr a s
  | .aspaceLpin a => Sys2Proof.Machine.execAspaceLpin a s
  | .aspaceLquery a => Sys2Proof.Machine.execAspaceLquery a s
  | .tokenArrival => Sys2Proof.Machine.execTokenArrival s
  | .spillProbeDone => Sys2Proof.Machine.execSpillProbeDone s
  | .spillRefill => Sys2Proof.Machine.execSpillRefill s
  | .schedulerDecision => Sys2Proof.Machine.execSchedulerDecision s
  | .blockLoadDone => Sys2Proof.Machine.execBlockLoadDone s
  | .instanceAdmit => Sys2Proof.Machine.execInstanceAdmit s
  | .commitDrain => Sys2Proof.Machine.execCommitDrain s
  | .fullEmptyWaitPerform => Sys2Proof.Machine.execFullEmptyWaitPerform s
  | .forwardingRetire => Sys2Proof.Machine.execForwardingRetire s
  | .scratchpadClearDone => Sys2Proof.Machine.execScratchpadClearDone s
  | .qtailWrite => Sys2Proof.Machine.execQtailWrite s
  | .queueDecision => Sys2Proof.Machine.execQueueDecision s
  | .launchRecordCheck => Sys2Proof.Machine.execLaunchRecordCheck s
  | .leaseResidencyCheck => Sys2Proof.Machine.execLeaseResidencyCheck s
  | .reswaitTimeout => Sys2Proof.Machine.execReswaitTimeout s
  | .regionConfigured => Sys2Proof.Machine.execRegionConfigured s
  | .heldLaunchConfigure => Sys2Proof.Machine.execHeldLaunchConfigure s
  | .quiescenceWave => Sys2Proof.Machine.execQuiescenceWave s
  | .phaseSum => Sys2Proof.Machine.execPhaseSum s
  | .agPortIssue => Sys2Proof.Machine.execAgPortIssue s
  | .ownerPerform => Sys2Proof.Machine.execOwnerPerform s
  | .tlbMissFill => Sys2Proof.Machine.execTlbMissFill s
  | .soHeldPerform => Sys2Proof.Machine.execSoHeldPerform s
  | .replyDelivery => Sys2Proof.Machine.execReplyDelivery s
  | .byteCredit => Sys2Proof.Machine.execByteCredit s
  | .barwaitRetry => Sys2Proof.Machine.execBarwaitRetry s
  | .orderConditionMet => Sys2Proof.Machine.execOrderConditionMet s
  | .drainTokenArrival => Sys2Proof.Machine.execDrainTokenArrival s
  | .streamerTakeCopy => Sys2Proof.Machine.execStreamerTakeCopy s
  | .islandCommandEntry => Sys2Proof.Machine.execIslandCommandEntry s
  | .rowUpdateLand => Sys2Proof.Machine.execRowUpdateLand s
  | .releaseTokenOut => Sys2Proof.Machine.execReleaseTokenOut s
  | .rampWindow => Sys2Proof.Machine.execRampWindow s
  | .forecastUpdate => Sys2Proof.Machine.execForecastUpdate s
  | .keystoreCompletion => Sys2Proof.Machine.execKeystoreCompletion s
  | .gramRequestPerform => Sys2Proof.Machine.execGramRequestPerform s
  | .packetHop => Sys2Proof.Machine.execPacketHop s
  | .creditReturn => Sys2Proof.Machine.execCreditReturn s
  | .packetAgeDrop => Sys2Proof.Machine.execPacketAgeDrop s
  | .requestTimeoutResend => Sys2Proof.Machine.execRequestTimeoutResend s
  | .linkRetrainRequest => Sys2Proof.Machine.execLinkRetrainRequest s
  | .trainingComplete => Sys2Proof.Machine.execTrainingComplete s
  | .confirmViews => Sys2Proof.Machine.execConfirmViews s
  | .retrainTimeout => Sys2Proof.Machine.execRetrainTimeout s
  | .releaseWriteArrival => Sys2Proof.Machine.execReleaseWriteArrival s
  | .releaseFlagArrival => Sys2Proof.Machine.execReleaseFlagArrival s
  | .releaseCompleteArrival => Sys2Proof.Machine.execReleaseCompleteArrival s
  | .gapReportArrival => Sys2Proof.Machine.execGapReportArrival s
  | .groupAbortArrival => Sys2Proof.Machine.execGroupAbortArrival s
  | .flagResendTimer => Sys2Proof.Machine.execFlagResendTimer s
  | .abortResendTimer => Sys2Proof.Machine.execAbortResendTimer s
  | .gapTimer => Sys2Proof.Machine.execGapTimer s
  | .receiveEntryExpiry => Sys2Proof.Machine.execReceiveEntryExpiry s
  | .relopenSpacingExpiry => Sys2Proof.Machine.execRelopenSpacingExpiry s
  | .incarnationNotice => Sys2Proof.Machine.execIncarnationNotice s
  | .netMessageSend => Sys2Proof.Machine.execNetMessageSend s
  | .netPacketReceive => Sys2Proof.Machine.execNetPacketReceive s
  | .netLocalCompletion => Sys2Proof.Machine.execNetLocalCompletion s
  | .netTransportAbandon => Sys2Proof.Machine.execNetTransportAbandon s
  | .accHeadWrite => Sys2Proof.Machine.execAccHeadWrite s
  | .accTailWrite => Sys2Proof.Machine.execAccTailWrite s
  | .replayTimeout => Sys2Proof.Machine.execReplayTimeout s
  | .intervalBoundary => Sys2Proof.Machine.execIntervalBoundary s
  | .firstWriteCopy => Sys2Proof.Machine.execFirstWriteCopy s
  | .rollback => Sys2Proof.Machine.execRollback s
  | .memoryUncorrectable => Sys2Proof.Machine.execMemoryUncorrectable s
  | .preemptSaveComplete => Sys2Proof.Machine.execPreemptSaveComplete s
  | .mailboxWrite => Sys2Proof.Machine.execMailboxWrite s
  | .restoreProceed => Sys2Proof.Machine.execRestoreProceed s
  | .catHeadWrite => Sys2Proof.Machine.execCatHeadWrite s
  | .hangIntervalExpiry => Sys2Proof.Machine.execHangIntervalExpiry s
  | .curCtailWrite => Sys2Proof.Machine.execCurCtailWrite s
  | .curEheadWrite => Sys2Proof.Machine.execCurEheadWrite s
  | .cmdCreate => Sys2Proof.Machine.execCmdCreate s
  | .cmdDestroy => Sys2Proof.Machine.execCmdDestroy s
  | .cmdResident => Sys2Proof.Machine.execCmdResident s
  | .cmdEvict => Sys2Proof.Machine.execCmdEvict s
  | .cmdMode => Sys2Proof.Machine.execCmdMode s
  | .cmdRegw => Sys2Proof.Machine.execCmdRegw s
  | .cmdMap => Sys2Proof.Machine.execCmdMap s
  | .cmdUnmap => Sys2Proof.Machine.execCmdUnmap s
  | .cmdProtect => Sys2Proof.Machine.execCmdProtect s
  | .cmdResdone => Sys2Proof.Machine.execCmdResdone s
  | .cmdResfail => Sys2Proof.Machine.execCmdResfail s
  | .cmdPreempt => Sys2Proof.Machine.execCmdPreempt s
  | .cmdRestore => Sys2Proof.Machine.execCmdRestore s
  | .cmdResume => Sys2Proof.Machine.execCmdResume s
  | .cmdKill => Sys2Proof.Machine.execCmdKill s
  | .cmdTrapw => Sys2Proof.Machine.execCmdTrapw s
  | .cmdGramw => Sys2Proof.Machine.execCmdGramw s
  | .cmdGramwClear => Sys2Proof.Machine.execCmdGramwClear s
  | .cmdEpw => Sys2Proof.Machine.execCmdEpw s
  | .cmdWinw => Sys2Proof.Machine.execCmdWinw s
  | .cmdWatchAdd => Sys2Proof.Machine.execCmdWatchAdd s
  | .cmdWatchClear => Sys2Proof.Machine.execCmdWatchClear s
  | .cmdObsread => Sys2Proof.Machine.execCmdObsread s
  | .cmdVitrineFreeze => Sys2Proof.Machine.execCmdVitrineFreeze s
  | .cmdVitrineThaw => Sys2Proof.Machine.execCmdVitrineThaw s
  | .cmdLinkrst => Sys2Proof.Machine.execCmdLinkrst s
  | .cmdMemrd => Sys2Proof.Machine.execCmdMemrd s
  | .cmdMemwr => Sys2Proof.Machine.execCmdMemwr s
  | .cmdPatch => Sys2Proof.Machine.execCmdPatch s
  | .cmdIdent => Sys2Proof.Machine.execCmdIdent s
  | .cmdStatclr => Sys2Proof.Machine.execCmdStatclr s
  | .cmdCtxinfo => Sys2Proof.Machine.execCmdCtxinfo s
  | .cmdPwrcap => Sys2Proof.Machine.execCmdPwrcap s
  | .cmdNetcfg => Sys2Proof.Machine.execCmdNetcfg s
  | .powerMeasure => Sys2Proof.Machine.execPowerMeasure s
  | .hostRequest => Sys2Proof.Machine.execHostRequest s
  | .registerWrite => Sys2Proof.Machine.execRegisterWrite s
  | .powerUp => Sys2Proof.Machine.execPowerUp s
  | .powerLoss => Sys2Proof.Machine.execPowerLoss s
  | .queueWaiterAnswer => Sys2Proof.Machine.execQueueWaiterAnswer s
  | .transportRetransmission => Sys2Proof.Machine.execTransportRetransmission s

end Sys2Proof.Machine
end

