-- ==== Sys2Proof/Machine/Step.lean ====
section
/-! DEFINITION. One step of the machine, and how a program's instruction is placed where the next step fetches it. -/

namespace Sys2Proof.Machine

/-- One choice carried out. -/
def runChoice (c : Choice) (s : State) : Host.Outcome State Fault Refusal :=
  match c with
  | .event e => exec e.instr (s.started e)
  | .set fi =>
    match s.fetchInstr fi with
    | .ok i => exec i (s.fetched fi)
    | .error x => .next ((s.fetched fi).badStation fi x)

/-- One step: the next thing of the cycle under way takes place, an event that is due or a ready set that fires; where the cycle holds no more,
the next cycle begins, and with nothing to do, time goes on. -/
def step (s : State) : Host.Outcome State Fault Refusal :=
  let s := { s with ticks := s.ticks + 1 }
  let s := if s.batch.isEmpty then (let t := s.tick; { t with batch := t.cycleBatch }) else s
  match s.nextOf s.batch with
  | none => .next { s with batch := [] }
  | some (c, cs) => runChoice c ({ s with batch := cs }.readyFor c)

/-- The state `s` with an instruction at station 0 of slot 0 of tile 0 on die 0, and a set of empty tokens standing ready at it: the
word is bits 31 to 0, the side entry bits 95 to 32. The tile belongs to a region of context 0, which runs, and the set to an open
pass, so that the next step fires the set (log entry 7). -/
def State.withFetchWord (s : State) (_nbits w : Nat) : State :=
  let word := BitVec.ofNat 32 w
  let side := BitVec.ofNat 64 (w / 2 ^ 32)
  let slot : Slot := { st := .resident, words := [word], sides := [side] }
  let tok : Token := {}
  let fi : Firing := {
    region := 1, inst := 1,
    tokA := if fieldOf word 24 2 = 0 then some tok else none,
    tokB := if fieldOf word 22 2 = 0 then some tok else none }
  let l : Launch := { id := 1, ctx := 0, die := 0, queue := 0, head := 0, irq := false }
  let t : TileId := ⟨0, 0⟩
  let s := s.modTile t (fun x => { x with
    region := 1, slots := setAt x.slots 0 slot, passes := [{ id := 1, frame := 0, block := 0, quota := 64, handler := false }] })
  let s := s.modCtx 0 (fun c => { c with st := .running })
  { s with
    agenda := [], ready := [fi], batch := [], touched := [],
    regions := NMap.put s.regions 1 { launch := l, tiles := [t] } }

end Sys2Proof.Machine
end

