-- ==== Sys2Proof/WellFormed.lean ====
section
/-! DEFINITION. Well-formed instructions: a Larsum instruction that passes every check of 02 R39 that its station alone decides. The
machine's other steps are well formed as they stand. -/

namespace Sys2Proof

/-- The code of the first check of 02 R39 that an instruction fails by itself; none when it is well formed. -/
def Instr.failing (i : Instr) : Option Nat :=
  match i.parts with
  | none => none
  | some (m, n, f) => Machine.ownChecks.find? (fun c => Machine.stationFails c m.toNat n.toNat f)

/-- Well-formedness. -/
abbrev Instr.wf (i : Instr) : Prop := i.failing = none

end Sys2Proof
end

