-- ==== Sys2Proof/Laws/PerInstr.lean ====
section
/-! SUPPORT. The encoding, instruction by instruction: the word and side entry of each instruction decode to it, with every operand. -/

namespace Sys2Proof


theorem word_major (m : BitVec 6) (f : Fields) : (wordOf m f).extractLsb' 26 6 = m := by
  ext i hi
  have h : 26 + i - 2 - 2 - 4 - 7 - 7 - 2 - 2 = i := by omega
  rw [BitVec.getElem_extractLsb']
  simp only [wordOf, BitVec.getLsbD_append]
  rw [if_neg (by omega), if_neg (by omega), if_neg (by omega), if_neg (by omega), if_neg (by omega), if_neg (by omega), if_neg (by omega), h]
  exact BitVec.getLsbD_eq_getElem hi


theorem word_srcA (m : BitVec 6) (f : Fields) : (wordOf m f).extractLsb' 24 2 = f.srcA := by
  ext i hi
  have h : 24 + i - 2 - 2 - 4 - 7 - 7 - 2 = i := by omega
  rw [BitVec.getElem_extractLsb']
  simp only [wordOf, BitVec.getLsbD_append]
  rw [if_neg (by omega), if_neg (by omega), if_neg (by omega), if_neg (by omega), if_neg (by omega), if_neg (by omega), if_pos (by omega), h]
  exact BitVec.getLsbD_eq_getElem hi


theorem word_srcB (m : BitVec 6) (f : Fields) : (wordOf m f).extractLsb' 22 2 = f.srcB := by
  ext i hi
  have h : 22 + i - 2 - 2 - 4 - 7 - 7 = i := by omega
  rw [BitVec.getElem_extractLsb']
  simp only [wordOf, BitVec.getLsbD_append]
  rw [if_neg (by omega), if_neg (by omega), if_neg (by omega), if_neg (by omega), if_neg (by omega), if_pos (by omega), h]
  exact BitVec.getLsbD_eq_getElem hi


theorem word_dstA (m : BitVec 6) (f : Fields) : (wordOf m f).extractLsb' 15 7 = f.dstA := by
  ext i hi
  have h : 15 + i - 2 - 2 - 4 - 7 = i := by omega
  rw [BitVec.getElem_extractLsb']
  simp only [wordOf, BitVec.getLsbD_append]
  rw [if_neg (by omega), if_neg (by omega), if_neg (by omega), if_neg (by omega), if_pos (by omega), h]
  exact BitVec.getLsbD_eq_getElem hi


theorem word_dstB (m : BitVec 6) (f : Fields) : (wordOf m f).extractLsb' 8 7 = f.dstB := by
  ext i hi
  have h : 8 + i - 2 - 2 - 4 = i := by omega
  rw [BitVec.getElem_extractLsb']
  simp only [wordOf, BitVec.getLsbD_append]
  rw [if_neg (by omega), if_neg (by omega), if_neg (by omega), if_pos (by omega), h]
  exact BitVec.getLsbD_eq_getElem hi


theorem word_tag (m : BitVec 6) (f : Fields) : (wordOf m f).extractLsb' 4 4 = f.tag := by
  ext i hi
  have h : 4 + i - 2 - 2 = i := by omega
  rw [BitVec.getElem_extractLsb']
  simp only [wordOf, BitVec.getLsbD_append]
  rw [if_neg (by omega), if_neg (by omega), if_pos (by omega), h]
  exact BitVec.getLsbD_eq_getElem hi


theorem word_pm (m : BitVec 6) (f : Fields) : (wordOf m f).extractLsb' 2 2 = f.pm := by
  ext i hi
  have h : 2 + i - 2 = i := by omega
  rw [BitVec.getElem_extractLsb']
  simp only [wordOf, BitVec.getLsbD_append]
  rw [if_neg (by omega), if_pos (by omega), h]
  exact BitVec.getLsbD_eq_getElem hi


theorem word_ext (m : BitVec 6) (f : Fields) : (wordOf m f).extractLsb' 0 2 = f.ext := by
  ext i hi
  simp only [BitVec.getElem_extractLsb', wordOf, BitVec.getLsbD_append, Nat.zero_add, if_pos hi]
  exact BitVec.getLsbD_eq_getElem hi


theorem side_minor (n : BitVec 8) (f : Fields) : (sideOf n f).extractLsb' 56 8 = n := by
  ext i hi
  have h : 56 + i - 32 - 3 - 3 - 5 - 5 - 8 = i := by omega
  rw [BitVec.getElem_extractLsb']
  simp only [sideOf, BitVec.getLsbD_append]
  rw [if_neg (by omega), if_neg (by omega), if_neg (by omega), if_neg (by omega), if_neg (by omega), if_neg (by omega), h]
  exact BitVec.getLsbD_eq_getElem hi


theorem side_mod (n : BitVec 8) (f : Fields) : (sideOf n f).extractLsb' 48 8 = f.mod := by
  ext i hi
  have h : 48 + i - 32 - 3 - 3 - 5 - 5 = i := by omega
  rw [BitVec.getElem_extractLsb']
  simp only [sideOf, BitVec.getLsbD_append]
  rw [if_neg (by omega), if_neg (by omega), if_neg (by omega), if_neg (by omega), if_neg (by omega), if_pos (by omega), h]
  exact BitVec.getLsbD_eq_getElem hi


theorem side_ty (n : BitVec 8) (f : Fields) : (sideOf n f).extractLsb' 43 5 = f.ty := by
  ext i hi
  have h : 43 + i - 32 - 3 - 3 - 5 = i := by omega
  rw [BitVec.getElem_extractLsb']
  simp only [sideOf, BitVec.getLsbD_append]
  rw [if_neg (by omega), if_neg (by omega), if_neg (by omega), if_neg (by omega), if_pos (by omega), h]
  exact BitVec.getLsbD_eq_getElem hi


theorem side_sty (n : BitVec 8) (f : Fields) : (sideOf n f).extractLsb' 38 5 = f.sty := by
  ext i hi
  have h : 38 + i - 32 - 3 - 3 = i := by omega
  rw [BitVec.getElem_extractLsb']
  simp only [sideOf, BitVec.getLsbD_append]
  rw [if_neg (by omega), if_neg (by omega), if_neg (by omega), if_pos (by omega), h]
  exact BitVec.getLsbD_eq_getElem hi


theorem side_sa (n : BitVec 8) (f : Fields) : (sideOf n f).extractLsb' 35 3 = f.sa := by
  ext i hi
  have h : 35 + i - 32 - 3 = i := by omega
  rw [BitVec.getElem_extractLsb']
  simp only [sideOf, BitVec.getLsbD_append]
  rw [if_neg (by omega), if_neg (by omega), if_pos (by omega), h]
  exact BitVec.getLsbD_eq_getElem hi


theorem side_sb (n : BitVec 8) (f : Fields) : (sideOf n f).extractLsb' 32 3 = f.sb := by
  ext i hi
  have h : 32 + i - 32 = i := by omega
  rw [BitVec.getElem_extractLsb']
  simp only [sideOf, BitVec.getLsbD_append]
  rw [if_neg (by omega), if_pos (by omega), h]
  exact BitVec.getLsbD_eq_getElem hi


theorem side_lit (n : BitVec 8) (f : Fields) : (sideOf n f).extractLsb' 0 32 = f.lit := by
  ext i hi
  simp only [BitVec.getElem_extractLsb', sideOf, BitVec.getLsbD_append, Nat.zero_add, if_pos hi]
  exact BitVec.getLsbD_eq_getElem hi

/-- The fields of an encoded instruction are its own. -/
theorem fields_encoded (m : BitVec 6) (n : BitVec 8) (f : Fields) : fieldsOf (wordOf m f) (sideOf n f) = f := by
  simp only [fieldsOf, word_srcA, word_srcB, word_dstA, word_dstB, word_tag, word_pm, word_ext, side_mod, side_ty, side_sty,
    side_sa, side_sb, side_lit]

/-- What an encoded instruction decodes to is what its opcodes name. -/
theorem decode_encoded (m : BitVec 6) (n : BitVec 8) (f : Fields) :
    decode (wordOf m f) (sideOf n f) = decodeParts m.toNat n.toNat f := by
  simp only [decode, fields_encoded, word_major, side_minor]

namespace Laws.Coding

/-- Decoding the words of an instruction gives it back; the machine's other steps have no words. -/
def Statement (i : Instr) : Prop :=
  match encode i with
  | some (w, e) => decode w e = .ok i
  | none => i.parts = none

theorem ialuAdd (f : Fields) : Statement (.ialuAdd f) := decode_encoded 1 0 f

theorem ialuSub (f : Fields) : Statement (.ialuSub f) := decode_encoded 1 1 f

theorem ialuMul (f : Fields) : Statement (.ialuMul f) := decode_encoded 1 2 f

theorem ialuMulh (f : Fields) : Statement (.ialuMulh f) := decode_encoded 1 3 f

theorem ialuMin (f : Fields) : Statement (.ialuMin f) := decode_encoded 1 4 f

theorem ialuMax (f : Fields) : Statement (.ialuMax f) := decode_encoded 1 5 f

theorem ialuAnd (f : Fields) : Statement (.ialuAnd f) := decode_encoded 1 6 f

theorem ialuOr (f : Fields) : Statement (.ialuOr f) := decode_encoded 1 7 f

theorem ialuXor (f : Fields) : Statement (.ialuXor f) := decode_encoded 1 8 f

theorem ialuNot (f : Fields) : Statement (.ialuNot f) := decode_encoded 1 9 f

theorem ialuShl (f : Fields) : Statement (.ialuShl f) := decode_encoded 1 10 f

theorem ialuShr (f : Fields) : Statement (.ialuShr f) := decode_encoded 1 11 f

theorem ialuRot (f : Fields) : Statement (.ialuRot f) := decode_encoded 1 12 f

theorem ialuPopc (f : Fields) : Statement (.ialuPopc f) := decode_encoded 1 13 f

theorem ialuClz (f : Fields) : Statement (.ialuClz f) := decode_encoded 1 14 f

theorem ialuAbs (f : Fields) : Statement (.ialuAbs f) := decode_encoded 1 15 f

theorem icmpEq (f : Fields) : Statement (.icmpEq f) := decode_encoded 2 0 f

theorem icmpNe (f : Fields) : Statement (.icmpNe f) := decode_encoded 2 1 f

theorem icmpLt (f : Fields) : Statement (.icmpLt f) := decode_encoded 2 2 f

theorem icmpLe (f : Fields) : Statement (.icmpLe f) := decode_encoded 2 3 f

theorem icmpGt (f : Fields) : Statement (.icmpGt f) := decode_encoded 2 4 f

theorem icmpGe (f : Fields) : Statement (.icmpGe f) := decode_encoded 2 5 f

theorem icmpTst (f : Fields) : Statement (.icmpTst f) := decode_encoded 2 6 f

theorem addrAmov (f : Fields) : Statement (.addrAmov f) := decode_encoded 3 0 f

theorem addrAoff (f : Fields) : Statement (.addrAoff f) := decode_encoded 3 1 f

theorem addrAscale (f : Fields) : Statement (.addrAscale f) := decode_encoded 3 2 f

theorem addrApw (f : Fields) : Statement (.addrApw f) := decode_encoded 3 3 f

theorem addrAread (f : Fields) : Statement (.addrAread f) := decode_encoded 3 4 f

theorem vfmaFma (f : Fields) : Statement (.vfmaFma f) := decode_encoded 4 0 f

theorem vfmaFms (f : Fields) : Statement (.vfmaFms f) := decode_encoded 4 1 f

theorem vfmaFnma (f : Fields) : Statement (.vfmaFnma f) := decode_encoded 4 2 f

theorem vfmaFnms (f : Fields) : Statement (.vfmaFnms f) := decode_encoded 4 3 f

theorem vfmaDot (f : Fields) : Statement (.vfmaDot f) := decode_encoded 4 4 f

theorem vfmaDotacc (f : Fields) : Statement (.vfmaDotacc f) := decode_encoded 4 5 f

theorem vfarithFadd (f : Fields) : Statement (.vfarithFadd f) := decode_encoded 5 0 f

theorem vfarithFsub (f : Fields) : Statement (.vfarithFsub f) := decode_encoded 5 1 f

theorem vfarithFmul (f : Fields) : Statement (.vfarithFmul f) := decode_encoded 5 2 f

theorem vfarithFdiv (f : Fields) : Statement (.vfarithFdiv f) := decode_encoded 5 3 f

theorem vfarithFmin (f : Fields) : Statement (.vfarithFmin f) := decode_encoded 5 4 f

theorem vfarithFmax (f : Fields) : Statement (.vfarithFmax f) := decode_encoded 5 5 f

theorem vfarithFabs (f : Fields) : Statement (.vfarithFabs f) := decode_encoded 5 6 f

theorem vfarithFneg (f : Fields) : Statement (.vfarithFneg f) := decode_encoded 5 7 f

theorem vfarithFsqrt (f : Fields) : Statement (.vfarithFsqrt f) := decode_encoded 5 8 f

theorem vfarithFclass (f : Fields) : Statement (.vfarithFclass f) := decode_encoded 5 9 f

theorem vfarithFeq (f : Fields) : Statement (.vfarithFeq f) := decode_encoded 5 10 f

theorem vfarithFlt (f : Fields) : Statement (.vfarithFlt f) := decode_encoded 5 11 f

theorem vfarithFle (f : Fields) : Statement (.vfarithFle f) := decode_encoded 5 12 f

theorem vcvtCvt (f : Fields) : Statement (.vcvtCvt f) := decode_encoded 6 0 f

theorem vcvtFtoi (f : Fields) : Statement (.vcvtFtoi f) := decode_encoded 6 1 f

theorem vcvtItof (f : Fields) : Statement (.vcvtItof f) := decode_encoded 6 2 f

theorem vcvtCvtmx (f : Fields) : Statement (.vcvtCvtmx f) := decode_encoded 6 3 f

theorem vcvtUnmx (f : Fields) : Statement (.vcvtUnmx f) := decode_encoded 6 4 f

theorem vcvtSketch (f : Fields) : Statement (.vcvtSketch f) := decode_encoded 6 5 f

theorem vspecialExp2 (f : Fields) : Statement (.vspecialExp2 f) := decode_encoded 7 0 f

theorem vspecialLog2 (f : Fields) : Statement (.vspecialLog2 f) := decode_encoded 7 1 f

theorem vspecialRcp (f : Fields) : Statement (.vspecialRcp f) := decode_encoded 7 2 f

theorem vspecialRsqrt (f : Fields) : Statement (.vspecialRsqrt f) := decode_encoded 7 3 f

theorem vspecialTanh (f : Fields) : Statement (.vspecialTanh f) := decode_encoded 7 4 f

theorem vspecialSigm (f : Fields) : Statement (.vspecialSigm f) := decode_encoded 7 5 f

theorem vredRsum (f : Fields) : Statement (.vredRsum f) := decode_encoded 8 0 f

theorem vredRmax (f : Fields) : Statement (.vredRmax f) := decode_encoded 8 1 f

theorem vredRmin (f : Fields) : Statement (.vredRmin f) := decode_encoded 8 2 f

theorem vredRsumsq (f : Fields) : Statement (.vredRsumsq f) := decode_encoded 8 3 f

theorem vpermBcast (f : Fields) : Statement (.vpermBcast f) := decode_encoded 9 0 f

theorem vpermShuf (f : Fields) : Statement (.vpermShuf f) := decode_encoded 9 1 f

theorem vpermSlide (f : Fields) : Statement (.vpermSlide f) := decode_encoded 9 2 f

theorem vpermZip (f : Fields) : Statement (.vpermZip f) := decode_encoded 9 3 f

theorem vpermUnzip (f : Fields) : Statement (.vpermUnzip f) := decode_encoded 9 4 f

theorem steerSteer (f : Fields) : Statement (.steerSteer f) := decode_encoded 10 0 f

theorem steerRoute (f : Fields) : Statement (.steerRoute f) := decode_encoded 10 1 f

theorem steerSel (f : Fields) : Statement (.steerSel f) := decode_encoded 10 2 f

theorem mergeMerge (f : Fields) : Statement (.mergeMerge f) := decode_encoded 11 0 f

theorem mergeMergeo (f : Fields) : Statement (.mergeMergeo f) := decode_encoded 11 1 f

theorem gateGate (f : Fields) : Statement (.gateGate f) := decode_encoded 12 0 f

theorem gateNullify (f : Fields) : Statement (.gateNullify f) := decode_encoded 12 1 f

theorem gateDup (f : Fields) : Statement (.gateDup f) := decode_encoded 12 2 f

theorem tagopGetit (f : Fields) : Statement (.tagopGetit f) := decode_encoded 13 0 f

theorem tagopGetfr (f : Fields) : Statement (.tagopGetfr f) := decode_encoded 13 1 f

theorem tagopGetph (f : Fields) : Statement (.tagopGetph f) := decode_encoded 13 2 f

theorem tagopSetit (f : Fields) : Statement (.tagopSetit f) := decode_encoded 13 3 f

theorem tagopSetph (f : Fields) : Statement (.tagopSetph f) := decode_encoded 13 4 f

theorem spawnSpawn (f : Fields) : Statement (.spawnSpawn f) := decode_encoded 14 0 f

theorem spawnSpawnn (f : Fields) : Statement (.spawnSpawnn f) := decode_encoded 14 1 f

theorem spawnSpawnr (f : Fields) : Statement (.spawnSpawnr f) := decode_encoded 14 2 f

theorem joinJoin (f : Fields) : Statement (.joinJoin f) := decode_encoded 15 0 f

theorem joinJoinall (f : Fields) : Statement (.joinJoinall f) := decode_encoded 15 1 f

theorem exitExit (f : Fields) : Statement (.exitExit f) := decode_encoded 16 0 f

theorem exitAbort (f : Fields) : Statement (.exitAbort f) := decode_encoded 16 1 f

theorem stateSld (f : Fields) : Statement (.stateSld f) := decode_encoded 17 0 f

theorem stateSst (f : Fields) : Statement (.stateSst f) := decode_encoded 17 1 f

theorem stateSacc (f : Fields) : Statement (.stateSacc f) := decode_encoded 17 2 f

theorem stateSclr (f : Fields) : Statement (.stateSclr f) := decode_encoded 17 3 f

theorem ldlLdl (f : Fields) : Statement (.ldlLdl f) := decode_encoded 18 0 f

theorem ldlLdls (f : Fields) : Statement (.ldlLdls f) := decode_encoded 18 1 f

theorem ldlLdlx (f : Fields) : Statement (.ldlLdlx f) := decode_encoded 18 2 f

theorem stlStl (f : Fields) : Statement (.stlStl f) := decode_encoded 19 0 f

theorem stlStls (f : Fields) : Statement (.stlStls f) := decode_encoded 19 1 f

theorem stlStlx (f : Fields) : Statement (.stlStlx f) := decode_encoded 19 2 f

theorem ldLd (f : Fields) : Statement (.ldLd f) := decode_encoded 20 0 f

theorem ldLdnt (f : Fields) : Statement (.ldLdnt f) := decode_encoded 20 1 f

theorem ldLdpw (f : Fields) : Statement (.ldLdpw f) := decode_encoded 20 2 f

theorem ldLdfc (f : Fields) : Statement (.ldLdfc f) := decode_encoded 20 3 f

theorem ldFcinv (f : Fields) : Statement (.ldFcinv f) := decode_encoded 20 4 f

theorem stSt (f : Fields) : Statement (.stSt f) := decode_encoded 21 0 f

theorem stStnt (f : Fields) : Statement (.stStnt f) := decode_encoded 21 1 f

theorem gatherGath (f : Fields) : Statement (.gatherGath f) := decode_encoded 22 0 f

theorem gatherGathw (f : Fields) : Statement (.gatherGathw f) := decode_encoded 22 1 f

theorem scatterScat (f : Fields) : Statement (.scatterScat f) := decode_encoded 23 0 f

theorem scatterScatm (f : Fields) : Statement (.scatterScatm f) := decode_encoded 23 1 f

theorem atomAtadd (f : Fields) : Statement (.atomAtadd f) := decode_encoded 24 0 f

theorem atomAtmin (f : Fields) : Statement (.atomAtmin f) := decode_encoded 24 1 f

theorem atomAtmax (f : Fields) : Statement (.atomAtmax f) := decode_encoded 24 2 f

theorem atomAtand (f : Fields) : Statement (.atomAtand f) := decode_encoded 24 3 f

theorem atomAtor (f : Fields) : Statement (.atomAtor f) := decode_encoded 24 4 f

theorem atomAtxor (f : Fields) : Statement (.atomAtxor f) := decode_encoded 24 5 f

theorem atomAtxchg (f : Fields) : Statement (.atomAtxchg f) := decode_encoded 24 6 f

theorem atomAtcas (f : Fields) : Statement (.atomAtcas f) := decode_encoded 24 7 f

theorem atomAtcasw (f : Fields) : Statement (.atomAtcasw f) := decode_encoded 24 8 f

theorem atomAtfadd (f : Fields) : Statement (.atomAtfadd f) := decode_encoded 24 9 f

theorem orderAcq (f : Fields) : Statement (.orderAcq f) := decode_encoded 25 0 f

theorem orderRel (f : Fields) : Statement (.orderRel f) := decode_encoded 25 1 f

theorem orderAcqrel (f : Fields) : Statement (.orderAcqrel f) := decode_encoded 25 2 f

theorem orderFence (f : Fields) : Statement (.orderFence f) := decode_encoded 25 3 f

theorem barBarinit (f : Fields) : Statement (.barBarinit f) := decode_encoded 26 0 f

theorem barBarjoin (f : Fields) : Statement (.barBarjoin f) := decode_encoded 26 1 f

theorem barBarwait (f : Fields) : Statement (.barBarwait f) := decode_encoded 26 2 f

theorem mmaMldb (f : Fields) : Statement (.mmaMldb f) := decode_encoded 27 0 f

theorem mmaMrow (f : Fields) : Statement (.mmaMrow f) := decode_encoded 27 1 f

theorem mmaMgat (f : Fields) : Statement (.mmaMgat f) := decode_encoded 27 2 f

theorem mmaMscale (f : Fields) : Statement (.mmaMscale f) := decode_encoded 27 3 f

theorem mmaMend (f : Fields) : Statement (.mmaMend f) := decode_encoded 27 4 f

theorem mmaMdrain (f : Fields) : Statement (.mmaMdrain f) := decode_encoded 27 5 f

theorem maccAcinit (f : Fields) : Statement (.maccAcinit f) := decode_encoded 28 0 f

theorem maccAcadd (f : Fields) : Statement (.maccAcadd f) := decode_encoded 28 1 f

theorem maccAcread (f : Fields) : Statement (.maccAcread f) := decode_encoded 28 2 f

theorem maccAcsave (f : Fields) : Statement (.maccAcsave f) := decode_encoded 28 3 f

theorem maccAcload (f : Fields) : Statement (.maccAcload f) := decode_encoded 28 4 f

theorem msparseMsldb (f : Fields) : Statement (.msparseMsldb f) := decode_encoded 29 0 f

theorem msparseMsmeta (f : Fields) : Statement (.msparseMsmeta f) := decode_encoded 29 1 f

theorem msparseMsrow (f : Fields) : Statement (.msparseMsrow f) := decode_encoded 29 2 f

theorem kputKput (f : Fields) : Statement (.kputKput f) := decode_encoded 30 0 f

theorem kputKputs (f : Fields) : Statement (.kputKputs f) := decode_encoded 30 1 f

theorem kputKdrop (f : Fields) : Statement (.kputKdrop f) := decode_encoded 30 2 f

theorem kputKseq (f : Fields) : Statement (.kputKseq f) := decode_encoded 30 3 f

theorem kputKfork (f : Fields) : Statement (.kputKfork f) := decode_encoded 30 4 f

theorem kqueryKq (f : Fields) : Statement (.kqueryKq f) := decode_encoded 31 0 f

theorem kqueryKqd (f : Fields) : Statement (.kqueryKqd f) := decode_encoded 31 1 f

theorem kqueryKqsk (f : Fields) : Statement (.kqueryKqsk f) := decode_encoded 31 2 f

theorem kqueryKmerge (f : Fields) : Statement (.kqueryKmerge f) := decode_encoded 31 3 f

theorem smaxSmref (f : Fields) : Statement (.smaxSmref f) := decode_encoded 32 0 f

theorem smaxSmacc (f : Fields) : Statement (.smaxSmacc f) := decode_encoded 32 1 f

theorem smaxSmnorm (f : Fields) : Statement (.smaxSmnorm f) := decode_encoded 32 2 f

theorem smaxSmresc (f : Fields) : Statement (.smaxSmresc f) := decode_encoded 32 3 f

theorem smaxSmflag (f : Fields) : Statement (.smaxSmflag f) := decode_encoded 32 4 f

theorem rmtRld (f : Fields) : Statement (.rmtRld f) := decode_encoded 33 0 f

theorem rmtRst (f : Fields) : Statement (.rmtRst f) := decode_encoded 33 1 f

theorem rmtRadd (f : Fields) : Statement (.rmtRadd f) := decode_encoded 33 2 f

theorem rmtRcas (f : Fields) : Statement (.rmtRcas f) := decode_encoded 33 3 f

theorem rmtRxchg (f : Fields) : Statement (.rmtRxchg f) := decode_encoded 33 4 f

theorem rmtRpf (f : Fields) : Statement (.rmtRpf f) := decode_encoded 33 5 f

theorem rrelRelopen (f : Fields) : Statement (.rrelRelopen f) := decode_encoded 34 0 f

theorem rrelRelflag (f : Fields) : Statement (.rrelRelflag f) := decode_encoded 34 1 f

theorem rrelRelwait (f : Fields) : Statement (.rrelRelwait f) := decode_encoded 34 2 f

theorem rrelRelabort (f : Fields) : Statement (.rrelRelabort f) := decode_encoded 34 3 f

theorem netPost (f : Fields) : Statement (.netPost f) := decode_encoded 35 0 f

theorem netWait (f : Fields) : Statement (.netWait f) := decode_encoded 35 1 f

theorem netNcget (f : Fields) : Statement (.netNcget f) := decode_encoded 35 2 f

theorem netNcset (f : Fields) : Statement (.netNcset f) := decode_encoded 35 3 f

theorem netCancel (f : Fields) : Statement (.netCancel f) := decode_encoded 35 4 f

theorem netNfence (f : Fields) : Statement (.netNfence f) := decode_encoded 35 5 f

theorem netNstat (f : Fields) : Statement (.netNstat f) := decode_encoded 35 6 f

theorem gramStep (f : Fields) : Statement (.gramStep f) := decode_encoded 36 0 f

theorem gramMask (f : Fields) : Statement (.gramMask f) := decode_encoded 36 1 f

theorem gramGstate (f : Fields) : Statement (.gramGstate f) := decode_encoded 36 2 f

theorem gramGset (f : Fields) : Statement (.gramGset f) := decode_encoded 36 3 f

theorem gramGreset (f : Fields) : Statement (.gramGreset f) := decode_encoded 36 4 f

theorem xferCopy (f : Fields) : Statement (.xferCopy f) := decode_encoded 37 0 f

theorem xferCopy2d (f : Fields) : Statement (.xferCopy2d f) := decode_encoded 37 1 f

theorem xferFill (f : Fields) : Statement (.xferFill f) := decode_encoded 37 2 f

theorem sysClock (f : Fields) : Statement (.sysClock f) := decode_encoded 38 0 f

theorem sysTileid (f : Fields) : Statement (.sysTileid f) := decode_encoded 38 1 f

theorem sysTimer (f : Fields) : Statement (.sysTimer f) := decode_encoded 38 2 f

theorem sysCtxst (f : Fields) : Statement (.sysCtxst f) := decode_encoded 38 3 f

theorem sysCtxend (f : Fields) : Statement (.sysCtxend f) := decode_encoded 38 4 f

theorem trapTrap (f : Fields) : Statement (.trapTrap f) := decode_encoded 39 0 f

theorem trapTret (f : Fields) : Statement (.trapTret f) := decode_encoded 39 1 f

theorem dbgBrk (f : Fields) : Statement (.dbgBrk f) := decode_encoded 40 0 f

theorem dbgTrace (f : Fields) : Statement (.dbgTrace f) := decode_encoded 40 1 f

theorem dbgHist (f : Fields) : Statement (.dbgHist f) := decode_encoded 40 2 f

theorem accnIntv (f : Fields) : Statement (.accnIntv f) := decode_encoded 41 0 f

theorem accnArec (f : Fields) : Statement (.accnArec f) := decode_encoded 41 1 f

theorem aspaceInval (f : Fields) : Statement (.aspaceInval f) := decode_encoded 42 0 f

theorem aspacePgattr (f : Fields) : Statement (.aspacePgattr f) := decode_encoded 42 1 f

theorem aspaceLpin (f : Fields) : Statement (.aspaceLpin f) := decode_encoded 42 2 f

theorem aspaceLquery (f : Fields) : Statement (.aspaceLquery f) := decode_encoded 42 3 f

theorem tokenArrival : Statement .tokenArrival := rfl

theorem spillProbeDone : Statement .spillProbeDone := rfl

theorem spillRefill : Statement .spillRefill := rfl

theorem schedulerDecision : Statement .schedulerDecision := rfl

theorem blockLoadDone : Statement .blockLoadDone := rfl

theorem instanceAdmit : Statement .instanceAdmit := rfl

theorem commitDrain : Statement .commitDrain := rfl

theorem fullEmptyWaitPerform : Statement .fullEmptyWaitPerform := rfl

theorem forwardingRetire : Statement .forwardingRetire := rfl

theorem scratchpadClearDone : Statement .scratchpadClearDone := rfl

theorem qtailWrite : Statement .qtailWrite := rfl

theorem queueDecision : Statement .queueDecision := rfl

theorem launchRecordCheck : Statement .launchRecordCheck := rfl

theorem leaseResidencyCheck : Statement .leaseResidencyCheck := rfl

theorem reswaitTimeout : Statement .reswaitTimeout := rfl

theorem regionConfigured : Statement .regionConfigured := rfl

theorem heldLaunchConfigure : Statement .heldLaunchConfigure := rfl

theorem quiescenceWave : Statement .quiescenceWave := rfl

theorem phaseSum : Statement .phaseSum := rfl

theorem agPortIssue : Statement .agPortIssue := rfl

theorem ownerPerform : Statement .ownerPerform := rfl

theorem tlbMissFill : Statement .tlbMissFill := rfl

theorem soHeldPerform : Statement .soHeldPerform := rfl

theorem replyDelivery : Statement .replyDelivery := rfl

theorem byteCredit : Statement .byteCredit := rfl

theorem barwaitRetry : Statement .barwaitRetry := rfl

theorem orderConditionMet : Statement .orderConditionMet := rfl

theorem drainTokenArrival : Statement .drainTokenArrival := rfl

theorem streamerTakeCopy : Statement .streamerTakeCopy := rfl

theorem islandCommandEntry : Statement .islandCommandEntry := rfl

theorem rowUpdateLand : Statement .rowUpdateLand := rfl

theorem releaseTokenOut : Statement .releaseTokenOut := rfl

theorem rampWindow : Statement .rampWindow := rfl

theorem forecastUpdate : Statement .forecastUpdate := rfl

theorem keystoreCompletion : Statement .keystoreCompletion := rfl

theorem gramRequestPerform : Statement .gramRequestPerform := rfl

theorem packetHop : Statement .packetHop := rfl

theorem creditReturn : Statement .creditReturn := rfl

theorem packetAgeDrop : Statement .packetAgeDrop := rfl

theorem requestTimeoutResend : Statement .requestTimeoutResend := rfl

theorem linkRetrainRequest : Statement .linkRetrainRequest := rfl

theorem trainingComplete : Statement .trainingComplete := rfl

theorem confirmViews : Statement .confirmViews := rfl

theorem retrainTimeout : Statement .retrainTimeout := rfl

theorem releaseWriteArrival : Statement .releaseWriteArrival := rfl

theorem releaseFlagArrival : Statement .releaseFlagArrival := rfl

theorem releaseCompleteArrival : Statement .releaseCompleteArrival := rfl

theorem gapReportArrival : Statement .gapReportArrival := rfl

theorem groupAbortArrival : Statement .groupAbortArrival := rfl

theorem flagResendTimer : Statement .flagResendTimer := rfl

theorem abortResendTimer : Statement .abortResendTimer := rfl

theorem gapTimer : Statement .gapTimer := rfl

theorem receiveEntryExpiry : Statement .receiveEntryExpiry := rfl

theorem relopenSpacingExpiry : Statement .relopenSpacingExpiry := rfl

theorem incarnationNotice : Statement .incarnationNotice := rfl

theorem netMessageSend : Statement .netMessageSend := rfl

theorem netPacketReceive : Statement .netPacketReceive := rfl

theorem netLocalCompletion : Statement .netLocalCompletion := rfl

theorem netTransportAbandon : Statement .netTransportAbandon := rfl

theorem accHeadWrite : Statement .accHeadWrite := rfl

theorem accTailWrite : Statement .accTailWrite := rfl

theorem replayTimeout : Statement .replayTimeout := rfl

theorem intervalBoundary : Statement .intervalBoundary := rfl

theorem firstWriteCopy : Statement .firstWriteCopy := rfl

theorem rollback : Statement .rollback := rfl

theorem memoryUncorrectable : Statement .memoryUncorrectable := rfl

theorem preemptSaveComplete : Statement .preemptSaveComplete := rfl

theorem mailboxWrite : Statement .mailboxWrite := rfl

theorem restoreProceed : Statement .restoreProceed := rfl

theorem catHeadWrite : Statement .catHeadWrite := rfl

theorem hangIntervalExpiry : Statement .hangIntervalExpiry := rfl

theorem curCtailWrite : Statement .curCtailWrite := rfl

theorem curEheadWrite : Statement .curEheadWrite := rfl

theorem cmdCreate : Statement .cmdCreate := rfl

theorem cmdDestroy : Statement .cmdDestroy := rfl

theorem cmdResident : Statement .cmdResident := rfl

theorem cmdEvict : Statement .cmdEvict := rfl

theorem cmdMode : Statement .cmdMode := rfl

theorem cmdRegw : Statement .cmdRegw := rfl

theorem cmdMap : Statement .cmdMap := rfl

theorem cmdUnmap : Statement .cmdUnmap := rfl

theorem cmdProtect : Statement .cmdProtect := rfl

theorem cmdResdone : Statement .cmdResdone := rfl

theorem cmdResfail : Statement .cmdResfail := rfl

theorem cmdPreempt : Statement .cmdPreempt := rfl

theorem cmdRestore : Statement .cmdRestore := rfl

theorem cmdResume : Statement .cmdResume := rfl

theorem cmdKill : Statement .cmdKill := rfl

theorem cmdTrapw : Statement .cmdTrapw := rfl

theorem cmdGramw : Statement .cmdGramw := rfl

theorem cmdGramwClear : Statement .cmdGramwClear := rfl

theorem cmdEpw : Statement .cmdEpw := rfl

theorem cmdWinw : Statement .cmdWinw := rfl

theorem cmdWatchAdd : Statement .cmdWatchAdd := rfl

theorem cmdWatchClear : Statement .cmdWatchClear := rfl

theorem cmdObsread : Statement .cmdObsread := rfl

theorem cmdVitrineFreeze : Statement .cmdVitrineFreeze := rfl

theorem cmdVitrineThaw : Statement .cmdVitrineThaw := rfl

theorem cmdLinkrst : Statement .cmdLinkrst := rfl

theorem cmdMemrd : Statement .cmdMemrd := rfl

theorem cmdMemwr : Statement .cmdMemwr := rfl

theorem cmdPatch : Statement .cmdPatch := rfl

theorem cmdIdent : Statement .cmdIdent := rfl

theorem cmdStatclr : Statement .cmdStatclr := rfl

theorem cmdCtxinfo : Statement .cmdCtxinfo := rfl

theorem cmdPwrcap : Statement .cmdPwrcap := rfl

theorem cmdNetcfg : Statement .cmdNetcfg := rfl

theorem powerMeasure : Statement .powerMeasure := rfl

theorem hostRequest : Statement .hostRequest := rfl

theorem registerWrite : Statement .registerWrite := rfl

theorem powerUp : Statement .powerUp := rfl

theorem powerLoss : Statement .powerLoss := rfl

theorem queueWaiterAnswer : Statement .queueWaiterAnswer := rfl

theorem transportRetransmission : Statement .transportRetransmission := rfl

end Laws.Coding

end Sys2Proof
end

