-- ==== Sys2Proof/Safety.lean ====
section
/-! DEFINITION. What counts as a safe run, the invariant of the state, and the words that statements about firings use. -/

namespace Sys2Proof

open Machine

/-- A step does not stop the machine. -/
def Safe (s : State) : Prop := ∃ t, step s = .next t

/-- The memories of the machine have their canonical form: the package's LPDDR6 and the host's memory. -/
def MemInv (s : State) : Prop := Memory.wf s.mem = true ∧ Memory.wf s.hostMem = true

/-! ### Firings (04 R75) -/

/-- The current set fires its station with its own effect: no token of it is null, its predicate matches, its sync level is not the
last one that a boundary must reset (11 R424), and what it writes into state registers (`regs`) is logged where it must be, which
leaves the state `u` (05 R110). -/
structure Fires (f : Fields) (regs : List Nat) (s u : State) : Prop where
  live : s.cur.anyNull = false
  pred : predOk f s.cur.stTag = true
  level : s.level (s.regionCtx s.cur.region) = 0 ∨ s.cur.stTag.level.toNat ≠ 2 ^ 32 - 1
  gate : s.sregGate s.cur regs = .go u

/-- What a firing at `s` ends in when its effect leaves `t`: `t` itself, or the hang fault of 05 R103 when the pass of the set has no
entry left for a held effect; the slot's time of its last firing is kept (05 R111). -/
def finished (f : Fields) (s t : State) : State := (s.settle ⟨s.cur, f⟩ t).noteFired s.cur

/-- The set consumed and a value emitted under the station tag (07 R143). -/
def valueOut (f : Fields) (s u : State) (v : Bytes) : State := (u.consume s.cur).emit2 ⟨s.cur, f⟩ .value v

/-- The operand of a side of the current set, read in an element type. -/
def opIn (f : Fields) (s u : State) (t : Ty) (sideB : Bool) : Bytes := operandIn u ⟨s.cur, f⟩ t sideB

/-! ### Packets and requests (14 R294, 10 R206) -/

/-- A packet has been sent from a die in a state: its first hop is due, or, when the die is its own destination, its arrival there at the age
that the mesh gives it, at which it may be dropped (14 R298). -/
def Leaves (d : Nat) (q : Packet) (t : State) : Prop :=
  if q.to_ = t.code d ∧ q.toHost = false then
    ∃ tick, if t.tooOld d (aged tick q) = true then .packetAgeDrop d (aged tick q) ∈ t.agenda
      else ∀ e, arrivalEvent d (aged tick q) = some e → e ∈ t.agenda
  else .packetHop d q ∈ t.agenda

/-- A request at its owner that nothing holds back: it is mapped at the key, it is not ahead of its SO stream (11 R230), no first-write
copy is due for it (17 R359) and no performed access conflicts with it (11 R237). -/
structure AtSlice (s : State) (d : Nat) (p : Packet) (key : Nat) : Prop where
  mapped : s.pktKey d p = some key
  turn : s.soAhead d p = false
  copied : s.copyNeed d p key = none
  order : (s.noteAccess d p).1 = []

/-- What a memory holds after a run of bytes has been stored at an address: those bytes, and every other byte as before. -/
def Stored (m m' : Memory) (a : Nat) (bs : Bytes) : Prop :=
  ∀ x, Memory.get m' x = if a ≤ x ∧ x < a + bs.length then byteAt bs (x - a) else Memory.get m x

end Sys2Proof
end

