-- ==== Sys2Proof/Certificates/Slice0/Obligations.lean ====
section
/-! DEFINITION. The statements for the provers: what the spec says the machine and its instructions do. -/

open Sys2Proof Sys2Proof.Machine

/-- 02 R22, R30, R34, R35: no bit of a word or side entry is dropped, no two instructions share words, and each has one encoding. -/
def Obligations.DecodeEncode : Prop :=
  (∀ (i : Instr) (w : BitVec 32) (e : BitVec 64), encode i = some (w, e) ↔ decode w e = .ok i)
  ∧ ∀ i : Instr, encode i = none ↔ i.parts = none

/-- 02 R34, R35: the assigned opcodes; 195 instructions in 42 classes. The two errors are what checks 0x01 and 0x02 of 02 R39 report. -/
def Obligations.DecodableOpcodes : Prop :=
  let counts : List Nat := [16, 7, 5, 6, 13, 6, 6, 4, 5, 3, 2, 3, 5, 3, 2, 2, 4, 3, 3, 5, 2, 2, 2, 10, 4, 3, 6, 5, 3, 5, 4, 5, 6, 4, 7, 5, 3,
    5, 2, 3, 2, 4]
  counts.sum = 195 ∧
  ∀ (w : BitVec 32) (e : BitVec 64),
    let major := w.toNat / 2 ^ 26
    let minor := e.toNat / 2 ^ 56
    (major = 0 ∨ 0x2A < major → decode w e = .error (.reservedMajor major))
    ∧ (1 ≤ major → ∀ n, counts[major - 1]? = some n →
        (minor < n → ∃ i, decode w e = .ok i)
        ∧ (n ≤ minor → decode w e = .error (.unassignedMinor major minor)))

/-- Worked encodings of 04, 05, 07, 12, 14 and 18: the word, the side entry, the instruction with its fields srcA, srcB, dstA, dstB, tag, pm,
ext, mod, ty, sty, sa, sb, lit. -/
def Obligations.DecodeWords : Prop :=
  decode 0x40217F00 0x3 = .ok (.exitExit ⟨0, 0, 0x42, 0x7F, 0, 0, 0, 0, 0, 0, 0, 0, 3⟩)
  ∧ decode 0x40E3FF00 0x0100000000000000 = .ok (.exitAbort ⟨0, 3, 0x47, 0x7F, 0, 0, 0, 0, 0, 0, 0, 0, 0⟩)
  ∧ decode 0x04065200 0x0020500000000000 = .ok (.ialuAdd ⟨0, 0, 0x0C, 0x52, 0, 0, 0, 32, 10, 0, 0, 0, 0⟩)
  ∧ decode 0x0C457F00 0x0200000000000603 = .ok (.addrAscale ⟨0, 1, 0x0A, 0x7F, 0, 0, 0, 0, 0, 0, 0, 0, 0x603⟩)
  ∧ decode 0x10097F00 0x0000100000000124 = .ok (.vfmaFma ⟨0, 0, 0x12, 0x7F, 0, 0, 0, 0, 2, 0, 0, 0, 0x124⟩)
  ∧ decode 0x28030A00 0x0000000000000001 = .ok (.steerSteer ⟨0, 0, 0x06, 0x0A, 0, 0, 0, 0, 0, 0, 0, 0, 1⟩)
  ∧ decode 0x44CF7F00 0x0200000000088083 = .ok (.stateSacc ⟨0, 3, 0x1E, 0x7F, 0, 0, 0, 0, 0, 0, 0, 0, 0x88083⟩)
  ∧ decode 0x6CC47F00 0x0100380000000001 = .ok (.mmaMrow ⟨0, 3, 0x08, 0x7F, 0, 0, 0, 0, 7, 0, 0, 0, 1⟩)
  ∧ decode 0x842CFF00 0x0100780000000000 = .ok (.rmtRst ⟨0, 0, 0x59, 0x7F, 0, 0, 0, 0, 15, 0, 0, 0, 0⟩)
  ∧ decode 0x9CC67F00 0x3 = .ok (.trapTrap ⟨0, 3, 0x0C, 0x7F, 0, 0, 0, 0, 0, 0, 0, 0, 3⟩)

/-- 04 R75, 05 R109: what one step is, in terms of exec. What a cycle holds is an open choice (log entries 1 and 44). -/
def Obligations.StepRunsDecoded : Prop :=
  ∀ (s : State),
    let u : State := { s with ticks := s.ticks + 1 }
    let v : State := if s.batch = [] then { u.tick with batch := u.tick.cycleBatch } else u
    (v.nextOf v.batch = none → step s = .next { v with batch := [] })
    ∧ ∀ (c : Choice) (cs : List Choice), v.nextOf v.batch = some (c, cs) →
        let k := (v.cycleKey c).headD 0
        let w : State := { v with batch := cs }
        let t : State := if k < 3 then w else if k < 8 then w.closeCycle else w.closeCycle.writeLogs
        (∀ (fi : Firing) (i : Instr), c = .set fi →
          decode ((t.tile ⟨fi.die, fi.tile⟩).station fi.slot fi.station).1 ((t.tile ⟨fi.die, fi.tile⟩).station fi.slot fi.station).2 = .ok i →
          step s = exec i { t with ready := removeFirst (fun x => x = fi) t.ready, cur := fi })
        ∧ (∀ (fi : Firing) (x : DecodeError), c = .set fi →
          decode ((t.tile ⟨fi.die, fi.tile⟩).station fi.slot fi.station).1 ((t.tile ⟨fi.die, fi.tile⟩).station fi.slot fi.station).2 = .error x →
          step s = .next ({ t with ready := removeFirst (fun x => x = fi) t.ready, cur := fi }.badStation fi x))
        ∧ (∀ (e : Event), c = .event e →
          step s = exec e.instr { t with agenda := removeFirst (fun x => x = e) t.agenda, ev := e })

/-- 05 R109, R110, 07 R140, R142, 10 R207: the things of one cycle and their order. Which of those that may take place fall into one
cycle is an open choice (log entry 1). -/
def Obligations.CycleOrder : Prop :=
  ∀ (s : State),
    (∀ c ∈ s.cycleBatch, c ∈ s.choices)
    ∧ (∀ fi, .set fi ∈ s.choices → fi ∈ s.ready ∧ s.canFire fi = true ∧ s.interlocked fi = false)
    ∧ (∀ e, .event e ∈ s.choices → e ∈ s.agenda ∧ s.mayHappen e = true)
    ∧ (s.choices ≠ [] → s.cycleBatch ≠ [])
    ∧ s.cycleBatch.Pairwise (fun a b => lexLt (s.cycleKey b) (s.cycleKey a) = false ∧ ∀ p ∈ s.portsOf a, p ∉ s.portsOf b)
    ∧ (∀ l c cs, s.nextOf l = some (c, cs) → ∃ skipped, l = skipped ++ c :: cs ∧ s.still c = true ∧ ∀ x ∈ skipped, s.still x = false)
    ∧ ∀ l, s.nextOf l = none ↔ ∀ x ∈ l, s.still x = false

/-- The Reset columns of 05 R111, 06 R128, 07 R145, 09 R194, 11 R239, 14 R313 to R315, 17 R354 to R357, 18 R367 and R370, 19 R385, 20 R405 and R413. -/
def Obligations.ResetValues : Prop :=
  let s := State.reset
  s.agenda = [.powerUp] ∧ s.ready = [] ∧ s.batch = [] ∧ s.mem = [] ∧ s.hostMem = [] ∧ s.regions = [] ∧ s.launches = []
  ∧ (∀ t : TileId, ∀ k, (s.tile t).aregs.getD k 0 = 0 ∧ ((s.tile t).wregs.getD k (List.replicate 32 0x7F)) = List.replicate 32 0x7F
      ∧ (s.tile t).sreg k = zeros 128 ∧ (s.tile t).mstoreStat = 0 ∧ (s.tile t).spadStatus = 0 ∧ (s.tile t).agqStatus = 0
      ∧ (s.tile t).kstoreStat = 0)
  ∧ (∀ d, (s.die d).bsched = 8 ∧ fieldOf (s.die d).aspCtl 8 16 = 100 ∧ fieldOf (s.die d).memord 4 8 = 16
      ∧ fieldOf (s.die d).cctl 0 16 = 20 ∧ fieldOf (s.die d).cctl 16 16 = 50 ∧ fieldOf (s.die d).cctl 40 8 = 80
      ∧ (s.die d).cstat = 0 ∧ (∀ l, fieldOf (Link.stat l (s.link d l)) 0 3 = 4) ∧ (s.die d).accCtl = 5000
      ∧ (s.die d).tbk = List.replicate 4 0 ∧ (s.die d).tbf = List.replicate 4 0
      ∧ (s.die d).rings.cq = 6 ∧ (s.die d).rings.eq = 8 ∧ (s.die d).rings.chead = 0 ∧ (s.die d).rings.ctail = 0
      ∧ (s.die d).rings.ehead = 0 ∧ (s.die d).rings.etail = 0 ∧ (s.die d).boot.stat = 0 ∧ (s.die d).boot.patch = 0
      ∧ fieldOf (s.die d).ramp.ctl 32 18 = 197600 ∧ fieldOf (s.die d).ramp.ctl 16 16 = 4096 ∧ fieldOf (s.die d).ramp.ctl 0 16 = 4096
      ∧ ∀ q, let x := NMap.getD (s.die d).queues q {}
          x.base = 0 ∧ x.head = 0 ∧ x.tail = 0 ∧ fieldOf x.ctl 24 4 = 1 ∧ fieldOf x.ctl 20 4 = 1 ∧ fieldOf x.ctl 0 20 = 0
          ∧ fieldOf x.ctl 61 3 = 0)
  ∧ ∀ c, (s.ctx c).st = .free ∧ s.level c = 0 ∧ ∀ d, let x := s.cd c d
      x.status = 0 ∧ x.trape = List.replicate 32 0 ∧ x.save = 0 ∧ x.saveSz = 0 ∧ x.pages = []
      ∧ x.ring.base = 0 ∧ x.ring.size = 16 ∧ x.ring.head = 0 ∧ x.ring.tail = 0 ∧ x.ring.commit = 0
      ∧ x.ring.shdBase = 0 ∧ x.ring.shdSize = 21
      ∧ fieldOf x.obs.ctl 32 32 = 10000 ∧ fieldOf x.obs.ctl 0 32 = 0 ∧ x.obs.catBase = 0 ∧ x.obs.catSize = 16
      ∧ x.obs.catHead = 0 ∧ x.obs.catTail = 0 ∧ x.obs.histBase = 0 ∧ x.obs.histSize = 0 ∧ x.obs.hangBase = 0 ∧ x.obs.hangSize = 0

/-- The canonical form of memory (log entry 3) at reset. -/
def Obligations.MemoryFormAtReset : Prop := MemInv State.reset

/-- The canonical form of memory (log entry 3) is kept by every one of the 309 meanings and by the step around them. -/
def Obligations.StepKeepsMemoryForm : Prop := ∀ s t : State, MemInv s → step s = .next t → MemInv t

/-- 00 R4: no state stops. `ticks` is the model's count of steps (log entry 2). -/
def Obligations.StepGoesOn : Prop :=
  ∀ s : State, ∃ t, step s = .next t ∧ t.ticks = s.ticks + 1 ∧ t.pkg = s.pkg

/-- 07 R149: the results of IALU and ICMP, element by element. `x` and `y` are the bit patterns of the elements, `v x` and `v y` their
values by the type. -/
def Obligations.IntegerLanes : Prop :=
  ∀ (f : Fields) (s u : State), f.tyT.isInt = true → Fires f (sregDests f) s u →
    let w := f.tyT.width
    let v : Nat → Int := fun x => if f.tyT.isSigned && decide (2 ^ (w - 1) ≤ x) then (x : Int) - 2 ^ w else (x : Int)
    let lo : Int := if f.tyT.isSigned then -(2 ^ (w - 1)) else 0
    let hi : Int := if f.tyT.isSigned then 2 ^ (w - 1) - 1 else 2 ^ w - 1
    let wrap : Int → Nat := fun x => (x % 2 ^ w).toNat
    let sat : Int → Nat := fun x => if f.sat then wrap (max lo (min hi x)) else wrap x
    let mask : Bool → Nat := fun c => if c then 2 ^ w - 1 else 0
    let two : (Nat → Nat → Nat) → Host.Outcome State Fault Refusal := fun g =>
      .next (finished f s (valueOut f s u (mapTwo f.tyT.size g (opIn f s u f.tyT false) (opIn f s u f.tyT true))))
    let one : (Nat → Nat) → Host.Outcome State Fault Refusal := fun g =>
      .next (finished f s (valueOut f s u (mapOne f.tyT.size g (opIn f s u f.tyT false))))
    exec (.ialuAdd f) s = two (fun x y => sat (v x + v y))
    ∧ exec (.ialuSub f) s = two (fun x y => sat (v x - v y))
    ∧ exec (.ialuMul f) s = two (fun x y => sat (v x * v y))
    ∧ exec (.ialuMulh f) s = two (fun x y => wrap (v x * v y / 2 ^ w))
    ∧ exec (.ialuMin f) s = two (fun x y => if v x < v y then x else y)
    ∧ exec (.ialuMax f) s = two (fun x y => if v x > v y then x else y)
    ∧ exec (.ialuAnd f) s = two (fun x y => x &&& y)
    ∧ exec (.ialuOr f) s = two (fun x y => x ||| y)
    ∧ exec (.ialuXor f) s = two (fun x y => x ^^^ y)
    ∧ exec (.ialuNot f) s = one (fun x => 2 ^ w - 1 - x)
    ∧ exec (.ialuShl f) s = two (fun x y => sat (v x * 2 ^ (y % w)))
    ∧ exec (.ialuShr f) s = two (fun x y => wrap (v x / 2 ^ (y % w)))
    ∧ exec (.ialuRot f) s = two (fun x y => x * 2 ^ (y % w) % 2 ^ w + x / 2 ^ (w - y % w))
    ∧ exec (.ialuPopc f) s = one (fun x => ((List.range w).filter (fun i => x.testBit i)).length)
    ∧ exec (.ialuClz f) s = one (fun x => if x = 0 then w else w - 1 - Nat.log2 x)
    ∧ exec (.ialuAbs f) s = one (fun x => sat (if v x < 0 then -v x else v x))
    ∧ exec (.icmpEq f) s = two (fun x y => mask (decide (v x = v y)))
    ∧ exec (.icmpNe f) s = two (fun x y => mask (decide (v x ≠ v y)))
    ∧ exec (.icmpLt f) s = two (fun x y => mask (decide (v x < v y)))
    ∧ exec (.icmpLe f) s = two (fun x y => mask (decide (v x ≤ v y)))
    ∧ exec (.icmpGt f) s = two (fun x y => mask (decide (v x > v y)))
    ∧ exec (.icmpGe f) s = two (fun x y => mask (decide (v x ≥ v y)))
    ∧ exec (.icmpTst f) s = two (fun x y => mask (decide (x &&& y ≠ 0)))

/-- 07 R151, R152: the address registers. `k` is the register that side B names, `j` the window, `x` the value on side A. -/
def Obligations.AddressArithmetic : Prop :=
  ∀ (f : Fields) (s u : State), Fires f (sregDests f) s u →
    let t := s.cur.at_
    let a := opIn f s u .none false
    let b := opIn f s u .none true
    let x := leNat (sliceB a 0 8)
    let k := (byteAt b 0).toNat % 16
    let r := ((u.tile t).aregs.getD k 0).toNat
    let put : Nat → State := fun v =>
      finished f s ((valueOut f s u (leBytes 8 v)).regLater ⟨s.cur, f⟩ (.a k) 0 (leBytes 8 v))
    let show_ : Nat → State := fun v => finished f s (valueOut f s u (leBytes 8 v))
    exec (.addrAmov f) s = .next (put x)
    ∧ exec (.addrAoff f) s = .next (put ((r + x) % 2 ^ 64))
    ∧ exec (.addrAscale f) s = .next (show_ ((r + x * 2 ^ ((byteAt b 1).toNat % 64)) % 2 ^ 64))
    ∧ exec (.addrAread f) s = .next (show_ r)
    ∧ ∀ base bound, u.window? s.cur.region ((byteAt b 1).toNat % 8) = some (base, bound) →
        let c := u.regionCtx s.cur.region
        let off := leNat (sliceB a 0 4)
        let v := leNat ((List.range 8).map (fun i => if off + i < bound then u.readByte c (base + off + i) else 0))
        let u' := if bound < off + 8 then u.setStatus c s.cur.die 4 else u
        exec (.addrApw f) s
          = .next (finished f s ((valueOut f s u' (leBytes 8 v)).regLater ⟨s.cur, f⟩ (.a k) 0 (leBytes 8 v)))

/-- 07 R154: fused multiply-add and dot products. -/
def Obligations.FusedAndDotResults : Prop :=
  ∀ (f : Fields) (s u : State), Fires f (sregDests f) s u →
    let t := f.tyT.fty
    let n := f.tyT.size
    let ps := pairElems n (opIn f s u f.tyT false) (opIn f s u f.tyT true)
    let reg := (u.tile s.cur.at_).sreg (f.lit.toNat % 8)
    let scale : Nat → Nat := fun i => (byteAt ((u.tile s.cur.at_).wregs.getD (f.lit.toNat / 16 % 16) []) (i * n / 4)).toNat
    let bv : Nat → Nat → FVal := fun i y =>
      if f.lit.toNat / 256 % 2 = 1 then
        (if scale i = 0xFF then .nan else fscale ((scale i : Int) - 127) (decodeF t y))
      else decodeF t y
    let cv : Nat → FVal := fun i => if f.lit.toNat / 8 % 2 = 1 then fzero true else decodeF t (numAt reg (i * n) n)
    let out : FVal → Nat := roundF t f.rnd f.nanovf
    let lanes : (FVal → FVal → FVal) → Host.Outcome State Fault Refusal := fun g =>
      .next (finished f s (valueOut f s u (packElems n (ps.zipIdx.map (fun q =>
        out (g (fmul (decodeF t q.1.1) (bv q.2 q.1.2)) (cv q.2)))))))
    let plus := faddR (f.rnd = .rdn)
    let sum := treeSum (ps.zipIdx.map (fun q => roundF .f32 .rne false (fmul (decodeF t q.1.1) (bv q.2 q.1.2))))
    let one : Nat → Host.Outcome State Fault Refusal := fun y =>
      .next (finished f s (valueOut f s u
        (if f.lit.toNat / 512 % 2 = 1 then leBytes 4 y else leBytes n (out (decodeF .f32 y)))))
    exec (.vfmaFma f) s = lanes (fun p c => plus p c)
    ∧ exec (.vfmaFms f) s = lanes (fun p c => plus p (fneg c))
    ∧ exec (.vfmaFnma f) s = lanes (fun p c => plus (fneg p) c)
    ∧ exec (.vfmaFnms f) s = lanes (fun p c => plus (fneg p) (fneg c))
    ∧ exec (.vfmaDot f) s = one sum
    ∧ exec (.vfmaDotacc f) s
        = one (roundF .f32 .rne false (faddR false (decodeF .f32 sum) (decodeF .f32 (leNat (reg.take 4)))))

/-- 07 R155, R156: floating arithmetic, element by element. -/
def Obligations.FloatLanes : Prop :=
  ∀ (f : Fields) (s u : State), f.tyT.isF = true → Fires f (sregDests f) s u →
    let t := f.tyT.fty
    let n := f.tyT.size
    let w := f.tyT.width
    let d := decodeF t
    let out : FVal → Nat := roundF t f.rnd f.nanovf
    let mask : Bool → Nat := fun c => if c then 2 ^ w - 1 else 0
    let below : FVal → FVal → Bool := fun x y => flt x y || (feq x y && x.sign && !y.sign)
    let two : (Nat → Nat → Nat) → Host.Outcome State Fault Refusal := fun g =>
      .next (finished f s (valueOut f s u (mapTwo n g (opIn f s u f.tyT false) (opIn f s u f.tyT true))))
    let one : (Nat → Nat) → Host.Outcome State Fault Refusal := fun g =>
      .next (finished f s (valueOut f s u (mapOne n g (opIn f s u f.tyT false))))
    exec (.vfarithFadd f) s = two (fun x y => out (faddR (f.rnd = .rdn) (d x) (d y)))
    ∧ exec (.vfarithFsub f) s = two (fun x y => out (faddR (f.rnd = .rdn) (d x) (fneg (d y))))
    ∧ exec (.vfarithFmul f) s = two (fun x y => out (fmul (d x) (d y)))
    ∧ exec (.vfarithFdiv f) s = two (fun x y => out (fdiv (d x) (d y)))
    ∧ exec (.vfarithFsqrt f) s = one (fun x => out (fsqrt (d x)))
    ∧ exec (.vfarithFmin f) s
        = two (fun x y => if (d x).isNan || (d y).isNan then t.nanCode else if below (d y) (d x) then y else x)
    ∧ exec (.vfarithFmax f) s
        = two (fun x y => if (d x).isNan || (d y).isNan then t.nanCode else if below (d x) (d y) then y else x)
    ∧ exec (.vfarithFabs f) s = one (fun x => if (d x).isNan then t.nanCode else x % 2 ^ (w - 1))
    ∧ exec (.vfarithFneg f) s
        = one (fun x => if (d x).isNan then t.nanCode else if x < 2 ^ (w - 1) then x + 2 ^ (w - 1) else x - 2 ^ (w - 1))
    ∧ exec (.vfarithFeq f) s = two (fun x y => mask (feq (d x) (d y)))
    ∧ exec (.vfarithFlt f) s = two (fun x y => mask (flt (d x) (d y)))
    ∧ exec (.vfarithFle f) s = two (fun x y => mask (flt (d x) (d y) || feq (d x) (d y)))
    ∧ exec (.vfarithFclass f) s = one (fun x =>
        let neg := decide (2 ^ (w - 1) ≤ x)
        let mag := x % 2 ^ (w - 1)
        if (d x).isNan then 2 ^ 0
        else if (d x).isInf then (if neg then 2 ^ 1 else 2 ^ 8)
        else if mag = 0 then (if neg then 2 ^ 4 else 2 ^ 5)
        else if mag < 2 ^ t.fbits then (if neg then 2 ^ 3 else 2 ^ 6)
        else if neg then 2 ^ 2 else 2 ^ 7)

/-- 07 R157: conversions. -/
def Obligations.ConversionResults : Prop :=
  ∀ (f : Fields) (s u : State), Fires f (sregDests f) s u →
    let t := f.tyT
    let v := f.tyS
    let m := 128 / t.size
    let p := (byteAt (descriptorOn u ⟨s.cur, f⟩ true) 0).toNat
    let src := elems v.size (opIn f s u v false)
    let mx := opIn f s u .none false
    let out : FVal → Nat := roundF t.fty f.rnd f.nanovf
    let emits : Bytes → Host.Outcome State Fault Refusal := fun d => .next (finished f s (valueOut f s u d))
    exec (.vcvtCvt f) s = emits (packElems t.size (((src.drop (p * m)).take m).map (fun c => out (decodeF v.fty c))))
    ∧ exec (.vcvtFtoi f) s = emits (packElems t.size (((src.drop (p * m)).take m).map (fun c =>
        match decodeF v.fty c with
        | .nan => 0
        | .inf neg => wrapInt t.width (if neg then intMin t else intMax t)
        | .fin x => wrapInt t.width (max (intMin t) (min (intMax t) (roundInt f.rnd x))))))
    ∧ exec (.vcvtItof f) s = emits (packElems t.size (((src.drop (p * m)).take m).map (fun c =>
        out (.fin ⟨intOf v c < 0, (intOf v c).natAbs, 0, false⟩))))
    ∧ exec (.vcvtUnmx f) s = emits (packElems t.size ((((List.range (32 * mxBlocks v mx)).drop (p * m)).take m).map (fun e =>
        out (mxElem v mx (mxBlocks v mx) e))))
    ∧ exec (.vcvtCvtmx f) s = emits (mxPayload t ((chunks 32 4 (src.map (decodeF v.fty))).map (fun b =>
        cvtMx t.fty f.rnd f.nanovf (b ++ List.replicate (32 - b.length) (fzero false)))))
    ∧ exec (.vcvtSketch f) s = emits (sketchOf f.rnd
        ((src ++ (if f.srcB = 1 ∨ f.srcB = 3 then [] else elems v.size (opIn f s u v true))).map (decodeF v.fty)))

/-- 07 R159 and the table of R160: special functions. -/
def Obligations.SpecialFunctionResults : Prop :=
  (∀ (f : Fields) (s u : State), Fires f (sregDests f) s u →
    let t := f.tyT.fty
    let emits : (FVal → FVal) → Host.Outcome State Fault Refusal := fun g =>
      .next (finished f s (valueOut f s u
        (mapOne f.tyT.size (fun x => roundF t f.rnd f.nanovf (g (decodeF t x))) (opIn f s u f.tyT false))))
    exec (.vspecialExp2 f) s = emits spExp2 ∧ exec (.vspecialLog2 f) s = emits spLog2
    ∧ exec (.vspecialRcp f) s = emits spRcp ∧ exec (.vspecialRsqrt f) s = emits spRsqrt
    ∧ exec (.vspecialTanh f) s = emits spTanh ∧ exec (.vspecialSigm f) s = emits spSigm)
  ∧ (∀ g ∈ [spExp2, spLog2, spRcp, spRsqrt, spTanh, spSigm], g .nan = .nan)
  ∧ ∀ (t : FTy) (mode : Rnd) (nv : Bool), t ∈ [FTy.f32, .bf16, .f16] →
      let one := roundF t mode nv (.fin ⟨false, 1, 0, false⟩)
      let r : FVal → Nat := roundF t mode nv
      let zero : Bool → FVal := fun neg => .fin ⟨neg, 0, 0, false⟩
      [r (spExp2 (.inf true)), r (spExp2 (zero true)), r (spExp2 (zero false)), r (spExp2 (.inf false))]
          = [r (zero false), one, one, r (.inf false)]
      ∧ [r (spLog2 (.inf true)), r (spLog2 (zero true)), r (spLog2 (zero false)), r (spLog2 (.inf false))]
          = [r .nan, r (.inf true), r (.inf true), r (.inf false)]
      ∧ [r (spRcp (.inf true)), r (spRcp (zero true)), r (spRcp (zero false)), r (spRcp (.inf false))]
          = [r (zero true), r (.inf true), r (.inf false), r (zero false)]
      ∧ [r (spRsqrt (.inf true)), r (spRsqrt (zero true)), r (spRsqrt (zero false)), r (spRsqrt (.inf false))]
          = [r .nan, r (.inf true), r (.inf false), r (zero false)]
      ∧ [r (spTanh (.inf true)), r (spTanh (zero true)), r (spTanh (zero false)), r (spTanh (.inf false))]
          = [r (.fin ⟨true, 1, 0, false⟩), r (zero true), r (zero false), one]
      ∧ [r (spSigm (.inf true)), r (spSigm (zero true)), r (spSigm (zero false)), r (spSigm (.inf false))]
          = [r (zero false), r (.fin ⟨false, 1, -1, false⟩), r (.fin ⟨false, 1, -1, false⟩), one]

/-- 07 R161 and 03 R64: reductions. Every VRED set that fires completes, whatever its type and elements. -/
def Obligations.ReductionResults : Prop :=
  (∀ (f : Fields) (s u : State), Fires f (sregDests f) s u →
    ∀ i ∈ [Instr.vredRsum f, .vredRmax f, .vredRmin f, .vredRsumsq f],
      ∃ y : Nat, exec i s = .next (finished f s (valueOut f s u (leBytes f.tyT.size y))))
  ∧ (∀ (f : Fields) (s u : State), Fires f (sregDests f) s u →
    let t := f.tyT
    let l := elems t.size (opIn f s u t false)
    let emits : Nat → Host.Outcome State Fault Refusal := fun y => .next (finished f s (valueOut f s u (leBytes t.size y)))
    (t.isInt = true →
      exec (.vredRsum f) s = emits (wrapInt t.width ((l.map (intOf t)).sum))
      ∧ exec (.vredRsumsq f) s = emits (wrapInt t.width ((l.map (fun x => intOf t x * intOf t x)).sum))
      ∧ exec (.vredRmax f) s = emits (wrapInt t.width ((l.map (intOf t)).foldl max (intMin t)))
      ∧ exec (.vredRmin f) s = emits (wrapInt t.width ((l.map (intOf t)).foldl min (intMax t))))
    ∧ (t.isInt = false →
      let g := t.fty
      let out : Nat → Nat := fun y => roundF g f.rnd f.nanovf (decodeF .f32 y)
      exec (.vredRsum f) s = emits (out (treeSum (l.map (fun x => roundF .f32 .rne false (decodeF g x)))))
      ∧ exec (.vredRsumsq f) s
          = emits (out (treeSum (l.map (fun x => roundF .f32 .rne false (fmul (decodeF g x) (decodeF g x))))))
      ∧ (l.any (fun x => (decodeF g x).isNan) = true →
          exec (.vredRmax f) s = emits g.nanCode ∧ exec (.vredRmin f) s = emits g.nanCode)
      ∧ (l ≠ [] → l.any (fun x => (decodeF g x).isNan) = false →
          (∃ y ∈ l, exec (.vredRmax f) s = emits y ∧ ∀ x ∈ l, fbelow (decodeF g y) (decodeF g x) = false)
          ∧ ∃ y ∈ l, exec (.vredRmin f) s = emits y ∧ ∀ x ∈ l, fbelow (decodeF g x) (decodeF g y) = false)
      ∧ (l = [] → t.isF = true →
          exec (.vredRmax f) s = emits (roundF g f.rnd f.nanovf (.inf true))
          ∧ exec (.vredRmin f) s = emits (roundF g f.rnd f.nanovf (.inf false)))))
  ∧ ∀ v : List Nat, v ≠ [] → ∃ (w : Nat) (x : List Nat), x.length = 2 ^ w ∧ v.length ≤ 2 ^ w ∧ 2 ^ w < 2 * v.length
      ∧ x = v ++ List.replicate (2 ^ w - v.length) 0x80000000
      ∧ treeSum v = ((List.range w).foldl (fun (y : List Nat) _ => (List.range (y.length / 2)).map (fun i =>
          roundF .f32 .rne false (faddR false (decodeF .f32 (y.getD (2 * i) 0)) (decodeF .f32 (y.getD (2 * i + 1) 0))))) x).getD 0 0

/-- 07 R163: permutes. -/
def Obligations.PermuteResults : Prop :=
  ∀ (f : Fields) (s u : State), Fires f (sregDests f) s u →
    let m := f.tyT.size
    let bytesB := opIn f s u f.tyT true
    let index := if f.srcB = 0 then s.cur.payload true else bytesB
    let a := elems m (opIn f s u f.tyT false)
    let n := a.length
    let A : Nat → Nat := fun i => a.getD i 0
    let B : Nat → Nat := fun i => if i < n then (elems m bytesB).getD i 0 else 0
    let C : Nat → Nat := fun i => if i < n then A i else B (i - n)
    let amt := f.lit.toNat % 256
    let sel := f.lit.toNat / 256 % 2
    let k := f.lit.toNat / 2 ^ 27 % 16
    let by_ : Int := if amt < 128 then (amt : Int) else (amt : Int) - 256
    let emits : (Nat → Nat) → Host.Outcome State Fault Refusal := fun g =>
      let d := packElems m ((List.range n).map g)
      let t := valueOut f s u d
      .next (finished f s (if f.lit.toNat / 2 ^ 31 = 1 then
        t.regLater ⟨s.cur, f⟩ (.w k) 0 d
        else t))
    exec (.vpermBcast f) s = emits (fun _ => if amt < n then A amt else 0)
    ∧ exec (.vpermShuf f) s = emits (fun i => if (byteAt index i).toNat < n then A (byteAt index i).toNat else 0)
    ∧ exec (.vpermSlide f) s
        = emits (fun i => if 0 ≤ (i : Int) + by_ ∧ (i : Int) + by_ < 2 * n then C ((i : Int) + by_).toNat else 0)
    ∧ exec (.vpermZip f) s = emits (fun i =>
        if n % 2 = 1 ∧ i = n - 1 then 0
        else if i % 2 = 0 then A (n / 2 * sel + i / 2) else B (n / 2 * sel + i / 2))
    ∧ exec (.vpermUnzip f) s = emits (fun i => C (2 * i + sel))

/-- 03 R60: what each rounding mode selects. `q` is the value of an exact number. -/
def Obligations.RoundingIsCorrect : Prop :=
  let q : Machine.Num → Rat := fun x => (if x.neg then -1 else 1) * (x.m : Rat) * (2 : Rat) ^ x.e
  ∀ (t : FTy) (mode : Rnd) (nv : Bool) (x z : Machine.Num), t ∈ [FTy.f32, .bf16, .f16, .e4m3, .e5m2, .e2m1] → x.sticky = false →
    decodeF t t.maxCode = .fin z → |q x| ≤ |q z| →
    ∃ y : Machine.Num, decodeF t (roundF t mode nv (.fin x)) = .fin y ∧ y.sticky = false ∧ y.neg = x.neg ∧
      ∀ (c : Nat) (v : Machine.Num), decodeF t c = .fin v →
        match mode with
        | .rne => |q y - q x| ≤ |q v - q x|
        | .rtz => |q y| ≤ |q x| ∧ (|q v| ≤ |q x| → |q v| ≤ |q y|)
        | .rdn => q y ≤ q x ∧ (q v ≤ q x → q v ≤ q y)
        | .rup => q x ≤ q y ∧ (q x ≤ q v → q y ≤ q v)

/-- 03 R60: rounding is exact on the values of the format. -/
def Obligations.RoundingKeepsItsValues : Prop :=
  ∀ (t : FTy) (mode : Rnd) (nv : Bool) (c : Nat), c < 2 ^ (t.signBit + 1) → (decodeF t c).isNan = false →
    roundF t mode nv (decodeF t c) = c

/-- 07 R154: "exact" products and sums, as rational numbers. -/
def Obligations.ExactArithmetic : Prop :=
  let q : Machine.Num → Rat := fun x => (if x.neg then -1 else 1) * (x.m : Rat) * (2 : Rat) ^ x.e
  ∀ x y : Machine.Num, x.sticky = false → y.sticky = false →
    (∃ z : Machine.Num, fmul (.fin x) (.fin y) = .fin z ∧ z.sticky = false ∧ q z = q x * q y)
    ∧ ∀ rdn : Bool, ∃ z : Machine.Num, faddR rdn (.fin x) (.fin y) = .fin z ∧ z.sticky = false ∧ q z = q x + q y
        ∧ (x.m ≠ 0 → q x = -q y → z.neg = rdn)

/-- 04 R75: FIRING and FIRE_NULL_PASS, for all 195 instructions. -/
def Obligations.FiringRule : Prop :=
  ∀ (i : Instr) (m : BitVec 6) (n : BitVec 8) (f : Fields) (s : State), i.parts = some (m, n, f) →
    let c := s.regionCtx s.cur.region
    let kind : Kind :=
      if (0x0A ≤ m ∧ m ≤ 0x0C) ∨ (m = 0x0D ∧ 3 ≤ n) then s.cur.stTag.kind else if m = 0x0F then .control else .value
    let acquires := m = 0x0E ∨ m = 0x0F ∨ (m = 0x19 ∧ n ≠ 1) ∨ (m = 0x22 ∧ n = 2) ∨ (m = 0x23 ∧ n = 1) ∨ (m = 0x27 ∧ n = 1)
    let last := 1 ≤ s.level c ∧ s.cur.stTag.level = 0xFFFFFFFF
    (s.cur.anyNull = true → f.pm ≠ 3 → exec i s = .next (s.consume s.cur))
    ∧ (s.cur.anyNull = true → f.pm = 3 → m ≠ 0x10 → ¬ (m = 0x0C ∧ n = 2) → ¬ (f.tag = 5 ∧ last) →
        exec i s = .next (finished f s
          (((s.consume s.cur).emitRes ⟨s.cur, f⟩ false [f.dstA.toNat, f.dstB.toNat] s.cur.stTag kind none).emitDone
            ⟨s.cur, f⟩ false [f.dstA.toNat, f.dstB.toNat] s.cur.stTag none)))
    ∧ (s.cur.anyNull = false → (f.pm = 1 ∧ s.cur.stTag.pred = false ∨ f.pm = 2 ∧ s.cur.stTag.pred = true) →
        exec i s = .next (s.consume s.cur))
    ∧ (last → (s.cur.anyNull = true ∧ f.pm = 3 ∧ f.tag = 5) ∨
          (s.cur.anyNull = false ∧ predOk f s.cur.stTag = true ∧ (f.tag = 5 ∨ acquires)) →
        exec i s = .next ((s.askBoundary c 0).offerAgain s.cur))

/-- 04 R88 to R92. `c` is bit 0 of byte 0 of an operand, `inv` bit 0 of the literal. `regs` are the state registers written. -/
def Obligations.ControlResults : Prop :=
  ∀ (f : Fields) (s u : State),
    let inv := f.lit.getLsbD 0
    let c := fun (v : State) => ((byteAt (opIn f v v .none true) 0).getLsbD 0) ^^ inv
    let st := s.cur.stTag
    let a := opIn f s u .none false
    let b := opIn f s u .none true
    let regs := fun (ds : List Nat) => (ds.filter (fun d => decide (0x50 ≤ d) && decide (d < 0x58))).map (· - 0x50)
    let both := [f.dstA.toNat, f.dstB.toNat]
    let put := fun (ds : List Nat) (g : Tag) (k : Kind) (res : Option Bytes) =>
      Host.Outcome.next (ρ := Refusal) (φ := Fault) (finished f s ((u.consume s.cur).emitRes ⟨s.cur, f⟩ false ds g k res))
    let way := fun (k : Bool) => [if k then f.dstA.toNat else f.dstB.toNat]
    let one := if s.cur.tokA.isSome then s.cur.payload false else s.cur.payload true
    (Fires f (regs (way (c s))) s u → exec (.steerSteer f) s = put (way (((byteAt b 0).getLsbD 0) ^^ inv)) st st.kind (some a))
    ∧ (Fires f (regs (way (st.pred ^^ inv))) s u → exec (.steerRoute f) s = put (way (st.pred ^^ inv)) st st.kind (some a))
    ∧ (Fires f (if c s then [] else regs both) s u →
        exec (.gateNullify f) s = put both st st.kind (if ((byteAt b 0).getLsbD 0) ^^ inv then none else some a))
    ∧ (let four := both ++ [f.lit.toNat % 128, f.lit.toNat / 256 % 128]
       (Fires f (regs four) s u → exec (.gateDup f) s = put four st st.kind (some a))
       ∧ (s.cur.anyNull = true → f.pm = 3 → ¬ (f.tag = 5 ∧ s.levelFull ⟨s.cur, f⟩ = true) → exec (.gateDup f) s = .next (finished f s
          (((s.consume s.cur).emitRes ⟨s.cur, f⟩ false four st st.kind none).emitDone ⟨s.cur, f⟩ false four st none))))
    ∧ (Fires f (regs both) s u →
        exec (.steerSel f) s = put both st st.kind (some (if st.pred ^^ inv then a else b))
        ∧ exec (.mergeMerge f) s = put both st st.kind (some one)
        ∧ exec (.mergeMergeo f) s = put both { st with pred := s.cur.tokA.isSome } st.kind (some one)
        ∧ exec (.gateGate f) s = put both st st.kind (some a)
        ∧ exec (.tagopGetit f) s = put both st .value (some (leBytes 4 st.iter.toNat))
        ∧ exec (.tagopGetfr f) s = put both st .value (some (leBytes 8 st.frame.toNat))
        ∧ exec (.tagopGetph f) s = put both st .value (some (leBytes 4 st.phase.toNat))
        ∧ exec (.tagopSetit f) s = put both { st with iter := BitVec.ofNat 16 (leNat (sliceB b 0 2) + f.lit.toNat % 2 ^ 16) } st.kind (some a)
        ∧ exec (.tagopSetph f) s = put both { st with phase := BitVec.ofNat 8 (leNat (sliceB b 0 1) + f.lit.toNat % 2 ^ 8) } st.kind (some a))

/-- 02 R28: the tag action; `ty` is the type in which side A is read. Which accesses of its frame a token lies behind (11 R236) is
kept while the frame is. -/
def Obligations.TagActions : Prop :=
  ∀ (s : State) (f : Fields) (fi : Firing) (g : Tag) (res : Option Bytes),
    let j : Job := ⟨fi, f⟩
    let ty := if f.sty = 0 then f.tyT else f.tyS
    let a := operandIn s j ty false
    let first : Nat :=
      if f.srcA = 3 ∨ (fi.tagA.map (·.null)).getD false = true then 0
      else if ty = .mx4 ∨ ty = .sk4 then (byteAt a 0).toNat % 16
      else if ty ≠ .none ∧ ty.size = 1 then (byteAt a 0).toNat
      else leNat (sliceB a 0 2)
    let t := s.outTag j g res
    let g' : Tag := { g with deps := if g.frame = fi.stTag.frame then g.deps else [] }
    let bit : Bytes → Bool := fun p => (byteAt p 0).getLsbD 0
    (f.tag = 0 ∨ f.tag = 6 → t = g')
    ∧ (f.tag = 1 → t = { g' with iter := g.iter + 1 })
    ∧ (f.tag = 2 → t = { g' with iter := 0 })
    ∧ (f.tag = 3 → t = { g' with iter := BitVec.ofNat 16 first })
    ∧ (f.tag = 4 → t = { g' with phase := g.phase + 1 })
    ∧ (f.tag = 5 → t.iter = g.iter ∧ t.phase = g.phase ∧ t.pred = g.pred ∧ t.ctx = g.ctx ∧ t.kind = g.kind ∧ t.null = g.null ∧ t.seen = g.seen
        ∧ t.deps = (if t.frame = fi.stTag.frame then g.deps else [])
        ∧ (s.level (s.regionCtx fi.region) = 0 → t.level = g.level) ∧ (1 ≤ s.level (s.regionCtx fi.region) → t.level = g.level + 1)
        ∧ ∀ ls w, s.levelsOf fi = ls ++ [w] → ((ls ++ [w]).map levelWidth).sum ≤ 64 →
            let low := 64 - ((ls ++ [w]).map levelWidth).sum
            t.frame.toNat = g.frame.toNat / 2 ^ (low + levelWidth w) * 2 ^ (low + levelWidth w) + g.frame.toNat % 2 ^ low)
    ∧ (f.tag = 7 → ∀ p, res = some p → t = { g' with pred := bit p })
    ∧ (f.tag = 8 → ∀ p, res = some p → t = { g' with pred := !bit p })
    ∧ (f.tag = 7 ∨ f.tag = 8 → res = none → t = g')

/-- 02 R26, R27: destinations 0x00 to 0x3F (stations), 0x50 to 0x57 (state registers) and 0x7F (drop). -/
def Obligations.ResultsToStations : Prop :=
  ∀ (s : State) (f : Fields) (fi : Firing) (kind : Kind) (res : Bytes),
    let j : Job := ⟨fi, f⟩
    let t := fi.at_
    let ok : Nat → Prop := fun d => d < 0x40 ∨ (0x50 ≤ d ∧ d < 0x58) ∨ d = 0x7F
    ok f.dstA.toNat → ok f.dstB.toNat → f.tag ≠ 6 → ((s.tile t).pass? fi.inst).isSome = true → res.length ≤ 128 →
    let ds := if f.dstA = f.dstB then [f.dstA.toNat] else [f.dstA.toNat, f.dstB.toNat]
    let tok : Token := { tag := { s.outTag j fi.stTag (some res) with kind := kind, null := false }, payload := res }
    let s' := s.emit2 j kind res
    s'.agenda = s.agenda ++ (ds.filter (fun d => decide (d < 0x40))).map (fun d => .tokenArrival {
        at_ := t, place := ⟨fi.block, d / 2, d % 2 = 1⟩, tok := tok, src := srcKey fi, outside := false, inst := fi.inst })
    ∧ (s'.tile t).sent = (s.tile t).sent + (ds.filter (fun d => decide (d < 0x40))).length
    ∧ (s'.tile t).regNext = (s.tile t).regNext
        ++ (ds.filter (fun d => decide (0x50 ≤ d) && decide (d < 0x58))).map (fun d => ⟨fi.station, .s (d - 0x50), 0, res⟩)
    ∧ ((∃ d ∈ ds, 0x50 ≤ d ∧ d < 0x58) → t ∈ s'.touched) ∧ (s'.tile t).sregs = (s.tile t).sregs
    ∧ s'.mem = s.mem ∧ s'.ready = s.ready ∧ (s'.tile t).passes = (s.tile t).passes ∧ (s'.tile t).entries = (s.tile t).entries

/-- 05 R107, R108. The literal of STATE holds k, off, len and ty; the sum of two FP32 elements is 03 R60's rounding of the exact sum. -/
def Obligations.ExitAndStateResults : Prop :=
  ∀ (f : Fields) (s u : State),
    let a := opIn f s u .none false
    let t := s.cur.at_
    let st := s.cur.stTag
    let lit := f.lit.toNat
    let index : Nat := if (s.cur.tagB.map (·.null)).getD false then 0 else
      min ((byteAt (opIn f s s .none true) 0).toNat % 8) (lit % 8)
    let leave := fun (keep : Bool) (v : State) (res : Option Bytes) => Host.Outcome.next (ρ := Refusal) (φ := Fault)
      (finished f s ((v.consume s.cur).emitExit ⟨s.cur, f⟩ keep (f.dstA.toNat - 0x40 + index) st res))
    let k := lit % 8
    let off := lit / 8 % 128
    let len := lit / 1024 % 256
    let ty := lit / 2 ^ 18 % 8
    let cur := sliceB ((u.tile t).sreg k) off len
    let sz := if ty = 1 then 8 else 4
    let sums := ((List.range (len / sz)).map (fun i =>
      let x := leNat (sliceB cur (sz * i) sz)
      let y := leNat (sliceB a (sz * i) sz)
      leBytes sz (if ty = 2 then addF32 x y else (x + y) % 2 ^ (8 * sz)))).flatten
    let keep := fun (new out : Bytes) => Host.Outcome.next (ρ := Refusal) (φ := Fault)
      (finished f s (((u.consume s.cur).regLater ⟨s.cur, f⟩ (.s k) off new).emit2 ⟨s.cur, f⟩ .value out))
    (Fires f [] s u → exec (.exitExit f) s = leave true u (some a) ∧ exec (.exitAbort f) s = leave false u (some a))
    ∧ (s.cur.anyNull = true → f.pm = 3 → ¬ (f.tag = 5 ∧ s.levelFull ⟨s.cur, f⟩ = true) →
        exec (.exitExit f) s = leave true s none ∧ exec (.exitAbort f) s = leave false s none)
    ∧ (Fires f (sregDests f) s u → exec (.stateSld f) s = .next (finished f s (valueOut f s u cur)))
    ∧ (Fires f ((if len = 0 then [] else [k]) ++ sregDests f) s u →
        exec (.stateSst f) s = keep (sliceB a 0 len) a
        ∧ exec (.stateSacc f) s = keep sums sums
        ∧ exec (.stateSclr f) s = keep (zeros len) a)

/-- 18 R371, R373, R374. The classes of 18 R369: 1 and 9 end; 10, 16 and above, and a stack fault of code 1 continue; the others stop. -/
def Obligations.FaultIsTaken : Prop :=
  (∀ (s : State) (x : FaultInfo) (flags gen entry : Nat),
    let r := faultRecord s x flags gen entry
    r.length = 32
    ∧ leNat (sliceB r 0 1) = x.index % 256 ∧ leNat (sliceB r 1 1) = x.code % 256 ∧ leNat (sliceB r 2 1) = flags % 256
    ∧ (∀ j, x.job = some j → x.named = none → leNat (sliceB r 3 1) = if x.sync then (j.fi.slot * 32 + j.fi.station) % 256 else 0)
    ∧ (∀ slot n, x.named = some (slot, n) → leNat (sliceB r 3 1) = (slot * 32 + n) % 256)
    ∧ leNat (sliceB r 4 2) = (x.tile.getD 0 + x.die * 1024) % 65536 ∧ leNat (sliceB r 6 2) = s.pkg % 65536
    ∧ leNat (sliceB r 8 2) = ((x.job.map (·.fi.block)).getD x.block) % 65536 ∧ leNat (sliceB r 0x0A 2) = gen % 65536
    ∧ leNat (sliceB r 0x0C 4) = (entry + (s.pkg * 8 + x.die) * 64) % 2 ^ 32
    ∧ sliceB r 0x10 16 = sliceB x.detail 0 16)
  ∧ ∀ (s : State) (x : FaultInfo),
    let t := s.raiseFault x
    let st := (s.ctx x.ctx).st
    let p := (s.cd x.ctx x.die).pending
    let e := (s.cd x.ctx x.die).trape.getD x.index 0
    let ends : Prop := x.index = 1 ∨ x.index = 9
    let goes : Prop := x.index = 10 ∨ 16 ≤ x.index ∨ (x.index = 6 ∧ x.code = 1)
    let top := if x.sync then 63 else 64
    let lowest : Nat → Prop := fun k => k < top ∧ NMap.find p k = none ∧ ∀ i < k, NMap.find p i ≠ none
    let record := faultRecord s x ((if x.sync then 1 else 0) + 4) (e.toNat % 65536) 0
    (st = .free ∨ st = .ended ∨ (ends ∧ (st = .idle ∨ st = .saved)) → t = s)
    ∧ (st ≠ .free → st ≠ .ended →
      (ends → st ≠ .idle → st ≠ .saved → t = s.endOrHold x.ctx x.die 0 (some record)
        ∧ (s.trapNow x.ctx = none → t = s.endContext x.ctx x.die 0 (some record)))
      ∧ (∀ k, ¬ ends → lowest k →
          (∃ stops : Bool, (stops = true ↔ ¬ goes) ∧
            NMap.find (t.cd x.ctx x.die).pending k = some ⟨x.index, x.code, x.sync, stops, x.job, x.acc⟩)
          ∧ (s.usableEntry x e = none → t.agenda = s.agenda ∧ (t.ctx x.ctx).st = if st = .running then .halted else st)
          ∧ (∀ n, s.usableEntry x e = some n →
              (t.ctx x.ctx).st = (if st = .running ∧ ¬ goes then .halted else st)
              ∧ ∃ a, t.agenda = s.agenda ++ [.tokenArrival a] ∧ a.at_ = ⟨x.die, n⟩ ∧ a.trap = true
                  ∧ a.place = ⟨fieldOf e 32 16, fieldOf e 27 5, fieldOf e 26 1 = 1⟩ ∧ a.tok.tag.kind = .control
                  ∧ a.tok.tag.ctx = BitVec.ofNat 12 x.ctx ∧ a.tok.tag.null = false ∧ a.tok.tag.pred = false
                  ∧ (x.sync = false → a.tok.tag.frame = 0 ∧ a.tok.tag.iter = 0 ∧ a.tok.tag.phase = 0)
                  ∧ a.tok.payload = faultRecord s x ((if x.sync then 1 else 0) + if goes then 0 else 2) (e.toNat % 65536) k ++ x.operand.take 96))
      ∧ (¬ ends → (∀ i < top, NMap.find p i ≠ none) →
          (∀ j, x.sync = true → x.job = some j → t = s.offerAgain j.fi)
          ∧ (x.sync = false → t.agenda = s.agenda ∧ (t.cd x.ctx x.die).pending = p
              ∧ fieldOf (t.cd x.ctx x.die).status 32 8 = min 255 (fieldOf (s.cd x.ctx x.die).status 32 8 + 1)
              ∧ (t.ctx x.ctx).st = if st = .running ∧ ¬ goes then .halted else st)))

/-- 18 R374, with the handler's tile of 18 R371 step 4. -/
def Obligations.UsableEntries : Prop :=
  ∀ (s : State) (x : FaultInfo) (e : BitVec 64) (r : Region) (n : Nat), s.region? x.region = some r →
    let b := fieldOf e 32 16
    let d := s.readVa r.launch.ctx (r.launch.image + r.launch.blockTable + 448 * b + 384) 64
    let base := r.launch.image + r.launch.blockTable + 448 * b
    let w := BitVec.ofNat 32 (leNat (s.readVa r.launch.ctx (base + 4 * fieldOf e 27 5) 4))
    let z := BitVec.ofNat 64 (leNat (s.readVa r.launch.ctx (base + 128 + 8 * fieldOf e 27 5) 8))
    let col := n % 32
    let row := n / 32
    (s.usableEntry x e = some n ↔
      e.getLsbD 63 = true ∧ b < r.launch.blocks
      ∧ (if e.getLsbD 62 then (x.tile = some n ∨ (x.tile = none ∧ ((r.tiles.filter (fun t => t.die = x.die)).map (·.tile)).head? = some n))
         else n = fieldOf e 16 10)
      ∧ (⟨x.die, n⟩ : TileId) ∈ r.tiles
      ∧ ((byteAt d 4).toNat ≤ col ∧ col ≤ (byteAt d 5).toNat ∧ (byteAt d 6).toNat ≤ row ∧ row ≤ (byteAt d 7).toNat)
      ∧ (w ≠ 0 ∨ z ≠ 0) ∧ fieldOf w (if e.getLsbD 26 then 22 else 24) 2 = 0)

/-- 05 R103: the quota, for stations whose pass is open. -/
def Obligations.HeldEffects : Prop :=
  ∀ (s : State) (f : Fields) (fi : Firing) (p : Pass) (e : Effect),
    let j : Job := ⟨fi, f⟩
    (s.tile fi.at_).pass? fi.inst = some p →
      let used := p.held.length + if p.exits = [] then 0 else 1
      (used < p.quota →
        s.hold j e = s.modTile fi.at_ (fun x => { x with
          passes := x.passes.map (fun q => if q.id = fi.inst then { q with held := q.held ++ [e] } else q) }))
      ∧ (p.quota ≤ used → s.hold j e = { s with overfull := true })
      ∧ (∀ after : State, after.overfull = false →
          s.settle j after = if fi.at_ ∈ after.touched ∧ ∀ c ∈ after.batch, firesAt fi.at_ c = false then after.closeTile fi.at_ else after)
      ∧ (∀ after : State, after.overfull = true →
          let c := s.regionCtx fi.region
          let m := s.writeHangMap c fi.die 1 (s.hangEntries c fi.die)
          s.settle j after = m.raiseFault {
            index := 11, code := 1, sync := true, ctx := m.regionCtx fi.region, die := fi.die, tile := some fi.tile,
            region := fi.region, job := some j, block := fi.block, detail := leBytes 8 p.frame.toNat,
            operand := if f.srcA = 0 then fi.payload false else operandIn m j f.tyT false })

/-- 05 R105, R107, R116: `xs` are the exits named, `x` the exit token that commits an ordinary pass `p`. -/
def Obligations.PassCommits : Prop :=
  (∀ (s : State) (f : Fields) (fi : Firing) (keep : Bool) (x : Nat) (xs : List Nat) (tok : Token),
    let j : Job := ⟨fi, f⟩
    let t := fi.at_
    let s' := s.sendExits j false keep (x :: xs) tok
    (∀ p, (s.tile t).pass? fi.inst = some p → (keep = true → p.exits = [] → p.held.length < p.quota) →
      (s'.tile t).pass? fi.inst = some { p with exits := p.exits ++ (x :: xs).map (fun k =>
        ⟨k, .exit k tok false (dExit fi.desc k) (srcKey fi), keep⟩) }
      ∧ t ∈ s'.touched ∧ s'.agenda = s.agenda ∧ s'.ready = s.ready ∧ (s'.tile t).entries = (s.tile t).entries)
    ∧ (∀ p, (s.tile t).pass? fi.inst = some p → keep = true → p.exits = [] → p.quota ≤ p.held.length →
        s' = { s with overfull := true })
    ∧ ((s.tile t).pass? fi.inst = none →
        (s'.cd (s.ctxOf t) fi.die).status.getLsbD 1 = true ∧ s'.agenda = s.agenda ∧ (s'.tile t).drains = (s.tile t).drains
        ∧ (s'.tile t).passes = (s.tile t).passes))
  ∧ ∀ (s : State) (t : TileId) (p : Pass) (xs ys : List ExitTok) (x : ExitTok),
    p.exits = xs ++ x :: ys → (∀ y ∈ xs, x.exit < y.exit) → (∀ y ∈ ys, x.exit ≤ y.exit) → p.handler = false →
      let c := s.ctxOf t
      let s' := s.closePass t p
      (s'.tile t).passes = (s.tile t).passes.filter (fun q => q.id ≠ p.id)
      ∧ (s'.tile t).drains = (s.tile t).drains ++ [⟨p.id, (if x.keep then p.held else []) ++ [x.eff], false⟩]
      ∧ .commitDrain t ∈ s'.agenda
      ∧ (s'.tile t).entries = (s.tile t).entries.filter (fun e => e.inst ≠ p.id)
      ∧ s'.ready = s.ready.filter (fun q => !(q.at_ = t && q.inst = p.id))
      ∧ (((s.tile t).entries.any (fun e => e.inst = p.id) || s.ready.any (fun q => q.at_ = t && q.inst = p.id)) = true →
          (s'.cd c t.die).status.getLsbD 2 = true)
      ∧ (xs ++ ys ≠ [] → (s'.cd c t.die).status.getLsbD 1 = true)

/-- 05 R109. `xs` and `ys` are the writes before and after the one that stands, in the order of their firings. -/
def Obligations.RegistersAtCycleEnd : Prop :=
  ∀ (s : State) (t : TileId),
    let x := s.tile t
    let s' := s.closeTile t
    let y := s'.tile t
    let covers := fun (r : RegName) (i : Nat) (w : RegWrite) => w.reg = r ∧ w.off ≤ i ∧ i < w.off + w.bytes.length
    let last := fun (xs ys : List RegWrite) (w : RegWrite) (hit : RegWrite → Prop) =>
      x.regNext = xs ++ w :: ys ∧ hit w ∧ (∀ q ∈ xs, hit q → q.station ≤ w.station) ∧ ∀ q ∈ ys, hit q → q.station < w.station
    y.regNext = [] ∧ t ∉ s'.touched ∧ ((s.ctx (s.ctxOf t)).heldEnd = none → s'.mem = s.mem)
    ∧ (∀ k i, (∀ w ∈ x.regNext, ¬ covers (.s k) i w) → byteAt (y.sreg k) i = byteAt (x.sreg k) i)
    ∧ (∀ k i xs w ys, k < x.sregs.length → i < (x.sreg k).length → last xs ys w (covers (.s k) i) →
        byteAt (y.sreg k) i = byteAt w.bytes (i - w.off))
    ∧ (∀ k i, (∀ w ∈ x.regNext, ¬ covers (.w k) i w) → byteAt (y.wregs.getD k []) i = byteAt (x.wregs.getD k []) i)
    ∧ (∀ k i xs w ys, k < x.wregs.length → i < (x.wregs.getD k []).length → (∀ q ∈ x.regNext, ∀ n, q.reg = .w n → q.off = 0) → i < 32 →
        last xs ys w (covers (.w k) i) → byteAt (y.wregs.getD k []) i = byteAt w.bytes (i - w.off))
    ∧ (∀ k, (∀ w ∈ x.regNext, w.reg ≠ .a k) → y.aregs.getD k 0 = x.aregs.getD k 0)
    ∧ (∀ k xs w ys, k < x.aregs.length → last xs ys w (fun q => q.reg = .a k) → y.aregs.getD k 0 = BitVec.ofNat 64 (leNat w.bytes))
    ∧ ∀ t' : TileId, tileKey t' ≠ tileKey t → (s'.tile t').sregs = (s.tile t').sregs ∧ (s'.tile t').aregs = (s.tile t').aregs
        ∧ (s'.tile t').wregs = (s.tile t').wregs

/-- 18 R375, R377. The ticket is the pending entry in bits 5 to 0, the die in bits 8 to 6, the package above. -/
def Obligations.SystemResults : Prop :=
  ∀ (f : Fields) (s u : State),
    let t := s.cur.at_
    let c := u.regionCtx s.cur.region
    let d := s.cur.die
    let a := opIn f s u .none false
    let b := opIn f s u .none true
    let j : Job := ⟨s.cur, f⟩
    let put := fun (v : State) => Host.Outcome.next (ρ := Refusal) (φ := Fault) (finished f s v)
    let timed := fun (bs : Bytes) =>
      put (if 1 ≤ u.level c then ((u.consume s.cur).setStatus c d 9).emitBoth j .value (zeros bs.length)
        else (u.consume s.cur).emitBoth j .value bs)
    (Fires f (sregDests f) s u →
      exec (.sysClock f) s = timed (leBytes 8 u.cycles)
      ∧ exec (.sysTileid f) s = timed (leBytes 8 (t.tile + t.die * 2 ^ 10 + u.pkg * 2 ^ 13 +
          (match (u.tile t).kind with | .none => 0 | .ag => 1 | .cp => 2 | .rd => 3) * 2 ^ 23 + (u.tile t).position % 2 ^ 32 * 2 ^ 32))
      ∧ exec (.sysTimer f) s = timed (leBytes 8 ((u.cycles - (u.ctx c).created) * 10 / 19))
      ∧ (let mask := if f.srcB = 3 then 0 else leNat (sliceB b 0 4)
         let v := (u.cd c d).status
         let v' := v &&& ~~~(BitVec.ofNat 64 (mask % 2 ^ 11))
         exec (.sysCtxst f) s = put (((u.modCd c d (fun x => { x with
             status := if mask.testBit 11 then withField v' 32 8 0 else v' })).consume s.cur).emit2 j .value
               (leBytes 8 (withField v 44 4 (u.ctx c).st.code).toNat)))
      ∧ (let k := leNat (sliceB a 12 4)
         let die := k / 64 % 8
         let named : Option Pending := if k / 512 % 1024 = u.pkg ∧ k < 2 ^ 19 then NMap.find (u.cd c die).pending (k % 64) else none
         (named = none → exec (.trapTret f) s = put ((u.consume s.cur).emit2 j .value (leBytes 4 1)))
         ∧ ∀ p, named = some p → ∃ v, exec (.trapTret f) s = put (v.emit2 j .value (leBytes 4 0))
             ∧ v = (u.consume s.cur).releaseTrap c die (k % 64) p (if f.lit.toNat % 2 = 1 then none else some b)))
    ∧ (Fires f [] s u →
      exec (.trapTrap f) s = put (u.raiseFault {
          index := 16 + f.lit.toNat % 16, code := f.lit.toNat % 16, sync := true, ctx := c, die := d, tile := some t.tile,
          region := s.cur.region, job := some j, block := s.cur.block, operand := if f.srcA = 0 then s.cur.payload false else opIn f s u f.tyT false })
      ∧ exec (.sysCtxend f) s = put ((u.consume s.cur).endOrHold c d (leNat (sliceB a 0 4)) none)
      ∧ ((u.consume s.cur).trapNow c = none →
          exec (.sysCtxend f) s = put ((u.consume s.cur).endContext c d (leNat (sliceB a 0 4)) none)))

/-- 18 R375, what a release does. `g` is the station tag, one sync level up at ORDERED and above (11 R424), behind every store performed so
far (11 R232). -/
def Obligations.TrapIsReleased : Prop :=
  ∀ (s : State) (c d k : Nat) (p : Pending) (b : Option Bytes),
    let s1 := s.modCd c d (fun x => { x with pending := NMap.del x.pending k, recv := x.recv + 1 })
    let t := s.dropTrap c d k p b
    (p.sync = false → t = s1)
    ∧ (p.sync = true → p.index ≠ 10 → b = none → t = s1)
    ∧ (∀ j v, p.sync = true → p.index ≠ 10 → b = some v → p.job = some j →
        let lv := s1.level (s1.regionCtx j.fi.region)
        let g : Tag := { j.fi.stTag with
          level := if 1 ≤ lv ∧ j.f.tag ≠ 5 then j.fi.stTag.level + 1 else j.fi.stTag.level, seen := s1.stores }
        let ds := [j.f.dstA.toNat, j.f.dstB.toNat].filter (fun n => !isSreg n)
        let j' : Job := { j with fi := { j.fi with watched := true } }
        t = s1.settle j' ((s1.emitRes j' false ds g .value (some v)).emitDone j' false ds g (some v)))
    ∧ (∀ a, p.sync = true → p.index = 10 → p.acc = some a → t = s1.issueHeld a)
    ∧ (p.stopping = false ∨ t.stopPending c = true → s.releaseTrap c d k p b = t)
    ∧ (p.stopping = true → t.stopPending c = false → s.releaseTrap c d k p b = t.goOn c)
    ∧ ((t.ctx c).st = .halted → t.stopPending c = false → p.stopping = true → (t.ctx c).brk = [] →
        t.ready.any (fun q => q.stopped) = false → ((s.releaseTrap c d k p b).ctx c).st = .running ∨
        ∃ x ∈ t.ctxTiles c, (t.tile x).latch ≠ none)

/-- 17 R362, 19 R400. -/
def Obligations.ObservationResults : Prop :=
  ∀ (f : Fields) (s u : State), Fires f (sregDests f) s u →
    let c := u.regionCtx s.cur.region
    let d := s.cur.die
    let a := opIn f s u .none false
    let b := opIn f s u .none true
    let j : Job := ⟨s.cur, f⟩
    let lit := f.lit.toNat
    let put := fun (v : State) => Host.Outcome.next (ρ := Refusal) (φ := Fault) (finished f s v)
    ((u.cd c d).obs.ctl.getLsbD 1 = false → exec (.dbgBrk f) s = put (valueOut f s u a))
    ∧ ((u.cd c d).obs.ctl.getLsbD 1 = true →
        exec (.dbgBrk f) s = put (((u.consume s.cur).modCtx c (fun x => { x with brk := x.brk ++ [(j, a)] })).preciseStop c s.cur 0xFF))
    ∧ exec (.dbgTrace f) s = put (((u.catalogue c d 1 (lit % 256) (some s.cur) (sliceB (if f.srcB = 3 then [] else b) 0 24)).consume
        s.cur).emit2 j .value a)
    ∧ (let bs := if lit % 256 = 0 then u.dbgBins s.cur (lit / 256 % 32) else leBytes 8 (u.dbgRead s.cur.at_ (lit % 256) (lit / 65536 % 128)).toNat
       exec (.dbgHist f) s = put (if 1 ≤ u.level c then ((u.consume s.cur).setStatus c d 9).emitBoth j .value (zeros bs.length)
         else (u.consume s.cur).emitBoth j .value bs))
    ∧ (u.level c = 0 → exec (.accnIntv f) s = put (valueOut f s u a))
    ∧ (1 ≤ u.level c → exec (.accnIntv f) s = put ((u.askBoundary c 0).modCtx c (fun x => { x with intv := x.intv ++ [(j, a)] })))
    ∧ (let r : LogRec := ⟨11, 0, s.cur.tile, s.cur.stTag.frame, s.cur.seq 0, arecDetail u j, lit % 256⟩
       (u.level c < 2 → exec (.accnArec f) s = put (valueOut f s u a))
       ∧ (∀ v, u.logEvent c d r = .go v → exec (.accnArec f) s = put ((v.consume s.cur).emit2 j .value (opIn f s u .none false)))
       ∧ (∀ v, u.logEvent c d r = .wait v → exec (.accnArec f) s = put (v.offerAgain s.cur)))

/-- 08 R175, R176. `addrs` are the element addresses; `data` the bytes a firing of the pass reads (05 R104). -/
def Obligations.LocalMemoryResults : Prop :=
  ∀ (f : Fields) (s u : State) (minor : Nat), minor < 3 →
    let t := s.cur.at_
    let j : Job := ⟨s.cur, f⟩
    let x := u.tile t
    let sz := f.tyT.size
    let d := descriptorOn u j false
    let l := (byteAt d 4).toNat
    let put := fun (v : State) => Host.Outcome.next (ρ := Refusal) (φ := Fault) (finished f s v)
    let addrs := fun (base n : Nat) => (List.range n).map (fun i =>
      if minor = 0 then ((base + i * sz : Nat) : Int)
      else if minor = 1 then (base : Int) + i * (let k := leNat (sliceB d 6 2); if k < 2 ^ 15 then (k : Int) else k - 2 ^ 16)
      else ((base + leNat (sliceB d (8 + 2 * i) 2) * sz : Nat) : Int))
    let inside := fun (as : List Int) => (minor = 2 → l ≤ 60) ∧ (minor ≠ 2 → l ≤ 128) ∧ ∀ a ∈ as, 0 ≤ a ∧ a + sz ≤ 0x30000
    let ldl : Instr := if minor = 0 then .ldlLdl f else if minor = 1 then .ldlLdls f else .ldlLdlx f
    let stl : Instr := if minor = 0 then .stlStl f else if minor = 1 then .stlStls f else .stlStlx f
    (Fires f (sregDests f) s u →
      let n := if minor = 2 then l else (if l = 0 then 128 else l) / sz
      let as := addrs ((leNat (sliceB d 0 4) + addendOn u j 4) % 2 ^ 32) n
      (¬ inside as → exec ldl s = put (u.spadFault j 0x12 d))
      ∧ (inside as → n = 0 → exec ldl s = put ((u.consume s.cur).emitBoth j .value []))
      ∧ (inside as → 0 < n →
          let gs := granulesOf ((as.map Int.toNat).map (fun a => (a, sz)))
          let w : Waiting := { job := j, reads := as.map Int.toNat, size := sz, qual := f.qual }
          x.fwd.length < 16 → (u.firstWaiting t).1 = none → u.behindRecord t w = false →
          (f.qual = 1 ∨ f.qual = 2 → ∀ g ∈ gs, g ∈ x.full) → (f.qual = 3 → ∀ g ∈ gs, g ∉ x.full) →
          let data := (as.map Int.toNat).flatMap (fun a => (List.range sz).map (fun i =>
            (writtenAt (x.heldWrites s.cur.inst) (a + i)).getD (Memory.get x.spad (a + i))))
          let q := u.spadSeen j
          let v := q.2.modTile t (fun y => { y with full := if f.qual = 2 then y.full.filter (fun g => !gs.contains g)
            else if f.qual = 3 ∨ f.qual = 4 then y.full ++ gs.filter (fun g => !y.full.contains g) else y.full })
          let v := if f.qual = 2 then v.due (.fullEmptyWaitPerform t) else v
          exec ldl s = put (q.2.settle q.1 ((v.consume q.1.fi).emitBoth q.1 .value data))))
    ∧ (Fires f [] s u →
      let n := if minor = 2 then l else (if l = 0 then (if f.srcB = 0 then (s.cur.payload true).length else 128) else l) / sz
      let as := addrs (leNat (sliceB d 0 4)) n
      let b := opIn f s u f.tyT true
      (¬ inside as → exec stl s = put (u.spadFault j 0x13 d))
      ∧ (inside as → n = 0 → exec stl s = put ((u.consume s.cur).emitBoth j .value []))
      ∧ (inside as → 0 < n → exec stl s = put ((u.consume s.cur).hold j
          (.stl j (((as.map Int.toNat).zipIdx).map (fun p => (p.1, sliceB b (p.2 * sz) sz))) (f.qual = 3)))))

/-- 08 R168, R173, R176: the store performed, before its completion tokens leave. -/
def Obligations.LocalStorePerforms : Prop :=
  ∀ (s : State) (j : Job) (ws : List (Nat × Bytes)), ∃ v : State,
    let t := j.fi.at_
    s.stlPerform j ws = v.emitBoth (s.spadSeen j).1 .value []
    ∧ (∀ a, Memory.get (v.tile t).spad a = (writtenAt ws a).getD (Memory.get (s.tile t).spad a))
    ∧ (∀ g, g ∈ (v.tile t).full ↔ g ∈ (s.tile t).full ∨ ∃ w ∈ ws, ∃ i < w.2.length, g = (w.1 + i) / 16)
    ∧ (∃ gs, (v.tile t).fwd = (s.tile t).fwd ++ [gs] ∧ ∀ g, g ∈ gs ↔ ∃ w ∈ ws, ∃ i < w.2.length, g = (w.1 + i) / 16)
    ∧ .forwardingRetire t ∈ v.agenda ∧ .fullEmptyWaitPerform t ∈ v.agenda
    ∧ (∀ t' : TileId, tileKey t' ≠ tileKey t → v.tile t' = s.tile t') ∧ v.mem = s.mem ∧ v.hostMem = s.hostMem

/-- 09 R190, R191. `kind` 0 is a lease entry, 1 the image, 2 a window, 3 the spill region. -/
def Obligations.LeaseRule : Prop :=
  ∀ (l : Launch) (write : Bool) (a n : Nat), 0 < n → (∀ r ∈ l.leases, 0 < r.size ∧ r.kind < 4) →
    let spans := fun (r : LeaseRange) (x : Nat) => r.base ≤ x ∧ x < r.base + r.size
    let allowed := fun (x : Nat) =>
      if write then (∃ r ∈ l.leases, r.kind = 0 ∧ r.w = true ∧ spans r x) ∧ ∀ r ∈ l.leases, r.kind ≠ 0 → ¬ spans r x
      else (∃ r ∈ l.leases, r.kind ≠ 3 ∧ spans r x) ∧ ∀ r ∈ l.leases, r.kind = 3 → ¬ spans r x
    let whole := a + n ≤ 2 ^ 64 ∧ a / 2 ^ 51 = (a + n - 1) / 2 ^ 51
    (firstDenied l write a n = none ↔ whole ∧ ∀ x, a ≤ x → x < a + n → allowed x)
    ∧ (∀ x, whole → firstDenied l write a n = some x → a ≤ x ∧ x < a + n ∧ ¬ allowed x ∧ ∀ y, a ≤ y → y < x → allowed y)
    ∧ (¬ whole → firstDenied l write a n = some a)

/-- 10 R204, R205, R211, R212. `ea` is the effective address; the access that issues is given whole. -/
def Obligations.LoadResults : Prop :=
  ∀ (f : Fields) (s u : State) (r : Region), Fires f (sregDests f) s u → u.region? s.cur.region = some r →
    let t := s.cur.at_
    let c := r.launch.ctx
    let j : Job := ⟨s.cur, f⟩
    let sz := f.tyT.size
    let d := descriptorOn u j false
    let b8 := (byteAt d 8).toNat
    let l := (byteAt d 9).toNat
    let ea := (leNat (sliceB d 0 8) + (if b8 / 16 % 2 = 1 then ((u.tile t).areg (b8 % 16)).toNat else 0) + addendOn u j 8) % 2 ^ 64
    let put := fun (v : State) => Host.Outcome.next (ρ := Refusal) (φ := Fault) (finished f s v)
    let done := fun (v : State) (bs : Bytes) => put ((v.consume s.cur).emitBoth j .value bs)
    let issue := fun (v : State) (i : Instr) (a : Access) =>
      (∀ k, (v.tile t).freeSlot = some k → v.watchHit a = none → exec i s = put (v.issueSlot a .data k))
      ∧ ((v.tile t).freeSlot = none → exec i s = put ((v.agqNote t 0).offerAgain s.cur))
    let plain := fun (minor : Nat) (i : Instr) =>
      let n := (if l = 0 then 128 else l) / sz * sz
      (l ≤ 128 → ea + n ≤ 2 ^ 64 → n = 0 → exec i s = done u [])
      ∧ (l ≤ 128 → ea + n ≤ 2 ^ 64 → 0 < n → firstDenied r.launch false ea n = none →
          issue u i { job := j, major := 0x14, minor := minor, loads := [(ea, n)], size := n })
      ∧ (∀ a, l ≤ 128 → ea + n ≤ 2 ^ 64 → 0 < n → firstDenied r.launch false ea n = some a → exec i s = put (u.leaseFault j 0x14 a 0))
    let rows := fun (minor : Nat) (i : Instr) (len : Nat) (runs : List (Nat × Nat)) (fits : Prop) =>
      (l ≤ 26 → fits → (∀ q ∈ runs, q.1 + q.2 ≤ 2 ^ 64) → l = 0 → exec i s = done u [])
      ∧ (l ≤ 26 → fits → (∀ q ∈ runs, q.1 + q.2 ≤ 2 ^ 64) → 0 < l → 0 < len → (∀ q ∈ runs, firstDenied r.launch false q.1 q.2 = none) →
          (∀ q ∈ runs, ∀ q' ∈ runs, q.1 / 2 ^ 51 = q'.1 / 2 ^ 51) → issue u i { job := j, major := 0x16, minor := minor, loads := runs, size := l * len })
      ∧ (∀ lo, l ≤ 26 → fits → (∀ q ∈ runs, q.1 + q.2 ≤ 2 ^ 64) → 0 < l → 0 < len → lo ∈ runs.map (·.1) → (∀ q ∈ runs, lo ≤ q.1) →
          (∃ q ∈ runs, (q.1 + len - 1) / 2 ^ 51 ≠ lo / 2 ^ 51) → exec i s = put (u.leaseFault j 0x16 lo 0))
    plain 0 (.ldLd f) ∧ plain 1 (.ldLdnt f) ∧ plain 3 (.ldLdfc f)
    ∧ rows 0 (.gatherGath f) sz ((List.range l).map (fun i => (ea + leNat (sliceB d (24 + 4 * i) 4) * sz, sz))) (l * sz ≤ 128)
    ∧ (let rl := leNat (sliceB d 10 2)
       rows 1 (.gatherGathw f) rl ((List.range l).map (fun i => (ea + leNat (sliceB d (24 + 4 * i) 4), rl))) (0 < rl ∧ l * rl ≤ 128))
    ∧ (∀ base bound, u.window? s.cur.region (b8 % 8) = some (base, bound) → l ≤ 128 →
        let n := (if l = 0 then 128 else l) / sz * sz
        let off := (leNat (sliceB d 0 8) + addendOn u j 8) % 2 ^ 32
        let v := if bound < off + n ∧ 0 < n then u.setStatus c s.cur.die 4 else u
        (off < bound → 0 < n → firstDenied r.launch false (base + off) (min n (bound - off)) = none → issue v (.ldLdpw f) {
            job := j, major := 0x14, minor := 2, loads := [(base + off, min n (bound - off))], size := n })
        ∧ (∀ a, off < bound → 0 < n → firstDenied r.launch false (base + off) (min n (bound - off)) = some a →
            exec (.ldLdpw f) s = put (u.leaseFault j 0x14 a 0))
        ∧ (bound ≤ off → exec (.ldLdpw f) s = done v (zeros n)))
    ∧ exec (.ldFcinv f) s = done (if f.scope = 2 then u.fcClear c s.cur.die
        else (List.range 8).foldl (fun v d => v.fcClear c d) u) []

/-- 10 R204, R205, R224, R225. The address stored to is `ea`, or `ea` plus index times size. -/
def Obligations.StoreResults : Prop :=
  ∀ (f : Fields) (s u : State) (r : Region), Fires f [] s u → u.region? s.cur.region = some r →
    let t := s.cur.at_
    let j : Job := ⟨s.cur, f⟩
    let sz := f.tyT.size
    let d := descriptorOn u j false
    let b8 := (byteAt d 8).toNat
    let l := (byteAt d 9).toNat
    let ea := (leNat (sliceB d 0 8) + (if b8 / 16 % 2 = 1 then ((u.tile t).areg (b8 % 16)).toNat else 0)) % 2 ^ 64
    let b := opIn f s u f.tyT true
    let cred := BitVec.ofNat 64 (leNat (sliceB d 16 8))
    let put := fun (v : State) => Host.Outcome.next (ρ := Refusal) (φ := Fault) (finished f s v)
    let empty := put ((u.consume s.cur).emitBoth j .value [])
    let hold := fun (major minor : Nat) (ws : List (Nat × Bytes)) =>
      put ((u.consume s.cur).hold j (.store { job := j, major := major, minor := minor, writes := ws, credit := cred }))
    let plain := fun (minor : Nat) (i : Instr) =>
      let n := (if l = 0 then (if f.srcB = 0 then (s.cur.payload true).length else 128) else l) / sz
      l ≤ 128 → ea + n * sz ≤ 2 ^ 64 →
        (n = 0 → exec i s = empty)
        ∧ (0 < n → firstDenied r.launch true ea (n * sz) = none → exec i s = hold 0x15 minor [(ea, sliceB b 0 (n * sz))])
        ∧ (∀ a, 0 < n → firstDenied r.launch true ea (n * sz) = some a → exec i s = put (u.leaseFault j 0x15 a 0))
    let scat := fun (minor : Nat) (i : Instr) =>
      let els := (List.range l).filter (fun k => minor = 0 || (leNat (sliceB d 12 4)).testBit k)
      let ad := fun (k : Nat) => ea + leNat (sliceB d (24 + 4 * k) 4) * sz
      l ≤ 26 → l * sz ≤ 128 → (∀ k < l, ad k + sz ≤ 2 ^ 64) → (∀ k < l, firstDenied r.launch true (ad k) sz = none) →
      (∀ k < l, ∀ k' < l, ad k / 2 ^ 51 = ad k' / 2 ^ 51) →
        (els = [] → exec i s = empty)
        ∧ (els ≠ [] → exec i s = hold 0x17 minor (els.map (fun k => (ad k, sliceB b (k * sz) sz))))
    let copy := fun (minor : Nat) (i : Instr) =>
      let src := leNat (sliceB d 0 8)
      let dst := leNat (sliceB d 8 8)
      let len := leNat (sliceB d 16 4)
      let rows := if minor = 1 then leNat (sliceB d 20 4) else 1
      let ss := leNat (sliceB d 24 4)
      let ds := leNat (sliceB d 28 4)
      let dsp := (byteAt d 48).getLsbD 0
      let home := leNat (sliceB d 50 2) % 1024
      let off := dst % 2 ^ 18
      (minor = 1 → len ≤ 2 ^ 24 ∧ rows ≤ 65536) →
      (minor ≠ 2 → 0 < len → ∀ k < rows, firstDenied r.launch false (src + k * ss) len = none ∧ (src + k * ss) / 2 ^ 51 = src / 2 ^ 51) →
      (dsp = false → 0 < len → ∀ k < rows, firstDenied r.launch true (dst + k * ds) len = none ∧ (dst + k * ds) / 2 ^ 51 = dst / 2 ^ 51) →
      (dsp = true → ⟨s.cur.die, home⟩ ∈ r.tiles ∧ (0 < rows → 0 < len → off + (rows - 1) * ds + len ≤ 0x30000)) →
        exec i s = put ((u.consume s.cur).hold j (.copy {
          job := j, minor := minor, src := BitVec.ofNat 64 src, dst := BitVec.ofNat 64 (if dsp then off else dst), len := len, rows := rows,
          sstride := ss, dstride := ds, credit := BitVec.ofNat 64 (leNat (sliceB d 32 8)), pattern := sliceB d 40 8,
          dsp := if dsp then some home else none,
          streamer := if f.lit.getLsbD 3 then s.cur.tile % 8 else f.lit.toNat % 8, ctx := r.launch.ctx }))
    plain 0 (.stSt f) ∧ plain 1 (.stStnt f) ∧ scat 0 (.scatterScat f) ∧ scat 1 (.scatterScatm f)
    ∧ copy 0 (.xferCopy f) ∧ copy 1 (.xferCopy2d f) ∧ copy 2 (.xferFill f)

/-- 10 R214, R215, R221. `b` is side B as the class reads it. -/
def Obligations.AtomicAndBarrierResults : Prop :=
  ∀ (f : Fields) (s u : State) (r : Region), Fires f (sregDests f) s u → u.region? s.cur.region = some r →
    let t := s.cur.at_
    let j : Job := ⟨s.cur, f⟩
    let d := descriptorOn u j false
    let b8 := (byteAt d 8).toNat
    let ea := (leNat (sliceB d 0 8) + (if b8 / 16 % 2 = 1 then ((u.tile t).areg (b8 % 16)).toNat else 0)) % 2 ^ 64
    let put := fun (v : State) => Host.Outcome.next (ρ := Refusal) (φ := Fault) (finished f s v)
    let goes := fun (i : Instr) (write : Bool) (n : Nat) (a : Access) (k : ReplyKind) =>
      (ea % n = 0 → firstDenied r.launch write ea n = none →
        (∀ slot, (u.tile t).freeSlot = some slot → u.watchHit a = none → exec i s = put (u.issueSlot a k slot))
        ∧ ((u.tile t).freeSlot = none → exec i s = put ((u.agqNote t 0).offerAgain s.cur)))
      ∧ (ea % n ≠ 0 → exec i s = put (u.leaseFault j a.major ea 1))
      ∧ (∀ x, ea % n = 0 → firstDenied r.launch write ea n = some x → exec i s = put (u.leaseFault j a.major x 0))
    let atom := fun (i : Instr) (minor : Nat) (op : AtomOp) =>
      let n := if minor = 8 then 16 else f.tyT.size
      let b : Bytes := if f.srcB = 0 then (s.cur.payload true).take ((s.cur.payload true).length / f.tyT.size * f.tyT.size)
        else if f.srcB = 2 then (u.tile t).sreg f.sb.toNat
        else if f.srcB = 3 then []
        else if f.tyT = .none then repeatTo 32 (leBytes 4 f.lit.toNat) else repeatTo (2 * n) (litElem f.tyT f.lit)
      goes i true n { job := j, major := 0x18, minor := minor, size := n,
                      op := some (ea, .atomic op n f.tyT.isSigned (sliceB b 0 n) (sliceB b n n)) } .atomic
    let bar := fun (i : Instr) (minor : Nat) (write : Bool) (op : Bytes → MemOp) (k : ReplyKind) =>
      let b : Bytes := if f.srcB = 0 then s.cur.payload true
        else if f.srcB = 2 then (u.tile t).sreg f.sb.toNat
        else if f.srcB = 3 then [] else leBytes 4 f.lit.toNat
      goes i write 64 { job := j, major := 0x1A, minor := minor, size := 4, op := some (ea, op b), scope := f.scope } k
    let n4 := fun (b : Bytes) (o : Nat) => BitVec.ofNat 32 (leNat (sliceB b o 4))
    atom (.atomAtadd f) 0 .add ∧ atom (.atomAtmin f) 1 .min ∧ atom (.atomAtmax f) 2 .max ∧ atom (.atomAtand f) 3 .and
    ∧ atom (.atomAtor f) 4 .or ∧ atom (.atomAtxor f) 5 .xor ∧ atom (.atomAtxchg f) 6 .xchg ∧ atom (.atomAtcas f) 7 .cas
    ∧ atom (.atomAtcasw f) 8 .casw ∧ atom (.atomAtfadd f) 9 .fadd
    ∧ bar (.barBarinit f) 0 true (fun b => .barInit (n4 b 0) (n4 b 4) (BitVec.ofNat 64 (leNat (sliceB b 8 8)))) .barrier
    ∧ bar (.barBarjoin f) 1 true (fun b => .barJoin (if f.srcB = 3 then 1 else n4 b 0)) .barrier
    ∧ bar (.barBarwait f) 2 false (fun b => .barWait (n4 b 0)) (.barwait f.scope)

/-- 10 R218 and 06 R138. `g` is the tag under which the class emits. -/
def Obligations.OrderAndJoinResults : Prop :=
  ∀ (f : Fields) (s u : State), Fires f (sregDests f) s u →
    let t := s.cur.at_
    let j : Job := ⟨s.cur, f⟩
    let v := u.consume s.cur
    let a := opIn f s u .none false
    let st := s.cur.stTag
    let both := [f.dstA.toNat, f.dstB.toNat]
    let up := fun (g : Tag) => if 1 ≤ u.level (u.regionCtx s.cur.region) ∧ f.tag ≠ 5 then { g with level := g.level + 1 } else g
    let saw := fun (g : Tag) => { g with seen := u.stores }
    let put := fun (w : State) => Host.Outcome.next (ρ := Refusal) (φ := Fault) (finished f s w)
    let emit := fun (w : State) (g : Tag) => v.settle j ((w.emitRes j false both (saw g) .value (some a)).emitDone j false both (saw g) (some a))
    let wait := fun (acq fence : Bool) (g : Tag) => put (v.modTile t (fun x => { x with orders := x.orders ++ [{
      job := j, serials := (u.tile t).earlier, scope := f.scope, acquire := acq, fence := fence, kind := .value, pay := a, tag := g }] }))
    let free := (u.tile t).earlier = []
    exec (.orderAcq f) s = put (emit (v.acquire t f.scope) (up st))
    ∧ (free → exec (.orderRel f) s = put (emit v st)) ∧ (¬ free → exec (.orderRel f) s = wait false false st)
    ∧ (free → exec (.orderAcqrel f) s = put (emit (v.acquire t f.scope) (up st)))
    ∧ (¬ free → exec (.orderAcqrel f) s = wait true false (up st))
    ∧ (free → exec (.orderFence f) s = put (emit ((v.acquire t 4).fcClear (v.regionCtx s.cur.region) t.die) (up st)))
    ∧ (¬ free → exec (.orderFence f) s = wait true true (up st))
    ∧ (let ls := u.levelsOf s.cur
       let k := f.lit.toNat % 8
       let g := up { st with frame := clearFrom ls st.frame k }
       let far := fun (d : Nat) => decide (0x40 ≤ d) && decide (d < 0x50)
       let near : Job := ⟨s.cur, keepDests f (fun d => !far d)⟩
       let w := near.f.dstA.toNat
       let w' := near.f.dstB.toNat
       ((u.tile t).instOpen s.cur.inst = [] → ∃ x, exec (.joinJoin f) s = put (x.emitRes j true (both.filter far) g .control (some a))
          ∧ x = v.settle near ((v.emitRes near false [w, w'] (saw g) .control (some a)).emitDone near false [w, w'] (saw g) (some a)))
       ∧ ((u.tile t).instOpen s.cur.inst ≠ [] → ∃ o : OrderWait, o.job = near ∧ o.serials = (u.tile t).instOpen s.cur.inst ∧ o.tag = g ∧ o.pay = a
            ∧ exec (.joinJoin f) s = put ((v.modTile t (fun x => { x with orders := x.orders ++ [o] })).emitRes j true (both.filter far) g
                .control (some a)))
       ∧ (let x := if k + 1 < ls.length then v.modTile t (fun y => { y with spawns := delK y.spawns (st.frame, k + 1) }) else v
          exec (.joinJoinall f) s = put ((x.acquire t (((ls[k]?).map levelScope).getD 0)).emitRes j false both (saw (up st)) .control (some a))))

/-- 06 R137. `first` is the first child's frame; the children are those of `spawnKids`, whose members a clause describes. -/
def Obligations.SpawnResults : Prop :=
  ∀ (f : Fields) (s u : State) (r : Region), Fires f (sregDests f) s u → u.region? s.cur.region = some r →
    let t := s.cur.at_
    let j : Job := ⟨s.cur, f⟩
    let ls := r.launch.levels
    let k := f.lit.toNat / 2 ^ 22 % 8
    let p := s.cur.stTag.frame
    let b := leNat (sliceB (opIn f s u .none true) 0 4)
    let put := fun (v : State) => Host.Outcome.next (ρ := Refusal) (φ := Fault) (finished f s v)
    let result := fun (first : Nat) (n : Nat) => leBytes 8 first ++ leBytes 4 n ++ leBytes 1 k ++ [0, 0, 0]
    let none_ := put ((u.consume s.cur).emit2 j .value (result 0 0))
    let bad := put (((u.consume s.cur).setStatus (u.regionCtx s.cur.region) s.cur.die 3).emit2 j .value (result 0 0))
    let m := (lookupK (u.tile t).spawns (p, k)).getD 0
    let room := (lookupK (u.tile t).spawns (p, k)).isSome = true ∨ (u.tile t).spawns.length < 128
    let clear := ∀ i, k ≤ i → i < ls.length → levelField ls p i = 0
    let run := fun (i : Instr) (at_ : TileId) (n : Nat) =>
      (clear → n = 0 → exec i s = none_)
      ∧ (¬ clear ∨ 1024 < n → exec i s = bad)
      ∧ (clear → 0 < n → n ≤ 1024 → ¬ room → exec i s = put (u.offerAgain s.cur))
      ∧ (clear → 0 < n → n ≤ 1024 → room → m + n > 2 ^ widthOf ls k - 1 →
          exec i s = put (u.jobFault j 0 0x14 (leBytes 8 p.toNat ++ leBytes 1 k)))
      ∧ (clear → 0 < n → n ≤ 1024 → room → m + n ≤ 2 ^ widthOf ls k - 1 →
          let first := childFrame ls p k m
          let kids := u.spawnKids j ls at_ k m n (result first.toNat n)
          kids.length = n
          ∧ (∀ q, q < n → ∃ x, kids[q]? = some x ∧ x.at_ = at_ ∧ x.tok.tag.kind = .thread ∧ x.outside = true
              ∧ x.place = ⟨f.lit.toNat % 65536, f.lit.toNat / 2 ^ 17 % 32, f.lit.toNat / 65536 % 2 = 1⟩
              ∧ (f.tag = 0 → x.tok.tag.frame = childFrame ls p k (m + q) ∧ x.tok.tag.iter = 0
                  ∧ x.tok.payload = opIn f s u .none false))
          ∧ exec i s = put ((((kids.foldl (fun v a => v.countSent t a.tok.tag.phase 1) (u.consume s.cur)).modTile t
              (fun x => { x with spawns := putK x.spawns (p, k) (m + n) })).hold j (.spawn j kids)).emit2 j .value (result first.toNat n)))
    run (.spawnSpawn f) t 1 ∧ run (.spawnSpawnn f) t b
    ∧ (let tile := b % 1024
       let die := b / 1024 % 8
       let pkg := b / 8192 % 1024
       let ok := b < 2 ^ 23 ∧ u.hasTile r pkg die tile = true ∧ u.inDomain (((ls[k]?).map levelDomain).getD 5) t pkg die tile = true
         ∧ inBounds (u.imageDesc r.launch (f.lit.toNat % 65536)) tile = true
       (ok → run (.spawnSpawnr f) (u.farTile pkg die tile) 1) ∧ (¬ ok → exec (.spawnSpawnr f) s = bad))

/-- 09 R199 to R201. -/
def Obligations.AspaceResults : Prop :=
  ∀ (f : Fields) (s u : State) (r : Region) (slot : Nat), Fires f (sregDests f) s u → u.region? s.cur.region = some r →
    let t := s.cur.at_
    let c := r.launch.ctx
    let j : Job := ⟨s.cur, f⟩
    let d := descriptorOn u j false
    let a := leNat (sliceB d 0 8)
    let n := leNat (sliceB d 8 8)
    let b := addendOn u j 4
    let put := fun (v : State) => Host.Outcome.next (ρ := Refusal) (φ := Fault) (finished f s v)
    let status := fun (v : State) (k : Nat) => put ((v.consume s.cur).emitBoth j .value (leBytes 4 k))
    let mine := a / 2 ^ 54 % 1024 = u.pkg
    (n = 0 ∨ 2 ^ 40 < n → exec (.aspaceInval f) s = put (u.leaseFault j 0x2A a 2) ∧ exec (.aspacePgattr f) s = put (u.leaseFault j 0x2A a 2)
      ∧ exec (.aspaceLpin f) s = put (u.leaseFault j 0x2A a 2))
    ∧ ((u.tile t).freeSlot = some slot → 0 < n → n ≤ 2 ^ 40 → firstDenied r.launch false a n = none →
        exec (.aspaceInval f) s = put (u.aspaceDrain j 0 a n slot none)
        ∧ (mine → b % 2 = 1 → (u.cd c (a / 2 ^ 51 % 8)).pins.length < 64 →
            exec (.aspaceLpin f) s = status ((u.modCd c (a / 2 ^ 51 % 8) (fun x => { x with pins := x.pins ++ [(a, n)] })).repin c (a / 2 ^ 51 % 8)) 0)
        ∧ (mine → b % 2 = 1 → 64 ≤ (u.cd c (a / 2 ^ 51 % 8)).pins.length → exec (.aspaceLpin f) s = status u 3)
        ∧ (mine → b % 2 = 0 → (a, n) ∈ (u.cd c (a / 2 ^ 51 % 8)).pins →
            exec (.aspaceLpin f) s = status ((u.modCd c (a / 2 ^ 51 % 8) (fun x => { x with pins := removeFirst (fun q => q = (a, n)) x.pins })).repin
              c (a / 2 ^ 51 % 8)) 0)
        ∧ (mine → b % 2 = 0 → (a, n) ∉ (u.cd c (a / 2 ^ 51 % 8)).pins → exec (.aspaceLpin f) s = status u 4))
    ∧ ((u.tile t).freeSlot = some slot → 0 < n → n ≤ 2 ^ 40 → firstDenied r.launch true a n = none →
        let pages := (u.cd c (a / 2 ^ 51 % 8)).pages.filter (fun p => pdValid p.desc && decide (p.va < a + n) && decide (a < p.va + pdSize p.desc))
        let whole := (∃ p ∈ pages, p.va = a) ∧ ∃ p ∈ pages, p.va + pdSize p.desc = a + n
        (mine → ¬ whole → exec (.aspacePgattr f) s = status u 2)
        ∧ (mine → whole → b % 4 = 3 → exec (.aspacePgattr f) s = status u 5)
        ∧ (mine → whole → b % 4 ≠ 3 → (∃ p ∈ pages, p.desc.getLsbD 57 = false) → exec (.aspacePgattr f) s = status u 1)
        ∧ (¬ mine ∨ (whole ∧ b % 4 ≠ 3 ∧ ∀ p ∈ pages, p.desc.getLsbD 57 = true) →
            exec (.aspacePgattr f) s = put (u.aspaceDrain j 1 a n slot (some (b % 4)))))
    ∧ ((u.tile t).freeSlot = some slot → firstDenied r.launch false a 1 = none → mine →
        (u.page? c a = none → exec (.aspaceLquery f) s
          = put ((u.consume s.cur).emitBoth j .value (leBytes 8 (a / 65536 * 65536) ++ zeros 8)))
        ∧ ∀ p, u.page? c a = some p →
            let q := withField p.desc 16 23 0
            exec (.aspaceLquery f) s = put ((u.consume s.cur).emitBoth j .value
              (leBytes 8 p.va ++ leBytes 8 (if 1 ≤ u.level c then withField q 54 1 0 else q).toNat)))

/-- 12 R249 to R258. `send` is a command without memory data: port, slots, operation. `q` is the channel's island and group. -/
def Obligations.IslandCommandsAreSent : Prop :=
  ∀ (f : Fields) (s u : State) (r : Region) (b : BitVec 64), Fires f (sregDests f) s u → u.region? s.cur.region = some r →
    NMap.find (u.tile s.cur.at_).channels (f.lit.toNat % 8) = some b → fieldOf b 13 3 = 4 →
    let t := s.cur.at_
    let j : Job := ⟨s.cur, f⟩
    let lead := fieldOf b 16 8
    let g := u.island s.cur.die lead
    let have_ := NMap.getD (u.tile t).chanFree (f.lit.toNat % 8) 0
    let q : IslPort := ⟨f.lit.toNat % 8, lead, g.rows, g.cols, have_⟩
    let d := descriptorOn u j false
    let n2 := fun (o : Nat) => leNat (sliceB d o 2)
    let put := fun (v : State) => Host.Outcome.next (ρ := Refusal) (φ := Fault) (finished f s v)
    let sent := fun (port n : Nat) (op : IslOp) =>
      (((({ u with nextId := u.nextId + 1 } : State).consume s.cur).countSent t s.cur.stTag.phase 1).sendCmd j q port n op u.nextId true)
    let send := fun (i : Instr) (ok : Prop) (port n : Nat) (op : IslOp) =>
      (n ≤ have_ → ok → exec i s = put (sent port n op))
      ∧ (have_ < n → exec i s = put (u.offerAgain s.cur))
    let rows := fun (i : Instr) (sparse : Bool) (rs : List (Nat × Nat)) =>
      rs.length ≤ have_ → (∀ x ∈ rs, x.2 < 256 * g.rows ∧ x.1 + rowLen f.tyT sparse ≤ 0x30000) → rs ≠ [] →
        let w := sent 1 rs.length (.rows ((rs.take 1).map (fun x => (x.2, (u.tile t).spadRead s.cur.inst x.1 (rowLen f.tyT sparse)))) f.tyT sparse)
        let later := (rs.drop 1).map (fun x => (x.2, x.1))
        exec i s = put ((if later = [] then w else w.modIsland s.cur.die lead (fun y => { y with
          cmds := y.cmds.map (fun c => if c.id = u.nextId then { c with todo := later, ready := false } else c) })).returnTok j s.cur.stTag [])
    let load := fun (i : Instr) (major minor : Nat) (sparse : Bool) (loads : List (Nat × Nat)) (op : IslOp) (ok : Prop) =>
      ∀ slot, 1 ≤ have_ → ok → (u.tile t).freeSlot = some slot → loads ≠ [] → (∀ x ∈ loads, 0 < x.2) →
        (∀ x ∈ loads, firstDenied r.launch false x.1 x.2 = none) → (∀ x ∈ loads, ∀ y ∈ loads, x.1 / 2 ^ 51 = y.1 / 2 ^ 51) →
        let v := u.issueSlot { job := j, major := major, minor := minor, loads := loads, size := (loads.map (·.2)).sum } (.weights lead) slot
        let w := v.modTile t (fun x => { x with chanSparse :=
          if sparse then q.chan :: x.chanSparse.filter (· ≠ q.chan) else x.chanSparse.filter (· ≠ q.chan) })
        exec i s = put (w.sendCmd j q 0 1 op u.nextId false)
    let loadB := fun (i : Instr) (major : Nat) (sparse : Bool) =>
      let kb := n2 16
      let nb := n2 18
      let kp := (kb + 31) / 32 * 32
      let el := elemBytes f.tyT (nb * (if sparse then kp / 2 else kp))
      let sc := if f.tyT.isMx then nb * (kp / 32) else 0
      load i major 0 sparse (if sc = 0 then [(leNat (sliceB d 0 8), el)] else [(leNat (sliceB d 0 8), el), (leNat (sliceB d 8 8), sc)])
        (.load f.tyT sparse kp kb nb el) (0 < kb ∧ kb ≤ (if sparse then 512 else 256) ∧ 0 < nb ∧ nb ≤ 256 * g.cols)
    let sg := (byteAt d 4).toNat
    let vals := sliceB (opIn f s u .f32 true) 0 128
    let range := 0 < n2 2 ∧ n2 0 + n2 2 ≤ 256 * g.rows
    let place := n2 0 < 256 * g.rows ∧ sg < 8 * g.cols
    rows (.mmaMrow f) false [(leNat (sliceB d 0 4), n2 4)] ∧ rows (.msparseMsrow f) true [(leNat (sliceB d 0 4), n2 4)]
    ∧ ((byteAt d 6).toNat ≤ 16 → rows (.mmaMgat f) false ((List.range (byteAt d 6).toNat).map (fun i =>
        (leNat (sliceB d 0 4) + n2 (8 + 2 * i) * rowLen f.tyT false, n2 4 + i))))
    ∧ (let kp := if (u.tile t).chanSparse.contains q.chan then 512 else 256
       let n := (byteAt d 2).toNat
       send (.mmaMscale f) (0 < n ∧ n ≤ 128 ∧ n2 0 + n ≤ 256 * g.cols * (kp / 32)) 0 1 (.scale (n2 0) (sliceB (opIn f s u .none true) 0 n)))
    ∧ send (.mmaMend f) range 1 1 (.mend (n2 0) (n2 2) (n2 8)) ∧ send (.mmaMdrain f) True 1 1 .drain
    ∧ send (.maccAcinit f) range 2 1 (.init (n2 0) (n2 2)) ∧ send (.maccAcsave f) range 2 1 (.save (n2 0) (n2 2))
    ∧ send (.maccAcadd f) place 2 1 (.add (n2 0) sg vals) ∧ send (.maccAcread f) place 2 1 (.read (n2 0) sg)
    ∧ send (.maccAcload f) place 2 1 (.put (n2 0) sg (n2 8) vals)
    ∧ loadB (.mmaMldb f) 0x1B false ∧ loadB (.msparseMsldb f) 0x1D true
    ∧ (let m := (u.lastSparse s.cur.die lead).getD (0, 0)
       load (.msparseMsmeta f) 0x1D 1 true [(leNat (sliceB d 0 8), m.2 * (m.1 / 4) / 2)] (.metas m.1 m.2) True)

/-- 13 R266 and, of the results, 13 R284. `unit` is the tile's unit as the oldest firing finds it. -/
def Obligations.KeyStoreResults : Prop :=
  (∀ (f : Fields) (s u : State), Fires f (sregDests f) s u →
    let issue := fun (i : Instr) (major minor : Nat) => exec i s = .next (finished f s
      ((u.modTile s.cur.at_ (fun x => { x with kqueue := x.kqueue ++ [(major, minor, ⟨s.cur, f⟩)] })).due (.keystoreCompletion s.cur.at_)))
    issue (.kputKput f) 0x1E 0 ∧ issue (.kputKputs f) 0x1E 1 ∧ issue (.kputKdrop f) 0x1E 2 ∧ issue (.kputKseq f) 0x1E 3
    ∧ issue (.kputKfork f) 0x1E 4 ∧ issue (.kqueryKq f) 0x1F 0 ∧ issue (.kqueryKqd f) 0x1F 1 ∧ issue (.kqueryKqsk f) 0x1F 2
    ∧ issue (.kqueryKmerge f) 0x1F 3 ∧ issue (.smaxSmref f) 0x20 0 ∧ issue (.smaxSmacc f) 0x20 1 ∧ issue (.smaxSmnorm f) 0x20 2
    ∧ issue (.smaxSmresc f) 0x20 3 ∧ issue (.smaxSmflag f) 0x20 4)
  ∧ (∀ (s : State) (t : TileId) (major minor : Nat) (j : Job) (js : List (Nat × Nat × Job)),
      s.ev = .keystoreCompletion t → (s.tile t).kqueue = (major, minor, j) :: js →
      let v := s.modTile t (fun x => { x with kqueue := js })
      let v := if js = [] then v else v.due (.keystoreCompletion t)
      let unit : KUnit := { x := v.tile t, inst := j.fi.inst, keys := (v.tile t).keys }
      let a := descriptorOn v j false
      let put := fun (r : KUnit × Bytes) => Host.Outcome.next (ρ := Refusal) (φ := Fault)
        (v.settle j (((v.consume j.fi).keyApply t r.1).emit2 j .value r.2))
      (∀ r, keyStep major minor j.f.lit unit a = .ok r → exec .keystoreCompletion s = put r)
      ∧ (∀ e, keyStep major minor j.f.lit unit a = .error e →
          exec .keystoreCompletion s = .next (v.jobFault j 5 e.code (leBytes 4 e.handle ++ leBytes 4 e.pos)))
      ∧ (major = 0x20 → ∀ r, unit.rec? (leNat (sliceB a 0 4)) = .ok r →
          let ro := leNat (sliceB a 0 4)
          (minor = 4 → exec .keystoreCompletion s = put (unit.wr (ro + 4) (leBytes 4 (r.flags / 8 * 8)), leBytes 4 r.flags))
          ∧ (minor = 2 → exec .keystoreCompletion s = put (unit, packElems 4
              (((r.acc.drop (32 * (byteAt a 4).toNat)).take 32).map (fun c => roundF .f32 .rne false (fdiv (f32Val c) (f32Val r.l))))))
          ∧ (minor = 3 → r.m ≠ mUnset → asSigned 32 (leNat (sliceB a 4 4)) ≤ r.ref → exec .keystoreCompletion s = put (unit, r.summary))))

/-- 14 R309 to R312. `ea` is the remote address, `len` the length, `rc` the channel. -/
def Obligations.RemoteAndReleaseResults : Prop :=
  ∀ (f : Fields) (s u : State) (r : Region), u.region? s.cur.region = some r →
    let t := s.cur.at_
    let die := s.cur.die
    let c := r.launch.ctx
    let j : Job := ⟨s.cur, f⟩
    let d := descriptorOn u j false
    let b8 := (byteAt d 8).toNat
    let ea := (leNat (sliceB d 0 8) + (if b8 / 16 % 2 = 1 then ((u.tile t).areg (b8 % 16)).toNat else 0)) % 2 ^ 64
    let ring := b8 / 32 % 4
    let rc := (byteAt d 9).toNat
    let len := leNat (sliceB d 10 2)
    let lit := f.lit.toNat % 256
    let sz := f.tyT.size
    let put := fun (v : State) => Host.Outcome.next (ρ := Refusal) (φ := Fault) (finished f s v)
    let small := fun (n : Nat) => ring ≠ 3 ∧ len ≤ n ∧ ea + len ≤ 2 ^ 64
    (Fires f (sregDests f) s u →
      (∀ k, small 128 → 0 < len → firstDenied r.launch false ea len = none → (u.tile t).freeSlot = some k →
          let a : Access := { job := j, major := 0x21, minor := 0, loads := [(ea, len)], size := len, ring := ring }
          u.watchHit a = none → exec (.rmtRld f) s = put (u.issueSlot a .remote k))
      ∧ (small 4096 → firstDenied r.launch false ea len = none → ∃ v : State, exec (.rmtRpf f) s = put (v.emitBoth j .value [])
          ∧ v.mem = u.mem ∧ v.ready = u.ready ∧ (len = 0 → v = u.consume s.cur))
      ∧ (∀ (i : Instr) (minor : Nat) (op : AtomOp) (k ep : Nat) (e : SendEntry),
          (i, minor, op) ∈ [(Instr.rmtRadd f, 2, AtomOp.add), (.rmtRcas f, 3, .cas), (.rmtRxchg f, 4, .xchg)] →
          ring ≠ 3 → ea % sz = 0 → firstDenied r.launch true ea sz = none → (u.tile t).freeSlot = some k →
          u.openEpoch c die rc = some ep → u.flagTest die c rc ep (ea / 2 ^ 51 % 8192) = .ok e →
          let b := atomOperand u j sz
          let a : Access := { job := j, major := 0x21, minor := minor, size := sz, rc := rc, ring := ring,
                              op := some (ea, .atomic op sz f.tyT.isSigned (sliceB b 0 sz) (sliceB b sz sz)) }
          u.watchHit a = none → ∃ v : State, exec i s = put v
            ∧ (∃ x, NMap.find (v.tile t).replies k = some x ∧ x.kind = .atomic ∧ x.minor = minor ∧ x.job.f = f ∧ x.buf = zeros sz)
            ∧ ∃ q, v.send? die c rc e.epoch e.dst = some q ∧ q.st = .flagged ∧ q.count = e.count ∧ q.since = u.cycles)
      ∧ (∀ v e, u.relopenTest c die lit = .done v e →
          exec (.rrelRelopen f) s = put ((v.consume s.cur).emitBoth j .value (leBytes 4 e)))
      ∧ (∀ ch, NMap.find (u.die die).relChans (c * 256 + lit) = some ch → u.groupLive die c lit ((ch.epoch + 255) % 256) = false →
          u.cycles ≥ ch.openedAt + fieldOf (u.die die).cctl 0 16 * 1900 / 32 →
          (u.groupSends die c lit ch.epoch).any (fun e => e.st = .opened) = false →
          ∃ v, u.relopenTest c die lit = .done v ((ch.epoch + 1) % 256)
            ∧ (NMap.find (v.die die).relChans (c * 256 + lit)).map (·.epoch) = some ((ch.epoch + 1) % 256))
      ∧ (NMap.find (u.die die).relChans (c * 256 + lit) = none → ∃ v, u.relopenTest c die lit = .done v 0)
      ∧ (leNat (sliceB d 0 8) % 8 = 0 → ring ≠ 3 → firstDenied r.launch true (leNat (sliceB d 0 8)) 8 = none →
          ∀ ep e, u.openEpoch c die lit = some ep → u.flagTest die c lit ep (leNat (sliceB d 0 8) / 2 ^ 51 % 8192) = .ok e →
          u.watchHit { job := j, major := 0x22, minor := 1, writes := [(leNat (sliceB d 0 8), sliceB (opIn f s u .none true) 0 8)],
                       size := 8, rc := lit, ring := ring } = none →
          ∃ v : State, exec (.rrelRelflag f) s = put (v.emitBoth j .value [])
            ∧ ∃ q, v.send? die c lit e.epoch e.dst = some q ∧ q.st = .flagged ∧ q.count = e.count)
      ∧ (let ep := (byteAt (opIn f s u .none false) 0).toNat
         ∀ v e, u.relwaitTest c die lit ep = .done v e →
           let g : Tag := { s.cur.stTag with
             level := if 1 ≤ v.level c ∧ f.tag ≠ 5 then s.cur.stTag.level + 1 else s.cur.stTag.level, seen := v.stores }
           exec (.rrelRelwait f) s = put (((v.consume s.cur).emitRes j false [f.dstA.toNat, f.dstB.toNat] g .value
             (some (opIn f s u .none false))).emitDone j false [f.dstA.toNat, f.dstB.toNat] g (some (opIn f s u .none false))))
      ∧ (let live := ((u.openEpoch c die lit).map (fun ep => (u.groupSends die c lit ep).filter
             (fun e => e.st = .opened || e.st = .flagged))).getD []
         exec (.rrelRelabort f) s = put (((((live.foldl (fun v e => v.abortSend die e) u).relWake die c lit).consume s.cur).emitBoth j .value
           (leBytes 4 live.length)))))
    ∧ (Fires f [] s u → small 256 →
        let n := (if f.srcB = 3 then len else min 128 len)
        let m := n / sz * sz
        let so := leNat (sliceB d 12 4)
        firstDenied r.launch true ea n = none → (f.srcB = 3 → 0 < len → so + len ≤ 0x30000) →
        let data := if f.srcB = 3 then (u.tile t).spadRead s.cur.inst so m else sliceB (opIn f s u f.tyT true) 0 m
        (m = 0 → exec (.rmtRst f) s = put ((u.consume s.cur).emitBoth j .value []))
        ∧ (0 < m → exec (.rmtRst f) s = put ((u.consume s.cur).hold j (.rst {
            job := j, major := 0x21, minor := 1, writes := [(ea, data)], size := m, rc := rc, ring := ring }))))

/-- 15 R321, R322, R331. `k` is the counter of the literal. -/
def Obligations.NetworkResults : Prop :=
  ∀ (f : Fields) (s u : State) (r : Region), Fires f (sregDests f) s u → u.region? s.cur.region = some r →
    let t := s.cur.at_
    let d := s.cur.die
    let c := r.launch.ctx
    let j : Job := ⟨s.cur, f⟩
    let a := opIn f s u .none false
    let b := opIn f s u .none true
    let k := f.lit.toNat % 64
    let both := [f.dstA.toNat, f.dstB.toNat]
    let put := fun (v : State) => Host.Outcome.next (ρ := Refusal) (φ := Fault) (finished f s v)
    let shows := fun (v : BitVec 64) => leBytes 4 (fieldOf v 0 32) ++ leBytes 2 (fieldOf v 48 16) ++ [0, 0]
    let now := NMap.getD (u.cd c d).ncnt k 0
    let timed := fun (bs : Bytes) =>
      put (if 1 ≤ u.level c then ((u.consume s.cur).setStatus c d 9).emitBoth j .value (zeros bs.length)
        else (u.consume s.cur).emitBoth j .value bs)
    let mine := (u.die d).net.msgs.filter (fun m => m.2.ctx = c)
    (let off := leNat (sliceB a 0 4)
     let w := (u.tile t).spadRead s.cur.inst off 64
     off % 64 = 0 → off + 64 ≤ 0x30000 → u.wrBad j r.launch w = false → (u.die d).net.msgs.length < 2048 → mine.length < 256 →
       ∃ v : State, exec (.netPost f) s = put v ∧ (v.cd c d).msgNo = (u.cd c d).msgNo + 1
         ∧ ((u.cd c d).netDone.contains (u.cd c d).msgNo = false →
             (∀ m ∈ mine, ¬ (m.2.write = true ∧ m.2.num = (u.cd c d).msgNo)) →
             ∃ m, NMap.find (v.die d).net.msgs u.nextId = some m ∧ m.num = (u.cd c d).msgNo ∧ m.write = decide (byteAt w 0 = 1)
               ∧ m.length = leNat (sliceB w 0x18 4) ∧ m.addr = leNat (sliceB w 8 8) ∧ m.window = (byteAt w 6).toNat
               ∧ m.tag = BitVec.ofNat 64 (leNat (sliceB w 0x28 8)) ∧ m.sent = 0))
    ∧ (ncReached now (leNat (sliceB b 0 4)) = true →
        let g : Tag := { s.cur.stTag with
          level := if 1 ≤ u.level c ∧ f.tag ≠ 5 then s.cur.stTag.level + 1 else s.cur.stTag.level, seen := u.stores }
        exec (.netWait f) s = put ((((u.consume s.cur).acquire t f.scope).emitRes j false both g .value (some (shows now))).emitDone j false
          both g (some (shows now))))
    ∧ (ncReached now (leNat (sliceB b 0 4)) = false → exec (.netWait f) s = put (u.netHold j 1 (.netWait k (leNat (sliceB b 0 4))) []))
    ∧ exec (.netNcget f) s = timed (shows now)
    ∧ (let n := BitVec.ofNat 64 (leNat (sliceB b 0 4))
       exec (.netNcset f) s = put ((((u.consume s.cur).modCd c d (fun x => { x with ncnt := NMap.put x.ncnt k n })).netWake c d k).emitBoth
         j .value (shows n)))
    ∧ (let n := BitVec.ofNat 32 (leNat (sliceB a 0 4))
       let v := u.consume s.cur
       ((∀ m ∈ mine, m.2.num ≠ n) → exec (.netCancel f) s = put (v.emitBoth j .value (leBytes 4 2)))
       ∧ ∀ x, mine.find? (fun m => m.2.num = n) = some x →
           (x.2.sent = 0 → NMap.find (u.die d).net.upds x.1 = none →
              exec (.netCancel f) s = put ((v.netEnd d x.1 3).emitBoth j .value (leBytes 4 0)))
           ∧ (x.2.sent ≠ 0 ∨ NMap.find (u.die d).net.upds x.1 ≠ none → exec (.netCancel f) s = put (v.emitBoth j .value (leBytes 4 1))))
    ∧ (let open_ := mine.filter (fun m => m.2.job.fi.tile = s.cur.tile)
       (open_ = [] → exec (.netNfence f) s = put ((u.consume s.cur).emitBoth j .value a))
       ∧ (open_ ≠ [] → exec (.netNfence f) s = put (u.netHold j 5 (.netFence (open_.map (·.1))) a)))
    ∧ exec (.netNstat f) s = timed (leBytes 8 (u.netStat d).toNat)

/-- 16 R339: STEP, on the cursor `x`; `e` is the transition entry: operation in bits 31 and 30, y in 29 to 22, the state in 21 to 10. -/
def Obligations.GrammarResults : Prop :=
  (∀ (f : Fields) (s u : State), Fires f (sregDests f) s u →
    let a := opIn f s u .none false
    let issue := fun (i : Instr) (minor : Nat) =>
      let slot := if minor = 4 then (byteAt a 0).toNat % 16 else leNat (sliceB a 4 1) % 16
      let r : GramReq := ⟨⟨s.cur, f⟩, minor, (u.gramImage (u.regionCtx s.cur.region) s.cur.die slot).isSome, a, opIn f s u .none true⟩
      exec i s = .next (finished f s ((u.modDie s.cur.die (fun x => { x with gram := { x.gram with queue := x.gram.queue ++ [r] } })).due
        (.gramRequestPerform s.cur.die)))
    issue (.gramStep f) 0 ∧ issue (.gramMask f) 1 ∧ issue (.gramGstate f) 2 ∧ issue (.gramGset f) 3 ∧ issue (.gramGreset f) 4)
  ∧ (∀ (s : State) (d : Nat) (r : GramReq) (rest : List GramReq), s.ev = .gramRequestPerform d → (s.die d).gram.queue = r :: rest →
      let v := s.modDie d (fun x => { x with gram := { x.gram with queue := rest } })
      let v := if rest = [] then v else v.due (.gramRequestPerform d)
      let c := v.regionCtx r.job.fi.region
      (∀ code t, v.gramDo c d r.minor r.valid r.a r.b (r.job.f.lit.getLsbD 0) = .fault code t →
        ∃ w : State, exec .gramRequestPerform s = .next (w.jobFault r.job 6 code (gramDetail r.minor r.a t)) ∧ w.mem = s.mem ∧ w.agenda = v.agenda)
      ∧ (∀ o oov lines, v.gramDo c d r.minor r.valid r.a r.b (r.job.f.lit.getLsbD 0) = .emit (some o) (some o) oov lines →
        ∃ w : State, exec .gramRequestPerform s = .next (w.settle r.job (w.emitRes r.job false [r.job.f.dstA.toNat, r.job.f.dstB.toNat]
          r.job.fi.stTag .value (some o))) ∧ w.mem = s.mem ∧ w.agenda = v.agenda ∧ w.tiles = (v.consume r.job.fi).tiles))
  ∧ (∀ (s : State) (c d : Nat) (valid fpath : Bool) (a b : Bytes) (g : GramHead),
      let x := cursorOf a
      s.gramImage c d x.slot = some g → cursorZeros a = true → x.good g = true →
      let t := leNat (sliceB b 0 4)
      let k := leNat (s.readVa c (g.classMap + 2 * t) 2)
      let e := leNat (s.readVa c (g.trans + 4 * (x.q * g.classes + k)) 4)
      let op := e / 2 ^ 30
      let y := e / 2 ^ 22 % 256
      let q := e / 2 ^ 10 % 4096
      let top : Option Nat := if x.depth = 0 then none else some (byteAt x.stack (x.depth - 1)).toNat
      let gives := fun (z : Cursor) => ∃ oov lines, s.gramDo c d 0 valid a b fpath
        = .emit (some (s.cursorBytes c g z)) (some (s.cursorBytes c g z)) oov lines
      (g.vocab ≤ t → gives { x with status := 2 })
      ∧ (t < g.vocab → op = 0 → gives { x with q := q, status := 0 })
      ∧ (t < g.vocab → op = 3 → gives { x with status := 1 })
      ∧ (t < g.vocab → op = 2 → top ≠ some y → gives { x with status := 1 })
      ∧ (t < g.vocab → op = 2 → top = some y → gives { x with q := q, status := 0, depth := x.depth - 1, stack := x.stack.set (x.depth - 1) 0 })
      ∧ (t < g.vocab → op = 1 → x.depth = x.trap → s.gramDo c d 0 valid a b fpath = .fault 1 t)
      ∧ (t < g.vocab → op = 1 → x.depth ≠ x.trap →
          gives { x with q := q, status := 0, depth := x.depth + 1, stack := x.stack.set x.depth (BitVec.ofNat 8 y) }))

/-- 10 R207, R214, R219. `w` is the state in which an atomic's or a join's record stands (10 R216, R222). -/
def Obligations.OwnerResults : Prop :=
  ∀ (s : State) (d : Nat) (p : Packet) (key : Nat), AtSlice s d p key →
    let fetched := s.tlbHit d p = true
      ∧ ¬ (p.phys = true ∧ opWrites p.op = true ∧ s.physMapped d (p.addr.toNat % 2 ^ 51) (opSpan p.op) = true)
    let answers := fun (t : State) (op : MemOp) =>
      ∃ q, Leaves d q t ∧ q.typ = 0x03 ∧ q.to_ = p.from_ ∧ q.serial = p.serial ∧ q.part = p.part ∧ q.slot = p.slot ∧ q.op = op
    let loads := fun (i : Instr) (more : State → Prop) => ∀ n inst, p.op = .load n inst → ∃ t, exec i s = .next t ∧ t.mem = s.mem ∧ more t
      ∧ answers t (if inst && !p.phys && decide (s.kindAt p.ctx.toNat p.addr.toNat ≠ 0)
          then .data (Memory.getN s.mem (key / 64 * 64) 64) true else .data (Memory.getN s.mem key n) false)
    let u := s.modDie d (fun x => { x with stalled := x.stalled.filter (· ≠ p) })
    let num := fun (m : Memory) (o n : Nat) => leNat (Memory.getN m (key + o) n)
    let outside := fun (m m' : Memory) (n : Nat) => ∀ x, x < key ∨ key + n ≤ x → Memory.get m' x = Memory.get m x
    let answered := fun (w t : State) => ∀ k q, (k, q) ∈ (w.die d).waiters → k = key → ∀ target, q.op = .barWait target →
      (num t.mem 0 4 + 2 ^ 32 - target.toNat) % 2 ^ 32 < 2 ^ 31 →
        (k, q) ∉ (t.die d).waiters
        ∧ (q.tile ≠ 4095 → ∃ r, Leaves d r t ∧ r.typ = 0x03 ∧ r.to_ = q.from_ ∧ r.serial = q.serial ∧ r.op = .data (leBytes 4 (num t.mem 0 4)) false)
        ∧ (q.tile = 4095 → .queueWaiterAnswer (q.from_.toNat % 8) q.slot (BitVec.ofNat 32 (num t.mem 0x24 4)) ∈ t.agenda)
    let counted := fun (w t : State) (a b : Nat) =>
      (num w.mem 4 4 ≤ a ∧ num w.mem 0x10 8 ≤ b →
        num t.mem 0 4 = (num w.mem 0 4 + 1) % 2 ^ 32 ∧ num t.mem 8 4 = 0 ∧ num t.mem 0x18 8 = 0 ∧ answered w t)
      ∧ (¬ (num w.mem 4 4 ≤ a ∧ num w.mem 0x10 8 ≤ b) →
        num t.mem 0 4 = num w.mem 0 4 ∧ num t.mem 8 4 = a ∧ num t.mem 0x18 8 = b ∧ (t.die d).waiters = (w.die d).waiters)
      ∧ num t.mem 4 4 = num w.mem 4 4 ∧ num t.mem 0x10 8 = num w.mem 0x10 8 ∧ outside w.mem t.mem 64
    let performed := fun (w : State) => (w.noteAccess d p).2.performAt d p key
    -- whatever the operation is, the request is performed
    (s.ev = .ownerPerform d p → fetched → exec .ownerPerform s = .next (performed s))
    ∧ (s.ev = .byteCredit d p → fetched → exec .byteCredit s = .next (performed s))
    ∧ (s.ev = .soHeldPerform d p → exec .soHeldPerform s = .next (performed s))
    ∧ (s.ev = .tlbMissFill d p → ∀ g, s.page? p.ctx.toNat p.addr.toNat = some g → (s.die d).tlb.length ≤ 4096 →
        ∃ w : State, exec .tlbMissFill s = .next (performed w) ∧ w.mem = s.mem ∧ (p.ctx.toNat, g.va, fieldOf g.desc 61 2) ∈ (w.die d).tlb
          ∧ (w.die d).tlb.length ≤ 4096)
    -- what each operation does
    ∧ (s.ev = .ownerPerform d p → fetched → loads .ownerPerform (fun _ => True))
    ∧ (s.ev = .tlbMissFill d p → ∀ g, s.page? p.ctx.toNat p.addr.toNat = some g → loads .tlbMissFill (fun _ => True))
    ∧ (s.ev = .soHeldPerform d p → loads .soHeldPerform (fun t => ∀ n, p.soNum = some n →
        let k := (p.from_.toNat, p.tile)
        lookupK (t.die d).soNext k = some (max (n + 1) ((lookupK (s.die d).soNext k).getD 0))))
    ∧ (s.ev = .ownerPerform d p → fetched →
      (∀ bs, p.op = .store bs → p.fromHost = false ∨ p.typ = 0x04 → ∃ v : State, exec .ownerPerform s = .next (v.writeDone d p bs.length)
        ∧ Stored s.mem v.mem key bs ∧ v.hostMem = s.hostMem
        ∧ (p.cred ≠ 0 → bs ≠ [] → ∃ q, Leaves d q (v.writeDone d p bs.length) ∧ q.typ = 0x0B ∧ q.addr = p.cred ∧ q.op = .credit bs.length))
      ∧ (∀ op size signed b0 b1 w, p.op = .atomic op size signed b0 b1 →
          (if p.fromHost then Gate.go u else u.atomGate d p key) = .go w → ∃ t, exec .ownerPerform s = .next t
          ∧ (let old := num w.mem 0 size
             let a := leNat b0 % 2 ^ (8 * size)
             let less := fun (x y : Nat) => if signed then (BitVec.ofNat (8 * size) x).slt (BitVec.ofNat (8 * size) y) else decide (x < y)
             let new := match op with
               | .add => (old + a) % 2 ^ (8 * size)
               | .min => if less a old then a else old
               | .max => if less old a then a else old
               | .and => old &&& a
               | .or => old ||| a
               | .xor => old ^^^ a
               | .xchg => a
               | .cas | .casw => if old = a then leNat b1 % 2 ^ (8 * size) else old
               | .fadd => addF32 old a
             0 < size → b0.length = size → b1.length = size → Stored w.mem t.mem key (leBytes size new))
          ∧ answers t (.data (Memory.getN w.mem key size) false))
      ∧ (∀ aExp phase bExp, p.op = .barInit aExp phase bExp → ∃ t, exec .ownerPerform s = .next t
          ∧ num t.mem 0 4 = phase.toNat ∧ num t.mem 4 4 = aExp.toNat ∧ num t.mem 8 4 = 0 ∧ num t.mem 0x10 8 = bExp.toNat
          ∧ num t.mem 0x18 8 = 0 ∧ outside s.mem t.mem 40 ∧ answers t (.data (leBytes 4 phase.toNat) false))
      ∧ (∀ n w, p.op = .barJoin n → (if p.fromHost then Gate.go u else u.joinGate d p key) = .go w →
          ∃ t, exec .ownerPerform s = .next t
            ∧ counted w t (min (2 ^ 32 - 1) (num w.mem 8 4 + n.toNat)) (num w.mem 0x18 8)
            ∧ answers t (.data (leBytes 4 (num w.mem 0 4)) false))
      ∧ (∀ target, p.op = .barWait target → ∃ t, exec .ownerPerform s = .next t ∧ t.mem = s.mem
          ∧ (let reached := (num s.mem 0 4 + 2 ^ 32 - target.toNat) % 2 ^ 32 < 2 ^ 31
             let here := (s.die d).waiters.filter (fun w => sliceOf (w.1 % 2 ^ 39) = sliceOf (key % 2 ^ 39))
             (reached → p.tile ≠ 4095 → answers t (.data (leBytes 4 (num s.mem 0 4)) false))
             ∧ (¬ reached → here.length < 256 → (t.die d).waiters = (s.die d).waiters ++ [(key, p)])
             ∧ (¬ reached → 256 ≤ here.length → answers t .retry))))
    ∧ (s.ev = .byteCredit d p → fetched → ∀ n, p.op = .credit n → ∃ t, exec .byteCredit s = .next t
        ∧ counted u t (num u.mem 8 4) (min (2 ^ 64 - 1) (num u.mem 0x18 8 + n)))

/-- 04 R77 to R85, 05 R98 to R111, 08 R167 to R173: one clause for each event, with the condition under which it has its effect. -/
def Obligations.TileEventResults : Prop :=
  ∀ (s : State) (t : TileId),
    let x := s.tile t
    let c := s.ctxOf t
    let now := BitVec.ofNat 32 s.cycles
    -- a token of a JOINALL station's side B, which is counted in an entry (06 R138)
    let counted := fun (v : State) (a : Arrival) =>
      let w := v.stationOf a.at_ a.place.block a.place.station
      isJoinall w.1 w.2 && a.place.sideB && !a.tok.tag.null
    let isSet := fun (fi : Firing) (slot : Nat) (p : Place) (inst : Nat) (a b : Option Token) =>
      fi.at_ = t ∧ fi.slot = slot ∧ fi.block = p.block ∧ fi.station = p.station ∧ fi.inst = inst ∧ fi.tokA = a ∧ fi.tokB = b
    -- a token arrives
    (∀ a, s.ev = .tokenArrival a → a.at_ = t → a.outside = true →
      (x.slotOf a.place.block = none → x.entries.length < 512 → counted s a = false → ∃ u, exec .tokenArrival s = .next u
        ∧ (u.tile t).entries = x.entries ++ [⟨a.place, { a.tok with arrival := now }, true, a.trap, 0, [], a.src⟩]
        ∧ .schedulerDecision t ∈ u.agenda)
      -- in a cycle in which both partners come, the set is made without an entry
      ∧ (∀ slot b, s.pairSlot a = some slot → s.sameCycle a = some b → b.outside = true → b.inst ≠ 0 → (x.pass? b.inst).isSome →
          a.place.sideB = true → s.sameSideWaits (s.stamped a) = false → s.sameSideWaits b = false →
          ∃ u fi, exec .tokenArrival s = .next u ∧ fi ∈ u.ready ∧ (u.tile t).entries = x.entries ∧ (u.tile t).spillBuf = x.spillBuf
            ∧ isSet fi slot b.place b.inst (some { b.tok with arrival := now }) (some { a.tok with arrival := now }))
      ∧ (∀ slot e, s.pairSlot a = some slot → s.sameCycle a = none → x.partner a.place a.tok.tag = some e → a.inst ≠ 0 → (x.pass? a.inst).isSome →
          ∃ u fi, exec .tokenArrival s = .next u ∧ fi ∈ u.ready ∧ (u.tile t).entries = removeFirst (fun q => q = e) x.entries
            ∧ (let tok := { a.tok with arrival := now }
               isSet fi slot a.place (if a.place.sideB then e.inst else a.inst)
                (some (if a.place.sideB then e.tok else tok)) (some (if a.place.sideB then tok else e.tok)))))
    -- a token leaves the spill buffer: on its way to memory it is written there, else its probe ends
    ∧ (∀ a rest, s.ev = .spillProbeDone t → s.latched c = false → x.spillBuf = a :: rest → a.at_ = t → a.outside = true →
        (∀ r b k, a.spilling = true → s.regionOf t = some r →
          s.freeSpillSlot r.launch.ctx (sliceBase r x.position).1 (probeSeq a (sliceBase r x.position).2) = some (b, k) →
          ∃ u p, exec .spillProbeDone s = .next u ∧ (u.tile t).spillBuf = rest ∧ (u.tile t).spilled = x.spilled ++ [p]
            ∧ p.seq = x.spillSeq ∧ p.slot = b * 5 + k ∧ p.outside = true ∧ (u.tile t).spillSeq = x.spillSeq + 1)
        ∧ (∀ slot, a.spilling = false → s.pairSlot a = some slot → a.inst ≠ 0 → (x.pass? a.inst).isSome → a.place.sideB = false →
            x.partner a.place a.tok.tag = none →
            (s.spilledPartner a = none → x.entries.length < 512 →
              ∃ u, exec .spillProbeDone s = .next u ∧ (u.tile t).spillBuf = rest
                ∧ (u.tile t).entries = x.entries ++ [⟨a.place, a.tok, true, a.trap, a.inst, [], a.src⟩])
            ∧ (∀ p, s.spilledPartner a = some p → p.outside = true → ∃ u fi, exec .spillProbeDone s = .next u
                ∧ (u.tile t).spilled = x.spilled.filter (· ≠ p) ∧ (u.tile t).entries = x.entries ∧ fi ∈ u.ready
                ∧ isSet fi slot a.place a.inst (some a.tok) (some (s.spilledTok t p).tok))))
    -- a refill: the oldest spilled token is placed as an arrival
    ∧ (∀ p ps r, s.ev = .spillRefill t → x.spilled = p :: ps → s.regionOf t = some r → s.level c < 2 → p.outside = true →
        (let a := s.spilledTok t p
         x.slotOf a.place.block = none → x.entries.length < 512 → counted (s.takeSpilled t p).2 a = false →
          ∃ u, exec .spillRefill s = .next u ∧ (u.tile t).spilled = x.spilled.filter (· ≠ p)
            ∧ (u.tile t).entries = x.entries ++ [⟨a.place, a.tok, true, p.trap, 0, [], p.src⟩] ∧ .schedulerDecision t ∈ u.agenda))
    -- a waiting token is admitted
    ∧ (∀ e slot, s.ev = .instanceAdmit t → x.entries = [e] → e.inst = 0 → x.slotOf e.place.block = some slot → e.outside = true → e.trap = false →
        x.passOf e.tok.tag.frame e.place.block = none → x.reserved + dQuota (x.slots.getD slot {}).desc ≤ 256 →
        (let w := x.station slot e.place.station
         isJoinall w.1 w.2 = false ∧ sideIsToken w.1 w.2 e.place.sideB = true ∧ sideIsToken w.1 w.2 (!e.place.sideB) = false) →
        ∃ u fi ps, exec .instanceAdmit s = .next u ∧ fi ∈ u.ready ∧ ps ∈ (u.tile t).passes ∧ ps.frame = e.tok.tag.frame
          ∧ ps.block = e.place.block ∧ ps.quota = dQuota (x.slots.getD slot {}).desc ∧ ps.handler = false ∧ ps.held = []
          ∧ isSet fi slot e.place ps.id (if e.place.sideB then none else some e.tok) (if e.place.sideB then some e.tok else none))
    -- a decision of the scheduler
    ∧ (∀ b k r, s.ev = .schedulerDecision t → s.decide t = some (b, k) → s.regionOf t = some r → s.level r.launch.ctx < 2 → k < x.slots.length →
        (∃ u, exec .schedulerDecision s = .next u ∧ .blockLoadDone t k ∈ u.agenda ∧ .schedulerDecision t ∈ u.agenda
          ∧ (u.tile t).slots[k]? = some { st := .loading, ctx := r.launch.ctx, block := b })
        ∧ (let rank := fun (n : Nat) => rankOf (s.wanted t) (NMap.getD x.ages n 0) (fieldOf (s.die t.die).bsched 0 4) n
           (∃ w ∈ s.wanted t, w.block = b) ∧ (∀ w ∈ s.wanted t, lexLt (rank w.block) (rank b) = false))
        ∧ ((∃ sl ∈ x.slots, sl.st = .free) → (x.slots.getD k {}).st = .free))
    -- a block is loaded
    ∧ (∀ k r, s.ev = .blockLoadDone t k → s.regionOf t = some r → (x.slots.getD k {}).st = .loading →
        s.blockCheck r.launch t (x.slots.getD k {}).block = none → (∀ e ∈ x.entries, e.inst ≠ 0) →
        ∃ u sl, exec .blockLoadDone s = .next u ∧ (u.tile t).slots[k]? = some sl ∧ sl.firedAt = s.cycles ∧ .schedulerDecision t ∈ u.agenda
          ∧ (let b := s.readBlock r.launch (x.slots.getD k {}).block
             sl.st = .resident ∧ sl.block = (x.slots.getD k {}).block ∧ sl.words = b.words ∧ sl.sides = b.sides ∧ sl.desc = b.desc
             ∧ (∀ n < 8, bitN (dMask b.desc) n = false → (u.tile t).sregs[n]? = x.sregs[n]?)
             ∧ ∀ n < 8, bitN (dMask b.desc) n = true → x.sregs.length = 8 → (x.sreg n).length = 128 →
                (u.tile t).sregs[n]? = some (s.readVa r.launch.ctx (r.launch.image + r.launch.dataOff + dImage b.desc + 128 * n) 128)))
    -- the commit buffer drains
    ∧ (∀ inst e es ds, s.ev = .commitDrain t → x.drains = ⟨inst, e :: es, false⟩ :: ds →
        let after := fun (u : State) => (u.tile t).drains = (⟨inst, es, false⟩ :: ds).filter (fun d => !d.effects.isEmpty)
        (∀ n tok target src, e = .exit n tok false target src → bitsN target 30 2 = 1 → ∃ u, exec .commitDrain s = .next u ∧ after u
          ∧ .tokenArrival {
              at_ := t, place := ⟨target % 2 ^ 16, bitsN target 16 6 / 2, bitsN target 16 6 % 2 = 1⟩, tok := tok, src := src, outside := true
            } ∈ u.agenda)
        ∧ (∀ ch tok src b, e = .chan ch tok false src → NMap.find x.channels ch = some b → fieldOf b 13 3 ≤ 3 →
          ∃ u, exec .commitDrain s = .next u ∧ after u
          ∧ .tokenArrival {
              at_ := ⟨t.die, if fieldOf b 13 3 = 0 then t.tile - 32 else if fieldOf b 13 3 = 1 then t.tile + 1
                else if fieldOf b 13 3 = 2 then t.tile + 32 else t.tile - 1⟩,
              place := ⟨fieldOf b 32 16, fieldOf b 48 6 / 2, fieldOf b 48 6 % 2 = 1⟩, tok := tok, src := src, outside := true } ∈ u.agenda)
        ∧ (∀ a, e = .store a → a.job.fi.at_ = t → s.watchHit a = none → ∃ u o, exec .commitDrain s = .next u ∧ after u
          ∧ o ∈ (u.tile t).outs ∧ o.tokens = true ∧ o.inst = a.job.fi.inst ∧ o.job.f = a.job.f)
        ∧ (∀ j kids, e = .spawn j kids → ∃ u, exec .commitDrain s = .next u ∧ after u
          ∧ ∀ k ∈ kids, k.at_.die < 8 → .tokenArrival k ∈ u.agenda))
    -- a waiting access is performed
    ∧ (∀ w u, s.ev = .fullEmptyWaitPerform t → s.firstWaiting t = (some w, u) → w.drain = none → w.job.fi.at_ = t →
        w ∈ x.waitList
        ∧ (s.level c < 2 → u = s ∧ x.fwd.length < 16 ∧ (w.qual = 1 ∨ w.qual = 2 → ∀ g ∈ w.granules, g ∈ x.full)
            ∧ (w.qual = 3 → ∀ g ∈ w.granules, g ∉ x.full))
        ∧ (let y := u.tile t
           let q := (u.modTile t (fun z => { z with waitList := removeFirst (fun v => v = w) z.waitList })).spadSeen w.job
           ∃ v : State, exec .fullEmptyWaitPerform s = .next (((q.2.settle q.1 ((v.consume q.1.fi).emitBoth q.1 .value
                (w.reads.flatMap (fun a => y.spadRead w.job.fi.inst a w.size)))).due (.fullEmptyWaitPerform t)).due (.commitDrain t))
            ∧ (v.tile t).waitList = removeFirst (fun v => v = w) y.waitList ∧ (v.tile t).spad = y.spad
            ∧ ∀ g, g ∈ (v.tile t).full ↔ (g ∈ y.full ∧ (w.qual = 2 → g ∉ w.granules)) ∨ ((w.qual = 3 ∨ w.qual = 4) ∧ g ∈ w.granules)))
    -- an entry of the forwarding table retires, a freed tile is cleared
    ∧ (s.ev = .forwardingRetire t → ∃ u, exec .forwardingRetire s = .next u ∧ u.tile t = { x with fwd := x.fwd.drop 1 } ∧ u.mem = s.mem
        ∧ .fullEmptyWaitPerform t ∈ u.agenda ∧ .commitDrain t ∈ u.agenda)
    ∧ (s.ev = .scratchpadClearDone t → ∃ u, exec .scratchpadClearDone s = .next u
        ∧ (∀ a, Memory.get (u.tile t).spad a = 0) ∧ u.tile t = { x with spad := [], full := [], clearing := false } ∧ u.mem = s.mem)

/-- 09 R200, 10 R203, R218, R221, R225: one clause for each event. -/
def Obligations.TileMemoryEvents : Prop :=
  ∀ (s : State) (t : TileId),
    let x := s.tile t
    -- the port, a hit in the L1, a reply, the retry of a BARWAIT
    (∀ p, s.ev = .agPortIssue t → x.port.find? (fun q => x.gateOpen q) = some p → p.l1 = 0 →
      ∃ u, exec .agPortIssue s = .next u ∧ (p.pkt.typ ≠ 0x05 → Leaves t.die p.pkt u ∧ u.mem = s.mem
          ∧ (u.tile t).port = removeFirst (fun q => q = p) x.port))
    ∧ (∀ p l, s.ev = .agPortIssue t → x.port.find? (fun q => x.gateOpen q) = some p → p.l1 = 2 →
        (∃ n inst, p.pkt.op = .load n inst) → s.l1Get t (p.pkt.addr.toNat / 64) p.seen = some l →
        ∃ u q, exec .agPortIssue s = .next u ∧ .replyDelivery q ∈ u.agenda ∧ q.serial = p.pkt.serial ∧ q.part = p.pkt.part
          ∧ q.op = .data (sliceB l.bytes (p.pkt.addr.toNat % 64) p.pkt.n) false)
    ∧ (∀ p r bs, s.ev = .replyDelivery p → (s.ctx p.ctx.toNat).st ≠ .saved → p.to_.toNat % 8 = t.die → p.tile = t.tile → p.tile < 1024 →
        p.rel = false → NMap.find x.replies p.slot = some r → r.serial = p.serial → p.part ∈ r.left → p.op = .data bs false →
        (r.left.filter (· ≠ p.part) ≠ [] → (∀ sc, r.kind ≠ .barwait sc) → ∃ u q, exec .replyDelivery s = .next u ∧ NMap.find (u.tile t).replies p.slot = some q
          ∧ q.left = r.left.filter (· ≠ p.part) ∧ q.buf = overlay r.buf p.offset bs)
        ∧ (r.left.filter (· ≠ p.part) = [] → r.kind = .data → s.level (s.regionCtx r.job.fi.region) = 0 → ∃ v : State,
            exec .replyDelivery s = .next (v.settle r.job ((v.consume r.job.fi).emitAll r.job r.job.fi.stTag .value
              (r.own.foldl (fun b o => overlay b o.1 [o.2]) (overlay r.buf p.offset bs))))
            ∧ (v.tile t).replies = NMap.del x.replies p.slot ∧ v.mem = s.mem))
    ∧ (∀ slot r, s.ev = .barwaitRetry t slot → NMap.find x.replies slot = some r →
        ∃ u, exec .barwaitRetry s = .next u ∧ u.mem = s.mem ∧ ∀ p ∈ r.pkts, Leaves t.die p u)
    ∧ (∀ o, s.ev = .orderConditionMet t → x.orders.find? (fun o => o.serials.isEmpty) = some o →
        ∃ v : State, exec .orderConditionMet s = .next (v.finishOrder o) ∧ (v.tile t).orders = removeFirst (fun q => q = o) x.orders
          ∧ v.mem = s.mem ∧ (o.job.fi.at_ = t → o.acquire = false → o.fence = false →
            v.finishOrder o = v.settle o.job (v.emitAll o.job { o.tag with seen := v.stores } o.kind o.pay)))
    ∧ (∀ id o j slot r, s.ev = .drainTokenArrival id → s.drainOps.find? (fun q => q.id = id) = some o → o.job = some j →
        j.fi.at_ = t → x.replies.find? (fun q => q.2.serial = o.id && q.2.kind = .drain) = some (slot, r) →
        (o.kindTo.isSome = true → vaPkg o.base = s.pkg) → ∃ v : State,
        exec .drainTokenArrival s = .next (v.settle j (v.emitAll j j.fi.stTag .value (if o.kindTo.isNone then [] else leBytes 4 0)))
        ∧ (∀ k, o.kindTo = some k → k < 4 → ∀ q ∈ (v.cd o.ctx (vaDie o.base)).pages, pdValid q.desc = true →
            q.va < o.base + o.len → o.base < q.va + pdSize q.desc → pdKind q.desc = k))
    ∧ (∀ k q qs, s.ev = .streamerTakeCopy t.die k → NMap.getD (s.die t.die).streams k [] = q :: qs → q.busy = false →
        (∀ a b n, q.piece? = some (a, b, n) → q.minor ≠ 2 → q.dsp = none → ∃ u p, exec .streamerTakeCopy s = .next u ∧ Leaves t.die p u
            ∧ p.typ = 0x01 ∧ p.addr = BitVec.ofNat 64 a ∧ p.op = .load n false ∧ n ≤ 64
            ∧ ∃ q', NMap.getD (u.die t.die).streams k [] = q' :: qs ∧ q'.busy = true ∧ q'.row = q.row ∧ q'.col = q.col)
        ∧ (∀ a b n, q.piece? = some (a, b, n) → q.minor = 2 → q.dsp = none → ∃ u p, exec .streamerTakeCopy s = .next u ∧ Leaves t.die p u
            ∧ p.typ = 0x04 ∧ p.addr = BitVec.ofNat 64 b
            ∧ p.op = .store ((List.range n).map (fun i => byteAt q.pattern ((q.col + i) % 8))))
        ∧ (q.piece? = none → ∃ v : State, exec .streamerTakeCopy s = .next v ∧ .commitDrain q.job.fi.at_ ∈ v.agenda))

/-- 06 R128 to R135, 09 R192, R193: one clause for each event. -/
def Obligations.LaunchEventResults : Prop :=
  ∀ (s : State) (d : Nat),
    let freed := fun (id : Nat) (r : Region) (t : State) => t.regions = NMap.del s.regions id ∧ ∀ x ∈ r.tiles, (t.tile x).region = 0
    (∀ q v, s.ev = .qtailWrite d q v → bitN (s.queue d q).ctl.toNat 63 = true → ∃ t, exec .qtailWrite s = .next t
      ∧ (t.queue d q).tail = v ∧ (t.queue d q).head = (s.queue d q).head ∧ .queueDecision d ∈ t.agenda ∧ t.mem = s.mem
      ∧ (bitN (t.queue d q).ctl.toNat 62 = true ↔ bitN (s.queue d q).ctl.toNat 62 = true
          ∨ 2 ^ fieldOf (s.queue d q).ctl 24 4 < (v - (s.queue d q).head).toNat))
    ∧ (let w := ((s.die d).queues.map (·.1)).foldl (fun s q => s.askBarrier d q) s
       ∀ q p turn, s.ev = .queueDecision d → w.pickQueue d = some (q, p, turn) → s.level (w.headLaunch d q).ctx < 2 →
        let l := w.headLaunch d q
        w.eligibleQueue d q = true ∧ w.takable d q = true
        ∧ (∀ n ∈ (w.die d).queues.map (·.1), w.eligibleQueue d n = true → w.takable d n = true → (w.queue d n).prio ≤ (w.queue d q).prio)
        ∧ ∃ t id, exec .queueDecision s = .next t ∧ .launchRecordCheck id ∈ t.agenda ∧ NMap.find t.launches id = some { l with id := id }
          ∧ (t.queue d q).head = (w.queue d q).head + 1 ∧ (t.queue d q).age = 0
          ∧ ((w.ctx l.ctx).st = .idle → (t.ctx l.ctx).st = .running) ∧ t.mem = s.mem)
    ∧ (∀ q lv, s.ev = .queueWaiterAnswer d q lv → (s.queue d q).asked = true → ∃ t, exec .queueWaiterAnswer s = .next t
        ∧ (t.queue d q).met = some lv ∧ .queueDecision d ∈ t.agenda)
    ∧ (∀ id l, s.ev = .launchRecordCheck id → NMap.find s.launches id = some l →
        (∀ l', s.readLaunch l = .ok l' → ∃ t, exec .launchRecordCheck s = .next t ∧ NMap.find t.launches id = some l'
          ∧ .leaseResidencyCheck id ∈ t.agenda)
        ∧ (∀ e, s.readLaunch l = .error e → ∃ t, exec .launchRecordCheck s = .next t ∧ t.launches = NMap.del s.launches id
          ∧ bitN (t.queue l.die l.queue).ctl.toNat 62 = true))
    ∧ (∀ id l, s.ev = .leaseResidencyCheck id → NMap.find s.launches id = some l →
        (s.resident l = true → s.notUn l.ctx l.spillBase (2 ^ l.spillLog) = false → ∃ t l', exec .leaseResidencyCheck s = .next t ∧ .regionConfigured id ∈ t.agenda
          ∧ NMap.find t.launches id = some l' ∧ l'.slot = none ∧ l'.active = l.leases)
        ∧ (s.resident l = false → l.slot = none → ∀ k, NMap.freeKey (s.die l.die).resSlots 8 = some k →
          ∃ t l', exec .leaseResidencyCheck s = .next t ∧ .reswaitTimeout l.die k ∈ t.agenda
          ∧ NMap.find (t.die l.die).resSlots k = some id ∧ NMap.find t.launches id = some l' ∧ l'.slot = some k ∧ l'.since = s.cycles
          ∧ ∃ r ∈ l.leases, s.badPage l.ctx r = some l'.failPage))
    ∧ (∀ k id l, s.ev = .reswaitTimeout d k → NMap.find (s.die d).resSlots k = some id → NMap.find s.launches id = some l →
        ∃ t, exec .reswaitTimeout s = .next t ∧ t.launches = NMap.del s.launches id ∧ bitN (t.queue l.die l.queue).ctl.toNat 62 = true)
    ∧ (∀ id l, s.ev = .regionConfigured id ∨ s.ev = .heldLaunchConfigure id → NMap.find s.launches id = some l → s.placesFree l = true →
        let i : Instr := if s.ev = .regionConfigured id then .regionConfigured else .heldLaunchConfigure
        ∃ v : State, exec i s = .next ((((l.tokens.filter (fun p => numAt p.2 0 2 = s.pkg)).map (fun p => v.initialToken l p.2)).foldl
              (fun s a => (s.countSent a.at_ a.tok.tag.phase 1).arrive a) v).post
                (if l.pkgCount > 1 then .phaseSum id else .quiescenceWave id))
          ∧ (∃ r, NMap.find v.regions id = some r ∧ r.launch = l ∧ r.tiles = l.tilesHere s.pkg ∧ r.islands = l.islandsHere s.pkg)
          ∧ (∀ x ∈ l.tilesHere s.pkg, (v.tile x).region = id ∧ (v.tile x).lastCtx = some l.ctx
              ∧ (v.tile x).kind = tileKindOf ((NMap.getD l.kinds x.die []).getD x.tile 0)
              ∧ ((s.tile x).lastCtx ≠ some l.ctx → (v.tile x).sregs = List.replicate 8 (zeros 128)
                  ∧ (v.tile x).wregs = List.replicate 16 (List.replicate 32 0x7F) ∧ (v.tile x).aregs = List.replicate 16 0))
          ∧ (∀ p ∈ l.islandsHere s.pkg, (v.island p.1 p.2).region = id ∧ (v.island p.1 p.2).ctx = l.ctx ∧ (v.island p.1 p.2).acc = []))
    ∧ (∀ id r, s.ev = .quiescenceWave id ∨ s.ev = .phaseSum id → s.region? id = some r →
        let wave := s.ev = .quiescenceWave id
        let i : Instr := if s.ev = .quiescenceWave id then .quiescenceWave else .phaseSum
        let ended := if s.ev = .quiescenceWave id then (s.totals r).1 = (s.totals r).2 ∧ r.lastWave = some (s.totals r)
          else ∀ k < 4, s.phaseCount r k = 0 ∧ NMap.find r.lastSums k = some 0
        let bar := r.launch.doneBar
        (ended → bar = 0 ∨ vaPkg bar ≠ s.pkg → ∃ t, exec i s = .next t ∧ freed id r t)
        ∧ (ended → bar ≠ 0 → vaPkg bar = s.pkg → ∃ t r' q, exec i s = .next t ∧ t.region? id = some r' ∧ r'.joining = true ∧ r'.tiles = r.tiles
            ∧ Leaves r.launch.die q t ∧ q.typ = 0x02 ∧ q.addr = BitVec.ofNat 64 bar ∧ q.op = .barJoin 1 ∧ q.tile = 4094 ∧ q.serial = id)
        ∧ (¬ ended → ∃ t r', exec i s = .next t ∧ t.region? id = some r' ∧ r'.launch = r.launch ∧ r'.tiles = r.tiles
          ∧ (wave → r'.lastWave = some (s.totals r) ∧ .quiescenceWave id ∈ t.agenda)
          ∧ (¬ wave → (∀ k < 4, NMap.find r'.lastSums k = some (s.phaseCount r k)) ∧ .phaseSum id ∈ t.agenda)))
    -- the answer of its done barrier's join frees the region (06 R135)
    ∧ (∀ p r bs line, s.ev = .replyDelivery p → p.tile = 4094 → p.rel = false → s.region? p.serial = some r → r.joining = true → p.op = .data bs line →
        ∃ t, exec .replyDelivery s = .next t ∧ freed p.serial r t)

/-- 12 R247 to R257, 20 R412. `w` is the state before the token of the command leaves; `v` the one in which its effect is done. -/
def Obligations.IslandEventResults : Prop :=
  ∀ (s : State) (d k : Nat),
    let x := s.island d k
    (∀ c, s.ev = .islandCommandEntry d k → x.rows = 1 → x.cols = 1 → s.mayEnter d k = [c] → s.endRoom d k c = true →
      (s.die d).ramp.count < (s.die d).ramp.limit → x.flight = [] → x.pend = [] →
      let ends := fun (w : State) => exec .islandCommandEntry s = .next w
        ∨ exec .islandCommandEntry s = .next (w.due (.islandCommandEntry d k))
      let left := fun (v : State) => (v.island d k).cmds
          = removeFirst (fun q => q.id = c.id) (x.cmds.map (fun q => if q.id = c.id then { q with here := true } else q))
        ∧ (∀ n, NMap.find (s.tile ⟨d, c.tile⟩).chanFree c.chan = some n → NMap.find (v.tile ⟨d, c.tile⟩).chanFree c.chan = some (n + 1))
        ∧ v.mem = s.mem
      let back := fun (v : State) (res : Bytes) => ends ((v.returnTok c.job c.job.fi.stTag res).cmdDone c.job)
      (∀ g a ty sparse, c.op = .rows [(g, a)] ty sparse → g < 256 → ∃ v : State, ends (v.cmdDone c.job) ∧ left v
          ∧ .rowUpdateLand d k ∈ v.agenda ∧ fieldOf (v.island d k).stat 16 16 = (fieldOf x.stat 16 16 + 1) % 2 ^ 16
          ∧ ∃ u, (v.island d k).flight = [u] ∧ u.row = g
            ∧ (x.active.ty = ty → ty ≠ .none → x.active.sparse = sparse → ∀ n < 256,
                u.terms[n]? = some ((List.range (x.active.kp / 32)).map (chunkSum x.active a sparse n))))
      ∧ (∀ ty kp kb nb nEl, c.op = .load ty false kp kb nb nEl → ∃ v : State, ends (v.weightsDone c) ∧ left v
          ∧ (v.island d k).active = loadedBank ty false kp kb nEl c.data 0 ∧ (v.island d k).loading = {} ∧ (v.island d k).acc = x.acc)
      ∧ (∀ g0 m, c.op = .init g0 m → g0 < 256 → 0 < m → ∃ v : State, back v [] ∧ left v ∧ ∀ r < 256,
          (NMap.find (v.island d k).acc r).isSome → ¬ (g0 ≤ r ∧ r < g0 + m))
      ∧ (∀ g0 sg b, c.op = .add g0 sg b → g0 < 256 → sg < 8 → (x.row g0).length = 256 → ∃ v : State, back v [] ∧ left v
          ∧ (v.island d k).cnt g0 = min 0xFFFF (x.cnt g0 + 1)
          ∧ ∀ n < 256, ((v.island d k).row g0)[n]? = some (if 32 * sg ≤ n ∧ n < 32 * sg + 32
              then addF32 ((x.row g0).getD n 0) (numAt b (4 * (n - 32 * sg)) 4) else (x.row g0).getD n 0))
      ∧ (∀ g0 sg n b, c.op = .put g0 sg n b → g0 < 256 → sg < 8 → (x.row g0).length = 256 → ∃ v : State, back v [] ∧ left v
          ∧ (v.island d k).cnt g0 = min 0xFFFF (x.cnt g0 + n)
          ∧ ∀ i < 256, ((v.island d k).row g0)[i]? = some (if 32 * sg ≤ i ∧ i < 32 * sg + 32
              then numAt b (4 * (i - 32 * sg)) 4 else (x.row g0).getD i 0))
      ∧ (∀ g0 sg, c.op = .read g0 sg → g0 < 256 → sg < 8 → ∃ v : State, back v (packElems 4 (((x.row g0).drop (32 * sg)).take 32)) ∧ left v))
    -- a command that the ramp limiter holds is the next to enter (12 R260)
    ∧ (∀ c, s.ev = .islandCommandEntry d k → x.rows = 1 → x.cols = 1 → s.mayEnter d k = [c] → s.endRoom d k c = true →
        (s.die d).ramp.limit ≤ (s.die d).ramp.count → ∃ t, exec .islandCommandEntry s = .next t ∧ (t.island d k).rampHeld = true
          ∧ (t.island d k).lock = some c.id ∧ (t.die d).ramp.held = true ∧ (t.island d k).acc = x.acc ∧ t.mem = s.mem)
    ∧ (∀ u us, s.ev = .rowUpdateLand d k → x.flight = u :: us → x.rows = 1 → x.cols = 1 → x.lead = k →
        (x.pend = [] → ∃ t, exec .rowUpdateLand s = .next t ∧ (t.island d k).flight = us
          ∧ (t.island d k).cnt u.row = min 0xFFFF (x.cnt u.row + 1)
          ∧ (u.terms ≠ [] → (t.island d k).row u.row = ((x.row u.row).zip u.terms).map (fun p => p.2.foldl addF32 p.1))
          ∧ (∀ r, r ≠ u.row → (t.island d k).row r = x.row r) ∧ t.mem = s.mem)
        ∧ (∀ e, x.pend = [e] → e.g0 = u.row → e.m = 1 → u.row < 256 → e.n ≤ min 0xFFFF (x.cnt u.row + 1) → ∃ t, exec .rowUpdateLand s = .next t
          ∧ (t.island d k).pend = [] ∧ (t.island d k).cnt u.row = 0 ∧ .releaseTokenOut d k ∈ t.agenda
          ∧ (t.island d k).outq.length = x.outq.length + 8
          ∧ ∀ sg < 8, ∃ r, (t.island d k).outq[x.outq.length + sg]? = some r ∧ r.job = e.job ∧ r.iter = u.row * 32 + sg ∧ r.last = decide (sg = 7)
            ∧ r.payload = (x.land u).segment u.row sg))
    ∧ (∀ r rs, s.ev = .releaseTokenOut d k → x.outq = r :: rs → ∃ v : State, (v.island d k).outq = rs
        ∧ (let w := v.returnTok r.job { r.job.fi.stTag with iter := BitVec.ofNat 16 r.iter } r.payload
           let w := if r.last then w.cmdDone r.job else w
           exec .releaseTokenOut s = .next (if rs = [] then w else w.due (.releaseTokenOut d k))))
    ∧ (s.ev = .rampWindow d → ∃ t, exec .rampWindow s = .next t ∧ .rampWindow d ∈ t.agenda ∧ (∀ n < 104, (t.island d n).rampHeld = false)
        ∧ (let r := (s.die d).ramp
           let q := (t.die d).ramp
           q.last = max r.count (r.last - fieldOf r.eff 0 16) ∧ q.empty = q.last - r.count ∧ q.count = 0 ∧ q.held = false ∧ q.eff = r.ctl
           ∧ q.ctl = r.ctl ∧ q.since = s.cycles))
    ∧ (s.ev = .forecastUpdate d → ∃ t, exec .forecastUpdate s = .next t ∧ .forecastUpdate d ∈ t.agenda
        ∧ fieldOf (t.die d).ramp.fcst 0 32 = min (2 ^ 32 - 1)
            (((s.die d).queues.filter (fun q => bitN q.2.ctl.toNat 63)).map (fun q => (q.2.tail - q.2.head).toNat)).sum)

/-- 14 R296 to R300, R305: one clause for each event. `old` is the packet with its time in flight after the hop, which is free (log entry 2). -/
def Obligations.FabricEventResults : Prop :=
  ∀ (s : State) (d port : Nat),
    (∀ p, s.ev = .packetHop d p → badPacket p = false →
      let old : Packet := { p with age := BitVec.ofNat 8 (min 255 (p.age.toNat + Config.hopAge s.ticks)) }
      let young : Prop := old.age.toNat < fieldOf (s.die d).cctl 40 8
      (∃ t, exec .packetHop s = .next t ∧ (¬ young → t.agenda = s.agenda ++ [.packetAgeDrop d old] ∧ t.mem = s.mem))
      ∧ (p.to_.toNat / 8 = s.pkg → p.to_.toNat % 8 = d → p.toHost = false →
        (p.fromHost = true ∨ p.typ = 0x0C ∨ p.inc = NMap.getD (s.die d).incs p.from_.toNat 0) → ∃ t, exec .packetHop s = .next t ∧ (young →
          t.mem = s.mem ∧ (∀ l k, p.viaLink = some l → p.held = some k → .creditReturn l k ∈ t.agenda)
          ∧ ∀ e, arrivalEvent d { old with viaLink := none, held := none, dir := 0, dateline := false, escape := false } = some e →
              e ∈ t.agenda))
      ∧ (∀ w, p.to_.toNat / 8 = s.pkg → p.to_.toNat % 8 ≠ d → d < 8 → p.toHost = false → s.ringWay d (p.to_.toNat % 8) p = some w →
          (s.link d (w - 1)).st = .up → 0 < (s.link d (w - 1)).shared → p.escape = false →
          w = 1 ∨ w = 2 → ∃ t, exec .packetHop s = .next t ∧ (young → ∃ q, .packetHop ((d + (if w = 1 then 1 else 7)) % 8) q ∈ t.agenda
            ∧ q.op = p.op ∧ q.to_ = p.to_ ∧ q.serial = p.serial ∧ q.part = p.part ∧ q.age = old.age ∧ q.held = some .shared
            ∧ q.viaLink = some (d * 8 + (w - 1)) ∧ q.dateline = (p.dateline || (w = 1 && d = 7) || (w = 2 && d = 0))))
      ∧ (p.dir = 0 → p.ring = 0 → (∀ n m, s.failedPort n m = false) → d < 8 →
          s.ringWay d (p.to_.toNat % 8) p = some (if (p.to_.toNat % 8 + 8 - d) % 8 ≤ 4 then 1 else 2))
      ∧ (∀ o, p.to_.toNat / 8 ≠ s.pkg → s.wayOut p (p.from_.toNat / 8) (p.to_.toNat / 8) = some (d, o) → 2 ≤ o → o < 6 →
          (s.link d o).st = .up → 0 < (s.link d o).shared → p.escape = false →
          ∃ t, exec .packetHop s = .next t ∧ (young → ∃ q ∈ t.outbound, q.op = p.op ∧ q.to_ = p.to_ ∧ q.addr = p.addr)))
    ∧ (∀ l k, s.ev = .creditReturn l k → ∃ t, exec .creditReturn s = .next t ∧ t.agenda = s.agenda
        ∧ (let x := s.link (l / 8) (l % 8)
           let y := t.link (l / 8) (l % 8)
           match k with
           | .shared => y.shared = min 32 (x.shared + 1) ∧ y.reserved = x.reserved ∧ y.escape = x.escape
           | .reserved v => NMap.getD y.reserved v 2 = min 2 (NMap.getD x.reserved v 2 + 1) ∧ y.shared = x.shared ∧ y.escape = x.escape
           | .escape c n => NMap.getD y.escape (c * 2 + n) 1 = 1 ∧ y.shared = x.shared ∧ y.reserved = x.reserved))
    ∧ (∀ p, s.ev = .packetAgeDrop d p →
        (p.typ = 0x01 → ∃ t, exec .packetAgeDrop s = .next t ∧ t.mem = s.mem
          ∧ fieldOf (t.die d).cstat 40 12 = min 4095 (fieldOf (s.die d).cstat 40 12 + 1))
        ∧ (p.typ = 0x0B → p.fromHost = false → ∃ v : State, exec .packetAgeDrop s =
              .next (v.remoteFault p.ctx.toNat d 0x04 p.addr.toNat p.to_.toNat p.rc.toNat p.epoch.toNat)
          ∧ fieldOf (v.die d).cstat 40 12 = min 4095 (fieldOf (s.die d).cstat 40 12 + 1)))
    ∧ (∀ t slot r, s.ev = .requestTimeoutResend t slot → t.tile < 1024 → NMap.find (s.tile t).replies slot = some r →
        let out := fun (p : Packet) => p ∈ r.pkts ∧ p.part ∈ r.left ∧ p.typ = 0x01
        (∀ p, out p → r.tries < 3 → ∃ u q, exec .requestTimeoutResend s = .next u ∧ (∀ p, out p → Leaves t.die p u)
            ∧ NMap.find (u.tile t).replies slot = some q ∧ q.tries = r.tries + 1 ∧ q.left = r.left ∧ .requestTimeoutResend t slot ∈ u.agenda)
        ∧ (∀ p, out p → 3 ≤ r.tries → ∃ p', out p' ∧ exec .requestTimeoutResend s =
            .next (s.replyFault t slot 0x02 p'.addr.toNat p'.to_.toNat false)))
    -- both ends of a ring link train, confirm and fail together
    ∧ (s.ev = .linkRetrainRequest d port → (s.link d port).st = .up → ∃ t, exec .linkRetrainRequest s = .next t
        ∧ ∀ e ∈ linkEnds d port, (s.link e.1 e.2).st = .up → (t.link e.1 e.2).st = .retrain ∧ (t.link e.1 e.2).since = s.cycles
          ∧ (.trainingComplete e.1 e.2 ∈ t.agenda ∨ .retrainTimeout e.1 e.2 ∈ t.agenda))
    ∧ (s.ev = .trainingComplete d port → (s.link d port).st = .retrain → ∃ t, exec .trainingComplete s = .next t
        ∧ (t.link d port).st = .confirm
        ∧ (2 ≤ port → ∃ peer, .confirmViews d port (t.link d port).view peer ∈ t.agenda)
        ∧ (∀ e, (linkEnds d port).drop 1 = [e] → (s.link e.1 e.2).st = .confirm →
            .confirmViews d port (t.link d port).view (s.link e.1 e.2).view ∈ t.agenda))
    ∧ (∀ own peer, s.ev = .confirmViews d port own peer → (s.link d port).st = .confirm → ∃ t, exec .confirmViews s = .next t
        ∧ ∀ e ∈ linkEnds d port,
          (own = peer → (t.link e.1 e.2).st = .up ∧ (t.link e.1 e.2).view = own ∧ (t.link e.1 e.2).attempts = 0)
          ∧ (own ≠ peer → (s.link d port).attempts < 2 →
              (t.link e.1 e.2).st = .retrain ∧ (t.link e.1 e.2).attempts = (s.link e.1 e.2).attempts + 1)
          ∧ (own ≠ peer → 2 ≤ (s.link d port).attempts → (t.link e.1 e.2).st = .failed))
    ∧ (s.ev = .retrainTimeout d port → (s.link d port).st = .retrain → ∃ t, exec .retrainTimeout s = .next t
        ∧ (∀ e ∈ linkEnds d port, (t.link e.1 e.2).st = .failed) ∧ ∀ n, n ≠ port → t.link d n = s.link d n)
    ∧ (∀ source inc, s.ev = .incarnationNotice d source inc → NMap.getD (s.die d).incs source 0 ≠ inc →
        (∀ q ∈ s.tiles, q.2.replies = []) → (∀ q ∈ (s.die d).streams, q.2 = []) →
        (∀ r ∈ (s.die d).recvs, r.1.other.toNat = source → r.1.inc = inc) →
        ((∀ e ∈ (s.die d).sends, e.dst = source → e.st = .done) →
          ∃ t, exec .incarnationNotice s = .next t ∧ NMap.find (t.die d).incs source = some inc ∧ t.mem = s.mem)
        ∧ (∀ e, (s.die d).sends = [e] → e.dst = source → e.st = .opened → (s.die d).copies = [] →
          ∃ v : State, exec .incarnationNotice s = .next ((v.remoteFault e.ctx d 0x09 0 source e.rc e.epoch).relWake d e.ctx e.rc)
            ∧ NMap.find (v.die d).incs source = some inc ∧ (∃ e', (v.die d).sends = [e'] ∧ e'.st = .aborted ∧ e'.is e.ctx e.rc e.epoch e.dst)
            ∧ (∃ p, Leaves d p v ∧ p.typ = 0x09 ∧ p.to_ = BitVec.ofNat 13 source ∧ p.op = .abort e.count e.flag.isSome)))

/-- 14 R303, R304, R312: one clause for each event. -/
def Obligations.ReleaseEventResults : Prop :=
  ∀ (s : State) (d : Nat),
    (∀ p e bs key, s.ev = .releaseWriteArrival d p → s.recv? d (relKey p) = some e → e.st = .counting → p.op = .store bs →
      (p.index ∈ e.bits → exec .releaseWriteArrival s = .next s)
      ∧ (p.index ∉ e.bits → s.pktKey d p = some key → s.copyNeed d p key = none → (s.noteAccess d p).1 = [] → p.fromHost = false → ∃ v : State,
          exec .releaseWriteArrival s = .next (((v.writeDone d p bs.length).putRecv d (relKey p)
            { e with arrivals := e.arrivals + 1, bits := e.bits ++ [p.index] }).relTest d (relKey p))
          ∧ Stored s.mem v.mem key bs ∧ v.hostMem = s.hostMem))
    ∧ (∀ p e bs key, s.ev = .releaseFlagArrival d p → s.recv? d (relKey p) = some e → e.st = .counting → p.op = .flag bs →
        s.pktKey d p = some key → s.copyNeed d p key = none → s.level p.ctx.toNat < 2 → ∃ t e', exec .releaseFlagArrival s = .next t
          ∧ t.recv? d (relKey p) = some e'
          ∧ (e.arrivals = p.index → Stored s.mem t.mem key bs ∧ e'.st = .done ∧ .receiveEntryExpiry d (relKey p) ∈ t.agenda
              ∧ ∃ q, Leaves d q t ∧ q.typ = 0x07 ∧ q.to_ = p.from_ ∧ q.rc = p.rc ∧ q.epoch = p.epoch)
          ∧ (e.arrivals ≠ p.index → t.mem = s.mem ∧ e'.st = .waiting ∧ e'.held = some p ∧ .gapTimer d (relKey p) ∈ t.agenda))
    ∧ (∀ p e, s.ev = .releaseCompleteArrival d p → s.send? d p.ctx.toNat p.rc.toNat p.epoch.toNat p.from_.toNat = some e → e.st = .flagged →
        e.dst / 8 = s.pkg → ∃ v : State, exec .releaseCompleteArrival s = .next (v.relWake d e.ctx e.rc) ∧ v.mem = s.mem
          ∧ (∃ e', v.send? d e.ctx e.rc e.epoch e.dst = some e' ∧ e'.st = .done) ∧ (∀ q ∈ (v.die d).copies, e.owns q = false))
    ∧ (∀ p e miss, s.ev = .gapReportArrival d p → p.op = .gapReport miss →
        s.send? d p.ctx.toNat p.rc.toNat p.epoch.toNat p.from_.toNat = some e → e.st = .flagged → ∃ t, exec .gapReportArrival s = .next t
          ∧ t.mem = s.mem ∧ ∀ q ∈ (s.die d).copies, e.owns q = true → q.index ∈ miss → Leaves d { q with age := 0 } t)
    ∧ (∀ p e n f, s.ev = .groupAbortArrival d p → p.op = .abort n f → s.recv? d (relKey p) = some e → e.st = .counting ∨ e.st = .waiting →
        ∃ t e', exec .groupAbortArrival s = .next t ∧ t.recv? d (relKey p) = some e' ∧ e'.st = .aborted ∧ t.mem = s.mem
          ∧ (t.cd p.ctx.toNat d).recv = (s.cd p.ctx.toNat d).recv + (n - e.arrivals) + (if f then 1 else 0)
          ∧ ∃ q, Leaves d q t ∧ q.typ = 0x07 ∧ q.to_ = p.from_)
    ∧ (∀ g e, s.ev = .flagResendTimer d g → s.sendOf d g = some e → e.st = .flagged →
        (∀ p, e.resends < 2 → e.flag = some p → ∃ t e', exec .flagResendTimer s = .next t ∧ Leaves d { p with age := 0 } t
          ∧ t.sendOf d g = some e' ∧ e'.resends = e.resends + 1 ∧ e'.st = .flagged ∧ .flagResendTimer d g ∈ t.agenda)
        ∧ (2 ≤ e.resends → exec .flagResendTimer s = .next (((s.abortSend d e).remoteFault e.ctx d 0x08
            ((e.flag.map (fun p => p.addr.toNat)).getD 0) e.dst e.rc e.epoch).relWake d e.ctx e.rc)
          ∧ ((∀ q ∈ (s.die d).copies, e.owns q = false) → ∃ e', (s.abortSend d e).send? d e.ctx e.rc e.epoch e.dst = some e' ∧ e'.st = .aborted
            ∧ ∃ q, Leaves d q (s.abortSend d e) ∧ q.typ = 0x09 ∧ q.op = .abort e.count e.flag.isSome)))
    ∧ (∀ g e p, s.ev = .abortResendTimer d g → s.sendOf d g = some e → e.st = .aborted → e.answered = false → e.abortResends < 3 →
        e.abortPkt = some p → ∃ t e', exec .abortResendTimer s = .next t ∧ Leaves d { p with age := 0 } t ∧ t.sendOf d g = some e'
          ∧ e'.abortResends = e.abortResends + 1 ∧ .abortResendTimer d g ∈ t.agenda ∧ t.mem = s.mem)
    ∧ (∀ g e p, s.ev = .gapTimer d g → s.recv? d g = some e → e.st = .waiting → e.held = some p → e.arrivals ≠ p.index →
        let report := fun (v : State) => ∃ q, Leaves d q v ∧ q.typ = 0x08 ∧ q.to_ = g.other
          ∧ q.op = .gapReport (((List.range p.index).filter (fun i => !e.bits.contains i)).take 96)
        (e.gaps + 1 < 16 → ∃ t e', exec .gapTimer s = .next t ∧ report t ∧ t.recv? d g = some e' ∧ e'.gaps = e.gaps + 1
          ∧ e'.st = .waiting ∧ .gapTimer d g ∈ t.agenda)
        ∧ (16 ≤ e.gaps + 1 → ∃ v : State, report v ∧ v.recv? d g = none
          ∧ exec .gapTimer s = .next (v.remoteFault g.ctx.toNat d 0x0A p.addr.toNat g.other.toNat g.rc.toNat g.epoch.toNat)))
    ∧ (∀ g e, s.ev = .receiveEntryExpiry d g → s.recv? d g = some e → e.st = .done ∨ e.st = .aborted →
        ∃ t, exec .receiveEntryExpiry s = .next t ∧ t.recv? d g = none ∧ t.mem = s.mem ∧ ∀ h, h ≠ g → t.recv? d h = s.recv? d h)
    ∧ (∀ t slot r rc ch, s.ev = .relopenSpacingExpiry t slot → NMap.find (s.tile t).replies slot = some r → r.kind = .relopen rc →
        (let c := s.regionCtx r.job.fi.region
         NMap.find (s.die t.die).relChans (c * 256 + rc) = some ch → ch.openedAt + fieldOf (s.die t.die).cctl 0 16 * 1900 / 32 ≤ s.cycles →
         (∀ e ∈ (s.die t.die).sends, e.ctx = c → e.rc = rc → e.epoch = (ch.epoch + 255) % 256 → e.st ≠ .opened ∧ e.st ≠ .flagged) →
         (∀ e ∈ (s.die t.die).sends, e.ctx = c → e.rc = rc → e.epoch = ch.epoch → e.st ≠ .opened) → ∃ v : State,
          exec .relopenSpacingExpiry s = .next (s.settle r.job (v.emitBoth r.job .value (leBytes 4 ((ch.epoch + 1) % 256))))
          ∧ (∃ ch', NMap.find (v.die t.die).relChans (c * 256 + rc) = some ch' ∧ ch'.epoch = (ch.epoch + 1) % 256 ∧ ch'.openedAt = s.cycles)
          ∧ (v.tile t).replies = NMap.del (s.tile t).replies slot))

/-- 15 R319, R323 to R327: one clause for each event. The packet's header fields are those of the engine (log entries 4 and 26 say what
lies outside). The level of the context is below RECORD where a counter is updated: at RECORD the update is logged first (17 R351). -/
def Obligations.NetworkEventResults : Prop :=
  ∀ (s : State) (d : Nat),
    (∀ id m, s.ev = .netMessageSend d id → NMap.find (s.die d).net.msgs id = some m → NMap.find (s.die d).net.upds id = none →
        (m.sent = 0 → (s.ctx m.ctx).st ≠ .ended) →
        let i := m.nextIndex s.ticks
        let off := 4096 * i
        let unsent := fun (k : Nat) => 4096 * k < m.length ∧ ∀ q ∈ m.out, q.index ≠ k
        let n := min 4096 (m.length - off)
        let bytes := if m.lsp then (s.tile ⟨d, m.job.fi.tile⟩).spadRead m.job.fi.inst (m.addr + off) n else s.readVa m.ctx (m.addr + off) n
        (m.write = true → m.lsp = true ∨ s.mappedVa m.ctx (m.addr + off) n = true → ∃ (v : State) (p : NetPacket),
          exec .netMessageSend s = .next (if m.length ≤ 4096 * (m.sent + 1) then v.postDone d id else v.post (.netMessageSend d id))
          ∧ (v.die d).net.out = (s.die d).net.out ++ [s.netHead d p] ∧ v.mem = s.mem
          ∧ p.body = .write m.window m.roff m.length m.notify bytes ∧ p.peer = m.ep ∧ p.msg = m.num ∧ p.index = i
          ∧ p.port = netPortOf (s.die d).net.cfg m.ep ∧ p.ord = m.ord
          ∧ ((∃ k, unsent k) → unsent i ∧ (m.ord = true → ∀ k, unsent k → i ≤ k))
          ∧ NMap.find (v.die d).net.msgs id = some { m with sent := m.sent + 1, out := m.out ++ [p] })
        ∧ (m.write = false → ∃ (t : State) (p : NetPacket), exec .netMessageSend s = .next t ∧ (t.die d).net.out = (s.die d).net.out ++ [s.netHead d p]
          ∧ t.mem = s.mem ∧ p.body = .readRequest m.window m.roff m.length m.notify ∧ p.peer = m.ep ∧ p.msg = m.num ∧ p.port = netPortOf (s.die d).net.cfg m.ep
          ∧ NMap.find (t.die d).net.msgs id = some { m with sent := 1, out := [p] }))
    ∧ (∀ p : NetPacket, s.ev = .netPacketReceive d p → (s.die d).net.up = true → s.netOwn d p = true → netFormed p = true →
        let c := p.ctx.toNat
        let from_ := p.peer * 4096 + p.src.toNat
        (from_, c, p.msg) ∉ (s.die d).net.past →
        let refused := fun (t : State) => t.mem = s.mem ∧ fieldOf (t.die d).net.stat 10 10 = min 1023 (fieldOf (s.die d).net.stat 10 10 + 1)
          ∧ ∃ q ∈ (t.die d).net.out, q.peer = p.peer ∧ q.msg = p.msg ∧ q.index = p.index ∧ q.body = .refuse
        (∀ w roff length notify data, p.body = .write w roff length notify data →
          (∀ i ∈ (s.die d).net.ins, ¬ (i.peer = from_ ∧ i.ctx = c ∧ i.msg = p.msg)) →
          let e := NMap.getD (s.cd c d).windows w []
          (winTakes e true roff.toNat length = false → ∃ t, exec .netPacketReceive s = .next t ∧ refused t)
          ∧ (winTakes e true roff.toNat length = true →
              let a := winBase e + roff.toNat + 4096 * p.index
              ∀ g, (∀ i < data.length, s.page? c (a + i) = some g ∧ vaDie (a + i) = d) → ∃ t, exec .netPacketReceive s = .next t
                ∧ Stored s.mem t.mem (physKey d (pdPa g.desc + (a - g.va))) data
                ∧ ∃ q ∈ (t.die d).net.out, q.peer = p.peer ∧ q.msg = p.msg ∧ q.index = p.index ∧ q.body = .ack))
        ∧ (∀ w roff length notify, p.body = .readRequest w roff length notify →
          let e := NMap.getD (s.cd c d).windows w []
          let a := winBase e + roff.toNat
          (winTakes e false roff.toNat length = false → ∃ t, exec .netPacketReceive s = .next t ∧ refused t)
          ∧ (winTakes e false roff.toNat length = true → s.mappedVa c a length = true → ∃ t, exec .netPacketReceive s = .next t
              ∧ t.mem = s.mem ∧ ∀ i < (length + 4095) / 4096, ∃ q ∈ (t.die d).net.out, q.peer = p.peer ∧ q.msg = p.msg ∧ q.index = i
                ∧ q.body = .readData (s.readVa c (a + 4096 * i) (min 4096 (length - 4096 * i)))))
        ∧ (∀ id m, (s.die d).net.msgs.find? (fun x => x.2.num = p.msg && x.2.ctx = p.src.toNat) = some (id, m) →
          NMap.find (s.die d).net.msgs id = some m → NMap.find (s.die d).net.upds id = none →
          (p.body = .ack → m.write = true → p.index ∉ m.acked → ∃ t, exec .netPacketReceive s = .next t
            ∧ ((m.acked.length + 1) * 4096 < m.length →
                NMap.find (t.die d).net.msgs id = some { m with acked := m.acked ++ [p.index] } ∧ t.agenda = s.agenda)
            ∧ (m.length ≤ (m.acked.length + 1) * 4096 → .netLocalCompletion d id ∈ t.agenda ∧ ∃ u, NMap.find (t.die d).net.upds id = some u
                ∧ u.counter = m.lnc ∧ u.num = m.num ∧ u.fin = true ∧ u.fail = false))
          ∧ (p.body = .refuse → ∃ t, exec .netPacketReceive s = .next t ∧ .netLocalCompletion d id ∈ t.agenda
            ∧ ∃ u, NMap.find (t.die d).net.upds id = some u ∧ u.counter = m.lnc ∧ u.num = m.num ∧ u.fin = true ∧ u.fail = true)))
    ∧ (∀ id u, s.ev = .netLocalCompletion d id → NMap.find (s.die d).net.upds id = some u → (s.ctx u.ctx).st ≠ .ended →
        (s.ctx u.ctx).st ≠ .free → s.level u.ctx < 2 →
        let now := NMap.getD (s.cd u.ctx d).ncnt u.counter 0
        let counted := fun (v : State) => ∃ x, NMap.find (v.cd u.ctx d).ncnt u.counter = some x
          ∧ (u.fail = false → fieldOf x 0 32 = (fieldOf now 0 32 + 1) % 2 ^ 32 ∧ fieldOf x 48 16 = fieldOf now 48 16)
          ∧ (u.fail = true → fieldOf x 48 16 = min 0xFFFF (fieldOf now 48 16 + 1) ∧ fieldOf x 0 32 = fieldOf now 0 32)
        (u.fin = false → ∃ v : State, exec .netLocalCompletion s = .next (v.netWake u.ctx d u.counter) ∧ v.mem = s.mem ∧ counted v)
        ∧ (∀ m, u.fin = true → NMap.find (s.die d).net.msgs id = some m → m.ghost = false → ∃ v : State,
            exec .netLocalCompletion s = .next ((v.fenceWake u.ctx d id).netWake u.ctx d u.counter) ∧ counted v
            ∧ (v.cd u.ctx d).recv = (s.cd u.ctx d).recv + 1
            ∧ (u.fail = false → v.mem = s.mem ∧ v.hostMem = s.hostMem)
            ∧ (u.fail = true → s.hostOpen = true → (s.die d).rings.full = false → (s.die d).rings.kept = [] →
                Stored s.hostMem v.hostMem (eventAddr (s.die d).rings (s.die d).rings.etail.toNat)
                  ([7, 0] ++ leBytes 2 (s.pkg * 8 + d) ++ leBytes 2 u.ctx ++ [0, 0] ++ leBytes 8 m.tag.toNat ++ leBytes 4 u.num.toNat
                    ++ leBytes 4 u.cause ++ zeros 8))))
    ∧ (∀ id m, s.ev = .netTransportAbandon d id → NMap.find (s.die d).net.msgs id = some m → NMap.find (s.die d).net.upds id = none →
        ∃ t u, exec .netTransportAbandon s = .next t ∧ NMap.find (t.die d).net.upds id = some u ∧ u.counter = m.lnc ∧ u.num = m.num
          ∧ u.fin = true ∧ u.fail = true ∧ .netLocalCompletion d id ∈ t.agenda)
    ∧ (∀ id m, s.ev = .transportRetransmission d id → NMap.find (s.die d).net.msgs id = some m →
        (∃ p ∈ m.out, p.index ∉ m.acked) → ∃ t, ∃ p ∈ m.out, exec .transportRetransmission s = .next t ∧ p.index ∉ m.acked
          ∧ (t.die d).net.out = (s.die d).net.out ++ [s.netHead d p] ∧ t.mem = s.mem ∧ t.agenda = s.agenda
          ∧ fieldOf (t.die d).net.stat 30 10 = min 1023 (fieldOf (s.die d).net.stat 30 10 + 1))

/-- 17 R350 to R361: one clause for each event. `lone` is a context whose tiles hold no spilled token and that has no INTV firing waiting. -/
def Obligations.AccessionEventResults : Prop :=
  ∀ (s : State) (d c : Nat),
    (∀ v, s.ev = .accHeadWrite d c v → ∃ t, exec .accHeadWrite s = .next t ∧ t.mem = s.mem
        ∧ (s.level c = 3 → t = s)
        ∧ (s.level c ≠ 3 → (t.cd c d).ring.head = (if (s.cd c d).ring.commit < v then (s.cd c d).ring.commit else v)
            ∧ (t.cd c d).ring.tail = (s.cd c d).ring.tail ∧ (t.cd c d).ring.commit = (s.cd c d).ring.commit))
    ∧ (∀ v, s.ev = .accTailWrite d c v → ∃ t, exec .accTailWrite s = .next t ∧ t.mem = s.mem ∧ (s.level c ≠ 3 → t = s)
        ∧ (s.level c = 3 → (t.cd c d).ring.tail = v ∧ (t.cd c d).ring.head = (s.cd c d).ring.head ∧ .replayTimeout d c ∈ t.agenda))
    ∧ (s.ev = .replayTimeout d c →
        (s.headIndex d c = none → exec .replayTimeout s = .next s)
        ∧ ∀ i, s.headIndex d c = some i → (s.cd c d).ring.failed ≠ some i →
            let head := s.recordAt c d i
            ∃ v : State, exec .replayTimeout s = .next ((v.raiseFault {
                index := 8, code := 1, sync := false, ctx := c, die := d
                detail := leBytes 8 i ++ [byteAt head 0, byteAt head 1] ++ sliceB head 2 2 }).due (.replayTimeout d c))
              ∧ (v.cd c d).ring.failed = some i ∧ v.mem = s.mem ∧ v.agenda = s.agenda)
    ∧ (∀ cause : BitVec 2, s.ev = .intervalBoundary c cause →
        let n := (s.ctx c).interval + 1
        let lone := fun (u : State) => (u.ctx c).intv = [] ∧ ∀ x ∈ u.ctxTiles c, (u.tile x).spilled = []
        let taken := fun (t : State) => (t.ctx c).interval = n
          ∧ (∀ k < 8, (t.cd c k).copies = [] ∧ ∀ p ∈ (t.cd c k).pages, bitN p.desc.toNat 54 = false)
          ∧ (∀ x ∈ t.ctxTiles c, ∀ e ∈ (t.tile x).entries, e.tok.tag.level = 0)
          ∧ ∃ snap, NMap.find t.snaps c = some snap ∧ snap.st = (s.ctx c).st ∧ snap.regions = t.regionsOf c
        (s.level c = 0 → exec .intervalBoundary s = .next s)
        ∧ (s.level c = 1 → lone s → ∃ t, exec .intervalBoundary s = .next t ∧ taken t ∧ t.mem = s.mem)
        ∧ (1 ≤ s.level c → ∀ u, s.boundaryGate c ⟨1, 5, 0, 0, n, cause.toNat, 0⟩ = .wait u →
            exec .intervalBoundary s = .next (u.post (.intervalBoundary c cause)))
        ∧ (s.level c = 2 → lone s → (s.ctx c).dies = [d] →
            let g := (s.cd c d).ring
            g.redo = none → (s.cd c d).logNext = [] → (g.tail - g.head).toNat + 64 ≤ g.cap → ∀ page, (∀ i < 32, s.page? c (g.addr g.tail.toNat + i) = some page) →
            ∃ t, exec .intervalBoundary s = .next t ∧ taken t ∧ (t.cd c d).ring.tail = g.tail + 1 ∧ (t.cd c d).ring.commit = g.tail
              ∧ Stored s.mem t.mem (physKey (vaDie (g.addr g.tail.toNat)) (pdPa page.desc + (g.addr g.tail.toNat - page.va)))
                  ([1, 5, 0, 0] ++ leBytes 2 (s.pkg * 8 + d) ++ [0, 0] ++ zeros 8 ++ leBytes 8 n ++ leBytes 8 cause.toNat)))
    ∧ (∀ unit, s.ev = .firstWriteCopy d c unit → NMap.find (s.cd c d).copies unit = none →
        (s.copiesFull c d = true → exec .firstWriteCopy s = .next ((s.askBoundary c 2).post (.firstWriteCopy d c unit)))
        ∧ (s.copiesFull c d = false → ∃ t m, exec .firstWriteCopy s = .next t ∧ t.mem = s.mem ∧ NMap.find (t.cd c d).copies unit = some m
            ∧ (Memory.wf s.mem = true → ∀ a, a / 65536 = unit → Memory.get m a = Memory.get s.mem a)))
    ∧ (∀ snap cause frame, s.ev = .rollback c → NMap.find s.snaps c = some snap → snap.intv = [] → snap.msgs = [] →
        (s.ctx c).cause = (cause, d, frame) → (s.ctx c).reruns < fieldOf (s.die d).memord 4 8 →
        let units := (List.range 8).flatMap (fun k => (s.cd c k).copies)
        Memory.wf s.mem = true → (units.map (·.1)).Nodup → (∀ u ∈ units, Memory.wf u.2 = true ∧ ∀ p ∈ u.2, p.1 / 65536 = u.1) →
        ∃ t, exec .rollback s = .next t ∧ (t.ctx c).st = snap.st ∧ (t.ctx c).reruns = (s.ctx c).reruns + 1
          ∧ (∀ x, Memory.get t.mem x = match units.find? (fun u => u.1 = x / 65536) with
              | some u => Memory.get u.2 x
              | none => Memory.get s.mem x)
          ∧ (s.hostOpen = true → (s.die d).rings.full = false → (s.die d).rings.kept = [] →
              Stored s.hostMem t.hostMem (eventAddr (s.die d).rings (s.die d).rings.etail.toNat)
                ([6, 0] ++ leBytes 2 (s.pkg * 8 + d) ++ leBytes 2 c ++ [0, 0] ++ leBytes 8 (s.ctx c).interval ++ leBytes 8 cause ++ zeros 8))
          ∧ (∀ old : Nat → CtxDie, snap.cds = (List.range 8).map (fun k => (k, old k)) → ∀ k < 8,
              let g := (s.cd c k).ring
              let from_ := if g.marked then g.commit.toNat + 1 else 0
              (t.cd c k).msgNo = (old k).msgNo
              ∧ (s.level c = 2 → (t.cd c k).ring.redo = if from_ < g.tail.toNat then some (from_, g.tail.toNat) else none)
              ∧ (s.level c = 3 → (t.cd c k).ring.head = BitVec.ofNat 64 from_)))
    ∧ (∀ site, s.ev = .memoryUncorrectable d c site → (s.ctx c).st ≠ .free → (s.ctx c).st ≠ .ended →
        let pa := match site with
          | .line pa => pa / 64 * 64
          | .chip => 0
        let rolls := ∃ t, exec .memoryUncorrectable s = .next t ∧ .rollback c ∈ t.agenda ∧ (t.ctx c).cause = (1, d, 0) ∧ t.mem = s.mem
          ∧ fieldOf (t.die d).memord 32 32 = min (2 ^ 32 - 1) (fieldOf (s.die d).memord 32 32 + 1)
        (s.level c = 0 → (∀ l, site = .line l → d * 2 ^ 40 + l / 64 ∉ (s.ctx c).badLines) → exec .memoryUncorrectable s =
            .next (s.raiseFault { index := 9, sync := false, ctx := c, die := d, detail := leBytes 8 pa ++ [if s.bounding c then 2 else 0] }))
        ∧ (1 ≤ s.level c → s.bounding c = false → (NMap.find s.snaps c).isSome = true →
            (site = .chip → rolls)
            ∧ (∀ l, site = .line l → d * 2 ^ 40 + l / 64 ∉ (s.ctx c).badLines →
                let g := (s.cd c d).ring
                s.lineIn c d l (fieldOf g.base 21 43 * 2 ^ 21) (2 ^ fieldOf g.size 0 5) = false →
                s.lineIn c d l (fieldOf g.shdBase 21 43 * 2 ^ 21) (2 ^ fieldOf g.shdSize 0 5) = false →
                (NMap.find (s.cd c d).copies (physKey d l / 65536)).isSome = true → rolls)))

/-- 18 R379 to R382, 19 R385, R395, 20 R403 to R417: one clause for each event. Log entries 4, 8, 9, 36 and 38 say what the model fixes: the
training of links and the fuses are constants of the machine, the hang interval is the longest of the dies'. -/
def Obligations.HostEventResults : Prop :=
  ∀ (s : State) (d c : Nat),
    let r := (s.die d).rings
    (∀ v, s.ev = .preemptSaveComplete c → NMap.find s.saves c = some v → ∃ w : State,
        (s.busyWith c 0x0C = none → exec .preemptSaveComplete s = .next w)
        ∧ (∀ k, s.busyWith c 0x0C = some k → exec .preemptSaveComplete s = .next (w.done k 0))
        ∧ (w.ctx c).st = .saved ∧ (∀ x ∈ s.ctxTiles c, (w.tile x).region = 0)
        ∧ ∃ v', NMap.find w.saves c = some v' ∧ v'.snap = s.chipState c ∧ v'.cstate = v.cstate ∧ v'.mail = v.mail)
    ∧ (∀ p v, s.ev = .mailboxWrite d p → NMap.find s.saves p.ctx.toNat = some v →
        (v.reply? d p = none → exec .mailboxWrite s = .next s)
        ∧ ∀ q, v.reply? d p = some q → ∃ t, exec .mailboxWrite s = .next t ∧ t.hostMem = s.hostMem
            ∧ NMap.find t.saves p.ctx.toNat = some { v with mail := v.mail ++ [(d, p)] })
    ∧ (∀ v, s.ev = .restoreProceed c → NMap.find s.saves c = some v → v.mail = [] →
        (∀ q ∈ v.snap.tiles, q.2.replies = [] ∧ q.2.latch = none) →
        (∀ g ∈ v.snap.regions, ∀ x ∈ g.2.tiles, (s.tile x).replies = [] ∧ (s.tile x).latch = none) → ∃ w : State,
          (s.busyWith c 0x0D = none → exec .restoreProceed s = .next w)
          ∧ (∀ k, s.busyWith c 0x0D = some k → exec .restoreProceed s = .next (w.done k 0))
          ∧ (w.ctx c).st = v.cstate ∧ (∀ fi ∈ v.snap.ready, fi ∈ w.ready)
          ∧ ((v.snap.tiles.map (·.1)).Nodup → ∀ x y, (tileKey x, y) ∈ v.snap.tiles → w.tile x = tileBack y (s.tile x)))
    ∧ (∀ v, s.ev = .catHeadWrite d c v → ∃ t, exec .catHeadWrite s = .next t ∧ t.mem = s.mem
        ∧ (t.cd c d).obs = { (s.cd c d).obs with catHead := if (s.cd c d).obs.catTail < v then (s.cd c d).obs.catTail else v })
    ∧ (s.ev = .hangIntervalExpiry c →
        let again := ∃ t, exec .hangIntervalExpiry s = .next t ∧ (t.ctx c).hangSince = s.cycles ∧ (t.ctx c).hangMark = s.hangTotals c
          ∧ .hangIntervalExpiry c ∈ t.agenda ∧ t.mem = s.mem
        ((s.ctx c).st = .halted → again)
        ∧ ((s.ctx c).st = .running → s.hangTotals c ≠ (s.ctx c).hangMark → again)
        ∧ ((s.ctx c).st = .running → s.hangExcused c = true → again)
        ∧ ((s.ctx c).st = .running → s.hangExcused c = false → s.hangStill c = true → (∃ g ∈ s.regions, g.2.launch.ctx = c) →
            (s.ctx c).dies = [d] →
            let es := s.hangEntries c d
            exec .hangIntervalExpiry s = .next (((s.writeHangMap c d 3 es).raiseFault {
              index := 11, code := 3, sync := false, ctx := c, die := d, detail := leBytes 8 (lowestFrame es) }).startHang c))
        ∧ ((s.ctx c).st ≠ .running → (s.ctx c).st ≠ .halted → exec .hangIntervalExpiry s = .next s))
    ∧ (∀ v, s.ev = .curCtailWrite d v →
        (s.allReady = false ∨ s.hostOpen = false ∨ r.busy ≠ none ∨ r.chead = v → ∃ t, exec .curCtailWrite s = .next t
          ∧ (t.die d).rings = { r with ctail := v, rungAt := if r.chead = v then r.rungAt else s.cycles + 1 }
          ∧ t.hostMem = s.hostMem ∧ t.agenda = s.agenda)
        ∧ (s.allReady = true → s.hostOpen = true → r.busy = none → r.chead ≠ v →
            let k := s.commandAt d r.chead.toNat
            let sound := fieldOf k.flags 1 15 = 0 ∧ fieldOf k.ctxField 12 4 = 0 ∧ k.reserved = 0
            (∀ e, sound → cmdEvent k = some e → ∃ t, exec .curCtailWrite s = .next t ∧ t.hostMem = s.hostMem ∧ t.agenda = s.agenda ++ [e]
              ∧ (t.die d).rings = { r with chead := r.chead + 1, ctail := v, rungAt := s.cycles + 1, busy := some k })
            ∧ (¬ sound ∨ cmdEvent k = none → r.chead + 1 = v → ∃ t, exec .curCtailWrite s = .next t ∧ t.agenda = s.agenda
              ∧ (t.die d).rings = { r with chead := v, ctail := v, rungAt := s.cycles + 1 }
              ∧ Stored s.hostMem t.hostMem (baseOf r.cpl + 16 * (r.chead.toNat % r.slots))
                  (leBytes 8 k.tag.toNat ++ leBytes 2 k.opcode.toNat ++ leBytes 2 1 ++ leBytes 4 0))))
    ∧ (∀ v, s.ev = .curEheadWrite d v →
        (r.kept = [] → ∃ t, exec .curEheadWrite s = .next t ∧ (t.die d).rings = { r with ehead := v } ∧ t.hostMem = s.hostMem)
        ∧ (∀ b, r.kept = [b] → s.hostOpen = true → (r.etail - v).toNat < 2 ^ fieldOf r.eq 0 4 → ∃ t, exec .curEheadWrite s = .next t
            ∧ (t.die d).rings = { r with ehead := v, kept := [], etail := r.etail + 1 }
            ∧ Stored s.hostMem t.hostMem (eventAddr r r.etail.toNat) b))
    ∧ (∀ w, s.ev = .powerMeasure w →
        let ps := (w :: s.powers).take 10
        let limit := min 7200 s.pwrCap * ps.length
        let ceil := fun (v : State) (n : Nat) => fieldOf (v.die n).ramp.ctl 32 18
        (limit < sumN ps → ∃ t, exec .powerMeasure s = .next t ∧ t.powers = ps ∧ t.raised = 0 ∧ ∀ n < 8, ceil t n = ceil s n * 92 / 100)
        ∧ (sumN ps ≤ limit → limit * 96 ≤ sumN ps * 100 → ∃ t, exec .powerMeasure s = .next t ∧ t.powers = ps ∧ t.raised = 0 ∧ t.dies = s.dies)
        ∧ (sumN ps * 100 < limit * 96 → s.raised + 1 < 10 → ∃ t, exec .powerMeasure s = .next t ∧ t.raised = s.raised + 1 ∧ t.dies = s.dies)
        ∧ (sumN ps * 100 < limit * 96 → 10 ≤ s.raised + 1 → ∃ t, exec .powerMeasure s = .next t ∧ t.raised = 0
            ∧ ∀ n < 8, ceil t n = min (s.die n).ramp.ceil (ceil s n * 102 / 100) % 2 ^ 18))
    ∧ (∀ p, s.ev = .hostRequest p →
        let owner := vaOwner p.addr.toNat
        let near := if 3 ≤ owner % 8 ∧ owner % 8 ≤ 6 then 4 else 0
        (s.failedPort 0 6 = true → s.failedPort 4 6 = true → exec .hostRequest s = .next s)
        ∧ ∀ e, (if s.failedPort near 6 = true then e = 4 - near ∧ s.failedPort e 6 = false else e = near) →
          ((s.link e 6).st ≠ .up → ∃ t, exec .hostRequest s = .next t ∧ t.mem = s.mem ∧ t.agenda = s.agenda ∧ t.dies = s.dies)
          ∧ ((s.link e 6).st = .up → p.typ ≠ 0 → p.typ.toNat ≤ 12 → p.cls ≠ 3 → ∃ t q, exec .hostRequest s = .next t ∧ Leaves e q t
              ∧ q.op = p.op ∧ q.addr = p.addr ∧ q.typ = p.typ ∧ q.phys = p.phys ∧ q.fromHost = true ∧ q.from_ = s.code e
              ∧ q.to_ = BitVec.ofNat 13 owner ∧ t.mem = s.mem ∧ t.dies = s.dies))
    ∧ (∀ p, s.ev = .ownerPerform d p → p.phys = true → bitN p.addr.toNat 50 = true →
        let off := p.addr.toNat % 2 ^ 20
        (∀ n o, p.op = .load n o → ∃ t q, exec .ownerPerform s = .next t ∧ Leaves d q t ∧ t.dies = s.dies ∧ t.mem = s.mem
          ∧ q.typ = 0x03 ∧ q.toHost = p.fromHost ∧ q.to_ = p.from_ ∧ q.op = .data (s.windowRead d off n) false)
        ∧ (∀ bs, p.op = .store bs → p.typ = 0x04 → bs.length = 8 → off % 8 = 0 → ∃ t, exec .ownerPerform s = .next t ∧ t.dies = s.dies
          ∧ t.agenda = s.agenda ++ [.registerWrite d off (BitVec.ofNat 64 (leNat bs)) 255]))
    ∧ (∀ off v named, s.ev = .registerWrite d off v named → ∃ t, exec .registerWrite s = .next t
        ∧ ((off < 0x20000 ∧ off % 32 = 0x18) ∨ off = 0x20010 ∨ off = 0x20028 → named % 16 = 0 → t = s)
        ∧ (off < 0x20000 → off % 32 = 0 → bitN (s.queue d (off / 32)).ctl.toNat 63 = true → t.queue d (off / 32) = s.queue d (off / 32))
        ∧ (off < 0x20000 → off % 32 = 0 → bitN (s.queue d (off / 32)).ctl.toNat 63 = false → ∀ b < 8,
            let old := (s.queue d (off / 32)).base
            let x := byteAt (leBytes 8 (if bitN named b then v else old).toNat) b
            byteAt (leBytes 8 (t.queue d (off / 32)).base.toNat) b = if b = 0 then x &&& 0x80 else x)
        ∧ (off < 0x20000 → off % 32 = 8 → .queueDecision d ∈ t.agenda
            ∧ (bitN named 7 = false → fieldOf (s.queue d (off / 32)).ctl 62 1 ≤ fieldOf (t.queue d (off / 32)).ctl 62 1)
            ∧ (bitN named 7 = true → fieldOf (t.queue d (off / 32)).ctl 63 1 = fieldOf v 63 1))
        ∧ (named = 255 →
          (off < 0x20000 → off % 32 = 0x18 → t = s.tailWrite d (off / 32) (BitVec.ofNat 32 v.toNat))
          ∧ (off = 0x20000 → r.chead = r.ctail → r.rungAt ≠ s.cycles + 1 → fieldOf (t.die d).rings.cq 12 52 = fieldOf v 12 52
            ∧ fieldOf (t.die d).rings.cq 0 4 = if fieldOf v 0 4 < 6 then 6 else fieldOf v 0 4)
          ∧ (off = 0x20000 ∨ off = 0x20018 → r.chead ≠ r.ctail ∨ r.rungAt = s.cycles + 1 → (t.die d).rings = r)
          ∧ (off = 0x20010 → t = s.doorbell d (BitVec.ofNat 32 v.toNat))
          ∧ (off = 0x20018 → r.chead = r.ctail → r.rungAt ≠ s.cycles + 1 → (t.die d).rings.cpl = BitVec.ofNat 64 (v.toNat / 4096 * 4096))
          ∧ (off = 0x20020 → r.ehead = r.etail → fieldOf (t.die d).rings.eq 12 52 = fieldOf v 12 52
            ∧ fieldOf (t.die d).rings.eq 0 4 = if fieldOf v 0 4 < 6 then 8 else fieldOf v 0 4)
          ∧ (off = 0x20028 → t = s.eheadWrite d (BitVec.ofNat 32 v.toNat))
          ∧ (off = 0x20030 → bitN v.toNat 63 = true → (t.die d).rings = { r with lost := 0 })))
    ∧ (s.ev = .powerUp →
        let fits := fun (n : Nat) => (goodRows n).length ≥ 32 ∧ Config.channelsTrain s.ticks n = true
        ((∀ n < 8, s.stage n = 0) → ∃ t, exec .powerUp s = .next t ∧ .powerUp ∈ t.agenda ∧ ∀ n < 8,
            (t.die n).inc = Config.firstIncarnation s.ticks n
            ∧ (t.die n).boot.rows = (goodRows n).take 32 ∧ (t.die n).boot.rowsOff = (goodRows n).drop 32
            ∧ (fits n → (t.die n).boot.stat = 3)
            ∧ ((goodRows n).length < 32 → (t.die n).boot.stat = 0x8201)
            ∧ ((goodRows n).length ≥ 32 → Config.channelsTrain s.ticks n = false → (t.die n).boot.stat = 0x8302))
        ∧ ((∀ n < 8, s.stage n = 3 ∧ fieldOf (s.die n).boot.patch 6 58 = 0 ∧ (s.die n).rings.chead = (s.die n).rings.ctail) →
            s.hostOpen = true → ∃ t, exec .powerUp s = .next t ∧ ∀ n < 8, (t.die n).boot.stat = 6 ∧ (t.die n).inc = (s.die n).inc
              ∧ .rampWindow n ∈ t.agenda ∧ .forecastUpdate n ∈ t.agenda
              ∧ ∀ m < 8, NMap.find (t.die m).incs (s.code n).toNat = some (s.die n).inc)
        ∧ ((∃ n < 8, s.stage n ≠ 0) → (∃ n < 8, s.stage n ≠ 3) → ∃ t, exec .powerUp s = .next t
            ∧ ∀ n < 8, t.stage n = 6 → s.stage n = 6))
    ∧ (s.ev = .powerLoss → ∃ t, exec .powerLoss s = .next t ∧ t.mem = State.reset.mem ∧ t.tiles = State.reset.tiles
        ∧ t.ctxs = State.reset.ctxs ∧ t.ctxDies = State.reset.ctxDies ∧ t.regions = State.reset.regions ∧ t.islands = State.reset.islands
        ∧ t.launches = State.reset.launches ∧ t.agenda = State.reset.agenda ∧ t.hostMem = s.hostMem
        ∧ ∀ n < 8, (t.die n).boot = { (State.reset.die n).boot with secMin := (s.die n).boot.secMin })

/-- 18 R365 to R383, 20 R406, R409: one clause for each command; `num off n` is the field of `n` bytes at `off` of the arguments. The size that ctxinfo answers is the
model's (log entry 34); what the argument of trapw holds, and that ctxinfo writes no memory, are readings of the model (log entry 29). -/
def Obligations.ContextCommandResults : Prop :=
  ∀ (s : State) (k : Command),
    let c := cmdCtx k
    let num := numAt k.args
    let st := (s.ctx c).st
    let ends := fun (i : Instr) (v : State) (status : Nat) => exec i s = .next (v.done k status)
    (∀ status res, let t := s.finish k status res
        let r := (s.die k.die).rings
        let quiet := bitN k.flags.toNat 0 = true ∧ status = 0
        let at_ := baseOf r.cpl + 16 * (k.index % r.slots)
        let bs := leBytes 8 k.tag.toNat ++ leBytes 2 k.opcode.toNat ++ leBytes 2 status ++ leBytes 4 res
        r.chead = r.ctail → t.mem = s.mem ∧ t.agenda = s.agenda
          ∧ (quiet → (t.die k.die).rings = { r with busy := none } ∧ t.hostMem = s.hostMem)
          ∧ (¬ quiet → s.hostOpen = true → (t.die k.die).rings = { r with busy := none } ∧ Stored s.hostMem t.hostMem at_ bs)
          ∧ (¬ quiet → s.hostOpen = false → (t.die k.die).rings = { r with busy := none, cplKept := r.cplKept ++ [(at_, bs)] }
              ∧ t.hostMem = s.hostMem))
    ∧ (s.ev = .cmdCreate k →
        (st ≠ .free → ends .cmdCreate s 3)
        ∧ (st = .free → ∃ v : State, ends .cmdCreate v 0 ∧ (v.ctx c).st = .idle ∧ v.level c = 0 ∧ (v.ctx c).dies = (s.ctx c).dies
            ∧ v.mem = s.mem ∧ ∀ d < 8, (v.cd c d).status = 0 ∧ (v.cd c d).trape = List.replicate 32 0 ∧ (v.cd c d).sent = 0
              ∧ (v.cd c d).recv = 0 ∧ (v.cd c d).ncnt = [] ∧ (v.cd c d).msgNo = 0 ∧ ∀ q ∈ (v.die d).relChans, q.1 / 256 ≠ c))
    ∧ (s.ev = .cmdDestroy k →
        (st ≠ .idle → st ≠ .saved → st ≠ .ended → ends .cmdDestroy s 3)
        ∧ (st = .idle ∨ st = .saved ∨ st = .ended → ∃ t op, exec .cmdDestroy s = .next t ∧ .drainTokenArrival op ∈ t.agenda
            ∧ t.ctxDies = s.ctxDies ∧ (t.ctx c).st = st ∧ t.mem = s.mem ∧ ∃ o ∈ t.drainOps, o.id = op ∧ o.cmd = some k))
    ∧ (∀ op o, s.ev = .drainTokenArrival op → s.drainOps.find? (fun o => o.id = op) = some o → o.job = none → o.cmd = some k →
        k.opcode = 0x02 → st = .idle ∨ st = .saved ∨ st = .ended → ∃ v : State, ends .drainTokenArrival v 0 ∧ (v.ctx c).st = .free
          ∧ ∀ d < 8, v.cd c d = {} ∧ ∀ e ∈ (v.die d).tlb, e.1 ≠ c)
    ∧ (let first := num 0 2
       let count := num 2 2
       let mask := num 4 1
       let wrong := count = 0 ∨ 1024 < first + count ∨ mask = 0
       let named := fun (d : Nat) => d < 8 ∧ bitN mask d = true ∧ first ≤ s.pkg ∧ s.pkg < first + count
       let dies := (s.ctx c).dies
       (s.ev = .cmdResident k →
          (wrong → ends .cmdResident s 2)
          ∧ (¬ wrong → (∃ d, named d ∧ d ∉ dies ∧ 512 ≤ s.residents d) → ends .cmdResident s 5)
          ∧ (¬ wrong → (∀ d, named d → d ∉ dies → s.residents d < 512) → ∃ v : State, ends .cmdResident v 0 ∧ (v.ctx c).st = st
              ∧ (∀ d < 8, d ∈ (v.ctx c).dies ↔ d ∈ dies ∨ named d) ∧ ∀ d, named d → d ∉ dies → .queueDecision d ∈ v.agenda))
       ∧ (s.ev = .cmdEvict k →
          (let used := ∃ d, named d ∧ ∃ q ∈ s.regions, q.2.launch.ctx = c ∧ d ∈ q.2.launch.dies
           (wrong → ends .cmdEvict s 2) ∧ (¬ wrong → used → ends .cmdEvict s 3)
           ∧ (¬ wrong → ¬ used → ∃ v : State, ends .cmdEvict v 0 ∧ (v.ctx c).st = st
              ∧ ∀ d, d ∈ (v.ctx c).dies ↔ d ∈ dies ∧ ¬ named d))))
    ∧ (s.ev = .cmdMode k →
        let lv := num 0 1
        (3 < lv → ends .cmdMode s 2) ∧ (lv ≤ 3 → st = .free ∨ s.busy c = true → ends .cmdMode s 3)
        ∧ (lv ≤ 3 → st ≠ .free → s.busy c = false → s.level c = lv → ends .cmdMode s 0)
        ∧ (lv ≤ 3 → st ≠ .free → s.busy c = false → s.level c ≠ lv → ∃ v : State, ends .cmdMode v 0 ∧ v.level c = lv ∧ (v.ctx c).st = st
            ∧ (v.ctx c).interval = 0 ∧ (1 ≤ lv → (NMap.find v.snaps c).isSome = true) ∧ ∀ d < 8, (v.cd c d).copies = []
              ∧ (v.cd c d).ring.head = 0 ∧ (v.cd c d).ring.tail = 0 ∧ (v.cd c d).ring.commit = 0))
    ∧ (s.ev = .cmdResume k →
        (st ≠ .halted → ends .cmdResume s 3)
        ∧ (st = .halted → (∀ d < 8, (s.cd c d).pending = []) → ends .cmdResume (s.goOn c) 0
            ∧ ((s.ctx c).brk = [] → (∀ fi ∈ s.ready, fi.stopped = false) → (∀ x ∈ s.ctxTiles c, (s.tile x).latch = none) →
                ((s.goOn c).ctx c).st = .running))
        ∧ (∀ d n p, st = .halted → d < 8 → (s.cd c d).pending = [(n, p)] → (∀ e < 8, e ≠ d → (s.cd c e).pending = []) →
            ¬ (p.sync = true ∧ p.index = 10) → ∃ v : State, ends .cmdResume (v.goOn c) 0 ∧ (v.cd c d).pending = []
              ∧ (v.cd c d).recv = (s.cd c d).recv + 1 ∧ v.mem = s.mem ∧ v.agenda = s.agenda))
    ∧ (s.ev = .cmdKill k →
        (st = .free → ends .cmdKill s 3) ∧ (st = .ended → ends .cmdKill s 0)
        ∧ (st ≠ .free → st ≠ .ended → s.trapNow c = none → ∃ v : State, ends .cmdKill v 0 ∧ v = s.endContext c k.die (num 0 4) none
            ∧ (v.ctx c).st = .ended)
        ∧ (∀ h, st ≠ .free → st ≠ .ended → s.trapNow c = some h → 0 < s.handlersOn h → (s.ctx c).heldEnd = none →
            ∃ t, exec .cmdKill s = .next t ∧ .cmdKill k ∈ t.agenda ∧ (t.ctx c).st = st
              ∧ (t.ctx c).heldEnd = some ⟨h, s.handlersOn h, k.die, num 0 4, none⟩))
    ∧ (s.ev = .cmdTrapw k →
        let i := num 0 1
        (32 ≤ i → ends .cmdTrapw s 2)
        ∧ (i < 32 → ∃ v : State, ends .cmdTrapw v 0 ∧ v.mem = s.mem ∧ ∀ d < 8, (s.cd c d).trape.length = 32 →
            let old := (s.cd c d).trape.getD i 0
            let new := (v.cd c d).trape.getD i 0
            fieldOf new 0 16 = (fieldOf old 0 16 + 1) % 2 ^ 16 ∧ fieldOf new 16 32 = num 8 4 ∧ fieldOf new 62 2 = num 13 1 / 64
            ∧ ∀ j, j ≠ i → (v.cd c d).trape.getD j 0 = (s.cd c d).trape.getD j 0))
    ∧ (s.ev = .cmdPreempt k →
        (st ≠ .running → st ≠ .halted → ends .cmdPreempt s 3)
        ∧ (st = .running ∨ st = .halted → ∃ t, exec .cmdPreempt s = .next t
            ∧ ((∃ d ∈ s.chipDies c, s.saveFits c d = false) → t = s.done k 5)
            ∧ ((∀ d ∈ s.chipDies c, s.saveFits c d = true) → (t.ctx c).st = .preempting ∧ .preemptSaveComplete c ∈ t.agenda ∧ t.mem = s.mem
              ∧ ∃ v, NMap.find t.saves c = some v ∧ v.cstate = st)))
    ∧ (s.ev = .cmdRestore k →
        (st ≠ .saved → ends .cmdRestore s 3)
        ∧ (∀ v, st = .saved → NMap.find s.saves c = some v →
            ((∃ d ∈ v.dies, s.saveOk c d v = false) → ends .cmdRestore s 2)
            ∧ ((∀ d ∈ v.dies, s.saveOk c d v = true) → ∃ t, exec .cmdRestore s = .next t ∧ .restoreProceed c ∈ t.agenda
                ∧ (t.ctx c).st = .saved ∧ NMap.find t.saves c = some v)))
    ∧ (s.ev = .cmdCtxinfo k →
        (8 ≤ num 0 2 → ends .cmdCtxinfo s 2) ∧ (num 0 2 < 8 → st = .free → ends .cmdCtxinfo s 3)
        ∧ (num 0 2 < 8 → st ≠ .free → ∃ res, exec .cmdCtxinfo s = .next (s.finish k 0 res)))

/-- 09 R185 to R194, 20 R409, R410 and the chapters of the units: one clause for each command. Log entries 29, 36 and 37 say which status
the model gives where the spec names none, how an observation read is laid out and how long a patch table is. -/
def Obligations.UnitCommandResults : Prop :=
  ∀ (s : State) (k : Command),
    let c := cmdCtx k
    let num := numAt k.args
    let d := num 0 2
    let ends := fun (i : Instr) (v : State) (status : Nat) => exec i s = .next (v.done k status)
    let waits := fun (i : Instr) => ∃ t op, exec i s = .next t ∧ .drainTokenArrival op ∈ t.agenda ∧ t.ctxDies = s.ctxDies ∧ t.mem = s.mem
      ∧ ∃ o ∈ t.drainOps, o.id = op ∧ o.cmd = some k
    let drained := ∃ op o, s.ev = .drainTokenArrival op ∧ s.drainOps.find? (fun o => o.id = op) = some o ∧ o.job = none ∧ o.cmd = some k
    (let va := num 0 8
     let n := vaDie va
     (s.ev = .cmdMap k →
       let pa := num 8 8
       let b := num 16 1
       let size := pageSize (b % 4)
       let wrong := b % 4 = 3 ∨ b / 4 % 4 = 3 ∨ va % size ≠ 0 ∨ pa % size ≠ 0 ∨ dieBytes < pa + size
       let meets := ∃ g ∈ (s.cd c n).pages, pdValid g.desc = true ∧ va < g.va + pdSize g.desc ∧ g.va < va + size
       (64 ≤ b → ends .cmdMap s 1) ∧ (b < 64 → wrong → ends .cmdMap s 2)
       ∧ (b < 64 → ¬ wrong → vaPkg va ≠ s.pkg → ends .cmdMap s 0)
       ∧ (b < 64 → ¬ wrong → vaPkg va = s.pkg → meets → ends .cmdMap s 2)
       ∧ (b < 64 → ¬ wrong → vaPkg va = s.pkg → ¬ meets → s.tableFull n = true → ends .cmdMap s 5)
       ∧ (b < 64 → ¬ wrong → vaPkg va = s.pkg → ¬ meets → s.tableFull n = false → ∃ v g, ends .cmdMap v 0 ∧ v.mem = s.mem ∧ v.page? c va = some g ∧ g.va = va
          ∧ pdSize g.desc = size ∧ pdPa g.desc = pa ∧ pdKind g.desc = b / 4 % 4 ∧ bitN g.desc.toNat 57 = bitN b 5
          ∧ (pdW g.desc = true → bitN b 4 = true)))
     ∧ (s.ev = .cmdUnmap k →
        (vaPkg va ≠ s.pkg → ends .cmdUnmap s 0) ∧ (vaPkg va = s.pkg → (∀ g, s.page? c va = some g → g.va ≠ va) → ends .cmdUnmap s 2)
        ∧ (∀ g, vaPkg va = s.pkg → s.page? c va = some g → g.va = va →
            (pdLeased g.desc = true ∨ pdPin g.desc = true → ends .cmdUnmap s 4)
            ∧ (pdLeased g.desc = false → pdPin g.desc = false → waits .cmdUnmap)))
     ∧ (s.ev = .cmdProtect k →
        let b := num 8 1
        (3 < b → ends .cmdProtect s 1) ∧ (b ≤ 3 → vaPkg va ≠ s.pkg → ends .cmdProtect s 0)
        ∧ (b ≤ 3 → vaPkg va = s.pkg → (∀ g, s.page? c va = some g → g.va ≠ va) → ends .cmdProtect s 2)
        ∧ (∀ g, b ≤ 3 → vaPkg va = s.pkg → s.page? c va = some g → g.va = va →
            (pdW g.desc = true → b % 2 = 0 → pdLeased g.desc = true ∨ pdPin g.desc = true → ends .cmdProtect s 4)
            ∧ (pdW g.desc = true → b % 2 = 0 → pdLeased g.desc = false → pdPin g.desc = false → waits .cmdProtect)
            ∧ (pdW g.desc = false ∨ b % 2 = 1 → ∃ v h, ends .cmdProtect v 0 ∧ v.page? c va = some h ∧ h.va = va ∧ pdPa h.desc = pdPa g.desc
                ∧ bitN h.desc.toNat 57 = bitN b 1 ∧ (pdW h.desc = true → bitN b 0 = true))))
     ∧ (∀ g, drained → k.opcode = 0x08 ∨ k.opcode = 0x09 → s.page? c va = some g → g.va = va → pdLeased g.desc = false → pdPin g.desc = false → ∃ v : State,
          exec .drainTokenArrival s = .next (v.done k 0) ∧ (∀ e ∈ (v.die n).tlb, ¬ (e.1 = c ∧ e.2.1 = va))
          ∧ (k.opcode = 0x08 → g ∉ (v.cd c n).pages)
          ∧ (k.opcode ≠ 0x08 → ∃ h, v.page? c va = some h ∧ h.va = va ∧ pdW h.desc = false ∧ pdPa h.desc = pdPa g.desc)))
    ∧ (let slot := num 0 1
       (s.ev = .cmdResdone k →
          (NMap.find (s.die k.die).resSlots slot = none → ends .cmdResdone s 2)
          ∧ ∀ id, NMap.find (s.die k.die).resSlots slot = some id →
              (s.reswaitDue k.die slot ≤ s.cycles → ends .cmdResdone (s.failResidency k.die slot 1) 2)
              ∧ (s.cycles < s.reswaitDue k.die slot → ∃ v : State, ends .cmdResdone v 0 ∧ .leaseResidencyCheck id ∈ v.agenda))
       ∧ (s.ev = .cmdResfail k →
          (NMap.find (s.die k.die).resSlots slot = none → ends .cmdResfail s 2)
          ∧ ∀ id, NMap.find (s.die k.die).resSlots slot = some id → ends .cmdResfail (s.failResidency k.die slot 0) 0))
    ∧ (let sel := num 0 2
       let n := num 2 2 % 8
       let x := BitVec.ofNat 64 (num 8 8)
       let at1 := fun (lo w : Nat) => max 1 (fieldOf x lo w)
       let top := fun (lo : Nat) => BitVec.ofNat 64 (x.toNat / 2 ^ lo * 2 ^ lo)
       let log := fun (lo hi dflt : Nat) => BitVec.ofNat 64 (if lo ≤ fieldOf x 0 5 ∧ fieldOf x 0 5 ≤ hi then fieldOf x 0 5 else dflt)
       let lost := s.lostW ((s.regwCtx c n sel x).done k 0) n
       let wrote := fun (v : State) =>
          (sel = 0x01 → (v.die n).bsched = BitVec.ofNat 64 (at1 0 4))
          ∧ (sel = 0x02 → (v.die n).aspCtl = BitVec.ofNat 64 (at1 8 16 * 256))
          ∧ (sel = 0x03 → ∀ e < 8, (v.die e).cctl = BitVec.ofNat 64 (fieldOf x 48 1 * 2 ^ 48
              + min (at1 40 8) (min (5 * at1 0 16) 255) * 2 ^ 40 + at1 16 16 * 2 ^ 16 + at1 0 16))
          ∧ (sel = 0x04 → fieldOf (v.die n).memord 4 8 = at1 4 8 ∧ fieldOf (v.die n).memord 32 32 = fieldOf (s.die n).memord 32 32)
          ∧ (sel = 0x05 → s.busy c = false → (v.cd c n).ring.base = top 21)
          ∧ (sel = 0x06 → s.busy c = false → (v.cd c n).ring.size = log 16 30 16)
          ∧ (sel = 0x05 ∨ sel = 0x06 → s.busy c = true → (v.cd c n).ring = (s.cd c n).ring)
          ∧ (sel = 0x07 → v = s.headWrite n c x) ∧ (sel = 0x08 → v = s.tailSupply n c x) ∧ (sel = 0x18 → v = s.catHead n c x)
          ∧ (sel = 0x09 → (v.die n).accCtl = BitVec.ofNat 64 (at1 0 16))
          ∧ (sel = 0x0A → (v.cd c n).ring.shdBase = top 21) ∧ (sel = 0x0B → (v.cd c n).ring.shdSize = log 21 36 21)
          ∧ (sel = 0x0C → (v.cd c n).save = top 16) ∧ (sel = 0x0D → (v.cd c n).saveSz = BitVec.ofNat 64 (fieldOf x 0 40))
          ∧ (∀ i < 4, sel = 0x0E + i → (s.die n).tbk.length = 4 → (v.die n).tbk.getD i 0 = top 11)
          ∧ (∀ i < 4, sel = 0x12 + i → (s.die n).tbf.length = 4 → (v.die n).tbf.getD i 0 = x)
          ∧ (sel = 0x16 → (v.cd c n).obs.catBase = top 16) ∧ (sel = 0x17 → (v.cd c n).obs.catSize = log 12 30 16)
          ∧ (sel = 0x19 → (v.cd c n).obs.histBase = top 16) ∧ (sel = 0x1A → (v.cd c n).obs.histSize = BitVec.ofNat 64 (fieldOf x 0 40))
          ∧ (sel = 0x1B → (v.cd c n).obs.hangBase = top 16) ∧ (sel = 0x1C → (v.cd c n).obs.hangSize = BitVec.ofNat 64 (fieldOf x 0 40))
          ∧ (sel = 0x1D → (v.die n).ramp.ctl = BitVec.ofNat 64 (min 197600 (fieldOf x 32 18) * 2 ^ 32 + at1 16 16 * 2 ^ 16 + at1 0 16))
          ∧ (sel = 0x1E → fieldOf (v.die n).ramp.fcst 32 32 = fieldOf x 32 32)
          ∧ (sel = 0x1F → (v.ctx c).fcReader = bitN x.toNat 0)
          ∧ (sel = 0x20 → (v.cd c n).obs.ctl = x &&& 0xFFFFFFFF000000EE)
       (s.ev = .cmdRegw k →
          (sel = 0 ∨ 0x20 < sel ∨ 8192 ≤ num 2 2 → ends .cmdRegw s 2)
          ∧ (1 ≤ sel → sel ≤ 0x20 → sel ≠ 0x03 → num 2 2 < 8192 → num 2 2 / 8 ≠ s.pkg → ends .cmdRegw s 0)
          ∧ (1 ≤ sel → sel ≤ 0x20 → num 2 2 / 8 = s.pkg → num 2 2 < 8192 →
              (sel = 0x0D ∨ sel = 0x1A ∨ sel = 0x1C → fieldOf x 0 16 ≠ 0 → ends .cmdRegw s 2)
              ∧ (∀ r, areaOf (s.cd c n).obs sel x = some r → s.writableLeased c n r = true → ends .cmdRegw s 4)
              ∧ ((sel = 0x0D ∨ sel = 0x1A ∨ sel = 0x1C → fieldOf x 0 16 = 0) →
                 (∀ r, areaOf (s.cd c n).obs sel x = some r → s.writableLeased c n r = false) →
                  (selKind sel = 1 ∨ lost = [] → ∃ v : State, ends .cmdRegw v 0 ∧ v.mem = s.mem ∧ wrote v)
                  ∧ (selKind sel = 2 → lost ≠ [] → waits .cmdRegw))))
       ∧ (drained → k.opcode = 0x06 → selKind sel = 2 → num 2 2 / 8 = s.pkg → num 2 2 < 8192 → ∃ v : State,
            ends .drainTokenArrival v 0 ∧ v.mem = s.mem ∧ wrote v))
    ∧ (let slot := num 2 1
       let base := num 8 8
       (s.ev = .cmdGramw k →
          let wrong := 8 ≤ d ∨ 16 ≤ slot ∨ base % 64 ≠ 0 ∨ vaOwner base ≠ s.pkg * 8 + d
          let rs := imageRanges base (gramHead (s.readVa c base 64))
          let leased := ∃ r ∈ rs, s.writableLeased c d r = true
          (wrong → ends .cmdGramw s 2) ∧ (¬ wrong → leased → ends .cmdGramw s 4)
          ∧ (∀ o, ¬ wrong → ¬ leased → s.imageFails c base = some o → exec .cmdGramw s = .next ((s.gramDrop c d slot).finish k 2 o))
          ∧ (¬ wrong → ¬ leased → s.imageFails c base = none →
              let lost := s.lostW (s.gramValid k) d
              (lost = [] → ∃ v : State, ends .cmdGramw v 0 ∧ v.mem = s.mem
                ∧ NMap.find (v.cd c d).gslots slot = some (BitVec.ofNat 64 (base + 1)))
              ∧ (lost ≠ [] → waits .cmdGramw)))
       ∧ (drained → k.opcode = 0x11 → d < 8 → ∃ v : State, ends .drainTokenArrival v 0 ∧ v.mem = s.mem
          ∧ NMap.find (v.cd c d).gslots slot = some (BitVec.ofNat 64 (base + 1)))
       ∧ (s.ev = .cmdGramwClear k →
          (8 ≤ d ∨ 16 ≤ slot → ends .cmdGramwClear s 2) ∧ (d < 8 → slot < 16 → ends .cmdGramwClear (s.gramDrop c d slot) 0)))
    ∧ (s.ev = .cmdEpw k →
        let i := num 2 2
        let e := sliceB k.args 8 24
        let wrong := 8 ≤ d ∨ 4096 ≤ i ∨ endpointOk (s.die d).net.cfg e = false
        (wrong → ends .cmdEpw s 2) ∧ (¬ wrong → ∃ v : State, ends .cmdEpw v 0 ∧ NMap.find (v.cd c d).endpoints i = some e ∧ v.mem = s.mem))
    ∧ (s.ev = .cmdWinw k →
        let i := num 2 1
        let w := sliceB k.args 8 32
        let wrong := 8 ≤ d ∨ windowOk (s.pkg * 8 + d) w = false
        let pins := (s.cd c (vaDie (winBase w))).pins
        (wrong → ends .cmdWinw s 2)
        ∧ (¬ wrong → winValid w = false → ∃ v : State, ends .cmdWinw v 0 ∧ NMap.find (v.cd c d).windows i = some w ∧ v.mem = s.mem)
        ∧ (¬ wrong → winValid w = true → pins.length < 64 → ∃ v : State, ends .cmdWinw v 0 ∧ NMap.find (v.cd c d).windows i = some w
            ∧ (winBase w, winSize w) ∈ (v.cd c (vaDie (winBase w))).pins ∧ v.mem = s.mem)
        ∧ (¬ wrong → winValid w = true → 64 ≤ pins.length → winValid (NMap.getD (s.cd c d).windows i []) = false → ends .cmdWinw s 5))
    ∧ (s.ev = .cmdNetcfg k →
        let b := Memory.getN s.hostMem (num 8 8) 64
        let used := (s.die d).net.msgs ≠ [] ∨ ∃ x ∈ s.ctxDies, x.1 % 8 = d ∧ ∃ w ∈ x.2.windows, winValid w.2 = true
        (8 ≤ d → ends .cmdNetcfg s 2) ∧ (d < 8 → used → ends .cmdNetcfg s 3) ∧ (d < 8 → ¬ used → netCfgOk b = false → ends .cmdNetcfg s 2)
        ∧ (d < 8 → ¬ used → netCfgOk b = true → ∃ v : State, ends .cmdNetcfg v 0 ∧ (v.die d).net.cfg = b ∧ (v.die d).net.up = true))
    ∧ (s.ev = .cmdLinkrst k →
        let p := num 2 1
        let port := p < 6 ∨ p = 6 ∧ (d = 0 ∨ d = 4)
        (8 ≤ d ∨ ¬ port → ends .cmdLinkrst s 2)
        ∧ (d < 8 → port → ∃ v : State, ends .cmdLinkrst v 0
            ∧ (∀ e ∈ linkEnds d p,
                let was := s.link e.1 e.2
                let now := v.link e.1 e.2
                (was.st = .down ∨ was.st = .failed → now.st = .retrain ∧ now.attempts = 0
                  ∧ (.trainingComplete e.1 e.2 ∈ v.agenda ∨ .retrainTimeout e.1 e.2 ∈ v.agenda))
                ∧ (was.st ≠ .down → was.st ≠ .failed → now = was))
            ∧ ((∀ e ∈ linkEnds d p, (s.link e.1 e.2).st ≠ .down ∧ (s.link e.1 e.2).st ≠ .failed) → v = s)))
    ∧ (let pa := num 8 8
       let n := num 24 8
       let e := d % 8
       (s.ev = .cmdMemrd k →
          (8192 ≤ d → ends .cmdMemrd s 2) ∧ (d < 8192 → d / 8 ≠ s.pkg → ends .cmdMemrd s 0)
          ∧ (d < 8192 → d / 8 = s.pkg → dieBytes < pa + n → ends .cmdMemrd s 2)
          ∧ (d < 8192 → d / 8 = s.pkg → pa + n ≤ dieBytes → ∃ v : State, ends .cmdMemrd v 0 ∧ v.mem = s.mem
              ∧ Stored s.hostMem v.hostMem (num 16 8) (Memory.getN s.mem (physKey e pa) n)))
       ∧ (s.ev = .cmdMemwr k →
          (8192 ≤ d → ends .cmdMemwr s 2) ∧ (d < 8192 → d / 8 ≠ s.pkg → ends .cmdMemwr s 0)
          ∧ (d < 8192 → d / 8 = s.pkg → dieBytes < pa + n → ends .cmdMemwr s 2)
          ∧ (d < 8192 → d / 8 = s.pkg → pa + n ≤ dieBytes → s.physMapped e pa n = true → ends .cmdMemwr s 4)
          ∧ (d < 8192 → d / 8 = s.pkg → pa + n ≤ dieBytes → s.physMapped e pa n = false → ∃ v : State, ends .cmdMemwr v 0
              ∧ v.hostMem = s.hostMem ∧ Stored s.mem v.mem (physKey e pa) (Memory.getN s.hostMem (num 16 8) n))))
    ∧ (s.ev = .cmdStatclr k →
        let sel := num 2 1
        (8 ≤ d ∨ sel = 0 ∨ 0x18 < sel → ends .cmdStatclr s 2)
        ∧ (d < 8 → sel ≠ 0 → sel ≤ 0x18 → ∃ v : State, ends .cmdStatclr v 0 ∧ v.mem = s.mem
            ∧ (sel = 0x0E → (v.die d).cstat = 0) ∧ (sel = 0x0F → fieldOf (v.die d).net.stat 0 40 = 0)
            ∧ (sel = 0x10 → fieldOf (v.die d).gram.stat 32 16 = 0)
            ∧ (sel = 0x12 → ∀ q ∈ v.tiles, q.1 / 1024 = d → fieldOf q.2.watchStat 0 32 = 0)
            ∧ (0x13 ≤ sel → (v.link d (sel - 0x13)).crcErr = 0)
            ∧ (sel < 0x0E ∨ sel = 0x11 → v = s)))
    ∧ (s.ev = .cmdWatchAdd k →
        let a := num 8 8
        let n := num 16 8
        let wrong := 8 ≤ d ∨ num 2 1 ≠ 0 ∨ 2 ^ 64 < a + n
        (wrong → ends .cmdWatchAdd s 2)
        ∧ (¬ wrong → ∃ v : State, ends .cmdWatchAdd v 0 ∧ (∀ b ∈ (s.cd c d).obs.filter, b ∈ (v.cd c d).obs.filter)
            ∧ ∀ x, a ≤ x → x < a + n → ∀ b ∈ watchBits (x / 64), b ∈ (v.cd c d).obs.filter))
    ∧ (s.ev = .cmdWatchClear k →
        (8 ≤ d → ends .cmdWatchClear s 2)
        ∧ (d < 8 → ∃ v : State, ends .cmdWatchClear v 0 ∧ (v.cd c d).obs.filter = [] ∧ (v.cd c d).obs.ctl = (s.cd c d).obs.ctl))
    ∧ (s.ev = .cmdObsread k →
        let bs := ((s.obsTokens c d).take (num 16 4 / 40)).flatMap obsEntry
        (8 ≤ d → ends .cmdObsread s 2) ∧ (d < 8 → (s.ctx c).st ≠ .halted → ends .cmdObsread s 3)
        ∧ (d < 8 → (s.ctx c).st = .halted → ∃ v : State, exec .cmdObsread s = .next (v.finish k 0 bs.length) ∧ v.mem = s.mem
            ∧ Stored s.hostMem v.hostMem (num 8 8) bs))
    ∧ (let scope := num 0 1
       let named := fun (e : Nat) => scope = 1 ∨ e = k.die
       (s.ev = .cmdVitrineFreeze k → k.die < 8 →
          (1 < scope ∨ num 1 1 ≠ 0 → ends .cmdVitrineFreeze s 2)
          ∧ (scope ≤ 1 → num 1 1 = 0 → (∀ e < 8, named e → (s.die e).frozen = true) → ends .cmdVitrineFreeze s 3)
          ∧ (scope ≤ 1 → num 1 1 = 0 → (∃ e < 8, named e ∧ (s.die e).frozen = false) → ∃ v : State, ends .cmdVitrineFreeze v 0 ∧ v.mem = s.mem
              ∧ (∀ e < 8, named e → (v.die e).frozen = true) ∧ (∀ e, ¬ named e → v.die e = s.die e)
              ∧ ∃ bs, Stored s.hostMem v.hostMem (num 8 8) bs ∧ bs.take 4 = [0x56, 0x49, 0x54, 0x52]))
       ∧ (s.ev = .cmdVitrineThaw k → k.die < 8 →
          (1 < scope → ends .cmdVitrineThaw s 2)
          ∧ (scope ≤ 1 → (∀ e < 8, named e → (s.die e).frozen = false) → ends .cmdVitrineThaw s 3)
          ∧ (scope ≤ 1 → (∃ e < 8, named e ∧ (s.die e).frozen = true) → ∃ v : State, ends .cmdVitrineThaw v 0 ∧ v.mem = s.mem
              ∧ (∀ e < 8, named e → (v.die e).frozen = false) ∧ ∀ e < 8, ¬ named e → (v.die e).frozen = (s.die e).frozen)))
    ∧ (s.ev = .cmdPatch k →
        let addr := num 0 8
        let ver := numAt (Memory.getN s.hostMem addr 65536) 6 2
        let used := s.launches ≠ [] ∨ s.regions ≠ []
        (1 < num 8 1 → ends .cmdPatch s 1) ∧ (num 8 1 ≤ 1 → used → ends .cmdPatch s 3)
        ∧ (num 8 1 ≤ 1 → ¬ used → ∃ (v : State) (status : Nat), ends .cmdPatch v status ∧ v.mem = s.mem
            ∧ (∀ e, (List.range 8).find? (fun e => s.patchStatus e addr ≠ 0) = some e → v = s ∧ status = s.patchStatus e addr)
            ∧ ((∀ e < 8, s.patchStatus e addr = 0) → status = 0 ∧ ∀ e < 8, (v.die e).boot.version = ver
              ∧ (v.die e).boot.stat = (s.die e).boot.stat
              ∧ (v.die e).boot.secMin = if num 8 1 = 1 then some (max ver (s.securityMin e)) else (s.die e).boot.secMin)))
    ∧ (s.ev = .cmdIdent k →
        let body := s.identBody k.die (k.args.take 32)
        ∃ v : State, ends .cmdIdent v 0 ∧ v.mem = s.mem
          ∧ Stored s.hostMem v.hostMem (num 32 8) (body ++ sliceB (Config.identitySign k.die (sha256 body)) 0 64))
    ∧ (s.ev = .cmdPwrcap k →
        (num 0 2 < 1000 ∨ 7200 < num 0 2 → ends .cmdPwrcap s 2)
        ∧ (1000 ≤ num 0 2 → num 0 2 ≤ 7200 → ∃ v : State, ends .cmdPwrcap v 0 ∧ v.pwrCap = num 0 2 ∧ v.mem = s.mem))

/-- The frame of the register classes. `m` and `n` are the major and the minor of the instruction: 1 to 13 are IALU to TAGOP, 16 EXIT, 17
STATE; 12 with 2 is GATE.DUP, 3 with 3 is ADDR.APW. A pass has room when five more effects fit its quota. A write that the cycle
holds takes place as it ends, which may be in this step: a register is said to stay where no write of it was due before. -/
def Obligations.RegisterFrame : Prop :=
  ∀ (i : Instr) (s : State) (m : BitVec 6) (n : BitVec 8) (f : Fields), i.parts = some (m, n, f) →
    (1 ≤ m.toNat ∧ m.toNat ≤ 13) ∨ m = 16 ∨ m = 17 →
    s.overfull = false → s.level (s.regionCtx s.cur.region) < 2 → (s.ctx (s.ctxOf s.cur.at_)).heldEnd = none →
    (∀ p, (s.tile s.cur.at_).pass? s.cur.inst = some p → p.used + 5 ≤ p.quota) →
    (m = 3 → n = 3 → ∀ k < 8, (s.window? s.cur.region k).isSome = true) →
    ∃ t, exec i s = .next t
      ∧ t = { s with agenda := t.agenda, ready := t.ready, tiles := t.tiles, ctxDies := t.ctxDies, touched := t.touched }
      ∧ (∀ x, tileKey x ≠ tileKey s.cur.at_ → t.tile x = s.tile x)
      ∧ (let x := s.tile s.cur.at_
         let y := t.tile s.cur.at_
         let quiet := fun (r : RegName) => ∀ w ∈ x.regNext, w.reg ≠ r
         let still := fun (r : RegName) => ∀ w ∈ y.regNext, w.reg ≠ r
         y = { x with sregs := y.sregs, wregs := y.wregs, aregs := y.aregs, regNext := y.regNext, entries := y.entries, passes := y.passes,
                      drains := y.drains, slots := y.slots, sent := y.sent, recv := y.recv }
         ∧ (∀ k, quiet (.s k) → f.dstA.toNat ≠ 0x50 + k → f.dstB.toNat ≠ 0x50 + k →
             (m = 12 → n = 2 → f.litBits 0 7 ≠ 0x50 + k ∧ f.litBits 8 7 ≠ 0x50 + k) → (m = 17 → f.litBits 0 3 ≠ k) → y.sreg k = x.sreg k ∧ still (.s k))
         ∧ (m ≠ 3 → (∀ k, quiet (.a k)) → y.aregs = x.aregs ∧ ∀ k, still (.a k))
         ∧ (¬ (m = 9 ∧ f.litBits 31 1 = 1) → (∀ k, quiet (.w k)) → y.wregs = x.wregs ∧ ∀ k, still (.w k)))
      ∧ ∀ c d, t.cd c d = { s.cd c d with phases := (t.cd c d).phases, status := (t.cd c d).status }
          ∧ ∀ b < 64, b ≠ 1 → b ≠ 2 → b ≠ 4 → bitN (t.cd c d).status.toNat b = bitN (s.cd c d).status.toNat b
end

