-- ==== Sys2Proof/Laws/Fire.lean ====
section
/-! SUPPORT. The firing rule (04 R75), once for every class: what a set comes to by its null tokens, its predicate and its log. -/

namespace Sys2Proof.Machine

/-- A set that fires is not at the last level. -/
theorem not_full_of_fires {f : Fields} {regs : List Nat} {s u : State} (h : Fires f regs s u) : s.levelFull ⟨s.cur, f⟩ = false := by
  simp only [State.levelFull, Bool.and_eq_false_iff, decide_eq_false_iff_not]
  exact h.level.imp (by omega) id

/-- A set that fires runs the effect of its class. -/
theorem fire_next {f : Fields} {regs : List Nat} {s u : State} (h : Fires f regs s u) (kind : Option Kind) (nd : List Nat)
    (eff : Job → State → State) : s.fire f kind nd regs eff = finished f s (eff ⟨s.cur, f⟩ u) := by
  simp [State.fire, State.fireWith, not_full_of_fires h, h.live, h.pred, h.gate, finished]

/-- A set that fires runs the effect of an acquiring class. -/
theorem fireAcquiring_next {f : Fields} {regs : List Nat} {s u : State} (h : Fires f regs s u) (kind : Option Kind) (nd : List Nat)
    (eff : Job → State → State) : s.fireAcquiring f kind nd regs eff = finished f s (eff ⟨s.cur, f⟩ u) := by
  simp [State.fireAcquiring, not_full_of_fires h, fire_next h]

/-- A set with a null token at a station without `pm=null` is absorbed. -/
theorem fire_null {f : Fields} {s : State} (h : s.cur.anyNull = true) (hp : f.pm ≠ 3) (kind : Option Kind) (nd regs : List Nat)
    (eff : Job → State → State) : s.fire f kind nd regs eff = s.consume s.cur := by
  have hq : ¬ f.pm = 3#2 := hp
  simp [State.fire, State.fireWith, Firing.fires, h, hq]

/-- A set whose predicate does not match is absorbed. -/
theorem fire_unmatched {f : Fields} {s : State} (h : s.cur.anyNull = false) (hp : predOk f s.cur.stTag = false) (kind : Option Kind)
    (nd regs : List Nat) (eff : Job → State → State) : s.fire f kind nd regs eff = s.consume s.cur := by
  simp [State.fire, State.fireWith, Firing.fires, h, hp]

/-- Below RECORD a write of a state register needs no record. -/
theorem sregGate_go {s : State} {fi : Firing} (h : s.level (s.regionCtx fi.region) < 2) (regs : List Nat) :
    s.sregGate fi regs = .go s := by
  unfold State.sregGate
  simp only [if_pos h]

/-- A firing that writes no state register needs no record. -/
theorem sregGate_nil {s : State} {fi : Firing} : s.sregGate fi [] = .go s := by
  unfold State.sregGate
  dsimp only
  split <;> rfl

end Sys2Proof.Machine
end

