-- ==== Sys2Proof/Laws/Memory.lean ====
section
/-! SUPPORT. Laws of the memory list and of the sorted maps: what a read gives after a write, and the canonical form that every write keeps. -/

namespace Sys2Proof.Machine

/-! ### Sorted maps -/

/-- An entry read after one is put. -/
theorem NMap.find_put {α : Type} (m : NMap α) (n k : Nat) (v : α) :
    NMap.find (NMap.put m n v) k = if k = n then some v else NMap.find m k := by
  induction m with
  | nil => simp only [NMap.put, NMap.find]; split_ifs <;> first | rfl | omega
  | cons p m ih =>
    obtain ⟨j, w⟩ := p
    simp only [NMap.put]
    split_ifs with h1 h2 h3 h4 h5 <;> simp_all [NMap.find] <;> (try split_ifs) <;> (try omega) <;> simp_all

@[simp] theorem NMap.find_put_self {α : Type} (m : NMap α) (n : Nat) (v : α) : NMap.find (NMap.put m n v) n = some v := by
  simp [NMap.find_put]

theorem NMap.find_put_ne {α : Type} (m : NMap α) {n k : Nat} (v : α) (h : k ≠ n) :
    NMap.find (NMap.put m n v) k = NMap.find m k := by simp [NMap.find_put, h]

@[simp] theorem NMap.getD_put_self {α : Type} (m : NMap α) (n : Nat) (v d : α) : NMap.getD (NMap.put m n v) n d = v := by
  simp [NMap.getD]

theorem NMap.getD_put_ne {α : Type} (m : NMap α) {n k : Nat} (v d : α) (h : k ≠ n) :
    NMap.getD (NMap.put m n v) k d = NMap.getD m k d := by simp [NMap.getD, NMap.find_put_ne _ _ h]

/-! ### Memory -/

/-- Every address of a memory lies above a bound. -/
def Memory.above (n : Nat) (m : Memory) : Prop := ∀ c ∈ m, n < c.1

/-- The canonical form, one cell at a time. -/
theorem Memory.wf_cons (c : Host.Cell) (m : Memory) :
    Memory.wf (c :: m) = true ↔ c.2 ≠ memDefault ∧ Memory.above c.1 m ∧ Memory.wf m = true := by
  induction m generalizing c with
  | nil => simp [Memory.wf, Memory.above]
  | cons d m ih =>
    simp only [Memory.wf, Memory.above, ih, Bool.and_eq_true, decide_eq_true_eq, List.mem_cons, forall_eq_or_imp]
    constructor
    · rintro ⟨⟨h1, h2⟩, h3, h4, h5⟩
      exact ⟨h1, ⟨h2, fun x hx => Nat.lt_trans h2 (h4 x hx)⟩, h3, h4, h5⟩
    · rintro ⟨h1, ⟨h2, _⟩, h3, h4, h5⟩
      exact ⟨⟨h1, h2⟩, h3, h4, h5⟩

@[simp] theorem Memory.wf_nil : Memory.wf [] = true := rfl

/-- Filtering keeps the canonical form. -/
theorem Memory.wf_filter {m : Memory} (p : Host.Cell → Bool) (h : Memory.wf m = true) : Memory.wf (m.filter p) = true := by
  induction m with
  | nil => rfl
  | cons d m ih =>
    rw [Memory.wf_cons] at h
    obtain ⟨h1, h2, h3⟩ := h
    by_cases hp : p d
    · rw [List.filter_cons_of_pos hp, Memory.wf_cons]
      exact ⟨h1, fun x hx => h2 x (List.mem_filter.1 hx).1, ih h3⟩
    · rw [List.filter_cons_of_neg hp]; exact ih h3

/-- A byte put keeps every address above a bound that its own is above. -/
theorem Memory.above_put {n a : Nat} (m : Memory) (v : Byte) (h : Memory.above n m) (ha : n < a) :
    Memory.above n (Memory.put m a v) := by
  induction m with
  | nil => simp [Memory.put, Memory.above, ha]
  | cons d m ih =>
    obtain ⟨k, w⟩ := d
    have hm : Memory.above n m := fun x hx => h x (List.mem_cons_of_mem _ hx)
    have hk : n < k := h (k, w) List.mem_cons_self
    have hs := ih hm
    simp only [Memory.put]
    split_ifs <;> intro x hx <;> simp only [List.mem_cons] at hx
    · rcases hx with rfl | hx
      · exact ha
      · exact hm x hx
    · rcases hx with rfl | rfl | hx
      · exact ha
      · exact hk
      · exact hm x hx
    · rcases hx with rfl | hx
      · exact hk
      · exact hs x hx

/-- A byte other than the default put keeps the canonical form. -/
theorem Memory.wf_put {m : Memory} (a : Nat) (v : Byte) (hv : v ≠ memDefault) (h : Memory.wf m = true) :
    Memory.wf (Memory.put m a v) = true := by
  induction m with
  | nil => simp [Memory.put, Memory.wf, hv]
  | cons d m ih =>
    obtain ⟨k, w⟩ := d
    rw [Memory.wf_cons] at h
    obtain ⟨h1, h2, h3⟩ := h
    simp only [Memory.put]
    split_ifs with e1 e2
    · rw [Memory.wf_cons]; exact ⟨hv, by simpa [e1] using h2, h3⟩
    · rw [Memory.wf_cons, Memory.wf_cons]
      refine ⟨hv, ?_, h1, h2, h3⟩
      intro x hx
      rcases List.mem_cons.1 hx with rfl | hx
      · exact e2
      · exact Nat.lt_trans e2 (h2 x hx)
    · rw [Memory.wf_cons]; exact ⟨h1, Memory.above_put m v h2 (by simp at e1 e2 ⊢; omega), ih h3⟩

/-- A write keeps the canonical form. -/
theorem Memory.wf_set {m : Memory} (a : Nat) (v : Byte) (h : Memory.wf m = true) : Memory.wf (Memory.set m a v) = true := by
  unfold Memory.set
  split_ifs with hv
  · exact Memory.wf_filter _ h
  · exact Memory.wf_put a v hv h

/-- A run of writes keeps the canonical form. -/
theorem Memory.wf_setN {m : Memory} (a : Nat) (bs : Bytes) (h : Memory.wf m = true) : Memory.wf (Memory.setN m a bs) = true := by
  induction bs generalizing m a with
  | nil => exact h
  | cons b bs ih => exact ih (a + 1) (Memory.wf_set a b h)

/-- A byte read after a byte is put. -/
theorem Memory.get_put (m : Memory) (a b : Nat) (v : Byte) :
    Memory.get (Memory.put m a v) b = if b = a then v else Memory.get m b := by
  induction m with
  | nil =>
    simp only [Memory.put, Memory.get]
    split_ifs with h1 h2 <;> first | rfl | omega
  | cons d m ih =>
    obtain ⟨k, w⟩ := d
    simp only [Memory.put]
    split_ifs with h1 h2 h3 h4 h5 <;> simp only [Memory.get, ih] <;> split_ifs <;> first | rfl | omega

/-- A byte read after an address is taken out. -/
theorem Memory.get_del (m : Memory) (a b : Nat) :
    Memory.get (m.filter (fun c => c.1 ≠ a)) b = if b = a then memDefault else Memory.get m b := by
  induction m with
  | nil => simp [Memory.get]
  | cons d m ih =>
    obtain ⟨k, w⟩ := d
    by_cases hk : k = a
    · rw [List.filter_cons, if_neg (by simp [hk]), ih]
      simp only [Memory.get]
      split_ifs <;> first | rfl | omega
    · rw [List.filter_cons, if_pos (by simp [hk])]
      simp only [Memory.get, ih]
      split_ifs <;> first | rfl | omega

/-- A byte read after a byte is written. -/
theorem Memory.get_set (m : Memory) (a b : Nat) (v : Byte) :
    Memory.get (Memory.set m a v) b = if b = a then v else Memory.get m b := by
  unfold Memory.set
  by_cases hv : v = memDefault
  · rw [if_pos hv, Memory.get_del, hv]
  · rw [if_neg hv, Memory.get_put]

/-- A byte read after a run of bytes is written. -/
theorem Memory.get_setN (m : Memory) (a b : Nat) (bs : Bytes) :
    Memory.get (Memory.setN m a bs) b = if a ≤ b ∧ b < a + bs.length then bs.getD (b - a) 0 else Memory.get m b := by
  induction bs generalizing m a with
  | nil =>
    have : ¬ (a ≤ b ∧ b < a + 0) := by omega
    simp only [Memory.setN, List.length_nil, if_neg this]
  | cons x xs ih =>
    simp only [Memory.setN, ih (Memory.set m a x) (a + 1), Memory.get_set m a b x, List.length_cons]
    by_cases h1 : b = a
    · subst h1
      have e1 : ¬ (b + 1 ≤ b ∧ b < b + 1 + xs.length) := by omega
      have e2 : b ≤ b ∧ b < b + (xs.length + 1) := by omega
      simp [e2]
    · by_cases h2 : a + 1 ≤ b ∧ b < a + 1 + xs.length
      · have e2 : a ≤ b ∧ b < a + (xs.length + 1) := by omega
        have e3 : b - a = (b - (a + 1)) + 1 := by omega
        rw [if_pos h2, if_pos e2, e3]; simp
      · have e2 : ¬ (a ≤ b ∧ b < a + (xs.length + 1)) := by omega
        rw [if_neg h2, if_neg e2, if_neg h1]

end Sys2Proof.Machine
end

