-- ==== Sys2Proof/Laws/Keeps.lean ====
section
/-! SUPPORT. Keeps: the invariant of memory, the clock and the package number under the operations of Ops, Log, Hang and Tokens. One lemma
for each operation, in continuation form: what holds before it holds after it. -/

namespace Sys2Proof.Machine

/-- What no operation breaks: the canonical form of both memories is kept, and neither the clock of steps nor the package number
changes. -/
def Keeps (s t : State) : Prop := (MemInv s → MemInv t) ∧ t.ticks = s.ticks ∧ t.pkg = s.pkg

theorem keeps_refl (s : State) : Keeps s s := ⟨id, rfl, rfl⟩

theorem keeps_trans {s t u : State} (h : Keeps s t) (g : Keeps t u) : Keeps s u :=
  ⟨fun x => g.1 (h.1 x), g.2.1.trans h.2.1, g.2.2.trans h.2.2⟩

theorem keeps_mk0 {s t u : State} (h : Keeps s t) (hm : u.mem = t.mem) (hh : u.hostMem = t.hostMem)
    (ht : u.ticks = t.ticks) (hp : u.pkg = t.pkg) : Keeps s u := by
  obtain ⟨a, b, c⟩ := h
  refine ⟨fun x => ?_, ht.trans b, hp.trans c⟩
  unfold MemInv at *
  rw [hm, hh]
  exact a x

theorem keeps_mk {s t : State} {cycles nextId agenda ready cur ev batch touched overfull tiles islands dies ctxs ctxDies regions launches drainOps
    snaps saves pwrCap powers raised stores outbound outTokens m h} (ht : Keeps s t)
    (hm : Memory.wf t.mem = true → Memory.wf m = true) (hh : Memory.wf t.hostMem = true → Memory.wf h = true) :
    Keeps s ⟨t.ticks, cycles, nextId, t.pkg, agenda, ready, cur, ev, batch, touched, overfull, tiles, islands, dies, ctxs, ctxDies, regions,
      launches, drainOps, snaps, saves, pwrCap, powers, raised, stores, outbound, outTokens, m, h⟩ :=
  ⟨fun x => ⟨hm (ht.1 x).1, hh (ht.1 x).2⟩, ht.2⟩

theorem keeps_ite {s t u : State} {c : Prop} [Decidable c] (h : Keeps s t) (g : Keeps s u) :
    Keeps s (if c then t else u) := by
  split <;> assumption

theorem keeps_foldl {α : Type} {s0 : State} {f : State → α → State} {l : List α} {s : State} (h : Keeps s0 s)
    (hf : ∀ t a, Keeps s0 t → Keeps s0 (f t a)) : Keeps s0 (l.foldl f s) := by
  induction l generalizing s with
  | nil => exact h
  | cons a l ih => exact ih (hf s a h)


/-- The states of a gate, an option, a pair, kept. -/
def KeepsGate (s0 : State) : Gate → Prop
  | .go s => Keeps s0 s
  | .wait s => Keeps s0 s

def KeepsOpt (s0 : State) : Option State → Prop
  | some s => Keeps s0 s
  | none => True

def KeepsOptSnd {α : Type} (s0 : State) : Option (α × State) → Prop
  | some p => Keeps s0 p.2
  | none => True

def KeepsLeave (s0 : State) : Leave → Prop
  | .gone s => Keeps s0 s
  | .stay s => Keeps s0 s
  | .waits s => Keeps s0 s

abbrev KeepsSnd {α : Type} (s0 : State) (p : α × State) : Prop := Keeps s0 p.2
abbrev KeepsFst {α : Type} (s0 : State) (p : State × α) : Prop := Keeps s0 p.1

section
variable {s0 s t : State} {α : Type}

theorem keeps_goG (h : Keeps s0 s) : KeepsGate s0 (.go s) := h
theorem keeps_waitG (h : Keeps s0 s) : KeepsGate s0 (.wait s) := h
theorem keeps_some (h : Keeps s0 s) : KeepsOpt s0 (some s) := h
theorem keeps_none : KeepsOpt s0 none := trivial
theorem keeps_someSnd {a : α} (h : Keeps s0 s) : KeepsOptSnd s0 (some (a, s)) := h
theorem keeps_noneSnd : KeepsOptSnd (α := α) s0 none := trivial
theorem keeps_snd {a : α} (h : Keeps s0 s) : KeepsSnd s0 (a, s) := h
theorem keeps_fst {a : α} (h : Keeps s0 s) : KeepsFst s0 (s, a) := h
theorem keeps_gone (h : Keeps s0 s) : KeepsLeave s0 (.gone s) := h
theorem keeps_stay (h : Keeps s0 s) : KeepsLeave s0 (.stay s) := h
theorem keeps_waits (h : Keeps s0 s) : KeepsLeave s0 (.waits s) := h

theorem keeps_of_goG {g : Gate} (h : KeepsGate s0 g) (e : g = .go s) : Keeps s0 s := by subst e; exact h
theorem keeps_of_waitG {g : Gate} (h : KeepsGate s0 g) (e : g = .wait s) : Keeps s0 s := by subst e; exact h
theorem keeps_of_some {o : Option State} (h : KeepsOpt s0 o) (e : o = some s) : Keeps s0 s := by subst e; exact h
theorem keeps_of_someSnd {o : Option (α × State)} {a : α} (h : KeepsOptSnd s0 o) (e : o = some (a, s)) : Keeps s0 s := by
  subst e; exact h
theorem keeps_of_snd {p : α × State} {a : α} (h : KeepsSnd s0 p) (e : p = (a, s)) : Keeps s0 s := by subst e; exact h
theorem keeps_of_fst {p : State × α} {a : α} (h : KeepsFst s0 p) (e : p = (s, a)) : Keeps s0 s := by subst e; exact h
theorem keeps_of_gone {l : Leave} (h : KeepsLeave s0 l) (e : l = .gone s) : Keeps s0 s := by subst e; exact h
theorem keeps_of_stay {l : Leave} (h : KeepsLeave s0 l) (e : l = .stay s) : Keeps s0 s := by subst e; exact h
theorem keeps_of_waits {l : Leave} (h : KeepsLeave s0 l) (e : l = .waits s) : Keeps s0 s := by subst e; exact h

theorem keeps_iteGate {c : Prop} [Decidable c] {a b : Gate} (h : KeepsGate s0 a) (g : KeepsGate s0 b) :
    KeepsGate s0 (if c then a else b) := by
  split <;> assumption

theorem keeps_iteSnd {β : Type} {c : Prop} [Decidable c] {a b : β × State} (h : KeepsSnd s0 a) (g : KeepsSnd s0 b) :
    KeepsSnd s0 (if c then a else b) := by
  split <;> assumption

theorem keeps_foldlGate {f : Gate → α → Gate} {l : List α} {g : Gate} (h : KeepsGate s0 g)
    (hf : ∀ t a, KeepsGate s0 t → KeepsGate s0 (f t a)) : KeepsGate s0 (l.foldl f g) := by
  induction l generalizing g with
  | nil => exact h
  | cons a l ih => exact ih (hf g a h)

theorem keeps_foldlSnd {β : Type} {f : β × State → α → β × State} {l : List α} {p : β × State} (h : KeepsSnd s0 p)
    (hf : ∀ t a, KeepsSnd s0 t → KeepsSnd s0 (f t a)) : KeepsSnd s0 (l.foldl f p) := by
  induction l generalizing p with
  | nil => exact h
  | cons a l ih => exact ih (hf p a h)
end

theorem keeps_getD {s0 s : State} {o : Option State} (h : KeepsOpt s0 o) (g : Keeps s0 s) : Keeps s0 (o.getD s) := by
  cases o <;> assumption

theorem keeps_wf {m : Memory} : Memory.wf m = true → Memory.wf m = true := id

theorem keeps_setTile {s0 : State} (s : State) (t : TileId) (x : Tile) (hs : Keeps s0 s) :
    Keeps s0 (State.setTile s t x) := by
  unfold State.setTile
  try dsimp only [State.fresh]
  repeat' first
    | with_reducible assumption
    | intro _
    | with_reducible apply keeps_foldl
    | with_reducible apply keeps_ite
    | with_reducible apply keeps_getD
    | with_reducible apply Memory.wf_set
    | with_reducible apply Memory.wf_setN
    | with_reducible apply keeps_wf
    | split
    | with_reducible refine keeps_mk ?_ ?_ ?_

theorem keeps_modTile {s0 : State} (s : State) (t : TileId) (g : Tile → Tile) (hs : Keeps s0 s) :
    Keeps s0 (State.modTile s t g) := by
  unfold State.modTile
  try dsimp only [State.fresh]
  repeat' first
    | with_reducible assumption
    | intro _
    | with_reducible apply keeps_setTile

theorem keeps_modIsland {s0 : State} (s : State) (d : Nat) (k : Nat) (g : Island → Island) (hs : Keeps s0 s) :
    Keeps s0 (State.modIsland s d k g) := by
  unfold State.modIsland
  try dsimp only [State.fresh]
  repeat' first
    | with_reducible assumption
    | intro _
    | with_reducible apply keeps_foldl
    | with_reducible apply keeps_ite
    | with_reducible apply keeps_getD
    | with_reducible apply Memory.wf_set
    | with_reducible apply Memory.wf_setN
    | with_reducible apply keeps_wf
    | split
    | with_reducible refine keeps_mk ?_ ?_ ?_

theorem keeps_modDie {s0 : State} (s : State) (d : Nat) (g : Die → Die) (hs : Keeps s0 s) :
    Keeps s0 (State.modDie s d g) := by
  unfold State.modDie
  try dsimp only [State.fresh]
  repeat' first
    | with_reducible assumption
    | intro _
    | with_reducible apply keeps_foldl
    | with_reducible apply keeps_ite
    | with_reducible apply keeps_getD
    | with_reducible apply Memory.wf_set
    | with_reducible apply Memory.wf_setN
    | with_reducible apply keeps_wf
    | split
    | with_reducible refine keeps_mk ?_ ?_ ?_

theorem keeps_modCtx {s0 : State} (s : State) (c : Nat) (g : Ctx → Ctx) (hs : Keeps s0 s) :
    Keeps s0 (State.modCtx s c g) := by
  unfold State.modCtx
  try dsimp only [State.fresh]
  repeat' first
    | with_reducible assumption
    | intro _
    | with_reducible apply keeps_foldl
    | with_reducible apply keeps_ite
    | with_reducible apply keeps_getD
    | with_reducible apply Memory.wf_set
    | with_reducible apply Memory.wf_setN
    | with_reducible apply keeps_wf
    | split
    | with_reducible refine keeps_mk ?_ ?_ ?_

theorem keeps_modCd {s0 : State} (s : State) (c : Nat) (d : Nat) (g : CtxDie → CtxDie) (hs : Keeps s0 s) :
    Keeps s0 (State.modCd s c d g) := by
  unfold State.modCd
  try dsimp only [State.fresh]
  repeat' first
    | with_reducible assumption
    | intro _
    | with_reducible apply keeps_foldl
    | with_reducible apply keeps_ite
    | with_reducible apply keeps_getD
    | with_reducible apply Memory.wf_set
    | with_reducible apply Memory.wf_setN
    | with_reducible apply keeps_wf
    | split
    | with_reducible refine keeps_mk ?_ ?_ ?_

theorem keeps_modRegion {s0 : State} (s : State) (r : Nat) (g : Region → Region) (hs : Keeps s0 s) :
    Keeps s0 (State.modRegion s r g) := by
  unfold State.modRegion
  try dsimp only [State.fresh]
  repeat' first
    | with_reducible assumption
    | intro _
    | with_reducible apply keeps_foldl
    | with_reducible apply keeps_ite
    | with_reducible apply keeps_getD
    | with_reducible apply Memory.wf_set
    | with_reducible apply Memory.wf_setN
    | with_reducible apply keeps_wf
    | split
    | with_reducible refine keeps_mk ?_ ?_ ?_

theorem keeps_setStatus {s0 : State} (s : State) (c : Nat) (d : Nat) (bit : Nat) (hs : Keeps s0 s) :
    Keeps s0 (State.setStatus s c d bit) := by
  unfold State.setStatus
  try dsimp only [State.fresh]
  repeat' first
    | with_reducible assumption
    | intro _
    | with_reducible apply keeps_modCd

theorem keeps_post {s0 : State} (s : State) (e : Event) (hs : Keeps s0 s) :
    Keeps s0 (State.post s e) := by
  unfold State.post
  try dsimp only [State.fresh]
  repeat' first
    | with_reducible assumption
    | intro _
    | with_reducible apply keeps_foldl
    | with_reducible apply keeps_ite
    | with_reducible apply keeps_getD
    | with_reducible apply Memory.wf_set
    | with_reducible apply Memory.wf_setN
    | with_reducible apply keeps_wf
    | split
    | with_reducible refine keeps_mk ?_ ?_ ?_

theorem keeps_due {s0 : State} (s : State) (e : Event) (hs : Keeps s0 s) :
    Keeps s0 (State.due s e) := by
  unfold State.due
  try dsimp only [State.fresh]
  repeat' first
    | with_reducible assumption
    | intro _
    | with_reducible apply keeps_post
    | with_reducible apply keeps_foldl
    | with_reducible apply keeps_ite

theorem keeps_addReady {s0 : State} (s : State) (fi : Firing) (hs : Keeps s0 s) :
    Keeps s0 (State.addReady s fi) := by
  unfold State.addReady
  try dsimp only [State.fresh]
  repeat' first
    | with_reducible assumption
    | intro _
    | with_reducible apply keeps_foldl
    | with_reducible apply keeps_ite
    | with_reducible apply keeps_getD
    | with_reducible apply Memory.wf_set
    | with_reducible apply Memory.wf_setN
    | with_reducible apply keeps_wf
    | split
    | with_reducible refine keeps_mk ?_ ?_ ?_

theorem keeps_offerAgain {s0 : State} (s : State) (fi : Firing) (hs : Keeps s0 s) :
    Keeps s0 (State.offerAgain s fi) := by
  unfold State.offerAgain
  try dsimp only [State.fresh]
  repeat' first
    | with_reducible assumption
    | intro _
    | with_reducible apply keeps_addReady

theorem keeps_dropEvents {s0 : State} (s : State) (p : Event → Bool) (hs : Keeps s0 s) :
    Keeps s0 (State.dropEvents s p) := by
  unfold State.dropEvents
  try dsimp only [State.fresh]
  repeat' first
    | with_reducible assumption
    | intro _
    | with_reducible apply keeps_foldl
    | with_reducible apply keeps_ite
    | with_reducible apply keeps_getD
    | with_reducible apply Memory.wf_set
    | with_reducible apply Memory.wf_setN
    | with_reducible apply keeps_wf
    | split
    | with_reducible refine keeps_mk ?_ ?_ ?_

theorem keeps_countSent {s0 : State} (s : State) (t : TileId) (phase : BitVec 8) (n : Nat) (hs : Keeps s0 s) :
    Keeps s0 (State.countSent s t phase n) := by
  unfold State.countSent
  try dsimp only [State.fresh]
  repeat' first
    | with_reducible assumption
    | intro _
    | with_reducible apply keeps_modCd
    | with_reducible apply keeps_modRegion
    | with_reducible apply keeps_modTile

theorem keeps_countRecv {s0 : State} (s : State) (t : TileId) (phase : BitVec 8) (n : Nat) (hs : Keeps s0 s) :
    Keeps s0 (State.countRecv s t phase n) := by
  unfold State.countRecv
  try dsimp only [State.fresh]
  repeat' first
    | with_reducible assumption
    | intro _
    | with_reducible apply keeps_modCd
    | with_reducible apply keeps_modTile

theorem keeps_dieSent {s0 : State} (s : State) (c : Nat) (d : Nat) (phase : BitVec 8) (hs : Keeps s0 s) :
    Keeps s0 (State.dieSent s c d phase) := by
  unfold State.dieSent
  try dsimp only [State.fresh]
  repeat' first
    | with_reducible assumption
    | intro _
    | with_reducible apply keeps_modCd

theorem keeps_dieRecv {s0 : State} (s : State) (c : Nat) (d : Nat) (phase : BitVec 8) (hs : Keeps s0 s) :
    Keeps s0 (State.dieRecv s c d phase) := by
  unfold State.dieRecv
  try dsimp only [State.fresh]
  repeat' first
    | with_reducible assumption
    | intro _
    | with_reducible apply keeps_modCd

theorem keeps_consume {s0 : State} (s : State) (fi : Firing) (hs : Keeps s0 s) :
    Keeps s0 (State.consume s fi) := by
  unfold State.consume
  try dsimp only [State.fresh]
  repeat' first
    | with_reducible assumption
    | intro _
    | with_reducible apply keeps_countRecv
    | with_reducible apply keeps_foldl
    | with_reducible apply keeps_ite

theorem keeps_writeByte {s0 : State} (s : State) (c : Nat) (va : Nat) (b : Byte) (hs : Keeps s0 s) :
    Keeps s0 (State.writeByte s c va b) := by
  unfold State.writeByte
  try dsimp only [State.fresh]
  repeat' first
    | with_reducible assumption
    | intro _
    | with_reducible apply keeps_modCd
    | with_reducible apply keeps_foldl
    | with_reducible apply keeps_ite
    | with_reducible apply keeps_getD
    | with_reducible apply Memory.wf_set
    | with_reducible apply Memory.wf_setN
    | with_reducible apply keeps_wf
    | split
    | with_reducible refine keeps_mk ?_ ?_ ?_

theorem keeps_writeVa {s0 : State} (s : State) (c : Nat) (va : Nat) (bs : Bytes) (hs : Keeps s0 s) :
    Keeps s0 (State.writeVa s c va bs) := by
  unfold State.writeVa
  try dsimp only [State.fresh]
  repeat' first
    | with_reducible assumption
    | intro _
    | with_reducible apply keeps_writeByte
    | with_reducible apply keeps_foldl

theorem keeps_curEvent {s0 : State} (s : State) (die : Nat) (typ : Nat) (ctx : Nat) (datum : Nat) (detail : Bytes) (hs : Keeps s0 s) :
    Keeps s0 (State.curEvent s die typ ctx datum detail) := by
  unfold State.curEvent
  try dsimp only [State.fresh]
  repeat' first
    | with_reducible assumption
    | intro _
    | with_reducible apply keeps_modDie
    | with_reducible apply keeps_foldl
    | with_reducible apply keeps_ite
    | with_reducible apply keeps_getD
    | with_reducible apply Memory.wf_set
    | with_reducible apply Memory.wf_setN
    | with_reducible apply keeps_wf
    | split
    | with_reducible refine keeps_mk ?_ ?_ ?_

theorem keeps_catalogueAt {s0 : State} (s : State) (c : Nat) (d : Nat) (typ : Nat) (code : Nat) (tile : Nat) (station : Nat) (block : Nat) (g : Tag) (tag : BitVec 64) (data : Bytes) (hs : Keeps s0 s) :
    Keeps s0 (State.catalogueAt s c d typ code tile station block g tag data) := by
  unfold State.catalogueAt
  try dsimp only [State.fresh]
  repeat' first
    | with_reducible assumption
    | intro _
    | with_reducible apply keeps_modCd
    | with_reducible apply keeps_foldl
    | with_reducible apply keeps_ite

theorem keeps_halt {s0 : State} (s : State) (c : Nat) (hs : Keeps s0 s) :
    Keeps s0 (State.halt s c) := by
  unfold State.halt
  try dsimp only [State.fresh]
  repeat' first
    | with_reducible assumption
    | intro _
    | with_reducible apply keeps_modCtx

theorem keeps_dropLeases {s0 : State} (s : State) (c : Nat) (gone : List LeaseRange) (hs : Keeps s0 s) :
    Keeps s0 (State.dropLeases s c gone) := by
  unfold State.dropLeases
  try dsimp only [State.fresh]
  repeat' first
    | with_reducible assumption
    | intro _
    | with_reducible apply keeps_modCd
    | with_reducible apply keeps_foldl
    | with_reducible apply keeps_ite

theorem keeps_freeIslands {s0 : State} (s : State) (is : List (Nat × Nat)) (hs : Keeps s0 s) :
    Keeps s0 (State.freeIslands s is) := by
  unfold State.freeIslands
  try dsimp only [State.fresh]
  repeat' first
    | with_reducible assumption
    | intro _
    | with_reducible apply keeps_foldl
    | with_reducible apply keeps_ite
    | with_reducible apply keeps_getD
    | with_reducible apply Memory.wf_set
    | with_reducible apply Memory.wf_setN
    | with_reducible apply keeps_wf
    | split
    | with_reducible refine keeps_mk ?_ ?_ ?_

theorem keeps_freeRegion {s0 : State} (s : State) (r : Nat) (hs : Keeps s0 s) :
    Keeps s0 (State.freeRegion s r) := by
  unfold State.freeRegion
  try dsimp only [State.fresh]
  repeat' first
    | with_reducible assumption
    | intro _
    | with_reducible apply keeps_dropEvents
    | with_reducible apply keeps_dropLeases
    | with_reducible apply keeps_due
    | with_reducible apply keeps_freeIslands
    | with_reducible apply keeps_modDie
    | with_reducible apply keeps_modTile
    | with_reducible apply keeps_foldl
    | with_reducible apply keeps_ite
    | with_reducible apply keeps_getD
    | with_reducible apply Memory.wf_set
    | with_reducible apply Memory.wf_setN
    | with_reducible apply keeps_wf
    | split
    | with_reducible refine keeps_mk ?_ ?_ ?_

theorem keeps_endContext {s0 : State} (s : State) (c : Nat) (die : Nat) (code : Nat) (record : Option Bytes) (hs : Keeps s0 s) :
    Keeps s0 (State.endContext s c die code record) := by
  unfold State.endContext
  try dsimp only [State.fresh]
  repeat' first
    | with_reducible assumption
    | intro _
    | with_reducible apply keeps_curEvent
    | with_reducible apply keeps_dropEvents
    | with_reducible apply keeps_due
    | with_reducible apply keeps_freeRegion
    | with_reducible apply keeps_modCd
    | with_reducible apply keeps_modCtx
    | with_reducible apply keeps_modDie
    | with_reducible apply keeps_writeVa
    | with_reducible apply keeps_foldl
    | with_reducible apply keeps_ite
    | with_reducible apply keeps_getD
    | with_reducible apply Memory.wf_set
    | with_reducible apply Memory.wf_setN
    | with_reducible apply keeps_wf
    | split
    | with_reducible refine keeps_mk ?_ ?_ ?_

theorem keeps_endOrHold {s0 : State} (s : State) (c : Nat) (d : Nat) (code : Nat) (record : Option Bytes) (hs : Keeps s0 s) :
    Keeps s0 (State.endOrHold s c d code record) := by
  unfold State.endOrHold
  try dsimp only [State.fresh]
  repeat' first
    | with_reducible assumption
    | intro _
    | with_reducible apply keeps_endContext
    | with_reducible apply keeps_modCtx
    | with_reducible apply keeps_foldl
    | with_reducible apply keeps_ite
    | with_reducible apply keeps_getD
    | with_reducible apply Memory.wf_set
    | with_reducible apply Memory.wf_setN
    | with_reducible apply keeps_wf
    | split

theorem keeps_raiseFault {s0 : State} (s : State) (fi : FaultInfo) (hs : Keeps s0 s) :
    Keeps s0 (State.raiseFault s fi) := by
  unfold State.raiseFault
  try dsimp only [State.fresh]
  repeat' first
    | with_reducible assumption
    | intro _
    | with_reducible apply keeps_catalogueAt
    | with_reducible apply keeps_consume
    | with_reducible apply keeps_countSent
    | with_reducible apply keeps_curEvent
    | with_reducible apply keeps_endOrHold
    | with_reducible apply keeps_halt
    | with_reducible apply keeps_modCd
    | with_reducible apply keeps_modTile
    | with_reducible apply keeps_offerAgain
    | with_reducible apply keeps_place
    | with_reducible apply keeps_post
    | with_reducible apply keeps_foldl
    | with_reducible apply keeps_ite
    | with_reducible apply keeps_getD
    | with_reducible apply Memory.wf_set
    | with_reducible apply Memory.wf_setN
    | with_reducible apply keeps_wf
    | split

theorem keeps_askBoundary {s0 : State} (s : State) (c : Nat) (cause : Nat) (hs : Keeps s0 s) :
    Keeps s0 (State.askBoundary s c cause) := by
  unfold State.askBoundary
  try dsimp only [State.fresh]
  repeat' first
    | with_reducible assumption
    | intro _
    | with_reducible apply keeps_post
    | with_reducible apply keeps_foldl
    | with_reducible apply keeps_ite

theorem keeps_takeCopy {s0 : State} (s : State) (c : Nat) (d : Nat) (unit : Nat) (hs : Keeps s0 s) :
    Keeps s0 (State.takeCopy s c d unit) := by
  unfold State.takeCopy
  try dsimp only [State.fresh]
  repeat' first
    | with_reducible assumption
    | intro _
    | with_reducible apply keeps_modCd

theorem keeps_spillCopy {s0 : State} (s : State) (c : Nat) (va : Nat) (hs : Keeps s0 s) :
    Keeps s0 (State.spillCopy s c va) := by
  unfold State.spillCopy
  try dsimp only [State.fresh]
  repeat' first
    | with_reducible assumption
    | intro _
    | with_reducible apply keeps_askBoundary
    | with_reducible apply keeps_takeCopy
    | with_reducible apply keeps_foldl
    | with_reducible apply keeps_ite
    | with_reducible apply keeps_getD
    | with_reducible apply Memory.wf_set
    | with_reducible apply Memory.wf_setN
    | with_reducible apply keeps_wf
    | split

theorem keeps_cstatUp {s0 : State} (s : State) (d : Nat) (lo : Nat) (n : Nat) (hs : Keeps s0 s) :
    Keeps s0 (State.cstatUp s d lo n) := by
  unfold State.cstatUp
  try dsimp only [State.fresh]
  repeat' first
    | with_reducible assumption
    | intro _
    | with_reducible apply keeps_modDie

theorem keeps_wakeTile {s0 : State} (s : State) (t : TileId) (hs : Keeps s0 s) :
    Keeps s0 (State.wakeTile s t) := by
  unfold State.wakeTile
  try dsimp only [State.fresh]
  repeat' first
    | with_reducible assumption
    | intro _
    | with_reducible apply keeps_due

theorem keeps_modRing {s0 : State} (s : State) (c : Nat) (d : Nat) (g : Ring → Ring) (hs : Keeps s0 s) :
    Keeps s0 (State.modRing s c d g) := by
  unfold State.modRing
  try dsimp only [State.fresh]
  repeat' first
    | with_reducible assumption
    | intro _
    | with_reducible apply keeps_modCd

theorem keeps_diverge {s0 : State} (s : State) (c : Nat) (d : Nat) (cause : Nat) (idx : Nat) (head : Bytes) (hs : Keeps s0 s) :
    Keeps s0 (State.diverge s c d cause idx head) := by
  unfold State.diverge
  try dsimp only [State.fresh]
  repeat' first
    | with_reducible assumption
    | intro _
    | with_reducible apply keeps_modRing
    | with_reducible apply keeps_raiseFault
    | with_reducible apply keeps_foldl
    | with_reducible apply keeps_ite

theorem keeps_enforce {s0 : State} (s : State) (c : Nat) (d : Nat) (i : Nat) (r : LogRec) (step : State → State) (hs : Keeps s0 s) (hstep : ∀ x0, Keeps s0 x0 → Keeps s0 (step x0)) :
    KeepsGate s0 (State.enforce s c d i r step) := by
  unfold State.enforce
  try dsimp only [State.fresh]
  repeat' first
    | with_reducible assumption
    | intro _
    | with_reducible apply keeps_diverge
    | with_reducible apply keeps_wait
    | apply hstep
    | with_reducible apply keeps_foldl
    | with_reducible apply keeps_ite
    | with_reducible apply keeps_getD
    | with_reducible apply keeps_goG
    | with_reducible apply keeps_waitG
    | with_reducible apply keeps_iteGate

theorem keeps_ringHigh {s0 : State} (s : State) (c : Nat) (d : Nat) (hs : Keeps s0 s) :
    Keeps s0 (State.ringHigh s c d) := by
  unfold State.ringHigh
  try dsimp only [State.fresh]
  repeat' first
    | with_reducible assumption
    | intro _
    | with_reducible apply keeps_curEvent
    | with_reducible apply keeps_modRing
    | with_reducible apply keeps_foldl
    | with_reducible apply keeps_ite

theorem keeps_writeRecord {s0 : State} (s : State) (c : Nat) (d : Nat) (r : LogRec) (hs : Keeps s0 s) :
    Keeps s0 (State.writeRecord s c d r) := by
  unfold State.writeRecord
  try dsimp only [State.fresh]
  repeat' first
    | with_reducible assumption
    | intro _
    | with_reducible apply keeps_modRing
    | with_reducible apply keeps_ringHigh
    | with_reducible apply keeps_writeVa

theorem keeps_writeCat {s0 : State} (s : State) (c : Nat) (d : Nat) (bs : Bytes) (hs : Keeps s0 s) :
    Keeps s0 (State.writeCat s c d bs) := by
  unfold State.writeCat
  try dsimp only [State.fresh]
  repeat' first
    | with_reducible assumption
    | intro _
    | with_reducible apply keeps_catHead
    | with_reducible apply keeps_modCd
    | with_reducible apply keeps_writeVa
    | with_reducible apply keeps_foldl
    | with_reducible apply keeps_ite

theorem keeps_writeCats {s0 : State} (s : State) (c : Nat) (d : Nat) (l : List (Nat × Bytes)) (hs : Keeps s0 s) :
    Keeps s0 (State.writeCats s c d l) := by
  unfold State.writeCats
  try dsimp only [State.fresh]
  repeat' first
    | with_reducible assumption
    | intro _
    | with_reducible apply keeps_modCd
    | with_reducible apply keeps_writeCat
    | with_reducible apply keeps_foldl
    | with_reducible apply keeps_ite

theorem keeps_writeLogs {s0 : State} (s : State) (hs : Keeps s0 s) :
    Keeps s0 (State.writeLogs s) := by
  unfold State.writeLogs
  try dsimp only [State.fresh]
  repeat' first
    | with_reducible assumption
    | intro _
    | with_reducible apply keeps_modCd
    | with_reducible apply keeps_writeCats
    | with_reducible apply keeps_writeRecord
    | with_reducible apply keeps_foldl
    | with_reducible apply keeps_ite

theorem keeps_logEvent {s0 : State} (s : State) (c : Nat) (d : Nat) (r : LogRec) (hs : Keeps s0 s) :
    KeepsGate s0 (State.logEvent s c d r) := by
  unfold State.logEvent
  try dsimp only [State.fresh]
  repeat' first
    | with_reducible assumption
    | intro _
    | with_reducible apply keeps_curEvent
    | with_reducible apply keeps_enforce
    | with_reducible apply keeps_modCd
    | with_reducible apply keeps_modRing
    | with_reducible apply keeps_wait
    | with_reducible apply keeps_writeRecord
    | with_reducible apply keeps_foldl
    | with_reducible apply keeps_ite
    | with_reducible apply keeps_getD
    | with_reducible apply keeps_goG
    | with_reducible apply keeps_waitG
    | with_reducible apply keeps_iteGate
    | with_reducible apply keeps_foldlGate
    | refine keeps_of_goG ?_ (by with_reducible assumption)
    | refine keeps_of_waitG ?_ (by with_reducible assumption)
    | with_reducible apply Memory.wf_set
    | with_reducible apply Memory.wf_setN
    | with_reducible apply keeps_wf
    | split

theorem keeps_sregGate {s0 : State} (s : State) (fi : Firing) (regs : List Nat) (hs : Keeps s0 s) :
    KeepsGate s0 (State.sregGate s fi regs) := by
  unfold State.sregGate
  dsimp only
  split
  · exact keeps_goG hs
  · refine keeps_foldlGate (keeps_goG hs) (fun g k hg => ?_)
    split
    · exact hg
    · have hk := keeps_of_goG hg rfl
      split
      · split
        · exact keeps_modTile _ _ _ (keeps_of_goG (keeps_logEvent _ _ _ _ hk) (by assumption))
        · exact keeps_of_waitG (keeps_logEvent _ _ _ _ hk) (by assumption)
      · exact keeps_modTile _ _ _ hk

theorem keeps_catalogue {s0 : State} (s : State) (c : Nat) (d : Nat) (typ : Nat) (code : Nat) (fi : Option Firing) (data : Bytes) (hs : Keeps s0 s) :
    Keeps s0 (State.catalogue s c d typ code fi data) := by
  unfold State.catalogue
  try dsimp only [State.fresh]
  repeat' first
    | with_reducible assumption
    | intro _
    | with_reducible apply keeps_catalogueAt

theorem keeps_histSpill {s0 : State} (s : State) (t : TileId) (slot : Nat) (station : Nat) (hs : Keeps s0 s) :
    Keeps s0 (State.histSpill s t slot station) := by
  unfold State.histSpill
  try dsimp only [State.fresh]
  repeat' first
    | with_reducible assumption
    | intro _
    | with_reducible apply keeps_modCd
    | with_reducible apply keeps_modTile
    | with_reducible apply keeps_writeVa
    | with_reducible apply keeps_foldl
    | with_reducible apply keeps_ite

theorem keeps_histSpillAll {s0 : State} (s : State) (t : TileId) (slot : Nat) (hs : Keeps s0 s) :
    Keeps s0 (State.histSpillAll s t slot) := by
  unfold State.histSpillAll
  try dsimp only [State.fresh]
  repeat' first
    | with_reducible assumption
    | intro _
    | with_reducible apply keeps_histSpill
    | with_reducible apply keeps_foldl

theorem keeps_histCount {s0 : State} (s : State) (fi : Firing) (hs : Keeps s0 s) :
    Keeps s0 (State.histCount s fi) := by
  unfold State.histCount
  try dsimp only [State.fresh]
  repeat' first
    | with_reducible assumption
    | intro _
    | with_reducible apply keeps_histSpill
    | with_reducible apply keeps_modTile
    | with_reducible apply keeps_foldl
    | with_reducible apply keeps_ite
    | with_reducible apply keeps_getD
    | with_reducible apply Memory.wf_set
    | with_reducible apply Memory.wf_setN
    | with_reducible apply keeps_wf
    | split

theorem keeps_preciseStop {s0 : State} (s : State) (c : Nat) (fi : Firing) (n : Nat) (hs : Keeps s0 s) :
    Keeps s0 (State.preciseStop s c fi n) := by
  unfold State.preciseStop
  try dsimp only [State.fresh]
  repeat' first
    | with_reducible assumption
    | intro _
    | with_reducible apply keeps_catalogue
    | with_reducible apply keeps_curEvent
    | with_reducible apply keeps_halt

theorem keeps_deliverSet {s0 : State} (s : State) (fi : Firing) (hs : Keeps s0 s) :
    Keeps s0 (State.deliverSet s fi) := by
  unfold State.deliverSet
  try dsimp only [State.fresh]
  repeat' first
    | with_reducible assumption
    | intro _
    | with_reducible apply keeps_addReady
    | with_reducible apply keeps_catalogue
    | with_reducible apply keeps_histCount
    | with_reducible apply keeps_modDie
    | with_reducible apply keeps_preciseStop
    | with_reducible apply keeps_foldl
    | with_reducible apply keeps_ite
    | with_reducible apply keeps_getD
    | with_reducible apply Memory.wf_set
    | with_reducible apply Memory.wf_setN
    | with_reducible apply keeps_wf
    | split

theorem keeps_writeHangMap {s0 : State} (s : State) (c : Nat) (d : Nat) (code : Nat) (es : List HangEntry) (hs : Keeps s0 s) :
    Keeps s0 (State.writeHangMap s c d code es) := by
  unfold State.writeHangMap
  try dsimp only [State.fresh]
  repeat' first
    | with_reducible assumption
    | intro _
    | with_reducible apply keeps_catalogue
    | with_reducible apply keeps_writeVa
    | with_reducible apply keeps_foldl
    | with_reducible apply keeps_ite

theorem keeps_startHang {s0 : State} (s : State) (c : Nat) (hs : Keeps s0 s) :
    Keeps s0 (State.startHang s c) := by
  unfold State.startHang
  try dsimp only [State.fresh]
  repeat' first
    | with_reducible assumption
    | intro _
    | with_reducible apply keeps_due
    | with_reducible apply keeps_modCtx

theorem keeps_writeSreg {s0 : State} (s : State) (t : TileId) (k : Nat) (off : Nat) (bs : Bytes) (hs : Keeps s0 s) :
    Keeps s0 (State.writeSreg s t k off bs) := by
  unfold State.writeSreg
  try dsimp only [State.fresh]
  repeat' first
    | with_reducible assumption
    | intro _
    | with_reducible apply keeps_modTile

theorem keeps_touch {s0 : State} (s : State) (t : TileId) (hs : Keeps s0 s) :
    Keeps s0 (State.touch s t) := by
  unfold State.touch
  try dsimp only [State.fresh]
  repeat' first
    | with_reducible assumption
    | intro _
    | with_reducible apply keeps_foldl
    | with_reducible apply keeps_ite
    | with_reducible apply keeps_getD
    | with_reducible apply Memory.wf_set
    | with_reducible apply Memory.wf_setN
    | with_reducible apply keeps_wf
    | split
    | with_reducible refine keeps_mk ?_ ?_ ?_

theorem keeps_regLater {s0 : State} (s : State) (j : Job) (reg : RegName) (off : Nat) (bs : Bytes) (hs : Keeps s0 s) :
    Keeps s0 (State.regLater s j reg off bs) := by
  unfold State.regLater
  try dsimp only [State.fresh]
  repeat' first
    | with_reducible assumption
    | intro _
    | with_reducible apply keeps_modTile
    | with_reducible apply keeps_touch

theorem keeps_jobFault {s0 : State} (s : State) (j : Job) (index : Nat) (code : Nat) (detail : Bytes) (hs : Keeps s0 s) :
    Keeps s0 (State.jobFault s j index code detail) := by
  unfold State.jobFault
  try dsimp only [State.fresh]
  repeat' first
    | with_reducible assumption
    | intro _
    | with_reducible apply keeps_raiseFault

theorem keeps_hold {s0 : State} (s : State) (j : Job) (e : Effect) (hs : Keeps s0 s) :
    Keeps s0 (State.hold s j e) := by
  unfold State.hold
  try dsimp only [State.fresh]
  repeat' first
    | with_reducible assumption
    | intro _
    | with_reducible apply keeps_due
    | with_reducible apply keeps_modTile
    | with_reducible apply keeps_foldl
    | with_reducible apply keeps_ite
    | with_reducible apply keeps_getD
    | with_reducible apply Memory.wf_set
    | with_reducible apply Memory.wf_setN
    | with_reducible apply keeps_wf
    | split
    | with_reducible refine keeps_mk ?_ ?_ ?_

theorem keeps_sweepPass {s0 : State} (s : State) (t : TileId) (id : Nat) (hs : Keeps s0 s) :
    Keeps s0 (State.sweepPass s t id) := by
  unfold State.sweepPass
  try dsimp only [State.fresh]
  repeat' first
    | with_reducible assumption
    | intro _
    | with_reducible apply keeps_consume
    | with_reducible apply keeps_countRecv
    | with_reducible apply keeps_modTile
    | with_reducible apply keeps_setStatus
    | with_reducible apply keeps_foldl
    | with_reducible apply keeps_ite
    | with_reducible apply keeps_getD
    | with_reducible apply Memory.wf_set
    | with_reducible apply Memory.wf_setN
    | with_reducible apply keeps_wf
    | split
    | with_reducible refine keeps_mk ?_ ?_ ?_

theorem keeps_dropEffect {s0 : State} (s : State) (t : TileId) (e : Effect) (hs : Keeps s0 s) :
    Keeps s0 (State.dropEffect s t e) := by
  unfold State.dropEffect
  try dsimp only [State.fresh]
  repeat' first
    | with_reducible assumption
    | intro _
    | with_reducible apply keeps_countRecv
    | with_reducible apply keeps_foldl
    | with_reducible apply keeps_ite
    | with_reducible apply keeps_getD
    | with_reducible apply Memory.wf_set
    | with_reducible apply Memory.wf_setN
    | with_reducible apply keeps_wf
    | split

theorem keeps_handlerDone {s0 : State} (s : State) (t : TileId) (hs : Keeps s0 s) :
    Keeps s0 (State.handlerDone s t) := by
  unfold State.handlerDone
  try dsimp only [State.fresh]
  repeat' first
    | with_reducible assumption
    | intro _
    | with_reducible apply keeps_endContext
    | with_reducible apply keeps_modCtx
    | with_reducible apply keeps_foldl
    | with_reducible apply keeps_ite
    | with_reducible apply keeps_getD
    | with_reducible apply Memory.wf_set
    | with_reducible apply Memory.wf_setN
    | with_reducible apply keeps_wf
    | split

theorem keeps_commitPass {s0 : State} (s : State) (t : TileId) (p : Pass) (x : ExitTok) (hs : Keeps s0 s) :
    Keeps s0 (State.commitPass s t p x) := by
  unfold State.commitPass
  try dsimp only [State.fresh]
  repeat' first
    | with_reducible assumption
    | intro _
    | with_reducible apply keeps_dropEffect
    | with_reducible apply keeps_due
    | with_reducible apply keeps_handlerDone
    | with_reducible apply keeps_modTile
    | with_reducible apply keeps_sweepPass
    | with_reducible apply keeps_foldl
    | with_reducible apply keeps_ite

theorem keeps_closePass {s0 : State} (s : State) (t : TileId) (p : Pass) (hs : Keeps s0 s) :
    Keeps s0 (State.closePass s t p) := by
  unfold State.closePass
  try dsimp only [State.fresh]
  repeat' first
    | with_reducible assumption
    | intro _
    | with_reducible apply keeps_commitPass
    | with_reducible apply keeps_dropEffect
    | with_reducible apply keeps_setStatus
    | with_reducible apply keeps_foldl
    | with_reducible apply keeps_ite
    | with_reducible apply keeps_getD
    | with_reducible apply Memory.wf_set
    | with_reducible apply Memory.wf_setN
    | with_reducible apply keeps_wf
    | split

theorem keeps_closeTile {s0 : State} (s : State) (t : TileId) (hs : Keeps s0 s) :
    Keeps s0 (State.closeTile s t) := by
  unfold State.closeTile
  try dsimp only [State.fresh]
  repeat' first
    | with_reducible assumption
    | intro _
    | with_reducible apply keeps_closePass
    | with_reducible apply keeps_modTile
    | with_reducible apply keeps_foldl
    | with_reducible apply keeps_ite
    | with_reducible apply keeps_getD
    | with_reducible apply Memory.wf_set
    | with_reducible apply Memory.wf_setN
    | with_reducible apply keeps_wf
    | split
    | with_reducible refine keeps_mk ?_ ?_ ?_

theorem keeps_closeCycle {s0 : State} (s : State) (hs : Keeps s0 s) :
    Keeps s0 (State.closeCycle s) := by
  unfold State.closeCycle
  try dsimp only [State.fresh]
  repeat' first
    | with_reducible assumption
    | intro _
    | with_reducible apply keeps_closeTile
    | with_reducible apply keeps_foldl

theorem keeps_flush {s0 : State} (s : State) (t : TileId) (hs : Keeps s0 s) :
    Keeps s0 (State.flush s t) := by
  unfold State.flush
  try dsimp only [State.fresh]
  repeat' first
    | with_reducible assumption
    | intro _
    | with_reducible apply keeps_closeTile
    | with_reducible apply keeps_foldl
    | with_reducible apply keeps_ite

theorem keeps_discardTok {s0 : State} (s : State) (t : TileId) (tok : Token) (hs : Keeps s0 s) :
    Keeps s0 (State.discardTok s t tok) := by
  unfold State.discardTok
  try dsimp only [State.fresh]
  repeat' first
    | with_reducible assumption
    | intro _
    | with_reducible apply keeps_countRecv
    | with_reducible apply keeps_countSent

theorem keeps_sendTo {s0 : State} (s : State) (j : Job) (rel : Bool) (d : Nat) (tok : Token) (hs : Keeps s0 s) :
    Keeps s0 (State.sendTo s j rel d tok) := by
  unfold State.sendTo
  try dsimp only [State.fresh]
  repeat' first
    | with_reducible assumption
    | intro _
    | with_reducible apply keeps_countSent
    | with_reducible apply keeps_discardTok
    | with_reducible apply keeps_hold
    | with_reducible apply keeps_place
    | with_reducible apply keeps_post
    | with_reducible apply keeps_setStatus
    | with_reducible apply keeps_foldl
    | with_reducible apply keeps_ite

theorem keeps_sendExits {s0 : State} (s : State) (j : Job) (rel : Bool) (keep : Bool) (xs : List Nat) (tok : Token) (hs : Keeps s0 s) :
    Keeps s0 (State.sendExits s j rel keep xs tok) := by
  unfold State.sendExits
  try dsimp only [State.fresh]
  repeat' first
    | with_reducible assumption
    | intro _
    | with_reducible apply keeps_countSent
    | with_reducible apply keeps_discardTok
    | with_reducible apply keeps_modTile
    | with_reducible apply keeps_setStatus
    | with_reducible apply keeps_touch
    | with_reducible apply keeps_foldl
    | with_reducible apply keeps_ite
    | with_reducible apply keeps_getD
    | with_reducible apply Memory.wf_set
    | with_reducible apply Memory.wf_setN
    | with_reducible apply keeps_wf
    | split
    | with_reducible refine keeps_mk ?_ ?_ ?_

theorem keeps_deliver {s0 : State} (s : State) (j : Job) (rel : Bool) (ds : List Nat) (tok : Token) (hs : Keeps s0 s) :
    Keeps s0 (State.deliver s j rel ds tok) := by
  unfold State.deliver
  try dsimp only [State.fresh]
  repeat' first
    | with_reducible assumption
    | intro _
    | with_reducible apply keeps_sendExits
    | with_reducible apply keeps_sendTo
    | with_reducible apply keeps_foldl

theorem keeps_emitRes {s0 : State} (s : State) (j : Job) (rel : Bool) (ds : List Nat) (g : Tag) (kind : Kind) (res : Option Bytes) (hs : Keeps s0 s) :
    Keeps s0 (State.emitRes s j rel ds g kind res) := by
  unfold State.emitRes
  try dsimp only [State.fresh]
  repeat' first
    | with_reducible assumption
    | intro _
    | with_reducible apply keeps_deliver
    | with_reducible apply keeps_regLater
    | with_reducible apply keeps_foldl
    | with_reducible apply keeps_ite
    | with_reducible apply keeps_getD
    | with_reducible apply Memory.wf_set
    | with_reducible apply Memory.wf_setN
    | with_reducible apply keeps_wf
    | split

theorem keeps_emitDone {s0 : State} (s : State) (j : Job) (rel : Bool) (ds : List Nat) (g : Tag) (res : Option Bytes) (hs : Keeps s0 s) :
    Keeps s0 (State.emitDone s j rel ds g res) := by
  unfold State.emitDone
  try dsimp only [State.fresh]
  repeat' first
    | with_reducible assumption
    | intro _
    | with_reducible apply keeps_deliver

theorem keeps_emit2 {s0 : State} (s : State) (j : Job) (kind : Kind) (res : Bytes) (hs : Keeps s0 s) :
    Keeps s0 (State.emit2 s j kind res) := by
  unfold State.emit2
  try dsimp only [State.fresh]
  repeat' first
    | with_reducible assumption
    | intro _
    | with_reducible apply keeps_emitRes

theorem keeps_emitBoth {s0 : State} (s : State) (j : Job) (kind : Kind) (res : Bytes) (hs : Keeps s0 s) :
    Keeps s0 (State.emitBoth s j kind res) := by
  unfold State.emitBoth
  try dsimp only [State.fresh]
  repeat' first
    | with_reducible assumption
    | intro _
    | with_reducible apply keeps_emit2
    | with_reducible apply keeps_emitDone

theorem keeps_emitExit {s0 : State} (s : State) (j : Job) (keep : Bool) (x : Nat) (g : Tag) (res : Option Bytes) (hs : Keeps s0 s) :
    Keeps s0 (State.emitExit s j keep x g res) := by
  unfold State.emitExit
  try dsimp only [State.fresh]
  repeat' first
    | with_reducible assumption
    | intro _
    | with_reducible apply keeps_sendExits

theorem keeps_nullPass {s0 : State} (s : State) (j : Job) (kind : Option Kind) (ds : List Nat) (hs : Keeps s0 s) :
    Keeps s0 (State.nullPass s j kind ds) := by
  unfold State.nullPass
  try dsimp only [State.fresh]
  repeat' first
    | with_reducible assumption
    | intro _
    | with_reducible apply keeps_emitDone
    | with_reducible apply keeps_emitRes

theorem keeps_settle {s0 : State} (s : State) (j : Job) (after : State) (hs : Keeps s0 s) (hafter : Keeps s0 after) :
    Keeps s0 (State.settle s j after) := by
  unfold State.settle
  try dsimp only [State.fresh]
  repeat' first
    | with_reducible assumption
    | intro _
    | with_reducible apply keeps_flush
    | with_reducible apply keeps_jobFault
    | with_reducible apply keeps_writeHangMap
    | with_reducible apply keeps_foldl
    | with_reducible apply keeps_ite

theorem keeps_noteFired {s0 : State} (s : State) (fi : Firing) (hs : Keeps s0 s) :
    Keeps s0 (State.noteFired s fi) := by
  unfold State.noteFired
  try dsimp only [State.fresh]
  repeat' first
    | with_reducible assumption
    | intro _
    | with_reducible apply keeps_modTile
    | with_reducible apply keeps_foldl
    | with_reducible apply keeps_ite

theorem keeps_fireWith {s0 : State} (s : State) (f : Fields) (regs : List Nat) (nullEff : Job → State → State) (eff : Job → State → State) (hs : Keeps s0 s) (hnullEff : ∀ x0 x1, Keeps s0 x1 → Keeps s0 (nullEff x0 x1)) (heff : ∀ x0 x1, Keeps s0 x1 → Keeps s0 (eff x0 x1)) :
    Keeps s0 (State.fireWith s f regs nullEff eff) := by
  unfold State.fireWith
  try dsimp only [State.fresh]
  repeat' first
    | with_reducible assumption
    | intro _
    | with_reducible apply keeps_askBoundary
    | with_reducible apply keeps_consume
    | with_reducible apply keeps_noteFired
    | with_reducible apply keeps_offerAgain
    | with_reducible apply keeps_settle
    | with_reducible apply keeps_sregGate
    | with_reducible apply keeps_wait
    | apply hnullEff
    | apply heff
    | with_reducible apply keeps_foldl
    | with_reducible apply keeps_ite
    | with_reducible apply keeps_getD
    | refine keeps_of_goG ?_ (by with_reducible assumption)
    | refine keeps_of_waitG ?_ (by with_reducible assumption)
    | with_reducible apply keeps_goG
    | with_reducible apply keeps_waitG
    | with_reducible apply keeps_iteGate
    | with_reducible apply keeps_foldlGate
    | with_reducible apply Memory.wf_set
    | with_reducible apply Memory.wf_setN
    | with_reducible apply keeps_wf
    | split

theorem keeps_fire {s0 : State} (s : State) (f : Fields) (kind : Option Kind) (nullDests : List Nat) (regs : List Nat) (eff : Job → State → State) (hs : Keeps s0 s) (heff : ∀ x0 x1, Keeps s0 x1 → Keeps s0 (eff x0 x1)) :
    Keeps s0 (State.fire s f kind nullDests regs eff) := by
  unfold State.fire
  try dsimp only [State.fresh]
  repeat' first
    | with_reducible assumption
    | intro _
    | with_reducible apply keeps_consume
    | with_reducible apply keeps_fireWith
    | with_reducible apply keeps_nullPass

theorem keeps_fireAcquiring {s0 : State} (s : State) (f : Fields) (kind : Option Kind) (nullDests : List Nat) (regs : List Nat) (eff : Job → State → State) (hs : Keeps s0 s) (heff : ∀ x0 x1, Keeps s0 x1 → Keeps s0 (eff x0 x1)) :
    Keeps s0 (State.fireAcquiring s f kind nullDests regs eff) := by
  unfold State.fireAcquiring
  try dsimp only [State.fresh]
  repeat' first
    | with_reducible assumption
    | intro _
    | with_reducible apply keeps_askBoundary
    | with_reducible apply keeps_fire
    | with_reducible apply keeps_offerAgain
    | apply heff
    | with_reducible apply keeps_foldl
    | with_reducible apply keeps_ite

theorem keeps_fireValue {s0 : State} (s : State) (f : Fields) (val : Job → State → Bytes) (hs : Keeps s0 s) :
    Keeps s0 (State.fireValue s f val) := by
  unfold State.fireValue
  try dsimp only [State.fresh]
  repeat' first
    | with_reducible assumption
    | intro _
    | with_reducible apply keeps_consume
    | with_reducible apply keeps_emit2
    | with_reducible apply keeps_fire

end Sys2Proof.Machine
end

