-- ==== Sys2Proof/Laws/KeepsTile.lean ====
section
/-! SUPPORT. Keeps: the same for scratchpads, requests, owners, accesses, the matching store and the scheduler. One lemma
for each operation, in continuation form: what holds before it holds after it. -/

namespace Sys2Proof.Machine

theorem keeps_engineWrite {s0 : State} (s : State) (t : TileId) (off : Nat) (bs : Bytes) (hs : Keeps s0 s) :
    Keeps s0 (State.engineWrite s t off bs) := by
  unfold State.engineWrite
  try dsimp only [State.fresh]
  repeat' first
    | with_reducible assumption
    | intro _
    | with_reducible apply keeps_due
    | with_reducible apply keeps_modTile

theorem keeps_spadSeen {s0 : State} (s : State) (j : Job) (hs : Keeps s0 s) :
    KeepsSnd s0 (State.spadSeen s j) := by
  unfold State.spadSeen
  try dsimp only [State.fresh]
  repeat' first
    | with_reducible assumption
    | intro _
    | with_reducible apply keeps_modTile

theorem keeps_ldlPerform {s0 : State} (s : State) (w : Waiting) (hs : Keeps s0 s) :
    Keeps s0 (State.ldlPerform s w) := by
  unfold State.ldlPerform
  try dsimp only [State.fresh]
  repeat' first
    | with_reducible assumption
    | intro _
    | with_reducible apply keeps_consume
    | with_reducible apply keeps_due
    | with_reducible apply keeps_emitBoth
    | with_reducible apply keeps_modTile
    | with_reducible apply keeps_settle
    | with_reducible apply keeps_spadSeen
    | with_reducible apply keeps_foldl
    | with_reducible apply keeps_ite

theorem keeps_stlPerform {s0 : State} (s : State) (j : Job) (writes : List (Nat × Bytes)) (hs : Keeps s0 s) :
    Keeps s0 (State.stlPerform s j writes) := by
  unfold State.stlPerform
  try dsimp only [State.fresh]
  repeat' first
    | with_reducible assumption
    | intro _
    | with_reducible apply keeps_due
    | with_reducible apply keeps_emitBoth
    | with_reducible apply keeps_modTile
    | with_reducible apply keeps_spadSeen

theorem keeps_waitGate {s0 : State} (s : State) (t : TileId) (w : Waiting) (hs : Keeps s0 s) :
    KeepsGate s0 (State.waitGate s t w) := by
  unfold State.waitGate
  try dsimp only [State.fresh]
  repeat' first
    | with_reducible assumption
    | intro _
    | with_reducible apply keeps_logEvent
    | with_reducible apply keeps_foldl
    | with_reducible apply keeps_ite
    | with_reducible apply keeps_getD
    | with_reducible apply keeps_goG
    | with_reducible apply keeps_waitG
    | with_reducible apply keeps_iteGate
    | with_reducible apply keeps_foldlGate
    | refine keeps_of_goG ?_ (by with_reducible assumption)
    | refine keeps_of_waitG ?_ (by with_reducible assumption)
    | with_reducible apply Memory.wf_set
    | with_reducible apply Memory.wf_setN
    | with_reducible apply keeps_wf
    | split

theorem keeps_firstOf {s0 : State} (s : State) (t : TileId) (held : List Nat) (ws : List Waiting) (hs : Keeps s0 s) :
    KeepsSnd s0 (State.firstOf s t held ws) := by
  induction ws generalizing s held with
  | nil => exact hs
  | cons w ws ih =>
    unfold State.firstOf
    split
    · split
      · exact keeps_of_goG (keeps_waitGate _ _ _ hs) (by assumption)
      · exact ih _ _ (keeps_of_waitG (keeps_waitGate _ _ _ hs) (by assumption))
    · exact ih _ _ hs

theorem keeps_firstWaiting {s0 : State} (s : State) (t : TileId) (hs : Keeps s0 s) :
    KeepsSnd s0 (State.firstWaiting s t) := keeps_firstOf _ _ _ _ hs

theorem keeps_spadNote {s0 : State} (s : State) (t : TileId) (bit : Nat) (hs : Keeps s0 s) :
    Keeps s0 (State.spadNote s t bit) := by
  unfold State.spadNote
  try dsimp only [State.fresh]
  repeat' first
    | with_reducible assumption
    | intro _
    | with_reducible apply keeps_modTile

theorem keeps_waitStep {s0 : State} (s : State) (t : TileId) (hs : Keeps s0 s) :
    Keeps s0 (State.waitStep s t) := by
  unfold State.waitStep
  try dsimp only [State.fresh]
  repeat' first
    | with_reducible assumption
    | intro _
    | with_reducible apply keeps_due
    | with_reducible apply keeps_firstWaiting
    | with_reducible apply keeps_ldlPerform
    | with_reducible apply keeps_modTile
    | with_reducible apply keeps_post
    | with_reducible apply keeps_spadNote
    | with_reducible apply keeps_stlPerform
    | with_reducible apply keeps_foldl
    | with_reducible apply keeps_ite
    | with_reducible apply keeps_getD
    | refine keeps_of_snd ?_ (by with_reducible assumption)
    | with_reducible apply Memory.wf_set
    | with_reducible apply Memory.wf_setN
    | with_reducible apply keeps_wf
    | split

theorem keeps_spadFault {s0 : State} (s : State) (j : Job) (major : Nat) (desc : Bytes) (hs : Keeps s0 s) :
    Keeps s0 (State.spadFault s j major desc) := by
  unfold State.spadFault
  try dsimp only [State.fresh]
  repeat' first
    | with_reducible assumption
    | intro _
    | with_reducible apply keeps_jobFault

theorem keeps_fireLdl {s0 : State} (minor : Nat) (f : Fields) (s : State) (hs : Keeps s0 s) :
    Keeps s0 (fireLdl minor f s) := by
  unfold fireLdl
  try dsimp only [State.fresh]
  repeat' first
    | with_reducible assumption
    | intro _
    | with_reducible apply keeps_again
    | with_reducible apply keeps_consume
    | with_reducible apply keeps_due
    | with_reducible apply keeps_emitBoth
    | with_reducible apply keeps_fire
    | with_reducible apply keeps_ldlPerform
    | with_reducible apply keeps_modTile
    | with_reducible apply keeps_offerAgain
    | with_reducible apply keeps_spadFault
    | with_reducible apply keeps_spadNote
    | with_reducible apply keeps_foldl
    | with_reducible apply keeps_ite
    | with_reducible apply keeps_getD
    | with_reducible apply Memory.wf_set
    | with_reducible apply Memory.wf_setN
    | with_reducible apply keeps_wf
    | split

theorem keeps_fireStl {s0 : State} (minor : Nat) (f : Fields) (s : State) (hs : Keeps s0 s) :
    Keeps s0 (fireStl minor f s) := by
  unfold fireStl
  try dsimp only [State.fresh]
  repeat' first
    | with_reducible assumption
    | intro _
    | with_reducible apply keeps_consume
    | with_reducible apply keeps_emitBoth
    | with_reducible apply keeps_fire
    | with_reducible apply keeps_hold
    | with_reducible apply keeps_spadFault
    | with_reducible apply keeps_foldl
    | with_reducible apply keeps_ite
    | with_reducible apply keeps_getD
    | with_reducible apply Memory.wf_set
    | with_reducible apply Memory.wf_setN
    | with_reducible apply keeps_wf
    | split

theorem keeps_aregLater {s0 : State} (s : State) (j : Job) (k : Nat) (v : BitVec 64) (hs : Keeps s0 s) :
    Keeps s0 (State.aregLater s j k v) := by
  unfold State.aregLater
  try dsimp only [State.fresh]
  repeat' first
    | with_reducible assumption
    | intro _
    | with_reducible apply keeps_regLater

theorem keeps_fireAddr {s0 : State} (w : Bool) (g : Job → State → BitVec 64) (f : Fields) (s : State) (hs : Keeps s0 s) :
    Keeps s0 (fireAddr w g f s) := by
  unfold fireAddr
  try dsimp only [State.fresh]
  repeat' first
    | with_reducible assumption
    | intro _
    | with_reducible apply keeps_aregLater
    | with_reducible apply keeps_consume
    | with_reducible apply keeps_emit2
    | with_reducible apply keeps_fire
    | with_reducible apply keeps_foldl
    | with_reducible apply keeps_ite

theorem keeps_leaseFault {s0 : State} (s : State) (j : Job) (major : Nat) (addr : Nat) (mark : Nat) (hs : Keeps s0 s) :
    Keeps s0 (State.leaseFault s j major addr mark) := by
  unfold State.leaseFault
  try dsimp only [State.fresh]
  repeat' first
    | with_reducible assumption
    | intro _
    | with_reducible apply keeps_jobFault

theorem keeps_l1Put {s0 : State} (s : State) (t : TileId) (e : L1Line) (hs : Keeps s0 s) :
    Keeps s0 (State.l1Put s t e) := by
  unfold State.l1Put
  try dsimp only [State.fresh]
  repeat' first
    | with_reducible assumption
    | intro _
    | with_reducible apply keeps_modTile

theorem keeps_l1Drop {s0 : State} (s : State) (t : TileId) (line : Nat) (hs : Keeps s0 s) :
    Keeps s0 (State.l1Drop s t line) := by
  unfold State.l1Drop
  try dsimp only [State.fresh]
  repeat' first
    | with_reducible assumption
    | intro _
    | with_reducible apply keeps_modTile

theorem keeps_l1Patch {s0 : State} (s : State) (t : TileId) (a : Nat) (level : Nat) (bs : Bytes) (hs : Keeps s0 s) :
    Keeps s0 (State.l1Patch s t a level bs) := by
  unfold State.l1Patch
  try dsimp only [State.fresh]
  repeat' first
    | with_reducible assumption
    | intro _
    | with_reducible apply keeps_modTile

theorem keeps_noteWrite {s0 : State} (s : State) (key : Nat) (n : Nat) (hs : Keeps s0 s) :
    Keeps s0 (State.noteWrite s key n) := by
  unfold State.noteWrite
  try dsimp only [State.fresh]
  repeat' first
    | with_reducible assumption
    | intro _
    | with_reducible apply keeps_foldl
    | with_reducible apply keeps_ite
    | with_reducible apply keeps_getD
    | with_reducible apply Memory.wf_set
    | with_reducible apply Memory.wf_setN
    | with_reducible apply keeps_wf
    | split
    | with_reducible refine keeps_mk ?_ ?_ ?_

theorem keeps_l1Clear {s0 : State} (s : State) (t : TileId) (hs : Keeps s0 s) :
    Keeps s0 (State.l1Clear s t) := by
  unfold State.l1Clear
  try dsimp only [State.fresh]
  repeat' first
    | with_reducible assumption
    | intro _
    | with_reducible apply keeps_modTile

theorem keeps_acquire {s0 : State} (s : State) (t : TileId) (scope : Nat) (hs : Keeps s0 s) :
    Keeps s0 (State.acquire s t scope) := by
  unfold State.acquire
  try dsimp only [State.fresh]
  repeat' first
    | with_reducible assumption
    | intro _
    | with_reducible apply keeps_l1Clear
    | with_reducible apply keeps_foldl
    | with_reducible apply keeps_ite

theorem keeps_noteLevel {s0 : State} (s : State) (j : Job) (hs : Keeps s0 s) :
    Keeps s0 (State.noteLevel s j) := by
  unfold State.noteLevel
  try dsimp only [State.fresh]
  repeat' first
    | with_reducible assumption
    | intro _
    | with_reducible apply keeps_modRegion
    | with_reducible apply keeps_foldl
    | with_reducible apply keeps_ite

theorem keeps_mkParts {s0 : State} (s : State) (a : Access) (serial : Nat) (slot : Nat) (hs : Keeps s0 s) :
    KeepsSnd s0 (State.mkParts s a serial slot) := by
  unfold State.mkParts
  refine keeps_foldlSnd ?_ (fun p q hp => ?_)
  · exact keeps_noteLevel _ _ (keeps_mk hs keeps_wf keeps_wf)
  · dsimp only
    apply keeps_ite
    · exact keeps_modTile _ _ _ hp
    · exact hp

theorem keeps_watchFault {s0 : State} (s : State) (a : Access) (line : Nat) (hs : Keeps s0 s) :
    Keeps s0 (State.watchFault s a line) := by
  unfold State.watchFault
  try dsimp only [State.fresh]
  repeat' first
    | with_reducible assumption
    | intro _
    | with_reducible apply keeps_modTile
    | with_reducible apply keeps_raiseFault

theorem keeps_agqNote {s0 : State} (s : State) (t : TileId) (bit : Nat) (hs : Keeps s0 s) :
    Keeps s0 (State.agqNote s t bit) := by
  unfold State.agqNote
  try dsimp only [State.fresh]
  repeat' first
    | with_reducible assumption
    | intro _
    | with_reducible apply keeps_modTile

theorem keeps_countParts {s0 : State} (s : State) (fi : Firing) (typ : BitVec 8) (n : Nat) (hs : Keeps s0 s) :
    Keeps s0 (State.countParts s fi typ n) := by
  unfold State.countParts
  try dsimp only [State.fresh]
  repeat' first
    | with_reducible assumption
    | intro _
    | with_reducible apply keeps_dieSent
    | with_reducible apply keeps_foldl
    | with_reducible apply keeps_ite

theorem keeps_issueSlot {s0 : State} (s : State) (a : Access) (kind : ReplyKind) (slot : Nat) (hs : Keeps s0 s) :
    Keeps s0 (State.issueSlot s a kind slot) := by
  unfold State.issueSlot
  try dsimp only [State.fresh]
  repeat' first
    | with_reducible assumption
    | intro _
    | with_reducible apply keeps_countParts
    | with_reducible apply keeps_due
    | with_reducible apply keeps_mkParts
    | with_reducible apply keeps_modTile
    | with_reducible apply keeps_foldl
    | with_reducible apply keeps_ite
    | with_reducible apply keeps_getD
    | refine keeps_of_snd ?_ (by with_reducible assumption)
    | with_reducible apply Memory.wf_set
    | with_reducible apply Memory.wf_setN
    | with_reducible apply keeps_wf
    | split
    | with_reducible refine keeps_mk ?_ ?_ ?_

theorem keeps_issueStore {s0 : State} (s : State) (a : Access) (hs : Keeps s0 s) :
    Keeps s0 (State.issueStore s a) := by
  unfold State.issueStore
  try dsimp only [State.fresh]
  repeat' first
    | with_reducible assumption
    | intro _
    | with_reducible apply keeps_countParts
    | with_reducible apply keeps_due
    | with_reducible apply keeps_mkParts
    | with_reducible apply keeps_modTile
    | with_reducible apply keeps_foldl
    | with_reducible apply keeps_ite
    | with_reducible apply keeps_getD
    | refine keeps_of_snd ?_ (by with_reducible assumption)
    | with_reducible apply Memory.wf_set
    | with_reducible apply Memory.wf_setN
    | with_reducible apply keeps_wf
    | split
    | with_reducible refine keeps_mk ?_ ?_ ?_

theorem keeps_startSlot {s0 : State} (s : State) (a : Access) (kind : ReplyKind) (hs : Keeps s0 s) :
    Keeps s0 (State.startSlot s a kind) := by
  unfold State.startSlot
  try dsimp only [State.fresh]
  repeat' first
    | with_reducible assumption
    | intro _
    | with_reducible apply keeps_agqNote
    | with_reducible apply keeps_issueSlot
    | with_reducible apply keeps_offerAgain
    | with_reducible apply keeps_watchFault
    | with_reducible apply keeps_foldl
    | with_reducible apply keeps_ite
    | with_reducible apply keeps_getD
    | with_reducible apply Memory.wf_set
    | with_reducible apply Memory.wf_setN
    | with_reducible apply keeps_wf
    | split

theorem keeps_serialDone {s0 : State} (s : State) (t : TileId) (serial : Nat) (hs : Keeps s0 s) :
    Keeps s0 (State.serialDone s t serial) := by
  unfold State.serialDone
  try dsimp only [State.fresh]
  repeat' first
    | with_reducible assumption
    | intro _
    | with_reducible apply keeps_due
    | with_reducible apply keeps_modTile
    | with_reducible apply keeps_foldl
    | with_reducible apply keeps_ite

theorem keeps_strike {s0 : State} (s : State) (serial : Nat) (part : Nat) (posted : Bool) (seen : Bool) (hs : Keeps s0 s) :
    Keeps s0 (State.strike s serial part posted seen) := by
  unfold State.strike
  try dsimp only [State.fresh]
  repeat' first
    | with_reducible assumption
    | intro _
    | with_reducible apply keeps_due
    | with_reducible apply keeps_emitBoth
    | with_reducible apply keeps_modTile
    | with_reducible apply keeps_serialDone
    | with_reducible apply keeps_settle
    | with_reducible apply keeps_foldl
    | with_reducible apply keeps_ite
    | with_reducible apply keeps_getD
    | with_reducible apply Memory.wf_set
    | with_reducible apply Memory.wf_setN
    | with_reducible apply keeps_wf
    | split

theorem keeps_freeReply {s0 : State} (s : State) (t : TileId) (slot : Nat) (hs : Keeps s0 s) :
    Keeps s0 (State.freeReply s t slot) := by
  unfold State.freeReply
  try dsimp only [State.fresh]
  repeat' first
    | with_reducible assumption
    | intro _
    | with_reducible apply keeps_modTile

theorem keeps_replyFault {s0 : State} (s : State) (t : TileId) (slot : Nat) (code : Nat) (addr : Nat) (die : Nat) (unmapped : Bool) (hs : Keeps s0 s) :
    Keeps s0 (State.replyFault s t slot code addr die unmapped) := by
  unfold State.replyFault
  try dsimp only [State.fresh]
  repeat' first
    | with_reducible assumption
    | intro _
    | with_reducible apply keeps_consume
    | with_reducible apply keeps_freeReply
    | with_reducible apply keeps_modIsland
    | with_reducible apply keeps_modTile
    | with_reducible apply keeps_raiseFault
    | with_reducible apply keeps_serialDone
    | with_reducible apply keeps_unmapped
    | with_reducible apply keeps_foldl
    | with_reducible apply keeps_ite
    | with_reducible apply keeps_getD
    | with_reducible apply Memory.wf_set
    | with_reducible apply Memory.wf_setN
    | with_reducible apply keeps_wf
    | split

theorem keeps_emitPkt {s0 : State} (s : State) (d : Nat) (p : Packet) (hs : Keeps s0 s) :
    Keeps s0 (State.emitPkt s d p) := by
  unfold State.emitPkt
  try dsimp only [State.fresh]
  repeat' first
    | with_reducible assumption
    | intro _
    | with_reducible apply keeps_post
    | with_reducible apply keeps_foldl
    | with_reducible apply keeps_ite
    | with_reducible apply keeps_getD
    | with_reducible apply Memory.wf_set
    | with_reducible apply Memory.wf_setN
    | with_reducible apply keeps_wf
    | split

theorem keeps_sendPart {s0 : State} (s : State) (t : TileId) (p : Part) (hs : Keeps s0 s) :
    Keeps s0 (State.sendPart s t p) := by
  unfold State.sendPart
  try dsimp only [State.fresh]
  repeat' first
    | with_reducible assumption
    | intro _
    | with_reducible apply keeps_due
    | with_reducible apply keeps_emitPkt
    | with_reducible apply keeps_l1Drop
    | with_reducible apply keeps_l1Patch
    | with_reducible apply keeps_post
    | with_reducible apply keeps_strike
    | with_reducible apply keeps_foldl
    | with_reducible apply keeps_ite
    | with_reducible apply keeps_getD
    | with_reducible apply Memory.wf_set
    | with_reducible apply Memory.wf_setN
    | with_reducible apply keeps_wf
    | split

theorem keeps_portStep {s0 : State} (s : State) (t : TileId) (hs : Keeps s0 s) :
    Keeps s0 (State.portStep s t) := by
  unfold State.portStep
  try dsimp only [State.fresh]
  repeat' first
    | with_reducible assumption
    | intro _
    | with_reducible apply keeps_due
    | with_reducible apply keeps_modTile
    | with_reducible apply keeps_sendPart
    | with_reducible apply keeps_foldl
    | with_reducible apply keeps_ite
    | with_reducible apply keeps_getD
    | with_reducible apply Memory.wf_set
    | with_reducible apply Memory.wf_setN
    | with_reducible apply keeps_wf
    | split

theorem keeps_writePkt {s0 : State} (s : State) (d : Nat) (p : Packet) (key : Nat) (bs : Bytes) (hs : Keeps s0 s) :
    Keeps s0 (State.writePkt s d p key bs) := by
  unfold State.writePkt
  try dsimp only [State.fresh]
  repeat' first
    | with_reducible assumption
    | intro _
    | with_reducible apply keeps_modCd
    | with_reducible apply keeps_noteWrite
    | with_reducible apply keeps_foldl
    | with_reducible apply keeps_ite
    | with_reducible apply keeps_getD
    | with_reducible apply Memory.wf_set
    | with_reducible apply Memory.wf_setN
    | with_reducible apply keeps_wf
    | split
    | with_reducible refine keeps_mk ?_ ?_ ?_

theorem keeps_noteAccess {s0 : State} (s : State) (d : Nat) (p : Packet) (hs : Keeps s0 s) :
    KeepsSnd s0 (State.noteAccess s d p) := by
  unfold State.noteAccess
  try dsimp only [State.fresh]
  repeat' first
    | with_reducible assumption
    | intro _
    | with_reducible apply keeps_modCd
    | with_reducible apply keeps_foldl
    | with_reducible apply keeps_ite
    | with_reducible apply keeps_getD
    | with_reducible apply keeps_iteSnd

theorem keeps_conflict {s0 : State} (s : State) (d : Nat) (p : Packet) (us : List Nat) (hs : Keeps s0 s) :
    Keeps s0 (State.conflict s d p us) := by
  unfold State.conflict
  try dsimp only [State.fresh]
  repeat' first
    | with_reducible assumption
    | intro _
    | with_reducible apply keeps_due
    | with_reducible apply keeps_modCd
    | with_reducible apply keeps_modCtx
    | with_reducible apply keeps_modDie
    | with_reducible apply keeps_setStatus
    | with_reducible apply keeps_foldl
    | with_reducible apply keeps_ite

theorem keeps_writeLevel {s0 : State} (s : State) (d : Nat) (p : Packet) (n : Nat) (hs : Keeps s0 s) :
    Keeps s0 (State.writeLevel s d p n) := by
  unfold State.writeLevel
  try dsimp only [State.fresh]
  repeat' first
    | with_reducible assumption
    | intro _
    | with_reducible apply keeps_modCd
    | with_reducible apply keeps_foldl
    | with_reducible apply keeps_ite

theorem keeps_atomGate {s0 : State} (s : State) (d : Nat) (p : Packet) (key : Nat) (hs : Keeps s0 s) :
    KeepsGate s0 (State.atomGate s d p key) := by
  unfold State.atomGate
  try dsimp only [State.fresh]
  repeat' first
    | with_reducible assumption
    | intro _
    | with_reducible apply keeps_logEvent
    | with_reducible apply keeps_modCd
    | with_reducible apply keeps_wait
    | with_reducible apply keeps_foldl
    | with_reducible apply keeps_ite
    | with_reducible apply keeps_getD
    | with_reducible apply keeps_goG
    | with_reducible apply keeps_waitG
    | with_reducible apply keeps_iteGate
    | with_reducible apply keeps_foldlGate
    | refine keeps_of_goG ?_ (by with_reducible assumption)
    | refine keeps_of_waitG ?_ (by with_reducible assumption)
    | with_reducible apply Memory.wf_set
    | with_reducible apply Memory.wf_setN
    | with_reducible apply keeps_wf
    | split

theorem keeps_answer {s0 : State} (s : State) (d : Nat) (p : Packet) (b : Bytes) (hs : Keeps s0 s) :
    Keeps s0 (State.answer s d p b) := by
  unfold State.answer
  try dsimp only [State.fresh]
  repeat' first
    | with_reducible assumption
    | intro _
    | with_reducible apply keeps_emitPkt
    | with_reducible apply keeps_post
    | with_reducible apply keeps_foldl
    | with_reducible apply keeps_ite

theorem keeps_barStore {s0 : State} (s : State) (d : Nat) (p : Packet) (key : Nat) (b : Bytes) (hs : Keeps s0 s) :
    Keeps s0 (State.barStore s d p key b) := by
  unfold State.barStore
  try dsimp only [State.fresh]
  repeat' first
    | with_reducible assumption
    | intro _
    | with_reducible apply keeps_answer
    | with_reducible apply keeps_done
    | with_reducible apply keeps_modDie
    | with_reducible apply keeps_writePkt
    | with_reducible apply keeps_foldl
    | with_reducible apply keeps_ite

theorem keeps_writeDone {s0 : State} (s : State) (d : Nat) (p : Packet) (n : Nat) (hs : Keeps s0 s) :
    Keeps s0 (State.writeDone s d p n) := by
  unfold State.writeDone
  try dsimp only [State.fresh]
  repeat' first
    | with_reducible assumption
    | intro _
    | with_reducible apply keeps_dieRecv
    | with_reducible apply keeps_dieSent
    | with_reducible apply keeps_emitPkt
    | with_reducible apply keeps_strike
    | with_reducible apply keeps_foldl
    | with_reducible apply keeps_ite

theorem keeps_soDone {s0 : State} (s : State) (d : Nat) (p : Packet) (hs : Keeps s0 s) :
    Keeps s0 (State.soDone s d p) := by
  unfold State.soDone
  try dsimp only [State.fresh]
  repeat' first
    | with_reducible assumption
    | intro _
    | with_reducible apply keeps_modDie
    | with_reducible apply keeps_foldl
    | with_reducible apply keeps_ite
    | with_reducible apply keeps_getD
    | with_reducible apply Memory.wf_set
    | with_reducible apply Memory.wf_setN
    | with_reducible apply keeps_wf
    | split

theorem keeps_unmapped {s0 : State} (s : State) (d : Nat) (p : Packet) (hs : Keeps s0 s) :
    Keeps s0 (State.unmapped s d p) := by
  unfold State.unmapped
  try dsimp only [State.fresh]
  repeat' first
    | with_reducible assumption
    | intro _
    | with_reducible apply keeps_dieRecv
    | with_reducible apply keeps_emitPkt
    | with_reducible apply keeps_raiseFault
    | with_reducible apply keeps_remoteFault
    | with_reducible apply keeps_soDone
    | with_reducible apply keeps_strike
    | with_reducible apply keeps_foldl
    | with_reducible apply keeps_ite
    | with_reducible apply keeps_getD
    | with_reducible apply Memory.wf_set
    | with_reducible apply Memory.wf_setN
    | with_reducible apply keeps_wf
    | split

theorem keeps_joinGate {s0 : State} (s : State) (d : Nat) (p : Packet) (key : Nat) (hs : Keeps s0 s) :
    KeepsGate s0 (State.joinGate s d p key) := by
  unfold State.joinGate
  try dsimp only [State.fresh]
  repeat' first
    | with_reducible assumption
    | intro _
    | with_reducible apply keeps_logEvent

theorem keeps_stall {s0 : State} (s : State) (d : Nat) (p : Packet) (hs : Keeps s0 s) :
    Keeps s0 (State.stall s d p) := by
  unfold State.stall
  try dsimp only [State.fresh]
  repeat' first
    | with_reducible assumption
    | intro _
    | with_reducible apply keeps_modDie
    | with_reducible apply keeps_post
    | with_reducible apply keeps_foldl
    | with_reducible apply keeps_ite

theorem keeps_reqRecv {s0 : State} (s : State) (d : Nat) (p : Packet) (hs : Keeps s0 s) :
    Keeps s0 (State.reqRecv s d p) := by
  unfold State.reqRecv
  try dsimp only [State.fresh]
  repeat' first
    | with_reducible assumption
    | intro _
    | with_reducible apply keeps_dieRecv
    | with_reducible apply keeps_foldl
    | with_reducible apply keeps_ite

theorem keeps_performAt {s0 : State} (s : State) (d : Nat) (p : Packet) (key : Nat) (hs : Keeps s0 s) :
    Keeps s0 (State.performAt s d p key) := by
  unfold State.performAt
  try dsimp only [State.fresh]
  repeat' first
    | with_reducible assumption
    | intro _
    | with_reducible apply keeps_answer
    | with_reducible apply keeps_atomGate
    | with_reducible apply keeps_barStore
    | with_reducible apply keeps_emitPkt
    | with_reducible apply keeps_joinGate
    | with_reducible apply keeps_modDie
    | with_reducible apply keeps_reqRecv
    | with_reducible apply keeps_soDone
    | with_reducible apply keeps_stall
    | with_reducible apply keeps_wait
    | with_reducible apply keeps_writeDone
    | with_reducible apply keeps_writeLevel
    | with_reducible apply keeps_writePkt
    | with_reducible apply keeps_foldl
    | with_reducible apply keeps_ite
    | with_reducible apply keeps_getD
    | refine keeps_of_goG ?_ (by with_reducible assumption)
    | refine keeps_of_waitG ?_ (by with_reducible assumption)
    | with_reducible apply keeps_goG
    | with_reducible apply keeps_waitG
    | with_reducible apply keeps_iteGate
    | with_reducible apply keeps_foldlGate
    | with_reducible apply Memory.wf_set
    | with_reducible apply Memory.wf_setN
    | with_reducible apply keeps_wf
    | split

theorem keeps_ownerGo {s0 : State} (s : State) (d : Nat) (p : Packet) (key : Nat) (hs : Keeps s0 s) :
    Keeps s0 (State.ownerGo s d p key) := by
  unfold State.ownerGo
  try dsimp only [State.fresh]
  repeat' first
    | with_reducible assumption
    | intro _
    | with_reducible apply keeps_conflict
    | with_reducible apply keeps_due
    | with_reducible apply keeps_noteAccess
    | with_reducible apply keeps_performAt
    | with_reducible apply keeps_post
    | with_reducible apply keeps_foldl
    | with_reducible apply keeps_ite
    | with_reducible apply keeps_getD
    | refine keeps_of_snd ?_ (by with_reducible assumption)
    | with_reducible apply Memory.wf_set
    | with_reducible apply Memory.wf_setN
    | with_reducible apply keeps_wf
    | split

theorem keeps_ownerStep {s0 : State} (s : State) (d : Nat) (p : Packet) (hs : Keeps s0 s) :
    Keeps s0 (State.ownerStep s d p) := by
  unfold State.ownerStep
  try dsimp only [State.fresh]
  repeat' first
    | with_reducible assumption
    | intro _
    | with_reducible apply keeps_cstatUp
    | with_reducible apply keeps_ownerGo
    | with_reducible apply keeps_post
    | with_reducible apply keeps_unmapped
    | with_reducible apply keeps_foldl
    | with_reducible apply keeps_ite
    | with_reducible apply keeps_getD
    | with_reducible apply Memory.wf_set
    | with_reducible apply Memory.wf_setN
    | with_reducible apply keeps_wf
    | split

theorem keeps_tlbStep {s0 : State} (s : State) (d : Nat) (p : Packet) (hs : Keeps s0 s) :
    Keeps s0 (State.tlbStep s d p) := by
  unfold State.tlbStep
  try dsimp only [State.fresh]
  repeat' first
    | with_reducible assumption
    | intro _
    | with_reducible apply keeps_modDie
    | with_reducible apply keeps_ownerGo
    | with_reducible apply keeps_unmapped
    | with_reducible apply keeps_foldl
    | with_reducible apply keeps_ite
    | with_reducible apply keeps_getD
    | with_reducible apply Memory.wf_set
    | with_reducible apply Memory.wf_setN
    | with_reducible apply keeps_wf
    | split

theorem keeps_emitAll {s0 : State} (s : State) (j : Job) (g : Tag) (kind : Kind) (res : Bytes) (hs : Keeps s0 s) :
    Keeps s0 (State.emitAll s j g kind res) := by
  unfold State.emitAll
  try dsimp only [State.fresh]
  repeat' first
    | with_reducible assumption
    | intro _
    | with_reducible apply keeps_emitDone
    | with_reducible apply keeps_emitRes

theorem keeps_fireLoad {s0 : State} (major : Nat) (minor : Nat) (f : Fields) (s : State) (hs : Keeps s0 s) :
    Keeps s0 (fireLoad major minor f s) := by
  unfold fireLoad
  try dsimp only [State.fresh]
  repeat' first
    | with_reducible assumption
    | intro _
    | with_reducible apply keeps_consume
    | with_reducible apply keeps_emitBoth
    | with_reducible apply keeps_fire
    | with_reducible apply keeps_leaseFault
    | with_reducible apply keeps_startSlot
    | with_reducible apply keeps_foldl
    | with_reducible apply keeps_ite
    | with_reducible apply keeps_getD
    | with_reducible apply Memory.wf_set
    | with_reducible apply Memory.wf_setN
    | with_reducible apply keeps_wf
    | split

theorem keeps_fireLdpw {s0 : State} (f : Fields) (s : State) (hs : Keeps s0 s) :
    Keeps s0 (fireLdpw f s) := by
  unfold fireLdpw
  try dsimp only [State.fresh]
  repeat' first
    | with_reducible assumption
    | intro _
    | with_reducible apply keeps_consume
    | with_reducible apply keeps_emitBoth
    | with_reducible apply keeps_fire
    | with_reducible apply keeps_jobFault
    | with_reducible apply keeps_leaseFault
    | with_reducible apply keeps_setStatus
    | with_reducible apply keeps_startSlot
    | with_reducible apply keeps_foldl
    | with_reducible apply keeps_ite
    | with_reducible apply keeps_getD
    | with_reducible apply Memory.wf_set
    | with_reducible apply Memory.wf_setN
    | with_reducible apply keeps_wf
    | split

theorem keeps_fcClear {s0 : State} (s : State) (c : Nat) (d : Nat) (hs : Keeps s0 s) :
    Keeps s0 (State.fcClear s c d) := by
  unfold State.fcClear
  try dsimp only [State.fresh]
  repeat' first
    | with_reducible assumption
    | intro _
    | with_reducible apply keeps_modDie

theorem keeps_fireFcinv {s0 : State} (f : Fields) (s : State) (hs : Keeps s0 s) :
    Keeps s0 (fireFcinv f s) := by
  unfold fireFcinv
  try dsimp only [State.fresh]
  repeat' first
    | with_reducible assumption
    | intro _
    | with_reducible apply keeps_consume
    | with_reducible apply keeps_emitBoth
    | with_reducible apply keeps_fcClear
    | with_reducible apply keeps_fire
    | with_reducible apply keeps_foldl
    | with_reducible apply keeps_ite

theorem keeps_fireStore {s0 : State} (major : Nat) (minor : Nat) (f : Fields) (s : State) (hs : Keeps s0 s) :
    Keeps s0 (fireStore major minor f s) := by
  unfold fireStore
  try dsimp only [State.fresh]
  repeat' first
    | with_reducible assumption
    | intro _
    | with_reducible apply keeps_consume
    | with_reducible apply keeps_emitBoth
    | with_reducible apply keeps_fire
    | with_reducible apply keeps_hold
    | with_reducible apply keeps_leaseFault
    | with_reducible apply keeps_foldl
    | with_reducible apply keeps_ite
    | with_reducible apply keeps_getD
    | with_reducible apply Memory.wf_set
    | with_reducible apply Memory.wf_setN
    | with_reducible apply keeps_wf
    | split

theorem keeps_fireAtom {s0 : State} (minor : Nat) (op : AtomOp) (f : Fields) (s : State) (hs : Keeps s0 s) :
    Keeps s0 (fireAtom minor op f s) := by
  unfold fireAtom
  try dsimp only [State.fresh]
  repeat' first
    | with_reducible assumption
    | intro _
    | with_reducible apply keeps_fire
    | with_reducible apply keeps_leaseFault
    | with_reducible apply keeps_startSlot
    | with_reducible apply keeps_foldl
    | with_reducible apply keeps_ite
    | with_reducible apply keeps_getD
    | with_reducible apply Memory.wf_set
    | with_reducible apply Memory.wf_setN
    | with_reducible apply keeps_wf
    | split

theorem keeps_finishOrder {s0 : State} (s : State) (o : OrderWait) (hs : Keeps s0 s) :
    Keeps s0 (State.finishOrder s o) := by
  unfold State.finishOrder
  try dsimp only [State.fresh]
  repeat' first
    | with_reducible assumption
    | intro _
    | with_reducible apply keeps_acquire
    | with_reducible apply keeps_emitAll
    | with_reducible apply keeps_fcClear
    | with_reducible apply keeps_settle
    | with_reducible apply keeps_foldl
    | with_reducible apply keeps_ite

theorem keeps_fireOrder {s0 : State} (rel : Bool) (acq : Bool) (fence : Bool) (f : Fields) (s : State) (hs : Keeps s0 s) :
    Keeps s0 (fireOrder rel acq fence f s) := by
  unfold fireOrder
  try dsimp only [State.fresh]
  repeat' first
    | with_reducible assumption
    | intro _
    | with_reducible apply keeps_acquire
    | with_reducible apply keeps_consume
    | with_reducible apply keeps_finishOrder
    | with_reducible apply keeps_fire
    | with_reducible apply keeps_fireAcquiring
    | with_reducible apply keeps_modTile
    | with_reducible apply keeps_foldl
    | with_reducible apply keeps_ite
    | with_reducible apply keeps_getD
    | with_reducible apply Memory.wf_set
    | with_reducible apply Memory.wf_setN
    | with_reducible apply keeps_wf
    | split

theorem keeps_fireBar {s0 : State} (minor : Nat) (w : Bool) (f : Fields) (s : State) (hs : Keeps s0 s) :
    Keeps s0 (fireBar minor w f s) := by
  unfold fireBar
  try dsimp only [State.fresh]
  repeat' first
    | with_reducible assumption
    | intro _
    | with_reducible apply keeps_fire
    | with_reducible apply keeps_leaseFault
    | with_reducible apply keeps_startSlot
    | with_reducible apply keeps_foldl
    | with_reducible apply keeps_ite
    | with_reducible apply keeps_getD
    | with_reducible apply Memory.wf_set
    | with_reducible apply Memory.wf_setN
    | with_reducible apply keeps_wf
    | split

theorem keeps_fireXfer {s0 : State} (minor : Nat) (f : Fields) (s : State) (hs : Keeps s0 s) :
    Keeps s0 (fireXfer minor f s) := by
  unfold fireXfer
  try dsimp only [State.fresh]
  repeat' first
    | with_reducible assumption
    | intro _
    | with_reducible apply keeps_consume
    | with_reducible apply keeps_fire
    | with_reducible apply keeps_hold
    | with_reducible apply keeps_leaseFault
    | with_reducible apply keeps_foldl
    | with_reducible apply keeps_ite
    | with_reducible apply keeps_getD
    | with_reducible apply Memory.wf_set
    | with_reducible apply Memory.wf_setN
    | with_reducible apply keeps_wf
    | split

theorem keeps_handOff {s0 : State} (s : State) (c : CopyReq) (hs : Keeps s0 s) :
    Keeps s0 (State.handOff s c) := by
  unfold State.handOff
  try dsimp only [State.fresh]
  repeat' first
    | with_reducible assumption
    | intro _
    | with_reducible apply keeps_dieSent
    | with_reducible apply keeps_due
    | with_reducible apply keeps_modDie
    | with_reducible apply keeps_modTile
    | with_reducible apply keeps_noteLevel
    | with_reducible apply keeps_foldl
    | with_reducible apply keeps_ite
    | with_reducible apply keeps_getD
    | with_reducible apply Memory.wf_set
    | with_reducible apply Memory.wf_setN
    | with_reducible apply keeps_wf
    | split
    | with_reducible refine keeps_mk ?_ ?_ ?_

theorem keeps_setCopy {s0 : State} (s : State) (d : Nat) (k : Nat) (c : Option CopyReq) (hs : Keeps s0 s) :
    Keeps s0 (State.setCopy s d k c) := by
  unfold State.setCopy
  try dsimp only [State.fresh]
  repeat' first
    | with_reducible assumption
    | intro _
    | with_reducible apply keeps_modDie

theorem keeps_copyWrite {s0 : State} (s : State) (d : Nat) (k : Nat) (c : CopyReq) (dst : Nat) (bs : Bytes) (hs : Keeps s0 s) :
    Keeps s0 (State.copyWrite s d k c dst bs) := by
  unfold State.copyWrite
  try dsimp only [State.fresh]
  repeat' first
    | with_reducible assumption
    | intro _
    | with_reducible apply keeps_dieSent
    | with_reducible apply keeps_due
    | with_reducible apply keeps_emitPkt
    | with_reducible apply keeps_engineWrite
    | with_reducible apply keeps_modTile
    | with_reducible apply keeps_setCopy
    | with_reducible apply keeps_foldl
    | with_reducible apply keeps_ite
    | with_reducible apply keeps_getD
    | with_reducible apply Memory.wf_set
    | with_reducible apply Memory.wf_setN
    | with_reducible apply keeps_wf
    | split
    | with_reducible refine keeps_mk ?_ ?_ ?_

theorem keeps_streamStep {s0 : State} (s : State) (d : Nat) (k : Nat) (hs : Keeps s0 s) :
    Keeps s0 (State.streamStep s d k) := by
  unfold State.streamStep
  try dsimp only [State.fresh]
  repeat' first
    | with_reducible assumption
    | intro _
    | with_reducible apply keeps_copyWrite
    | with_reducible apply keeps_dieRecv
    | with_reducible apply keeps_due
    | with_reducible apply keeps_emitPkt
    | with_reducible apply keeps_modTile
    | with_reducible apply keeps_post
    | with_reducible apply keeps_setCopy
    | with_reducible apply keeps_strike
    | with_reducible apply keeps_foldl
    | with_reducible apply keeps_ite
    | with_reducible apply keeps_getD
    | with_reducible apply Memory.wf_set
    | with_reducible apply Memory.wf_setN
    | with_reducible apply keeps_wf
    | split
    | with_reducible refine keeps_mk ?_ ?_ ?_

theorem keeps_streamReply {s0 : State} (s : State) (d : Nat) (k : Nat) (p : Packet) (hs : Keeps s0 s) :
    Keeps s0 (State.streamReply s d k p) := by
  unfold State.streamReply
  try dsimp only [State.fresh]
  repeat' first
    | with_reducible assumption
    | intro _
    | with_reducible apply keeps_copyWrite
    | with_reducible apply keeps_due
    | with_reducible apply keeps_post
    | with_reducible apply keeps_raiseFault
    | with_reducible apply keeps_remoteFault
    | with_reducible apply keeps_setCopy
    | with_reducible apply keeps_foldl
    | with_reducible apply keeps_ite
    | with_reducible apply keeps_getD
    | with_reducible apply Memory.wf_set
    | with_reducible apply Memory.wf_setN
    | with_reducible apply keeps_wf
    | split

theorem keeps_install {s0 : State} (s : State) (t : TileId) (r : Reply) (p : Packet) (bs : Bytes) (hs : Keeps s0 s) :
    Keeps s0 (State.install s t r p bs) := by
  unfold State.install
  try dsimp only [State.fresh]
  repeat' first
    | with_reducible assumption
    | intro _
    | with_reducible apply keeps_l1Put
    | with_reducible apply keeps_modDie
    | with_reducible apply keeps_modTile
    | with_reducible apply keeps_foldl
    | with_reducible apply keeps_ite

theorem keeps_weightsHere {s0 : State} (s : State) (t : TileId) (slot : Nat) (r : Reply) (lead : Nat) (hs : Keeps s0 s) :
    Keeps s0 (State.weightsHere s t slot r lead) := by
  unfold State.weightsHere
  try dsimp only [State.fresh]
  repeat' first
    | with_reducible assumption
    | intro _
    | with_reducible apply keeps_due
    | with_reducible apply keeps_modIsland
    | with_reducible apply keeps_modTile

theorem keeps_finishReply {s0 : State} (s : State) (t : TileId) (slot : Nat) (r : Reply) (hs : Keeps s0 s) :
    Keeps s0 (State.finishReply s t slot r) := by
  unfold State.finishReply
  try dsimp only [State.fresh]
  repeat' first
    | with_reducible assumption
    | intro _
    | with_reducible apply keeps_acquire
    | with_reducible apply keeps_consume
    | with_reducible apply keeps_emitAll
    | with_reducible apply keeps_freeReply
    | with_reducible apply keeps_serialDone
    | with_reducible apply keeps_settle
    | with_reducible apply keeps_weightsHere
    | with_reducible apply keeps_foldl
    | with_reducible apply keeps_ite
    | with_reducible apply keeps_getD
    | with_reducible apply Memory.wf_set
    | with_reducible apply Memory.wf_setN
    | with_reducible apply keeps_wf
    | split

theorem keeps_replyStep {s0 : State} (s : State) (p : Packet) (hs : Keeps s0 s) :
    Keeps s0 (State.replyStep s p) := by
  unfold State.replyStep
  try dsimp only [State.fresh]
  repeat' first
    | with_reducible assumption
    | intro _
    | with_reducible apply keeps_agqNote
    | with_reducible apply keeps_askBoundary
    | with_reducible apply keeps_due
    | with_reducible apply keeps_finishReply
    | with_reducible apply keeps_install
    | with_reducible apply keeps_modDie
    | with_reducible apply keeps_modTile
    | with_reducible apply keeps_post
    | with_reducible apply keeps_raiseFault
    | with_reducible apply keeps_remoteFault
    | with_reducible apply keeps_replyFault
    | with_reducible apply keeps_streamReply
    | with_reducible apply keeps_foldl
    | with_reducible apply keeps_ite
    | with_reducible apply keeps_getD
    | with_reducible apply Memory.wf_set
    | with_reducible apply Memory.wf_setN
    | with_reducible apply keeps_wf
    | split

theorem keeps_fireIalu {s0 : State} (op : IOp) (f : Fields) (s : State) (hs : Keeps s0 s) :
    Keeps s0 (fireIalu op f s) := by
  unfold fireIalu
  try dsimp only [State.fresh]
  repeat' first
    | with_reducible assumption
    | intro _
    | with_reducible apply keeps_fireValue

theorem keeps_fireIalu1 {s0 : State} (op : IOp) (f : Fields) (s : State) (hs : Keeps s0 s) :
    Keeps s0 (fireIalu1 op f s) := by
  unfold fireIalu1
  try dsimp only [State.fresh]
  repeat' first
    | with_reducible assumption
    | intro _
    | with_reducible apply keeps_fireValue

theorem keeps_fireIcmp {s0 : State} (op : ICmp) (f : Fields) (s : State) (hs : Keeps s0 s) :
    Keeps s0 (fireIcmp op f s) := by
  unfold fireIcmp
  try dsimp only [State.fresh]
  repeat' first
    | with_reducible assumption
    | intro _
    | with_reducible apply keeps_fireValue

theorem keeps_fireFma {s0 : State} (negP : Bool) (negC : Bool) (f : Fields) (s : State) (hs : Keeps s0 s) :
    Keeps s0 (fireFma negP negC f s) := by
  unfold fireFma
  try dsimp only [State.fresh]
  repeat' first
    | with_reducible assumption
    | intro _
    | with_reducible apply keeps_fireValue

theorem keeps_fireDot {s0 : State} (acc : Bool) (f : Fields) (s : State) (hs : Keeps s0 s) :
    Keeps s0 (fireDot acc f s) := by
  unfold fireDot
  try dsimp only [State.fresh]
  repeat' first
    | with_reducible assumption
    | intro _
    | with_reducible apply keeps_fireValue

theorem keeps_fireFarith {s0 : State} (op : FOp) (f : Fields) (s : State) (hs : Keeps s0 s) :
    Keeps s0 (fireFarith op f s) := by
  unfold fireFarith
  try dsimp only [State.fresh]
  repeat' first
    | with_reducible assumption
    | intro _
    | with_reducible apply keeps_fireValue

theorem keeps_fireFarith1 {s0 : State} (op : FOp) (f : Fields) (s : State) (hs : Keeps s0 s) :
    Keeps s0 (fireFarith1 op f s) := by
  unfold fireFarith1
  try dsimp only [State.fresh]
  repeat' first
    | with_reducible assumption
    | intro _
    | with_reducible apply keeps_fireValue

theorem keeps_fireSpecial {s0 : State} (g : FVal → FVal) (f : Fields) (s : State) (hs : Keeps s0 s) :
    Keeps s0 (fireSpecial g f s) := by
  unfold fireSpecial
  try dsimp only [State.fresh]
  repeat' first
    | with_reducible assumption
    | intro _
    | with_reducible apply keeps_fireValue

theorem keeps_fireRed {s0 : State} (op : ROp) (f : Fields) (s : State) (hs : Keeps s0 s) :
    Keeps s0 (fireRed op f s) := by
  unfold fireRed
  try dsimp only [State.fresh]
  repeat' first
    | with_reducible assumption
    | intro _
    | with_reducible apply keeps_fireValue

theorem keeps_firePerm {s0 : State} (op : POp) (f : Fields) (s : State) (hs : Keeps s0 s) :
    Keeps s0 (firePerm op f s) := by
  unfold firePerm
  try dsimp only [State.fresh]
  repeat' first
    | with_reducible assumption
    | intro _
    | with_reducible apply keeps_consume
    | with_reducible apply keeps_emit2
    | with_reducible apply keeps_fire
    | with_reducible apply keeps_regLater
    | with_reducible apply keeps_foldl
    | with_reducible apply keeps_ite

theorem keeps_dropRange {s0 : State} (s : State) (t : TileId) (a : Nat) (n : Nat) (hs : Keeps s0 s) :
    Keeps s0 (State.dropRange s t a n) := by
  unfold State.dropRange
  try dsimp only [State.fresh]
  repeat' first
    | with_reducible assumption
    | intro _
    | with_reducible apply keeps_modTile
    | with_reducible apply keeps_foldl

theorem keeps_dropFabric {s0 : State} (s : State) (c : Nat) (d : Nat) (a : Nat) (n : Nat) (hs : Keeps s0 s) :
    Keeps s0 (State.dropFabric s c d a n) := by
  unfold State.dropFabric
  try dsimp only [State.fresh]
  repeat' first
    | with_reducible assumption
    | intro _
    | with_reducible apply keeps_modDie

theorem keeps_dropLines {s0 : State} (s : State) (c : Nat) (ts : List TileId) (a : Nat) (n : Nat) (hs : Keeps s0 s) :
    Keeps s0 (State.dropLines s c ts a n) := by
  unfold State.dropLines
  try dsimp only [State.fresh]
  repeat' first
    | with_reducible assumption
    | intro _
    | with_reducible apply keeps_dropFabric
    | with_reducible apply keeps_dropRange
    | with_reducible apply keeps_foldl

theorem keeps_inject {s0 : State} (s : State) (mine : Packet → Bool) (o : DrainOp) (hs : Keeps s0 s) :
    Keeps s0 (State.inject s mine o) := by
  unfold State.inject
  try dsimp only [State.fresh]
  repeat' first
    | with_reducible assumption
    | intro _
    | with_reducible apply keeps_post
    | with_reducible apply keeps_foldl
    | with_reducible apply keeps_ite
    | with_reducible apply keeps_getD
    | with_reducible apply Memory.wf_set
    | with_reducible apply Memory.wf_setN
    | with_reducible apply keeps_wf
    | split
    | with_reducible refine keeps_mk ?_ ?_ ?_

theorem keeps_modPages {s0 : State} (s : State) (c : Nat) (a : Nat) (n : Nat) (g : PageMap → BitVec 64) (hs : Keeps s0 s) :
    Keeps s0 (State.modPages s c a n g) := by
  unfold State.modPages
  try dsimp only [State.fresh]
  repeat' first
    | with_reducible assumption
    | intro _
    | with_reducible apply keeps_modCd
    | with_reducible apply keeps_foldl
    | with_reducible apply keeps_ite

theorem keeps_repin {s0 : State} (s : State) (c : Nat) (d : Nat) (hs : Keeps s0 s) :
    Keeps s0 (State.repin s c d) := by
  unfold State.repin
  try dsimp only [State.fresh]
  repeat' first
    | with_reducible assumption
    | intro _
    | with_reducible apply keeps_modCd

theorem keeps_pinRange {s0 : State} (s : State) (c : Nat) (a : Nat) (n : Nat) (hs : Keeps s0 s) :
    KeepsSnd s0 (State.pinRange s c a n) := by
  unfold State.pinRange
  try dsimp only [State.fresh]
  repeat' first
    | with_reducible assumption
    | intro _
    | with_reducible apply keeps_modCd
    | with_reducible apply keeps_repin
    | with_reducible apply keeps_foldl
    | with_reducible apply keeps_ite
    | with_reducible apply keeps_getD
    | with_reducible apply keeps_iteSnd

theorem keeps_unpinRange {s0 : State} (s : State) (c : Nat) (a : Nat) (n : Nat) (hs : Keeps s0 s) :
    KeepsSnd s0 (State.unpinRange s c a n) := by
  unfold State.unpinRange
  try dsimp only [State.fresh]
  repeat' first
    | with_reducible assumption
    | intro _
    | with_reducible apply keeps_modCd
    | with_reducible apply keeps_repin
    | with_reducible apply keeps_foldl
    | with_reducible apply keeps_ite
    | with_reducible apply keeps_getD
    | with_reducible apply keeps_iteSnd

theorem keeps_holdSlot {s0 : State} (s : State) (j : Job) (minor : Nat) (slot : Nat) (serial : Nat) (kind : ReplyKind) (hs : Keeps s0 s) :
    Keeps s0 (State.holdSlot s j minor slot serial kind) := by
  unfold State.holdSlot
  try dsimp only [State.fresh]
  repeat' first
    | with_reducible assumption
    | intro _
    | with_reducible apply keeps_modTile

theorem keeps_emitStatus {s0 : State} (s : State) (j : Job) (st : Nat) (hs : Keeps s0 s) :
    Keeps s0 (State.emitStatus s j st) := by
  unfold State.emitStatus
  try dsimp only [State.fresh]
  repeat' first
    | with_reducible assumption
    | intro _
    | with_reducible apply keeps_consume
    | with_reducible apply keeps_emitBoth

theorem keeps_fireAspace {s0 : State} (minor : Nat) (w : Bool) (f : Fields) (go : Job → State → Nat → Nat → Nat → State) (s : State) (hgo : ∀ x0 x1 x2 x3 x4, Keeps s0 x1 → Keeps s0 (go x0 x1 x2 x3 x4)) (hs : Keeps s0 s) :
    Keeps s0 (fireAspace minor w f go s) := by
  unfold fireAspace
  try dsimp only [State.fresh]
  repeat' first
    | with_reducible assumption
    | intro _
    | with_reducible apply keeps_agqNote
    | with_reducible apply keeps_fire
    | with_reducible apply keeps_holdSlot
    | with_reducible apply keeps_leaseFault
    | with_reducible apply keeps_offerAgain
    | apply hgo
    | with_reducible apply keeps_foldl
    | with_reducible apply keeps_ite
    | with_reducible apply keeps_getD
    | with_reducible apply Memory.wf_set
    | with_reducible apply Memory.wf_setN
    | with_reducible apply keeps_wf
    | split

theorem keeps_aspaceDrain {s0 : State} (s : State) (j : Job) (minor : Nat) (a : Nat) (n : Nat) (slot : Nat) (kindTo : Option Nat) (hs : Keeps s0 s) :
    Keeps s0 (State.aspaceDrain s j minor a n slot kindTo) := by
  unfold State.aspaceDrain
  try dsimp only [State.fresh]
  repeat' first
    | with_reducible assumption
    | intro _
    | with_reducible apply keeps_dropLines
    | with_reducible apply keeps_holdSlot
    | with_reducible apply keeps_inject
    | with_reducible apply keeps_foldl
    | with_reducible apply keeps_ite
    | with_reducible apply keeps_getD
    | with_reducible apply Memory.wf_set
    | with_reducible apply Memory.wf_setN
    | with_reducible apply keeps_wf
    | split
    | with_reducible refine keeps_mk ?_ ?_ ?_

theorem keeps_aspaceArrived {s0 : State} (s : State) (o : DrainOp) (j : Job) (hs : Keeps s0 s) :
    Keeps s0 (State.aspaceArrived s o j) := by
  unfold State.aspaceArrived
  try dsimp only [State.fresh]
  repeat' first
    | with_reducible assumption
    | intro _
    | with_reducible apply keeps_consume
    | with_reducible apply keeps_emitAll
    | with_reducible apply keeps_freeReply
    | with_reducible apply keeps_modPages
    | with_reducible apply keeps_modTile
    | with_reducible apply keeps_serialDone
    | with_reducible apply keeps_settle
    | with_reducible apply keeps_foldl
    | with_reducible apply keeps_ite
    | with_reducible apply keeps_getD
    | with_reducible apply Memory.wf_set
    | with_reducible apply Memory.wf_setN
    | with_reducible apply keeps_wf
    | split

theorem keeps_takeIn {s0 : State} (s : State) (t : TileId) (slot : Nat) (outside : Bool) (trap : Bool) (inst : Nat) (p : Place) (tok : Token) (hs : Keeps s0 s) :
    KeepsOptSnd s0 (State.takeIn s t slot outside trap inst p tok) := by
  unfold State.takeIn
  try dsimp only [State.fresh]
  repeat' first
    | with_reducible assumption
    | intro _
    | with_reducible apply keeps_modTile
    | with_reducible apply keeps_foldl
    | with_reducible apply keeps_ite
    | with_reducible apply keeps_getD
    | with_reducible apply keeps_someSnd
    | with_reducible exact keeps_noneSnd
    | with_reducible apply Memory.wf_set
    | with_reducible apply Memory.wf_setN
    | with_reducible apply keeps_wf
    | split
    | with_reducible refine keeps_mk ?_ ?_ ?_

theorem keeps_freeEntry {s0 : State} (s : State) (t : TileId) (e : Entry) (hs : Keeps s0 s) :
    Keeps s0 (State.freeEntry s t e) := by
  unfold State.freeEntry
  try dsimp only [State.fresh]
  repeat' first
    | with_reducible assumption
    | intro _
    | with_reducible apply keeps_due
    | with_reducible apply keeps_modTile
    | with_reducible apply keeps_foldl
    | with_reducible apply keeps_ite

theorem keeps_noteStore {s0 : State} (s : State) (t : TileId) (dup : Bool) (hs : Keeps s0 s) :
    Keeps s0 (State.noteStore s t dup) := by
  unfold State.noteStore
  try dsimp only [State.fresh]
  repeat' first
    | with_reducible assumption
    | intro _
    | with_reducible apply keeps_modTile
    | with_reducible apply keeps_setStatus
    | with_reducible apply keeps_foldl
    | with_reducible apply keeps_ite

theorem keeps_spillWrite {s0 : State} (s : State) (a : Arrival) (hs : Keeps s0 s) :
    Keeps s0 (State.spillWrite s a) := by
  unfold State.spillWrite
  try dsimp only [State.fresh]
  repeat' first
    | with_reducible assumption
    | intro _
    | with_reducible apply keeps_modTile
    | with_reducible apply keeps_raiseFault
    | with_reducible apply keeps_spillCopy
    | with_reducible apply keeps_writeByte
    | with_reducible apply keeps_writeVa
    | with_reducible apply keeps_foldl
    | with_reducible apply keeps_ite
    | with_reducible apply keeps_getD
    | with_reducible apply Memory.wf_set
    | with_reducible apply Memory.wf_setN
    | with_reducible apply keeps_wf
    | split

theorem keeps_buffer {s0 : State} (s : State) (a : Arrival) (out : Bool) (hs : Keeps s0 s) :
    Keeps s0 (State.buffer s a out) := by
  unfold State.buffer
  try dsimp only [State.fresh]
  repeat' first
    | with_reducible assumption
    | intro _
    | with_reducible apply keeps_due
    | with_reducible apply keeps_modTile

theorem keeps_takeSpilled {s0 : State} (s : State) (t : TileId) (p : Spilled) (hs : Keeps s0 s) :
    KeepsSnd s0 (State.takeSpilled s t p) := by
  unfold State.takeSpilled
  try dsimp only [State.fresh]
  repeat' first
    | with_reducible assumption
    | intro _
    | with_reducible apply keeps_modTile
    | with_reducible apply keeps_spillCopy
    | with_reducible apply keeps_writeByte
    | with_reducible apply keeps_foldl
    | with_reducible apply keeps_ite
    | with_reducible apply keeps_getD
    | with_reducible apply keeps_iteSnd
    | with_reducible apply keeps_foldlSnd
    | with_reducible apply Memory.wf_set
    | with_reducible apply Memory.wf_setN
    | with_reducible apply keeps_wf
    | split

theorem keeps_occupy {s0 : State} (s : State) (a : Arrival) (inst : Nat) (countDup : Bool) (hs : Keeps s0 s) :
    Keeps s0 (State.occupy s a inst countDup) := by
  unfold State.occupy
  try dsimp only [State.fresh]
  repeat' first
    | with_reducible assumption
    | intro _
    | with_reducible apply keeps_buffer
    | with_reducible apply keeps_modTile
    | with_reducible apply keeps_noteStore
    | with_reducible apply keeps_place
    | with_reducible apply keeps_foldl
    | with_reducible apply keeps_ite

theorem keeps_putEntry {s0 : State} (s : State) (t : TileId) (e : Entry) (new : Option Entry) (hs : Keeps s0 s) :
    Keeps s0 (State.putEntry s t e new) := by
  unfold State.putEntry
  try dsimp only [State.fresh]
  repeat' first
    | with_reducible assumption
    | intro _
    | with_reducible apply keeps_freeEntry
    | with_reducible apply keeps_modTile
    | with_reducible apply keeps_foldl
    | with_reducible apply keeps_ite
    | with_reducible apply keeps_getD
    | with_reducible apply Memory.wf_set
    | with_reducible apply Memory.wf_setN
    | with_reducible apply keeps_wf
    | split

theorem keeps_joinSet {s0 : State} (s : State) (t : TileId) (slot : Nat) (inst : Nat) (p : Place) (a : Token) (b : Option Entry) (n : Nat) (hs : Keeps s0 s) :
    Keeps s0 (State.joinSet s t slot inst p a b n) := by
  unfold State.joinSet
  try dsimp only [State.fresh]
  repeat' first
    | with_reducible assumption
    | intro _
    | with_reducible apply keeps_deliverSet

theorem keeps_joinLoop {s0 : State} (s : State) (t : TileId) (slot : Nat) (p : Place) (g : Tag) (n : Nat) (hs : Keeps s0 s) :
    Keeps s0 (State.joinLoop s t slot p g n) := by
  induction n generalizing s with
  | zero => exact hs
  | succ n ih =>
    unfold State.joinLoop
    dsimp only
    split
    · exact hs
    · split
      · exact hs
      · refine ih _ (keeps_joinSet _ _ _ _ _ _ _ _ ?_)
        split
        · split
          · exact keeps_freeEntry _ _ _ hs
          · exact keeps_putEntry _ _ _ _ (keeps_freeEntry _ _ _ hs)
        · exact keeps_freeEntry _ _ _ hs

theorem keeps_countJoin {s0 : State} (s : State) (a : Arrival) (inst : Nat) (more : List (BitVec 8)) (hs : Keeps s0 s) :
    Keeps s0 (State.countJoin s a inst more) := by
  unfold State.countJoin
  try dsimp only [State.fresh]
  repeat' first
    | with_reducible assumption
    | intro _
    | with_reducible apply keeps_modTile
    | with_reducible apply keeps_occupy
    | with_reducible apply keeps_place
    | with_reducible apply keeps_putEntry
    | with_reducible apply keeps_foldl
    | with_reducible apply keeps_ite
    | with_reducible apply keeps_getD
    | with_reducible apply Memory.wf_set
    | with_reducible apply Memory.wf_setN
    | with_reducible apply keeps_wf
    | split

theorem keeps_placeJoin {s0 : State} (s : State) (a : Arrival) (slot : Nat) (inst : Nat) (more : List (BitVec 8)) (hs : Keeps s0 s) :
    Keeps s0 (State.placeJoin s a slot inst more) := by
  unfold State.placeJoin
  dsimp only
  split
  · split
    · exact keeps_foldl hs (fun _ _ ht => keeps_countRecv _ _ _ _ ht)
    · split
      · split
        · exact keeps_countJoin _ _ _ _ hs
        · refine keeps_joinLoop _ _ _ _ _ _ ?_
          split
          · exact keeps_countJoin _ _ _ _ (keeps_joinSet _ _ _ _ _ _ _ _ (keeps_freeEntry _ _ _ hs))
          · exact keeps_joinSet _ _ _ _ _ _ _ _ (keeps_freeEntry _ _ _ hs)
      · exact keeps_joinLoop _ _ _ _ _ _ (keeps_countJoin _ _ _ _ hs)
  · split
    · exact keeps_occupy _ _ _ _ hs
    · refine keeps_joinSet _ _ _ _ _ _ _ _ ?_
      split
      · split
        · exact hs
        · exact keeps_putEntry _ _ _ _ hs
      · exact hs

theorem keeps_placeIn {s0 : State} (s : State) (a : Arrival) (slot : Nat) (inst : Nat) (more : List (BitVec 8)) (hs : Keeps s0 s) :
    Keeps s0 (State.placeIn s a slot inst more) := by
  unfold State.placeIn
  try dsimp only [State.fresh]
  repeat' first
    | with_reducible assumption
    | intro _
    | with_reducible apply keeps_deliverSet
    | with_reducible apply keeps_freeEntry
    | with_reducible apply keeps_occupy
    | with_reducible apply keeps_place
    | with_reducible apply keeps_placeJoin
    | with_reducible apply keeps_foldl
    | with_reducible apply keeps_ite
    | with_reducible apply keeps_getD
    | with_reducible apply Memory.wf_set
    | with_reducible apply Memory.wf_setN
    | with_reducible apply keeps_wf
    | split

theorem keeps_wait {s0 : State} (s : State) (a : Arrival) (hs : Keeps s0 s) :
    Keeps s0 (State.wait s a) := by
  unfold State.wait
  try dsimp only [State.fresh]
  repeat' first
    | with_reducible assumption
    | intro _
    | with_reducible apply keeps_countJoin
    | with_reducible apply keeps_occupy
    | with_reducible apply keeps_place
    | with_reducible apply keeps_foldl
    | with_reducible apply keeps_ite

theorem keeps_place {s0 : State} (s : State) (a : Arrival) (hs : Keeps s0 s) :
    Keeps s0 (State.place s a) := by
  unfold State.place
  try dsimp only [State.fresh]
  repeat' first
    | with_reducible assumption
    | intro _
    | with_reducible apply keeps_due
    | with_reducible apply keeps_placeIn
    | with_reducible apply keeps_takeIn
    | with_reducible apply keeps_wait
    | with_reducible apply keeps_foldl
    | with_reducible apply keeps_ite
    | with_reducible apply keeps_getD
    | refine keeps_of_someSnd ?_ (by with_reducible assumption)
    | with_reducible apply Memory.wf_set
    | with_reducible apply Memory.wf_setN
    | with_reducible apply keeps_wf
    | split

theorem keeps_admitEntry {s0 : State} (s : State) (t : TileId) (e : Entry) (hs : Keeps s0 s) :
    Keeps s0 (State.admitEntry s t e) := by
  unfold State.admitEntry
  try dsimp only [State.fresh]
  repeat' first
    | with_reducible assumption
    | intro _
    | with_reducible apply keeps_freeEntry
    | with_reducible apply keeps_place
    | with_reducible apply keeps_placeIn
    | with_reducible apply keeps_takeIn
    | with_reducible apply keeps_foldl
    | with_reducible apply keeps_ite
    | with_reducible apply keeps_getD
    | refine keeps_of_someSnd ?_ (by with_reducible assumption)
    | with_reducible apply Memory.wf_set
    | with_reducible apply Memory.wf_setN
    | with_reducible apply keeps_wf
    | split

theorem keeps_admitAll {s0 : State} (s : State) (t : TileId) (hs : Keeps s0 s) :
    Keeps s0 (State.admitAll s t) := by
  unfold State.admitAll
  try dsimp only [State.fresh]
  repeat' first
    | with_reducible assumption
    | intro _
    | with_reducible apply keeps_admitEntry
    | with_reducible apply keeps_place
    | with_reducible apply keeps_foldl

theorem keeps_leftBehind {s0 : State} (s : State) (a : Arrival) (hs : Keeps s0 s) :
    Keeps s0 (State.leftBehind s a) := by
  unfold State.leftBehind
  try dsimp only [State.fresh]
  repeat' first
    | with_reducible assumption
    | intro _
    | with_reducible apply keeps_countRecv
    | with_reducible apply keeps_setStatus

theorem keeps_placeOr {s0 : State} (s : State) (a : Arrival) (hs : Keeps s0 s) :
    Keeps s0 (State.placeOr s a) := by
  unfold State.placeOr
  try dsimp only [State.fresh]
  repeat' first
    | with_reducible assumption
    | intro _
    | with_reducible apply keeps_leftBehind
    | with_reducible apply keeps_place
    | with_reducible apply keeps_foldl
    | with_reducible apply keeps_ite

theorem keeps_pairUp {s0 : State} (s : State) (slot : Nat) (x : Arrival) (y : Arrival) (hs : Keeps s0 s) :
    KeepsOpt s0 (State.pairUp s slot x y) := by
  unfold State.pairUp
  try dsimp only [State.fresh]
  repeat' first
    | with_reducible assumption
    | intro _
    | with_reducible apply keeps_deliverSet
    | with_reducible apply keeps_place
    | with_reducible apply keeps_takeIn
    | with_reducible apply keeps_foldl
    | with_reducible apply keeps_ite
    | with_reducible apply keeps_getD
    | with_reducible apply keeps_some
    | with_reducible exact keeps_none
    | refine keeps_of_someSnd ?_ (by with_reducible assumption)
    | with_reducible apply Memory.wf_set
    | with_reducible apply Memory.wf_setN
    | with_reducible apply keeps_wf
    | split

theorem keeps_intake {s0 : State} (s : State) (a : Arrival) (hs : Keeps s0 s) :
    Keeps s0 (State.intake s a) := by
  unfold State.intake
  try dsimp only [State.fresh]
  repeat' first
    | with_reducible assumption
    | intro _
    | with_reducible apply keeps_buffer
    | with_reducible apply keeps_leftBehind
    | with_reducible apply keeps_modTile
    | with_reducible apply keeps_pairUp
    | with_reducible apply keeps_place
    | with_reducible apply keeps_foldl
    | with_reducible apply keeps_ite
    | with_reducible apply keeps_getD
    | refine keeps_of_some ?_ (by with_reducible assumption)
    | with_reducible apply Memory.wf_set
    | with_reducible apply Memory.wf_setN
    | with_reducible apply keeps_wf
    | split

theorem keeps_arrive {s0 : State} (s : State) (a : Arrival) (hs : Keeps s0 s) :
    Keeps s0 (State.arrive s a) := by
  unfold State.arrive
  try dsimp only [State.fresh]
  repeat' first
    | with_reducible assumption
    | intro _
    | with_reducible apply keeps_intake
    | with_reducible apply keeps_pairUp
    | with_reducible apply keeps_foldl
    | with_reducible apply keeps_ite
    | with_reducible apply keeps_getD
    | refine keeps_of_some ?_ (by with_reducible assumption)
    | with_reducible apply Memory.wf_set
    | with_reducible apply Memory.wf_setN
    | with_reducible apply keeps_wf
    | split
    | with_reducible refine keeps_mk ?_ ?_ ?_

theorem keeps_probeStep {s0 : State} (s : State) (t : TileId) (hs : Keeps s0 s) :
    Keeps s0 (State.probeStep s t) := by
  unfold State.probeStep
  try dsimp only [State.fresh]
  repeat' first
    | with_reducible assumption
    | intro _
    | with_reducible apply keeps_due
    | with_reducible apply keeps_leftBehind
    | with_reducible apply keeps_modTile
    | with_reducible apply keeps_pairUp
    | with_reducible apply keeps_place
    | with_reducible apply keeps_spillWrite
    | with_reducible apply keeps_takeSpilled
    | with_reducible apply keeps_foldl
    | with_reducible apply keeps_ite
    | with_reducible apply keeps_getD
    | refine keeps_of_some ?_ (by with_reducible assumption)
    | refine keeps_of_snd ?_ (by with_reducible assumption)
    | with_reducible apply Memory.wf_set
    | with_reducible apply Memory.wf_setN
    | with_reducible apply keeps_wf
    | split

theorem keeps_refillStep {s0 : State} (s : State) (t : TileId) (hs : Keeps s0 s) :
    Keeps s0 (State.refillStep s t) := by
  unfold State.refillStep
  try dsimp only [State.fresh]
  repeat' first
    | with_reducible assumption
    | intro _
    | with_reducible apply keeps_due
    | with_reducible apply keeps_intake
    | with_reducible apply keeps_logEvent
    | with_reducible apply keeps_place
    | with_reducible apply keeps_post
    | with_reducible apply keeps_takeSpilled
    | with_reducible apply keeps_wait
    | with_reducible apply keeps_foldl
    | with_reducible apply keeps_ite
    | with_reducible apply keeps_getD
    | refine keeps_of_goG ?_ (by with_reducible assumption)
    | refine keeps_of_waitG ?_ (by with_reducible assumption)
    | refine keeps_of_snd ?_ (by with_reducible assumption)
    | with_reducible apply keeps_goG
    | with_reducible apply keeps_waitG
    | with_reducible apply keeps_iteGate
    | with_reducible apply keeps_foldlGate
    | with_reducible apply Memory.wf_set
    | with_reducible apply Memory.wf_setN
    | with_reducible apply keeps_wf
    | split

theorem keeps_retryLatch {s0 : State} (s : State) (t : TileId) (hs : Keeps s0 s) :
    Keeps s0 (State.retryLatch s t) := by
  unfold State.retryLatch
  try dsimp only [State.fresh]
  repeat' first
    | with_reducible assumption
    | intro _
    | with_reducible apply keeps_due
    | with_reducible apply keeps_leftBehind
    | with_reducible apply keeps_modTile
    | with_reducible apply keeps_placeOr
    | with_reducible apply keeps_spillWrite
    | with_reducible apply keeps_foldl
    | with_reducible apply keeps_ite
    | with_reducible apply keeps_getD
    | with_reducible apply Memory.wf_set
    | with_reducible apply Memory.wf_setN
    | with_reducible apply keeps_wf
    | split

theorem keeps_restoreLatch {s0 : State} (s : State) (t : TileId) (hs : Keeps s0 s) :
    Keeps s0 (State.restoreLatch s t) := by
  unfold State.restoreLatch
  try dsimp only [State.fresh]
  repeat' first
    | with_reducible assumption
    | intro _
    | with_reducible apply keeps_buffer
    | with_reducible apply keeps_modTile
    | with_reducible apply keeps_place
    | with_reducible apply keeps_placeOr
    | with_reducible apply keeps_retryLatch
    | with_reducible apply keeps_foldl
    | with_reducible apply keeps_ite
    | with_reducible apply keeps_getD
    | with_reducible apply Memory.wf_set
    | with_reducible apply Memory.wf_setN
    | with_reducible apply keeps_wf
    | split

theorem keeps_goOn {s0 : State} (s : State) (c : Nat) (hs : Keeps s0 s) :
    Keeps s0 (State.goOn s c) := by
  unfold State.goOn
  try dsimp only [State.fresh]
  repeat' first
    | with_reducible assumption
    | intro _
    | with_reducible apply keeps_deliverSet
    | with_reducible apply keeps_emit2
    | with_reducible apply keeps_modCtx
    | with_reducible apply keeps_retryLatch
    | with_reducible apply keeps_settle
    | with_reducible apply keeps_wakeTile
    | with_reducible apply keeps_foldl
    | with_reducible apply keeps_ite
    | with_reducible apply keeps_getD
    | with_reducible apply Memory.wf_set
    | with_reducible apply Memory.wf_setN
    | with_reducible apply keeps_wf
    | split
    | with_reducible refine keeps_mk ?_ ?_ ?_

theorem keeps_scheduleStep {s0 : State} (s : State) (t : TileId) (hs : Keeps s0 s) :
    Keeps s0 (State.scheduleStep s t) := by
  unfold State.scheduleStep
  try dsimp only [State.fresh]
  repeat' first
    | with_reducible assumption
    | intro _
    | with_reducible apply keeps_due
    | with_reducible apply keeps_histSpillAll
    | with_reducible apply keeps_logEvent
    | with_reducible apply keeps_modTile
    | with_reducible apply keeps_post
    | with_reducible apply keeps_wait
    | with_reducible apply keeps_foldl
    | with_reducible apply keeps_ite
    | with_reducible apply keeps_getD
    | refine keeps_of_goG ?_ (by with_reducible assumption)
    | refine keeps_of_waitG ?_ (by with_reducible assumption)
    | with_reducible apply keeps_goG
    | with_reducible apply keeps_waitG
    | with_reducible apply keeps_iteGate
    | with_reducible apply keeps_foldlGate
    | with_reducible apply Memory.wf_set
    | with_reducible apply Memory.wf_setN
    | with_reducible apply keeps_wf
    | split

theorem keeps_loadSregs {s0 : State} (s : State) (l : Launch) (t : TileId) (d : Bytes) (hs : Keeps s0 s) :
    Keeps s0 (State.loadSregs s l t d) := by
  unfold State.loadSregs
  try dsimp only [State.fresh]
  repeat' first
    | with_reducible assumption
    | intro _
    | with_reducible apply keeps_writeSreg
    | with_reducible apply keeps_foldl
    | with_reducible apply keeps_ite

theorem keeps_loadStep {s0 : State} (s : State) (t : TileId) (k : Nat) (hs : Keeps s0 s) :
    Keeps s0 (State.loadStep s t k) := by
  unfold State.loadStep
  try dsimp only [State.fresh]
  repeat' first
    | with_reducible assumption
    | intro _
    | with_reducible apply keeps_admitAll
    | with_reducible apply keeps_due
    | with_reducible apply keeps_loadSregs
    | with_reducible apply keeps_modTile
    | with_reducible apply keeps_raiseFault
    | with_reducible apply keeps_foldl
    | with_reducible apply keeps_ite
    | with_reducible apply keeps_getD
    | with_reducible apply Memory.wf_set
    | with_reducible apply Memory.wf_setN
    | with_reducible apply keeps_wf
    | split

end Sys2Proof.Machine
end

