-- ==== Sys2Proof/Laws/KeepsUnits.lean ====
section
/-! SUPPORT. Keeps: the same for releases, launches, islands, command rings, the network, the fabric and the grammar engine. One lemma
for each operation, in continuation form: what holds before it holds after it. -/

namespace Sys2Proof.Machine

theorem keeps_remoteFault {s0 : State} (s : State) (c : Nat) (d : Nat) (code : Nat) (addr : Nat) (other : Nat) (rc : Nat) (epoch : Nat) (hs : Keeps s0 s) :
    Keeps s0 (State.remoteFault s c d code addr other rc epoch) := by
  unfold State.remoteFault
  try dsimp only [State.fresh]
  repeat' first
    | with_reducible assumption
    | intro _
    | with_reducible apply keeps_raiseFault

theorem keeps_remoteSync {s0 : State} (s : State) (j : Job) (code : Nat) (addr : Nat) (other : Nat) (rc : Nat) (epoch : Nat) (hs : Keeps s0 s) :
    Keeps s0 (State.remoteSync s j code addr other rc epoch) := by
  unfold State.remoteSync
  try dsimp only [State.fresh]
  repeat' first
    | with_reducible assumption
    | intro _
    | with_reducible apply keeps_jobFault

theorem keeps_remoteHeld {s0 : State} (s : State) (j : Job) (code : Nat) (addr : Nat) (other : Nat) (rc : Nat) (epoch : Nat) (hs : Keeps s0 s) :
    Keeps s0 (State.remoteHeld s j code addr other rc epoch) := by
  unfold State.remoteHeld
  try dsimp only [State.fresh]
  repeat' first
    | with_reducible assumption
    | intro _
    | with_reducible apply keeps_raiseFault

theorem keeps_remoteLate {s0 : State} (s : State) (j : Job) (code : Nat) (addr : Nat) (other : Nat) (rc : Nat) (epoch : Nat) (hs : Keeps s0 s) :
    Keeps s0 (State.remoteLate s j code addr other rc epoch) := by
  unfold State.remoteLate
  try dsimp only [State.fresh]
  repeat' first
    | with_reducible assumption
    | intro _
    | with_reducible apply keeps_raiseFault

theorem keeps_putSend {s0 : State} (s : State) (d : Nat) (e : SendEntry) (hs : Keeps s0 s) :
    Keeps s0 (State.putSend s d e) := by
  unfold State.putSend
  try dsimp only [State.fresh]
  repeat' first
    | with_reducible assumption
    | intro _
    | with_reducible apply keeps_modDie

theorem keeps_freeCopies {s0 : State} (s : State) (d : Nat) (e : SendEntry) (gone : Bool) (hs : Keeps s0 s) :
    Keeps s0 (State.freeCopies s d e gone) := by
  unfold State.freeCopies
  try dsimp only [State.fresh]
  repeat' first
    | with_reducible assumption
    | intro _
    | with_reducible apply keeps_dieRecv
    | with_reducible apply keeps_modDie
    | with_reducible apply keeps_strike
    | with_reducible apply keeps_foldl
    | with_reducible apply keeps_ite

theorem keeps_flagReceived {s0 : State} (s : State) (d : Nat) (e : SendEntry) (hs : Keeps s0 s) :
    Keeps s0 (State.flagReceived s d e) := by
  unfold State.flagReceived
  try dsimp only [State.fresh]
  repeat' first
    | with_reducible assumption
    | intro _
    | with_reducible apply keeps_dieRecv
    | with_reducible apply keeps_foldl
    | with_reducible apply keeps_ite
    | with_reducible apply keeps_getD
    | with_reducible apply Memory.wf_set
    | with_reducible apply Memory.wf_setN
    | with_reducible apply keeps_wf
    | split

theorem keeps_abortSend {s0 : State} (s : State) (d : Nat) (e : SendEntry) (hs : Keeps s0 s) :
    Keeps s0 (State.abortSend s d e) := by
  unfold State.abortSend
  try dsimp only [State.fresh]
  repeat' first
    | with_reducible assumption
    | intro _
    | with_reducible apply keeps_emitPkt
    | with_reducible apply keeps_flagReceived
    | with_reducible apply keeps_freeCopies
    | with_reducible apply keeps_post
    | with_reducible apply keeps_putSend

theorem keeps_relopenTest {s0 : State} (s : State) (c d rc : Nat) (hs : Keeps s0 s) {s' : State} {e : Nat}
    (h : State.relopenTest s c d rc = .done s' e) : Keeps s0 s' := by
  unfold State.relopenTest at h
  dsimp only at h
  split at h
  · cases h; exact keeps_modDie _ _ _ hs
  · split at h
    · cases h
    · split at h
      · cases h
      · cases h; exact keeps_modDie _ _ _ hs

theorem keeps_relwaitTest {s0 : State} (s : State) (c d rc e : Nat) (hs : Keeps s0 s) {s' : State} {e' : Nat}
    (h : State.relwaitTest s c d rc e = .done s' e') : Keeps s0 s' := by
  unfold State.relwaitTest at h
  split at h
  · cases h; exact hs
  · split at h
    · cases h; exact hs
    · split at h
      · cases h
      · split at h
        · cases h
        · cases h; exact hs

theorem keeps_relCheck {s0 : State} (s : State) (t : TileId) (slot : Nat) (hs : Keeps s0 s) :
    Keeps s0 (State.relCheck s t slot) := by
  unfold State.relCheck
  dsimp only
  have free : ∀ u r, Keeps s0 u → ∀ j : Job, Keeps s0 (((u.freeReply t slot).serialDone t r).consume j.fi) := fun u r hu j =>
    keeps_consume _ _ (keeps_serialDone _ _ _ (keeps_freeReply _ _ _ hu))
  split
  · exact hs
  · split
    · split
      · split
        · split
          · exact keeps_due _ _ hs
          · exact hs
        · exact hs
      · exact keeps_remoteLate _ _ _ _ _ _ _ (free _ _ hs _)
      · exact keeps_settle _ _ _ hs (keeps_emitBoth _ _ _ _ (free _ _ (keeps_relopenTest _ _ _ _ hs (by assumption)) _))
    · split
      · exact hs
      · exact keeps_remoteLate _ _ _ _ _ _ _ (free _ _ hs _)
      · exact keeps_settle _ _ _ hs (keeps_emitAll _ _ _ _ _ (free _ _ (keeps_relwaitTest _ _ _ _ _ hs (by assumption)) _))
    · exact hs

theorem keeps_relWake {s0 : State} (s : State) (d : Nat) (c : Nat) (rc : Nat) (hs : Keeps s0 s) :
    Keeps s0 (State.relWake s d c rc) := by
  unfold State.relWake
  try dsimp only [State.fresh]
  repeat' first
    | with_reducible assumption
    | intro _
    | with_reducible apply keeps_relCheck
    | with_reducible apply keeps_foldl

theorem keeps_relHold {s0 : State} (s : State) (j : Job) (minor : Nat) (kind : ReplyKind) (a : Bytes) (hs : Keeps s0 s) :
    Keeps s0 (State.relHold s j minor kind a) := by
  unfold State.relHold
  try dsimp only [State.fresh]
  repeat' first
    | with_reducible assumption
    | intro _
    | with_reducible apply keeps_agqNote
    | with_reducible apply keeps_modTile
    | with_reducible apply keeps_offerAgain
    | with_reducible apply keeps_relCheck
    | with_reducible apply keeps_foldl
    | with_reducible apply keeps_ite
    | with_reducible apply keeps_getD
    | with_reducible apply Memory.wf_set
    | with_reducible apply Memory.wf_setN
    | with_reducible apply keeps_wf
    | split
    | with_reducible refine keeps_mk ?_ ?_ ?_

theorem keeps_sendDone {s0 : State} (s : State) (d : Nat) (e : SendEntry) (hs : Keeps s0 s) :
    Keeps s0 (State.sendDone s d e) := by
  unfold State.sendDone
  try dsimp only [State.fresh]
  repeat' first
    | with_reducible assumption
    | intro _
    | with_reducible apply keeps_done
    | with_reducible apply keeps_flagReceived
    | with_reducible apply keeps_freeCopies
    | with_reducible apply keeps_putSend
    | with_reducible apply keeps_relWake

theorem keeps_again {s0 : State} (s : State) (d : Nat) (p : Packet) (hs : Keeps s0 s) :
    Keeps s0 (State.again s d p) := by
  unfold State.again
  try dsimp only [State.fresh]
  repeat' first
    | with_reducible assumption
    | intro _
    | with_reducible apply keeps_emitPkt

theorem keeps_completeStep {s0 : State} (s : State) (d : Nat) (p : Packet) (hs : Keeps s0 s) :
    Keeps s0 (State.completeStep s d p) := by
  unfold State.completeStep
  try dsimp only [State.fresh]
  repeat' first
    | with_reducible assumption
    | intro _
    | with_reducible apply keeps_putSend
    | with_reducible apply keeps_sendDone
    | with_reducible apply keeps_foldl
    | with_reducible apply keeps_ite
    | with_reducible apply keeps_getD
    | with_reducible apply Memory.wf_set
    | with_reducible apply Memory.wf_setN
    | with_reducible apply keeps_wf
    | split

theorem keeps_gapReportStep {s0 : State} (s : State) (d : Nat) (p : Packet) (hs : Keeps s0 s) :
    Keeps s0 (State.gapReportStep s d p) := by
  unfold State.gapReportStep
  try dsimp only [State.fresh]
  repeat' first
    | with_reducible assumption
    | intro _
    | with_reducible apply keeps_again
    | with_reducible apply keeps_foldl
    | with_reducible apply keeps_ite
    | with_reducible apply keeps_getD
    | with_reducible apply Memory.wf_set
    | with_reducible apply Memory.wf_setN
    | with_reducible apply keeps_wf
    | split

theorem keeps_flagTimer {s0 : State} (s : State) (d : Nat) (g : GroupKey) (hs : Keeps s0 s) :
    Keeps s0 (State.flagTimer s d g) := by
  unfold State.flagTimer
  try dsimp only [State.fresh]
  repeat' first
    | with_reducible assumption
    | intro _
    | with_reducible apply keeps_abortSend
    | with_reducible apply keeps_again
    | with_reducible apply keeps_post
    | with_reducible apply keeps_putSend
    | with_reducible apply keeps_relWake
    | with_reducible apply keeps_remoteFault
    | with_reducible apply keeps_foldl
    | with_reducible apply keeps_ite
    | with_reducible apply keeps_getD
    | with_reducible apply Memory.wf_set
    | with_reducible apply Memory.wf_setN
    | with_reducible apply keeps_wf
    | split

theorem keeps_abortTimer {s0 : State} (s : State) (d : Nat) (g : GroupKey) (hs : Keeps s0 s) :
    Keeps s0 (State.abortTimer s d g) := by
  unfold State.abortTimer
  try dsimp only [State.fresh]
  repeat' first
    | with_reducible assumption
    | intro _
    | with_reducible apply keeps_abortSend
    | with_reducible apply keeps_again
    | with_reducible apply keeps_post
    | with_reducible apply keeps_putSend
    | with_reducible apply keeps_foldl
    | with_reducible apply keeps_ite
    | with_reducible apply keeps_getD
    | with_reducible apply Memory.wf_set
    | with_reducible apply Memory.wf_setN
    | with_reducible apply keeps_wf
    | split

theorem keeps_sendFlag {s0 : State} (s : State) (d : Nat) (e : SendEntry) (p : Packet) (hs : Keeps s0 s) :
    Keeps s0 (State.sendFlag s d e p) := by
  unfold State.sendFlag
  try dsimp only [State.fresh]
  repeat' first
    | with_reducible assumption
    | intro _
    | with_reducible apply keeps_emitPkt
    | with_reducible apply keeps_post
    | with_reducible apply keeps_putSend

theorem keeps_rstPart {s0 : State} (s : State) (a : Access) (ep : Nat) (p : Part) (e : SendEntry) (hs : Keeps s0 s) :
    Keeps s0 (State.rstPart s a ep p e) := by
  unfold State.rstPart
  try dsimp only [State.fresh]
  repeat' first
    | with_reducible assumption
    | intro _
    | with_reducible apply keeps_dieSent
    | with_reducible apply keeps_due
    | with_reducible apply keeps_modDie
    | with_reducible apply keeps_modTile
    | with_reducible apply keeps_putSend

theorem keeps_rstLeave {s0 : State} (s : State) (a : Access) (hs : Keeps s0 s) :
    KeepsOpt s0 (State.rstLeave s a) := by
  unfold State.rstLeave
  try dsimp only [State.fresh]
  repeat' first
    | with_reducible assumption
    | intro _
    | with_reducible apply keeps_mkParts
    | with_reducible apply keeps_modTile
    | with_reducible apply keeps_remoteHeld
    | with_reducible apply keeps_rstPart
    | with_reducible apply keeps_strike
    | with_reducible apply keeps_foldl
    | with_reducible apply keeps_ite
    | with_reducible apply keeps_getD
    | with_reducible apply keeps_some
    | with_reducible exact keeps_none
    | refine keeps_of_snd ?_ (by with_reducible assumption)
    | with_reducible apply Memory.wf_set
    | with_reducible apply Memory.wf_setN
    | with_reducible apply keeps_wf
    | split
    | with_reducible refine keeps_mk ?_ ?_ ?_

theorem keeps_putRecv {s0 : State} (s : State) (d : Nat) (g : GroupKey) (e : RecvEntry) (hs : Keeps s0 s) :
    Keeps s0 (State.putRecv s d g e) := by
  unfold State.putRecv
  try dsimp only [State.fresh]
  repeat' first
    | with_reducible assumption
    | intro _
    | with_reducible apply keeps_modDie

theorem keeps_sendComplete {s0 : State} (s : State) (d : Nat) (g : GroupKey) (hs : Keeps s0 s) :
    Keeps s0 (State.sendComplete s d g) := by
  unfold State.sendComplete
  try dsimp only [State.fresh]
  repeat' first
    | with_reducible assumption
    | intro _
    | with_reducible apply keeps_complete
    | with_reducible apply keeps_emitPkt

theorem keeps_closeRecv {s0 : State} (s : State) (d : Nat) (g : GroupKey) (e : RecvEntry) (hs : Keeps s0 s) :
    Keeps s0 (State.closeRecv s d g e) := by
  unfold State.closeRecv
  try dsimp only [State.fresh]
  repeat' first
    | with_reducible assumption
    | intro _
    | with_reducible apply keeps_post
    | with_reducible apply keeps_putRecv

theorem keeps_relEffect {s0 : State} (s : State) (d : Nat) (p : Packet) (key : Nat) (hs : Keeps s0 s) :
    KeepsFst s0 (State.relEffect s d p key) := by
  unfold State.relEffect
  try dsimp only [State.fresh]
  repeat' first
    | with_reducible assumption
    | intro _
    | with_reducible apply keeps_dieRecv
    | with_reducible apply keeps_writeLevel
    | with_reducible apply keeps_writePkt
    | with_reducible apply keeps_foldl
    | with_reducible apply keeps_ite
    | with_reducible apply keeps_getD
    | with_reducible apply Memory.wf_set
    | with_reducible apply Memory.wf_setN
    | with_reducible apply keeps_wf
    | split

theorem keeps_relSatisfy {s0 : State} (s : State) (d : Nat) (g : GroupKey) (e : RecvEntry) (p : Packet) (hs : Keeps s0 s) :
    Keeps s0 (State.relSatisfy s d g e p) := by
  unfold State.relSatisfy
  try dsimp only [State.fresh]
  repeat' first
    | with_reducible assumption
    | intro _
    | with_reducible apply keeps_closeRecv
    | with_reducible apply keeps_done
    | with_reducible apply keeps_due
    | with_reducible apply keeps_emitPkt
    | with_reducible apply keeps_logEvent
    | with_reducible apply keeps_post
    | with_reducible apply keeps_relEffect
    | with_reducible apply keeps_remoteFault
    | with_reducible apply keeps_sendComplete
    | with_reducible apply keeps_unmapped
    | with_reducible apply keeps_wait
    | with_reducible apply keeps_foldl
    | with_reducible apply keeps_ite
    | with_reducible apply keeps_getD
    | refine keeps_of_fst ?_ (by with_reducible assumption)
    | refine keeps_of_goG ?_ (by with_reducible assumption)
    | refine keeps_of_waitG ?_ (by with_reducible assumption)
    | with_reducible apply keeps_goG
    | with_reducible apply keeps_waitG
    | with_reducible apply keeps_iteGate
    | with_reducible apply keeps_foldlGate
    | with_reducible apply Memory.wf_set
    | with_reducible apply Memory.wf_setN
    | with_reducible apply keeps_wf
    | split

theorem keeps_relTest {s0 : State} (s : State) (d : Nat) (g : GroupKey) (hs : Keeps s0 s) :
    Keeps s0 (State.relTest s d g) := by
  unfold State.relTest
  try dsimp only [State.fresh]
  repeat' first
    | with_reducible assumption
    | intro _
    | with_reducible apply keeps_relSatisfy
    | with_reducible apply keeps_foldl
    | with_reducible apply keeps_ite
    | with_reducible apply keeps_getD
    | with_reducible apply Memory.wf_set
    | with_reducible apply Memory.wf_setN
    | with_reducible apply keeps_wf
    | split

theorem keeps_relPerform {s0 : State} (s : State) (d : Nat) (p : Packet) (e : RecvEntry) (hs : Keeps s0 s) :
    Keeps s0 (State.relPerform s d p e) := by
  unfold State.relPerform
  try dsimp only [State.fresh]
  repeat' first
    | with_reducible assumption
    | intro _
    | with_reducible apply keeps_conflict
    | with_reducible apply keeps_due
    | with_reducible apply keeps_noteAccess
    | with_reducible apply keeps_performAt
    | with_reducible apply keeps_post
    | with_reducible apply keeps_putRecv
    | with_reducible apply keeps_relTest
    | with_reducible apply keeps_unmapped
    | with_reducible apply keeps_foldl
    | with_reducible apply keeps_ite
    | with_reducible apply keeps_getD
    | refine keeps_of_snd ?_ (by with_reducible assumption)
    | with_reducible apply Memory.wf_set
    | with_reducible apply Memory.wf_setN
    | with_reducible apply keeps_wf
    | split

theorem keeps_releaseWriteStep {s0 : State} (s : State) (d : Nat) (p : Packet) (hs : Keeps s0 s) :
    Keeps s0 (State.releaseWriteStep s d p) := by
  unfold State.releaseWriteStep
  try dsimp only [State.fresh]
  repeat' first
    | with_reducible assumption
    | intro _
    | with_reducible apply keeps_cstatUp
    | with_reducible apply keeps_relPerform
    | with_reducible apply keeps_foldl
    | with_reducible apply keeps_ite
    | with_reducible apply keeps_getD
    | with_reducible apply Memory.wf_set
    | with_reducible apply Memory.wf_setN
    | with_reducible apply keeps_wf
    | split

theorem keeps_releaseFlagStep {s0 : State} (s : State) (d : Nat) (p : Packet) (hs : Keeps s0 s) :
    Keeps s0 (State.releaseFlagStep s d p) := by
  unfold State.releaseFlagStep
  try dsimp only [State.fresh]
  repeat' first
    | with_reducible assumption
    | intro _
    | with_reducible apply keeps_cstatUp
    | with_reducible apply keeps_done
    | with_reducible apply keeps_emitPkt
    | with_reducible apply keeps_hold
    | with_reducible apply keeps_post
    | with_reducible apply keeps_putRecv
    | with_reducible apply keeps_relTest
    | with_reducible apply keeps_sendComplete
    | with_reducible apply keeps_foldl
    | with_reducible apply keeps_ite
    | with_reducible apply keeps_getD
    | with_reducible apply Memory.wf_set
    | with_reducible apply Memory.wf_setN
    | with_reducible apply keeps_wf
    | split

theorem keeps_gapStep {s0 : State} (s : State) (d : Nat) (g : GroupKey) (hs : Keeps s0 s) :
    Keeps s0 (State.gapStep s d g) := by
  unfold State.gapStep
  try dsimp only [State.fresh]
  repeat' first
    | with_reducible assumption
    | intro _
    | with_reducible apply keeps_cstatUp
    | with_reducible apply keeps_emitPkt
    | with_reducible apply keeps_modDie
    | with_reducible apply keeps_post
    | with_reducible apply keeps_putRecv
    | with_reducible apply keeps_remoteFault
    | with_reducible apply keeps_foldl
    | with_reducible apply keeps_ite
    | with_reducible apply keeps_getD
    | with_reducible apply Memory.wf_set
    | with_reducible apply Memory.wf_setN
    | with_reducible apply keeps_wf
    | split

theorem keeps_abortStep {s0 : State} (s : State) (d : Nat) (p : Packet) (hs : Keeps s0 s) :
    Keeps s0 (State.abortStep s d p) := by
  unfold State.abortStep
  try dsimp only [State.fresh]
  repeat' first
    | with_reducible assumption
    | intro _
    | with_reducible apply keeps_closeRecv
    | with_reducible apply keeps_cstatUp
    | with_reducible apply keeps_dieRecv
    | with_reducible apply keeps_sendComplete
    | with_reducible apply keeps_foldl
    | with_reducible apply keeps_ite
    | with_reducible apply keeps_getD
    | with_reducible apply Memory.wf_set
    | with_reducible apply Memory.wf_setN
    | with_reducible apply keeps_wf
    | split

theorem keeps_expireRecv {s0 : State} (s : State) (d : Nat) (g : GroupKey) (hs : Keeps s0 s) :
    Keeps s0 (State.expireRecv s d g) := by
  unfold State.expireRecv
  try dsimp only [State.fresh]
  repeat' first
    | with_reducible assumption
    | intro _
    | with_reducible apply keeps_done
    | with_reducible apply keeps_modDie
    | with_reducible apply keeps_foldl
    | with_reducible apply keeps_ite
    | with_reducible apply keeps_getD
    | with_reducible apply Memory.wf_set
    | with_reducible apply Memory.wf_setN
    | with_reducible apply keeps_wf
    | split

theorem keeps_fireRmt {s0 : State} (limit : Nat) (f : Fields) (regs : List Nat) (go : Job →   Launch → Nat → Bytes → State → State) (s : State) (hgo : ∀ x0 x1 x2 x3 x4, Keeps s0 x4 → Keeps s0 (go x0 x1 x2 x3 x4)) (hs : Keeps s0 s) :
    Keeps s0 (fireRmt limit f regs go s) := by
  unfold fireRmt
  try dsimp only [State.fresh]
  repeat' first
    | with_reducible assumption
    | intro _
    | with_reducible apply keeps_fire
    | with_reducible apply keeps_leaseFault
    | apply hgo
    | with_reducible apply keeps_foldl
    | with_reducible apply keeps_ite
    | with_reducible apply keeps_getD
    | with_reducible apply Memory.wf_set
    | with_reducible apply Memory.wf_setN
    | with_reducible apply keeps_wf
    | split

theorem keeps_relflagBad {s0 : State} (s : State) (j : Job) (l : Launch) (rc : Nat) (addr : Nat) (ring : Nat) (hs : Keeps s0 s) :
    KeepsOpt s0 (State.relflagBad s j l rc addr ring) := by
  unfold State.relflagBad
  try dsimp only [State.fresh]
  repeat' first
    | with_reducible assumption
    | intro _
    | with_reducible apply keeps_leaseFault
    | with_reducible apply keeps_remoteSync
    | with_reducible apply keeps_foldl
    | with_reducible apply keeps_ite
    | with_reducible apply keeps_getD
    | with_reducible apply keeps_some
    | with_reducible exact keeps_none
    | with_reducible apply Memory.wf_set
    | with_reducible apply Memory.wf_setN
    | with_reducible apply keeps_wf
    | split

theorem keeps_startFlag {s0 : State} (s : State) (a : Access) (go : SendEntry → State → State) (hs : Keeps s0 s) (hgo : ∀ x0 x1, Keeps s0 x1 → Keeps s0 (go x0 x1)) :
    Keeps s0 (State.startFlag s a go) := by
  unfold State.startFlag
  try dsimp only [State.fresh]
  repeat' first
    | with_reducible assumption
    | intro _
    | with_reducible apply keeps_dieSent
    | with_reducible apply keeps_offerAgain
    | with_reducible apply keeps_remoteSync
    | with_reducible apply keeps_watchFault
    | apply hgo
    | with_reducible apply keeps_foldl
    | with_reducible apply keeps_ite
    | with_reducible apply keeps_getD
    | with_reducible apply Memory.wf_set
    | with_reducible apply Memory.wf_setN
    | with_reducible apply keeps_wf
    | split

theorem keeps_issueRelAtom {s0 : State} (s : State) (a : Access) (hs : Keeps s0 s) :
    Keeps s0 (State.issueRelAtom s a) := by
  unfold State.issueRelAtom
  try dsimp only [State.fresh]
  repeat' first
    | with_reducible assumption
    | intro _
    | with_reducible apply keeps_agqNote
    | with_reducible apply keeps_l1Drop
    | with_reducible apply keeps_mkParts
    | with_reducible apply keeps_modTile
    | with_reducible apply keeps_offerAgain
    | with_reducible apply keeps_sendFlag
    | with_reducible apply keeps_startFlag
    | with_reducible apply keeps_foldl
    | with_reducible apply keeps_ite
    | with_reducible apply keeps_getD
    | refine keeps_of_snd ?_ (by with_reducible assumption)
    | with_reducible apply Memory.wf_set
    | with_reducible apply Memory.wf_setN
    | with_reducible apply keeps_wf
    | split
    | with_reducible refine keeps_mk ?_ ?_ ?_

theorem keeps_issueRelflag {s0 : State} (s : State) (a : Access) (hs : Keeps s0 s) :
    Keeps s0 (State.issueRelflag s a) := by
  unfold State.issueRelflag
  try dsimp only [State.fresh]
  repeat' first
    | with_reducible assumption
    | intro _
    | with_reducible apply keeps_consume
    | with_reducible apply keeps_emitBoth
    | with_reducible apply keeps_noteLevel
    | with_reducible apply keeps_sendFlag
    | with_reducible apply keeps_startFlag
    | with_reducible apply keeps_foldl
    | with_reducible apply keeps_ite
    | with_reducible apply keeps_getD
    | with_reducible apply Memory.wf_set
    | with_reducible apply Memory.wf_setN
    | with_reducible apply keeps_wf
    | split
    | with_reducible refine keeps_mk ?_ ?_ ?_

theorem keeps_fireRmtAtom {s0 : State} (minor : Nat) (op : AtomOp) (f : Fields) (s : State) (hs : Keeps s0 s) :
    Keeps s0 (fireRmtAtom minor op f s) := by
  unfold fireRmtAtom
  try dsimp only [State.fresh]
  repeat' first
    | with_reducible assumption
    | intro _
    | with_reducible apply keeps_issueRelAtom
    | with_reducible apply keeps_leaseFault
    | with_reducible apply keeps_fireRmt
    | with_reducible apply keeps_foldl
    | with_reducible apply keeps_ite
    | with_reducible apply keeps_getD
    | with_reducible apply Memory.wf_set
    | with_reducible apply Memory.wf_setN
    | with_reducible apply keeps_wf
    | split

theorem keeps_modQueue {s0 : State} (s : State) (d : Nat) (q : Nat) (g : Queue → Queue) (hs : Keeps s0 s) :
    Keeps s0 (State.modQueue s d q g) := by
  unfold State.modQueue
  try dsimp only [State.fresh]
  repeat' first
    | with_reducible assumption
    | intro _
    | with_reducible apply keeps_modDie

theorem keeps_settleCtx {s0 : State} (s : State) (c : Nat) (hs : Keeps s0 s) :
    Keeps s0 (State.settleCtx s c) := by
  unfold State.settleCtx
  try dsimp only [State.fresh]
  repeat' first
    | with_reducible assumption
    | intro _
    | with_reducible apply keeps_due
    | with_reducible apply keeps_modCtx
    | with_reducible apply keeps_foldl
    | with_reducible apply keeps_ite

theorem keeps_dropLaunch {s0 : State} (s : State) (id : Nat) (l : Launch) (hs : Keeps s0 s) :
    Keeps s0 (State.dropLaunch s id l) := by
  unfold State.dropLaunch
  try dsimp only [State.fresh]
  repeat' first
    | with_reducible assumption
    | intro _
    | with_reducible apply keeps_dropEvents
    | with_reducible apply keeps_dropLeases
    | with_reducible apply keeps_due
    | with_reducible apply keeps_modDie
    | with_reducible apply keeps_modQueue
    | with_reducible apply keeps_settleCtx
    | with_reducible apply keeps_foldl
    | with_reducible apply keeps_ite
    | with_reducible apply keeps_getD
    | with_reducible apply Memory.wf_set
    | with_reducible apply Memory.wf_setN
    | with_reducible apply keeps_wf
    | split
    | with_reducible refine keeps_mk ?_ ?_ ?_

theorem keeps_refuse {s0 : State} (s : State) (id : Nat) (l : Launch) (e : LaunchError) (hs : Keeps s0 s) :
    Keeps s0 (State.refuse s id l e) := by
  unfold State.refuse
  try dsimp only [State.fresh]
  repeat' first
    | with_reducible assumption
    | intro _
    | with_reducible apply keeps_curEvent
    | with_reducible apply keeps_dropLaunch

theorem keeps_askBarrier {s0 : State} (s : State) (d : Nat) (q : Nat) (hs : Keeps s0 s) :
    Keeps s0 (State.askBarrier s d q) := by
  unfold State.askBarrier
  try dsimp only [State.fresh]
  repeat' first
    | with_reducible assumption
    | intro _
    | with_reducible apply keeps_dieSent
    | with_reducible apply keeps_emitPkt
    | with_reducible apply keeps_modQueue
    | with_reducible apply keeps_foldl
    | with_reducible apply keeps_ite

theorem keeps_passOver {s0 : State} (s : State) (d : Nat) (q : Nat) (hs : Keeps s0 s) :
    Keeps s0 (State.passOver s d q) := by
  unfold State.passOver
  try dsimp only [State.fresh]
  repeat' first
    | with_reducible assumption
    | intro _
    | with_reducible apply keeps_modQueue

theorem keeps_decideAgain {s0 : State} (s : State) (d : Nat) (hs : Keeps s0 s) :
    Keeps s0 (State.decideAgain s d) := by
  unfold State.decideAgain
  try dsimp only [State.fresh]
  repeat' first
    | with_reducible assumption
    | intro _
    | with_reducible apply keeps_due
    | with_reducible apply keeps_foldl
    | with_reducible apply keeps_ite

theorem keeps_queueStep {s0 : State} (s : State) (d : Nat) (hs : Keeps s0 s) :
    Keeps s0 (State.queueStep s d) := by
  unfold State.queueStep
  try dsimp only [State.fresh]
  repeat' first
    | with_reducible assumption
    | intro _
    | with_reducible apply keeps_askBarrier
    | with_reducible apply keeps_catalogueAt
    | with_reducible apply keeps_decideAgain
    | with_reducible apply keeps_logEvent
    | with_reducible apply keeps_modCtx
    | with_reducible apply keeps_modDie
    | with_reducible apply keeps_modQueue
    | with_reducible apply keeps_passOver
    | with_reducible apply keeps_post
    | with_reducible apply keeps_startHang
    | with_reducible apply keeps_wait
    | with_reducible apply keeps_foldl
    | with_reducible apply keeps_ite
    | with_reducible apply keeps_getD
    | refine keeps_of_goG ?_ (by with_reducible assumption)
    | refine keeps_of_waitG ?_ (by with_reducible assumption)
    | with_reducible apply keeps_goG
    | with_reducible apply keeps_waitG
    | with_reducible apply keeps_iteGate
    | with_reducible apply keeps_foldlGate
    | with_reducible apply Memory.wf_set
    | with_reducible apply Memory.wf_setN
    | with_reducible apply keeps_wf
    | split
    | with_reducible refine keeps_mk ?_ ?_ ?_

theorem keeps_tailWrite {s0 : State} (s : State) (d : Nat) (q : Nat) (v : BitVec 32) (hs : Keeps s0 s) :
    Keeps s0 (State.tailWrite s d q v) := by
  unfold State.tailWrite
  try dsimp only [State.fresh]
  repeat' first
    | with_reducible assumption
    | intro _
    | with_reducible apply keeps_due
    | with_reducible apply keeps_modQueue
    | with_reducible apply keeps_foldl
    | with_reducible apply keeps_ite

theorem keeps_qbaseWrite {s0 : State} (s : State) (d : Nat) (q : Nat) (v : BitVec 64) (hs : Keeps s0 s) :
    Keeps s0 (State.qbaseWrite s d q v) := by
  unfold State.qbaseWrite
  try dsimp only [State.fresh]
  repeat' first
    | with_reducible assumption
    | intro _
    | with_reducible apply keeps_modQueue

theorem keeps_qctlWrite {s0 : State} (s : State) (d : Nat) (q : Nat) (v : BitVec 64) (hs : Keeps s0 s) :
    Keeps s0 (State.qctlWrite s d q v) := by
  unfold State.qctlWrite
  try dsimp only [State.fresh]
  repeat' first
    | with_reducible assumption
    | intro _
    | with_reducible apply keeps_due
    | with_reducible apply keeps_modQueue

theorem keeps_checkStep {s0 : State} (s : State) (id : Nat) (hs : Keeps s0 s) :
    Keeps s0 (State.checkStep s id) := by
  unfold State.checkStep
  try dsimp only [State.fresh]
  repeat' first
    | with_reducible assumption
    | intro _
    | with_reducible apply keeps_post
    | with_reducible apply keeps_refuse
    | with_reducible apply keeps_foldl
    | with_reducible apply keeps_ite
    | with_reducible apply keeps_getD
    | with_reducible apply Memory.wf_set
    | with_reducible apply Memory.wf_setN
    | with_reducible apply keeps_wf
    | split
    | with_reducible refine keeps_mk ?_ ?_ ?_

theorem keeps_markLeased {s0 : State} (s : State) (c : Nat) (r : LeaseRange) (hs : Keeps s0 s) :
    Keeps s0 (State.markLeased s c r) := by
  unfold State.markLeased
  try dsimp only [State.fresh]
  repeat' first
    | with_reducible assumption
    | intro _
    | with_reducible apply keeps_modCd
    | with_reducible apply keeps_foldl
    | with_reducible apply keeps_ite

theorem keeps_residencyStep {s0 : State} (s : State) (id : Nat) (hs : Keeps s0 s) :
    Keeps s0 (State.residencyStep s id) := by
  unfold State.residencyStep
  try dsimp only [State.fresh]
  repeat' first
    | with_reducible assumption
    | intro _
    | with_reducible apply keeps_curEvent
    | with_reducible apply keeps_dropEvents
    | with_reducible apply keeps_due
    | with_reducible apply keeps_markLeased
    | with_reducible apply keeps_modDie
    | with_reducible apply keeps_post
    | with_reducible apply keeps_refuse
    | with_reducible apply keeps_foldl
    | with_reducible apply keeps_ite
    | with_reducible apply keeps_getD
    | with_reducible apply Memory.wf_set
    | with_reducible apply Memory.wf_setN
    | with_reducible apply keeps_wf
    | split
    | with_reducible refine keeps_mk ?_ ?_ ?_

theorem keeps_failResidency {s0 : State} (s : State) (d : Nat) (k : Nat) (cause : Nat) (hs : Keeps s0 s) :
    Keeps s0 (State.failResidency s d k cause) := by
  unfold State.failResidency
  try dsimp only [State.fresh]
  repeat' first
    | with_reducible assumption
    | intro _
    | with_reducible apply keeps_curEvent
    | with_reducible apply keeps_dropLaunch
    | with_reducible apply keeps_modDie
    | with_reducible apply keeps_foldl
    | with_reducible apply keeps_ite
    | with_reducible apply keeps_getD
    | with_reducible apply Memory.wf_set
    | with_reducible apply Memory.wf_setN
    | with_reducible apply keeps_wf
    | split

theorem keeps_typeTile {s0 : State} (s : State) (l : Launch) (id : Nat) (pos : Nat) (t : TileId) (hs : Keeps s0 s) :
    Keeps s0 (State.typeTile s l id pos t) := by
  unfold State.typeTile
  try dsimp only [State.fresh]
  repeat' first
    | with_reducible assumption
    | intro _
    | with_reducible apply keeps_modTile

theorem keeps_claimIsland {s0 : State} (s : State) (l : Launch) (id : Nat) (d : Nat) (k : Nat) (hs : Keeps s0 s) :
    Keeps s0 (State.claimIsland s l id d k) := by
  unfold State.claimIsland
  try dsimp only [State.fresh]
  repeat' first
    | with_reducible assumption
    | intro _
    | with_reducible apply keeps_modIsland

theorem keeps_configureStep {s0 : State} (s : State) (id : Nat) (hs : Keeps s0 s) :
    Keeps s0 (State.configureStep s id) := by
  unfold State.configureStep
  try dsimp only [State.fresh]
  repeat' first
    | with_reducible assumption
    | intro _
    | with_reducible apply keeps_arrive
    | with_reducible apply keeps_claimIsland
    | with_reducible apply keeps_countSent
    | with_reducible apply keeps_due
    | with_reducible apply keeps_post
    | with_reducible apply keeps_typeTile
    | with_reducible apply keeps_foldl
    | with_reducible apply keeps_ite
    | with_reducible apply keeps_getD
    | with_reducible apply Memory.wf_set
    | with_reducible apply Memory.wf_setN
    | with_reducible apply keeps_wf
    | split
    | with_reducible refine keeps_mk ?_ ?_ ?_

theorem keeps_finishRegion {s0 : State} (s : State) (id : Nat) (r : Region) (hs : Keeps s0 s) :
    Keeps s0 (State.finishRegion s id r) := by
  unfold State.finishRegion
  try dsimp only [State.fresh]
  repeat' first
    | with_reducible assumption
    | intro _
    | with_reducible apply keeps_catalogueAt
    | with_reducible apply keeps_curEvent
    | with_reducible apply keeps_freeRegion
    | with_reducible apply keeps_histSpillAll
    | with_reducible apply keeps_settleCtx
    | with_reducible apply keeps_foldl
    | with_reducible apply keeps_ite

theorem keeps_completeRegion {s0 : State} (s : State) (id : Nat) (r : Region) (hs : Keeps s0 s) :
    Keeps s0 (State.completeRegion s id r) := by
  unfold State.completeRegion
  try dsimp only [State.fresh]
  repeat' first
    | with_reducible assumption
    | intro _
    | with_reducible apply keeps_dieSent
    | with_reducible apply keeps_emitPkt
    | with_reducible apply keeps_finishRegion
    | with_reducible apply keeps_modRegion
    | with_reducible apply keeps_foldl
    | with_reducible apply keeps_ite

theorem keeps_joinReply {s0 : State} (s : State) (p : Packet) (hs : Keeps s0 s) :
    Keeps s0 (State.joinReply s p) := by
  unfold State.joinReply
  try dsimp only [State.fresh]
  repeat' first
    | with_reducible assumption
    | intro _
    | with_reducible apply keeps_finishRegion
    | with_reducible apply keeps_modRegion
    | with_reducible apply keeps_post
    | with_reducible apply keeps_raiseFault
    | with_reducible apply keeps_remoteFault
    | with_reducible apply keeps_foldl
    | with_reducible apply keeps_ite
    | with_reducible apply keeps_getD
    | with_reducible apply Memory.wf_set
    | with_reducible apply Memory.wf_setN
    | with_reducible apply keeps_wf
    | split

theorem keeps_waveStep {s0 : State} (s : State) (id : Nat) (hs : Keeps s0 s) :
    Keeps s0 (State.waveStep s id) := by
  unfold State.waveStep
  try dsimp only [State.fresh]
  repeat' first
    | with_reducible assumption
    | intro _
    | with_reducible apply keeps_completeRegion
    | with_reducible apply keeps_modRegion
    | with_reducible apply keeps_post
    | with_reducible apply keeps_foldl
    | with_reducible apply keeps_ite
    | with_reducible apply keeps_getD
    | with_reducible apply Memory.wf_set
    | with_reducible apply Memory.wf_setN
    | with_reducible apply keeps_wf
    | split

theorem keeps_phaseStep {s0 : State} (s : State) (id : Nat) (hs : Keeps s0 s) :
    Keeps s0 (State.phaseStep s id) := by
  unfold State.phaseStep
  try dsimp only [State.fresh]
  repeat' first
    | with_reducible assumption
    | intro _
    | with_reducible apply keeps_completeRegion
    | with_reducible apply keeps_modRegion
    | with_reducible apply keeps_post
    | with_reducible apply keeps_foldl
    | with_reducible apply keeps_ite
    | with_reducible apply keeps_getD
    | with_reducible apply Memory.wf_set
    | with_reducible apply Memory.wf_setN
    | with_reducible apply keeps_wf
    | split

theorem keeps_islandNote {s0 : State} (s : State) (d : Nat) (k : Nat) (bit : Nat) (flag : Nat) (hs : Keeps s0 s) :
    Keeps s0 (State.islandNote s d k bit flag) := by
  unfold State.islandNote
  try dsimp only [State.fresh]
  repeat' first
    | with_reducible assumption
    | intro _
    | with_reducible apply keeps_modIsland
    | with_reducible apply keeps_setStatus

theorem keeps_returnTok {s0 : State} (s : State) (j : Job) (g : Tag) (res : Bytes) (hs : Keeps s0 s) :
    Keeps s0 (State.returnTok s j g res) := by
  unfold State.returnTok
  try dsimp only [State.fresh]
  repeat' first
    | with_reducible assumption
    | intro _
    | with_reducible apply keeps_emitRes
    | with_reducible apply keeps_settle
    | with_reducible apply keeps_foldl
    | with_reducible apply keeps_ite
    | with_reducible apply keeps_getD
    | with_reducible apply Memory.wf_set
    | with_reducible apply Memory.wf_setN
    | with_reducible apply keeps_wf
    | split

theorem keeps_cmdDone {s0 : State} (s : State) (j : Job) (hs : Keeps s0 s) :
    Keeps s0 (State.cmdDone s j) := by
  unfold State.cmdDone
  try dsimp only [State.fresh]
  repeat' first
    | with_reducible assumption
    | intro _
    | with_reducible apply keeps_countRecv

theorem keeps_weightsDone {s0 : State} (s : State) (c : IslCmd) (hs : Keeps s0 s) :
    Keeps s0 (State.weightsDone s c) := by
  unfold State.weightsDone
  try dsimp only [State.fresh]
  repeat' first
    | with_reducible assumption
    | intro _
    | with_reducible apply keeps_consume
    | with_reducible apply keeps_freeReply
    | with_reducible apply keeps_returnTok
    | with_reducible apply keeps_serialDone
    | with_reducible apply keeps_foldl
    | with_reducible apply keeps_ite
    | with_reducible apply keeps_getD
    | with_reducible apply Memory.wf_set
    | with_reducible apply Memory.wf_setN
    | with_reducible apply keeps_wf
    | split

theorem keeps_weightsGone {s0 : State} (s : State) (c : IslCmd) (hs : Keeps s0 s) :
    Keeps s0 (State.weightsGone s c) := by
  unfold State.weightsGone
  try dsimp only [State.fresh]
  repeat' first
    | with_reducible assumption
    | intro _
    | with_reducible apply keeps_consume
    | with_reducible apply keeps_freeReply
    | with_reducible apply keeps_serialDone
    | with_reducible apply keeps_foldl
    | with_reducible apply keeps_ite
    | with_reducible apply keeps_getD
    | with_reducible apply Memory.wf_set
    | with_reducible apply Memory.wf_setN
    | with_reducible apply keeps_wf
    | split

theorem keeps_release {s0 : State} (s : State) (d : Nat) (lead : Nat) (p : Nat × Nat) (g0 : Nat) (m : Nat) (n : Option Nat) (j : Job) (hs : Keeps s0 s) :
    Keeps s0 (State.release s d lead p g0 m n j) := by
  unfold State.release
  try dsimp only [State.fresh]
  repeat' first
    | with_reducible assumption
    | intro _
    | with_reducible apply keeps_due
    | with_reducible apply keeps_islandNote
    | with_reducible apply keeps_modIsland
    | with_reducible apply keeps_foldl
    | with_reducible apply keeps_ite

theorem keeps_testEnds {s0 : State} (s : State) (d : Nat) (lead : Nat) (p : Nat × Nat) (hs : Keeps s0 s) :
    Keeps s0 (State.testEnds s d lead p) := by
  unfold State.testEnds
  try dsimp only [State.fresh]
  repeat' first
    | with_reducible assumption
    | intro _
    | with_reducible apply keeps_due
    | with_reducible apply keeps_modIsland
    | with_reducible apply keeps_release
    | with_reducible apply keeps_foldl
    | with_reducible apply keeps_ite

theorem keeps_landOne {s0 : State} (s : State) (d : Nat) (k : Nat) (hs : Keeps s0 s) :
    Keeps s0 (State.landOne s d k) := by
  unfold State.landOne
  try dsimp only [State.fresh]
  repeat' first
    | with_reducible assumption
    | intro _
    | with_reducible apply keeps_modIsland
    | with_reducible apply keeps_testEnds
    | with_reducible apply keeps_foldl
    | with_reducible apply keeps_ite
    | with_reducible apply keeps_getD
    | with_reducible apply Memory.wf_set
    | with_reducible apply Memory.wf_setN
    | with_reducible apply keeps_wf
    | split

theorem keeps_landAll {s0 : State} (s : State) (d : Nat) (k : Nat) (hs : Keeps s0 s) :
    Keeps s0 (State.landAll s d k) := by
  unfold State.landAll
  try dsimp only [State.fresh]
  repeat' first
    | with_reducible assumption
    | intro _
    | with_reducible apply keeps_landOne
    | with_reducible apply keeps_foldl

theorem keeps_rowEnter {s0 : State} (s : State) (d : Nat) (lead : Nat) (g : Nat) (a : Bytes) (ty : Ty) (sparse : Bool) (hs : Keeps s0 s) :
    Keeps s0 (State.rowEnter s d lead g a ty sparse) := by
  unfold State.rowEnter
  try dsimp only [State.fresh]
  repeat' first
    | with_reducible assumption
    | intro _
    | with_reducible apply keeps_due
    | with_reducible apply keeps_islandNote
    | with_reducible apply keeps_modIsland
    | with_reducible apply keeps_foldl
    | with_reducible apply keeps_ite

theorem keeps_scaleEnter {s0 : State} (s : State) (d : Nat) (lead : Nat) (p : Nat × Nat) (f : Nat) (bs : Bytes) (hs : Keeps s0 s) :
    Keeps s0 (State.scaleEnter s d lead p f bs) := by
  unfold State.scaleEnter
  try dsimp only [State.fresh]
  repeat' first
    | with_reducible assumption
    | intro _
    | with_reducible apply keeps_islandNote
    | with_reducible apply keeps_modIsland
    | with_reducible apply keeps_foldl
    | with_reducible apply keeps_ite

theorem keeps_metaFault {s0 : State} (s : State) (d : Nat) (lead : Nat) (j : Job) (bad : Option (Nat × Nat × Nat)) (hs : Keeps s0 s) :
    Keeps s0 (State.metaFault s d lead j bad) := by
  unfold State.metaFault
  try dsimp only [State.fresh]
  repeat' first
    | with_reducible assumption
    | intro _
    | with_reducible apply keeps_modIsland
    | with_reducible apply keeps_raiseFault
    | with_reducible apply keeps_foldl

theorem keeps_metaEnter {s0 : State} (s : State) (d : Nat) (lead : Nat) (c : IslCmd) (kp : Nat) (nb : Nat) (hs : Keeps s0 s) :
    Keeps s0 (State.metaEnter s d lead c kp nb) := by
  unfold State.metaEnter
  try dsimp only [State.fresh]
  repeat' first
    | with_reducible assumption
    | intro _
    | with_reducible apply keeps_metaFault
    | with_reducible apply keeps_modIsland
    | with_reducible apply keeps_weightsDone
    | with_reducible apply keeps_weightsGone
    | with_reducible apply keeps_foldl
    | with_reducible apply keeps_ite
    | with_reducible apply keeps_getD
    | with_reducible apply Memory.wf_set
    | with_reducible apply Memory.wf_setN
    | with_reducible apply keeps_wf
    | split

theorem keeps_cmdEnter {s0 : State} (s : State) (d : Nat) (lead : Nat) (c : IslCmd) (hs : Keeps s0 s) :
    Keeps s0 (State.cmdEnter s d lead c) := by
  unfold State.cmdEnter
  try dsimp only [State.fresh]
  repeat' first
    | with_reducible assumption
    | intro _
    | with_reducible apply keeps_cmdDone
    | with_reducible apply keeps_countSent
    | with_reducible apply keeps_landAll
    | with_reducible apply keeps_metaEnter
    | with_reducible apply keeps_modIsland
    | with_reducible apply keeps_release
    | with_reducible apply keeps_returnTok
    | with_reducible apply keeps_scaleEnter
    | with_reducible apply keeps_testEnds
    | with_reducible apply keeps_weightsDone
    | with_reducible apply keeps_foldl
    | with_reducible apply keeps_ite
    | with_reducible apply keeps_getD
    | with_reducible apply Memory.wf_set
    | with_reducible apply Memory.wf_setN
    | with_reducible apply keeps_wf
    | split

theorem keeps_leavePort {s0 : State} (s : State) (d : Nat) (lead : Nat) (c : IslCmd) (hs : Keeps s0 s) :
    Keeps s0 (State.leavePort s d lead c) := by
  unfold State.leavePort
  try dsimp only [State.fresh]
  repeat' first
    | with_reducible assumption
    | intro _
    | with_reducible apply keeps_modIsland
    | with_reducible apply keeps_modTile

theorem keeps_islandStep {s0 : State} (s : State) (d : Nat) (lead : Nat) (hs : Keeps s0 s) :
    Keeps s0 (State.islandStep s d lead) := by
  unfold State.islandStep
  try dsimp only [State.fresh]
  repeat' first
    | with_reducible assumption
    | intro _
    | with_reducible apply keeps_cmdDone
    | with_reducible apply keeps_cmdEnter
    | with_reducible apply keeps_due
    | with_reducible apply keeps_leavePort
    | with_reducible apply keeps_modDie
    | with_reducible apply keeps_modIsland
    | with_reducible apply keeps_modTile
    | with_reducible apply keeps_rowEnter
    | with_reducible apply keeps_foldl
    | with_reducible apply keeps_ite
    | with_reducible apply keeps_getD
    | with_reducible apply Memory.wf_set
    | with_reducible apply Memory.wf_setN
    | with_reducible apply keeps_wf
    | split

theorem keeps_islFault {s0 : State} (s : State) (j : Job) (a : Nat) (desc : Bool) (hs : Keeps s0 s) :
    Keeps s0 (State.islFault s j a desc) := by
  unfold State.islFault
  try dsimp only [State.fresh]
  repeat' first
    | with_reducible assumption
    | intro _
    | with_reducible apply keeps_leaseFault

theorem keeps_sendCmd {s0 : State} (s : State) (j : Job) (q : IslPort) (port : Nat) (n : Nat) (op : IslOp) (id : Nat) (ready : Bool) (hs : Keeps s0 s) :
    Keeps s0 (State.sendCmd s j q port n op id ready) := by
  unfold State.sendCmd
  try dsimp only [State.fresh]
  repeat' first
    | with_reducible assumption
    | intro _
    | with_reducible apply keeps_due
    | with_reducible apply keeps_modIsland
    | with_reducible apply keeps_modTile

theorem keeps_sendNow {s0 : State} (s : State) (j : Job) (q : IslPort) (port : Nat) (n : Nat) (op : IslOp) (hs : Keeps s0 s) :
    Keeps s0 (State.sendNow s j q port n op) := by
  unfold State.sendNow
  try dsimp only [State.fresh]
  repeat' first
    | with_reducible assumption
    | intro _
    | with_reducible apply keeps_consume
    | with_reducible apply keeps_countSent
    | with_reducible apply keeps_sendCmd
    | with_reducible apply keeps_foldl
    | with_reducible apply keeps_ite
    | with_reducible apply keeps_getD
    | with_reducible apply Memory.wf_set
    | with_reducible apply Memory.wf_setN
    | with_reducible apply keeps_wf
    | split
    | with_reducible refine keeps_mk ?_ ?_ ?_

theorem keeps_fireIsland {s0 : State} (slots : Job → State → Nat) (f : Fields) (go : Job → State → IslPort → State) (s : State) (hgo : ∀ x0 x1 x2, Keeps s0 x1 → Keeps s0 (go x0 x1 x2)) (hs : Keeps s0 s) :
    Keeps s0 (fireIsland slots f go s) := by
  unfold fireIsland
  try dsimp only [State.fresh]
  repeat' first
    | with_reducible assumption
    | intro _
    | with_reducible apply keeps_fire
    | with_reducible apply keeps_offerAgain
    | apply hgo
    | with_reducible apply keeps_foldl
    | with_reducible apply keeps_ite
    | with_reducible apply keeps_getD
    | with_reducible apply Memory.wf_set
    | with_reducible apply Memory.wf_setN
    | with_reducible apply keeps_wf
    | split

theorem keeps_sendLoad {s0 : State} (s : State) (j : Job) (q : IslPort) (major : Nat) (minor : Nat) (loads : List (Nat × Nat)) (op : IslOp) (sparse : Bool) (hs : Keeps s0 s) :
    Keeps s0 (State.sendLoad s j q major minor loads op sparse) := by
  unfold State.sendLoad
  try dsimp only [State.fresh]
  repeat' first
    | with_reducible assumption
    | intro _
    | with_reducible apply keeps_agqNote
    | with_reducible apply keeps_issueSlot
    | with_reducible apply keeps_leaseFault
    | with_reducible apply keeps_modTile
    | with_reducible apply keeps_offerAgain
    | with_reducible apply keeps_sendCmd
    | with_reducible apply keeps_foldl
    | with_reducible apply keeps_ite
    | with_reducible apply keeps_getD
    | with_reducible apply Memory.wf_set
    | with_reducible apply Memory.wf_setN
    | with_reducible apply keeps_wf
    | split
    | with_reducible refine keeps_mk ?_ ?_ ?_

theorem keeps_fireLoadB {s0 : State} (major : Nat) (sparse : Bool) (f : Fields) (s : State) (hs : Keeps s0 s) :
    Keeps s0 (fireLoadB major sparse f s) := by
  unfold fireLoadB
  try dsimp only [State.fresh]
  repeat' first
    | with_reducible assumption
    | intro _
    | with_reducible apply keeps_islFault
    | with_reducible apply keeps_sendLoad
    | with_reducible apply keeps_fireIsland
    | with_reducible apply keeps_foldl
    | with_reducible apply keeps_ite

theorem keeps_gatherAll {s0 : State} (s : State) (n : Nat) (hs : Keeps s0 s) :
    Keeps s0 (State.gatherAll s n) := by
  unfold State.gatherAll
  try dsimp only [State.fresh]
  repeat' first
    | with_reducible assumption
    | intro _
    | with_reducible apply keeps_foldl
    | with_reducible apply keeps_ite
    | with_reducible apply keeps_getD
    | with_reducible apply Memory.wf_set
    | with_reducible apply Memory.wf_setN
    | with_reducible apply keeps_wf
    | split
    | with_reducible refine keeps_mk ?_ ?_ ?_

theorem keeps_sendRows {s0 : State} (s : State) (j : Job) (q : IslPort) (rs : List (Nat × Nat)) (sparse : Bool) (hs : Keeps s0 s) :
    Keeps s0 (State.sendRows s j q rs sparse) := by
  unfold State.sendRows
  try dsimp only [State.fresh]
  repeat' first
    | with_reducible assumption
    | intro _
    | with_reducible apply keeps_islFault
    | with_reducible apply keeps_modIsland
    | with_reducible apply keeps_returnTok
    | with_reducible apply keeps_sendNow
    | with_reducible apply keeps_foldl
    | with_reducible apply keeps_ite
    | with_reducible apply keeps_getD
    | with_reducible apply Memory.wf_set
    | with_reducible apply Memory.wf_setN
    | with_reducible apply keeps_wf
    | split

theorem keeps_fireAcc {s0 : State} (f : Fields) (seg : Bool) (op : Job → State → Bytes → IslOp) (s : State) (hs : Keeps s0 s) :
    Keeps s0 (fireAcc f seg op s) := by
  unfold fireAcc
  try dsimp only [State.fresh]
  repeat' first
    | with_reducible assumption
    | intro _
    | with_reducible apply keeps_islFault
    | with_reducible apply keeps_sendNow
    | with_reducible apply keeps_fireIsland
    | with_reducible apply keeps_foldl
    | with_reducible apply keeps_ite

theorem keeps_modRings {s0 : State} (s : State) (d : Nat) (g : Rings → Rings) (hs : Keeps s0 s) :
    Keeps s0 (State.modRings s d g) := by
  unfold State.modRings
  try dsimp only [State.fresh]
  repeat' first
    | with_reducible assumption
    | intro _
    | with_reducible apply keeps_modDie

theorem keeps_complete {s0 : State} (s : State) (c : Command) (status : Nat) (result : Nat) (hs : Keeps s0 s) :
    Keeps s0 (State.complete s c status result) := by
  unfold State.complete
  try dsimp only [State.fresh]
  repeat' first
    | with_reducible assumption
    | intro _
    | with_reducible apply keeps_modRings
    | with_reducible apply keeps_foldl
    | with_reducible apply keeps_ite
    | with_reducible apply keeps_getD
    | with_reducible apply Memory.wf_set
    | with_reducible apply Memory.wf_setN
    | with_reducible apply keeps_wf
    | split
    | with_reducible refine keeps_mk ?_ ?_ ?_

theorem keeps_takeNext {s0 : State} (s : State) (d n : Nat) (hs : Keeps s0 s) : Keeps s0 (State.takeNext s d n) := by
  induction n generalizing s with
  | zero => exact hs
  | succ n ih =>
    unfold State.takeNext
    dsimp only
    split
    · exact hs
    · split
      · exact keeps_post _ _ (keeps_modRings _ _ _ (keeps_modRings _ _ _ hs))
      · exact ih _ (keeps_complete _ _ _ _ (keeps_modRings _ _ _ hs))

theorem keeps_finish {s0 : State} (s : State) (c : Command) (status : Nat) (result : Nat) (hs : Keeps s0 s) :
    Keeps s0 (State.finish s c status result) := by
  unfold State.finish
  try dsimp only [State.fresh]
  repeat' first
    | with_reducible assumption
    | intro _
    | with_reducible apply keeps_complete
    | with_reducible apply keeps_modRings
    | with_reducible apply keeps_takeNext

theorem keeps_done {s0 : State} (s : State) (c : Command) (status : Nat) (hs : Keeps s0 s) :
    Keeps s0 (State.done s c status) := by
  unfold State.done
  try dsimp only [State.fresh]
  repeat' first
    | with_reducible assumption
    | intro _
    | with_reducible apply keeps_finish

theorem keeps_doorbell {s0 : State} (s : State) (d : Nat) (tail : BitVec 32) (hs : Keeps s0 s) :
    Keeps s0 (State.doorbell s d tail) := by
  unfold State.doorbell
  try dsimp only [State.fresh]
  repeat' first
    | with_reducible assumption
    | intro _
    | with_reducible apply keeps_modRings
    | with_reducible apply keeps_takeNext
    | with_reducible apply keeps_foldl
    | with_reducible apply keeps_ite

theorem keeps_flushEvents {s0 : State} (s : State) (d n : Nat) (hs : Keeps s0 s) : Keeps s0 (State.flushEvents s d n) := by
  induction n generalizing s with
  | zero => exact hs
  | succ n ih =>
    unfold State.flushEvents
    dsimp only
    split
    · exact hs
    · split
      · exact hs
      · exact ih _ (keeps_modRings _ _ _ (keeps_mk hs keeps_wf (Memory.wf_setN _ _)))

theorem keeps_hostBack {s0 : State} (s : State) (hs : Keeps s0 s) :
    Keeps s0 (State.hostBack s) := by
  unfold State.hostBack
  try dsimp only [State.fresh]
  repeat' first
    | with_reducible assumption
    | intro _
    | with_reducible apply keeps_flushEvents
    | with_reducible apply keeps_modRings
    | with_reducible apply keeps_takeNext
    | with_reducible apply keeps_foldl
    | with_reducible apply keeps_ite
    | with_reducible apply keeps_getD
    | with_reducible apply Memory.wf_set
    | with_reducible apply Memory.wf_setN
    | with_reducible apply keeps_wf
    | split
    | with_reducible refine keeps_mk ?_ ?_ ?_

theorem keeps_eheadWrite {s0 : State} (s : State) (d : Nat) (v : BitVec 32) (hs : Keeps s0 s) :
    Keeps s0 (State.eheadWrite s d v) := by
  unfold State.eheadWrite
  try dsimp only [State.fresh]
  repeat' first
    | with_reducible assumption
    | intro _
    | with_reducible apply keeps_flushEvents
    | with_reducible apply keeps_modRings

theorem keeps_modNet {s0 : State} (s : State) (d : Nat) (g : Net → Net) (hs : Keeps s0 s) :
    Keeps s0 (State.modNet s d g) := by
  unfold State.modNet
  try dsimp only [State.fresh]
  repeat' first
    | with_reducible assumption
    | intro _
    | with_reducible apply keeps_modDie

theorem keeps_netCount {s0 : State} (s : State) (d : Nat) (lo : Nat) (hs : Keeps s0 s) :
    Keeps s0 (State.netCount s d lo) := by
  unfold State.netCount
  try dsimp only [State.fresh]
  repeat' first
    | with_reducible assumption
    | intro _
    | with_reducible apply keeps_modNet

theorem keeps_netSend {s0 : State} (s : State) (d : Nat) (p : NetPacket) (hs : Keeps s0 s) :
    Keeps s0 (State.netSend s d p) := by
  unfold State.netSend
  try dsimp only [State.fresh]
  repeat' first
    | with_reducible assumption
    | intro _
    | with_reducible apply keeps_modNet

theorem keeps_setNcnt {s0 : State} (s : State) (c : Nat) (d : Nat) (k : Nat) (v : BitVec 64) (hs : Keeps s0 s) :
    Keeps s0 (State.setNcnt s c d k v) := by
  unfold State.setNcnt
  try dsimp only [State.fresh]
  repeat' first
    | with_reducible assumption
    | intro _
    | with_reducible apply keeps_modCd

theorem keeps_netAnswer {s0 : State} (s : State) (t : TileId) (slot : Nat) (k : Nat) (r : Reply) (hs : Keeps s0 s) :
    Keeps s0 (State.netAnswer s t slot k r) := by
  unfold State.netAnswer
  try dsimp only [State.fresh]
  repeat' first
    | with_reducible assumption
    | intro _
    | with_reducible apply keeps_acquire
    | with_reducible apply keeps_consume
    | with_reducible apply keeps_emitAll
    | with_reducible apply keeps_freeReply
    | with_reducible apply keeps_serialDone
    | with_reducible apply keeps_settle

theorem keeps_netWake {s0 : State} (s : State) (c : Nat) (d : Nat) (k : Nat) (hs : Keeps s0 s) :
    Keeps s0 (State.netWake s c d k) := by
  unfold State.netWake
  try dsimp only [State.fresh]
  repeat' first
    | with_reducible assumption
    | intro _
    | with_reducible apply keeps_netAnswer
    | with_reducible apply keeps_foldl

theorem keeps_fenceWake {s0 : State} (s : State) (c : Nat) (d : Nat) (id : Nat) (hs : Keeps s0 s) :
    Keeps s0 (State.fenceWake s c d id) := by
  unfold State.fenceWake
  try dsimp only [State.fresh]
  repeat' first
    | with_reducible assumption
    | intro _
    | with_reducible apply keeps_consume
    | with_reducible apply keeps_emitAll
    | with_reducible apply keeps_freeReply
    | with_reducible apply keeps_modTile
    | with_reducible apply keeps_serialDone
    | with_reducible apply keeps_settle
    | with_reducible apply keeps_foldl
    | with_reducible apply keeps_ite
    | with_reducible apply keeps_getD
    | with_reducible apply Memory.wf_set
    | with_reducible apply Memory.wf_setN
    | with_reducible apply keeps_wf
    | split

theorem keeps_postDone {s0 : State} (s : State) (d : Nat) (id : Nat) (hs : Keeps s0 s) :
    Keeps s0 (State.postDone s d id) := by
  unfold State.postDone
  try dsimp only [State.fresh]
  repeat' first
    | with_reducible assumption
    | intro _
    | with_reducible apply keeps_emitDone
    | with_reducible apply keeps_modNet
    | with_reducible apply keeps_settle
    | with_reducible apply keeps_foldl
    | with_reducible apply keeps_ite
    | with_reducible apply keeps_getD
    | with_reducible apply Memory.wf_set
    | with_reducible apply Memory.wf_setN
    | with_reducible apply keeps_wf
    | split

theorem keeps_netEnd {s0 : State} (s : State) (d : Nat) (id : Nat) (cause : Nat) (hs : Keeps s0 s) :
    Keeps s0 (State.netEnd s d id cause) := by
  unfold State.netEnd
  try dsimp only [State.fresh]
  repeat' first
    | with_reducible assumption
    | intro _
    | with_reducible apply keeps_modNet
    | with_reducible apply keeps_post
    | with_reducible apply keeps_postDone
    | with_reducible apply keeps_foldl
    | with_reducible apply keeps_ite
    | with_reducible apply keeps_getD
    | with_reducible apply Memory.wf_set
    | with_reducible apply Memory.wf_setN
    | with_reducible apply keeps_wf
    | split

theorem keeps_netUpdate {s0 : State} (s : State) (d : Nat) (id : Nat) (hs : Keeps s0 s) :
    Keeps s0 (State.netUpdate s d id) := by
  unfold State.netUpdate
  try dsimp only [State.fresh]
  repeat' first
    | with_reducible assumption
    | intro _
    | with_reducible apply keeps_catalogue
    | with_reducible apply keeps_curEvent
    | with_reducible apply keeps_dieRecv
    | with_reducible apply keeps_fenceWake
    | with_reducible apply keeps_logEvent
    | with_reducible apply keeps_modCd
    | with_reducible apply keeps_modNet
    | with_reducible apply keeps_netWake
    | with_reducible apply keeps_place
    | with_reducible apply keeps_post
    | with_reducible apply keeps_setNcnt
    | with_reducible apply keeps_wait
    | with_reducible apply keeps_foldl
    | with_reducible apply keeps_ite
    | with_reducible apply keeps_getD
    | refine keeps_of_goG ?_ (by with_reducible assumption)
    | refine keeps_of_waitG ?_ (by with_reducible assumption)
    | with_reducible apply keeps_goG
    | with_reducible apply keeps_waitG
    | with_reducible apply keeps_iteGate
    | with_reducible apply keeps_foldlGate
    | with_reducible apply Memory.wf_set
    | with_reducible apply Memory.wf_setN
    | with_reducible apply keeps_wf
    | split

theorem keeps_netAccept {s0 : State} (s : State) (j : Job) (w : Bytes) (hs : Keeps s0 s) :
    Keeps s0 (State.netAccept s j w) := by
  unfold State.netAccept
  try dsimp only [State.fresh]
  repeat' first
    | with_reducible assumption
    | intro _
    | with_reducible apply keeps_consume
    | with_reducible apply keeps_dieSent
    | with_reducible apply keeps_done
    | with_reducible apply keeps_emitDone
    | with_reducible apply keeps_emitRes
    | with_reducible apply keeps_modCd
    | with_reducible apply keeps_modNet
    | with_reducible apply keeps_netEnd
    | with_reducible apply keeps_post
    | with_reducible apply keeps_foldl
    | with_reducible apply keeps_ite
    | with_reducible apply keeps_getD
    | with_reducible apply Memory.wf_set
    | with_reducible apply Memory.wf_setN
    | with_reducible apply keeps_wf
    | split
    | with_reducible refine keeps_mk ?_ ?_ ?_

theorem keeps_netUnmapped {s0 : State} (s : State) (d : Nat) (c : Nat) (a : Nat) (n : Nat) (hs : Keeps s0 s) :
    Keeps s0 (State.netUnmapped s d c a n) := by
  unfold State.netUnmapped
  try dsimp only [State.fresh]
  repeat' first
    | with_reducible assumption
    | intro _
    | with_reducible apply keeps_raiseFault
    | with_reducible apply keeps_foldl
    | with_reducible apply keeps_ite

theorem keeps_netSendStep {s0 : State} (s : State) (d : Nat) (id : Nat) (hs : Keeps s0 s) :
    Keeps s0 (State.netSendStep s d id) := by
  unfold State.netSendStep
  try dsimp only [State.fresh]
  repeat' first
    | with_reducible assumption
    | intro _
    | with_reducible apply keeps_modNet
    | with_reducible apply keeps_netEnd
    | with_reducible apply keeps_netSend
    | with_reducible apply keeps_netUnmapped
    | with_reducible apply keeps_post
    | with_reducible apply keeps_postDone
    | with_reducible apply keeps_foldl
    | with_reducible apply keeps_ite
    | with_reducible apply keeps_getD
    | with_reducible apply Memory.wf_set
    | with_reducible apply Memory.wf_setN
    | with_reducible apply keeps_wf
    | split

theorem keeps_netCredit {s0 : State} (s : State) (c : Nat) (d : Nat) (cred : BitVec 64) (n : Nat) (hs : Keeps s0 s) :
    Keeps s0 (State.netCredit s c d cred n) := by
  unfold State.netCredit
  try dsimp only [State.fresh]
  repeat' first
    | with_reducible assumption
    | intro _
    | with_reducible apply keeps_dieSent
    | with_reducible apply keeps_emitPkt
    | with_reducible apply keeps_foldl
    | with_reducible apply keeps_ite

theorem keeps_netWrite {s0 : State} (s : State) (c : Nat) (d : Nat) (a : Nat) (bs : Bytes) (hs : Keeps s0 s) :
    Keeps s0 (State.netWrite s c d a bs) := by
  unfold State.netWrite
  try dsimp only [State.fresh]
  repeat' first
    | with_reducible assumption
    | intro _
    | with_reducible apply keeps_modCd
    | with_reducible apply keeps_noteWrite
    | with_reducible apply keeps_writeVa
    | with_reducible apply keeps_foldl
    | with_reducible apply keeps_ite
    | with_reducible apply keeps_getD
    | with_reducible apply Memory.wf_set
    | with_reducible apply Memory.wf_setN
    | with_reducible apply keeps_wf
    | split

theorem keeps_netPast {s0 : State} (s : State) (d : Nat) (p : NetPacket) (hs : Keeps s0 s) :
    Keeps s0 (State.netPast s d p) := by
  unfold State.netPast
  try dsimp only [State.fresh]
  repeat' first
    | with_reducible assumption
    | intro _
    | with_reducible apply keeps_modNet

theorem keeps_netNotify {s0 : State} (s : State) (d : Nat) (p : NetPacket) (window : Nat) (entry : Bytes) (notify : Bool) (hs : Keeps s0 s) :
    Keeps s0 (State.netNotify s d p window entry notify) := by
  unfold State.netNotify
  try dsimp only [State.fresh]
  repeat' first
    | with_reducible assumption
    | intro _
    | with_reducible apply keeps_modNet
    | with_reducible apply keeps_post
    | with_reducible apply keeps_foldl
    | with_reducible apply keeps_ite
    | with_reducible apply keeps_getD
    | with_reducible apply Memory.wf_set
    | with_reducible apply Memory.wf_setN
    | with_reducible apply keeps_wf
    | split
    | with_reducible refine keeps_mk ?_ ?_ ?_

theorem keeps_netRefuse {s0 : State} (s : State) (d : Nat) (p : NetPacket) (hs : Keeps s0 s) :
    Keeps s0 (State.netRefuse s d p) := by
  unfold State.netRefuse
  try dsimp only [State.fresh]
  repeat' first
    | with_reducible assumption
    | intro _
    | with_reducible apply keeps_netCount
    | with_reducible apply keeps_netPast
    | with_reducible apply keeps_netSend

theorem keeps_netPlace {s0 : State} (s : State) (d : Nat) (p : NetPacket) (m : NetIn) (roff : Nat) (length : Nat) (notify : Bool) (data : Bytes) (hs : Keeps s0 s) :
    Keeps s0 (State.netPlace s d p m roff length notify data) := by
  unfold State.netPlace
  try dsimp only [State.fresh]
  repeat' first
    | with_reducible assumption
    | intro _
    | with_reducible apply keeps_done
    | with_reducible apply keeps_modNet
    | with_reducible apply keeps_netCount
    | with_reducible apply keeps_netCredit
    | with_reducible apply keeps_netNotify
    | with_reducible apply keeps_netPast
    | with_reducible apply keeps_netSend
    | with_reducible apply keeps_netUnmapped
    | with_reducible apply keeps_netWrite
    | with_reducible apply keeps_foldl
    | with_reducible apply keeps_ite

theorem keeps_netData {s0 : State} (s : State) (d : Nat) (p : NetPacket) (data : Bytes) (hs : Keeps s0 s) :
    Keeps s0 (State.netData s d p data) := by
  unfold State.netData
  try dsimp only [State.fresh]
  repeat' first
    | with_reducible assumption
    | intro _
    | with_reducible apply keeps_done
    | with_reducible apply keeps_due
    | with_reducible apply keeps_engineWrite
    | with_reducible apply keeps_modNet
    | with_reducible apply keeps_netCount
    | with_reducible apply keeps_netCredit
    | with_reducible apply keeps_netEnd
    | with_reducible apply keeps_netUnmapped
    | with_reducible apply keeps_netWrite
    | with_reducible apply keeps_post
    | with_reducible apply keeps_foldl
    | with_reducible apply keeps_ite
    | with_reducible apply keeps_getD
    | with_reducible apply Memory.wf_set
    | with_reducible apply Memory.wf_setN
    | with_reducible apply keeps_wf
    | split

theorem keeps_netReceive {s0 : State} (s : State) (d : Nat) (p : NetPacket) (hs : Keeps s0 s) :
    Keeps s0 (State.netReceive s d p) := by
  unfold State.netReceive
  try dsimp only [State.fresh]
  repeat' first
    | with_reducible assumption
    | intro _
    | with_reducible apply keeps_modNet
    | with_reducible apply keeps_netCount
    | with_reducible apply keeps_netData
    | with_reducible apply keeps_netEnd
    | with_reducible apply keeps_netNotify
    | with_reducible apply keeps_netPast
    | with_reducible apply keeps_netPlace
    | with_reducible apply keeps_netRefuse
    | with_reducible apply keeps_netSend
    | with_reducible apply keeps_netUnmapped
    | with_reducible apply keeps_refuse
    | with_reducible apply keeps_foldl
    | with_reducible apply keeps_ite
    | with_reducible apply keeps_getD
    | with_reducible apply Memory.wf_set
    | with_reducible apply Memory.wf_setN
    | with_reducible apply keeps_wf
    | split

theorem keeps_netHold {s0 : State} (s : State) (j : Job) (minor : Nat) (kind : ReplyKind) (a : Bytes) (hs : Keeps s0 s) :
    Keeps s0 (State.netHold s j minor kind a) := by
  unfold State.netHold
  try dsimp only [State.fresh]
  repeat' first
    | with_reducible assumption
    | intro _
    | with_reducible apply keeps_agqNote
    | with_reducible apply keeps_modTile
    | with_reducible apply keeps_offerAgain
    | with_reducible apply keeps_foldl
    | with_reducible apply keeps_ite
    | with_reducible apply keeps_getD
    | with_reducible apply Memory.wf_set
    | with_reducible apply Memory.wf_setN
    | with_reducible apply keeps_wf
    | split
    | with_reducible refine keeps_mk ?_ ?_ ?_

theorem keeps_emitTimed {s0 : State} (s : State) (j : Job) (bs : Bytes) (hs : Keeps s0 s) :
    Keeps s0 (State.emitTimed s j bs) := by
  unfold State.emitTimed
  try dsimp only [State.fresh]
  repeat' first
    | with_reducible assumption
    | intro _
    | with_reducible apply keeps_consume
    | with_reducible apply keeps_emitBoth
    | with_reducible apply keeps_setStatus
    | with_reducible apply keeps_foldl
    | with_reducible apply keeps_ite

theorem keeps_modLink {s0 : State} (s : State) (d : Nat) (port : Nat) (g : Link → Link) (hs : Keeps s0 s) :
    Keeps s0 (State.modLink s d port g) := by
  unfold State.modLink
  try dsimp only [State.fresh]
  repeat' first
    | with_reducible assumption
    | intro _
    | with_reducible apply keeps_modDie

theorem keeps_trainEnd {s0 : State} (s : State) (d : Nat) (port : Nat) (hs : Keeps s0 s) :
    Keeps s0 (State.trainEnd s d port) := by
  unfold State.trainEnd
  try dsimp only [State.fresh]
  repeat' first
    | with_reducible assumption
    | intro _
    | with_reducible apply keeps_modLink
    | with_reducible apply keeps_post
    | with_reducible apply keeps_retrain
    | with_reducible apply keeps_foldl
    | with_reducible apply keeps_ite

theorem keeps_retrain {s0 : State} (s : State) (d : Nat) (port : Nat) (hs : Keeps s0 s) :
    Keeps s0 (State.retrain s d port) := by
  unfold State.retrain
  try dsimp only [State.fresh]
  repeat' first
    | with_reducible assumption
    | intro _
    | with_reducible apply keeps_trainEnd
    | with_reducible apply keeps_foldl
    | with_reducible apply keeps_ite

theorem keeps_linkReset {s0 : State} (s : State) (d : Nat) (port : Nat) (hs : Keeps s0 s) :
    Keeps s0 (State.linkReset s d port) := by
  unfold State.linkReset
  try dsimp only [State.fresh]
  repeat' first
    | with_reducible assumption
    | intro _
    | with_reducible apply keeps_modLink
    | with_reducible apply keeps_trainEnd
    | with_reducible apply keeps_foldl
    | with_reducible apply keeps_ite
    | with_reducible apply keeps_getD
    | with_reducible apply Memory.wf_set
    | with_reducible apply Memory.wf_setN
    | with_reducible apply keeps_wf
    | split

theorem keeps_trained {s0 : State} (s : State) (d : Nat) (port : Nat) (hs : Keeps s0 s) :
    Keeps s0 (State.trained s d port) := by
  unfold State.trained
  try dsimp only [State.fresh]
  repeat' first
    | with_reducible assumption
    | intro _
    | with_reducible apply keeps_confirm
    | with_reducible apply keeps_modLink
    | with_reducible apply keeps_post
    | with_reducible apply keeps_retrain
    | with_reducible apply keeps_foldl
    | with_reducible apply keeps_ite
    | with_reducible apply keeps_getD
    | with_reducible apply Memory.wf_set
    | with_reducible apply Memory.wf_setN
    | with_reducible apply keeps_wf
    | split

theorem keeps_linkFailed {s0 : State} (s : State) (d : Nat) (port : Nat) (hs : Keeps s0 s) :
    Keeps s0 (State.linkFailed s d port) := by
  unfold State.linkFailed
  try dsimp only [State.fresh]
  repeat' first
    | with_reducible assumption
    | intro _
    | with_reducible apply keeps_curEvent
    | with_reducible apply keeps_modLink
    | with_reducible apply keeps_foldl

theorem keeps_linkUp {s0 : State} (s : State) (d : Nat) (port : Nat) (v : LinkView) (hs : Keeps s0 s) :
    Keeps s0 (State.linkUp s d port v) := by
  unfold State.linkUp
  try dsimp only [State.fresh]
  repeat' first
    | with_reducible assumption
    | intro _
    | with_reducible apply keeps_hostBack
    | with_reducible apply keeps_modLink
    | with_reducible apply keeps_foldl
    | with_reducible apply keeps_ite

theorem keeps_confirm {s0 : State} (s : State) (d : Nat) (port : Nat) (own : LinkView) (peer : LinkView) (hs : Keeps s0 s) :
    Keeps s0 (State.confirm s d port own peer) := by
  unfold State.confirm
  try dsimp only [State.fresh]
  repeat' first
    | with_reducible assumption
    | intro _
    | with_reducible apply keeps_linkFailed
    | with_reducible apply keeps_linkUp
    | with_reducible apply keeps_modLink
    | with_reducible apply keeps_trainEnd
    | with_reducible apply keeps_foldl
    | with_reducible apply keeps_ite

theorem keeps_leaveSlot {s0 : State} (s : State) (p : Packet) (hs : Keeps s0 s) :
    Keeps s0 (State.leaveSlot s p) := by
  unfold State.leaveSlot
  try dsimp only [State.fresh]
  repeat' first
    | with_reducible assumption
    | intro _
    | with_reducible apply keeps_post
    | with_reducible apply keeps_foldl
    | with_reducible apply keeps_ite
    | with_reducible apply keeps_getD
    | with_reducible apply Memory.wf_set
    | with_reducible apply Memory.wf_setN
    | with_reducible apply keeps_wf
    | split

theorem keeps_departed {s0 : State} (s : State) (d : Nat) (p : Packet) (out : Bool) (hs : Keeps s0 s) :
    Keeps s0 (State.departed s d p out) := by
  unfold State.departed
  try dsimp only [State.fresh]
  repeat' first
    | with_reducible assumption
    | intro _
    | with_reducible apply keeps_dieRecv
    | with_reducible apply keeps_strike
    | with_reducible apply keeps_foldl
    | with_reducible apply keeps_ite
    | with_reducible apply keeps_getD
    | with_reducible apply Memory.wf_set
    | with_reducible apply Memory.wf_setN
    | with_reducible apply keeps_wf
    | split
    | with_reducible refine keeps_mk ?_ ?_ ?_

theorem keeps_sendOn {s0 : State} (s : State) (d : Nat) (port : Nat) (p : Packet) (next : Packet) (hs : Keeps s0 s) :
    Keeps s0 (State.sendOn s d port p next) := by
  unfold State.sendOn
  try dsimp only [State.fresh]
  repeat' first
    | with_reducible assumption
    | intro _
    | with_reducible apply keeps_departed
    | with_reducible apply keeps_leaveSlot
    | with_reducible apply keeps_modLink
    | with_reducible apply keeps_post
    | with_reducible apply keeps_foldl
    | with_reducible apply keeps_ite
    | with_reducible apply keeps_getD
    | with_reducible apply Memory.wf_set
    | with_reducible apply Memory.wf_setN
    | with_reducible apply keeps_wf
    | split

theorem keeps_deliverPkt {s0 : State} (s : State) (d : Nat) (p : Packet) (hs : Keeps s0 s) :
    Keeps s0 (State.deliverPkt s d p) := by
  unfold State.deliverPkt
  try dsimp only [State.fresh]
  repeat' first
    | with_reducible assumption
    | intro _
    | with_reducible apply keeps_cstatUp
    | with_reducible apply keeps_leaveSlot
    | with_reducible apply keeps_post
    | with_reducible apply keeps_foldl
    | with_reducible apply keeps_ite
    | with_reducible apply keeps_getD
    | with_reducible apply Memory.wf_set
    | with_reducible apply Memory.wf_setN
    | with_reducible apply keeps_wf
    | split

theorem keeps_hop {s0 : State} (s : State) (d : Nat) (p : Packet) (hs : Keeps s0 s) :
    Keeps s0 (State.hop s d p) := by
  unfold State.hop
  try dsimp only [State.fresh]
  repeat' first
    | with_reducible assumption
    | intro _
    | with_reducible apply keeps_cstatUp
    | with_reducible apply keeps_deliverPkt
    | with_reducible apply keeps_leaveSlot
    | with_reducible apply keeps_post
    | with_reducible apply keeps_sendOn
    | with_reducible apply keeps_foldl
    | with_reducible apply keeps_ite
    | with_reducible apply keeps_getD
    | with_reducible apply Memory.wf_set
    | with_reducible apply Memory.wf_setN
    | with_reducible apply keeps_wf
    | split

theorem keeps_atomLost {s0 : State} (s : State) (p : Packet) (req : BitVec 13) (other : Nat) (hs : Keeps s0 s) :
    Keeps s0 (State.atomLost s p req other) := by
  unfold State.atomLost
  try dsimp only [State.fresh]
  repeat' first
    | with_reducible assumption
    | intro _
    | with_reducible apply keeps_post
    | with_reducible apply keeps_remoteFault
    | with_reducible apply keeps_replyFault
    | with_reducible apply keeps_foldl
    | with_reducible apply keeps_ite
    | with_reducible apply keeps_getD
    | with_reducible apply Memory.wf_set
    | with_reducible apply Memory.wf_setN
    | with_reducible apply keeps_wf
    | split

theorem keeps_dropPkt {s0 : State} (s : State) (d : Nat) (p : Packet) (hs : Keeps s0 s) :
    Keeps s0 (State.dropPkt s d p) := by
  unfold State.dropPkt
  try dsimp only [State.fresh]
  repeat' first
    | with_reducible assumption
    | intro _
    | with_reducible apply keeps_atomLost
    | with_reducible apply keeps_cstatUp
    | with_reducible apply keeps_leaveSlot
    | with_reducible apply keeps_remoteFault
    | with_reducible apply keeps_strike
    | with_reducible apply keeps_foldl
    | with_reducible apply keeps_ite
    | with_reducible apply keeps_getD
    | with_reducible apply Memory.wf_set
    | with_reducible apply Memory.wf_setN
    | with_reducible apply keeps_wf
    | split

theorem keeps_resend {s0 : State} (s : State) (t : TileId) (slot : Nat) (hs : Keeps s0 s) :
    Keeps s0 (State.resend s t slot) := by
  unfold State.resend
  try dsimp only [State.fresh]
  repeat' first
    | with_reducible assumption
    | intro _
    | with_reducible apply keeps_emitPkt
    | with_reducible apply keeps_modTile
    | with_reducible apply keeps_post
    | with_reducible apply keeps_remoteFault
    | with_reducible apply keeps_replyFault
    | with_reducible apply keeps_setCopy
    | with_reducible apply keeps_streamReply
    | with_reducible apply keeps_foldl
    | with_reducible apply keeps_ite
    | with_reducible apply keeps_getD
    | with_reducible apply Memory.wf_set
    | with_reducible apply Memory.wf_setN
    | with_reducible apply keeps_wf
    | split

theorem keeps_notice {s0 : State} (s : State) (d : Nat) (source : Nat) (inc : BitVec 8) (hs : Keeps s0 s) :
    Keeps s0 (State.notice s d source inc) := by
  unfold State.notice
  try dsimp only [State.fresh]
  repeat' first
    | with_reducible assumption
    | intro _
    | with_reducible apply keeps_abortSend
    | with_reducible apply keeps_done
    | with_reducible apply keeps_modDie
    | with_reducible apply keeps_post
    | with_reducible apply keeps_relWake
    | with_reducible apply keeps_remoteFault
    | with_reducible apply keeps_replyFault
    | with_reducible apply keeps_streamReply
    | with_reducible apply keeps_foldl
    | with_reducible apply keeps_ite

theorem keeps_fireSteer {s0 : State} (k : Job → State → Bool) (f : Fields) (s : State) (hs : Keeps s0 s) :
    Keeps s0 (fireSteer k f s) := by
  unfold fireSteer
  try dsimp only [State.fresh]
  repeat' first
    | with_reducible assumption
    | intro _
    | with_reducible apply keeps_consume
    | with_reducible apply keeps_emitRes
    | with_reducible apply keeps_fire

theorem keeps_fireGet {s0 : State} (g : Tag → Bytes) (f : Fields) (s : State) (hs : Keeps s0 s) :
    Keeps s0 (fireGet g f s) := by
  unfold fireGet
  try dsimp only [State.fresh]
  repeat' first
    | with_reducible assumption
    | intro _
    | with_reducible apply keeps_fireValue

theorem keeps_fireSet {s0 : State} (g : Bytes → Tag → Tag) (f : Fields) (s : State) (hs : Keeps s0 s) :
    Keeps s0 (fireSet g f s) := by
  unfold fireSet
  try dsimp only [State.fresh]
  repeat' first
    | with_reducible assumption
    | intro _
    | with_reducible apply keeps_consume
    | with_reducible apply keeps_emitRes
    | with_reducible apply keeps_fire

theorem keeps_fireExit {s0 : State} (keep : Bool) (f : Fields) (s : State) (hs : Keeps s0 s) :
    Keeps s0 (fireExit keep f s) := by
  unfold fireExit
  try dsimp only [State.fresh]
  repeat' first
    | with_reducible assumption
    | intro _
    | with_reducible apply keeps_consume
    | with_reducible apply keeps_emitExit
    | with_reducible apply keeps_fireWith

theorem keeps_fireState {s0 : State} (new : Job → State → Bytes) (out : Job → State → Bytes) (f : Fields) (s : State) (hs : Keeps s0 s) :
    Keeps s0 (fireState new out f s) := by
  unfold fireState
  try dsimp only [State.fresh]
  repeat' first
    | with_reducible assumption
    | intro _
    | with_reducible apply keeps_consume
    | with_reducible apply keeps_emit2
    | with_reducible apply keeps_fire
    | with_reducible apply keeps_regLater

theorem keeps_modGram {s0 : State} (s : State) (d : Nat) (g : Gram → Gram) (hs : Keeps s0 s) :
    Keeps s0 (State.modGram s d g) := by
  unfold State.modGram
  try dsimp only [State.fresh]
  repeat' first
    | with_reducible assumption
    | intro _
    | with_reducible apply keeps_modDie

theorem keeps_gramTouch {s0 : State} (s : State) (d : Nat) (c : Nat) (slot : Nat) (lines : List Nat) (hs : Keeps s0 s) :
    Keeps s0 (State.gramTouch s d c slot lines) := by
  unfold State.gramTouch
  try dsimp only [State.fresh]
  repeat' first
    | with_reducible assumption
    | intro _
    | with_reducible apply keeps_modGram
    | with_reducible apply keeps_foldl
    | with_reducible apply keeps_ite

theorem keeps_gramTake {s0 : State} (s : State) (d : Nat) (hs : Keeps s0 s) :
    Keeps s0 (State.gramTake s d) := by
  unfold State.gramTake
  try dsimp only [State.fresh]
  repeat' first
    | with_reducible assumption
    | intro _
    | with_reducible apply keeps_consume
    | with_reducible apply keeps_due
    | with_reducible apply keeps_emitRes
    | with_reducible apply keeps_gramTouch
    | with_reducible apply keeps_jobFault
    | with_reducible apply keeps_modGram
    | with_reducible apply keeps_settle
    | with_reducible apply keeps_foldl
    | with_reducible apply keeps_ite
    | with_reducible apply keeps_getD
    | with_reducible apply Memory.wf_set
    | with_reducible apply Memory.wf_setN
    | with_reducible apply keeps_wf
    | split

theorem keeps_fireGram {s0 : State} (minor : Nat) (f : Fields) (s : State) (hs : Keeps s0 s) :
    Keeps s0 (fireGram minor f s) := by
  unfold fireGram
  try dsimp only [State.fresh]
  repeat' first
    | with_reducible assumption
    | intro _
    | with_reducible apply keeps_due
    | with_reducible apply keeps_fire
    | with_reducible apply keeps_modGram

end Sys2Proof.Machine
end

