-- ==== Sys2Proof/Laws/KeepsSystem.lean ====
section
/-! SUPPORT. Keeps: the same for boundaries, drains, contexts, saves, observation, power-up, Curator, key stores, the host and the turn of a cycle. One lemma
for each operation, in continuation form: what holds before it holds after it. -/

namespace Sys2Proof.Machine

theorem keeps_spillLevel0 {s0 : State} (s : State) (t : TileId) (hs : Keeps s0 s) :
    Keeps s0 (State.spillLevel0 s t) := by
  unfold State.spillLevel0
  try dsimp only [State.fresh]
  repeat' first
    | with_reducible assumption
    | intro _
    | with_reducible apply keeps_writeVa
    | with_reducible apply keeps_foldl
    | with_reducible apply keeps_ite
    | with_reducible apply keeps_getD
    | with_reducible apply Memory.wf_set
    | with_reducible apply Memory.wf_setN
    | with_reducible apply keeps_wf
    | split

theorem keeps_levels0 {s0 : State} (s : State) (c : Nat) (hs : Keeps s0 s) :
    Keeps s0 (State.levels0 s c) := by
  unfold State.levels0
  try dsimp only [State.fresh]
  repeat' first
    | with_reducible assumption
    | intro _
    | with_reducible apply keeps_modTile
    | with_reducible apply keeps_spillLevel0
    | with_reducible apply keeps_foldl
    | with_reducible apply keeps_ite
    | with_reducible apply keeps_getD
    | with_reducible apply Memory.wf_set
    | with_reducible apply Memory.wf_setN
    | with_reducible apply keeps_wf
    | split
    | with_reducible refine keeps_mk ?_ ?_ ?_

theorem keeps_boundaryGate {s0 : State} (s : State) (c : Nat) (r : LogRec) (hs : Keeps s0 s) :
    KeepsGate s0 (State.boundaryGate s c r) := by
  unfold State.boundaryGate
  dsimp only
  split
  · rename_i t heq
    obtain ⟨d, -, hd⟩ := List.exists_of_findSome?_eq_some heq
    split at hd
    · cases hd; exact keeps_waitG (keeps_of_waitG (keeps_logEvent _ _ _ _ hs) (by assumption))
    · cases hd
  · refine keeps_goG (keeps_foldl hs (fun t d ht => ?_))
    split
    · exact keeps_of_goG (keeps_logEvent _ _ _ _ ht) (by assumption)
    · exact keeps_of_waitG (keeps_logEvent _ _ _ _ ht) (by assumption)

theorem keeps_mapQueues {s0 : State} (s : State) (c : Nat) (g : Nat → Nat → Queue → Queue) (hs : Keeps s0 s) :
    Keeps s0 (State.mapQueues s c g) := by
  unfold State.mapQueues
  try dsimp only [State.fresh]
  repeat' first
    | with_reducible assumption
    | intro _
    | with_reducible apply keeps_foldl
    | with_reducible apply keeps_ite
    | with_reducible apply keeps_getD
    | with_reducible apply Memory.wf_set
    | with_reducible apply Memory.wf_setN
    | with_reducible apply keeps_wf
    | split
    | with_reducible refine keeps_mk ?_ ?_ ?_

theorem keeps_newInterval {s0 : State} (s : State) (c : Nat) (hs : Keeps s0 s) :
    Keeps s0 (State.newInterval s c) := by
  unfold State.newInterval
  try dsimp only [State.fresh]
  repeat' first
    | with_reducible assumption
    | intro _
    | with_reducible apply keeps_mapQueues
    | with_reducible apply keeps_modCd
    | with_reducible apply keeps_foldl

theorem keeps_intvOut {s0 : State} (s : State) (js : List (Job × Bytes)) (hs : Keeps s0 s) :
    Keeps s0 (State.intvOut s js) := by
  unfold State.intvOut
  try dsimp only [State.fresh]
  repeat' first
    | with_reducible assumption
    | intro _
    | with_reducible apply keeps_consume
    | with_reducible apply keeps_emit2
    | with_reducible apply keeps_settle
    | with_reducible apply keeps_foldl

theorem keeps_boundaryStep {s0 : State} (s : State) (c : Nat) (cause : Nat) (hs : Keeps s0 s) :
    Keeps s0 (State.boundaryStep s c cause) := by
  unfold State.boundaryStep
  try dsimp only [State.fresh]
  repeat' first
    | with_reducible assumption
    | intro _
    | with_reducible apply keeps_boundaryGate
    | with_reducible apply keeps_intvOut
    | with_reducible apply keeps_levels0
    | with_reducible apply keeps_modCtx
    | with_reducible apply keeps_modTile
    | with_reducible apply keeps_newInterval
    | with_reducible apply keeps_post
    | with_reducible apply keeps_wait
    | with_reducible apply keeps_wakeTile
    | with_reducible apply keeps_foldl
    | with_reducible apply keeps_ite
    | with_reducible apply keeps_getD
    | refine keeps_of_goG ?_ (by with_reducible assumption)
    | refine keeps_of_waitG ?_ (by with_reducible assumption)
    | with_reducible apply keeps_goG
    | with_reducible apply keeps_waitG
    | with_reducible apply keeps_iteGate
    | with_reducible apply keeps_foldlGate
    | with_reducible apply Memory.wf_set
    | with_reducible apply Memory.wf_setN
    | with_reducible apply keeps_wf
    | split
    | with_reducible refine keeps_mk ?_ ?_ ?_

theorem keeps_copyStep {s0 : State} (s : State) (d : Nat) (c : Nat) (unit : Nat) (hs : Keeps s0 s) :
    Keeps s0 (State.copyStep s d c unit) := by
  unfold State.copyStep
  try dsimp only [State.fresh]
  repeat' first
    | with_reducible assumption
    | intro _
    | with_reducible apply keeps_askBoundary
    | with_reducible apply keeps_post
    | with_reducible apply keeps_takeCopy
    | with_reducible apply keeps_foldl
    | with_reducible apply keeps_ite

theorem keeps_throwEvents {s0 : State} (s : State) (c : Nat) (hs : Keeps s0 s) :
    Keeps s0 (State.throwEvents s c) := by
  unfold State.throwEvents
  try dsimp only [State.fresh]
  repeat' first
    | with_reducible assumption
    | intro _
    | with_reducible apply keeps_leaveSlot
    | with_reducible apply keeps_foldl
    | with_reducible apply keeps_ite
    | with_reducible apply keeps_getD
    | with_reducible apply Memory.wf_set
    | with_reducible apply Memory.wf_setN
    | with_reducible apply keeps_wf
    | split
    | with_reducible refine keeps_mk ?_ ?_ ?_

theorem keeps_throwChip {s0 : State} (s : State) (c : Nat) (hs : Keeps s0 s) :
    Keeps s0 (State.throwChip s c) := by
  unfold State.throwChip
  try dsimp only [State.fresh]
  repeat' first
    | with_reducible assumption
    | intro _
    | with_reducible apply keeps_due
    | with_reducible apply keeps_freeIslands
    | with_reducible apply keeps_modTile
    | with_reducible apply keeps_throwEvents
    | with_reducible apply keeps_foldl
    | with_reducible apply keeps_ite
    | with_reducible apply keeps_getD
    | with_reducible apply Memory.wf_set
    | with_reducible apply Memory.wf_setN
    | with_reducible apply keeps_wf
    | split
    | with_reducible refine keeps_mk ?_ ?_ ?_

theorem keeps_netBack {s0 : State} (s : State) (c : Nat) (d : Nat) (snap : Snapshot) (hs : Keeps s0 s) :
    Keeps s0 (State.netBack s c d snap) := by
  unfold State.netBack
  try dsimp only [State.fresh]
  repeat' first
    | with_reducible assumption
    | intro _
    | with_reducible apply keeps_done
    | with_reducible apply keeps_due
    | with_reducible apply keeps_modNet
    | with_reducible apply keeps_netEnd
    | with_reducible apply keeps_postDone
    | with_reducible apply keeps_foldl
    | with_reducible apply keeps_ite
    | with_reducible apply keeps_getD
    | with_reducible apply Memory.wf_set
    | with_reducible apply Memory.wf_setN
    | with_reducible apply keeps_wf
    | split

theorem keeps_launchBack {s0 : State} (s : State) (p : Nat × Launch) (hs : Keeps s0 s) :
    Keeps s0 (State.launchBack s p) := by
  unfold State.launchBack
  try dsimp only [State.fresh]
  repeat' first
    | with_reducible assumption
    | intro _
    | with_reducible apply keeps_due
    | with_reducible apply keeps_foldl
    | with_reducible apply keeps_ite
    | with_reducible apply keeps_getD
    | with_reducible apply Memory.wf_set
    | with_reducible apply Memory.wf_setN
    | with_reducible apply keeps_wf
    | split
    | with_reducible refine keeps_mk ?_ ?_ ?_

theorem wf_restoreUnit {m : Memory} (u : Nat) (old : Memory) (h : Memory.wf m = true) : Memory.wf (restoreUnit m u old) = true := by
  unfold restoreUnit
  have : ∀ (l : Memory) (m : Memory), Memory.wf m = true →
      Memory.wf (l.foldl (fun m p => Memory.set m p.1 p.2) m) = true := by
    intro l
    induction l with
    | nil => exact fun _ h => h
    | cons p l ih => exact fun m h => ih _ (Memory.wf_set _ _ h)
  exact this _ _ (Memory.wf_filter _ h)

theorem wf_restoreUnits {m : Memory} (us : NMap Memory) (h : Memory.wf m = true) :
    Memory.wf (us.foldl (fun m (u : Nat × Memory) => restoreUnit m u.1 u.2) m) = true := by
  induction us generalizing m with
  | nil => exact h
  | cons u us ih => exact ih (wf_restoreUnit _ _ h)

theorem keeps_restoreSnap {s0 : State} (s : State) (c : Nat) (snap : Snapshot) (hs : Keeps s0 s) :
    Keeps s0 (State.restoreSnap s c snap) := by
  have h1 := keeps_throwChip _ c (keeps_mk hs (fun h => wf_restoreUnits ((List.range 8).flatMap (fun d => (s.cd c d).copies)) h) keeps_wf
    (cycles := s.cycles) (nextId := s.nextId) (agenda := s.agenda) (ready := s.ready) (cur := s.cur) (ev := s.ev)
    (batch := s.batch) (touched := s.touched) (overfull := s.overfull) (tiles := s.tiles) (islands := s.islands) (dies := s.dies) (ctxs := s.ctxs) (ctxDies := s.ctxDies)
    (regions := s.regions) (launches := s.launches) (drainOps := s.drainOps) (snaps := s.snaps) (saves := s.saves)
    (pwrCap := s.pwrCap) (powers := s.powers) (raised := s.raised) (stores := s.stores) (outbound := s.outbound) (outTokens := s.outTokens))
  unfold State.restoreSnap
  refine keeps_foldl (keeps_foldl (keeps_intvOut _ _ (keeps_modCtx _ _ _ (keeps_foldl (keeps_dropLeases _ _ _ (keeps_foldl (keeps_foldl (keeps_foldl (keeps_foldl
    (keeps_dropEvents _ _ (keeps_mapQueues _ _ _ (keeps_mk h1 keeps_wf keeps_wf))) ?_) ?_) ?_) ?_)) ?_))) ?_) ?_
  · exact fun t a ht => keeps_launchBack _ _ ht
  · intro t a ht; split <;> first | exact ht | exact keeps_due _ _ ht
  · exact fun t a ht => keeps_modCd _ _ _ _ ht
  · exact fun t a ht => keeps_netBack _ _ _ _ ht
  · exact fun t a ht => keeps_markLeased _ _ _ ht
  · exact fun t a ht => keeps_decideAgain _ _ ht
  · exact fun t a ht => keeps_wakeTile _ _ ht

theorem keeps_rollbackStep {s0 : State} (s : State) (c : Nat) (hs : Keeps s0 s) :
    Keeps s0 (State.rollbackStep s c) := by
  unfold State.rollbackStep
  try dsimp only [State.fresh]
  repeat' first
    | with_reducible assumption
    | intro _
    | with_reducible apply keeps_curEvent
    | with_reducible apply keeps_due
    | with_reducible apply keeps_modCtx
    | with_reducible apply keeps_raiseFault
    | with_reducible apply keeps_restoreSnap
    | with_reducible apply keeps_foldl
    | with_reducible apply keeps_ite
    | with_reducible apply keeps_getD
    | with_reducible apply Memory.wf_set
    | with_reducible apply Memory.wf_setN
    | with_reducible apply keeps_wf
    | split

theorem keeps_errorStep {s0 : State} (s : State) (d : Nat) (c : Nat) (e : ErrorSite) (hs : Keeps s0 s) :
    Keeps s0 (State.errorStep s d c e) := by
  unfold State.errorStep
  try dsimp only [State.fresh]
  repeat' first
    | with_reducible assumption
    | intro _
    | with_reducible apply keeps_again
    | with_reducible apply keeps_due
    | with_reducible apply keeps_modCtx
    | with_reducible apply keeps_modDie
    | with_reducible apply keeps_raiseFault
    | with_reducible apply keeps_foldl
    | with_reducible apply keeps_ite

theorem keeps_headWrite {s0 : State} (s : State) (d : Nat) (c : Nat) (v : BitVec 64) (hs : Keeps s0 s) :
    Keeps s0 (State.headWrite s d c v) := by
  unfold State.headWrite
  try dsimp only [State.fresh]
  repeat' first
    | with_reducible assumption
    | intro _
    | with_reducible apply keeps_modRing
    | with_reducible apply keeps_foldl
    | with_reducible apply keeps_ite

theorem keeps_tailSupply {s0 : State} (s : State) (d : Nat) (c : Nat) (v : BitVec 64) (hs : Keeps s0 s) :
    Keeps s0 (State.tailSupply s d c v) := by
  unfold State.tailSupply
  try dsimp only [State.fresh]
  repeat' first
    | with_reducible assumption
    | intro _
    | with_reducible apply keeps_due
    | with_reducible apply keeps_modRing
    | with_reducible apply keeps_foldl
    | with_reducible apply keeps_ite

theorem keeps_replayLate {s0 : State} (s : State) (d : Nat) (c : Nat) (hs : Keeps s0 s) :
    Keeps s0 (State.replayLate s d c) := by
  unfold State.replayLate
  try dsimp only [State.fresh]
  repeat' first
    | with_reducible assumption
    | intro _
    | with_reducible apply keeps_diverge
    | with_reducible apply keeps_due
    | with_reducible apply keeps_foldl
    | with_reducible apply keeps_ite
    | with_reducible apply keeps_getD
    | with_reducible apply Memory.wf_set
    | with_reducible apply Memory.wf_setN
    | with_reducible apply keeps_wf
    | split

theorem keeps_modTilesOn {s0 : State} (s : State) (d : Nat) (g : Tile → Tile) (hs : Keeps s0 s) :
    Keeps s0 (State.modTilesOn s d g) := by
  unfold State.modTilesOn
  try dsimp only [State.fresh]
  repeat' first
    | with_reducible assumption
    | intro _
    | with_reducible apply keeps_foldl
    | with_reducible apply keeps_ite
    | with_reducible apply keeps_getD
    | with_reducible apply Memory.wf_set
    | with_reducible apply Memory.wf_setN
    | with_reducible apply keeps_wf
    | split
    | with_reducible refine keeps_mk ?_ ?_ ?_

theorem keeps_statClear {s0 : State} (s : State) (d : Nat) (sel : Nat) (hs : Keeps s0 s) :
    Keeps s0 (State.statClear s d sel) := by
  unfold State.statClear
  try dsimp only [State.fresh]
  repeat' first
    | with_reducible assumption
    | intro _
    | with_reducible apply keeps_modDie
    | with_reducible apply keeps_modGram
    | with_reducible apply keeps_modLink
    | with_reducible apply keeps_modNet
    | with_reducible apply keeps_modTilesOn
    | with_reducible apply keeps_foldl
    | with_reducible apply keeps_ite

theorem keeps_spawnN {s0 : State} (s : State) (j : Job) (r : Region) (at_ : Option TileId) (n : Nat) (hs : Keeps s0 s) :
    Keeps s0 (State.spawnN s j r at_ n) := by
  unfold State.spawnN
  try dsimp only [State.fresh]
  repeat' first
    | with_reducible assumption
    | intro _
    | with_reducible apply keeps_consume
    | with_reducible apply keeps_countSent
    | with_reducible apply keeps_emit2
    | with_reducible apply keeps_hold
    | with_reducible apply keeps_jobFault
    | with_reducible apply keeps_modTile
    | with_reducible apply keeps_offerAgain
    | with_reducible apply keeps_setStatus
    | with_reducible apply keeps_foldl
    | with_reducible apply keeps_ite
    | with_reducible apply keeps_getD
    | with_reducible apply Memory.wf_set
    | with_reducible apply Memory.wf_setN
    | with_reducible apply keeps_wf
    | split

theorem keeps_fireSpawn {s0 : State} (minor : Nat) (f : Fields) (s : State) (hs : Keeps s0 s) :
    Keeps s0 (fireSpawn minor f s) := by
  unfold fireSpawn
  try dsimp only [State.fresh]
  repeat' first
    | with_reducible assumption
    | intro _
    | with_reducible apply keeps_fireAcquiring
    | with_reducible apply keeps_spawnN
    | with_reducible apply keeps_foldl
    | with_reducible apply keeps_ite
    | with_reducible apply keeps_getD
    | with_reducible apply Memory.wf_set
    | with_reducible apply Memory.wf_setN
    | with_reducible apply keeps_wf
    | split

theorem keeps_fireJoin {s0 : State} (f : Fields) (s : State) (hs : Keeps s0 s) :
    Keeps s0 (fireJoin f s) := by
  unfold fireJoin
  try dsimp only [State.fresh]
  repeat' first
    | with_reducible assumption
    | intro _
    | with_reducible apply keeps_acquire
    | with_reducible apply keeps_consume
    | with_reducible apply keeps_emitRes
    | with_reducible apply keeps_finishOrder
    | with_reducible apply keeps_fireAcquiring
    | with_reducible apply keeps_modTile
    | with_reducible apply keeps_foldl
    | with_reducible apply keeps_ite

theorem keeps_fireJoinall {s0 : State} (f : Fields) (s : State) (hs : Keeps s0 s) :
    Keeps s0 (fireJoinall f s) := by
  unfold fireJoinall
  try dsimp only [State.fresh]
  repeat' first
    | with_reducible assumption
    | intro _
    | with_reducible apply keeps_acquire
    | with_reducible apply keeps_consume
    | with_reducible apply keeps_emitRes
    | with_reducible apply keeps_fireAcquiring
    | with_reducible apply keeps_modTile
    | with_reducible apply keeps_foldl
    | with_reducible apply keeps_ite

theorem keeps_sendChannel {s0 : State} (s : State) (t : TileId) (ch : Nat) (src : Nat) (tok : Token) (hs : Keeps s0 s) :
    Keeps s0 (State.sendChannel s t ch src tok) := by
  unfold State.sendChannel
  try dsimp only [State.fresh]
  repeat' first
    | with_reducible assumption
    | intro _
    | with_reducible apply keeps_countRecv
    | with_reducible apply keeps_place
    | with_reducible apply keeps_post
    | with_reducible apply keeps_foldl
    | with_reducible apply keeps_ite
    | with_reducible apply keeps_getD
    | with_reducible apply Memory.wf_set
    | with_reducible apply Memory.wf_setN
    | with_reducible apply keeps_wf
    | split

theorem keeps_sendExit {s0 : State} (s : State) (t : TileId) (target : Nat) (src : Nat) (tok : Token) (hs : Keeps s0 s) :
    Keeps s0 (State.sendExit s t target src tok) := by
  unfold State.sendExit
  try dsimp only [State.fresh]
  repeat' first
    | with_reducible assumption
    | intro _
    | with_reducible apply keeps_countRecv
    | with_reducible apply keeps_place
    | with_reducible apply keeps_post
    | with_reducible apply keeps_sendChannel
    | with_reducible apply keeps_foldl
    | with_reducible apply keeps_ite
    | with_reducible apply keeps_getD
    | with_reducible apply Memory.wf_set
    | with_reducible apply Memory.wf_setN
    | with_reducible apply keeps_wf
    | split

theorem keeps_sendChild {s0 : State} (s : State) (a : Arrival) (hs : Keeps s0 s) :
    Keeps s0 (State.sendChild s a) := by
  unfold State.sendChild
  try dsimp only [State.fresh]
  repeat' first
    | with_reducible assumption
    | intro _
    | with_reducible apply keeps_post
    | with_reducible apply keeps_foldl
    | with_reducible apply keeps_ite
    | with_reducible apply keeps_getD
    | with_reducible apply Memory.wf_set
    | with_reducible apply Memory.wf_setN
    | with_reducible apply keeps_wf
    | split
    | with_reducible refine keeps_mk ?_ ?_ ?_

theorem keeps_leaveWatched {s0 : State} (s : State) (a : Access) (go : State → Option State) (hs : Keeps s0 s)
    (hgo : ∀ t, Keeps s0 t → KeepsOpt s0 (go t)) : KeepsOpt s0 (State.leaveWatched s a go) := by
  unfold State.leaveWatched
  split
  · exact hgo s hs
  · dsimp only
    split
    · exact keeps_watchFault _ _ _ hs
    · trivial

theorem keeps_modDrain {s0 : State} (s : State) (t : TileId) (i : Nat) (g : Drain → Drain) (hs : Keeps s0 s) :
    Keeps s0 (State.modDrain s t i g) := by
  unfold State.modDrain
  try dsimp only [State.fresh]
  repeat' first
    | with_reducible assumption
    | intro _
    | with_reducible apply keeps_modTile

theorem keeps_leave {s0 : State} (s : State) (t : TileId) (inst : Nat) (e : Effect) (hs : Keeps s0 s) :
    KeepsLeave s0 (s.leave t inst e) := by
  have hif : ∀ o, KeepsOpt s0 o → KeepsLeave s0 (leaveIf s o) := by
    intro o ho
    cases o
    · exact hs
    · exact ho
  unfold State.leave
  dsimp only
  split
  · split
    · exact hs
    · exact keeps_sendChannel _ _ _ _ _ hs
  · split
    · exact hs
    · exact keeps_sendExit _ _ _ _ _ hs
  · split
    · exact keeps_stlPerform _ _ _ hs
    · exact keeps_modTile _ _ _ hs
    · split
      · exact keeps_spadNote _ _ _ hs
      · exact keeps_due _ _ hs
  · exact hif _ (keeps_leaveWatched _ _ _ hs (fun t ht => keeps_issueStore _ _ ht))
  · split
    · exact keeps_settle _ _ _ hs (keeps_emitBoth _ _ _ _ hs)
    · split
      · exact keeps_handOff _ _ hs
      · exact hs
  · exact hif _ (keeps_leaveWatched _ _ _ hs (fun t ht => keeps_rstLeave _ _ ht))
  · exact keeps_foldl hs (fun t a ht => keeps_sendChild _ _ ht)

theorem keeps_drainFirst {s0 : State} (s : State) (t : TileId) (i : Nat) (ds : List Drain) (hs : Keeps s0 s) :
    Keeps s0 (State.drainFirst s t i ds) := by
  induction ds generalizing s i with
  | nil => exact hs
  | cons d ds ih =>
    unfold State.drainFirst
    split
    · split
      · exact keeps_modDrain _ _ _ _ (keeps_of_gone (keeps_leave _ _ _ _ hs) (by assumption))
      · exact keeps_modDrain _ _ _ _ (keeps_of_waits (keeps_leave _ _ _ _ hs) (by assumption))
      · exact ih _ _ (keeps_of_stay (keeps_leave _ _ _ _ hs) (by assumption))
    · exact ih _ _ hs

theorem keeps_drainStep {s0 : State} (s : State) (t : TileId) (hs : Keeps s0 s) :
    Keeps s0 (State.drainStep s t) := by
  unfold State.drainStep
  try dsimp only [State.fresh]
  repeat' first
    | with_reducible assumption
    | intro _
    | with_reducible apply keeps_drainFirst
    | with_reducible apply keeps_due
    | with_reducible apply keeps_modTile
    | with_reducible apply keeps_foldl
    | with_reducible apply keeps_ite

theorem keeps_trapDeliver {s0 : State} (s : State) (j : Job) (b : Bytes) (hs : Keeps s0 s) :
    Keeps s0 (State.trapDeliver s j b) := by
  unfold State.trapDeliver
  try dsimp only [State.fresh]
  repeat' first
    | with_reducible assumption
    | intro _
    | with_reducible apply keeps_emitDone
    | with_reducible apply keeps_emitRes
    | with_reducible apply keeps_settle

theorem keeps_issueHeld {s0 : State} (s : State) (a : Access) (hs : Keeps s0 s) :
    Keeps s0 (State.issueHeld s a) := by
  unfold State.issueHeld
  try dsimp only [State.fresh]
  repeat' first
    | with_reducible assumption
    | intro _
    | with_reducible apply keeps_again
    | with_reducible apply keeps_agqNote
    | with_reducible apply keeps_hold
    | with_reducible apply keeps_issueRelAtom
    | with_reducible apply keeps_issueRelflag
    | with_reducible apply keeps_issueSlot
    | with_reducible apply keeps_issueStore
    | with_reducible apply keeps_offerAgain
    | with_reducible apply keeps_foldl
    | with_reducible apply keeps_ite
    | with_reducible apply keeps_getD
    | with_reducible apply Memory.wf_set
    | with_reducible apply Memory.wf_setN
    | with_reducible apply keeps_wf
    | split

theorem keeps_freePending {s0 : State} (s : State) (c : Nat) (d : Nat) (k : Nat) (hs : Keeps s0 s) :
    Keeps s0 (State.freePending s c d k) := by
  unfold State.freePending
  try dsimp only [State.fresh]
  repeat' first
    | with_reducible assumption
    | intro _
    | with_reducible apply keeps_modCd

theorem keeps_dropTrap {s0 : State} (s : State) (c : Nat) (d : Nat) (k : Nat) (p : Pending) (b : Option Bytes) (hs : Keeps s0 s) :
    Keeps s0 (State.dropTrap s c d k p b) := by
  unfold State.dropTrap
  try dsimp only [State.fresh]
  repeat' first
    | with_reducible assumption
    | intro _
    | with_reducible apply keeps_freePending
    | with_reducible apply keeps_issueHeld
    | with_reducible apply keeps_trapDeliver
    | with_reducible apply keeps_foldl
    | with_reducible apply keeps_ite
    | with_reducible apply keeps_getD
    | with_reducible apply Memory.wf_set
    | with_reducible apply Memory.wf_setN
    | with_reducible apply keeps_wf
    | split

theorem keeps_releaseTrap {s0 : State} (s : State) (c : Nat) (d : Nat) (k : Nat) (p : Pending) (b : Option Bytes) (hs : Keeps s0 s) :
    Keeps s0 (State.releaseTrap s c d k p b) := by
  unfold State.releaseTrap
  try dsimp only [State.fresh]
  repeat' first
    | with_reducible assumption
    | intro _
    | with_reducible apply keeps_dropTrap
    | with_reducible apply keeps_goOn
    | with_reducible apply keeps_foldl
    | with_reducible apply keeps_ite

theorem keeps_writeSave {s0 : State} (s : State) (c : Nat) (d : Nat) (st : CtxState) (hs : Keeps s0 s) :
    Keeps s0 (State.writeSave s c d st) := by
  unfold State.writeSave
  try dsimp only [State.fresh]
  repeat' first
    | with_reducible assumption
    | intro _
    | with_reducible apply keeps_writeVa

theorem keeps_preempt {s0 : State} (s : State) (k : Command) (hs : Keeps s0 s) :
    Keeps s0 (State.preempt s k) := by
  unfold State.preempt
  try dsimp only [State.fresh]
  repeat' first
    | with_reducible assumption
    | intro _
    | with_reducible apply keeps_done
    | with_reducible apply keeps_modCtx
    | with_reducible apply keeps_post
    | with_reducible apply keeps_foldl
    | with_reducible apply keeps_ite
    | with_reducible apply keeps_getD
    | with_reducible apply Memory.wf_set
    | with_reducible apply Memory.wf_setN
    | with_reducible apply keeps_wf
    | split
    | with_reducible refine keeps_mk ?_ ?_ ?_

theorem keeps_lateKills {s0 : State} (s : State) (c : Nat) (hs : Keeps s0 s) :
    Keeps s0 (State.lateKills s c) := by
  unfold State.lateKills
  try dsimp only [State.fresh]
  repeat' first
    | with_reducible assumption
    | intro _
    | with_reducible apply keeps_done
    | with_reducible apply keeps_foldl
    | with_reducible apply keeps_ite
    | with_reducible apply keeps_getD
    | with_reducible apply Memory.wf_set
    | with_reducible apply Memory.wf_setN
    | with_reducible apply keeps_wf
    | split
    | with_reducible refine keeps_mk ?_ ?_ ?_

theorem keeps_saveStep {s0 : State} (s : State) (c : Nat) (hs : Keeps s0 s) :
    Keeps s0 (State.saveStep s c) := by
  unfold State.saveStep
  try dsimp only [State.fresh]
  repeat' first
    | with_reducible assumption
    | intro _
    | with_reducible apply keeps_done
    | with_reducible apply keeps_due
    | with_reducible apply keeps_freeIslands
    | with_reducible apply keeps_lateKills
    | with_reducible apply keeps_modCtx
    | with_reducible apply keeps_modTile
    | with_reducible apply keeps_writeSave
    | with_reducible apply keeps_foldl
    | with_reducible apply keeps_ite
    | with_reducible apply keeps_getD
    | with_reducible apply Memory.wf_set
    | with_reducible apply Memory.wf_setN
    | with_reducible apply keeps_wf
    | split
    | with_reducible refine keeps_mk ?_ ?_ ?_

theorem keeps_mailStep {s0 : State} (s : State) (d : Nat) (p : Packet) (hs : Keeps s0 s) :
    Keeps s0 (State.mailStep s d p) := by
  unfold State.mailStep
  try dsimp only [State.fresh]
  repeat' first
    | with_reducible assumption
    | intro _
    | with_reducible apply keeps_writeVa
    | with_reducible apply keeps_foldl
    | with_reducible apply keeps_ite
    | with_reducible apply keeps_getD
    | with_reducible apply Memory.wf_set
    | with_reducible apply Memory.wf_setN
    | with_reducible apply keeps_wf
    | split
    | with_reducible refine keeps_mk ?_ ?_ ?_

theorem keeps_restore {s0 : State} (s : State) (k : Command) (hs : Keeps s0 s) :
    Keeps s0 (State.restore s k) := by
  unfold State.restore
  try dsimp only [State.fresh]
  repeat' first
    | with_reducible assumption
    | intro _
    | with_reducible apply keeps_done
    | with_reducible apply keeps_post
    | with_reducible apply keeps_writeVa
    | with_reducible apply keeps_foldl
    | with_reducible apply keeps_ite
    | with_reducible apply keeps_getD
    | with_reducible apply Memory.wf_set
    | with_reducible apply Memory.wf_setN
    | with_reducible apply keeps_wf
    | split

theorem keeps_retest {s0 : State} (s : State) (t : TileId) (slot : Nat) (r : Reply) (hs : Keeps s0 s) :
    Keeps s0 (State.retest s t slot r) := by
  unfold State.retest
  try dsimp only [State.fresh]
  repeat' first
    | with_reducible assumption
    | intro _
    | with_reducible apply keeps_fenceWake
    | with_reducible apply keeps_netWake
    | with_reducible apply keeps_relCheck
    | with_reducible apply keeps_foldl
    | with_reducible apply keeps_ite
    | with_reducible apply keeps_getD
    | with_reducible apply Memory.wf_set
    | with_reducible apply Memory.wf_setN
    | with_reducible apply keeps_wf
    | split

theorem keeps_restoreStep {s0 : State} (s : State) (c : Nat) (hs : Keeps s0 s) :
    Keeps s0 (State.restoreStep s c) := by
  unfold State.restoreStep
  try dsimp only [State.fresh]
  repeat' first
    | with_reducible assumption
    | intro _
    | with_reducible apply keeps_done
    | with_reducible apply keeps_due
    | with_reducible apply keeps_modCtx
    | with_reducible apply keeps_replyStep
    | with_reducible apply keeps_restoreLatch
    | with_reducible apply keeps_retest
    | with_reducible apply keeps_startHang
    | with_reducible apply keeps_wakeTile
    | with_reducible apply keeps_writeVa
    | with_reducible apply keeps_foldl
    | with_reducible apply keeps_ite
    | with_reducible apply keeps_getD
    | with_reducible apply Memory.wf_set
    | with_reducible apply Memory.wf_setN
    | with_reducible apply keeps_wf
    | split
    | with_reducible refine keeps_mk ?_ ?_ ?_

theorem keeps_catHead {s0 : State} (s : State) (d : Nat) (c : Nat) (v : BitVec 64) (hs : Keeps s0 s) :
    Keeps s0 (State.catHead s d c v) := by
  unfold State.catHead
  try dsimp only [State.fresh]
  repeat' first
    | with_reducible assumption
    | intro _
    | with_reducible apply keeps_modCd

theorem keeps_hangSuspect {s0 : State} (s : State) (c : Nat) (hs : Keeps s0 s) :
    Keeps s0 (State.hangSuspect s c) := by
  unfold State.hangSuspect
  try dsimp only [State.fresh]
  repeat' first
    | with_reducible assumption
    | intro _
    | with_reducible apply keeps_raiseFault
    | with_reducible apply keeps_writeHangMap
    | with_reducible apply keeps_foldl

theorem keeps_hangStep {s0 : State} (s : State) (c : Nat) (hs : Keeps s0 s) :
    Keeps s0 (State.hangStep s c) := by
  unfold State.hangStep
  try dsimp only [State.fresh]
  repeat' first
    | with_reducible assumption
    | intro _
    | with_reducible apply keeps_hangSuspect
    | with_reducible apply keeps_startHang
    | with_reducible apply keeps_foldl
    | with_reducible apply keeps_ite
    | with_reducible apply keeps_getD
    | with_reducible apply Memory.wf_set
    | with_reducible apply Memory.wf_setN
    | with_reducible apply keeps_wf
    | split

theorem keeps_watchAdd {s0 : State} (s : State) (k : Command) (hs : Keeps s0 s) :
    Keeps s0 (State.watchAdd s k) := by
  unfold State.watchAdd
  try dsimp only [State.fresh]
  repeat' first
    | with_reducible assumption
    | intro _
    | with_reducible apply keeps_done
    | with_reducible apply keeps_modCd
    | with_reducible apply keeps_foldl
    | with_reducible apply keeps_ite
    | with_reducible apply keeps_getD
    | with_reducible apply Memory.wf_set
    | with_reducible apply Memory.wf_setN
    | with_reducible apply keeps_wf
    | split

theorem keeps_watchClear {s0 : State} (s : State) (k : Command) (hs : Keeps s0 s) :
    Keeps s0 (State.watchClear s k) := by
  unfold State.watchClear
  try dsimp only [State.fresh]
  repeat' first
    | with_reducible assumption
    | intro _
    | with_reducible apply keeps_done
    | with_reducible apply keeps_modCd
    | with_reducible apply keeps_foldl
    | with_reducible apply keeps_ite
    | with_reducible apply keeps_getD
    | with_reducible apply Memory.wf_set
    | with_reducible apply Memory.wf_setN
    | with_reducible apply keeps_wf
    | split

theorem keeps_obsRead {s0 : State} (s : State) (k : Command) (hs : Keeps s0 s) :
    Keeps s0 (State.obsRead s k) := by
  unfold State.obsRead
  try dsimp only [State.fresh]
  repeat' first
    | with_reducible assumption
    | intro _
    | with_reducible apply keeps_done
    | with_reducible apply keeps_finish
    | with_reducible apply keeps_foldl
    | with_reducible apply keeps_ite
    | with_reducible apply keeps_getD
    | with_reducible apply Memory.wf_set
    | with_reducible apply Memory.wf_setN
    | with_reducible apply keeps_wf
    | split
    | with_reducible refine keeps_mk ?_ ?_ ?_

theorem keeps_vitrineFreeze {s0 : State} (s : State) (k : Command) (hs : Keeps s0 s) :
    Keeps s0 (State.vitrineFreeze s k) := by
  unfold State.vitrineFreeze
  try dsimp only [State.fresh]
  repeat' first
    | with_reducible assumption
    | intro _
    | with_reducible apply keeps_done
    | with_reducible apply keeps_modDie
    | with_reducible apply keeps_foldl
    | with_reducible apply keeps_ite
    | with_reducible apply keeps_getD
    | with_reducible apply Memory.wf_set
    | with_reducible apply Memory.wf_setN
    | with_reducible apply keeps_wf
    | split
    | with_reducible refine keeps_mk ?_ ?_ ?_

theorem keeps_vitrineThaw {s0 : State} (s : State) (k : Command) (hs : Keeps s0 s) :
    Keeps s0 (State.vitrineThaw s k) := by
  unfold State.vitrineThaw
  try dsimp only [State.fresh]
  repeat' first
    | with_reducible assumption
    | intro _
    | with_reducible apply keeps_done
    | with_reducible apply keeps_modDie
    | with_reducible apply keeps_retrain
    | with_reducible apply keeps_foldl
    | with_reducible apply keeps_ite
    | with_reducible apply keeps_getD
    | with_reducible apply Memory.wf_set
    | with_reducible apply Memory.wf_setN
    | with_reducible apply keeps_wf
    | split

theorem keeps_patchApply {s0 : State} (s : State) (d : Nat) (addr : Nat) (commit : Bool) (hs : Keeps s0 s) :
    Keeps s0 (State.patchApply s d addr commit) := by
  unfold State.patchApply
  try dsimp only [State.fresh]
  repeat' first
    | with_reducible assumption
    | intro _
    | with_reducible apply keeps_modDie

theorem keeps_patch {s0 : State} (s : State) (k : Command) (hs : Keeps s0 s) :
    Keeps s0 (State.patch s k) := by
  unfold State.patch
  try dsimp only [State.fresh]
  repeat' first
    | with_reducible assumption
    | intro _
    | with_reducible apply keeps_done
    | with_reducible apply keeps_patchApply
    | with_reducible apply keeps_foldl
    | with_reducible apply keeps_ite
    | with_reducible apply keeps_getD
    | with_reducible apply Memory.wf_set
    | with_reducible apply Memory.wf_setN
    | with_reducible apply keeps_wf
    | split

theorem keeps_ident {s0 : State} (s : State) (k : Command) (hs : Keeps s0 s) :
    Keeps s0 (State.ident s k) := by
  unfold State.ident
  try dsimp only [State.fresh]
  repeat' first
    | with_reducible assumption
    | intro _
    | with_reducible apply keeps_done
    | with_reducible apply keeps_foldl
    | with_reducible apply keeps_ite
    | with_reducible apply keeps_getD
    | with_reducible apply Memory.wf_set
    | with_reducible apply Memory.wf_setN
    | with_reducible apply keeps_wf
    | split
    | with_reducible refine keeps_mk ?_ ?_ ?_

theorem keeps_pwrcap {s0 : State} (s : State) (k : Command) (hs : Keeps s0 s) :
    Keeps s0 (State.pwrcap s k) := by
  unfold State.pwrcap
  try dsimp only [State.fresh]
  repeat' first
    | with_reducible assumption
    | intro _
    | with_reducible apply keeps_done
    | with_reducible apply keeps_foldl
    | with_reducible apply keeps_ite
    | with_reducible apply keeps_getD
    | with_reducible apply Memory.wf_set
    | with_reducible apply Memory.wf_setN
    | with_reducible apply keeps_wf
    | split
    | with_reducible refine keeps_mk ?_ ?_ ?_

theorem keeps_setCeil {s0 : State} (s : State) (d : Nat) (v : Nat) (watts : Nat) (hs : Keeps s0 s) :
    Keeps s0 (State.setCeil s d v watts) := by
  unfold State.setCeil
  try dsimp only [State.fresh]
  repeat' first
    | with_reducible assumption
    | intro _
    | with_reducible apply keeps_curEvent
    | with_reducible apply keeps_modDie
    | with_reducible apply keeps_foldl
    | with_reducible apply keeps_ite

theorem keeps_measure {s0 : State} (s : State) (watts : Nat) (hs : Keeps s0 s) :
    Keeps s0 (State.measure s watts) := by
  unfold State.measure
  try dsimp only [State.fresh]
  repeat' first
    | with_reducible assumption
    | intro _
    | with_reducible apply keeps_setCeil
    | with_reducible apply keeps_foldl
    | with_reducible apply keeps_ite
    | with_reducible apply keeps_getD
    | with_reducible apply Memory.wf_set
    | with_reducible apply Memory.wf_setN
    | with_reducible apply keeps_wf
    | split
    | with_reducible refine keeps_mk ?_ ?_ ?_

theorem keeps_announce {s0 : State} (s : State) (d : Nat) (hs : Keeps s0 s) :
    Keeps s0 (State.announce s d) := by
  unfold State.announce
  try dsimp only [State.fresh]
  repeat' first
    | with_reducible assumption
    | intro _
    | with_reducible apply keeps_modDie
    | with_reducible apply keeps_notice
    | with_reducible apply keeps_foldl
    | with_reducible apply keeps_ite
    | with_reducible apply keeps_getD
    | with_reducible apply Memory.wf_set
    | with_reducible apply Memory.wf_setN
    | with_reducible apply keeps_wf
    | split
    | with_reducible refine keeps_mk ?_ ?_ ?_

theorem keeps_attest {s0 : State} (s : State) (d : Nat) (hs : Keeps s0 s) :
    KeepsSnd s0 (State.attest s d) := by
  unfold State.attest
  try dsimp only [State.fresh]
  repeat' first
    | with_reducible assumption
    | intro _
    | with_reducible apply keeps_patch
    | with_reducible apply keeps_patchApply
    | with_reducible apply keeps_foldl
    | with_reducible apply keeps_ite
    | with_reducible apply keeps_getD
    | with_reducible apply keeps_iteSnd
    | with_reducible apply keeps_foldlSnd
    | with_reducible apply Memory.wf_set
    | with_reducible apply Memory.wf_setN
    | with_reducible apply keeps_wf
    | split

theorem keeps_bringDie {s0 : State} (s : State) (d : Nat) (hs : Keeps s0 s) :
    Keeps s0 (State.bringDie s d) := by
  unfold State.bringDie
  try dsimp only [State.fresh]
  repeat' first
    | with_reducible assumption
    | intro _
    | with_reducible apply keeps_announce
    | with_reducible apply keeps_attest
    | with_reducible apply keeps_due
    | with_reducible apply keeps_modDie

theorem keeps_dieReady {s0 : State} (s : State) (d : Nat) (hs : Keeps s0 s) :
    Keeps s0 (State.dieReady s d) := by
  unfold State.dieReady
  try dsimp only [State.fresh]
  repeat' first
    | with_reducible assumption
    | intro _
    | with_reducible apply keeps_curEvent
    | with_reducible apply keeps_modDie

theorem keeps_bringOn {s0 : State} (s : State) (hs : Keeps s0 s) :
    Keeps s0 (State.bringOn s) := by
  unfold State.bringOn
  try dsimp only [State.fresh]
  repeat' first
    | with_reducible assumption
    | intro _
    | with_reducible apply keeps_linkReset
    | with_reducible apply keeps_modDie
    | with_reducible apply keeps_post
    | with_reducible apply keeps_foldl

theorem keeps_bringUp {s0 : State} (s : State) (hs : Keeps s0 s) :
    Keeps s0 (State.bringUp s) := by
  unfold State.bringUp
  try dsimp only [State.fresh]
  repeat' first
    | with_reducible assumption
    | intro _
    | with_reducible apply keeps_bringDie
    | with_reducible apply keeps_bringOn
    | with_reducible apply keeps_dieReady
    | with_reducible apply keeps_takeNext
    | with_reducible apply keeps_foldl
    | with_reducible apply keeps_ite

theorem keeps_powerLost {s0 : State} (s : State) (hs : Keeps s0 s) : Keeps s0 (State.powerLost s) := by
  unfold State.powerLost
  exact keeps_foldl (keeps_mk (m := []) hs (fun _ => rfl) keeps_wf) (fun t a ht => keeps_modDie _ _ _ ht)

theorem keeps_dropGroups {s0 : State} (s : State) (c : Nat) (keep : SendEntry → Bool) (hs : Keeps s0 s) :
    Keeps s0 (State.dropGroups s c keep) := by
  unfold State.dropGroups
  try dsimp only [State.fresh]
  repeat' first
    | with_reducible assumption
    | intro _
    | with_reducible apply keeps_modDie
    | with_reducible apply keeps_foldl

theorem keeps_createCtx {s0 : State} (s : State) (k : Command) (hs : Keeps s0 s) :
    Keeps s0 (State.createCtx s k) := by
  unfold State.createCtx
  try dsimp only [State.fresh]
  repeat' first
    | with_reducible assumption
    | intro _
    | with_reducible apply keeps_done
    | with_reducible apply keeps_dropGroups
    | with_reducible apply keeps_modCd
    | with_reducible apply keeps_modCtx
    | with_reducible apply keeps_foldl
    | with_reducible apply keeps_ite

theorem keeps_dropCtx {s0 : State} (s : State) (c : Nat) (hs : Keeps s0 s) :
    Keeps s0 (State.dropCtx s c) := by
  unfold State.dropCtx
  try dsimp only [State.fresh]
  repeat' first
    | with_reducible assumption
    | intro _
    | with_reducible apply keeps_dropEvents
    | with_reducible apply keeps_freeRegion
    | with_reducible apply keeps_foldl
    | with_reducible apply keeps_ite
    | with_reducible apply keeps_getD
    | with_reducible apply Memory.wf_set
    | with_reducible apply Memory.wf_setN
    | with_reducible apply keeps_wf
    | split
    | with_reducible refine keeps_mk ?_ ?_ ?_

theorem keeps_drainPages {s0 : State} (s : State) (k : Command) (ps : List (Nat × PageMap)) (hs : Keeps s0 s) :
    Keeps s0 (State.drainPages s k ps) := by
  unfold State.drainPages
  try dsimp only [State.fresh]
  repeat' first
    | with_reducible assumption
    | intro _
    | with_reducible apply keeps_dropLines
    | with_reducible apply keeps_inject
    | with_reducible apply keeps_foldl
    | with_reducible apply keeps_ite
    | with_reducible apply keeps_getD
    | with_reducible apply Memory.wf_set
    | with_reducible apply Memory.wf_setN
    | with_reducible apply keeps_wf
    | split
    | with_reducible refine keeps_mk ?_ ?_ ?_

theorem keeps_destroyNow {s0 : State} (s : State) (k : Command) (hs : Keeps s0 s) :
    Keeps s0 (State.destroyNow s k) := by
  unfold State.destroyNow
  try dsimp only [State.fresh]
  repeat' first
    | with_reducible assumption
    | intro _
    | with_reducible apply keeps_done
    | with_reducible apply keeps_dropCtx
    | with_reducible apply keeps_dropGroups
    | with_reducible apply keeps_modCd
    | with_reducible apply keeps_modCtx
    | with_reducible apply keeps_modDie
    | with_reducible apply keeps_writeVa
    | with_reducible apply keeps_foldl
    | with_reducible apply keeps_ite
    | with_reducible apply keeps_getD
    | with_reducible apply Memory.wf_set
    | with_reducible apply Memory.wf_setN
    | with_reducible apply keeps_wf
    | split

theorem keeps_destroyCtx {s0 : State} (s : State) (k : Command) (hs : Keeps s0 s) :
    Keeps s0 (State.destroyCtx s k) := by
  unfold State.destroyCtx
  try dsimp only [State.fresh]
  repeat' first
    | with_reducible assumption
    | intro _
    | with_reducible apply keeps_done
    | with_reducible apply keeps_drainPages
    | with_reducible apply keeps_foldl
    | with_reducible apply keeps_ite
    | with_reducible apply keeps_getD
    | with_reducible apply Memory.wf_set
    | with_reducible apply Memory.wf_setN
    | with_reducible apply keeps_wf
    | split

theorem keeps_makeResident {s0 : State} (s : State) (k : Command) (hs : Keeps s0 s) :
    Keeps s0 (State.makeResident s k) := by
  unfold State.makeResident
  try dsimp only [State.fresh]
  repeat' first
    | with_reducible assumption
    | intro _
    | with_reducible apply keeps_done
    | with_reducible apply keeps_due
    | with_reducible apply keeps_modCtx
    | with_reducible apply keeps_foldl
    | with_reducible apply keeps_ite
    | with_reducible apply keeps_getD
    | with_reducible apply Memory.wf_set
    | with_reducible apply Memory.wf_setN
    | with_reducible apply keeps_wf
    | split

theorem keeps_evict {s0 : State} (s : State) (k : Command) (hs : Keeps s0 s) :
    Keeps s0 (State.evict s k) := by
  unfold State.evict
  try dsimp only [State.fresh]
  repeat' first
    | with_reducible assumption
    | intro _
    | with_reducible apply keeps_done
    | with_reducible apply keeps_modCtx
    | with_reducible apply keeps_foldl
    | with_reducible apply keeps_ite
    | with_reducible apply keeps_getD
    | with_reducible apply Memory.wf_set
    | with_reducible apply Memory.wf_setN
    | with_reducible apply keeps_wf
    | split

theorem keeps_setMode {s0 : State} (s : State) (k : Command) (hs : Keeps s0 s) :
    Keeps s0 (State.setMode s k) := by
  unfold State.setMode
  try dsimp only [State.fresh]
  repeat' first
    | with_reducible assumption
    | intro _
    | with_reducible apply keeps_done
    | with_reducible apply keeps_due
    | with_reducible apply keeps_modCd
    | with_reducible apply keeps_modCtx
    | with_reducible apply keeps_newInterval
    | with_reducible apply keeps_foldl
    | with_reducible apply keeps_ite
    | with_reducible apply keeps_getD
    | with_reducible apply Memory.wf_set
    | with_reducible apply Memory.wf_setN
    | with_reducible apply keeps_wf
    | split
    | with_reducible refine keeps_mk ?_ ?_ ?_

theorem keeps_resume {s0 : State} (s : State) (k : Command) (hs : Keeps s0 s) :
    Keeps s0 (State.resume s k) := by
  unfold State.resume
  try dsimp only [State.fresh]
  repeat' first
    | with_reducible assumption
    | intro _
    | with_reducible apply keeps_done
    | with_reducible apply keeps_dropTrap
    | with_reducible apply keeps_goOn
    | with_reducible apply keeps_foldl
    | with_reducible apply keeps_ite

theorem keeps_kill {s0 : State} (s : State) (k : Command) (hs : Keeps s0 s) :
    Keeps s0 (State.kill s k) := by
  unfold State.kill
  try dsimp only [State.fresh]
  repeat' first
    | with_reducible assumption
    | intro _
    | with_reducible apply keeps_done
    | with_reducible apply keeps_endOrHold
    | with_reducible apply keeps_post
    | with_reducible apply keeps_foldl
    | with_reducible apply keeps_ite
    | with_reducible apply keeps_getD
    | with_reducible apply Memory.wf_set
    | with_reducible apply Memory.wf_setN
    | with_reducible apply keeps_wf
    | split

theorem keeps_trapWrite {s0 : State} (s : State) (k : Command) (hs : Keeps s0 s) :
    Keeps s0 (State.trapWrite s k) := by
  unfold State.trapWrite
  try dsimp only [State.fresh]
  repeat' first
    | with_reducible assumption
    | intro _
    | with_reducible apply keeps_done
    | with_reducible apply keeps_modCd
    | with_reducible apply keeps_foldl
    | with_reducible apply keeps_ite

theorem keeps_ctxInfo {s0 : State} (s : State) (k : Command) (hs : Keeps s0 s) :
    Keeps s0 (State.ctxInfo s k) := by
  unfold State.ctxInfo
  try dsimp only [State.fresh]
  repeat' first
    | with_reducible assumption
    | intro _
    | with_reducible apply keeps_done
    | with_reducible apply keeps_finish
    | with_reducible apply keeps_foldl
    | with_reducible apply keeps_ite
    | with_reducible apply keeps_getD
    | with_reducible apply Memory.wf_set
    | with_reducible apply Memory.wf_setN
    | with_reducible apply keeps_wf
    | split

theorem keeps_clearW {s0 : State} (s : State) (d : Nat) (hs : Keeps s0 s) :
    Keeps s0 (State.clearW s d) := by
  unfold State.clearW
  try dsimp only [State.fresh]
  repeat' first
    | with_reducible assumption
    | intro _
    | with_reducible apply keeps_foldl
    | with_reducible apply keeps_ite
    | with_reducible apply keeps_getD
    | with_reducible apply Memory.wf_set
    | with_reducible apply Memory.wf_setN
    | with_reducible apply keeps_wf
    | split
    | with_reducible refine keeps_mk ?_ ?_ ?_

theorem keeps_regwCtx {s0 : State} (s : State) (c : Nat) (d : Nat) (sel : Nat) (v : BitVec 64) (hs : Keeps s0 s) :
    Keeps s0 (State.regwCtx s c d sel v) := by
  unfold State.regwCtx
  try dsimp only [State.fresh]
  repeat' first
    | with_reducible assumption
    | intro _
    | with_reducible apply keeps_catHead
    | with_reducible apply keeps_clearW
    | with_reducible apply keeps_headWrite
    | with_reducible apply keeps_modCd
    | with_reducible apply keeps_modCtx
    | with_reducible apply keeps_regw
    | with_reducible apply keeps_repin
    | with_reducible apply keeps_tailSupply
    | with_reducible apply keeps_foldl
    | with_reducible apply keeps_ite
    | with_reducible apply keeps_getD
    | with_reducible apply Memory.wf_set
    | with_reducible apply Memory.wf_setN
    | with_reducible apply keeps_wf
    | split

theorem keeps_orDrain {s0 : State} (s : State) (k : Command) (d : Nat) (t : State) (hs : Keeps s0 s) (ht : Keeps s0 t) :
    Keeps s0 (State.orDrain s k d t) := by
  unfold State.orDrain
  try dsimp only [State.fresh]
  repeat' first
    | with_reducible assumption
    | intro _
    | with_reducible apply keeps_drainPages
    | with_reducible apply keeps_foldl
    | with_reducible apply keeps_ite
    | with_reducible apply keeps_getD
    | with_reducible apply Memory.wf_set
    | with_reducible apply Memory.wf_setN
    | with_reducible apply keeps_wf
    | split

theorem keeps_regw {s0 : State} (s : State) (k : Command) (hs : Keeps s0 s) :
    Keeps s0 (State.regw s k) := by
  unfold State.regw
  try dsimp only [State.fresh]
  repeat' first
    | with_reducible assumption
    | intro _
    | with_reducible apply keeps_done
    | with_reducible apply keeps_modDie
    | with_reducible apply keeps_orDrain
    | with_reducible apply keeps_regwCtx
    | with_reducible apply keeps_foldl
    | with_reducible apply keeps_ite
    | with_reducible apply keeps_getD
    | with_reducible apply Memory.wf_set
    | with_reducible apply Memory.wf_setN
    | with_reducible apply keeps_wf
    | split

theorem keeps_mapPage {s0 : State} (s : State) (k : Command) (hs : Keeps s0 s) :
    Keeps s0 (State.mapPage s k) := by
  unfold State.mapPage
  try dsimp only [State.fresh]
  repeat' first
    | with_reducible assumption
    | intro _
    | with_reducible apply keeps_clearW
    | with_reducible apply keeps_done
    | with_reducible apply keeps_modCd
    | with_reducible apply keeps_repin
    | with_reducible apply keeps_foldl
    | with_reducible apply keeps_ite

theorem keeps_unmap {s0 : State} (s : State) (k : Command) (hs : Keeps s0 s) :
    Keeps s0 (State.unmap s k) := by
  unfold State.unmap
  try dsimp only [State.fresh]
  repeat' first
    | with_reducible assumption
    | intro _
    | with_reducible apply keeps_done
    | with_reducible apply keeps_drainPages
    | with_reducible apply keeps_foldl
    | with_reducible apply keeps_ite
    | with_reducible apply keeps_getD
    | with_reducible apply Memory.wf_set
    | with_reducible apply Memory.wf_setN
    | with_reducible apply keeps_wf
    | split

theorem keeps_protect {s0 : State} (s : State) (k : Command) (hs : Keeps s0 s) :
    Keeps s0 (State.protect s k) := by
  unfold State.protect
  try dsimp only [State.fresh]
  repeat' first
    | with_reducible assumption
    | intro _
    | with_reducible apply keeps_clearW
    | with_reducible apply keeps_done
    | with_reducible apply keeps_drainPages
    | with_reducible apply keeps_modCd
    | with_reducible apply keeps_foldl
    | with_reducible apply keeps_ite
    | with_reducible apply keeps_getD
    | with_reducible apply Memory.wf_set
    | with_reducible apply Memory.wf_setN
    | with_reducible apply keeps_wf
    | split

theorem keeps_pageDrained {s0 : State} (s : State) (k : Command) (hs : Keeps s0 s) :
    Keeps s0 (State.pageDrained s k) := by
  unfold State.pageDrained
  try dsimp only [State.fresh]
  repeat' first
    | with_reducible assumption
    | intro _
    | with_reducible apply keeps_done
    | with_reducible apply keeps_modCd
    | with_reducible apply keeps_modDie
    | with_reducible apply keeps_foldl
    | with_reducible apply keeps_ite
    | with_reducible apply keeps_getD
    | with_reducible apply Memory.wf_set
    | with_reducible apply Memory.wf_setN
    | with_reducible apply keeps_wf
    | split

theorem keeps_resDone {s0 : State} (s : State) (k : Command) (hs : Keeps s0 s) :
    Keeps s0 (State.resDone s k) := by
  unfold State.resDone
  try dsimp only [State.fresh]
  repeat' first
    | with_reducible assumption
    | intro _
    | with_reducible apply keeps_done
    | with_reducible apply keeps_due
    | with_reducible apply keeps_failResidency
    | with_reducible apply keeps_foldl
    | with_reducible apply keeps_ite
    | with_reducible apply keeps_getD
    | with_reducible apply Memory.wf_set
    | with_reducible apply Memory.wf_setN
    | with_reducible apply keeps_wf
    | split

theorem keeps_resFail {s0 : State} (s : State) (k : Command) (hs : Keeps s0 s) :
    Keeps s0 (State.resFail s k) := by
  unfold State.resFail
  try dsimp only [State.fresh]
  repeat' first
    | with_reducible assumption
    | intro _
    | with_reducible apply keeps_done
    | with_reducible apply keeps_failResidency
    | with_reducible apply keeps_foldl
    | with_reducible apply keeps_ite
    | with_reducible apply keeps_getD
    | with_reducible apply Memory.wf_set
    | with_reducible apply Memory.wf_setN
    | with_reducible apply keeps_wf
    | split

theorem keeps_gramDrop {s0 : State} (s : State) (c : Nat) (d : Nat) (slot : Nat) (hs : Keeps s0 s) :
    Keeps s0 (State.gramDrop s c d slot) := by
  unfold State.gramDrop
  try dsimp only [State.fresh]
  repeat' first
    | with_reducible assumption
    | intro _
    | with_reducible apply keeps_modCd
    | with_reducible apply keeps_modGram
    | with_reducible apply keeps_repin

theorem keeps_gramValid {s0 : State} (s : State) (k : Command) (hs : Keeps s0 s) :
    Keeps s0 (State.gramValid s k) := by
  unfold State.gramValid
  try dsimp only [State.fresh]
  repeat' first
    | with_reducible assumption
    | intro _
    | with_reducible apply keeps_clearW
    | with_reducible apply keeps_done
    | with_reducible apply keeps_gramDrop
    | with_reducible apply keeps_modCd
    | with_reducible apply keeps_repin
    | with_reducible apply keeps_foldl
    | with_reducible apply keeps_ite
    | with_reducible apply keeps_getD
    | with_reducible apply Memory.wf_set
    | with_reducible apply Memory.wf_setN
    | with_reducible apply keeps_wf
    | split

theorem keeps_gramWrite {s0 : State} (s : State) (k : Command) (hs : Keeps s0 s) :
    Keeps s0 (State.gramWrite s k) := by
  unfold State.gramWrite
  try dsimp only [State.fresh]
  repeat' first
    | with_reducible assumption
    | intro _
    | with_reducible apply keeps_done
    | with_reducible apply keeps_finish
    | with_reducible apply keeps_gramDrop
    | with_reducible apply keeps_gramValid
    | with_reducible apply keeps_orDrain
    | with_reducible apply keeps_foldl
    | with_reducible apply keeps_ite
    | with_reducible apply keeps_getD
    | with_reducible apply Memory.wf_set
    | with_reducible apply Memory.wf_setN
    | with_reducible apply keeps_wf
    | split

theorem keeps_gramClear {s0 : State} (s : State) (k : Command) (hs : Keeps s0 s) :
    Keeps s0 (State.gramClear s k) := by
  unfold State.gramClear
  try dsimp only [State.fresh]
  repeat' first
    | with_reducible assumption
    | intro _
    | with_reducible apply keeps_done
    | with_reducible apply keeps_gramDrop
    | with_reducible apply keeps_foldl
    | with_reducible apply keeps_ite
    | with_reducible apply keeps_getD
    | with_reducible apply Memory.wf_set
    | with_reducible apply Memory.wf_setN
    | with_reducible apply keeps_wf
    | split

theorem keeps_cmdDrained {s0 : State} (s : State) (k : Command) (hs : Keeps s0 s) :
    Keeps s0 (State.cmdDrained s k) := by
  unfold State.cmdDrained
  try dsimp only [State.fresh]
  repeat' first
    | with_reducible assumption
    | intro _
    | with_reducible apply keeps_destroyNow
    | with_reducible apply keeps_done
    | with_reducible apply keeps_gramValid
    | with_reducible apply keeps_pageDrained
    | with_reducible apply keeps_regwCtx
    | with_reducible apply keeps_foldl
    | with_reducible apply keeps_ite
    | with_reducible apply keeps_getD
    | with_reducible apply Memory.wf_set
    | with_reducible apply Memory.wf_setN
    | with_reducible apply keeps_wf
    | split

theorem keeps_drainArrived {s0 : State} (s : State) (op : Nat) (hs : Keeps s0 s) :
    Keeps s0 (State.drainArrived s op) := by
  unfold State.drainArrived
  try dsimp only [State.fresh]
  repeat' first
    | with_reducible assumption
    | intro _
    | with_reducible apply keeps_aspaceArrived
    | with_reducible apply keeps_cmdDrained
    | with_reducible apply keeps_foldl
    | with_reducible apply keeps_ite
    | with_reducible apply keeps_getD
    | with_reducible apply Memory.wf_set
    | with_reducible apply Memory.wf_setN
    | with_reducible apply keeps_wf
    | split
    | with_reducible refine keeps_mk ?_ ?_ ?_

theorem keeps_endpointWrite {s0 : State} (s : State) (k : Command) (hs : Keeps s0 s) :
    Keeps s0 (State.endpointWrite s k) := by
  unfold State.endpointWrite
  try dsimp only [State.fresh]
  repeat' first
    | with_reducible assumption
    | intro _
    | with_reducible apply keeps_done
    | with_reducible apply keeps_modCd
    | with_reducible apply keeps_foldl
    | with_reducible apply keeps_ite
    | with_reducible apply keeps_getD
    | with_reducible apply Memory.wf_set
    | with_reducible apply Memory.wf_setN
    | with_reducible apply keeps_wf
    | split

theorem keeps_windowWrite {s0 : State} (s : State) (k : Command) (hs : Keeps s0 s) :
    Keeps s0 (State.windowWrite s k) := by
  unfold State.windowWrite
  try dsimp only [State.fresh]
  repeat' first
    | with_reducible assumption
    | intro _
    | with_reducible apply keeps_done
    | with_reducible apply keeps_modCd
    | with_reducible apply keeps_pinRange
    | with_reducible apply keeps_unpinRange
    | with_reducible apply keeps_foldl
    | with_reducible apply keeps_ite
    | with_reducible apply keeps_getD
    | refine keeps_of_snd ?_ (by with_reducible assumption)
    | with_reducible apply Memory.wf_set
    | with_reducible apply Memory.wf_setN
    | with_reducible apply keeps_wf
    | split

theorem keeps_netConfigure {s0 : State} (s : State) (k : Command) (hs : Keeps s0 s) :
    Keeps s0 (State.netConfigure s k) := by
  unfold State.netConfigure
  try dsimp only [State.fresh]
  repeat' first
    | with_reducible assumption
    | intro _
    | with_reducible apply keeps_done
    | with_reducible apply keeps_modNet
    | with_reducible apply keeps_foldl
    | with_reducible apply keeps_ite
    | with_reducible apply keeps_getD
    | with_reducible apply Memory.wf_set
    | with_reducible apply Memory.wf_setN
    | with_reducible apply keeps_wf
    | split

theorem keeps_linkRst {s0 : State} (s : State) (k : Command) (hs : Keeps s0 s) :
    Keeps s0 (State.linkRst s k) := by
  unfold State.linkRst
  try dsimp only [State.fresh]
  repeat' first
    | with_reducible assumption
    | intro _
    | with_reducible apply keeps_done
    | with_reducible apply keeps_linkReset
    | with_reducible apply keeps_foldl
    | with_reducible apply keeps_ite
    | with_reducible apply keeps_getD
    | with_reducible apply Memory.wf_set
    | with_reducible apply Memory.wf_setN
    | with_reducible apply keeps_wf
    | split

theorem keeps_statClrCmd {s0 : State} (s : State) (k : Command) (hs : Keeps s0 s) :
    Keeps s0 (State.statClrCmd s k) := by
  unfold State.statClrCmd
  try dsimp only [State.fresh]
  repeat' first
    | with_reducible assumption
    | intro _
    | with_reducible apply keeps_done
    | with_reducible apply keeps_statClear
    | with_reducible apply keeps_foldl
    | with_reducible apply keeps_ite
    | with_reducible apply keeps_getD
    | with_reducible apply Memory.wf_set
    | with_reducible apply Memory.wf_setN
    | with_reducible apply keeps_wf
    | split

theorem keeps_memRead {s0 : State} (s : State) (k : Command) (hs : Keeps s0 s) :
    Keeps s0 (State.memRead s k) := by
  unfold State.memRead
  try dsimp only [State.fresh]
  repeat' first
    | with_reducible assumption
    | intro _
    | with_reducible apply keeps_done
    | with_reducible apply keeps_foldl
    | with_reducible apply keeps_ite
    | with_reducible apply keeps_getD
    | with_reducible apply Memory.wf_set
    | with_reducible apply Memory.wf_setN
    | with_reducible apply keeps_wf
    | split
    | with_reducible refine keeps_mk ?_ ?_ ?_

theorem keeps_memWrite {s0 : State} (s : State) (k : Command) (hs : Keeps s0 s) :
    Keeps s0 (State.memWrite s k) := by
  unfold State.memWrite
  try dsimp only [State.fresh]
  repeat' first
    | with_reducible assumption
    | intro _
    | with_reducible apply keeps_done
    | with_reducible apply keeps_foldl
    | with_reducible apply keeps_ite
    | with_reducible apply keeps_getD
    | with_reducible apply Memory.wf_set
    | with_reducible apply Memory.wf_setN
    | with_reducible apply keeps_wf
    | split
    | with_reducible refine keeps_mk ?_ ?_ ?_

theorem keeps_keyApply {s0 : State} (s : State) (t : TileId) (u : KUnit) (hs : Keeps s0 s) :
    Keeps s0 (State.keyApply s t u) := by
  unfold State.keyApply
  try dsimp only [State.fresh]
  repeat' first
    | with_reducible assumption
    | intro _
    | with_reducible apply keeps_due
    | with_reducible apply keeps_flush
    | with_reducible apply keeps_modTile
    | with_reducible apply keeps_setStatus
    | with_reducible apply keeps_foldl
    | with_reducible apply keeps_ite

theorem keeps_keyFault {s0 : State} (s : State) (j : Job) (x : KFault) (hs : Keeps s0 s) :
    Keeps s0 (State.keyFault s j x) := by
  unfold State.keyFault
  try dsimp only [State.fresh]
  repeat' first
    | with_reducible assumption
    | intro _
    | with_reducible apply keeps_jobFault

theorem keeps_keyComplete {s0 : State} (s : State) (t : TileId) (hs : Keeps s0 s) :
    Keeps s0 (State.keyComplete s t) := by
  unfold State.keyComplete
  try dsimp only [State.fresh]
  repeat' first
    | with_reducible assumption
    | intro _
    | with_reducible apply keeps_consume
    | with_reducible apply keeps_due
    | with_reducible apply keeps_emit2
    | with_reducible apply keeps_keyApply
    | with_reducible apply keeps_keyFault
    | with_reducible apply keeps_modTile
    | with_reducible apply keeps_settle
    | with_reducible apply keeps_foldl
    | with_reducible apply keeps_ite
    | with_reducible apply keeps_getD
    | with_reducible apply Memory.wf_set
    | with_reducible apply Memory.wf_setN
    | with_reducible apply keeps_wf
    | split

theorem keeps_fireKey {s0 : State} (major : Nat) (minor : Nat) (f : Fields) (s : State) (hs : Keeps s0 s) :
    Keeps s0 (fireKey major minor f s) := by
  unfold fireKey
  try dsimp only [State.fresh]
  repeat' first
    | with_reducible assumption
    | intro _
    | with_reducible apply keeps_due
    | with_reducible apply keeps_fire
    | with_reducible apply keeps_modTile

theorem keeps_windowWrite64 {s0 : State} (s : State) (d : Nat) (off : Nat) (v : BitVec 64) (named : Nat) (hs : Keeps s0 s) :
    Keeps s0 (State.windowWrite64 s d off v named) := by
  unfold State.windowWrite64
  try dsimp only [State.fresh]
  repeat' first
    | with_reducible assumption
    | intro _
    | with_reducible apply keeps_doorbell
    | with_reducible apply keeps_eheadWrite
    | with_reducible apply keeps_modDie
    | with_reducible apply keeps_modRings
    | with_reducible apply keeps_patch
    | with_reducible apply keeps_qbaseWrite
    | with_reducible apply keeps_qctlWrite
    | with_reducible apply keeps_tailWrite
    | with_reducible apply keeps_foldl
    | with_reducible apply keeps_ite
    | with_reducible apply keeps_getD
    | with_reducible apply Memory.wf_set
    | with_reducible apply Memory.wf_setN
    | with_reducible apply keeps_wf
    | split

theorem keeps_windowStore {s0 : State} (s : State) (d : Nat) (off : Nat) (bs : Bytes) (hs : Keeps s0 s) :
    Keeps s0 (State.windowStore s d off bs) := by
  unfold State.windowStore
  try dsimp only [State.fresh]
  repeat' first
    | with_reducible assumption
    | intro _
    | with_reducible apply keeps_post
    | with_reducible apply keeps_foldl
    | with_reducible apply keeps_ite

theorem keeps_windowRequest {s0 : State} (s : State) (d : Nat) (p : Packet) (hs : Keeps s0 s) :
    Keeps s0 (State.windowRequest s d p) := by
  unfold State.windowRequest
  try dsimp only [State.fresh]
  repeat' first
    | with_reducible assumption
    | intro _
    | with_reducible apply keeps_cstatUp
    | with_reducible apply keeps_emitPkt
    | with_reducible apply keeps_windowStore
    | with_reducible apply keeps_foldl
    | with_reducible apply keeps_ite
    | with_reducible apply keeps_getD
    | with_reducible apply Memory.wf_set
    | with_reducible apply Memory.wf_setN
    | with_reducible apply keeps_wf
    | split

theorem keeps_hostSends {s0 : State} (s : State) (p : Packet) (hs : Keeps s0 s) :
    Keeps s0 (State.hostSends s p) := by
  unfold State.hostSends
  try dsimp only [State.fresh]
  repeat' first
    | with_reducible assumption
    | intro _
    | with_reducible apply keeps_cstatUp
    | with_reducible apply keeps_emitPkt
    | with_reducible apply keeps_foldl
    | with_reducible apply keeps_ite
    | with_reducible apply keeps_getD
    | with_reducible apply Memory.wf_set
    | with_reducible apply Memory.wf_setN
    | with_reducible apply keeps_wf
    | split
    | with_reducible refine keeps_mk ?_ ?_ ?_

theorem keeps_tick {s0 : State} (s : State) (hs : Keeps s0 s) :
    Keeps s0 (State.tick s) := by
  unfold State.tick
  try dsimp only [State.fresh]
  repeat' first
    | with_reducible assumption
    | intro _
    | with_reducible apply keeps_closeCycle
    | with_reducible apply keeps_gatherAll
    | with_reducible apply keeps_writeLogs
    | with_reducible apply keeps_foldl
    | with_reducible apply keeps_ite
    | with_reducible apply keeps_getD
    | with_reducible apply Memory.wf_set
    | with_reducible apply Memory.wf_setN
    | with_reducible apply keeps_wf
    | split
    | with_reducible refine keeps_mk ?_ ?_ ?_

theorem keeps_readyFor {s0 : State} (s : State) (c : Choice) (hs : Keeps s0 s) :
    Keeps s0 (State.readyFor s c) := by
  unfold State.readyFor
  try dsimp only [State.fresh]
  repeat' first
    | with_reducible assumption
    | intro _
    | with_reducible apply keeps_closeCycle
    | with_reducible apply keeps_writeLogs
    | with_reducible apply keeps_foldl
    | with_reducible apply keeps_ite

end Sys2Proof.Machine
end

