-- ==== Sys2Proof/Laws/KeepsExec.lean ====
section
/-! SUPPORT. Keeps: the same for the meaning of every instruction. One lemma
for each operation, in continuation form: what holds before it holds after it. -/

namespace Sys2Proof.Machine

theorem keeps_execLdlLdl {s t : State} (f : Fields) (h : execLdlLdl f s = .next t) : Keeps s t := by
  unfold execLdlLdl at h
  injection h with h
  subst h
  all_goals repeat' first
    | with_reducible assumption
    | intro _
    | with_reducible exact keeps_refl _
    | with_reducible apply keeps_fireLdl

theorem keeps_execLdlLdls {s t : State} (f : Fields) (h : execLdlLdls f s = .next t) : Keeps s t := by
  unfold execLdlLdls at h
  injection h with h
  subst h
  all_goals repeat' first
    | with_reducible assumption
    | intro _
    | with_reducible exact keeps_refl _
    | with_reducible apply keeps_fireLdl

theorem keeps_execLdlLdlx {s t : State} (f : Fields) (h : execLdlLdlx f s = .next t) : Keeps s t := by
  unfold execLdlLdlx at h
  injection h with h
  subst h
  all_goals repeat' first
    | with_reducible assumption
    | intro _
    | with_reducible exact keeps_refl _
    | with_reducible apply keeps_fireLdl

theorem keeps_execStlStl {s t : State} (f : Fields) (h : execStlStl f s = .next t) : Keeps s t := by
  unfold execStlStl at h
  injection h with h
  subst h
  all_goals repeat' first
    | with_reducible assumption
    | intro _
    | with_reducible exact keeps_refl _
    | with_reducible apply keeps_fireStl

theorem keeps_execStlStls {s t : State} (f : Fields) (h : execStlStls f s = .next t) : Keeps s t := by
  unfold execStlStls at h
  injection h with h
  subst h
  all_goals repeat' first
    | with_reducible assumption
    | intro _
    | with_reducible exact keeps_refl _
    | with_reducible apply keeps_fireStl

theorem keeps_execStlStlx {s t : State} (f : Fields) (h : execStlStlx f s = .next t) : Keeps s t := by
  unfold execStlStlx at h
  injection h with h
  subst h
  all_goals repeat' first
    | with_reducible assumption
    | intro _
    | with_reducible exact keeps_refl _
    | with_reducible apply keeps_fireStl

theorem keeps_execFullEmptyWaitPerform {s t : State}  (h : execFullEmptyWaitPerform s = .next t) : Keeps s t := by
  unfold execFullEmptyWaitPerform at h
  split at h <;> injection h with h <;> subst h
  all_goals repeat' first
    | with_reducible assumption
    | intro _
    | with_reducible exact keeps_refl _
    | with_reducible apply keeps_waitStep

theorem keeps_execForwardingRetire {s t : State}  (h : execForwardingRetire s = .next t) : Keeps s t := by
  unfold execForwardingRetire at h
  split at h <;> injection h with h <;> subst h
  all_goals repeat' first
    | with_reducible assumption
    | intro _
    | with_reducible exact keeps_refl _
    | with_reducible apply keeps_due
    | with_reducible apply keeps_modTile
    | with_reducible apply keeps_foldl
    | with_reducible apply keeps_ite

theorem keeps_execScratchpadClearDone {s t : State}  (h : execScratchpadClearDone s = .next t) : Keeps s t := by
  unfold execScratchpadClearDone at h
  split at h <;> injection h with h <;> subst h
  all_goals repeat' first
    | with_reducible assumption
    | intro _
    | with_reducible exact keeps_refl _
    | with_reducible apply keeps_modTile

theorem keeps_execAddrAmov {s t : State} (f : Fields) (h : execAddrAmov f s = .next t) : Keeps s t := by
  unfold execAddrAmov at h
  injection h with h
  subst h
  all_goals repeat' first
    | with_reducible assumption
    | intro _
    | with_reducible exact keeps_refl _
    | with_reducible apply keeps_fireAddr

theorem keeps_execAddrAoff {s t : State} (f : Fields) (h : execAddrAoff f s = .next t) : Keeps s t := by
  unfold execAddrAoff at h
  injection h with h
  subst h
  all_goals repeat' first
    | with_reducible assumption
    | intro _
    | with_reducible exact keeps_refl _
    | with_reducible apply keeps_fireAddr

theorem keeps_execAddrAscale {s t : State} (f : Fields) (h : execAddrAscale f s = .next t) : Keeps s t := by
  unfold execAddrAscale at h
  injection h with h
  subst h
  all_goals repeat' first
    | with_reducible assumption
    | intro _
    | with_reducible exact keeps_refl _
    | with_reducible apply keeps_fireAddr

theorem keeps_execAddrApw {s t : State} (f : Fields) (h : execAddrApw f s = .next t) : Keeps s t := by
  unfold execAddrApw at h
  injection h with h
  subst h
  all_goals try dsimp only [State.fresh]
  all_goals repeat' first
    | with_reducible assumption
    | intro _
    | with_reducible exact keeps_refl _
    | with_reducible apply keeps_aregLater
    | with_reducible apply keeps_consume
    | with_reducible apply keeps_emit2
    | with_reducible apply keeps_fire
    | with_reducible apply keeps_jobFault
    | with_reducible apply keeps_setStatus
    | with_reducible apply keeps_foldl
    | with_reducible apply keeps_ite
    | with_reducible apply keeps_getD
    | with_reducible apply keeps_wf
    | split

theorem keeps_execAddrAread {s t : State} (f : Fields) (h : execAddrAread f s = .next t) : Keeps s t := by
  unfold execAddrAread at h
  injection h with h
  subst h
  all_goals repeat' first
    | with_reducible assumption
    | intro _
    | with_reducible exact keeps_refl _
    | with_reducible apply keeps_fireAddr

theorem keeps_execTlbMissFill {s t : State}  (h : execTlbMissFill s = .next t) : Keeps s t := by
  unfold execTlbMissFill at h
  split at h <;> injection h with h <;> subst h
  all_goals repeat' first
    | with_reducible assumption
    | intro _
    | with_reducible exact keeps_refl _
    | with_reducible apply keeps_tlbStep

theorem keeps_execSoHeldPerform {s t : State}  (h : execSoHeldPerform s = .next t) : Keeps s t := by
  unfold execSoHeldPerform at h
  split at h <;> injection h with h <;> subst h
  all_goals repeat' first
    | with_reducible assumption
    | intro _
    | with_reducible exact keeps_refl _
    | with_reducible apply keeps_ownerGo
    | with_reducible apply keeps_unmapped
    | with_reducible apply keeps_foldl
    | with_reducible apply keeps_ite
    | with_reducible apply keeps_getD
    | with_reducible apply keeps_wf
    | split

theorem keeps_execByteCredit {s t : State}  (h : execByteCredit s = .next t) : Keeps s t := by
  unfold execByteCredit at h
  split at h <;> injection h with h <;> subst h
  all_goals repeat' first
    | with_reducible assumption
    | intro _
    | with_reducible exact keeps_refl _
    | with_reducible apply keeps_ownerStep

theorem keeps_execLdLd {s t : State} (f : Fields) (h : execLdLd f s = .next t) : Keeps s t := by
  unfold execLdLd at h
  injection h with h
  subst h
  all_goals repeat' first
    | with_reducible assumption
    | intro _
    | with_reducible exact keeps_refl _
    | with_reducible apply keeps_fireLoad

theorem keeps_execLdLdnt {s t : State} (f : Fields) (h : execLdLdnt f s = .next t) : Keeps s t := by
  unfold execLdLdnt at h
  injection h with h
  subst h
  all_goals repeat' first
    | with_reducible assumption
    | intro _
    | with_reducible exact keeps_refl _
    | with_reducible apply keeps_fireLoad

theorem keeps_execLdLdpw {s t : State} (f : Fields) (h : execLdLdpw f s = .next t) : Keeps s t := by
  unfold execLdLdpw at h
  injection h with h
  subst h
  all_goals repeat' first
    | with_reducible assumption
    | intro _
    | with_reducible exact keeps_refl _
    | with_reducible apply keeps_fireLdpw

theorem keeps_execLdLdfc {s t : State} (f : Fields) (h : execLdLdfc f s = .next t) : Keeps s t := by
  unfold execLdLdfc at h
  injection h with h
  subst h
  all_goals repeat' first
    | with_reducible assumption
    | intro _
    | with_reducible exact keeps_refl _
    | with_reducible apply keeps_fireLoad

theorem keeps_execLdFcinv {s t : State} (f : Fields) (h : execLdFcinv f s = .next t) : Keeps s t := by
  unfold execLdFcinv at h
  injection h with h
  subst h
  all_goals repeat' first
    | with_reducible assumption
    | intro _
    | with_reducible exact keeps_refl _
    | with_reducible apply keeps_fireFcinv

theorem keeps_execGatherGath {s t : State} (f : Fields) (h : execGatherGath f s = .next t) : Keeps s t := by
  unfold execGatherGath at h
  injection h with h
  subst h
  all_goals repeat' first
    | with_reducible assumption
    | intro _
    | with_reducible exact keeps_refl _
    | with_reducible apply keeps_fireLoad

theorem keeps_execGatherGathw {s t : State} (f : Fields) (h : execGatherGathw f s = .next t) : Keeps s t := by
  unfold execGatherGathw at h
  injection h with h
  subst h
  all_goals repeat' first
    | with_reducible assumption
    | intro _
    | with_reducible exact keeps_refl _
    | with_reducible apply keeps_fireLoad

theorem keeps_execStSt {s t : State} (f : Fields) (h : execStSt f s = .next t) : Keeps s t := by
  unfold execStSt at h
  injection h with h
  subst h
  all_goals repeat' first
    | with_reducible assumption
    | intro _
    | with_reducible exact keeps_refl _
    | with_reducible apply keeps_fireStore

theorem keeps_execStStnt {s t : State} (f : Fields) (h : execStStnt f s = .next t) : Keeps s t := by
  unfold execStStnt at h
  injection h with h
  subst h
  all_goals repeat' first
    | with_reducible assumption
    | intro _
    | with_reducible exact keeps_refl _
    | with_reducible apply keeps_fireStore

theorem keeps_execScatterScat {s t : State} (f : Fields) (h : execScatterScat f s = .next t) : Keeps s t := by
  unfold execScatterScat at h
  injection h with h
  subst h
  all_goals repeat' first
    | with_reducible assumption
    | intro _
    | with_reducible exact keeps_refl _
    | with_reducible apply keeps_fireStore

theorem keeps_execScatterScatm {s t : State} (f : Fields) (h : execScatterScatm f s = .next t) : Keeps s t := by
  unfold execScatterScatm at h
  injection h with h
  subst h
  all_goals repeat' first
    | with_reducible assumption
    | intro _
    | with_reducible exact keeps_refl _
    | with_reducible apply keeps_fireStore

theorem keeps_execAtomAtadd {s t : State} (f : Fields) (h : execAtomAtadd f s = .next t) : Keeps s t := by
  unfold execAtomAtadd at h
  injection h with h
  subst h
  all_goals repeat' first
    | with_reducible assumption
    | intro _
    | with_reducible exact keeps_refl _
    | with_reducible apply keeps_fireAtom

theorem keeps_execAtomAtmin {s t : State} (f : Fields) (h : execAtomAtmin f s = .next t) : Keeps s t := by
  unfold execAtomAtmin at h
  injection h with h
  subst h
  all_goals repeat' first
    | with_reducible assumption
    | intro _
    | with_reducible exact keeps_refl _
    | with_reducible apply keeps_fireAtom

theorem keeps_execAtomAtmax {s t : State} (f : Fields) (h : execAtomAtmax f s = .next t) : Keeps s t := by
  unfold execAtomAtmax at h
  injection h with h
  subst h
  all_goals repeat' first
    | with_reducible assumption
    | intro _
    | with_reducible exact keeps_refl _
    | with_reducible apply keeps_fireAtom

theorem keeps_execAtomAtand {s t : State} (f : Fields) (h : execAtomAtand f s = .next t) : Keeps s t := by
  unfold execAtomAtand at h
  injection h with h
  subst h
  all_goals repeat' first
    | with_reducible assumption
    | intro _
    | with_reducible exact keeps_refl _
    | with_reducible apply keeps_fireAtom

theorem keeps_execAtomAtor {s t : State} (f : Fields) (h : execAtomAtor f s = .next t) : Keeps s t := by
  unfold execAtomAtor at h
  injection h with h
  subst h
  all_goals repeat' first
    | with_reducible assumption
    | intro _
    | with_reducible exact keeps_refl _
    | with_reducible apply keeps_fireAtom

theorem keeps_execAtomAtxor {s t : State} (f : Fields) (h : execAtomAtxor f s = .next t) : Keeps s t := by
  unfold execAtomAtxor at h
  injection h with h
  subst h
  all_goals repeat' first
    | with_reducible assumption
    | intro _
    | with_reducible exact keeps_refl _
    | with_reducible apply keeps_fireAtom

theorem keeps_execAtomAtxchg {s t : State} (f : Fields) (h : execAtomAtxchg f s = .next t) : Keeps s t := by
  unfold execAtomAtxchg at h
  injection h with h
  subst h
  all_goals repeat' first
    | with_reducible assumption
    | intro _
    | with_reducible exact keeps_refl _
    | with_reducible apply keeps_fireAtom

theorem keeps_execAtomAtcas {s t : State} (f : Fields) (h : execAtomAtcas f s = .next t) : Keeps s t := by
  unfold execAtomAtcas at h
  injection h with h
  subst h
  all_goals repeat' first
    | with_reducible assumption
    | intro _
    | with_reducible exact keeps_refl _
    | with_reducible apply keeps_fireAtom

theorem keeps_execAtomAtcasw {s t : State} (f : Fields) (h : execAtomAtcasw f s = .next t) : Keeps s t := by
  unfold execAtomAtcasw at h
  injection h with h
  subst h
  all_goals repeat' first
    | with_reducible assumption
    | intro _
    | with_reducible exact keeps_refl _
    | with_reducible apply keeps_fireAtom

theorem keeps_execAtomAtfadd {s t : State} (f : Fields) (h : execAtomAtfadd f s = .next t) : Keeps s t := by
  unfold execAtomAtfadd at h
  injection h with h
  subst h
  all_goals repeat' first
    | with_reducible assumption
    | intro _
    | with_reducible exact keeps_refl _
    | with_reducible apply keeps_fireAtom

theorem keeps_execOrderAcq {s t : State} (f : Fields) (h : execOrderAcq f s = .next t) : Keeps s t := by
  unfold execOrderAcq at h
  injection h with h
  subst h
  all_goals repeat' first
    | with_reducible assumption
    | intro _
    | with_reducible exact keeps_refl _
    | with_reducible apply keeps_fireOrder

theorem keeps_execOrderRel {s t : State} (f : Fields) (h : execOrderRel f s = .next t) : Keeps s t := by
  unfold execOrderRel at h
  injection h with h
  subst h
  all_goals repeat' first
    | with_reducible assumption
    | intro _
    | with_reducible exact keeps_refl _
    | with_reducible apply keeps_fireOrder

theorem keeps_execOrderAcqrel {s t : State} (f : Fields) (h : execOrderAcqrel f s = .next t) : Keeps s t := by
  unfold execOrderAcqrel at h
  injection h with h
  subst h
  all_goals repeat' first
    | with_reducible assumption
    | intro _
    | with_reducible exact keeps_refl _
    | with_reducible apply keeps_fireOrder

theorem keeps_execOrderFence {s t : State} (f : Fields) (h : execOrderFence f s = .next t) : Keeps s t := by
  unfold execOrderFence at h
  injection h with h
  subst h
  all_goals repeat' first
    | with_reducible assumption
    | intro _
    | with_reducible exact keeps_refl _
    | with_reducible apply keeps_fireOrder

theorem keeps_execOrderConditionMet {s t : State}  (h : execOrderConditionMet s = .next t) : Keeps s t := by
  unfold execOrderConditionMet at h
  split at h
  on_goal 1 => split at h
  all_goals injection h with h
  all_goals subst h
  all_goals repeat' first
    | with_reducible assumption
    | intro _
    | with_reducible exact keeps_refl _
    | with_reducible apply keeps_due
    | with_reducible apply keeps_finishOrder
    | with_reducible apply keeps_modTile
    | with_reducible apply keeps_foldl
    | with_reducible apply keeps_ite

theorem keeps_execBarBarinit {s t : State} (f : Fields) (h : execBarBarinit f s = .next t) : Keeps s t := by
  unfold execBarBarinit at h
  injection h with h
  subst h
  all_goals repeat' first
    | with_reducible assumption
    | intro _
    | with_reducible exact keeps_refl _
    | with_reducible apply keeps_fireBar

theorem keeps_execBarBarjoin {s t : State} (f : Fields) (h : execBarBarjoin f s = .next t) : Keeps s t := by
  unfold execBarBarjoin at h
  injection h with h
  subst h
  all_goals repeat' first
    | with_reducible assumption
    | intro _
    | with_reducible exact keeps_refl _
    | with_reducible apply keeps_fireBar

theorem keeps_execBarBarwait {s t : State} (f : Fields) (h : execBarBarwait f s = .next t) : Keeps s t := by
  unfold execBarBarwait at h
  injection h with h
  subst h
  all_goals repeat' first
    | with_reducible assumption
    | intro _
    | with_reducible exact keeps_refl _
    | with_reducible apply keeps_fireBar

theorem keeps_execBarwaitRetry {s t : State}  (h : execBarwaitRetry s = .next t) : Keeps s t := by
  unfold execBarwaitRetry at h
  split at h
  on_goal 1 => split at h
  all_goals injection h with h
  all_goals subst h
  all_goals repeat' first
    | with_reducible assumption
    | intro _
    | with_reducible exact keeps_refl _
    | with_reducible apply keeps_countParts
    | with_reducible apply keeps_emitPkt
    | with_reducible apply keeps_foldl

theorem keeps_execXferCopy {s t : State} (f : Fields) (h : execXferCopy f s = .next t) : Keeps s t := by
  unfold execXferCopy at h
  injection h with h
  subst h
  all_goals repeat' first
    | with_reducible assumption
    | intro _
    | with_reducible exact keeps_refl _
    | with_reducible apply keeps_fireXfer

theorem keeps_execXferCopy2d {s t : State} (f : Fields) (h : execXferCopy2d f s = .next t) : Keeps s t := by
  unfold execXferCopy2d at h
  injection h with h
  subst h
  all_goals repeat' first
    | with_reducible assumption
    | intro _
    | with_reducible exact keeps_refl _
    | with_reducible apply keeps_fireXfer

theorem keeps_execXferFill {s t : State} (f : Fields) (h : execXferFill f s = .next t) : Keeps s t := by
  unfold execXferFill at h
  injection h with h
  subst h
  all_goals repeat' first
    | with_reducible assumption
    | intro _
    | with_reducible exact keeps_refl _
    | with_reducible apply keeps_fireXfer

theorem keeps_execStreamerTakeCopy {s t : State}  (h : execStreamerTakeCopy s = .next t) : Keeps s t := by
  unfold execStreamerTakeCopy at h
  split at h <;> injection h with h <;> subst h
  all_goals repeat' first
    | with_reducible assumption
    | intro _
    | with_reducible exact keeps_refl _
    | with_reducible apply keeps_streamStep

theorem keeps_execAgPortIssue {s t : State}  (h : execAgPortIssue s = .next t) : Keeps s t := by
  unfold execAgPortIssue at h
  split at h <;> injection h with h <;> subst h
  all_goals repeat' first
    | with_reducible assumption
    | intro _
    | with_reducible exact keeps_refl _
    | with_reducible apply keeps_portStep

theorem keeps_execIaluAdd {s t : State} (f : Fields) (h : execIaluAdd f s = .next t) : Keeps s t := by
  unfold execIaluAdd at h
  injection h with h
  subst h
  all_goals repeat' first
    | with_reducible assumption
    | intro _
    | with_reducible exact keeps_refl _
    | with_reducible apply keeps_fireIalu

theorem keeps_execIaluSub {s t : State} (f : Fields) (h : execIaluSub f s = .next t) : Keeps s t := by
  unfold execIaluSub at h
  injection h with h
  subst h
  all_goals repeat' first
    | with_reducible assumption
    | intro _
    | with_reducible exact keeps_refl _
    | with_reducible apply keeps_fireIalu

theorem keeps_execIaluMul {s t : State} (f : Fields) (h : execIaluMul f s = .next t) : Keeps s t := by
  unfold execIaluMul at h
  injection h with h
  subst h
  all_goals repeat' first
    | with_reducible assumption
    | intro _
    | with_reducible exact keeps_refl _
    | with_reducible apply keeps_fireIalu

theorem keeps_execIaluMulh {s t : State} (f : Fields) (h : execIaluMulh f s = .next t) : Keeps s t := by
  unfold execIaluMulh at h
  injection h with h
  subst h
  all_goals repeat' first
    | with_reducible assumption
    | intro _
    | with_reducible exact keeps_refl _
    | with_reducible apply keeps_fireIalu

theorem keeps_execIaluMin {s t : State} (f : Fields) (h : execIaluMin f s = .next t) : Keeps s t := by
  unfold execIaluMin at h
  injection h with h
  subst h
  all_goals repeat' first
    | with_reducible assumption
    | intro _
    | with_reducible exact keeps_refl _
    | with_reducible apply keeps_fireIalu

theorem keeps_execIaluMax {s t : State} (f : Fields) (h : execIaluMax f s = .next t) : Keeps s t := by
  unfold execIaluMax at h
  injection h with h
  subst h
  all_goals repeat' first
    | with_reducible assumption
    | intro _
    | with_reducible exact keeps_refl _
    | with_reducible apply keeps_fireIalu

theorem keeps_execIaluAnd {s t : State} (f : Fields) (h : execIaluAnd f s = .next t) : Keeps s t := by
  unfold execIaluAnd at h
  injection h with h
  subst h
  all_goals repeat' first
    | with_reducible assumption
    | intro _
    | with_reducible exact keeps_refl _
    | with_reducible apply keeps_fireIalu

theorem keeps_execIaluOr {s t : State} (f : Fields) (h : execIaluOr f s = .next t) : Keeps s t := by
  unfold execIaluOr at h
  injection h with h
  subst h
  all_goals repeat' first
    | with_reducible assumption
    | intro _
    | with_reducible exact keeps_refl _
    | with_reducible apply keeps_fireIalu

theorem keeps_execIaluXor {s t : State} (f : Fields) (h : execIaluXor f s = .next t) : Keeps s t := by
  unfold execIaluXor at h
  injection h with h
  subst h
  all_goals repeat' first
    | with_reducible assumption
    | intro _
    | with_reducible exact keeps_refl _
    | with_reducible apply keeps_fireIalu

theorem keeps_execIaluNot {s t : State} (f : Fields) (h : execIaluNot f s = .next t) : Keeps s t := by
  unfold execIaluNot at h
  injection h with h
  subst h
  all_goals repeat' first
    | with_reducible assumption
    | intro _
    | with_reducible exact keeps_refl _
    | with_reducible apply keeps_fireIalu1

theorem keeps_execIaluShl {s t : State} (f : Fields) (h : execIaluShl f s = .next t) : Keeps s t := by
  unfold execIaluShl at h
  injection h with h
  subst h
  all_goals repeat' first
    | with_reducible assumption
    | intro _
    | with_reducible exact keeps_refl _
    | with_reducible apply keeps_fireIalu

theorem keeps_execIaluShr {s t : State} (f : Fields) (h : execIaluShr f s = .next t) : Keeps s t := by
  unfold execIaluShr at h
  injection h with h
  subst h
  all_goals repeat' first
    | with_reducible assumption
    | intro _
    | with_reducible exact keeps_refl _
    | with_reducible apply keeps_fireIalu

theorem keeps_execIaluRot {s t : State} (f : Fields) (h : execIaluRot f s = .next t) : Keeps s t := by
  unfold execIaluRot at h
  injection h with h
  subst h
  all_goals repeat' first
    | with_reducible assumption
    | intro _
    | with_reducible exact keeps_refl _
    | with_reducible apply keeps_fireIalu

theorem keeps_execIaluPopc {s t : State} (f : Fields) (h : execIaluPopc f s = .next t) : Keeps s t := by
  unfold execIaluPopc at h
  injection h with h
  subst h
  all_goals repeat' first
    | with_reducible assumption
    | intro _
    | with_reducible exact keeps_refl _
    | with_reducible apply keeps_fireIalu1

theorem keeps_execIaluClz {s t : State} (f : Fields) (h : execIaluClz f s = .next t) : Keeps s t := by
  unfold execIaluClz at h
  injection h with h
  subst h
  all_goals repeat' first
    | with_reducible assumption
    | intro _
    | with_reducible exact keeps_refl _
    | with_reducible apply keeps_fireIalu1

theorem keeps_execIaluAbs {s t : State} (f : Fields) (h : execIaluAbs f s = .next t) : Keeps s t := by
  unfold execIaluAbs at h
  injection h with h
  subst h
  all_goals repeat' first
    | with_reducible assumption
    | intro _
    | with_reducible exact keeps_refl _
    | with_reducible apply keeps_fireIalu1

theorem keeps_execIcmpEq {s t : State} (f : Fields) (h : execIcmpEq f s = .next t) : Keeps s t := by
  unfold execIcmpEq at h
  injection h with h
  subst h
  all_goals repeat' first
    | with_reducible assumption
    | intro _
    | with_reducible exact keeps_refl _
    | with_reducible apply keeps_fireIcmp

theorem keeps_execIcmpNe {s t : State} (f : Fields) (h : execIcmpNe f s = .next t) : Keeps s t := by
  unfold execIcmpNe at h
  injection h with h
  subst h
  all_goals repeat' first
    | with_reducible assumption
    | intro _
    | with_reducible exact keeps_refl _
    | with_reducible apply keeps_fireIcmp

theorem keeps_execIcmpLt {s t : State} (f : Fields) (h : execIcmpLt f s = .next t) : Keeps s t := by
  unfold execIcmpLt at h
  injection h with h
  subst h
  all_goals repeat' first
    | with_reducible assumption
    | intro _
    | with_reducible exact keeps_refl _
    | with_reducible apply keeps_fireIcmp

theorem keeps_execIcmpLe {s t : State} (f : Fields) (h : execIcmpLe f s = .next t) : Keeps s t := by
  unfold execIcmpLe at h
  injection h with h
  subst h
  all_goals repeat' first
    | with_reducible assumption
    | intro _
    | with_reducible exact keeps_refl _
    | with_reducible apply keeps_fireIcmp

theorem keeps_execIcmpGt {s t : State} (f : Fields) (h : execIcmpGt f s = .next t) : Keeps s t := by
  unfold execIcmpGt at h
  injection h with h
  subst h
  all_goals repeat' first
    | with_reducible assumption
    | intro _
    | with_reducible exact keeps_refl _
    | with_reducible apply keeps_fireIcmp

theorem keeps_execIcmpGe {s t : State} (f : Fields) (h : execIcmpGe f s = .next t) : Keeps s t := by
  unfold execIcmpGe at h
  injection h with h
  subst h
  all_goals repeat' first
    | with_reducible assumption
    | intro _
    | with_reducible exact keeps_refl _
    | with_reducible apply keeps_fireIcmp

theorem keeps_execIcmpTst {s t : State} (f : Fields) (h : execIcmpTst f s = .next t) : Keeps s t := by
  unfold execIcmpTst at h
  injection h with h
  subst h
  all_goals repeat' first
    | with_reducible assumption
    | intro _
    | with_reducible exact keeps_refl _
    | with_reducible apply keeps_fireIcmp

theorem keeps_execVfmaFma {s t : State} (f : Fields) (h : execVfmaFma f s = .next t) : Keeps s t := by
  unfold execVfmaFma at h
  injection h with h
  subst h
  all_goals repeat' first
    | with_reducible assumption
    | intro _
    | with_reducible exact keeps_refl _
    | with_reducible apply keeps_fireFma

theorem keeps_execVfmaFms {s t : State} (f : Fields) (h : execVfmaFms f s = .next t) : Keeps s t := by
  unfold execVfmaFms at h
  injection h with h
  subst h
  all_goals repeat' first
    | with_reducible assumption
    | intro _
    | with_reducible exact keeps_refl _
    | with_reducible apply keeps_fireFma

theorem keeps_execVfmaFnma {s t : State} (f : Fields) (h : execVfmaFnma f s = .next t) : Keeps s t := by
  unfold execVfmaFnma at h
  injection h with h
  subst h
  all_goals repeat' first
    | with_reducible assumption
    | intro _
    | with_reducible exact keeps_refl _
    | with_reducible apply keeps_fireFma

theorem keeps_execVfmaFnms {s t : State} (f : Fields) (h : execVfmaFnms f s = .next t) : Keeps s t := by
  unfold execVfmaFnms at h
  injection h with h
  subst h
  all_goals repeat' first
    | with_reducible assumption
    | intro _
    | with_reducible exact keeps_refl _
    | with_reducible apply keeps_fireFma

theorem keeps_execVfmaDot {s t : State} (f : Fields) (h : execVfmaDot f s = .next t) : Keeps s t := by
  unfold execVfmaDot at h
  injection h with h
  subst h
  all_goals repeat' first
    | with_reducible assumption
    | intro _
    | with_reducible exact keeps_refl _
    | with_reducible apply keeps_fireDot

theorem keeps_execVfmaDotacc {s t : State} (f : Fields) (h : execVfmaDotacc f s = .next t) : Keeps s t := by
  unfold execVfmaDotacc at h
  injection h with h
  subst h
  all_goals repeat' first
    | with_reducible assumption
    | intro _
    | with_reducible exact keeps_refl _
    | with_reducible apply keeps_fireDot

theorem keeps_execVfarithFadd {s t : State} (f : Fields) (h : execVfarithFadd f s = .next t) : Keeps s t := by
  unfold execVfarithFadd at h
  injection h with h
  subst h
  all_goals repeat' first
    | with_reducible assumption
    | intro _
    | with_reducible exact keeps_refl _
    | with_reducible apply keeps_fireFarith

theorem keeps_execVfarithFsub {s t : State} (f : Fields) (h : execVfarithFsub f s = .next t) : Keeps s t := by
  unfold execVfarithFsub at h
  injection h with h
  subst h
  all_goals repeat' first
    | with_reducible assumption
    | intro _
    | with_reducible exact keeps_refl _
    | with_reducible apply keeps_fireFarith

theorem keeps_execVfarithFmul {s t : State} (f : Fields) (h : execVfarithFmul f s = .next t) : Keeps s t := by
  unfold execVfarithFmul at h
  injection h with h
  subst h
  all_goals repeat' first
    | with_reducible assumption
    | intro _
    | with_reducible exact keeps_refl _
    | with_reducible apply keeps_fireFarith

theorem keeps_execVfarithFdiv {s t : State} (f : Fields) (h : execVfarithFdiv f s = .next t) : Keeps s t := by
  unfold execVfarithFdiv at h
  injection h with h
  subst h
  all_goals repeat' first
    | with_reducible assumption
    | intro _
    | with_reducible exact keeps_refl _
    | with_reducible apply keeps_fireFarith

theorem keeps_execVfarithFmin {s t : State} (f : Fields) (h : execVfarithFmin f s = .next t) : Keeps s t := by
  unfold execVfarithFmin at h
  injection h with h
  subst h
  all_goals repeat' first
    | with_reducible assumption
    | intro _
    | with_reducible exact keeps_refl _
    | with_reducible apply keeps_fireFarith

theorem keeps_execVfarithFmax {s t : State} (f : Fields) (h : execVfarithFmax f s = .next t) : Keeps s t := by
  unfold execVfarithFmax at h
  injection h with h
  subst h
  all_goals repeat' first
    | with_reducible assumption
    | intro _
    | with_reducible exact keeps_refl _
    | with_reducible apply keeps_fireFarith

theorem keeps_execVfarithFabs {s t : State} (f : Fields) (h : execVfarithFabs f s = .next t) : Keeps s t := by
  unfold execVfarithFabs at h
  injection h with h
  subst h
  all_goals repeat' first
    | with_reducible assumption
    | intro _
    | with_reducible exact keeps_refl _
    | with_reducible apply keeps_fireFarith1

theorem keeps_execVfarithFneg {s t : State} (f : Fields) (h : execVfarithFneg f s = .next t) : Keeps s t := by
  unfold execVfarithFneg at h
  injection h with h
  subst h
  all_goals repeat' first
    | with_reducible assumption
    | intro _
    | with_reducible exact keeps_refl _
    | with_reducible apply keeps_fireFarith1

theorem keeps_execVfarithFsqrt {s t : State} (f : Fields) (h : execVfarithFsqrt f s = .next t) : Keeps s t := by
  unfold execVfarithFsqrt at h
  injection h with h
  subst h
  all_goals repeat' first
    | with_reducible assumption
    | intro _
    | with_reducible exact keeps_refl _
    | with_reducible apply keeps_fireFarith1

theorem keeps_execVfarithFclass {s t : State} (f : Fields) (h : execVfarithFclass f s = .next t) : Keeps s t := by
  unfold execVfarithFclass at h
  injection h with h
  subst h
  all_goals repeat' first
    | with_reducible assumption
    | intro _
    | with_reducible exact keeps_refl _
    | with_reducible apply keeps_fireFarith1

theorem keeps_execVfarithFeq {s t : State} (f : Fields) (h : execVfarithFeq f s = .next t) : Keeps s t := by
  unfold execVfarithFeq at h
  injection h with h
  subst h
  all_goals repeat' first
    | with_reducible assumption
    | intro _
    | with_reducible exact keeps_refl _
    | with_reducible apply keeps_fireFarith

theorem keeps_execVfarithFlt {s t : State} (f : Fields) (h : execVfarithFlt f s = .next t) : Keeps s t := by
  unfold execVfarithFlt at h
  injection h with h
  subst h
  all_goals repeat' first
    | with_reducible assumption
    | intro _
    | with_reducible exact keeps_refl _
    | with_reducible apply keeps_fireFarith

theorem keeps_execVfarithFle {s t : State} (f : Fields) (h : execVfarithFle f s = .next t) : Keeps s t := by
  unfold execVfarithFle at h
  injection h with h
  subst h
  all_goals repeat' first
    | with_reducible assumption
    | intro _
    | with_reducible exact keeps_refl _
    | with_reducible apply keeps_fireFarith

theorem keeps_execVcvtCvt {s t : State} (f : Fields) (h : execVcvtCvt f s = .next t) : Keeps s t := by
  unfold execVcvtCvt at h
  injection h with h
  subst h
  all_goals repeat' first
    | with_reducible assumption
    | intro _
    | with_reducible exact keeps_refl _
    | with_reducible apply keeps_fireValue

theorem keeps_execVcvtFtoi {s t : State} (f : Fields) (h : execVcvtFtoi f s = .next t) : Keeps s t := by
  unfold execVcvtFtoi at h
  injection h with h
  subst h
  all_goals repeat' first
    | with_reducible assumption
    | intro _
    | with_reducible exact keeps_refl _
    | with_reducible apply keeps_fireValue

theorem keeps_execVcvtItof {s t : State} (f : Fields) (h : execVcvtItof f s = .next t) : Keeps s t := by
  unfold execVcvtItof at h
  injection h with h
  subst h
  all_goals repeat' first
    | with_reducible assumption
    | intro _
    | with_reducible exact keeps_refl _
    | with_reducible apply keeps_fireValue

theorem keeps_execVcvtCvtmx {s t : State} (f : Fields) (h : execVcvtCvtmx f s = .next t) : Keeps s t := by
  unfold execVcvtCvtmx at h
  injection h with h
  subst h
  all_goals repeat' first
    | with_reducible assumption
    | intro _
    | with_reducible exact keeps_refl _
    | with_reducible apply keeps_fireValue

theorem keeps_execVcvtUnmx {s t : State} (f : Fields) (h : execVcvtUnmx f s = .next t) : Keeps s t := by
  unfold execVcvtUnmx at h
  injection h with h
  subst h
  all_goals repeat' first
    | with_reducible assumption
    | intro _
    | with_reducible exact keeps_refl _
    | with_reducible apply keeps_fireValue

theorem keeps_execVcvtSketch {s t : State} (f : Fields) (h : execVcvtSketch f s = .next t) : Keeps s t := by
  unfold execVcvtSketch at h
  injection h with h
  subst h
  all_goals repeat' first
    | with_reducible assumption
    | intro _
    | with_reducible exact keeps_refl _
    | with_reducible apply keeps_fireValue

theorem keeps_execVspecialExp2 {s t : State} (f : Fields) (h : execVspecialExp2 f s = .next t) : Keeps s t := by
  unfold execVspecialExp2 at h
  injection h with h
  subst h
  all_goals repeat' first
    | with_reducible assumption
    | intro _
    | with_reducible exact keeps_refl _
    | with_reducible apply keeps_fireSpecial

theorem keeps_execVspecialLog2 {s t : State} (f : Fields) (h : execVspecialLog2 f s = .next t) : Keeps s t := by
  unfold execVspecialLog2 at h
  injection h with h
  subst h
  all_goals repeat' first
    | with_reducible assumption
    | intro _
    | with_reducible exact keeps_refl _
    | with_reducible apply keeps_fireSpecial

theorem keeps_execVspecialRcp {s t : State} (f : Fields) (h : execVspecialRcp f s = .next t) : Keeps s t := by
  unfold execVspecialRcp at h
  injection h with h
  subst h
  all_goals repeat' first
    | with_reducible assumption
    | intro _
    | with_reducible exact keeps_refl _
    | with_reducible apply keeps_fireSpecial

theorem keeps_execVspecialRsqrt {s t : State} (f : Fields) (h : execVspecialRsqrt f s = .next t) : Keeps s t := by
  unfold execVspecialRsqrt at h
  injection h with h
  subst h
  all_goals repeat' first
    | with_reducible assumption
    | intro _
    | with_reducible exact keeps_refl _
    | with_reducible apply keeps_fireSpecial

theorem keeps_execVspecialTanh {s t : State} (f : Fields) (h : execVspecialTanh f s = .next t) : Keeps s t := by
  unfold execVspecialTanh at h
  injection h with h
  subst h
  all_goals repeat' first
    | with_reducible assumption
    | intro _
    | with_reducible exact keeps_refl _
    | with_reducible apply keeps_fireSpecial

theorem keeps_execVspecialSigm {s t : State} (f : Fields) (h : execVspecialSigm f s = .next t) : Keeps s t := by
  unfold execVspecialSigm at h
  injection h with h
  subst h
  all_goals repeat' first
    | with_reducible assumption
    | intro _
    | with_reducible exact keeps_refl _
    | with_reducible apply keeps_fireSpecial

theorem keeps_execVredRsum {s t : State} (f : Fields) (h : execVredRsum f s = .next t) : Keeps s t := by
  unfold execVredRsum at h
  injection h with h
  subst h
  all_goals repeat' first
    | with_reducible assumption
    | intro _
    | with_reducible exact keeps_refl _
    | with_reducible apply keeps_fireRed

theorem keeps_execVredRmax {s t : State} (f : Fields) (h : execVredRmax f s = .next t) : Keeps s t := by
  unfold execVredRmax at h
  injection h with h
  subst h
  all_goals repeat' first
    | with_reducible assumption
    | intro _
    | with_reducible exact keeps_refl _
    | with_reducible apply keeps_fireRed

theorem keeps_execVredRmin {s t : State} (f : Fields) (h : execVredRmin f s = .next t) : Keeps s t := by
  unfold execVredRmin at h
  injection h with h
  subst h
  all_goals repeat' first
    | with_reducible assumption
    | intro _
    | with_reducible exact keeps_refl _
    | with_reducible apply keeps_fireRed

theorem keeps_execVredRsumsq {s t : State} (f : Fields) (h : execVredRsumsq f s = .next t) : Keeps s t := by
  unfold execVredRsumsq at h
  injection h with h
  subst h
  all_goals repeat' first
    | with_reducible assumption
    | intro _
    | with_reducible exact keeps_refl _
    | with_reducible apply keeps_fireRed

theorem keeps_execVpermBcast {s t : State} (f : Fields) (h : execVpermBcast f s = .next t) : Keeps s t := by
  unfold execVpermBcast at h
  injection h with h
  subst h
  all_goals repeat' first
    | with_reducible assumption
    | intro _
    | with_reducible exact keeps_refl _
    | with_reducible apply keeps_firePerm

theorem keeps_execVpermShuf {s t : State} (f : Fields) (h : execVpermShuf f s = .next t) : Keeps s t := by
  unfold execVpermShuf at h
  injection h with h
  subst h
  all_goals repeat' first
    | with_reducible assumption
    | intro _
    | with_reducible exact keeps_refl _
    | with_reducible apply keeps_firePerm

theorem keeps_execVpermSlide {s t : State} (f : Fields) (h : execVpermSlide f s = .next t) : Keeps s t := by
  unfold execVpermSlide at h
  injection h with h
  subst h
  all_goals repeat' first
    | with_reducible assumption
    | intro _
    | with_reducible exact keeps_refl _
    | with_reducible apply keeps_firePerm

theorem keeps_execVpermZip {s t : State} (f : Fields) (h : execVpermZip f s = .next t) : Keeps s t := by
  unfold execVpermZip at h
  injection h with h
  subst h
  all_goals repeat' first
    | with_reducible assumption
    | intro _
    | with_reducible exact keeps_refl _
    | with_reducible apply keeps_firePerm

theorem keeps_execVpermUnzip {s t : State} (f : Fields) (h : execVpermUnzip f s = .next t) : Keeps s t := by
  unfold execVpermUnzip at h
  injection h with h
  subst h
  all_goals repeat' first
    | with_reducible assumption
    | intro _
    | with_reducible exact keeps_refl _
    | with_reducible apply keeps_firePerm

theorem keeps_execAspaceInval {s t : State} (f : Fields) (h : execAspaceInval f s = .next t) : Keeps s t := by
  unfold execAspaceInval at h
  injection h with h
  subst h
  all_goals repeat' first
    | with_reducible assumption
    | intro _
    | with_reducible exact keeps_refl _
    | with_reducible apply keeps_aspaceDrain
    | with_reducible apply keeps_fireAspace

theorem keeps_execAspacePgattr {s t : State} (f : Fields) (h : execAspacePgattr f s = .next t) : Keeps s t := by
  unfold execAspacePgattr at h
  injection h with h
  subst h
  all_goals try dsimp only [State.fresh]
  all_goals repeat' first
    | with_reducible assumption
    | intro _
    | with_reducible exact keeps_refl _
    | with_reducible apply keeps_aspaceDrain
    | with_reducible apply keeps_emitStatus
    | with_reducible apply keeps_fireAspace
    | with_reducible apply keeps_foldl
    | with_reducible apply keeps_ite
    | with_reducible apply keeps_getD
    | with_reducible apply keeps_wf
    | split

theorem keeps_execAspaceLpin {s t : State} (f : Fields) (h : execAspaceLpin f s = .next t) : Keeps s t := by
  unfold execAspaceLpin at h
  injection h with h
  subst h
  all_goals try dsimp only [State.fresh]
  all_goals repeat' first
    | with_reducible assumption
    | intro _
    | with_reducible exact keeps_refl _
    | with_reducible apply keeps_emitStatus
    | with_reducible apply keeps_pinRange
    | with_reducible apply keeps_unpinRange
    | with_reducible apply keeps_fireAspace
    | with_reducible apply keeps_foldl
    | with_reducible apply keeps_ite
    | with_reducible apply keeps_getD
    | refine keeps_of_snd ?_ (by with_reducible assumption)
    | with_reducible apply keeps_wf
    | split

theorem keeps_execAspaceLquery {s t : State} (f : Fields) (h : execAspaceLquery f s = .next t) : Keeps s t := by
  unfold execAspaceLquery at h
  injection h with h
  subst h
  all_goals repeat' first
    | with_reducible assumption
    | intro _
    | with_reducible exact keeps_refl _
    | with_reducible apply keeps_consume
    | with_reducible apply keeps_emitBoth
    | with_reducible apply keeps_fireAspace

theorem keeps_execTokenArrival {s t : State}  (h : execTokenArrival s = .next t) : Keeps s t := by
  unfold execTokenArrival at h
  split at h <;> injection h with h <;> subst h
  all_goals repeat' first
    | with_reducible assumption
    | intro _
    | with_reducible exact keeps_refl _
    | with_reducible apply keeps_arrive

theorem keeps_execSpillProbeDone {s t : State}  (h : execSpillProbeDone s = .next t) : Keeps s t := by
  unfold execSpillProbeDone at h
  split at h <;> injection h with h <;> subst h
  all_goals repeat' first
    | with_reducible assumption
    | intro _
    | with_reducible exact keeps_refl _
    | with_reducible apply keeps_probeStep

theorem keeps_execSpillRefill {s t : State}  (h : execSpillRefill s = .next t) : Keeps s t := by
  unfold execSpillRefill at h
  split at h <;> injection h with h <;> subst h
  all_goals repeat' first
    | with_reducible assumption
    | intro _
    | with_reducible exact keeps_refl _
    | with_reducible apply keeps_refillStep

theorem keeps_execInstanceAdmit {s t : State}  (h : execInstanceAdmit s = .next t) : Keeps s t := by
  unfold execInstanceAdmit at h
  split at h <;> injection h with h <;> subst h
  all_goals repeat' first
    | with_reducible assumption
    | intro _
    | with_reducible exact keeps_refl _
    | with_reducible apply keeps_admitAll

theorem keeps_execSchedulerDecision {s t : State}  (h : execSchedulerDecision s = .next t) : Keeps s t := by
  unfold execSchedulerDecision at h
  split at h <;> injection h with h <;> subst h
  all_goals repeat' first
    | with_reducible assumption
    | intro _
    | with_reducible exact keeps_refl _
    | with_reducible apply keeps_scheduleStep

theorem keeps_execBlockLoadDone {s t : State}  (h : execBlockLoadDone s = .next t) : Keeps s t := by
  unfold execBlockLoadDone at h
  split at h <;> injection h with h <;> subst h
  all_goals repeat' first
    | with_reducible assumption
    | intro _
    | with_reducible exact keeps_refl _
    | with_reducible apply keeps_loadStep

theorem keeps_execRmtRld {s t : State} (f : Fields) (h : execRmtRld f s = .next t) : Keeps s t := by
  unfold execRmtRld at h
  injection h with h
  subst h
  all_goals try dsimp only [State.fresh]
  all_goals repeat' first
    | with_reducible assumption
    | intro _
    | with_reducible exact keeps_refl _
    | with_reducible apply keeps_consume
    | with_reducible apply keeps_emitBoth
    | with_reducible apply keeps_leaseFault
    | with_reducible apply keeps_startSlot
    | with_reducible apply keeps_fireRmt
    | with_reducible apply keeps_foldl
    | with_reducible apply keeps_ite
    | with_reducible apply keeps_getD
    | with_reducible apply keeps_wf
    | split

theorem keeps_execRmtRst {s t : State} (f : Fields) (h : execRmtRst f s = .next t) : Keeps s t := by
  unfold execRmtRst at h
  injection h with h
  subst h
  all_goals try dsimp only [State.fresh]
  all_goals repeat' first
    | with_reducible assumption
    | intro _
    | with_reducible exact keeps_refl _
    | with_reducible apply keeps_consume
    | with_reducible apply keeps_emitBoth
    | with_reducible apply keeps_hold
    | with_reducible apply keeps_leaseFault
    | with_reducible apply keeps_fireRmt
    | with_reducible apply keeps_foldl
    | with_reducible apply keeps_ite
    | with_reducible apply keeps_getD
    | with_reducible apply keeps_wf
    | split

theorem keeps_execRmtRadd {s t : State} (f : Fields) (h : execRmtRadd f s = .next t) : Keeps s t := by
  unfold execRmtRadd at h
  injection h with h
  subst h
  all_goals repeat' first
    | with_reducible assumption
    | intro _
    | with_reducible exact keeps_refl _
    | with_reducible apply keeps_fireRmtAtom

theorem keeps_execRmtRcas {s t : State} (f : Fields) (h : execRmtRcas f s = .next t) : Keeps s t := by
  unfold execRmtRcas at h
  injection h with h
  subst h
  all_goals repeat' first
    | with_reducible assumption
    | intro _
    | with_reducible exact keeps_refl _
    | with_reducible apply keeps_fireRmtAtom

theorem keeps_execRmtRxchg {s t : State} (f : Fields) (h : execRmtRxchg f s = .next t) : Keeps s t := by
  unfold execRmtRxchg at h
  injection h with h
  subst h
  all_goals repeat' first
    | with_reducible assumption
    | intro _
    | with_reducible exact keeps_refl _
    | with_reducible apply keeps_fireRmtAtom

theorem keeps_execRmtRpf {s t : State} (f : Fields) (h : execRmtRpf f s = .next t) : Keeps s t := by
  unfold execRmtRpf at h
  injection h with h
  subst h
  all_goals try dsimp only [State.fresh]
  all_goals repeat' first
    | with_reducible assumption
    | intro _
    | with_reducible exact keeps_refl _
    | with_reducible apply keeps_consume
    | with_reducible apply keeps_emitBoth
    | with_reducible apply keeps_emitPkt
    | with_reducible apply keeps_leaseFault
    | with_reducible apply keeps_fireRmt
    | with_reducible apply keeps_foldl
    | with_reducible apply keeps_ite
    | with_reducible apply keeps_getD
    | with_reducible apply keeps_wf
    | split

theorem keeps_execRrelRelopen {s t : State} (f : Fields) (h : execRrelRelopen f s = .next t) : Keeps s t := by
  unfold execRrelRelopen at h
  injection h with h
  subst h
  all_goals try dsimp only [State.fresh]
  all_goals repeat' first
    | with_reducible assumption
    | intro _
    | with_reducible exact keeps_refl _
    | with_reducible apply keeps_consume
    | with_reducible apply keeps_done
    | with_reducible apply keeps_emitBoth
    | with_reducible apply keeps_fire
    | with_reducible apply keeps_relHold
    | with_reducible apply keeps_remoteSync
    | with_reducible apply keeps_wait
    | with_reducible apply keeps_foldl
    | with_reducible apply keeps_ite
    | with_reducible apply keeps_getD
    | refine keeps_relopenTest _ _ _ _ ?_ (by with_reducible assumption)
    | with_reducible apply keeps_wf
    | split

theorem keeps_execRrelRelflag {s t : State} (f : Fields) (h : execRrelRelflag f s = .next t) : Keeps s t := by
  unfold execRrelRelflag at h
  injection h with h
  subst h
  all_goals try dsimp only [State.fresh]
  all_goals repeat' first
    | with_reducible assumption
    | intro _
    | with_reducible exact keeps_refl _
    | with_reducible apply keeps_fire
    | with_reducible apply keeps_issueRelflag
    | with_reducible apply keeps_relflagBad
    | with_reducible apply keeps_foldl
    | with_reducible apply keeps_ite
    | with_reducible apply keeps_getD
    | refine keeps_of_some ?_ (by with_reducible assumption)
    | with_reducible apply keeps_wf
    | split

theorem keeps_execRrelRelwait {s t : State} (f : Fields) (h : execRrelRelwait f s = .next t) : Keeps s t := by
  unfold execRrelRelwait at h
  injection h with h
  subst h
  all_goals try dsimp only [State.fresh]
  all_goals repeat' first
    | with_reducible assumption
    | intro _
    | with_reducible exact keeps_refl _
    | with_reducible apply keeps_consume
    | with_reducible apply keeps_done
    | with_reducible apply keeps_emitAll
    | with_reducible apply keeps_fireAcquiring
    | with_reducible apply keeps_relHold
    | with_reducible apply keeps_remoteSync
    | with_reducible apply keeps_wait
    | with_reducible apply keeps_foldl
    | with_reducible apply keeps_ite
    | with_reducible apply keeps_getD
    | refine keeps_relwaitTest _ _ _ _ _ ?_ (by with_reducible assumption)
    | with_reducible apply keeps_wf
    | split

theorem keeps_execRrelRelabort {s t : State} (f : Fields) (h : execRrelRelabort f s = .next t) : Keeps s t := by
  unfold execRrelRelabort at h
  injection h with h
  subst h
  all_goals try dsimp only [State.fresh]
  all_goals repeat' first
    | with_reducible assumption
    | intro _
    | with_reducible exact keeps_refl _
    | with_reducible apply keeps_abortSend
    | with_reducible apply keeps_consume
    | with_reducible apply keeps_emitBoth
    | with_reducible apply keeps_fire
    | with_reducible apply keeps_relWake
    | with_reducible apply keeps_foldl

theorem keeps_execReleaseWriteArrival {s t : State}  (h : execReleaseWriteArrival s = .next t) : Keeps s t := by
  unfold execReleaseWriteArrival at h
  split at h <;> injection h with h <;> subst h
  all_goals repeat' first
    | with_reducible assumption
    | intro _
    | with_reducible exact keeps_refl _
    | with_reducible apply keeps_releaseWriteStep

theorem keeps_execReleaseFlagArrival {s t : State}  (h : execReleaseFlagArrival s = .next t) : Keeps s t := by
  unfold execReleaseFlagArrival at h
  split at h <;> injection h with h <;> subst h
  all_goals repeat' first
    | with_reducible assumption
    | intro _
    | with_reducible exact keeps_refl _
    | with_reducible apply keeps_releaseFlagStep

theorem keeps_execReleaseCompleteArrival {s t : State}  (h : execReleaseCompleteArrival s = .next t) : Keeps s t := by
  unfold execReleaseCompleteArrival at h
  split at h <;> injection h with h <;> subst h
  all_goals repeat' first
    | with_reducible assumption
    | intro _
    | with_reducible exact keeps_refl _
    | with_reducible apply keeps_completeStep

theorem keeps_execGapReportArrival {s t : State}  (h : execGapReportArrival s = .next t) : Keeps s t := by
  unfold execGapReportArrival at h
  split at h <;> injection h with h <;> subst h
  all_goals repeat' first
    | with_reducible assumption
    | intro _
    | with_reducible exact keeps_refl _
    | with_reducible apply keeps_gapReportStep

theorem keeps_execGroupAbortArrival {s t : State}  (h : execGroupAbortArrival s = .next t) : Keeps s t := by
  unfold execGroupAbortArrival at h
  split at h <;> injection h with h <;> subst h
  all_goals repeat' first
    | with_reducible assumption
    | intro _
    | with_reducible exact keeps_refl _
    | with_reducible apply keeps_abortStep

theorem keeps_execFlagResendTimer {s t : State}  (h : execFlagResendTimer s = .next t) : Keeps s t := by
  unfold execFlagResendTimer at h
  split at h <;> injection h with h <;> subst h
  all_goals repeat' first
    | with_reducible assumption
    | intro _
    | with_reducible exact keeps_refl _
    | with_reducible apply keeps_flagTimer

theorem keeps_execAbortResendTimer {s t : State}  (h : execAbortResendTimer s = .next t) : Keeps s t := by
  unfold execAbortResendTimer at h
  split at h <;> injection h with h <;> subst h
  all_goals repeat' first
    | with_reducible assumption
    | intro _
    | with_reducible exact keeps_refl _
    | with_reducible apply keeps_abortTimer

theorem keeps_execGapTimer {s t : State}  (h : execGapTimer s = .next t) : Keeps s t := by
  unfold execGapTimer at h
  split at h <;> injection h with h <;> subst h
  all_goals repeat' first
    | with_reducible assumption
    | intro _
    | with_reducible exact keeps_refl _
    | with_reducible apply keeps_gapStep

theorem keeps_execReceiveEntryExpiry {s t : State}  (h : execReceiveEntryExpiry s = .next t) : Keeps s t := by
  unfold execReceiveEntryExpiry at h
  split at h <;> injection h with h <;> subst h
  all_goals repeat' first
    | with_reducible assumption
    | intro _
    | with_reducible exact keeps_refl _
    | with_reducible apply keeps_expireRecv

theorem keeps_execRelopenSpacingExpiry {s t : State}  (h : execRelopenSpacingExpiry s = .next t) : Keeps s t := by
  unfold execRelopenSpacingExpiry at h
  split at h <;> injection h with h <;> subst h
  all_goals repeat' first
    | with_reducible assumption
    | intro _
    | with_reducible exact keeps_refl _
    | with_reducible apply keeps_relCheck

theorem keeps_execReplyDelivery {s t : State}  (h : execReplyDelivery s = .next t) : Keeps s t := by
  unfold execReplyDelivery at h
  split at h <;> injection h with h <;> subst h
  all_goals repeat' first
    | with_reducible assumption
    | intro _
    | with_reducible exact keeps_refl _
    | with_reducible apply keeps_joinReply
    | with_reducible apply keeps_replyStep
    | with_reducible apply keeps_sendDone
    | with_reducible apply keeps_foldl
    | with_reducible apply keeps_ite
    | with_reducible apply keeps_getD
    | with_reducible apply keeps_wf
    | split

theorem keeps_execQtailWrite {s t : State}  (h : execQtailWrite s = .next t) : Keeps s t := by
  unfold execQtailWrite at h
  split at h <;> injection h with h <;> subst h
  all_goals repeat' first
    | with_reducible assumption
    | intro _
    | with_reducible exact keeps_refl _
    | with_reducible apply keeps_tailWrite

theorem keeps_execQueueDecision {s t : State}  (h : execQueueDecision s = .next t) : Keeps s t := by
  unfold execQueueDecision at h
  split at h <;> injection h with h <;> subst h
  all_goals repeat' first
    | with_reducible assumption
    | intro _
    | with_reducible exact keeps_refl _
    | with_reducible apply keeps_queueStep

theorem keeps_execQueueWaiterAnswer {s t : State}  (h : execQueueWaiterAnswer s = .next t) : Keeps s t := by
  unfold execQueueWaiterAnswer at h
  split at h <;> injection h with h <;> subst h
  all_goals repeat' first
    | with_reducible assumption
    | intro _
    | with_reducible exact keeps_refl _
    | with_reducible apply keeps_due
    | with_reducible apply keeps_modQueue

theorem keeps_execLaunchRecordCheck {s t : State}  (h : execLaunchRecordCheck s = .next t) : Keeps s t := by
  unfold execLaunchRecordCheck at h
  split at h <;> injection h with h <;> subst h
  all_goals repeat' first
    | with_reducible assumption
    | intro _
    | with_reducible exact keeps_refl _
    | with_reducible apply keeps_checkStep

theorem keeps_execLeaseResidencyCheck {s t : State}  (h : execLeaseResidencyCheck s = .next t) : Keeps s t := by
  unfold execLeaseResidencyCheck at h
  split at h <;> injection h with h <;> subst h
  all_goals repeat' first
    | with_reducible assumption
    | intro _
    | with_reducible exact keeps_refl _
    | with_reducible apply keeps_residencyStep

theorem keeps_execReswaitTimeout {s t : State}  (h : execReswaitTimeout s = .next t) : Keeps s t := by
  unfold execReswaitTimeout at h
  split at h <;> injection h with h <;> subst h
  all_goals repeat' first
    | with_reducible assumption
    | intro _
    | with_reducible exact keeps_refl _
    | with_reducible apply keeps_failResidency

theorem keeps_execRegionConfigured {s t : State}  (h : execRegionConfigured s = .next t) : Keeps s t := by
  unfold execRegionConfigured at h
  split at h <;> injection h with h <;> subst h
  all_goals repeat' first
    | with_reducible assumption
    | intro _
    | with_reducible exact keeps_refl _
    | with_reducible apply keeps_configureStep

theorem keeps_execHeldLaunchConfigure {s t : State}  (h : execHeldLaunchConfigure s = .next t) : Keeps s t := by
  unfold execHeldLaunchConfigure at h
  split at h <;> injection h with h <;> subst h
  all_goals repeat' first
    | with_reducible assumption
    | intro _
    | with_reducible exact keeps_refl _
    | with_reducible apply keeps_configureStep

theorem keeps_execQuiescenceWave {s t : State}  (h : execQuiescenceWave s = .next t) : Keeps s t := by
  unfold execQuiescenceWave at h
  split at h <;> injection h with h <;> subst h
  all_goals repeat' first
    | with_reducible assumption
    | intro _
    | with_reducible exact keeps_refl _
    | with_reducible apply keeps_waveStep

theorem keeps_execPhaseSum {s t : State}  (h : execPhaseSum s = .next t) : Keeps s t := by
  unfold execPhaseSum at h
  split at h <;> injection h with h <;> subst h
  all_goals repeat' first
    | with_reducible assumption
    | intro _
    | with_reducible exact keeps_refl _
    | with_reducible apply keeps_phaseStep

theorem keeps_execIslandCommandEntry {s t : State}  (h : execIslandCommandEntry s = .next t) : Keeps s t := by
  unfold execIslandCommandEntry at h
  split at h <;> injection h with h <;> subst h
  all_goals repeat' first
    | with_reducible assumption
    | intro _
    | with_reducible exact keeps_refl _
    | with_reducible apply keeps_islandStep

theorem keeps_execRowUpdateLand {s t : State}  (h : execRowUpdateLand s = .next t) : Keeps s t := by
  unfold execRowUpdateLand at h
  split at h <;> injection h with h <;> subst h
  all_goals repeat' first
    | with_reducible assumption
    | intro _
    | with_reducible exact keeps_refl _
    | with_reducible apply keeps_due
    | with_reducible apply keeps_landOne
    | with_reducible apply keeps_foldl
    | with_reducible apply keeps_ite

theorem keeps_execReleaseTokenOut {s t : State}  (h : execReleaseTokenOut s = .next t) : Keeps s t := by
  unfold execReleaseTokenOut at h
  split at h
  on_goal 1 => split at h
  all_goals injection h with h
  all_goals subst h
  all_goals try dsimp only [State.fresh]
  all_goals repeat' first
    | with_reducible assumption
    | intro _
    | with_reducible exact keeps_refl _
    | with_reducible apply keeps_cmdDone
    | with_reducible apply keeps_due
    | with_reducible apply keeps_modIsland
    | with_reducible apply keeps_returnTok
    | with_reducible apply keeps_foldl
    | with_reducible apply keeps_ite

theorem keeps_execRampWindow {s t : State}  (h : execRampWindow s = .next t) : Keeps s t := by
  unfold execRampWindow at h
  split at h <;> injection h with h <;> subst h
  all_goals repeat' first
    | with_reducible assumption
    | intro _
    | with_reducible exact keeps_refl _
    | with_reducible apply keeps_due
    | with_reducible apply keeps_modDie
    | with_reducible apply keeps_modIsland
    | with_reducible apply keeps_foldl
    | with_reducible apply keeps_ite

theorem keeps_execForecastUpdate {s t : State}  (h : execForecastUpdate s = .next t) : Keeps s t := by
  unfold execForecastUpdate at h
  split at h <;> injection h with h <;> subst h
  all_goals try dsimp only [State.fresh]
  all_goals repeat' first
    | with_reducible assumption
    | intro _
    | with_reducible exact keeps_refl _
    | with_reducible apply keeps_due
    | with_reducible apply keeps_modDie

theorem keeps_execMmaMldb {s t : State} (f : Fields) (h : execMmaMldb f s = .next t) : Keeps s t := by
  unfold execMmaMldb at h
  injection h with h
  subst h
  all_goals repeat' first
    | with_reducible assumption
    | intro _
    | with_reducible exact keeps_refl _
    | with_reducible apply keeps_fireLoadB

theorem keeps_execMsparseMsldb {s t : State} (f : Fields) (h : execMsparseMsldb f s = .next t) : Keeps s t := by
  unfold execMsparseMsldb at h
  injection h with h
  subst h
  all_goals repeat' first
    | with_reducible assumption
    | intro _
    | with_reducible exact keeps_refl _
    | with_reducible apply keeps_fireLoadB

theorem keeps_execMsparseMsmeta {s t : State} (f : Fields) (h : execMsparseMsmeta f s = .next t) : Keeps s t := by
  unfold execMsparseMsmeta at h
  injection h with h
  subst h
  all_goals try dsimp only [State.fresh]
  all_goals repeat' first
    | with_reducible assumption
    | intro _
    | with_reducible exact keeps_refl _
    | with_reducible apply keeps_sendLoad
    | with_reducible apply keeps_fireIsland

theorem keeps_execMmaMrow {s t : State} (f : Fields) (h : execMmaMrow f s = .next t) : Keeps s t := by
  unfold execMmaMrow at h
  injection h with h
  subst h
  all_goals repeat' first
    | with_reducible assumption
    | intro _
    | with_reducible exact keeps_refl _
    | with_reducible apply keeps_sendRows
    | with_reducible apply keeps_fireIsland

theorem keeps_execMsparseMsrow {s t : State} (f : Fields) (h : execMsparseMsrow f s = .next t) : Keeps s t := by
  unfold execMsparseMsrow at h
  injection h with h
  subst h
  all_goals repeat' first
    | with_reducible assumption
    | intro _
    | with_reducible exact keeps_refl _
    | with_reducible apply keeps_sendRows
    | with_reducible apply keeps_fireIsland

theorem keeps_execMmaMgat {s t : State} (f : Fields) (h : execMmaMgat f s = .next t) : Keeps s t := by
  unfold execMmaMgat at h
  injection h with h
  subst h
  all_goals try dsimp only [State.fresh]
  all_goals repeat' first
    | with_reducible assumption
    | intro _
    | with_reducible exact keeps_refl _
    | with_reducible apply keeps_islFault
    | with_reducible apply keeps_sendRows
    | with_reducible apply keeps_fireIsland
    | with_reducible apply keeps_foldl
    | with_reducible apply keeps_ite

theorem keeps_execMmaMscale {s t : State} (f : Fields) (h : execMmaMscale f s = .next t) : Keeps s t := by
  unfold execMmaMscale at h
  injection h with h
  subst h
  all_goals try dsimp only [State.fresh]
  all_goals repeat' first
    | with_reducible assumption
    | intro _
    | with_reducible exact keeps_refl _
    | with_reducible apply keeps_islFault
    | with_reducible apply keeps_sendNow
    | with_reducible apply keeps_fireIsland
    | with_reducible apply keeps_foldl
    | with_reducible apply keeps_ite

theorem keeps_execMmaMend {s t : State} (f : Fields) (h : execMmaMend f s = .next t) : Keeps s t := by
  unfold execMmaMend at h
  injection h with h
  subst h
  all_goals try dsimp only [State.fresh]
  all_goals repeat' first
    | with_reducible assumption
    | intro _
    | with_reducible exact keeps_refl _
    | with_reducible apply keeps_islFault
    | with_reducible apply keeps_sendNow
    | with_reducible apply keeps_fireIsland
    | with_reducible apply keeps_foldl
    | with_reducible apply keeps_ite

theorem keeps_execMmaMdrain {s t : State} (f : Fields) (h : execMmaMdrain f s = .next t) : Keeps s t := by
  unfold execMmaMdrain at h
  injection h with h
  subst h
  all_goals repeat' first
    | with_reducible assumption
    | intro _
    | with_reducible exact keeps_refl _
    | with_reducible apply keeps_sendNow
    | with_reducible apply keeps_fireIsland

theorem keeps_execMaccAcinit {s t : State} (f : Fields) (h : execMaccAcinit f s = .next t) : Keeps s t := by
  unfold execMaccAcinit at h
  injection h with h
  subst h
  all_goals repeat' first
    | with_reducible assumption
    | intro _
    | with_reducible exact keeps_refl _
    | with_reducible apply keeps_fireAcc

theorem keeps_execMaccAcadd {s t : State} (f : Fields) (h : execMaccAcadd f s = .next t) : Keeps s t := by
  unfold execMaccAcadd at h
  injection h with h
  subst h
  all_goals repeat' first
    | with_reducible assumption
    | intro _
    | with_reducible exact keeps_refl _
    | with_reducible apply keeps_fireAcc

theorem keeps_execMaccAcread {s t : State} (f : Fields) (h : execMaccAcread f s = .next t) : Keeps s t := by
  unfold execMaccAcread at h
  injection h with h
  subst h
  all_goals repeat' first
    | with_reducible assumption
    | intro _
    | with_reducible exact keeps_refl _
    | with_reducible apply keeps_fireAcc

theorem keeps_execMaccAcsave {s t : State} (f : Fields) (h : execMaccAcsave f s = .next t) : Keeps s t := by
  unfold execMaccAcsave at h
  injection h with h
  subst h
  all_goals repeat' first
    | with_reducible assumption
    | intro _
    | with_reducible exact keeps_refl _
    | with_reducible apply keeps_fireAcc

theorem keeps_execMaccAcload {s t : State} (f : Fields) (h : execMaccAcload f s = .next t) : Keeps s t := by
  unfold execMaccAcload at h
  injection h with h
  subst h
  all_goals repeat' first
    | with_reducible assumption
    | intro _
    | with_reducible exact keeps_refl _
    | with_reducible apply keeps_fireAcc

theorem keeps_execCurCtailWrite {s t : State}  (h : execCurCtailWrite s = .next t) : Keeps s t := by
  unfold execCurCtailWrite at h
  split at h <;> injection h with h <;> subst h
  all_goals repeat' first
    | with_reducible assumption
    | intro _
    | with_reducible exact keeps_refl _
    | with_reducible apply keeps_doorbell

theorem keeps_execCurEheadWrite {s t : State}  (h : execCurEheadWrite s = .next t) : Keeps s t := by
  unfold execCurEheadWrite at h
  split at h <;> injection h with h <;> subst h
  all_goals repeat' first
    | with_reducible assumption
    | intro _
    | with_reducible exact keeps_refl _
    | with_reducible apply keeps_eheadWrite

theorem keeps_execNetPost {s t : State} (f : Fields) (h : execNetPost f s = .next t) : Keeps s t := by
  unfold execNetPost at h
  injection h with h
  subst h
  all_goals try dsimp only [State.fresh]
  all_goals repeat' first
    | with_reducible assumption
    | intro _
    | with_reducible exact keeps_refl _
    | with_reducible apply keeps_fire
    | with_reducible apply keeps_leaseFault
    | with_reducible apply keeps_netAccept
    | with_reducible apply keeps_offerAgain
    | with_reducible apply keeps_foldl
    | with_reducible apply keeps_ite
    | with_reducible apply keeps_getD
    | with_reducible apply keeps_wf
    | split

theorem keeps_execNetWait {s t : State} (f : Fields) (h : execNetWait f s = .next t) : Keeps s t := by
  unfold execNetWait at h
  injection h with h
  subst h
  all_goals try dsimp only [State.fresh]
  all_goals repeat' first
    | with_reducible assumption
    | intro _
    | with_reducible exact keeps_refl _
    | with_reducible apply keeps_acquire
    | with_reducible apply keeps_consume
    | with_reducible apply keeps_emitAll
    | with_reducible apply keeps_fireAcquiring
    | with_reducible apply keeps_netHold
    | with_reducible apply keeps_foldl
    | with_reducible apply keeps_ite

theorem keeps_execNetNcget {s t : State} (f : Fields) (h : execNetNcget f s = .next t) : Keeps s t := by
  unfold execNetNcget at h
  injection h with h
  subst h
  all_goals repeat' first
    | with_reducible assumption
    | intro _
    | with_reducible exact keeps_refl _
    | with_reducible apply keeps_emitTimed
    | with_reducible apply keeps_fire

theorem keeps_execNetNcset {s t : State} (f : Fields) (h : execNetNcset f s = .next t) : Keeps s t := by
  unfold execNetNcset at h
  injection h with h
  subst h
  all_goals try dsimp only [State.fresh]
  all_goals repeat' first
    | with_reducible assumption
    | intro _
    | with_reducible exact keeps_refl _
    | with_reducible apply keeps_consume
    | with_reducible apply keeps_emitBoth
    | with_reducible apply keeps_fire
    | with_reducible apply keeps_netWake
    | with_reducible apply keeps_setNcnt

theorem keeps_execNetCancel {s t : State} (f : Fields) (h : execNetCancel f s = .next t) : Keeps s t := by
  unfold execNetCancel at h
  injection h with h
  subst h
  all_goals try dsimp only [State.fresh]
  all_goals repeat' first
    | with_reducible assumption
    | intro _
    | with_reducible exact keeps_refl _
    | with_reducible apply keeps_consume
    | with_reducible apply keeps_emitBoth
    | with_reducible apply keeps_fire
    | with_reducible apply keeps_netEnd
    | with_reducible apply keeps_foldl
    | with_reducible apply keeps_ite
    | with_reducible apply keeps_getD
    | with_reducible apply keeps_wf
    | split

theorem keeps_execNetNfence {s t : State} (f : Fields) (h : execNetNfence f s = .next t) : Keeps s t := by
  unfold execNetNfence at h
  injection h with h
  subst h
  all_goals try dsimp only [State.fresh]
  all_goals repeat' first
    | with_reducible assumption
    | intro _
    | with_reducible exact keeps_refl _
    | with_reducible apply keeps_consume
    | with_reducible apply keeps_emitBoth
    | with_reducible apply keeps_fire
    | with_reducible apply keeps_netHold
    | with_reducible apply keeps_foldl
    | with_reducible apply keeps_ite

theorem keeps_execNetNstat {s t : State} (f : Fields) (h : execNetNstat f s = .next t) : Keeps s t := by
  unfold execNetNstat at h
  injection h with h
  subst h
  all_goals repeat' first
    | with_reducible assumption
    | intro _
    | with_reducible exact keeps_refl _
    | with_reducible apply keeps_emitTimed
    | with_reducible apply keeps_fire

theorem keeps_execNetMessageSend {s t : State}  (h : execNetMessageSend s = .next t) : Keeps s t := by
  unfold execNetMessageSend at h
  split at h <;> injection h with h <;> subst h
  all_goals repeat' first
    | with_reducible assumption
    | intro _
    | with_reducible exact keeps_refl _
    | with_reducible apply keeps_netSendStep

theorem keeps_execNetPacketReceive {s t : State}  (h : execNetPacketReceive s = .next t) : Keeps s t := by
  unfold execNetPacketReceive at h
  split at h <;> injection h with h <;> subst h
  all_goals repeat' first
    | with_reducible assumption
    | intro _
    | with_reducible exact keeps_refl _
    | with_reducible apply keeps_netReceive

theorem keeps_execNetLocalCompletion {s t : State}  (h : execNetLocalCompletion s = .next t) : Keeps s t := by
  unfold execNetLocalCompletion at h
  split at h <;> injection h with h <;> subst h
  all_goals repeat' first
    | with_reducible assumption
    | intro _
    | with_reducible exact keeps_refl _
    | with_reducible apply keeps_netUpdate

theorem keeps_execNetTransportAbandon {s t : State}  (h : execNetTransportAbandon s = .next t) : Keeps s t := by
  unfold execNetTransportAbandon at h
  split at h <;> injection h with h <;> subst h
  all_goals repeat' first
    | with_reducible assumption
    | intro _
    | with_reducible exact keeps_refl _
    | with_reducible apply keeps_netEnd

theorem keeps_execTransportRetransmission {s t : State}  (h : execTransportRetransmission s = .next t) : Keeps s t := by
  unfold execTransportRetransmission at h
  split at h <;> injection h with h <;> subst h
  all_goals try dsimp only [State.fresh]
  all_goals repeat' first
    | with_reducible assumption
    | intro _
    | with_reducible exact keeps_refl _
    | with_reducible apply keeps_netCount
    | with_reducible apply keeps_netSend
    | with_reducible apply keeps_foldl
    | with_reducible apply keeps_ite
    | with_reducible apply keeps_getD
    | with_reducible apply keeps_wf
    | split

theorem keeps_execPacketHop {s t : State}  (h : execPacketHop s = .next t) : Keeps s t := by
  unfold execPacketHop at h
  split at h <;> injection h with h <;> subst h
  all_goals repeat' first
    | with_reducible assumption
    | intro _
    | with_reducible exact keeps_refl _
    | with_reducible apply keeps_hop

theorem keeps_execCreditReturn {s t : State}  (h : execCreditReturn s = .next t) : Keeps s t := by
  unfold execCreditReturn at h
  split at h <;> injection h with h <;> subst h
  all_goals repeat' first
    | with_reducible assumption
    | intro _
    | with_reducible exact keeps_refl _
    | with_reducible apply keeps_modLink

theorem keeps_execPacketAgeDrop {s t : State}  (h : execPacketAgeDrop s = .next t) : Keeps s t := by
  unfold execPacketAgeDrop at h
  split at h <;> injection h with h <;> subst h
  all_goals repeat' first
    | with_reducible assumption
    | intro _
    | with_reducible exact keeps_refl _
    | with_reducible apply keeps_dropPkt

theorem keeps_execRequestTimeoutResend {s t : State}  (h : execRequestTimeoutResend s = .next t) : Keeps s t := by
  unfold execRequestTimeoutResend at h
  split at h <;> injection h with h <;> subst h
  all_goals repeat' first
    | with_reducible assumption
    | intro _
    | with_reducible exact keeps_refl _
    | with_reducible apply keeps_resend

theorem keeps_execLinkRetrainRequest {s t : State}  (h : execLinkRetrainRequest s = .next t) : Keeps s t := by
  unfold execLinkRetrainRequest at h
  split at h <;> injection h with h <;> subst h
  all_goals repeat' first
    | with_reducible assumption
    | intro _
    | with_reducible exact keeps_refl _
    | with_reducible apply keeps_modLink
    | with_reducible apply keeps_retrain
    | with_reducible apply keeps_foldl
    | with_reducible apply keeps_ite

theorem keeps_execTrainingComplete {s t : State}  (h : execTrainingComplete s = .next t) : Keeps s t := by
  unfold execTrainingComplete at h
  split at h <;> injection h with h <;> subst h
  all_goals repeat' first
    | with_reducible assumption
    | intro _
    | with_reducible exact keeps_refl _
    | with_reducible apply keeps_trained

theorem keeps_execConfirmViews {s t : State}  (h : execConfirmViews s = .next t) : Keeps s t := by
  unfold execConfirmViews at h
  split at h <;> injection h with h <;> subst h
  all_goals repeat' first
    | with_reducible assumption
    | intro _
    | with_reducible exact keeps_refl _
    | with_reducible apply keeps_confirm

theorem keeps_execRetrainTimeout {s t : State}  (h : execRetrainTimeout s = .next t) : Keeps s t := by
  unfold execRetrainTimeout at h
  split at h <;> injection h with h <;> subst h
  all_goals repeat' first
    | with_reducible assumption
    | intro _
    | with_reducible exact keeps_refl _
    | with_reducible apply keeps_linkFailed
    | with_reducible apply keeps_retrain
    | with_reducible apply keeps_foldl
    | with_reducible apply keeps_ite

theorem keeps_execIncarnationNotice {s t : State}  (h : execIncarnationNotice s = .next t) : Keeps s t := by
  unfold execIncarnationNotice at h
  split at h <;> injection h with h <;> subst h
  all_goals repeat' first
    | with_reducible assumption
    | intro _
    | with_reducible exact keeps_refl _
    | with_reducible apply keeps_notice

theorem keeps_execSteerSteer {s t : State} (f : Fields) (h : execSteerSteer f s = .next t) : Keeps s t := by
  unfold execSteerSteer at h
  injection h with h
  subst h
  all_goals repeat' first
    | with_reducible assumption
    | intro _
    | with_reducible exact keeps_refl _
    | with_reducible apply keeps_fireSteer

theorem keeps_execSteerRoute {s t : State} (f : Fields) (h : execSteerRoute f s = .next t) : Keeps s t := by
  unfold execSteerRoute at h
  injection h with h
  subst h
  all_goals repeat' first
    | with_reducible assumption
    | intro _
    | with_reducible exact keeps_refl _
    | with_reducible apply keeps_fireSteer

theorem keeps_execSteerSel {s t : State} (f : Fields) (h : execSteerSel f s = .next t) : Keeps s t := by
  unfold execSteerSel at h
  injection h with h
  subst h
  all_goals repeat' first
    | with_reducible assumption
    | intro _
    | with_reducible exact keeps_refl _
    | with_reducible apply keeps_consume
    | with_reducible apply keeps_emit2
    | with_reducible apply keeps_fire

theorem keeps_execMergeMerge {s t : State} (f : Fields) (h : execMergeMerge f s = .next t) : Keeps s t := by
  unfold execMergeMerge at h
  injection h with h
  subst h
  all_goals repeat' first
    | with_reducible assumption
    | intro _
    | with_reducible exact keeps_refl _
    | with_reducible apply keeps_consume
    | with_reducible apply keeps_emit2
    | with_reducible apply keeps_fire

theorem keeps_execMergeMergeo {s t : State} (f : Fields) (h : execMergeMergeo f s = .next t) : Keeps s t := by
  unfold execMergeMergeo at h
  injection h with h
  subst h
  all_goals try dsimp only [State.fresh]
  all_goals repeat' first
    | with_reducible assumption
    | intro _
    | with_reducible exact keeps_refl _
    | with_reducible apply keeps_consume
    | with_reducible apply keeps_emitRes
    | with_reducible apply keeps_fire

theorem keeps_execGateGate {s t : State} (f : Fields) (h : execGateGate f s = .next t) : Keeps s t := by
  unfold execGateGate at h
  injection h with h
  subst h
  all_goals repeat' first
    | with_reducible assumption
    | intro _
    | with_reducible exact keeps_refl _
    | with_reducible apply keeps_consume
    | with_reducible apply keeps_emit2
    | with_reducible apply keeps_fire

theorem keeps_execGateNullify {s t : State} (f : Fields) (h : execGateNullify f s = .next t) : Keeps s t := by
  unfold execGateNullify at h
  injection h with h
  subst h
  all_goals try dsimp only [State.fresh]
  all_goals repeat' first
    | with_reducible assumption
    | intro _
    | with_reducible exact keeps_refl _
    | with_reducible apply keeps_consume
    | with_reducible apply keeps_emitRes
    | with_reducible apply keeps_fire

theorem keeps_execGateDup {s t : State} (f : Fields) (h : execGateDup f s = .next t) : Keeps s t := by
  unfold execGateDup at h
  injection h with h
  subst h
  all_goals repeat' first
    | with_reducible assumption
    | intro _
    | with_reducible exact keeps_refl _
    | with_reducible apply keeps_consume
    | with_reducible apply keeps_emitRes
    | with_reducible apply keeps_fire

theorem keeps_execTagopGetit {s t : State} (f : Fields) (h : execTagopGetit f s = .next t) : Keeps s t := by
  unfold execTagopGetit at h
  injection h with h
  subst h
  all_goals repeat' first
    | with_reducible assumption
    | intro _
    | with_reducible exact keeps_refl _
    | with_reducible apply keeps_fireGet

theorem keeps_execTagopGetfr {s t : State} (f : Fields) (h : execTagopGetfr f s = .next t) : Keeps s t := by
  unfold execTagopGetfr at h
  injection h with h
  subst h
  all_goals repeat' first
    | with_reducible assumption
    | intro _
    | with_reducible exact keeps_refl _
    | with_reducible apply keeps_fireGet

theorem keeps_execTagopGetph {s t : State} (f : Fields) (h : execTagopGetph f s = .next t) : Keeps s t := by
  unfold execTagopGetph at h
  injection h with h
  subst h
  all_goals repeat' first
    | with_reducible assumption
    | intro _
    | with_reducible exact keeps_refl _
    | with_reducible apply keeps_fireGet

theorem keeps_execTagopSetit {s t : State} (f : Fields) (h : execTagopSetit f s = .next t) : Keeps s t := by
  unfold execTagopSetit at h
  injection h with h
  subst h
  all_goals repeat' first
    | with_reducible assumption
    | intro _
    | with_reducible exact keeps_refl _
    | with_reducible apply keeps_fireSet

theorem keeps_execTagopSetph {s t : State} (f : Fields) (h : execTagopSetph f s = .next t) : Keeps s t := by
  unfold execTagopSetph at h
  injection h with h
  subst h
  all_goals repeat' first
    | with_reducible assumption
    | intro _
    | with_reducible exact keeps_refl _
    | with_reducible apply keeps_fireSet

theorem keeps_execExitExit {s t : State} (f : Fields) (h : execExitExit f s = .next t) : Keeps s t := by
  unfold execExitExit at h
  injection h with h
  subst h
  all_goals repeat' first
    | with_reducible assumption
    | intro _
    | with_reducible exact keeps_refl _
    | with_reducible apply keeps_fireExit

theorem keeps_execExitAbort {s t : State} (f : Fields) (h : execExitAbort f s = .next t) : Keeps s t := by
  unfold execExitAbort at h
  injection h with h
  subst h
  all_goals repeat' first
    | with_reducible assumption
    | intro _
    | with_reducible exact keeps_refl _
    | with_reducible apply keeps_fireExit

theorem keeps_execStateSld {s t : State} (f : Fields) (h : execStateSld f s = .next t) : Keeps s t := by
  unfold execStateSld at h
  injection h with h
  subst h
  all_goals repeat' first
    | with_reducible assumption
    | intro _
    | with_reducible exact keeps_refl _
    | with_reducible apply keeps_fireValue

theorem keeps_execStateSst {s t : State} (f : Fields) (h : execStateSst f s = .next t) : Keeps s t := by
  unfold execStateSst at h
  injection h with h
  subst h
  all_goals repeat' first
    | with_reducible assumption
    | intro _
    | with_reducible exact keeps_refl _
    | with_reducible apply keeps_fireState

theorem keeps_execStateSacc {s t : State} (f : Fields) (h : execStateSacc f s = .next t) : Keeps s t := by
  unfold execStateSacc at h
  injection h with h
  subst h
  all_goals repeat' first
    | with_reducible assumption
    | intro _
    | with_reducible exact keeps_refl _
    | with_reducible apply keeps_fireState

theorem keeps_execStateSclr {s t : State} (f : Fields) (h : execStateSclr f s = .next t) : Keeps s t := by
  unfold execStateSclr at h
  injection h with h
  subst h
  all_goals repeat' first
    | with_reducible assumption
    | intro _
    | with_reducible exact keeps_refl _
    | with_reducible apply keeps_fireState

theorem keeps_execGramStep {s t : State} (f : Fields) (h : execGramStep f s = .next t) : Keeps s t := by
  unfold execGramStep at h
  injection h with h
  subst h
  all_goals repeat' first
    | with_reducible assumption
    | intro _
    | with_reducible exact keeps_refl _
    | with_reducible apply keeps_fireGram

theorem keeps_execGramMask {s t : State} (f : Fields) (h : execGramMask f s = .next t) : Keeps s t := by
  unfold execGramMask at h
  injection h with h
  subst h
  all_goals repeat' first
    | with_reducible assumption
    | intro _
    | with_reducible exact keeps_refl _
    | with_reducible apply keeps_fireGram

theorem keeps_execGramGstate {s t : State} (f : Fields) (h : execGramGstate f s = .next t) : Keeps s t := by
  unfold execGramGstate at h
  injection h with h
  subst h
  all_goals repeat' first
    | with_reducible assumption
    | intro _
    | with_reducible exact keeps_refl _
    | with_reducible apply keeps_fireGram

theorem keeps_execGramGset {s t : State} (f : Fields) (h : execGramGset f s = .next t) : Keeps s t := by
  unfold execGramGset at h
  injection h with h
  subst h
  all_goals repeat' first
    | with_reducible assumption
    | intro _
    | with_reducible exact keeps_refl _
    | with_reducible apply keeps_fireGram

theorem keeps_execGramGreset {s t : State} (f : Fields) (h : execGramGreset f s = .next t) : Keeps s t := by
  unfold execGramGreset at h
  injection h with h
  subst h
  all_goals repeat' first
    | with_reducible assumption
    | intro _
    | with_reducible exact keeps_refl _
    | with_reducible apply keeps_fireGram

theorem keeps_execGramRequestPerform {s t : State}  (h : execGramRequestPerform s = .next t) : Keeps s t := by
  unfold execGramRequestPerform at h
  split at h <;> injection h with h <;> subst h
  all_goals repeat' first
    | with_reducible assumption
    | intro _
    | with_reducible exact keeps_refl _
    | with_reducible apply keeps_gramTake

theorem keeps_execIntervalBoundary {s t : State}  (h : execIntervalBoundary s = .next t) : Keeps s t := by
  unfold execIntervalBoundary at h
  split at h <;> injection h with h <;> subst h
  all_goals repeat' first
    | with_reducible assumption
    | intro _
    | with_reducible exact keeps_refl _
    | with_reducible apply keeps_boundaryStep

theorem keeps_execFirstWriteCopy {s t : State}  (h : execFirstWriteCopy s = .next t) : Keeps s t := by
  unfold execFirstWriteCopy at h
  split at h <;> injection h with h <;> subst h
  all_goals repeat' first
    | with_reducible assumption
    | intro _
    | with_reducible exact keeps_refl _
    | with_reducible apply keeps_copyStep

theorem keeps_execRollback {s t : State}  (h : execRollback s = .next t) : Keeps s t := by
  unfold execRollback at h
  split at h <;> injection h with h <;> subst h
  all_goals repeat' first
    | with_reducible assumption
    | intro _
    | with_reducible exact keeps_refl _
    | with_reducible apply keeps_rollbackStep

theorem keeps_execMemoryUncorrectable {s t : State}  (h : execMemoryUncorrectable s = .next t) : Keeps s t := by
  unfold execMemoryUncorrectable at h
  split at h <;> injection h with h <;> subst h
  all_goals repeat' first
    | with_reducible assumption
    | intro _
    | with_reducible exact keeps_refl _
    | with_reducible apply keeps_errorStep

theorem keeps_execAccHeadWrite {s t : State}  (h : execAccHeadWrite s = .next t) : Keeps s t := by
  unfold execAccHeadWrite at h
  split at h <;> injection h with h <;> subst h
  all_goals repeat' first
    | with_reducible assumption
    | intro _
    | with_reducible exact keeps_refl _
    | with_reducible apply keeps_headWrite

theorem keeps_execAccTailWrite {s t : State}  (h : execAccTailWrite s = .next t) : Keeps s t := by
  unfold execAccTailWrite at h
  split at h <;> injection h with h <;> subst h
  all_goals repeat' first
    | with_reducible assumption
    | intro _
    | with_reducible exact keeps_refl _
    | with_reducible apply keeps_tailSupply

theorem keeps_execReplayTimeout {s t : State}  (h : execReplayTimeout s = .next t) : Keeps s t := by
  unfold execReplayTimeout at h
  split at h <;> injection h with h <;> subst h
  all_goals repeat' first
    | with_reducible assumption
    | intro _
    | with_reducible exact keeps_refl _
    | with_reducible apply keeps_replayLate

theorem keeps_execSpawnSpawn {s t : State} (f : Fields) (h : execSpawnSpawn f s = .next t) : Keeps s t := by
  unfold execSpawnSpawn at h
  injection h with h
  subst h
  all_goals repeat' first
    | with_reducible assumption
    | intro _
    | with_reducible exact keeps_refl _
    | with_reducible apply keeps_fireSpawn

theorem keeps_execSpawnSpawnn {s t : State} (f : Fields) (h : execSpawnSpawnn f s = .next t) : Keeps s t := by
  unfold execSpawnSpawnn at h
  injection h with h
  subst h
  all_goals repeat' first
    | with_reducible assumption
    | intro _
    | with_reducible exact keeps_refl _
    | with_reducible apply keeps_fireSpawn

theorem keeps_execSpawnSpawnr {s t : State} (f : Fields) (h : execSpawnSpawnr f s = .next t) : Keeps s t := by
  unfold execSpawnSpawnr at h
  injection h with h
  subst h
  all_goals repeat' first
    | with_reducible assumption
    | intro _
    | with_reducible exact keeps_refl _
    | with_reducible apply keeps_fireSpawn

theorem keeps_execJoinJoin {s t : State} (f : Fields) (h : execJoinJoin f s = .next t) : Keeps s t := by
  unfold execJoinJoin at h
  injection h with h
  subst h
  all_goals repeat' first
    | with_reducible assumption
    | intro _
    | with_reducible exact keeps_refl _
    | with_reducible apply keeps_fireJoin

theorem keeps_execJoinJoinall {s t : State} (f : Fields) (h : execJoinJoinall f s = .next t) : Keeps s t := by
  unfold execJoinJoinall at h
  injection h with h
  subst h
  all_goals repeat' first
    | with_reducible assumption
    | intro _
    | with_reducible exact keeps_refl _
    | with_reducible apply keeps_fireJoinall

theorem keeps_execCommitDrain {s t : State}  (h : execCommitDrain s = .next t) : Keeps s t := by
  unfold execCommitDrain at h
  split at h <;> injection h with h <;> subst h
  all_goals repeat' first
    | with_reducible assumption
    | intro _
    | with_reducible exact keeps_refl _
    | with_reducible apply keeps_drainStep

theorem keeps_execSysClock {s t : State} (f : Fields) (h : execSysClock f s = .next t) : Keeps s t := by
  unfold execSysClock at h
  injection h with h
  subst h
  all_goals repeat' first
    | with_reducible assumption
    | intro _
    | with_reducible exact keeps_refl _
    | with_reducible apply keeps_emitTimed
    | with_reducible apply keeps_fire

theorem keeps_execSysTileid {s t : State} (f : Fields) (h : execSysTileid f s = .next t) : Keeps s t := by
  unfold execSysTileid at h
  injection h with h
  subst h
  all_goals repeat' first
    | with_reducible assumption
    | intro _
    | with_reducible exact keeps_refl _
    | with_reducible apply keeps_emitTimed
    | with_reducible apply keeps_fire

theorem keeps_execSysTimer {s t : State} (f : Fields) (h : execSysTimer f s = .next t) : Keeps s t := by
  unfold execSysTimer at h
  injection h with h
  subst h
  all_goals repeat' first
    | with_reducible assumption
    | intro _
    | with_reducible exact keeps_refl _
    | with_reducible apply keeps_emitTimed
    | with_reducible apply keeps_fire

theorem keeps_execSysCtxst {s t : State} (f : Fields) (h : execSysCtxst f s = .next t) : Keeps s t := by
  unfold execSysCtxst at h
  injection h with h
  subst h
  all_goals try dsimp only [State.fresh]
  all_goals repeat' first
    | with_reducible assumption
    | intro _
    | with_reducible exact keeps_refl _
    | with_reducible apply keeps_consume
    | with_reducible apply keeps_emit2
    | with_reducible apply keeps_fire
    | with_reducible apply keeps_modCd

theorem keeps_execSysCtxend {s t : State} (f : Fields) (h : execSysCtxend f s = .next t) : Keeps s t := by
  unfold execSysCtxend at h
  injection h with h
  subst h
  all_goals repeat' first
    | with_reducible assumption
    | intro _
    | with_reducible exact keeps_refl _
    | with_reducible apply keeps_consume
    | with_reducible apply keeps_endOrHold
    | with_reducible apply keeps_fire

theorem keeps_execTrapTrap {s t : State} (f : Fields) (h : execTrapTrap f s = .next t) : Keeps s t := by
  unfold execTrapTrap at h
  injection h with h
  subst h
  all_goals repeat' first
    | with_reducible assumption
    | intro _
    | with_reducible exact keeps_refl _
    | with_reducible apply keeps_fire
    | with_reducible apply keeps_jobFault

theorem keeps_execTrapTret {s t : State} (f : Fields) (h : execTrapTret f s = .next t) : Keeps s t := by
  unfold execTrapTret at h
  injection h with h
  subst h
  all_goals try dsimp only [State.fresh]
  all_goals repeat' first
    | with_reducible assumption
    | intro _
    | with_reducible exact keeps_refl _
    | with_reducible apply keeps_consume
    | with_reducible apply keeps_emit2
    | with_reducible apply keeps_fireAcquiring
    | with_reducible apply keeps_releaseTrap
    | with_reducible apply keeps_foldl
    | with_reducible apply keeps_ite
    | with_reducible apply keeps_getD
    | with_reducible apply keeps_wf
    | split

theorem keeps_execDbgBrk {s t : State} (f : Fields) (h : execDbgBrk f s = .next t) : Keeps s t := by
  unfold execDbgBrk at h
  injection h with h
  subst h
  all_goals try dsimp only [State.fresh]
  all_goals repeat' first
    | with_reducible assumption
    | intro _
    | with_reducible exact keeps_refl _
    | with_reducible apply keeps_consume
    | with_reducible apply keeps_emit2
    | with_reducible apply keeps_fire
    | with_reducible apply keeps_modCtx
    | with_reducible apply keeps_preciseStop
    | with_reducible apply keeps_foldl
    | with_reducible apply keeps_ite

theorem keeps_execDbgTrace {s t : State} (f : Fields) (h : execDbgTrace f s = .next t) : Keeps s t := by
  unfold execDbgTrace at h
  injection h with h
  subst h
  all_goals try dsimp only [State.fresh]
  all_goals repeat' first
    | with_reducible assumption
    | intro _
    | with_reducible exact keeps_refl _
    | with_reducible apply keeps_catalogue
    | with_reducible apply keeps_consume
    | with_reducible apply keeps_emit2
    | with_reducible apply keeps_fire

theorem keeps_execDbgHist {s t : State} (f : Fields) (h : execDbgHist f s = .next t) : Keeps s t := by
  unfold execDbgHist at h
  injection h with h
  subst h
  all_goals try dsimp only [State.fresh]
  all_goals repeat' first
    | with_reducible assumption
    | intro _
    | with_reducible exact keeps_refl _
    | with_reducible apply keeps_emitTimed
    | with_reducible apply keeps_fire

theorem keeps_execAccnIntv {s t : State} (f : Fields) (h : execAccnIntv f s = .next t) : Keeps s t := by
  unfold execAccnIntv at h
  injection h with h
  subst h
  all_goals try dsimp only [State.fresh]
  all_goals repeat' first
    | with_reducible assumption
    | intro _
    | with_reducible exact keeps_refl _
    | with_reducible apply keeps_askBoundary
    | with_reducible apply keeps_consume
    | with_reducible apply keeps_emit2
    | with_reducible apply keeps_fire
    | with_reducible apply keeps_modCtx
    | with_reducible apply keeps_foldl
    | with_reducible apply keeps_ite

theorem keeps_execAccnArec {s t : State} (f : Fields) (h : execAccnArec f s = .next t) : Keeps s t := by
  unfold execAccnArec at h
  injection h with h
  subst h
  all_goals try dsimp only [State.fresh]
  all_goals repeat' first
    | with_reducible assumption
    | intro _
    | with_reducible exact keeps_refl _
    | with_reducible apply keeps_consume
    | with_reducible apply keeps_emit2
    | with_reducible apply keeps_fire
    | with_reducible apply keeps_logEvent
    | with_reducible apply keeps_offerAgain
    | with_reducible apply keeps_wait
    | with_reducible apply keeps_foldl
    | with_reducible apply keeps_ite
    | with_reducible apply keeps_getD
    | refine keeps_of_goG ?_ (by with_reducible assumption)
    | refine keeps_of_waitG ?_ (by with_reducible assumption)
    | with_reducible apply keeps_goG
    | with_reducible apply keeps_waitG
    | with_reducible apply keeps_iteGate
    | with_reducible apply keeps_foldlGate
    | with_reducible apply keeps_wf
    | split

theorem keeps_execCmdPreempt {s t : State}  (h : execCmdPreempt s = .next t) : Keeps s t := by
  unfold execCmdPreempt at h
  split at h <;> injection h with h <;> subst h
  all_goals repeat' first
    | with_reducible assumption
    | intro _
    | with_reducible exact keeps_refl _
    | with_reducible apply keeps_preempt

theorem keeps_execPreemptSaveComplete {s t : State}  (h : execPreemptSaveComplete s = .next t) : Keeps s t := by
  unfold execPreemptSaveComplete at h
  split at h <;> injection h with h <;> subst h
  all_goals repeat' first
    | with_reducible assumption
    | intro _
    | with_reducible exact keeps_refl _
    | with_reducible apply keeps_saveStep

theorem keeps_execMailboxWrite {s t : State}  (h : execMailboxWrite s = .next t) : Keeps s t := by
  unfold execMailboxWrite at h
  split at h <;> injection h with h <;> subst h
  all_goals repeat' first
    | with_reducible assumption
    | intro _
    | with_reducible exact keeps_refl _
    | with_reducible apply keeps_mailStep

theorem keeps_execCmdRestore {s t : State}  (h : execCmdRestore s = .next t) : Keeps s t := by
  unfold execCmdRestore at h
  split at h <;> injection h with h <;> subst h
  all_goals repeat' first
    | with_reducible assumption
    | intro _
    | with_reducible exact keeps_refl _
    | with_reducible apply keeps_restore

theorem keeps_execRestoreProceed {s t : State}  (h : execRestoreProceed s = .next t) : Keeps s t := by
  unfold execRestoreProceed at h
  split at h <;> injection h with h <;> subst h
  all_goals repeat' first
    | with_reducible assumption
    | intro _
    | with_reducible exact keeps_refl _
    | with_reducible apply keeps_restoreStep

theorem keeps_execCatHeadWrite {s t : State}  (h : execCatHeadWrite s = .next t) : Keeps s t := by
  unfold execCatHeadWrite at h
  split at h <;> injection h with h <;> subst h
  all_goals repeat' first
    | with_reducible assumption
    | intro _
    | with_reducible exact keeps_refl _
    | with_reducible apply keeps_catHead

theorem keeps_execHangIntervalExpiry {s t : State}  (h : execHangIntervalExpiry s = .next t) : Keeps s t := by
  unfold execHangIntervalExpiry at h
  split at h <;> injection h with h <;> subst h
  all_goals repeat' first
    | with_reducible assumption
    | intro _
    | with_reducible exact keeps_refl _
    | with_reducible apply keeps_hangStep

theorem keeps_execCmdWatchAdd {s t : State}  (h : execCmdWatchAdd s = .next t) : Keeps s t := by
  unfold execCmdWatchAdd at h
  split at h <;> injection h with h <;> subst h
  all_goals repeat' first
    | with_reducible assumption
    | intro _
    | with_reducible exact keeps_refl _
    | with_reducible apply keeps_watchAdd

theorem keeps_execCmdWatchClear {s t : State}  (h : execCmdWatchClear s = .next t) : Keeps s t := by
  unfold execCmdWatchClear at h
  split at h <;> injection h with h <;> subst h
  all_goals repeat' first
    | with_reducible assumption
    | intro _
    | with_reducible exact keeps_refl _
    | with_reducible apply keeps_watchClear

theorem keeps_execCmdObsread {s t : State}  (h : execCmdObsread s = .next t) : Keeps s t := by
  unfold execCmdObsread at h
  split at h <;> injection h with h <;> subst h
  all_goals repeat' first
    | with_reducible assumption
    | intro _
    | with_reducible exact keeps_refl _
    | with_reducible apply keeps_obsRead

theorem keeps_execCmdVitrineFreeze {s t : State}  (h : execCmdVitrineFreeze s = .next t) : Keeps s t := by
  unfold execCmdVitrineFreeze at h
  split at h <;> injection h with h <;> subst h
  all_goals repeat' first
    | with_reducible assumption
    | intro _
    | with_reducible exact keeps_refl _
    | with_reducible apply keeps_vitrineFreeze

theorem keeps_execCmdVitrineThaw {s t : State}  (h : execCmdVitrineThaw s = .next t) : Keeps s t := by
  unfold execCmdVitrineThaw at h
  split at h <;> injection h with h <;> subst h
  all_goals repeat' first
    | with_reducible assumption
    | intro _
    | with_reducible exact keeps_refl _
    | with_reducible apply keeps_vitrineThaw

theorem keeps_execCmdPatch {s t : State}  (h : execCmdPatch s = .next t) : Keeps s t := by
  unfold execCmdPatch at h
  split at h <;> injection h with h <;> subst h
  all_goals repeat' first
    | with_reducible assumption
    | intro _
    | with_reducible exact keeps_refl _
    | with_reducible apply keeps_patch

theorem keeps_execCmdIdent {s t : State}  (h : execCmdIdent s = .next t) : Keeps s t := by
  unfold execCmdIdent at h
  split at h <;> injection h with h <;> subst h
  all_goals repeat' first
    | with_reducible assumption
    | intro _
    | with_reducible exact keeps_refl _
    | with_reducible apply keeps_ident

theorem keeps_execCmdPwrcap {s t : State}  (h : execCmdPwrcap s = .next t) : Keeps s t := by
  unfold execCmdPwrcap at h
  split at h <;> injection h with h <;> subst h
  all_goals repeat' first
    | with_reducible assumption
    | intro _
    | with_reducible exact keeps_refl _
    | with_reducible apply keeps_pwrcap

theorem keeps_execPowerMeasure {s t : State}  (h : execPowerMeasure s = .next t) : Keeps s t := by
  unfold execPowerMeasure at h
  split at h <;> injection h with h <;> subst h
  all_goals repeat' first
    | with_reducible assumption
    | intro _
    | with_reducible exact keeps_refl _
    | with_reducible apply keeps_measure

theorem keeps_execPowerUp {s t : State}  (h : execPowerUp s = .next t) : Keeps s t := by
  unfold execPowerUp at h
  split at h <;> injection h with h <;> subst h
  all_goals repeat' first
    | with_reducible assumption
    | intro _
    | with_reducible exact keeps_refl _
    | with_reducible apply keeps_bringUp

theorem keeps_execPowerLoss {s t : State}  (h : execPowerLoss s = .next t) : Keeps s t := by
  unfold execPowerLoss at h
  split at h <;> injection h with h <;> subst h
  all_goals repeat' first
    | with_reducible assumption
    | intro _
    | with_reducible exact keeps_refl _
    | with_reducible apply keeps_powerLost

theorem keeps_execCmdCreate {s t : State}  (h : execCmdCreate s = .next t) : Keeps s t := by
  unfold execCmdCreate at h
  split at h <;> injection h with h <;> subst h
  all_goals repeat' first
    | with_reducible assumption
    | intro _
    | with_reducible exact keeps_refl _
    | with_reducible apply keeps_createCtx

theorem keeps_execCmdDestroy {s t : State}  (h : execCmdDestroy s = .next t) : Keeps s t := by
  unfold execCmdDestroy at h
  split at h <;> injection h with h <;> subst h
  all_goals repeat' first
    | with_reducible assumption
    | intro _
    | with_reducible exact keeps_refl _
    | with_reducible apply keeps_destroyCtx

theorem keeps_execCmdResident {s t : State}  (h : execCmdResident s = .next t) : Keeps s t := by
  unfold execCmdResident at h
  split at h <;> injection h with h <;> subst h
  all_goals repeat' first
    | with_reducible assumption
    | intro _
    | with_reducible exact keeps_refl _
    | with_reducible apply keeps_makeResident

theorem keeps_execCmdEvict {s t : State}  (h : execCmdEvict s = .next t) : Keeps s t := by
  unfold execCmdEvict at h
  split at h <;> injection h with h <;> subst h
  all_goals repeat' first
    | with_reducible assumption
    | intro _
    | with_reducible exact keeps_refl _
    | with_reducible apply keeps_evict

theorem keeps_execCmdMode {s t : State}  (h : execCmdMode s = .next t) : Keeps s t := by
  unfold execCmdMode at h
  split at h <;> injection h with h <;> subst h
  all_goals repeat' first
    | with_reducible assumption
    | intro _
    | with_reducible exact keeps_refl _
    | with_reducible apply keeps_setMode

theorem keeps_execCmdRegw {s t : State}  (h : execCmdRegw s = .next t) : Keeps s t := by
  unfold execCmdRegw at h
  split at h <;> injection h with h <;> subst h
  all_goals repeat' first
    | with_reducible assumption
    | intro _
    | with_reducible exact keeps_refl _
    | with_reducible apply keeps_regw

theorem keeps_execCmdMap {s t : State}  (h : execCmdMap s = .next t) : Keeps s t := by
  unfold execCmdMap at h
  split at h <;> injection h with h <;> subst h
  all_goals repeat' first
    | with_reducible assumption
    | intro _
    | with_reducible exact keeps_refl _
    | with_reducible apply keeps_mapPage

theorem keeps_execCmdUnmap {s t : State}  (h : execCmdUnmap s = .next t) : Keeps s t := by
  unfold execCmdUnmap at h
  split at h <;> injection h with h <;> subst h
  all_goals repeat' first
    | with_reducible assumption
    | intro _
    | with_reducible exact keeps_refl _
    | with_reducible apply keeps_unmap

theorem keeps_execCmdProtect {s t : State}  (h : execCmdProtect s = .next t) : Keeps s t := by
  unfold execCmdProtect at h
  split at h <;> injection h with h <;> subst h
  all_goals repeat' first
    | with_reducible assumption
    | intro _
    | with_reducible exact keeps_refl _
    | with_reducible apply keeps_protect

theorem keeps_execCmdResdone {s t : State}  (h : execCmdResdone s = .next t) : Keeps s t := by
  unfold execCmdResdone at h
  split at h <;> injection h with h <;> subst h
  all_goals repeat' first
    | with_reducible assumption
    | intro _
    | with_reducible exact keeps_refl _
    | with_reducible apply keeps_resDone

theorem keeps_execCmdResfail {s t : State}  (h : execCmdResfail s = .next t) : Keeps s t := by
  unfold execCmdResfail at h
  split at h <;> injection h with h <;> subst h
  all_goals repeat' first
    | with_reducible assumption
    | intro _
    | with_reducible exact keeps_refl _
    | with_reducible apply keeps_resFail

theorem keeps_execCmdResume {s t : State}  (h : execCmdResume s = .next t) : Keeps s t := by
  unfold execCmdResume at h
  split at h <;> injection h with h <;> subst h
  all_goals repeat' first
    | with_reducible assumption
    | intro _
    | with_reducible exact keeps_refl _
    | with_reducible apply keeps_resume

theorem keeps_execCmdKill {s t : State}  (h : execCmdKill s = .next t) : Keeps s t := by
  unfold execCmdKill at h
  split at h <;> injection h with h <;> subst h
  all_goals repeat' first
    | with_reducible assumption
    | intro _
    | with_reducible exact keeps_refl _
    | with_reducible apply keeps_kill

theorem keeps_execCmdTrapw {s t : State}  (h : execCmdTrapw s = .next t) : Keeps s t := by
  unfold execCmdTrapw at h
  split at h <;> injection h with h <;> subst h
  all_goals repeat' first
    | with_reducible assumption
    | intro _
    | with_reducible exact keeps_refl _
    | with_reducible apply keeps_trapWrite

theorem keeps_execCmdGramw {s t : State}  (h : execCmdGramw s = .next t) : Keeps s t := by
  unfold execCmdGramw at h
  split at h <;> injection h with h <;> subst h
  all_goals repeat' first
    | with_reducible assumption
    | intro _
    | with_reducible exact keeps_refl _
    | with_reducible apply keeps_gramWrite

theorem keeps_execCmdGramwClear {s t : State}  (h : execCmdGramwClear s = .next t) : Keeps s t := by
  unfold execCmdGramwClear at h
  split at h <;> injection h with h <;> subst h
  all_goals repeat' first
    | with_reducible assumption
    | intro _
    | with_reducible exact keeps_refl _
    | with_reducible apply keeps_gramClear

theorem keeps_execCmdEpw {s t : State}  (h : execCmdEpw s = .next t) : Keeps s t := by
  unfold execCmdEpw at h
  split at h <;> injection h with h <;> subst h
  all_goals repeat' first
    | with_reducible assumption
    | intro _
    | with_reducible exact keeps_refl _
    | with_reducible apply keeps_endpointWrite

theorem keeps_execCmdWinw {s t : State}  (h : execCmdWinw s = .next t) : Keeps s t := by
  unfold execCmdWinw at h
  split at h <;> injection h with h <;> subst h
  all_goals repeat' first
    | with_reducible assumption
    | intro _
    | with_reducible exact keeps_refl _
    | with_reducible apply keeps_windowWrite

theorem keeps_execCmdLinkrst {s t : State}  (h : execCmdLinkrst s = .next t) : Keeps s t := by
  unfold execCmdLinkrst at h
  split at h <;> injection h with h <;> subst h
  all_goals repeat' first
    | with_reducible assumption
    | intro _
    | with_reducible exact keeps_refl _
    | with_reducible apply keeps_linkRst

theorem keeps_execCmdMemrd {s t : State}  (h : execCmdMemrd s = .next t) : Keeps s t := by
  unfold execCmdMemrd at h
  split at h <;> injection h with h <;> subst h
  all_goals repeat' first
    | with_reducible assumption
    | intro _
    | with_reducible exact keeps_refl _
    | with_reducible apply keeps_memRead

theorem keeps_execCmdMemwr {s t : State}  (h : execCmdMemwr s = .next t) : Keeps s t := by
  unfold execCmdMemwr at h
  split at h <;> injection h with h <;> subst h
  all_goals repeat' first
    | with_reducible assumption
    | intro _
    | with_reducible exact keeps_refl _
    | with_reducible apply keeps_memWrite

theorem keeps_execCmdStatclr {s t : State}  (h : execCmdStatclr s = .next t) : Keeps s t := by
  unfold execCmdStatclr at h
  split at h <;> injection h with h <;> subst h
  all_goals repeat' first
    | with_reducible assumption
    | intro _
    | with_reducible exact keeps_refl _
    | with_reducible apply keeps_statClrCmd

theorem keeps_execCmdCtxinfo {s t : State}  (h : execCmdCtxinfo s = .next t) : Keeps s t := by
  unfold execCmdCtxinfo at h
  split at h <;> injection h with h <;> subst h
  all_goals repeat' first
    | with_reducible assumption
    | intro _
    | with_reducible exact keeps_refl _
    | with_reducible apply keeps_ctxInfo

theorem keeps_execCmdNetcfg {s t : State}  (h : execCmdNetcfg s = .next t) : Keeps s t := by
  unfold execCmdNetcfg at h
  split at h <;> injection h with h <;> subst h
  all_goals repeat' first
    | with_reducible assumption
    | intro _
    | with_reducible exact keeps_refl _
    | with_reducible apply keeps_netConfigure

theorem keeps_execDrainTokenArrival {s t : State}  (h : execDrainTokenArrival s = .next t) : Keeps s t := by
  unfold execDrainTokenArrival at h
  split at h <;> injection h with h <;> subst h
  all_goals repeat' first
    | with_reducible assumption
    | intro _
    | with_reducible exact keeps_refl _
    | with_reducible apply keeps_drainArrived

theorem keeps_execKeystoreCompletion {s t : State}  (h : execKeystoreCompletion s = .next t) : Keeps s t := by
  unfold execKeystoreCompletion at h
  split at h <;> injection h with h <;> subst h
  all_goals repeat' first
    | with_reducible assumption
    | intro _
    | with_reducible exact keeps_refl _
    | with_reducible apply keeps_keyComplete

theorem keeps_execKputKput {s t : State} (f : Fields) (h : execKputKput f s = .next t) : Keeps s t := by
  unfold execKputKput at h
  injection h with h
  subst h
  all_goals repeat' first
    | with_reducible assumption
    | intro _
    | with_reducible exact keeps_refl _
    | with_reducible apply keeps_fireKey

theorem keeps_execKputKputs {s t : State} (f : Fields) (h : execKputKputs f s = .next t) : Keeps s t := by
  unfold execKputKputs at h
  injection h with h
  subst h
  all_goals repeat' first
    | with_reducible assumption
    | intro _
    | with_reducible exact keeps_refl _
    | with_reducible apply keeps_fireKey

theorem keeps_execKputKdrop {s t : State} (f : Fields) (h : execKputKdrop f s = .next t) : Keeps s t := by
  unfold execKputKdrop at h
  injection h with h
  subst h
  all_goals repeat' first
    | with_reducible assumption
    | intro _
    | with_reducible exact keeps_refl _
    | with_reducible apply keeps_fireKey

theorem keeps_execKputKseq {s t : State} (f : Fields) (h : execKputKseq f s = .next t) : Keeps s t := by
  unfold execKputKseq at h
  injection h with h
  subst h
  all_goals repeat' first
    | with_reducible assumption
    | intro _
    | with_reducible exact keeps_refl _
    | with_reducible apply keeps_fireKey

theorem keeps_execKputKfork {s t : State} (f : Fields) (h : execKputKfork f s = .next t) : Keeps s t := by
  unfold execKputKfork at h
  injection h with h
  subst h
  all_goals repeat' first
    | with_reducible assumption
    | intro _
    | with_reducible exact keeps_refl _
    | with_reducible apply keeps_fireKey

theorem keeps_execKqueryKq {s t : State} (f : Fields) (h : execKqueryKq f s = .next t) : Keeps s t := by
  unfold execKqueryKq at h
  injection h with h
  subst h
  all_goals repeat' first
    | with_reducible assumption
    | intro _
    | with_reducible exact keeps_refl _
    | with_reducible apply keeps_fireKey

theorem keeps_execKqueryKqd {s t : State} (f : Fields) (h : execKqueryKqd f s = .next t) : Keeps s t := by
  unfold execKqueryKqd at h
  injection h with h
  subst h
  all_goals repeat' first
    | with_reducible assumption
    | intro _
    | with_reducible exact keeps_refl _
    | with_reducible apply keeps_fireKey

theorem keeps_execKqueryKqsk {s t : State} (f : Fields) (h : execKqueryKqsk f s = .next t) : Keeps s t := by
  unfold execKqueryKqsk at h
  injection h with h
  subst h
  all_goals repeat' first
    | with_reducible assumption
    | intro _
    | with_reducible exact keeps_refl _
    | with_reducible apply keeps_fireKey

theorem keeps_execKqueryKmerge {s t : State} (f : Fields) (h : execKqueryKmerge f s = .next t) : Keeps s t := by
  unfold execKqueryKmerge at h
  injection h with h
  subst h
  all_goals repeat' first
    | with_reducible assumption
    | intro _
    | with_reducible exact keeps_refl _
    | with_reducible apply keeps_fireKey

theorem keeps_execSmaxSmref {s t : State} (f : Fields) (h : execSmaxSmref f s = .next t) : Keeps s t := by
  unfold execSmaxSmref at h
  injection h with h
  subst h
  all_goals repeat' first
    | with_reducible assumption
    | intro _
    | with_reducible exact keeps_refl _
    | with_reducible apply keeps_fireKey

theorem keeps_execSmaxSmacc {s t : State} (f : Fields) (h : execSmaxSmacc f s = .next t) : Keeps s t := by
  unfold execSmaxSmacc at h
  injection h with h
  subst h
  all_goals repeat' first
    | with_reducible assumption
    | intro _
    | with_reducible exact keeps_refl _
    | with_reducible apply keeps_fireKey

theorem keeps_execSmaxSmnorm {s t : State} (f : Fields) (h : execSmaxSmnorm f s = .next t) : Keeps s t := by
  unfold execSmaxSmnorm at h
  injection h with h
  subst h
  all_goals repeat' first
    | with_reducible assumption
    | intro _
    | with_reducible exact keeps_refl _
    | with_reducible apply keeps_fireKey

theorem keeps_execSmaxSmresc {s t : State} (f : Fields) (h : execSmaxSmresc f s = .next t) : Keeps s t := by
  unfold execSmaxSmresc at h
  injection h with h
  subst h
  all_goals repeat' first
    | with_reducible assumption
    | intro _
    | with_reducible exact keeps_refl _
    | with_reducible apply keeps_fireKey

theorem keeps_execSmaxSmflag {s t : State} (f : Fields) (h : execSmaxSmflag f s = .next t) : Keeps s t := by
  unfold execSmaxSmflag at h
  injection h with h
  subst h
  all_goals repeat' first
    | with_reducible assumption
    | intro _
    | with_reducible exact keeps_refl _
    | with_reducible apply keeps_fireKey

theorem keeps_execOwnerPerform {s t : State}  (h : execOwnerPerform s = .next t) : Keeps s t := by
  unfold execOwnerPerform at h
  split at h <;> injection h with h <;> subst h
  all_goals repeat' first
    | with_reducible assumption
    | intro _
    | with_reducible exact keeps_refl _
    | with_reducible apply keeps_ownerStep
    | with_reducible apply keeps_windowRequest
    | with_reducible apply keeps_foldl
    | with_reducible apply keeps_ite

theorem keeps_execHostRequest {s t : State}  (h : execHostRequest s = .next t) : Keeps s t := by
  unfold execHostRequest at h
  split at h <;> injection h with h <;> subst h
  all_goals repeat' first
    | with_reducible assumption
    | intro _
    | with_reducible exact keeps_refl _
    | with_reducible apply keeps_hostSends

theorem keeps_execRegisterWrite {s t : State}  (h : execRegisterWrite s = .next t) : Keeps s t := by
  unfold execRegisterWrite at h
  split at h <;> injection h with h <;> subst h
  all_goals repeat' first
    | with_reducible assumption
    | intro _
    | with_reducible exact keeps_refl _
    | with_reducible apply keeps_windowWrite64

end Sys2Proof.Machine
end

