-- ==== Sys2Proof/Laws/State.lean ====
section
/-! SUPPORT. Laws of the state: for each update, what every field and every accessor reads after it. -/

namespace Sys2Proof.Machine


/-! ### setTile -/

@[simp] theorem State.setTile_ticks (s : State) (t : TileId) (x : Tile) : (s.setTile t x).ticks = s.ticks := rfl
@[simp] theorem State.setTile_cycles (s : State) (t : TileId) (x : Tile) : (s.setTile t x).cycles = s.cycles := rfl
@[simp] theorem State.setTile_nextId (s : State) (t : TileId) (x : Tile) : (s.setTile t x).nextId = s.nextId := rfl
@[simp] theorem State.setTile_pkg (s : State) (t : TileId) (x : Tile) : (s.setTile t x).pkg = s.pkg := rfl
@[simp] theorem State.setTile_agenda (s : State) (t : TileId) (x : Tile) : (s.setTile t x).agenda = s.agenda := rfl
@[simp] theorem State.setTile_ready (s : State) (t : TileId) (x : Tile) : (s.setTile t x).ready = s.ready := rfl
@[simp] theorem State.setTile_cur (s : State) (t : TileId) (x : Tile) : (s.setTile t x).cur = s.cur := rfl
@[simp] theorem State.setTile_ev (s : State) (t : TileId) (x : Tile) : (s.setTile t x).ev = s.ev := rfl
@[simp] theorem State.setTile_batch (s : State) (t : TileId) (x : Tile) : (s.setTile t x).batch = s.batch := rfl
@[simp] theorem State.setTile_touched (s : State) (t : TileId) (x : Tile) : (s.setTile t x).touched = s.touched := rfl
@[simp] theorem State.setTile_overfull (s : State) (t : TileId) (x : Tile) : (s.setTile t x).overfull = s.overfull := rfl
@[simp] theorem State.setTile_islands (s : State) (t : TileId) (x : Tile) : (s.setTile t x).islands = s.islands := rfl
@[simp] theorem State.setTile_dies (s : State) (t : TileId) (x : Tile) : (s.setTile t x).dies = s.dies := rfl
@[simp] theorem State.setTile_ctxs (s : State) (t : TileId) (x : Tile) : (s.setTile t x).ctxs = s.ctxs := rfl
@[simp] theorem State.setTile_ctxDies (s : State) (t : TileId) (x : Tile) : (s.setTile t x).ctxDies = s.ctxDies := rfl
@[simp] theorem State.setTile_regions (s : State) (t : TileId) (x : Tile) : (s.setTile t x).regions = s.regions := rfl
@[simp] theorem State.setTile_launches (s : State) (t : TileId) (x : Tile) : (s.setTile t x).launches = s.launches := rfl
@[simp] theorem State.setTile_drainOps (s : State) (t : TileId) (x : Tile) : (s.setTile t x).drainOps = s.drainOps := rfl
@[simp] theorem State.setTile_snaps (s : State) (t : TileId) (x : Tile) : (s.setTile t x).snaps = s.snaps := rfl
@[simp] theorem State.setTile_saves (s : State) (t : TileId) (x : Tile) : (s.setTile t x).saves = s.saves := rfl
@[simp] theorem State.setTile_pwrCap (s : State) (t : TileId) (x : Tile) : (s.setTile t x).pwrCap = s.pwrCap := rfl
@[simp] theorem State.setTile_powers (s : State) (t : TileId) (x : Tile) : (s.setTile t x).powers = s.powers := rfl
@[simp] theorem State.setTile_raised (s : State) (t : TileId) (x : Tile) : (s.setTile t x).raised = s.raised := rfl
@[simp] theorem State.setTile_stores (s : State) (t : TileId) (x : Tile) : (s.setTile t x).stores = s.stores := rfl
@[simp] theorem State.setTile_outbound (s : State) (t : TileId) (x : Tile) : (s.setTile t x).outbound = s.outbound := rfl
@[simp] theorem State.setTile_outTokens (s : State) (t : TileId) (x : Tile) : (s.setTile t x).outTokens = s.outTokens := rfl
@[simp] theorem State.setTile_mem (s : State) (t : TileId) (x : Tile) : (s.setTile t x).mem = s.mem := rfl
@[simp] theorem State.setTile_hostMem (s : State) (t : TileId) (x : Tile) : (s.setTile t x).hostMem = s.hostMem := rfl
@[simp] theorem State.setTile_island (s : State) (t : TileId) (x : Tile) (i n : Nat) : (s.setTile t x).island i n = s.island i n := rfl
@[simp] theorem State.setTile_die (s : State) (t : TileId) (x : Tile) (n : Nat) : (s.setTile t x).die n = s.die n := rfl
@[simp] theorem State.setTile_ctx (s : State) (t : TileId) (x : Tile) (n : Nat) : (s.setTile t x).ctx n = s.ctx n := rfl
@[simp] theorem State.setTile_cd (s : State) (t : TileId) (x : Tile) (i n : Nat) : (s.setTile t x).cd i n = s.cd i n := rfl
@[simp] theorem State.setTile_region (s : State) (t : TileId) (x : Tile) (n : Nat) : (s.setTile t x).region? n = s.region? n := rfl
@[simp] theorem State.setTile_regionCtx (s : State) (t : TileId) (x : Tile) (n : Nat) : (s.setTile t x).regionCtx n = s.regionCtx n := rfl
@[simp] theorem State.setTile_level (s : State) (t : TileId) (x : Tile) (n : Nat) : (s.setTile t x).level n = s.level n := rfl
@[simp] theorem State.setTile_code (s : State) (t : TileId) (x : Tile) (n : Nat) : (s.setTile t x).code n = s.code n := rfl
@[simp] theorem State.setTile_page (s : State) (t : TileId) (x : Tile) (i n : Nat) : (s.setTile t x).page? i n = s.page? i n := rfl
@[simp] theorem State.setTile_tile_self (s : State) (t : TileId) (x : Tile) : (s.setTile t x).tile t = x := by
  simp [State.setTile, State.tile]

/-! ### modTile -/

@[simp] theorem State.modTile_ticks (s : State) (t : TileId) (g : Tile → Tile) : (s.modTile t g).ticks = s.ticks := rfl
@[simp] theorem State.modTile_cycles (s : State) (t : TileId) (g : Tile → Tile) : (s.modTile t g).cycles = s.cycles := rfl
@[simp] theorem State.modTile_nextId (s : State) (t : TileId) (g : Tile → Tile) : (s.modTile t g).nextId = s.nextId := rfl
@[simp] theorem State.modTile_pkg (s : State) (t : TileId) (g : Tile → Tile) : (s.modTile t g).pkg = s.pkg := rfl
@[simp] theorem State.modTile_agenda (s : State) (t : TileId) (g : Tile → Tile) : (s.modTile t g).agenda = s.agenda := rfl
@[simp] theorem State.modTile_ready (s : State) (t : TileId) (g : Tile → Tile) : (s.modTile t g).ready = s.ready := rfl
@[simp] theorem State.modTile_cur (s : State) (t : TileId) (g : Tile → Tile) : (s.modTile t g).cur = s.cur := rfl
@[simp] theorem State.modTile_ev (s : State) (t : TileId) (g : Tile → Tile) : (s.modTile t g).ev = s.ev := rfl
@[simp] theorem State.modTile_batch (s : State) (t : TileId) (g : Tile → Tile) : (s.modTile t g).batch = s.batch := rfl
@[simp] theorem State.modTile_touched (s : State) (t : TileId) (g : Tile → Tile) : (s.modTile t g).touched = s.touched := rfl
@[simp] theorem State.modTile_overfull (s : State) (t : TileId) (g : Tile → Tile) : (s.modTile t g).overfull = s.overfull := rfl
@[simp] theorem State.modTile_islands (s : State) (t : TileId) (g : Tile → Tile) : (s.modTile t g).islands = s.islands := rfl
@[simp] theorem State.modTile_dies (s : State) (t : TileId) (g : Tile → Tile) : (s.modTile t g).dies = s.dies := rfl
@[simp] theorem State.modTile_ctxs (s : State) (t : TileId) (g : Tile → Tile) : (s.modTile t g).ctxs = s.ctxs := rfl
@[simp] theorem State.modTile_ctxDies (s : State) (t : TileId) (g : Tile → Tile) : (s.modTile t g).ctxDies = s.ctxDies := rfl
@[simp] theorem State.modTile_regions (s : State) (t : TileId) (g : Tile → Tile) : (s.modTile t g).regions = s.regions := rfl
@[simp] theorem State.modTile_launches (s : State) (t : TileId) (g : Tile → Tile) : (s.modTile t g).launches = s.launches := rfl
@[simp] theorem State.modTile_drainOps (s : State) (t : TileId) (g : Tile → Tile) : (s.modTile t g).drainOps = s.drainOps := rfl
@[simp] theorem State.modTile_snaps (s : State) (t : TileId) (g : Tile → Tile) : (s.modTile t g).snaps = s.snaps := rfl
@[simp] theorem State.modTile_saves (s : State) (t : TileId) (g : Tile → Tile) : (s.modTile t g).saves = s.saves := rfl
@[simp] theorem State.modTile_pwrCap (s : State) (t : TileId) (g : Tile → Tile) : (s.modTile t g).pwrCap = s.pwrCap := rfl
@[simp] theorem State.modTile_powers (s : State) (t : TileId) (g : Tile → Tile) : (s.modTile t g).powers = s.powers := rfl
@[simp] theorem State.modTile_raised (s : State) (t : TileId) (g : Tile → Tile) : (s.modTile t g).raised = s.raised := rfl
@[simp] theorem State.modTile_stores (s : State) (t : TileId) (g : Tile → Tile) : (s.modTile t g).stores = s.stores := rfl
@[simp] theorem State.modTile_outbound (s : State) (t : TileId) (g : Tile → Tile) : (s.modTile t g).outbound = s.outbound := rfl
@[simp] theorem State.modTile_outTokens (s : State) (t : TileId) (g : Tile → Tile) : (s.modTile t g).outTokens = s.outTokens := rfl
@[simp] theorem State.modTile_mem (s : State) (t : TileId) (g : Tile → Tile) : (s.modTile t g).mem = s.mem := rfl
@[simp] theorem State.modTile_hostMem (s : State) (t : TileId) (g : Tile → Tile) : (s.modTile t g).hostMem = s.hostMem := rfl
@[simp] theorem State.modTile_island (s : State) (t : TileId) (g : Tile → Tile) (i n : Nat) : (s.modTile t g).island i n = s.island i n := rfl
@[simp] theorem State.modTile_die (s : State) (t : TileId) (g : Tile → Tile) (n : Nat) : (s.modTile t g).die n = s.die n := rfl
@[simp] theorem State.modTile_ctx (s : State) (t : TileId) (g : Tile → Tile) (n : Nat) : (s.modTile t g).ctx n = s.ctx n := rfl
@[simp] theorem State.modTile_cd (s : State) (t : TileId) (g : Tile → Tile) (i n : Nat) : (s.modTile t g).cd i n = s.cd i n := rfl
@[simp] theorem State.modTile_region (s : State) (t : TileId) (g : Tile → Tile) (n : Nat) : (s.modTile t g).region? n = s.region? n := rfl
@[simp] theorem State.modTile_regionCtx (s : State) (t : TileId) (g : Tile → Tile) (n : Nat) : (s.modTile t g).regionCtx n = s.regionCtx n := rfl
@[simp] theorem State.modTile_level (s : State) (t : TileId) (g : Tile → Tile) (n : Nat) : (s.modTile t g).level n = s.level n := rfl
@[simp] theorem State.modTile_code (s : State) (t : TileId) (g : Tile → Tile) (n : Nat) : (s.modTile t g).code n = s.code n := rfl
@[simp] theorem State.modTile_page (s : State) (t : TileId) (g : Tile → Tile) (i n : Nat) : (s.modTile t g).page? i n = s.page? i n := rfl
@[simp] theorem State.modTile_tile_self (s : State) (t : TileId) (g : Tile → Tile) : (s.modTile t g).tile t = g (s.tile t) := by
  simp [State.modTile, State.setTile, State.tile]
theorem State.modTile_tile_ne (s : State) (t u : TileId) (g : Tile → Tile) (h : tileKey u ≠ tileKey t) :
    (s.modTile t g).tile u = s.tile u := by
  simp [State.modTile, State.setTile, State.tile, NMap.getD_put_ne _ _ _ h]

/-! ### modIsland -/

@[simp] theorem State.modIsland_ticks (s : State) (d k : Nat) (g : Island → Island) : (s.modIsland d k g).ticks = s.ticks := rfl
@[simp] theorem State.modIsland_cycles (s : State) (d k : Nat) (g : Island → Island) : (s.modIsland d k g).cycles = s.cycles := rfl
@[simp] theorem State.modIsland_nextId (s : State) (d k : Nat) (g : Island → Island) : (s.modIsland d k g).nextId = s.nextId := rfl
@[simp] theorem State.modIsland_pkg (s : State) (d k : Nat) (g : Island → Island) : (s.modIsland d k g).pkg = s.pkg := rfl
@[simp] theorem State.modIsland_agenda (s : State) (d k : Nat) (g : Island → Island) : (s.modIsland d k g).agenda = s.agenda := rfl
@[simp] theorem State.modIsland_ready (s : State) (d k : Nat) (g : Island → Island) : (s.modIsland d k g).ready = s.ready := rfl
@[simp] theorem State.modIsland_cur (s : State) (d k : Nat) (g : Island → Island) : (s.modIsland d k g).cur = s.cur := rfl
@[simp] theorem State.modIsland_ev (s : State) (d k : Nat) (g : Island → Island) : (s.modIsland d k g).ev = s.ev := rfl
@[simp] theorem State.modIsland_batch (s : State) (d k : Nat) (g : Island → Island) : (s.modIsland d k g).batch = s.batch := rfl
@[simp] theorem State.modIsland_touched (s : State) (d k : Nat) (g : Island → Island) : (s.modIsland d k g).touched = s.touched := rfl
@[simp] theorem State.modIsland_overfull (s : State) (d k : Nat) (g : Island → Island) : (s.modIsland d k g).overfull = s.overfull := rfl
@[simp] theorem State.modIsland_tiles (s : State) (d k : Nat) (g : Island → Island) : (s.modIsland d k g).tiles = s.tiles := rfl
@[simp] theorem State.modIsland_dies (s : State) (d k : Nat) (g : Island → Island) : (s.modIsland d k g).dies = s.dies := rfl
@[simp] theorem State.modIsland_ctxs (s : State) (d k : Nat) (g : Island → Island) : (s.modIsland d k g).ctxs = s.ctxs := rfl
@[simp] theorem State.modIsland_ctxDies (s : State) (d k : Nat) (g : Island → Island) : (s.modIsland d k g).ctxDies = s.ctxDies := rfl
@[simp] theorem State.modIsland_regions (s : State) (d k : Nat) (g : Island → Island) : (s.modIsland d k g).regions = s.regions := rfl
@[simp] theorem State.modIsland_launches (s : State) (d k : Nat) (g : Island → Island) : (s.modIsland d k g).launches = s.launches := rfl
@[simp] theorem State.modIsland_drainOps (s : State) (d k : Nat) (g : Island → Island) : (s.modIsland d k g).drainOps = s.drainOps := rfl
@[simp] theorem State.modIsland_snaps (s : State) (d k : Nat) (g : Island → Island) : (s.modIsland d k g).snaps = s.snaps := rfl
@[simp] theorem State.modIsland_saves (s : State) (d k : Nat) (g : Island → Island) : (s.modIsland d k g).saves = s.saves := rfl
@[simp] theorem State.modIsland_pwrCap (s : State) (d k : Nat) (g : Island → Island) : (s.modIsland d k g).pwrCap = s.pwrCap := rfl
@[simp] theorem State.modIsland_powers (s : State) (d k : Nat) (g : Island → Island) : (s.modIsland d k g).powers = s.powers := rfl
@[simp] theorem State.modIsland_raised (s : State) (d k : Nat) (g : Island → Island) : (s.modIsland d k g).raised = s.raised := rfl
@[simp] theorem State.modIsland_stores (s : State) (d k : Nat) (g : Island → Island) : (s.modIsland d k g).stores = s.stores := rfl
@[simp] theorem State.modIsland_outbound (s : State) (d k : Nat) (g : Island → Island) : (s.modIsland d k g).outbound = s.outbound := rfl
@[simp] theorem State.modIsland_outTokens (s : State) (d k : Nat) (g : Island → Island) : (s.modIsland d k g).outTokens = s.outTokens := rfl
@[simp] theorem State.modIsland_mem (s : State) (d k : Nat) (g : Island → Island) : (s.modIsland d k g).mem = s.mem := rfl
@[simp] theorem State.modIsland_hostMem (s : State) (d k : Nat) (g : Island → Island) : (s.modIsland d k g).hostMem = s.hostMem := rfl
@[simp] theorem State.modIsland_tile (s : State) (d k : Nat) (g : Island → Island) (u : TileId) : (s.modIsland d k g).tile u = s.tile u := rfl
@[simp] theorem State.modIsland_die (s : State) (d k : Nat) (g : Island → Island) (n : Nat) : (s.modIsland d k g).die n = s.die n := rfl
@[simp] theorem State.modIsland_ctx (s : State) (d k : Nat) (g : Island → Island) (n : Nat) : (s.modIsland d k g).ctx n = s.ctx n := rfl
@[simp] theorem State.modIsland_cd (s : State) (d k : Nat) (g : Island → Island) (i n : Nat) : (s.modIsland d k g).cd i n = s.cd i n := rfl
@[simp] theorem State.modIsland_region (s : State) (d k : Nat) (g : Island → Island) (n : Nat) : (s.modIsland d k g).region? n = s.region? n := rfl
@[simp] theorem State.modIsland_regionCtx (s : State) (d k : Nat) (g : Island → Island) (n : Nat) : (s.modIsland d k g).regionCtx n = s.regionCtx n := rfl
@[simp] theorem State.modIsland_level (s : State) (d k : Nat) (g : Island → Island) (n : Nat) : (s.modIsland d k g).level n = s.level n := rfl
@[simp] theorem State.modIsland_code (s : State) (d k : Nat) (g : Island → Island) (n : Nat) : (s.modIsland d k g).code n = s.code n := rfl
@[simp] theorem State.modIsland_page (s : State) (d k : Nat) (g : Island → Island) (i n : Nat) : (s.modIsland d k g).page? i n = s.page? i n := rfl
@[simp] theorem State.modIsland_island_self (s : State) (d k : Nat) (g : Island → Island) :
    (s.modIsland d k g).island d k = g (s.island d k) := by
  simp [State.modIsland, State.island]
theorem State.modIsland_island_ne (s : State) (d k e n : Nat) (g : Island → Island) (h : islKey e n ≠ islKey d k) :
    (s.modIsland d k g).island e n = s.island e n := by
  simp [State.modIsland, State.island, NMap.getD_put_ne _ _ _ h]

/-! ### modDie -/

@[simp] theorem State.modDie_ticks (s : State) (d : Nat) (g : Die → Die) : (s.modDie d g).ticks = s.ticks := rfl
@[simp] theorem State.modDie_cycles (s : State) (d : Nat) (g : Die → Die) : (s.modDie d g).cycles = s.cycles := rfl
@[simp] theorem State.modDie_nextId (s : State) (d : Nat) (g : Die → Die) : (s.modDie d g).nextId = s.nextId := rfl
@[simp] theorem State.modDie_pkg (s : State) (d : Nat) (g : Die → Die) : (s.modDie d g).pkg = s.pkg := rfl
@[simp] theorem State.modDie_agenda (s : State) (d : Nat) (g : Die → Die) : (s.modDie d g).agenda = s.agenda := rfl
@[simp] theorem State.modDie_ready (s : State) (d : Nat) (g : Die → Die) : (s.modDie d g).ready = s.ready := rfl
@[simp] theorem State.modDie_cur (s : State) (d : Nat) (g : Die → Die) : (s.modDie d g).cur = s.cur := rfl
@[simp] theorem State.modDie_ev (s : State) (d : Nat) (g : Die → Die) : (s.modDie d g).ev = s.ev := rfl
@[simp] theorem State.modDie_batch (s : State) (d : Nat) (g : Die → Die) : (s.modDie d g).batch = s.batch := rfl
@[simp] theorem State.modDie_touched (s : State) (d : Nat) (g : Die → Die) : (s.modDie d g).touched = s.touched := rfl
@[simp] theorem State.modDie_overfull (s : State) (d : Nat) (g : Die → Die) : (s.modDie d g).overfull = s.overfull := rfl
@[simp] theorem State.modDie_tiles (s : State) (d : Nat) (g : Die → Die) : (s.modDie d g).tiles = s.tiles := rfl
@[simp] theorem State.modDie_islands (s : State) (d : Nat) (g : Die → Die) : (s.modDie d g).islands = s.islands := rfl
@[simp] theorem State.modDie_ctxs (s : State) (d : Nat) (g : Die → Die) : (s.modDie d g).ctxs = s.ctxs := rfl
@[simp] theorem State.modDie_ctxDies (s : State) (d : Nat) (g : Die → Die) : (s.modDie d g).ctxDies = s.ctxDies := rfl
@[simp] theorem State.modDie_regions (s : State) (d : Nat) (g : Die → Die) : (s.modDie d g).regions = s.regions := rfl
@[simp] theorem State.modDie_launches (s : State) (d : Nat) (g : Die → Die) : (s.modDie d g).launches = s.launches := rfl
@[simp] theorem State.modDie_drainOps (s : State) (d : Nat) (g : Die → Die) : (s.modDie d g).drainOps = s.drainOps := rfl
@[simp] theorem State.modDie_snaps (s : State) (d : Nat) (g : Die → Die) : (s.modDie d g).snaps = s.snaps := rfl
@[simp] theorem State.modDie_saves (s : State) (d : Nat) (g : Die → Die) : (s.modDie d g).saves = s.saves := rfl
@[simp] theorem State.modDie_pwrCap (s : State) (d : Nat) (g : Die → Die) : (s.modDie d g).pwrCap = s.pwrCap := rfl
@[simp] theorem State.modDie_powers (s : State) (d : Nat) (g : Die → Die) : (s.modDie d g).powers = s.powers := rfl
@[simp] theorem State.modDie_raised (s : State) (d : Nat) (g : Die → Die) : (s.modDie d g).raised = s.raised := rfl
@[simp] theorem State.modDie_stores (s : State) (d : Nat) (g : Die → Die) : (s.modDie d g).stores = s.stores := rfl
@[simp] theorem State.modDie_outbound (s : State) (d : Nat) (g : Die → Die) : (s.modDie d g).outbound = s.outbound := rfl
@[simp] theorem State.modDie_outTokens (s : State) (d : Nat) (g : Die → Die) : (s.modDie d g).outTokens = s.outTokens := rfl
@[simp] theorem State.modDie_mem (s : State) (d : Nat) (g : Die → Die) : (s.modDie d g).mem = s.mem := rfl
@[simp] theorem State.modDie_hostMem (s : State) (d : Nat) (g : Die → Die) : (s.modDie d g).hostMem = s.hostMem := rfl
@[simp] theorem State.modDie_tile (s : State) (d : Nat) (g : Die → Die) (u : TileId) : (s.modDie d g).tile u = s.tile u := rfl
@[simp] theorem State.modDie_island (s : State) (d : Nat) (g : Die → Die) (i n : Nat) : (s.modDie d g).island i n = s.island i n := rfl
@[simp] theorem State.modDie_ctx (s : State) (d : Nat) (g : Die → Die) (n : Nat) : (s.modDie d g).ctx n = s.ctx n := rfl
@[simp] theorem State.modDie_cd (s : State) (d : Nat) (g : Die → Die) (i n : Nat) : (s.modDie d g).cd i n = s.cd i n := rfl
@[simp] theorem State.modDie_region (s : State) (d : Nat) (g : Die → Die) (n : Nat) : (s.modDie d g).region? n = s.region? n := rfl
@[simp] theorem State.modDie_regionCtx (s : State) (d : Nat) (g : Die → Die) (n : Nat) : (s.modDie d g).regionCtx n = s.regionCtx n := rfl
@[simp] theorem State.modDie_level (s : State) (d : Nat) (g : Die → Die) (n : Nat) : (s.modDie d g).level n = s.level n := rfl
@[simp] theorem State.modDie_code (s : State) (d : Nat) (g : Die → Die) (n : Nat) : (s.modDie d g).code n = s.code n := rfl
@[simp] theorem State.modDie_page (s : State) (d : Nat) (g : Die → Die) (i n : Nat) : (s.modDie d g).page? i n = s.page? i n := rfl
@[simp] theorem State.modDie_die_self (s : State) (k : Nat) (g : Die → Die) : (s.modDie k g).die k = g (s.die k) := by
  simp [State.modDie, State.die]
theorem State.modDie_die_ne (s : State) (k n : Nat) (g : Die → Die) (h : n ≠ k) : (s.modDie k g).die n = s.die n := by
  simp [State.modDie, State.die, NMap.getD_put_ne _ _ _ h]

/-! ### modCtx -/

@[simp] theorem State.modCtx_ticks (s : State) (c : Nat) (g : Ctx → Ctx) : (s.modCtx c g).ticks = s.ticks := rfl
@[simp] theorem State.modCtx_cycles (s : State) (c : Nat) (g : Ctx → Ctx) : (s.modCtx c g).cycles = s.cycles := rfl
@[simp] theorem State.modCtx_nextId (s : State) (c : Nat) (g : Ctx → Ctx) : (s.modCtx c g).nextId = s.nextId := rfl
@[simp] theorem State.modCtx_pkg (s : State) (c : Nat) (g : Ctx → Ctx) : (s.modCtx c g).pkg = s.pkg := rfl
@[simp] theorem State.modCtx_agenda (s : State) (c : Nat) (g : Ctx → Ctx) : (s.modCtx c g).agenda = s.agenda := rfl
@[simp] theorem State.modCtx_ready (s : State) (c : Nat) (g : Ctx → Ctx) : (s.modCtx c g).ready = s.ready := rfl
@[simp] theorem State.modCtx_cur (s : State) (c : Nat) (g : Ctx → Ctx) : (s.modCtx c g).cur = s.cur := rfl
@[simp] theorem State.modCtx_ev (s : State) (c : Nat) (g : Ctx → Ctx) : (s.modCtx c g).ev = s.ev := rfl
@[simp] theorem State.modCtx_batch (s : State) (c : Nat) (g : Ctx → Ctx) : (s.modCtx c g).batch = s.batch := rfl
@[simp] theorem State.modCtx_touched (s : State) (c : Nat) (g : Ctx → Ctx) : (s.modCtx c g).touched = s.touched := rfl
@[simp] theorem State.modCtx_overfull (s : State) (c : Nat) (g : Ctx → Ctx) : (s.modCtx c g).overfull = s.overfull := rfl
@[simp] theorem State.modCtx_tiles (s : State) (c : Nat) (g : Ctx → Ctx) : (s.modCtx c g).tiles = s.tiles := rfl
@[simp] theorem State.modCtx_islands (s : State) (c : Nat) (g : Ctx → Ctx) : (s.modCtx c g).islands = s.islands := rfl
@[simp] theorem State.modCtx_dies (s : State) (c : Nat) (g : Ctx → Ctx) : (s.modCtx c g).dies = s.dies := rfl
@[simp] theorem State.modCtx_ctxDies (s : State) (c : Nat) (g : Ctx → Ctx) : (s.modCtx c g).ctxDies = s.ctxDies := rfl
@[simp] theorem State.modCtx_regions (s : State) (c : Nat) (g : Ctx → Ctx) : (s.modCtx c g).regions = s.regions := rfl
@[simp] theorem State.modCtx_launches (s : State) (c : Nat) (g : Ctx → Ctx) : (s.modCtx c g).launches = s.launches := rfl
@[simp] theorem State.modCtx_drainOps (s : State) (c : Nat) (g : Ctx → Ctx) : (s.modCtx c g).drainOps = s.drainOps := rfl
@[simp] theorem State.modCtx_snaps (s : State) (c : Nat) (g : Ctx → Ctx) : (s.modCtx c g).snaps = s.snaps := rfl
@[simp] theorem State.modCtx_saves (s : State) (c : Nat) (g : Ctx → Ctx) : (s.modCtx c g).saves = s.saves := rfl
@[simp] theorem State.modCtx_pwrCap (s : State) (c : Nat) (g : Ctx → Ctx) : (s.modCtx c g).pwrCap = s.pwrCap := rfl
@[simp] theorem State.modCtx_powers (s : State) (c : Nat) (g : Ctx → Ctx) : (s.modCtx c g).powers = s.powers := rfl
@[simp] theorem State.modCtx_raised (s : State) (c : Nat) (g : Ctx → Ctx) : (s.modCtx c g).raised = s.raised := rfl
@[simp] theorem State.modCtx_stores (s : State) (c : Nat) (g : Ctx → Ctx) : (s.modCtx c g).stores = s.stores := rfl
@[simp] theorem State.modCtx_outbound (s : State) (c : Nat) (g : Ctx → Ctx) : (s.modCtx c g).outbound = s.outbound := rfl
@[simp] theorem State.modCtx_outTokens (s : State) (c : Nat) (g : Ctx → Ctx) : (s.modCtx c g).outTokens = s.outTokens := rfl
@[simp] theorem State.modCtx_mem (s : State) (c : Nat) (g : Ctx → Ctx) : (s.modCtx c g).mem = s.mem := rfl
@[simp] theorem State.modCtx_hostMem (s : State) (c : Nat) (g : Ctx → Ctx) : (s.modCtx c g).hostMem = s.hostMem := rfl
@[simp] theorem State.modCtx_tile (s : State) (c : Nat) (g : Ctx → Ctx) (u : TileId) : (s.modCtx c g).tile u = s.tile u := rfl
@[simp] theorem State.modCtx_island (s : State) (c : Nat) (g : Ctx → Ctx) (i n : Nat) : (s.modCtx c g).island i n = s.island i n := rfl
@[simp] theorem State.modCtx_die (s : State) (c : Nat) (g : Ctx → Ctx) (n : Nat) : (s.modCtx c g).die n = s.die n := rfl
@[simp] theorem State.modCtx_cd (s : State) (c : Nat) (g : Ctx → Ctx) (i n : Nat) : (s.modCtx c g).cd i n = s.cd i n := rfl
@[simp] theorem State.modCtx_region (s : State) (c : Nat) (g : Ctx → Ctx) (n : Nat) : (s.modCtx c g).region? n = s.region? n := rfl
@[simp] theorem State.modCtx_regionCtx (s : State) (c : Nat) (g : Ctx → Ctx) (n : Nat) : (s.modCtx c g).regionCtx n = s.regionCtx n := rfl
@[simp] theorem State.modCtx_code (s : State) (c : Nat) (g : Ctx → Ctx) (n : Nat) : (s.modCtx c g).code n = s.code n := rfl
@[simp] theorem State.modCtx_page (s : State) (c : Nat) (g : Ctx → Ctx) (i n : Nat) : (s.modCtx c g).page? i n = s.page? i n := rfl
@[simp] theorem State.modCtx_ctx_self (s : State) (k : Nat) (g : Ctx → Ctx) : (s.modCtx k g).ctx k = g (s.ctx k) := by
  simp [State.modCtx, State.ctx]
theorem State.modCtx_ctx_ne (s : State) (k n : Nat) (g : Ctx → Ctx) (h : n ≠ k) : (s.modCtx k g).ctx n = s.ctx n := by
  simp [State.modCtx, State.ctx, NMap.getD_put_ne _ _ _ h]

/-! ### modCd -/

@[simp] theorem State.modCd_ticks (s : State) (c d : Nat) (g : CtxDie → CtxDie) : (s.modCd c d g).ticks = s.ticks := rfl
@[simp] theorem State.modCd_cycles (s : State) (c d : Nat) (g : CtxDie → CtxDie) : (s.modCd c d g).cycles = s.cycles := rfl
@[simp] theorem State.modCd_nextId (s : State) (c d : Nat) (g : CtxDie → CtxDie) : (s.modCd c d g).nextId = s.nextId := rfl
@[simp] theorem State.modCd_pkg (s : State) (c d : Nat) (g : CtxDie → CtxDie) : (s.modCd c d g).pkg = s.pkg := rfl
@[simp] theorem State.modCd_agenda (s : State) (c d : Nat) (g : CtxDie → CtxDie) : (s.modCd c d g).agenda = s.agenda := rfl
@[simp] theorem State.modCd_ready (s : State) (c d : Nat) (g : CtxDie → CtxDie) : (s.modCd c d g).ready = s.ready := rfl
@[simp] theorem State.modCd_cur (s : State) (c d : Nat) (g : CtxDie → CtxDie) : (s.modCd c d g).cur = s.cur := rfl
@[simp] theorem State.modCd_ev (s : State) (c d : Nat) (g : CtxDie → CtxDie) : (s.modCd c d g).ev = s.ev := rfl
@[simp] theorem State.modCd_batch (s : State) (c d : Nat) (g : CtxDie → CtxDie) : (s.modCd c d g).batch = s.batch := rfl
@[simp] theorem State.modCd_touched (s : State) (c d : Nat) (g : CtxDie → CtxDie) : (s.modCd c d g).touched = s.touched := rfl
@[simp] theorem State.modCd_overfull (s : State) (c d : Nat) (g : CtxDie → CtxDie) : (s.modCd c d g).overfull = s.overfull := rfl
@[simp] theorem State.modCd_tiles (s : State) (c d : Nat) (g : CtxDie → CtxDie) : (s.modCd c d g).tiles = s.tiles := rfl
@[simp] theorem State.modCd_islands (s : State) (c d : Nat) (g : CtxDie → CtxDie) : (s.modCd c d g).islands = s.islands := rfl
@[simp] theorem State.modCd_dies (s : State) (c d : Nat) (g : CtxDie → CtxDie) : (s.modCd c d g).dies = s.dies := rfl
@[simp] theorem State.modCd_ctxs (s : State) (c d : Nat) (g : CtxDie → CtxDie) : (s.modCd c d g).ctxs = s.ctxs := rfl
@[simp] theorem State.modCd_regions (s : State) (c d : Nat) (g : CtxDie → CtxDie) : (s.modCd c d g).regions = s.regions := rfl
@[simp] theorem State.modCd_launches (s : State) (c d : Nat) (g : CtxDie → CtxDie) : (s.modCd c d g).launches = s.launches := rfl
@[simp] theorem State.modCd_drainOps (s : State) (c d : Nat) (g : CtxDie → CtxDie) : (s.modCd c d g).drainOps = s.drainOps := rfl
@[simp] theorem State.modCd_snaps (s : State) (c d : Nat) (g : CtxDie → CtxDie) : (s.modCd c d g).snaps = s.snaps := rfl
@[simp] theorem State.modCd_saves (s : State) (c d : Nat) (g : CtxDie → CtxDie) : (s.modCd c d g).saves = s.saves := rfl
@[simp] theorem State.modCd_pwrCap (s : State) (c d : Nat) (g : CtxDie → CtxDie) : (s.modCd c d g).pwrCap = s.pwrCap := rfl
@[simp] theorem State.modCd_powers (s : State) (c d : Nat) (g : CtxDie → CtxDie) : (s.modCd c d g).powers = s.powers := rfl
@[simp] theorem State.modCd_raised (s : State) (c d : Nat) (g : CtxDie → CtxDie) : (s.modCd c d g).raised = s.raised := rfl
@[simp] theorem State.modCd_stores (s : State) (c d : Nat) (g : CtxDie → CtxDie) : (s.modCd c d g).stores = s.stores := rfl
@[simp] theorem State.modCd_outbound (s : State) (c d : Nat) (g : CtxDie → CtxDie) : (s.modCd c d g).outbound = s.outbound := rfl
@[simp] theorem State.modCd_outTokens (s : State) (c d : Nat) (g : CtxDie → CtxDie) : (s.modCd c d g).outTokens = s.outTokens := rfl
@[simp] theorem State.modCd_mem (s : State) (c d : Nat) (g : CtxDie → CtxDie) : (s.modCd c d g).mem = s.mem := rfl
@[simp] theorem State.modCd_hostMem (s : State) (c d : Nat) (g : CtxDie → CtxDie) : (s.modCd c d g).hostMem = s.hostMem := rfl
@[simp] theorem State.modCd_tile (s : State) (c d : Nat) (g : CtxDie → CtxDie) (u : TileId) : (s.modCd c d g).tile u = s.tile u := rfl
@[simp] theorem State.modCd_island (s : State) (c d : Nat) (g : CtxDie → CtxDie) (i n : Nat) : (s.modCd c d g).island i n = s.island i n := rfl
@[simp] theorem State.modCd_die (s : State) (c d : Nat) (g : CtxDie → CtxDie) (n : Nat) : (s.modCd c d g).die n = s.die n := rfl
@[simp] theorem State.modCd_ctx (s : State) (c d : Nat) (g : CtxDie → CtxDie) (n : Nat) : (s.modCd c d g).ctx n = s.ctx n := rfl
@[simp] theorem State.modCd_region (s : State) (c d : Nat) (g : CtxDie → CtxDie) (n : Nat) : (s.modCd c d g).region? n = s.region? n := rfl
@[simp] theorem State.modCd_regionCtx (s : State) (c d : Nat) (g : CtxDie → CtxDie) (n : Nat) : (s.modCd c d g).regionCtx n = s.regionCtx n := rfl
@[simp] theorem State.modCd_level (s : State) (c d : Nat) (g : CtxDie → CtxDie) (n : Nat) : (s.modCd c d g).level n = s.level n := rfl
@[simp] theorem State.modCd_code (s : State) (c d : Nat) (g : CtxDie → CtxDie) (n : Nat) : (s.modCd c d g).code n = s.code n := rfl
@[simp] theorem State.modCd_cd_self (s : State) (c d : Nat) (g : CtxDie → CtxDie) : (s.modCd c d g).cd c d = g (s.cd c d) := by
  simp [State.modCd, State.cd]
theorem State.modCd_cd_ne (s : State) (c d e n : Nat) (g : CtxDie → CtxDie) (h : cdKey e n ≠ cdKey c d) :
    (s.modCd c d g).cd e n = s.cd e n := by
  simp [State.modCd, State.cd, NMap.getD_put_ne _ _ _ h]

/-! ### setStatus -/

@[simp] theorem State.setStatus_ticks (s : State) (c d b : Nat) : (s.setStatus c d b).ticks = s.ticks := rfl
@[simp] theorem State.setStatus_cycles (s : State) (c d b : Nat) : (s.setStatus c d b).cycles = s.cycles := rfl
@[simp] theorem State.setStatus_nextId (s : State) (c d b : Nat) : (s.setStatus c d b).nextId = s.nextId := rfl
@[simp] theorem State.setStatus_pkg (s : State) (c d b : Nat) : (s.setStatus c d b).pkg = s.pkg := rfl
@[simp] theorem State.setStatus_agenda (s : State) (c d b : Nat) : (s.setStatus c d b).agenda = s.agenda := rfl
@[simp] theorem State.setStatus_ready (s : State) (c d b : Nat) : (s.setStatus c d b).ready = s.ready := rfl
@[simp] theorem State.setStatus_cur (s : State) (c d b : Nat) : (s.setStatus c d b).cur = s.cur := rfl
@[simp] theorem State.setStatus_ev (s : State) (c d b : Nat) : (s.setStatus c d b).ev = s.ev := rfl
@[simp] theorem State.setStatus_batch (s : State) (c d b : Nat) : (s.setStatus c d b).batch = s.batch := rfl
@[simp] theorem State.setStatus_touched (s : State) (c d b : Nat) : (s.setStatus c d b).touched = s.touched := rfl
@[simp] theorem State.setStatus_overfull (s : State) (c d b : Nat) : (s.setStatus c d b).overfull = s.overfull := rfl
@[simp] theorem State.setStatus_tiles (s : State) (c d b : Nat) : (s.setStatus c d b).tiles = s.tiles := rfl
@[simp] theorem State.setStatus_islands (s : State) (c d b : Nat) : (s.setStatus c d b).islands = s.islands := rfl
@[simp] theorem State.setStatus_dies (s : State) (c d b : Nat) : (s.setStatus c d b).dies = s.dies := rfl
@[simp] theorem State.setStatus_ctxs (s : State) (c d b : Nat) : (s.setStatus c d b).ctxs = s.ctxs := rfl
@[simp] theorem State.setStatus_regions (s : State) (c d b : Nat) : (s.setStatus c d b).regions = s.regions := rfl
@[simp] theorem State.setStatus_launches (s : State) (c d b : Nat) : (s.setStatus c d b).launches = s.launches := rfl
@[simp] theorem State.setStatus_drainOps (s : State) (c d b : Nat) : (s.setStatus c d b).drainOps = s.drainOps := rfl
@[simp] theorem State.setStatus_snaps (s : State) (c d b : Nat) : (s.setStatus c d b).snaps = s.snaps := rfl
@[simp] theorem State.setStatus_saves (s : State) (c d b : Nat) : (s.setStatus c d b).saves = s.saves := rfl
@[simp] theorem State.setStatus_pwrCap (s : State) (c d b : Nat) : (s.setStatus c d b).pwrCap = s.pwrCap := rfl
@[simp] theorem State.setStatus_powers (s : State) (c d b : Nat) : (s.setStatus c d b).powers = s.powers := rfl
@[simp] theorem State.setStatus_raised (s : State) (c d b : Nat) : (s.setStatus c d b).raised = s.raised := rfl
@[simp] theorem State.setStatus_stores (s : State) (c d b : Nat) : (s.setStatus c d b).stores = s.stores := rfl
@[simp] theorem State.setStatus_outbound (s : State) (c d b : Nat) : (s.setStatus c d b).outbound = s.outbound := rfl
@[simp] theorem State.setStatus_outTokens (s : State) (c d b : Nat) : (s.setStatus c d b).outTokens = s.outTokens := rfl
@[simp] theorem State.setStatus_mem (s : State) (c d b : Nat) : (s.setStatus c d b).mem = s.mem := rfl
@[simp] theorem State.setStatus_hostMem (s : State) (c d b : Nat) : (s.setStatus c d b).hostMem = s.hostMem := rfl
@[simp] theorem State.setStatus_tile (s : State) (c d b : Nat) (u : TileId) : (s.setStatus c d b).tile u = s.tile u := rfl
@[simp] theorem State.setStatus_island (s : State) (c d b : Nat) (i n : Nat) : (s.setStatus c d b).island i n = s.island i n := rfl
@[simp] theorem State.setStatus_die (s : State) (c d b : Nat) (n : Nat) : (s.setStatus c d b).die n = s.die n := rfl
@[simp] theorem State.setStatus_ctx (s : State) (c d b : Nat) (n : Nat) : (s.setStatus c d b).ctx n = s.ctx n := rfl
@[simp] theorem State.setStatus_region (s : State) (c d b : Nat) (n : Nat) : (s.setStatus c d b).region? n = s.region? n := rfl
@[simp] theorem State.setStatus_regionCtx (s : State) (c d b : Nat) (n : Nat) : (s.setStatus c d b).regionCtx n = s.regionCtx n := rfl
@[simp] theorem State.setStatus_level (s : State) (c d b : Nat) (n : Nat) : (s.setStatus c d b).level n = s.level n := rfl
@[simp] theorem State.setStatus_code (s : State) (c d b : Nat) (n : Nat) : (s.setStatus c d b).code n = s.code n := rfl
@[simp] theorem State.setStatus_status (s : State) (c d b : Nat) :
    ((s.setStatus c d b).cd c d).status = withBit (s.cd c d).status b := by
  simp [State.setStatus]

/-! ### modRegion -/

@[simp] theorem State.modRegion_ticks (s : State) (r : Nat) (g : Region → Region) : (s.modRegion r g).ticks = s.ticks := rfl
@[simp] theorem State.modRegion_cycles (s : State) (r : Nat) (g : Region → Region) : (s.modRegion r g).cycles = s.cycles := rfl
@[simp] theorem State.modRegion_nextId (s : State) (r : Nat) (g : Region → Region) : (s.modRegion r g).nextId = s.nextId := rfl
@[simp] theorem State.modRegion_pkg (s : State) (r : Nat) (g : Region → Region) : (s.modRegion r g).pkg = s.pkg := rfl
@[simp] theorem State.modRegion_agenda (s : State) (r : Nat) (g : Region → Region) : (s.modRegion r g).agenda = s.agenda := rfl
@[simp] theorem State.modRegion_ready (s : State) (r : Nat) (g : Region → Region) : (s.modRegion r g).ready = s.ready := rfl
@[simp] theorem State.modRegion_cur (s : State) (r : Nat) (g : Region → Region) : (s.modRegion r g).cur = s.cur := rfl
@[simp] theorem State.modRegion_ev (s : State) (r : Nat) (g : Region → Region) : (s.modRegion r g).ev = s.ev := rfl
@[simp] theorem State.modRegion_batch (s : State) (r : Nat) (g : Region → Region) : (s.modRegion r g).batch = s.batch := rfl
@[simp] theorem State.modRegion_touched (s : State) (r : Nat) (g : Region → Region) : (s.modRegion r g).touched = s.touched := rfl
@[simp] theorem State.modRegion_overfull (s : State) (r : Nat) (g : Region → Region) : (s.modRegion r g).overfull = s.overfull := rfl
@[simp] theorem State.modRegion_tiles (s : State) (r : Nat) (g : Region → Region) : (s.modRegion r g).tiles = s.tiles := rfl
@[simp] theorem State.modRegion_islands (s : State) (r : Nat) (g : Region → Region) : (s.modRegion r g).islands = s.islands := rfl
@[simp] theorem State.modRegion_dies (s : State) (r : Nat) (g : Region → Region) : (s.modRegion r g).dies = s.dies := rfl
@[simp] theorem State.modRegion_ctxs (s : State) (r : Nat) (g : Region → Region) : (s.modRegion r g).ctxs = s.ctxs := rfl
@[simp] theorem State.modRegion_ctxDies (s : State) (r : Nat) (g : Region → Region) : (s.modRegion r g).ctxDies = s.ctxDies := rfl
@[simp] theorem State.modRegion_launches (s : State) (r : Nat) (g : Region → Region) : (s.modRegion r g).launches = s.launches := rfl
@[simp] theorem State.modRegion_drainOps (s : State) (r : Nat) (g : Region → Region) : (s.modRegion r g).drainOps = s.drainOps := rfl
@[simp] theorem State.modRegion_snaps (s : State) (r : Nat) (g : Region → Region) : (s.modRegion r g).snaps = s.snaps := rfl
@[simp] theorem State.modRegion_saves (s : State) (r : Nat) (g : Region → Region) : (s.modRegion r g).saves = s.saves := rfl
@[simp] theorem State.modRegion_pwrCap (s : State) (r : Nat) (g : Region → Region) : (s.modRegion r g).pwrCap = s.pwrCap := rfl
@[simp] theorem State.modRegion_powers (s : State) (r : Nat) (g : Region → Region) : (s.modRegion r g).powers = s.powers := rfl
@[simp] theorem State.modRegion_raised (s : State) (r : Nat) (g : Region → Region) : (s.modRegion r g).raised = s.raised := rfl
@[simp] theorem State.modRegion_stores (s : State) (r : Nat) (g : Region → Region) : (s.modRegion r g).stores = s.stores := rfl
@[simp] theorem State.modRegion_outbound (s : State) (r : Nat) (g : Region → Region) : (s.modRegion r g).outbound = s.outbound := rfl
@[simp] theorem State.modRegion_outTokens (s : State) (r : Nat) (g : Region → Region) : (s.modRegion r g).outTokens = s.outTokens := rfl
@[simp] theorem State.modRegion_mem (s : State) (r : Nat) (g : Region → Region) : (s.modRegion r g).mem = s.mem := rfl
@[simp] theorem State.modRegion_hostMem (s : State) (r : Nat) (g : Region → Region) : (s.modRegion r g).hostMem = s.hostMem := rfl
@[simp] theorem State.modRegion_tile (s : State) (r : Nat) (g : Region → Region) (u : TileId) : (s.modRegion r g).tile u = s.tile u := rfl
@[simp] theorem State.modRegion_island (s : State) (r : Nat) (g : Region → Region) (i n : Nat) : (s.modRegion r g).island i n = s.island i n := rfl
@[simp] theorem State.modRegion_die (s : State) (r : Nat) (g : Region → Region) (n : Nat) : (s.modRegion r g).die n = s.die n := rfl
@[simp] theorem State.modRegion_ctx (s : State) (r : Nat) (g : Region → Region) (n : Nat) : (s.modRegion r g).ctx n = s.ctx n := rfl
@[simp] theorem State.modRegion_cd (s : State) (r : Nat) (g : Region → Region) (i n : Nat) : (s.modRegion r g).cd i n = s.cd i n := rfl
@[simp] theorem State.modRegion_level (s : State) (r : Nat) (g : Region → Region) (n : Nat) : (s.modRegion r g).level n = s.level n := rfl
@[simp] theorem State.modRegion_code (s : State) (r : Nat) (g : Region → Region) (n : Nat) : (s.modRegion r g).code n = s.code n := rfl
@[simp] theorem State.modRegion_page (s : State) (r : Nat) (g : Region → Region) (i n : Nat) : (s.modRegion r g).page? i n = s.page? i n := rfl
theorem State.modRegion_region_self (s : State) (r : Nat) (g : Region → Region) : (s.modRegion r g).region? r = (s.region? r).map g := by
  unfold State.modRegion State.region? NMap.alter; cases h : NMap.find s.regions r <;> simp [h]

/-! ### post -/

@[simp] theorem State.post_ticks (s : State) (e : Event) : (s.post e).ticks = s.ticks := rfl
@[simp] theorem State.post_cycles (s : State) (e : Event) : (s.post e).cycles = s.cycles := rfl
@[simp] theorem State.post_nextId (s : State) (e : Event) : (s.post e).nextId = s.nextId := rfl
@[simp] theorem State.post_pkg (s : State) (e : Event) : (s.post e).pkg = s.pkg := rfl
@[simp] theorem State.post_ready (s : State) (e : Event) : (s.post e).ready = s.ready := rfl
@[simp] theorem State.post_cur (s : State) (e : Event) : (s.post e).cur = s.cur := rfl
@[simp] theorem State.post_ev (s : State) (e : Event) : (s.post e).ev = s.ev := rfl
@[simp] theorem State.post_batch (s : State) (e : Event) : (s.post e).batch = s.batch := rfl
@[simp] theorem State.post_touched (s : State) (e : Event) : (s.post e).touched = s.touched := rfl
@[simp] theorem State.post_overfull (s : State) (e : Event) : (s.post e).overfull = s.overfull := rfl
@[simp] theorem State.post_tiles (s : State) (e : Event) : (s.post e).tiles = s.tiles := rfl
@[simp] theorem State.post_islands (s : State) (e : Event) : (s.post e).islands = s.islands := rfl
@[simp] theorem State.post_dies (s : State) (e : Event) : (s.post e).dies = s.dies := rfl
@[simp] theorem State.post_ctxs (s : State) (e : Event) : (s.post e).ctxs = s.ctxs := rfl
@[simp] theorem State.post_ctxDies (s : State) (e : Event) : (s.post e).ctxDies = s.ctxDies := rfl
@[simp] theorem State.post_regions (s : State) (e : Event) : (s.post e).regions = s.regions := rfl
@[simp] theorem State.post_launches (s : State) (e : Event) : (s.post e).launches = s.launches := rfl
@[simp] theorem State.post_drainOps (s : State) (e : Event) : (s.post e).drainOps = s.drainOps := rfl
@[simp] theorem State.post_snaps (s : State) (e : Event) : (s.post e).snaps = s.snaps := rfl
@[simp] theorem State.post_saves (s : State) (e : Event) : (s.post e).saves = s.saves := rfl
@[simp] theorem State.post_pwrCap (s : State) (e : Event) : (s.post e).pwrCap = s.pwrCap := rfl
@[simp] theorem State.post_powers (s : State) (e : Event) : (s.post e).powers = s.powers := rfl
@[simp] theorem State.post_raised (s : State) (e : Event) : (s.post e).raised = s.raised := rfl
@[simp] theorem State.post_stores (s : State) (e : Event) : (s.post e).stores = s.stores := rfl
@[simp] theorem State.post_outbound (s : State) (e : Event) : (s.post e).outbound = s.outbound := rfl
@[simp] theorem State.post_outTokens (s : State) (e : Event) : (s.post e).outTokens = s.outTokens := rfl
@[simp] theorem State.post_mem (s : State) (e : Event) : (s.post e).mem = s.mem := rfl
@[simp] theorem State.post_hostMem (s : State) (e : Event) : (s.post e).hostMem = s.hostMem := rfl
@[simp] theorem State.post_tile (s : State) (e : Event) (u : TileId) : (s.post e).tile u = s.tile u := rfl
@[simp] theorem State.post_island (s : State) (e : Event) (i n : Nat) : (s.post e).island i n = s.island i n := rfl
@[simp] theorem State.post_die (s : State) (e : Event) (n : Nat) : (s.post e).die n = s.die n := rfl
@[simp] theorem State.post_ctx (s : State) (e : Event) (n : Nat) : (s.post e).ctx n = s.ctx n := rfl
@[simp] theorem State.post_cd (s : State) (e : Event) (i n : Nat) : (s.post e).cd i n = s.cd i n := rfl
@[simp] theorem State.post_region (s : State) (e : Event) (n : Nat) : (s.post e).region? n = s.region? n := rfl
@[simp] theorem State.post_regionCtx (s : State) (e : Event) (n : Nat) : (s.post e).regionCtx n = s.regionCtx n := rfl
@[simp] theorem State.post_level (s : State) (e : Event) (n : Nat) : (s.post e).level n = s.level n := rfl
@[simp] theorem State.post_code (s : State) (e : Event) (n : Nat) : (s.post e).code n = s.code n := rfl
@[simp] theorem State.post_page (s : State) (e : Event) (i n : Nat) : (s.post e).page? i n = s.page? i n := rfl
@[simp] theorem State.post_agenda (s : State) (e : Event) : (s.post e).agenda = s.agenda ++ [e] := rfl

/-! ### due -/

@[simp] theorem State.due_ticks (s : State) (e : Event) : (s.due e).ticks = s.ticks := by unfold State.due; split <;> rfl
@[simp] theorem State.due_cycles (s : State) (e : Event) : (s.due e).cycles = s.cycles := by unfold State.due; split <;> rfl
@[simp] theorem State.due_nextId (s : State) (e : Event) : (s.due e).nextId = s.nextId := by unfold State.due; split <;> rfl
@[simp] theorem State.due_pkg (s : State) (e : Event) : (s.due e).pkg = s.pkg := by unfold State.due; split <;> rfl
@[simp] theorem State.due_ready (s : State) (e : Event) : (s.due e).ready = s.ready := by unfold State.due; split <;> rfl
@[simp] theorem State.due_cur (s : State) (e : Event) : (s.due e).cur = s.cur := by unfold State.due; split <;> rfl
@[simp] theorem State.due_ev (s : State) (e : Event) : (s.due e).ev = s.ev := by unfold State.due; split <;> rfl
@[simp] theorem State.due_batch (s : State) (e : Event) : (s.due e).batch = s.batch := by unfold State.due; split <;> rfl
@[simp] theorem State.due_touched (s : State) (e : Event) : (s.due e).touched = s.touched := by unfold State.due; split <;> rfl
@[simp] theorem State.due_overfull (s : State) (e : Event) : (s.due e).overfull = s.overfull := by unfold State.due; split <;> rfl
@[simp] theorem State.due_tiles (s : State) (e : Event) : (s.due e).tiles = s.tiles := by unfold State.due; split <;> rfl
@[simp] theorem State.due_islands (s : State) (e : Event) : (s.due e).islands = s.islands := by unfold State.due; split <;> rfl
@[simp] theorem State.due_dies (s : State) (e : Event) : (s.due e).dies = s.dies := by unfold State.due; split <;> rfl
@[simp] theorem State.due_ctxs (s : State) (e : Event) : (s.due e).ctxs = s.ctxs := by unfold State.due; split <;> rfl
@[simp] theorem State.due_ctxDies (s : State) (e : Event) : (s.due e).ctxDies = s.ctxDies := by unfold State.due; split <;> rfl
@[simp] theorem State.due_regions (s : State) (e : Event) : (s.due e).regions = s.regions := by unfold State.due; split <;> rfl
@[simp] theorem State.due_launches (s : State) (e : Event) : (s.due e).launches = s.launches := by unfold State.due; split <;> rfl
@[simp] theorem State.due_drainOps (s : State) (e : Event) : (s.due e).drainOps = s.drainOps := by unfold State.due; split <;> rfl
@[simp] theorem State.due_snaps (s : State) (e : Event) : (s.due e).snaps = s.snaps := by unfold State.due; split <;> rfl
@[simp] theorem State.due_saves (s : State) (e : Event) : (s.due e).saves = s.saves := by unfold State.due; split <;> rfl
@[simp] theorem State.due_pwrCap (s : State) (e : Event) : (s.due e).pwrCap = s.pwrCap := by unfold State.due; split <;> rfl
@[simp] theorem State.due_powers (s : State) (e : Event) : (s.due e).powers = s.powers := by unfold State.due; split <;> rfl
@[simp] theorem State.due_raised (s : State) (e : Event) : (s.due e).raised = s.raised := by unfold State.due; split <;> rfl
@[simp] theorem State.due_stores (s : State) (e : Event) : (s.due e).stores = s.stores := by unfold State.due; split <;> rfl
@[simp] theorem State.due_outbound (s : State) (e : Event) : (s.due e).outbound = s.outbound := by unfold State.due; split <;> rfl
@[simp] theorem State.due_outTokens (s : State) (e : Event) : (s.due e).outTokens = s.outTokens := by unfold State.due; split <;> rfl
@[simp] theorem State.due_mem (s : State) (e : Event) : (s.due e).mem = s.mem := by unfold State.due; split <;> rfl
@[simp] theorem State.due_hostMem (s : State) (e : Event) : (s.due e).hostMem = s.hostMem := by unfold State.due; split <;> rfl
@[simp] theorem State.due_tile (s : State) (e : Event) (u : TileId) : (s.due e).tile u = s.tile u := by unfold State.due; split <;> rfl
@[simp] theorem State.due_island (s : State) (e : Event) (i n : Nat) : (s.due e).island i n = s.island i n := by unfold State.due; split <;> rfl
@[simp] theorem State.due_die (s : State) (e : Event) (n : Nat) : (s.due e).die n = s.die n := by unfold State.due; split <;> rfl
@[simp] theorem State.due_ctx (s : State) (e : Event) (n : Nat) : (s.due e).ctx n = s.ctx n := by unfold State.due; split <;> rfl
@[simp] theorem State.due_cd (s : State) (e : Event) (i n : Nat) : (s.due e).cd i n = s.cd i n := by unfold State.due; split <;> rfl
@[simp] theorem State.due_region (s : State) (e : Event) (n : Nat) : (s.due e).region? n = s.region? n := by unfold State.due; split <;> rfl
@[simp] theorem State.due_regionCtx (s : State) (e : Event) (n : Nat) : (s.due e).regionCtx n = s.regionCtx n := by unfold State.due; split <;> rfl
@[simp] theorem State.due_level (s : State) (e : Event) (n : Nat) : (s.due e).level n = s.level n := by unfold State.due; split <;> rfl
@[simp] theorem State.due_code (s : State) (e : Event) (n : Nat) : (s.due e).code n = s.code n := by unfold State.due; split <;> rfl
@[simp] theorem State.due_page (s : State) (e : Event) (i n : Nat) : (s.due e).page? i n = s.page? i n := by unfold State.due; split <;> rfl
theorem State.mem_due (s : State) (e : Event) : e ∈ (s.due e).agenda := by
  unfold State.due; split <;> simp_all [State.post]

/-! ### addReady -/

@[simp] theorem State.addReady_ticks (s : State) (fi : Firing) : (s.addReady fi).ticks = s.ticks := rfl
@[simp] theorem State.addReady_cycles (s : State) (fi : Firing) : (s.addReady fi).cycles = s.cycles := rfl
@[simp] theorem State.addReady_nextId (s : State) (fi : Firing) : (s.addReady fi).nextId = s.nextId := rfl
@[simp] theorem State.addReady_pkg (s : State) (fi : Firing) : (s.addReady fi).pkg = s.pkg := rfl
@[simp] theorem State.addReady_agenda (s : State) (fi : Firing) : (s.addReady fi).agenda = s.agenda := rfl
@[simp] theorem State.addReady_cur (s : State) (fi : Firing) : (s.addReady fi).cur = s.cur := rfl
@[simp] theorem State.addReady_ev (s : State) (fi : Firing) : (s.addReady fi).ev = s.ev := rfl
@[simp] theorem State.addReady_batch (s : State) (fi : Firing) : (s.addReady fi).batch = s.batch := rfl
@[simp] theorem State.addReady_touched (s : State) (fi : Firing) : (s.addReady fi).touched = s.touched := rfl
@[simp] theorem State.addReady_overfull (s : State) (fi : Firing) : (s.addReady fi).overfull = s.overfull := rfl
@[simp] theorem State.addReady_tiles (s : State) (fi : Firing) : (s.addReady fi).tiles = s.tiles := rfl
@[simp] theorem State.addReady_islands (s : State) (fi : Firing) : (s.addReady fi).islands = s.islands := rfl
@[simp] theorem State.addReady_dies (s : State) (fi : Firing) : (s.addReady fi).dies = s.dies := rfl
@[simp] theorem State.addReady_ctxs (s : State) (fi : Firing) : (s.addReady fi).ctxs = s.ctxs := rfl
@[simp] theorem State.addReady_ctxDies (s : State) (fi : Firing) : (s.addReady fi).ctxDies = s.ctxDies := rfl
@[simp] theorem State.addReady_regions (s : State) (fi : Firing) : (s.addReady fi).regions = s.regions := rfl
@[simp] theorem State.addReady_launches (s : State) (fi : Firing) : (s.addReady fi).launches = s.launches := rfl
@[simp] theorem State.addReady_drainOps (s : State) (fi : Firing) : (s.addReady fi).drainOps = s.drainOps := rfl
@[simp] theorem State.addReady_snaps (s : State) (fi : Firing) : (s.addReady fi).snaps = s.snaps := rfl
@[simp] theorem State.addReady_saves (s : State) (fi : Firing) : (s.addReady fi).saves = s.saves := rfl
@[simp] theorem State.addReady_pwrCap (s : State) (fi : Firing) : (s.addReady fi).pwrCap = s.pwrCap := rfl
@[simp] theorem State.addReady_powers (s : State) (fi : Firing) : (s.addReady fi).powers = s.powers := rfl
@[simp] theorem State.addReady_raised (s : State) (fi : Firing) : (s.addReady fi).raised = s.raised := rfl
@[simp] theorem State.addReady_stores (s : State) (fi : Firing) : (s.addReady fi).stores = s.stores := rfl
@[simp] theorem State.addReady_outbound (s : State) (fi : Firing) : (s.addReady fi).outbound = s.outbound := rfl
@[simp] theorem State.addReady_outTokens (s : State) (fi : Firing) : (s.addReady fi).outTokens = s.outTokens := rfl
@[simp] theorem State.addReady_mem (s : State) (fi : Firing) : (s.addReady fi).mem = s.mem := rfl
@[simp] theorem State.addReady_hostMem (s : State) (fi : Firing) : (s.addReady fi).hostMem = s.hostMem := rfl
@[simp] theorem State.addReady_tile (s : State) (fi : Firing) (u : TileId) : (s.addReady fi).tile u = s.tile u := rfl
@[simp] theorem State.addReady_island (s : State) (fi : Firing) (i n : Nat) : (s.addReady fi).island i n = s.island i n := rfl
@[simp] theorem State.addReady_die (s : State) (fi : Firing) (n : Nat) : (s.addReady fi).die n = s.die n := rfl
@[simp] theorem State.addReady_ctx (s : State) (fi : Firing) (n : Nat) : (s.addReady fi).ctx n = s.ctx n := rfl
@[simp] theorem State.addReady_cd (s : State) (fi : Firing) (i n : Nat) : (s.addReady fi).cd i n = s.cd i n := rfl
@[simp] theorem State.addReady_region (s : State) (fi : Firing) (n : Nat) : (s.addReady fi).region? n = s.region? n := rfl
@[simp] theorem State.addReady_regionCtx (s : State) (fi : Firing) (n : Nat) : (s.addReady fi).regionCtx n = s.regionCtx n := rfl
@[simp] theorem State.addReady_level (s : State) (fi : Firing) (n : Nat) : (s.addReady fi).level n = s.level n := rfl
@[simp] theorem State.addReady_code (s : State) (fi : Firing) (n : Nat) : (s.addReady fi).code n = s.code n := rfl
@[simp] theorem State.addReady_page (s : State) (fi : Firing) (i n : Nat) : (s.addReady fi).page? i n = s.page? i n := rfl
@[simp] theorem State.addReady_ready (s : State) (fi : Firing) : (s.addReady fi).ready = s.ready ++ [fi] := rfl

/-! ### dropEvents -/

@[simp] theorem State.dropEvents_ticks (s : State) (p : Event → Bool) : (s.dropEvents p).ticks = s.ticks := rfl
@[simp] theorem State.dropEvents_cycles (s : State) (p : Event → Bool) : (s.dropEvents p).cycles = s.cycles := rfl
@[simp] theorem State.dropEvents_nextId (s : State) (p : Event → Bool) : (s.dropEvents p).nextId = s.nextId := rfl
@[simp] theorem State.dropEvents_pkg (s : State) (p : Event → Bool) : (s.dropEvents p).pkg = s.pkg := rfl
@[simp] theorem State.dropEvents_ready (s : State) (p : Event → Bool) : (s.dropEvents p).ready = s.ready := rfl
@[simp] theorem State.dropEvents_cur (s : State) (p : Event → Bool) : (s.dropEvents p).cur = s.cur := rfl
@[simp] theorem State.dropEvents_ev (s : State) (p : Event → Bool) : (s.dropEvents p).ev = s.ev := rfl
@[simp] theorem State.dropEvents_batch (s : State) (p : Event → Bool) : (s.dropEvents p).batch = s.batch := rfl
@[simp] theorem State.dropEvents_touched (s : State) (p : Event → Bool) : (s.dropEvents p).touched = s.touched := rfl
@[simp] theorem State.dropEvents_overfull (s : State) (p : Event → Bool) : (s.dropEvents p).overfull = s.overfull := rfl
@[simp] theorem State.dropEvents_tiles (s : State) (p : Event → Bool) : (s.dropEvents p).tiles = s.tiles := rfl
@[simp] theorem State.dropEvents_islands (s : State) (p : Event → Bool) : (s.dropEvents p).islands = s.islands := rfl
@[simp] theorem State.dropEvents_dies (s : State) (p : Event → Bool) : (s.dropEvents p).dies = s.dies := rfl
@[simp] theorem State.dropEvents_ctxs (s : State) (p : Event → Bool) : (s.dropEvents p).ctxs = s.ctxs := rfl
@[simp] theorem State.dropEvents_ctxDies (s : State) (p : Event → Bool) : (s.dropEvents p).ctxDies = s.ctxDies := rfl
@[simp] theorem State.dropEvents_regions (s : State) (p : Event → Bool) : (s.dropEvents p).regions = s.regions := rfl
@[simp] theorem State.dropEvents_launches (s : State) (p : Event → Bool) : (s.dropEvents p).launches = s.launches := rfl
@[simp] theorem State.dropEvents_drainOps (s : State) (p : Event → Bool) : (s.dropEvents p).drainOps = s.drainOps := rfl
@[simp] theorem State.dropEvents_snaps (s : State) (p : Event → Bool) : (s.dropEvents p).snaps = s.snaps := rfl
@[simp] theorem State.dropEvents_saves (s : State) (p : Event → Bool) : (s.dropEvents p).saves = s.saves := rfl
@[simp] theorem State.dropEvents_pwrCap (s : State) (p : Event → Bool) : (s.dropEvents p).pwrCap = s.pwrCap := rfl
@[simp] theorem State.dropEvents_powers (s : State) (p : Event → Bool) : (s.dropEvents p).powers = s.powers := rfl
@[simp] theorem State.dropEvents_raised (s : State) (p : Event → Bool) : (s.dropEvents p).raised = s.raised := rfl
@[simp] theorem State.dropEvents_stores (s : State) (p : Event → Bool) : (s.dropEvents p).stores = s.stores := rfl
@[simp] theorem State.dropEvents_outbound (s : State) (p : Event → Bool) : (s.dropEvents p).outbound = s.outbound := rfl
@[simp] theorem State.dropEvents_outTokens (s : State) (p : Event → Bool) : (s.dropEvents p).outTokens = s.outTokens := rfl
@[simp] theorem State.dropEvents_mem (s : State) (p : Event → Bool) : (s.dropEvents p).mem = s.mem := rfl
@[simp] theorem State.dropEvents_hostMem (s : State) (p : Event → Bool) : (s.dropEvents p).hostMem = s.hostMem := rfl
@[simp] theorem State.dropEvents_tile (s : State) (p : Event → Bool) (u : TileId) : (s.dropEvents p).tile u = s.tile u := rfl
@[simp] theorem State.dropEvents_island (s : State) (p : Event → Bool) (i n : Nat) : (s.dropEvents p).island i n = s.island i n := rfl
@[simp] theorem State.dropEvents_die (s : State) (p : Event → Bool) (n : Nat) : (s.dropEvents p).die n = s.die n := rfl
@[simp] theorem State.dropEvents_ctx (s : State) (p : Event → Bool) (n : Nat) : (s.dropEvents p).ctx n = s.ctx n := rfl
@[simp] theorem State.dropEvents_cd (s : State) (p : Event → Bool) (i n : Nat) : (s.dropEvents p).cd i n = s.cd i n := rfl
@[simp] theorem State.dropEvents_region (s : State) (p : Event → Bool) (n : Nat) : (s.dropEvents p).region? n = s.region? n := rfl
@[simp] theorem State.dropEvents_regionCtx (s : State) (p : Event → Bool) (n : Nat) : (s.dropEvents p).regionCtx n = s.regionCtx n := rfl
@[simp] theorem State.dropEvents_level (s : State) (p : Event → Bool) (n : Nat) : (s.dropEvents p).level n = s.level n := rfl
@[simp] theorem State.dropEvents_code (s : State) (p : Event → Bool) (n : Nat) : (s.dropEvents p).code n = s.code n := rfl
@[simp] theorem State.dropEvents_page (s : State) (p : Event → Bool) (i n : Nat) : (s.dropEvents p).page? i n = s.page? i n := rfl

/-! ### fetched -/

@[simp] theorem State.fetched_ticks (s : State) (fi : Firing) : (s.fetched fi).ticks = s.ticks := rfl
@[simp] theorem State.fetched_cycles (s : State) (fi : Firing) : (s.fetched fi).cycles = s.cycles := rfl
@[simp] theorem State.fetched_nextId (s : State) (fi : Firing) : (s.fetched fi).nextId = s.nextId := rfl
@[simp] theorem State.fetched_pkg (s : State) (fi : Firing) : (s.fetched fi).pkg = s.pkg := rfl
@[simp] theorem State.fetched_agenda (s : State) (fi : Firing) : (s.fetched fi).agenda = s.agenda := rfl
@[simp] theorem State.fetched_ev (s : State) (fi : Firing) : (s.fetched fi).ev = s.ev := rfl
@[simp] theorem State.fetched_batch (s : State) (fi : Firing) : (s.fetched fi).batch = s.batch := rfl
@[simp] theorem State.fetched_touched (s : State) (fi : Firing) : (s.fetched fi).touched = s.touched := rfl
@[simp] theorem State.fetched_overfull (s : State) (fi : Firing) : (s.fetched fi).overfull = s.overfull := rfl
@[simp] theorem State.fetched_tiles (s : State) (fi : Firing) : (s.fetched fi).tiles = s.tiles := rfl
@[simp] theorem State.fetched_islands (s : State) (fi : Firing) : (s.fetched fi).islands = s.islands := rfl
@[simp] theorem State.fetched_dies (s : State) (fi : Firing) : (s.fetched fi).dies = s.dies := rfl
@[simp] theorem State.fetched_ctxs (s : State) (fi : Firing) : (s.fetched fi).ctxs = s.ctxs := rfl
@[simp] theorem State.fetched_ctxDies (s : State) (fi : Firing) : (s.fetched fi).ctxDies = s.ctxDies := rfl
@[simp] theorem State.fetched_regions (s : State) (fi : Firing) : (s.fetched fi).regions = s.regions := rfl
@[simp] theorem State.fetched_launches (s : State) (fi : Firing) : (s.fetched fi).launches = s.launches := rfl
@[simp] theorem State.fetched_drainOps (s : State) (fi : Firing) : (s.fetched fi).drainOps = s.drainOps := rfl
@[simp] theorem State.fetched_snaps (s : State) (fi : Firing) : (s.fetched fi).snaps = s.snaps := rfl
@[simp] theorem State.fetched_saves (s : State) (fi : Firing) : (s.fetched fi).saves = s.saves := rfl
@[simp] theorem State.fetched_pwrCap (s : State) (fi : Firing) : (s.fetched fi).pwrCap = s.pwrCap := rfl
@[simp] theorem State.fetched_powers (s : State) (fi : Firing) : (s.fetched fi).powers = s.powers := rfl
@[simp] theorem State.fetched_raised (s : State) (fi : Firing) : (s.fetched fi).raised = s.raised := rfl
@[simp] theorem State.fetched_stores (s : State) (fi : Firing) : (s.fetched fi).stores = s.stores := rfl
@[simp] theorem State.fetched_outbound (s : State) (fi : Firing) : (s.fetched fi).outbound = s.outbound := rfl
@[simp] theorem State.fetched_outTokens (s : State) (fi : Firing) : (s.fetched fi).outTokens = s.outTokens := rfl
@[simp] theorem State.fetched_mem (s : State) (fi : Firing) : (s.fetched fi).mem = s.mem := rfl
@[simp] theorem State.fetched_hostMem (s : State) (fi : Firing) : (s.fetched fi).hostMem = s.hostMem := rfl
@[simp] theorem State.fetched_tile (s : State) (fi : Firing) (u : TileId) : (s.fetched fi).tile u = s.tile u := rfl
@[simp] theorem State.fetched_island (s : State) (fi : Firing) (i n : Nat) : (s.fetched fi).island i n = s.island i n := rfl
@[simp] theorem State.fetched_die (s : State) (fi : Firing) (n : Nat) : (s.fetched fi).die n = s.die n := rfl
@[simp] theorem State.fetched_ctx (s : State) (fi : Firing) (n : Nat) : (s.fetched fi).ctx n = s.ctx n := rfl
@[simp] theorem State.fetched_cd (s : State) (fi : Firing) (i n : Nat) : (s.fetched fi).cd i n = s.cd i n := rfl
@[simp] theorem State.fetched_region (s : State) (fi : Firing) (n : Nat) : (s.fetched fi).region? n = s.region? n := rfl
@[simp] theorem State.fetched_regionCtx (s : State) (fi : Firing) (n : Nat) : (s.fetched fi).regionCtx n = s.regionCtx n := rfl
@[simp] theorem State.fetched_level (s : State) (fi : Firing) (n : Nat) : (s.fetched fi).level n = s.level n := rfl
@[simp] theorem State.fetched_code (s : State) (fi : Firing) (n : Nat) : (s.fetched fi).code n = s.code n := rfl
@[simp] theorem State.fetched_page (s : State) (fi : Firing) (i n : Nat) : (s.fetched fi).page? i n = s.page? i n := rfl
@[simp] theorem State.fetched_cur (s : State) (fi : Firing) : (s.fetched fi).cur = fi := rfl

/-! ### started -/

@[simp] theorem State.started_ticks (s : State) (e : Event) : (s.started e).ticks = s.ticks := rfl
@[simp] theorem State.started_cycles (s : State) (e : Event) : (s.started e).cycles = s.cycles := rfl
@[simp] theorem State.started_nextId (s : State) (e : Event) : (s.started e).nextId = s.nextId := rfl
@[simp] theorem State.started_pkg (s : State) (e : Event) : (s.started e).pkg = s.pkg := rfl
@[simp] theorem State.started_ready (s : State) (e : Event) : (s.started e).ready = s.ready := rfl
@[simp] theorem State.started_cur (s : State) (e : Event) : (s.started e).cur = s.cur := rfl
@[simp] theorem State.started_batch (s : State) (e : Event) : (s.started e).batch = s.batch := rfl
@[simp] theorem State.started_touched (s : State) (e : Event) : (s.started e).touched = s.touched := rfl
@[simp] theorem State.started_overfull (s : State) (e : Event) : (s.started e).overfull = s.overfull := rfl
@[simp] theorem State.started_tiles (s : State) (e : Event) : (s.started e).tiles = s.tiles := rfl
@[simp] theorem State.started_islands (s : State) (e : Event) : (s.started e).islands = s.islands := rfl
@[simp] theorem State.started_dies (s : State) (e : Event) : (s.started e).dies = s.dies := rfl
@[simp] theorem State.started_ctxs (s : State) (e : Event) : (s.started e).ctxs = s.ctxs := rfl
@[simp] theorem State.started_ctxDies (s : State) (e : Event) : (s.started e).ctxDies = s.ctxDies := rfl
@[simp] theorem State.started_regions (s : State) (e : Event) : (s.started e).regions = s.regions := rfl
@[simp] theorem State.started_launches (s : State) (e : Event) : (s.started e).launches = s.launches := rfl
@[simp] theorem State.started_drainOps (s : State) (e : Event) : (s.started e).drainOps = s.drainOps := rfl
@[simp] theorem State.started_snaps (s : State) (e : Event) : (s.started e).snaps = s.snaps := rfl
@[simp] theorem State.started_saves (s : State) (e : Event) : (s.started e).saves = s.saves := rfl
@[simp] theorem State.started_pwrCap (s : State) (e : Event) : (s.started e).pwrCap = s.pwrCap := rfl
@[simp] theorem State.started_powers (s : State) (e : Event) : (s.started e).powers = s.powers := rfl
@[simp] theorem State.started_raised (s : State) (e : Event) : (s.started e).raised = s.raised := rfl
@[simp] theorem State.started_stores (s : State) (e : Event) : (s.started e).stores = s.stores := rfl
@[simp] theorem State.started_outbound (s : State) (e : Event) : (s.started e).outbound = s.outbound := rfl
@[simp] theorem State.started_outTokens (s : State) (e : Event) : (s.started e).outTokens = s.outTokens := rfl
@[simp] theorem State.started_mem (s : State) (e : Event) : (s.started e).mem = s.mem := rfl
@[simp] theorem State.started_hostMem (s : State) (e : Event) : (s.started e).hostMem = s.hostMem := rfl
@[simp] theorem State.started_tile (s : State) (e : Event) (u : TileId) : (s.started e).tile u = s.tile u := rfl
@[simp] theorem State.started_island (s : State) (e : Event) (i n : Nat) : (s.started e).island i n = s.island i n := rfl
@[simp] theorem State.started_die (s : State) (e : Event) (n : Nat) : (s.started e).die n = s.die n := rfl
@[simp] theorem State.started_ctx (s : State) (e : Event) (n : Nat) : (s.started e).ctx n = s.ctx n := rfl
@[simp] theorem State.started_cd (s : State) (e : Event) (i n : Nat) : (s.started e).cd i n = s.cd i n := rfl
@[simp] theorem State.started_region (s : State) (e : Event) (n : Nat) : (s.started e).region? n = s.region? n := rfl
@[simp] theorem State.started_regionCtx (s : State) (e : Event) (n : Nat) : (s.started e).regionCtx n = s.regionCtx n := rfl
@[simp] theorem State.started_level (s : State) (e : Event) (n : Nat) : (s.started e).level n = s.level n := rfl
@[simp] theorem State.started_code (s : State) (e : Event) (n : Nat) : (s.started e).code n = s.code n := rfl
@[simp] theorem State.started_page (s : State) (e : Event) (i n : Nat) : (s.started e).page? i n = s.page? i n := rfl
@[simp] theorem State.started_ev (s : State) (e : Event) : (s.started e).ev = e := rfl

end Sys2Proof.Machine
end

