-- ==== Sys2Proof/Tests/Slice0.lean ====
section
/-! SUPPORT. Tests and witnesses: ill-formed terms that WellFormed refuses, words of the spec that decode to what it says, and for every
obligation with hypotheses a state and operands that meet them, clause by clause, at the boundaries of the ranges. -/

set_option Elab.async false

open Sys2Proof Sys2Proof.Machine

namespace Sys2Proof.Tests

/-- Each check of 02 R39 that a station alone decides refuses a station that fails it; the code is the first one that fails. -/
theorem test_illformed_minor_and_ext :
    stationFails 0x01 0x2B 0 ⟨0, 0, 0x0A, 0x7F, 0, 0, 0, 0, 10, 0, 0, 0, 0⟩ = true
    ∧ stationFails 0x01 0x00 0 ⟨0, 0, 0x0A, 0x7F, 0, 0, 0, 0, 10, 0, 0, 0, 0⟩ = true
    ∧ stationFails 0x02 0x01 16 ⟨0, 0, 0x0A, 0x7F, 0, 0, 0, 0, 10, 0, 0, 0, 0⟩ = true
    ∧ (Instr.ialuAdd ⟨0, 0, 0x0A, 0x7F, 0, 0, 1, 0, 10, 0, 0, 0, 0⟩).failing = some 0x03 := by decide
theorem test_illformed_destinations :
    (Instr.ialuAdd ⟨0, 0, 0x60, 0x7F, 0, 0, 0, 0, 10, 0, 0, 0, 0⟩).failing = some 0x04
    ∧ (Instr.ialuAdd ⟨0, 0, 0x0A, 0x7E, 0, 0, 0, 0, 10, 0, 0, 0, 0⟩).failing = some 0x04
    ∧ (Instr.gateDup ⟨0, 3, 0x0A, 0x7F, 0, 0, 0, 0, 0, 0, 0, 0, 0x7F60⟩).failing = some 0x04
    ∧ (Instr.ialuAdd ⟨0, 0, 0x58, 0x7F, 0, 0, 0, 0, 10, 0, 0, 0, 0⟩).failing = some 0x07
    ∧ (Instr.mmaMrow ⟨0, 3, 0x40, 0x7F, 0, 0, 0, 0, 7, 0, 0, 0, 1⟩).failing = some 0x15 := by decide
theorem test_illformed_tag_action_and_sources :
    (Instr.ialuAdd ⟨0, 0, 0x0A, 0x7F, 9, 0, 0, 0, 10, 0, 0, 0, 0⟩).failing = some 0x08
    ∧ (Instr.ialuAdd ⟨2, 2, 0x0A, 0x7F, 0, 0, 0, 0, 10, 0, 0, 0, 0⟩).failing = some 0x09
    ∧ (Instr.ialuNot ⟨0, 0, 0x0A, 0x7F, 0, 0, 0, 0, 10, 0, 0, 0, 0⟩).failing = some 0x0A
    ∧ (Instr.vfmaFma ⟨0, 1, 0x0A, 0x7F, 0, 0, 0, 0, 2, 0, 0, 0, 0⟩).failing = some 0x0B
    ∧ (Instr.ialuAdd ⟨0, 0, 0x0A, 0x7F, 0, 0, 0, 0, 10, 0, 1, 0, 0⟩).failing = some 0x0E := by decide
theorem test_illformed_types_modifiers_literal :
    (Instr.ialuAdd ⟨0, 0, 0x0A, 0x7F, 0, 0, 0, 0, 1, 0, 0, 0, 0⟩).failing = some 0x0C
    ∧ (Instr.ialuAdd ⟨0, 0, 0x0A, 0x7F, 0, 0, 0, 0, 18, 0, 0, 0, 0⟩).failing = some 0x0C
    ∧ (Instr.vfarithFadd ⟨0, 0, 0x0A, 0x7F, 0, 0, 0, 0, 1, 2, 0, 0, 0⟩).failing = some 0x0C
    ∧ (Instr.ialuAdd ⟨0, 0, 0x0A, 0x7F, 0, 0, 0, 0x40, 10, 0, 0, 0, 0⟩).failing = some 0x0D
    ∧ (Instr.ldLd ⟨0, 0, 0x0A, 0x7F, 0, 0, 0, 0x04, 10, 0, 0, 0, 0⟩).failing = some 0x0D
    ∧ (Instr.vfmaFma ⟨0, 0, 0x0A, 0x7F, 0, 0, 0, 0, 2, 0, 0, 0, 0x400⟩).failing = some 0x13 := by decide

/-- 02 R34, R35: a reserved class and an unassigned minor are refused by name; an instruction that is not twelve bytes has none. -/
theorem test_decode_refusals :
    decode 0xAC000000 0 = .error (.reservedMajor 0x2B)
    ∧ decode 0x00000000 0 = .error (.reservedMajor 0)
    ∧ decode 0xA8000000 0x0400000000000000 = .error (.unassignedMinor 0x2A 4)
    ∧ decode 0x04000000 0x1000000000000000 = .error (.unassignedMinor 0x01 16) := by decide
/-- Worked encodings of 04 to 07, 12 and 13: the words beside their assembly lines. -/
theorem test_decode_spec_words_a :
    decode 0x40217F00 0x3 = .ok (.exitExit ⟨0, 0, 0x42, 0x7f, 0, 0, 0, 0, 0, 0, 0, 0, 0x3⟩)
    ∧ decode 0x40E3FF00 0x0100000000000000 = .ok (.exitAbort ⟨0, 3, 0x47, 0x7f, 0, 0, 0, 0, 0, 0, 0, 0, 0x0⟩)
    ∧ decode 0x44CF7F00 0x0200000000088083 = .ok (.stateSacc ⟨0, 3, 0x1e, 0x7f, 0, 0, 0, 0, 0, 0, 0, 0, 0x88083⟩)
    ∧ decode 0x3C207F00 0x0100000000000000 = .ok (.joinJoinall ⟨0, 0, 0x40, 0x7f, 0, 0, 0, 0, 0, 0, 0, 0, 0x0⟩)
    ∧ decode 0x6CC47F00 0x0100380000000001 = .ok (.mmaMrow ⟨0, 3, 0x8, 0x7f, 0, 0, 0, 0, 7, 0, 0, 0, 0x1⟩)
    ∧ decode 0x80CEFF00 0x0000080000000000 = .ok (.smaxSmref ⟨0, 3, 0x1d, 0x7f, 0, 0, 0, 0, 1, 0, 0, 0, 0x0⟩)
    ∧ decode 0x04065200 0x0020500000000000 = .ok (.ialuAdd ⟨0, 0, 0xc, 0x52, 0, 0, 0, 32, 10, 0, 0, 0, 0x0⟩)
    ∧ decode 0x0C457F00 0x0200000000000603 = .ok (.addrAscale ⟨0, 1, 0xa, 0x7f, 0, 0, 0, 0, 0, 0, 0, 0, 0x603⟩)
    ∧ decode 0x10097F00 0x0000100000000124 = .ok (.vfmaFma ⟨0, 0, 0x12, 0x7f, 0, 0, 0, 0, 2, 0, 0, 0, 0x124⟩)
    ∧ decode 0x18477F00 0x040009C000000001 = .ok (.vcvtUnmx ⟨0, 1, 0xe, 0x7f, 0, 0, 0, 0, 1, 7, 0, 0, 0x1⟩)
    ∧ decode 0x24C17F00 0x00006800A8000003 = .ok (.vpermBcast ⟨0, 3, 0x2, 0x7f, 0, 0, 0, 0, 13, 0, 0, 0, 0xa8000003⟩)
    ∧ decode 0x28030A00 0x0000000000000001 = .ok (.steerSteer ⟨0, 0, 0x6, 0xa, 0, 0, 0, 0, 0, 0, 0, 0, 0x1⟩) := by
  refine ⟨rfl, rfl, rfl, rfl, rfl, rfl, rfl, rfl, rfl, rfl, rfl, rfl⟩

/-- Worked encodings of 10, 14 to 16, 18 and 19, and of 17. -/
theorem test_decode_spec_words_b :
    decode 0x842CFF00 0x0100780000000000 = .ok (.rmtRst ⟨0, 0, 0x59, 0x7f, 0, 0, 0, 0, 15, 0, 0, 0, 0x0⟩)
    ∧ decode 0x88075A00 0x0100000000000003 = .ok (.rrelRelflag ⟨0, 0, 0xe, 0x5a, 0, 0, 0, 0, 0, 0, 0, 0, 0x3⟩)
    ∧ decode 0x88C5FF00 0x0 = .ok (.rrelRelopen ⟨0, 3, 0xb, 0x7f, 0, 0, 0, 0, 0, 0, 0, 0, 0x0⟩)
    ∧ decode 0x8CC45800 0x0 = .ok (.netPost ⟨0, 3, 0x8, 0x58, 0, 0, 0, 0, 0, 0, 0, 0, 0x0⟩)
    ∧ decode 0x8C887F00 0x0140000200000005 = .ok (.netWait ⟨0, 2, 0x10, 0x7f, 0, 0, 0, 64, 0, 0, 0, 2, 0x5⟩)
    ∧ decode 0x90071200 0x0100000000000001 = .ok (.gramMask ⟨0, 0, 0xe, 0x12, 0, 0, 0, 0, 0, 0, 0, 0, 0x1⟩)
    ∧ decode 0x90057F00 0x0 = .ok (.gramStep ⟨0, 0, 0xa, 0x7f, 0, 0, 0, 0, 0, 0, 0, 0, 0x0⟩)
    ∧ decode 0x90C17F00 0x0400000000000000 = .ok (.gramGreset ⟨0, 3, 0x2, 0x7f, 0, 0, 0, 0, 0, 0, 0, 0, 0x0⟩)
    ∧ decode 0x94EC7F00 0x8 = .ok (.xferCopy ⟨0, 3, 0x58, 0x7f, 0, 0, 0, 0, 0, 0, 0, 0, 0x8⟩)
    ∧ decode 0xA4C47F00 0x0 = .ok (.accnIntv ⟨0, 3, 0x8, 0x7f, 0, 0, 0, 0, 0, 0, 0, 0, 0x0⟩)
    ∧ decode 0xA4087F00 0x0100000000000005 = .ok (.accnArec ⟨0, 0, 0x10, 0x7f, 0, 0, 0, 0, 0, 0, 0, 0, 0x5⟩)
    ∧ decode 0x9CC67F00 0x3 = .ok (.trapTrap ⟨0, 3, 0xc, 0x7f, 0, 0, 0, 0, 0, 0, 0, 0, 0x3⟩)
    ∧ decode 0x9C057F00 0x0100000000000000 = .ok (.trapTret ⟨0, 0, 0xa, 0x7f, 0, 0, 0, 0, 0, 0, 0, 0, 0x0⟩)
    ∧ decode 0x98827F00 0x0300000100000000 = .ok (.sysCtxst ⟨0, 2, 0x4, 0x7f, 0, 0, 0, 0, 0, 0, 0, 1, 0x0⟩)
    ∧ decode 0xA0057F00 0x0100000000000007 = .ok (.dbgTrace ⟨0, 0, 0xa, 0x7f, 0, 0, 0, 0, 0, 0, 0, 0, 0x7⟩)
    ∧ decode 0xA0E9FF00 0x020000000000000C = .ok (.dbgHist ⟨0, 3, 0x53, 0x7f, 0, 0, 0, 0, 0, 0, 0, 0, 0xc⟩) := by
  refine ⟨rfl, rfl, rfl, rfl, rfl, rfl, rfl, rfl, rfl, rfl, rfl, rfl, rfl, rfl, rfl, rfl⟩
/-- IALU: the word and side entry of its first minor bit by bit, in the order of the fields of 02 R22 and R30. -/
theorem test_decode_ialu :
    let f : Fields := ⟨0, 2, 0xc, 0x52, 1, 1, 0, 0x20, 10, 0, 0, 5, 0x89abcdef⟩
    decode (0b000001#6 ++ 0b00#2 ++ 0b10#2 ++ 0b0001100#7 ++ 0b1010010#7 ++ 0b0001#4 ++ 0b01#2 ++ 0b00#2)
        (0b00000000#8 ++ 0b00100000#8 ++ 0b01010#5 ++ 0b00000#5 ++ 0b000#3 ++ 0b101#3 ++ 0b10001001101010111100110111101111#32) = .ok (.ialuAdd f)
    ∧ (Instr.ialuAdd f).wf
    ∧ decode 0x04865214 0x0120500589ABCDEF = .ok (.ialuSub f)
    ∧ decode 0x04865214 0x0220500589ABCDEF = .ok (.ialuMul f)
    ∧ decode 0x04865214 0x0320500589ABCDEF = .ok (.ialuMulh f)
    ∧ decode 0x04865214 0x0420500589ABCDEF = .ok (.ialuMin f)
    ∧ decode 0x04865214 0x0520500589ABCDEF = .ok (.ialuMax f)
    ∧ decode 0x04865214 0x0620500589ABCDEF = .ok (.ialuAnd f)
    ∧ decode 0x04865214 0x0720500589ABCDEF = .ok (.ialuOr f)
    ∧ decode 0x04865214 0x0820500589ABCDEF = .ok (.ialuXor f)
    ∧ decode 0x04865214 0x0920500589ABCDEF = .ok (.ialuNot f)
    ∧ decode 0x04865214 0x0A20500589ABCDEF = .ok (.ialuShl f)
    ∧ decode 0x04865214 0x0B20500589ABCDEF = .ok (.ialuShr f)
    ∧ decode 0x04865214 0x0C20500589ABCDEF = .ok (.ialuRot f)
    ∧ decode 0x04865214 0x0D20500589ABCDEF = .ok (.ialuPopc f)
    ∧ decode 0x04865214 0x0E20500589ABCDEF = .ok (.ialuClz f)
    ∧ decode 0x04865214 0x0F20500589ABCDEF = .ok (.ialuAbs f) := by
  refine ⟨rfl, by decide, rfl, rfl, rfl, rfl, rfl, rfl, rfl, rfl, rfl, rfl, rfl, rfl, rfl, rfl, rfl⟩

/-- ICMP: the word and side entry of its first minor bit by bit, in the order of the fields of 02 R22 and R30. -/
theorem test_decode_icmp :
    let f : Fields := ⟨2, 0, 0x3, 0x7f, 2, 2, 0, 0x0, 14, 0, 6, 0, 0x7fffffff⟩
    decode (0b000010#6 ++ 0b10#2 ++ 0b00#2 ++ 0b0000011#7 ++ 0b1111111#7 ++ 0b0010#4 ++ 0b10#2 ++ 0b00#2)
        (0b00000000#8 ++ 0b00000000#8 ++ 0b01110#5 ++ 0b00000#5 ++ 0b110#3 ++ 0b000#3 ++ 0b01111111111111111111111111111111#32) = .ok (.icmpEq f)
    ∧ (Instr.icmpEq f).wf
    ∧ decode 0x0A01FF28 0x010070307FFFFFFF = .ok (.icmpNe f)
    ∧ decode 0x0A01FF28 0x020070307FFFFFFF = .ok (.icmpLt f)
    ∧ decode 0x0A01FF28 0x030070307FFFFFFF = .ok (.icmpLe f)
    ∧ decode 0x0A01FF28 0x040070307FFFFFFF = .ok (.icmpGt f)
    ∧ decode 0x0A01FF28 0x050070307FFFFFFF = .ok (.icmpGe f)
    ∧ decode 0x0A01FF28 0x060070307FFFFFFF = .ok (.icmpTst f) := by
  refine ⟨rfl, by decide, rfl, rfl, rfl, rfl, rfl, rfl⟩

/-- ADDR: the word and side entry of its first minor bit by bit, in the order of the fields of 02 R22 and R30. -/
theorem test_decode_addr :
    let f : Fields := ⟨0, 3, 0x2a, 0x41, 3, 3, 0, 0x0, 0, 0, 0, 0, 0x12345678⟩
    decode (0b000011#6 ++ 0b00#2 ++ 0b11#2 ++ 0b0101010#7 ++ 0b1000001#7 ++ 0b0011#4 ++ 0b11#2 ++ 0b00#2)
        (0b00000000#8 ++ 0b00000000#8 ++ 0b00000#5 ++ 0b00000#5 ++ 0b000#3 ++ 0b000#3 ++ 0b00010010001101000101011001111000#32) = .ok (.addrAmov f)
    ∧ (Instr.addrAmov f).wf
    ∧ decode 0x0CD5413C 0x0100000012345678 = .ok (.addrAoff f)
    ∧ decode 0x0CD5413C 0x0200000012345678 = .ok (.addrAscale f)
    ∧ decode 0x0CD5413C 0x0300000012345678 = .ok (.addrApw f)
    ∧ decode 0x0CD5413C 0x0400000012345678 = .ok (.addrAread f) := by
  refine ⟨rfl, by decide, rfl, rfl, rfl, rfl⟩

/-- VFMA: the word and side entry of its first minor bit by bit, in the order of the fields of 02 R22 and R30. -/
theorem test_decode_vfma :
    let f : Fields := ⟨0, 0, 0x12, 0x7f, 0, 0, 0, 0x50, 2, 0, 0, 0, 0x117⟩
    decode (0b000100#6 ++ 0b00#2 ++ 0b00#2 ++ 0b0010010#7 ++ 0b1111111#7 ++ 0b0000#4 ++ 0b00#2 ++ 0b00#2)
        (0b00000000#8 ++ 0b01010000#8 ++ 0b00010#5 ++ 0b00000#5 ++ 0b000#3 ++ 0b000#3 ++ 0b00000000000000000000000100010111#32) = .ok (.vfmaFma f)
    ∧ (Instr.vfmaFma f).wf
    ∧ decode 0x10097F00 0x0150100000000117 = .ok (.vfmaFms f)
    ∧ decode 0x10097F00 0x0250100000000117 = .ok (.vfmaFnma f)
    ∧ decode 0x10097F00 0x0350100000000117 = .ok (.vfmaFnms f)
    ∧ decode 0x10097F00 0x0450100000000117 = .ok (.vfmaDot f)
    ∧ decode 0x10097F00 0x0550100000000117 = .ok (.vfmaDotacc f) := by
  refine ⟨rfl, by decide, rfl, rfl, rfl, rfl, rfl⟩

/-- VFARITH: the word and side entry of its first minor bit by bit, in the order of the fields of 02 R22 and R30. -/
theorem test_decode_vfarith :
    let f : Fields := ⟨0, 1, 0x11, 0x40, 4, 0, 0, 0xc0, 1, 0, 0, 0, 0x3f800000⟩
    decode (0b000101#6 ++ 0b00#2 ++ 0b01#2 ++ 0b0010001#7 ++ 0b1000000#7 ++ 0b0100#4 ++ 0b00#2 ++ 0b00#2)
        (0b00000000#8 ++ 0b11000000#8 ++ 0b00001#5 ++ 0b00000#5 ++ 0b000#3 ++ 0b000#3 ++ 0b00111111100000000000000000000000#32) = .ok (.vfarithFadd f)
    ∧ (Instr.vfarithFadd f).wf
    ∧ decode 0x1448C040 0x01C008003F800000 = .ok (.vfarithFsub f)
    ∧ decode 0x1448C040 0x02C008003F800000 = .ok (.vfarithFmul f)
    ∧ decode 0x1448C040 0x03C008003F800000 = .ok (.vfarithFdiv f)
    ∧ decode 0x1448C040 0x04C008003F800000 = .ok (.vfarithFmin f)
    ∧ decode 0x1448C040 0x05C008003F800000 = .ok (.vfarithFmax f)
    ∧ decode 0x1448C040 0x06C008003F800000 = .ok (.vfarithFabs f)
    ∧ decode 0x1448C040 0x07C008003F800000 = .ok (.vfarithFneg f)
    ∧ decode 0x1448C040 0x08C008003F800000 = .ok (.vfarithFsqrt f)
    ∧ decode 0x1448C040 0x09C008003F800000 = .ok (.vfarithFclass f)
    ∧ decode 0x1448C040 0x0AC008003F800000 = .ok (.vfarithFeq f)
    ∧ decode 0x1448C040 0x0BC008003F800000 = .ok (.vfarithFlt f)
    ∧ decode 0x1448C040 0x0CC008003F800000 = .ok (.vfarithFle f) := by
  refine ⟨rfl, by decide, rfl, rfl, rfl, rfl, rfl, rfl, rfl, rfl, rfl, rfl, rfl, rfl⟩

/-- VCVT: the word and side entry of its first minor bit by bit, in the order of the fields of 02 R22 and R30. -/
theorem test_decode_vcvt :
    let f : Fields := ⟨0, 0, 0x5, 0x57, 5, 1, 0, 0x50, 2, 1, 0, 0, 0x1⟩
    decode (0b000110#6 ++ 0b00#2 ++ 0b00#2 ++ 0b0000101#7 ++ 0b1010111#7 ++ 0b0101#4 ++ 0b01#2 ++ 0b00#2)
        (0b00000000#8 ++ 0b01010000#8 ++ 0b00010#5 ++ 0b00001#5 ++ 0b000#3 ++ 0b000#3 ++ 0b00000000000000000000000000000001#32) = .ok (.vcvtCvt f)
    ∧ (Instr.vcvtCvt f).wf
    ∧ decode 0x1802D754 0x0150104000000001 = .ok (.vcvtFtoi f)
    ∧ decode 0x1802D754 0x0250104000000001 = .ok (.vcvtItof f)
    ∧ decode 0x1802D754 0x0350104000000001 = .ok (.vcvtCvtmx f)
    ∧ decode 0x1802D754 0x0450104000000001 = .ok (.vcvtUnmx f)
    ∧ decode 0x1802D754 0x0550104000000001 = .ok (.vcvtSketch f) := by
  refine ⟨rfl, by decide, rfl, rfl, rfl, rfl, rfl⟩

/-- VSPECIAL: the word and side entry of its first minor bit by bit, in the order of the fields of 02 R22 and R30. -/
theorem test_decode_vspecial :
    let f : Fields := ⟨0, 3, 0x1f, 0x7f, 6, 2, 0, 0x40, 3, 0, 0, 0, 0x0⟩
    decode (0b000111#6 ++ 0b00#2 ++ 0b11#2 ++ 0b0011111#7 ++ 0b1111111#7 ++ 0b0110#4 ++ 0b10#2 ++ 0b00#2)
        (0b00000000#8 ++ 0b01000000#8 ++ 0b00011#5 ++ 0b00000#5 ++ 0b000#3 ++ 0b000#3 ++ 0b00000000000000000000000000000000#32) = .ok (.vspecialExp2 f)
    ∧ (Instr.vspecialExp2 f).wf
    ∧ decode 0x1CCFFF68 0x0140180000000000 = .ok (.vspecialLog2 f)
    ∧ decode 0x1CCFFF68 0x0240180000000000 = .ok (.vspecialRcp f)
    ∧ decode 0x1CCFFF68 0x0340180000000000 = .ok (.vspecialRsqrt f)
    ∧ decode 0x1CCFFF68 0x0440180000000000 = .ok (.vspecialTanh f)
    ∧ decode 0x1CCFFF68 0x0540180000000000 = .ok (.vspecialSigm f) := by
  refine ⟨rfl, by decide, rfl, rfl, rfl, rfl, rfl⟩

/-- VRED: the word and side entry of its first minor bit by bit, in the order of the fields of 02 R22 and R30. -/
theorem test_decode_vred :
    let f : Fields := ⟨0, 3, 0x21, 0x7f, 7, 0, 0, 0x80, 1, 0, 0, 0, 0xffffffff⟩
    decode (0b001000#6 ++ 0b00#2 ++ 0b11#2 ++ 0b0100001#7 ++ 0b1111111#7 ++ 0b0111#4 ++ 0b00#2 ++ 0b00#2)
        (0b00000000#8 ++ 0b10000000#8 ++ 0b00001#5 ++ 0b00000#5 ++ 0b000#3 ++ 0b000#3 ++ 0b11111111111111111111111111111111#32) = .ok (.vredRsum f)
    ∧ (Instr.vredRsum f).wf
    ∧ decode 0x20D0FF70 0x01800800FFFFFFFF = .ok (.vredRmax f)
    ∧ decode 0x20D0FF70 0x02800800FFFFFFFF = .ok (.vredRmin f)
    ∧ decode 0x20D0FF70 0x03800800FFFFFFFF = .ok (.vredRsumsq f) := by
  refine ⟨rfl, by decide, rfl, rfl, rfl⟩

/-- VPERM: the word and side entry of its first minor bit by bit, in the order of the fields of 02 R22 and R30. -/
theorem test_decode_vperm :
    let f : Fields := ⟨0, 3, 0x9, 0x7f, 8, 0, 0, 0x0, 13, 0, 0, 0, 0xa8000003⟩
    decode (0b001001#6 ++ 0b00#2 ++ 0b11#2 ++ 0b0001001#7 ++ 0b1111111#7 ++ 0b1000#4 ++ 0b00#2 ++ 0b00#2)
        (0b00000000#8 ++ 0b00000000#8 ++ 0b01101#5 ++ 0b00000#5 ++ 0b000#3 ++ 0b000#3 ++ 0b10101000000000000000000000000011#32) = .ok (.vpermBcast f)
    ∧ (Instr.vpermBcast f).wf
    ∧ decode 0x24C4FF80 0x01006800A8000003 = .ok (.vpermShuf f)
    ∧ decode 0x24C4FF80 0x02006800A8000003 = .ok (.vpermSlide f)
    ∧ decode 0x24C4FF80 0x03006800A8000003 = .ok (.vpermZip f)
    ∧ decode 0x24C4FF80 0x04006800A8000003 = .ok (.vpermUnzip f) := by
  refine ⟨rfl, by decide, rfl, rfl, rfl, rfl⟩

/-- STEER: the word and side entry of its first minor bit by bit, in the order of the fields of 02 R22 and R30. -/
theorem test_decode_steer :
    let f : Fields := ⟨0, 0, 0x6, 0xa, 0, 0, 0, 0x0, 0, 0, 0, 0, 0x1⟩
    decode (0b001010#6 ++ 0b00#2 ++ 0b00#2 ++ 0b0000110#7 ++ 0b0001010#7 ++ 0b0000#4 ++ 0b00#2 ++ 0b00#2)
        (0b00000000#8 ++ 0b00000000#8 ++ 0b00000#5 ++ 0b00000#5 ++ 0b000#3 ++ 0b000#3 ++ 0b00000000000000000000000000000001#32) = .ok (.steerSteer f)
    ∧ (Instr.steerSteer f).wf
    ∧ decode 0x28030A00 0x0100000000000001 = .ok (.steerRoute f)
    ∧ decode 0x28030A00 0x0200000000000001 = .ok (.steerSel f) := by
  refine ⟨rfl, by decide, rfl, rfl⟩

/-- MERGE: the word and side entry of its first minor bit by bit, in the order of the fields of 02 R22 and R30. -/
theorem test_decode_merge :
    let f : Fields := ⟨0, 0, 0x22, 0x7f, 1, 1, 0, 0x0, 0, 0, 0, 0, 0x0⟩
    decode (0b001011#6 ++ 0b00#2 ++ 0b00#2 ++ 0b0100010#7 ++ 0b1111111#7 ++ 0b0001#4 ++ 0b01#2 ++ 0b00#2)
        (0b00000000#8 ++ 0b00000000#8 ++ 0b00000#5 ++ 0b00000#5 ++ 0b000#3 ++ 0b000#3 ++ 0b00000000000000000000000000000000#32) = .ok (.mergeMerge f)
    ∧ (Instr.mergeMerge f).wf
    ∧ decode 0x2C117F14 0x0100000000000000 = .ok (.mergeMergeo f) := by
  refine ⟨rfl, by decide, rfl⟩

/-- GATE: the word and side entry of its first minor bit by bit, in the order of the fields of 02 R22 and R30. -/
theorem test_decode_gate :
    let f : Fields := ⟨0, 2, 0x30, 0x7f, 2, 2, 0, 0x0, 0, 0, 0, 7, 0x0⟩
    decode (0b001100#6 ++ 0b00#2 ++ 0b10#2 ++ 0b0110000#7 ++ 0b1111111#7 ++ 0b0010#4 ++ 0b10#2 ++ 0b00#2)
        (0b00000000#8 ++ 0b00000000#8 ++ 0b00000#5 ++ 0b00000#5 ++ 0b000#3 ++ 0b111#3 ++ 0b00000000000000000000000000000000#32) = .ok (.gateGate f)
    ∧ (Instr.gateGate f).wf
    ∧ decode 0x30987F28 0x0100000700000000 = .ok (.gateNullify f)
    ∧ decode 0x30987F28 0x0200000700000000 = .ok (.gateDup f) := by
  refine ⟨rfl, by decide, rfl, rfl⟩

/-- TAGOP: the word and side entry of its first minor bit by bit, in the order of the fields of 02 R22 and R30. -/
theorem test_decode_tagop :
    let f : Fields := ⟨0, 3, 0x31, 0x43, 3, 0, 0, 0x0, 0, 0, 0, 0, 0x0⟩
    decode (0b001101#6 ++ 0b00#2 ++ 0b11#2 ++ 0b0110001#7 ++ 0b1000011#7 ++ 0b0011#4 ++ 0b00#2 ++ 0b00#2)
        (0b00000000#8 ++ 0b00000000#8 ++ 0b00000#5 ++ 0b00000#5 ++ 0b000#3 ++ 0b000#3 ++ 0b00000000000000000000000000000000#32) = .ok (.tagopGetit f)
    ∧ (Instr.tagopGetit f).wf
    ∧ decode 0x34D8C330 0x0100000000000000 = .ok (.tagopGetfr f)
    ∧ decode 0x34D8C330 0x0200000000000000 = .ok (.tagopGetph f)
    ∧ decode 0x34D8C330 0x0300000000000000 = .ok (.tagopSetit f)
    ∧ decode 0x34D8C330 0x0400000000000000 = .ok (.tagopSetph f) := by
  refine ⟨rfl, by decide, rfl, rfl, rfl, rfl⟩

/-- SPAWN: the word and side entry of its first minor bit by bit, in the order of the fields of 02 R22 and R30. -/
theorem test_decode_spawn :
    let f : Fields := ⟨0, 3, 0x47, 0xb, 0, 1, 0, 0x0, 0, 0, 0, 0, 0x1000007⟩
    decode (0b001110#6 ++ 0b00#2 ++ 0b11#2 ++ 0b1000111#7 ++ 0b0001011#7 ++ 0b0000#4 ++ 0b01#2 ++ 0b00#2)
        (0b00000000#8 ++ 0b00000000#8 ++ 0b00000#5 ++ 0b00000#5 ++ 0b000#3 ++ 0b000#3 ++ 0b00000001000000000000000000000111#32) = .ok (.spawnSpawn f)
    ∧ (Instr.spawnSpawn f).wf
    ∧ decode 0x38E38B04 0x0100000001000007 = .ok (.spawnSpawnn f)
    ∧ decode 0x38E38B04 0x0200000001000007 = .ok (.spawnSpawnr f) := by
  refine ⟨rfl, by decide, rfl, rfl⟩

/-- JOIN: the word and side entry of its first minor bit by bit, in the order of the fields of 02 R22 and R30. -/
theorem test_decode_join :
    let f : Fields := ⟨0, 3, 0x13, 0x7f, 4, 2, 0, 0x0, 0, 0, 0, 0, 0x7⟩
    decode (0b001111#6 ++ 0b00#2 ++ 0b11#2 ++ 0b0010011#7 ++ 0b1111111#7 ++ 0b0100#4 ++ 0b10#2 ++ 0b00#2)
        (0b00000000#8 ++ 0b00000000#8 ++ 0b00000#5 ++ 0b00000#5 ++ 0b000#3 ++ 0b000#3 ++ 0b00000000000000000000000000000111#32) = .ok (.joinJoin f)
    ∧ (Instr.joinJoin f).wf
    ∧ decode 0x3CC9FF48 0x0100000000000007 = .ok (.joinJoinall f) := by
  refine ⟨rfl, by decide, rfl⟩

/-- EXIT: the word and side entry of its first minor bit by bit, in the order of the fields of 02 R22 and R30. -/
theorem test_decode_exit :
    let f : Fields := ⟨0, 0, 0x42, 0x7f, 0, 0, 0, 0x0, 0, 0, 0, 0, 0x3⟩
    decode (0b010000#6 ++ 0b00#2 ++ 0b00#2 ++ 0b1000010#7 ++ 0b1111111#7 ++ 0b0000#4 ++ 0b00#2 ++ 0b00#2)
        (0b00000000#8 ++ 0b00000000#8 ++ 0b00000#5 ++ 0b00000#5 ++ 0b000#3 ++ 0b000#3 ++ 0b00000000000000000000000000000011#32) = .ok (.exitExit f)
    ∧ (Instr.exitExit f).wf
    ∧ decode 0x40217F00 0x0100000000000003 = .ok (.exitAbort f) := by
  refine ⟨rfl, by decide, rfl⟩

/-- STATE: the word and side entry of its first minor bit by bit, in the order of the fields of 02 R22 and R30. -/
theorem test_decode_state :
    let f : Fields := ⟨0, 3, 0x1e, 0x7f, 0, 0, 0, 0x0, 0, 0, 0, 0, 0x2083⟩
    decode (0b010001#6 ++ 0b00#2 ++ 0b11#2 ++ 0b0011110#7 ++ 0b1111111#7 ++ 0b0000#4 ++ 0b00#2 ++ 0b00#2)
        (0b00000000#8 ++ 0b00000000#8 ++ 0b00000#5 ++ 0b00000#5 ++ 0b000#3 ++ 0b000#3 ++ 0b00000000000000000010000010000011#32) = .ok (.stateSld f)
    ∧ (Instr.stateSld f).wf
    ∧ decode 0x44CF7F00 0x0100000000002083 = .ok (.stateSst f)
    ∧ decode 0x44CF7F00 0x0200000000002083 = .ok (.stateSacc f)
    ∧ decode 0x44CF7F00 0x0300000000002083 = .ok (.stateSclr f) := by
  refine ⟨rfl, by decide, rfl, rfl, rfl⟩

/-- LDL: the word and side entry of its first minor bit by bit, in the order of the fields of 02 R22 and R30. -/
theorem test_decode_ldl :
    let f : Fields := ⟨0, 0, 0x16, 0x5b, 1, 0, 0, 0x8, 15, 0, 0, 0, 0x40⟩
    decode (0b010010#6 ++ 0b00#2 ++ 0b00#2 ++ 0b0010110#7 ++ 0b1011011#7 ++ 0b0001#4 ++ 0b00#2 ++ 0b00#2)
        (0b00000000#8 ++ 0b00001000#8 ++ 0b01111#5 ++ 0b00000#5 ++ 0b000#3 ++ 0b000#3 ++ 0b00000000000000000000000001000000#32) = .ok (.ldlLdl f)
    ∧ (Instr.ldlLdl f).wf
    ∧ decode 0x480B5B10 0x0108780000000040 = .ok (.ldlLdls f)
    ∧ decode 0x480B5B10 0x0208780000000040 = .ok (.ldlLdlx f) := by
  refine ⟨rfl, by decide, rfl, rfl⟩

/-- STL: the word and side entry of its first minor bit by bit, in the order of the fields of 02 R22 and R30. -/
theorem test_decode_stl :
    let f : Fields := ⟨0, 2, 0x59, 0x7f, 2, 1, 0, 0x10, 9, 0, 0, 3, 0x0⟩
    decode (0b010011#6 ++ 0b00#2 ++ 0b10#2 ++ 0b1011001#7 ++ 0b1111111#7 ++ 0b0010#4 ++ 0b01#2 ++ 0b00#2)
        (0b00000000#8 ++ 0b00010000#8 ++ 0b01001#5 ++ 0b00000#5 ++ 0b000#3 ++ 0b011#3 ++ 0b00000000000000000000000000000000#32) = .ok (.stlStl f)
    ∧ (Instr.stlStl f).wf
    ∧ decode 0x4CACFF24 0x0110480300000000 = .ok (.stlStls f)
    ∧ decode 0x4CACFF24 0x0210480300000000 = .ok (.stlStlx f) := by
  refine ⟨rfl, by decide, rfl, rfl⟩

/-- LD: the word and side entry of its first minor bit by bit, in the order of the fields of 02 R22 and R30. -/
theorem test_decode_ld :
    let f : Fields := ⟨0, 0, 0x17, 0x58, 3, 2, 0, 0x0, 16, 0, 0, 0, 0x100⟩
    decode (0b010100#6 ++ 0b00#2 ++ 0b00#2 ++ 0b0010111#7 ++ 0b1011000#7 ++ 0b0011#4 ++ 0b10#2 ++ 0b00#2)
        (0b00000000#8 ++ 0b00000000#8 ++ 0b10000#5 ++ 0b00000#5 ++ 0b000#3 ++ 0b000#3 ++ 0b00000000000000000000000100000000#32) = .ok (.ldLd f)
    ∧ (Instr.ldLd f).wf
    ∧ decode 0x500BD838 0x0100800000000100 = .ok (.ldLdnt f)
    ∧ decode 0x500BD838 0x0200800000000100 = .ok (.ldLdpw f)
    ∧ decode 0x500BD838 0x0300800000000100 = .ok (.ldLdfc f)
    ∧ decode 0x500BD838 0x0400800000000100 = .ok (.ldFcinv f) := by
  refine ⟨rfl, by decide, rfl, rfl, rfl, rfl⟩

/-- ST: the word and side entry of its first minor bit by bit, in the order of the fields of 02 R22 and R30. -/
theorem test_decode_st :
    let f : Fields := ⟨0, 0, 0x7f, 0x5f, 4, 0, 0, 0x0, 4, 0, 0, 0, 0x0⟩
    decode (0b010101#6 ++ 0b00#2 ++ 0b00#2 ++ 0b1111111#7 ++ 0b1011111#7 ++ 0b0100#4 ++ 0b00#2 ++ 0b00#2)
        (0b00000000#8 ++ 0b00000000#8 ++ 0b00100#5 ++ 0b00000#5 ++ 0b000#3 ++ 0b000#3 ++ 0b00000000000000000000000000000000#32) = .ok (.stSt f)
    ∧ (Instr.stSt f).wf
    ∧ decode 0x543FDF40 0x0100200000000000 = .ok (.stStnt f) := by
  refine ⟨rfl, by decide, rfl⟩

/-- GATHER: the word and side entry of its first minor bit by bit, in the order of the fields of 02 R22 and R30. -/
theorem test_decode_gather :
    let f : Fields := ⟨0, 0, 0x18, 0x7f, 5, 1, 0, 0x0, 1, 0, 0, 0, 0x0⟩
    decode (0b010110#6 ++ 0b00#2 ++ 0b00#2 ++ 0b0011000#7 ++ 0b1111111#7 ++ 0b0101#4 ++ 0b01#2 ++ 0b00#2)
        (0b00000000#8 ++ 0b00000000#8 ++ 0b00001#5 ++ 0b00000#5 ++ 0b000#3 ++ 0b000#3 ++ 0b00000000000000000000000000000000#32) = .ok (.gatherGath f)
    ∧ (Instr.gatherGath f).wf
    ∧ decode 0x580C7F54 0x0100080000000000 = .ok (.gatherGathw f) := by
  refine ⟨rfl, by decide, rfl⟩

/-- SCATTER: the word and side entry of its first minor bit by bit, in the order of the fields of 02 R22 and R30. -/
theorem test_decode_scatter :
    let f : Fields := ⟨0, 0, 0x59, 0x19, 6, 2, 0, 0x0, 2, 0, 0, 0, 0x0⟩
    decode (0b010111#6 ++ 0b00#2 ++ 0b00#2 ++ 0b1011001#7 ++ 0b0011001#7 ++ 0b0110#4 ++ 0b10#2 ++ 0b00#2)
        (0b00000000#8 ++ 0b00000000#8 ++ 0b00010#5 ++ 0b00000#5 ++ 0b000#3 ++ 0b000#3 ++ 0b00000000000000000000000000000000#32) = .ok (.scatterScat f)
    ∧ (Instr.scatterScat f).wf
    ∧ decode 0x5C2C9968 0x0100100000000000 = .ok (.scatterScatm f) := by
  refine ⟨rfl, by decide, rfl⟩

/-- ATOM: the word and side entry of its first minor bit by bit, in the order of the fields of 02 R22 and R30. -/
theorem test_decode_atom :
    let f : Fields := ⟨0, 1, 0x1a, 0x7f, 7, 0, 0, 0x0, 11, 0, 0, 0, 0x1⟩
    decode (0b011000#6 ++ 0b00#2 ++ 0b01#2 ++ 0b0011010#7 ++ 0b1111111#7 ++ 0b0111#4 ++ 0b00#2 ++ 0b00#2)
        (0b00000000#8 ++ 0b00000000#8 ++ 0b01011#5 ++ 0b00000#5 ++ 0b000#3 ++ 0b000#3 ++ 0b00000000000000000000000000000001#32) = .ok (.atomAtadd f)
    ∧ (Instr.atomAtadd f).wf
    ∧ decode 0x604D7F70 0x0100580000000001 = .ok (.atomAtmin f)
    ∧ decode 0x604D7F70 0x0200580000000001 = .ok (.atomAtmax f)
    ∧ decode 0x604D7F70 0x0300580000000001 = .ok (.atomAtand f)
    ∧ decode 0x604D7F70 0x0400580000000001 = .ok (.atomAtor f)
    ∧ decode 0x604D7F70 0x0500580000000001 = .ok (.atomAtxor f)
    ∧ decode 0x604D7F70 0x0600580000000001 = .ok (.atomAtxchg f)
    ∧ decode 0x604D7F70 0x0700580000000001 = .ok (.atomAtcas f)
    ∧ decode 0x604D7F70 0x0800580000000001 = .ok (.atomAtcasw f)
    ∧ decode 0x604D7F70 0x0900580000000001 = .ok (.atomAtfadd f) := by
  refine ⟨rfl, by decide, rfl, rfl, rfl, rfl, rfl, rfl, rfl, rfl, rfl⟩

/-- ORDER: the word and side entry of its first minor bit by bit, in the order of the fields of 02 R22 and R30. -/
theorem test_decode_order :
    let f : Fields := ⟨0, 3, 0x1b, 0x7f, 8, 1, 0, 0x60, 0, 0, 0, 0, 0x0⟩
    decode (0b011001#6 ++ 0b00#2 ++ 0b11#2 ++ 0b0011011#7 ++ 0b1111111#7 ++ 0b1000#4 ++ 0b01#2 ++ 0b00#2)
        (0b00000000#8 ++ 0b01100000#8 ++ 0b00000#5 ++ 0b00000#5 ++ 0b000#3 ++ 0b000#3 ++ 0b00000000000000000000000000000000#32) = .ok (.orderAcq f)
    ∧ (Instr.orderAcq f).wf
    ∧ decode 0x64CDFF84 0x0160000000000000 = .ok (.orderRel f)
    ∧ decode 0x64CDFF84 0x0260000000000000 = .ok (.orderAcqrel f)
    ∧ decode 0x64CDFF84 0x0360000000000000 = .ok (.orderFence f) := by
  refine ⟨rfl, by decide, rfl, rfl, rfl⟩

/-- BAR: the word and side entry of its first minor bit by bit, in the order of the fields of 02 R22 and R30. -/
theorem test_decode_bar :
    let f : Fields := ⟨0, 2, 0x1c, 0x7f, 1, 2, 0, 0x80, 0, 0, 0, 4, 0x0⟩
    decode (0b011010#6 ++ 0b00#2 ++ 0b10#2 ++ 0b0011100#7 ++ 0b1111111#7 ++ 0b0001#4 ++ 0b10#2 ++ 0b00#2)
        (0b00000000#8 ++ 0b10000000#8 ++ 0b00000#5 ++ 0b00000#5 ++ 0b000#3 ++ 0b100#3 ++ 0b00000000000000000000000000000000#32) = .ok (.barBarinit f)
    ∧ (Instr.barBarinit f).wf
    ∧ decode 0x688E7F18 0x0180000400000000 = .ok (.barBarjoin f)
    ∧ decode 0x688E7F18 0x0280000400000000 = .ok (.barBarwait f) := by
  refine ⟨rfl, by decide, rfl, rfl⟩

/-- MMA: the word and side entry of its first minor bit by bit, in the order of the fields of 02 R22 and R30. -/
theorem test_decode_mma :
    let f : Fields := ⟨0, 3, 0x8, 0x7f, 0, 0, 0, 0x50, 7, 0, 0, 0, 0x1⟩
    decode (0b011011#6 ++ 0b00#2 ++ 0b11#2 ++ 0b0001000#7 ++ 0b1111111#7 ++ 0b0000#4 ++ 0b00#2 ++ 0b00#2)
        (0b00000000#8 ++ 0b01010000#8 ++ 0b00111#5 ++ 0b00000#5 ++ 0b000#3 ++ 0b000#3 ++ 0b00000000000000000000000000000001#32) = .ok (.mmaMldb f)
    ∧ (Instr.mmaMldb f).wf
    ∧ decode 0x6CC47F00 0x0150380000000001 = .ok (.mmaMrow f)
    ∧ decode 0x6CC47F00 0x0250380000000001 = .ok (.mmaMgat f)
    ∧ decode 0x6CC47F00 0x0350380000000001 = .ok (.mmaMscale f)
    ∧ decode 0x6CC47F00 0x0450380000000001 = .ok (.mmaMend f)
    ∧ decode 0x6CC47F00 0x0550380000000001 = .ok (.mmaMdrain f) := by
  refine ⟨rfl, by decide, rfl, rfl, rfl, rfl, rfl⟩

/-- MACC: the word and side entry of its first minor bit by bit, in the order of the fields of 02 R22 and R30. -/
theorem test_decode_macc :
    let f : Fields := ⟨0, 3, 0x9, 0x7f, 2, 0, 0, 0x0, 1, 0, 0, 0, 0x2⟩
    decode (0b011100#6 ++ 0b00#2 ++ 0b11#2 ++ 0b0001001#7 ++ 0b1111111#7 ++ 0b0010#4 ++ 0b00#2 ++ 0b00#2)
        (0b00000000#8 ++ 0b00000000#8 ++ 0b00001#5 ++ 0b00000#5 ++ 0b000#3 ++ 0b000#3 ++ 0b00000000000000000000000000000010#32) = .ok (.maccAcinit f)
    ∧ (Instr.maccAcinit f).wf
    ∧ decode 0x70C4FF20 0x0100080000000002 = .ok (.maccAcadd f)
    ∧ decode 0x70C4FF20 0x0200080000000002 = .ok (.maccAcread f)
    ∧ decode 0x70C4FF20 0x0300080000000002 = .ok (.maccAcsave f)
    ∧ decode 0x70C4FF20 0x0400080000000002 = .ok (.maccAcload f) := by
  refine ⟨rfl, by decide, rfl, rfl, rfl, rfl⟩

/-- MSPARSE: the word and side entry of its first minor bit by bit, in the order of the fields of 02 R22 and R30. -/
theorem test_decode_msparse :
    let f : Fields := ⟨0, 3, 0xa, 0x7f, 3, 1, 0, 0x0, 2, 0, 0, 0, 0x3⟩
    decode (0b011101#6 ++ 0b00#2 ++ 0b11#2 ++ 0b0001010#7 ++ 0b1111111#7 ++ 0b0011#4 ++ 0b01#2 ++ 0b00#2)
        (0b00000000#8 ++ 0b00000000#8 ++ 0b00010#5 ++ 0b00000#5 ++ 0b000#3 ++ 0b000#3 ++ 0b00000000000000000000000000000011#32) = .ok (.msparseMsldb f)
    ∧ (Instr.msparseMsldb f).wf
    ∧ decode 0x74C57F34 0x0100100000000003 = .ok (.msparseMsmeta f)
    ∧ decode 0x74C57F34 0x0200100000000003 = .ok (.msparseMsrow f) := by
  refine ⟨rfl, by decide, rfl, rfl⟩

/-- KPUT: the word and side entry of its first minor bit by bit, in the order of the fields of 02 R22 and R30. -/
theorem test_decode_kput :
    let f : Fields := ⟨0, 3, 0xb, 0x7f, 0, 2, 0, 0x0, 2, 0, 0, 0, 0xc5⟩
    decode (0b011110#6 ++ 0b00#2 ++ 0b11#2 ++ 0b0001011#7 ++ 0b1111111#7 ++ 0b0000#4 ++ 0b10#2 ++ 0b00#2)
        (0b00000000#8 ++ 0b00000000#8 ++ 0b00010#5 ++ 0b00000#5 ++ 0b000#3 ++ 0b000#3 ++ 0b00000000000000000000000011000101#32) = .ok (.kputKput f)
    ∧ (Instr.kputKput f).wf
    ∧ decode 0x78C5FF08 0x01001000000000C5 = .ok (.kputKputs f)
    ∧ decode 0x78C5FF08 0x02001000000000C5 = .ok (.kputKdrop f)
    ∧ decode 0x78C5FF08 0x03001000000000C5 = .ok (.kputKseq f)
    ∧ decode 0x78C5FF08 0x04001000000000C5 = .ok (.kputKfork f) := by
  refine ⟨rfl, by decide, rfl, rfl, rfl, rfl⟩

/-- KQUERY: the word and side entry of its first minor bit by bit, in the order of the fields of 02 R22 and R30. -/
theorem test_decode_kquery :
    let f : Fields := ⟨0, 3, 0xc, 0x7f, 1, 0, 0, 0x0, 2, 0, 0, 0, 0x3f⟩
    decode (0b011111#6 ++ 0b00#2 ++ 0b11#2 ++ 0b0001100#7 ++ 0b1111111#7 ++ 0b0001#4 ++ 0b00#2 ++ 0b00#2)
        (0b00000000#8 ++ 0b00000000#8 ++ 0b00010#5 ++ 0b00000#5 ++ 0b000#3 ++ 0b000#3 ++ 0b00000000000000000000000000111111#32) = .ok (.kqueryKq f)
    ∧ (Instr.kqueryKq f).wf
    ∧ decode 0x7CC67F10 0x010010000000003F = .ok (.kqueryKqd f)
    ∧ decode 0x7CC67F10 0x020010000000003F = .ok (.kqueryKqsk f)
    ∧ decode 0x7CC67F10 0x030010000000003F = .ok (.kqueryKmerge f) := by
  refine ⟨rfl, by decide, rfl, rfl, rfl⟩

/-- SMAX: the word and side entry of its first minor bit by bit, in the order of the fields of 02 R22 and R30. -/
theorem test_decode_smax :
    let f : Fields := ⟨0, 3, 0x1d, 0x7f, 0, 0, 0, 0x0, 1, 0, 0, 0, 0x0⟩
    decode (0b100000#6 ++ 0b00#2 ++ 0b11#2 ++ 0b0011101#7 ++ 0b1111111#7 ++ 0b0000#4 ++ 0b00#2 ++ 0b00#2)
        (0b00000000#8 ++ 0b00000000#8 ++ 0b00001#5 ++ 0b00000#5 ++ 0b000#3 ++ 0b000#3 ++ 0b00000000000000000000000000000000#32) = .ok (.smaxSmref f)
    ∧ (Instr.smaxSmref f).wf
    ∧ decode 0x80CEFF00 0x0100080000000000 = .ok (.smaxSmacc f)
    ∧ decode 0x80CEFF00 0x0200080000000000 = .ok (.smaxSmnorm f)
    ∧ decode 0x80CEFF00 0x0300080000000000 = .ok (.smaxSmresc f)
    ∧ decode 0x80CEFF00 0x0400080000000000 = .ok (.smaxSmflag f) := by
  refine ⟨rfl, by decide, rfl, rfl, rfl, rfl⟩

/-- RMT: the word and side entry of its first minor bit by bit, in the order of the fields of 02 R22 and R30. -/
theorem test_decode_rmt :
    let f : Fields := ⟨0, 3, 0x1e, 0x5a, 2, 1, 0, 0x0, 12, 0, 0, 0, 0x80⟩
    decode (0b100001#6 ++ 0b00#2 ++ 0b11#2 ++ 0b0011110#7 ++ 0b1011010#7 ++ 0b0010#4 ++ 0b01#2 ++ 0b00#2)
        (0b00000000#8 ++ 0b00000000#8 ++ 0b01100#5 ++ 0b00000#5 ++ 0b000#3 ++ 0b000#3 ++ 0b00000000000000000000000010000000#32) = .ok (.rmtRld f)
    ∧ (Instr.rmtRld f).wf
    ∧ decode 0x84CF5A24 0x0100600000000080 = .ok (.rmtRst f)
    ∧ decode 0x84CF5A24 0x0200600000000080 = .ok (.rmtRadd f)
    ∧ decode 0x84CF5A24 0x0300600000000080 = .ok (.rmtRcas f)
    ∧ decode 0x84CF5A24 0x0400600000000080 = .ok (.rmtRxchg f)
    ∧ decode 0x84CF5A24 0x0500600000000080 = .ok (.rmtRpf f) := by
  refine ⟨rfl, by decide, rfl, rfl, rfl, rfl, rfl⟩

/-- RREL: the word and side entry of its first minor bit by bit, in the order of the fields of 02 R22 and R30. -/
theorem test_decode_rrel :
    let f : Fields := ⟨0, 3, 0xb, 0x7f, 3, 2, 0, 0x0, 0, 0, 0, 0, 0x1f⟩
    decode (0b100010#6 ++ 0b00#2 ++ 0b11#2 ++ 0b0001011#7 ++ 0b1111111#7 ++ 0b0011#4 ++ 0b10#2 ++ 0b00#2)
        (0b00000000#8 ++ 0b00000000#8 ++ 0b00000#5 ++ 0b00000#5 ++ 0b000#3 ++ 0b000#3 ++ 0b00000000000000000000000000011111#32) = .ok (.rrelRelopen f)
    ∧ (Instr.rrelRelopen f).wf
    ∧ decode 0x88C5FF38 0x010000000000001F = .ok (.rrelRelflag f)
    ∧ decode 0x88C5FF38 0x020000000000001F = .ok (.rrelRelwait f)
    ∧ decode 0x88C5FF38 0x030000000000001F = .ok (.rrelRelabort f) := by
  refine ⟨rfl, by decide, rfl, rfl, rfl⟩

/-- NET: the word and side entry of its first minor bit by bit, in the order of the fields of 02 R22 and R30. -/
theorem test_decode_net :
    let f : Fields := ⟨0, 3, 0x8, 0x58, 0, 0, 0, 0x0, 0, 0, 0, 0, 0x0⟩
    decode (0b100011#6 ++ 0b00#2 ++ 0b11#2 ++ 0b0001000#7 ++ 0b1011000#7 ++ 0b0000#4 ++ 0b00#2 ++ 0b00#2)
        (0b00000000#8 ++ 0b00000000#8 ++ 0b00000#5 ++ 0b00000#5 ++ 0b000#3 ++ 0b000#3 ++ 0b00000000000000000000000000000000#32) = .ok (.netPost f)
    ∧ (Instr.netPost f).wf
    ∧ decode 0x8CC45800 0x0100000000000000 = .ok (.netWait f)
    ∧ decode 0x8CC45800 0x0200000000000000 = .ok (.netNcget f)
    ∧ decode 0x8CC45800 0x0300000000000000 = .ok (.netNcset f)
    ∧ decode 0x8CC45800 0x0400000000000000 = .ok (.netCancel f)
    ∧ decode 0x8CC45800 0x0500000000000000 = .ok (.netNfence f)
    ∧ decode 0x8CC45800 0x0600000000000000 = .ok (.netNstat f) := by
  refine ⟨rfl, by decide, rfl, rfl, rfl, rfl, rfl, rfl⟩

/-- GRAM: the word and side entry of its first minor bit by bit, in the order of the fields of 02 R22 and R30. -/
theorem test_decode_gram :
    let f : Fields := ⟨0, 0, 0xa, 0x7f, 0, 0, 0, 0x0, 0, 0, 0, 0, 0x0⟩
    decode (0b100100#6 ++ 0b00#2 ++ 0b00#2 ++ 0b0001010#7 ++ 0b1111111#7 ++ 0b0000#4 ++ 0b00#2 ++ 0b00#2)
        (0b00000000#8 ++ 0b00000000#8 ++ 0b00000#5 ++ 0b00000#5 ++ 0b000#3 ++ 0b000#3 ++ 0b00000000000000000000000000000000#32) = .ok (.gramStep f)
    ∧ (Instr.gramStep f).wf
    ∧ decode 0x90057F00 0x0100000000000000 = .ok (.gramMask f)
    ∧ decode 0x90057F00 0x0200000000000000 = .ok (.gramGstate f)
    ∧ decode 0x90057F00 0x0300000000000000 = .ok (.gramGset f)
    ∧ decode 0x90057F00 0x0400000000000000 = .ok (.gramGreset f) := by
  refine ⟨rfl, by decide, rfl, rfl, rfl, rfl⟩

/-- XFER: the word and side entry of its first minor bit by bit, in the order of the fields of 02 R22 and R30. -/
theorem test_decode_xfer :
    let f : Fields := ⟨0, 3, 0x58, 0x7f, 4, 1, 0, 0x0, 0, 0, 0, 0, 0x8⟩
    decode (0b100101#6 ++ 0b00#2 ++ 0b11#2 ++ 0b1011000#7 ++ 0b1111111#7 ++ 0b0100#4 ++ 0b01#2 ++ 0b00#2)
        (0b00000000#8 ++ 0b00000000#8 ++ 0b00000#5 ++ 0b00000#5 ++ 0b000#3 ++ 0b000#3 ++ 0b00000000000000000000000000001000#32) = .ok (.xferCopy f)
    ∧ (Instr.xferCopy f).wf
    ∧ decode 0x94EC7F44 0x0100000000000008 = .ok (.xferCopy2d f)
    ∧ decode 0x94EC7F44 0x0200000000000008 = .ok (.xferFill f) := by
  refine ⟨rfl, by decide, rfl, rfl⟩

/-- SYS: the word and side entry of its first minor bit by bit, in the order of the fields of 02 R22 and R30. -/
theorem test_decode_sys :
    let f : Fields := ⟨0, 3, 0x5, 0x7f, 5, 2, 0, 0x0, 0, 0, 0, 0, 0x0⟩
    decode (0b100110#6 ++ 0b00#2 ++ 0b11#2 ++ 0b0000101#7 ++ 0b1111111#7 ++ 0b0101#4 ++ 0b10#2 ++ 0b00#2)
        (0b00000000#8 ++ 0b00000000#8 ++ 0b00000#5 ++ 0b00000#5 ++ 0b000#3 ++ 0b000#3 ++ 0b00000000000000000000000000000000#32) = .ok (.sysClock f)
    ∧ (Instr.sysClock f).wf
    ∧ decode 0x98C2FF58 0x0100000000000000 = .ok (.sysTileid f)
    ∧ decode 0x98C2FF58 0x0200000000000000 = .ok (.sysTimer f)
    ∧ decode 0x98C2FF58 0x0300000000000000 = .ok (.sysCtxst f)
    ∧ decode 0x98C2FF58 0x0400000000000000 = .ok (.sysCtxend f) := by
  refine ⟨rfl, by decide, rfl, rfl, rfl, rfl⟩

/-- TRAP: the word and side entry of its first minor bit by bit, in the order of the fields of 02 R22 and R30. -/
theorem test_decode_trap :
    let f : Fields := ⟨0, 3, 0xc, 0x7f, 6, 0, 0, 0x0, 0, 0, 0, 0, 0x3⟩
    decode (0b100111#6 ++ 0b00#2 ++ 0b11#2 ++ 0b0001100#7 ++ 0b1111111#7 ++ 0b0110#4 ++ 0b00#2 ++ 0b00#2)
        (0b00000000#8 ++ 0b00000000#8 ++ 0b00000#5 ++ 0b00000#5 ++ 0b000#3 ++ 0b000#3 ++ 0b00000000000000000000000000000011#32) = .ok (.trapTrap f)
    ∧ (Instr.trapTrap f).wf
    ∧ decode 0x9CC67F60 0x0100000000000003 = .ok (.trapTret f) := by
  refine ⟨rfl, by decide, rfl⟩

/-- DBG: the word and side entry of its first minor bit by bit, in the order of the fields of 02 R22 and R30. -/
theorem test_decode_dbg :
    let f : Fields := ⟨0, 3, 0xd, 0x7f, 7, 1, 0, 0x0, 0, 0, 0, 0, 0xee⟩
    decode (0b101000#6 ++ 0b00#2 ++ 0b11#2 ++ 0b0001101#7 ++ 0b1111111#7 ++ 0b0111#4 ++ 0b01#2 ++ 0b00#2)
        (0b00000000#8 ++ 0b00000000#8 ++ 0b00000#5 ++ 0b00000#5 ++ 0b000#3 ++ 0b000#3 ++ 0b00000000000000000000000011101110#32) = .ok (.dbgBrk f)
    ∧ (Instr.dbgBrk f).wf
    ∧ decode 0xA0C6FF74 0x01000000000000EE = .ok (.dbgTrace f)
    ∧ decode 0xA0C6FF74 0x02000000000000EE = .ok (.dbgHist f) := by
  refine ⟨rfl, by decide, rfl, rfl⟩

/-- ACCN: the word and side entry of its first minor bit by bit, in the order of the fields of 02 R22 and R30. -/
theorem test_decode_accn :
    let f : Fields := ⟨0, 3, 0x8, 0x7f, 0, 0, 0, 0x0, 0, 0, 0, 0, 0x0⟩
    decode (0b101001#6 ++ 0b00#2 ++ 0b11#2 ++ 0b0001000#7 ++ 0b1111111#7 ++ 0b0000#4 ++ 0b00#2 ++ 0b00#2)
        (0b00000000#8 ++ 0b00000000#8 ++ 0b00000#5 ++ 0b00000#5 ++ 0b000#3 ++ 0b000#3 ++ 0b00000000000000000000000000000000#32) = .ok (.accnIntv f)
    ∧ (Instr.accnIntv f).wf
    ∧ decode 0xA4C47F00 0x0100000000000000 = .ok (.accnArec f) := by
  refine ⟨rfl, by decide, rfl⟩

/-- ASPACE: the word and side entry of its first minor bit by bit, in the order of the fields of 02 R22 and R30. -/
theorem test_decode_aspace :
    let f : Fields := ⟨0, 2, 0xe, 0x7f, 8, 0, 0, 0x60, 0, 0, 0, 1, 0x0⟩
    decode (0b101010#6 ++ 0b00#2 ++ 0b10#2 ++ 0b0001110#7 ++ 0b1111111#7 ++ 0b1000#4 ++ 0b00#2 ++ 0b00#2)
        (0b00000000#8 ++ 0b01100000#8 ++ 0b00000#5 ++ 0b00000#5 ++ 0b000#3 ++ 0b001#3 ++ 0b00000000000000000000000000000000#32) = .ok (.aspaceInval f)
    ∧ (Instr.aspaceInval f).wf
    ∧ decode 0xA8877F80 0x0160000100000000 = .ok (.aspacePgattr f)
    ∧ decode 0xA8877F80 0x0260000100000000 = .ok (.aspaceLpin f)
    ∧ decode 0xA8877F80 0x0360000100000000 = .ok (.aspaceLquery f) := by
  refine ⟨rfl, by decide, rfl, rfl, rfl⟩
/-! ### Small states -/

/-- An operand-form station: side A a token, side B a token, both results to station 5 side A. -/
def fTok : Fields := ⟨0, 0, 0x0A, 0x7F, 0, 0, 0, 0, 10, 0, 0, 0, 0⟩

/-- A set of two tokens at station 0 of slot 0 of tile 0. -/
def set2 : Firing := { region := 1, inst := 1, tokA := some ⟨{}, [3, 0, 1, 0], 0⟩, tokB := some ⟨{}, [1, 0, 2, 0], 0⟩ }

/-- A set with a null token. -/
def setNull : Firing := { set2 with tokA := some ⟨{ null := true }, [], 0⟩ }

/-- The launch of region 1, of context 0. -/
def launch1 : Launch := { id := 1, ctx := 0, die := 0, queue := 0, head := 0, irq := false }

/-- The pass that the set belongs to. -/
def pass1 : Pass := ⟨1, 0, 0, 64, false, [], []⟩

/-- A state at LEVEL 0 with one region, one tile, one open pass and the set as the current firing. -/
def stateOf (fi : Firing) : State :=
  { cur := fi, ctxs := [(0, { st := .running })], regions := [(1, { launch := launch1, tiles := [⟨0, 0⟩] })],
    tiles := [(0, { region := 1, passes := [pass1] })] }

/-- The same at ORDERED. -/
def ordered (fi : Firing) : State := { stateOf fi with ctxs := [(0, { st := .running, mode := 1 })] }

/-- A set fires with its own effect when no token is null and the predicate matches, at LEVEL 0. -/
theorem fires_at (f : Fields) (regs : List Nat) (s : State) (h : s.cur.anyNull = false) (hp : predOk f s.cur.stTag = true)
    (hl : s.level (s.regionCtx s.cur.region) = 0) : Fires f regs s s :=
  ⟨h, hp, .inl hl, by simp [State.sregGate, hl]⟩

theorem fires_stateOf (f : Fields) (regs : List Nat) (hp : f.pm = 0) : Fires f regs (stateOf set2) (stateOf set2) :=
  fires_at f regs _ (by decide) (by simp [predOk, hp]) (by decide)
/-! ### The hypotheses of the statements can be met, clause by clause -/

theorem witness_DecodeEncode : ∃ (i : Instr) (w : BitVec 32) (e : BitVec 64), encode i = some (w, e) :=
  ⟨.exitExit ⟨0, 0, 0x42, 0x7F, 0, 0, 0, 0, 0, 0, 0, 0, 3⟩, 0x40217F00, 3, by decide⟩
theorem witness_EncodeDecode : ∃ (w : BitVec 32) (e : BitVec 64) (i : Instr), decode w e = .ok i :=
  ⟨0x40217F00, 3, _, rfl⟩
/-- The first and the last assigned class, the first and the last minor, the first that is not assigned. -/
theorem witness_DecodableOpcodes : ∃ w v : BitVec 32, w.toNat / 2 ^ 26 = 0 ∧ 0x2A < v.toNat / 2 ^ 26
    ∧ ∃ (x : BitVec 32) (e e' : BitVec 64), 1 ≤ x.toNat / 2 ^ 26 ∧ e.toNat / 2 ^ 56 < 16 ∧ 16 ≤ e'.toNat / 2 ^ 56
      ∧ ([16, 7] : List Nat)[x.toNat / 2 ^ 26 - 1]? = some 16 :=
  ⟨0, 0xAC000000, by decide, by decide, 0x04000000, 0x0F00000000000000, 0x1000000000000000, by decide, by decide, by decide, by decide⟩

/-- The next cycle of a state. -/
def nextCycle (s : State) : State := let u : State := { s with ticks := s.ticks + 1 }; { u.tick with batch := u.tick.cycleBatch }
/-- The set that an instruction waits with. -/
def setState (w : Nat) : State := State.reset.withFetchWord 96 w
/-- The state with nothing to do, the reset state with one event due, and a state with one set that may fire; a cycle that goes on; a thing of
each of the three groups of keys. -/
theorem witness_StepRunsDecoded_idle_and_event :
    (nextCycle {}).nextOf (nextCycle {}).batch = none
    ∧ (nextCycle State.reset).nextOf (nextCycle State.reset).batch = some (.event .powerUp, [])
    ∧ ({ agenda := [.powerLoss], batch := [.event .powerLoss] } : State).nextOf [.event .powerLoss] = some (.event .powerLoss, [])
    ∧ [Event.netMessageSend 0 0, .powerMeasure 0, .powerLoss].map (fun e => (State.reset.cycleKey (.event e)).headD 0) = [0, 7, 8] :=
  ⟨rfl, rfl, by decide, by decide⟩
theorem witness_StepRunsDecoded_set :
    let s := nextCycle (setState 0x340217F00)
    s.nextOf s.batch = some (.set ((setState 0x340217F00).ready.headD {}), []) ∧ ((s.tile ⟨0, 0⟩).station 0 0).1 = 0x40217F00
    ∧ decode 0x40217F00 3 = .ok (.exitExit ⟨0, 0, 0x42, 0x7F, 0, 0, 0, 0, 0, 0, 0, 0, 3⟩) := ⟨rfl, rfl, rfl⟩
theorem witness_StepRunsDecoded_bad_word :
    let s := nextCycle (setState 0)
    s.nextOf s.batch = some (.set ((setState 0).ready.headD {}), [])
    ∧ decode ((s.tile ⟨0, 0⟩).station 0 0).1 ((s.tile ⟨0, 0⟩).station 0 0).2 = .error (.reservedMajor 0) := ⟨rfl, rfl⟩
theorem witness_CycleOrder :
    State.reset.choices = [.event .powerUp] ∧ (setState 0x340217F00).choices = [.set ((setState 0x340217F00).ready.headD {})]
    ∧ State.reset.nextOf [.event .powerLoss, .event .powerUp] = some (.event .powerUp, [])
    ∧ State.reset.nextOf [.event .powerLoss] = none := ⟨rfl, rfl, by decide, by decide⟩
theorem witness_StepKeepsMemoryForm : ∃ s t : State, MemInv s ∧ step s = .next t := ⟨{}, _, ⟨rfl, rfl⟩, rfl⟩

theorem witness_IntegerLanes : ∃ (f : Fields) (s u : State), f.tyT.isInt = true ∧ Fires f (sregDests f) s u :=
  ⟨fTok, _, _, by decide, fires_stateOf fTok _ rfl⟩
theorem witness_AddressArithmetic : ∃ (f : Fields) (s u : State), Fires f (sregDests f) s u
    ∧ ∃ w, u.window? s.cur.region ((byteAt (opIn f s u .none true) 1).toNat % 8) = some w :=
  let s := { stateOf set2 with regions := [(1, { launch := { launch1 with windows := [(0, (0x10000, 4))] } })] }
  ⟨{ fTok with ty := 0 }, s, s, fires_at _ _ s (by decide) (by decide) (by decide), (0x10000, 4), by decide⟩
theorem witness_FusedAndDotResults : ∃ (f : Fields) (s u : State), Fires f (sregDests f) s u :=
  ⟨{ fTok with ty := 1 }, _, _, fires_stateOf _ _ rfl⟩
theorem witness_FloatLanes : ∃ (f : Fields) (s u : State), f.tyT.isF = true ∧ Fires f (sregDests f) s u :=
  ⟨{ fTok with ty := 1 }, _, _, by decide, fires_stateOf _ _ rfl⟩
theorem witness_ConversionResults : ∃ (f : Fields) (s u : State), f.sty = 1 ∧ f.tyT.isF = true ∧ Fires f (sregDests f) s u :=
  ⟨{ fTok with ty := 2, sty := 1 }, _, _, by decide, by decide, fires_stateOf _ _ rfl⟩
theorem witness_SpecialFunctionResults : ∃ (f : Fields) (s u : State), f.tyT = .f32 ∧ Fires f (sregDests f) s u :=
  ⟨{ fTok with ty := 1 }, _, _, by decide, fires_stateOf _ _ rfl⟩
/-- An integer type; a float type with a NaN, with none, and with no element; for R64, a list of one and of three values. -/
theorem witness_ReductionResults :
    (∃ (f : Fields) (s u : State), f.tyT.isInt = true ∧ Fires f (sregDests f) s u)
    ∧ (∃ (f : Fields) (s u : State), f.tyT.isInt = false ∧ Fires f (sregDests f) s u
        ∧ (elems 2 (opIn f s u f.tyT false)).any (fun x => (decodeF f.tyT.fty x).isNan) = true)
    ∧ (∃ (f : Fields) (s u : State), f.tyT.isInt = false ∧ Fires f (sregDests f) s u
        ∧ elems 2 (opIn f s u f.tyT false) ≠ []
        ∧ (elems 2 (opIn f s u f.tyT false)).any (fun x => (decodeF f.tyT.fty x).isNan) = false)
    ∧ (∃ (f : Fields) (s u : State), f.tyT.isF = true ∧ Fires f (sregDests f) s u ∧ elems 2 (opIn f s u f.tyT false) = [])
    ∧ ∃ v : List Nat, v ≠ [] :=
  let f : Fields := { fTok with ty := 3, srcB := 3 }
  let s := fun (p : Bytes) => stateOf { set2 with tokA := some ⟨{}, p, 0⟩, tokB := none }
  ⟨⟨fTok, _, _, by decide, fires_stateOf _ _ rfl⟩,
    ⟨f, s [0, 0x7E], s [0, 0x7E], by decide, fires_at _ _ _ (by decide) (by decide) (by decide), by decide⟩,
    ⟨f, s [0, 0x3C], s [0, 0x3C], by decide, fires_at _ _ _ (by decide) (by decide) (by decide), by decide, by decide⟩,
    ⟨f, s [], s [], by decide, fires_at _ _ _ (by decide) (by decide) (by decide), by decide⟩, [0], by decide⟩
theorem witness_PermuteResults : ∃ (f : Fields) (s u : State), Fires f (sregDests f) s u :=
  ⟨{ fTok with ty := 13, lit := 0xA8000003 }, _, _, fires_stateOf _ _ rfl⟩
theorem witness_RoundingIsCorrect : ∃ x z : Machine.Num, FTy.e2m1 ∈ [FTy.f32, .bf16, .f16, .e4m3, .e5m2, .e2m1] ∧ x.sticky = false
    ∧ decodeF .e2m1 FTy.e2m1.maxCode = .fin z
    ∧ |(if x.neg then -1 else 1) * (x.m : Rat) * (2 : Rat) ^ x.e| ≤ |(if z.neg then -1 else 1) * (z.m : Rat) * (2 : Rat) ^ z.e| :=
  ⟨⟨false, 0, 0, false⟩, _, by decide, rfl, rfl, by simp⟩
theorem witness_RoundingKeepsItsValues : ∃ (t : FTy) (c : Nat), c < 2 ^ (t.signBit + 1) ∧ (decodeF t c).isNan = false :=
  ⟨.f16, 0x3C00, by decide, by decide⟩
theorem witness_ExactArithmetic : ∃ x y : Machine.Num, x.sticky = false ∧ y.sticky = false ∧ x.m ≠ 0 ∧ x.m = y.m ∧ x.neg ≠ y.neg :=
  ⟨⟨false, 1, 0, false⟩, ⟨true, 1, 0, false⟩, by decide, by decide, by decide, by decide, by decide⟩
theorem witness_FiringRule :
    (∃ (i : Instr) (m : BitVec 6) (n : BitVec 8) (f : Fields) (s : State), i.parts = some (m, n, f) ∧ s.cur.anyNull = true
        ∧ f.pm = 3 ∧ m ≠ 0x10 ∧ ¬ (m = 0x0C ∧ n = 2))
    ∧ (∃ (i : Instr) (m : BitVec 6) (n : BitVec 8) (f : Fields) (s : State), i.parts = some (m, n, f) ∧ s.cur.anyNull = false
        ∧ f.pm = 1 ∧ s.cur.stTag.pred = false)
    ∧ (∃ s : State, s.cur.anyNull = false ∧ predOk fTok s.cur.stTag = true ∧ 1 ≤ s.level (s.regionCtx s.cur.region)
        ∧ s.cur.stTag.level = 0xFFFFFFFF)
    ∧ ∃ s : State, s.cur.anyNull = true ∧ 1 ≤ s.level (s.regionCtx s.cur.region) ∧ s.cur.stTag.level = 0xFFFFFFFF :=
  ⟨⟨.ialuAdd { fTok with pm := 3 }, 1, 0, _, stateOf setNull, rfl, by decide, by decide, by decide, by decide⟩,
    ⟨.ialuAdd { fTok with pm := 1 }, 1, 0, _, stateOf set2, rfl, by decide, by decide, by decide⟩,
    ⟨ordered { set2 with tokA := some ⟨{ level := 0xFFFFFFFF }, [], 0⟩ }, by decide, by decide, by decide, by decide⟩,
    ordered { set2 with tokA := some ⟨{ level := 0xFFFFFFFF, null := true }, [], 0⟩ }, by decide, by decide, by decide⟩
theorem witness_ControlResults :
    (∃ (f : Fields) (s u : State), ∀ regs, Fires f regs s u) ∧ ∃ (f : Fields) (s : State), s.cur.anyNull = true ∧ f.pm = 3 :=
  ⟨⟨fTok, stateOf set2, stateOf set2, fun regs => fires_stateOf fTok regs rfl⟩, { fTok with pm := 3 }, stateOf setNull, by decide, by decide⟩
/-- Every tag action, and a frame of two levels, of 9 and 17 bits. -/
theorem witness_TagActions :
    (∀ k : BitVec 4, ∃ f : Fields, f.tag = k)
    ∧ ∃ (s : State) (fi : Firing) (ls : List (BitVec 16)) (w : BitVec 16), s.levelsOf fi = ls ++ [w]
        ∧ ((ls ++ [w]).map levelWidth).sum ≤ 64 ∧ 1 ≤ s.level (s.regionCtx fi.region) ∧ (∃ p : Bytes, some p ≠ none) :=
  ⟨fun k => ⟨{ fTok with tag := k }, rfl⟩,
    { ordered set2 with regions := [(1, { launch := { launch1 with levels := [8, 16] } })] }, set2, [8], 16, rfl, by decide, by decide,
    [], by simp⟩
theorem witness_ResultsToStations : ∃ (s : State) (f : Fields) (fi : Firing) (res : Bytes),
    (f.dstA.toNat < 0x40 ∧ f.dstB.toNat = 0x7F) ∧ f.tag ≠ 6 ∧ ((s.tile fi.at_).pass? fi.inst).isSome = true ∧ res.length ≤ 128
    ∧ (s.tile fi.at_).sregs.length = 8 ∧ ∀ r ∈ (s.tile fi.at_).sregs, r.length = 128 :=
  ⟨stateOf set2, fTok, set2, [1], by decide, by decide, by decide, by decide, by decide, by decide +kernel⟩
theorem witness_ExitAndStateResults :
    (∃ (f : Fields) (s u : State), ∀ regs, Fires f regs s u) ∧ ∃ (f : Fields) (s : State), s.cur.anyNull = true ∧ f.pm = 3 :=
  witness_ControlResults

/-- A fault of a station, with and without a station named in its place. -/
def fault1 : FaultInfo :=
  { index := 2, code := 1, sync := true, ctx := 0, die := 0, tile := some 0, region := 1, job := some ⟨set2, fTok⟩, detail := [] }

theorem witness_FaultRecordBytes : (∃ (x : FaultInfo) (j : Job), x.job = some j ∧ x.named = none)
    ∧ ∃ (x : FaultInfo) (slot n : Nat), x.named = some (slot, n) :=
  ⟨⟨fault1, _, rfl, rfl⟩, { fault1 with named := some (1, 2) }, 1, 2, rfl⟩

/-- A trap entry that names station 0, side A, of block 0 on the faulting tile, and an image at 0x10000 whose block 0 covers tile 0
and has an instruction at station 0. -/
def trapEntry : BitVec 64 := BitVec.ofNat 64 (2 ^ 63 + 2 ^ 62)
def page1 : PageMap := ⟨0x10000, BitVec.ofNat 64 (2 ^ 63 + 2 ^ 58)⟩
def trapState : State :=
  { stateOf set2 with
    regions := [(1, { launch := { launch1 with blocks := 1, image := 0x10000 }, tiles := [⟨0, 0⟩] })]
    ctxDies := [(cdKey 0 0, { pages := [page1], trape := List.replicate 32 trapEntry })]
    mem := [(0, 1)] }
/-- All 64 pending entries in use, by an asynchronous fault each. -/
def fullState : State :=
  { stateOf set2 with ctxDies := [(cdKey 0 0, { pending := (List.range 64).map (fun k => (k, ⟨8, 1, false, true, none, none⟩)) })] }

/-- A free context; a context-end fault; entry 0 free, with a usable entry and with none; all entries in use, for both kinds. -/
theorem witness_FaultIsTaken :
    (∃ (s : State) (x : FaultInfo), (s.ctx x.ctx).st = .free)
    ∧ (∃ (s : State) (x : FaultInfo), x.index = 9 ∧ (s.ctx x.ctx).st = .idle)
    ∧ (∃ (s : State) (x : FaultInfo), (s.ctx x.ctx).st ≠ .free ∧ (s.ctx x.ctx).st ≠ .ended ∧ (s.ctx x.ctx).st ≠ .idle
        ∧ (s.ctx x.ctx).st ≠ .saved ∧ x.index = 9 ∧ s.trapNow x.ctx = none)
    ∧ (∃ (s : State) (x : FaultInfo) (k n : Nat), (s.ctx x.ctx).st ≠ .free ∧ (s.ctx x.ctx).st ≠ .ended ∧ ¬ (x.index = 1 ∨ x.index = 9)
        ∧ k < 63 ∧ NMap.find (s.cd x.ctx x.die).pending k = none ∧ (∀ i < k, NMap.find (s.cd x.ctx x.die).pending i ≠ none)
        ∧ s.usableEntry x ((s.cd x.ctx x.die).trape.getD x.index 0) = some n)
    ∧ (∃ (s : State) (x : FaultInfo), (s.ctx x.ctx).st ≠ .free ∧ NMap.find (s.cd x.ctx x.die).pending 0 = none
        ∧ s.usableEntry x ((s.cd x.ctx x.die).trape.getD x.index 0) = none)
    ∧ (∃ (s : State) (x : FaultInfo) (j : Job), x.sync = true ∧ x.job = some j ∧ ¬ (x.index = 1 ∨ x.index = 9)
        ∧ ∀ i < 63, NMap.find (s.cd x.ctx x.die).pending i ≠ none)
    ∧ ∃ (s : State) (x : FaultInfo), x.sync = false ∧ ∀ i < 64, NMap.find (s.cd x.ctx x.die).pending i ≠ none :=
  ⟨⟨{}, fault1, rfl⟩, ⟨{ ctxs := [(0, { st := .idle })] }, { fault1 with index := 9 }, rfl, rfl⟩,
    ⟨stateOf set2, { fault1 with index := 9 }, by decide, by decide, by decide, by decide, rfl, by decide⟩,
    ⟨trapState, fault1, 0, 0, by decide, by decide, by decide, by decide, by decide, by decide, by decide⟩,
    ⟨stateOf set2, fault1, by decide, by decide, by decide⟩,
    ⟨fullState, fault1, ⟨set2, fTok⟩, rfl, rfl, by decide, by decide +kernel⟩, fullState, { fault1 with sync := false }, rfl, by decide +kernel⟩
theorem witness_UsableEntries : ∃ (s : State) (x : FaultInfo) (r : Region), s.region? x.region = some r :=
  ⟨trapState, fault1, _, rfl⟩
/-- A pass with room, a full one and one whose exit token is sent; an effect that was held and one that was not; a cycle that ends. -/
theorem witness_HeldEffects :
    (∃ (s : State) (fi : Firing) (p : Pass), (s.tile fi.at_).pass? fi.inst = some p ∧ p.held.length + (if p.exits = [] then 0 else 1) < p.quota)
    ∧ (∃ (s : State) (fi : Firing) (p : Pass), (s.tile fi.at_).pass? fi.inst = some p ∧ p.quota ≤ p.held.length)
    ∧ (∃ s : State, s.overfull = false ∧ set2.at_ ∈ s.touched ∧ ∀ c ∈ s.batch, firesAt set2.at_ c = false) ∧ ∃ s : State, s.overfull = true :=
  ⟨⟨stateOf set2, set2, pass1, by decide, by decide⟩,
    ⟨{ stateOf set2 with tiles := [(0, { passes := [{ pass1 with quota := 0 }] })] }, set2, { pass1 with quota := 0 }, by decide, by decide⟩,
    ⟨{ touched := [⟨0, 0⟩] }, rfl, by decide, by decide⟩, { overfull := true }, rfl⟩
/-- A token to an exit. -/
def exitTok (x : Nat) : ExitTok := ⟨x, .exit x {} false 0 0, true⟩
/-- Exit tokens from an open pass with room, from a full one and after its end; two of one cycle, the second to the lower exit. -/
theorem witness_PassCommits :
    (∃ (s : State) (fi : Firing) (p : Pass), (s.tile fi.at_).pass? fi.inst = some p ∧ p.exits = [] ∧ p.held.length < p.quota)
    ∧ (∃ (s : State) (fi : Firing) (p : Pass), (s.tile fi.at_).pass? fi.inst = some p ∧ p.exits = [] ∧ p.quota ≤ p.held.length)
    ∧ (∃ (s : State) (fi : Firing), (s.tile fi.at_).pass? fi.inst = none)
    ∧ ∃ (s : State) (p : Pass), p.exits = [exitTok 2] ++ exitTok 1 :: [] ∧ (∀ y ∈ [exitTok 2], (exitTok 1).exit < y.exit) ∧ p.handler = false
        ∧ s.ready.any (fun q => q.at_ = ⟨0, 0⟩ && q.inst = p.id) = true :=
  ⟨⟨stateOf set2, set2, pass1, by decide, by decide, by decide⟩,
    ⟨{ stateOf set2 with tiles := [(0, { passes := [{ pass1 with quota := 0 }] })] }, set2, { pass1 with quota := 0 }, by decide, by decide, by decide⟩,
    ⟨{}, set2, by decide⟩, { stateOf set2 with ready := [set2] }, { pass1 with exits := [exitTok 2, exitTok 1] }, by decide, by decide, by decide, by decide⟩
/-- Two writes of one cycle to a state register, of which the second, of the higher station, stands; one to a weight-scale register and one to an
address register. -/
theorem witness_RegistersAtCycleEnd :
    let w1 : RegWrite := ⟨3, .s 0, 0, [1, 2]⟩
    let w2 : RegWrite := ⟨5, .s 0, 1, [3]⟩
    let w3 : RegWrite := ⟨5, .w 0, 0, zeros 32⟩
    let w4 : RegWrite := ⟨6, .a 0, 0, [9]⟩
    let x : Tile := { regNext := [w1, w2, w3, w4] }
    (w2.reg = .s 0 ∧ w2.off ≤ 1 ∧ 1 < w2.off + w2.bytes.length ∧ w1.station ≤ w2.station) ∧ 0 < x.sregs.length ∧ 1 < (x.sreg 0).length
    ∧ (∀ w ∈ x.regNext, ¬ (w.reg = .s 0 ∧ w.off ≤ 2 ∧ 2 < w.off + w.bytes.length))
    ∧ 0 < x.wregs.length ∧ 31 < (x.wregs.getD 0 []).length ∧ (∀ q ∈ x.regNext, ∀ n, q.reg = .w n → q.off = 0)
    ∧ 0 < x.aregs.length ∧ ∀ w ∈ x.regNext, w.reg ≠ .a 1 := by
  refine ⟨by decide, by decide, by decide +kernel, by decide, by decide, by decide +kernel, ?_, by decide, by decide⟩
  simp
/-- A ticket that names a pending entry (0), and one that names none. -/
theorem witness_SystemResults :
    (∃ (f : Fields) (s u : State), (∀ regs, Fires f regs s u)
        ∧ NMap.find (u.cd (u.regionCtx s.cur.region) (leNat (sliceB (opIn f s u .none false) 12 4) / 64 % 8)).pending 0 = none)
    ∧ (∃ (f : Fields) (s u : State) (p : Pending), (∀ regs, Fires f regs s u)
        ∧ leNat (sliceB (opIn f s u .none false) 12 4) = 0 ∧ u.pkg = 0
        ∧ NMap.find (u.cd (u.regionCtx s.cur.region) 0).pending 0 = some p)
    ∧ ∃ (f : Fields) (s u : State), Fires f [] s u ∧ (u.consume s.cur).trapNow (u.regionCtx s.cur.region) = none :=
  ⟨⟨fTok, stateOf set2, stateOf set2, fun r => fires_stateOf fTok r rfl, by decide⟩,
    ⟨fTok, fullState, fullState, _, fun r => fires_at fTok r fullState (by decide) (by decide) (by decide), by decide +kernel, rfl, rfl⟩,
    fTok, stateOf set2, stateOf set2, fires_stateOf fTok _ rfl, by decide⟩
/-- A halted context whose last stopping trap, of a station, is released. -/
def haltedState : State :=
  { stateOf set2 with
    ctxs := [(0, { st := .halted })]
    ctxDies := [(cdKey 0 0, { pending := [(0, ⟨2, 1, true, true, some ⟨set2, { fTok with dstA := 0x7F }⟩, none⟩)] })] }
theorem witness_TrapIsReleased :
    let p : Pending := ⟨2, 1, true, true, some ⟨set2, { fTok with dstA := 0x7F }⟩, none⟩
    let t := haltedState.dropTrap 0 0 0 p (some [1])
    p.sync = true ∧ p.index ≠ 10 ∧ p.stopping = true ∧ t.stopPending 0 = false ∧ (t.ctx 0).st = .halted ∧ (t.ctx 0).brk = []
    ∧ t.ready.any (fun q => q.stopped) = false
    ∧ (haltedState.stopPending 0 = true) ∧ ∃ a : Access, ({ p with index := 10, acc := some a } : Pending).acc = some a := by
  refine ⟨by decide, by decide, by decide, by decide, by decide, by decide, by decide, by decide, ⟨⟨set2, fTok⟩, 0x14, 0, [], [], none, 0, 0, 0, 0, 0⟩, rfl⟩
/-- The state that a gate carries. -/
def gateState : Gate → State
  | .go s => s
  | .wait s => s

/-- Precise stops off and on; FREE, ORDERED, RECORD with room in the ring, and REPLAY with no record to satisfy. -/
theorem witness_ObservationResults :
    (∃ (f : Fields) (s u : State), Fires f (sregDests f) s u ∧ u.level 0 = 0 ∧ (u.cd 0 0).obs.ctl.getLsbD 1 = false)
    ∧ (∃ (f : Fields) (s u : State), Fires f (sregDests f) s u ∧ (u.cd 0 0).obs.ctl.getLsbD 1 = true)
    ∧ (∃ (f : Fields) (s u : State), Fires f (sregDests f) s u ∧ 1 ≤ u.level 0)
    ∧ (∃ (f : Fields) (s u v : State) (r : LogRec), Fires f (sregDests f) s u ∧ u.logEvent 0 0 r = .go v ∧ u.level 0 = 2)
    ∧ ∃ (f : Fields) (s u v : State) (r : LogRec), Fires f (sregDests f) s u ∧ u.logEvent 0 0 r = .wait v ∧ u.level 0 = 3 :=
  let atLevel := fun (m : BitVec 64) => { stateOf set2 with ctxs := [(0, { st := .running, mode := m })] }
  ⟨⟨fTok, _, _, fires_stateOf fTok _ rfl, by decide, by decide⟩,
    (let s := { stateOf set2 with ctxDies := [(cdKey 0 0, { obs := { ctl := 2 } })] }
     ⟨fTok, s, s, fires_at fTok _ s (by decide) (by decide) (by decide), by decide⟩),
    ⟨fTok, ordered set2, ordered set2, ⟨by decide, by decide, .inr (by decide), rfl⟩, by decide⟩,
    ⟨fTok, atLevel 2, atLevel 2, gateState ((atLevel 2).logEvent 0 0 ⟨11, 0, 0, 0, 0, 0, 0⟩), ⟨11, 0, 0, 0, 0, 0, 0⟩,
      ⟨by decide, by decide, .inr (by decide), by decide +kernel⟩, by decide +kernel, by decide⟩,
    (let s := { atLevel 3 with ctxDies := [(cdKey 0 0, { ring := { lowPosted := true } })] }
     ⟨fTok, s, s, s, ⟨11, 0, 0, 0, 0, 0, 0⟩, ⟨by decide, by decide, .inr (by decide), by decide +kernel⟩, by decide +kernel, by decide⟩)⟩
/-- A set whose side A is a descriptor and side B four bytes; a state in which the launch has a writable lease over 64 KiB at 0x10000, a
window of 16 bytes in it, two levels of 9 and 17 bits and one block, and the context its page. -/
def setD (d : Bytes) : Firing := { set2 with tokA := some ⟨{}, d, 0⟩, tokB := some ⟨{}, [1, 0, 0, 0], 0⟩ }
def launchM : Launch :=
  { launch1 with leases := [⟨0x10000, 0x10000, true, 0⟩], windows := [(0, (0x10000, 16))], levels := [8, 16], image := 0x10000, blocks := 1 }
def memState (d : Bytes) : State :=
  { stateOf (setD d) with
    regions := [(1, { launch := launchM, tiles := [⟨0, 0⟩] })]
    ctxDies := [(cdKey 0 0, { pages := [page1] })] }
theorem fires_mem (f : Fields) (regs : List Nat) (d : Bytes) (hp : f.pm = 0) : Fires f regs (memState d) (memState d) :=
  fires_at f regs _ rfl (by simp [predOk, hp]) (by with_unfolding_all rfl)

/-- For each minor: an address past the end; no element; elements in place, and an idle granule unit. -/
theorem witness_LocalMemoryResults :
    (∃ (f : Fields) (s : State) (i : Nat), (∀ regs, Fires f regs s s) ∧ i < 3 ∧ f.qual = 0
        ∧ leNat (sliceB (descriptorOn s ⟨s.cur, f⟩ false) 0 4) = 0x30000 - 1 ∧ f.tyT.size = 2)
    ∧ (∃ (f : Fields) (s : State), (∀ regs, Fires f regs s s) ∧ (byteAt (descriptorOn s ⟨s.cur, f⟩ false) 4).toNat / f.tyT.size = 0
        ∧ (byteAt (descriptorOn s ⟨s.cur, f⟩ false) 4).toNat = 1)
    ∧ ∃ (f : Fields) (s : State), (∀ regs, Fires f regs s s) ∧ leNat (sliceB (descriptorOn s ⟨s.cur, f⟩ false) 0 4) = 0x30000 - 128
        ∧ (byteAt (descriptorOn s ⟨s.cur, f⟩ false) 4).toNat = 0 ∧ ((s.tile s.cur.at_).fwd.length < 16)
        ∧ (s.firstWaiting s.cur.at_).1 = none ∧ (∀ w, s.behindRecord s.cur.at_ w = false) ∧ f.qual = 0 :=
  ⟨⟨fTok, memState (leBytes 4 0x2FFFF), 0, fun r => fires_mem fTok r _ rfl, by decide, by decide, by decide, by decide⟩,
    ⟨fTok, memState [0, 0, 0, 0, 1], fun r => fires_mem fTok r _ rfl, by decide, by decide⟩,
    fTok, memState (leBytes 4 0x2FF80), fun r => fires_mem fTok r _ rfl, by decide, by decide, by decide, by decide, fun _ => rfl, by decide⟩
theorem witness_LeaseRule : ∃ (l : Launch), 0 < 1 ∧ (∀ r ∈ l.leases, 0 < r.size ∧ r.kind < 4)
    ∧ firstDenied l true 0x10000 0x10000 = none ∧ firstDenied l true 0x10000 0x10001 = some 0x20000 ∧ firstDenied l false (2 ^ 64 - 1) 2 = some (2 ^ 64 - 1) :=
  ⟨launchM, by decide, by decide, by decide, by decide, by decide⟩
/-- A load of 128 bytes within the lease, of no element, past the lease; a gather of one row; a window read below and at its bound. -/
theorem witness_LoadResults :
    let ea := fun (s : State) (f : Fields) => leNat (sliceB (descriptorOn s ⟨s.cur, f⟩ false) 0 8)
    let l := fun (s : State) (f : Fields) => (byteAt (descriptorOn s ⟨s.cur, f⟩ false) 9).toNat
    let ok := fun (f : Fields) (s : State) => Fires f (sregDests f) s s ∧ ∃ r, s.region? s.cur.region = some r ∧ r.launch = launchM
    let fz : Fields := { fTok with srcB := 3 }
    (∃ s, ok fz s ∧ ea s fz = 0x10000 ∧ l s fz = 0 ∧ firstDenied launchM false 0x10000 128 = none ∧ (s.tile s.cur.at_).freeSlot = some 0
        ∧ s.watchHit { job := ⟨s.cur, fz⟩, major := 0x14, minor := 0, loads := [(0x10000, 128)], size := 128 } = none)
    ∧ (∃ s, ok fz s ∧ ea s fz = 0x10000 ∧ l s fz = 1 ∧ 1 / fz.tyT.size = 0)
    ∧ (∃ s, ok fz s ∧ ea s fz = 0x20000 ∧ firstDenied launchM false 0x20000 128 = some 0x20000)
    ∧ (∃ s, ok fz s ∧ l s fz = 1 ∧ leNat (sliceB (descriptorOn s ⟨s.cur, fz⟩ false) 10 2) = 4
        ∧ leNat (sliceB (descriptorOn s ⟨s.cur, fz⟩ false) 24 4) = 0 ∧ firstDenied launchM false 0x10000 4 = none)
    ∧ (∃ s, s.window? s.cur.region 0 = some (0x10000, 16) ∧ ok fz s ∧ ea s fz = 15) ∧ ∃ s, ok fz s ∧ ea s fz = 16 := by
  refine ⟨⟨memState (leBytes 8 0x10000), ⟨fires_mem _ _ _ rfl, _, rfl, rfl⟩, by decide, by decide, by decide, by decide, by decide⟩,
    ⟨memState (leBytes 8 0x10000 ++ [0, 1]), ⟨fires_mem _ _ _ rfl, _, rfl, rfl⟩, by decide, by decide, by decide⟩,
    ⟨memState (leBytes 8 0x20000), ⟨fires_mem _ _ _ rfl, _, rfl, rfl⟩, by decide, by decide⟩,
    ⟨memState (leBytes 8 0x10000 ++ [0, 1, 4, 0]), ⟨fires_mem _ _ _ rfl, _, rfl, rfl⟩, by decide, by decide, by decide, by decide⟩,
    ⟨memState [15], by decide, ⟨fires_mem _ _ _ rfl, _, rfl, rfl⟩, by decide⟩, memState [16], ⟨fires_mem _ _ _ rfl, _, rfl, rfl⟩, by decide⟩
/-- Stores and copies within the lease; a copy into a scratchpad; an empty scatter; a store past the lease. -/
theorem witness_StoreResults :
    let d := fun (s : State) => descriptorOn s ⟨s.cur, fTok⟩ false
    let ok := fun (s : State) => Fires fTok [] s s ∧ ∃ r, s.region? s.cur.region = some r ∧ r.launch = launchM
    (∃ s, ok s ∧ leNat (sliceB (d s) 0 8) = 0x10000 ∧ (byteAt (d s) 9).toNat = 0 ∧ (s.cur.payload true).length = 4
        ∧ firstDenied launchM true 0x10000 4 = none)
    ∧ (∃ s, ok s ∧ leNat (sliceB (d s) 0 8) = 0x20000 ∧ firstDenied launchM true 0x20000 4 = some 0x20000)
    ∧ (∃ s, ok s ∧ (byteAt (d s) 9).toNat = 1 ∧ leNat (sliceB (d s) 12 4) = 1 ∧ firstDenied launchM true 0x10000 2 = none)
    ∧ (∃ s, ok s ∧ leNat (sliceB (d s) 8 8) = 0x10040 ∧ leNat (sliceB (d s) 16 4) = 64 ∧ (byteAt (d s) 48).getLsbD 0 = false
        ∧ firstDenied launchM false 0x10000 64 = none ∧ firstDenied launchM true 0x10040 64 = none)
    ∧ ∃ s, ok s ∧ (byteAt (d s) 48).getLsbD 0 = true ∧ leNat (sliceB (d s) 50 2) % 1024 = 0
        ∧ ∃ r, s.region? s.cur.region = some r ∧ ⟨s.cur.die, 0⟩ ∈ r.tiles :=
  ⟨⟨memState (leBytes 8 0x10000), ⟨fires_mem _ _ _ rfl, _, rfl, rfl⟩, by decide, by decide, by decide, by decide⟩,
    ⟨memState (leBytes 8 0x20000), ⟨fires_mem _ _ _ rfl, _, rfl, rfl⟩, by decide, by decide⟩,
    ⟨memState (leBytes 8 0x10000 ++ [0, 1, 0, 0, 1]), ⟨fires_mem _ _ _ rfl, _, rfl, rfl⟩, by decide, by decide, by decide⟩,
    ⟨memState (leBytes 8 0x10000 ++ leBytes 8 0x10040 ++ [64]), ⟨fires_mem _ _ _ rfl, _, rfl, rfl⟩, by decide, by decide, by decide, by decide,
      by decide⟩,
    memState (zeros 48 ++ [1]), ⟨fires_mem _ _ _ rfl, _, rfl, rfl⟩, by decide, by decide, _, rfl, by decide⟩
/-- An aligned operand, one that is not, one past the lease; a free reply slot and none. -/
theorem witness_AtomicAndBarrierResults :
    let ea := fun (s : State) => leNat (sliceB (descriptorOn s ⟨s.cur, fTok⟩ false) 0 8)
    let ok := fun (s : State) => Fires fTok (sregDests fTok) s s ∧ ∃ r, s.region? s.cur.region = some r ∧ r.launch = launchM
    (∃ s, ok s ∧ ea s = 0x10000 ∧ firstDenied launchM true 0x10000 64 = none ∧ (s.tile s.cur.at_).freeSlot = some 0)
    ∧ (∃ s, ok s ∧ ea s = 0x10001) ∧ (∃ s, ok s ∧ ea s = 0x20000 ∧ firstDenied launchM true 0x20000 64 = some 0x20000)
    ∧ ∃ s : State, (s.tile s.cur.at_).freeSlot = none := by
  refine ⟨⟨memState (leBytes 8 0x10000), ⟨fires_mem _ _ _ rfl, _, rfl, rfl⟩, by decide, by decide, by decide⟩,
    ⟨memState (leBytes 8 0x10001), ⟨fires_mem _ _ _ rfl, _, rfl, rfl⟩, by decide⟩,
    ⟨memState (leBytes 8 0x20000), ⟨fires_mem _ _ _ rfl, _, rfl, rfl⟩, by decide, by decide⟩,
    ⟨{ tiles := [(0, { replies := (List.range 64).map (fun k => (k, { job := ⟨set2, fTok⟩, kind := .data, major := 0x14, serial := k })) })] }, by decide +kernel⟩⟩
/-- No earlier access, and one that has not completed. -/
theorem witness_OrderAndJoinResults :
    (∃ s : State, Fires fTok (sregDests fTok) s s ∧ (s.tile s.cur.at_).earlier = [] ∧ (s.tile s.cur.at_).instOpen s.cur.inst = [])
    ∧ ∃ s : State, Fires fTok (sregDests fTok) s s ∧ (s.tile s.cur.at_).earlier ≠ [] ∧ (s.tile s.cur.at_).instOpen s.cur.inst ≠ [] :=
  ⟨⟨stateOf set2, fires_stateOf _ _ rfl, by decide, by decide⟩,
    (let s := { stateOf set2 with tiles := [(0, { region := 1, outs := [⟨7, 1, ⟨set2, fTok⟩, true, [0], [0], false⟩] })] }
     ⟨s, fires_at fTok _ s (by decide) (by decide) (by decide), by decide, by decide⟩)⟩
/-- One child at level 1 with room; no child; too many; a full table; a position that runs past the level; the tile itself as the target. -/
theorem witness_SpawnResults :
    let f : Fields := { fTok with lit := 0x00400000 }
    let ls := launchM.levels
    let ok := fun (s : State) => Fires f (sregDests f) s s ∧ ∃ r, s.region? s.cur.region = some r ∧ r.launch = launchM
    (∃ s, ok s ∧ (∀ i, 1 ≤ i → i < ls.length → levelField ls s.cur.stTag.frame i = 0) ∧ leNat (sliceB (opIn f s s .none true) 0 4) = 1
        ∧ (s.tile s.cur.at_).spawns.length < 128 ∧ 0 + 1 ≤ 2 ^ widthOf ls 1 - 1)
    ∧ (∃ s : State, levelField ls s.cur.stTag.frame 1 ≠ 0)
    ∧ (∃ s : State, ¬ ((lookupK (s.tile s.cur.at_).spawns (0, 1)).isSome = true ∨ (s.tile s.cur.at_).spawns.length < 128))
    ∧ (∃ s : State, (lookupK (s.tile s.cur.at_).spawns (0, 1)).getD 0 + 1 > 2 ^ widthOf ls 1 - 1)
    ∧ ∃ (s : State) (r : Region), s.region? s.cur.region = some r ∧ s.hasTile r 0 0 0 = true
        ∧ s.inDomain (((ls[1]?).map levelDomain).getD 5) s.cur.at_ 0 0 0 = true ∧ inBounds (s.imageDesc r.launch 0) 0 = true :=
  ⟨⟨memState [], ⟨fires_mem _ _ _ rfl, _, rfl, rfl⟩, by decide, by decide, by decide, by decide⟩,
    ⟨stateOf { set2 with tokA := some ⟨{ frame := BitVec.ofNat 64 (2 ^ 40) }, [], 0⟩ }, by decide⟩,
    ⟨{ tiles := [(0, { spawns := (List.range 128).map (fun k => ((1, k), 0)) })] }, by decide +kernel⟩,
    ⟨{ tiles := [(0, { spawns := [((0, 1), 2 ^ 64)] })] }, by decide +kernel⟩, memState [], _, rfl, by decide, by decide, by decide +kernel⟩
/-- A length of 0 and past 2^40; a mapped page whose ends the range meets; the pin list with room and full; a page and none. -/
theorem witness_AspaceResults :
    let a := fun (s : State) => leNat (sliceB (descriptorOn s ⟨s.cur, fTok⟩ false) 0 8)
    let n := fun (s : State) => leNat (sliceB (descriptorOn s ⟨s.cur, fTok⟩ false) 8 8)
    let ok := fun (s : State) => Fires fTok (sregDests fTok) s s ∧ (s.tile s.cur.at_).freeSlot = some 0
      ∧ ∃ r, s.region? s.cur.region = some r ∧ r.launch = launchM
    (∃ s, ok s ∧ n s = 0) ∧ (∃ s, ok s ∧ a s = 0x10000 ∧ n s = 0x10000 ∧ firstDenied launchM true 0x10000 0x10000 = none
        ∧ 0x10000 / 2 ^ 54 % 1024 = s.pkg ∧ addendOn s ⟨s.cur, fTok⟩ 4 = 1 ∧ (s.cd 0 0).pins.length < 64 ∧ s.page? 0 0x10000 = some page1)
    ∧ (∃ s, ok s ∧ s.page? 0 0x30000 = none) ∧ ∃ s : State, 64 ≤ (s.cd 0 0).pins.length :=
  ⟨⟨memState [], ⟨fires_mem _ _ _ rfl, rfl, _, rfl, rfl⟩, by decide⟩,
    ⟨memState (leBytes 8 0x10000 ++ leBytes 8 0x10000), ⟨fires_mem _ _ _ rfl, rfl, _, rfl, rfl⟩, by decide, by decide, by decide, by decide, by decide,
      by decide, by decide⟩,
    ⟨memState [], ⟨fires_mem _ _ _ rfl, rfl, _, rfl, rfl⟩, by decide⟩, { ctxDies := [(0, { pins := List.replicate 64 (0, 1) })] }, by decide⟩
/-- A gather of two elements with different owners; a window within no lease. -/
theorem witness_LoadResults_denied :
    (∃ s, Fires fTok (sregDests fTok) s s ∧ leNat (sliceB (descriptorOn s ⟨s.cur, fTok⟩ false) 0 8) = 2 ^ 51 - 2
        ∧ (byteAt (descriptorOn s ⟨s.cur, fTok⟩ false) 9).toNat = 2 ∧ leNat (sliceB (descriptorOn s ⟨s.cur, fTok⟩ false) 28 4) = 1
        ∧ (2 ^ 51 - 2 + 2 + 2 - 1) / 2 ^ 51 ≠ (2 ^ 51 - 2) / 2 ^ 51)
    ∧ firstDenied { launch1 with windows := [(0, (0x10000, 16))] } false 0x10000 16 = some 0x10000 :=
  ⟨⟨memState (leBytes 8 (2 ^ 51 - 2) ++ [0, 2] ++ zeros 14 ++ leBytes 4 0 ++ leBytes 4 1), fires_mem _ _ _ rfl, by decide, by decide, by decide,
    by decide⟩, by decide⟩
/-- A tile whose channel 0 is bound to island 0, of which it has `n` free slots. -/
def islState (d : Bytes) (n : Nat) : State :=
  { memState d with tiles := [(0, { region := 1, passes := [pass1], channels := [(0, BitVec.ofNat 64 (4 * 2 ^ 13))], chanFree := [(0, n)] })] }
/-- Free slots and none; a row in place; ranges within the island; a load of one column and one position within the lease. -/
theorem witness_IslandCommandsAreSent :
    let f : Fields := { fTok with ty := 2 }
    let d := fun (s : State) => descriptorOn s ⟨s.cur, f⟩ false
    let ok := fun (s : State) => Fires f (sregDests f) s s ∧ ∃ r b, s.region? s.cur.region = some r ∧ r.launch = launchM
      ∧ NMap.find (s.tile s.cur.at_).channels (f.lit.toNat % 8) = some b ∧ fieldOf b 13 3 = 4
    (∃ s, ok s ∧ NMap.getD (s.tile s.cur.at_).chanFree 0 0 = 1 ∧ leNat (sliceB (d s) 4 2) < 256 * (s.island 0 0).rows
        ∧ leNat (sliceB (d s) 0 4) + rowLen f.tyT false ≤ 0x30000 ∧ (byteAt (d s) 6).toNat ≤ 16)
    ∧ (∃ s, ok s ∧ NMap.getD (s.tile s.cur.at_).chanFree 0 0 < 1)
    ∧ (∃ s, ok s ∧ leNat (sliceB (d s) 2 2) = 1 ∧ leNat (sliceB (d s) 0 2) + 1 ≤ 256 * (s.island 0 0).rows ∧ (byteAt (d s) 4).toNat < 8)
    ∧ ∃ s, ok s ∧ leNat (sliceB (d s) 0 8) = 0x10000 ∧ leNat (sliceB (d s) 16 2) = 1 ∧ leNat (sliceB (d s) 18 2) = 1
        ∧ (s.tile s.cur.at_).freeSlot = some 0 ∧ firstDenied launchM false 0x10000 (elemBytes f.tyT 32) = none ∧ 0 < elemBytes f.tyT 32 := by
  have h : ∀ d n, Fires { fTok with ty := 2 } (sregDests { fTok with ty := 2 }) (islState d n) (islState d n) :=
    fun d n => fires_at _ _ _ rfl rfl (by with_unfolding_all rfl)
  refine ⟨⟨islState [] 1, ⟨h _ _, _, _, rfl, rfl, rfl, by decide⟩, by decide, by decide, by decide +kernel, by decide⟩,
    ⟨islState [] 0, ⟨h _ _, _, _, rfl, rfl, rfl, by decide⟩, by decide⟩,
    ⟨islState [0, 0, 1, 0] 1, ⟨h _ _, _, _, rfl, rfl, rfl, by decide⟩, by decide, by decide, by decide⟩,
    islState (leBytes 8 0x10000 ++ zeros 8 ++ [1, 0, 1, 0]) 1, ⟨h _ _, { launch := launchM, tiles := [⟨0, 0⟩] }, BitVec.ofNat 64 (4 * 2 ^ 13), by decide +kernel, rfl, by decide +kernel, by decide +kernel⟩, by decide +kernel, by decide +kernel, by decide +kernel, by decide +kernel, by decide +kernel,
    by decide +kernel⟩
/-- A queued firing of each kind that succeeds and that fails; a sound record of one value in the scratchpad at 0. -/
theorem witness_KeyStoreResults :
    (∃ (f : Fields) (s : State), Fires f (sregDests f) s s)
    ∧ ∃ (s : State) (t : TileId) (j : Job) (js : List (Nat × Nat × Job)), s.ev = .keystoreCompletion t
        ∧ (s.tile t).kqueue = (0x20, 3, j) :: js
        ∧ (let v := s.modTile t (fun x => { x with kqueue := js })
           let unit : KUnit := { x := v.tile t, inst := j.fi.inst, keys := (v.tile t).keys }
           (∃ r, unit.rec? (leNat (sliceB (descriptorOn v j false) 0 4)) = .ok r ∧ r.m ≠ mUnset
              ∧ asSigned 32 (leNat (sliceB (descriptorOn v j false) 4 4)) ≤ r.ref)
           ∧ (∃ r, keyStep 0x20 2 j.f.lit unit [] = .ok r) ∧ ∃ e, keyStep 0x20 2 j.f.lit unit [1] = .error e) :=
  let j : Job := ⟨setD [], fTok⟩
  let s : State := { ({} : State) with ev := .keystoreCompletion ⟨0, 0⟩, tiles := [(0, { kqueue := [(0x20, 3, j)], spad := [(0x10, 1), (0x12, 1)] })] }
  ⟨⟨fTok, _, fires_stateOf fTok _ rfl⟩, s, ⟨0, 0⟩, j, [], rfl, rfl,
    ⟨⟨0, 0, 0, 0, 1, 1, zeros 12, [], [0]⟩, by decide +kernel, by decide, by decide +kernel⟩,
    ⟨_, by with_unfolding_all rfl⟩, ⟨0xB, 0, 1⟩, by decide +kernel⟩
/-- A die whose channel 0 has epoch 5 open since long; one whose channels are unopened. -/
def relState (d : Bytes) : State := { memState d with cycles := 10000, dies := [(0, { relChans := [(0, ⟨5, 0⟩)] })] }
theorem witness_RemoteAndReleaseResults :
    let d := fun (s : State) (f : Fields) => descriptorOn s ⟨s.cur, f⟩ false
    let f4 : Fields := { fTok with ty := 11 }
    let ok := fun (f : Fields) (s : State) => (∀ regs, Fires f regs s s) ∧ ∃ r, s.region? s.cur.region = some r ∧ r.launch = launchM
    (∃ s, ok fTok s ∧ leNat (sliceB (d s fTok) 0 8) = 0x10000 ∧ (byteAt (d s fTok) 8).toNat = 0 ∧ leNat (sliceB (d s fTok) 10 2) = 4
        ∧ firstDenied launchM false 0x10000 4 = none ∧ (s.tile s.cur.at_).freeSlot = some 0 ∧ 4 / fTok.tyT.size = 2)
    ∧ (∃ s e, ok f4 s ∧ leNat (sliceB (d s f4) 0 8) = 0x10000 ∧ firstDenied launchM true 0x10000 8 = none ∧ (s.tile s.cur.at_).freeSlot = some 0
        ∧ s.openEpoch 0 0 0 = some 5 ∧ s.flagTest 0 0 0 5 (0x10000 / 2 ^ 51 % 8192) = .ok e
        ∧ s.watchHit { job := ⟨s.cur, f4⟩, major := 0x22, minor := 1, writes := [(0x10000, sliceB (opIn f4 s s .none true) 0 8)],
                       size := 8, rc := 0, ring := 0 } = none)
    ∧ (∃ s, ok fTok s ∧ NMap.find (s.die 0).relChans (0 * 256 + 0) = some ⟨5, 0⟩ ∧ s.groupLive 0 0 0 ((5 + 255) % 256) = false
        ∧ s.cycles ≥ 0 + fieldOf (s.die 0).cctl 0 16 * 1900 / 32 ∧ (s.groupSends 0 0 0 5).any (fun e => e.st = .opened) = false)
    ∧ (∃ s, ok fTok s ∧ NMap.find (s.die 0).relChans (0 * 256 + 0) = none)
    ∧ ∃ s, ok fTok s ∧ s.relwaitTest 0 0 0 7 = .done s 7 := by
  have h : ∀ f d regs, f.pm = 0 → Fires f regs (relState d) (relState d) :=
    fun f d regs hp => fires_at _ _ _ rfl (by simp [predOk, hp]) (by with_unfolding_all rfl)
  refine ⟨⟨memState (leBytes 8 0x10000 ++ [0, 0, 4, 0]), ⟨fun r => fires_mem _ r _ rfl, _, rfl, rfl⟩, by decide, by decide, by decide, by decide,
      by decide, by decide⟩,
    ⟨relState (leBytes 8 0x10000), _, ⟨fun r => h _ _ r rfl, _, rfl, rfl⟩, by decide, by decide, by decide, by decide, by with_unfolding_all rfl, by decide⟩,
    ⟨relState [], ⟨fun r => h _ _ r rfl, _, rfl, rfl⟩, by decide, by decide, by decide, by decide⟩,
    ⟨memState [], ⟨fun r => fires_mem _ r _ rfl, _, rfl, rfl⟩, by decide⟩,
    relState [], ⟨fun r => h _ _ r rfl, _, rfl, rfl⟩, by decide +kernel⟩
/-- A sound work request in the scratchpad at 0; a counter that has met its target and one that has not; a message not started and none. -/
def netState : State :=
  { memState [] with
    tiles := [(0, { region := 1, passes := [pass1], spad := [(0, 1), (1, 1), (0x18, 64)] })]
    ctxDies := [(cdKey 0 0, { pages := [page1], endpoints := [(0, [1])] })] }
def msg1 : NetMsg := wrMsg ⟨set2, fTok⟩ 0 0 [1]
theorem witness_NetworkResults :
    (∃ s, Fires fTok (sregDests fTok) s s ∧ ∃ r, s.region? s.cur.region = some r ∧ r.launch = launchM
        ∧ leNat (sliceB (opIn fTok s s .none false) 0 4) = 0 ∧ s.wrBad ⟨s.cur, fTok⟩ r.launch ((s.tile s.cur.at_).spadRead s.cur.inst 0 64) = false
        ∧ (s.die 0).net.msgs = [] ∧ ncReached (NMap.getD (s.cd 0 0).ncnt 0 0) (leNat (sliceB (opIn fTok s s .none true) 0 4)) = false
        ∧ (s.cd 0 0).netDone.contains (s.cd 0 0).msgNo = false)
    ∧ ncReached 1 1 = true
    ∧ ∃ s : State, ((s.die 0).net.msgs.filter (fun m => m.2.ctx = 0)).find? (fun m => m.2.num = 0) = some (3, msg1) ∧ msg1.sent = 0
        ∧ NMap.find (s.die 0).net.upds 3 = none ∧ ((s.die 0).net.msgs.filter (fun m => m.2.ctx = 0)).filter (fun m => m.2.job.fi.tile = 0) ≠ [] :=
  ⟨⟨netState, fires_at fTok _ netState (by decide) (by decide) (by decide), _, rfl, rfl, by decide, by decide +kernel, by decide, by decide, by decide⟩,
    by decide, { dies := [(0, { net := { msgs := [(3, msg1)] } })] }, by decide +kernel, by decide, by decide, by decide +kernel⟩
/-- A grammar image at 0x10000 in grammar slot 0: one state, two symbols, four tokens, token t of class t, whose entry has operation t and
symbol 1; a request to it is queued. -/
def gramState (q : List GramReq) : State :=
  { memState [] with
    ev := .gramRequestPerform 0
    ctxDies := [(cdKey 0 0, { pages := [page1], gslots := [(0, 0x10001)] })]
    dies := [(0, { gram := { queue := q } })]
    mem := [(4, 1), (6, 2), (8, 4), (0xC, 4), (0x10, 0x40), (0x12, 1), (0x18, 0x80), (0x1A, 1), (0x20, 0xC0), (0x22, 1), (0x42, 1), (0x44, 2),
      (0x46, 3), (0x82, 0x40), (0x86, 0x40), (0x87, 0x40), (0x8A, 0x40), (0x8B, 0x80), (0x8E, 0x40), (0x8F, 0xC0)] }
/-- The cursor of depth 1 and trap depth `n`, symbol 1 at the top. -/
def cur1 (n : Nat) : Bytes := [0, 0, 1, BitVec.ofNat 8 n, 0, 0, 0, 0, 0, 0, 0, 0, 0, 0, 0, 0, 1]
def gram1 : GramHead := ⟨1, 2, 4, 4, 0, 0x10040, 0x10080, 0x100C0, 0, 0⟩
/-- Every operation of a transition entry, a token past the vocabulary, the stack at its trap depth and below, the top that an entry names. -/
theorem witness_GrammarResults_image :
    let s := gramState []
    s.gramImage 0 0 0 = some gram1
    ∧ (∀ n ∈ [1, 8], cursorZeros (cur1 n) = true ∧ (cursorOf (cur1 n)).good gram1 = true ∧ (cursorOf (cur1 n)).depth = 1
        ∧ (cursorOf (cur1 n)).trap = n ∧ byteAt (cursorOf (cur1 n)).stack 0 = 1)
    ∧ (∀ t < 4, leNat (s.readVa 0 (gram1.classMap + 2 * t) 2) = t ∧ leNat (s.readVa 0 (gram1.trans + 4 * t) 4) = t * 2 ^ 30 + 2 ^ 22)
    ∧ gram1.vocab = 4 := by decide +kernel
/-- A request that ends in a stack fault, and one that emits. -/
theorem witness_GrammarResults_requests :
    (∃ (f : Fields) (s : State), Fires f (sregDests f) s s)
    ∧ (∃ r rest, (gramState [⟨⟨set2, fTok⟩, 0, true, cur1 1, [1]⟩]).ev = .gramRequestPerform 0
        ∧ ((gramState [⟨⟨set2, fTok⟩, 0, true, cur1 1, [1]⟩]).die 0).gram.queue = r :: rest)
    ∧ (gramState []).gramDo 0 0 0 true (cur1 1) [1] false = .fault 1 1
    ∧ ∃ o, (gramState []).gramDo 0 0 0 true (cur1 1) [0] false = .emit (some o) (some o) false [0x10080, 0x100D0] :=
  ⟨⟨fTok, _, fires_stateOf fTok _ rfl⟩, ⟨_, _, rfl, rfl⟩, by decide +kernel,
    (gramState []).cursorBytes 0 gram1 { cursorOf (cur1 1) with q := 0, status := 0 }, by decide +kernel⟩
/-- A request to address 0x10000 of context 0 at its owner die 0, whose translation is in the cache; a barrier of phase 7 there expects one
arrival. -/
def pktOf (typ : BitVec 8) (op : MemOp) : Packet := { typ := typ, addr := 0x10000, op := op, tile := 5, soNum := some 0 }
def ownState (ev : Event) : State :=
  { memState [] with ev := ev, dies := [(0, { tlb := [(0, 0x10000, 0)] })], mem := [(0, 7), (4, 1)] }
/-- Every operation, in every event: the request stands at its slice and its translation hits. -/
theorem atSlice_own (ev : Event) (typ : BitVec 8) (op : MemOp) :
    AtSlice (ownState ev) 0 (pktOf typ op) 0 ∧ (ownState ev).tlbHit 0 (pktOf typ op) = true := by
  have hl : (ownState ev).level (pktOf typ op).ctx.toNat = 0 := by with_unfolding_all rfl
  have hp : (ownState ev).page? 0 0x10000 = some page1 := by
    have : (ownState .powerUp).page? 0 0x10000 = some page1 := by decide +kernel
    exact this
  have hk : (ownState ev).phys? 0 0x10000 = some 0 := by
    have : physKey (vaDie 0x10000) (pdPa page1.desc + (0x10000 - page1.va)) = 0 := by decide +kernel
    simp [State.phys?, hp, this]
  have hd : vaDie 0x10000 = 0 := by decide
  refine ⟨⟨by simpa [State.pktKey, pktOf, hd] using hk, by with_unfolding_all rfl, ?_, ?_⟩, ?_⟩
  · simp [State.copyNeed, hl]
  · simp [State.noteAccess, State.rebuilt, hl]
  · have : (ownState ev).die 0 = { tlb := [(0, 0x10000, 0)] } := by with_unfolding_all rfl
    have hf : fieldOf page1.desc 61 2 = 0 := by decide +kernel
    have hv : page1.va = 0x10000 := rfl
    simp [State.tlbHit, pktOf, hp, this, hf, hv]
theorem witness_OwnerResults :
    (∀ op : MemOp, AtSlice (ownState (.ownerPerform 0 (pktOf 1 op))) 0 (pktOf 1 op) 0
        ∧ (ownState (.ownerPerform 0 (pktOf 1 op))).tlbHit 0 (pktOf 1 op) = true
        ∧ (ownState (.ownerPerform 0 (pktOf 1 op))).ev = .ownerPerform 0 (pktOf 1 op) ∧ (pktOf 1 op).phys = false ∧ (pktOf 1 op).fromHost = false)
    ∧ (∃ g s, s = ownState (.tlbMissFill 0 (pktOf 1 (.load 8 false))) ∧ s.page? 0 0x10000 = some g ∧ (s.die 0).tlb.length ≤ 4096)
    ∧ (∃ w, (ownState .powerUp).atomGate 0 (pktOf 2 (.atomic .add 8 false (zeros 8) (zeros 8))) 0 = .go w)
    ∧ (∃ w, (ownState .powerUp).joinGate 0 (pktOf 2 (.barJoin 1)) 0 = .go w)
    ∧ leNat (Memory.getN (ownState .powerUp).mem 4 4) = 1 ∧ leNat (Memory.getN (ownState .powerUp).mem 0 4) = 7 :=
  ⟨fun op => ⟨(atSlice_own _ 1 op).1, (atSlice_own _ 1 op).2, rfl, rfl, rfl⟩, ⟨page1, _, rfl, by decide +kernel, by decide +kernel⟩,
    ⟨_, by with_unfolding_all rfl⟩, ⟨_, by with_unfolding_all rfl⟩, by decide, by decide⟩
/-! The events of a tile. -/

/-- A tile with an adder at station 0 of block 0, both sides tokens, in slot 0; an image at 0x10000 with one block of empty stations. -/
def slotAdd : Slot := { st := .resident, words := [0x04057F00], sides := [0], desc := [0, 0, 8] }
def launchT : Launch := { launchM with image := 0x10000, blockTable := 64, blocks := 1, spillBase := 0x10000, spillLog := 16 }
def tileState (ev : Event) (x : Tile) : State :=
  { stateOf set2 with
    ev := ev
    regions := [(1, { launch := launchT, tiles := [⟨0, 0⟩] })]
    ctxDies := [(cdKey 0 0, { pages := [page1] })]
    tiles := [(0, { x with region := 1 })]
    mem := [(0, 0x42), (1, 0x4C), (2, 0x53), (3, 0x48), (4, 1), (6, 1), (450, 64)] }
def t0 : TileId := ⟨0, 0⟩
def arrA (inst : Nat) : Arrival := { at_ := t0, place := ⟨0, 0, false⟩, tok := {}, src := 0, outside := true, inst := inst }
def arrB (inst : Nat) : Arrival := { at_ := t0, place := ⟨0, 0, true⟩, tok := {}, src := 0, outside := true, inst := inst }
def entB (inst : Nat) : Entry := ⟨⟨0, 0, true⟩, {}, true, false, inst, [], 0⟩
def tilePair : Tile := { slots := [slotAdd], passes := [pass1], entries := [entB 1] }

/-- Whether a token is one that a JOINALL station counts. -/
def countedAt (v : State) (a : Arrival) : Bool :=
  let w := v.stationOf a.at_ a.place.block a.place.station
  isJoinall w.1 w.2 && a.place.sideB && !a.tok.tag.null

/-- A token that no station pairs, and one whose partner waits. -/
theorem witness_TileEventResults_arrival :
    (∃ s a, s = tileState (.tokenArrival a) {} ∧ a = arrA 0 ∧ (s.tile t0).slotOf a.place.block = none ∧ (s.tile t0).entries.length < 512
        ∧ a.at_ = t0 ∧ a.outside = true ∧ countedAt s a = false)
    ∧ ∃ s a slot e, s = tileState (.tokenArrival a) tilePair ∧ a = arrA 1 ∧ s.pairSlot a = some slot ∧ s.sameCycle a = none
        ∧ (s.tile t0).partner a.place a.tok.tag = some e ∧ a.inst ≠ 0 ∧ ((s.tile t0).pass? a.inst).isSome = true :=
  ⟨⟨_, _, rfl, rfl, by decide, by decide, rfl, rfl, by decide⟩, _, _, 0, entB 1, rfl, rfl, by decide, by decide, by decide, by decide, by decide⟩
/-- A token from the router whose partner comes from the tile's own stations in the same cycle. -/
theorem witness_TileEventResults_same_cycle : ∃ (s : State) (b : Arrival),
    s = { tileState (.tokenArrival { arrB 1 with src := 2 ^ 31 }) { tilePair with entries := [] } with batch := [.event (.tokenArrival (arrA 1))] }
    ∧ b = arrA 1 ∧ s.pairSlot { arrB 1 with src := 2 ^ 31 } = some 0 ∧ s.sameCycle { arrB 1 with src := 2 ^ 31 } = some b ∧ b.outside = true
    ∧ b.inst ≠ 0 ∧ ((s.tile t0).pass? b.inst).isSome = true ∧ s.sameSideWaits (s.stamped { arrB 1 with src := 2 ^ 31 }) = false
    ∧ s.sameSideWaits b = false :=
  ⟨_, _, rfl, rfl, by decide, by decide, by decide, by decide, by decide, by decide, by decide⟩
/-- A state in which the partner of `arrA` lies in the spill region, and the record of it. -/
def spillState (ev : Event) (x : Tile) : State := (tileState ev x).spillWrite (arrB 0)
def spilled1 : Spilled := (((spillState .powerUp {}).tile t0).spilled.head?).getD ⟨0, 0, 0, true, false, 0, [], 0⟩
/-- A token on its way to memory for which a slot is free, one whose probe finds no partner, and one whose probe finds one. -/
theorem witness_TileEventResults_spill : ∃ s r, s = tileState (.spillProbeDone t0) { spillBuf := [{ arrA 0 with spilling := true }] }
    ∧ s.latched (s.ctxOf t0) = false ∧ s.regionOf t0 = some r
    ∧ (s.freeSpillSlot r.launch.ctx (sliceBase r (s.tile t0).position).1 (probeSeq (arrA 0) (sliceBase r (s.tile t0).position).2)).isSome = true :=
  ⟨_, { launch := launchT, tiles := [⟨0, 0⟩] }, rfl, by decide +kernel, by decide +kernel, by decide +kernel⟩
theorem witness_TileEventResults_probe :
    (∃ s, s = tileState (.spillProbeDone t0) { tilePair with entries := [], spillBuf := [arrA 1] } ∧ s.latched (s.ctxOf t0) = false
        ∧ s.pairSlot (arrA 1) = some 0 ∧ ((s.tile t0).pass? 1).isSome = true ∧ s.spilledPartner (arrA 1) = none
        ∧ (s.tile t0).partner (arrA 1).place (arrA 1).tok.tag = none)
    ∧ ∃ s, s = spillState (.spillProbeDone t0) { tilePair with entries := [], spillBuf := [arrA 1] } ∧ s.pairSlot (arrA 1) = some 0
        ∧ s.spilledPartner (arrA 1) = some spilled1 ∧ spilled1.outside = true :=
  ⟨⟨_, rfl, by decide, by decide, by decide, by decide, by decide⟩, _, rfl, by decide +kernel, by decide +kernel, by decide +kernel⟩
theorem witness_TileEventResults_refill : ∃ s r, s = spillState (.spillRefill t0) {} ∧ (s.tile t0).spilled = [spilled1] ∧ s.regionOf t0 = some r
    ∧ s.level (s.ctxOf t0) < 2 ∧ spilled1.outside = true ∧ (s.tile t0).slotOf (s.spilledTok t0 spilled1).place.block = none
    ∧ (s.tile t0).entries.length < 512 ∧ countedAt (s.takeSpilled t0 spilled1).2 (s.spilledTok t0 spilled1) = false :=
  ⟨_, { launch := launchT, tiles := [⟨0, 0⟩] }, rfl, by decide +kernel, by decide +kernel, by decide +kernel, by decide +kernel, by decide +kernel,
    by decide +kernel, by decide +kernel⟩
/-- A waiting token whose station has one token side (NOT), with entries of its quota free. -/
theorem witness_TileEventResults_admit : ∃ s e, s = tileState (.instanceAdmit t0) { slots := [{ slotAdd with words := [0x04C57F00] }], entries := [e] }
    ∧ e = { entB 0 with place := ⟨0, 0, false⟩ } ∧ (s.tile t0).slotOf 0 = some 0 ∧ (s.tile t0).passOf e.tok.tag.frame 0 = none
    ∧ (s.tile t0).reserved + dQuota slotAdd.desc ≤ 256 ∧ isJoinall ((s.tile t0).station 0 0).1 ((s.tile t0).station 0 0).2 = false
    ∧ sideIsToken ((s.tile t0).station 0 0).1 ((s.tile t0).station 0 0).2 false = true
    ∧ sideIsToken ((s.tile t0).station 0 0).1 ((s.tile t0).station 0 0).2 true = false :=
  ⟨_, _, rfl, rfl, by decide, by decide, by decide, by decide, by decide, by decide⟩
/-- A token waits for a block that is not resident. -/
theorem witness_TileEventResults_decision : ∃ s r, s = tileState (.schedulerDecision t0) { entries := [{ entB 0 with tok := { tag := { kind := .thread } } }] }
    ∧ s.decide t0 = some (0, 0) ∧ s.regionOf t0 = some r ∧ s.level r.launch.ctx < 2 ∧ 0 < (s.tile t0).slots.length
    ∧ ∃ sl ∈ (s.tile t0).slots, sl.st = .free :=
  ⟨_, { launch := launchT, tiles := [⟨0, 0⟩] }, rfl, by decide +kernel, by decide +kernel, by decide +kernel, by decide +kernel, by decide +kernel⟩
theorem witness_TileEventResults_load : ∃ s r, s = tileState (.blockLoadDone t0 0) { slots := [{ st := .loading }] } ∧ s.regionOf t0 = some r
    ∧ ((s.tile t0).slots.getD 0 {}).st = .loading ∧ s.blockCheck r.launch t0 0 = none ∧ (∀ e ∈ (s.tile t0).entries, e.inst ≠ 0)
    ∧ (s.tile t0).sregs.length = 8 ∧ ((s.tile t0).sreg 0).length = 128 :=
  ⟨_, { launch := launchT, tiles := [⟨0, 0⟩] }, rfl, by decide +kernel, by decide +kernel, by decide +kernel, by decide +kernel, by decide +kernel,
    by decide +kernel⟩
/-- An exit to a block of the tile, a token for a channel to the tile to the right, a store. -/
theorem witness_TileEventResults_drain :
    (∃ e, e = Effect.exit 0 {} false (2 ^ 30) 0 ∧ bitsN (2 ^ 30) 30 2 = 1 ∧ ((tileState (.commitDrain t0) { drains := [⟨1, [e], false⟩] }).tile t0).drains = [⟨1, [e], false⟩])
    ∧ (∃ b, NMap.find ((tileState (.commitDrain t0) { channels := [(0, BitVec.ofNat 64 (2 ^ 13))] }).tile t0).channels 0 = some b ∧ fieldOf b 13 3 ≤ 3)
    ∧ (∃ a : Access, a.job.fi.at_ = t0 ∧ (tileState (.commitDrain t0) { drains := [⟨1, [.store a], false⟩] }).watchHit a = none)
    ∧ ((tileState (.commitDrain t0) { drains := [⟨1, [.spawn ⟨set2, fTok⟩ [arrA 0]], false⟩] }).tile t0).drains = [⟨1, [.spawn ⟨set2, fTok⟩ [arrA 0]], false⟩]
    ∧ (arrA 0).at_.die < 8 :=
  ⟨⟨_, rfl, by decide, rfl⟩, ⟨_, rfl, by decide⟩,
    ⟨{ job := ⟨set2, fTok⟩, major := 0x15, minor := 0, writes := [(0x10000, [1])] }, by decide, by decide +kernel⟩, rfl, by decide⟩
/-- A load under fe that waits for granule 0, which is full. -/
def wait1 : Waiting := { job := ⟨set2, fTok⟩, reads := [0], qual := 2 }
theorem witness_TileEventResults_wait : ∃ u, (tileState (.fullEmptyWaitPerform t0) { waitList := [wait1], full := [0] }).firstWaiting t0 = (some wait1, u)
    ∧ (tileState .powerUp {}).level 0 < 2 ∧ wait1.drain = none ∧ wait1.job.fi.at_ = t0 :=
  ⟨tileState (.fullEmptyWaitPerform t0) { waitList := [wait1], full := [0] }, by decide +kernel, by decide +kernel, rfl, rfl⟩
theorem witness_TileEventResults_rest : (tileState (.forwardingRetire t0) {}).ev = .forwardingRetire t0
    ∧ (tileState (.scratchpadClearDone t0) {}).ev = .scratchpadClearDone t0 := ⟨rfl, rfl⟩
/-! The memory events of a tile. -/

/-- A part of a load of 8 bytes at address 0x10000, as its packet; the reply slot 0 that waits for it. -/
def loadPkt : Packet := { typ := 1, addr := 0x10000, op := .load 8 false, n := 8, serial := 3, part := 4 }
def reply1 (left : List Nat) (k : ReplyKind) : Reply :=
  { job := ⟨set2, fTok⟩, kind := k, major := 0x14, serial := 3, left := left, buf := zeros 8, pkts := [loadPkt] }
def repPkt : Packet := { typ := 3, op := .data (zeros 8) false, serial := 3, part := 4 }
theorem witness_TileMemoryEvents_port :
    (∃ s p, s = tileState (.agPortIssue t0) { port := [p] } ∧ p = { pkt := loadPkt, l1 := 0 } ∧ (s.tile t0).port.find? (fun q => (s.tile t0).gateOpen q) = some p
        ∧ p.pkt.typ ≠ 5)
    ∧ ∃ s p, s = tileState (.agPortIssue t0) { port := [p], l1 := [⟨0x400, zeros 64, none, []⟩] } ∧ p = { pkt := loadPkt, l1 := 2 }
        ∧ (s.tile t0).port.find? (fun q => (s.tile t0).gateOpen q) = some p ∧ s.l1Get t0 (p.pkt.addr.toNat / 64) p.seen = some ⟨0x400, zeros 64, none, []⟩ ∧ p.pkt.op = .load 8 false :=
  ⟨⟨_, _, rfl, rfl, by decide +kernel, by decide⟩, _, _, rfl, rfl, by decide +kernel, by decide +kernel, rfl⟩
/-- A reply with another part to come, and the last one. -/
theorem witness_TileMemoryEvents_reply :
    (∃ s, s = tileState (.replyDelivery repPkt) { replies := [(0, reply1 [4, 5] .data)] } ∧ (s.ctx repPkt.ctx.toNat).st ≠ .saved
        ∧ repPkt.to_.toNat % 8 = t0.die ∧ repPkt.tile = t0.tile ∧ repPkt.tile < 1024 ∧ repPkt.rel = false
        ∧ NMap.find (s.tile t0).replies repPkt.slot = some (reply1 [4, 5] .data) ∧ (reply1 [4, 5] .data).serial = repPkt.serial
        ∧ repPkt.part ∈ (reply1 [4, 5] .data).left ∧ (reply1 [4, 5] .data).left.filter (· ≠ repPkt.part) ≠ [])
    ∧ (reply1 [4] .data).left.filter (· ≠ repPkt.part) = []
    ∧ (tileState (.replyDelivery repPkt) { replies := [(0, reply1 [4] .data)] }).level 0 = 0
    ∧ NMap.find ((tileState (.barwaitRetry t0 0) { replies := [(0, reply1 [4] (.barwait 0))] }).tile t0).replies 0 = some (reply1 [4] (.barwait 0)) :=
  ⟨⟨_, rfl, by decide +kernel, by decide, by decide, by decide, by decide, by decide +kernel, by decide, by decide, by decide⟩, by decide,
    by decide +kernel, by decide +kernel⟩
def order1 : OrderWait := ⟨⟨set2, fTok⟩, [], 0, false, false, .value, [], {}⟩
def drain1 : DrainOp := { id := 9, ctx := 0, base := 0x10000, len := 0x10000, waits := [], job := some ⟨set2, fTok⟩, kindTo := some 2 }
theorem witness_TileMemoryEvents_order_and_drain :
    ((tileState (.orderConditionMet t0) { orders := [order1] }).tile t0).orders.find? (fun o => o.serials.isEmpty) = some order1
    ∧ ∃ s, s = { tileState (.drainTokenArrival 9) { replies := [(1, { reply1 [] .drain with serial := 9 })] } with drainOps := [drain1] }
        ∧ s.drainOps.find? (fun q => q.id = 9) = some drain1 ∧ drain1.waits = [] ∧ drain1.job = some ⟨set2, fTok⟩ ∧ drain1.cmd = none
        ∧ (s.tile t0).replies.find? (fun q => q.2.serial = drain1.id && q.2.kind = .drain) = some (1, { reply1 [] .drain with serial := 9 })
        ∧ vaPkg drain1.base = s.pkg ∧ page1 ∈ (s.cd 0 (vaDie drain1.base)).pages ∧ pdValid page1.desc = true
        ∧ page1.va < drain1.base + drain1.len ∧ drain1.base < page1.va + pdSize page1.desc :=
  ⟨by decide +kernel, _, rfl, by decide +kernel, rfl, rfl, rfl, by decide +kernel, by decide +kernel, by decide +kernel, by decide +kernel,
    by decide +kernel, by decide +kernel⟩
/-- A copy and a fill of 64 bytes at their first piece, and a copy that is done. -/
def copy1 (minor rows : Nat) : CopyReq :=
  { job := ⟨set2, fTok⟩, minor := minor, src := 0x10000, dst := 0x10040, len := 64, rows := rows, sstride := 0, dstride := 0, credit := 0,
    pattern := zeros 8, dsp := none, streamer := 0, ctx := 0 }
theorem witness_TileMemoryEvents_copy :
    (copy1 0 1).piece? = some (0x10000, 0x10040, 64) ∧ (copy1 2 1).piece? = some (0x10000, 0x10040, 64) ∧ (copy1 0 0).piece? = none
    ∧ ∃ s : State, s.ev = .streamerTakeCopy 0 0 ∧ NMap.getD (s.die 0).streams 0 [] = [copy1 0 1] ∧ (copy1 0 1).busy = false :=
  ⟨by decide, by decide, by decide, { ev := .streamerTakeCopy 0 0, dies := [(0, { streams := [(0, [copy1 0 1])] })] }, rfl, by decide +kernel, rfl⟩
/-! Launches, islands. -/

/-- Little-endian bytes at an address as the cells of a memory, zero bytes left out. -/
def cellsAt (a : Nat) (bs : Bytes) : Memory := (bs.zipIdx.filter (fun p => p.1 ≠ 0)).map (fun p => (a + p.2, p.1))
/-- A launch record: image at 0x10000, region table at 0x10800, one initial token at 0x10A00, spill region of 64 KiB at 0x20000, one level
of 8 bits. -/
def record1 : Bytes :=
  leBytes 8 0x10000 ++ leBytes 8 0x10800 ++ zeros 16 ++ leBytes 8 0x10A00 ++ leBytes 8 0x20000 ++ zeros 16
    ++ leBytes 4 0 ++ [1, 0, 0, 0, 16, 1, 0, 1] ++ leBytes 2 0 ++ leBytes 2 1 ++ leBytes 2 0x147 ++ zeros 46
/-- The record at 0x11000, the head of queue 0 of die 0; image, table (tile 0 is AG) and token in one page, the spill region in another;
both pages of kind UN. -/
def launchState (ev : Event) : State :=
  { ev := ev, cycles := 1000
    ctxs := [(0, { st := .idle, dies := [0] })]
    ctxDies := [(cdKey 0 0, { pages := [⟨0x10000, BitVec.ofNat 64 (2 ^ 63 + 2 ^ 60 + 2 ^ 58)⟩, ⟨0x20000, BitVec.ofNat 64 (2 ^ 63 + 2 ^ 60 + 2 ^ 58 + 2 ^ 16)⟩] })]
    dies := [(0, { queues := [(0, { base := 0x11000, ctl := BitVec.ofNat 64 (2 ^ 63 + 0x1100000), tail := 1 })] })]
    mem := cellsAt 0 ([0x42, 0x4C, 0x53, 0x48, 1, 0, 1, 0, 64] ++ zeros 11 ++ leBytes 4 0x1000) ++ [(0x40, 1), (0x800, 1)] ++ cellsAt 0x1000 record1 }
def head1 : Launch := { id := 7, ctx := 0, die := 0, queue := 0, head := 0, irq := false, record := record1 }
theorem exists_of_isOk {ε α : Type} {r : Except ε α} (h : r.isOk = true) : ∃ x, r = .ok x := by
  cases r with
  | ok x => exact ⟨x, rfl⟩
  | error e => cases h
theorem exists_of_not_isOk {ε α : Type} {r : Except ε α} (h : r.isOk = false) : ∃ e, r = .error e := by
  cases r with
  | ok x => cases h
  | error e => exact ⟨e, rfl⟩

/-- A doorbell; a queue that offers a head; an answer to its waiter; a record that passes every check and an empty one. -/
theorem witness_LaunchEventResults_queue :
    bitN ((launchState (.qtailWrite 0 0 1)).queue 0 0).ctl.toNat 63 = true
    ∧ (launchState (.queueDecision 0)).pickQueue 0 = some (0, 0, ⟨0, 1⟩) ∧ (launchState (.queueDecision 0)).level 0 < 2
    ∧ ((launchState (.queueDecision 0)).askBarrier 0 0) = launchState (.queueDecision 0)
    ∧ ∃ s : State, (s.queue 0 0).asked = true :=
  ⟨by decide +kernel, by decide +kernel, by decide +kernel, by decide +kernel, { dies := [(0, { queues := [(0, { asked := true })] })] }, by decide +kernel⟩
theorem witness_LaunchEventResults_record :
    (∃ l', (launchState (.launchRecordCheck 7)).readLaunch head1 = .ok l')
    ∧ (∃ e, (launchState (.launchRecordCheck 7)).readLaunch { head1 with record := [] } = .error e)
    ∧ NMap.find ({ launchState (.launchRecordCheck 7) with launches := [(7, head1)] } : State).launches 7 = some head1 :=
  ⟨exists_of_isOk (by decide +kernel), exists_of_not_isOk (by decide +kernel), by decide +kernel⟩
/-- Resident ranges, a range without a page, a residency slot free and one in use, places that are free. -/
theorem witness_LaunchEventResults_residency :
    let s := launchState (.leaseResidencyCheck 7)
    s.resident { head1 with leases := [⟨0x10000, 0x10000, true, 0⟩] } = true
    ∧ s.notUn 0 0x20000 (2 ^ 16) = false
    ∧ s.resident { head1 with leases := [⟨0x30000, 0x10000, true, 0⟩] } = false ∧ NMap.freeKey (s.die 0).resSlots 8 = some 0
    ∧ NMap.find ({ resSlots := [(0, 7)] } : Die).resSlots 0 = some 7
    ∧ s.placesFree { head1 with kinds := [(0, [1])] } = true := by
  refine ⟨by decide +kernel, by decide +kernel, by decide +kernel, by decide +kernel, by decide +kernel, by decide +kernel⟩
/-- A region of a launch whose done barrier is of this package, and one that has joined it. -/
theorem witness_LaunchEventResults_done_barrier :
    (∃ s r, s = stateOf set2 ∧ r = ({ launch := { launch1 with doneBar := 0x100 }, tiles := [⟨0, 0⟩], lastWave := some (0, 0) } : Region)
        ∧ r.launch.doneBar ≠ 0 ∧ vaPkg r.launch.doneBar = s.pkg ∧ s.totals r = (0, 0))
    ∧ ∃ (s : State) (p : Packet) (r : Region), s.ev = .replyDelivery p ∧ p.tile = 4094 ∧ p.rel = false ∧ s.region? p.serial = some r
        ∧ r.joining = true ∧ p.op = .data (zeros 8) false :=
  ⟨⟨_, _, rfl, rfl, by decide, by decide +kernel, by decide +kernel⟩,
    { stateOf set2 with
      ev := .replyDelivery { typ := 3, tile := 4094, serial := 1, op := .data (zeros 8) false }
      regions := [(1, { launch := launch1, joining := true })] }, _, { launch := launch1, joining := true }, rfl, rfl, rfl, rfl, rfl, rfl⟩
/-- Phase counts that cancel what the other packages report (log entry 4), whatever that is. -/
def phaseState : State :=
  { ctxDies := [(cdKey 0 0, { phases := [(0, -Config.outsidePhase 0 0), (1, -Config.outsidePhase 0 1), (2, -Config.outsidePhase 0 2),
      (3, -Config.outsidePhase 0 3)] })] }
/-- A region whose last wave gave the sums it has now, one with no wave yet; last phase sums of zero. -/
theorem witness_LaunchEventResults_quiescence :
    (∃ r : Region, (stateOf set2).totals r = (0, 0) ∧ r.lastWave = some (0, 0))
    ∧ (∃ r : Region, r.launch = launch1 ∧ ∀ k < 4, phaseState.phaseCount r k = 0 ∧ NMap.find r.lastSums k = some 0)
    ∧ (∃ r : Region, ¬ ((stateOf set2).totals r = (0, 0) ∧ r.lastWave = some ((stateOf set2).totals r)))
    ∧ ∃ r, (stateOf set2).region? 1 = some r := by
  refine ⟨⟨{ launch := launch1, tiles := [⟨0, 0⟩], lastWave := some (0, 0) }, by decide +kernel, rfl⟩,
    ⟨{ launch := launch1, lastSums := [(0, 0), (1, 0), (2, 0), (3, 0)] }, rfl, ?_⟩, ⟨{ launch := launch1 }, by decide +kernel⟩, _, rfl⟩
  intro k hk
  have e : k = 0 ∨ k = 1 ∨ k = 2 ∨ k = 3 := by omega
  rcases e with rfl | rfl | rfl | rfl
  · exact ⟨(by omega : Config.outsidePhase 0 0 + -Config.outsidePhase 0 0 = 0), rfl⟩
  · exact ⟨(by omega : Config.outsidePhase 0 1 + -Config.outsidePhase 0 1 = 0), rfl⟩
  · exact ⟨(by omega : Config.outsidePhase 0 2 + -Config.outsidePhase 0 2 = 0), rfl⟩
  · exact ⟨(by omega : Config.outsidePhase 0 3 + -Config.outsidePhase 0 3 = 0), rfl⟩
/-- One command of each kind alone at the entry of an island of one. -/
def islWith (c : IslCmd) : State := { ev := .islandCommandEntry 0 0, islands := [(0, { region := 1, cmds := [c] })] }
def cmdOf (port : Nat) (op : IslOp) : IslCmd := { id := 1, job := ⟨set2, fTok⟩, port := port, tile := 0, chan := 0, op := op }
theorem witness_IslandEventResults_entry :
    ∀ c ∈ [cmdOf 1 (.rows [(255, [])] .bf16 false), cmdOf 0 (.load .bf16 false 32 1 1 64), cmdOf 2 (.init 255 1), cmdOf 2 (.add 255 7 []),
        cmdOf 2 (.put 255 7 1 []), cmdOf 2 (.read 0 0)],
      (islWith c).mayEnter 0 0 = [c] ∧ (islWith c).endRoom 0 0 c = true ∧ ((islWith c).die 0).ramp.count < ((islWith c).die 0).ramp.limit
      ∧ ((islWith c).island 0 0).rows = 1 ∧ ((islWith c).island 0 0).cols = 1 ∧ ((islWith c).island 0 0).flight = []
      ∧ ((islWith c).island 0 0).pend = [] := by decide +kernel
/-- A window of the ramp limiter that is full. -/
theorem witness_IslandEventResults_held : ∃ (s : State) (c : IslCmd),
    s = { islWith c with dies := [(0, { ramp := { ({} : Die).ramp with count := ({} : Die).ramp.limit } })] } ∧ c = cmdOf 1 (.rows [(0, [])] .bf16 false)
    ∧ s.mayEnter 0 0 = [c] ∧ s.endRoom 0 0 c = true ∧ (s.die 0).ramp.limit ≤ (s.die 0).ramp.count :=
  ⟨_, _, rfl, rfl, by decide +kernel, by decide +kernel, by decide +kernel⟩
/-- A row of 256 columns, an update of row 255 in flight, a pending end that it meets; a token to release. -/
theorem witness_IslandEventResults_land :
    (∃ x : Island, (x.row 255).length = 256 ∧ x.active.ty = .bf16)
    ∧ (∃ (x : Island) (u : RowUpd) (e : PendEnd), x.flight = [u] ∧ x.pend = [e] ∧ e.g0 = u.row ∧ e.m = 1 ∧ u.row = 255
        ∧ e.n ≤ min 0xFFFF (x.cnt u.row + 1) ∧ x.rows = 1 ∧ x.cols = 1 ∧ x.lead = 0)
    ∧ ∃ (x : Island) (r : RelTok), x.outq = [r] :=
  ⟨⟨{ active := { ty := .bf16 } }, by decide +kernel, rfl⟩,
    ⟨{ flight := [⟨255, []⟩], pend := [⟨255, 1, 1, ⟨set2, fTok⟩⟩] }, ⟨255, []⟩, ⟨255, 1, 1, ⟨set2, fTok⟩⟩, rfl, rfl, rfl, rfl, rfl, by decide, rfl, rfl, rfl⟩,
    { outq := [⟨⟨set2, fTok⟩, 0, [], true⟩] }, _, rfl⟩
/-! The fabric, releases, the network engine, the Accession Ring. -/

/-- A load request on its way: to its own die, to die 1 clockwise over a link with a free slot, to package 1 over port 2 of die 0. -/
def upLinks : State := { dies := [(0, { links := [(0, { st := .up }), (2, { st := .up }), (3, { st := .up })] })] }
theorem witness_FabricEventResults_hop :
    (∃ p s, s = { upLinks with ev := .packetHop 0 p } ∧ p = loadPkt ∧ badPacket p = false ∧ p.to_.toNat / 8 = s.pkg ∧ p.to_.toNat % 8 = 0
        ∧ p.toHost = false ∧ p.inc = NMap.getD (s.die 0).incs p.from_.toNat 0)
    ∧ (∃ p s, s = { upLinks with ev := .packetHop 0 p } ∧ p = { loadPkt with to_ := 1 } ∧ p.to_.toNat / 8 = s.pkg ∧ p.to_.toNat % 8 = 1
        ∧ s.ringWay 0 1 p = some 1 ∧ (s.link 0 0).st = .up ∧ 0 < (s.link 0 0).shared ∧ p.escape = false ∧ p.dir = 0 ∧ p.ring = 0)
    ∧ (∀ n m, ({} : State).failedPort n m = false)
    ∧ ∃ p s, s = { upLinks with ev := .packetHop 0 p } ∧ p = { loadPkt with to_ := 8 } ∧ p.to_.toNat / 8 ≠ s.pkg
        ∧ s.wayOut p 0 1 = some (0, 2) ∧ (s.link 0 2).st = .up ∧ 0 < (s.link 0 2).shared :=
  ⟨⟨_, _, rfl, rfl, by decide +kernel, by decide +kernel, by decide +kernel, by decide +kernel, by decide +kernel⟩,
    ⟨_, _, rfl, rfl, by decide +kernel, by decide +kernel, by decide +kernel, by decide +kernel, by decide +kernel, by decide +kernel, by decide +kernel,
      by decide +kernel⟩, fun _ _ => by with_unfolding_all rfl, _, _, rfl, rfl, by decide +kernel, by decide +kernel, by decide +kernel, by decide +kernel⟩
/-- A reply slot with a read to another die out, tried never and three times. -/
def farPkt : Packet := { loadPkt with to_ := 1 }
theorem witness_FabricEventResults_loss_and_resend :
    (∃ s : State, s.ev = .packetAgeDrop 0 loadPkt ∧ loadPkt.typ = 1) ∧ (∃ p : Packet, p.typ = 0x0B ∧ p.fromHost = false)
    ∧ ∀ n ∈ [0, 3], ∃ s r, s = tileState (.requestTimeoutResend t0 0) { replies := [(0, r)] } ∧ r = { reply1 [4] .data with pkts := [farPkt], tries := n }
        ∧ NMap.find (s.tile t0).replies 0 = some r ∧ farPkt ∈ r.pkts ∧ farPkt.part ∈ r.left ∧ farPkt.to_ ≠ s.code t0.die ∧ farPkt.typ = 1 ∧ r.tries = n := by
  refine ⟨⟨{ ev := .packetAgeDrop 0 loadPkt }, rfl, rfl⟩, ⟨{ typ := 0x0B, op := .credit 1 }, rfl, rfl⟩, ?_⟩
  intro n _
  exact ⟨_, _, rfl, rfl, by with_unfolding_all rfl, by simp, by simp [reply1, farPkt, loadPkt],
    by with_unfolding_all exact (by decide : (1 : BitVec 13) ≠ 0), rfl, rfl⟩
/-- A link in each state from which it trains. -/
def linkIn (st : LinkState) (n : Nat) : State :=
  { dies := [(0, { links := [(0, { st := st, attempts := n })] }), (1, { links := [(1, { st := st })] })] }
theorem witness_FabricEventResults_links : ((linkIn .up 0).link 0 0).st = .up ∧ ((linkIn .retrain 0).link 0 0).st = .retrain
    ∧ (linkEnds 0 0).drop 1 = [(1, 1)] ∧ ((linkIn .confirm 1).link 1 1).st = .confirm
    ∧ ((linkIn .confirm 1).link 0 0).st = .confirm ∧ ((linkIn .confirm 1).link 0 0).attempts < 2 ∧ 2 ≤ ((linkIn .confirm 2).link 0 0).attempts := by
  decide +kernel
/-- A die that knows nothing of a new incarnation of its neighbour, with an open group toward it and with none. -/
def send1 : SendEntry := { dst := 1, ctx := 0, rc := 0, epoch := 5, count := 1 }
theorem witness_FabricEventResults_notice : ∃ s : State, NMap.getD (s.die 0).incs 1 0 ≠ 3 ∧ (∀ q ∈ s.tiles, q.2.replies = [])
    ∧ (∀ q ∈ (s.die 0).streams, q.2 = []) ∧ (∀ r ∈ (s.die 0).recvs, r.1.other.toNat = 1 → r.1.inc = 3) ∧ (s.die 0).sends = [send1]
    ∧ send1.dst = 1 ∧ send1.st = .opened ∧ (s.die 0).copies = [] :=
  ⟨{ dies := [(0, { sends := [send1] })] }, by decide +kernel, by decide +kernel, by decide +kernel, by decide +kernel, by decide +kernel, rfl, rfl,
    by decide +kernel⟩

/-- A receive entry that counts, whose group has had write 0; the write 1 and the flag of one write and of two. -/
def relPkt (typ : BitVec 8) (op : MemOp) (index : Nat) : Packet := { typ := typ, addr := 0x10000, op := op, index := index, epoch := 5 }
def recvState (e : RecvEntry) : State :=
  { memState [] with cycles := 10000, dies := [(0, { tlb := [(0, 0x10000, 0)], recvs := [(⟨0, 0, 0, 0, 5⟩, e)] })] }
def counting1 : RecvEntry := { arrivals := 1, bits := [0] }
theorem witness_ReleaseEventResults_receive :
    (∃ s p, s = recvState counting1 ∧ p = relPkt 5 (.store [1]) 1 ∧ s.recv? 0 (relKey p) = some counting1 ∧ p.index ∉ counting1.bits
        ∧ s.pktKey 0 p = some 0 ∧ s.copyNeed 0 p 0 = none ∧ (s.noteAccess 0 p).1 = [] ∧ p.fromHost = false)
    ∧ (0 ∈ counting1.bits ∧ counting1.arrivals = 1 ∧ counting1.arrivals ≠ 2)
    ∧ (∃ s p, s = recvState counting1 ∧ p = relPkt 6 (.flag [1]) 1 ∧ s.recv? 0 (relKey p) = some counting1 ∧ s.pktKey 0 p = some 0
        ∧ s.copyNeed 0 p 0 = none ∧ s.level p.ctx.toNat < 2)
    ∧ (∀ n ∈ [0, 15], ∃ s e p, e = { counting1 with st := .waiting, held := some p, gaps := n } ∧ s = recvState e ∧ p = relPkt 6 (.flag [1]) 2
        ∧ s.recv? 0 (relKey p) = some e ∧ e.arrivals ≠ p.index ∧ e.gaps = n)
    ∧ ∃ s, s = recvState { counting1 with st := .done } ∧ s.recv? 0 ⟨0, 0, 0, 0, 5⟩ = some { counting1 with st := .done } := by
  refine ⟨⟨_, _, rfl, rfl, by decide +kernel, by decide, by decide +kernel, by decide +kernel, by decide +kernel, rfl⟩, by decide,
    ⟨_, _, rfl, rfl, by decide +kernel, by decide +kernel, by decide +kernel, by decide +kernel⟩, ?_, _, rfl, by decide +kernel⟩
  intro n _
  exact ⟨_, _, _, rfl, rfl, rfl, by with_unfolding_all rfl, by simp [counting1, relPkt], rfl⟩
/-- A flagged send entry, resent never and twice; one that is aborted and not answered. -/
def flagged1 (n : Nat) : SendEntry := { send1 with st := .flagged, flag := some (relPkt 6 (.flag [1]) 1), resends := n }
def sendState (e : SendEntry) : State := { memState [] with cycles := 10000, dies := [(0, { sends := [e] })] }
theorem witness_ReleaseEventResults_send :
    (∀ n ∈ [0, 2], (sendState (flagged1 n)).sendOf 0 ⟨1, 0, 0, 0, 5⟩ = some (flagged1 n) ∧ (sendState (flagged1 n)).send? 0 0 0 5 1 = some (flagged1 n)
        ∧ (flagged1 n).st = .flagged ∧ (flagged1 n).resends = n ∧ ∀ q ∈ ((sendState (flagged1 n)).die 0).copies, (flagged1 n).owns q = false)
    ∧ ∃ e, e = { send1 with st := .aborted, abortPkt := some (relPkt 9 (.abort 1 false) 0) } ∧ (sendState e).sendOf 0 ⟨1, 0, 0, 0, 5⟩ = some e
        ∧ e.answered = false ∧ e.abortResends < 3 :=
  ⟨by decide +kernel, _, rfl, by decide +kernel, by decide, by decide⟩
/-- A RELOPEN that waits for its spacing, which has passed. -/
theorem witness_ReleaseEventResults_relopen : ∃ s, s = { relState [] with tiles := [(0, { region := 1, replies := [(0, reply1 [] (.relopen 0))] })] }
    ∧ NMap.find (s.tile t0).replies 0 = some (reply1 [] (.relopen 0)) ∧ NMap.find (s.die 0).relChans (0 * 256 + 0) = some ⟨5, 0⟩
    ∧ 0 + fieldOf (s.die 0).cctl 0 16 * 1900 / 32 ≤ s.cycles ∧ (s.die 0).sends = [] :=
  ⟨_, rfl, by decide +kernel, by decide +kernel, by decide +kernel, by decide +kernel⟩

/-- A message of 64 bytes in the scratchpad and one to be read; a window that takes writes and reads. -/
def msgW : NetMsg := { msg1 with write := true, lsp := true, length := 64 }
def ackPkt : NetPacket := { peer := 0, ctx := 0, msg := 0, index := 0, mac := zeros 6, ip := zeros 16, body := .ack }
def win1 : Bytes := leBytes 8 0x10000 ++ leBytes 8 0x1000 ++ zeros 8 ++ [7]
def engState (ev : Event) (m : NetMsg) (u : NMap NetUpd) : State :=
  { memState [] with
    ev := ev
    ctxDies := [(cdKey 0 0, { pages := [page1], windows := [(0, win1)] })]
    dies := [(0, { net := { up := true, msgs := [(3, m)], upds := u } })] }
theorem witness_NetworkEventResults_send :
    (∃ s, s = engState (.netMessageSend 0 3) msgW [] ∧ NMap.find (s.die 0).net.msgs 3 = some msgW ∧ NMap.find (s.die 0).net.upds 3 = none
        ∧ (s.ctx msgW.ctx).st ≠ .ended ∧ msgW.lsp = true ∧ 4096 * 0 < msgW.length ∧ msgW.out = [])
    ∧ msg1.write = true ∧ { msgW with write := false }.write = false
    ∧ ∃ s m, m = { msgW with out := [ackPkt] } ∧ s = engState (.transportRetransmission 0 3) m []
        ∧ NMap.find (s.die 0).net.msgs 3 = some m ∧ ackPkt ∈ m.out ∧ ackPkt.index ∉ m.acked :=
  ⟨⟨_, rfl, by decide +kernel, by decide +kernel, by decide +kernel, rfl, by decide, rfl⟩, by decide, rfl, _, _, rfl, rfl, by decide +kernel, by decide,
    by decide⟩
theorem witness_NetworkEventResults_receive :
    (∃ s : State, s = engState .powerUp msgW [] ∧ (s.die 0).net.up = true ∧ s.netOwn 0 ackPkt = true ∧ netFormed ackPkt = true
        ∧ netFormed { ackPkt with body := .write 0 0 64 false (zeros 64) } = true ∧ (s.die 0).net.past = [] ∧ (s.die 0).net.ins = []
        ∧ winTakes (NMap.getD (s.cd 0 0).windows 0 []) true 0 64 = true ∧ winTakes (NMap.getD (s.cd 0 0).windows 0 []) false 0 64 = true
        ∧ winTakes (NMap.getD (s.cd 0 0).windows 0 []) true 0x1000 1 = false ∧ winTakes (NMap.getD (s.cd 0 0).windows 0 []) false 0x1000 1 = false
        ∧ (∀ i < 64, s.page? 0 (0x10000 + i) = some page1 ∧ vaDie (0x10000 + i) = 0) ∧ s.mappedVa 0 0x10000 64 = true)
    ∧ ∃ s, s = engState .powerUp msgW [] ∧ (s.die 0).net.msgs.find? (fun x => x.2.num = 0 && x.2.ctx = 0) = some (3, msgW)
        ∧ NMap.find (s.die 0).net.upds 3 = none ∧ 0 ∉ msgW.acked ∧ msgW.length ≤ (msgW.acked.length + 1) * 4096 :=
  ⟨⟨_, rfl, by decide +kernel, by decide +kernel, by decide +kernel, by decide +kernel, by decide +kernel, by decide +kernel, by decide +kernel,
      by decide +kernel, by decide +kernel, by decide +kernel, by decide +kernel, by decide +kernel⟩, _, rfl, by decide +kernel, by decide +kernel, by decide, by decide⟩
theorem witness_NetworkEventResults_completion : ∀ fail ∈ [true, false], ∃ s u, u = (⟨0, 0, fail, 0, 0, false, true, 0, false⟩ : NetUpd)
    ∧ s = engState (.netLocalCompletion 0 3) msgW [(3, u)] ∧ NMap.find (s.die 0).net.upds 3 = some u ∧ (s.ctx u.ctx).st ≠ .ended
    ∧ (s.ctx u.ctx).st ≠ .free ∧ s.level u.ctx < 2 ∧ NMap.find (s.die 0).net.msgs 3 = some msgW ∧ msgW.ghost = false
    ∧ s.hostOpen = true ∧ (s.die 0).rings.full = false ∧ (s.die 0).rings.kept = [] := by
  intro fail _
  exact ⟨_, _, rfl, rfl, by with_unfolding_all rfl, by with_unfolding_all simp [engState, memState, stateOf, State.ctx, NMap.getD, NMap.find],
    by with_unfolding_all simp [engState, memState, stateOf, State.ctx, NMap.getD, NMap.find], by with_unfolding_all exact (by decide : 0 < 2),
    by with_unfolding_all rfl, by decide, by with_unfolding_all rfl, by with_unfolding_all rfl, by with_unfolding_all rfl⟩

/-- A context at a level, with a ring at 0 on die 0 in a page of 2 MiB; `g` is the ring. -/
def accState (level : BitVec 64) (g : Ring) : State :=
  { stateOf set2 with
    ctxs := [(0, { st := .running, mode := level, dies := [0] })]
    ctxDies := [(cdKey 0 0, { pages := [⟨0, BitVec.ofNat 64 (2 ^ 63 + 2 ^ 61 + 2 ^ 58)⟩], ring := g })] }
theorem witness_AccessionEventResults_ring :
    (accState 3 { head := 0, tail := 1 }).headIndex 0 0 = some 0 ∧ (accState 3 { head := 0, tail := 1 }).level 0 = 3
    ∧ (accState 2 {}).headIndex 0 0 = none ∧ (accState 2 {}).level 0 = 2 ∧ (accState 0 {}).level 0 = 0 ∧ (accState 1 {}).level 0 = 1 := by
  decide +kernel
theorem witness_AccessionEventResults_boundary :
    (∃ s, s = accState 2 {} ∧ (s.ctx 0).intv = [] ∧ (∀ x ∈ s.ctxTiles 0, (s.tile x).spilled = []) ∧ (s.ctx 0).dies = [0]
        ∧ (s.cd 0 0).ring.redo = none ∧ (s.cd 0 0).logNext = [] ∧ s.hostOpen = true ∧ ((s.cd 0 0).ring.tail - (s.cd 0 0).ring.head).toNat + 64 ≤ (s.cd 0 0).ring.cap
        ∧ ∃ page, ∀ i < 32, s.page? 0 ((s.cd 0 0).ring.addr (s.cd 0 0).ring.tail.toNat + i) = some page)
    ∧ ∃ s u, s = accState 3 { lowPosted := true } ∧ s.boundaryGate 0 ⟨1, 5, 0, 0, 1, 0, 0⟩ = .wait u :=
  ⟨⟨_, rfl, by decide +kernel, by decide +kernel, by decide +kernel, by decide +kernel, by decide +kernel, by decide +kernel, by decide +kernel,
      ⟨0, BitVec.ofNat 64 (2 ^ 63 + 2 ^ 61 + 2 ^ 58)⟩,
      by decide +kernel⟩, _, accState 3 { lowPosted := true }, rfl, by decide +kernel⟩
/-- A shadow pool with room, and one of no unit. -/
theorem witness_AccessionEventResults_copy : NMap.find ((accState 1 {}).cd 0 0).copies 0 = none ∧ (accState 1 {}).copiesFull 0 0 = false
    ∧ (accState 1 { shdSize := 16 }).copiesFull 0 0 = true := by decide +kernel
/-- A checkpoint, one copied unit of memory, a cause, fewer reruns than RERUN_LIMIT. -/
theorem witness_AccessionEventResults_rollback :
    (∃ s snap, snap = ({ cds := (List.range 8).map (fun k => (k, {})) } : Snapshot)
        ∧ s = { accState 2 {} with snaps := [(0, snap)], ctxDies := [(cdKey 0 0, { copies := [(0, [(5, 1)])] })] }
        ∧ NMap.find s.snaps 0 = some snap ∧ snap.intv = [] ∧ snap.msgs = [] ∧ (s.ctx 0).cause = (0, 0, 0)
        ∧ (s.ctx 0).reruns < fieldOf (s.die 0).memord 4 8 ∧ Memory.wf s.mem = true
        ∧ (((List.range 8).flatMap (fun k => (s.cd 0 k).copies)).map (·.1)).Nodup
        ∧ ∀ u ∈ (List.range 8).flatMap (fun k => (s.cd 0 k).copies), Memory.wf u.2 = true ∧ ∀ p ∈ u.2, p.1 / 65536 = u.1)
    ∧ ∃ s : State, s = { accState 1 {} with snaps := [(0, {})], ctxDies := [(cdKey 0 0, { copies := [(0, [])] })] } ∧ (s.ctx 0).st = .running
        ∧ s.level 0 = 1 ∧ s.bounding 0 = false ∧ (NMap.find s.snaps 0).isSome = true ∧ (s.ctx 0).badLines = []
        ∧ s.lineIn 0 0 64 0 (2 ^ 16) = false ∧ s.lineIn 0 0 64 0 (2 ^ 21) = false ∧ (NMap.find (s.cd 0 0).copies (physKey 0 64 / 65536)).isSome = true :=
  ⟨⟨_, _, rfl, rfl, by decide +kernel, rfl, rfl, by decide +kernel, by decide +kernel, by decide +kernel, by decide +kernel, by decide +kernel⟩,
    _, rfl, by decide +kernel, by decide +kernel, by decide +kernel, by decide +kernel, by decide +kernel, by decide +kernel, by decide +kernel,
    by decide +kernel⟩
/-! Host events, commands, the frame. -/

/-- A command of context 0 on ring 0 of die 0. -/
def cmd0 (op : BitVec 16) (args : Bytes) : Command := ⟨0, 0, op, 0, 0, 0, 0, args⟩
def saved1 : Save := { snap := { tiles := [(tileKey ⟨0, 0⟩, { replies := [(0, reply1 [4] .data)] })] } }
theorem witness_HostEventResults_saves :
    (∃ s : State, NMap.find s.saves 0 = some saved1 ∧ s.busyWith 0 0x0C = none)
    ∧ (∃ s : State, NMap.find s.saves 0 = some saved1 ∧ s.busyWith 0 0x0C = some (cmd0 0x0C []))
    ∧ (∃ q, saved1.reply? 0 repPkt = some q) ∧ ({} : Save).reply? 0 repPkt = none ∧ repPkt.ctx = 0
    ∧ (∃ (v : Save) (fi : Firing) (y : Tile), v = { snap := { tiles := [(tileKey ⟨0, 0⟩, y)], ready := [fi] } } ∧ v.mail = []
        ∧ (∀ q ∈ v.snap.tiles, q.2.replies = [] ∧ q.2.latch = none) ∧ v.snap.regions = [] ∧ (v.snap.tiles.map (·.1)).Nodup)
    ∧ ∃ s : State, s.busyWith 0 0x0D = some (cmd0 0x0D []) :=
  ⟨⟨{ saves := [(0, saved1)] }, by decide +kernel, by decide +kernel⟩,
    ⟨{ saves := [(0, saved1)], dies := [(0, { rings := { busy := some (cmd0 0x0C []) } })] }, by decide +kernel, by decide +kernel⟩,
    ⟨reply1 [4] .data, by decide +kernel⟩, by decide +kernel, rfl,
    ⟨_, set2, {}, rfl, rfl, by simp, rfl, by simp⟩, { dies := [(0, { rings := { busy := some (cmd0 0x0D []) } })] }, by decide +kernel⟩
/-- A running context whose totals have moved; one whose ring waits for its host; one in which nothing moves. -/
def hangOf (sent : Nat) (g : Ring) : State :=
  { stateOf set2 with
    ctxs := [(0, { st := .running, dies := [0] })]
    tiles := [(0, { region := 1, sent := sent })]
    ctxDies := [(cdKey 0 0, { ring := g })] }
theorem witness_HostEventResults_hang :
    (∃ s : State, (s.ctx 0).st = .halted) ∧ (∃ s : State, (s.ctx 0).st ≠ .running ∧ (s.ctx 0).st ≠ .halted)
    ∧ ((hangOf 1 {}).ctx 0).st = .running ∧ (hangOf 1 {}).hangTotals 0 ≠ ((hangOf 1 {}).ctx 0).hangMark
    ∧ (hangOf 0 { highPosted := true }).hangExcused 0 = true ∧ ((hangOf 0 { highPosted := true }).ctx 0).st = .running
    ∧ ((hangOf 0 {}).ctx 0).st = .running ∧ (hangOf 0 {}).hangExcused 0 = false ∧ (hangOf 0 {}).hangStill 0 = true
    ∧ (∃ g ∈ (hangOf 0 {}).regions, g.2.launch.ctx = 0) ∧ ((hangOf 0 {}).ctx 0).dies = [0] :=
  ⟨⟨{ ctxs := [(0, { st := .halted })] }, by decide +kernel⟩, ⟨{}, by decide +kernel, by decide +kernel⟩, by decide +kernel, by decide +kernel,
    by decide +kernel, by decide +kernel, by decide +kernel, by decide +kernel, by decide +kernel, by decide +kernel, by decide +kernel⟩
/-- A package that takes commands, its ring with a `create` at HEAD and with an opcode that names nothing. -/
def upDies (r : Rings) : NMap Die := (0, { boot := { stat := 6 }, rings := r }) :: (List.range 7).map (fun i => (i + 1, { boot := { stat := 6 } }))
def ringState (op : Byte) : State := { dies := upDies {}, hostMem := [(0, op), (6, 0)].filter (fun p => p.2 ≠ 0) }
theorem witness_HostEventResults_commands :
    (∃ s : State, s.allReady = false) ∧ (∃ s : State, s.dies = upDies { busy := some (cmd0 1 []) } ∧ (s.die 0).rings.busy ≠ none)
    ∧ ∀ op ∈ [1, 255], (ringState op).allReady = true ∧ ((ringState op).die 0).rings.busy = none ∧ ((ringState op).die 0).rings.chead ≠ 1
        ∧ ((ringState op).die 0).rings.chead + 1 = 1
        ∧ (let k := (ringState op).commandAt 0 ((ringState op).die 0).rings.chead.toNat
           fieldOf k.flags 1 15 = 0 ∧ fieldOf k.ctxField 12 4 = 0 ∧ k.reserved = 0 ∧ (cmdEvent k = none ↔ op = 255)) :=
  ⟨⟨{}, by decide +kernel⟩, ⟨{ dies := upDies { busy := some (cmd0 1 []) } }, rfl, by decide +kernel⟩, by decide +kernel⟩
/-- No event kept and one; 2^8 entries in use before the host moves EHEAD to 1. -/
theorem witness_HostEventResults_events : ({} : Rings).kept = []
    ∧ ∃ r b, r = ({ kept := [b], etail := 256 } : Rings) ∧ r.kept = [b] ∧ (r.etail - 1).toNat < 2 ^ fieldOf r.eq 0 4 :=
  ⟨rfl, _, [], rfl, rfl, by decide⟩
/-- Host links that have both failed, and one of which has. -/
def hostLinks (a b : LinkState) : State := { dies := [(0, { links := [(6, { st := a })] }), (4, { links := [(6, { st := b })] })] }
theorem witness_HostEventResults_links : (hostLinks .failed .failed).hostOpen = false ∧ (hostLinks .up .failed).hostOpen = true
    ∧ (hostLinks .failed .failed).failedPort 0 6 = true ∧ (hostLinks .failed .failed).failedPort 4 6 = true
    ∧ (hostLinks .failed .up).failedPort 0 6 = true ∧ (hostLinks .failed .up).failedPort 4 6 = false ∧ ((hostLinks .failed .up).link 4 6).st = .up
    ∧ (hostLinks .up .failed).failedPort 4 6 = true ∧ (hostLinks .up .failed).failedPort 0 6 = false := by decide +kernel
theorem witness_HostEventResults_power : ∀ w ∈ [7201, 6912, 7200], ∀ s ∈ [({} : State), { pwrCap := 6000 }],
    (w = 7201 → min 7200 s.pwrCap * [w].length < sumN [w])
    ∧ (w = 6912 → s.pwrCap = 7200 → sumN [w] ≤ min 7200 s.pwrCap * 1 ∧ min 7200 s.pwrCap * 1 * 96 ≤ sumN [w] * 100)
    ∧ sumN [0] * 100 < min 7200 s.pwrCap * 1 * 96 ∧ s.raised + 1 < 10 ∧ s.powers = [] := by decide +kernel
theorem witness_HostEventResults_power_low : ∃ s : State, sumN ((6911 :: s.powers).take 10) * 100 < min 7200 s.pwrCap * 1 * 96 ∧ 10 ≤ s.raised + 1
    ∧ s.powers = [] := ⟨{ raised := 9 }, by decide +kernel, by decide, rfl⟩
/-- A host request: to a page, to a queue's window read, to a register's window write; link 6 up and down. -/
def hostUp : State := { dies := [(0, { links := [(6, { st := .up })] })] }
theorem witness_HostEventResults_requests :
    ((({} : State).link 0 6).st ≠ .up) ∧ (hostUp.link 0 6).st = .up
    ∧ (∃ p : Packet, p = { loadPkt with phys := false } ∧ p.typ ≠ 0 ∧ p.typ.toNat ≤ 12 ∧ p.cls ≠ 3 ∧ p.from_.toNat % 8 = 0
        ∧ hostUp.failedPort 0 6 = false ∧ vaOwner p.addr.toNat % 8 < 3)
    ∧ ∀ op ∈ [MemOp.load 8 false, .store (zeros 8)],
        let p : Packet := { typ := 4, op := op, addr := 2 ^ 50 + 0x20010, phys := true }
        p.typ = 4 ∧ p.addr.toNat % 2 ^ 20 % 8 = 0 ∧ p.phys = true ∧ bitN p.addr.toNat 50 = true :=
  ⟨by decide +kernel, by decide +kernel, ⟨_, rfl, by decide, by decide, by decide, by decide, by decide +kernel, by decide⟩, by decide +kernel⟩
/-- Queue 0 enabled and not; every register offset of the last queue and of the rings stands by itself. -/
theorem witness_HostEventResults_registers :
    (∃ s : State, bitN (s.queue 0 0).ctl.toNat 63 = false) ∧ (∃ s : State, bitN (s.queue 0 0).ctl.toNat 63 = true)
    ∧ ({} : Rings).chead = ({} : Rings).ctail ∧ ({ ctail := 1 } : Rings).chead ≠ ({ ctail := 1 } : Rings).ctail
    ∧ ({} : Rings).rungAt ≠ ({ cycles := 10 } : State).cycles + 1 ∧ bitN 255 7 = true ∧ bitN 0x7F 7 = false ∧ 0xF0 % 16 = 0
    ∧ ({} : Rings).ehead = ({} : Rings).etail ∧ bitN (2 ^ 63) 63 = true ∧ 0x1FFF8 < 0x20000 ∧ 0x1FFF8 % 32 = 0x18 :=
  ⟨⟨{}, by decide +kernel⟩, ⟨{ dies := [(0, { queues := [(0, { ctl := BitVec.ofNat 64 (2 ^ 63) })] })] }, by decide +kernel⟩, rfl, by decide,
    by decide, by decide, by decide, by decide, rfl, by decide, by decide, by decide⟩
/-- Dies at stage 0, at stage 3 after their first boot stage, and one of them at another. -/
def stageState (a b : BitVec 64) : State := { dies := (0, { boot := { stat := a } }) :: (List.range 7).map (fun i => (i + 1, { boot := { stat := b } })) }
theorem witness_HostEventResults_bringUp :
    (∀ n < 8, ({} : State).stage n = 0)
    ∧ (∀ n < 8, (stageState 3 3).stage n = 3 ∧ fieldOf ((stageState 3 3).die n).boot.patch 6 58 = 0
        ∧ ((stageState 3 3).die n).rings.chead = ((stageState 3 3).die n).rings.ctail) ∧ (stageState 3 3).hostOpen = true
    ∧ (∃ n < 8, (stageState 0x8201 3).stage n ≠ 0) ∧ ∃ n < 8, (stageState 0x8201 3).stage n ≠ 3 := by decide +kernel
/-- The one context of a package, 0, in a state. -/
def ctxIn (st : CtxState) : State := { ctxs := [(0, { st := st, dies := [0] })] }
/-- Rings empty or with another command waiting behind; with and without the flag that asks for no completion. -/
theorem witness_ContextCommandResults_finish : ({} : Rings).chead = ({} : Rings).ctail
    ∧ (bitN { cmd0 1 [] with flags := 1 }.flags.toNat 0 = true) ∧ bitN (cmd0 1 []).flags.toNat 0 = false
    ∧ ({} : State).hostOpen = true ∧ (hostLinks .failed .failed).hostOpen = false := by decide +kernel
/-- A destroy whose pages have drained. -/
def destroyOp : DrainOp := { id := 9, ctx := 0, base := 0, len := 0, waits := [], cmd := some (cmd0 2 []) }
theorem witness_ContextCommandResults_destroy : ∀ st ∈ [CtxState.idle, .saved, .ended],
    ({ ctxIn st with drainOps := [destroyOp] } : State).drainOps.find? (fun o => o.id = 9) = some destroyOp ∧ destroyOp.job = none
    ∧ destroyOp.cmd = some (cmd0 2 []) ∧ (cmd0 2 []).opcode = 0x02 ∧ ((ctxIn st).ctx 0).st = st := by decide +kernel
/-- A context with a tile that has taken a synchronous trap in this very cycle, whose handler is open. -/
def endState : State := { stateOf set2 with tiles := [(0, { region := 1, trapAt := some (0, 0), passes := [{ pass1 with handler := true }] })] }
theorem witness_ContextCommandResults_kill_held : endState.trapNow 0 = some t0 ∧ 0 < endState.handlersOn t0 ∧ (endState.ctx 0).heldEnd = none
    ∧ (endState.ctx 0).st = .running := by decide +kernel
theorem witness_ContextCommandResults_states :
    (∀ st ∈ [CtxState.free, .idle, .running, .halted, .saved, .ended], ((ctxIn st).ctx 0).st = st) ∧ cmdCtx (cmd0 1 []) = 0 := by decide +kernel
/-- The arguments of resident: package 0, one package, all eight dies; no package; past the last package; no die. -/
def resArgs (first count : Nat) (mask : Byte) : Bytes := leBytes 2 first ++ leBytes 2 count ++ [mask]
/-- 512 other contexts on die 1. -/
def fullDie : State := { ctxs := (0, { st := .idle, dies := [0] }) :: (List.range 512).map (fun i => (i + 1, { st := .idle, dies := [1] })) }
theorem witness_ContextCommandResults_resident :
    (∀ x ∈ [(0, 0, 255, true), (1023, 2, 255, true), (0, 1, 0, true), (0, 1, 255, false), (0, 1024, 128, false)],
      let a := (cmd0 3 (resArgs x.1 x.2.1 x.2.2.1)).args
      (numAt a 2 2 = 0 ∨ 1024 < numAt a 0 2 + numAt a 2 2 ∨ numAt a 4 1 = 0 ↔ x.2.2.2 = true))
    ∧ (bitN 255 1 = true ∧ 1 ∉ (fullDie.ctx 0).dies ∧ 512 ≤ fullDie.residents 1)
    ∧ (∀ d < 8, (ctxIn .idle).residents d < 512) ∧ (ctxIn .idle).regions = []
    ∧ ∃ q ∈ (stateOf set2).regions, q.2.launch.ctx = 0 := by decide +kernel
theorem witness_ContextCommandResults_evict : ∃ (s : State) (q : Nat × Region), s.regions = [q] ∧ q.2.launch.ctx = 0 ∧ 0 ∈ q.2.launch.dies :=
  ⟨{ regions := [(1, { launch := { launch1 with dies := [0] } })] }, (1, { launch := { launch1 with dies := [0] } }), rfl, rfl, by decide +kernel⟩
/-- Levels 3 and 4; a context with a region and one without, at level 0. -/
theorem witness_ContextCommandResults_mode : 3 < numAt [4] 0 1 ∧ numAt [3] 0 1 ≤ 3 ∧ (stateOf set2).busy 0 = true ∧ (ctxIn .idle).busy 0 = false
    ∧ (ctxIn .idle).level 0 = numAt [0] 0 1 ∧ (ctxIn .idle).level 0 ≠ numAt [3] 0 1 := by decide +kernel
/-- A halted context with no entry, and with one entry that stopped no set for its memory. -/
theorem witness_ContextCommandResults_resume :
    (∀ d < 8, ((ctxIn .halted).cd 0 d).pending = []) ∧ (ctxIn .halted).ready = [] ∧ ((ctxIn .halted).ctx 0).brk = [] ∧ (ctxIn .halted).ctxTiles 0 = []
    ∧ ∃ (s : State) (p : Pending), (s.ctx 0).st = .halted ∧ (s.cd 0 7).pending = [(63, p)] ∧ (∀ e < 8, e ≠ 7 → (s.cd 0 e).pending = [])
        ∧ ¬ (p.sync = true ∧ p.index = 10) :=
  ⟨by decide +kernel, rfl, by decide +kernel, by decide +kernel,
    { ctxIn .halted with ctxDies := [(cdKey 0 7, { pending := [(63, ⟨8, 1, false, true, none, none⟩)] })] }, ⟨8, 1, false, true, none, none⟩,
    by decide +kernel, by decide +kernel, by decide +kernel, by decide⟩
theorem witness_ContextCommandResults_kill : (ctxIn .running).trapNow 0 = none ∧ 32 ≤ numAt [32] 0 1 ∧ numAt [31] 0 1 < 32
    ∧ ∀ d < 8, ((ctxIn .running).cd 0 d).trape.length = 32 := by decide +kernel
/-- A save area of 2^20 bytes on the die of the context's one tile, which holds any save of one tile. -/
def saveState : State := { stateOf set2 with ctxDies := [(cdKey 0 0, { saveSz := BitVec.ofNat 64 (2 ^ 20) })] }
theorem witness_ContextCommandResults_preempt : (saveState.ctx 0).st = .running ∧ saveState.chipDies 0 = [0] ∧ saveState.saveFits 0 0 = true := by
  refine ⟨by decide +kernel, by decide +kernel, ?_⟩
  have h : saveState.saveFits 0 0 = decide (min (65536 + 393216 * 1 + 589824 * 0) (Config.saveBytes 1 0) ≤ 1048576) := by with_unfolding_all rfl
  rw [h, decide_eq_true_eq]
  omega
/-- A saved context whose die has a save area without sections and one whose area is not mapped. -/
def restoreState (ps : List PageMap) : State :=
  { ctxIn .saved with
    ctxDies := [(cdKey 0 0, { pages := ps })]
    saves := [(0, { snap := { regions := [(1, { launch := launch1, tiles := [⟨0, 0⟩] })] } })]
    mem := [(0, 0x43), (1, 0x58), (2, 0x53), (3, 0x56), (4, 1), (6, 2)] }
theorem witness_ContextCommandResults_restore : ∀ ps ∈ [[], [⟨0, BitVec.ofNat 64 (2 ^ 63)⟩]], ∃ v, NMap.find (restoreState ps).saves 0 = some v ∧ v.dies = [0]
    ∧ ((restoreState ps).ctx 0).st = .saved ∧ ((restoreState ps).saveOk 0 0 v = true ↔ ps ≠ []) := by
  intro ps h
  refine ⟨_, rfl, by decide +kernel, by with_unfolding_all rfl, ?_⟩
  simp only [List.mem_cons, List.not_mem_nil, or_false] at h
  rcases h with rfl | rfl <;> decide +kernel
theorem witness_ContextCommandResults_ctxinfo : 8 ≤ numAt [8, 0] 0 2 ∧ numAt [7, 0] 0 2 < 8 := by decide
/-- Command arguments: of map, of an unmap or protect; one page at 0x10000, writable, leased or pinned, or read-only. -/
def mapArgs (va pa : Nat) (b : Byte) : Bytes := leBytes 8 va ++ leBytes 8 pa ++ [b]
def pageOf (bits : Nat) : PageMap := ⟨0x10000, BitVec.ofNat 64 (2 ^ 63 + bits)⟩
def pageState (g : PageMap) : State := { ctxDies := [(cdKey 0 0, { pages := [g] })] }
/-- The first page and the last of the die; a bad size code, kind and address, a page past the die; another package; an overlap. -/
theorem witness_UnitCommandResults_map :
    (∀ x ∈ [(0, 384 * 2 ^ 30 - 2 ^ 16, (0 : Byte), false), (2 ^ 30, 383 * 2 ^ 30, 0x3A, false), (0, 0, 3, true), (0, 0, 12, true), (64, 0, 0, true),
          (0, 384 * 2 ^ 30, 0, true)],
        let args := mapArgs x.1 x.2.1 x.2.2.1
        let va := numAt args 0 8
        let pa := numAt args 8 8
        let b := numAt args 16 1
        b < 64 ∧ ((b % 4 = 3 ∨ b / 4 % 4 = 3 ∨ va % pageSize (b % 4) ≠ 0 ∨ pa % pageSize (b % 4) ≠ 0 ∨ dieBytes < pa + pageSize (b % 4)) ↔ x.2.2.2 = true))
    ∧ 64 ≤ numAt (mapArgs 0 0 64) 16 1 ∧ vaPkg (2 ^ 54) ≠ ({} : State).pkg ∧ vaPkg 0x10000 = ({} : State).pkg
    ∧ (∃ g ∈ ((pageState (pageOf 0)).cd 0 0).pages, pdValid g.desc = true ∧ 0x10000 < g.va + pdSize g.desc ∧ g.va < 0x10000 + 65536)
    ∧ ¬ ∃ g ∈ ((pageState (pageOf 0)).cd 0 0).pages, pdValid g.desc = true ∧ 0x20000 < g.va + pdSize g.desc ∧ g.va < 0x20000 + 65536 := by
  decide +kernel
theorem witness_UnitCommandResults_pages :
    (∀ bits ∈ [2 ^ 58, 2 ^ 58 + 2 ^ 55, 2 ^ 58 + 2 ^ 56, 0], (pageState (pageOf bits)).page? 0 0x10000 = some (pageOf bits) ∧ (pageOf bits).va = 0x10000
        ∧ (pdLeased (pageOf bits).desc = true ↔ bits = 2 ^ 58 + 2 ^ 55) ∧ (pdPin (pageOf bits).desc = true ↔ bits = 2 ^ 58 + 2 ^ 56)
        ∧ (pdW (pageOf bits).desc = true ↔ bits ≠ 0))
    ∧ (∀ g, (pageState (pageOf 0)).page? 0 0x20000 = some g → g.va ≠ 0x20000) ∧ 3 < numAt [4] 0 1
    ∧ ∃ o s, o = ({ id := 0, ctx := 0, base := 0x10000, len := 65536, waits := [], cmd := some (cmd0 8 (leBytes 8 0x10000)) } : DrainOp)
        ∧ s = { pageState (pageOf (2 ^ 58)) with drainOps := [o] } ∧ s.drainOps.find? (fun o => o.id = 0) = some o ∧ o.job = none
        ∧ o.cmd = some (cmd0 8 (leBytes 8 0x10000)) :=
  ⟨by decide +kernel, fun g h => (by rw [show (pageState (pageOf 0)).page? 0 0x20000 = none by decide +kernel] at h; cases h), by decide,
    _, _, rfl, rfl, by decide +kernel, rfl, rfl⟩
/-- A table area with room, and one without. -/
theorem witness_UnitCommandResults_table : ({} : State).tableFull 0 = false
    ∧ ({ ctxDies := [(cdKey 0 0, { pages := List.replicate (Config.tablePages 0 + 1) (pageOf 0) })] } : State).tableFull 0 = true :=
  ⟨by simp [State.tableFull, sumN], by simp [State.tableFull, sumN, cdKey]⟩
/-- Residency slot 7 in use by a launch that waits since cycle 0, before and after RESWAIT has passed; slot 0 free. -/
def resState (now : Nat) : State := { cycles := now, dies := [(0, { resSlots := [(7, 7)], aspCtl := 0x100 })], launches := [(7, head1)] }
theorem witness_UnitCommandResults_residency : NMap.find ((resState 0).die 0).resSlots 0 = none ∧ NMap.find ((resState 0).die 0).resSlots 7 = some 7
    ∧ (resState 0).cycles < (resState 0).reswaitDue 0 7 ∧ (resState 1900000).reswaitDue 0 7 ≤ (resState 1900000).cycles := by decide +kernel
/-- regw: every selector from 0 to 0x21, the last die of this package, the next package, an owner past 13 bits; a size that is no multiple of 64 KiB. -/
def regwArgs (sel owner v : Nat) : Bytes := leBytes 2 sel ++ leBytes 2 owner ++ zeros 4 ++ leBytes 8 v
theorem witness_UnitCommandResults_regw :
    (∀ sel < 0x22, numAt (regwArgs sel 7 0) 0 2 = sel ∧ numAt (regwArgs sel 7 0) 2 2 / 8 = ({} : State).pkg ∧ numAt (regwArgs sel 7 0) 2 2 < 8192)
    ∧ numAt (regwArgs 1 8 0) 2 2 / 8 ≠ ({} : State).pkg ∧ 8192 ≤ numAt (regwArgs 1 8192 0) 2 2
    ∧ fieldOf (BitVec.ofNat 64 (numAt (regwArgs 0x0D 0 1) 8 8)) 0 16 ≠ 0 ∧ fieldOf (BitVec.ofNat 64 (numAt (regwArgs 0x0D 0 65536) 8 8)) 0 16 = 0
    ∧ (({} : State).die 0).tbk.length = 4 ∧ (({} : State).die 0).tbf.length = 4 ∧ (stateOf set2).busy 0 = true ∧ ({} : State).busy 0 = false := by
  decide +kernel
/-- A write of CAT_BASE whose area has no writable page, and one that a writable page lies in; the same command when it has drained. -/
theorem witness_UnitCommandResults_lost :
    let k := cmd0 6 (regwArgs 0x16 0 0x10000)
    let lost := fun (s : State) => s.lostW ((s.regwCtx 0 0 0x16 0x10000).done k 0) 0
    selKind 0x16 = 2 ∧ lost (pageState (pageOf 0)) = [] ∧ lost (pageState (pageOf (2 ^ 58))) ≠ []
    ∧ ∃ s o, o = ({ id := 0, ctx := 0, base := 0x10000, len := 65536, waits := [], cmd := some k } : DrainOp)
        ∧ s = { pageState (pageOf (2 ^ 58)) with drainOps := [o] } ∧ s.drainOps.find? (fun o => o.id = 0) = some o ∧ o.job = none ∧ k.opcode = 6 :=
  ⟨by decide +kernel, by decide +kernel, by decide +kernel, _, _, rfl, rfl, by decide +kernel, rfl, rfl⟩
theorem witness_UnitCommandResults_areas : ∃ s r, s = pageState (pageOf 0) ∧ areaOf (s.cd 0 0).obs 0x16 (BitVec.ofNat 64 0x10000) = some r
    ∧ s.writableLeased 0 0 r = false
    ∧ ({ s with launches := [(7, { head1 with active := [⟨0x10000, 65536, true, 0⟩] })] } : State).writableLeased 0 0 r = true :=
  ⟨_, (0x10000, 65536), rfl, by decide +kernel, by decide +kernel, by decide +kernel⟩
/-- A grammar image of one state, one symbol, one token that is never allowed, and one empty mask row. -/
def imageState : State :=
  { memState [] with
    mem := [(0, 0x47), (1, 0x52), (2, 0x47), (3, 0x4D), (4, 1), (6, 1), (8, 1), (0xC, 1), (0x10, 0x40), (0x12, 1), (0x18, 0x80), (0x1A, 1), (0x20, 0xC0),
      (0x22, 1), (0x29, 1), (0x2A, 1), (0x30, 1), (0x83, 0xC0)] ++ cellsAt 0xC8 [255, 255, 255, 255] ++ cellsAt 0xD8 [255, 255, 255, 255] }
theorem witness_UnitCommandResults_gramw :
    (∀ x ∈ [(7, 15, vaDie (7 * 2 ^ 51) * 2 ^ 51, false), (8, 0, 0, true), (0, 16, 0, true), (0, 0, 32, true), (1, 0, 0, true)],
        (8 ≤ x.1 ∨ 16 ≤ x.2.1 ∨ x.2.2.1 % 64 ≠ 0 ∨ vaOwner x.2.2.1 ≠ ({} : State).pkg * 8 + x.1) ↔ x.2.2.2 = true)
    ∧ imageState.imageFails 0 0x10000 = none ∧ (gramState []).imageFails 0 0x10000 = some 0
    ∧ (∀ r ∈ imageRanges 0x10000 (gramHead ({ imageState with regions := [] }.readVa 0 0x10000 64)), { imageState with regions := [] }.writableLeased 0 0 r = false)
    ∧ ∃ r ∈ imageRanges 0x10000 (gramHead (imageState.readVa 0 0x10000 64)),
        ({ imageState with launches := [(7, { head1 with active := [⟨0x10000, 65536, true, 0⟩] })] } : State).writableLeased 0 0 r = true := by
  decide +kernel
/-- Endpoint and window entries that keep their limits and that do not, a window table with room for pins, without, and with a valid entry. -/
theorem witness_UnitCommandResults_network :
    endpointOk [] (3 :: 0 :: leBytes 2 4095 ++ [7] ++ zeros 19) = true ∧ endpointOk [] (4 :: zeros 23) = false
    ∧ windowOk 0 (zeros 32) = true ∧ winValid (zeros 32) = false ∧ windowOk 0 (win1 ++ zeros 7) = true ∧ winValid (win1 ++ zeros 7) = true
    ∧ windowOk 1 (win1 ++ zeros 7) = false
    ∧ (∃ s : State, (s.cd 0 0).pins.length < 64) ∧ (∃ s : State, 64 ≤ (s.cd 0 0).pins.length ∧ winValid (NMap.getD (s.cd 0 0).windows 0 []) = false)
    ∧ (∃ s : State, (s.die 0).net.msgs ≠ []) ∧ (({} : State).die 0).net.msgs = [] ∧ ({} : State).ctxDies = []
    ∧ netCfgOk (Memory.getN [] 0 64) = true ∧ netCfgOk (Memory.getN [(0, 2)] 0 64) = false :=
  ⟨by decide +kernel, by decide +kernel, by decide +kernel, by decide +kernel, by decide +kernel, by decide +kernel, by decide +kernel,
    ⟨{}, by decide +kernel⟩, ⟨{ ctxDies := [(cdKey 0 0, { pins := (List.range 64).map (fun i => (i, 1)) })] }, by decide +kernel, by decide +kernel⟩,
    ⟨engState .powerUp msgW [], by decide +kernel⟩, by decide +kernel, rfl, by decide +kernel, by decide +kernel⟩
/-- Links of die 0 and die 1; memory moves up to the last byte of the die, and one byte further. -/
theorem witness_UnitCommandResults_links_memory :
    ((linkIn .down 0).link 0 0).st = .down ∧ ((linkIn .failed 0).link 0 0).st = .failed ∧ ((linkIn .up 0).link 0 0).st ≠ .down ∧ ((linkIn .up 0).link 0 0).st ≠ .failed
    ∧ ¬ (6 < 6 ∨ 6 = 6 ∧ (1 = 0 ∨ 1 = 4)) ∧ dieBytes < dieBytes - 1 + 2 ∧ dieBytes - 1 + 1 ≤ dieBytes
    ∧ ({} : State).physMapped 0 (dieBytes - 1) 1 = false ∧ (pageState (pageOf 0)).physMapped 0 0xFFFF 1 = true
    ∧ (8191 : Nat) / 8 ≠ ({} : State).pkg ∧ (7 : Nat) / 8 = ({} : State).pkg := by decide +kernel
/-- Frozen and not frozen dies, for one die and for all; a patch table of which nothing is known, when idle and while a region runs. -/
theorem witness_UnitCommandResults_observation :
    (∃ s : State, ∀ e < 8, (s.die e).frozen = true) ∧ (∀ e < 8, (({} : State).die e).frozen = false)
    ∧ ((ctxIn .halted).ctx 0).st = .halted ∧ ((ctxIn .idle).ctx 0).st ≠ .halted
    ∧ (stateOf set2).regions ≠ [] ∧ ({} : State).launches = [] ∧ ({} : State).regions = []
    ∧ (∀ x ∈ [(999, true), (1000, false), (7200, false), (7201, true)], (numAt (leBytes 2 x.1) 0 2 < 1000 ∨ 7200 < numAt (leBytes 2 x.1) 0 2) ↔ x.2 = true)
    ∧ 2 ^ 64 < 2 ^ 64 - 1 + 2 ∧ ¬ (2 ^ 64 < 2 ^ 64 - 1 + 1) :=
  ⟨⟨{ dies := (List.range 8).map (fun e => (e, { frozen := true })) }, by decide +kernel⟩, by decide +kernel, by decide +kernel, by decide +kernel,
    by decide +kernel, rfl, rfl, by decide +kernel, by decide, by decide⟩

/-- An instruction of each class of the frame, on a set of two tokens, and windows bound for `apw`. -/
def winState : State :=
  { stateOf set2 with regions := [(1, { launch := { launch1 with windows := (List.range 8).map (fun k => (k, (0x10000, 16))) }, tiles := [⟨0, 0⟩] })] }
theorem witness_RegisterFrame : ∀ i ∈ [Instr.ialuAdd fTok, .gateDup fTok, .addrApw fTok, .stateSacc fTok, .vpermShuf fTok],
    (∃ p : BitVec 6 × BitVec 8 × Fields, i.parts = some p ∧ ((1 ≤ p.1.toNat ∧ p.1.toNat ≤ 13) ∨ p.1 = 16 ∨ p.1 = 17))
    ∧ winState.overfull = false ∧ winState.level (winState.regionCtx winState.cur.region) < 2
    ∧ (winState.ctx (winState.ctxOf winState.cur.at_)).heldEnd = none ∧ (∀ k < 8, (winState.window? winState.cur.region k).isSome = true) := by
  intro i h
  refine ⟨?_, by decide +kernel, by decide +kernel, by decide +kernel, by decide +kernel⟩
  simp only [List.mem_cons, List.not_mem_nil, or_false] at h
  rcases h with rfl | rfl | rfl | rfl | rfl <;> exact ⟨_, rfl, by decide⟩
theorem witness_RegisterFrame_room : ∀ p, (winState.tile winState.cur.at_).pass? winState.cur.inst = some p → p.used + 5 ≤ p.quota := by
  intro p h
  have e : (winState.tile winState.cur.at_).pass? winState.cur.inst = some pass1 := by decide +kernel
  rw [e] at h
  cases h
  decide

end Sys2Proof.Tests
end

section
/-! PROOFS. A step goes on (00 R4): no meaning stops the machine, and every one of them keeps the count of steps and the package's
number. -/

namespace Sys2Proof.Machine

/-! ### What a step runs answers a next state -/

/-- An event has its meaning at itself, where it answers outright or, three times, whether or not it finds what it takes. -/
theorem exec_started_next (e : Event) (s : State) : ∃ t, exec e.instr (s.started e) = .next t := by
  cases e with
  | orderConditionMet | barwaitRetry | releaseTokenOut =>
    simp only [Event.instr, exec, execOrderConditionMet, execBarwaitRetry, execReleaseTokenOut, State.started]
    split <;> exact ⟨_, rfl⟩
  | _ => exact ⟨_, rfl⟩

/-- A word decodes to Larsum instructions only (02 R34, R35), and the meaning of each answers outright. -/
theorem exec_decoded_next {w : BitVec 32} {e : BitVec 64} {i : Instr} (h : decode w e = .ok i) (s : State) :
    ∃ t, exec i s = .next t := by
  simp only [decode, decodeParts, decodeIalu, decodeIcmp, decodeAddr, decodeVfma, decodeVfarith, decodeVcvt, decodeVspecial, decodeVred,
    decodeVperm, decodeSteer, decodeMerge, decodeGate, decodeTagop, decodeSpawn, decodeJoin, decodeExit, decodeState, decodeLdl, decodeStl,
    decodeLd, decodeSt, decodeGather, decodeScatter, decodeAtom, decodeOrder, decodeBar, decodeMma, decodeMacc, decodeMsparse, decodeKput,
    decodeKquery, decodeSmax, decodeRmt, decodeRrel, decodeNet, decodeGram, decodeXfer, decodeSys, decodeTrap, decodeDbg, decodeAccn,
    decodeAspace] at h
  repeat' split at h
  all_goals cases h <;> exact ⟨_, rfl⟩

/-! ### Every meaning keeps the count of steps and the package's number -/

/-- What a meaning leaves unchanged, instruction by instruction. -/
theorem keeps_exec {s t : State} : ∀ i : Instr, exec i s = .next t → Keeps s t
  | .ialuAdd f, h => keeps_execIaluAdd f h
  | .ialuSub f, h => keeps_execIaluSub f h
  | .ialuMul f, h => keeps_execIaluMul f h
  | .ialuMulh f, h => keeps_execIaluMulh f h
  | .ialuMin f, h => keeps_execIaluMin f h
  | .ialuMax f, h => keeps_execIaluMax f h
  | .ialuAnd f, h => keeps_execIaluAnd f h
  | .ialuOr f, h => keeps_execIaluOr f h
  | .ialuXor f, h => keeps_execIaluXor f h
  | .ialuNot f, h => keeps_execIaluNot f h
  | .ialuShl f, h => keeps_execIaluShl f h
  | .ialuShr f, h => keeps_execIaluShr f h
  | .ialuRot f, h => keeps_execIaluRot f h
  | .ialuPopc f, h => keeps_execIaluPopc f h
  | .ialuClz f, h => keeps_execIaluClz f h
  | .ialuAbs f, h => keeps_execIaluAbs f h
  | .icmpEq f, h => keeps_execIcmpEq f h
  | .icmpNe f, h => keeps_execIcmpNe f h
  | .icmpLt f, h => keeps_execIcmpLt f h
  | .icmpLe f, h => keeps_execIcmpLe f h
  | .icmpGt f, h => keeps_execIcmpGt f h
  | .icmpGe f, h => keeps_execIcmpGe f h
  | .icmpTst f, h => keeps_execIcmpTst f h
  | .addrAmov f, h => keeps_execAddrAmov f h
  | .addrAoff f, h => keeps_execAddrAoff f h
  | .addrAscale f, h => keeps_execAddrAscale f h
  | .addrApw f, h => keeps_execAddrApw f h
  | .addrAread f, h => keeps_execAddrAread f h
  | .vfmaFma f, h => keeps_execVfmaFma f h
  | .vfmaFms f, h => keeps_execVfmaFms f h
  | .vfmaFnma f, h => keeps_execVfmaFnma f h
  | .vfmaFnms f, h => keeps_execVfmaFnms f h
  | .vfmaDot f, h => keeps_execVfmaDot f h
  | .vfmaDotacc f, h => keeps_execVfmaDotacc f h
  | .vfarithFadd f, h => keeps_execVfarithFadd f h
  | .vfarithFsub f, h => keeps_execVfarithFsub f h
  | .vfarithFmul f, h => keeps_execVfarithFmul f h
  | .vfarithFdiv f, h => keeps_execVfarithFdiv f h
  | .vfarithFmin f, h => keeps_execVfarithFmin f h
  | .vfarithFmax f, h => keeps_execVfarithFmax f h
  | .vfarithFabs f, h => keeps_execVfarithFabs f h
  | .vfarithFneg f, h => keeps_execVfarithFneg f h
  | .vfarithFsqrt f, h => keeps_execVfarithFsqrt f h
  | .vfarithFclass f, h => keeps_execVfarithFclass f h
  | .vfarithFeq f, h => keeps_execVfarithFeq f h
  | .vfarithFlt f, h => keeps_execVfarithFlt f h
  | .vfarithFle f, h => keeps_execVfarithFle f h
  | .vcvtCvt f, h => keeps_execVcvtCvt f h
  | .vcvtFtoi f, h => keeps_execVcvtFtoi f h
  | .vcvtItof f, h => keeps_execVcvtItof f h
  | .vcvtCvtmx f, h => keeps_execVcvtCvtmx f h
  | .vcvtUnmx f, h => keeps_execVcvtUnmx f h
  | .vcvtSketch f, h => keeps_execVcvtSketch f h
  | .vspecialExp2 f, h => keeps_execVspecialExp2 f h
  | .vspecialLog2 f, h => keeps_execVspecialLog2 f h
  | .vspecialRcp f, h => keeps_execVspecialRcp f h
  | .vspecialRsqrt f, h => keeps_execVspecialRsqrt f h
  | .vspecialTanh f, h => keeps_execVspecialTanh f h
  | .vspecialSigm f, h => keeps_execVspecialSigm f h
  | .vredRsum f, h => keeps_execVredRsum f h
  | .vredRmax f, h => keeps_execVredRmax f h
  | .vredRmin f, h => keeps_execVredRmin f h
  | .vredRsumsq f, h => keeps_execVredRsumsq f h
  | .vpermBcast f, h => keeps_execVpermBcast f h
  | .vpermShuf f, h => keeps_execVpermShuf f h
  | .vpermSlide f, h => keeps_execVpermSlide f h
  | .vpermZip f, h => keeps_execVpermZip f h
  | .vpermUnzip f, h => keeps_execVpermUnzip f h
  | .steerSteer f, h => keeps_execSteerSteer f h
  | .steerRoute f, h => keeps_execSteerRoute f h
  | .steerSel f, h => keeps_execSteerSel f h
  | .mergeMerge f, h => keeps_execMergeMerge f h
  | .mergeMergeo f, h => keeps_execMergeMergeo f h
  | .gateGate f, h => keeps_execGateGate f h
  | .gateNullify f, h => keeps_execGateNullify f h
  | .gateDup f, h => keeps_execGateDup f h
  | .tagopGetit f, h => keeps_execTagopGetit f h
  | .tagopGetfr f, h => keeps_execTagopGetfr f h
  | .tagopGetph f, h => keeps_execTagopGetph f h
  | .tagopSetit f, h => keeps_execTagopSetit f h
  | .tagopSetph f, h => keeps_execTagopSetph f h
  | .spawnSpawn f, h => keeps_execSpawnSpawn f h
  | .spawnSpawnn f, h => keeps_execSpawnSpawnn f h
  | .spawnSpawnr f, h => keeps_execSpawnSpawnr f h
  | .joinJoin f, h => keeps_execJoinJoin f h
  | .joinJoinall f, h => keeps_execJoinJoinall f h
  | .exitExit f, h => keeps_execExitExit f h
  | .exitAbort f, h => keeps_execExitAbort f h
  | .stateSld f, h => keeps_execStateSld f h
  | .stateSst f, h => keeps_execStateSst f h
  | .stateSacc f, h => keeps_execStateSacc f h
  | .stateSclr f, h => keeps_execStateSclr f h
  | .ldlLdl f, h => keeps_execLdlLdl f h
  | .ldlLdls f, h => keeps_execLdlLdls f h
  | .ldlLdlx f, h => keeps_execLdlLdlx f h
  | .stlStl f, h => keeps_execStlStl f h
  | .stlStls f, h => keeps_execStlStls f h
  | .stlStlx f, h => keeps_execStlStlx f h
  | .ldLd f, h => keeps_execLdLd f h
  | .ldLdnt f, h => keeps_execLdLdnt f h
  | .ldLdpw f, h => keeps_execLdLdpw f h
  | .ldLdfc f, h => keeps_execLdLdfc f h
  | .ldFcinv f, h => keeps_execLdFcinv f h
  | .stSt f, h => keeps_execStSt f h
  | .stStnt f, h => keeps_execStStnt f h
  | .gatherGath f, h => keeps_execGatherGath f h
  | .gatherGathw f, h => keeps_execGatherGathw f h
  | .scatterScat f, h => keeps_execScatterScat f h
  | .scatterScatm f, h => keeps_execScatterScatm f h
  | .atomAtadd f, h => keeps_execAtomAtadd f h
  | .atomAtmin f, h => keeps_execAtomAtmin f h
  | .atomAtmax f, h => keeps_execAtomAtmax f h
  | .atomAtand f, h => keeps_execAtomAtand f h
  | .atomAtor f, h => keeps_execAtomAtor f h
  | .atomAtxor f, h => keeps_execAtomAtxor f h
  | .atomAtxchg f, h => keeps_execAtomAtxchg f h
  | .atomAtcas f, h => keeps_execAtomAtcas f h
  | .atomAtcasw f, h => keeps_execAtomAtcasw f h
  | .atomAtfadd f, h => keeps_execAtomAtfadd f h
  | .orderAcq f, h => keeps_execOrderAcq f h
  | .orderRel f, h => keeps_execOrderRel f h
  | .orderAcqrel f, h => keeps_execOrderAcqrel f h
  | .orderFence f, h => keeps_execOrderFence f h
  | .barBarinit f, h => keeps_execBarBarinit f h
  | .barBarjoin f, h => keeps_execBarBarjoin f h
  | .barBarwait f, h => keeps_execBarBarwait f h
  | .mmaMldb f, h => keeps_execMmaMldb f h
  | .mmaMrow f, h => keeps_execMmaMrow f h
  | .mmaMgat f, h => keeps_execMmaMgat f h
  | .mmaMscale f, h => keeps_execMmaMscale f h
  | .mmaMend f, h => keeps_execMmaMend f h
  | .mmaMdrain f, h => keeps_execMmaMdrain f h
  | .maccAcinit f, h => keeps_execMaccAcinit f h
  | .maccAcadd f, h => keeps_execMaccAcadd f h
  | .maccAcread f, h => keeps_execMaccAcread f h
  | .maccAcsave f, h => keeps_execMaccAcsave f h
  | .maccAcload f, h => keeps_execMaccAcload f h
  | .msparseMsldb f, h => keeps_execMsparseMsldb f h
  | .msparseMsmeta f, h => keeps_execMsparseMsmeta f h
  | .msparseMsrow f, h => keeps_execMsparseMsrow f h
  | .kputKput f, h => keeps_execKputKput f h
  | .kputKputs f, h => keeps_execKputKputs f h
  | .kputKdrop f, h => keeps_execKputKdrop f h
  | .kputKseq f, h => keeps_execKputKseq f h
  | .kputKfork f, h => keeps_execKputKfork f h
  | .kqueryKq f, h => keeps_execKqueryKq f h
  | .kqueryKqd f, h => keeps_execKqueryKqd f h
  | .kqueryKqsk f, h => keeps_execKqueryKqsk f h
  | .kqueryKmerge f, h => keeps_execKqueryKmerge f h
  | .smaxSmref f, h => keeps_execSmaxSmref f h
  | .smaxSmacc f, h => keeps_execSmaxSmacc f h
  | .smaxSmnorm f, h => keeps_execSmaxSmnorm f h
  | .smaxSmresc f, h => keeps_execSmaxSmresc f h
  | .smaxSmflag f, h => keeps_execSmaxSmflag f h
  | .rmtRld f, h => keeps_execRmtRld f h
  | .rmtRst f, h => keeps_execRmtRst f h
  | .rmtRadd f, h => keeps_execRmtRadd f h
  | .rmtRcas f, h => keeps_execRmtRcas f h
  | .rmtRxchg f, h => keeps_execRmtRxchg f h
  | .rmtRpf f, h => keeps_execRmtRpf f h
  | .rrelRelopen f, h => keeps_execRrelRelopen f h
  | .rrelRelflag f, h => keeps_execRrelRelflag f h
  | .rrelRelwait f, h => keeps_execRrelRelwait f h
  | .rrelRelabort f, h => keeps_execRrelRelabort f h
  | .netPost f, h => keeps_execNetPost f h
  | .netWait f, h => keeps_execNetWait f h
  | .netNcget f, h => keeps_execNetNcget f h
  | .netNcset f, h => keeps_execNetNcset f h
  | .netCancel f, h => keeps_execNetCancel f h
  | .netNfence f, h => keeps_execNetNfence f h
  | .netNstat f, h => keeps_execNetNstat f h
  | .gramStep f, h => keeps_execGramStep f h
  | .gramMask f, h => keeps_execGramMask f h
  | .gramGstate f, h => keeps_execGramGstate f h
  | .gramGset f, h => keeps_execGramGset f h
  | .gramGreset f, h => keeps_execGramGreset f h
  | .xferCopy f, h => keeps_execXferCopy f h
  | .xferCopy2d f, h => keeps_execXferCopy2d f h
  | .xferFill f, h => keeps_execXferFill f h
  | .sysClock f, h => keeps_execSysClock f h
  | .sysTileid f, h => keeps_execSysTileid f h
  | .sysTimer f, h => keeps_execSysTimer f h
  | .sysCtxst f, h => keeps_execSysCtxst f h
  | .sysCtxend f, h => keeps_execSysCtxend f h
  | .trapTrap f, h => keeps_execTrapTrap f h
  | .trapTret f, h => keeps_execTrapTret f h
  | .dbgBrk f, h => keeps_execDbgBrk f h
  | .dbgTrace f, h => keeps_execDbgTrace f h
  | .dbgHist f, h => keeps_execDbgHist f h
  | .accnIntv f, h => keeps_execAccnIntv f h
  | .accnArec f, h => keeps_execAccnArec f h
  | .aspaceInval f, h => keeps_execAspaceInval f h
  | .aspacePgattr f, h => keeps_execAspacePgattr f h
  | .aspaceLpin f, h => keeps_execAspaceLpin f h
  | .aspaceLquery f, h => keeps_execAspaceLquery f h
  | .tokenArrival, h => keeps_execTokenArrival h
  | .spillProbeDone, h => keeps_execSpillProbeDone h
  | .spillRefill, h => keeps_execSpillRefill h
  | .schedulerDecision, h => keeps_execSchedulerDecision h
  | .blockLoadDone, h => keeps_execBlockLoadDone h
  | .instanceAdmit, h => keeps_execInstanceAdmit h
  | .commitDrain, h => keeps_execCommitDrain h
  | .fullEmptyWaitPerform, h => keeps_execFullEmptyWaitPerform h
  | .forwardingRetire, h => keeps_execForwardingRetire h
  | .scratchpadClearDone, h => keeps_execScratchpadClearDone h
  | .qtailWrite, h => keeps_execQtailWrite h
  | .queueDecision, h => keeps_execQueueDecision h
  | .launchRecordCheck, h => keeps_execLaunchRecordCheck h
  | .leaseResidencyCheck, h => keeps_execLeaseResidencyCheck h
  | .reswaitTimeout, h => keeps_execReswaitTimeout h
  | .regionConfigured, h => keeps_execRegionConfigured h
  | .heldLaunchConfigure, h => keeps_execHeldLaunchConfigure h
  | .quiescenceWave, h => keeps_execQuiescenceWave h
  | .phaseSum, h => keeps_execPhaseSum h
  | .agPortIssue, h => keeps_execAgPortIssue h
  | .ownerPerform, h => keeps_execOwnerPerform h
  | .tlbMissFill, h => keeps_execTlbMissFill h
  | .soHeldPerform, h => keeps_execSoHeldPerform h
  | .replyDelivery, h => keeps_execReplyDelivery h
  | .byteCredit, h => keeps_execByteCredit h
  | .barwaitRetry, h => keeps_execBarwaitRetry h
  | .orderConditionMet, h => keeps_execOrderConditionMet h
  | .drainTokenArrival, h => keeps_execDrainTokenArrival h
  | .streamerTakeCopy, h => keeps_execStreamerTakeCopy h
  | .islandCommandEntry, h => keeps_execIslandCommandEntry h
  | .rowUpdateLand, h => keeps_execRowUpdateLand h
  | .releaseTokenOut, h => keeps_execReleaseTokenOut h
  | .rampWindow, h => keeps_execRampWindow h
  | .forecastUpdate, h => keeps_execForecastUpdate h
  | .keystoreCompletion, h => keeps_execKeystoreCompletion h
  | .gramRequestPerform, h => keeps_execGramRequestPerform h
  | .packetHop, h => keeps_execPacketHop h
  | .creditReturn, h => keeps_execCreditReturn h
  | .packetAgeDrop, h => keeps_execPacketAgeDrop h
  | .requestTimeoutResend, h => keeps_execRequestTimeoutResend h
  | .linkRetrainRequest, h => keeps_execLinkRetrainRequest h
  | .trainingComplete, h => keeps_execTrainingComplete h
  | .confirmViews, h => keeps_execConfirmViews h
  | .retrainTimeout, h => keeps_execRetrainTimeout h
  | .releaseWriteArrival, h => keeps_execReleaseWriteArrival h
  | .releaseFlagArrival, h => keeps_execReleaseFlagArrival h
  | .releaseCompleteArrival, h => keeps_execReleaseCompleteArrival h
  | .gapReportArrival, h => keeps_execGapReportArrival h
  | .groupAbortArrival, h => keeps_execGroupAbortArrival h
  | .flagResendTimer, h => keeps_execFlagResendTimer h
  | .abortResendTimer, h => keeps_execAbortResendTimer h
  | .gapTimer, h => keeps_execGapTimer h
  | .receiveEntryExpiry, h => keeps_execReceiveEntryExpiry h
  | .relopenSpacingExpiry, h => keeps_execRelopenSpacingExpiry h
  | .incarnationNotice, h => keeps_execIncarnationNotice h
  | .netMessageSend, h => keeps_execNetMessageSend h
  | .netPacketReceive, h => keeps_execNetPacketReceive h
  | .netLocalCompletion, h => keeps_execNetLocalCompletion h
  | .netTransportAbandon, h => keeps_execNetTransportAbandon h
  | .accHeadWrite, h => keeps_execAccHeadWrite h
  | .accTailWrite, h => keeps_execAccTailWrite h
  | .replayTimeout, h => keeps_execReplayTimeout h
  | .intervalBoundary, h => keeps_execIntervalBoundary h
  | .firstWriteCopy, h => keeps_execFirstWriteCopy h
  | .rollback, h => keeps_execRollback h
  | .memoryUncorrectable, h => keeps_execMemoryUncorrectable h
  | .preemptSaveComplete, h => keeps_execPreemptSaveComplete h
  | .mailboxWrite, h => keeps_execMailboxWrite h
  | .restoreProceed, h => keeps_execRestoreProceed h
  | .catHeadWrite, h => keeps_execCatHeadWrite h
  | .hangIntervalExpiry, h => keeps_execHangIntervalExpiry h
  | .curCtailWrite, h => keeps_execCurCtailWrite h
  | .curEheadWrite, h => keeps_execCurEheadWrite h
  | .cmdCreate, h => keeps_execCmdCreate h
  | .cmdDestroy, h => keeps_execCmdDestroy h
  | .cmdResident, h => keeps_execCmdResident h
  | .cmdEvict, h => keeps_execCmdEvict h
  | .cmdMode, h => keeps_execCmdMode h
  | .cmdRegw, h => keeps_execCmdRegw h
  | .cmdMap, h => keeps_execCmdMap h
  | .cmdUnmap, h => keeps_execCmdUnmap h
  | .cmdProtect, h => keeps_execCmdProtect h
  | .cmdResdone, h => keeps_execCmdResdone h
  | .cmdResfail, h => keeps_execCmdResfail h
  | .cmdPreempt, h => keeps_execCmdPreempt h
  | .cmdRestore, h => keeps_execCmdRestore h
  | .cmdResume, h => keeps_execCmdResume h
  | .cmdKill, h => keeps_execCmdKill h
  | .cmdTrapw, h => keeps_execCmdTrapw h
  | .cmdGramw, h => keeps_execCmdGramw h
  | .cmdGramwClear, h => keeps_execCmdGramwClear h
  | .cmdEpw, h => keeps_execCmdEpw h
  | .cmdWinw, h => keeps_execCmdWinw h
  | .cmdWatchAdd, h => keeps_execCmdWatchAdd h
  | .cmdWatchClear, h => keeps_execCmdWatchClear h
  | .cmdObsread, h => keeps_execCmdObsread h
  | .cmdVitrineFreeze, h => keeps_execCmdVitrineFreeze h
  | .cmdVitrineThaw, h => keeps_execCmdVitrineThaw h
  | .cmdLinkrst, h => keeps_execCmdLinkrst h
  | .cmdMemrd, h => keeps_execCmdMemrd h
  | .cmdMemwr, h => keeps_execCmdMemwr h
  | .cmdPatch, h => keeps_execCmdPatch h
  | .cmdIdent, h => keeps_execCmdIdent h
  | .cmdStatclr, h => keeps_execCmdStatclr h
  | .cmdCtxinfo, h => keeps_execCmdCtxinfo h
  | .cmdPwrcap, h => keeps_execCmdPwrcap h
  | .cmdNetcfg, h => keeps_execCmdNetcfg h
  | .powerMeasure, h => keeps_execPowerMeasure h
  | .hostRequest, h => keeps_execHostRequest h
  | .registerWrite, h => keeps_execRegisterWrite h
  | .powerUp, h => keeps_execPowerUp h
  | .powerLoss, h => keeps_execPowerLoss h
  | .queueWaiterAnswer, h => keeps_execQueueWaiterAnswer h
  | .transportRetransmission, h => keeps_execTransportRetransmission h

/-! ### The step around them -/

/-- A set at a station whose word names no instruction ends in a configuration fault (02 R39), which is an operation like another. -/
theorem keeps_badStation {s0 : State} (s : State) (fi : Firing) (x : DecodeError) (hs : Keeps s0 s) :
    Keeps s0 (s.badStation fi x) :=
  keeps_raiseFault _ _ (keeps_consume _ _ hs)

theorem keeps_fetched (s : State) (fi : Firing) : Keeps s (s.fetched fi) := keeps_mk0 (keeps_refl s) rfl rfl rfl rfl

theorem keeps_started (s : State) (e : Event) : Keeps s (s.started e) := keeps_mk0 (keeps_refl s) rfl rfl rfl rfl

/-- A choice carried out answers a next state, which keeps what no operation breaks. -/
theorem runChoice_goes (c : Choice) (s : State) : ∃ t, runChoice c s = .next t ∧ Keeps s t := by
  cases c with
  | event e =>
    obtain ⟨t, h⟩ := exec_started_next e s
    exact ⟨t, h, keeps_trans (keeps_started s e) (keeps_exec _ h)⟩
  | set fi =>
    unfold runChoice
    dsimp only
    split
    next i hi =>
      obtain ⟨t, h⟩ := exec_decoded_next hi (s.fetched fi)
      exact ⟨t, h, keeps_trans (keeps_fetched s fi) (keeps_exec _ h)⟩
    next x _ => exact ⟨_, rfl, keeps_badStation _ fi x (keeps_fetched s fi)⟩

/-- The state with one more step counted. -/
def State.counted (s : State) : State := { s with ticks := s.ticks + 1 }

/-- The state whose cycle a step goes on with: the cycle under way, or the next one where nothing is left of it. -/
def State.inCycle (s : State) : State := if s.batch.isEmpty then { s.tick with batch := s.tick.cycleBatch } else s

/-- A step by the two states: it counts, goes into a cycle, and does the next thing of it or ends it. -/
theorem step_eq (s : State) : step s = match s.counted.inCycle.nextOf s.counted.inCycle.batch with
    | none => .next { s.counted.inCycle with batch := [] }
    | some (c, cs) => runChoice c (State.readyFor { s.counted.inCycle with batch := cs } c) := rfl

theorem keeps_batch {s0 s : State} (b : List Choice) (hs : Keeps s0 s) : Keeps s0 { s with batch := b } :=
  keeps_mk0 hs rfl rfl rfl rfl

theorem keeps_inCycle (s : State) : Keeps s s.inCycle :=
  keeps_ite (keeps_batch _ (keeps_tick s (keeps_refl s))) (keeps_refl s)

/-- A step answers a next state, which keeps what no operation breaks once the step is counted. -/
theorem step_goes (s : State) : ∃ t, step s = .next t ∧ Keeps s.counted t := by
  rw [step_eq]
  have hv := keeps_inCycle s.counted
  split
  · exact ⟨_, rfl, keeps_batch [] hv⟩
  next c cs _ =>
    obtain ⟨t, h, ht⟩ := runChoice_goes c (State.readyFor { s.counted.inCycle with batch := cs } c)
    exact ⟨t, h, keeps_trans (keeps_readyFor _ c (keeps_batch cs hv)) ht⟩

end Sys2Proof.Machine

open Sys2Proof Sys2Proof.Machine

/-- Settles O9: a step is a count, the way into a cycle and one choice carried out, and none of these stops or touches the count or the
package's number again. -/
theorem stepGoesOn : Obligations.StepGoesOn := by
  intro s
  obtain ⟨t, h, -, ht, hp⟩ := step_goes s
  exact ⟨t, h, ht, hp⟩

end

section
/-! PROOFS. The canonical form of both memories (log entry 3): it holds at reset, and every step keeps it. -/

namespace Sys2Proof.Machine

/-- The canonical form speaks of the two memories alone, so that a step counted leaves it as it is. -/
@[simp] theorem memInv_counted (s : State) : MemInv s.counted ↔ MemInv s := Iff.rfl

/-- Nothing is listed in either memory at reset. -/
@[simp] theorem reset_mem : State.reset.mem = [] := rfl

@[simp] theorem reset_hostMem : State.reset.hostMem = [] := rfl

end Sys2Proof.Machine

open Sys2Proof Sys2Proof.Machine

/-- Settles O7: both memories are empty at reset, and the empty memory has the canonical form. -/
theorem memoryFormAtReset : Obligations.MemoryFormAtReset := by
  unfold Obligations.MemoryFormAtReset MemInv
  rw [reset_mem, reset_hostMem]
  exact ⟨Memory.wf_nil, Memory.wf_nil⟩

/-- Settles O8: a step counts, which leaves both memories alone, and from there reaches its one next state by operations that each
keep the form (`step_goes`, which rests on `keeps_exec` for the meaning that the step runs). -/
theorem stepKeepsMemoryForm : Obligations.StepKeepsMemoryForm := by
  intro s t hs hst
  obtain ⟨u, hu, hmem, -, -⟩ := step_goes s
  have htu : t = u := Host.Outcome.next.inj (hst.symm.trans hu)
  rw [htu]
  exact hmem ((memInv_counted s).mpr hs)

end

section
/-! PROOFS. The instruction word (02 R22, R30, R34, R35): what the decoder reads, and that decoding and encoding undo each other. -/

namespace Sys2Proof

open Machine

/-! ### Opcodes -/

/-- The number of minors of the classes 0x01 to 0x2A (02 R35). -/
def minorCounts : List Nat := [16, 7, 5, 6, 13, 6, 6, 4, 5, 3, 2, 3, 5, 3, 2, 2, 4, 3, 3, 5, 2, 2, 2, 10, 4, 3, 6, 5, 3, 5, 4, 5, 6, 4, 7, 5,
  3, 5, 2, 3, 2, 4]

/-- A reader of minors assigns those below `count`, each to an instruction of this major, minor and fields, and refuses every other. -/
def ReadsMinors (major count : Nat) (read : Nat → Fields → Except DecodeError Instr) : Prop :=
  ∀ f, (∀ n < count, ∃ i, read n f = .ok i ∧ i.parts = some (BitVec.ofNat 6 major, BitVec.ofNat 8 n, f))
    ∧ ∀ k, read (k + count) f = .error (.unassignedMinor major (k + count))

/-- The decoder reads each of the 42 classes by its count of minors. -/
theorem decodeParts_readsMinors {m c : Nat} (h : minorCounts[m]? = some c) : ReadsMinors (m + 1) c (decodeParts (m + 1)) := by
  have hm : m < 42 := (List.getElem?_eq_some_iff.mp h).1
  interval_cases m
  all_goals
    cases h
    refine fun f => ⟨fun n hn => ?_, fun k => rfl⟩
    interval_cases n <;> exact ⟨_, rfl, rfl⟩

/-- A major outside the 42 classes is reserved, whatever else the words hold. -/
theorem decodeParts_reserved {m : Nat} (h : m = 0 ∨ 0x2A < m) (n : Nat) (f : Fields) :
    decodeParts m n f = .error (.reservedMajor m) := by
  obtain rfl | hm := h
  · rfl
  · obtain ⟨k, rfl⟩ := Nat.exists_eq_add_of_lt hm
    rw [Nat.add_comm 0x2A k]
    rfl

/-- What the decoder reads at a major and a minor has these two as its opcodes. -/
theorem parts_of_decodeParts {m : BitVec 6} {n : BitVec 8} {f : Fields} {i : Instr} (h : decodeParts m.toNat n.toNat f = .ok i) :
    i.parts = some (m, n, f) := by
  by_cases hr : m.toNat = 0 ∨ 0x2A < m.toNat
  · rw [decodeParts_reserved hr] at h
    cases h
  · obtain ⟨k, hk⟩ : ∃ k, m.toNat = k + 1 := ⟨m.toNat - 1, by omega⟩
    have hlen : k < minorCounts.length := by simp only [minorCounts, List.length]; omega
    obtain ⟨hok, herr⟩ := decodeParts_readsMinors (List.getElem?_eq_getElem hlen) f
    rw [hk] at h
    by_cases hn : n.toNat < minorCounts[k]
    · obtain ⟨i', hi', hparts⟩ := hok _ hn
      cases hi'.symm.trans h
      rwa [← hk, BitVec.ofNat_toNat, BitVec.ofNat_toNat, BitVec.setWidth_eq, BitVec.setWidth_eq] at hparts
    · have he := herr (n.toNat - minorCounts[k])
      rw [Nat.sub_add_cancel (by omega), h] at he
      cases he

/-- An instruction is what the decoder reads at its own opcodes. -/
theorem decodeParts_of_parts {m : BitVec 6} {n : BitVec 8} {f : Fields} {i : Instr} (h : i.parts = some (m, n, f)) :
    decodeParts m.toNat n.toNat f = .ok i := by
  cases i <;> cases h <;> rfl

/-! ### The words -/

/-- The parts of a word, put together again, are the word (02 R22). -/
theorem wordOf_extracted (w : BitVec 32) (e : BitVec 64) : wordOf (w.extractLsb' 26 6) (fieldsOf w e) = w := by
  simp only [wordOf, fieldsOf, BitVec.extractLsb'_append_extractLsb'_eq_extractLsb', BitVec.extractLsb'_eq_self]

/-- The parts of a side entry, put together again, are the side entry (02 R30). -/
theorem sideOf_extracted (w : BitVec 32) (e : BitVec 64) : sideOf (e.extractLsb' 56 8) (fieldsOf w e) = e := by
  simp only [sideOf, fieldsOf, BitVec.extractLsb'_append_extractLsb'_eq_extractLsb', BitVec.extractLsb'_eq_self]

/-- A major opcode is bits 31 to 26 of the word, a minor opcode bits 63 to 56 of the side entry. -/
theorem word_major_toNat (w : BitVec 32) : (w.extractLsb' 26 6).toNat = w.toNat / 2 ^ 26 := by
  rw [BitVec.extractLsb'_toNat, Nat.shiftRight_eq_div_pow]
  exact Nat.mod_eq_of_lt (by omega)

theorem side_minor_toNat (e : BitVec 64) : (e.extractLsb' 56 8).toNat = e.toNat / 2 ^ 56 := by
  rw [BitVec.extractLsb'_toNat, Nat.shiftRight_eq_div_pow]
  exact Nat.mod_eq_of_lt (by omega)

/-- Words that the encoder writes decode to the instruction. -/
theorem decode_of_encode {i : Instr} {w : BitVec 32} {e : BitVec 64} (h : encode i = some (w, e)) : decode w e = .ok i := by
  obtain ⟨⟨m, n, f⟩, hparts, hwords⟩ := Option.map_eq_some_iff.mp h
  cases hwords
  rw [decode_encoded]
  exact decodeParts_of_parts hparts

/-- Words that decode to an instruction are those that the encoder writes for it. -/
theorem encode_of_decode {i : Instr} {w : BitVec 32} {e : BitVec 64} (h : decode w e = .ok i) : encode i = some (w, e) := by
  simp only [encode, parts_of_decodeParts h, Option.map_some, wordOf_extracted, sideOf_extracted]

end Sys2Proof

open Sys2Proof Sys2Proof.Machine

/-- Settles O1: the words hold the two opcodes and the fields and nothing else, and the decoder reads at two opcodes exactly the
instruction that has them. -/
theorem decodeEncode : Obligations.DecodeEncode :=
  ⟨fun _ _ _ => ⟨decode_of_encode, encode_of_decode⟩, fun _ => Option.map_eq_none_iff⟩

/-- Settles O2: a word's major and minor are what the decoder takes its class and reader of minors by. -/
theorem decodableOpcodes : Obligations.DecodableOpcodes := by
  refine ⟨rfl, fun w e => ?_⟩
  simp only [decode, word_major_toNat, side_minor_toNat]
  refine ⟨fun h => decodeParts_reserved h _ _, fun hm n hn => ?_⟩
  obtain ⟨hok, herr⟩ := decodeParts_readsMinors hn (fieldsOf w e)
  rw [Nat.sub_add_cancel hm] at hok herr
  constructor
  · intro h
    obtain ⟨i, hi, -⟩ := hok _ h
    exact ⟨i, hi⟩
  · intro h
    have he := herr (e.toNat / 2 ^ 56 - n)
    rwa [Nat.sub_add_cancel h] at he

/-- Settles O3: the words of the chapters' assembly lines, decoded. -/
theorem decodeWords : Obligations.DecodeWords := by
  unfold Obligations.DecodeWords
  decide

end

section
/-! PROOFS. One step (04 R75, 05 R109) by what it takes of the cycle under way: a ready set, an event, or nothing. -/

namespace Sys2Proof.Machine

/-- The next cycle begins where nothing is left of the one under way. -/
theorem State.inCycle_eq (s : State) :
    s.inCycle = if s.batch = [] then { s.tick with batch := s.tick.cycleBatch } else s := by
  simp only [State.inCycle, List.isEmpty_iff]

/-- What of the cycle's end comes before a thing of it, by the first number of the thing's key (log entry 44). -/
theorem State.readyFor_eq (s : State) (c : Choice) :
    s.readyFor c = if (s.cycleKey c).headD 0 < 3 then s
      else if (s.cycleKey c).headD 0 < 8 then s.closeCycle else s.closeCycle.writeLogs := by
  generalize hk : (s.cycleKey c).headD 0 = k
  simp only [State.readyFor, hk]
  obtain h3 | ⟨h3, h8⟩ | h8 : k < 3 ∨ (3 ≤ k ∧ k < 8) ∨ 8 ≤ k := by omega
  · rw [if_neg (show ¬ k ≥ 3 by omega), if_neg (show ¬ k ≥ 8 by omega), if_pos h3]
  · rw [if_neg (show ¬ k ≥ 8 by omega), if_pos h3, if_neg (show ¬ k < 3 by omega), if_pos h8]
  · rw [if_pos h8, if_pos (show k ≥ 3 by omega), if_neg (show ¬ k < 3 by omega), if_neg (show ¬ k < 8 by omega)]

/-- A set whose words decode runs its instruction. -/
theorem runChoice_set_ok {s : State} {fi : Firing} {i : Instr} (h : s.fetchInstr fi = .ok i) :
    runChoice (.set fi) s = exec i (s.fetched fi) := by
  simp only [runChoice, h]

/-- A set whose words name no instruction takes the configuration fault (02 R39). -/
theorem runChoice_set_error {s : State} {fi : Firing} {x : DecodeError} (h : s.fetchInstr fi = .error x) :
    runChoice (.set fi) s = .next ((s.fetched fi).badStation fi x) := by
  simp only [runChoice, h]

/-- A step whose cycle holds nothing more does nothing else. -/
theorem step_of_none {s : State} (h : s.counted.inCycle.nextOf s.counted.inCycle.batch = none) :
    step s = .next { s.counted.inCycle with batch := [] } := by
  rw [step_eq, h]

/-- A step carries out the next thing of its cycle. -/
theorem step_of_some {s : State} {c : Choice} {cs : List Choice}
    (h : s.counted.inCycle.nextOf s.counted.inCycle.batch = some (c, cs)) :
    step s = runChoice c (State.readyFor { s.counted.inCycle with batch := cs } c) := by
  rw [step_eq, h]

end Sys2Proof.Machine

open Sys2Proof Sys2Proof.Machine

/-- Settles O4: a step goes into its cycle (`State.inCycle_eq`), ends what of the cycle comes before the thing taken (`State.readyFor_eq`)
and carries the thing out (`runChoice`). -/
theorem stepRunsDecoded : Obligations.StepRunsDecoded := by
  intro s u v
  have hv : v = s.counted.inCycle := (State.inCycle_eq s.counted).symm
  constructor
  · intro h
    rw [hv] at h ⊢
    exact step_of_none h
  · intro c cs h k w t
    have ht : t = w.readyFor c := (State.readyFor_eq w c).symm
    have hstep : step s = runChoice c t := by
      rw [hv] at h
      rw [ht, step_of_some h, ← hv]
    refine ⟨?_, ?_, ?_⟩
    · rintro fi i rfl hi
      exact hstep.trans (runChoice_set_ok hi)
    · rintro fi x rfl hx
      exact hstep.trans (runChoice_set_error hx)
    · rintro e rfl
      exact hstep

end

section
/-! PROOFS. The tag of an emitted token (02 R28, 04 R76): what each tag action makes of the station tag. -/

namespace Sys2Proof.Machine

/-! ### Bytes and bits -/

theorem leNat_append_zeros (bs : Bytes) (n : Nat) : leNat (bs ++ zeros n) = leNat bs := by
  induction bs with
  | nil => induction n with
    | zero => rfl
    | succ n ih =>
      simp only [zeros, List.nil_append, List.replicate_succ, leNat] at ih ⊢
      rw [ih]
      rfl
  | cons b bs ih => simp only [List.cons_append, leNat, ih]

/-- Missing bytes read zero, so a number in a slice is the number in the bytes that are there (04 R72). -/
theorem leNat_sliceB (bs : Bytes) (off n : Nat) : leNat (sliceB bs off n) = numAt bs off n := leNat_append_zeros _ _

theorem numAt_zero_one (bs : Bytes) : numAt bs 0 1 = (byteAt bs 0).toNat := by
  cases bs <;> simp [numAt, byteAt, leNat]

theorem nibbleAt_zero (bs : Bytes) : nibbleAt bs 0 = (byteAt bs 0).toNat % 16 := rfl

/-- A field cleared leaves what stands above it and below it. -/
theorem setBitsN_zero (v lo n : Nat) : setBitsN v lo n 0 = v / 2 ^ (lo + n) * 2 ^ (lo + n) + v % 2 ^ lo := by
  have hlow : v / 2 ^ lo * 2 ^ lo + v % 2 ^ lo = v := Nat.div_add_mod' v (2 ^ lo)
  have hhigh : v / 2 ^ lo / 2 ^ n * 2 ^ n + v / 2 ^ lo % 2 ^ n = v / 2 ^ lo := Nat.div_add_mod' _ _
  have hsplit : v / 2 ^ lo * 2 ^ lo = v / 2 ^ (lo + n) * 2 ^ (lo + n) + v / 2 ^ lo % 2 ^ n * 2 ^ lo := by
    rw [Nat.pow_add, ← Nat.div_div_eq_div_mul]
    calc v / 2 ^ lo * 2 ^ lo = (v / 2 ^ lo / 2 ^ n * 2 ^ n + v / 2 ^ lo % 2 ^ n) * 2 ^ lo := by rw [hhigh]
      _ = _ := by ring
  unfold setBitsN bitsN
  rw [Nat.zero_mod, Nat.zero_mul]
  omega

theorem withField_zero_toNat {w : Nat} (v : BitVec w) (lo n : Nat) :
    (withField v lo n 0).toNat = v.toNat / 2 ^ (lo + n) * 2 ^ (lo + n) + v.toNat % 2 ^ lo := by
  have hle : setBitsN v.toNat lo n 0 ≤ v.toNat := by
    unfold setBitsN
    rw [Nat.zero_mod, Nat.zero_mul]
    exact Nat.sub_le _ _
  rw [withField, BitVec.toNat_ofNat, Nat.mod_eq_of_lt (lt_of_le_of_lt hle v.isLt), setBitsN_zero]

/-! ### The tag actions -/

/-- The field of the last declared level cleared (06 R117, R120): the levels stand from bit 63 down, each below the one before. -/
theorem parentOf_append_toNat (ls : List (BitVec 16)) (w : BitVec 16) (g : BitVec 64) :
    let low := 64 - ((ls ++ [w]).map levelWidth).sum
    (parentOf (ls ++ [w]) g).toNat = g.toNat / 2 ^ (low + levelWidth w) * 2 ^ (low + levelWidth w) + g.toNat % 2 ^ low := by
  have hlow : levelLow (ls ++ [w]) ((ls ++ [w]).length - 1) = 64 - ((ls ++ [w]).map levelWidth).sum := by
    rw [levelLow, List.take_of_length_le (by simp), sumN, List.sum_eq_foldl]
  simp only [parentOf, List.getLast?_concat, hlow, withField_zero_toNat]

/-- Element 0 of side A as 16 bits (02 R28): of a 4-bit, a byte, a wider or an untyped element. -/
theorem setaValue_eq (t : Ty) (f : Fields) (a : Bytes) : setaValue t f a = BitVec.ofNat 16
    (if f.srcA = 3 then 0 else if t = .mx4 ∨ t = .sk4 then (byteAt a 0).toNat % 16
      else if t ≠ .none ∧ t.size = 1 then (byteAt a 0).toNat else leNat (sliceB a 0 2)) := by
  simp only [setaValue, nibbleAt_zero, numAt_zero_one, leNat_sliceB, Bool.or_eq_true, Bool.and_eq_true, decide_eq_true_eq,
    and_comm (a := t.size = 1), apply_ite (BitVec.ofNat 16)]
  rfl

/-- A null token on side A gives the action no bytes, and they read zero (04 R72). -/
theorem setaValue_ofSide (t : Ty) (f : Fields) (null : Bool) (a : Bytes) :
    setaValue t f (if null then [] else a) = BitVec.ofNat 16
      (if f.srcA = 3 ∨ null = true then 0 else if t = .mx4 ∨ t = .sk4 then (byteAt a 0).toNat % 16
        else if t ≠ .none ∧ t.size = 1 then (byteAt a 0).toNat else leNat (sliceB a 0 2)) := by
  cases null with
  | false => simp only [Bool.false_eq_true, if_false, or_false, setaValue_eq]
  | true =>
    simp only [if_true, or_true, setaValue]
    split_ifs <;> rfl

section
variable {ls : List (BitVec 16)} {t : Ty} {f : Fields} {a : Bytes} {res : Option Bytes} {g : Tag}

theorem tagAct_keep (h : f.tag = 0 ∨ f.tag = 6) : tagAct ls t f a res g = g := by
  obtain h | h := h <;> simp [tagAct, h]

theorem tagAct_inc (h : f.tag = 1) : tagAct ls t f a res g = { g with iter := g.iter + 1 } := by simp [tagAct, h]

theorem tagAct_zero (h : f.tag = 2) : tagAct ls t f a res g = { g with iter := 0 } := by simp [tagAct, h]

theorem tagAct_seta (h : f.tag = 3) : tagAct ls t f a res g = { g with iter := setaValue t f a } := by simp [tagAct, h]

theorem tagAct_phase (h : f.tag = 4) : tagAct ls t f a res g = { g with phase := g.phase + 1 } := by simp [tagAct, h]

theorem tagAct_parent (h : f.tag = 5) : tagAct ls t f a res g = { g with frame := parentOf ls g.frame } := by simp [tagAct, h]

theorem tagAct_pred {p : Bytes} (h : f.tag = 7) : tagAct ls t f a (some p) g = { g with pred := condBit p } := by simp [tagAct, h]

theorem tagAct_npred {p : Bytes} (h : f.tag = 8) : tagAct ls t f a (some p) g = { g with pred := !condBit p } := by simp [tagAct, h]

theorem tagAct_pred_null (h : f.tag = 7 ∨ f.tag = 8) : tagAct ls t f a none g = g := by
  obtain h | h := h <;> simp [tagAct, h]

end

/-! ### The tag of what a firing emits -/

/-- A tag as it stands in a frame: a token of another frame lies behind no access of this one (11 R236). -/
def tagWithin (g : Tag) (frame : BitVec 64) : Tag := { g with deps := if g.frame = frame then g.deps else [] }

theorem ite_frame_eq_tagWithin (g : Tag) (frame : BitVec 64) :
    (if g.frame = frame then g else { g with deps := [] }) = tagWithin g frame := by
  unfold tagWithin
  split <;> rfl

/-- The type in which the tag action reads side A, and the bytes that it reads. -/
def tagType (f : Fields) : Ty := if f.sty = 0 then f.tyT else f.tyS

def State.tagBytes (s : State) (j : Job) : Bytes :=
  if ((j.fi.tagA.map (·.null)).getD false) then [] else operandIn s j (tagType j.f) false

/-- Any action but `parent` is the tag action alone. -/
theorem State.outTag_of_ne_parent {s : State} {j : Job} (h : j.f.tag ≠ 5) (g : Tag) (res : Option Bytes) :
    s.outTag j g res =
      tagWithin (tagAct (s.levelsOf j.fi) (tagType j.f) j.f (s.tagBytes j) res g) j.fi.stTag.frame := by
  rw [← ite_frame_eq_tagWithin]
  simp only [State.outTag, h, decide_false, Bool.false_and, Bool.false_eq_true, if_false]
  rfl

/-- `parent` clears the field of the last level, and at ORDERED and above takes a sync level more (11 R424). -/
theorem State.outTag_parent {s : State} {j : Job} (h : j.f.tag = 5) (g : Tag) (res : Option Bytes) :
    s.outTag j g res = tagWithin { g with
      frame := parentOf (s.levelsOf j.fi) g.frame
      level := if 1 ≤ s.level (s.regionCtx j.fi.region) then g.level + 1 else g.level } j.fi.stTag.frame := by
  rw [← ite_frame_eq_tagWithin]
  simp only [State.outTag, tagAct_parent h, h, decide_true, Bool.true_and, decide_eq_true_eq, ge_iff_le]
  split <;> rfl

end Sys2Proof.Machine

open Sys2Proof Sys2Proof.Machine

/-- Settles O23, action by action: each is its own equation of `tagAct`, in the frame that the token leaves under. -/
theorem tagActions : Obligations.TagActions := by
  intro s f fi g res j ty a first t g' bit
  have keeps (h : f.tag ≠ 5) : t = tagWithin (tagAct (s.levelsOf fi) ty f (s.tagBytes j) res g) fi.stTag.frame :=
    State.outTag_of_ne_parent h g res
  refine ⟨fun h => ?keep, fun h => ?inc, fun h => ?zero, fun h => ?seta, fun h => ?phase, fun h => ?parent, fun h p hp => ?pred,
    fun h p hp => ?npred, fun h hp => ?null⟩
  case parent =>
    have ht : t = _ := State.outTag_parent (j := j) h g res
    rw [ht]
    refine ⟨rfl, rfl, rfl, rfl, rfl, rfl, rfl, rfl, fun h0 => ?_, fun h1 => if_pos h1, fun ls w hls _ => ?_⟩
    · exact if_neg (by rw [h0]; decide)
    · change (parentOf (s.levelsOf fi) g.frame).toNat = _
      rw [hls]
      exact parentOf_append_toNat ls w g.frame
  all_goals rw [keeps (by rintro h5; simp [h5] at h)]
  case keep => rw [tagAct_keep h]; rfl
  case inc => rw [tagAct_inc h]; rfl
  case zero => rw [tagAct_zero h]; rfl
  case seta => rw [tagAct_seta h, State.tagBytes, setaValue_ofSide]; rfl
  case phase => rw [tagAct_phase h]; rfl
  case pred => rw [hp, tagAct_pred h]; rfl
  case npred => rw [hp, tagAct_npred h]; rfl
  case null => rw [hp, tagAct_pred_null h]; rfl

end

section
/-! PROOFS. A result on its way (02 R26, R27): the tokens that leave for stations and the register writes that wait for the cycle's end. -/

namespace Sys2Proof.Machine

/-! ### What an emission changes -/

/-- From `s` to `s'` a tile changes by `g` and the events `es` come due after those that were; memory and the ready sets stay, and no tile
drops out of those that the cycle has to end for. -/
structure Emits (t : TileId) (g : Tile → Tile) (es : List Event) (s s' : State) : Prop where
  tile : s'.tile t = g (s.tile t)
  agenda : s'.agenda = s.agenda ++ es
  touched : s.touched ⊆ s'.touched
  mem : s'.mem = s.mem
  ready : s'.ready = s.ready

theorem Emits.refl (t : TileId) (s : State) : Emits t id [] s s := ⟨rfl, (List.append_nil _).symm, fun _ h => h, rfl, rfl⟩

theorem Emits.trans {t : TileId} {g g' : Tile → Tile} {es es' : List Event} {s s' s'' : State} (h : Emits t g es s s')
    (h' : Emits t g' es' s' s'') : Emits t (g' ∘ g) (es ++ es') s s'' where
  tile := by rw [h'.tile, h.tile, Function.comp_apply]
  agenda := by rw [h'.agenda, h.agenda, List.append_assoc]
  touched := fun _ hu => h'.touched (h.touched hu)
  mem := h'.mem.trans h.mem
  ready := h'.ready.trans h.ready

theorem emits_modTile (s : State) (t : TileId) (g : Tile → Tile) : Emits t g [] s (s.modTile t g) :=
  ⟨State.modTile_tile_self s t g, (List.append_nil _).symm, fun _ h => h, rfl, rfl⟩

theorem emits_post (s : State) (t : TileId) (e : Event) : Emits t id [e] s (s.post e) := ⟨rfl, rfl, fun _ h => h, rfl, rfl⟩

theorem emits_touch (s : State) (t : TileId) : Emits t id [] s (s.touch t) := by
  unfold State.touch
  split
  · exact Emits.refl t s
  · exact ⟨rfl, (List.append_nil _).symm, List.subset_append_left _ _, rfl, rfl⟩

theorem State.mem_touch (s : State) (t : TileId) : t ∈ (s.touch t).touched := by
  unfold State.touch
  split
  next h => exact h
  next => exact List.mem_append_right _ (List.mem_singleton_self t)

/-! ### Register writes of a firing -/

/-- A tile with more register writes to come. -/
def Tile.writesLater (ws : List RegWrite) (x : Tile) : Tile := { x with regNext := x.regNext ++ ws }

theorem Tile.writesLater_nil : Tile.writesLater [] = id := by
  funext x
  simp only [Tile.writesLater, List.append_nil, id]

theorem Tile.writesLater_comp (ws ws' : List RegWrite) :
    Tile.writesLater ws' ∘ Tile.writesLater ws = Tile.writesLater (ws ++ ws') := by
  funext x
  simp only [Function.comp_apply, Tile.writesLater, List.append_assoc]

theorem emits_regLater (s : State) (j : Job) (reg : RegName) (off : Nat) (bs : Bytes) :
    Emits j.fi.at_ (Tile.writesLater [⟨j.fi.station, reg, off, bs⟩]) [] s (s.regLater j reg off bs) :=
  (emits_modTile s _ _).trans (emits_touch _ _)

/-- The bytes written into state registers that destinations name, one after another. -/
def State.sregsLater (s : State) (j : Job) (bs : Bytes) (ds : List Nat) : State :=
  ds.foldl (fun s d => s.regLater j (.s (d - 0x50)) 0 bs) s

theorem emits_sregsLater (j : Job) (bs : Bytes) (ds : List Nat) (s : State) :
    Emits j.fi.at_ (Tile.writesLater (ds.map (fun d => ⟨j.fi.station, .s (d - 0x50), 0, bs⟩))) [] s (s.sregsLater j bs ds) := by
  induction ds generalizing s with
  | nil =>
    rw [List.map_nil, Tile.writesLater_nil]
    exact Emits.refl _ s
  | cons d ds ih =>
    have h := (emits_regLater s j (.s (d - 0x50)) 0 bs).trans (ih _)
    rwa [Tile.writesLater_comp] at h

/-- Where there is a register to write, the tile's cycle has to end. -/
theorem mem_touched_sregsLater (j : Job) (bs : Bytes) {d : Nat} {ds : List Nat} (hd : d ∈ ds) (s : State) :
    j.fi.at_ ∈ (s.sregsLater j bs ds).touched := by
  cases ds with
  | nil => cases hd
  | cons d' ds =>
    exact (emits_sregsLater j bs ds _).touched (State.mem_touch _ _)

/-! ### Tokens to stations -/

/-- The arrival at a station of the firing's own block, in its own pass. -/
def stationArrival (j : Job) (tok : Token) (d : Nat) : Event :=
  .tokenArrival { at_ := j.fi.at_, place := ⟨j.fi.block, d / 2, d % 2 = 1⟩, tok := tok, src := srcKey j.fi, outside := false,
                  inst := j.fi.inst }

/-- A tile that has sent more tokens. -/
def Tile.sends (n : Nat) (x : Tile) : Tile := { x with sent := x.sent + n }

theorem Tile.sends_comp (m n : Nat) : Tile.sends n ∘ Tile.sends m = Tile.sends (m + n) := by
  funext x
  simp only [Function.comp_apply, Tile.sends, Nat.add_assoc]

theorem emits_countSent (s : State) (t : TileId) (phase : BitVec 8) (n : Nat) : Emits t (Tile.sends n) [] s (s.countSent t phase n) := by
  constructor <;> simp [State.countSent, Tile.sends]

/-- A station takes its token in an open pass; `drop` takes none (02 R26). -/
theorem emits_sendTo {s : State} {j : Job} {d : Nat} (tok : Token) (hd : d < 0x40 ∨ d = 0x7F)
    (hpass : ((s.tile j.fi.at_).pass? j.fi.inst).isSome = true) :
    Emits j.fi.at_ (Tile.sends ([d].filter (· < 0x40)).length) (([d].filter (· < 0x40)).map (stationArrival j tok)) s
      (s.sendTo j false d tok) := by
  obtain hd | rfl := hd
  · simp only [State.sendTo, hd, hpass, if_true, decide_true, List.filter_cons_of_pos, List.filter_nil]
    exact (emits_countSent s j.fi.at_ tok.tag.phase 1).trans (emits_post _ _ _)
  · exact Emits.refl j.fi.at_ s

theorem emits_sendTos (j : Job) (tok : Token) (ds : List Nat) (hds : ∀ d ∈ ds, d < 0x40 ∨ d = 0x7F) (s : State)
    (hpass : ((s.tile j.fi.at_).pass? j.fi.inst).isSome = true) :
    Emits j.fi.at_ (Tile.sends (ds.filter (· < 0x40)).length) ((ds.filter (· < 0x40)).map (stationArrival j tok)) s
      (ds.foldl (fun s d => s.sendTo j false d tok) s) := by
  induction ds generalizing s with
  | nil => exact Emits.refl j.fi.at_ s
  | cons d ds ih =>
    obtain ⟨hd, hds⟩ := List.forall_mem_cons.mp hds
    have h1 := emits_sendTo tok hd hpass
    have h := h1.trans (ih hds _ (by rw [h1.tile]; exact hpass))
    rwa [Tile.sends_comp, ← List.map_append, ← List.length_append, ← List.filter_append, List.singleton_append] at h

/-- Where no destination is an exit, each goes to once, in order (02 R27). -/
theorem emits_deliver {s : State} {j : Job} {ds : List Nat} (tok : Token) (hds : ∀ d ∈ ds, d < 0x40 ∨ d = 0x7F)
    (hpass : ((s.tile j.fi.at_).pass? j.fi.inst).isSome = true) :
    Emits j.fi.at_ (Tile.sends (ds.eraseDups.filter (· < 0x40)).length)
      ((ds.eraseDups.filter (· < 0x40)).map (stationArrival j tok)) s (s.deliver j false ds tok) := by
  have hds' : ∀ d ∈ ds.eraseDups, d < 0x40 ∨ d = 0x7F := fun d h => hds d (List.mem_eraseDups.mp h)
  have hexit : ∀ d ∈ ds.eraseDups, isExit d = false := fun d h => by
    have := hds' d h
    simp only [isExit, Bool.and_eq_false_iff, decide_eq_false_iff_not]
    omega
  have hnone : ds.eraseDups.filter isExit = [] := List.filter_eq_nil_iff.mpr fun d h => by simp [hexit d h]
  have hall : ds.eraseDups.filter (fun d => !isExit d) = ds.eraseDups := List.filter_eq_self.mpr fun d h => by simp [hexit d h]
  simp only [State.deliver, hnone, hall, List.map_nil, State.sendExits, List.isEmpty_nil, if_true]
  exact emits_sendTos j tok ds.eraseDups hds' s hpass

/-! ### A result to its destinations -/

/-- The two destinations, each once. -/
theorem dests_eraseDups (f : Fields) :
    (dests f).eraseDups = if f.dstA = f.dstB then [f.dstA.toNat] else [f.dstA.toNat, f.dstB.toNat] := by
  by_cases h : f.dstA = f.dstB
  · simp [dests, List.eraseDups_cons, h]
  · have hn : ¬ f.dstB.toNat = f.dstA.toNat := fun he => h (BitVec.eq_of_toNat_eq he.symm)
    simp [dests, List.eraseDups_cons, h, hn]

/-- To leave out elements of one kind and then repetitions is to leave out repetitions and then the elements. -/
theorem eraseDups_filter (p : Nat → Bool) : ∀ l : List Nat, (l.filter p).eraseDups = l.eraseDups.filter p
  | [] => rfl
  | a :: l => by
    have ih := eraseDups_filter p (l.filter (fun b => !b == a))
    rw [List.eraseDups_cons, List.filter_cons]
    by_cases hp : p a = true
    · rw [if_pos hp, List.eraseDups_cons, List.filter_cons_of_pos hp, ← ih, List.filter_filter, List.filter_filter]
      simp only [Bool.and_comm]
    · have hne : ∀ b ∈ l, (p b && !b == a) = p b := fun b _ => by
        by_cases hb : b = a
        · simp [hb, hp]
        · simp [hb]
      rw [if_neg hp, List.filter_cons_of_neg hp, ← ih, List.filter_filter, List.filter_congr hne]
  termination_by l => l.length
  decreasing_by exact Nat.lt_succ_of_le (List.length_filter_le _ _)

/-- The token of a result that the tag action does not null. -/
def resultToken (s : State) (j : Job) (kind : Kind) (res : Bytes) : Token :=
  { tag := { s.outTag j j.fi.stTag (some res) with kind := kind, null := false }, payload := res }

/-- A result is written into the state registers named, and its token goes to the other destinations, arcs left out. -/
theorem State.emit2_eq {s : State} {j : Job} (h : j.f.tag ≠ 6) (kind : Kind) (res : Bytes) :
    s.emit2 j kind res = (s.sregsLater j (res.take 128) ((dests j.f).eraseDups.filter isSreg)).deliver j false
      ((dests j.f).filter (fun d => !isArc d && !isSreg d)) (resultToken s j kind res) := by
  simp only [State.emit2, State.emitRes, actNull, h, decide_false, Option.isNone_some, Bool.or_false, Bool.false_eq_true, if_false,
    Option.getD_some, State.sregsLater, resultToken]

/-- The station, state-register and `drop` destinations (02 R26). -/
def plainDest (d : Nat) : Prop := d < 0x40 ∨ (0x50 ≤ d ∧ d < 0x58) ∨ d = 0x7F

/-- Of plain destinations those that take a token are stations and `drop`. -/
theorem tokenDests_of_plain {ds : List Nat} (hds : ∀ d ∈ ds, plainDest d) :
    ∀ d ∈ ds.filter (fun d => !isArc d && !isSreg d), d < 0x40 ∨ d = 0x7F := by
  intro d hd
  obtain ⟨hmem, hkind⟩ := List.mem_filter.mp hd
  have hplain := hds d hmem
  simp only [plainDest, isArc, isSreg, Bool.and_eq_true, Bool.not_eq_true', Bool.and_eq_false_iff, decide_eq_false_iff_not] at hplain hkind
  omega

/-- Every station is a destination that takes a token. -/
theorem stations_of_tokenDests (ds : List Nat) :
    (ds.filter (fun d => !isArc d && !isSreg d)).eraseDups.filter (· < 0x40) = ds.eraseDups.filter (· < 0x40) := by
  rw [eraseDups_filter, List.filter_filter]
  refine List.filter_congr fun d _ => ?_
  by_cases hd : d < 0x40
  · have harc : isArc d = false := by simp only [isArc, Bool.and_eq_false_iff, decide_eq_false_iff_not]; omega
    have hsreg : isSreg d = false := by simp only [isSreg, Bool.and_eq_false_iff, decide_eq_false_iff_not]; omega
    simp [harc, hsreg]
  · simp [hd]

section
variable {s : State} {j : Job} (hds : ∀ d ∈ dests j.f, plainDest d) (htag : j.f.tag ≠ 6)
  (hpass : ((s.tile j.fi.at_).pass? j.fi.inst).isSome = true) (kind : Kind) (res : Bytes)
include hds htag hpass

/-- After the register writes, the tokens of a result to stations, state registers and `drop`: one to each station, in order (02 R27). -/
theorem emits_emit2_tokens :
    Emits j.fi.at_ (Tile.sends ((dests j.f).eraseDups.filter (· < 0x40)).length)
      (((dests j.f).eraseDups.filter (· < 0x40)).map (stationArrival j (resultToken s j kind res)))
      (s.sregsLater j (res.take 128) ((dests j.f).eraseDups.filter isSreg)) (s.emit2 j kind res) := by
  have hopen := (emits_sregsLater j (res.take 128) ((dests j.f).eraseDups.filter isSreg) s).tile
  rw [State.emit2_eq htag, ← stations_of_tokenDests]
  exact emits_deliver _ (tokenDests_of_plain hds) (by rw [hopen]; exact hpass)

/-- A result to stations, state registers and `drop`: the register writes and the tokens. -/
theorem emits_emit2 :
    Emits j.fi.at_
      (Tile.sends ((dests j.f).eraseDups.filter (· < 0x40)).length ∘
        Tile.writesLater (((dests j.f).eraseDups.filter isSreg).map (fun d => ⟨j.fi.station, .s (d - 0x50), 0, res.take 128⟩)))
      (((dests j.f).eraseDups.filter (· < 0x40)).map (stationArrival j (resultToken s j kind res))) s (s.emit2 j kind res) :=
  (emits_sregsLater j _ _ s).trans (emits_emit2_tokens hds htag hpass kind res)

/-- Where a state register is named, the tile's cycle has to end. -/
theorem mem_touched_emit2 {d : Nat} (hd : d ∈ (dests j.f).eraseDups) (hsreg : isSreg d = true) :
    j.fi.at_ ∈ (s.emit2 j kind res).touched :=
  (emits_emit2_tokens hds htag hpass kind res).touched (mem_touched_sregsLater j _ (List.mem_filter.mpr ⟨hd, hsreg⟩) s)

end

end Sys2Proof.Machine

open Sys2Proof Sys2Proof.Machine

/-- Settles O24: the register writes are kept and the tokens leave (`emits_emit2`), over the two destinations without a repetition. -/
theorem resultsToStations : Obligations.ResultsToStations := by
  intro s f fi kind res j t ok hA hB htag hpass hlen ds tok s'
  have hplain : ∀ d ∈ dests j.f, plainDest d := List.forall_mem_cons.mpr ⟨hA, List.forall_mem_singleton.mpr hB⟩
  have hds : (dests f).eraseDups = ds := dests_eraseDups f
  have hres : res.take 128 = res := List.take_of_length_le hlen
  have h := emits_emit2 (s := s) hplain htag hpass kind res
  rw [hres, hds] at h
  obtain ⟨htile, hagenda, -, hmem, hready⟩ := h
  refine ⟨hagenda, congrArg Tile.sent htile, congrArg Tile.regNext htile, ?_, (congrArg Tile.sregs htile).trans rfl, hmem, hready,
    (congrArg Tile.passes htile).trans rfl, (congrArg Tile.entries htile).trans rfl⟩
  rintro ⟨d, hd, hlo, hhi⟩
  exact mem_touched_emit2 hplain htag hpass kind res (hds ▸ hd) (by simp only [isSreg, hlo, hhi, decide_true, Bool.and_self])

end

section
/-! PROOFS. The number formats (03 R49, R52, R60 to R62): the values that the codes of a format stand for, in order, and what rounding an
exact number into the format picks among them. -/

namespace Sys2Proof.Machine

/-! ### The value of an exact number -/

/-- The magnitude of an exact number without a sticky part. -/
def Num.mag (x : Num) : ℚ := x.m * 2 ^ x.e

/-- The value of an exact number without a sticky part. -/
def Num.val (x : Num) : ℚ := (if x.neg then -1 else 1) * x.mag

theorem Num.mag_nonneg (x : Num) : 0 ≤ x.mag := by
  unfold Num.mag
  positivity

theorem Num.val_neg {x : Num} (h : x.neg = true) : x.val = -x.mag := by simp [Num.val, h]

theorem Num.val_pos {x : Num} (h : x.neg = false) : x.val = x.mag := by simp [Num.val, h]

theorem Num.abs_val (x : Num) : |x.val| = x.mag := by
  cases h : x.neg
  · rw [val_pos h, abs_of_nonneg x.mag_nonneg]
  · rw [val_neg h, abs_neg, abs_of_nonneg x.mag_nonneg]

/-- The number with its sign inverted. -/
def Num.opp (x : Num) : Num := { x with neg := !x.neg }

@[simp] theorem Num.opp_mag (x : Num) : x.opp.mag = x.mag := rfl
@[simp] theorem Num.opp_neg (x : Num) : x.opp.neg = !x.neg := rfl

@[simp] theorem Num.opp_val (x : Num) : x.opp.val = -x.val := by
  cases h : x.neg <;> simp [val, h]

/-- Numbers are at least as far apart as their magnitudes. -/
theorem Num.abs_sub_mag_le (x y : Num) : |x.mag - y.mag| ≤ |x.val - y.val| := by
  rw [← x.abs_val, ← y.abs_val]
  exact abs_abs_sub_abs_le _ _

theorem Num.abs_sub_val {x y : Num} (h : x.neg = y.neg) : |x.val - y.val| = |x.mag - y.mag| := by
  cases hy : y.neg <;> rw [hy] at h
  · rw [val_pos h, val_pos hy]
  · rw [val_neg h, val_neg hy, neg_sub_neg, abs_sub_comm]

/-- The magnitude as a multiple of `2 ^ q`. -/
def Num.inUnits (x : Num) (q : Int) : ℚ := x.m * 2 ^ (x.e - q)

theorem Num.inUnits_mul (x : Num) (q : Int) : x.inUnits q * 2 ^ q = x.mag := by
  rw [inUnits, mag, mul_assoc, ← zpow_add₀ two_ne_zero, sub_add_cancel]

theorem Num.inUnits_nonneg (x : Num) (q : Int) : 0 ≤ x.inUnits q := by
  unfold inUnits
  positivity

theorem Num.inUnits_of_le {x : Num} {q : Int} (h : q ≤ x.e) : x.inUnits q = (x.m * 2 ^ (x.e - q).toNat : ℕ) := by
  rw [inUnits, Nat.cast_mul, Nat.cast_pow, Nat.cast_ofNat, ← zpow_natCast, Int.toNat_of_nonneg (by omega)]

theorem Num.inUnits_of_gt {x : Num} {q : Int} (h : x.e < q) : x.inUnits q = (x.m : ℚ) / (2 ^ (q - x.e).toNat : ℕ) := by
  rw [inUnits, Nat.cast_pow, Nat.cast_ofNat, div_eq_mul_inv, ← zpow_natCast, ← zpow_neg, Int.toNat_of_nonneg (by omega), neg_sub]

theorem Num.natCast_mul_le_mag (x : Num) (q : Int) (k : ℕ) : (k : ℚ) * 2 ^ q ≤ x.mag ↔ k ≤ ⌊x.inUnits q⌋₊ := by
  rw [← x.inUnits_mul q, mul_le_mul_iff_of_pos_right (by positivity), Nat.le_floor_iff (x.inUnits_nonneg q)]

theorem Num.mag_le_natCast_mul (x : Num) (q : Int) (k : ℕ) : x.mag ≤ (k : ℚ) * 2 ^ q ↔ ⌈x.inUnits q⌉₊ ≤ k := by
  rw [← x.inUnits_mul q, mul_le_mul_iff_of_pos_right (by positivity), Nat.ceil_le]

/-! ### Rounding to a place -/

/-- That `r` is what a mode selects for a magnitude `a` of the sign `neg` between its neighbours `lo` and `hi` (03 R60). -/
def Selects (mode : Rnd) (neg : Bool) (a lo hi r : ℚ) : Prop :=
  match mode with
  | .rne => |r - a| ≤ a - lo ∧ |r - a| ≤ hi - a
  | .rtz => r = lo
  | .rdn => r = if neg then hi else lo
  | .rup => r = if neg then lo else hi

/-- What is its own neighbour is kept in every mode. -/
theorem selects_self (mode : Rnd) (neg : Bool) (k : ℚ) : Selects mode neg k k k k := by
  cases mode <;> simp [Selects]

theorem Selects.bounds {mode : Rnd} {neg : Bool} {a lo hi r : ℚ} (h : Selects mode neg a lo hi r) (hlo : lo ≤ a) (hhi : a ≤ hi) :
    lo ≤ r ∧ r ≤ hi := by
  have hle : lo ≤ hi := hlo.trans hhi
  cases mode with
  | rne =>
    obtain ⟨hl, hh⟩ := h
    exact ⟨by linarith [neg_abs_le (r - a)], by linarith [le_abs_self (r - a)]⟩
  | rtz => exact ⟨h.ge, h.trans_le hle⟩
  | rdn =>
    cases neg
    · exact ⟨h.ge, h.trans_le hle⟩
    · exact ⟨hle.trans_eq h.symm, h.le⟩
  | rup =>
    cases neg
    · exact ⟨hle.trans_eq h.symm, h.le⟩
    · exact ⟨h.ge, h.trans_le hle⟩

/-- The choice does not depend on the unit that the magnitudes are counted in. -/
theorem Selects.mul {mode : Rnd} {neg : Bool} {a lo hi r c : ℚ} (h : Selects mode neg a lo hi r) (hc : 0 < c) :
    Selects mode neg (a * c) (lo * c) (hi * c) (r * c) := by
  cases mode with
  | rne =>
    obtain ⟨hl, hh⟩ := h
    have habs : |r * c - a * c| = |r - a| * c := by rw [← sub_mul, abs_mul, abs_of_pos hc]
    exact ⟨by rw [habs, ← sub_mul]; gcongr, by rw [habs, ← sub_mul]; gcongr⟩
  | rtz => exact congrArg (· * c) h
  | rdn => cases neg <;> exact congrArg (· * c) h
  | rup => cases neg <;> exact congrArg (· * c) h

/-- How a dropped part `r` of `2 * h` compares with one half, as `roundUpMag` takes it. -/
def halfCmp (r h : ℕ) : ℕ := if r > h then 2 else if r = h then 1 else 0

theorem roundUpMag_rne (neg odd exact : Bool) (r h : ℕ) :
    roundUpMag .rne neg odd (halfCmp r h) exact = true ↔ h < r ∨ r = h ∧ odd = true := by
  rcases lt_trichotomy r h with hc | rfl | hc
  · simp [roundUpMag, halfCmp, hc.not_gt, hc.ne]
  · simp [roundUpMag, halfCmp]
  · simp [roundUpMag, halfCmp, hc]

theorem selects_rne_lo (neg : Bool) {k p : ℚ} (h0 : 0 ≤ p) (hp : p ≤ 1 / 2) : Selects .rne neg (k + p) k (k + 1) k := by
  have habs : |k - (k + p)| = p := by rw [sub_add_cancel_left, abs_neg, abs_of_nonneg h0]
  constructor <;> rw [habs] <;> linarith

theorem selects_rne_hi (neg : Bool) {k p : ℚ} (hp : 1 / 2 ≤ p) (h1 : p ≤ 1) : Selects .rne neg (k + p) k (k + 1) (k + 1) := by
  have habs : |k + 1 - (k + p)| = 1 - p := by rw [add_sub_add_left_eq_sub, abs_of_nonneg (by linarith)]
  constructor <;> rw [habs] <;> linarith

/-- A dropped part `r` of `2 * h`, not all zero, decides between the last multiple kept and the next one. -/
theorem selects_dropped (mode : Rnd) (neg odd : Bool) {k r h : ℕ} (hlt : r < 2 * h) :
    Selects mode neg (k + (r : ℚ) / (2 * h : ℕ)) k (k + 1)
      (if roundUpMag mode neg odd (halfCmp r h) false then k + 1 else k : ℕ) := by
  have hh : (0 : ℚ) < (2 * h : ℕ) := Nat.cast_pos.mpr (by omega)
  cases mode with
  | rtz => rfl
  | rdn => cases neg; exacts [rfl, Nat.cast_succ k]
  | rup => cases neg; exacts [Nat.cast_succ k, rfl]
  | rne =>
    split <;> rename_i hup <;> rw [roundUpMag_rne] at hup
    · have hle : (h : ℚ) ≤ r := Nat.cast_le.mpr (by omega)
      rw [Nat.cast_succ]
      refine selects_rne_hi neg ?_ ((div_le_one hh).mpr (Nat.cast_le.mpr hlt.le))
      rw [le_div_iff₀ hh]
      push_cast
      linarith
    · have hle : (r : ℚ) ≤ h := Nat.cast_le.mpr (by omega)
      refine selects_rne_lo neg (by positivity) ?_
      rw [div_le_iff₀ hh]
      push_cast
      linarith

theorem roundToPlace_of_le {x : Num} {q : Int} (hx : x.sticky = false) (mode : Rnd) (h : q ≤ x.e) :
    roundToPlace x mode q = x.m * 2 ^ (x.e - q).toNat := by
  rw [roundToPlace, if_pos h, hx]
  rfl

theorem roundToPlace_of_gt {x : Num} {q : Int} (hx : x.sticky = false) (mode : Rnd) (h : x.e < q) :
    roundToPlace x mode q =
      if roundUpMag mode x.neg (x.m / 2 ^ (q - x.e).toNat % 2 = 1)
          (halfCmp (x.m % 2 ^ (q - x.e).toNat) (2 ^ ((q - x.e).toNat - 1))) (x.m % 2 ^ (q - x.e).toNat = 0)
        then x.m / 2 ^ (q - x.e).toNat + 1 else x.m / 2 ^ (q - x.e).toNat := by
  rw [roundToPlace, if_neg (not_le.mpr h), hx]
  simp only [Bool.and_false, Bool.or_false, Bool.not_false, Bool.and_true, decide_eq_true_eq, halfCmp]
  rfl

/-- Nothing dropped, nothing rounded away from zero. -/
theorem roundUpMag_exact (mode : Rnd) (neg odd : Bool) {h : ℕ} (hh : 0 < h) :
    roundUpMag mode neg odd (halfCmp 0 h) true = false := by
  cases mode with
  | rne => simp [roundUpMag, halfCmp, hh.ne]
  | rtz => rfl
  | rdn => exact Bool.and_false _
  | rup => exact Bool.and_false _

/-- A quotient `m / (2 * h)` rounded by what the division drops. -/
theorem selects_quotient (mode : Rnd) (neg odd : Bool) (m : ℕ) {h : ℕ} (hh : 0 < h) :
    Selects mode neg ((m : ℚ) / (2 * h : ℕ)) ⌊(m : ℚ) / (2 * h : ℕ)⌋₊ ⌈(m : ℚ) / (2 * h : ℕ)⌉₊
      (if roundUpMag mode neg odd (halfCmp (m % (2 * h)) h) (m % (2 * h) = 0) then m / (2 * h) + 1 else m / (2 * h) : ℕ) := by
  have hD : (0 : ℚ) < (2 * h : ℕ) := Nat.cast_pos.mpr (by omega)
  have hlt : m % (2 * h) < 2 * h := Nat.mod_lt _ (by omega)
  have hsplit : (m : ℚ) / (2 * h : ℕ) = (m / (2 * h) : ℕ) + ((m % (2 * h) : ℕ) : ℚ) / (2 * h : ℕ) := by
    rw [div_eq_iff hD.ne', add_mul, div_mul_cancel₀ _ hD.ne']
    exact_mod_cast (Nat.div_add_mod' m (2 * h)).symm
  rw [Nat.floor_div_natCast, Nat.floor_natCast, hsplit]
  rcases (m % (2 * h)).eq_zero_or_pos with h0 | hpos
  · simp only [h0, Nat.cast_zero, zero_div, add_zero, Nat.ceil_natCast, decide_true, roundUpMag_exact mode neg odd hh,
      Bool.false_eq_true, if_false]
    exact selects_self mode neg _
  · have hceil : ⌈((m / (2 * h) : ℕ) : ℚ) + ((m % (2 * h) : ℕ) : ℚ) / (2 * h : ℕ)⌉₊ = m / (2 * h) + 1 := by
      rw [Nat.ceil_eq_iff (Nat.succ_ne_zero _), Nat.succ_sub_one, Nat.cast_succ]
      exact ⟨lt_add_of_pos_right _ (div_pos (Nat.cast_pos.mpr hpos) hD),
        add_le_add_right ((div_le_one hD).mpr (Nat.cast_le.mpr hlt.le)) _⟩
    rw [hceil, Nat.cast_succ, decide_eq_false hpos.ne']
    exact selects_dropped mode neg odd hlt

/-- Rounding a number without a sticky part to a place picks what the mode selects among the multiples of the place. -/
theorem roundToPlace_selects {x : Num} (hx : x.sticky = false) (mode : Rnd) (q : Int) :
    Selects mode x.neg (x.inUnits q) ⌊x.inUnits q⌋₊ ⌈x.inUnits q⌉₊ (roundToPlace x mode q) := by
  rcases le_or_gt q x.e with h | h
  · rw [roundToPlace_of_le hx mode h, Num.inUnits_of_le h, Nat.floor_natCast, Nat.ceil_natCast]
    exact selects_self mode x.neg _
  · obtain ⟨d, hd⟩ : ∃ d, (q - x.e).toNat = d + 1 := Nat.exists_eq_succ_of_ne_zero (by omega)
    rw [roundToPlace_of_gt hx mode h, Num.inUnits_of_gt h, hd, Nat.add_sub_cancel, Nat.pow_succ']
    exact selects_quotient mode x.neg _ x.m (by positivity)

/-! ### The codes of a format in order -/

/-- How many places the last place of a magnitude code stands above that of the subnormals. -/
def FTy.lift (t : FTy) (n : ℕ) : ℕ := n / 2 ^ t.fbits - 1

/-- The number of a magnitude code: its significand, with the hidden bit, in units of its last place (03 R49). -/
def FTy.num (t : FTy) (neg : Bool) (n : ℕ) : Num := ⟨neg, n - t.lift n * 2 ^ t.fbits, t.qmin + t.lift n, false⟩

/-- The magnitude of a magnitude code. -/
def FTy.codeMag (t : FTy) (n : ℕ) : ℚ := (t.num false n).mag

@[simp] theorem FTy.num_mag (t : FTy) (neg : Bool) (n : ℕ) : (t.num neg n).mag = t.codeMag n := rfl
@[simp] theorem FTy.num_neg (t : FTy) (neg : Bool) (n : ℕ) : (t.num neg n).neg = neg := rfl

/-- A magnitude code is its significand above the codes of the places below. -/
theorem FTy.code_split (t : FTy) (n : ℕ) :
    ∃ r : ℕ, n = t.lift n * 2 ^ t.fbits + r ∧ r < 2 * 2 ^ t.fbits ∧ (t.lift n = 0 ∨ 2 ^ t.fbits ≤ r) := by
  have hn : n / 2 ^ t.fbits * 2 ^ t.fbits + n % 2 ^ t.fbits = n := Nat.div_add_mod' n _
  have hlt : n % 2 ^ t.fbits < 2 ^ t.fbits := Nat.mod_lt _ (by positivity)
  unfold lift
  rcases h : n / 2 ^ t.fbits with _ | e
  · rw [h] at hn
    exact ⟨n % 2 ^ t.fbits, by omega, by omega, .inl rfl⟩
  · rw [h, Nat.succ_mul] at hn
    exact ⟨2 ^ t.fbits + n % 2 ^ t.fbits, by rw [Nat.add_sub_cancel]; omega, by omega, .inr (by omega)⟩

theorem FTy.lift_at (t : FTy) {s r : ℕ} (hr : r < 2 * 2 ^ t.fbits) (hs : s = 0 ∨ 2 ^ t.fbits ≤ r) :
    t.lift (s * 2 ^ t.fbits + r) = s := by
  have hdiv : (s * 2 ^ t.fbits + r) / 2 ^ t.fbits = s + r / 2 ^ t.fbits := by
    rw [Nat.mul_comm, Nat.mul_add_div (by positivity)]
  rw [lift, hdiv]
  rcases lt_or_ge r (2 ^ t.fbits) with h | h
  · rw [Nat.div_eq_of_lt h]
    omega
  · rw [Nat.div_eq_of_lt_le (k := 1) (by omega) (by omega), Nat.add_sub_cancel]

/-- A significand of up to twice the hidden bit, `s` places up: the carry into the next place keeps the value. -/
theorem FTy.codeMag_at (t : FTy) {s r : ℕ} (hr : r ≤ 2 * 2 ^ t.fbits) (hs : s = 0 ∨ 2 ^ t.fbits ≤ r) :
    t.codeMag (s * 2 ^ t.fbits + r) = r * 2 ^ (t.qmin + s) := by
  rcases hr.lt_or_eq with hlt | rfl
  · rw [codeMag, num, lift_at t hlt hs, Nat.add_sub_cancel_left]
    rfl
  · have hcarry : s * 2 ^ t.fbits + 2 * 2 ^ t.fbits = (s + 1) * 2 ^ t.fbits + 2 ^ t.fbits := by ring
    have hpos : 0 < 2 ^ t.fbits := by positivity
    rw [hcarry, codeMag, num, lift_at t (by omega) (.inr le_rfl), Nat.add_sub_cancel_left, Num.mag]
    push_cast
    rw [← add_assoc, zpow_add_one₀ two_ne_zero]
    ring

/-- Greater codes have greater magnitudes. -/
theorem FTy.codeMag_strictMono (t : FTy) : StrictMono t.codeMag := by
  refine strictMono_nat_of_lt_succ fun n => ?_
  obtain ⟨r, hn, hr, hs⟩ := t.code_split n
  rw [hn, t.codeMag_at hr.le hs, add_assoc, t.codeMag_at hr (hs.imp_right (Nat.le_succ_of_le ·)), Nat.cast_succ]
  gcongr
  exact lt_add_one _

/-- The codes of a format stand no nearer to a magnitude `a` than its neighbours `lo` and `hi`. -/
structure FTy.Neighbours (t : FTy) (a lo hi : ℚ) : Prop where
  lo_le : lo ≤ a
  le_hi : a ≤ hi
  le_lo : ∀ n, t.codeMag n ≤ a → t.codeMag n ≤ lo
  hi_le : ∀ n, a ≤ t.codeMag n → hi ≤ t.codeMag n

/-! ### The place that a number is rounded to -/

/-- The last place of a number's rounding into a format: its top bit is kept as the hidden bit, but for a subnormal result (03 R60). -/
def FTy.place (t : FTy) (x : Num) : Int := if x.m = 0 then t.qmin else max (x.e + (bitLen x.m : Int) - 1 - t.fbits) t.qmin

theorem FTy.qmin_le_place (t : FTy) (x : Num) : t.qmin ≤ t.place x := by
  unfold place
  split
  · exact le_rfl
  · exact le_max_right _ _

theorem bitLen_of_ne_zero {m : ℕ} (h : m ≠ 0) : bitLen m = Nat.log2 m + 1 := if_neg h

theorem FTy.place_of_ne_zero (t : FTy) {x : Num} (h : x.m ≠ 0) : t.place x = max (x.e + Nat.log2 x.m - t.fbits) t.qmin := by
  rw [place, if_neg h, bitLen_of_ne_zero h]
  push_cast
  rw [← add_assoc, add_sub_cancel_right]

/-- The significand has at most the hidden bit and the fraction's bits. -/
theorem FTy.inUnits_place_lt (t : FTy) (x : Num) : x.inUnits (t.place x) < (2 * 2 ^ t.fbits : ℕ) := by
  by_cases h : x.m = 0
  · rw [Num.inUnits, h, Nat.cast_zero, zero_mul]
    positivity
  · have hq : x.e + Nat.log2 x.m - t.fbits ≤ t.place x := (t.place_of_ne_zero h).symm ▸ le_max_left _ _
    have hm : (x.m : ℚ) < 2 ^ ((Nat.log2 x.m + 1 : ℕ) : ℤ) := by
      rw [zpow_natCast]
      exact_mod_cast Nat.lt_log2_self
    calc x.inUnits (t.place x) < 2 ^ ((Nat.log2 x.m + 1 : ℕ) : ℤ) * 2 ^ (x.e - t.place x) := by
          unfold Num.inUnits
          gcongr
      _ = (2 : ℚ) ^ (((Nat.log2 x.m + 1 : ℕ) : ℤ) + (x.e - t.place x)) := (zpow_add₀ two_ne_zero _ _).symm
      _ ≤ 2 ^ ((t.fbits + 1 : ℕ) : ℤ) := zpow_le_zpow_right₀ one_le_two (by push_cast; omega)
      _ = (2 * 2 ^ t.fbits : ℕ) := by rw [zpow_natCast, pow_succ']; push_cast; rfl

/-- Above the subnormals the significand has its hidden bit. -/
theorem FTy.le_inUnits_place (t : FTy) {x : Num} (h : t.qmin < t.place x) : ((2 ^ t.fbits : ℕ) : ℚ) ≤ x.inUnits (t.place x) := by
  have h0 : x.m ≠ 0 := fun h0 => h.ne' (if_pos h0)
  have hq : t.place x = x.e + Nat.log2 x.m - t.fbits := by
    have := t.place_of_ne_zero h0
    omega
  have hm : (2 : ℚ) ^ (Nat.log2 x.m : ℤ) ≤ x.m := by
    rw [zpow_natCast]
    exact_mod_cast Nat.log2_self_le h0
  calc ((2 ^ t.fbits : ℕ) : ℚ) = 2 ^ ((Nat.log2 x.m : ℤ) + (x.e - t.place x)) := by
        rw [hq, show (Nat.log2 x.m : ℤ) + (x.e - (x.e + Nat.log2 x.m - t.fbits)) = (t.fbits : ℤ) by ring, zpow_natCast]
        push_cast
        rfl
    _ = 2 ^ (Nat.log2 x.m : ℤ) * 2 ^ (x.e - t.place x) := zpow_add₀ two_ne_zero _ _
    _ ≤ x.inUnits (t.place x) := by
        unfold Num.inUnits
        gcongr

/-- A code whose last place lies below that of the rounding stands below the number: the number has a higher top bit. -/
theorem FTy.codeMag_multiple_or_below (t : FTy) (x : Num) (n : ℕ) :
    (∃ k : ℕ, t.codeMag n = k * 2 ^ t.place x)
      ∨ (t.codeMag n < (2 ^ t.fbits : ℕ) * 2 ^ t.place x ∧ 2 ^ t.fbits ≤ ⌊x.inUnits (t.place x)⌋₊) := by
  obtain ⟨r, hn, hr, hs⟩ := t.code_split n
  rw [hn, t.codeMag_at hr.le hs]
  rcases le_or_gt (t.place x) (t.qmin + t.lift n) with h | h
  · obtain ⟨d, hd⟩ := Int.le.dest h
    refine .inl ⟨r * 2 ^ d, ?_⟩
    rw [← hd, add_comm, zpow_add₀ two_ne_zero, zpow_natCast]
    push_cast
    ring
  · refine .inr ⟨?_, Nat.le_floor (t.le_inUnits_place (by omega))⟩
    calc (r : ℚ) * 2 ^ (t.qmin + t.lift n) < (2 * 2 ^ t.fbits : ℕ) * 2 ^ (t.qmin + t.lift n) := by gcongr
      _ = (2 ^ t.fbits : ℕ) * 2 ^ (t.qmin + t.lift n + 1) := by
          rw [zpow_add_one₀ two_ne_zero]
          push_cast
          ring
      _ ≤ (2 ^ t.fbits : ℕ) * 2 ^ t.place x := by
          gcongr
          · exact one_le_two
          · omega

/-- The multiples of the place next to a number are its neighbours among the codes. -/
theorem FTy.neighbours_place (t : FTy) (x : Num) :
    t.Neighbours x.mag (⌊x.inUnits (t.place x)⌋₊ * 2 ^ t.place x) (⌈x.inUnits (t.place x)⌉₊ * 2 ^ t.place x) where
  lo_le := (x.natCast_mul_le_mag _ _).mpr le_rfl
  le_hi := (x.mag_le_natCast_mul _ _).mpr le_rfl
  le_lo n hn := by
    rcases t.codeMag_multiple_or_below x n with ⟨k, hk⟩ | ⟨hlt, hfl⟩
    · rw [hk] at hn ⊢
      gcongr
      exact (x.natCast_mul_le_mag _ _).mp hn
    · refine hlt.le.trans ?_
      gcongr
  hi_le n hn := by
    rcases t.codeMag_multiple_or_below x n with ⟨k, hk⟩ | ⟨hlt, hfl⟩
    · rw [hk] at hn ⊢
      gcongr
      exact (x.mag_le_natCast_mul _ _).mp hn
    · exact absurd (hn.trans_lt hlt) (not_lt.mpr ((x.natCast_mul_le_mag _ _).mpr hfl))

/-! ### The rounded magnitude -/

/-- The magnitude code of ROUND before its overflow is looked at (03 R60). -/
def FTy.roundMag (t : FTy) (mode : Rnd) (x : Num) : ℕ :=
  (t.place x - t.qmin).toNat * 2 ^ t.fbits + roundToPlace x mode (t.place x)

theorem roundNumOv_eq {t : FTy} (ht : t ≠ .dv8) (mode : Rnd) (nv : Bool) (x : Num) :
    roundNumOv t mode nv x =
      if t.roundMag mode x > t.maxCode then (overflowCode t mode nv x.neg, true) else (withSign t x.neg (t.roundMag mode x), false) := by
  cases t with
  | dv8 => exact absurd rfl ht
  | _ => rfl

/-- What does not overflow gets its sign back. -/
theorem roundF_fin {t : FTy} (ht : t ≠ .dv8) {mode : Rnd} (nv : Bool) {x : Num} (h : t.roundMag mode x ≤ t.maxCode) :
    roundF t mode nv (.fin x) = withSign t x.neg (t.roundMag mode x) :=
  congrArg Prod.fst ((roundNumOv_eq ht mode nv x).trans (if_neg (not_lt.mpr h)))

theorem FTy.codeMag_roundMag (t : FTy) {x : Num} (hx : x.sticky = false) (mode : Rnd) :
    t.codeMag (t.roundMag mode x) = roundToPlace x mode (t.place x) * 2 ^ t.place x := by
  have hbounds := (roundToPlace_selects hx mode (t.place x)).bounds (Nat.floor_le (x.inUnits_nonneg _)) (Nat.le_ceil _)
  have hlo : ⌊x.inUnits (t.place x)⌋₊ ≤ roundToPlace x mode (t.place x) := Nat.cast_le.mp hbounds.1
  have hhi : roundToPlace x mode (t.place x) ≤ ⌈x.inUnits (t.place x)⌉₊ := Nat.cast_le.mp hbounds.2
  have hplace : t.qmin + ((t.place x - t.qmin).toNat : ℤ) = t.place x := by
    have := t.qmin_le_place x
    omega
  rw [roundMag, t.codeMag_at (hhi.trans (Nat.ceil_le.mpr (t.inUnits_place_lt x).le)), hplace]
  rcases (t.qmin_le_place x).eq_or_lt with h | h
  · exact .inl (by omega)
  · exact .inr ((Nat.le_floor (t.le_inUnits_place h)).trans hlo)

/-- Rounding picks what the mode selects between a number's neighbours among the codes. -/
theorem FTy.roundMag_selects (t : FTy) {x : Num} (hx : x.sticky = false) (mode : Rnd) :
    ∃ lo hi, t.Neighbours x.mag lo hi ∧ Selects mode x.neg x.mag lo hi (t.codeMag (t.roundMag mode x)) := by
  refine ⟨_, _, t.neighbours_place x, ?_⟩
  rw [t.codeMag_roundMag hx, ← x.inUnits_mul (t.place x)]
  exact (roundToPlace_selects hx mode (t.place x)).mul (by positivity)

/-- A number within the range of the format does not overflow. -/
theorem FTy.roundMag_le_maxCode (t : FTy) {x : Num} (hx : x.sticky = false) (mode : Rnd) (h : x.mag ≤ t.codeMag t.maxCode) :
    t.roundMag mode x ≤ t.maxCode := by
  obtain ⟨lo, hi, hn, hsel⟩ := t.roundMag_selects hx mode
  exact t.codeMag_strictMono.le_iff_le.mp ((hsel.bounds hn.lo_le hn.le_hi).2.trans (hn.hi_le _ h))

/-! ### What the selection means for values -/

section
variable {lo hi : ℚ} {x y v : Num}

/-- Nearest: the rounded number is no farther than either neighbour, and another value of the format is no nearer than one of them. -/
theorem Selects.nearest (h : Selects .rne x.neg x.mag lo hi y.mag) (hsign : y.neg = x.neg)
    (hlo : v.mag ≤ x.mag → v.mag ≤ lo) (hhi : x.mag ≤ v.mag → hi ≤ v.mag) : |y.val - x.val| ≤ |v.val - x.val| := by
  obtain ⟨hl, hh⟩ := h
  rw [Num.abs_sub_val hsign]
  refine le_trans ?_ (Num.abs_sub_mag_le v x)
  rcases le_total v.mag x.mag with hvx | hxv
  · linarith [hlo hvx, neg_abs_le (v.mag - x.mag)]
  · linarith [hhi hxv, le_abs_self (v.mag - x.mag)]

theorem Selects.towardZero (h : Selects .rtz x.neg x.mag lo hi y.mag) (hlox : lo ≤ x.mag) (hlo : v.mag ≤ x.mag → v.mag ≤ lo) :
    |y.val| ≤ |x.val| ∧ (|v.val| ≤ |x.val| → |v.val| ≤ |y.val|) := by
  have hy : y.mag = lo := h
  simp only [Num.abs_val, hy]
  exact ⟨hlox, hlo⟩

/-- Down: a positive number falls to its lower neighbour, a negative one to the higher magnitude; the values of the other sign are on the
far side of zero. -/
theorem Selects.down (h : Selects .rdn x.neg x.mag lo hi y.mag) (hsign : y.neg = x.neg) (hlox : lo ≤ x.mag) (hxhi : x.mag ≤ hi)
    (hlo : v.mag ≤ x.mag → v.mag ≤ lo) (hhi : x.mag ≤ v.mag → hi ≤ v.mag) :
    y.val ≤ x.val ∧ (v.val ≤ x.val → v.val ≤ y.val) := by
  have hx0 := x.mag_nonneg
  have hv0 := v.mag_nonneg
  cases hx : x.neg <;> rw [hx] at h hsign
  · have hy : y.mag = lo := h
    have hy0 := y.mag_nonneg
    rw [Num.val_pos hx, Num.val_pos hsign, hy]
    refine ⟨hlox, fun hvx => ?_⟩
    cases hv : v.neg
    · rw [Num.val_pos hv] at hvx ⊢
      exact hlo hvx
    · rw [Num.val_neg hv]
      linarith
  · have hy : y.mag = hi := h
    rw [Num.val_neg hx, Num.val_neg hsign, hy]
    refine ⟨neg_le_neg hxhi, fun hvx => ?_⟩
    cases hv : v.neg
    · rw [Num.val_pos hv] at hvx ⊢
      linarith [hhi (by linarith)]
    · rw [Num.val_neg hv] at hvx ⊢
      exact neg_le_neg (hhi (neg_le_neg_iff.mp hvx))

/-- Up is down on the other side of zero. -/
theorem Selects.up (h : Selects .rup x.neg x.mag lo hi y.mag) (hsign : y.neg = x.neg) (hlox : lo ≤ x.mag) (hxhi : x.mag ≤ hi)
    (hlo : v.mag ≤ x.mag → v.mag ≤ lo) (hhi : x.mag ≤ v.mag → hi ≤ v.mag) :
    x.val ≤ y.val ∧ (x.val ≤ v.val → y.val ≤ v.val) := by
  have hdown : Selects .rdn x.opp.neg x.opp.mag lo hi y.opp.mag := by
    cases hx : x.neg <;> simpa [Selects, hx] using h
  simpa using hdown.down (v := v.opp) (congrArg not hsign) hlox hxhi hlo hhi

end

/-! ### Codes by sign and magnitude -/

theorem FTy.maxCode_lt (t : FTy) : t.maxCode < 2 ^ t.signBit := by cases t <;> decide

/-- The magnitude of a code, and the sign put back on it, are the code. -/
theorem withSign_parts {t : FTy} {c : ℕ} (hc : c < 2 ^ (t.signBit + 1)) :
    withSign t (bitN c t.signBit) (bitsN c 0 t.signBit) = c := by
  have hsplit : c / 2 ^ t.signBit * 2 ^ t.signBit + c % 2 ^ t.signBit = c := Nat.div_add_mod' c _
  have htop : c / 2 ^ t.signBit < 2 := Nat.div_lt_of_lt_mul (hc.trans_eq (Nat.pow_succ ..))
  have hbits : bitsN c 0 t.signBit = c % 2 ^ t.signBit := by rw [bitsN, pow_zero, Nat.div_one]
  have hbit : bitN c t.signBit = decide (c / 2 ^ t.signBit = 1) := by
    rw [bitN, Nat.testBit_eq_decide_div_mod_eq, Nat.mod_eq_of_lt htop]
  rw [hbits, hbit, withSign]
  interval_cases c / 2 ^ t.signBit
  · simpa using hsplit
  · simpa [add_comm] using hsplit

theorem bitsN_withSign {t : FTy} (neg : Bool) {n : ℕ} (hn : n < 2 ^ t.signBit) : bitsN (withSign t neg n) 0 t.signBit = n := by
  cases neg <;> simp [withSign, bitsN, Nat.mod_eq_of_lt hn]

theorem bitN_withSign {t : FTy} (neg : Bool) {n : ℕ} (hn : n < 2 ^ t.signBit) : bitN (withSign t neg n) t.signBit = neg := by
  cases neg
  · exact Nat.testBit_lt_two_pow hn
  · simp [withSign, bitN, Nat.testBit_lt_two_pow hn, Nat.add_comm n, Nat.testBit_two_pow_add_eq]

/-- The number of a magnitude code by its exponent field (03 R49). -/
theorem FTy.num_eq (t : FTy) (neg : Bool) (n : ℕ) :
    t.num neg n = if n / 2 ^ t.fbits = 0 then ⟨neg, n % 2 ^ t.fbits, t.qmin, false⟩
      else ⟨neg, 2 ^ t.fbits + n % 2 ^ t.fbits, ((n / 2 ^ t.fbits : ℕ) : ℤ) - t.bias - t.fbits, false⟩ := by
  have hn : n / 2 ^ t.fbits * 2 ^ t.fbits + n % 2 ^ t.fbits = n := Nat.div_add_mod' n _
  unfold num lift qmin
  rcases h : n / 2 ^ t.fbits with _ | e
  · rw [h] at hn
    rw [if_pos rfl, Num.mk.injEq, Nat.zero_sub, Nat.zero_mul]
    exact ⟨rfl, by omega, by omega, rfl⟩
  · rw [h, Nat.succ_mul] at hn
    rw [if_neg (Nat.succ_ne_zero e), Num.mk.injEq, Nat.add_sub_cancel]
    exact ⟨rfl, by omega, by omega, rfl⟩

theorem finite_below_inf {k ic : ℕ} (hk : ic = k + 1) (n : ℕ) (a b c : FVal) :
    (if n = ic then a else if n > ic then b else c) = if n ≤ k then c else if some ic = some n then a else b := by
  subst hk
  rcases lt_trichotomy n (k + 1) with h | rfl | h
  · rw [if_neg h.ne, if_neg h.not_gt, if_pos (Nat.le_of_lt_succ h)]
  · rw [if_pos rfl, if_neg (Nat.not_succ_le_self k), if_pos rfl]
  · rw [if_neg h.ne', if_pos h, if_neg (by omega), if_neg (by simp [h.ne])]

/-- Decoding, but for DV8: the finite codes are those up to the largest, infinity stands next where there is one, and the rest are NaN
(03 R49). -/
theorem decodeF_eq {t : FTy} (ht : t ≠ .dv8) (c : ℕ) :
    decodeF t c =
      if bitsN c 0 t.signBit ≤ t.maxCode then .fin (t.num (bitN c t.signBit) (bitsN c 0 t.signBit))
      else if t.infCode = some (bitsN c 0 t.signBit) then .inf (bitN c t.signBit) else .nan := by
  have hlt : bitsN c 0 t.signBit < 2 ^ t.signBit := Nat.mod_lt _ (by positivity)
  rw [FTy.num_eq, apply_ite FVal.fin]
  cases t with
  | dv8 => exact absurd rfl ht
  | e4m3 =>
    rcases (Nat.le_of_lt_succ hlt : _ ≤ 0x7F).eq_or_lt with h | h
    · rw [h]
      exact if_pos ⟨rfl, h⟩
    · exact (if_neg fun hn => h.ne hn.2).trans (if_pos (Nat.le_of_lt_succ h)).symm
  | e2m1 =>
    have hne : ¬(FTy.e2m1 = .e4m3 ∧ bitsN c 0 (FTy.signBit .e2m1) = 0x7F) := fun h => absurd h.1 (by decide)
    have hmax : bitsN c 0 (FTy.signBit .e2m1) ≤ FTy.maxCode .e2m1 := Nat.le_of_lt_succ hlt
    rw [if_pos hmax]
    exact if_neg (t := FVal.nan) hne
  | _ => exact finite_below_inf rfl _ _ _ _

theorem decodeF_withSign {t : FTy} (ht : t ≠ .dv8) (neg : Bool) {n : ℕ} (hn : n ≤ t.maxCode) :
    decodeF t (withSign t neg n) = .fin (t.num neg n) := by
  have hlt : n < 2 ^ t.signBit := hn.trans_lt t.maxCode_lt
  rw [decodeF_eq ht, bitsN_withSign neg hlt, bitN_withSign neg hlt, if_pos hn]

/-- The magnitude of a finite value is that of a code. -/
theorem mag_of_decodeF {t : FTy} (ht : t ≠ .dv8) {c : ℕ} {v : Num} (h : decodeF t c = .fin v) : ∃ n, v.mag = t.codeMag n := by
  rw [decodeF_eq ht] at h
  split at h
  · exact ⟨_, (congrArg Num.mag (FVal.fin.inj h)).symm⟩
  · split at h <;> cases h

theorem mag_of_decodeF_maxCode {t : FTy} (ht : t ≠ .dv8) {z : Num} (h : decodeF t t.maxCode = .fin z) :
    z.mag = t.codeMag t.maxCode := by
  have hz : decodeF t t.maxCode = .fin (t.num false t.maxCode) := decodeF_withSign ht false le_rfl
  rw [FVal.fin.inj (h.symm.trans hz), FTy.num_mag]

/-! ### A value of the format is its own rounding -/

/-- The significand of a code fills the format exactly. -/
theorem FTy.place_num (t : FTy) (neg : Bool) (n : ℕ) : t.place (t.num neg n) = (t.num neg n).e := by
  obtain ⟨r, hn, hr, hs⟩ := t.code_split n
  have hm : (t.num neg n).m = r := by simp only [num]; omega
  have he : (t.num neg n).e = t.qmin + t.lift n := rfl
  by_cases h0 : r = 0
  · have hlift : t.lift n = 0 := hs.resolve_right (by rw [h0]; exact not_le.mpr (by positivity))
    rw [place, hm, if_pos h0, he, hlift, Nat.cast_zero, add_zero]
  · rw [t.place_of_ne_zero (hm ▸ h0), hm, he]
    rcases hs with hs | hs
    · have hlog : Nat.log2 r < t.fbits + 1 := (Nat.log2_lt h0).mpr (Nat.pow_succ' ▸ hr)
      omega
    · have hlog : Nat.log2 r = t.fbits := (Nat.log2_eq_iff h0).mpr ⟨hs, Nat.pow_succ' ▸ hr⟩
      omega

theorem FTy.roundMag_num (t : FTy) (mode : Rnd) (neg : Bool) (n : ℕ) : t.roundMag mode (t.num neg n) = n := by
  obtain ⟨r, hn, -, -⟩ := t.code_split n
  have hle : t.lift n * 2 ^ t.fbits ≤ n := by omega
  rw [roundMag, place_num, roundToPlace_of_le rfl mode le_rfl, sub_self]
  simp [num, hle]

theorem roundF_inf {t : FTy} (mode : Rnd) (nv neg : Bool) {n : ℕ} (h : t.infCode = some n) :
    roundF t mode nv (.inf neg) = withSign t neg n := by
  rw [roundF, h]

/-- Every format but DV8 keeps its values: a finite code is exactly its own rounding, and infinity stays. -/
theorem roundF_decodeF {t : FTy} (ht : t ≠ .dv8) (mode : Rnd) (nv : Bool) {c : ℕ} (hc : c < 2 ^ (t.signBit + 1))
    (hnan : (decodeF t c).isNan = false) : roundF t mode nv (decodeF t c) = c := by
  rw [decodeF_eq ht] at hnan ⊢
  split at hnan <;> rename_i hfin
  · rw [if_pos hfin, roundF_fin ht nv ((t.roundMag_num mode _ _).trans_le hfin), t.roundMag_num, FTy.num_neg, withSign_parts hc]
  · split at hnan <;> rename_i hinf
    · rw [if_neg hfin, if_pos hinf, roundF_inf mode nv _ hinf, withSign_parts hc]
    · cases hnan

/-! ### DV8 -/

/-- The nonzero magnitudes of DV8 lie between one unit and 65 536 (03 R53). -/
theorem dv8Units_range : ∀ b < 128, b ≠ 0 → dv8Units b ≠ 0 ∧ dv8Units b ≤ 65536 * 2 ^ 18 := by decide

/-- Different DV8 codes have different magnitudes. -/
theorem dv8Units_ne : ∀ b < 128, ∀ a < b, dv8Units a ≠ dv8Units b := by decide

theorem dv8Units_inj {a b : ℕ} (ha : a < 128) (hb : b < 128) (h : dv8Units a = dv8Units b) : a = b := by
  rcases lt_trichotomy a b with hlt | heq | hlt
  · exact absurd h (dv8Units_ne b hb a hlt)
  · exact heq
  · exact absurd h.symm (dv8Units_ne a ha b hlt)

/-- The search of `roundDv8` for the greatest magnitude up to `u`, over the codes `l` and from `best` on. -/
def dv8Floor (u : ℕ) (l : List ℕ) (best : ℕ) : ℕ :=
  l.foldl (fun best b => if dv8Units b ≤ u && dv8Units b ≥ dv8Units best then b else best) best

/-- The search ends on a code it has seen, not above `u`, and not below any other such code. -/
theorem dv8Floor_spec {u : ℕ} (l : List ℕ) {best : ℕ} (h : dv8Units best ≤ u) :
    dv8Floor u l best ∈ best :: l ∧ dv8Units (dv8Floor u l best) ≤ u
      ∧ ∀ b ∈ best :: l, dv8Units b ≤ u → dv8Units b ≤ dv8Units (dv8Floor u l best) := by
  induction l generalizing best with
  | nil => exact ⟨List.mem_cons_self, h, fun b hb _ => (List.mem_singleton.mp hb) ▸ le_rfl⟩
  | cons a l ih =>
    by_cases ha : dv8Units a ≤ u ∧ dv8Units best ≤ dv8Units a
    · have hstep : dv8Floor u (a :: l) best = dv8Floor u l a := by simp [dv8Floor, ha]
      obtain ⟨hmem, hle, hmax⟩ := ih ha.1
      rw [hstep]
      refine ⟨List.mem_cons_of_mem _ hmem, hle, fun b hb hbu => ?_⟩
      rcases List.mem_cons.mp hb with rfl | hb
      · exact ha.2.trans (hmax a List.mem_cons_self ha.1)
      · exact hmax b hb hbu
    · have hstep : dv8Floor u (a :: l) best = dv8Floor u l best := by
        rw [dv8Floor, List.foldl_cons, if_neg (by simpa using ha), dv8Floor]
      obtain ⟨hmem, hle, hmax⟩ := ih h
      rw [hstep]
      refine ⟨List.mem_cons.mpr ((List.mem_cons.mp hmem).imp_right (List.mem_cons_of_mem _)), hle, fun b hb hbu => ?_⟩
      rcases List.mem_cons.mp hb with rfl | hb
      · exact hmax b List.mem_cons_self hbu
      rcases List.mem_cons.mp hb with rfl | hb
      · have hbest : dv8Units b ≤ dv8Units best := by omega
        exact hbest.trans (hmax best List.mem_cons_self h)
      · exact hmax b (List.mem_cons_of_mem _ hb) hbu

/-- The search finds a code by its magnitude. -/
theorem dv8Floor_dv8Units {b : ℕ} (hb : b < 128) : dv8Floor (dv8Units b) (List.range 128) 0 = b := by
  have hstart : dv8Units 0 ≤ dv8Units b := Nat.zero_le _
  obtain ⟨hmem, hle, hmax⟩ := dv8Floor_spec (List.range 128) hstart
  have hlt : dv8Floor (dv8Units b) (List.range 128) 0 < 128 := by
    rcases List.mem_cons.mp hmem with h0 | h
    · rw [h0]
      decide
    · exact List.mem_range.mp h
  exact dv8Units_inj hlt hb (hle.antisymm (hmax b (List.mem_cons_of_mem _ (List.mem_range.mpr hb)) le_rfl))

theorem roundDv8_of_floor (mode : Rnd) (nv neg : Bool) {u b : ℕ} (hu : u ≠ 0) (hmax : u ≤ 65536 * 2 ^ 18)
    (hfloor : dv8Floor u (List.range 128) 0 = b) (hb : dv8Units b = u) (h0 : b ≠ 0) :
    roundDv8 ⟨neg, u, -18, false⟩ mode nv = withSign .dv8 neg b := by
  have hone : u * 2 ^ ((-18 : ℤ) + 18).toNat = u := mul_one u
  rw [dv8Floor] at hfloor
  rw [roundDv8]
  simp only [ge_iff_le, le_refl, if_true, hone] at hfloor ⊢
  rw [hfloor, if_neg (by simp [hu]), if_neg (by simp; omega), if_pos (by simp [hb]), if_neg h0]

theorem roundDv8_dv8Units (mode : Rnd) (nv neg : Bool) {b : ℕ} (hb : b < 128) (h0 : b ≠ 0) :
    roundDv8 ⟨neg, dv8Units b, -18, false⟩ mode nv = withSign .dv8 neg b := by
  obtain ⟨hne, hmax⟩ := dv8Units_range b hb h0
  exact roundDv8_of_floor mode nv neg hne hmax (dv8Floor_dv8Units hb) rfl h0

theorem roundF_decodeF_dv8 (mode : Rnd) (nv : Bool) {c : ℕ} (hc : c < 2 ^ (FTy.signBit .dv8 + 1))
    (hnan : (decodeF .dv8 c).isNan = false) : roundF .dv8 mode nv (decodeF .dv8 c) = c := by
  have hparts : withSign .dv8 (bitN c 7) (bitsN c 0 7) = c := withSign_parts hc
  have hlt : bitsN c 0 7 < 128 := Nat.mod_lt _ (by positivity)
  by_cases h0 : bitsN c 0 7 = 0
  · have hdec : decodeF .dv8 c = if bitN c 7 then .nan else .fin ⟨false, 0, 0, false⟩ := if_pos h0
    rw [hdec] at hnan ⊢
    rw [h0] at hparts
    cases hs : bitN c 7 <;> rw [hs] at hnan hparts
    · exact hparts
    · cases hnan
  · have hdec : decodeF .dv8 c = .fin ⟨bitN c 7, dv8Units (bitsN c 0 7), -18, false⟩ := if_neg h0
    rw [hdec]
    exact (roundDv8_dv8Units mode nv (bitN c 7) hlt h0).trans hparts

end Sys2Proof.Machine

open Sys2Proof Sys2Proof.Machine

/-- Settles O18: the rounded magnitude is what the mode selects between the number's neighbours among the codes (`FTy.roundMag_selects`),
it decodes to itself under the number's sign, and no value of the format comes between. -/
theorem roundingIsCorrect : Obligations.RoundingIsCorrect := by
  unfold Obligations.RoundingIsCorrect
  intro q t mode nv x z ht hx hz hle
  have hq : q = Num.val := funext fun x => mul_assoc _ _ _
  have ht : t ≠ .dv8 := by rintro rfl; simp at ht
  rw [hq, Num.abs_val, Num.abs_val, mag_of_decodeF_maxCode ht hz] at hle
  have hmax := t.roundMag_le_maxCode hx mode hle
  refine ⟨t.num x.neg (t.roundMag mode x), ?_, rfl, rfl, fun c v hv => ?_⟩
  · rw [roundF_fin ht nv hmax, decodeF_withSign ht _ hmax]
  · obtain ⟨lo, hi, hn, hsel⟩ := t.roundMag_selects hx mode
    obtain ⟨n, hvn⟩ := mag_of_decodeF ht hv
    have hlo : v.mag ≤ x.mag → v.mag ≤ lo := hvn ▸ hn.le_lo n
    have hhi : x.mag ≤ v.mag → hi ≤ v.mag := hvn ▸ hn.hi_le n
    rw [← t.num_mag x.neg] at hsel
    rw [hq]
    cases mode with
    | rne => exact hsel.nearest rfl hlo hhi
    | rtz => exact hsel.towardZero hn.lo_le hlo
    | rdn => exact hsel.down rfl hn.lo_le hn.le_hi hlo hhi
    | rup => exact hsel.up rfl hn.lo_le hn.le_hi hlo hhi

/-- Settles O19: DV8 by the search over its codes, and every other format because a code is exactly its own rounding. -/
theorem roundingKeepsItsValues : Obligations.RoundingKeepsItsValues := by
  intro t mode nv c hc hnan
  by_cases ht : t = .dv8
  · subst ht
    exact roundF_decodeF_dv8 mode nv hc hnan
  · exact roundF_decodeF ht mode nv hc hnan

end

section
/-! PROOFS. What one cycle holds (05 R109, R110, 07 R140, R142, 10 R207, log entries 1 and 44): its members, its units, its order. -/

namespace Sys2Proof.Machine

/-! ### What may come next -/

theorem mem_ite_singleton {α : Type} {p : Bool} {a x : α} (h : x ∈ if p then [a] else []) : x = a ∧ p = true := by
  cases p with
  | false => cases h
  | true => exact ⟨List.mem_singleton.mp h, rfl⟩

theorem mem_agenda_of_eligible {s : State} {e : Event} (seen : List (List Nat)) (es : List Event)
    (h : e ∈ eligibleEvents s seen es) : e ∈ es ∧ s.mayHappen e = true := by
  induction es generalizing seen with
  | nil => cases h
  | cons a es ih =>
    have hcons (seen' : List (List Nat)) (h : e ∈ (if s.mayHappen a then [a] else []) ++ eligibleEvents s seen' es) :
        e ∈ a :: es ∧ s.mayHappen e = true := by
      obtain h | h := List.mem_append.mp h
      · obtain ⟨rfl, hmay⟩ := mem_ite_singleton h
        exact ⟨List.mem_cons_self, hmay⟩
      · exact (ih seen' h).imp_left (List.mem_cons_of_mem a)
    rw [eligibleEvents] at h
    split at h
    · exact hcons _ h
    · split at h
      · exact (ih seen h).imp_left (List.mem_cons_of_mem a)
      · exact hcons _ h

theorem mem_ready_of_eligible {s : State} {fi : Firing} (before fs : List Firing) (h : fi ∈ eligibleSets s before fs) :
    fi ∈ fs ∧ ∃ before', s.mayFire before' fi = true := by
  induction fs generalizing before with
  | nil => cases h
  | cons a fs ih =>
    obtain h | h := List.mem_append.mp h
    · obtain ⟨rfl, hmay⟩ := mem_ite_singleton h
      exact ⟨List.mem_cons_self, _, hmay⟩
    · exact (ih _ h).imp_left (List.mem_cons_of_mem a)

/-- A set that may fire can, and waits for no result. -/
theorem State.canFire_of_mayFire {s : State} {before : List Firing} {fi : Firing} (h : s.mayFire before fi = true) :
    s.canFire fi = true ∧ s.interlocked fi = false := by
  simp only [State.mayFire, Bool.and_eq_true, Bool.not_eq_true'] at h
  obtain ⟨⟨⟨⟨hcan, hlock⟩, -⟩, -⟩, -⟩ := h
  exact ⟨hcan, hlock⟩

theorem State.set_mem_choices {s : State} {fi : Firing} (h : .set fi ∈ s.choices) :
    fi ∈ s.ready ∧ s.canFire fi = true ∧ s.interlocked fi = false := by
  have hmem : fi ∈ eligibleSets s [] s.ready := by simpa [State.choices] using h
  obtain ⟨hready, _, hmay⟩ := mem_ready_of_eligible _ _ hmem
  exact ⟨hready, State.canFire_of_mayFire hmay⟩

theorem State.event_mem_choices {s : State} {e : Event} (h : .event e ∈ s.choices) : e ∈ s.agenda ∧ s.mayHappen e = true :=
  mem_agenda_of_eligible [] s.agenda (by simpa [State.choices] using h)

/-! ### An open choice among them -/

theorem someOf_subset (n : Nat) (cs : List Choice) : someOf n cs ⊆ cs := by
  intro c hc
  unfold someOf at hc
  split at hc
  · exact hc
  · exact hc
  next c₀ rest _ =>
    dsimp only at hc
    split at hc
    · rw [List.mem_singleton] at hc
      have hlt : n % (c₀ :: rest).length < (c₀ :: rest).length := Nat.mod_lt _ (Nat.succ_pos _)
      rw [hc, List.getD_eq_getElem _ _ hlt]
      exact List.getElem_mem hlt
    · obtain ⟨p, hp, rfl⟩ := List.mem_map.mp hc
      exact List.fst_mem_of_mem_zipIdx (List.mem_filter.mp hp).1

theorem someOf_ne_nil (n : Nat) {cs : List Choice} (h : cs ≠ []) : someOf n cs ≠ [] := by
  unfold someOf
  split
  · exact absurd rfl h
  · exact List.cons_ne_nil _ _
  · dsimp only
    split
    · exact List.cons_ne_nil _ _
    next hne => exact fun h => hne (List.isEmpty_iff.mpr h)

/-! ### The order of keys -/

/-- The order of keys is the lexicographic one. -/
theorem lexLt_iff_lt : ∀ a b : List Nat, lexLt a b = true ↔ a < b
  | [], [] => by simp [lexLt]
  | [], _ :: _ => by simp [lexLt]
  | _ :: _, [] => by simp [lexLt]
  | a :: as, b :: bs => by simp [lexLt, List.cons_lt_cons_iff, lexLt_iff_lt as bs]

theorem lexLt_eq_false_iff_le (a b : List Nat) : lexLt a b = false ↔ b ≤ a := by
  rw [← Bool.not_eq_true, lexLt_iff_lt, not_lt]

section
variable (key : Choice → List Nat)

theorem mem_insertChoice (c x : Choice) (l : List Choice) : x ∈ insertChoice key c l ↔ x = c ∨ x ∈ l := by
  induction l with
  | nil => simp [insertChoice]
  | cons y l ih =>
    rw [insertChoice]
    split
    · simp
    · simp only [List.mem_cons, ih]
      tauto

/-- A choice put at its place among others that stand in order leaves them in order. -/
theorem insertChoice_ordered (c : Choice) {l : List Choice} (h : l.Pairwise (fun a b => key a ≤ key b)) :
    (insertChoice key c l).Pairwise (fun a b => key a ≤ key b) := by
  induction l with
  | nil => exact List.pairwise_singleton _ _
  | cons x l ih =>
    obtain ⟨hx, hl⟩ := List.pairwise_cons.mp h
    rw [insertChoice]
    split
    next hlt =>
      have hcx : key c ≤ key x := le_of_lt ((lexLt_iff_lt _ _).mp hlt)
      exact List.pairwise_cons.mpr ⟨List.forall_mem_cons.mpr ⟨hcx, fun y hy => hcx.trans (hx y hy)⟩, h⟩
    next hge =>
      have hxc : key x ≤ key c := (lexLt_eq_false_iff_le _ _).mp (Bool.eq_false_iff.mpr hge)
      refine List.pairwise_cons.mpr ⟨fun y hy => ?_, ih hl⟩
      obtain rfl | hy := (mem_insertChoice key c y l).mp hy
      · exact hxc
      · exact hx y hy

/-- Choices put at their places one after another. -/
def ordered (cs : List Choice) : List Choice := cs.foldl (fun l c => insertChoice key c l) []

theorem mem_foldl_insertChoice (x : Choice) (cs acc : List Choice) :
    x ∈ cs.foldl (fun l c => insertChoice key c l) acc ↔ x ∈ cs ∨ x ∈ acc := by
  induction cs generalizing acc with
  | nil => simp
  | cons c cs ih =>
    rw [List.foldl_cons, ih, mem_insertChoice, List.mem_cons]
    tauto

theorem mem_ordered (x : Choice) (cs : List Choice) : x ∈ ordered key cs ↔ x ∈ cs :=
  (mem_foldl_insertChoice key x cs []).trans (by simp)

theorem ordered_pairwise (cs : List Choice) : (ordered key cs).Pairwise (fun a b => key a ≤ key b) :=
  List.foldlRecOn cs _ List.Pairwise.nil (fun _ hl c _ => insertChoice_ordered key c hl)

end

/-! ### One thing for each unit -/

section
variable (s : State)

theorem State.limited_sublist (cs : List Choice) (used : List (List Nat)) : (s.limited used cs).Sublist cs := by
  induction cs generalizing used with
  | nil => exact List.Sublist.slnil
  | cons c cs ih =>
    rw [State.limited]
    split
    · exact (ih used).cons c
    · exact (ih _).cons_cons c

theorem State.limited_unused {c : Choice} {p : List Nat} (cs : List Choice) (used : List (List Nat)) (h : c ∈ s.limited used cs)
    (hp : p ∈ s.portsOf c) : p ∉ used := by
  induction cs generalizing used with
  | nil => cases h
  | cons x cs ih =>
    rw [State.limited] at h
    split at h
    · exact ih used h
    next hfree =>
      obtain rfl | h := List.mem_cons.mp h
      · intro hu
        exact hfree (List.any_eq_true.mpr ⟨p, hp, List.contains_iff_mem.mpr hu⟩)
      · exact fun hu => ih _ h (List.mem_append_left _ hu)

theorem State.limited_pairwise (cs : List Choice) (used : List (List Nat)) :
    (s.limited used cs).Pairwise (fun a b => ∀ p ∈ s.portsOf a, p ∉ s.portsOf b) := by
  induction cs generalizing used with
  | nil => exact List.Pairwise.nil
  | cons x cs ih =>
    rw [State.limited]
    split
    · exact ih used
    · exact List.pairwise_cons.mpr ⟨fun c hc p hp hpc => s.limited_unused cs _ hc hpc (List.mem_append_right _ hp), ih _⟩

/-- The first of some choices takes what it needs. -/
theorem State.limited_ne_nil {cs : List Choice} (h : cs ≠ []) : s.limited [] cs ≠ [] := by
  cases cs with
  | nil => exact absurd rfl h
  | cons c cs => simp [State.limited]

/-! ### The cycle -/

theorem State.cycleBatch_eq : s.cycleBatch = s.limited [] (ordered s.cycleKey (someOf (Config.pick s.ticks) s.choices)) := rfl

theorem State.cycleBatch_subset : s.cycleBatch ⊆ s.choices := fun c hc =>
  someOf_subset _ _ ((mem_ordered _ c _).mp ((s.limited_sublist _ _).subset hc))

theorem State.cycleBatch_ne_nil (h : s.choices ≠ []) : s.cycleBatch ≠ [] := by
  obtain ⟨c, hc⟩ := List.exists_mem_of_ne_nil _ (someOf_ne_nil (Config.pick s.ticks) h)
  exact s.limited_ne_nil (List.ne_nil_of_mem ((mem_ordered s.cycleKey c _).mpr hc))

theorem State.cycleBatch_pairwise : s.cycleBatch.Pairwise (fun a b =>
    lexLt (s.cycleKey b) (s.cycleKey a) = false ∧ ∀ p ∈ s.portsOf a, p ∉ s.portsOf b) := by
  simp only [lexLt_eq_false_iff_le]
  exact ((ordered_pairwise s.cycleKey _).sublist (s.limited_sublist _ _)).and (s.limited_pairwise _ _)

/-- What is taken next is the first that may still take place. -/
theorem State.nextOf_some {l cs : List Choice} {c : Choice} (h : s.nextOf l = some (c, cs)) :
    ∃ skipped, l = skipped ++ c :: cs ∧ s.still c = true ∧ ∀ x ∈ skipped, s.still x = false := by
  induction l with
  | nil => cases h
  | cons x l ih =>
    rw [State.nextOf] at h
    split at h
    next hx =>
      cases h
      exact ⟨[], rfl, hx, fun _ h => by cases h⟩
    next hx =>
      obtain ⟨skipped, rfl, hc, hs⟩ := ih h
      exact ⟨x :: skipped, rfl, hc, List.forall_mem_cons.mpr ⟨Bool.eq_false_iff.mpr hx, hs⟩⟩

theorem State.nextOf_none (l : List Choice) : s.nextOf l = none ↔ ∀ x ∈ l, s.still x = false := by
  induction l with
  | nil => simp [State.nextOf]
  | cons x l ih =>
    rw [State.nextOf, List.forall_mem_cons, ← ih]
    cases s.still x <;> simp

end

end Sys2Proof.Machine

open Sys2Proof Sys2Proof.Machine

/-- Settles O5: an open choice among the choices (`someOf`) is put in order of the keys (`ordered`) and thinned to one thing for each
unit (`State.limited`), and from that the first that may still take place is taken (`State.nextOf`). -/
theorem cycleOrder : Obligations.CycleOrder := by
  intro s
  exact ⟨s.cycleBatch_subset, fun _ => State.set_mem_choices, fun _ => State.event_mem_choices, s.cycleBatch_ne_nil,
    s.cycleBatch_pairwise, fun _ _ _ => s.nextOf_some, s.nextOf_none⟩

end

section
/-! PROOFS. The firing rule (04 R75) for all 195 instructions: every one of them fires by it, an acquiring class with the one check more of
11 R424. -/

namespace Sys2Proof.Machine

/-! ### The outcomes of the rule -/

section
variable {s : State} {f : Fields}

theorem State.levelFull_iff : s.levelFull ⟨s.cur, f⟩ = true ↔
    1 ≤ s.level (s.regionCtx s.cur.region) ∧ s.cur.stTag.level = 0xFFFFFFFF := by
  have hlast : s.cur.stTag.level.toNat = 2 ^ 32 - 1 ↔ s.cur.stTag.level = 0xFFFFFFFF :=
    ⟨fun h => BitVec.eq_of_toNat_eq h, fun h => by rw [h]; rfl⟩
  simp only [State.levelFull, Bool.and_eq_true, decide_eq_true_eq, hlast, ge_iff_le]

theorem predOk_eq_false (h : f.pm = 1 ∧ s.cur.stTag.pred = false ∨ f.pm = 2 ∧ s.cur.stTag.pred = true) :
    predOk f s.cur.stTag = false := by
  obtain ⟨hpm, hpred⟩ | ⟨hpm, hpred⟩ := h <;> simp [predOk, hpm, hpred]

section
variable (regs : List Nat) (nullEff eff : Job → State → State)

theorem fireWith_null (h : s.cur.anyNull = true) (hp : f.pm ≠ 3) : s.fireWith f regs nullEff eff = s.consume s.cur := by
  have hq : ¬ f.pm = 3#2 := hp
  simp [State.fireWith, Firing.fires, h, hq]

theorem fireWith_unmatched (h : s.cur.anyNull = false) (hp : predOk f s.cur.stTag = false) :
    s.fireWith f regs nullEff eff = s.consume s.cur := by
  simp [State.fireWith, Firing.fires, h, hp]

/-- A set with a null token at a station with `pm=null` runs the null-pass of its class. -/
theorem fireWith_nullPass (h : s.cur.anyNull = true) (hp : f.pm = 3) (hl : ¬ (f.tag = 5 ∧ s.levelFull ⟨s.cur, f⟩ = true)) :
    s.fireWith f regs nullEff eff = finished f s (nullEff ⟨s.cur, f⟩ s) := by
  have hl' : (decide (f.tag = 5) && s.levelFull ⟨s.cur, f⟩) = false := by
    simpa only [Bool.and_eq_false_iff, decide_eq_false_iff_not, Bool.not_eq_true, not_and_or] using hl
  simp only [State.fireWith, Firing.fires, h, hp, if_true, decide_true, Bool.true_and, hl', Bool.false_eq_true, if_false, finished]

/-- A set that would take `tag=parent` past the last sync level stands ready until the boundary that it asks for (11 R424). -/
theorem fireWith_boundary (h : s.cur.fires f = true) (ht : f.tag = 5) (hl : s.levelFull ⟨s.cur, f⟩ = true) :
    s.fireWith f regs nullEff eff = (s.askBoundary (s.regionCtx s.cur.region) 0).offerAgain s.cur := by
  simp only [State.fireWith, h, ht, hl, decide_true, Bool.and_self, if_true]

end

section
variable (kind : Option Kind) (nd regs : List Nat) (eff : Job → State → State)

/-- An acquiring class treats a set with a null token, and one whose predicate does not match, as every class does. -/
theorem fireAcquiring_of_not_live (h : s.cur.anyNull = true ∨ predOk f s.cur.stTag = false) :
    s.fireAcquiring f kind nd regs eff = s.fire f kind nd regs eff := by
  obtain h | h := h <;> simp [State.fireAcquiring, h]

theorem fireAcquiring_boundary (h : s.cur.anyNull = false) (hp : predOk f s.cur.stTag = true)
    (hl : s.levelFull ⟨s.cur, f⟩ = true) :
    s.fireAcquiring f kind nd regs eff = (s.askBoundary (s.regionCtx s.cur.region) 0).offerAgain s.cur := by
  simp [State.fireAcquiring, h, hp, hl]

end

end

/-! ### Every instruction fires by the rule -/

/-- The kind that a class emits on its null-pass, none for that of the station tag (04 R70, R75). -/
def nullKind (m : BitVec 6) (n : BitVec 8) : Option Kind :=
  if (0x0A ≤ m ∧ m ≤ 0x0C) ∨ (m = 0x0D ∧ 3 ≤ n) then none else if m = 0x0F then some .control else some .value

/-- The classes whose tokens take one sync level more (11 R424). -/
def acquires (m : BitVec 6) (n : BitVec 8) : Prop :=
  m = 0x0E ∨ m = 0x0F ∨ (m = 0x19 ∧ n ≠ 1) ∨ (m = 0x22 ∧ n = 2) ∨ (m = 0x23 ∧ n = 1) ∨ (m = 0x27 ∧ n = 1)

/-- The classes whose null-pass goes to other places than the two destinations: EXIT and DUP (04 R92, 05 R107). -/
def ownNullPass (m : BitVec 6) (n : BitVec 8) : Prop := m = 0x10 ∨ (m = 0x0C ∧ n = 2)

/-- How the firing of an instruction with opcodes `m` and `n` goes by the firing rule. -/
inductive FiringForm (m : BitVec 6) (n : BitVec 8) (f : Fields) (s : State) : Host.Outcome State Fault Refusal → Prop
  | plain (regs : List Nat) (eff : Job → State → State) (h : ¬ acquires m n) :
      FiringForm m n f s (.next (s.fire f (nullKind m n) (dests f) regs eff))
  | acquiring (regs : List Nat) (eff : Job → State → State) :
      FiringForm m n f s (.next (s.fireAcquiring f (nullKind m n) (dests f) regs eff))
  | own (regs : List Nat) (nullEff eff : Job → State → State) (h : ownNullPass m n) (h' : ¬ acquires m n) :
      FiringForm m n f s (.next (s.fireWith f regs nullEff eff))

section
variable {m : BitVec 6} {n : BitVec 8} {f : Fields} {s : State} {o : Host.Outcome State Fault Refusal} {kind : Option Kind}
  {regs : List Nat} {eff : Job → State → State}

theorem FiringForm.of_fire (ho : o = .next (s.fire f kind (dests f) regs eff)) (hkind : nullKind m n = kind) (h : ¬ acquires m n) :
    FiringForm m n f s o := by
  subst ho hkind
  exact .plain regs eff h

theorem FiringForm.of_value {val : Job → State → Bytes} (ho : o = .next (s.fireValue f val)) (hkind : nullKind m n = some .value)
    (h : ¬ acquires m n) : FiringForm m n f s o :=
  .of_fire (ho.trans rfl) hkind h

theorem FiringForm.of_island {slots : Job → State → Nat} {go : Job → State → IslPort → State}
    (ho : o = .next (fireIsland slots f go s)) (hkind : nullKind m n = some .value) (h : ¬ acquires m n) : FiringForm m n f s o :=
  .of_fire (ho.trans rfl) hkind h

theorem FiringForm.of_remote {limit : Nat} {go : Job → Launch → Nat → Bytes → State → State}
    (ho : o = .next (fireRmt limit f regs go s)) (hkind : nullKind m n = some .value) (h : ¬ acquires m n) : FiringForm m n f s o :=
  .of_fire (ho.trans rfl) hkind h

theorem FiringForm.of_acquiring (ho : o = .next (s.fireAcquiring f kind (dests f) regs eff)) (hkind : nullKind m n = kind) :
    FiringForm m n f s o := by
  subst ho hkind
  exact .acquiring regs eff

end

theorem exec_firingForm {i : Instr} {m : BitVec 6} {n : BitVec 8} {f : Fields} (s : State) (h : i.parts = some (m, n, f)) :
    FiringForm m n f s (exec i s) := by
  cases i with
  | spawnSpawn | spawnSpawnn | spawnSpawnr | joinJoin | joinJoinall | orderAcq | orderAcqrel | orderFence
  | rrelRelwait | netWait | trapTret => cases h; exact .of_acquiring rfl rfl
  | orderRel =>
    cases h
    simp only [exec, execOrderRel, fireOrder, Bool.false_eq_true, if_false]
    exact .of_fire rfl rfl (by unfold acquires; decide)
  | exitExit | exitAbort => cases h; exact .own _ _ _ (Or.inl rfl) (by unfold acquires; decide)
  | gateDup => cases h; exact .own _ _ _ (Or.inr ⟨rfl, rfl⟩) (by unfold acquires; decide)
  | ialuAdd | ialuSub | ialuMul | ialuMulh | ialuMin | ialuMax | ialuAnd | ialuOr | ialuXor | ialuNot | ialuShl | ialuShr | ialuRot
  | ialuPopc | ialuClz | ialuAbs | icmpEq | icmpNe | icmpLt | icmpLe | icmpGt | icmpGe | icmpTst | vfmaFma | vfmaFms | vfmaFnma
  | vfmaFnms | vfmaDot | vfmaDotacc | vfarithFadd | vfarithFsub | vfarithFmul | vfarithFdiv | vfarithFmin | vfarithFmax | vfarithFabs
  | vfarithFneg | vfarithFsqrt | vfarithFclass | vfarithFeq | vfarithFlt | vfarithFle | vcvtCvt | vcvtFtoi | vcvtItof | vcvtCvtmx
  | vcvtUnmx | vcvtSketch | vspecialExp2 | vspecialLog2 | vspecialRcp | vspecialRsqrt | vspecialTanh | vspecialSigm | vredRsum
  | vredRmax | vredRmin | vredRsumsq | tagopGetit | tagopGetfr | tagopGetph | stateSld =>
    cases h; exact .of_value rfl rfl (by unfold acquires; decide)
  | mmaMldb | maccAcinit | maccAcadd | maccAcread | maccAcsave | maccAcload | msparseMsldb =>
    cases h; exact .of_island rfl rfl (by unfold acquires; decide)
  | rmtRadd | rmtRcas | rmtRxchg => cases h; exact .of_remote rfl rfl (by unfold acquires; decide)
  | _ => cases h <;> exact .of_fire rfl rfl (by unfold acquires; decide)

section
variable {m : BitVec 6} {n : BitVec 8} {f : Fields} {s : State} {o : Host.Outcome State Fault Refusal}

theorem FiringForm.null (h : FiringForm m n f s o) (hn : s.cur.anyNull = true) (hp : f.pm ≠ 3) : o = .next (s.consume s.cur) := by
  cases h with
  | plain regs eff _ => rw [fire_null hn hp]
  | acquiring regs eff => rw [fireAcquiring_of_not_live _ _ _ _ (Or.inl hn), fire_null hn hp]
  | own regs nullEff eff _ _ => rw [fireWith_null _ _ _ hn hp]

theorem FiringForm.unmatched (h : FiringForm m n f s o) (hn : s.cur.anyNull = false) (hp : predOk f s.cur.stTag = false) :
    o = .next (s.consume s.cur) := by
  cases h with
  | plain regs eff _ => rw [fire_unmatched hn hp]
  | acquiring regs eff => rw [fireAcquiring_of_not_live _ _ _ _ (Or.inr hp), fire_unmatched hn hp]
  | own regs nullEff eff _ _ => rw [fireWith_unmatched _ _ _ hn hp]

theorem FiringForm.nullPass (h : FiringForm m n f s o) (hn : s.cur.anyNull = true) (hp : f.pm = 3) (hown : ¬ ownNullPass m n)
    (hl : ¬ (f.tag = 5 ∧ s.levelFull ⟨s.cur, f⟩ = true)) :
    o = .next (finished f s ((s.consume s.cur).nullPass ⟨s.cur, f⟩ (nullKind m n) (dests f))) := by
  cases h with
  | plain regs eff _ => rw [State.fire, fireWith_nullPass _ _ _ hn hp hl]
  | acquiring regs eff =>
    rw [fireAcquiring_of_not_live _ _ _ _ (Or.inl hn), State.fire, fireWith_nullPass _ _ _ hn hp hl]
  | own regs nullEff eff h _ => exact absurd h hown

theorem FiringForm.boundary (h : FiringForm m n f s o) (hl : s.levelFull ⟨s.cur, f⟩ = true)
    (hfire : (s.cur.anyNull = true ∧ f.pm = 3 ∧ f.tag = 5) ∨
      (s.cur.anyNull = false ∧ predOk f s.cur.stTag = true ∧ (f.tag = 5 ∨ acquires m n))) :
    o = .next ((s.askBoundary (s.regionCtx s.cur.region) 0).offerAgain s.cur) := by
  have htag (ht : f.tag = 5) (regs : List Nat) (nullEff eff : Job → State → State) : s.fireWith f regs nullEff eff =
      (s.askBoundary (s.regionCtx s.cur.region) 0).offerAgain s.cur := by
    refine fireWith_boundary regs nullEff eff ?_ ht hl
    obtain ⟨hn, hp, -⟩ | ⟨hn, hp, -⟩ := hfire <;> simp [Firing.fires, hn, hp]
  have ht (h : ¬ acquires m n) : f.tag = 5 := by
    obtain ⟨-, -, ht⟩ | ⟨-, -, ht⟩ := hfire
    · exact ht
    · exact ht.resolve_right h
  cases h with
  | plain regs eff h => rw [State.fire, htag (ht h)]
  | own regs nullEff eff _ h => rw [htag (ht h)]
  | acquiring regs eff =>
    obtain ⟨hn, -, ht⟩ | ⟨hn, hp, -⟩ := hfire
    · rw [fireAcquiring_of_not_live _ _ _ _ (Or.inl hn), State.fire, htag ht]
    · rw [fireAcquiring_boundary _ _ _ _ hn hp hl]

end

theorem nullKind_getD (m : BitVec 6) (n : BitVec 8) (k : Kind) : (nullKind m n).getD k =
    if (0x0A ≤ m ∧ m ≤ 0x0C) ∨ (m = 0x0D ∧ 3 ≤ n) then k else if m = 0x0F then .control else .value := by
  unfold nullKind
  split_ifs <;> rfl

end Sys2Proof.Machine

open Sys2Proof Sys2Proof.Machine

/-- Settles O21: every instruction fires by the rule (`exec_firingForm`), and what the rule does with null tokens, the predicate and the
last sync level is the same in all its forms. -/
theorem firingRule : Obligations.FiringRule := by
  intro i m n f s hi c kind acq last
  have hform := exec_firingForm s hi
  have hfull : (s.levelFull ⟨s.cur, f⟩ = true) = last := propext State.levelFull_iff
  refine ⟨hform.null, fun hn hp hexit hdup hl => ?_, fun hn hp => hform.unmatched hn (predOk_eq_false hp),
    fun hl hfire => hform.boundary (hfull ▸ hl) hfire⟩
  rw [hform.nullPass hn hp (not_or.mpr ⟨hexit, hdup⟩) (hfull ▸ hl), State.nullPass, nullKind_getD]
  rfl

end

section
/-! PROOFS. The control classes (04 R88 to R92): each fires by the one rule, and its effect is an emission. -/

namespace Sys2Proof.Machine

/-- A set that fires emits the value of its class. -/
theorem fireValue_next {f : Fields} {s u : State} (h : Fires f (sregDests f) s u) (val : Job → State → Bytes) :
    s.fireValue f val = finished f s ((u.consume s.cur).emit2 ⟨s.cur, f⟩ .value (val ⟨s.cur, f⟩ u)) :=
  fire_next h _ _ _

/-! ### Bits of the literal and of a condition -/

theorem condBit_eq_getLsbD (b : Bytes) : condBit b = (byteAt b 0).getLsbD 0 := rfl

theorem Fields.litBits_zero (f : Fields) (n : Nat) : f.litBits 0 n = f.lit.toNat % 2 ^ n := by
  simp [Fields.litBits, fieldOf, bitsN]

theorem invOf_eq_getLsbD (f : Fields) : invOf f = f.lit.getLsbD 0 := by
  rw [invOf, Fields.litBits_zero, BitVec.getLsbD, Nat.testBit_zero]
  rfl

theorem dupDests_eq (f : Fields) : dupDests f = [f.dstA.toNat, f.dstB.toNat] ++ [f.lit.toNat % 128, f.lit.toNat / 256 % 128] := by
  rw [dupDests, Fields.litBits_zero]
  rfl

end Sys2Proof.Machine

open Sys2Proof Sys2Proof.Machine

/-- Settles O22: a set that fires runs the emission of its class (`fire_next`), one with a null token the null-pass (`fireWith_nullPass`). -/
theorem controlResults : Obligations.ControlResults := by
  intro f s u inv c st a b regs both put way one
  have hinv : invOf f = inv := invOf_eq_getLsbD f
  have hc (v : State) : (condBit (opB v ⟨v.cur, f⟩) ^^ invOf f) = c v := by rw [hinv]; rfl
  have hb : (condBit (opB u ⟨s.cur, f⟩) ^^ invOf f) = (((byteAt b 0).getLsbD 0) ^^ inv) := by rw [hinv]; rfl
  refine ⟨?steer, ?route, ?nullify, ⟨?dup, ?dupNull⟩, fun h => ?both⟩
  case steer =>
    intro h
    rw [← hc] at h
    rw [← hb]
    exact congrArg Host.Outcome.next (fire_next h _ _ _)
  case route =>
    intro h
    rw [← hinv] at h ⊢
    exact congrArg Host.Outcome.next (fire_next h _ _ _)
  case nullify =>
    intro h
    rw [← hc] at h
    rw [← hb]
    exact congrArg Host.Outcome.next (fire_next h _ _ _)
  case dup =>
    rw [← dupDests_eq]
    exact fun h => congrArg Host.Outcome.next (fire_next h _ _ _)
  case dupNull =>
    rw [← dupDests_eq]
    exact fun hn hp hl => congrArg Host.Outcome.next (fireWith_nullPass _ _ _ hn hp hl)
  case both =>
    have hfire (kind : Option Kind) (nd : List Nat) (eff : Job → State → State) :
        s.fire f kind nd (regs both) eff = finished f s (eff ⟨s.cur, f⟩ u) := fire_next h kind nd eff
    refine ⟨?sel, ?merge, ?mergeo, ?gate, ?getit, ?getfr, ?getph, ?setit, ?setph⟩
    case sel => rw [← hinv]; exact congrArg Host.Outcome.next (hfire _ _ _)
    case setit => rw [leNat_sliceB, ← Fields.litBits_zero]; exact congrArg Host.Outcome.next (hfire _ _ _)
    case setph => rw [leNat_sliceB, ← Fields.litBits_zero]; exact congrArg Host.Outcome.next (hfire _ _ _)
    case getit | getfr | getph => exact congrArg Host.Outcome.next (fireValue_next h _)
    all_goals exact congrArg Host.Outcome.next (hfire _ _ _)

end

section
/-! PROOFS. The end of a block pass (05 R105, R107, R116): exit tokens wait for the end of the cycle, the one of the lowest exit commits. -/

namespace Sys2Proof.Machine

/-! ### Bits of a register -/

theorem withBit_eq_or {w : Nat} (v : BitVec w) (i : Nat) : withBit v i = v ||| BitVec.twoPow w i := by
  have hfield : withBit v i = BitVec.ofNat w (v.toNat - v.toNat / 2 ^ i % 2 * 2 ^ i + 2 ^ i) := by
    simp [withBit, withField, setBitsN, bitsN]
  have hbit : v.toNat / 2 ^ i % 2 = (v.getLsbD i).toNat := by
    rw [BitVec.getLsbD, Nat.toNat_testBit]
  rw [hfield, hbit]
  cases hi : v.getLsbD i with
  | true =>
    have hle : 2 ^ i ≤ v.toNat := Nat.ge_two_pow_of_testBit hi
    have hor : v ||| BitVec.twoPow w i = v := by
      ext k hk
      rw [BitVec.getElem_or, BitVec.getElem_twoPow]
      by_cases hki : k = i
      · rw [← BitVec.getLsbD_eq_getElem, hki, hi]; rfl
      · simp [hki]
    rw [hor, Bool.toNat_true, Nat.one_mul, Nat.sub_add_cancel hle, BitVec.ofNat_toNat, BitVec.setWidth_eq]
  | false =>
    have hand : v &&& BitVec.twoPow w i = 0#w := by rw [BitVec.and_twoPow, hi]; rfl
    rw [← BitVec.add_eq_or_of_and_eq_zero _ _ hand]
    exact BitVec.eq_of_toNat_eq (by simp)

theorem withBit_getLsbD_self {w i : Nat} (v : BitVec w) (h : i < w) : (withBit v i).getLsbD i = true := by
  simp [withBit_eq_or, h]

/-- A bit set leaves the bits that are set. -/
theorem withBit_getLsbD_of_set {w k : Nat} {v : BitVec w} (i : Nat) (h : v.getLsbD k = true) : (withBit v i).getLsbD k = true := by
  simp [withBit_eq_or, h]

/-! ### Tokens counted -/

/-- From `s` to `s'` tokens of a tile are counted as sent and received (06 R132, R134) and bits of CTX_STATUS are set; what else of the
tile, and the events and ready sets, stay. -/
structure Counts (t : TileId) (s s' : State) : Prop where
  tile : ∃ m n, s'.tile t = { s.tile t with sent := m, recv := n }
  agenda : s'.agenda = s.agenda
  ready : s'.ready = s.ready
  regionCtx : ∀ r, s'.regionCtx r = s.regionCtx r
  status : ∀ c d k, (s.cd c d).status.getLsbD k = true → (s'.cd c d).status.getLsbD k = true

theorem Counts.refl (t : TileId) (s : State) : Counts t s s := ⟨⟨_, _, rfl⟩, rfl, rfl, fun _ => rfl, fun _ _ _ h => h⟩

theorem Counts.trans {t : TileId} {s s' s'' : State} (h : Counts t s s') (h' : Counts t s' s'') : Counts t s s'' where
  tile := by
    obtain ⟨m, n, hm⟩ := h.tile
    obtain ⟨m', n', hm'⟩ := h'.tile
    exact ⟨m', n', by rw [hm', hm]⟩
  agenda := h'.agenda.trans h.agenda
  ready := h'.ready.trans h.ready
  regionCtx r := (h'.regionCtx r).trans (h.regionCtx r)
  status c d k hk := h'.status c d k (h.status c d k hk)

theorem Counts.foldl {α : Type} {t : TileId} {f : State → α → State} (l : List α) (h : ∀ s, ∀ a ∈ l, Counts t s (f s a)) (s : State) :
    Counts t s (l.foldl f s) :=
  List.foldlRecOn l f (Counts.refl t s) (fun _ hs a ha => hs.trans (h _ a ha))

theorem Counts.ctxOf {t : TileId} {s s' : State} (h : Counts t s s') : s'.ctxOf t = s.ctxOf t := by
  obtain ⟨m, n, hm⟩ := h.tile
  rw [State.ctxOf, hm, h.regionCtx]
  rfl

/-- A change of what a context holds on a die leaves the set bits of CTX_STATUS if it does so there. -/
theorem State.modCd_status {s : State} {c d k : Nat} {g : CtxDie → CtxDie} (e n : Nat)
    (hg : ∀ x : CtxDie, x.status.getLsbD k = true → (g x).status.getLsbD k = true)
    (h : (s.cd e n).status.getLsbD k = true) : ((s.modCd c d g).cd e n).status.getLsbD k = true := by
  by_cases hkey : cdKey e n = cdKey c d
  · have hself : (s.modCd c d g).cd e n = g (s.cd e n) := by simp [State.modCd, State.cd, hkey]
    rw [hself]
    exact hg _ h
  · rw [State.modCd_cd_ne _ _ _ _ _ _ hkey]
    exact h

theorem counts_modCd {c d : Nat} {g : CtxDie → CtxDie}
    (hg : ∀ (x : CtxDie) (k : Nat), x.status.getLsbD k = true → (g x).status.getLsbD k = true) (s : State) (t : TileId) :
    Counts t s (s.modCd c d g) where
  tile := ⟨_, _, rfl⟩
  agenda := rfl
  ready := rfl
  regionCtx _ := rfl
  status e n k := State.modCd_status e n (hg · k)

theorem counts_setStatus (s : State) (t : TileId) (c d bit : Nat) : Counts t s (s.setStatus c d bit) :=
  counts_modCd (fun _ _ => withBit_getLsbD_of_set bit) s t

theorem counts_modTile {t : TileId} {g : Tile → Tile} (s : State) (hg : ∃ m n, g (s.tile t) = { s.tile t with sent := m, recv := n }) :
    Counts t s (s.modTile t g) where
  tile := by rwa [State.modTile_tile_self]
  agenda := rfl
  ready := rfl
  regionCtx _ := rfl
  status _ _ _ h := h

theorem State.modRegion_find (s : State) (r k : Nat) (g : Region → Region) :
    (s.modRegion r g).region? k = if k = r then (s.region? r).map g else s.region? k := by
  split
  next h => rw [h, State.modRegion_region_self]
  next h =>
    simp only [State.modRegion, State.region?, NMap.alter]
    split
    · exact NMap.find_put_ne _ _ h
    · rfl

theorem counts_modRegion {g : Region → Region} (hg : ∀ x, (g x).launch = x.launch) (s : State) (t : TileId) (r : Nat) :
    Counts t s (s.modRegion r g) where
  tile := ⟨_, _, rfl⟩
  agenda := rfl
  ready := rfl
  regionCtx k := by
    rw [State.regionCtx, State.modRegion_find, State.regionCtx]
    split
    next h => subst h; cases s.region? k <;> simp [hg]
    next => rfl
  status _ _ _ h := h

theorem counts_countRecv (s : State) (t : TileId) (ph : BitVec 8) (n : Nat) : Counts t s (s.countRecv t ph n) := by
  unfold State.countRecv
  refine Counts.trans ?_ (counts_modCd ?_ _ t)
  · exact counts_modTile s ⟨_, _, rfl⟩
  · exact fun _ _ h => h

theorem counts_countSent (s : State) (t : TileId) (ph : BitVec 8) (n : Nat) : Counts t s (s.countSent t ph n) := by
  unfold State.countSent
  refine Counts.trans (Counts.trans ?_ (counts_modRegion ?_ _ t _)) (counts_modCd ?_ _ t)
  · exact counts_modTile s ⟨_, _, rfl⟩
  · exact fun _ => rfl
  · exact fun _ _ h => h

theorem counts_consume (s : State) (fi : Firing) : Counts fi.at_ s (s.consume fi) := by
  unfold State.consume
  split
  · exact Counts.refl _ s
  · exact Counts.foldl _ (fun s ph _ => counts_countRecv s _ ph 1) s

theorem counts_discardTok (s : State) (t : TileId) (tok : Token) : Counts t s (s.discardTok t tok) :=
  (counts_countSent s t _ 1).trans (counts_countRecv _ t _ 1)

theorem counts_dropEffect (s : State) (t : TileId) (e : Effect) : Counts t s (s.dropEffect t e) := by
  cases e with
  | chan | exit => exact counts_countRecv s t _ 1
  | spawn j kids => exact Counts.foldl kids (fun s k _ => counts_countRecv s t _ 1) s
  | stl | store | copy | rst => exact Counts.refl t s

/-! ### Exit tokens of the cycle -/

/-- A pass with more exit tokens, of the passes of a number. -/
def addExits (id : Nat) (es : List ExitTok) (q : Pass) : Pass := if q.id = id then { q with exits := q.exits ++ es } else q

theorem addExits_id (id : Nat) (es : List ExitTok) (q : Pass) : (addExits id es q).id = q.id := by
  unfold addExits
  split <;> rfl

theorem find_map_addExits {ps : List Pass} {id : Nat} {p : Pass} (es : List ExitTok) (h : ps.find? (fun q => q.id = id) = some p) :
    (ps.map (addExits p.id es)).find? (fun q => q.id = id) = some { p with exits := p.exits ++ es } := by
  have hcomp : ((fun q : Pass => decide (q.id = id)) ∘ addExits p.id es) = fun q => decide (q.id = id) :=
    funext fun q => by rw [Function.comp_apply, addExits_id]
  rw [List.find?_map, hcomp, h, Option.map_some, addExits, if_pos rfl]

/-- What a token to exits adds to the exit tokens of a pass. -/
def exitToks (j : Job) (rel keep : Bool) (tok : Token) (xs : List Nat) : List ExitTok :=
  xs.map (fun x => ⟨x, .exit x tok rel (dExit j.fi.desc x) (srcKey j.fi), keep⟩)

section
variable {s : State} {j : Job} {rel keep : Bool} {x : Nat} {xs : List Nat} {tok : Token} {p : Pass}

theorem State.sendExits_overfull (hp : (s.tile j.fi.at_).pass? j.fi.inst = some p) (hkeep : keep = true) (hfirst : p.exits = [])
    (hquota : p.quota ≤ p.held.length) : s.sendExits j rel keep (x :: xs) tok = { s with overfull := true } := by
  simp [State.sendExits, hp, hkeep, hfirst, hquota]

theorem State.sendExits_joins (hp : (s.tile j.fi.at_).pass? j.fi.inst = some p)
    (hroom : keep = true → p.exits = [] → p.held.length < p.quota) :
    s.sendExits j rel keep (x :: xs) tok = ((s.countSent j.fi.at_ tok.tag.phase (x :: xs).length).modTile j.fi.at_ (fun y => { y with
      passes := y.passes.map (addExits p.id (exitToks j rel keep tok (x :: xs))) })).touch j.fi.at_ := by
  have hno : ¬ (keep && p.exits.isEmpty && Decidable.decide (p.held.length ≥ p.quota)) = true := by
    simp only [Bool.and_eq_true, List.isEmpty_iff, decide_eq_true_eq, not_and, not_le]
    exact fun ⟨hk, he⟩ => hroom hk he
  simp only [State.sendExits, hp, List.isEmpty_cons, Bool.false_eq_true, if_false, if_neg hno]
  rfl

theorem State.sendExits_closed (hp : (s.tile j.fi.at_).pass? j.fi.inst = none) :
    s.sendExits j rel keep (x :: xs) tok =
      ((x :: xs).foldl (fun s _ => s.discardTok j.fi.at_ tok) s).setStatus (s.ctxOf j.fi.at_) j.fi.at_.die 1 := by
  simp only [State.sendExits, hp, List.isEmpty_cons, Bool.false_eq_true, if_false]

end

/-! ### The exit that commits -/

theorem minBy_mem {α : Type} (key : α → Nat) {l : List α} {y : α} (h : minBy key l = some y) : y ∈ l := by
  induction l generalizing y with
  | nil => cases h
  | cons x xs ih =>
    rw [minBy] at h
    split at h
    · cases h; exact List.mem_cons_self
    next z hz =>
      split at h <;> cases h
      · exact List.mem_cons_of_mem x (ih hz)
      · exact List.mem_cons_self

/-- The first of the elements with the smallest key. -/
theorem minBy_append_cons {α : Type} (key : α → Nat) {xs ys : List α} {x : α} (hxs : ∀ y ∈ xs, key x < key y)
    (hys : ∀ y ∈ ys, key x ≤ key y) : minBy key (xs ++ x :: ys) = some x := by
  induction xs with
  | nil =>
    rw [List.nil_append, minBy]
    split
    · rfl
    next y hy => exact if_neg (not_lt.mpr (hys y (minBy_mem key hy)))
  | cons a xs ih =>
    obtain ⟨ha, hxs⟩ := List.forall_mem_cons.mp hxs
    rw [List.cons_append, minBy, ih hxs]
    exact if_pos ha

theorem removeFirst_append_cons {α : Type} {p : α → Bool} {xs ys : List α} {x : α} (hxs : ∀ y ∈ xs, p y = false) (hx : p x = true) :
    removeFirst p (xs ++ x :: ys) = xs ++ ys := by
  induction xs with
  | nil => simp [removeFirst, hx]
  | cons a xs ih =>
    obtain ⟨ha, hxs⟩ := List.forall_mem_cons.mp hxs
    simp [removeFirst, ha, ih hxs]

/-! ### A pass closes -/

theorem State.agenda_subset_due (s : State) (e : Event) : s.agenda ⊆ (s.due e).agenda := by
  unfold State.due
  split
  · exact List.Subset.refl _
  · exact List.subset_append_left _ _

/-- What is left of a pass waits, in an entry or as a set. -/
def State.passLeft (s : State) (t : TileId) (id : Nat) : Bool :=
  (s.tile t).entries.any (fun e => e.inst = id) || s.ready.any (fun q => q.at_ = t && q.inst = id)

/-- A pass swept: its tokens are counted, its entries and sets go, BLKLEFT is set where there were any. -/
structure Swept (t : TileId) (id : Nat) (s s' : State) : Prop where
  tile : ∃ m n, s'.tile t = { s.tile t with sent := m, recv := n, entries := (s.tile t).entries.filter (fun e => e.inst ≠ id) }
  agenda : s'.agenda = s.agenda
  ready : s'.ready = s.ready.filter (fun q => !(q.at_ = t && q.inst = id))
  status : ∀ c d k, (s.cd c d).status.getLsbD k = true → (s'.cd c d).status.getLsbD k = true
  left : s.passLeft t id = true → (s'.cd (s.ctxOf t) t.die).status.getLsbD 2 = true

theorem swept_sweepPass (s : State) (t : TileId) (id : Nat) : Swept t id s (s.sweepPass t id) := by
  let left := (s.tile t).entries.filter (fun e => e.inst = id)
  let sets := s.ready.filter (fun fi => fi.at_ = t && fi.inst = id)
  let s1 := if left.isEmpty && sets.isEmpty then s else s.setStatus (s.ctxOf t) t.die 2
  let s2 := sets.foldl (fun s fi => s.consume fi) (left.foldl (fun s e => e.phases.foldl (fun s ph => s.countRecv t ph 1) s) s1)
  have h1 : Counts t s s1 := by
    dsimp only [s1]
    split
    · exact Counts.refl t s
    · exact counts_setStatus s t _ _ _
  have hleft : Counts t s1 (left.foldl (fun s e => e.phases.foldl (fun s ph => s.countRecv t ph 1) s) s1) :=
    Counts.foldl left (fun s e _ => Counts.foldl e.phases (fun s ph _ => counts_countRecv s t ph 1) s) s1
  have hsets : Counts t _ s2 := Counts.foldl sets (fun s fi hfi => by
    have hat : fi.at_ = t := by
      have := (List.mem_filter.mp hfi).2
      simp only [Bool.and_eq_true, decide_eq_true_eq] at this
      exact this.1
    exact hat ▸ counts_consume s fi) _
  have h12 : Counts t s1 s2 := hleft.trans hsets
  have h2 : Counts t s s2 := h1.trans h12
  have htile : (s.sweepPass t id).tile t =
      (s2.modTile t (fun x => { x with entries := x.entries.filter (fun e => e.inst ≠ id) })).tile t := rfl
  have hready : (s.sweepPass t id).ready = s2.ready.filter (fun fi => !(fi.at_ = t && fi.inst = id)) := rfl
  obtain ⟨m, n, hm⟩ := h2.tile
  refine ⟨⟨m, n, ?tile⟩, h2.agenda, ?ready, h2.status, fun hany => h12.status _ _ _ ?left⟩
  case tile => rw [htile, State.modTile_tile_self, hm]
  case ready => rw [hready, h2.ready]
  case left =>
    have hne : ¬ (left.isEmpty && sets.isEmpty) = true := by
      simp only [State.passLeft, Bool.or_eq_true, List.any_eq_true] at hany
      simp only [Bool.and_eq_true, List.isEmpty_iff, not_and_or]
      obtain ⟨e, he, hid⟩ | ⟨q, hq, hid⟩ := hany
      · exact Or.inl (List.ne_nil_of_mem (List.mem_filter.mpr ⟨he, hid⟩))
      · exact Or.inr (List.ne_nil_of_mem (List.mem_filter.mpr ⟨hq, hid⟩))
    rw [show s1 = s.setStatus (s.ctxOf t) t.die 2 from if_neg hne, State.setStatus_status]
    exact withBit_getLsbD_self _ (by decide)

/-- What a tile's pass holds when it commits by an exit token: its effects, the token last; none but the token for an abort's (05 R107). -/
def commitDrain (p : Pass) (x : ExitTok) : Drain := ⟨p.id, (if x.keep then p.held else []) ++ [x.eff], false⟩

/-- An ordinary pass has been committed by an exit token. -/
structure Committed (t : TileId) (p : Pass) (x : ExitTok) (s s' : State) : Prop where
  passes : (s'.tile t).passes = (s.tile t).passes.filter (fun q => q.id ≠ p.id)
  drains : (s'.tile t).drains = (s.tile t).drains ++ [commitDrain p x]
  entries : (s'.tile t).entries = (s.tile t).entries.filter (fun e => e.inst ≠ p.id)
  due : .commitDrain t ∈ s'.agenda
  ready : s'.ready = s.ready.filter (fun q => !(q.at_ = t && q.inst = p.id))
  status : ∀ c d k, (s.cd c d).status.getLsbD k = true → (s'.cd c d).status.getLsbD k = true
  left : s.passLeft t p.id = true → (s'.cd (s.ctxOf t) t.die).status.getLsbD 2 = true

theorem committed_commitPass {p : Pass} (hp : p.handler = false) (s : State) (t : TileId) (x : ExitTok) :
    Committed t p x s (s.commitPass t p x) := by
  let s1 := if x.keep then s else p.held.foldl (fun s e => s.dropEffect t e) s
  have h1 : Counts t s s1 := by
    dsimp only [s1]
    split
    · exact Counts.refl t s
    · exact Counts.foldl p.held (fun s e _ => counts_dropEffect s t e) s
  let s2 := s1.modTile t (fun y => { y with passes := y.passes.filter (fun q => q.id ≠ p.id), drains := y.drains ++ [commitDrain p x] })
  have hs := swept_sweepPass s2 t p.id
  have heq : s.commitPass t p x =
      (((s2.sweepPass t p.id).due (.commitDrain t)).due (.instanceAdmit t)).due (.schedulerDecision t) := by
    rw [State.commitPass, hp]
    rfl
  obtain ⟨m, n, hm⟩ := h1.tile
  obtain ⟨m', n', hm'⟩ := hs.tile
  have htile : (s.commitPass t p x).tile t = { s.tile t with
      sent := m', recv := n', passes := (s.tile t).passes.filter (fun q => q.id ≠ p.id), drains := (s.tile t).drains ++ [commitDrain p x]
      entries := (s.tile t).entries.filter (fun e => e.inst ≠ p.id) } := by
    rw [heq, State.due_tile, State.due_tile, State.due_tile, hm', State.modTile_tile_self, hm]
  refine ⟨congrArg Tile.passes htile, congrArg Tile.drains htile, congrArg Tile.entries htile, ?due, ?ready, ?status, ?left⟩
  all_goals rw [heq]
  case due => exact State.agenda_subset_due _ _ (State.agenda_subset_due _ _ (State.mem_due _ _))
  case ready =>
    rw [State.due_ready, State.due_ready, State.due_ready, hs.ready]
    exact congrArg _ h1.ready
  case status =>
    intro c d k hk
    rw [State.due_cd, State.due_cd, State.due_cd]
    exact hs.status c d k (h1.status c d k hk)
  case left =>
    intro hany
    rw [State.due_cd, State.due_cd, State.due_cd, ← h1.ctxOf]
    have h2 : s2.ctxOf t = s1.ctxOf t := by simp [s2, State.ctxOf]
    rw [← h2]
    refine hs.left ?_
    simpa only [State.passLeft, s2, State.modTile_tile_self, State.modTile_ready, hm, h1.ready] using hany

/-- The exit tokens of a pass but the one that commits it, discarded: EXIT2 is set where there are any (05 R105). -/
def State.dropExits (s : State) (t : TileId) (rest : List ExitTok) : State :=
  if rest.isEmpty then s else (rest.foldl (fun s y => s.dropEffect t y.eff) s).setStatus (s.ctxOf t) t.die 1

theorem counts_dropExits (s : State) (t : TileId) (rest : List ExitTok) : Counts t s (s.dropExits t rest) := by
  unfold State.dropExits
  split
  · exact Counts.refl t s
  · exact (Counts.foldl rest (fun s y _ => counts_dropEffect s t y.eff) s).trans (counts_setStatus _ t _ _ _)

theorem State.dropExits_status {s : State} {t : TileId} {rest : List ExitTok} (h : rest ≠ []) :
    ((s.dropExits t rest).cd (s.ctxOf t) t.die).status.getLsbD 1 = true := by
  rw [State.dropExits, if_neg (by simpa using h), State.setStatus_status]
  exact withBit_getLsbD_self _ (by decide)

/-- The exit token that commits a pass: of the lowest exit, the earlier of two to one exit (log entry 45). -/
theorem State.closePass_eq {p : Pass} {xs ys : List ExitTok} {x : ExitTok} (h : p.exits = xs ++ x :: ys)
    (hxs : ∀ y ∈ xs, x.exit < y.exit) (hys : ∀ y ∈ ys, x.exit ≤ y.exit) (s : State) (t : TileId) :
    s.closePass t p = (s.dropExits t (xs ++ ys)).commitPass t p x := by
  have hrest : removeFirst (fun y => Decidable.decide (y = x)) p.exits = xs ++ ys := by
    rw [h]
    refine removeFirst_append_cons (fun y hy => decide_eq_false ?_) (decide_eq_true rfl)
    rintro rfl
    exact lt_irrefl _ (hxs y hy)
  rw [State.closePass, h, minBy_append_cons _ hxs hys, ← h]
  dsimp only
  rw [hrest]
  rfl

end Sys2Proof.Machine

open Sys2Proof Sys2Proof.Machine

/-- Settles O29: exit tokens join those of their pass (`State.sendExits_joins`); as the cycle ends the token of the lowest exit is picked
(`State.closePass_eq`), the others are discarded and the pass commits (`committed_commitPass`). -/
theorem passCommits : Obligations.PassCommits := by
  constructor
  · intro s f fi keep x xs tok j t s'
    refine ⟨fun p hp hroom => ?joins, fun p hp hkeep hfirst hquota => State.sendExits_overfull (j := j) hp hkeep hfirst hquota,
      fun hp => ?closed⟩
    case joins =>
      have heq : s' = _ := State.sendExits_joins (j := j) hp hroom
      have hc := counts_countSent s t tok.tag.phase (x :: xs).length
      obtain ⟨m, n, hm⟩ := hc.tile
      have he := (emits_modTile (s.countSent t tok.tag.phase (x :: xs).length) t (fun y => { y with
        passes := y.passes.map (addExits p.id (exitToks j false keep tok (x :: xs))) })).trans (emits_touch _ t)
      rw [heq]
      refine ⟨?_, State.mem_touch _ _, ?_, he.ready.trans hc.ready, ?_⟩
      · rw [he.tile, hm]
        exact find_map_addExits _ hp
      · rw [he.agenda, hc.agenda, List.append_nil, List.append_nil]
      · rw [he.tile, hm]
        rfl
    case closed =>
      have heq : s' = _ := State.sendExits_closed (j := j) hp
      have hc : Counts t s s' := heq ▸ (Counts.foldl _ (fun s _ _ => counts_discardTok s t tok) s).trans (counts_setStatus _ t _ _ 1)
      obtain ⟨m, n, hm⟩ := hc.tile
      refine ⟨?_, hc.agenda, by rw [hm], by rw [hm]⟩
      rw [heq]
      exact (congrArg (·.getLsbD 1) (State.setStatus_status _ _ _ _)).trans (withBit_getLsbD_self _ (by decide))
  · intro s t p xs ys x h hxs hys hp c s'
    have heq : s' = _ := State.closePass_eq h hxs hys s t
    have hd := counts_dropExits s t (xs ++ ys)
    have hc := committed_commitPass hp (s.dropExits t (xs ++ ys)) t x
    obtain ⟨m, n, hm⟩ := hd.tile
    rw [heq]
    refine ⟨?_, ?_, hc.due, ?_, ?_, fun hany => ?_, fun hne => hc.status _ _ _ (State.dropExits_status hne)⟩
    · rw [hc.passes, hm]
    · rw [hc.drains, hm]
      rfl
    · rw [hc.entries, hm]
    · rw [hc.ready, hd.ready]
    · have hleft : (s.dropExits t (xs ++ ys)).passLeft t p.id = true := by
        rw [State.passLeft, hm, hd.ready]
        exact hany
      have := hc.left hleft
      rwa [hd.ctxOf] at this

end

section
/-! PROOFS. What a delivery of a set to the firing rule changes (04 R77, 19 R386, R391): the set stands ready, and of its tile only the
histograms of its slots can change. -/

namespace Sys2Proof.Machine

/-! ### What lies beside the tiles -/

/-- From `s` to `s'` no tile and no ready set changes and no event is lost: memory, contexts and dies may change. -/
structure Beside (s s' : State) : Prop where
  tiles : s'.tiles = s.tiles
  ready : s'.ready = s.ready
  agenda : s.agenda ⊆ s'.agenda

theorem Beside.refl (s : State) : Beside s s := ⟨rfl, rfl, List.Subset.refl _⟩

theorem Beside.trans {s s' s'' : State} (h : Beside s s') (h' : Beside s' s'') : Beside s s'' :=
  ⟨h'.tiles.trans h.tiles, h'.ready.trans h.ready, List.Subset.trans h.agenda h'.agenda⟩

theorem Beside.tile {s s' : State} (h : Beside s s') (t : TileId) : s'.tile t = s.tile t := by
  rw [State.tile, h.tiles]
  rfl

theorem Beside.foldl {α : Type} {f : State → α → State} (l : List α) (h : ∀ s a, Beside s (f s a)) (s : State) : Beside s (l.foldl f s) :=
  List.foldlRecOn l f (Beside.refl s) (fun _ hs a _ => hs.trans (h _ a))

theorem beside_ite {c : Prop} [Decidable c] {s a b : State} (ha : Beside s a) (hb : Beside s b) : Beside s (if c then a else b) := by
  split
  · exact ha
  · exact hb

theorem beside_modCd (s : State) (c d : Nat) (g : CtxDie → CtxDie) : Beside s (s.modCd c d g) := ⟨rfl, rfl, List.Subset.refl _⟩

theorem beside_modCtx (s : State) (c : Nat) (g : Ctx → Ctx) : Beside s (s.modCtx c g) := ⟨rfl, rfl, List.Subset.refl _⟩

theorem beside_modDie (s : State) (d : Nat) (g : Die → Die) : Beside s (s.modDie d g) := ⟨rfl, rfl, List.Subset.refl _⟩

theorem beside_mem (s : State) (m : Memory) : Beside s { s with mem := m } := ⟨rfl, rfl, List.Subset.refl _⟩

theorem beside_hostMem (s : State) (m : Memory) : Beside s { s with hostMem := m } := ⟨rfl, rfl, List.Subset.refl _⟩

theorem beside_post (s : State) (e : Event) : Beside s (s.post e) := ⟨rfl, rfl, List.subset_append_left _ _⟩

theorem beside_writeByte (s : State) (c va : Nat) (b : Byte) : Beside s (s.writeByte c va b) := by
  unfold State.writeByte
  split
  · exact Beside.refl s
  · exact beside_ite (beside_mem s _) ((beside_mem s _).trans (beside_modCd _ _ _ _))

theorem beside_writeVa (s : State) (c va : Nat) (bs : Bytes) : Beside s (s.writeVa c va bs) :=
  Beside.foldl _ (fun s _ => beside_writeByte s c _ _) s

theorem beside_curEvent (s : State) (die typ ctx datum : Nat) (detail : Bytes) : Beside s (s.curEvent die typ ctx datum detail) :=
  beside_ite ((beside_hostMem s _).trans (beside_modDie _ _ _)) (beside_ite (beside_modDie s _ _) (beside_modDie s _ _))

theorem beside_catalogue (s : State) (c d typ code : Nat) (fi : Option Firing) (data : Bytes) :
    Beside s (s.catalogue c d typ code fi data) :=
  beside_ite (Beside.refl s) (beside_modCd s _ _ _)

theorem beside_preciseStop (s : State) (c : Nat) (fi : Firing) (n : Nat) : Beside s (s.preciseStop c fi n) :=
  ((beside_modCtx s c _).trans (beside_curEvent _ _ _ _ _ _)).trans (beside_catalogue _ _ _ _ _ _ _)

theorem beside_askBoundary (s : State) (c cause : Nat) : Beside s (s.askBoundary c cause) :=
  beside_ite (Beside.refl s) (beside_post s _)

theorem beside_spillCopy (s : State) (c va : Nat) : Beside s (s.spillCopy c va) := by
  unfold State.spillCopy
  split
  · exact Beside.refl s
  · exact beside_ite (Beside.refl s) ((beside_ite (beside_askBoundary s c 2) (Beside.refl s)).trans (beside_modCd _ _ _ _))

/-! ### Histograms -/

/-- From `s` to `s'` a tile keeps all but the contents of its slots. -/
def Files (t : TileId) (s s' : State) : Prop :=
  ∃ sl, s'.tile t = { s.tile t with slots := sl } ∧ sl.length = (s.tile t).slots.length

theorem Beside.files {s s' : State} (h : Beside s s') (t : TileId) : Files t s s' := ⟨(s.tile t).slots, h.tile t, rfl⟩

theorem Files.trans {t : TileId} {s s' s'' : State} (h : Files t s s') (h' : Files t s' s'') : Files t s s'' := by
  obtain ⟨sl, hs, hl⟩ := h
  obtain ⟨sl', hs', hl'⟩ := h'
  exact ⟨sl', by rw [hs', hs], by rw [hl', hs, hl]⟩

theorem files_setSlot (s : State) (t : TileId) (k : Nat) (g : Tile → Slot) :
    Files t s (s.modTile t (fun x => { x with slots := setAt x.slots k (g x) })) :=
  ⟨_, State.modTile_tile_self _ _ _, List.length_set⟩

theorem files_histSpill (s : State) (t : TileId) (slot station : Nat) : Files t s (s.histSpill t slot station) := by
  unfold State.histSpill
  dsimp only
  split
  · exact (Beside.refl s).files t
  · refine Files.trans (Beside.files ?_ t) (files_setSlot _ t slot _)
    refine beside_ite (beside_modCd s _ _ _) (Beside.foldl _ (fun s p => ?_) s)
    exact beside_ite (Beside.refl s) (beside_writeVa s _ _ _)

theorem files_histSpillAll (s : State) (t : TileId) (slot : Nat) : Files t s (s.histSpillAll t slot) :=
  List.foldlRecOn (List.range 32) _ ((Beside.refl s).files t) (fun _ hs n _ => hs.trans (files_histSpill _ t slot n))

theorem files_histCount (s : State) (fi : Firing) : Files fi.at_ s (s.histCount fi) := by
  unfold State.histCount
  split
  · dsimp only
    split
    · exact (Beside.refl s).files _
    · refine Files.trans ?_ (files_setSlot _ fi.at_ fi.slot _)
      split
      · exact files_histSpill s _ _ _
      · exact (Beside.refl s).files _
  · exact (Beside.refl s).files _

/-! ### A set stands ready -/

/-- A set of a tile by its slot, its station and pass, and its tokens. -/
def IsSet (t : TileId) (slot : Nat) (p : Place) (inst : Nat) (a b : Option Token) (fi : Firing) : Prop :=
  fi.at_ = t ∧ fi.slot = slot ∧ fi.block = p.block ∧ fi.station = p.station ∧ fi.inst = inst ∧ fi.tokA = a ∧ fi.tokB = b

/-- A set has been delivered in a tile: it stands ready. -/
structure Delivers (t : TileId) (isSet : Firing → Prop) (s s' : State) : Prop where
  tile : ∃ sl, s'.tile t = { s.tile t with slots := sl }
  ready : ∃ fi ∈ s'.ready, isSet fi

section
variable {t : TileId} {isSet : Firing → Prop} {s s' : State} (h : Delivers t isSet s s')
include h

theorem Delivers.entries : (s'.tile t).entries = (s.tile t).entries := by
  obtain ⟨sl, hs⟩ := h.tile
  rw [hs]

theorem Delivers.spillBuf : (s'.tile t).spillBuf = (s.tile t).spillBuf := by
  obtain ⟨sl, hs⟩ := h.tile
  rw [hs]

theorem Delivers.spilled : (s'.tile t).spilled = (s.tile t).spilled := by
  obtain ⟨sl, hs⟩ := h.tile
  rw [hs]

theorem Delivers.passes : (s'.tile t).passes = (s.tile t).passes := by
  obtain ⟨sl, hs⟩ := h.tile
  rw [hs]

end

theorem delivers_of_files {fi fi' : Firing} {isSet : Firing → Prop} {s s' s'' : State} (h : Files fi.at_ s s') (hset : isSet fi')
    (hb : Beside (s'.addReady fi') s'') : Delivers fi.at_ isSet s s'' where
  tile := by
    obtain ⟨sl, hs, -⟩ := h
    exact ⟨sl, (hb.tile _).trans hs⟩
  ready := ⟨fi', by rw [hb.ready]; exact List.mem_append_right _ (List.mem_singleton_self fi'), hset⟩

/-- A set delivered stands ready, kept back as one of a precise stop or not (19 R387). -/
theorem delivers_deliverSet {isSet : Firing → Prop} (s : State) {fi : Firing} (h : isSet fi) (h' : isSet { fi with stopped := true }) :
    Delivers fi.at_ isSet s (s.deliverSet fi) := by
  have hist := files_histCount s fi
  unfold State.deliverSet
  dsimp only
  split
  · exact delivers_of_files ((Beside.refl s).files _) h' (Beside.refl _)
  · split
    · exact delivers_of_files hist h (Beside.refl _)
    · split
      · exact delivers_of_files (hist.trans ((beside_catalogue _ _ _ _ _ _ _).files _)) h (Beside.refl _)
      · exact delivers_of_files (hist.trans ((beside_modDie _ _ _).files _)) h (beside_preciseStop _ _ _ _)

theorem delivers_mkSet (s s₀ : State) (t : TileId) (slot : Nat) (p : Place) (inst : Nat) (a b : Option Token) :
    Delivers t (IsSet t slot p inst a b) s (s.deliverSet (mkSet s₀ t slot p inst a b [])) :=
  delivers_deliverSet (fi := mkSet s₀ t slot p inst a b []) s ⟨rfl, rfl, rfl, rfl, rfl, rfl, rfl⟩ ⟨rfl, rfl, rfl, rfl, rfl, rfl, rfl⟩

end Sys2Proof.Machine

end

section
/-! PROOFS. The matching store (04 R77 to R79): what becomes of a token that is taken in. -/

namespace Sys2Proof.Machine

/-! ### Stations that pair tokens -/

/-- A station with two token sides that are paired one by one (04 R77). -/
def Tile.pairs (x : Tile) (slot n : Nat) : Prop :=
  sideIsToken (x.station slot n).1 (x.station slot n).2 false = true ∧ sideIsToken (x.station slot n).1 (x.station slot n).2 true = true
    ∧ isMerge (x.station slot n).1 = false ∧ isJoinall (x.station slot n).1 (x.station slot n).2 = false

theorem State.pairs_of_pairSlot {s : State} {a : Arrival} {slot : Nat} (h : s.pairSlot a = some slot) :
    (s.tile a.at_).slotOf a.place.block = some slot ∧ (s.tile a.at_).pairs slot a.place.station := by
  unfold State.pairSlot at h
  split at h
  · cases h
  next k hk =>
    dsimp only at h
    split at h <;> cases h
    next hc =>
      simp only [Bool.and_eq_true, Bool.not_eq_true'] at hc
      obtain ⟨⟨⟨ha, hb⟩, hm⟩, hj⟩ := hc
      exact ⟨hk, ha, hb, hm, hj⟩

theorem State.pairSlot_of_slotOf_none {s : State} {a : Arrival} (h : (s.tile a.at_).slotOf a.place.block = none) :
    s.pairSlot a = none := by
  simp only [State.pairSlot, h]

theorem Tile.pairs.sideIsToken {x : Tile} {slot n : Nat} (h : x.pairs slot n) (sideB : Bool) :
    sideIsToken (x.station slot n).1 (x.station slot n).2 sideB = true := by
  obtain ⟨ha, hb, -, -⟩ := h
  cases sideB
  · exact ha
  · exact hb

/-! ### Entries -/

/-- The entry of a token. -/
def entryOf (a : Arrival) (inst : Nat) : Entry := ⟨a.place, a.tok, a.outside, a.trap, inst, [], a.src⟩

/-- The bits of MSTORE_STAT noted: of the tile nothing else changes (04 R79, R80). -/
theorem State.noteStore_tile (s : State) (t : TileId) (dup : Bool) : ∃ m, (s.noteStore t dup).tile t = { s.tile t with mstat := m } := by
  obtain ⟨m, hm⟩ : ∃ m, (if dup then (s.modTile t (fun x => { x with mstat := withBit x.mstat 0 })).setStatus (s.ctxOf t) t.die 0
      else s).tile t = { s.tile t with mstat := m } := by
    cases dup
    · exact ⟨(s.tile t).mstat, rfl⟩
    · exact ⟨withBit (s.tile t).mstat 0, by rw [if_pos rfl, State.setStatus_tile, State.modTile_tile_self]⟩
  unfold State.noteStore
  dsimp only
  generalize (if dup then _ else s : State) = s1 at hm ⊢
  split
  · exact ⟨withBit m 1, by rw [State.modTile_tile_self, hm]⟩
  · exact ⟨m, hm⟩

/-- A token occupies an entry where one is free (04 R77 step 3). -/
theorem State.occupy_tile {s : State} {a : Arrival} (h : (s.tile a.at_).entries.length < 512) (inst : Nat) (countDup : Bool) :
    ∃ m, (s.occupy a inst countDup).tile a.at_ =
      { s.tile a.at_ with entries := (s.tile a.at_).entries ++ [entryOf a inst], mstat := m } := by
  unfold State.occupy
  dsimp only
  rw [if_neg (by omega)]
  obtain ⟨m, hm⟩ := State.noteStore_tile (s.modTile a.at_ (fun x => { x with entries := x.entries ++ [entryOf a inst] })) a.at_
    (countDup && s.sameSideWaits a)
  rw [State.modTile_tile_self] at hm
  exact ⟨m, hm⟩

/-- A token that is counted in an entry of its key: one of a JOINALL station's side B (06 R138). -/
def State.countsJoin (s : State) (a : Arrival) : Bool :=
  isJoinall (s.stationOf a.at_ a.place.block a.place.station).1 (s.stationOf a.at_ a.place.block a.place.station).2
    && a.place.sideB && !a.tok.tag.null

theorem State.wait_eq_occupy {s : State} {a : Arrival} (h : s.countsJoin a = false) : s.wait a = s.occupy a 0 true := by
  unfold State.wait
  exact if_neg (by rw [← Bool.not_eq_true] at h; exact h)

theorem State.freeEntry_tile (s : State) (t : TileId) (e : Entry) :
    (s.freeEntry t e).tile t = { s.tile t with entries := removeFirst (fun q => q = e) (s.tile t).entries } := by
  unfold State.freeEntry
  dsimp only
  split
  · exact State.modTile_tile_self _ _ _
  · rw [State.due_tile]
    exact State.modTile_tile_self _ _ _

/-! ### Tokens of a pass -/

/-- A token of an open pass is of it. -/
theorem State.takeIn_admitted {s : State} {t : TileId} {inst : Nat} (hin : inst ≠ 0) (hpass : ((s.tile t).pass? inst).isSome = true)
    (slot : Nat) (outside trap : Bool) (p : Place) (tok : Token) : s.takeIn t slot outside trap inst p tok = some (inst, s) := by
  simp [State.takeIn, hin, hpass]

/-- A token of a pass at a station that pairs, its partner waiting in an entry: the set is delivered, in the pass of side A's token. -/
theorem State.placeIn_partner {s : State} {a : Arrival} {slot : Nat} {p : Entry} (hpair : (s.tile a.at_).pairs slot a.place.station)
    (hp : (s.tile a.at_).partner a.place a.tok.tag = some p) (inst : Nat) (more : List (BitVec 8)) :
    s.placeIn a slot inst more = (s.freeEntry a.at_ p).deliverSet (mkSet (s.freeEntry a.at_ p) a.at_ slot a.place
      (if a.place.sideB then p.inst else inst) (some (if a.place.sideB then p.tok else a.tok))
      (some (if a.place.sideB then a.tok else p.tok)) []) := by
  have hside := hpair.sideIsToken a.place.sideB
  obtain ⟨ha, hb, hm, hj⟩ := hpair
  cases hs : a.place.sideB <;> simp [State.placeIn, hs ▸ hside, ha, hb, hm, hj, hp, hs]

/-- A token of a pass at a station that pairs takes an entry where it has no partner. -/
theorem State.placeIn_alone {s : State} {a : Arrival} {slot : Nat} (hpair : (s.tile a.at_).pairs slot a.place.station)
    (hp : (s.tile a.at_).partner a.place a.tok.tag = none) (inst : Nat) (more : List (BitVec 8)) :
    s.placeIn a slot inst more = s.occupy a inst true := by
  have hside := hpair.sideIsToken a.place.sideB
  obtain ⟨ha, hb, hm, hj⟩ := hpair
  simp [State.placeIn, hside, ha, hb, hm, hj, hp]

/-- A token of a pass at a station with one token side is a set by itself. -/
theorem State.placeIn_single {s : State} {a : Arrival} {slot : Nat}
    (hside : sideIsToken ((s.tile a.at_).station slot a.place.station).1 ((s.tile a.at_).station slot a.place.station).2 a.place.sideB = true)
    (hother : sideIsToken ((s.tile a.at_).station slot a.place.station).1 ((s.tile a.at_).station slot a.place.station).2 (!a.place.sideB) = false)
    (hj : isJoinall ((s.tile a.at_).station slot a.place.station).1 ((s.tile a.at_).station slot a.place.station).2 = false)
    (inst : Nat) (more : List (BitVec 8)) :
    s.placeIn a slot inst more = s.deliverSet (mkSet s a.at_ slot a.place inst
      (if a.place.sideB then none else some a.tok) (if a.place.sideB then some a.tok else none) []) := by
  cases hs : a.place.sideB <;> rw [hs] at hside hother <;> simp only [Bool.not_false, Bool.not_true] at hother <;>
    simp [State.placeIn, hside, hother, hj, hs]

/-! ### Placement -/

/-- A token whose block is not resident occupies an entry, and the scheduler is asked (04 R77, 05 R111). -/
theorem State.place_not_resident {s : State} {a : Arrival} (h : (s.tile a.at_).slotOf a.place.block = none)
    (hcount : s.countsJoin a = false) : s.place a = (s.occupy a 0 true).due (.schedulerDecision a.at_) := by
  simp only [State.place, h, State.wait_eq_occupy hcount]

/-- A token of an open pass for a resident block. -/
theorem State.place_admitted {s : State} {a : Arrival} {slot : Nat} (h : (s.tile a.at_).slotOf a.place.block = some slot)
    (hin : a.inst ≠ 0) (hpass : ((s.tile a.at_).pass? a.inst).isSome = true) : s.place a = s.placeIn a slot a.inst [] := by
  simp only [State.place, h, State.takeIn_admitted hin hpass]

theorem Tile.staleArrival_of_outside {x : Tile} {a : Arrival} (h : a.outside = true) : x.staleArrival a = false := by
  simp [Tile.staleArrival, h]

/-- A token from outside that no station pairs now is placed at once. -/
theorem State.intake_unpaired {s : State} {a : Arrival} (hout : a.outside = true) (h : s.pairSlot a = none) : s.intake a = s.place a := by
  simp [State.intake, Tile.staleArrival_of_outside hout, h]

/-- So is one whose partner waits in an entry. -/
theorem State.intake_partner {s : State} {a : Arrival} {e : Entry} (hout : a.outside = true)
    (h : (s.tile a.at_).partner a.place a.tok.tag = some e) : s.intake a = s.place a := by
  unfold State.intake
  dsimp only
  rw [Tile.staleArrival_of_outside hout, if_neg Bool.false_ne_true]
  split
  · rfl
  · rw [h]
    exact if_pos rfl

/-! ### Partners of one cycle -/

theorem State.sameCycle_at {s : State} {a b : Arrival} (h : s.sameCycle a = some b) : b.at_ = a.at_ := by
  obtain ⟨c, -, hc⟩ := List.exists_of_findSome?_eq_some h
  split at hc
  · split at hc <;> cases hc
    next hcond =>
      simp only [Bool.and_eq_true, decide_eq_true_eq] at hcond
      exact hcond.1.1
  · cases hc

/-- Two partners make a set in the pass of the side A token, here the second. -/
theorem State.pairUp_sideB {s : State} {slot : Nat} {x y : Arrival} (hx : x.place.sideB = true) (hin : y.inst ≠ 0)
    (hpass : ((s.tile y.at_).pass? y.inst).isSome = true) :
    s.pairUp slot x y = some (s.deliverSet (mkSet s y.at_ slot y.place y.inst (some y.tok) (some x.tok) [])) := by
  simp only [State.pairUp, hx, if_true, State.takeIn_admitted hin hpass]

/-- Here the first. -/
theorem State.pairUp_sideA {s : State} {slot : Nat} {x y : Arrival} (hx : x.place.sideB = false) (hin : x.inst ≠ 0)
    (hpass : ((s.tile x.at_).pass? x.inst).isSome = true) :
    s.pairUp slot x y = some (s.deliverSet (mkSet s x.at_ slot x.place x.inst (some x.tok) (some y.tok) [])) := by
  simp only [State.pairUp, hx, Bool.false_eq_true, if_false, State.takeIn_admitted hin hpass]

/-- A token with no partner of its cycle is taken into the store. -/
theorem State.arrive_alone {s : State} {a : Arrival} (h : s.pairSlot a = none ∨ s.sameCycle a = none) :
    s.arrive a = s.intake (s.stamped a) := by
  have hslot : s.pairSlot (s.stamped a) = s.pairSlot a := rfl
  have hcycle : s.sameCycle (s.stamped a) = s.sameCycle a := rfl
  unfold State.arrive
  dsimp only
  rw [hslot, hcycle]
  split
  next hs hc => rw [hs, hc] at h; simp at h
  next => rfl

/-- The state in which the partner of the same cycle has been taken in with a token. -/
def State.tookPartner (s : State) (b : Arrival) : State := { s with
  agenda := removeFirst (fun x => x = Event.tokenArrival b) s.agenda
  batch := removeFirst (fun x => x = Choice.event (.tokenArrival b)) s.batch }

/-- A token with a partner of its cycle, no other token waiting on either's side: the two make a set (04 R78). -/
theorem State.arrive_sameCycle {s : State} {a b : Arrival} {slot : Nat} (hslot : s.pairSlot a = some slot) (hcycle : s.sameCycle a = some b)
    (ha : a.outside = true) (hb : b.outside = true) (hwa : s.sameSideWaits (s.stamped a) = false) (hwb : s.sameSideWaits b = false) :
    s.arrive a = ((s.tookPartner b).pairUp slot (s.stamped a) (s.stamped b)).getD (s.intake (s.stamped a)) := by
  have hslot' : s.pairSlot (s.stamped a) = some slot := hslot
  have hcycle' : s.sameCycle (s.stamped a) = some b := hcycle
  have hsa : (s.tile (s.stamped a).at_).staleArrival (s.stamped a) = false := Tile.staleArrival_of_outside ha
  have hsb : (s.tile (s.stamped a).at_).staleArrival b = false := Tile.staleArrival_of_outside hb
  unfold State.arrive
  dsimp only
  rw [hslot', hcycle']
  dsimp only
  rw [hsa, hsb, hwa, hwb]
  rfl

end Sys2Proof.Machine

end

section
/-! PROOFS. The steps of the matching store: a token arrives, a token leaves the spill buffer, a refill, an admission (04 R77 to R85,
05 R103). -/

namespace Sys2Proof.Machine

/-! ### A token arrives -/

/-- A token for a block that is not resident waits in an entry, and the scheduler is asked (04 R77, 05 R111). -/
theorem State.place_waits {s : State} {a : Arrival} (hslot : (s.tile a.at_).slotOf a.place.block = none)
    (hlen : (s.tile a.at_).entries.length < 512) (hcount : s.countsJoin a = false) :
    (∃ m, (s.place a).tile a.at_ = { s.tile a.at_ with entries := (s.tile a.at_).entries ++ [entryOf a 0], mstat := m })
      ∧ .schedulerDecision a.at_ ∈ (s.place a).agenda := by
  obtain ⟨m, hm⟩ := State.occupy_tile hlen 0 true
  rw [State.place_not_resident hslot hcount]
  exact ⟨⟨m, by rw [State.due_tile, hm]⟩, State.mem_due _ _⟩

theorem State.arrive_not_resident {s : State} {a : Arrival} (hout : a.outside = true) (hslot : (s.tile a.at_).slotOf a.place.block = none) :
    s.arrive a = s.place (s.stamped a) := by
  have hpair := State.pairSlot_of_slotOf_none hslot
  rw [State.arrive_alone (.inl hpair)]
  exact State.intake_unpaired hout hpair

/-- A token whose partner comes in the same cycle makes a set with it, without an entry (04 R78). -/
theorem State.arrive_pair_delivers {s : State} {a b : Arrival} {slot : Nat} (hslot : s.pairSlot a = some slot)
    (hcycle : s.sameCycle a = some b) (ha : a.outside = true) (hb : b.outside = true) (hin : b.inst ≠ 0)
    (hpass : ((s.tile a.at_).pass? b.inst).isSome = true) (hside : a.place.sideB = true)
    (hwa : s.sameSideWaits (s.stamped a) = false) (hwb : s.sameSideWaits b = false) :
    Delivers a.at_ (IsSet a.at_ slot b.place b.inst (some (s.stamped b).tok) (some (s.stamped a).tok)) (s.tookPartner b) (s.arrive a) := by
  have hat := State.sameCycle_at hcycle
  rw [← hat] at hpass ⊢
  rw [State.arrive_sameCycle hslot hcycle ha hb hwa hwb,
    State.pairUp_sideB (s := s.tookPartner b) (x := s.stamped a) (y := s.stamped b) hside hin hpass, Option.getD_some]
  exact delivers_mkSet _ _ _ _ _ _ _ _

/-- A token whose partner waits in an entry makes a set with it, in the pass of side A's token (04 R77). -/
theorem State.place_partner_delivers {s : State} {a : Arrival} {slot : Nat} {e : Entry} (hslot : s.pairSlot a = some slot)
    (he : (s.tile a.at_).partner a.place a.tok.tag = some e) (hin : a.inst ≠ 0) (hpass : ((s.tile a.at_).pass? a.inst).isSome = true) :
    Delivers a.at_ (IsSet a.at_ slot a.place (if a.place.sideB then e.inst else a.inst)
      (some (if a.place.sideB then e.tok else a.tok)) (some (if a.place.sideB then a.tok else e.tok))) (s.freeEntry a.at_ e) (s.place a) := by
  obtain ⟨hres, hpair⟩ := State.pairs_of_pairSlot hslot
  rw [State.place_admitted hres hin hpass, State.placeIn_partner hpair he]
  exact delivers_mkSet _ _ _ _ _ _ _ _

theorem State.arrive_partner {s : State} {a : Arrival} {e : Entry} (hout : a.outside = true) (hcycle : s.sameCycle a = none)
    (he : (s.tile a.at_).partner a.place a.tok.tag = some e) : s.arrive a = s.place (s.stamped a) := by
  rw [State.arrive_alone (.inr hcycle)]
  exact State.intake_partner (a := s.stamped a) hout he

/-! ### A token leaves the spill buffer -/

/-- The spill buffer of a tile set to what is left of it, the next probe asked for. -/
def State.offBuf (s : State) (t : TileId) (rest : List Arrival) : State :=
  if rest.isEmpty then s.modTile t (fun x => { x with spillBuf := rest })
  else (s.modTile t (fun x => { x with spillBuf := rest })).due (.spillProbeDone t)

theorem State.offBuf_tile (s : State) (t : TileId) (rest : List Arrival) : (s.offBuf t rest).tile t = { s.tile t with spillBuf := rest } := by
  unfold State.offBuf
  split
  · exact State.modTile_tile_self _ _ _
  · rw [State.due_tile]
    exact State.modTile_tile_self _ _ _

theorem State.offBuf_regionOf (s : State) (t : TileId) (rest : List Arrival) : (s.offBuf t rest).regionOf t = s.regionOf t := by
  have hregions : (s.offBuf t rest).regions = s.regions := by
    unfold State.offBuf State.due
    split
    · rfl
    · split <;> rfl
  rw [State.regionOf, State.regionOf, State.offBuf_tile]
  exact congrArg (NMap.find · _) hregions

theorem State.offBuf_freeSpillSlot (s : State) (t : TileId) (rest : List Arrival) :
    (s.offBuf t rest).freeSpillSlot = s.freeSpillSlot := by
  unfold State.offBuf
  split
  · rfl
  · funext c base probes
    simp only [State.freeSpillSlot, State.readByte, State.phys?, State.due_page, State.due_mem]
    rfl

theorem State.bufHead_eq {s : State} {t : TileId} {a : Arrival} {rest : List Arrival} (hl : s.latched (s.ctxOf t) = false)
    (hb : (s.tile t).spillBuf = a :: rest) : s.bufHead t = some a := by
  simp only [State.bufHead, hl, hb, Bool.false_eq_true, if_false, List.head?_cons]

theorem removeFirst_head (a : Arrival) (rest : List Arrival) : removeFirst (fun b => b = a) (a :: rest) = rest := by
  simp [removeFirst]

section
variable {s : State} {t : TileId} {a : Arrival} {rest : List Arrival} (hl : s.latched (s.ctxOf t) = false)
  (hb : (s.tile t).spillBuf = a :: rest) (hout : a.outside = true)
include hl hb hout

/-- A token on its way to memory is written there. -/
theorem State.probeStep_spill (hs : a.spilling = true) : s.probeStep t = (s.offBuf t rest).spillWrite a := by
  simp only [State.probeStep, State.bufHead_eq hl hb, hb, removeFirst_head, Tile.staleArrival_of_outside hout, hs, Bool.false_eq_true,
    if_false, if_true]
  rfl

/-- A token without a partner in memory is placed. -/
theorem State.probeStep_place (hs : a.spilling = false) (hp : s.spilledPartner a = none) : s.probeStep t = (s.offBuf t rest).place a := by
  simp only [State.probeStep, State.bufHead_eq hl hb, hb, removeFirst_head, Tile.staleArrival_of_outside hout, hs, hp, Bool.false_eq_true,
    if_false]
  cases s.pairSlot a <;> rfl

/-- A partner in memory is taken back for a pair. -/
theorem State.probeStep_pair {slot : Nat} {p : Spilled} (hs : a.spilling = false) (hslot : s.pairSlot a = some slot)
    (he : (s.tile t).partner a.place a.tok.tag = none) (hp : s.spilledPartner a = some p)
    (hpo : (s.takeSpilled t p).1.outside = true) :
    s.probeStep t = ((((s.takeSpilled t p).2).offBuf t rest).pairUp slot a (s.takeSpilled t p).1).getD ((s.offBuf t rest).place a) := by
  simp only [State.probeStep, State.bufHead_eq hl hb, hb, removeFirst_head, Tile.staleArrival_of_outside hout, hs, hslot, he, hp,
    Option.isSome_none, Tile.staleArrival_of_outside hpo, Bool.false_eq_true, if_false]
  rfl

end

/-! ### Spilled tokens -/

/-- A spilled token takes the next spill number and the first free slot of its probe sequence (04 R82, R83). -/
theorem State.spillWrite_tile {s : State} {a : Arrival} {r : Region} {b k : Nat} (hr : s.regionOf a.at_ = some r)
    (hfree : s.freeSpillSlot r.launch.ctx (sliceBase r (s.tile a.at_).position).1
      (probeSeq a (sliceBase r (s.tile a.at_).position).2) = some (b, k)) :
    ∃ fl, (s.spillWrite a).tile a.at_ = { s.tile a.at_ with
      spillSeq := (s.tile a.at_).spillSeq + 1
      spilled := (s.tile a.at_).spilled ++
        [⟨(s.tile a.at_).spillSeq, b * 5 + k, a.inst, a.outside, a.trap, a.src, a.tok.tag.deps, a.tok.tag.seen⟩]
      filter := fl } := by
  unfold State.spillWrite
  simp only [hr, hfree]
  rw [State.modTile_tile_self]
  rw [((beside_spillCopy s _ _).trans ((beside_writeVa _ _ _ _).trans (beside_writeByte _ _ _ _))).tile a.at_]
  exact ⟨_, rfl⟩

/-- Of a tile whose spilled token is taken back the list of spilled tokens and the filter change. -/
theorem State.takeSpilled_tile {s : State} {t : TileId} {r : Region} (hr : s.regionOf t = some r) (p : Spilled) :
    ∃ fl, (s.takeSpilled t p).2.tile t = { s.tile t with spilled := (s.tile t).spilled.filter (fun q => q ≠ p), filter := fl } := by
  unfold State.takeSpilled
  simp only [hr]
  rw [State.modTile_tile_self, ((beside_spillCopy s _ _).trans (beside_writeByte _ _ _ _)).tile t]
  exact ⟨_, rfl⟩

theorem State.takeSpilled_fst (s : State) (t : TileId) (p : Spilled) : (s.takeSpilled t p).1 = s.spilledTok t p := by
  unfold State.takeSpilled
  split <;> rfl

theorem State.spilledTok_of_region {s : State} {t : TileId} {r : Region} (hr : s.regionOf t = some r) (p : Spilled) :
    (s.spilledTok t p).at_ = t ∧ (s.spilledTok t p).outside = p.outside ∧ (s.spilledTok t p).trap = p.trap
      ∧ (s.spilledTok t p).src = p.src := by
  simp [State.spilledTok, hr]

theorem State.regionOf_of_spilledPartner {s : State} {a : Arrival} {p : Spilled} (h : s.spilledPartner a = some p) :
    ∃ r, s.regionOf a.at_ = some r := by
  unfold State.spilledPartner at h
  split at h
  · cases h
  next r hr => exact ⟨r, hr⟩

/-! ### A refill -/

/-- Below RECORD an event is not logged, and goes on at once (17 R348). -/
theorem State.logEvent_go {s : State} {c : Nat} (h : s.level c < 2) (d : Nat) (r : LogRec) : s.logEvent c d r = .go s := by
  unfold State.logEvent
  exact if_pos h

theorem State.dueRecords_of_level {s : State} {c : Nat} (h : s.level c < 2) (d : Nat) : s.dueRecords c d = [] := by
  unfold State.dueRecords
  split
  next h2 => omega
  next h3 => omega
  next => rfl

theorem State.refillPick_head {s : State} {t : TileId} (h : s.level (s.ctxOf t) < 2) : s.refillPick t = (s.tile t).spilled.head? := by
  simp only [State.refillPick, State.dueRecords_of_level h, List.head?_nil, Option.map_none]

/-- A refill takes the oldest spilled token back and places it as an arrival (04 R85). -/
theorem State.refillStep_eq {s : State} {t : TileId} {p : Spilled} {ps : List Spilled} {r : Region} (hs : (s.tile t).spilled = p :: ps)
    (hr : s.regionOf t = some r) (h : s.level (s.ctxOf t) < 2) :
    s.refillStep t = if ((((s.takeSpilled t p).2).intake (s.spilledTok t p)).tile t).spilled.isEmpty
      then ((s.takeSpilled t p).2).intake (s.spilledTok t p)
      else (((s.takeSpilled t p).2).intake (s.spilledTok t p)).due (.spillRefill t) := by
  simp only [State.refillStep, State.refillPick_head h, hs, List.head?_cons, hr, State.logEvent_go h]

/-! ### An admission -/

/-- A pass opened on a tile. -/
def State.openPass (s : State) (t : TileId) (ps : Pass) : State :=
  s.fresh.2.modTile t (fun y => { y with passes := y.passes ++ [ps] })

/-- The pass that a token opens (05 R103). -/
def State.newPass (s : State) (t : TileId) (slot : Nat) (p : Place) (tok : Token) : Pass :=
  { id := s.nextId, frame := tok.tag.frame, block := p.block, quota := dQuota ((s.tile t).slots.getD slot {}).desc, handler := false }

theorem State.takeIn_opens {s : State} {t : TileId} {slot : Nat} {p : Place} {tok : Token}
    (hpass : (s.tile t).passOf tok.tag.frame p.block = none)
    (hq : (s.tile t).reserved + dQuota ((s.tile t).slots.getD slot {}).desc ≤ 256) (hlow : (s.tile t).lowerWaits tok.tag = false) :
    s.takeIn t slot true false 0 p tok = some (s.nextId, s.openPass t (s.newPass t slot p tok)) := by
  simpa [State.takeIn, hpass, hlow, State.fresh, State.openPass, State.newPass] using hq

theorem Tile.lowerWaits_self {x : Tile} {e : Entry} (h : x.entries = [e]) : x.lowerWaits e.tok.tag = false := by
  simp [Tile.lowerWaits, h]

theorem State.admitAll_single {s : State} {t : TileId} {e : Entry} {slot : Nat} (h : (s.tile t).entries = [e]) (hin : e.inst = 0)
    (hslot : (s.tile t).slotOf e.place.block = some slot) (htrap : e.trap = false) : s.admitAll t = s.admitEntry t e := by
  have hwait : (s.tile t).entries.filter (fun e => e.inst = 0 && ((s.tile t).slotOf e.place.block).isSome) = [e] := by
    simp [h, hin, hslot]
  have horder : admitOrder [e] = [e] := by simp [admitOrder, htrap, sortBy, insertBy]
  simp only [State.admitAll, hwait, horder, List.foldl_cons, List.foldl_nil]

/-- The token of an entry as it is placed again in a pass. -/
def Entry.arrival (e : Entry) (t : TileId) (inst : Nat) : Arrival :=
  { at_ := t, place := e.place, tok := e.tok, src := e.src, outside := e.outside, trap := e.trap, inst := inst }

theorem State.admitEntry_opens {s : State} {t : TileId} {e : Entry} {slot : Nat} (h : (s.tile t).entries = [e]) (hin : e.inst = 0)
    (hslot : (s.tile t).slotOf e.place.block = some slot) (hout : e.outside = true) (htrap : e.trap = false)
    (hpass : (s.tile t).passOf e.tok.tag.frame e.place.block = none)
    (hq : (s.tile t).reserved + dQuota ((s.tile t).slots.getD slot {}).desc ≤ 256) :
    s.admitEntry t e = ((s.openPass t (s.newPass t slot e.place e.tok)).freeEntry t e).placeIn (e.arrival t s.nextId) slot s.nextId e.more := by
  simp only [State.admitEntry, hslot, hin, hout, htrap, State.takeIn_opens hpass hq (Tile.lowerWaits_self h)]
  rw [Entry.arrival, hout, htrap]

theorem State.openPass_freeEntry_tile (s : State) (t : TileId) (ps : Pass) (e : Entry) :
    ((s.openPass t ps).freeEntry t e).tile t = { s.tile t with
      passes := (s.tile t).passes ++ [ps], entries := removeFirst (fun q => q = e) (s.tile t).entries } := by
  rw [State.freeEntry_tile, State.openPass, State.modTile_tile_self]
  rfl

end Sys2Proof.Machine

end

section
/-! PROOFS. What the steps of the matching store end with (04 R77 to R85, 05 R103). -/

namespace Sys2Proof.Machine

/-! ### A token arrives -/

theorem exec_tokenArrival {s : State} {a : Arrival} (h : s.ev = .tokenArrival a) : exec .tokenArrival s = .next (s.arrive a) := by
  have hexec : exec .tokenArrival s = execTokenArrival s := rfl
  rw [hexec, execTokenArrival, h]

theorem tokenArrival_waits {s : State} {a : Arrival} (hev : s.ev = .tokenArrival a) (hout : a.outside = true)
    (hslot : (s.tile a.at_).slotOf a.place.block = none) (hlen : (s.tile a.at_).entries.length < 512) (hcount : s.countsJoin a = false) :
    ∃ u, exec .tokenArrival s = .next u
      ∧ (u.tile a.at_).entries =
        (s.tile a.at_).entries ++ [⟨a.place, { a.tok with arrival := BitVec.ofNat 32 s.cycles }, true, a.trap, 0, [], a.src⟩]
      ∧ .schedulerDecision a.at_ ∈ u.agenda := by
  obtain ⟨⟨m, hm⟩, hsched⟩ := State.place_waits (s := s) (a := s.stamped a) hslot hlen hcount
  rw [← State.arrive_not_resident hout hslot] at hm hsched
  have hent : ((s.arrive a).tile a.at_).entries = (s.tile a.at_).entries ++ [entryOf (s.stamped a) 0] := congrArg Tile.entries hm
  rw [entryOf, show (s.stamped a).outside = true from hout] at hent
  exact ⟨_, exec_tokenArrival hev, hent, hsched⟩

theorem tokenArrival_sameCycle {s : State} {a b : Arrival} {slot : Nat} (hev : s.ev = .tokenArrival a) (hout : a.outside = true)
    (hslot : s.pairSlot a = some slot) (hcycle : s.sameCycle a = some b) (hb : b.outside = true) (hin : b.inst ≠ 0)
    (hpass : ((s.tile a.at_).pass? b.inst).isSome = true) (hside : a.place.sideB = true)
    (hwa : s.sameSideWaits (s.stamped a) = false) (hwb : s.sameSideWaits b = false) :
    ∃ u fi, exec .tokenArrival s = .next u ∧ fi ∈ u.ready ∧ (u.tile a.at_).entries = (s.tile a.at_).entries
      ∧ (u.tile a.at_).spillBuf = (s.tile a.at_).spillBuf
      ∧ IsSet a.at_ slot b.place b.inst (some (s.stamped b).tok) (some (s.stamped a).tok) fi := by
  have hd := State.arrive_pair_delivers hslot hcycle hout hb hin hpass hside hwa hwb
  obtain ⟨fi, hfi, hset⟩ := hd.ready
  exact ⟨_, fi, exec_tokenArrival hev, hfi, hd.entries, hd.spillBuf, hset⟩

theorem tokenArrival_partner {s : State} {a : Arrival} {e : Entry} {slot : Nat} (hev : s.ev = .tokenArrival a) (hout : a.outside = true)
    (hslot : s.pairSlot a = some slot) (hcycle : s.sameCycle a = none) (he : (s.tile a.at_).partner a.place a.tok.tag = some e)
    (hin : a.inst ≠ 0) (hpass : ((s.tile a.at_).pass? a.inst).isSome = true) :
    ∃ u fi, exec .tokenArrival s = .next u ∧ fi ∈ u.ready
      ∧ (u.tile a.at_).entries = removeFirst (fun q => q = e) (s.tile a.at_).entries
      ∧ IsSet a.at_ slot a.place (if a.place.sideB then e.inst else a.inst)
        (some (if a.place.sideB then e.tok else (s.stamped a).tok)) (some (if a.place.sideB then (s.stamped a).tok else e.tok)) fi := by
  have hd := State.place_partner_delivers (a := s.stamped a) hslot he hin hpass
  rw [← State.arrive_partner hout hcycle he] at hd
  have hent : ((s.arrive a).tile a.at_).entries = ((s.freeEntry a.at_ e).tile a.at_).entries := hd.entries
  rw [State.freeEntry_tile] at hent
  obtain ⟨fi, hfi, hset⟩ := hd.ready
  exact ⟨_, fi, exec_tokenArrival hev, hfi, hent, hset⟩

/-! ### A token leaves the spill buffer -/

theorem exec_spillProbeDone {s : State} {t : TileId} (h : s.ev = .spillProbeDone t) : exec .spillProbeDone s = .next (s.probeStep t) := by
  have hexec : exec .spillProbeDone s = execSpillProbeDone s := rfl
  rw [hexec, execSpillProbeDone, h]

section
variable {s : State} {a : Arrival} {rest : List Arrival} (hev : s.ev = .spillProbeDone a.at_) (hl : s.latched (s.ctxOf a.at_) = false)
  (hb : (s.tile a.at_).spillBuf = a :: rest) (hout : a.outside = true)
include hev hl hb hout

theorem spillProbeDone_writes {r : Region} {b k : Nat} (hs : a.spilling = true) (hr : s.regionOf a.at_ = some r)
    (hfree : s.freeSpillSlot r.launch.ctx (sliceBase r (s.tile a.at_).position).1
      (probeSeq a (sliceBase r (s.tile a.at_).position).2) = some (b, k)) :
    ∃ u p, exec .spillProbeDone s = .next u ∧ (u.tile a.at_).spillBuf = rest ∧ (u.tile a.at_).spilled = (s.tile a.at_).spilled ++ [p]
      ∧ p.seq = (s.tile a.at_).spillSeq ∧ p.slot = b * 5 + k ∧ p.outside = true
      ∧ (u.tile a.at_).spillSeq = (s.tile a.at_).spillSeq + 1 := by
  have hr' : (s.offBuf a.at_ rest).regionOf a.at_ = some r := (State.offBuf_regionOf _ _ _).trans hr
  have hfree' : (s.offBuf a.at_ rest).freeSpillSlot r.launch.ctx (sliceBase r ((s.offBuf a.at_ rest).tile a.at_).position).1
      (probeSeq a (sliceBase r ((s.offBuf a.at_ rest).tile a.at_).position).2) = some (b, k) := by
    rw [State.offBuf_freeSpillSlot, State.offBuf_tile]
    exact hfree
  obtain ⟨fl, htile⟩ := State.spillWrite_tile hr' hfree'
  rw [← State.probeStep_spill hl hb hout hs, State.offBuf_tile] at htile
  exact ⟨_, _, exec_spillProbeDone hev, congrArg Tile.spillBuf htile, congrArg Tile.spilled htile, rfl, rfl, hout,
    congrArg Tile.spillSeq htile⟩

theorem spillProbeDone_alone {slot : Nat} (hs : a.spilling = false) (hslot : s.pairSlot a = some slot) (hin : a.inst ≠ 0)
    (hpass : ((s.tile a.at_).pass? a.inst).isSome = true) (he : (s.tile a.at_).partner a.place a.tok.tag = none)
    (hp : s.spilledPartner a = none) (hlen : (s.tile a.at_).entries.length < 512) :
    ∃ u, exec .spillProbeDone s = .next u ∧ (u.tile a.at_).spillBuf = rest
      ∧ (u.tile a.at_).entries = (s.tile a.at_).entries ++ [⟨a.place, a.tok, true, a.trap, a.inst, [], a.src⟩] := by
  obtain ⟨hres, hpair⟩ := State.pairs_of_pairSlot hslot
  have htile := State.offBuf_tile s a.at_ rest
  have hplace : (s.offBuf a.at_ rest).place a = (s.offBuf a.at_ rest).occupy a a.inst true := by
    rw [State.place_admitted (slot := slot) (by rw [htile]; exact hres) hin (by rw [htile]; exact hpass)]
    exact State.placeIn_alone (by rw [htile]; exact hpair) (by rw [htile]; exact he) _ _
  obtain ⟨m, hm⟩ := State.occupy_tile (s := s.offBuf a.at_ rest) (a := a) (by rw [htile]; exact hlen) a.inst true
  rw [← hplace, ← State.probeStep_place hl hb hout hs hp, htile, entryOf, hout] at hm
  exact ⟨_, exec_spillProbeDone hev, congrArg Tile.spillBuf hm, congrArg Tile.entries hm⟩

theorem spillProbeDone_partner {slot : Nat} {p : Spilled} (hs : a.spilling = false) (hslot : s.pairSlot a = some slot) (hin : a.inst ≠ 0)
    (hpass : ((s.tile a.at_).pass? a.inst).isSome = true) (hside : a.place.sideB = false)
    (he : (s.tile a.at_).partner a.place a.tok.tag = none) (hp : s.spilledPartner a = some p) (hpo : p.outside = true) :
    ∃ u fi, exec .spillProbeDone s = .next u ∧ (u.tile a.at_).spilled = (s.tile a.at_).spilled.filter (fun q => q ≠ p)
      ∧ (u.tile a.at_).entries = (s.tile a.at_).entries ∧ fi ∈ u.ready
      ∧ IsSet a.at_ slot a.place a.inst (some a.tok) (some (s.spilledTok a.at_ p).tok) fi := by
  obtain ⟨r, hr⟩ := State.regionOf_of_spilledPartner hp
  obtain ⟨fl, htaken⟩ := State.takeSpilled_tile hr p
  obtain ⟨-, hpout, -, -⟩ := State.spilledTok_of_region hr p
  rw [hpo, ← State.takeSpilled_fst] at hpout
  have htile := State.offBuf_tile (s.takeSpilled a.at_ p).2 a.at_ rest
  rw [htaken] at htile
  have hpair := State.pairUp_sideA (slot := slot) (s := (s.takeSpilled a.at_ p).2.offBuf a.at_ rest)
    (y := (s.takeSpilled a.at_ p).1) hside hin (by rw [htile]; exact hpass)
  have hstep := State.probeStep_pair hl hb hout hs hslot he hp hpout
  rw [hpair, Option.getD_some, State.takeSpilled_fst] at hstep
  have hd := delivers_mkSet ((s.takeSpilled a.at_ p).2.offBuf a.at_ rest) ((s.takeSpilled a.at_ p).2.offBuf a.at_ rest) a.at_ slot a.place
    a.inst (some a.tok) (some (s.spilledTok a.at_ p).tok)
  rw [← hstep] at hd
  obtain ⟨fi, hfi, hset⟩ := hd.ready
  exact ⟨_, fi, exec_spillProbeDone hev, by rw [hd.spilled, htile], by rw [hd.entries, htile], hfi, hset⟩

end

/-! ### A refill -/

theorem exec_spillRefill {s : State} {t : TileId} (h : s.ev = .spillRefill t) : exec .spillRefill s = .next (s.refillStep t) := by
  have hexec : exec .spillRefill s = execSpillRefill s := rfl
  rw [hexec, execSpillRefill, h]

theorem spillRefill_places {s : State} {t : TileId} {p : Spilled} {ps : List Spilled} {r : Region} (hev : s.ev = .spillRefill t)
    (hs : (s.tile t).spilled = p :: ps) (hr : s.regionOf t = some r) (hlv : s.level (s.ctxOf t) < 2) (hpo : p.outside = true)
    (hslot : (s.tile t).slotOf (s.spilledTok t p).place.block = none) (hlen : (s.tile t).entries.length < 512)
    (hcount : (s.takeSpilled t p).2.countsJoin (s.spilledTok t p) = false) :
    ∃ u, exec .spillRefill s = .next u ∧ (u.tile t).spilled = (s.tile t).spilled.filter (fun q => q ≠ p)
      ∧ (u.tile t).entries = (s.tile t).entries
        ++ [⟨(s.spilledTok t p).place, (s.spilledTok t p).tok, true, p.trap, 0, [], p.src⟩]
      ∧ .schedulerDecision t ∈ u.agenda := by
  obtain ⟨hat, hout, htrap, hsrc⟩ := State.spilledTok_of_region hr p
  obtain ⟨fl, htaken⟩ := State.takeSpilled_tile hr p
  have hstep := State.refillStep_eq hs hr hlv
  generalize hw : (s.takeSpilled t p).2 = w at htaken hstep hcount
  generalize ha : s.spilledTok t p = a at hat hout htrap hsrc hstep hslot hcount ⊢
  subst hat
  have hslot' : (w.tile a.at_).slotOf a.place.block = none := by rw [htaken]; exact hslot
  have hlen' : (w.tile a.at_).entries.length < 512 := by rw [htaken]; exact hlen
  obtain ⟨⟨m, hm⟩, hsched⟩ := State.place_waits hslot' hlen' hcount
  have hintake : w.intake a = w.place a := State.intake_unpaired (hout.trans hpo) (State.pairSlot_of_slotOf_none hslot')
  rw [htaken, entryOf, hout, hpo, htrap, hsrc] at hm
  have hdone : (s.refillStep a.at_).tile a.at_ = (w.place a).tile a.at_ ∧ .schedulerDecision a.at_ ∈ (s.refillStep a.at_).agenda := by
    rw [hstep, hintake]
    split
    · exact ⟨rfl, hsched⟩
    · exact ⟨State.due_tile _ _ _, State.agenda_subset_due _ _ hsched⟩
  obtain ⟨hdtile, hdsched⟩ := hdone
  rw [hm] at hdtile
  exact ⟨_, exec_spillRefill hev, congrArg Tile.spilled hdtile, congrArg Tile.entries hdtile, hdsched⟩

/-! ### An admission -/

theorem exec_instanceAdmit {s : State} {t : TileId} (h : s.ev = .instanceAdmit t) : exec .instanceAdmit s = .next (s.admitAll t) := by
  have hexec : exec .instanceAdmit s = execInstanceAdmit s := rfl
  rw [hexec, execInstanceAdmit, h]

theorem instanceAdmit_opens {s : State} {t : TileId} {e : Entry} {slot : Nat} (hev : s.ev = .instanceAdmit t)
    (h : (s.tile t).entries = [e]) (hin : e.inst = 0) (hslot : (s.tile t).slotOf e.place.block = some slot) (hout : e.outside = true)
    (htrap : e.trap = false) (hpass : (s.tile t).passOf e.tok.tag.frame e.place.block = none)
    (hq : (s.tile t).reserved + dQuota ((s.tile t).slots.getD slot {}).desc ≤ 256)
    (hj : isJoinall ((s.tile t).station slot e.place.station).1 ((s.tile t).station slot e.place.station).2 = false)
    (hside : sideIsToken ((s.tile t).station slot e.place.station).1 ((s.tile t).station slot e.place.station).2 e.place.sideB = true)
    (hother : sideIsToken ((s.tile t).station slot e.place.station).1 ((s.tile t).station slot e.place.station).2 (!e.place.sideB) = false) :
    ∃ u fi, exec .instanceAdmit s = .next u ∧ fi ∈ u.ready ∧ s.newPass t slot e.place e.tok ∈ (u.tile t).passes
      ∧ IsSet t slot e.place s.nextId (if e.place.sideB then none else some e.tok) (if e.place.sideB then some e.tok else none) fi := by
  have htile := State.openPass_freeEntry_tile s t (s.newPass t slot e.place e.tok) e
  have hstep := State.admitAll_single h hin hslot htrap
  rw [State.admitEntry_opens h hin hslot hout htrap hpass hq] at hstep
  generalize hw : (s.openPass t (s.newPass t slot e.place e.tok)).freeEntry t e = w at htile hstep
  have hsame : (w.tile t).station slot e.place.station = (s.tile t).station slot e.place.station := by rw [htile]; rfl
  rw [← hsame] at hj hside hother
  rw [State.placeIn_single (a := e.arrival t s.nextId) hside hother hj] at hstep
  have hd : Delivers t _ w (s.admitAll t) := hstep ▸ delivers_mkSet w w t slot e.place s.nextId
    (if e.place.sideB then none else some e.tok) (if e.place.sideB then some e.tok else none)
  obtain ⟨fi, hfi, hset⟩ := hd.ready
  refine ⟨_, fi, exec_instanceAdmit hev, hfi, ?_, hset⟩
  rw [hd.passes, htile]
  exact List.mem_append_right _ (List.mem_singleton_self _)

end Sys2Proof.Machine

end

section
/-! PROOFS. A decision of the block scheduler and the end of a block's load (05 R98 to R101, R111 to R113). -/

namespace Sys2Proof.Machine

/-! ### The pick -/

/-- The pick is a candidate, and no candidate is of lower rank. -/
theorem pickOf_least (rank : Nat → List Nat) : ∀ {l : List Nat} {b : Nat}, pickOf rank l = some b →
    b ∈ l ∧ ∀ c ∈ l, rank b ≤ rank c
  | [], b, h => by cases h
  | x :: xs, b, h => by
    rw [pickOf] at h
    split at h
    next hnone =>
      cases h
      have hnil : xs = [] := by
        cases xs with
        | nil => rfl
        | cons y ys =>
          rw [pickOf] at hnone
          split at hnone
          · cases hnone
          · split at hnone <;> cases hnone
      subst hnil
      simp
    next c hc =>
      obtain ⟨hmem, hle⟩ := pickOf_least rank hc
      split at h <;> cases h
      next hlt =>
        rw [lexLt_iff_lt] at hlt
        exact ⟨List.mem_cons_of_mem _ hmem, List.forall_mem_cons.mpr ⟨le_of_lt hlt, hle⟩⟩
      next hlt =>
        rw [Bool.not_eq_true, lexLt_eq_false_iff_le] at hlt
        exact ⟨List.mem_cons_self, List.forall_mem_cons.mpr ⟨le_refl _, fun d hd => le_trans hlt (hle d hd)⟩⟩

theorem State.nextRecord_of_level {s : State} {c : Nat} (h : s.level c < 2) (d : Nat) : s.nextRecord c d = none := by
  unfold State.nextRecord
  split
  next h2 => omega
  next h3 => omega
  next => rfl

theorem State.ctxOf_of_region {s : State} {t : TileId} {r : Region} (h : s.regionOf t = some r) : s.ctxOf t = r.launch.ctx := by
  rw [State.regionOf] at h
  rw [State.ctxOf, State.regionCtx, h]
  rfl

/-- Where no recorded pick is followed, a decision is the pick of the ranks and the victim among the slots. -/
theorem State.decide_unrecorded {s : State} {t : TileId} {b k : Nat} (hlv : s.level (s.ctxOf t) < 2) (h : s.decide t = some (b, k)) :
    pickOf (State.decide.rankOf' s t (s.wanted t) (s.tile t)) ((s.wanted t).map (·.block)).eraseDups = some b
      ∧ (s.tile t).victim = some k := by
  simp only [State.decide, State.nextRecord_of_level hlv, Option.bind_eq_some_iff, Option.map_eq_some_iff] at h
  obtain ⟨b', hb, k', hk, heq⟩ := h
  cases heq
  exact ⟨hb, hk⟩

/-- A free slot is taken where there is one. -/
theorem Tile.victim_free {x : Tile} {k : Nat} (h : x.victim = some k) (hfree : ∃ sl ∈ x.slots, sl.st = .free) :
    (x.slots.getD k {}).st = .free := by
  obtain ⟨sl, hsl, hst⟩ := hfree
  unfold Tile.victim at h
  split at h
  next p hp =>
    cases h
    have hget : x.slots[p.2]? = some p.1 := List.mem_zipIdx_iff_getElem?.mp (List.mem_of_find?_eq_some hp)
    have hst := List.find?_some hp
    rw [List.getD_eq_getElem?_getD, hget]
    exact of_decide_eq_true hst
  next hnone =>
    obtain ⟨i, hi⟩ := List.mem_iff_getElem?.mp hsl
    exact absurd (decide_eq_true hst) (List.find?_eq_none.mp hnone (sl, i) (List.mem_zipIdx_iff_getElem?.mpr hi))

theorem exec_schedulerDecision {s : State} {t : TileId} (h : s.ev = .schedulerDecision t) :
    exec .schedulerDecision s = .next (s.scheduleStep t) := by
  have hexec : exec .schedulerDecision s = execSchedulerDecision s := rfl
  rw [hexec, execSchedulerDecision, h]

/-- A decision that is not logged starts the load in its slot, and the next decision is asked for. -/
theorem State.scheduleStep_loads {s : State} {t : TileId} {b k : Nat} {r : Region} (hd : s.decide t = some (b, k))
    (hr : s.regionOf t = some r) (hlv : s.level r.launch.ctx < 2) (hk : k < (s.tile t).slots.length) :
    .blockLoadDone t k ∈ (s.scheduleStep t).agenda ∧ .schedulerDecision t ∈ (s.scheduleStep t).agenda
      ∧ ((s.scheduleStep t).tile t).slots[k]? = some { st := .loading, ctx := r.launch.ctx, block := b } := by
  have hfiles : Files t s (if ((s.tile t).slots.getD k {}).st = .resident then s.histSpillAll t k else s) := by
    split
    · exact files_histSpillAll s t k
    · exact (Beside.refl s).files t
  simp only [State.scheduleStep, hd, hr, State.logEvent_go hlv]
  generalize (if ((s.tile t).slots.getD k {}).st = .resident then s.histSpillAll t k else s) = w at hfiles
  obtain ⟨sl, hw, hlen⟩ := hfiles
  refine ⟨State.agenda_subset_due _ _ ?_, State.mem_due _ _, ?_⟩
  · exact List.mem_append_right _ (List.mem_singleton_self _)
  · rw [State.due_tile, State.post_tile, State.modTile_tile_self, hw]
    exact List.getElem?_set_self (by rw [hlen]; exact hk)

theorem schedulerDecision_loads {s : State} {t : TileId} {b k : Nat} {r : Region} (hev : s.ev = .schedulerDecision t)
    (hd : s.decide t = some (b, k)) (hr : s.regionOf t = some r) (hlv : s.level r.launch.ctx < 2) (hk : k < (s.tile t).slots.length) :
    ∃ u, exec .schedulerDecision s = .next u ∧ .blockLoadDone t k ∈ u.agenda ∧ .schedulerDecision t ∈ u.agenda
      ∧ (u.tile t).slots[k]? = some { st := .loading, ctx := r.launch.ctx, block := b } :=
  ⟨_, exec_schedulerDecision hev, State.scheduleStep_loads hd hr hlv hk⟩

theorem State.decide_least {s : State} {t : TileId} {b k : Nat} (hlv : s.level (s.ctxOf t) < 2) (hd : s.decide t = some (b, k)) :
    (∃ w ∈ s.wanted t, w.block = b)
      ∧ ∀ w ∈ s.wanted t, lexLt (State.decide.rankOf' s t (s.wanted t) (s.tile t) w.block)
          (State.decide.rankOf' s t (s.wanted t) (s.tile t) b) = false := by
  obtain ⟨hmem, hle⟩ := pickOf_least _ (State.decide_unrecorded hlv hd).1
  refine ⟨List.mem_map.mp (List.mem_eraseDups.mp hmem), fun w hw => ?_⟩
  rw [lexLt_eq_false_iff_le]
  exact hle _ (List.mem_eraseDups.mpr (List.mem_map_of_mem hw))

/-! ### A load ends -/

/-- Bytes laid over as many from the first on replace them. -/
theorem overlay_whole {bs new : Bytes} (h : new.length = bs.length) : overlay bs 0 new = new := by
  simp [overlay, h]

/-- State registers of which those below `m` that a block's mask names have been loaded from their images. -/
def loadedSregs (d : Bytes) (image : Nat → Bytes) (m : Nat) (l : List Bytes) : List Bytes :=
  l.mapIdx (fun n b => if n < m ∧ bitN (dMask d) n = true then overlay b 0 (image n) else b)

theorem loadedSregs_getElem? (d : Bytes) (image : Nat → Bytes) (m : Nat) (l : List Bytes) (n : Nat) :
    (loadedSregs d image m l)[n]? = l[n]?.map (fun b => if n < m ∧ bitN (dMask d) n = true then overlay b 0 (image n) else b) :=
  List.getElem?_mapIdx

theorem loadedSregs_succ_of_unset {d : Bytes} {m : Nat} (h : bitN (dMask d) m = false) (image : Nat → Bytes) (l : List Bytes) :
    loadedSregs d image (m + 1) l = loadedSregs d image m l := by
  apply List.ext_getElem?
  intro n
  rw [loadedSregs_getElem?, loadedSregs_getElem?]
  have hn : (n < m + 1 ∧ bitN (dMask d) n = true) ↔ (n < m ∧ bitN (dMask d) n = true) := by
    rcases eq_or_ne n m with rfl | hne
    · simp [h]
    · have : n < m + 1 ↔ n < m := by omega
      rw [this]
  simp only [hn]

theorem loadedSregs_succ_of_set {d : Bytes} {m : Nat} (h : bitN (dMask d) m = true) (image : Nat → Bytes) (l : List Bytes) :
    loadedSregs d image (m + 1) l = setAt (loadedSregs d image m l) m (overlay ((loadedSregs d image m l).getD m (zeros 128)) 0 (image m)) := by
  apply List.ext_getElem?
  intro n
  rw [setAt, List.getElem?_set, loadedSregs_getElem?, List.getD_eq_getElem?_getD, loadedSregs_getElem?, loadedSregs_getElem?]
  rcases eq_or_ne m n with rfl | hne
  · rcases lt_or_ge m l.length with hlt | hge
    · simp [h, loadedSregs, hlt]
    · simp [loadedSregs, Nat.not_lt.mpr hge]
  · have : n < m + 1 ↔ n < m := by omega
    simp [hne, this]

/-- The state image of a register of a block. -/
def State.sregImage (s : State) (l : Launch) (d : Bytes) (n : Nat) : Bytes :=
  s.readVa l.ctx (l.image + l.dataOff + dImage d + 128 * n) 128

/-- From `s` to `s'` the registers of a tile below `m` that a block's mask names are loaded, and memory stays. -/
structure LoadsSregs (t : TileId) (l : Launch) (d : Bytes) (m : Nat) (s s' : State) : Prop where
  read : s'.readVa = s.readVa
  cycles : s'.cycles = s.cycles
  tile : s'.tile t = { s.tile t with sregs := loadedSregs d (s.sregImage l d) m (s.tile t).sregs }

theorem LoadsSregs.succ {t : TileId} {l : Launch} {d : Bytes} {m : Nat} {s s' : State} (h : LoadsSregs t l d m s s') :
    LoadsSregs t l d (m + 1) s (if bitN (dMask d) m then s'.writeSreg t m 0 (s'.sregImage l d m) else s') := by
  obtain ⟨hread, hcycles, htile⟩ := h
  have himage : s'.sregImage l d m = s.sregImage l d m := by rw [State.sregImage, hread]; rfl
  cases hb : bitN (dMask d) m
  · refine ⟨hread, hcycles, ?_⟩
    rw [loadedSregs_succ_of_unset hb]
    exact htile
  · refine ⟨hread, hcycles, ?_⟩
    rw [if_pos rfl, himage, State.writeSreg, State.modTile_tile_self, htile, loadedSregs_succ_of_set hb]
    rfl

theorem State.loadSregs_loads (s : State) (l : Launch) (t : TileId) (d : Bytes) : LoadsSregs t l d 8 s (s.loadSregs l t d) := by
  have hstart : LoadsSregs t l d 0 s s := by
    refine ⟨rfl, rfl, ?_⟩
    rw [show loadedSregs d (s.sregImage l d) 0 (s.tile t).sregs = (s.tile t).sregs from List.ext_getElem? (fun n => by
      rw [loadedSregs_getElem?]
      simp)]
  exact hstart.succ.succ.succ.succ.succ.succ.succ.succ

theorem State.admitAll_admitted {s : State} {t : TileId} (h : ∀ e ∈ (s.tile t).entries, e.inst ≠ 0) : s.admitAll t = s := by
  have hnone : (s.tile t).entries.filter (fun e => e.inst = 0 && ((s.tile t).slotOf e.place.block).isSome) = [] := by
    rw [List.filter_eq_nil_iff]
    intro e he
    simp [h e he]
  simp only [State.admitAll, hnone]
  rfl

theorem exec_blockLoadDone {s : State} {t : TileId} {k : Nat} (h : s.ev = .blockLoadDone t k) :
    exec .blockLoadDone s = .next (s.loadStep t k) := by
  have hexec : exec .blockLoadDone s = execBlockLoadDone s := rfl
  rw [hexec, execBlockLoadDone, h]

/-- The slot of a block as its load ends. -/
def loadedSlot (s : State) (l : Launch) (block : Nat) : Slot :=
  { st := .resident, ctx := l.ctx, block := block, words := (s.readBlock l block).words, sides := (s.readBlock l block).sides,
    desc := (s.readBlock l block).desc, firedAt := s.cycles }

/-- A load that passes its checks leaves its block resident, its state registers loaded, and the next decision asked for. -/
theorem State.loadStep_resident {s : State} {t : TileId} {k : Nat} {r : Region} (hr : s.regionOf t = some r)
    (hst : ((s.tile t).slots.getD k {}).st = .loading) (hcheck : s.blockCheck r.launch t ((s.tile t).slots.getD k {}).block = none)
    (hadm : ∀ e ∈ (s.tile t).entries, e.inst ≠ 0) :
    (s.loadStep t k).tile t = { s.tile t with
        sregs := loadedSregs (s.readBlock r.launch ((s.tile t).slots.getD k {}).block).desc
          (s.sregImage r.launch (s.readBlock r.launch ((s.tile t).slots.getD k {}).block).desc) 8 (s.tile t).sregs
        slots := setAt (s.tile t).slots k (loadedSlot s r.launch ((s.tile t).slots.getD k {}).block) }
      ∧ .schedulerDecision t ∈ (s.loadStep t k).agenda := by
  have hst' : ¬ ((s.tile t).slots.getD k {}).st ≠ .loading := not_not_intro hst
  simp only [State.loadStep, hr, hcheck, if_neg hst']
  generalize hb : ((s.tile t).slots.getD k {}).block = block
  obtain ⟨-, hcycles, htile⟩ := State.loadSregs_loads s r.launch t (s.readBlock r.launch block).desc
  generalize s.loadSregs r.launch t (s.readBlock r.launch block).desc = w at hcycles htile
  rw [hcycles]
  generalize hv : (w.modTile t _).due _ = v
  have hvtile : v.tile t = { w.tile t with slots := setAt (w.tile t).slots k (loadedSlot s r.launch block) } := by
    rw [← hv, State.due_tile]
    exact State.modTile_tile_self _ _ _
  have hvsched : .schedulerDecision t ∈ v.agenda := hv ▸ State.mem_due _ _
  have hvadm : v.admitAll t = v := State.admitAll_admitted (by rw [hvtile, htile]; exact hadm)
  rw [hvadm, ite_self]
  rw [htile] at hvtile
  exact ⟨hvtile, hvsched⟩

theorem slot_lt_of_loading {x : Tile} {k : Nat} (h : (x.slots.getD k {}).st = .loading) : k < x.slots.length := by
  by_contra hk
  rw [List.getD_eq_default _ _ (Nat.not_lt.mp hk)] at h
  cases h

theorem loadedSregs_unset {d : Bytes} {n : Nat} (h : bitN (dMask d) n = false) (image : Nat → Bytes) (m : Nat) (l : List Bytes) :
    (loadedSregs d image m l)[n]? = l[n]? := by
  rw [loadedSregs_getElem?]
  simp [h]

/-- A register of the mask holds the whole of its image once it is loaded. -/
theorem loadedSregs_set {x : Tile} {d : Bytes} {image : Nat → Bytes} {n : Nat} (h : bitN (dMask d) n = true) (hn : n < 8)
    (hlen : x.sregs.length = 8) (hwhole : (x.sreg n).length = (image n).length) :
    (loadedSregs d image 8 x.sregs)[n]? = some (image n) := by
  have hlt : n < x.sregs.length := by omega
  rw [Tile.sreg, List.getD_eq_getElem _ _ hlt] at hwhole
  rw [loadedSregs_getElem?, List.getElem?_eq_getElem hlt, Option.map_some, if_pos ⟨hn, h⟩, overlay_whole hwhole.symm]

theorem State.sregImage_length (s : State) (l : Launch) (d : Bytes) (n : Nat) : (s.sregImage l d n).length = 128 := by
  rw [State.sregImage, State.readVa, List.length_map, List.length_range]

theorem blockLoadDone_resident {s : State} {t : TileId} {k : Nat} {r : Region} (hev : s.ev = .blockLoadDone t k)
    (hr : s.regionOf t = some r) (hst : ((s.tile t).slots.getD k {}).st = .loading)
    (hcheck : s.blockCheck r.launch t ((s.tile t).slots.getD k {}).block = none) (hadm : ∀ e ∈ (s.tile t).entries, e.inst ≠ 0) :
    ∃ u, exec .blockLoadDone s = .next u
      ∧ (u.tile t).slots[k]? = some (loadedSlot s r.launch ((s.tile t).slots.getD k {}).block)
      ∧ .schedulerDecision t ∈ u.agenda
      ∧ (u.tile t).sregs = loadedSregs (s.readBlock r.launch ((s.tile t).slots.getD k {}).block).desc
          (s.sregImage r.launch (s.readBlock r.launch ((s.tile t).slots.getD k {}).block).desc) 8 (s.tile t).sregs := by
  obtain ⟨htile, hsched⟩ := State.loadStep_resident hr hst hcheck hadm
  refine ⟨_, exec_blockLoadDone hev, ?_, hsched, by rw [htile]⟩
  rw [htile]
  exact List.getElem?_set_self (slot_lt_of_loading hst)

end Sys2Proof.Machine

end

section
/-! PROOFS. The commit buffer drains (05 R105): the first effect leaves by its exit, channel or port. -/

namespace Sys2Proof.Machine

/-! ### A store enters the port -/

theorem beside_dieSent (s : State) (c d : Nat) (phase : BitVec 8) : Beside s (s.dieSent c d phase) := beside_modCd s c d _

theorem beside_noteLevel (s : State) (j : Job) : Beside s (s.noteLevel j) :=
  beside_ite (Beside.refl s) ⟨rfl, rfl, List.Subset.refl _⟩

theorem beside_countParts (s : State) (fi : Firing) (typ : BitVec 8) (n : Nat) : Beside s (s.countParts fi typ n) :=
  beside_ite (Beside.refl s) (Beside.foldl _ (fun s _ => beside_dieSent s _ _ _) s)

theorem State.numbered_tile {w : State} {x : Tile} {t : TileId} (hw : ∃ so, w.tile t = { x with soNum := so }) (num : Bool)
    (g : Tile → NMap Nat) : ∃ so, (if num then w.modTile t (fun y => { y with soNum := g y }) else w).tile t = { x with soNum := so } := by
  obtain ⟨so, hw⟩ := hw
  split
  · exact ⟨g (w.tile t), by rw [State.modTile_tile_self, hw]⟩
  · exact ⟨so, hw⟩

/-- The parts of an access take numbers of their tile's SO streams: of the tile nothing else changes. -/
theorem State.mkParts_tile (s : State) (a : Access) (serial slot : Nat) :
    ∃ so, (s.mkParts a serial slot).2.tile a.job.fi.at_ = { s.tile a.job.fi.at_ with soNum := so } := by
  unfold State.mkParts
  refine List.foldlRecOn (motive := fun (acc : List Part × State) => ∃ so, acc.2.tile a.job.fi.at_ = { s.tile a.job.fi.at_ with soNum := so }) _ _
    ⟨(s.tile a.job.fi.at_).soNum, (beside_noteLevel _ a.job).tile _⟩ ?_
  exact fun acc hw q _ => State.numbered_tile hw _ (fun y => NMap.put y.soNum _ _)

/-- A store that is issued stands among the unfinished accesses of its tile, its tokens due; its tile's drains stay. -/
theorem State.issueStore_tile (s : State) (a : Access) :
    ((s.issueStore a).tile a.job.fi.at_).drains = (s.tile a.job.fi.at_).drains
      ∧ ∃ o ∈ ((s.issueStore a).tile a.job.fi.at_).outs, o.tokens = true ∧ o.inst = a.job.fi.inst ∧ o.job.f = a.job.f := by
  unfold State.issueStore
  dsimp only
  obtain ⟨so, hparts⟩ := State.mkParts_tile s.fresh.2 a s.fresh.1 0
  generalize s.fresh.2.mkParts a s.fresh.1 0 = pw at hparts
  rw [State.due_tile, State.modTile_tile_self, (beside_countParts _ _ _ _).tile, hparts]
  exact ⟨rfl, _, List.mem_append_right _ (List.mem_singleton_self _), rfl, rfl, rfl⟩

/-! ### Tokens leave -/

theorem State.sendExit_block {s : State} {target : Nat} (h : bitsN target 30 2 = 1) (t : TileId) (src : Nat) (tok : Token) :
    s.sendExit t target src tok = s.post (.tokenArrival {
      at_ := t, place := ⟨target % 2 ^ 16, bitsN target 16 6 / 2, bitsN target 16 6 % 2 = 1⟩, tok := tok, src := src, outside := true }) := by
  have hblock : bitsN target 0 16 = target % 2 ^ 16 := by rw [bitsN, Nat.pow_zero, Nat.div_one]
  simp only [State.sendExit, h, hblock]

theorem State.sendChannel_bound {s : State} {t : TileId} {ch : Nat} {b : BitVec 64} (h : NMap.find (s.tile t).channels ch = some b)
    (hb : fieldOf b 13 3 ≤ 3) (src : Nat) (tok : Token) :
    s.sendChannel t ch src tok = s.post (.tokenArrival {
      at_ := ⟨t.die, neighbourOf t.tile (fieldOf b 13 3)⟩, place := ⟨fieldOf b 32 16, fieldOf b 48 6 / 2, fieldOf b 48 6 % 2 = 1⟩,
      tok := tok, src := src, outside := true }) := by
  simp only [State.sendChannel, h, if_neg (Nat.not_lt.mpr hb)]

/-- The neighbour by its peer code, case by case. -/
theorem neighbourOf_eq (tile peer : Nat) :
    neighbourOf tile peer = if peer = 0 then tile - 32 else if peer = 1 then tile + 1 else if peer = 2 then tile + 32 else tile - 1 := by
  unfold neighbourOf
  split <;> simp_all

theorem beside_sendChild (s : State) (a : Arrival) : Beside s (s.sendChild a) :=
  beside_ite (beside_post s _) ⟨rfl, rfl, List.Subset.refl _⟩

theorem beside_sendChildren (s : State) (kids : List Arrival) : Beside s (kids.foldl (fun s a => s.sendChild a) s) :=
  Beside.foldl kids (fun s a => beside_sendChild s a) s

theorem State.mem_sendChildren {a : Arrival} (hdie : a.at_.die < 8) {kids : List Arrival} (h : a ∈ kids) (s : State) :
    .tokenArrival a ∈ (kids.foldl (fun s a => s.sendChild a) s).agenda := by
  induction kids generalizing s with
  | nil => cases h
  | cons k kids ih =>
    rw [List.foldl_cons]
    rcases List.mem_cons.mp h with rfl | hmem
    · refine (beside_sendChildren _ kids).agenda ?_
      rw [State.sendChild, if_pos hdie]
      exact List.mem_append_right _ (List.mem_singleton_self _)
    · exact ih hmem _

/-! ### A step of the drain -/

/-- What is left of a tile's drains when an effect of the first has left. -/
def drainsLeft (inst : Nat) (es : List Effect) (ds : List Drain) : List Drain :=
  (⟨inst, es, false⟩ :: ds).filter (fun d => !d.effects.isEmpty)

/-- Changing the first drain leaves the others. -/
theorem modFirst_zipIdx (g : Drain → Drain) (d : Drain) (ds : List Drain) :
    (d :: ds).zipIdx.map (fun p => if p.2 = 0 then g p.1 else p.1) = g d :: ds := by
  rw [List.zipIdx_cons, List.map_cons, if_pos rfl]
  have hrest : (ds.zipIdx (0 + 1)).map (fun p => if p.2 = 0 then g p.1 else p.1) = (ds.zipIdx (0 + 1)).map Prod.fst := by
    refine List.map_congr_left fun p hp => if_neg ?_
    have := (List.mem_zipIdx hp).1
    omega
  rw [hrest, List.zipIdx_map_fst]

/-- The first effect of the first drain leaves. -/
theorem State.drainStep_gone {s s' : State} {t : TileId} {inst : Nat} {e : Effect} {es : List Effect} {ds : List Drain}
    (hd : (s.tile t).drains = ⟨inst, e :: es, false⟩ :: ds) (hleave : s.leave t inst e = .gone s')
    (hkeep : (s'.tile t).drains = (s.tile t).drains) :
    (s.drainStep t).tile t = { s'.tile t with drains := drainsLeft inst es ds } ∧ s'.agenda ⊆ (s.drainStep t).agenda := by
  have hfirst : s.drainFirst t 0 (s.tile t).drains = s'.modDrain t 0 (fun q => { q with effects := es }) := by
    rw [hd]
    simp only [State.drainFirst, hleave]
  have htile : (s'.modDrain t 0 (fun q => { q with effects := es })).tile t =
      { s'.tile t with drains := ⟨inst, es, false⟩ :: ds } := by
    rw [State.modDrain, State.modTile_tile_self, hkeep, hd]
    exact congrArg (fun l => { s'.tile t with drains := l }) (modFirst_zipIdx (fun q => { q with effects := es }) _ _)
  unfold State.drainStep
  rw [hfirst]
  dsimp only
  generalize hw : State.modTile (s'.modDrain t 0 (fun q => { q with effects := es })) t _ = w
  have hwtile : w.tile t = { s'.tile t with drains := drainsLeft inst es ds } := by
    rw [← hw, State.modTile_tile_self, htile]
    rfl
  have hwagenda : s'.agenda ⊆ w.agenda := hw ▸ List.Subset.refl _
  split
  · exact ⟨(State.due_tile _ _ _).trans hwtile, List.Subset.trans hwagenda (State.agenda_subset_due _ _)⟩
  · exact ⟨hwtile, hwagenda⟩

theorem exec_commitDrain {s : State} {t : TileId} (h : s.ev = .commitDrain t) : exec .commitDrain s = .next (s.drainStep t) := by
  have hexec : exec .commitDrain s = execCommitDrain s := rfl
  rw [hexec, execCommitDrain, h]

section
variable {s : State} {t : TileId} {inst : Nat} {e : Effect} {es : List Effect} {ds : List Drain} (hev : s.ev = .commitDrain t)
  (hd : (s.tile t).drains = ⟨inst, e :: es, false⟩ :: ds)
include hev hd

/-- An effect that leaves by an event. -/
theorem commitDrain_posts {ev : Event} (hleave : s.leave t inst e = .gone (s.post ev)) :
    ∃ u, exec .commitDrain s = .next u ∧ (u.tile t).drains = drainsLeft inst es ds ∧ ev ∈ u.agenda := by
  obtain ⟨htile, hagenda⟩ := State.drainStep_gone hd hleave rfl
  exact ⟨_, exec_commitDrain hev, by rw [htile], hagenda (List.mem_append_right _ (List.mem_singleton_self _))⟩

theorem commitDrain_store {a : Access} (he : e = .store a) (hat : a.job.fi.at_ = t) (hwatch : s.watchHit a = none) :
    ∃ u o, exec .commitDrain s = .next u ∧ (u.tile t).drains = drainsLeft inst es ds ∧ o ∈ (u.tile t).outs ∧ o.tokens = true
      ∧ o.inst = a.job.fi.inst ∧ o.job.f = a.job.f := by
  have hleave : s.leave t inst e = .gone (s.issueStore a) := by
    rw [he]
    simp only [State.leave, State.leaveWatched, hwatch, leaveIf]
  subst hat
  obtain ⟨hkeep, o, ho, htok, hinst, hf⟩ := State.issueStore_tile s a
  obtain ⟨htile, -⟩ := State.drainStep_gone hd hleave hkeep
  exact ⟨_, o, exec_commitDrain hev, by rw [htile], by rw [htile]; exact ho, htok, hinst, hf⟩

theorem commitDrain_spawn {j : Job} {kids : List Arrival} (he : e = .spawn j kids) :
    ∃ u, exec .commitDrain s = .next u ∧ (u.tile t).drains = drainsLeft inst es ds
      ∧ ∀ k ∈ kids, k.at_.die < 8 → .tokenArrival k ∈ u.agenda := by
  have hleave : s.leave t inst e = .gone (kids.foldl (fun s a => s.sendChild a) s) := by rw [he]; rfl
  obtain ⟨htile, hagenda⟩ := State.drainStep_gone hd hleave (congrArg Tile.drains ((beside_sendChildren s kids).tile t))
  exact ⟨_, exec_commitDrain hev, by rw [htile], fun k hk hdie => hagenda (State.mem_sendChildren hdie hk s)⟩

end

theorem State.leave_exit {s : State} {t : TileId} (inst n : Nat) (tok : Token) (target src : Nat) :
    s.leave t inst (.exit n tok false target src) = .gone (s.sendExit t target src tok) := rfl

theorem State.leave_chan {s : State} {t : TileId} (inst ch : Nat) (tok : Token) (src : Nat) :
    s.leave t inst (.chan ch tok false src) = .gone (s.sendChannel t ch src tok) := rfl

end Sys2Proof.Machine

end

section
/-! PROOFS. The scratchpad's own steps: a waiting access is performed, a forwarding entry retires, a freed tile is cleared (08 R167 to
R173). -/

namespace Sys2Proof.Machine

/-! ### The waiting access that is taken -/

theorem mem_insertBy {α : Type} (key : α → Nat) {x y : α} {l : List α} : y ∈ insertBy key x l ↔ y = x ∨ y ∈ l := by
  induction l with
  | nil => simp [insertBy]
  | cons z l ih =>
    rw [insertBy]
    split
    · simp
    · simp only [List.mem_cons, ih]
      tauto

theorem mem_sortBy {α : Type} (key : α → Nat) {y : α} {l : List α} : y ∈ sortBy key l ↔ y ∈ l := by
  suffices h : ∀ acc : List α, y ∈ l.foldl (fun acc x => insertBy key x acc) acc ↔ y ∈ l ∨ y ∈ acc by
    simpa [sortBy] using h []
  induction l with
  | nil => simp
  | cons x l ih =>
    intro acc
    rw [List.foldl_cons, ih, mem_insertBy, List.mem_cons]
    tauto

theorem State.mem_waitOrder {s : State} {t : TileId} {w : Waiting} : w ∈ s.waitOrder t ↔ w ∈ (s.tile t).waitList := by
  unfold State.waitOrder
  dsimp only
  split
  · rfl
  · exact mem_sortBy _

theorem State.firstOf_mem {t : TileId} {w : Waiting} {u : State} : ∀ {ws : List Waiting} {s : State} {held : List Nat},
    s.firstOf t held ws = (some w, u) → w ∈ ws
  | [], _, _, h => by cases h
  | v :: ws, s, held, h => by
    rw [State.firstOf] at h
    split at h
    · split at h
      · cases h
        exact List.mem_cons_self
      · exact List.mem_cons_of_mem _ (State.firstOf_mem h)
    · exact List.mem_cons_of_mem _ (State.firstOf_mem h)

theorem State.waitGate_go {s : State} {t : TileId} (hlv : s.level (s.ctxOf t) < 2) (w : Waiting) : s.waitGate t w = .go s := by
  unfold State.waitGate
  dsimp only
  split
  · split
    · exact State.logEvent_go hlv _ _
    · rfl
  · rfl

/-- Below RECORD no access waits for a record: the one that is taken can be performed, and the state stays. -/
theorem State.firstOf_unlogged {s : State} {t : TileId} (hlv : s.level (s.ctxOf t) < 2) {w : Waiting} {u : State} {held : List Nat} :
    ∀ {ws : List Waiting}, s.firstOf t held ws = (some w, u) → u = s ∧ (s.tile t).canPerform w = true
  | [], h => by cases h
  | v :: ws, h => by
    rw [State.firstOf, State.waitGate_go hlv] at h
    split at h
    next hcan =>
      cases h
      exact ⟨rfl, (Bool.and_eq_true_iff.mp hcan).1⟩
    · exact State.firstOf_unlogged hlv h

theorem Tile.canPerform_iff {x : Tile} {w : Waiting} :
    x.canPerform w = true ↔ x.fwd.length < 16 ∧ qualHolds x.full w.granules w.qual = true := by
  simp [Tile.canPerform]

theorem qualHolds_full {full gs : List Nat} {qual : Nat} (h : qualHolds full gs qual = true) (hq : qual = 1 ∨ qual = 2) :
    ∀ g ∈ gs, g ∈ full := by
  rcases hq with rfl | rfl <;> simpa [qualHolds] using h

theorem qualHolds_empty {full gs : List Nat} (h : qualHolds full gs 3 = true) : ∀ g ∈ gs, g ∉ full := by
  simpa [qualHolds] using h

/-- The granules that are full after an access (08 R168). -/
theorem mem_leaveBits {full gs : List Nat} {qual g : Nat} :
    g ∈ leaveBits full gs qual ↔ (g ∈ full ∧ (qual = 2 → g ∉ gs)) ∨ ((qual = 3 ∨ qual = 4) ∧ g ∈ gs) := by
  unfold leaveBits
  split
  · simp
  · by_cases hg : g ∈ full <;> simp [hg]
  · by_cases hg : g ∈ full <;> simp [hg]
  next h2 h3 h4 => tauto

theorem firstWaiting_taken {s : State} {t : TileId} {w : Waiting} {u : State} (h : s.firstWaiting t = (some w, u))
    (hlv : s.level (s.ctxOf t) < 2) :
    u = s ∧ (s.tile t).fwd.length < 16 ∧ (w.qual = 1 ∨ w.qual = 2 → ∀ g ∈ w.granules, g ∈ (s.tile t).full)
      ∧ (w.qual = 3 → ∀ g ∈ w.granules, g ∉ (s.tile t).full) := by
  obtain ⟨hu, hcan⟩ := State.firstOf_unlogged hlv h
  obtain ⟨hfwd, hq⟩ := Tile.canPerform_iff.mp hcan
  exact ⟨hu, hfwd, qualHolds_full hq, fun h3 => qualHolds_empty (h3 ▸ hq)⟩

/-! ### It is performed -/

/-- The state in which a waiting access has left the wait list. -/
def State.unlisted (s : State) (t : TileId) (w : Waiting) : State :=
  s.modTile t (fun x => { x with waitList := removeFirst (fun v => v = w) x.waitList })

/-- The state in which a load has changed the full-empty bits (08 R168). -/
def State.bitsLeft (s : State) (t : TileId) (w : Waiting) : State :=
  if w.qual = 2 then (s.modTile t (fun x => { x with full := leaveBits x.full w.granules w.qual })).due (.fullEmptyWaitPerform t)
  else s.modTile t (fun x => { x with full := leaveBits x.full w.granules w.qual })

theorem State.bitsLeft_tile (s : State) (t : TileId) (w : Waiting) :
    (s.bitsLeft t w).tile t = { s.tile t with full := leaveBits (s.tile t).full w.granules w.qual } := by
  unfold State.bitsLeft
  split
  · rw [State.due_tile]
    exact State.modTile_tile_self _ _ _
  · exact State.modTile_tile_self _ _ _

theorem State.spadSeen_tile (s : State) (j : Job) :
    ∃ n, (s.spadSeen j).2.tile j.fi.at_ = { s.tile j.fi.at_ with seen := n } := by
  unfold State.spadSeen
  exact ⟨_, State.modTile_tile_self _ _ _⟩

theorem State.unlisted_seen_tile (s : State) (w : Waiting) :
    ∃ n, ((s.unlisted w.job.fi.at_ w).spadSeen w.job).2.tile w.job.fi.at_ = { s.tile w.job.fi.at_ with
      waitList := removeFirst (fun v => v = w) (s.tile w.job.fi.at_).waitList, seen := n } := by
  obtain ⟨n, hn⟩ := State.spadSeen_tile (s.unlisted w.job.fi.at_ w) w.job
  rw [State.unlisted, State.modTile_tile_self] at hn
  exact ⟨n, hn⟩

theorem State.ldlPerform_eq (s : State) (w : Waiting) :
    s.ldlPerform w = (s.spadSeen w.job).2.settle (s.spadSeen w.job).1
      ((((s.spadSeen w.job).2.bitsLeft w.job.fi.at_ w).consume (s.spadSeen w.job).1.fi).emitBoth (s.spadSeen w.job).1 .value
        (w.reads.flatMap (fun a => ((s.spadSeen w.job).2.tile w.job.fi.at_).spadRead w.job.fi.inst a w.size))) := rfl

theorem State.waitStep_load {s u : State} {t : TileId} {w : Waiting} (h : s.firstWaiting t = (some w, u)) (hd : w.drain = none) :
    s.waitStep t = (((u.unlisted t w).ldlPerform w).due (.fullEmptyWaitPerform t)).due (.commitDrain t) := by
  simp only [State.waitStep, h, hd]
  rfl

theorem exec_fullEmptyWaitPerform {s : State} {t : TileId} (h : s.ev = .fullEmptyWaitPerform t) :
    exec .fullEmptyWaitPerform s = .next (s.waitStep t) := by
  have hexec : exec .fullEmptyWaitPerform s = execFullEmptyWaitPerform s := rfl
  rw [hexec, execFullEmptyWaitPerform, h]

/-- A waiting load is performed: its bytes are read, the bits changed, its tokens emitted (08 R168, R170). -/
theorem fullEmptyWaitPerform_load {s u : State} {w : Waiting} (hev : s.ev = .fullEmptyWaitPerform w.job.fi.at_)
    (h : s.firstWaiting w.job.fi.at_ = (some w, u)) (hd : w.drain = none) :
    ∃ v : State, exec .fullEmptyWaitPerform s = .next
        (((((u.unlisted w.job.fi.at_ w).spadSeen w.job).2.settle ((u.unlisted w.job.fi.at_ w).spadSeen w.job).1
          ((v.consume ((u.unlisted w.job.fi.at_ w).spadSeen w.job).1.fi).emitBoth ((u.unlisted w.job.fi.at_ w).spadSeen w.job).1 .value
            (w.reads.flatMap (fun a => (u.tile w.job.fi.at_).spadRead w.job.fi.inst a w.size)))).due
              (.fullEmptyWaitPerform w.job.fi.at_)).due (.commitDrain w.job.fi.at_))
      ∧ v.tile w.job.fi.at_ = { ((u.unlisted w.job.fi.at_ w).spadSeen w.job).2.tile w.job.fi.at_ with
          full := leaveBits (u.tile w.job.fi.at_).full w.granules w.qual } := by
  obtain ⟨n, hn⟩ := State.unlisted_seen_tile u w
  refine ⟨((u.unlisted w.job.fi.at_ w).spadSeen w.job).2.bitsLeft w.job.fi.at_ w, ?_, ?_⟩
  · rw [exec_fullEmptyWaitPerform hev, State.waitStep_load h hd, State.ldlPerform_eq, hn]
    rfl
  · rw [State.bitsLeft_tile, hn]

/-! ### The forwarding table and a freed tile -/

theorem exec_forwardingRetire {s : State} {t : TileId} (h : s.ev = .forwardingRetire t) :
    ∃ u, exec .forwardingRetire s = .next u ∧ u.tile t = { s.tile t with fwd := (s.tile t).fwd.drop 1 } ∧ u.mem = s.mem
      ∧ .fullEmptyWaitPerform t ∈ u.agenda ∧ .commitDrain t ∈ u.agenda := by
  have hexec : exec .forwardingRetire s = execForwardingRetire s := rfl
  rw [hexec, execForwardingRetire, h]
  refine ⟨_, rfl, ?_, ?_, State.agenda_subset_due _ _ (State.mem_due _ _), State.mem_due _ _⟩
  · rw [State.due_tile, State.due_tile]
    split
    · exact State.modTile_tile_self _ _ _
    · rw [State.due_tile]
      exact State.modTile_tile_self _ _ _
  · rw [State.due_mem, State.due_mem]
    split
    · rfl
    · exact State.due_mem _ _

theorem exec_scratchpadClearDone {s : State} {t : TileId} (h : s.ev = .scratchpadClearDone t) :
    ∃ u, exec .scratchpadClearDone s = .next u ∧ u.tile t = { s.tile t with spad := [], full := [], clearing := false } ∧ u.mem = s.mem := by
  have hexec : exec .scratchpadClearDone s = execScratchpadClearDone s := rfl
  rw [hexec, execScratchpadClearDone, h]
  exact ⟨_, rfl, State.modTile_tile_self _ _ _, rfl⟩

end Sys2Proof.Machine

end

section

open Sys2Proof Sys2Proof.Machine

/-- Settles O49: each step of a tile's own units as its clause has it, the steps of the matching store by the sets that it delivers and the
entries that it keeps, the others by the equation of the step and what it leaves of the tile. -/
theorem tileEventResults : Obligations.TileEventResults := by
  unfold Obligations.TileEventResults
  intro s t x c now counted isSet
  refine ⟨?arrival, ?probe, ?refill, ?admission, ?decision, ?load, ?drain, ?wait, exec_forwardingRetire, ?clear⟩
  case arrival =>
    rintro a hev rfl hout
    exact ⟨tokenArrival_waits hev hout,
      fun slot b hslot hcycle hb hin hpass hside hwa hwb => tokenArrival_sameCycle hev hout hslot hcycle hb hin hpass hside hwa hwb,
      fun slot e hslot hcycle he hin hpass => tokenArrival_partner hev hout hslot hcycle he hin hpass⟩
  case probe =>
    rintro a rest hev hl hb rfl hout
    refine ⟨fun r b k hs hr hfree => spillProbeDone_writes hev hl hb hout hs hr hfree, ?_⟩
    intro slot hs hslot hin hpass hside he
    exact ⟨fun hp hlen => spillProbeDone_alone hev hl hb hout hs hslot hin hpass he hp hlen,
      fun p hp hpo => spillProbeDone_partner hev hl hb hout hs hslot hin hpass hside he hp hpo⟩
  case refill =>
    intro p ps r hev hs hr hlv hpo a hslot hlen hcount
    exact spillRefill_places hev hs hr hlv hpo hslot hlen hcount
  case admission =>
    intro e slot hev hent hin hslot hout htrap hpass hq hw
    obtain ⟨hj, hside, hother⟩ := hw
    obtain ⟨u, fi, hexec, hfi, hps, hset⟩ := instanceAdmit_opens hev hent hin hslot hout htrap hpass hq hj hside hother
    exact ⟨u, fi, _, hexec, hfi, hps, rfl, rfl, rfl, rfl, rfl, hset⟩
  case decision =>
    intro b k r hev hd hr hlv hk
    have hlv' : s.level (s.ctxOf t) < 2 := by rw [State.ctxOf_of_region hr]; exact hlv
    exact ⟨schedulerDecision_loads hev hd hr hlv hk, State.decide_least hlv' hd, Tile.victim_free (State.decide_unrecorded hlv' hd).2⟩
  case load =>
    intro k r hev hr hst hcheck hadm
    obtain ⟨u, hexec, hslot, hsched, hsregs⟩ := blockLoadDone_resident hev hr hst hcheck hadm
    refine ⟨u, _, hexec, hslot, rfl, hsched, rfl, rfl, rfl, rfl, rfl, fun n _ hn => ?_, fun n hn8 hn hlen hwhole => ?_⟩
    · rw [hsregs]
      exact loadedSregs_unset hn _ _ _
    · rw [hsregs]
      exact loadedSregs_set hn hn8 hlen (hwhole.trans (State.sregImage_length _ _ _ _).symm)
  case drain =>
    intro inst e es ds hev hd after
    refine ⟨?_, ?_, fun a he hat hwatch => commitDrain_store hev hd he hat hwatch, fun j kids he => commitDrain_spawn hev hd he⟩
    · rintro n tok target src rfl htarget
      exact commitDrain_posts hev hd (by rw [State.leave_exit, State.sendExit_block htarget])
    · rintro ch tok src b rfl hb hpeer
      rw [← neighbourOf_eq]
      exact commitDrain_posts hev hd (by rw [State.leave_chan, State.sendChannel_bound hb hpeer])
  case wait =>
    rintro w u hev h hd rfl
    refine ⟨State.mem_waitOrder.mp (State.firstOf_mem h), firstWaiting_taken h, ?_⟩
    obtain ⟨n, hn⟩ := State.unlisted_seen_tile u w
    obtain ⟨v, hexec, hv⟩ := fullEmptyWaitPerform_load hev h hd
    rw [hn] at hv
    exact ⟨v, hexec, by rw [hv], by rw [hv], fun g => by rw [hv]; exact mem_leaveBits⟩
  case clear =>
    intro hev
    obtain ⟨u, hexec, htile, hmem⟩ := exec_scratchpadClearDone hev
    exact ⟨u, hexec, fun a => by rw [htile]; rfl, htile, hmem⟩

end

section
/-! PROOFS. The registers at reset: nothing is listed in any map of the state, so that every part of it reads as its structure's defaults. -/

namespace Sys2Proof.Machine

@[simp] theorem reset_tile (t : TileId) : State.reset.tile t = {} := rfl

@[simp] theorem reset_die (d : Nat) : State.reset.die d = {} := rfl

@[simp] theorem reset_link (d port : Nat) : State.reset.link d port = {} := rfl

@[simp] theorem reset_ctx (c : Nat) : State.reset.ctx c = {} := rfl

@[simp] theorem reset_cd (c d : Nat) : State.reset.cd c d = {} := rfl

/-- A list of equal values reads that value at every place, also past its end where the default is that value. -/
theorem getD_replicate_self {α : Type} (n k : Nat) (v : α) : (List.replicate n v).getD k v = v := by
  rw [List.getD_eq_getElem?_getD, List.getElem?_replicate]
  split <;> rfl

/-- LINKSTAT of a link that is down shows the state 4 and nothing else (14 R315). -/
theorem Link.stat_down (port : Nat) : Link.stat port {} = 4 := by
  simp [Link.stat, LinkState.code]

end Sys2Proof.Machine

open Sys2Proof Sys2Proof.Machine

/-- Settles O6: no map of the state lists anything at reset, and the defaults of its structures are the values of the Reset columns. -/
theorem resetValues : Obligations.ResetValues := by
  refine ⟨rfl, rfl, rfl, rfl, rfl, rfl, rfl, fun t k => ?tile, fun d => ?die, fun c => ?ctx⟩
  case tile =>
    rw [reset_tile]
    exact ⟨getD_replicate_self 16 k 0, getD_replicate_self 16 k (List.replicate 32 0x7F), getD_replicate_self 8 k (zeros 128),
      rfl, rfl, rfl, rfl⟩
  case die =>
    have hqueue (q : Nat) : NMap.getD ({} : Die).queues q {} = {} := rfl
    simp only [reset_die, reset_link, Link.stat_down, hqueue, forall_const]
    decide
  case ctx =>
    rw [State.level, reset_ctx]
    refine ⟨rfl, rfl, fun d => ?_⟩
    rw [reset_cd]
    decide

end
section
/-! PROOFS. EXIT (05 R107) and STATE (05 R108): the exit that is chosen, and the bytes of a state register. -/
namespace Sys2Proof.Machine

/-- A firing that writes no state register has the state before it: it needs no record (05 R110). -/
theorem state_of_fires_nil {f : Fields} {s u : State} (h : Fires f [] s u) : u = s :=
  (Gate.go.inj (sregGate_nil.symm.trans h.gate)).symm

/-- The exit that an EXIT firing takes, by the low three bits of B and of the literal. -/
theorem exitOf_eq (s : State) (j : Job) : exitOf s j = j.f.dstA.toNat - 0x40 + (if (j.fi.tagB.map (·.null)).getD false then 0 else
    min ((byteAt (operandIn s j .none true) 0).toNat % 8) (j.f.lit.toNat % 8)) := by
  rw [exitOf, Fields.litBits_zero, apply_ite (min · _), Nat.zero_min, bitsN, pow_zero, Nat.div_one]
  rfl

theorem stReg_eq (f : Fields) : stReg f = f.lit.toNat % 8 := Fields.litBits_zero f 3

theorem stateBytes_eq (s : State) (j : Job) : stateBytes s j =
    sliceB ((s.tile j.fi.at_).sreg (j.f.lit.toNat % 8)) (j.f.lit.toNat / 8 % 128) (j.f.lit.toNat / 1024 % 256) := by
  rw [stateBytes, stReg_eq]
  rfl

theorem sliceB_length (bs : Bytes) (off n : Nat) : (sliceB bs off n).length = n := by
  simp only [sliceB, zeros, List.length_append, List.length_replicate]
  exact Nat.add_sub_cancel' (List.length_take_le _ _)

/-- The element-wise sums of an SACC station of elements of `n` bytes, each read as a slice. -/
theorem saccBytes_eq {ty n : Nat} (hn : (if ty = 1 then 8 else 4) = n) (cur a : Bytes) : saccBytes ty cur a =
    ((List.range (cur.length / n)).map (fun i => leBytes n (if ty = 2
      then addF32 (leNat (sliceB cur (n * i) n)) (leNat (sliceB a (n * i) n))
      else (leNat (sliceB cur (n * i) n) + leNat (sliceB a (n * i) n)) % 2 ^ (8 * n)))).flatten := by
  simp only [saccBytes, packElems, List.map_map, leNat_sliceB, hn]
  rfl

/-- A set that fires runs the effect of a class with a null-pass of its own. -/
theorem fireWith_next {f : Fields} {regs : List Nat} {s u : State} (h : Fires f regs s u) (nullEff eff : Job → State → State) :
    s.fireWith f regs nullEff eff = finished f s (eff ⟨s.cur, f⟩ u) := by
  simp [State.fireWith, not_full_of_fires h, h.live, h.pred, h.gate, finished]

end Sys2Proof.Machine

open Sys2Proof Sys2Proof.Machine

/-- Settles O25: EXIT leaves by the exit that `exitOf` picks, with a null token in its null-pass; the forms of STATE that write keep what
they write for the cycle's end, all by the one rule `fireState`. -/
theorem exitAndStateResults : Obligations.ExitAndStateResults := by
  intro f s u a t st lit index leave k off len ty cur sz sums keep
  have hindex : exitOf s ⟨s.cur, f⟩ = f.dstA.toNat - 0x40 + index := exitOf_eq s ⟨s.cur, f⟩
  have hcur : stateBytes u ⟨s.cur, f⟩ = cur := stateBytes_eq u ⟨s.cur, f⟩
  refine ⟨fun h => ?fires, fun hn hp hl => ?null, fun h => ?sld, fun h => ?store⟩
  case fires =>
    obtain rfl : u = s := state_of_fires_nil h
    have hexit (kept : Bool) : .next (fireExit kept f u) = leave kept u (some a) := by
      dsimp only [leave]
      rw [← hindex]
      exact congrArg Host.Outcome.next (fireWith_next h _ _)
    exact ⟨hexit true, hexit false⟩
  case null =>
    have hexit (kept : Bool) : .next (fireExit kept f s) = leave kept s none := by
      dsimp only [leave]
      rw [← hindex]
      exact congrArg Host.Outcome.next (fireWith_nullPass _ _ _ hn hp hl)
    exact ⟨hexit true, hexit false⟩
  case sld =>
    rw [← hcur]
    exact congrArg Host.Outcome.next (fireValue_next h _)
  case store =>
    have hreg : stReg f = k := stReg_eq f
    have hsums : saccBytes (f.litBits 18 3) (stateBytes u ⟨s.cur, f⟩) a = sums := by
      have hty : f.litBits 18 3 = ty := rfl
      rw [hcur, hty, saccBytes_eq (n := sz) rfl, sliceB_length]
    have hwrite (new out : Job → State → Bytes) : .next (fireState new out f s) = keep (new ⟨s.cur, f⟩ u) (out ⟨s.cur, f⟩ u) := by
      dsimp only [keep]
      rw [← hreg] at h ⊢
      exact congrArg Host.Outcome.next (fire_next h _ _ _)
    refine ⟨hwrite _ _, ?_, hwrite _ _⟩
    rw [← hsums]
    exact hwrite _ _

end

section
/-! PROOFS. A trap-table entry and its handler (18 R370, R371, R374). -/

namespace Sys2Proof.Machine

/-- A test of bit `n` of a register. -/
theorem bitN_eq_getLsbD {w : Nat} (v : BitVec w) (n : Nat) : bitN v.toNat n = v.getLsbD n := rfl

/-- The handler's side of an entry: its station is the upper five bits of D, its side the lowest. -/
theorem teD_div_two (e : BitVec 64) : teD e / 2 = fieldOf e 27 5 := by
  simp only [teD, fieldOf, bitsN]
  omega

theorem teD_odd (e : BitVec 64) : decide (teD e % 2 = 1) = e.getLsbD 26 := by
  rw [BitVec.getLsbD, Nat.testBit_eq_decide_div_mod_eq, decide_eq_decide, teD, fieldOf, bitsN]
  omega

theorem faultRegion_of_region {s : State} {x : FaultInfo} {r : Region} (h : s.region? x.region = some r) : s.faultRegion x = some r := by
  simp only [State.faultRegion, h]

/-- The handler runs on the entry's tile, or with STAY on the fault's, the region's first on the die for a fault without one. -/
theorem handlerTile_eq_some {s : State} {x : FaultInfo} {e : BitVec 64} {r : Region} {n : Nat} (h : s.region? x.region = some r) :
    s.handlerTile x e = some n ↔ (if e.getLsbD 62
      then (x.tile = some n ∨ (x.tile = none ∧ ((r.tiles.filter (fun t => t.die = x.die)).map (·.tile)).head? = some n))
      else n = fieldOf e 16 10) := by
  unfold State.handlerTile
  rw [faultRegion_of_region h, teStay, bitN_eq_getLsbD]
  cases he : e.getLsbD 62 with
  | false => simp [teTile, eq_comm]
  | true => cases ht : x.tile <;> simp [Region.tilesOn]

theorem inBounds_iff {d : Bytes} {n : Nat} : inBounds d n = true ↔
    (byteAt d 4).toNat ≤ n % 32 ∧ n % 32 ≤ (byteAt d 5).toNat ∧ (byteAt d 6).toNat ≤ n / 32 ∧ n / 32 ≤ (byteAt d 7).toNat := by
  simp only [inBounds, Bool.and_eq_true, decide_eq_true_eq, and_assoc]
  rfl

theorem sideIsToken_iff {w : BitVec 32} {e : BitVec 64} {sideB : Bool} :
    sideIsToken w e sideB = true ↔ (w ≠ 0 ∨ e ≠ 0) ∧ fieldOf w (if sideB then 22 else 24) 2 = 0 := by
  cases sideB <;> simp [sideIsToken]

/-- What makes an entry usable. -/
theorem usableEntry_eq_some {s : State} {x : FaultInfo} {e : BitVec 64} {r : Region} {n : Nat} (h : s.region? x.region = some r) :
    s.usableEntry x e = some n ↔ teV e = true ∧ teBlock e < r.launch.blocks ∧ s.handlerTile x e = some n ∧ ⟨x.die, n⟩ ∈ r.tiles
      ∧ inBounds (s.imageDesc r.launch (teBlock e)) n = true ∧ s.imageSide r.launch (teBlock e) (teD e) = true := by
  unfold State.usableEntry
  rw [faultRegion_of_region h]
  cases ht : s.handlerTile x e with
  | none => simp
  | some k =>
    simp only [Option.ite_none_right_eq_some, Option.some.injEq, Bool.and_eq_true, decide_eq_true_eq, List.contains_iff_mem]
    constructor
    · rintro ⟨⟨⟨⟨⟨hv, hb⟩, ht⟩, hd⟩, hs⟩, rfl⟩
      exact ⟨hv, hb, rfl, ht, hd, hs⟩
    · rintro ⟨hv, hb, rfl, ht, hd, hs⟩
      exact ⟨⟨⟨⟨⟨hv, hb⟩, ht⟩, hd⟩, hs⟩, rfl⟩

end Sys2Proof.Machine

open Sys2Proof Sys2Proof.Machine

/-- Settles O27: an entry is usable under the tests of `usableEntry_eq_some`; each reads the field of the entry, the bytes of the descriptor
or the words of the station that R374 names. -/
theorem usableEntries : Obligations.UsableEntries := by
  intro s x e r n h b d base w z col row
  rw [usableEntry_eq_some h, handlerTile_eq_some h, inBounds_iff, State.imageSide, sideIsToken_iff, teD_odd, teD_div_two]
  rfl

end

section
/-! PROOFS. Held effects and the quota of their pass (05 R103), and what a firing comes to that found no entry of it. -/

namespace Sys2Proof.Machine

theorem Tile.pass?_id {x : Tile} {id : Nat} {p : Pass} (h : x.pass? id = some p) : p.id = id := by
  simpa using List.find?_some h

theorem Pass.used_eq (p : Pass) : p.used = p.held.length + if p.exits = [] then 0 else 1 := by
  simp only [Pass.used, List.isEmpty_iff]

section
variable {s : State} {j : Job} {e : Effect} {p : Pass}

/-- An effect that finds an entry of its pass's quota stands behind those that the pass holds. -/
theorem State.hold_joins (hp : (s.tile j.fi.at_).pass? j.fi.inst = some p) (h : p.used < p.quota) :
    s.hold j e = s.modTile j.fi.at_ (fun x => { x with
      passes := x.passes.map (fun q => if q.id = j.fi.inst then { q with held := q.held ++ [e] } else q) }) := by
  simp only [State.hold, hp, if_neg (not_le.mpr h), Tile.pass?_id hp]

theorem State.hold_overfull (hp : (s.tile j.fi.at_).pass? j.fi.inst = some p) (h : p.quota ≤ p.used) :
    s.hold j e = { s with overfull := true } := by
  simp only [State.hold, hp, if_pos h]
end

theorem State.settle_within {s after : State} (j : Job) (h : after.overfull = false) : s.settle j after =
    if j.fi.at_ ∈ after.touched ∧ ∀ c ∈ after.batch, firesAt j.fi.at_ c = false then after.closeTile j.fi.at_ else after := by
  simp [State.settle, h, State.flush]

theorem State.settle_overfull {s after : State} {j : Job} {p : Pass} (hp : (s.tile j.fi.at_).pass? j.fi.inst = some p)
    (h : after.overfull = true) : s.settle j after =
      (s.writeHangMap (s.regionCtx j.fi.region) j.fi.die 1 (s.hangEntries (s.regionCtx j.fi.region) j.fi.die)).jobFault j 11 1
        (leBytes 8 p.frame.toNat) := by
  simp [State.settle, h, hp]

end Sys2Proof.Machine
open Sys2Proof Sys2Proof.Machine

/-- Settles O28: an effect joins its pass or marks the firing (`State.hold_joins`, `State.hold_overfull`), and a marked firing comes to the
hang fault on the state before it (`State.settle_overfull`). -/
theorem heldEffects : Obligations.HeldEffects := by
  intro s f fi p e j hp used
  have hused : p.used = used := Pass.used_eq p
  refine ⟨fun h => ?_, fun h => ?_, fun after h => State.settle_within j h, fun after h => State.settle_overfull hp h⟩
  · exact State.hold_joins (j := j) hp (hused ▸ h)
  · exact State.hold_overfull (j := j) hp (hused ▸ h)
end

section
/-! PROOFS. What the end of a cycle leaves alone (05 R105, R109): committing passes writes no register, and no memory but where an end of
the context was held behind the pass (18 R383). -/

namespace Sys2Proof.Machine

/-! ### Registers kept -/

theorem State.modTile_tile (s : State) (t u : TileId) (g : Tile → Tile) :
    (s.modTile t g).tile u = if tileKey u = tileKey t then g (s.tile u) else s.tile u := by
  split
  next h => simp [State.modTile, State.setTile, State.tile, h]
  next h => exact State.modTile_tile_ne s t u g h

/-- A tile holds the registers of another, and has no register write to come that the other has not. -/
structure SameRegs (x y : Tile) : Prop where
  sregs : y.sregs = x.sregs
  wregs : y.wregs = x.wregs
  aregs : y.aregs = x.aregs
  regNext : x.regNext = [] → y.regNext = []

theorem SameRegs.refl (x : Tile) : SameRegs x x := ⟨rfl, rfl, rfl, id⟩

theorem SameRegs.trans {x y z : Tile} (h : SameRegs x y) (h' : SameRegs y z) : SameRegs x z :=
  ⟨h'.sregs.trans h.sregs, h'.wregs.trans h.wregs, h'.aregs.trans h.aregs, fun hx => h'.regNext (h.regNext hx)⟩

/-- From `s` to `s'` every tile keeps its registers, and the tiles that are still to close stay the same. -/
structure KeepsRegs (s s' : State) : Prop where
  tile : ∀ t, SameRegs (s.tile t) (s'.tile t)
  touched : s'.touched = s.touched

theorem KeepsRegs.of_tiles {s s' : State} (htiles : s'.tiles = s.tiles) (htouched : s'.touched = s.touched) : KeepsRegs s s' where
  tile t := by
    have htile : s'.tile t = s.tile t := by rw [State.tile, htiles]; rfl
    rw [htile]
    exact SameRegs.refl _
  touched := htouched

theorem KeepsRegs.refl (s : State) : KeepsRegs s s := .of_tiles rfl rfl

theorem KeepsRegs.trans {s s' s'' : State} (h : KeepsRegs s s') (h' : KeepsRegs s' s'') : KeepsRegs s s'' :=
  ⟨fun t => (h.tile t).trans (h'.tile t), h'.touched.trans h.touched⟩

theorem KeepsRegs.foldl {α : Type} {f : State → α → State} (l : List α) (h : ∀ s a, KeepsRegs s (f s a)) (s : State) :
    KeepsRegs s (l.foldl f s) :=
  List.foldlRecOn l f (KeepsRegs.refl s) (fun _ hs a _ => hs.trans (h _ a))

theorem keepsRegs_ite {c : Prop} [Decidable c] {s a b : State} (ha : KeepsRegs s a) (hb : KeepsRegs s b) :
    KeepsRegs s (if c then a else b) := by
  split
  · exact ha
  · exact hb

theorem keepsRegs_modTile {g : Tile → Tile} (s : State) (t : TileId) (hg : ∀ x, SameRegs x (g x)) : KeepsRegs s (s.modTile t g) where
  tile u := by
    rw [State.modTile_tile]
    split
    · exact hg _
    · exact SameRegs.refl _
  touched := rfl

theorem keepsRegs_modCd (s : State) (c d : Nat) (g : CtxDie → CtxDie) : KeepsRegs s (s.modCd c d g) := .of_tiles rfl rfl

theorem keepsRegs_modCtx (s : State) (c : Nat) (g : Ctx → Ctx) : KeepsRegs s (s.modCtx c g) := .of_tiles rfl rfl

theorem keepsRegs_modDie (s : State) (d : Nat) (g : Die → Die) : KeepsRegs s (s.modDie d g) := .of_tiles rfl rfl

theorem keepsRegs_due (s : State) (e : Event) : KeepsRegs s (s.due e) := .of_tiles (s.due_tiles e) (s.due_touched e)

theorem keepsRegs_curEvent (s : State) (die typ ctx datum : Nat) (detail : Bytes) :
    KeepsRegs s (s.curEvent die typ ctx datum detail) :=
  keepsRegs_ite (.of_tiles rfl rfl) (keepsRegs_ite (.of_tiles rfl rfl) (.of_tiles rfl rfl))

theorem keepsRegs_writeByte (s : State) (c va : Nat) (b : Byte) : KeepsRegs s (s.writeByte c va b) := by
  unfold State.writeByte
  split
  · exact .refl s
  · exact keepsRegs_ite (.of_tiles rfl rfl) (.of_tiles rfl rfl)

theorem keepsRegs_writeVa (s : State) (c va : Nat) (bs : Bytes) : KeepsRegs s (s.writeVa c va bs) :=
  KeepsRegs.foldl _ (fun s _ => keepsRegs_writeByte s c _ _) s

/-! ### The end of a context -/

/-- A tile that is freed keeps its registers (07 R146). -/
theorem sameRegs_freeTile (x : Tile) : SameRegs x (freeTile x) := ⟨rfl, rfl, rfl, fun _ => rfl⟩

theorem keepsRegs_dropLeases (s : State) (c : Nat) (gone : List LeaseRange) : KeepsRegs s (s.dropLeases c gone) :=
  KeepsRegs.foldl _ (fun s _ => keepsRegs_ite (.refl s) (keepsRegs_modCd s _ _ _)) s

theorem keepsRegs_freeRegion (s : State) (r : Nat) : KeepsRegs s (s.freeRegion r) := by
  unfold State.freeRegion
  split
  · exact .refl s
  next g _ =>
    extract_lets s1 s2 s3 s4 s5 s6
    have h1 : KeepsRegs s s1 :=
      KeepsRegs.foldl _ (fun s t => (keepsRegs_modTile s t sameRegs_freeTile).trans (keepsRegs_due _ _)) s
    have h5 : KeepsRegs s1 s5 := .of_tiles rfl rfl
    have h6 : KeepsRegs s5 s6 := KeepsRegs.foldl _ (fun s d => keepsRegs_modDie s d _) s5
    exact ((h1.trans h5).trans h6).trans (keepsRegs_dropLeases s6 _ _)

theorem keepsRegs_endContext (s : State) (c die code : Nat) (record : Option Bytes) : KeepsRegs s (s.endContext c die code record) := by
  unfold State.endContext
  extract_lets away s1 ids s2 s3 s4 s5 s6
  have h1 : KeepsRegs s s1 := keepsRegs_modCtx s c _
  have h2 : KeepsRegs s1 s2 := KeepsRegs.foldl _ keepsRegs_freeRegion s1
  have h3 : KeepsRegs s2 s3 := by
    refine KeepsRegs.foldl _ (fun s d => ?_) s2
    extract_lets u v
    have hu : KeepsRegs s u := keepsRegs_modCd s c d _
    have hv : KeepsRegs u v := KeepsRegs.foldl _ (fun s _ => keepsRegs_due s _) u
    exact (hu.trans hv).trans (keepsRegs_modDie v d _)
  clear_value s3
  have h5 : KeepsRegs s3 s5 := .of_tiles rfl rfl
  clear_value s5
  have h6 : KeepsRegs s5 s6 := keepsRegs_ite (KeepsRegs.foldl _ (fun s d => keepsRegs_writeVa s _ _ _) s5) (.refl s5)
  have h : KeepsRegs s s6 := (((h1.trans h2).trans h3).trans h5).trans h6
  split
  · exact h.trans ((keepsRegs_writeVa s6 _ _ _).trans (keepsRegs_curEvent _ _ _ _ _ _))
  · exact h.trans (keepsRegs_curEvent s6 _ _ _ _ _)

/-! ### A pass that commits -/

/-- From `s` to `s'` every tile keeps its registers and its context; the memory and the contexts stay. -/
structure Settles (s s' : State) : Prop extends KeepsRegs s s' where
  ctxOf : ∀ t, s'.ctxOf t = s.ctxOf t
  ctxs : s'.ctxs = s.ctxs
  mem : s'.mem = s.mem

theorem Settles.refl (s : State) : Settles s s := ⟨.refl s, fun _ => rfl, rfl, rfl⟩

theorem Settles.trans {s s' s'' : State} (h : Settles s s') (h' : Settles s' s'') : Settles s s'' :=
  ⟨h.toKeepsRegs.trans h'.toKeepsRegs, fun t => (h'.ctxOf t).trans (h.ctxOf t), h'.ctxs.trans h.ctxs, h'.mem.trans h.mem⟩

theorem Settles.foldl {α : Type} {f : State → α → State} (l : List α) (h : ∀ s a, Settles s (f s a)) (s : State) :
    Settles s (l.foldl f s) :=
  List.foldlRecOn l f (Settles.refl s) (fun _ hs a _ => hs.trans (h _ a))

theorem Settles.heldEnd {s s' : State} (h : Settles s s') (t : TileId) :
    (s'.ctx (s'.ctxOf t)).heldEnd = (s.ctx (s.ctxOf t)).heldEnd := by
  rw [h.ctxOf, State.ctx, h.ctxs]
  rfl

theorem settles_modCd (s : State) (c d : Nat) (g : CtxDie → CtxDie) : Settles s (s.modCd c d g) :=
  ⟨keepsRegs_modCd s c d g, fun _ => rfl, rfl, rfl⟩

theorem settles_due (s : State) (e : Event) : Settles s (s.due e) :=
  ⟨keepsRegs_due s e, fun t => by simp [State.ctxOf], s.due_ctxs e, s.due_mem e⟩

theorem settles_modTile {g : Tile → Tile} (s : State) (t : TileId) (hregs : ∀ x, SameRegs x (g x))
    (hregion : ∀ x, (g x).region = x.region) : Settles s (s.modTile t g) where
  toKeepsRegs := keepsRegs_modTile s t hregs
  ctxOf u := by
    rw [State.ctxOf, State.modTile_tile, State.modTile_regionCtx, apply_ite Tile.region, hregion, ite_self]
    rfl
  ctxs := rfl
  mem := rfl

theorem settles_countRecv (s : State) (t : TileId) (ph : BitVec 8) (n : Nat) : Settles s (s.countRecv t ph n) := by
  unfold State.countRecv
  refine Settles.trans ?_ (settles_modCd _ _ _ _)
  exact settles_modTile s t (fun _ => ⟨rfl, rfl, rfl, id⟩) (fun _ => rfl)

theorem settles_consume (s : State) (fi : Firing) : Settles s (s.consume fi) := by
  unfold State.consume
  split
  · exact .refl s
  · exact Settles.foldl _ (fun s ph => settles_countRecv s _ ph 1) s

theorem settles_dropEffect (s : State) (t : TileId) (e : Effect) : Settles s (s.dropEffect t e) := by
  cases e with
  | chan | exit => exact settles_countRecv s t _ 1
  | spawn j kids => exact Settles.foldl kids (fun s k => settles_countRecv s t _ 1) s
  | stl | store | copy | rst => exact .refl s

theorem settles_sweepPass (s : State) (t : TileId) (id : Nat) : Settles s (s.sweepPass t id) := by
  unfold State.sweepPass
  extract_lets x left sets s1 s2 s3 s4
  have h1 : Settles s s1 := by
    dsimp only [s1]
    split
    · exact .refl s
    · exact settles_modCd s _ _ _
  have h2 : Settles s1 s2 := Settles.foldl _ (fun s e => Settles.foldl _ (fun s ph => settles_countRecv s t ph 1) s) s1
  have h3 : Settles s2 s3 := Settles.foldl _ settles_consume s2
  have h4 : Settles s3 s4 := settles_modTile s3 t (fun _ => ⟨rfl, rfl, rfl, fun h => h⟩) (fun _ => rfl)
  exact ((h1.trans h2).trans (h3.trans h4)).trans ⟨.of_tiles rfl rfl, fun _ => rfl, rfl, rfl⟩

theorem keepsRegs_handlerDone (s : State) (t : TileId) : KeepsRegs s (s.handlerDone t) := by
  unfold State.handlerDone
  split
  · exact keepsRegs_ite (.refl s) (keepsRegs_ite (keepsRegs_endContext s _ _ _ _) (keepsRegs_modCtx s _ _))
  · exact .refl s

theorem State.handlerDone_of_none {s : State} {t : TileId} (h : (s.ctx (s.ctxOf t)).heldEnd = none) : s.handlerDone t = s := by
  simp only [State.handlerDone, h]

/-- A committing pass settles its tile before an end of the context that is held behind it can be applied. -/
theorem commitPass_settles (s : State) (t : TileId) (p : Pass) (x : ExitTok) : ∃ u, Settles s u ∧
    s.commitPass t p x = if p.handler then u.handlerDone t else u := by
  unfold State.commitPass
  extract_lets s1 s2 s3 s4
  have h1 : Settles s s1 := by
    dsimp only [s1]
    split
    · exact .refl s
    · exact Settles.foldl _ (fun s e => settles_dropEffect s t e) s
  have h2 : Settles s1 s2 := settles_modTile s1 t (fun _ => ⟨rfl, rfl, rfl, fun h => h⟩) (fun _ => rfl)
  have h4 : Settles s3 s4 := ((settles_due s3 _).trans (settles_due _ _)).trans (settles_due _ _)
  exact ⟨s4, ((h1.trans h2).trans (settles_sweepPass s2 t p.id)).trans h4, rfl⟩

/-- So does one that closes at the end of its cycle. -/
theorem closePass_settles (s : State) (t : TileId) (p : Pass) : ∃ u, Settles s u ∧
    (s.closePass t p = u ∨ s.closePass t p = u.handlerDone t) := by
  unfold State.closePass
  split
  · exact ⟨s, .refl s, .inl rfl⟩
  next x _ =>
    extract_lets rest s1
    have h1 : Settles s s1 := by
      dsimp only [s1]
      split
      · exact .refl s
      · exact (Settles.foldl _ (fun s (y : ExitTok) => settles_dropEffect s t y.eff) s).trans (settles_modCd _ _ _ _)
    obtain ⟨u, hu, heq⟩ := commitPass_settles s1 t p x
    refine ⟨u, h1.trans hu, ?_⟩
    rw [heq]
    cases p.handler
    · exact .inl rfl
    · exact .inr rfl

theorem keepsRegs_closePass (s : State) (t : TileId) (p : Pass) : KeepsRegs s (s.closePass t p) := by
  obtain ⟨u, hu, h | h⟩ := closePass_settles s t p <;> rw [h]
  · exact hu.toKeepsRegs
  · exact hu.toKeepsRegs.trans (keepsRegs_handlerDone u t)

theorem settles_closePass {s : State} {t : TileId} (hend : (s.ctx (s.ctxOf t)).heldEnd = none) (p : Pass) :
    Settles s (s.closePass t p) := by
  obtain ⟨u, hu, h | h⟩ := closePass_settles s t p <;> rw [h]
  · exact hu
  · rwa [State.handlerDone_of_none (hu.heldEnd t ▸ hend)]

/-! ### The end of the cycle -/

/-- A tile's register writes taken place, its passes still to commit (05 R109). -/
def State.regsWritten (s : State) (t : TileId) : State :=
  { s with touched := s.touched.filter (· ≠ t) }.modTile t Tile.writeRegs

theorem State.closeTile_eq (s : State) (t : TileId) : s.closeTile t =
    (((s.regsWritten t).tile t).passes.filter (fun p => !p.exits.isEmpty)).foldl (fun s p => s.closePass t p) (s.regsWritten t) := rfl

theorem keepsRegs_closeTile (s : State) (t : TileId) : KeepsRegs (s.regsWritten t) (s.closeTile t) :=
  KeepsRegs.foldl _ (fun s p => keepsRegs_closePass s t p) _

end Sys2Proof.Machine
end

section
/-! PROOFS. The register writes of a cycle (05 R109), in the order of their stations. -/

namespace Sys2Proof.Machine

/-! ### The order of the writes -/

section
variable {α : Type} (key : α → Nat)

theorem insertBy_pairwise (x : α) {l : List α} (h : l.Pairwise (fun a b => key a ≤ key b)) :
    (insertBy key x l).Pairwise (fun a b => key a ≤ key b) := by
  induction l with
  | nil => exact List.pairwise_singleton _ _
  | cons y ys ih =>
    obtain ⟨hy, hys⟩ := List.pairwise_cons.mp h
    rw [insertBy]
    split
    next hlt => exact List.pairwise_cons.mpr ⟨List.forall_mem_cons.mpr ⟨hlt.le, fun z hz => hlt.le.trans (hy z hz)⟩, h⟩
    next hlt =>
      refine List.pairwise_cons.mpr ⟨fun z hz => ?_, ih hys⟩
      obtain rfl | hz := (mem_insertBy key).mp hz
      · exact not_lt.mp hlt
      · exact hy z hz

theorem sortBy_pairwise (l : List α) : (sortBy key l).Pairwise (fun a b => key a ≤ key b) :=
  List.foldlRecOn (motive := fun acc : List α => acc.Pairwise (fun a b => key a ≤ key b)) l _ List.Pairwise.nil
    (fun _ h x _ => insertBy_pairwise key x h)

/-- An element goes into a rising list after the elements that do not lie above it. -/
theorem insertBy_split (x : α) {l : List α} (h : l.Pairwise (fun a b => key a ≤ key b)) :
    ∃ as bs, insertBy key x l = as ++ x :: bs ∧ ∀ q ∈ bs, q ∈ l ∧ key x < key q := by
  induction l with
  | nil => exact ⟨[], [], rfl, by simp⟩
  | cons y ys ih =>
    obtain ⟨hy, hys⟩ := List.pairwise_cons.mp h
    rw [insertBy]
    split
    next hlt =>
      exact ⟨[], y :: ys, rfl, fun q hq => ⟨hq, (List.mem_cons.mp hq).elim (fun e => e ▸ hlt) (fun hq => hlt.trans_le (hy q hq))⟩⟩
    next hlt =>
      obtain ⟨as, bs, heq, hbs⟩ := ih hys
      exact ⟨y :: as, bs, by rw [heq, List.cons_append], fun q hq => ⟨List.mem_cons_of_mem y (hbs q hq).1, (hbs q hq).2⟩⟩

/-- An element put into a list with `w` stands before it or behind it, and behind it only if it does not lie below. -/
theorem insertBy_around (w y : α) (as bs : List α) : ∃ as' bs', insertBy key y (as ++ w :: bs) = as' ++ w :: bs' ∧
    ∀ q ∈ bs', q ∈ bs ∨ (q = y ∧ key w ≤ key y) := by
  induction as with
  | nil =>
    rw [List.nil_append, insertBy]
    split
    · exact ⟨[y], bs, rfl, fun q hq => .inl hq⟩
    next hlt =>
      refine ⟨[], insertBy key y bs, rfl, fun q hq => ?_⟩
      obtain rfl | hq := (mem_insertBy key).mp hq
      · exact .inr ⟨rfl, not_lt.mp hlt⟩
      · exact .inl hq
  | cons a as ih =>
    rw [List.cons_append, insertBy]
    split
    · exact ⟨y :: a :: as, bs, rfl, fun q hq => .inl hq⟩
    · obtain ⟨as', bs', heq, hbs⟩ := ih
      exact ⟨a :: as', bs', by rw [heq, List.cons_append], hbs⟩

/-- What stands behind an element of a sorted list: earlier elements above it, later ones that do not lie below it. -/
theorem sortBy_split (xs ys : List α) (w : α) : ∃ as bs, sortBy key (xs ++ w :: ys) = as ++ w :: bs ∧
    ∀ q ∈ bs, (q ∈ xs ∧ key w < key q) ∨ (q ∈ ys ∧ key w ≤ key q) := by
  induction ys using List.reverseRecOn with
  | nil =>
    obtain ⟨as, bs, heq, hbs⟩ := insertBy_split key w (sortBy_pairwise key xs)
    refine ⟨as, bs, ?_, fun q hq => .inl ⟨(mem_sortBy key).mp (hbs q hq).1, (hbs q hq).2⟩⟩
    rw [← heq, sortBy, List.foldl_append]
    rfl
  | append_singleton ys y ih =>
    obtain ⟨as, bs, heq, hbs⟩ := ih
    obtain ⟨as', bs', heq', hbs'⟩ := insertBy_around key w y as bs
    refine ⟨as', bs', ?_, fun q hq => ?_⟩
    · rw [← heq', ← heq, sortBy, ← List.cons_append, ← List.append_assoc, List.foldl_append]
      rfl
    · obtain hq | ⟨rfl, hle⟩ := hbs' q hq
      · exact (hbs q hq).imp id (fun h => ⟨List.mem_append_left _ h.1, h.2⟩)
      · exact .inr ⟨by simp, hle⟩

end

/-! ### Bytes laid over a register -/

theorem overlay_length (bs : Bytes) (off : Nat) (new : Bytes) : (overlay bs off new).length = bs.length := by
  simp only [overlay, List.length_append, List.length_take, List.length_drop]
  omega

/-- A byte of a register with bytes laid over it. -/
theorem byteAt_overlay (bs : Bytes) (off : Nat) (new : Bytes) (i : Nat) : byteAt (overlay bs off new) i =
    if off ≤ i ∧ i < off + new.length ∧ i < bs.length then byteAt new (i - off) else byteAt bs i := by
  simp only [byteAt, List.getD_eq_getElem?_getD, overlay, List.getElem?_append, List.getElem?_take, List.getElem?_drop,
    List.length_take]
  grind

/-! ### One write -/

section
variable (x : Tile) (w : RegWrite) (k i : Nat)

theorem Tile.writeReg_regNext : (x.writeReg w).regNext = x.regNext := by
  unfold Tile.writeReg
  split <;> rfl

/-- A list with one element replaced, read with a default. -/
theorem getD_setAt {α : Type} (l : List α) (n k : Nat) (v d : α) : (setAt l n v).getD k d =
    if n = k ∧ k < l.length then v else l.getD k d := by
  simp only [setAt, List.getD_eq_getElem?_getD, List.getElem?_set]
  split_ifs <;> simp_all

/-- The bytes of a state register that a write covers. -/
theorem Tile.writeReg_sreg : (x.writeReg w).sreg k =
    if w.reg = .s k ∧ k < x.sregs.length then overlay (x.sreg k) w.off w.bytes else x.sreg k := by
  obtain ⟨n, reg, off, bs⟩ := w
  cases reg with
  | s n =>
    simp only [Tile.writeReg, Tile.writeSreg, RegName.s.injEq]
    rw [Tile.sreg, getD_setAt]
    split
    next h => rw [h.1]
    next => rfl
  | w n | a n => simp [Tile.writeReg, Tile.sreg]

theorem Tile.writeReg_wreg : (x.writeReg w).wregs.getD k [] =
    if w.reg = .w k ∧ k < x.wregs.length then overlay (x.wregs.getD k []) w.off (w.bytes.take 32) else x.wregs.getD k [] := by
  obtain ⟨n, reg, off, bs⟩ := w
  cases reg with
  | w n =>
    simp only [Tile.writeReg, RegName.w.injEq]
    rw [getD_setAt]
    split
    next h => rw [h.1]
    next => rfl
  | s n | a n => simp [Tile.writeReg, Tile.writeSreg]

theorem Tile.writeReg_areg : (x.writeReg w).aregs.getD k 0 =
    if w.reg = .a k ∧ k < x.aregs.length then BitVec.ofNat 64 (leNat w.bytes) else x.aregs.getD k 0 := by
  obtain ⟨n, reg, off, bs⟩ := w
  cases reg with
  | a n =>
    simp only [Tile.writeReg, RegName.a.injEq]
    rw [getD_setAt]
  | s n | w n => simp [Tile.writeReg, Tile.writeSreg]

end

/-! ### The writes of a cycle -/

/-- The state and weight-scale registers of two tiles have the same number and lengths, and the address registers the same number. -/
structure SameSize (x y : Tile) : Prop where
  sregs : y.sregs.length = x.sregs.length
  sreg : ∀ k, (y.sreg k).length = (x.sreg k).length
  wregs : y.wregs.length = x.wregs.length
  wreg : ∀ k, (y.wregs.getD k []).length = (x.wregs.getD k []).length
  aregs : y.aregs.length = x.aregs.length

theorem SameSize.refl (x : Tile) : SameSize x x := ⟨rfl, fun _ => rfl, rfl, fun _ => rfl, rfl⟩

theorem Tile.writeReg_counts (y : Tile) (w : RegWrite) : (y.writeReg w).sregs.length = y.sregs.length
    ∧ (y.writeReg w).wregs.length = y.wregs.length ∧ (y.writeReg w).aregs.length = y.aregs.length := by
  unfold Tile.writeReg
  split <;> simp [Tile.writeSreg, setAt]

theorem sameSize_writeReg {x y : Tile} (h : SameSize x y) (w : RegWrite) : SameSize x (y.writeReg w) := by
  obtain ⟨hsregs, hwregs, haregs⟩ := y.writeReg_counts w
  refine ⟨hsregs.trans h.sregs, fun k => ?_, hwregs.trans h.wregs, fun k => ?_, haregs.trans h.aregs⟩
  · rw [Tile.writeReg_sreg, ← h.sreg, apply_ite List.length, overlay_length, ite_self]
  · rw [Tile.writeReg_wreg, ← h.wreg, apply_ite List.length, overlay_length, ite_self]

/-- What a tile shows, where its writes to come do not count. -/
def Shows {β : Type} (v : Tile → β) : Prop := ∀ x ws, v { x with regNext := ws } = v x

section
variable {β : Type} {v : Tile → β} {hit : RegWrite → Prop} (hv : Shows v) (hmiss : ∀ y w, ¬ hit w → v (y.writeReg w) = v y)

include hmiss in
theorem foldl_writeReg_missed {l : List RegWrite} (h : ∀ w ∈ l, ¬ hit w) (x : Tile) : v (l.foldl Tile.writeReg x) = v x :=
  List.foldlRecOn (motive := fun y => v y = v x) l _ rfl (fun y hy w hw => (hmiss y w (h w hw)).trans hy)

include hv hmiss in
/-- What no write of the cycle hits stays. -/
theorem Tile.writeRegs_missed {x : Tile} (h : ∀ w ∈ x.regNext, ¬ hit w) : v x.writeRegs = v x :=
  (foldl_writeReg_missed hmiss (fun w hw => h w ((mem_sortBy _).mp hw)) _).trans (hv x [])

include hmiss in
/-- What several writes hit is left by the one of the highest station, of one station by the later (05 R109). -/
theorem Tile.writeRegs_last {x : Tile} {xs ys : List RegWrite} {w : RegWrite} {b : β} (h : x.regNext = xs ++ w :: ys)
    (hxs : ∀ q ∈ xs, hit q → q.station ≤ w.station) (hys : ∀ q ∈ ys, hit q → q.station < w.station)
    (hhit : ∀ y, SameSize x y → v (y.writeReg w) = b) : v x.writeRegs = b := by
  obtain ⟨as, bs, heq, hbs⟩ := sortBy_split (·.station) xs ys w
  have hsize : SameSize x (as.foldl Tile.writeReg { x with regNext := [] }) :=
    List.foldlRecOn (motive := SameSize x) as _ ⟨rfl, fun _ => rfl, rfl, fun _ => rfl, rfl⟩ (fun _ hy q _ => sameSize_writeReg hy q)
  rw [Tile.writeRegs, h, heq, List.foldl_append, List.foldl_cons, foldl_writeReg_missed hmiss ?_, hhit _ hsize]
  intro q hq hq'
  obtain ⟨hmem, hlt⟩ | ⟨hmem, hle⟩ := hbs q hq
  · exact absurd (hxs q hmem hq') (not_le.mpr hlt)
  · exact absurd (hys q hmem hq') (not_lt.mpr hle)

end

/-- Whether a write covers byte `i` of a register. -/
def RegWrite.Covers (r : RegName) (i : Nat) (w : RegWrite) : Prop := w.reg = r ∧ w.off ≤ i ∧ i < w.off + w.bytes.length

section
variable {y : Tile} {w : RegWrite} {k i : Nat}

theorem Tile.writeReg_sreg_missed (h : ¬ w.Covers (.s k) i) : byteAt ((y.writeReg w).sreg k) i = byteAt (y.sreg k) i := by
  rw [Tile.writeReg_sreg]
  split
  next hreg => rw [byteAt_overlay, if_neg (fun hc => h ⟨hreg.1, hc.1, hc.2.1⟩)]
  next => rfl

theorem Tile.writeReg_sreg_hit (h : w.Covers (.s k) i) (hk : k < y.sregs.length) (hi : i < (y.sreg k).length) :
    byteAt ((y.writeReg w).sreg k) i = byteAt w.bytes (i - w.off) := by
  rw [Tile.writeReg_sreg, if_pos ⟨h.1, hk⟩, byteAt_overlay, if_pos ⟨h.2.1, h.2.2, hi⟩]

theorem Tile.writeReg_wreg_missed (h : ¬ w.Covers (.w k) i) :
    byteAt ((y.writeReg w).wregs.getD k []) i = byteAt (y.wregs.getD k []) i := by
  rw [Tile.writeReg_wreg]
  split
  next hreg =>
    rw [byteAt_overlay, if_neg (fun hc => h ⟨hreg.1, hc.1, ?_⟩)]
    exact hc.2.1.trans_le (Nat.add_le_add_left (List.length_take_le' _ _) _)
  next => rfl

theorem Tile.writeReg_wreg_hit (h : w.Covers (.w k) i) (hoff : w.off = 0) (hk : k < y.wregs.length)
    (hi : i < (y.wregs.getD k []).length) (h32 : i < 32) :
    byteAt ((y.writeReg w).wregs.getD k []) i = byteAt w.bytes (i - w.off) := by
  obtain ⟨hreg, hlo, hhi⟩ := h
  have hcut : i < w.off + (w.bytes.take 32).length := by
    rw [List.length_take]
    omega
  rw [Tile.writeReg_wreg, if_pos ⟨hreg, hk⟩, byteAt_overlay, if_pos ⟨hlo, hcut, hi⟩, hoff, Nat.sub_zero, byteAt, byteAt,
    List.getD_eq_getElem?_getD, List.getElem?_take_of_lt h32, ← List.getD_eq_getElem?_getD]

theorem Tile.writeReg_areg_missed (h : w.reg ≠ .a k) : (y.writeReg w).aregs.getD k 0 = y.aregs.getD k 0 := by
  rw [Tile.writeReg_areg, if_neg (fun hc => h hc.1)]

theorem Tile.writeReg_areg_hit (h : w.reg = .a k) (hk : k < y.aregs.length) :
    (y.writeReg w).aregs.getD k 0 = BitVec.ofNat 64 (leNat w.bytes) := by
  rw [Tile.writeReg_areg, if_pos ⟨h, hk⟩]

theorem Tile.writeRegs_regNext (x : Tile) : x.writeRegs.regNext = [] :=
  List.foldlRecOn (motive := fun y : Tile => y.regNext = []) _ _ rfl (fun y hy w _ => (y.writeReg_regNext w).trans hy)

theorem Tile.writeRegs_region (x : Tile) : x.writeRegs.region = x.region := by
  refine Tile.writeRegs_missed (v := Tile.region) (hit := fun _ => False) (fun _ _ => rfl) (fun y w _ => ?_) (fun _ _ h => h)
  unfold Tile.writeReg
  split <;> rfl

end

theorem State.regsWritten_heldEnd (s : State) (t : TileId) :
    ((s.regsWritten t).ctx ((s.regsWritten t).ctxOf t)).heldEnd = (s.ctx (s.ctxOf t)).heldEnd := by
  have hctx : (s.regsWritten t).ctxOf t = s.ctxOf t := by
    rw [State.ctxOf, State.regsWritten, State.modTile_tile_self, Tile.writeRegs_region]
    rfl
  rw [hctx]
  rfl

/-- Where no end of the context is held, the passes that commit leave memory alone. -/
theorem settles_closeTile {s : State} {t : TileId} (h : (s.ctx (s.ctxOf t)).heldEnd = none) : Settles (s.regsWritten t) (s.closeTile t) :=
  List.foldlRecOn (motive := Settles (s.regsWritten t)) _ _ (Settles.refl _) (fun u hu p _ =>
    hu.trans (settles_closePass (by rw [hu.heldEnd, State.regsWritten_heldEnd, h]) p))

end Sys2Proof.Machine

open Sys2Proof Sys2Proof.Machine

/-- Settles O30: the writes go by station, so that of those that hit a byte the one that the statement names comes last
(`Tile.writeRegs_last`); the passes that then commit write no register (`keepsRegs_closeTile`), and no memory but where an end of the
context is held (`settles_closeTile`). -/
theorem registersAtCycleEnd : Obligations.RegistersAtCycleEnd := by
  intro s t x s' y covers last
  have hkeeps := keepsRegs_closeTile s t
  have hself : (s.regsWritten t).tile t = x.writeRegs := State.modTile_tile_self _ _ _
  have hself : SameRegs x.writeRegs y := hself ▸ hkeeps.tile t
  have hsreg (k : Nat) : y.sreg k = x.writeRegs.sreg k := by rw [Tile.sreg, hself.sregs]; rfl
  refine ⟨hself.regNext x.writeRegs_regNext, ?touched, fun hend => (settles_closeTile hend).mem, fun k i h => ?smissed,
    fun k i xs w ys hk hi h => ?slast, fun k i h => ?wmissed, fun k i xs w ys hk hi hoff h32 h => ?wlast, fun k h => ?amissed,
    fun k xs w ys hk h => ?alast, fun t' ht' => ?others⟩
  case touched =>
    rw [hkeeps.touched]
    simp [State.regsWritten]
  case smissed =>
    rw [hsreg]
    exact Tile.writeRegs_missed (v := fun y => byteAt (y.sreg k) i) (fun _ _ => rfl) (fun _ _ => Tile.writeReg_sreg_missed) h
  case slast =>
    obtain ⟨hsplit, hit, hxs, hys⟩ := h
    rw [hsreg]
    exact Tile.writeRegs_last (v := fun y => byteAt (y.sreg k) i) (fun _ _ => Tile.writeReg_sreg_missed) hsplit hxs hys
      (fun y hy => Tile.writeReg_sreg_hit hit (hy.sregs ▸ hk) (hy.sreg k ▸ hi))
  case wmissed =>
    rw [hself.wregs]
    exact Tile.writeRegs_missed (v := fun y => byteAt (y.wregs.getD k []) i) (fun _ _ => rfl) (fun _ _ => Tile.writeReg_wreg_missed) h
  case wlast =>
    obtain ⟨hsplit, hit, hxs, hys⟩ := h
    have hw : w.off = 0 := hoff w (by rw [hsplit]; simp) k hit.1
    rw [hself.wregs]
    exact Tile.writeRegs_last (v := fun y => byteAt (y.wregs.getD k []) i) (fun _ _ => Tile.writeReg_wreg_missed) hsplit hxs hys
      (fun y hy => Tile.writeReg_wreg_hit hit hw (hy.wregs ▸ hk) (hy.wreg k ▸ hi) h32)
  case amissed =>
    rw [hself.aregs]
    exact Tile.writeRegs_missed (v := fun y => y.aregs.getD k 0) (fun _ _ => rfl) (fun _ _ => Tile.writeReg_areg_missed) h
  case alast =>
    obtain ⟨hsplit, hit, hxs, hys⟩ := h
    rw [hself.aregs]
    exact Tile.writeRegs_last (v := fun y => y.aregs.getD k 0) (fun _ _ => Tile.writeReg_areg_missed) hsplit hxs hys
      (fun y hy => Tile.writeReg_areg_hit hit (hy.aregs ▸ hk))
  case others =>
    have h := hkeeps.tile t'
    rw [State.regsWritten, State.modTile_tile_ne _ _ _ _ ht'] at h
    exact ⟨h.sregs, h.aregs, h.wregs⟩

end

section
/-! PROOFS. A store performed on a scratchpad (08 R168, R169, R173): its bytes, its granules, its entry of the forwarding table. -/

namespace Sys2Proof.Machine

/-! ### The bytes of a list of writes -/

/-- One more write at the end of a list: it covers what the earlier ones wrote. -/
theorem writtenAt_append (ws : List (Nat × Bytes)) (w : Nat × Bytes) (a : Nat) : writtenAt (ws ++ [w]) a =
    if w.1 ≤ a ∧ a < w.1 + w.2.length then w.2[a - w.1]? else writtenAt ws a := by
  simp [writtenAt, List.foldl_append]

/-- Each byte of a memory that a list of writes has gone to holds what the last write that covers it wrote. -/
theorem Memory.get_writes (m : Memory) (ws : List (Nat × Bytes)) (a : Nat) :
    Memory.get (ws.foldl (fun m p => Memory.setN m p.1 p.2) m) a = (writtenAt ws a).getD (Memory.get m a) := by
  induction ws using List.reverseRecOn with
  | nil => rfl
  | append_singleton ws w ih =>
    rw [List.foldl_append, List.foldl_cons, List.foldl_nil, Memory.get_setN, writtenAt_append, ih]
    split
    next h =>
      have hlt : a - w.1 < w.2.length := by omega
      simp [List.getElem?_eq_getElem hlt]
    next => rfl

/-! ### Granules -/

/-- The granules of a run of bytes, in order. -/
theorem mem_granules_of_run {off n g : Nat} (hn : n ≠ 0) :
    g ∈ (List.range ((off + n - 1) / 16 - off / 16 + 1)).map (· + off / 16) ↔ ∃ i < n, g = (off + i) / 16 := by
  simp only [List.mem_map, List.mem_range]
  constructor
  · rintro ⟨k, hk, rfl⟩
    refine ⟨16 * (k + off / 16) - off, ?_, ?_⟩ <;> omega
  · rintro ⟨i, hi, rfl⟩
    exact ⟨(off + i) / 16 - off / 16, by omega, by omega⟩

theorem mem_granulesOf {runs : List (Nat × Nat)} {g : Nat} : g ∈ granulesOf runs ↔ ∃ r ∈ runs, ∃ i < r.2, g = (r.1 + i) / 16 := by
  simp only [granulesOf, List.mem_eraseDups, List.mem_flatMap]
  refine exists_congr fun r => and_congr_right fun _ => ?_
  split
  next h => simp [h]
  next h => exact mem_granules_of_run h

/-! ### The store -/

/-- The tile after a store: its bytes written, its granules full, its entry at the end of the forwarding table (08 R169, R173). -/
def Tile.stored (ws : List (Nat × Bytes)) (x : Tile) : Tile :=
  { x with
    spad := ws.foldl (fun m p => Memory.setN m p.1 p.2) x.spad
    full := leaveBits x.full (granulesOf (ws.map (fun p => (p.1, p.2.length)))) 4
    fwd := x.fwd ++ [granulesOf (ws.map (fun p => (p.1, p.2.length)))] }

/-- The state in which a store has been performed and its completion tokens are still to leave. -/
def State.stlDone (s : State) (j : Job) (ws : List (Nat × Bytes)) : State :=
  (((s.spadSeen j).2.modTile j.fi.at_ (Tile.stored ws)).due (.forwardingRetire j.fi.at_)).due (.fullEmptyWaitPerform j.fi.at_)

theorem State.stlPerform_eq (s : State) (j : Job) (ws : List (Nat × Bytes)) :
    s.stlPerform j ws = (s.stlDone j ws).emitBoth (s.spadSeen j).1 .value [] := rfl

theorem State.stlDone_tile (s : State) (j : Job) (ws : List (Nat × Bytes)) :
    ∃ n, (s.stlDone j ws).tile j.fi.at_ = (Tile.stored ws { s.tile j.fi.at_ with seen := n }) := by
  obtain ⟨n, hn⟩ := s.spadSeen_tile j
  refine ⟨n, ?_⟩
  rw [State.stlDone, State.due_tile, State.due_tile, State.modTile_tile_self, hn]

/-- The granules of a list of writes. -/
theorem mem_granulesOf_writes {ws : List (Nat × Bytes)} {g : Nat} : g ∈ granulesOf (ws.map (fun p => (p.1, p.2.length))) ↔
    ∃ w ∈ ws, ∃ i < w.2.length, g = (w.1 + i) / 16 := by
  simp only [mem_granulesOf, List.mem_map, exists_exists_and_eq_and]

end Sys2Proof.Machine

open Sys2Proof Sys2Proof.Machine

/-- Settles O35: the state before the tokens leave is `State.stlDone`; each byte by `Memory.get_writes`, the granules by
`mem_granulesOf_writes`. -/
theorem localStorePerforms : Obligations.LocalStorePerforms := by
  intro s j ws
  obtain ⟨n, hn⟩ := s.stlDone_tile j ws
  refine ⟨s.stlDone j ws, s.stlPerform_eq j ws, fun a => ?bytes, fun g => ?full, ⟨_, by rw [hn]; rfl, fun g => mem_granulesOf_writes⟩,
    State.agenda_subset_due _ _ (State.mem_due _ _), State.mem_due _ _, fun t' ht' => ?others, ?mem, ?hostMem⟩
  case bytes =>
    rw [hn]
    exact Memory.get_writes _ ws a
  case full =>
    rw [hn, ← mem_granulesOf_writes]
    simp [Tile.stored, mem_leaveBits]
  case others =>
    rw [State.stlDone, State.due_tile, State.due_tile, State.modTile_tile_ne _ _ _ _ ht']
    exact State.modTile_tile_ne _ _ _ _ ht'
  case mem =>
    rw [State.stlDone, State.due_mem, State.due_mem]
    rfl
  case hostMem =>
    rw [State.stlDone, State.due_hostMem, State.due_hostMem]
    rfl

end

section
/-! PROOFS. LDL and STL (08 R175, R176): the element addresses, and what a load that is performed at once comes to. -/

namespace Sys2Proof.Machine

/-! ### Element addresses -/

theorem leNat_lt (bs : Bytes) : leNat bs < 2 ^ (8 * bs.length) := by
  induction bs with
  | nil => exact Nat.one_pos
  | cons b bs ih =>
    rw [leNat, List.length_cons, Nat.mul_add, pow_add]
    have := b.isLt
    omega

theorem numAt_lt (bs : Bytes) (off n : Nat) : numAt bs off n < 2 ^ (8 * n) :=
  (leNat_lt _).trans_le (Nat.pow_le_pow_right (by decide) (Nat.mul_le_mul_left 8 (List.length_take_le _ _)))

/-- The signed reading of a number of `w` bits. -/
theorem asSigned_of_lt {w v : Nat} (h : v < 2 ^ w) : asSigned w v = if v < 2 ^ (w - 1) then (v : Int) else (v : Int) - 2 ^ w := by
  simp [asSigned, Nat.mod_eq_of_lt h]

/-- The addresses of the elements of a scratchpad access, by the form of the access (08 R175). -/
def elementAddrs (minor sz : Nat) (d : Bytes) (base n : Nat) : List Int := (List.range n).map (fun i =>
  if minor = 0 then ((base + i * sz : Nat) : Int)
  else if minor = 1 then (base : Int) + i * (let k := leNat (sliceB d 6 2); if k < 2 ^ 15 then (k : Int) else k - 2 ^ 16)
  else ((base + leNat (sliceB d (8 + 2 * i) 2) * sz : Nat) : Int))

/-- The addresses as the model forms them. -/
theorem elementAddrs_eq {minor : Nat} (hminor : minor < 3) (sz : Nat) (d : Bytes) (base n : Nat) : elementAddrs minor sz d base n =
    (List.range n).map (fun i => match (generalizing := false) minor with
      | 0 => ((base + i * sz : Nat) : Int)
      | 1 => (base : Int) + i * asSigned 16 (numAt d 6 2)
      | _ => ((base + numAt d (8 + 2 * i) 2 * sz : Nat) : Int)) := by
  refine List.map_congr_left fun i _ => ?_
  rw [asSigned_of_lt (numAt_lt d 6 2)]
  interval_cases minor <;> simp [leNat_sliceB]

/-- The limits of a scratchpad access: the length of its descriptor and the bounds of the scratchpad (08 R176). -/
def WithinSpad (minor sz l : Nat) (as : List Int) : Prop :=
  (minor = 2 → l ≤ 60) ∧ (minor ≠ 2 → l ≤ 128) ∧ ∀ a ∈ as, 0 ≤ a ∧ a + sz ≤ 0x30000

/-- The test of a scratchpad access is that of its limits. -/
theorem withinSpad_iff {minor sz l : Nat} {as : List Int} : WithinSpad minor sz l as ↔
    ((minor = 2 && l > 60) || (minor ≠ 2 && l > 128) || as.any (fun a => a < 0 || a + (sz : Int) - 1 ≥ (spadBytes : Int))) = false := by
  simp only [WithinSpad, Bool.or_eq_false_iff, Bool.and_eq_false_imp, List.any_eq_false, decide_eq_true_eq, decide_eq_false_iff_not,
    not_lt, gt_iff_lt, ge_iff_le, Bool.or_eq_true, not_or, and_assoc, spadBytes]
  refine and_congr_right fun _ => and_congr_right fun _ => forall₂_congr fun a _ => ?_
  omega

section
variable {minor sz base n : Nat} {isStl hasB : Bool} {d : Bytes} {addend lenB : Nat} (hminor : minor < 3)
  (hbase : (numAt d 0 4 + if isStl then 0 else addend) % 2 ^ 32 = base)
  (hn : (if minor = 2 then (byteAt d 4).toNat
    else (if (byteAt d 4).toNat = 0 then (if isStl && hasB then lenB else 128) else (byteAt d 4).toNat) / sz) = n)

include hminor hbase hn

/-- The addresses that an access forms from its base address and its count of elements. -/
theorem spadAddrs_eq : spadAddrs minor sz isStl d addend lenB hasB =
    if ((minor = 2 && (byteAt d 4).toNat > 60) || (minor ≠ 2 && (byteAt d 4).toNat > 128)
      || (elementAddrs minor sz d base n).any (fun a => a < 0 || a + (sz : Int) - 1 ≥ (spadBytes : Int))) = true
    then none else some ((elementAddrs minor sz d base n).map Int.toNat) := by
  rw [elementAddrs_eq hminor, ← hbase, ← hn]
  interval_cases minor <;> rfl

theorem spadAddrs_within (h : WithinSpad minor sz (byteAt d 4).toNat (elementAddrs minor sz d base n)) :
    spadAddrs minor sz isStl d addend lenB hasB = some ((elementAddrs minor sz d base n).map Int.toNat) := by
  rw [spadAddrs_eq hminor hbase hn, if_neg]
  exact Bool.eq_false_iff.mp (withinSpad_iff.mp h)

theorem spadAddrs_beyond (h : ¬ WithinSpad minor sz (byteAt d 4).toNat (elementAddrs minor sz d base n)) :
    spadAddrs minor sz isStl d addend lenB hasB = none := by
  rw [spadAddrs_eq hminor hbase hn, if_pos]
  exact Bool.eq_true_of_not_eq_false (mt withinSpad_iff.mpr h)

end

/-- An access has an address for each of its elements. -/
theorem elementAddrs_map_isEmpty (minor sz : Nat) (d : Bytes) (base n : Nat) :
    ((elementAddrs minor sz d base n).map Int.toNat).isEmpty = decide (n = 0) := by
  cases n <;> simp [elementAddrs, List.range_succ]

/-! ### A load that goes ahead -/

/-- A load is performed at once when the forwarding table has a place, no waiting access goes first and its condition holds (08 R168,
R170, R173). -/
theorem State.issueOf_perform {s : State} {t : TileId} {w : Waiting} (hfwd : (s.tile t).fwd.length < 16)
    (hfirst : (s.firstWaiting t).1 = none) (hrecord : s.behindRecord t w = false)
    (hfull : w.qual = 1 ∨ w.qual = 2 → ∀ g ∈ w.granules, g ∈ (s.tile t).full)
    (hempty : w.qual = 3 → ∀ g ∈ w.granules, g ∉ (s.tile t).full) : s.issueOf t w = .perform := by
  have hqual : qualHolds (s.tile t).full w.granules w.qual = true := by
    unfold qualHolds
    split
    next h => simpa using hfull (.inl h)
    next h => simpa using hfull (.inr h)
    next h => simpa using hempty h
    next => rfl
  simp [State.issueOf, not_le.mpr hfwd, hfirst, hrecord, Tile.canPerform_iff.mpr ⟨hfwd, hqual⟩]

theorem leaveBits_eq (full gs : List Nat) (qual : Nat) : leaveBits full gs qual =
    if qual = 2 then full.filter (fun g => !gs.contains g)
    else if qual = 3 ∨ qual = 4 then full ++ gs.filter (fun g => !full.contains g) else full := by
  unfold leaveBits
  split <;> simp_all

/-- A pass reads a scratchpad through its held stores (05 R104), whatever lies behind earlier accesses. -/
theorem State.spadSeen_spadRead (s : State) (j : Job) (inst off n : Nat) :
    ((s.spadSeen j).2.tile j.fi.at_).spadRead inst off n = (s.tile j.fi.at_).spadRead inst off n := by
  obtain ⟨k, hk⟩ := s.spadSeen_tile j
  rw [hk]
  rfl

/-- The full-empty bits as an access of a qualifier leaves them. -/
def Tile.leavesBits (qual : Nat) (gs : List Nat) (x : Tile) : Tile := { x with
  full := if qual = 2 then x.full.filter (fun g => !gs.contains g)
    else if qual = 3 ∨ qual = 4 then x.full ++ gs.filter (fun g => !x.full.contains g) else x.full }

theorem State.bitsLeft_eq (s : State) (t : TileId) (w : Waiting) : s.bitsLeft t w =
    if w.qual = 2 then (s.modTile t (Tile.leavesBits w.qual w.granules)).due (.fullEmptyWaitPerform t)
    else s.modTile t (Tile.leavesBits w.qual w.granules) := by
  have hleaves : Tile.leavesBits w.qual w.granules = fun x => { x with full := leaveBits x.full w.granules w.qual } :=
    funext fun x => by rw [Tile.leavesBits, leaveBits_eq]
  rw [hleaves]
  rfl

/-! ### The two classes -/

section
variable {minor : Nat} {f : Fields} {s u : State} {as : List Nat}

theorem fireLdl_beyond (h : Fires f (sregDests f) s u)
    (has : spadAddrs minor f.tyT.size false (descriptorOn u ⟨s.cur, f⟩ false) (addendOn u ⟨s.cur, f⟩ 4) 0 false = none) :
    fireLdl minor f s = finished f s (u.spadFault ⟨s.cur, f⟩ 0x12 (descriptorOn u ⟨s.cur, f⟩ false)) := by
  rw [fireLdl, fire_next h]
  simp only [has]

theorem fireLdl_empty (h : Fires f (sregDests f) s u)
    (has : spadAddrs minor f.tyT.size false (descriptorOn u ⟨s.cur, f⟩ false) (addendOn u ⟨s.cur, f⟩ 4) 0 false = some as)
    (hempty : as.isEmpty = true) : fireLdl minor f s = finished f s ((u.consume s.cur).emitBoth ⟨s.cur, f⟩ .value []) := by
  rw [fireLdl, fire_next h]
  simp only [has, hempty, if_true]

theorem fireLdl_performs (h : Fires f (sregDests f) s u)
    (has : spadAddrs minor f.tyT.size false (descriptorOn u ⟨s.cur, f⟩ false) (addendOn u ⟨s.cur, f⟩ 4) 0 false = some as)
    (hempty : as.isEmpty = false)
    (hissue : u.issueOf s.cur.at_ { job := ⟨s.cur, f⟩, reads := as, size := f.tyT.size, qual := f.qual } = .perform) :
    fireLdl minor f s = finished f s (u.ldlPerform { job := ⟨s.cur, f⟩, reads := as, size := f.tyT.size, qual := f.qual }) := by
  rw [fireLdl, fire_next h]
  simp only [has, hempty, hissue, Bool.false_eq_true, if_false]

theorem fireStl_beyond (h : Fires f [] s u) (has : spadAddrs minor f.tyT.size true (descriptorOn u ⟨s.cur, f⟩ false) 0
      (s.cur.payload true).length (f.srcB = 0) = none) :
    fireStl minor f s = finished f s (u.spadFault ⟨s.cur, f⟩ 0x13 (descriptorOn u ⟨s.cur, f⟩ false)) := by
  rw [fireStl, fire_next h]
  simp only [has]

theorem fireStl_empty (h : Fires f [] s u) (has : spadAddrs minor f.tyT.size true (descriptorOn u ⟨s.cur, f⟩ false) 0
      (s.cur.payload true).length (f.srcB = 0) = some as) (hempty : as.isEmpty = true) :
    fireStl minor f s = finished f s ((u.consume s.cur).emitBoth ⟨s.cur, f⟩ .value []) := by
  rw [fireStl, fire_next h]
  simp only [has, hempty, if_true]

theorem fireStl_holds (h : Fires f [] s u) (has : spadAddrs minor f.tyT.size true (descriptorOn u ⟨s.cur, f⟩ false) 0
      (s.cur.payload true).length (f.srcB = 0) = some as) (hempty : as.isEmpty = false) :
    fireStl minor f s = finished f s ((u.consume s.cur).hold ⟨s.cur, f⟩ (.stl ⟨s.cur, f⟩ (as.zipIdx.map (fun p =>
      (p.1, sliceB (opIn f s u f.tyT true) (p.2 * f.tyT.size) f.tyT.size))) (f.qual = 3))) := by
  rw [fireStl, fire_next h]
  simp only [has, hempty, Bool.false_eq_true, if_false]
  rfl

end

/-- The instructions of the two classes, by their minor. -/
theorem exec_ldl {minor : Nat} (h : minor < 3) (f : Fields) (s : State) :
    exec (if minor = 0 then .ldlLdl f else if minor = 1 then .ldlLdls f else .ldlLdlx f) s = .next (fireLdl minor f s) := by
  interval_cases minor <;> rfl

theorem exec_stl {minor : Nat} (h : minor < 3) (f : Fields) (s : State) :
    exec (if minor = 0 then .stlStl f else if minor = 1 then .stlStls f else .stlStlx f) s = .next (fireStl minor f s) := by
  interval_cases minor <;> rfl

end Sys2Proof.Machine

open Sys2Proof Sys2Proof.Machine

/-- Settles O34: a load or store forms the addresses of `elementAddrs` or faults (`spadAddrs_within`, `spadAddrs_beyond`); a load that
nothing holds back is performed (`State.issueOf_perform`, `State.ldlPerform_eq`), a store is held. -/
theorem localMemoryResults : Obligations.LocalMemoryResults := by
  intro f s u minor hminor t j x sz d l put addrs inside ldl stl
  have hldl : exec ldl s = .next (fireLdl minor f s) := exec_ldl hminor f s
  have hstl : exec stl s = .next (fireStl minor f s) := exec_stl hminor f s
  refine ⟨?load, ?store⟩
  case load =>
    intro h n as
    have hbase : (numAt d 0 4 + if false then 0 else addendOn u j 4) % 2 ^ 32 = (leNat (sliceB d 0 4) + addendOn u j 4) % 2 ^ 32 := by
      rw [leNat_sliceB]
      rfl
    have hwithin (hin : inside as) : spadAddrs minor sz false d (addendOn u j 4) 0 false = some (as.map Int.toNat) :=
      spadAddrs_within hminor hbase rfl hin
    have hempty : (as.map Int.toNat).isEmpty = decide (n = 0) := elementAddrs_map_isEmpty minor sz d _ n
    rw [hldl]
    refine ⟨fun hout => ?beyond, fun hin hn => ?empty, ?performs⟩
    case beyond => exact congrArg Host.Outcome.next (fireLdl_beyond h (spadAddrs_beyond hminor hbase rfl hout))
    case empty => exact congrArg Host.Outcome.next (fireLdl_empty h (hwithin hin) (hempty.trans (decide_eq_true hn)))
    case performs =>
      intro hin hn gs w hfwd hfirst hrecord hfull hnone data q v v'
      have hissue : u.issueOf t w = .perform := State.issueOf_perform hfwd hfirst hrecord hfull hnone
      have hread : (fun a => (q.2.tile t).spadRead s.cur.inst a sz) = fun a => x.spadRead s.cur.inst a sz :=
        funext fun a => State.spadSeen_spadRead u j s.cur.inst a sz
      have hdata : w.reads.flatMap (fun a => (q.2.tile t).spadRead s.cur.inst a sz) = data := by
        rw [hread]
        rfl
      have hbits : q.2.bitsLeft t w = v' := State.bitsLeft_eq _ _ _
      rw [fireLdl_performs h (hwithin hin) (hempty.trans (decide_eq_false hn.ne')) hissue, State.ldlPerform_eq, ← hdata, ← hbits]
  case store =>
    intro h n as b
    have hbase : (numAt d 0 4 + if true then 0 else 0) % 2 ^ 32 = leNat (sliceB d 0 4) := by
      rw [leNat_sliceB]
      exact Nat.mod_eq_of_lt (numAt_lt d 0 4)
    have hcount : (if minor = 2 then l
        else (if l = 0 then (if true && decide (f.srcB = 0) then (s.cur.payload true).length else 128) else l) / sz) = n := by
      simp only [Bool.true_and, decide_eq_true_eq]
      rfl
    have hwithin (hin : inside as) : spadAddrs minor sz true d 0 (s.cur.payload true).length (f.srcB = 0) = some (as.map Int.toNat) :=
      spadAddrs_within hminor hbase hcount hin
    have hempty : (as.map Int.toNat).isEmpty = decide (n = 0) := elementAddrs_map_isEmpty minor sz d _ n
    rw [hstl]
    refine ⟨fun hout => ?beyond, fun hin hn => ?empty, fun hin hn => ?holds⟩
    case beyond => exact congrArg Host.Outcome.next (fireStl_beyond h (spadAddrs_beyond hminor hbase hcount hout))
    case empty => exact congrArg Host.Outcome.next (fireStl_empty h (hwithin hin) (hempty.trans (decide_eq_true hn)))
    case holds => exact congrArg Host.Outcome.next (fireStl_holds h (hwithin hin) (hempty.trans (decide_eq_false hn.ne')))

end

section
/-! PROOFS. ST, SCATTER and XFER (10 R204, R205, R224, R225): the runs that they form, the leases that they need, and what they hold. -/

namespace Sys2Proof.Machine

/-! ### Slices -/

theorem sliceB_eq_map (bs : Bytes) (off n : Nat) : sliceB bs off n = (List.range n).map (fun i => byteAt bs (off + i)) := by
  refine List.ext_getElem? fun i => ?_
  simp only [sliceB, zeros, byteAt, List.getD_eq_getElem?_getD, List.getElem?_append, List.getElem?_map, List.getElem?_take,
    List.getElem?_drop, List.getElem?_replicate, List.length_take, List.length_drop]
  grind

theorem sliceB_append (bs : Bytes) (off m n : Nat) : sliceB bs off m ++ sliceB bs (off + m) n = sliceB bs off (m + n) := by
  simp only [sliceB_eq_map, List.range_add, List.map_append, List.map_map, Nat.add_assoc]
  rfl

/-- Slices of equal length that follow one another are one slice. -/
theorem flatMap_sliceB (bs : Bytes) (sz n : Nat) : (List.range n).flatMap (fun i => sliceB bs (i * sz) sz) = sliceB bs 0 (n * sz) := by
  induction n with
  | zero => simp [sliceB_eq_map]
  | succ n ih =>
    rw [List.range_succ, List.flatMap_append, ih, List.flatMap_singleton, Nat.succ_mul, ← sliceB_append, Nat.zero_add]

theorem zipIdx_map_range {α : Type} (g : Nat → α) (n : Nat) : ((List.range n).map g).zipIdx = (List.range n).map (fun i => (g i, i)) := by
  refine List.ext_getElem? fun i => ?_
  rcases lt_or_ge i n with h | h <;> simp [h]

theorem sumN_replicate (n x : Nat) : sumN (List.replicate n x) = n * x := by
  rw [sumN, ← List.sum_eq_foldl, List.sum_replicate, smul_eq_mul]

/-! ### Leases -/

section
variable {l : Launch} {write : Bool}

/-- A run that reaches into the memory of another owner is denied from its first byte (09 R183). -/
theorem firstDenied_of_owners {a n : Nat} (hn : n ≠ 0) (h : (a + n - 1) / 2 ^ 51 ≠ a / 2 ^ 51) : firstDenied l write a n = some a := by
  rw [firstDenied, if_neg hn, if_pos]
  exact (Bool.or_eq_true _ _).mpr (.inr (decide_eq_true h.symm))

theorem owner_of_firstDenied {a n : Nat} (h : firstDenied l write a n = none) (hn : n ≠ 0) : (a + n - 1) / 2 ^ 51 = a / 2 ^ 51 := by
  by_contra ho
  rw [firstDenied_of_owners hn ho] at h
  cases h

/-- One run is denied as an access where it is denied as a run. -/
theorem firstDeniedOf_singleton (a n : Nat) : firstDeniedOf l write [(a, n)] = firstDenied l write a n := by
  by_cases hn : n = 0
  · simp [firstDeniedOf, firstDenied, minBy, hn]
  · by_cases ho : (a + n - 1) / 2 ^ 51 = a / 2 ^ 51
    · simp [firstDeniedOf, minBy, hn, ho, -Nat.reducePow]
    · simp [firstDeniedOf, minBy, hn, ho, firstDenied_of_owners hn ho, -Nat.reducePow]

/-- Runs of one owner that are each allowed are allowed together. -/
theorem firstDeniedOf_none {runs : List (Nat × Nat)} (h : ∀ r ∈ runs, firstDenied l write r.1 r.2 = none)
    (hown : ∀ r ∈ runs, ∀ r' ∈ runs, r.1 / 2 ^ 51 = r'.1 / 2 ^ 51) : firstDeniedOf l write runs = none := by
  unfold firstDeniedOf
  extract_lets rs
  have hrs : ∀ r ∈ rs, r ∈ runs ∧ r.2 ≠ 0 := fun r hr => by simpa [rs] using hr
  split
  · rfl
  next lo hlo =>
    obtain ⟨q, hq, rfl⟩ := List.mem_map.mp (minBy_mem id hlo)
    rw [if_neg, List.findSome?_eq_none_iff]
    · exact fun r hr => h r (hrs r hr).1
    · simp only [List.any_eq_true, decide_eq_true_eq, not_exists, not_and, not_not]
      exact fun r hr => (owner_of_firstDenied (h r (hrs r hr).1) (hrs r hr).2).trans (hown r (hrs r hr).1 q (hrs q hq).1)

end

/-! ### Stores and scatters -/

theorem baseAddr_eq (s : State) (j : Job) (d : Bytes) (add : Nat) : baseAddr s j d add = (leNat (sliceB d 0 8)
    + (if (byteAt d 8).toNat / 16 % 2 = 1 then ((s.tile j.fi.at_).areg ((byteAt d 8).toNat % 16)).toNat else 0) + add) % 2 ^ 64 := by
  have hbit : bitN (byteAt d 8).toNat 4 = decide ((byteAt d 8).toNat / 16 % 2 = 1) := Nat.testBit_eq_decide_div_mod_eq
  have hreg : bitsN (byteAt d 8).toNat 0 4 = (byteAt d 8).toNat % 16 := by
    rw [bitsN, pow_zero, Nat.div_one]
    rfl
  simp only [baseAddr, hbit, hreg, leNat_sliceB, decide_eq_true_eq]

/-- The element runs of a plain store lie behind one another (10 R205). -/
theorem elementRuns_store {minor sz ea n : Nat} {d : Bytes} {lenB : Option Nat} (hl : (byteAt d 9).toNat ≤ 128)
    (hn : (if (byteAt d 9).toNat = 0 then lenB.getD 128 else (byteAt d 9).toNat) / sz = n) (hea : ea + n * sz ≤ 2 ^ 64) :
    elementRuns 0x15 minor sz ea d lenB = some ((List.range n).map (fun i => (ea + i * sz, sz))) := by
  have hruns : ∀ i < n, ea + i * sz + sz ≤ 2 ^ 64 := fun i hi => by
    have hle : (i + 1) * sz ≤ n * sz := Nat.mul_le_mul_right sz hi
    rw [Nat.succ_mul] at hle
    omega
  simpa [elementRuns, hn, hl] using hruns

/-- The element runs of a scatter (10 R205). -/
theorem elementRuns_scatter {minor sz ea : Nat} {d : Bytes} {lenB : Option Nat} (hl : (byteAt d 9).toNat ≤ 26)
    (hlen : (byteAt d 9).toNat * sz ≤ 128)
    (hea : ∀ k < (byteAt d 9).toNat, ea + leNat (sliceB d (24 + 4 * k) 4) * sz + sz ≤ 2 ^ 64) :
    elementRuns 0x17 minor sz ea d lenB =
      some ((List.range (byteAt d 9).toNat).map (fun k => (ea + leNat (sliceB d (24 + 4 * k) 4) * sz, sz))) := by
  simp only [leNat_sliceB] at hea ⊢
  simpa [elementRuns, hl, hlen] using hea

/-- The writes of a store, element by element: those of SCATM by its mask (10 R205). -/
def elementWrites (major minor sz : Nat) (d data : Bytes) (runs : List (Nat × Nat)) : List (Nat × Bytes) :=
  (runs.zipIdx.filter (fun q => !(major = 0x17 && minor = 1) || bitN (numAt d 12 4) q.2)).map
    (fun q => (q.1.1, sliceB data (q.2 * sz) sz))

/-- The runs of an access that its leases are asked for. -/
def checkedRuns (major : Nat) (runs : List (Nat × Nat)) : List (Nat × Nat) := if major = 0x15 then joinRuns runs else runs

section
variable {major minor : Nat} {f : Fields} {s u : State} {l : Launch} {runs : List (Nat × Nat)} (h : Fires f [] s u)
  (hruns : elementRuns major minor f.tyT.size (baseAddr u ⟨s.cur, f⟩ (descriptorOn u ⟨s.cur, f⟩ false) 0)
    (descriptorOn u ⟨s.cur, f⟩ false) (if f.srcB = 0 then some (s.cur.payload true).length else none) = some runs)
  (hl : u.launchOf s.cur = some l)

include h hruns hl

theorem fireStore_denied {a : Nat} (hden : firstDeniedOf l true (checkedRuns major runs) = some a) :
    fireStore major minor f s = finished f s (u.leaseFault ⟨s.cur, f⟩ major a 0) := by
  rw [checkedRuns] at hden
  rw [fireStore, fire_next h]
  simp only [hruns, hl, hden]

theorem fireStore_empty (hden : firstDeniedOf l true (checkedRuns major runs) = none)
    (hempty : elementWrites major minor f.tyT.size (descriptorOn u ⟨s.cur, f⟩ false) (opIn f s u f.tyT true) runs = []) :
    fireStore major minor f s = finished f s ((u.consume s.cur).emitBoth ⟨s.cur, f⟩ .value []) := by
  rw [checkedRuns] at hden
  rw [elementWrites, opIn] at hempty
  rw [fireStore, fire_next h]
  simp only [hruns, hl, hden, hempty, List.isEmpty_nil, if_true]

theorem fireStore_holds (hden : firstDeniedOf l true (checkedRuns major runs) = none) {ws : List (Nat × Bytes)} (hne : ws ≠ [])
    (hws : elementWrites major minor f.tyT.size (descriptorOn u ⟨s.cur, f⟩ false) (opIn f s u f.tyT true) runs = ws) :
    fireStore major minor f s = finished f s ((u.consume s.cur).hold ⟨s.cur, f⟩ (.store {
      job := ⟨s.cur, f⟩, major := major, minor := minor
      writes := if major = 0x15 then [(baseAddr u ⟨s.cur, f⟩ (descriptorOn u ⟨s.cur, f⟩ false) 0, ws.flatMap (·.2))] else ws
      credit := BitVec.ofNat 64 (numAt (descriptorOn u ⟨s.cur, f⟩ false) 16 8) })) := by
  rw [checkedRuns] at hden
  rw [elementWrites, opIn] at hws
  have hempty : ws.isEmpty = false := by simpa using hne
  rw [fireStore, fire_next h]
  simp only [hruns, hl, hden, hws, hempty, Bool.false_eq_true, if_false]

end

theorem joinRuns_contiguous (ea sz : Nat) {n : Nat} (hn : 0 < n) :
    joinRuns ((List.range n).map (fun i => (ea + i * sz, sz))) = [(ea, n * sz)] := by
  have hsum : sumN (((List.range n).map (fun i => (ea + i * sz, sz))).map (·.2)) = n * sz := by
    rw [List.map_map, Function.comp_def, List.map_const', List.length_range, sumN_replicate]
  obtain ⟨k, rfl⟩ := Nat.exists_eq_add_of_lt hn
  rw [Nat.zero_add] at hsum ⊢
  rw [List.range_succ_eq_map, List.map_cons] at hsum ⊢
  rw [joinRuns, hsum, Nat.zero_mul, Nat.add_zero]

theorem elementWrites_plain {minor : Nat} (sz n : Nat) (d data : Bytes) (ad : Nat → Nat) :
    elementWrites 0x15 minor sz d data ((List.range n).map (fun i => (ad i, sz))) =
      (List.range n).map (fun i => (ad i, sliceB data (i * sz) sz)) := by
  have hall (q : (Nat × Nat) × Nat) : (!(((0x15 : Nat) = 0x17 : Bool) && minor = 1) || bitN (numAt d 12 4) q.2) = true := by simp
  simp only [elementWrites, hall, List.filter_true, zipIdx_map_range, List.map_map, Function.comp_def]

/-- The writes of a scatter: one for each index, of SCATM for each whose mask bit is 1. -/
theorem elementWrites_scatter {minor : Nat} (h : minor < 2) (sz n : Nat) (d data : Bytes) (ad : Nat → Nat) :
    elementWrites 0x17 minor sz d data ((List.range n).map (fun k => (ad k, sz))) =
      ((List.range n).filter (fun k => minor = 0 || (leNat (sliceB d 12 4)).testBit k)).map (fun k => (ad k, sliceB data (k * sz) sz)) := by
  have htest (k : Nat) : (!(decide ((0x17 : Nat) = 0x17) && decide (minor = 1)) || bitN (numAt d 12 4) k)
      = (decide (minor = 0) || (leNat (sliceB d 12 4)).testBit k) := by
    rw [leNat_sliceB]
    interval_cases minor <;> rfl
  simp only [elementWrites, zipIdx_map_range, List.filter_map, List.map_map, Function.comp_def]
  exact congrArg _ (List.filter_congr fun k _ => htest k)

/-! ### Copies -/

/-- The rows of a copy are allowed where each is, all with the owner of the first (10 R225). -/
theorem rowDenied_none {l : Launch} {write : Bool} {base stride rows len : Nat}
    (h : 0 < len → ∀ k < rows, firstDenied l write (base + k * stride) len = none ∧ (base + k * stride) / 2 ^ 51 = base / 2 ^ 51) :
    rowDenied l write base stride rows len = none := by
  unfold rowDenied
  split
  · rfl
  next hne =>
    simp only [Bool.or_eq_true, decide_eq_true_eq, not_or] at hne
    have hrow : ∀ r ∈ copyRuns base stride rows len,
        firstDenied l write r.1 r.2 = none ∧ r.1 / 2 ^ 51 = base / 2 ^ 51 := by
      simpa only [copyRuns, List.forall_mem_map, List.mem_range] using h (Nat.pos_of_ne_zero hne.2)
    exact firstDeniedOf_none (fun r hr => (hrow r hr).1) (fun r hr r' hr' => (hrow r hr).2.trans (hrow r' hr').2.symm)

/-- The destination of a copy: in the scratchpad of a tile of the region, within its bounds, or in leased memory (10 R225). -/
def copyDenied (l : Launch) (r : Region) (die : Nat) (dsp : Bool) (home dst ds rows len : Nat) : Option Nat :=
  if dsp then
    if !r.tiles.contains ⟨die, home⟩ || (rows > 0 && len > 0 && dst % 2 ^ 18 + (rows - 1) * ds + len > spadBytes) then some dst else none
  else rowDenied l true dst ds rows len

theorem copyDenied_none {l : Launch} {r : Region} {die home dst ds rows len : Nat} {dsp : Bool}
    (hmem : dsp = false → 0 < len → ∀ k < rows, firstDenied l true (dst + k * ds) len = none ∧ (dst + k * ds) / 2 ^ 51 = dst / 2 ^ 51)
    (hspad : dsp = true → ⟨die, home⟩ ∈ r.tiles ∧ (0 < rows → 0 < len → dst % 2 ^ 18 + (rows - 1) * ds + len ≤ 0x30000)) :
    copyDenied l r die dsp home dst ds rows len = none := by
  unfold copyDenied
  cases dsp with
  | false => exact rowDenied_none (hmem rfl)
  | true =>
    obtain ⟨htile, hfits⟩ := hspad rfl
    have hno : ¬ (!r.tiles.contains ⟨die, home⟩
        || (rows > 0 && len > 0 && dst % 2 ^ 18 + (rows - 1) * ds + len > spadBytes)) = true := by
      simpa [htile, spadBytes] using hfits
    rw [if_pos rfl, if_neg hno]

/-- The copy that an XFER firing holds (10 R224, R225). -/
def copyReq (minor : Nat) (j : Job) (c : Nat) (d : Bytes) : CopyReq :=
  let dst := leNat (sliceB d 8 8)
  let dsp := (byteAt d 48).getLsbD 0
  { job := j, minor := minor, src := BitVec.ofNat 64 (leNat (sliceB d 0 8)), dst := BitVec.ofNat 64 (if dsp then dst % 2 ^ 18 else dst)
    len := leNat (sliceB d 16 4), rows := if minor = 1 then leNat (sliceB d 20 4) else 1
    sstride := leNat (sliceB d 24 4), dstride := leNat (sliceB d 28 4)
    credit := BitVec.ofNat 64 (leNat (sliceB d 32 8)), pattern := sliceB d 40 8
    dsp := if dsp then some (leNat (sliceB d 50 2) % 1024) else none
    streamer := if j.f.lit.getLsbD 3 then j.fi.tile % 8 else j.f.lit.toNat % 8, ctx := c }

/-- The streamer that a literal names, or the tile's own (10 R224). -/
theorem streamer_eq (f : Fields) (tile : Nat) : (if f.litBits 3 1 = 1 then tile % 8 else f.litBits 0 3) =
    if f.lit.getLsbD 3 then tile % 8 else f.lit.toNat % 8 := by
  have hbit : f.lit.getLsbD 3 = decide (f.litBits 3 1 = 1) := Nat.testBit_eq_decide_div_mod_eq
  simp only [hbit, Fields.litBits_zero, decide_eq_true_eq]
  rfl

theorem State.launchOf_of_region {s : State} {fi : Firing} {r : Region} (h : s.region? fi.region = some r) :
    s.launchOf fi = some r.launch := by
  rw [State.launchOf, h]
  rfl

/-- A copy within its limits whose rows are allowed is held (05 R103, 10 R225). -/
theorem fireXfer_holds {minor : Nat} {f : Fields} {s u : State} {r : Region} (h : Fires f [] s u)
    (hr : u.region? s.cur.region = some r) {d : Bytes} (hd : descriptorOn u ⟨s.cur, f⟩ false = d) {rows : Nat}
    (hrows : (if minor = 1 then leNat (sliceB d 20 4) else 1) = rows)
    (hlimits : minor = 1 → leNat (sliceB d 16 4) ≤ 2 ^ 24 ∧ rows ≤ 65536)
    (hsrc : minor ≠ 2 → rowDenied r.launch false (leNat (sliceB d 0 8)) (leNat (sliceB d 24 4)) rows (leNat (sliceB d 16 4)) = none)
    (hdst : copyDenied r.launch r s.cur.die ((byteAt d 48).getLsbD 0) (leNat (sliceB d 50 2) % 1024) (leNat (sliceB d 8 8))
      (leNat (sliceB d 28 4)) rows (leNat (sliceB d 16 4)) = none) :
    fireXfer minor f s = finished f s ((u.consume s.cur).hold ⟨s.cur, f⟩ (.copy (copyReq minor ⟨s.cur, f⟩ r.launch.ctx d))) := by
  have hl : u.launchOf s.cur = some r.launch := State.launchOf_of_region hr
  have hc : u.regionCtx s.cur.region = r.launch.ctx := by rw [State.regionCtx, hr]; rfl
  have hwithin : (minor = 1 && (leNat (sliceB d 16 4) > 2 ^ 24 || rows > 65536)) = false := by
    simp only [Bool.and_eq_false_imp, Bool.or_eq_false_iff, decide_eq_true_eq, decide_eq_false_iff_not, not_lt, gt_iff_lt]
    exact hlimits
  have hread : (if minor = 2 then none else
      rowDenied r.launch false (leNat (sliceB d 0 8)) (leNat (sliceB d 24 4)) rows (leNat (sliceB d 16 4))) = none := by
    split
    · rfl
    next hm => exact hsrc hm
  rw [copyDenied] at hdst
  rw [fireXfer, fire_next h]
  simp only [leNat_sliceB] at hrows hwithin hread hdst
  simp only [hd, hrows, hl, hr, hc, hwithin, hread, copyReq, leNat_sliceB, streamer_eq, bitN_eq_getLsbD, Bool.false_eq_true, if_false]
  rw [show (⟨s.cur, f⟩ : Job).fi.at_.die = s.cur.die from rfl, hdst]
  rfl

/-! ### Stores and scatters by the leases of their region -/

section
variable {minor : Nat} {f : Fields} {s u : State} {r : Region} (h : Fires f [] s u) (hr : u.region? s.cur.region = some r) {d : Bytes}
  (hd : descriptorOn u ⟨s.cur, f⟩ false = d) {ea : Nat} (hea : baseAddr u ⟨s.cur, f⟩ d 0 = ea)

include h hr hd hea

/-- A plain store is one write of its elements, all of one run (10 R205). -/
theorem fireStore_plain {n : Nat} (hl : (byteAt d 9).toNat ≤ 128)
    (hn : (if (byteAt d 9).toNat = 0 then (if f.srcB = 0 then (s.cur.payload true).length else 128) else (byteAt d 9).toNat) / f.tyT.size
      = n) (hfits : ea + n * f.tyT.size ≤ 2 ^ 64) :
    (n = 0 → fireStore 0x15 minor f s = finished f s ((u.consume s.cur).emitBoth ⟨s.cur, f⟩ .value []))
    ∧ (0 < n → firstDenied r.launch true ea (n * f.tyT.size) = none →
        fireStore 0x15 minor f s = finished f s ((u.consume s.cur).hold ⟨s.cur, f⟩ (.store {
          job := ⟨s.cur, f⟩, major := 0x15, minor := minor, writes := [(ea, sliceB (opIn f s u f.tyT true) 0 (n * f.tyT.size))]
          credit := BitVec.ofNat 64 (leNat (sliceB d 16 8)) })))
    ∧ ∀ a, 0 < n → firstDenied r.launch true ea (n * f.tyT.size) = some a →
        fireStore 0x15 minor f s = finished f s (u.leaseFault ⟨s.cur, f⟩ 0x15 a 0) := by
  have hlaunch : u.launchOf s.cur = some r.launch := State.launchOf_of_region hr
  have hlen : (if (byteAt d 9).toNat = 0 then (if f.srcB = 0 then some (s.cur.payload true).length else none).getD 128
      else (byteAt d 9).toNat) / f.tyT.size = n := by
    rw [← hn, apply_ite (Option.getD · 128)]
    rfl
  have hruns := elementRuns_store (minor := minor) hl hlen hfits
  have hws := elementWrites_plain (minor := minor) f.tyT.size n d (opIn f s u f.tyT true) (fun i => ea + i * f.tyT.size)
  subst hd hea
  refine ⟨fun h0 => ?empty, fun hpos hden => ?holds, fun a hpos hden => ?denied⟩
  case empty =>
    subst h0
    exact fireStore_empty h hruns hlaunch rfl hws
  case holds =>
    have hchecked := joinRuns_contiguous (baseAddr u ⟨s.cur, f⟩ (descriptorOn u ⟨s.cur, f⟩ false) 0) f.tyT.size hpos
    rw [← firstDeniedOf_singleton, ← hchecked] at hden
    have hne : (List.range n).map (fun i => (baseAddr u ⟨s.cur, f⟩ (descriptorOn u ⟨s.cur, f⟩ false) 0 + i * f.tyT.size,
        sliceB (opIn f s u f.tyT true) (i * f.tyT.size) f.tyT.size)) ≠ [] := by
      simpa using hpos.ne'
    rw [fireStore_holds h hruns hlaunch hden hne hws, if_pos rfl, List.flatMap_map, flatMap_sliceB, leNat_sliceB]
  case denied =>
    rw [← firstDeniedOf_singleton, ← joinRuns_contiguous _ _ hpos] at hden
    exact fireStore_denied h hruns hlaunch hden

/-- A scatter is a write for each index that its mask enables (10 R205). -/
theorem fireStore_scatter (hm : minor < 2) {l : Nat} (hl : (byteAt d 9).toNat = l) (h26 : l ≤ 26) (hlen : l * f.tyT.size ≤ 128)
    {ad : Nat → Nat} (had : ∀ k, ad k = ea + leNat (sliceB d (24 + 4 * k) 4) * f.tyT.size)
    (hfits : ∀ k < l, ad k + f.tyT.size ≤ 2 ^ 64) (hden : ∀ k < l, firstDenied r.launch true (ad k) f.tyT.size = none)
    (hown : ∀ k < l, ∀ k' < l, ad k / 2 ^ 51 = ad k' / 2 ^ 51) {els : List Nat}
    (hels : (List.range l).filter (fun k => minor = 0 || (leNat (sliceB d 12 4)).testBit k) = els) :
    (els = [] → fireStore 0x17 minor f s = finished f s ((u.consume s.cur).emitBoth ⟨s.cur, f⟩ .value []))
    ∧ (els ≠ [] → fireStore 0x17 minor f s = finished f s ((u.consume s.cur).hold ⟨s.cur, f⟩ (.store {
        job := ⟨s.cur, f⟩, major := 0x17, minor := minor
        writes := els.map (fun k => (ad k, sliceB (opIn f s u f.tyT true) (k * f.tyT.size) f.tyT.size))
        credit := BitVec.ofNat 64 (leNat (sliceB d 16 8)) }))) := by
  have hlaunch : u.launchOf s.cur = some r.launch := State.launchOf_of_region hr
  obtain rfl : ad = fun k => ea + leNat (sliceB d (24 + 4 * k) 4) * f.tyT.size := funext had
  subst hl
  have hruns := elementRuns_scatter (minor := minor) (lenB := if f.srcB = 0 then some (s.cur.payload true).length else none) h26 hlen hfits
  have hws := elementWrites_scatter hm f.tyT.size (byteAt d 9).toNat d (opIn f s u f.tyT true)
    (fun k => ea + leNat (sliceB d (24 + 4 * k) 4) * f.tyT.size)
  rw [hels] at hws
  have hallowed : firstDeniedOf r.launch true ((List.range (byteAt d 9).toNat).map
      (fun k => (ea + leNat (sliceB d (24 + 4 * k) 4) * f.tyT.size, f.tyT.size))) = none := by
    refine firstDeniedOf_none ?_ ?_ <;> simp only [List.forall_mem_map, List.mem_range]
    · exact hden
    · exact hown
  subst hd hea
  refine ⟨fun h0 => ?empty, fun hne => ?holds⟩
  case empty =>
    rw [h0] at hws
    exact fireStore_empty h hruns hlaunch hallowed hws
  case holds =>
    rw [fireStore_holds h hruns hlaunch hallowed (by simpa using hne) hws, if_neg (by decide), leNat_sliceB]

end

end Sys2Proof.Machine

open Sys2Proof Sys2Proof.Machine

/-- Settles O38: a store is one write of its run (`fireStore_plain`), a scatter one for each index (`fireStore_scatter`), and a copy whose
rows are allowed is held as its descriptor has it (`fireXfer_holds`). -/
theorem storeResults : Obligations.StoreResults := by
  intro f s u r h hr t j sz d b8 l ea b cred put empty hold plain scat copy
  have hea : baseAddr u j d 0 = ea := baseAddr_eq u j d 0
  have hplain (minor : Nat) (i : Instr) (hi : exec i s = .next (fireStore 0x15 minor f s)) : plain minor i := by
    intro hlen hfits
    obtain ⟨hempty, hholds, hdenied⟩ := fireStore_plain (minor := minor) h hr rfl hea hlen rfl hfits
    rw [hi]
    exact ⟨fun h0 => congrArg Host.Outcome.next (hempty h0), fun hpos hden => congrArg Host.Outcome.next (hholds hpos hden),
      fun a hpos hden => congrArg Host.Outcome.next (hdenied a hpos hden)⟩
  have hscat (minor : Nat) (hm : minor < 2) (i : Instr) (hi : exec i s = .next (fireStore 0x17 minor f s)) : scat minor i := by
    intro h26 hlen hfits hden hown
    obtain ⟨hempty, hholds⟩ := fireStore_scatter h hr rfl hea hm rfl h26 hlen (fun _ => rfl) hfits hden hown rfl
    rw [hi]
    exact ⟨fun h0 => congrArg Host.Outcome.next (hempty h0), fun hne => congrArg Host.Outcome.next (hholds hne)⟩
  have hcopy (minor : Nat) (i : Instr) (hi : exec i s = .next (fireXfer minor f s)) : copy minor i := by
    intro hlimits hsrc hdst hspad
    rw [hi]
    exact congrArg Host.Outcome.next
      (fireXfer_holds h hr rfl rfl hlimits (fun hm => rowDenied_none (hsrc hm)) (copyDenied_none hdst hspad))
  exact ⟨hplain 0 _ rfl, hplain 1 _ rfl, hscat 0 (by decide) _ rfl, hscat 1 (by decide) _ rfl, hcopy 0 _ rfl, hcopy 1 _ rfl,
    hcopy 2 _ rfl⟩

end

section
/-! PROOFS. The lease rule (09 R183, R190, R191): how far ranges cover a run without a gap, and the lowest byte of a run that they do not
allow. -/

namespace Sys2Proof.Machine

/-! ### Ranges -/

/-- A byte lies in a range. -/
def LeaseRange.Spans (r : LeaseRange) (x : Nat) : Prop := r.base ≤ x ∧ x < r.base + r.size

/-- A byte lies in one of the ranges of a list. -/
def CoveredBy (rs : List LeaseRange) (x : Nat) : Prop := ∃ r ∈ rs, r.Spans x

theorem le_leaseReach (rs : List LeaseRange) (k a : Nat) : a ≤ leaseReach rs k a := by
  induction k generalizing a with
  | zero => exact le_rfl
  | succ k ih =>
    rw [leaseReach]
    split
    · exact le_rfl
    next r hr =>
      have hspan : r.base ≤ a ∧ a < r.base + r.size := by simpa using List.find?_some hr
      exact hspan.2.le.trans (ih _)

/-- Below the reach of ranges there is no gap. -/
theorem coveredBy_of_lt_leaseReach {rs : List LeaseRange} {k a y : Nat} (ha : a ≤ y) (hy : y < leaseReach rs k a) : CoveredBy rs y := by
  induction k generalizing a with
  | zero => exact absurd hy (not_lt.mpr ha)
  | succ k ih =>
    rw [leaseReach] at hy
    split at hy
    · exact absurd hy (not_lt.mpr ha)
    next r hr =>
      have hspan : r.base ≤ a ∧ a < r.base + r.size := by simpa using List.find?_some hr
      rcases lt_or_ge y (r.base + r.size) with hin | hout
      · exact ⟨r, List.mem_of_find?_eq_some hr, hspan.1.trans ha, hin⟩
      · exact ih hout hy

/-- The ranges of a list that end beyond an address. -/
def rangesBeyond (rs : List LeaseRange) (a : Nat) : List LeaseRange := rs.filter (fun r => a < r.base + r.size)

/-- Each range that a reach goes through is left behind. -/
theorem rangesBeyond_end_lt {rs : List LeaseRange} {r : LeaseRange} {a : Nat} (hr : r ∈ rs) (ha : a < r.base + r.size) :
    (rangesBeyond rs (r.base + r.size)).length < (rangesBeyond rs a).length := by
  have hbeyond : rangesBeyond rs (r.base + r.size) = (rangesBeyond rs a).filter (fun q => r.base + r.size < q.base + q.size) := by
    rw [rangesBeyond, rangesBeyond, List.filter_filter]
    refine List.filter_congr fun q _ => ?_
    by_cases hq : r.base + r.size < q.base + q.size
    · simp [hq, ha.trans hq]
    · simp [hq]
  rw [hbeyond]
  exact List.length_filter_lt_length_iff_exists.mpr ⟨r, List.mem_filter.mpr ⟨hr, decide_eq_true ha⟩, by simp⟩

/-- The reach of ranges ends at a gap, once it may go through as many of them as end beyond its start. -/
theorem not_coveredBy_leaseReach {rs : List LeaseRange} {k a : Nat} (hk : (rangesBeyond rs a).length < k) :
    ¬ CoveredBy rs (leaseReach rs k a) := by
  induction k generalizing a with
  | zero => exact absurd hk (Nat.not_lt_zero _)
  | succ k ih =>
    rw [leaseReach]
    split
    next hnone =>
      rintro ⟨r, hr, hbase, hend⟩
      simpa [hbase, hend] using List.find?_eq_none.mp hnone r hr
    next r hr =>
      have hspan : r.base ≤ a ∧ a < r.base + r.size := by simpa using List.find?_some hr
      exact ih ((rangesBeyond_end_lt (List.mem_of_find?_eq_some hr) hspan.2).trans_le (Nat.le_of_lt_succ hk))

/-! ### The lowest byte that is denied -/

theorem minBy_eq_none {α : Type} (key : α → Nat) {l : List α} : minBy key l = none ↔ l = [] := by
  cases l with
  | nil => exact iff_of_true rfl rfl
  | cons x xs =>
    rw [minBy]
    split
    · simp
    · split <;> simp

theorem minBy_le {α : Type} (key : α → Nat) {l : List α} {x : α} (h : minBy key l = some x) : ∀ y ∈ l, key x ≤ key y := by
  induction l generalizing x with
  | nil => cases h
  | cons z zs ih =>
    rw [minBy] at h
    rw [List.forall_mem_cons]
    split at h
    next hnone =>
      obtain rfl := (minBy_eq_none key).mp hnone
      cases h
      simp
    next w hw =>
      split at h <;> cases h
      next hlt => exact ⟨hlt.le, ih hw⟩
      next hge => exact ⟨le_rfl, fun y hy => (not_lt.mp hge).trans (ih hw y hy)⟩

/-- The ranges of a launch that allow an access, and those that forbid it (09 R190, R191). -/
def Launch.allowing (l : Launch) (write : Bool) : List LeaseRange := l.leases.filter (fun r => if write then r.kind = 0 && r.w else r.kind ≠ 3)
def Launch.forbidding (l : Launch) (write : Bool) : List LeaseRange :=
  l.leases.filter (fun r => r.kind = 3 || (write && (r.kind = 1 || r.kind = 2)))

/-- A launch allows an access to a byte: a range allows it and none forbids it. -/
def Launch.Allows (l : Launch) (write : Bool) (x : Nat) : Prop := CoveredBy (l.allowing write) x ∧ ¬ CoveredBy (l.forbidding write) x

/-- Where a run of bytes stops being allowed: at the end of the reach of what allows it, and at the first byte of what forbids it. -/
def denialStops (good bad : List LeaseRange) (a n : Nat) : List Nat :=
  (if leaseReach good (good.length + 1) a < a + n then [leaseReach good (good.length + 1) a] else [])
    ++ bad.filterMap (fun r => if r.base < a + n && a < r.base + r.size then some (max a r.base) else none)

theorem firstDenied_of_whole {l : Launch} {write : Bool} {a n : Nat} (hn : 0 < n)
    (hwhole : a + n ≤ 2 ^ 64 ∧ a / 2 ^ 51 = (a + n - 1) / 2 ^ 51) :
    firstDenied l write a n = minBy id (denialStops (l.allowing write) (l.forbidding write) a n) := by
  rw [firstDenied, if_neg hn.ne', if_neg (by simpa [-Nat.reducePow] using hwhole)]
  rfl

theorem firstDenied_of_not_whole {l : Launch} {write : Bool} {a n : Nat} (hn : 0 < n)
    (hwhole : ¬ (a + n ≤ 2 ^ 64 ∧ a / 2 ^ 51 = (a + n - 1) / 2 ^ 51)) : firstDenied l write a n = some a := by
  rw [firstDenied, if_neg hn.ne', if_pos]
  by_contra hno
  exact hwhole (by simpa [-Nat.reducePow] using hno)

theorem mem_denialStops {good bad : List LeaseRange} {a n x : Nat} : x ∈ denialStops good bad a n ↔
    (x = leaseReach good (good.length + 1) a ∧ x < a + n)
    ∨ ∃ r ∈ bad, r.base < a + n ∧ a < r.base + r.size ∧ x = max a r.base := by
  rw [denialStops, List.mem_append, List.mem_filterMap]
  refine or_congr ?_ (exists_congr fun r => and_congr_right fun _ => ?_)
  · split
    next h => simp only [List.mem_singleton]; constructor <;> grind
    next h => simp only [List.not_mem_nil, false_iff]; grind
  · split <;> grind

section
variable {good bad : List LeaseRange} (hbad : ∀ r ∈ bad, 0 < r.size) {a n : Nat}

include hbad in
/-- A run stops at bytes of its own that are not allowed. -/
theorem denied_of_mem_denialStops (hn : 0 < n) {x : Nat} (hx : x ∈ denialStops good bad a n) :
    a ≤ x ∧ x < a + n ∧ ¬ (CoveredBy good x ∧ ¬ CoveredBy bad x) := by
  rcases mem_denialStops.mp hx with ⟨rfl, hlt⟩ | ⟨r, hr, hstart, hend, rfl⟩
  · refine ⟨le_leaseReach _ _ _, hlt, fun h => not_coveredBy_leaseReach ?_ h.1⟩
    exact Nat.lt_succ_of_le (List.length_filter_le _ _)
  · have hsize := hbad r hr
    exact ⟨le_max_left _ _, by omega, fun h => h.2 ⟨r, hr, le_max_right _ _, by omega⟩⟩

/-- No byte of a run lies below its stops and is not allowed. -/
theorem exists_mem_denialStops_le {y : Nat} (ha : a ≤ y) (hy : y < a + n) (hden : ¬ (CoveredBy good y ∧ ¬ CoveredBy bad y)) :
    ∃ x ∈ denialStops good bad a n, x ≤ y := by
  by_cases hbad : CoveredBy bad y
  · obtain ⟨r, hr, hstart, hend⟩ := hbad
    exact ⟨max a r.base, mem_denialStops.mpr (.inr ⟨r, hr, by omega, by omega, rfl⟩), max_le ha hstart⟩
  · have hreach : leaseReach good (good.length + 1) a ≤ y :=
      not_lt.mp fun hlt => hden ⟨coveredBy_of_lt_leaseReach ha hlt, hbad⟩
    exact ⟨_, mem_denialStops.mpr (.inl ⟨rfl, hreach.trans_lt hy⟩), hreach⟩

end

section
variable {l : Launch} (hl : ∀ r ∈ l.leases, 0 < r.size ∧ r.kind < 4) {write : Bool} {a n x : Nat} (hn : 0 < n)

include hl in
/-- What a launch allows, by the kinds of its ranges. -/
theorem Launch.allows_iff : l.Allows write x ↔
    if write then (∃ r ∈ l.leases, r.kind = 0 ∧ r.w = true ∧ r.Spans x) ∧ ∀ r ∈ l.leases, r.kind ≠ 0 → ¬ r.Spans x
    else (∃ r ∈ l.leases, r.kind ≠ 3 ∧ r.Spans x) ∧ ∀ r ∈ l.leases, r.kind = 3 → ¬ r.Spans x := by
  cases write with
  | false => simp [Launch.Allows, CoveredBy, Launch.allowing, Launch.forbidding, and_assoc]
  | true =>
    have hkind : ∀ r ∈ l.leases, (r.kind = 3 ∨ r.kind = 1 ∨ r.kind = 2) ↔ r.kind ≠ 0 := fun r hr => by
      have := (hl r hr).2
      omega
    simp +contextual [Launch.Allows, CoveredBy, Launch.allowing, Launch.forbidding, and_assoc, hkind]

include hn

theorem firstDenied_eq_none_iff (hsize : ∀ r ∈ l.leases, 0 < r.size) : firstDenied l write a n = none ↔
    (a + n ≤ 2 ^ 64 ∧ a / 2 ^ 51 = (a + n - 1) / 2 ^ 51) ∧ ∀ x, a ≤ x → x < a + n → l.Allows write x := by
  by_cases hwhole : a + n ≤ 2 ^ 64 ∧ a / 2 ^ 51 = (a + n - 1) / 2 ^ 51
  · rw [firstDenied_of_whole hn hwhole, minBy_eq_none]
    refine ⟨fun h => ⟨hwhole, fun x ha hx => ?_⟩, fun h => List.eq_nil_iff_forall_not_mem.mpr fun x hx => ?_⟩
    · by_contra hden
      obtain ⟨y, hy, -⟩ := exists_mem_denialStops_le ha hx hden
      rw [h] at hy
      cases hy
    · obtain ⟨ha, hlt, hden⟩ := denied_of_mem_denialStops (fun r hr => hsize r (List.mem_of_mem_filter hr)) hn hx
      exact hden (h.2 x ha hlt)
  · rw [firstDenied_of_not_whole hn hwhole]
    exact iff_of_false (Option.some_ne_none a) (fun h => hwhole h.1)

/-- The address that a check finds under one owner is the lowest byte that is not allowed. -/
theorem firstDenied_lowest (hsize : ∀ r ∈ l.leases, 0 < r.size) (hwhole : a + n ≤ 2 ^ 64 ∧ a / 2 ^ 51 = (a + n - 1) / 2 ^ 51)
    (h : firstDenied l write a n = some x) :
    a ≤ x ∧ x < a + n ∧ ¬ l.Allows write x ∧ ∀ y, a ≤ y → y < x → l.Allows write y := by
  rw [firstDenied_of_whole hn hwhole] at h
  obtain ⟨ha, hlt, hden⟩ := denied_of_mem_denialStops (fun r hr => hsize r (List.mem_of_mem_filter hr)) hn (minBy_mem id h)
  refine ⟨ha, hlt, hden, fun y hay hyx => ?_⟩
  by_contra hy
  obtain ⟨z, hz, hzy⟩ := exists_mem_denialStops_le hay (hyx.trans hlt) hy
  exact absurd (minBy_le id h z hz) (not_le.mpr (hzy.trans_lt hyx))

end

end Sys2Proof.Machine

open Sys2Proof Sys2Proof.Machine

/-- Settles O36: a byte is allowed as `Launch.allows_iff` has it, and a check finds the lowest byte that is not (`firstDenied_lowest`). -/
theorem leaseRule : Obligations.LeaseRule := by
  intro l write a n hn hl spans allowed whole
  have hsize : ∀ r ∈ l.leases, 0 < r.size := fun r hr => (hl r hr).1
  have hallowed : allowed = l.Allows write := funext fun x => propext (Launch.allows_iff hl).symm
  rw [hallowed]
  exact ⟨firstDenied_eq_none_iff hn hsize, fun x hwhole h => firstDenied_lowest hn hsize hwhole h, firstDenied_of_not_whole hn⟩

end

section
/-! PROOFS. LD and GATHER (10 R204, R205, R211, R212): the runs that they form, the leases that they need, and the access that they issue. -/

namespace Sys2Proof.Machine

/-! ### Runs -/

/-- A plain load forms the runs of a store without a token on side B (10 R205). -/
theorem elementRuns_load (minor sz ea : Nat) (d : Bytes) (lenB : Option Nat) :
    elementRuns 0x14 minor sz ea d lenB = elementRuns 0x15 minor sz ea d lenB := by
  simp [elementRuns]

/-- A gather of elements forms the runs of a scatter (10 R205). -/
theorem elementRuns_gath (sz ea : Nat) (d : Bytes) (lenB : Option Nat) :
    elementRuns 0x16 0 sz ea d lenB = elementRuns 0x17 0 sz ea d lenB := by
  simp [elementRuns]

/-- The runs of a gather of rows (10 R205). -/
theorem elementRuns_gathw {sz ea : Nat} {d : Bytes} {lenB : Option Nat} (hl : (byteAt d 9).toNat ≤ 26)
    (hrow : 0 < leNat (sliceB d 10 2)) (hlen : (byteAt d 9).toNat * leNat (sliceB d 10 2) ≤ 128)
    (hea : ∀ k < (byteAt d 9).toNat, ea + leNat (sliceB d (24 + 4 * k) 4) + leNat (sliceB d 10 2) ≤ 2 ^ 64) :
    elementRuns 0x16 1 sz ea d lenB =
      some ((List.range (byteAt d 9).toNat).map (fun k => (ea + leNat (sliceB d (24 + 4 * k) 4), leNat (sliceB d 10 2)))) := by
  simp only [leNat_sliceB] at hrow hlen hea ⊢
  simpa [elementRuns, hl, hlen, hrow.ne'] using hea

/-- Runs of equal length hold as many bytes as they are times that length. -/
theorem sumN_runs (g : Nat → Nat) (l len : Nat) : sumN (((List.range l).map (fun k => (g k, len))).map (·.2)) = l * len := by
  rw [List.map_map, Function.comp_def, List.map_const', List.length_range, sumN_replicate]

/-- Of runs that do not all lie under one owner the lowest address is denied (09 R183, log entry 57). -/
theorem firstDeniedOf_owners {l : Launch} {write : Bool} {runs : List (Nat × Nat)} {lo len : Nat} (hlen : 0 < len)
    (hall : ∀ q ∈ runs, q.2 = len) (hlo : lo ∈ runs.map (·.1)) (hle : ∀ q ∈ runs, lo ≤ q.1)
    (hown : ∃ q ∈ runs, (q.1 + len - 1) / 2 ^ 51 ≠ lo / 2 ^ 51) : firstDeniedOf l write runs = some lo := by
  have hfilter : runs.filter (fun r => r.2 ≠ 0) = runs :=
    List.filter_eq_self.mpr fun q hq => decide_eq_true ((hall q hq).trans_ne hlen.ne')
  have hmin : minBy id (runs.map (·.1)) = some lo := by
    cases hm : minBy id (runs.map (·.1)) with
    | none =>
      rw [(minBy_eq_none id).mp hm] at hlo
      cases hlo
    | some m =>
      obtain ⟨q, hq, rfl⟩ := List.mem_map.mp (minBy_mem id hm)
      exact congrArg some ((minBy_le id hm lo hlo).antisymm (hle q hq))
  obtain ⟨q, hq, hne⟩ := hown
  have hany : runs.any (fun r => (r.1 + r.2 - 1) / 2 ^ 51 ≠ lo / 2 ^ 51) = true :=
    List.any_eq_true.mpr ⟨q, hq, decide_eq_true (by rwa [hall q hq])⟩
  rw [firstDeniedOf, hfilter]
  simp only [hmin, hany, if_true]

/-! ### An access by its reply slot -/

/-- An access takes the first free reply slot of its tile, unless the watch filter holds it; without one its set is offered again. -/
theorem State.startSlot_cases {v : State} {a : Access} {kind : ReplyKind} {fi : Firing} (ha : a.job.fi = fi) :
    (∀ k, (v.tile fi.at_).freeSlot = some k → v.watchHit a = none → v.startSlot a kind = v.issueSlot a kind k)
    ∧ ((v.tile fi.at_).freeSlot = none → v.startSlot a kind = (v.agqNote fi.at_ 0).offerAgain fi) := by
  subst ha
  refine ⟨fun k hk hw => ?_, fun hk => ?_⟩
  · simp only [State.startSlot, hk, hw]
  · simp only [State.startSlot, hk]

/-! ### Loads by the leases of their launch -/

theorem State.regionCtx_of_region {s : State} {id : Nat} {r : Region} (h : s.region? id = some r) : s.regionCtx id = r.launch.ctx := by
  rw [State.regionCtx, h]
  rfl

/-- The runs that a load reads and its leases are asked for: the elements of a contiguous access are one run. -/
def loadRuns (major : Nat) (runs : List (Nat × Nat)) : List (Nat × Nat) := if major = 0x14 then joinRuns runs else runs

section
variable {major minor : Nat} {f : Fields} {s u : State} {l : Launch} {runs rs : List (Nat × Nat)} (h : Fires f (sregDests f) s u)
  (hruns : elementRuns major minor f.tyT.size (baseAddr u ⟨s.cur, f⟩ (descriptorOn u ⟨s.cur, f⟩ false) (addendOn u ⟨s.cur, f⟩ 8))
    (descriptorOn u ⟨s.cur, f⟩ false) none = some runs) (hl : u.launchOf s.cur = some l) (hrs : loadRuns major runs = rs)

include h hruns hl hrs

theorem fireLoad_denied {a : Nat} (hden : firstDeniedOf l false rs = some a) :
    fireLoad major minor f s = finished f s (u.leaseFault ⟨s.cur, f⟩ major a 0) := by
  rw [loadRuns] at hrs
  rw [fireLoad, fire_next h]
  simp only [hruns, hl, hrs, hden]

theorem fireLoad_empty (hden : firstDeniedOf l false rs = none) (hsum : sumN (rs.map (·.2)) = 0) :
    fireLoad major minor f s = finished f s ((u.consume s.cur).emitBoth ⟨s.cur, f⟩ .value []) := by
  rw [loadRuns] at hrs
  rw [fireLoad, fire_next h]
  simp only [hruns, hl, hrs, hden, hsum, if_true]

theorem fireLoad_issues (hden : firstDeniedOf l false rs = none) {n : Nat} (hsum : sumN (rs.map (·.2)) = n) (hn : 0 < n) :
    fireLoad major minor f s = finished f s (u.startSlot
      { job := ⟨s.cur, f⟩, major := major, minor := minor, loads := rs, size := n } .data) := by
  rw [loadRuns] at hrs
  rw [fireLoad, fire_next h]
  simp only [hruns, hl, hrs, hden, hsum, if_neg hn.ne']

end

section
variable {f : Fields} {s u : State} {r : Region} (h : Fires f (sregDests f) s u) (hr : u.region? s.cur.region = some r) {d : Bytes}
  (hd : descriptorOn u ⟨s.cur, f⟩ false = d) {ea : Nat} (hea : baseAddr u ⟨s.cur, f⟩ d (addendOn u ⟨s.cur, f⟩ 8) = ea)

include h hr hd hea

/-- A plain load reads its elements as one run (10 R205). -/
theorem fireLoad_plain {minor n : Nat} (hl : (byteAt d 9).toNat ≤ 128)
    (hn : (if (byteAt d 9).toNat = 0 then 128 else (byteAt d 9).toNat) / f.tyT.size * f.tyT.size = n) (hfits : ea + n ≤ 2 ^ 64) :
    (n = 0 → fireLoad 0x14 minor f s = finished f s ((u.consume s.cur).emitBoth ⟨s.cur, f⟩ .value []))
    ∧ (0 < n → firstDenied r.launch false ea n = none → fireLoad 0x14 minor f s = finished f s (u.startSlot
        { job := ⟨s.cur, f⟩, major := 0x14, minor := minor, loads := [(ea, n)], size := n } .data))
    ∧ ∀ a, 0 < n → firstDenied r.launch false ea n = some a →
        fireLoad 0x14 minor f s = finished f s (u.leaseFault ⟨s.cur, f⟩ 0x14 a 0) := by
  have hlaunch : u.launchOf s.cur = some r.launch := State.launchOf_of_region hr
  obtain ⟨k, hk⟩ : ∃ k, (if (byteAt d 9).toNat = 0 then (none : Option Nat).getD 128 else (byteAt d 9).toNat) / f.tyT.size = k := ⟨_, rfl⟩
  obtain rfl : k * f.tyT.size = n := by rw [← hk]; exact hn
  have hruns := (elementRuns_load minor f.tyT.size ea d none).trans (elementRuns_store hl hk hfits)
  have hjoin (hpos : 0 < k) : loadRuns 0x14 ((List.range k).map (fun i => (ea + i * f.tyT.size, f.tyT.size))) = [(ea, k * f.tyT.size)] :=
    joinRuns_contiguous ea f.tyT.size hpos
  have hsum : sumN ([(ea, k * f.tyT.size)].map (·.2)) = k * f.tyT.size := Nat.zero_add _
  rw [← firstDeniedOf_singleton]
  subst hd hea
  refine ⟨fun h0 => ?empty, fun hpos hden => ?issues, fun a hpos hden => ?denied⟩
  case empty =>
    rcases Nat.eq_zero_or_pos k with rfl | hk
    · exact fireLoad_empty h hruns hlaunch rfl rfl rfl
    · refine fireLoad_empty h hruns hlaunch (hjoin hk) ?_ (hsum.trans h0)
      rw [firstDeniedOf_singleton, h0, firstDenied, if_pos rfl]
  case issues => exact fireLoad_issues h hruns hlaunch (hjoin (Nat.pos_of_mul_pos_right hpos)) hden hsum hpos
  case denied => exact fireLoad_denied h hruns hlaunch (hjoin (Nat.pos_of_mul_pos_right hpos)) hden

/-- A gather reads a run for each of its indices, all of one length (10 R205). -/
theorem fireLoad_gather {minor l len : Nat} {ad : Nat → Nat} {runs : List (Nat × Nat)}
    (hrs : (List.range l).map (fun k => (ad k, len)) = runs) (hruns : elementRuns 0x16 minor f.tyT.size ea d none = some runs) :
    (l = 0 → fireLoad 0x16 minor f s = finished f s ((u.consume s.cur).emitBoth ⟨s.cur, f⟩ .value []))
    ∧ (0 < l → 0 < len → (∀ q ∈ runs, firstDenied r.launch false q.1 q.2 = none) →
        (∀ q ∈ runs, ∀ q' ∈ runs, q.1 / 2 ^ 51 = q'.1 / 2 ^ 51) → fireLoad 0x16 minor f s = finished f s (u.startSlot
          { job := ⟨s.cur, f⟩, major := 0x16, minor := minor, loads := runs, size := l * len } .data))
    ∧ ∀ lo, 0 < len → lo ∈ runs.map (·.1) → (∀ q ∈ runs, lo ≤ q.1) → (∃ q ∈ runs, (q.1 + len - 1) / 2 ^ 51 ≠ lo / 2 ^ 51) →
        fireLoad 0x16 minor f s = finished f s (u.leaseFault ⟨s.cur, f⟩ 0x16 lo 0) := by
  have hlaunch : u.launchOf s.cur = some r.launch := State.launchOf_of_region hr
  have hall : ∀ q ∈ runs, q.2 = len := by simp [← hrs]
  have hsum : sumN (runs.map (·.2)) = l * len := by rw [← hrs, sumN_runs]
  subst hd hea
  refine ⟨fun h0 => ?empty, fun hl hlen hden hown => ?issues, fun lo hlen hlo hle hown => ?owners⟩
  case empty =>
    subst h0 hrs
    exact fireLoad_empty h hruns hlaunch rfl rfl rfl
  case issues => exact fireLoad_issues h hruns hlaunch rfl (firstDeniedOf_none hden hown) hsum (Nat.mul_pos hl hlen)
  case owners => exact fireLoad_denied h hruns hlaunch rfl (firstDeniedOf_owners hlen hall hlo hle hown)

end

/-! ### Loads of a window and of nothing -/

section
variable {f : Fields} {s u : State} {r : Region} (h : Fires f (sregDests f) s u) (hr : u.region? s.cur.region = some r)

include h hr

/-- A load of a window: what lies below the bound is read, bytes at and beyond it are zero and noted (10 R211). -/
theorem fireLdpw_window {d : Bytes} (hd : descriptorOn u ⟨s.cur, f⟩ false = d) {base bound n off : Nat}
    (hw : u.window? s.cur.region ((byteAt d 8).toNat % 8) = some (base, bound)) (hl : (byteAt d 9).toNat ≤ 128)
    (hn : (if (byteAt d 9).toNat = 0 then 128 else (byteAt d 9).toNat) / f.tyT.size * f.tyT.size = n)
    (hoff : (leNat (sliceB d 0 8) + addendOn u ⟨s.cur, f⟩ 8) % 2 ^ 32 = off) {v : State}
    (hv : (if bound < off + n ∧ 0 < n then u.setStatus r.launch.ctx s.cur.die 4 else u) = v) :
    (off < bound → 0 < n → firstDenied r.launch false (base + off) (min n (bound - off)) = none →
      fireLdpw f s = finished f s (v.startSlot
        { job := ⟨s.cur, f⟩, major := 0x14, minor := 2, loads := [(base + off, min n (bound - off))], size := n } .data))
    ∧ (∀ a, off < bound → 0 < n → firstDenied r.launch false (base + off) (min n (bound - off)) = some a →
        fireLdpw f s = finished f s (u.leaseFault ⟨s.cur, f⟩ 0x14 a 0))
    ∧ (bound ≤ off → fireLdpw f s = finished f s ((v.consume s.cur).emitBoth ⟨s.cur, f⟩ .value (zeros n))) := by
  have hlaunch : u.launchOf s.cur = some r.launch := State.launchOf_of_region hr
  have hc : u.regionCtx s.cur.region = r.launch.ctx := State.regionCtx_of_region hr
  have hreg : bitsN (byteAt d 8).toNat 0 3 = (byteAt d 8).toNat % 8 := by
    rw [bitsN, pow_zero, Nat.div_one]
    rfl
  have hover : (if windowOver (base, bound) off n then u.setStatus r.launch.ctx s.cur.die 4 else u) = v := by
    rw [← hv]
    simp [windowOver, and_comm]
  rw [leNat_sliceB] at hoff
  rw [fireLdpw, fire_next h]
  simp only [hd, hoff, hreg, hn, hw, hc, hover, hlaunch, if_neg (not_lt.mpr hl), Option.bind_some]
  refine ⟨fun hin hpos hden => ?reads, fun a hin hpos hden => ?denied, fun hout => ?beyond⟩
  case reads => rw [if_neg hpos.ne', if_neg (by omega), hden]
  case denied => rw [if_neg hpos.ne', if_neg (by omega), hden]
  case beyond =>
    rw [Nat.sub_eq_zero_of_le hout, Nat.min_zero, if_pos rfl]
    split
    next h0 => rw [h0]; rfl
    next => rfl

/-- FCINV drops the lines of its die, or of every die (10 R212). -/
theorem fireFcinv_eq : fireFcinv f s = finished f s (((if f.scope = 2 then u.fcClear r.launch.ctx s.cur.die
    else (List.range 8).foldl (fun v d => v.fcClear r.launch.ctx d) u).consume s.cur).emitBoth ⟨s.cur, f⟩ .value []) := by
  have hc : u.regionCtx s.cur.region = r.launch.ctx := State.regionCtx_of_region hr
  rw [fireFcinv, fire_next h]
  simp only [hc]

end

end Sys2Proof.Machine

open Sys2Proof Sys2Proof.Machine

/-- Settles O37: a plain load is one read of its run (`fireLoad_plain`), a gather one for each index (`fireLoad_gather`), a load of a
window a read of what lies below its bound (`fireLdpw_window`); an access that may begin takes a free reply slot or is offered again. -/
theorem loadResults : Obligations.LoadResults := by
  intro f s u r h hr t c j sz d b8 l ea put done issue plain rows
  have hea : baseAddr u j d (addendOn u j 8) = ea := baseAddr_eq u j d _
  have hissue (v : State) (i : Instr) (a : Access) (ha : a.job.fi = s.cur) (hi : exec i s = put (v.startSlot a .data)) : issue v i a := by
    obtain ⟨hissues, hwaits⟩ := State.startSlot_cases (v := v) (kind := .data) ha
    exact ⟨fun k hk hw => hi.trans (congrArg put (hissues k hk hw)), fun hk => hi.trans (congrArg put (hwaits hk))⟩
  have hplain (minor : Nat) (i : Instr) (hi : exec i s = .next (fireLoad 0x14 minor f s)) : plain minor i := by
    have hcases := fun hl hfits => fireLoad_plain (minor := minor) h hr rfl hea hl rfl hfits
    refine ⟨fun hl hfits h0 => ?empty, fun hl hfits hpos hden => ?issues, fun a hl hfits hpos hden => ?denied⟩
    case empty => exact hi.trans (congrArg Host.Outcome.next ((hcases hl hfits).1 h0))
    case issues => exact hissue u i _ rfl (hi.trans (congrArg Host.Outcome.next ((hcases hl hfits).2.1 hpos hden)))
    case denied => exact hi.trans (congrArg Host.Outcome.next ((hcases hl hfits).2.2 a hpos hden))
  have hrows (minor : Nat) (i : Instr) (hi : exec i s = .next (fireLoad 0x16 minor f s)) (ad : Nat → Nat) (len : Nat) (fits : Prop)
      (hruns : l ≤ 26 → fits → (∀ k < l, ad k + len ≤ 2 ^ 64) →
        elementRuns 0x16 minor f.tyT.size ea d none = some ((List.range l).map (fun k => (ad k, len)))) :
      rows minor i len ((List.range l).map (fun k => (ad k, len))) fits := by
    have hcases (hl : l ≤ 26) (hfits : fits) (hends : ∀ q ∈ (List.range l).map (fun k => (ad k, len)), q.1 + q.2 ≤ 2 ^ 64) :=
      fireLoad_gather h hr rfl hea rfl (hruns hl hfits (by simpa using hends))
    refine ⟨fun hl hfits hends h0 => ?empty, fun hl hfits hends hpos hlen hden hown => ?issues,
      fun lo hl hfits hends _ hlen hlo hle hown => ?owners⟩
    case empty => exact hi.trans (congrArg Host.Outcome.next ((hcases hl hfits hends).1 h0))
    case issues => exact hissue u i _ rfl (hi.trans (congrArg Host.Outcome.next ((hcases hl hfits hends).2.1 hpos hlen hden hown)))
    case owners => exact hi.trans (congrArg Host.Outcome.next ((hcases hl hfits hends).2.2 lo hlen hlo hle hown))
  refine ⟨hplain 0 _ rfl, hplain 1 _ rfl, hplain 3 _ rfl, ?gath, ?gathw, ?ldpw, congrArg Host.Outcome.next (fireFcinv_eq h hr)⟩
  case gath =>
    exact hrows 0 _ rfl _ sz _ fun hl hfits hends => (elementRuns_gath sz ea d none).trans (elementRuns_scatter hl hfits hends)
  case gathw => exact hrows 1 _ rfl _ _ _ fun hl hfits hends => elementRuns_gathw hl hfits.1 hfits.2 hends
  case ldpw =>
    intro base bound hw hl n off v
    obtain ⟨hreads, hdenied, hbeyond⟩ := fireLdpw_window h hr rfl hw hl rfl rfl rfl
    exact ⟨fun hin hpos hden => hissue v _ _ rfl (congrArg Host.Outcome.next (hreads hin hpos hden)),
      fun a hin hpos hden => congrArg Host.Outcome.next (hdenied a hin hpos hden),
      fun hout => congrArg Host.Outcome.next (hbeyond hout)⟩

end

section
/-! PROOFS. ORDER and JOIN (10 R218, 06 R138, 11 R424): what they wait for, what an acquire leaves as it was, and what leaves under which
tag. -/

namespace Sys2Proof.Machine

/-! ### What a firing leaves as it was -/

/-- From `s` to `s'` the regions with their launches, the contexts and the count of the stores stay. -/
structure KeepsLaunches (s s' : State) : Prop where
  regions : s'.regions = s.regions
  ctxs : s'.ctxs = s.ctxs
  stores : s'.stores = s.stores

namespace KeepsLaunches
variable {s s' s'' : State}

theorem refl (s : State) : KeepsLaunches s s := ⟨rfl, rfl, rfl⟩

theorem trans (h : KeepsLaunches s s') (h' : KeepsLaunches s' s'') : KeepsLaunches s s'' :=
  ⟨h'.regions.trans h.regions, h'.ctxs.trans h.ctxs, h'.stores.trans h.stores⟩

theorem foldl {α : Type} {g : State → α → State} (l : List α) (h : ∀ s a, KeepsLaunches s (g s a)) (s : State) :
    KeepsLaunches s (l.foldl g s) :=
  List.foldlRecOn l g (refl s) (fun _ hs a _ => hs.trans (h _ a))

variable (h : KeepsLaunches s s')
include h

theorem region? (id : Nat) : s'.region? id = s.region? id := by rw [State.region?, h.regions]; rfl

theorem regionCtx (id : Nat) : s'.regionCtx id = s.regionCtx id := by rw [State.regionCtx, h.region?]; rfl

theorem level (c : Nat) : s'.level c = s.level c := by rw [State.level, State.ctx, h.ctxs]; rfl

theorem levelsOf (fi : Firing) : s'.levelsOf fi = s.levelsOf fi := by rw [State.levelsOf, h.region?]; rfl

theorem sawAll (g : Tag) : s'.sawAll g = s.sawAll g := by rw [State.sawAll, h.stores]; rfl

theorem syncUp (j : Job) (g : Tag) : s'.syncUp j g = s.syncUp j g := by rw [State.syncUp, h.regionCtx, h.level]; rfl

theorem joinScope (j : Job) : s'.joinScope j = s.joinScope j := by rw [State.joinScope, h.levelsOf]; rfl

end KeepsLaunches

theorem keepsLaunches_modTile (s : State) (t : TileId) (g : Tile → Tile) : KeepsLaunches s (s.modTile t g) := ⟨rfl, rfl, rfl⟩

theorem keepsLaunches_fcClear (s : State) (c d : Nat) : KeepsLaunches s (s.fcClear c d) := ⟨rfl, rfl, rfl⟩

theorem keepsLaunches_countRecv (s : State) (t : TileId) (ph : BitVec 8) (n : Nat) : KeepsLaunches s (s.countRecv t ph n) :=
  ⟨rfl, rfl, rfl⟩

theorem keepsLaunches_consume (s : State) (fi : Firing) : KeepsLaunches s (s.consume fi) := by
  unfold State.consume
  split
  · exact .refl s
  · exact .foldl _ (fun s ph => keepsLaunches_countRecv s _ ph 1) s

theorem keepsLaunches_acquire (s : State) (t : TileId) (scope : Nat) : KeepsLaunches s (s.acquire t scope) := by
  unfold State.acquire
  split <;> split
  · exact .foldl _ (fun s n => keepsLaunches_modTile s _ _) s
  · exact .refl s
  · exact keepsLaunches_modTile s t _
  · exact .refl s

/-! ### A condition that holds -/

/-- What an ORDER or JOIN acquires as its condition holds (10 R218). -/
def State.acquired (s : State) (o : OrderWait) : State :=
  if o.fence then (s.acquire o.job.fi.at_ 4).fcClear (s.regionCtx o.job.fi.region) o.job.fi.at_.die
  else if o.acquire then s.acquire o.job.fi.at_ o.scope else s

theorem keepsLaunches_acquired (s : State) (o : OrderWait) : KeepsLaunches s (s.acquired o) := by
  unfold State.acquired
  split
  · exact (keepsLaunches_acquire s _ 4).trans (keepsLaunches_fcClear _ _ _)
  · split
    · exact keepsLaunches_acquire s _ _
    · exact .refl s

/-- Its tokens lie behind every store performed before they leave (11 R232). -/
theorem State.finishOrder_eq (s : State) (o : OrderWait) :
    s.finishOrder o = s.settle o.job ((s.acquired o).emitAll o.job (s.sawAll o.tag) o.kind o.pay) := by
  rw [← (keepsLaunches_acquired s o).sawAll]
  rfl

/-! ### The two classes -/

/-- The wait of an ORDER or JOIN firing begins, unless there is nothing to wait for (10 R218, 06 R138). -/
def State.startOrder (s : State) (o : OrderWait) : State :=
  if o.serials = [] then s.finishOrder o else s.modTile o.job.fi.at_ (fun x => { x with orders := x.orders ++ [o] })

/-- What an ORDER firing waits with: the tile's earlier accesses where it releases, the tag of a step more where it acquires (10 R218). -/
def orderWait (rel acq fence : Bool) (f : Fields) (s u : State) : OrderWait := {
  job := ⟨s.cur, f⟩, serials := if rel then (u.tile s.cur.at_).earlier else [], scope := f.scope, acquire := acq, fence := fence
  kind := .value, pay := opIn f s u .none false, tag := if acq then u.syncUp ⟨s.cur, f⟩ s.cur.stTag else s.cur.stTag }

/-- The destinations whose tokens leave the block: exits (02 R27). -/
def leavesInstance (d : Nat) : Bool := decide (0x40 ≤ d) && decide (d < 0x50)

/-- What a JOIN firing waits with: the tokens to the stations beside it (06 R138). -/
def joinWait (f : Fields) (s u : State) (g : Tag) : OrderWait := {
  job := ⟨s.cur, keepDests f (fun d => !leavesInstance d)⟩, serials := (u.tile s.cur.at_).instOpen s.cur.inst
  scope := u.joinScope ⟨s.cur, f⟩, acquire := false, fence := false, kind := .control, pay := opIn f s u .none false, tag := g }

section
variable {f : Fields} {s u : State} (h : Fires f (sregDests f) s u)

include h

theorem fireOrder_eq (rel acq fence : Bool) :
    fireOrder rel acq fence f s = finished f s ((u.consume s.cur).startOrder (orderWait rel acq fence f s u)) := by
  simp only [fireOrder]
  have hfire (eff : Job → State → State) : (if acq then s.fireAcquiring f else s.fire f) (some .value) (dests f) (sregDests f) eff =
      finished f s (eff ⟨s.cur, f⟩ u) := by
    cases acq
    · exact fire_next h _ _ eff
    · exact fireAcquiring_next h _ _ eff
  rw [hfire]
  simp only [State.startOrder, List.isEmpty_iff]
  rfl

/-- An ORDER that finds nothing to wait for. -/
theorem fireOrder_at_once {rel acq fence : Bool} (hfree : rel = true → (u.tile s.cur.at_).earlier = []) {g : Tag}
    (hg : (if acq then u.syncUp ⟨s.cur, f⟩ s.cur.stTag else s.cur.stTag) = g) :
    fireOrder rel acq fence f s = finished f s ((u.consume s.cur).settle ⟨s.cur, f⟩
      (((u.consume s.cur).acquired (orderWait rel acq fence f s u)).emitAll ⟨s.cur, f⟩ (u.sawAll g) .value (opIn f s u .none false))) := by
  have hserials : (orderWait rel acq fence f s u).serials = [] := by
    simpa only [orderWait, ite_eq_right_iff] using hfree
  rw [fireOrder_eq h, State.startOrder, if_pos hserials, State.finishOrder_eq, (keepsLaunches_consume u s.cur).sawAll, ← hg]
  rfl

/-- An ORDER that waits for the tile's earlier accesses. -/
theorem fireOrder_waits {acq fence : Bool} (hfree : (u.tile s.cur.at_).earlier ≠ []) :
    fireOrder true acq fence f s = finished f s ((u.consume s.cur).modTile s.cur.at_
      (fun x => { x with orders := x.orders ++ [orderWait true acq fence f s u] })) := by
  have hserials : (orderWait true acq fence f s u).serials ≠ [] := hfree
  rw [fireOrder_eq h, State.startOrder, if_neg hserials]
  rfl

theorem fireJoin_eq {g : Tag}
    (hg : u.syncUp ⟨s.cur, f⟩ { s.cur.stTag with frame := clearFrom (u.levelsOf s.cur) s.cur.stTag.frame (joinLevel f) } = g) :
    fireJoin f s = finished f s (((u.consume s.cur).startOrder (joinWait f s u g)).emitRes ⟨s.cur, f⟩ true ((dests f).filter leavesInstance)
      g .control (some (opIn f s u .none false))) := by
  rw [fireJoin, fireAcquiring_next h]
  simp only [State.startOrder, List.isEmpty_iff, ← hg]
  rfl

theorem fireJoinall_eq {x : State} (hx : (if joinLevel f + 1 < (u.levelsOf s.cur).length then (u.consume s.cur).modTile s.cur.at_
      (fun y => { y with spawns := delK y.spawns (s.cur.stTag.frame, joinLevel f + 1) }) else u.consume s.cur) = x) :
    fireJoinall f s = finished f s ((x.acquire s.cur.at_ (u.joinScope ⟨s.cur, f⟩)).emitRes ⟨s.cur, f⟩ false (dests f)
      (u.sawAll (u.syncUp ⟨s.cur, f⟩ s.cur.stTag)) .control (some (opIn f s u .none false))) := by
  have hkeeps : KeepsLaunches u x := by
    rw [← hx]
    split
    · exact (keepsLaunches_consume u s.cur).trans (keepsLaunches_modTile _ _ _)
    · exact keepsLaunches_consume u s.cur
  rw [← hkeeps.joinScope, ← hkeeps.syncUp, ← hkeeps.sawAll, ← hx, ← (keepsLaunches_consume u s.cur).levelsOf, fireJoinall,
    fireAcquiring_next h]
  rfl

end

end Sys2Proof.Machine

open Sys2Proof Sys2Proof.Machine

/-- Settles O40: an ORDER emits at once or waits for the tile's earlier accesses (`fireOrder_at_once`, `fireOrder_waits`), a JOIN for those
beside it (`fireJoin_eq`); neither consuming nor acquiring touches a level or the count of stores (`keepsLaunches_acquired`). -/
theorem orderAndJoinResults : Obligations.OrderAndJoinResults := by
  intro f s u h t j v a st both up saw put emit wait free
  have hup (g : Tag) : u.syncUp j g = up g := by simp [State.syncUp, up, j]
  have hnow {i : Instr} (rel acq fence : Bool) (hi : exec i s = .next (fireOrder rel acq fence f s)) (hfree : rel = true → free) {g : Tag}
      (hg : (if acq then u.syncUp j st else st) = g) : exec i s = put (emit (v.acquired (orderWait rel acq fence f s u)) g) :=
    hi.trans (congrArg Host.Outcome.next (fireOrder_at_once h hfree hg))
  have hwaits {i : Instr} (acq fence : Bool) (hi : exec i s = .next (fireOrder true acq fence f s)) (hfree : ¬ free) {g : Tag}
      (hg : (if acq then u.syncUp j st else st) = g) : exec i s = wait acq fence g := by
    rw [← hg]
    exact hi.trans (congrArg Host.Outcome.next (fireOrder_waits h hfree))
  refine ⟨hnow false true false rfl nofun (hup st), fun hfree => hnow true false false rfl (fun _ => hfree) rfl,
    fun hfree => hwaits false false rfl hfree rfl, fun hfree => hnow true true false rfl (fun _ => hfree) (hup st),
    fun hfree => hwaits true false rfl hfree (hup st), fun hfree => hnow true true true rfl (fun _ => hfree) (hup st),
    fun hfree => hwaits true true rfl hfree (hup st), ?join⟩
  intro ls k g far near w w'
  have hlevel : joinLevel f = k := Fields.litBits_zero f 3
  have hg : u.syncUp j { st with frame := clearFrom ls st.frame (joinLevel f) } = g := by
    rw [hlevel]
    exact hup _
  have hexec : exec (.joinJoin f) s = .next (fireJoin f s) := rfl
  rw [hexec, fireJoin_eq h hg, State.startOrder]
  refine ⟨fun hopen => ⟨_, ?atOnce, rfl⟩, fun hopen => ⟨joinWait f s u g, rfl, rfl, rfl, rfl, ?waits⟩, ?joinall⟩
  case atOnce =>
    have hserials : (joinWait f s u g).serials = [] := hopen
    rw [if_pos hserials, State.finishOrder_eq, (keepsLaunches_consume u s.cur).sawAll]
    rfl
  case waits =>
    have hserials : (joinWait f s u g).serials ≠ [] := hopen
    rw [if_neg hserials]
    rfl
  case joinall =>
    have hscope : u.joinScope j = ((ls[k]?).map levelScope).getD 0 := by rw [State.joinScope, hlevel]
    intro x
    refine congrArg Host.Outcome.next ?_
    rw [fireJoinall_eq h rfl, hscope, hlevel, hup]
    rfl

end

section
/-! PROOFS. SPAWN (06 R118, R136, R137): the frames that reach a level, the children, and what each of the ways out of a spawn comes to. -/

namespace Sys2Proof.Machine

/-! ### Fields of the literal and of the placement -/

theorem Fields.litBits_eq (f : Fields) (lo n : Nat) : f.litBits lo n = f.lit.toNat / 2 ^ lo % 2 ^ n := rfl

/-- A frame reaches a level where a field from the level on is not clear (06 R137). -/
theorem reaches_eq_false_iff {ls : List (BitVec 16)} {p : BitVec 64} {k : Nat} :
    reaches ls p k = false ↔ ∀ i, k ≤ i → i < ls.length → levelField ls p i = 0 := by
  simp only [reaches, List.any_eq_false, List.mem_range, Bool.and_eq_true, decide_eq_true_eq, not_and, not_not]
  exact forall_congr' fun i => Imp.swap

/-- The tests of a placement (06 R136): no bit above the package, a tile of the region, in the level's domain, in the block's bounds. -/
def State.PlacementOk (s : State) (r : Region) (t : TileId) (k block b : Nat) : Prop :=
  b < 2 ^ 23 ∧ s.hasTile r (b / 8192 % 1024) (b / 1024 % 8) (b % 1024) = true
    ∧ s.inDomain (((r.launch.levels[k]?).map levelDomain).getD 5) t (b / 8192 % 1024) (b / 1024 % 8) (b % 1024) = true
    ∧ inBounds (s.imageDesc r.launch block) (b % 1024) = true

section
variable {s : State} {r : Region} {t : TileId} {k block b : Nat}

theorem State.placement_eq : s.placement r t k block b =
    if bitsN b 23 9 = 0 && s.hasTile r (b / 8192 % 1024) (b / 1024 % 8) (b % 1024)
      && s.inDomain (((r.launch.levels[k]?).map levelDomain).getD 5) t (b / 8192 % 1024) (b / 1024 % 8) (b % 1024)
      && inBounds (s.imageDesc r.launch block) (b % 1024)
    then some (s.farTile (b / 8192 % 1024) (b / 1024 % 8) (b % 1024)) else none := by
  have htile : bitsN b 0 10 = b % 1024 := by
    rw [bitsN, pow_zero, Nat.div_one]
    rfl
  simp only [State.placement, htile]
  rfl

theorem placementOk_iff (hb : b < 2 ^ 32) : s.PlacementOk r t k block b ↔
    (bitsN b 23 9 = 0 && s.hasTile r (b / 8192 % 1024) (b / 1024 % 8) (b % 1024)
      && s.inDomain (((r.launch.levels[k]?).map levelDomain).getD 5) t (b / 8192 % 1024) (b / 1024 % 8) (b % 1024)
      && inBounds (s.imageDesc r.launch block) (b % 1024)) = true := by
  have hhigh : bitsN b 23 9 = 0 ↔ b < 2 ^ 23 := by
    rw [bitsN]
    omega
  simp only [State.PlacementOk, Bool.and_eq_true, decide_eq_true_eq, hhigh, and_assoc]

theorem State.placement_of_ok (hb : b < 2 ^ 32) (h : s.PlacementOk r t k block b) :
    s.placement r t k block b = some (s.farTile (b / 8192 % 1024) (b / 1024 % 8) (b % 1024)) := by
  rw [State.placement_eq, if_pos ((placementOk_iff hb).mp h)]

theorem State.placement_of_not_ok (hb : b < 2 ^ 32) (h : ¬ s.PlacementOk r t k block b) : s.placement r t k block b = none := by
  rw [State.placement_eq, if_neg (mt (placementOk_iff hb).mpr h)]

end

/-! ### Children -/

section
variable (s : State) (j : Job) (ls : List (BitVec 16)) (at_ : TileId) (k m n : Nat) (res : Bytes)

theorem spawnKids_length : (s.spawnKids j ls at_ k m n res).length = n := by
  rw [State.spawnKids, List.length_map, List.length_range]

/-- Each child: a thread token to the block and the side of the literal, with the frame of its ordinal (06 R118, R137). -/
theorem spawnKids_getElem? {q : Nat} (hq : q < n) : ∃ x, (s.spawnKids j ls at_ k m n res)[q]? = some x
    ∧ x.at_ = at_ ∧ x.tok.tag.kind = .thread ∧ x.outside = true
    ∧ x.place = ⟨j.f.lit.toNat % 65536, j.f.lit.toNat / 2 ^ 17 % 32, j.f.lit.toNat / 65536 % 2 = 1⟩
    ∧ (j.f.tag = 0 → x.tok.tag.frame = childFrame ls j.fi.stTag.frame k (m + q) ∧ x.tok.tag.iter = 0
        ∧ x.tok.payload = operandIn s j .none false) := by
  refine ⟨_, by rw [State.spawnKids, List.getElem?_map, List.getElem?_range hq]; rfl, rfl, rfl, rfl, ?place, fun htag => ?tag⟩
  case place =>
    have hblock : j.f.litBits 0 16 = j.f.lit.toNat % 65536 := Fields.litBits_zero j.f 16
    have hstation : j.f.litBits 16 6 / 2 = j.f.lit.toNat / 2 ^ 17 % 32 := by
      rw [Fields.litBits_eq]
      omega
    have hside : j.f.litBits 16 6 % 2 = j.f.lit.toNat / 65536 % 2 := by
      rw [Fields.litBits_eq]
      omega
    simp only [hblock, hstation, hside]
  case tag =>
    have hnull : actNull j.f = false := by simp [actNull, htag]
    have hparent : j.f.tag ≠ 5 := by simp [htag]
    simp only [hnull, State.outTag_of_ne_parent hparent, tagAct_keep (.inl htag), Bool.false_eq_true, if_false, and_true]
    constructor <;> split <;> rfl

end

/-! ### The ways out of a spawn -/

/-- A spawn that makes no child: RESULT names none (06 R137). -/
def State.spawnNone (s : State) (j : Job) (k : Nat) : State := s.emit2 j .value (spawnResult 0 0 k)

/-- A spawn that breaks a rule makes no child and sets SPAWNERR (06 R137). -/
def State.spawnError (s : State) (j : Job) (k : Nat) : State :=
  ((s.consume j.fi).setStatus (s.regionCtx j.fi.region) j.fi.at_.die 3).spawnNone j k

/-- The spawn of `n` children from the ordinal `m` on: they are counted as sent and held, and the counter moves on (06 R137, log entry 18). -/
def State.spawned (s : State) (j : Job) (ls : List (BitVec 16)) (at_ : TileId) (k m n : Nat) : State :=
  let res := spawnResult (childFrame ls j.fi.stTag.frame k m) n k
  let kids := s.spawnKids j ls at_ k m n res
  ((((kids.foldl (fun s a => s.countSent j.fi.at_ a.tok.tag.phase 1) (s.consume j.fi)).modTile j.fi.at_
    (fun x => { x with spawns := putK x.spawns (j.fi.stTag.frame, k) (m + n) })).hold j (.spawn j kids)).emit2 j .value res)

section
variable {s : State} {j : Job} {r : Region} {at_ : TileId} {n k m : Nat} (hk : j.f.litBits 22 3 = k)
include hk

theorem State.spawnN_unplaced : s.spawnN j r none n = s.spawnError j k := by
  rw [← hk]
  rfl

variable (hm : (lookupK (s.tile j.fi.at_).spawns (j.fi.stTag.frame, k)).getD 0 = m)
include hm

/-- The order of the tests of a spawn on a tile. -/
theorem State.spawnN_placed : s.spawnN j r (some at_) n =
    if reaches r.launch.levels j.fi.stTag.frame k || n > 1024 then s.spawnError j k
    else if n = 0 then (s.consume j.fi).spawnNone j k
    else if (lookupK (s.tile j.fi.at_).spawns (j.fi.stTag.frame, k)).isNone && (s.tile j.fi.at_).spawns.length ≥ 128 then
      s.offerAgain j.fi
    else if m + n > 2 ^ widthOf r.launch.levels k - 1 then
      s.jobFault j 0 0x14 (leBytes 8 j.fi.stTag.frame.toNat ++ leBytes 1 k)
    else s.spawned j r.launch.levels at_ k m n := by
  rw [← hm, ← hk]
  rfl

theorem State.spawnN_error (h : reaches r.launch.levels j.fi.stTag.frame k = true ∨ 1024 < n) :
    s.spawnN j r (some at_) n = s.spawnError j k := by
  rw [State.spawnN_placed hk hm, if_pos (by simpa using h)]

variable (hreach : reaches r.launch.levels j.fi.stTag.frame k = false)
include hreach

theorem State.spawnN_none (h0 : n = 0) : s.spawnN j r (some at_) n = (s.consume j.fi).spawnNone j k := by
  rw [State.spawnN_placed hk hm, if_neg (by simp [hreach, h0]), if_pos h0]

variable (hpos : 0 < n) (hmost : n ≤ 1024)
include hpos hmost

/-- A spawn within the bounds finds a counter or waits for one, and finds ordinals or raises the fault. -/
theorem State.spawnN_children : s.spawnN j r (some at_) n =
    if (lookupK (s.tile j.fi.at_).spawns (j.fi.stTag.frame, k)).isSome = true ∨ (s.tile j.fi.at_).spawns.length < 128 then
      if m + n > 2 ^ widthOf r.launch.levels k - 1 then s.jobFault j 0 0x14 (leBytes 8 j.fi.stTag.frame.toNat ++ leBytes 1 k)
      else s.spawned j r.launch.levels at_ k m n
    else s.offerAgain j.fi := by
  have hroom : ((lookupK (s.tile j.fi.at_).spawns (j.fi.stTag.frame, k)).isNone && (s.tile j.fi.at_).spawns.length ≥ 128) = true ↔
      ¬ ((lookupK (s.tile j.fi.at_).spawns (j.fi.stTag.frame, k)).isSome = true ∨ (s.tile j.fi.at_).spawns.length < 128) := by
    simp
  rw [State.spawnN_placed hk hm, if_neg (by simpa [hreach] using hmost), if_neg hpos.ne']
  simp only [hroom, ite_not]

end

/-! ### The class -/

section
variable {f : Fields} {s u : State} {r : Region} (h : Fires f (sregDests f) s u) (hr : u.region? s.cur.region = some r)
include h hr

theorem fireSpawn_one : fireSpawn 0 f s = finished f s (u.spawnN ⟨s.cur, f⟩ r (some s.cur.at_) 1) := by
  rw [fireSpawn, fireAcquiring_next h]
  simp only [hr]

theorem fireSpawn_many : fireSpawn 1 f s = finished f s (u.spawnN ⟨s.cur, f⟩ r (some s.cur.at_)
    (leNat (sliceB (opIn f s u .none true) 0 4))) := by
  rw [fireSpawn, fireAcquiring_next h, leNat_sliceB]
  simp only [hr]
  rfl

theorem fireSpawn_remote : fireSpawn 2 f s = finished f s (u.spawnN ⟨s.cur, f⟩ r
    (u.placement r s.cur.at_ (f.litBits 22 3) (f.litBits 0 16) (leNat (sliceB (opIn f s u .none true) 0 4))) 1) := by
  rw [fireSpawn, fireAcquiring_next h, leNat_sliceB]
  simp only [hr]
  rfl

end

end Sys2Proof.Machine

open Sys2Proof Sys2Proof.Machine

/-- Settles O41: a spawn goes the way that `State.spawnN_placed` gives by its tests, a remote one where its placement passes
(`State.placement_of_ok`); the children are those of `spawnKids_getElem?`, counted as sent as they are held (log entry 18). -/
theorem spawnResults : Obligations.SpawnResults := by
  intro f s u r h hr t j ls k p b put result none_ bad m room clear run
  have hk : j.f.litBits 22 3 = k := rfl
  have hb : b < 2 ^ 32 := by
    rw [show b = numAt (opIn f s u .none true) 0 4 from leNat_sliceB _ 0 4]
    exact numAt_lt _ 0 4
  have hreach (hc : clear) : reaches r.launch.levels j.fi.stTag.frame k = false := reaches_eq_false_iff.mpr hc
  have hrun (i : Instr) (at_ : TileId) (n : Nat) (hi : exec i s = put (u.spawnN j r (some at_) n)) : run i at_ n := by
    refine ⟨fun hc h0 => ?none_, fun hne => ?bad, fun hc hpos hmost hfull => ?full, fun hc hpos hmost hroom hbeyond => ?exhausted,
      fun hc hpos hmost hroom hfits => ⟨?length, ?kids, ?holds⟩⟩
    case none_ => exact hi.trans (congrArg put (State.spawnN_none hk rfl (hreach hc) h0))
    case bad =>
      exact hi.trans (congrArg put (State.spawnN_error hk rfl
        (hne.imp_left fun hc => Bool.eq_true_of_not_eq_false (mt reaches_eq_false_iff.mp hc))))
    case full => rw [hi, State.spawnN_children hk rfl (hreach hc) hpos hmost, if_neg hfull]
    case exhausted => rw [hi, State.spawnN_children hk rfl (hreach hc) hpos hmost, if_pos hroom, if_pos hbeyond]
    case length => exact spawnKids_length ..
    case kids => exact fun q hq => spawnKids_getElem? u j ls at_ k m n _ hq
    case holds =>
      rw [hi, State.spawnN_children hk rfl (hreach hc) hpos hmost, if_pos hroom, if_neg (not_lt.mpr hfits)]
      rfl
  refine ⟨hrun _ _ _ (congrArg Host.Outcome.next (fireSpawn_one h hr)), hrun _ _ _ (congrArg Host.Outcome.next (fireSpawn_many h hr)), ?_⟩
  have hblock : f.litBits 0 16 = f.lit.toNat % 65536 := Fields.litBits_zero f 16
  have hremote : exec (.spawnSpawnr f) s = put (u.spawnN j r (u.placement r t k (f.lit.toNat % 65536) b) 1) := by
    rw [← hblock]
    exact congrArg Host.Outcome.next (fireSpawn_remote h hr)
  refine ⟨fun hok => hrun _ _ _ ?placed, fun hok => ?unplaced⟩
  case placed => rw [hremote, State.placement_of_ok hb hok]
  case unplaced =>
    rw [hremote, State.placement_of_not_ok hb hok, State.spawnN_unplaced hk]
    rfl

end

section
/-! PROOFS. What an event for the host, a record of the Catalogue, a count and a packet leave of the launches under way (06 R129 to R135). -/

namespace Sys2Proof.Machine

/-! ### Lists of updates -/

/-- What each update brings about for its own element, and none undoes for another, holds of all elements after the updates of a list. -/
theorem foldl_establishes {α σ : Type} {f : σ → α → σ} {P : α → σ → Prop} (hset : ∀ s a, P a (f s a))
    (hkeep : ∀ s a b, P b s → P b (f s a)) (l : List α) (s : σ) : ∀ a ∈ l, P a (l.foldl f s) := by
  induction l generalizing s with
  | nil => simp
  | cons x xs ih =>
    rw [List.forall_mem_cons, List.foldl_cons]
    exact ⟨List.foldlRecOn (motive := fun s => P x s) xs f (hset s x) (fun s hs a _ => hkeep s a x hs), ih _⟩

/-- What every update of a list leaves as it was, the list leaves. -/
theorem foldl_preserves {α σ β : Type} {f : σ → α → σ} {v : σ → β} {l : List α} (h : ∀ s, ∀ a ∈ l, v (f s a) = v s) (s : σ) :
    v (l.foldl f s) = v s :=
  List.foldlRecOn (motive := fun t => v t = v s) l f rfl (fun t ht a ha => (h t a ha).trans ht)

/-! ### Reports -/

/-- From `s` to `s'` the regions, launches, queues and residency slots stay, every tile stays in its region, memory stays and no event is
lost: registers of dies and contexts and the host's memory may change. -/
structure Reports (s s' : State) : Prop where
  regions : s'.regions = s.regions
  launches : s'.launches = s.launches
  mem : s'.mem = s.mem
  pkg : s'.pkg = s.pkg
  agenda : s.agenda ⊆ s'.agenda
  queues : ∀ d, (s'.die d).queues = (s.die d).queues
  resSlots : ∀ d, (s'.die d).resSlots = (s.die d).resSlots
  tiles : s'.tiles = s.tiles

namespace Reports
variable {s s' s'' : State}

theorem refl (s : State) : Reports s s := ⟨rfl, rfl, rfl, rfl, List.Subset.refl _, fun _ => rfl, fun _ => rfl, rfl⟩

theorem trans (h : Reports s s') (h' : Reports s' s'') : Reports s s'' where
  regions := h'.regions.trans h.regions
  launches := h'.launches.trans h.launches
  mem := h'.mem.trans h.mem
  pkg := h'.pkg.trans h.pkg
  agenda := List.Subset.trans h.agenda h'.agenda
  queues d := (h'.queues d).trans (h.queues d)
  resSlots d := (h'.resSlots d).trans (h.resSlots d)
  tiles := h'.tiles.trans h.tiles

theorem foldl {α : Type} {f : State → α → State} (l : List α) (h : ∀ s a, Reports s (f s a)) (s : State) : Reports s (l.foldl f s) :=
  List.foldlRecOn l f (refl s) (fun _ hs a _ => hs.trans (h _ a))

theorem ite {c : Prop} [Decidable c] {a b : State} (ha : Reports s a) (hb : Reports s b) : Reports s (if c then a else b) := by
  split
  · exact ha
  · exact hb

variable (h : Reports s s')
include h

theorem region? (id : Nat) : s'.region? id = s.region? id := by rw [State.region?, h.regions]; rfl

theorem queue (d q : Nat) : s'.queue d q = s.queue d q := by rw [State.queue, h.queues]; rfl

theorem tile (t : TileId) : s'.tile t = s.tile t := by rw [State.tile, h.tiles]; rfl

end Reports

theorem reports_modDie (s : State) (d : Nat) {g : Die → Die} (hg : ∀ x, (g x).queues = x.queues ∧ (g x).resSlots = x.resSlots) :
    Reports s (s.modDie d g) where
  regions := rfl
  launches := rfl
  mem := rfl
  pkg := rfl
  agenda := List.Subset.refl _
  tiles := rfl
  queues e := by
    rcases eq_or_ne e d with rfl | he
    · rw [State.modDie_die_self, (hg _).1]
    · rw [State.modDie_die_ne _ _ _ _ he]
  resSlots e := by
    rcases eq_or_ne e d with rfl | he
    · rw [State.modDie_die_self, (hg _).2]
    · rw [State.modDie_die_ne _ _ _ _ he]

theorem reports_modCd (s : State) (c d : Nat) (g : CtxDie → CtxDie) : Reports s (s.modCd c d g) :=
  ⟨rfl, rfl, rfl, rfl, List.Subset.refl _, fun _ => rfl, fun _ => rfl, rfl⟩

theorem reports_modCtx (s : State) (c : Nat) (g : Ctx → Ctx) : Reports s (s.modCtx c g) :=
  ⟨rfl, rfl, rfl, rfl, List.Subset.refl _, fun _ => rfl, fun _ => rfl, rfl⟩

theorem reports_post (s : State) (e : Event) : Reports s (s.post e) :=
  ⟨rfl, rfl, rfl, rfl, List.subset_append_left _ _, fun _ => rfl, fun _ => rfl, rfl⟩

theorem reports_due (s : State) (e : Event) : Reports s (s.due e) := .ite (.refl s) (reports_post s e)

theorem reports_dieSent (s : State) (c d : Nat) (phase : BitVec 8) : Reports s (s.dieSent c d phase) := reports_modCd s c d _

theorem reports_curEvent (s : State) (die typ ctx datum : Nat) (detail : Bytes) : Reports s (s.curEvent die typ ctx datum detail) := by
  have hrings (s : State) (g : Rings → Rings) : Reports s (s.modDie die (fun x => { x with rings := g x.rings })) :=
    reports_modDie s die fun _ => ⟨rfl, rfl⟩
  have hmem (m : Memory) : Reports s { s with hostMem := m } :=
    ⟨rfl, rfl, rfl, rfl, List.Subset.refl _, fun _ => rfl, fun _ => rfl, rfl⟩
  exact .ite ((hmem _).trans (hrings _ (fun r => { r with etail := r.etail + 1 })))
    (.ite (hrings s (fun r => { r with kept := r.kept ++ [_] })) (hrings s (fun r => { r with lost := min 0xFFFF (r.lost + 1) })))

theorem reports_catalogueAt (s : State) (c d typ code tile station block : Nat) (g : Tag) (tag : BitVec 64) (data : Bytes) :
    Reports s (s.catalogueAt c d typ code tile station block g tag data) := .ite (.refl s) (reports_modCd s c d _)

theorem reports_settleCtx (s : State) (c : Nat) : Reports s (s.settleCtx c) :=
  .ite (.ite (reports_modCtx s c _) ((reports_modCtx s c _).trans (reports_due _ _))) (.refl s)

theorem reports_dropLeases (s : State) (c : Nat) (gone : List LeaseRange) : Reports s (s.dropLeases c gone) :=
  .foldl _ (fun s _ => .ite (.refl s) (reports_modCd s c _ _)) s

theorem reports_markLeased (s : State) (c : Nat) (r : LeaseRange) : Reports s (s.markLeased c r) :=
  .ite (.refl s) (reports_modCd s c _ _)

theorem reports_emitPkt (s : State) (d : Nat) (p : Packet) : Reports s (s.emitPkt d p) := by
  unfold State.emitPkt
  refine .ite (.ite (reports_post s _) ?_) (reports_post s _)
  split
  · exact reports_post s _
  · exact .refl s

theorem reports_decideAgain (s : State) (d : Nat) : Reports s (s.decideAgain d) := .ite (reports_due s _) (.refl s)

theorem reports_startHang (s : State) (c : Nat) : Reports s (s.startHang c) := (reports_modCtx s c _).trans (reports_due _ _)

/-! ### A packet leaves -/

/-- A packet that is sent leaves (14 R294), whatever is done after it besides. -/
theorem leaves_emitPkt {s t : State} {d : Nat} {p : Packet} (hpkg : t.pkg = s.pkg) (hdie : t.die d = s.die d)
    (hagenda : (s.emitPkt d p).agenda ⊆ t.agenda) : Leaves d p t := by
  have hcode : t.code d = s.code d := by rw [State.code, hpkg]; rfl
  have hold (q : Packet) : t.tooOld d q = s.tooOld d q := by rw [State.tooOld, hdie]; rfl
  unfold Leaves
  rw [hcode]
  unfold State.emitPkt at hagenda
  split
  next hhere =>
    refine ⟨s.ticks, ?_⟩
    rw [if_pos (by simpa using hhere)] at hagenda
    rw [hold]
    split
    next htoo =>
      rw [if_pos htoo] at hagenda
      exact hagenda (List.mem_append_right _ (List.mem_singleton_self _))
    next htoo =>
      rw [if_neg htoo] at hagenda
      intro e he
      rw [he] at hagenda
      exact hagenda (List.mem_append_right _ (List.mem_singleton_self _))
  next haway =>
    rw [if_neg (by simpa using haway)] at hagenda
    exact hagenda (List.mem_append_right _ (List.mem_singleton_self _))

/-! ### Queues -/

theorem State.modQueue_queue_self (s : State) (d q : Nat) (g : Queue → Queue) : (s.modQueue d q g).queue d q = g (s.queue d q) := by
  simp [State.queue, State.modQueue]

theorem State.modQueue_queue_ne {n q : Nat} (h : n ≠ q) (s : State) (d : Nat) (g : Queue → Queue) :
    (s.modQueue d n g).queue d q = s.queue d q := by
  simp only [State.queue, State.modQueue, State.modDie_die_self]
  exact NMap.getD_put_ne _ _ _ h.symm

end Sys2Proof.Machine

end

section
/-! PROOFS. The queue unit (06 R128 to R130): the doorbell, the answer of a waiter, and the head that a decision takes. -/

namespace Sys2Proof.Machine

/-! ### The doorbell -/

theorem withBit_getLsbD_of_ne {w i k : Nat} (v : BitVec w) (h : k ≠ i) : (withBit v i).getLsbD k = v.getLsbD k := by
  simp [withBit_eq_or, Ne.symm h]

theorem Queue.judged_ctl (x : Queue) : x.judged.ctl = if 2 ^ fieldOf x.ctl 24 4 < (x.tail - x.head).toNat then withBit x.ctl 62 else x.ctl := by
  unfold Queue.judged
  split <;> rfl

theorem Queue.judged_tail (x : Queue) : x.judged.tail = x.tail := by unfold Queue.judged; split <;> rfl

theorem Queue.judged_head (x : Queue) : x.judged.head = x.head := by unfold Queue.judged; split <;> rfl

/-- ERR of a judged queue: set before, or more records than the queue has entries (06 R128). -/
theorem Queue.judged_err (x : Queue) : bitN x.judged.ctl.toNat 62 = true ↔
    bitN x.ctl.toNat 62 = true ∨ 2 ^ fieldOf x.ctl 24 4 < (x.tail - x.head).toNat := by
  rw [Queue.judged_ctl]
  split
  next h => exact iff_of_true (withBit_getLsbD_self x.ctl (by decide)) (.inr h)
  next h => rw [or_iff_left h]

theorem State.tailWrite_queue {s : State} {d q : Nat} (v : BitVec 32) (h : bitN (s.queue d q).ctl.toNat 63 = true) :
    (s.tailWrite d q v).queue d q = ({ s.queue d q with tail := v } : Queue).judged ∧ .queueDecision d ∈ (s.tailWrite d q v).agenda
      ∧ (s.tailWrite d q v).mem = s.mem := by
  have heq : s.tailWrite d q v =
      ((s.modQueue d q (fun x => { x with tail := v })).modQueue d q Queue.judged).due (.queueDecision d) := by
    simp only [State.tailWrite, h, Bool.not_true, Bool.false_eq_true, if_false]
  rw [heq, (reports_due _ _).queue, State.modQueue_queue_self, State.modQueue_queue_self, State.due_mem]
  exact ⟨rfl, State.mem_due _ _, rfl⟩

/-! ### Waiters -/

theorem State.emitPkt_ctxs (s : State) (d : Nat) (p : Packet) : (s.emitPkt d p).ctxs = s.ctxs := by
  unfold State.emitPkt
  split
  · dsimp only
    split
    · rfl
    · split <;> rfl
  · rfl

theorem State.askBarrier_ctxs (s : State) (d q : Nat) : (s.askBarrier d q).ctxs = s.ctxs := by
  unfold State.askBarrier
  dsimp only
  split
  · exact State.emitPkt_ctxs _ _ _
  · rfl

theorem State.askBarrier_mem (s : State) (d q : Nat) : (s.askBarrier d q).mem = s.mem := by
  unfold State.askBarrier
  dsimp only
  split
  · exact (reports_emitPkt _ _ _).mem
  · rfl

/-- A die with a waiter sent for each of its queues whose head must ask its barrier (06 R129). -/
def State.askBarriers (s : State) (d : Nat) : State := ((s.die d).queues.map (·.1)).foldl (fun s q => s.askBarrier d q) s

theorem State.askBarriers_mem (s : State) (d : Nat) : (s.askBarriers d).mem = s.mem :=
  foldl_preserves (v := State.mem) (fun s q _ => s.askBarrier_mem d q) s

theorem State.askBarriers_level (s : State) (d c : Nat) : (s.askBarriers d).level c = s.level c := by
  have hctxs : (s.askBarriers d).ctxs = s.ctxs := foldl_preserves (v := State.ctxs) (fun s q _ => s.askBarrier_ctxs d q) s
  rw [State.level, State.ctx, hctxs]
  rfl

/-! ### The queue that is picked -/

theorem serve_mem {t t' : Turn} {weight : Nat → Nat} {qs : List Nat} {q : Nat} (h : serve t weight qs = some (q, t')) : q ∈ qs := by
  unfold serve at h
  split at h
  next hin =>
    cases h
    exact List.contains_iff_mem.mp (Bool.and_eq_true_iff.mp hin).1
  next =>
    dsimp only at h
    split at h
    · cases h
    next n hn =>
      cases h
      have hmem := minBy_mem id hn
      split at hmem
      · exact hmem
      · exact List.mem_of_mem_filter hmem

/-- The queue picked is eligible, may be taken, and no other such has a higher priority (06 R129). -/
theorem State.pickQueue_spec {s : State} {d q p : Nat} {turn : Turn} (h : s.pickQueue d = some (q, p, turn)) :
    s.eligibleQueue d q = true ∧ s.takable d q = true
    ∧ ∀ n ∈ (s.die d).queues.map (·.1), s.eligibleQueue d n = true → s.takable d n = true → (s.queue d n).prio ≤ (s.queue d q).prio := by
  unfold State.pickQueue at h
  dsimp only at h
  split at h
  · cases h
  next top htop =>
    obtain ⟨⟨q', t'⟩, hserve, heq⟩ := Option.map_eq_some_iff.mp h
    cases heq
    have hq := serve_mem hserve
    simp only [List.mem_filter, State.eligibleQueues, decide_eq_true_eq] at hq
    obtain ⟨⟨⟨-, helig⟩, htake⟩, hprio⟩ := hq
    refine ⟨helig, htake, fun n hn hel htk => ?_⟩
    have hmem : n ∈ sortBy (fun q => 7 - (s.queue d q).prio) ((s.eligibleQueues d).filter (s.takable d)) :=
      (mem_sortBy _).mpr (List.mem_filter.mpr ⟨List.mem_filter.mpr ⟨hn, hel⟩, htk⟩)
    obtain ⟨rest, hrest⟩ := List.head?_eq_some_iff.mp htop
    have hsorted := sortBy_pairwise (fun q => 7 - (s.queue d q).prio) ((s.eligibleQueues d).filter (s.takable d))
    have hle : ∀ q, (s.queue d q).prio ≤ 7 := fun q => Nat.min_le_left _ _
    rw [hrest] at hmem hsorted
    rcases List.mem_cons.mp hmem with rfl | hin
    · exact hprio.ge
    · have hkey : 7 - (s.queue d top).prio ≤ 7 - (s.queue d n).prio := (List.pairwise_cons.mp hsorted).1 n hin
      have htop7 := hle top
      have hn7 := hle n
      dsimp only
      omega

/-! ### The head taken -/

theorem State.catalogueAt_ctxs (s : State) (c d typ code tile station block : Nat) (g : Tag) (tag : BitVec 64) (data : Bytes) :
    (s.catalogueAt c d typ code tile station block g tag data).ctxs = s.ctxs := by
  unfold State.catalogueAt
  split <;> rfl

theorem State.decideAgain_ctxs (s : State) (d : Nat) : (s.decideAgain d).ctxs = s.ctxs := by
  unfold State.decideAgain
  split
  · exact s.due_ctxs _
  · rfl

/-- A context that takes a launch runs (18 R366). -/
def State.wake (s : State) (c : Nat) : State :=
  if (s.ctx c).st = .idle then (s.modCtx c (fun x => { x with st := .running })).startHang c else s

theorem reports_wake (s : State) (c : Nat) : Reports s (s.wake c) :=
  .ite ((reports_modCtx s c _).trans (reports_startHang _ c)) (.refl s)

theorem State.wake_running {s : State} {c : Nat} (h : (s.ctx c).st = .idle) : ((s.wake c).ctx c).st = .running := by
  rw [State.wake, if_pos h, State.startHang, State.due_ctx, State.modCtx_ctx_self, State.modCtx_ctx_self]

/-- The other eligible queues of a die grow older (06 R129). -/
def State.passOthers (s : State) (d q : Nat) : State := ((s.eligibleQueues d).filter (· ≠ q)).foldl (fun s n => s.passOver d n) s

theorem State.passOthers_queue (s : State) (d q : Nat) : (s.passOthers d q).queue d q = s.queue d q :=
  foldl_preserves (v := fun s => s.queue d q)
    (fun s n hn => State.modQueue_queue_ne (by simpa using (List.mem_filter.mp hn).2) s d _) s

theorem State.passOthers_ctxs (s : State) (d q : Nat) : (s.passOthers d q).ctxs = s.ctxs :=
  foldl_preserves (v := State.ctxs) (fun s n _ => (rfl : (s.passOver d n).ctxs = s.ctxs)) s

theorem State.passOthers_mem (s : State) (d q : Nat) : (s.passOthers d q).mem = s.mem :=
  foldl_preserves (v := State.mem) (fun s n _ => (rfl : (s.passOver d n).mem = s.mem)) s

/-- A queue's head moved on, and the pointer of its level with it. -/
def State.moveHead (s : State) (d q p : Nat) (turn : Turn) : State :=
  (s.modQueue d q (fun x => { x with head := x.head + 1, age := 0, asked := false, met := none, taken := x.taken + 1 })).modDie d
    (fun x => { x with turns := NMap.put x.turns p turn })

theorem State.moveHead_queue (s : State) (d q p : Nat) (turn : Turn) : (s.moveHead d q p turn).queue d q =
    { s.queue d q with head := (s.queue d q).head + 1, age := 0, asked := false, met := none, taken := (s.queue d q).taken + 1 } := by
  have hturn (s : State) : Reports s (s.modDie d (fun x => { x with turns := NMap.put x.turns p turn })) :=
    reports_modDie s d fun _ => ⟨rfl, rfl⟩
  exact ((hturn _).queue d q).trans (State.modQueue_queue_self s d q _)

/-- A launch listed under a fresh number, to be checked (06 R127). -/
def State.listLaunch (s : State) (d : Nat) (l : Launch) : State :=
  let (id, s) := s.fresh
  let s := { s with launches := NMap.put s.launches id { l with id := id } }
  (s.post (.launchRecordCheck id)).decideAgain d

section
variable (s : State) (d : Nat) (l : Launch)

theorem State.listLaunch_agenda : .launchRecordCheck s.nextId ∈ (s.listLaunch d l).agenda :=
  (reports_decideAgain _ d).agenda (List.mem_append_right _ (List.mem_singleton_self _))

theorem State.listLaunch_find : NMap.find (s.listLaunch d l).launches s.nextId = some { l with id := s.nextId } := by
  exact (congrArg (NMap.find · s.nextId) (reports_decideAgain _ d).launches).trans (NMap.find_put_self _ _ _)

theorem State.listLaunch_queue (q : Nat) : (s.listLaunch d l).queue d q = s.queue d q := (reports_decideAgain _ d).queue d q

theorem State.listLaunch_mem : (s.listLaunch d l).mem = s.mem := (reports_decideAgain _ d).mem

theorem State.listLaunch_ctxs : (s.listLaunch d l).ctxs = s.ctxs := State.decideAgain_ctxs _ d

end

/-- What the taking of a head writes besides: its context runs, the Catalogue has a record. -/
def State.noteTaken (s : State) (d q : Nat) (l : Launch) : State :=
  (s.wake l.ctx).catalogueAt l.ctx d 5 0 0 0 0xFFFF {} l.tag (leBytes 2 q ++ leBytes 4 l.head.toNat)

theorem reports_noteTaken (s : State) (d q : Nat) (l : Launch) : Reports s (s.noteTaken d q l) :=
  (reports_wake s l.ctx).trans (reports_catalogueAt _ _ _ _ _ _ _ _ _ _ _)

theorem State.noteTaken_running {s : State} {l : Launch} (h : (s.ctx l.ctx).st = .idle) (d q : Nat) :
    ((s.noteTaken d q l).ctx l.ctx).st = .running := by
  rw [State.ctx, State.noteTaken, State.catalogueAt_ctxs]
  exact State.wake_running h

/-- The head of the queue picked, taken (06 R129, R130). -/
def State.takeHead (w : State) (d q p : Nat) (turn : Turn) : State :=
  (((w.passOthers d q).moveHead d q p turn).noteTaken d q (w.headLaunch d q)).listLaunch d (w.headLaunch d q)

theorem State.queueStep_takes {s : State} {d q p : Nat} {turn : Turn} (h : (s.askBarriers d).pickQueue d = some (q, p, turn))
    (hlevel : s.level ((s.askBarriers d).headLaunch d q).ctx < 2) : s.queueStep d = (s.askBarriers d).takeHead d q p turn := by
  rw [← s.askBarriers_level d] at hlevel
  have hw : ((s.die d).queues.map (·.1)).foldl (fun s q => s.askBarrier d q) s = s.askBarriers d := rfl
  unfold State.queueStep
  extract_lets w
  split
  next hnone => exact absurd (h.symm.trans hnone) nofun
  next q' p' turn' hsome =>
    cases h.symm.trans hsome
    extract_lets l
    split
    next u hlog => exact absurd (hlog.symm.trans (State.logEvent_go hlevel d _)) nofun
    next u hlog =>
      cases hlog.symm.trans (State.logEvent_go hlevel d _)
      rfl

/-- What a head taken leaves: its launch listed and to be checked, its queue moved on, its context running. -/
theorem State.takeHead_spec (w : State) (d q p : Nat) (turn : Turn) : ∃ id, .launchRecordCheck id ∈ (w.takeHead d q p turn).agenda
    ∧ NMap.find (w.takeHead d q p turn).launches id = some { w.headLaunch d q with id := id }
    ∧ ((w.takeHead d q p turn).queue d q).head = (w.queue d q).head + 1 ∧ ((w.takeHead d q p turn).queue d q).age = 0
    ∧ ((w.ctx (w.headLaunch d q).ctx).st = .idle → ((w.takeHead d q p turn).ctx (w.headLaunch d q).ctx).st = .running)
    ∧ (w.takeHead d q p turn).mem = w.mem := by
  have hnote := reports_noteTaken ((w.passOthers d q).moveHead d q p turn) d q (w.headLaunch d q)
  have hqueue := State.moveHead_queue (w.passOthers d q) d q p turn
  rw [w.passOthers_queue, ← hnote.queue, ← State.listLaunch_queue _ d (w.headLaunch d q)] at hqueue
  refine ⟨_, State.listLaunch_agenda _ d _, State.listLaunch_find _ d _, congrArg Queue.head hqueue, congrArg Queue.age hqueue,
    fun hidle => ?running, ?mem⟩
  case running =>
    rw [State.ctx, State.takeHead, State.listLaunch_ctxs]
    refine State.noteTaken_running ?_ d q
    rw [← hidle, State.ctx]
    exact congrArg (fun m => (NMap.getD m _ ({} : Ctx)).st) (w.passOthers_ctxs d q)
  case mem => exact ((State.listLaunch_mem _ d _).trans hnote.mem).trans (w.passOthers_mem d q)

end Sys2Proof.Machine

end

section
/-! PROOFS. Checks and residency (06 R127, 09 R192, R193): a launch that passes or is refused, confirmed ranges, and the residency slots. -/

namespace Sys2Proof.Machine

/-! ### A launch taken off -/

section
variable (s : State) (id : Nat) (l : Launch)

/-- A launch taken off is listed no more, and its queue is in error. -/
theorem State.dropLaunch_spec : (s.dropLaunch id l).launches = NMap.del s.launches id
    ∧ bitN ((s.dropLaunch id l).queue l.die l.queue).ctl.toNat 62 = true := by
  unfold State.dropLaunch
  extract_lets s1 s2 s3 s4
  have h2 : Reports s1 s2 := reports_dropLeases s1 _ _
  have h3 : s3.launches = s2.launches := by
    dsimp only [s3]
    split <;> rfl
  have h4 : Reports s4 ((s4.settleCtx l.ctx).due (.queueDecision l.die)) := (reports_settleCtx s4 _).trans (reports_due _ _)
  refine ⟨?launches, ?err⟩
  case launches => exact h4.launches.trans (h3.trans h2.launches)
  case err =>
    rw [h4.queue, State.modQueue_queue_self]
    exact withBit_getLsbD_self _ (by decide)

theorem State.dropLaunch_curEvent_spec (die typ ctx datum : Nat) (detail : Bytes) :
    ((s.dropLaunch id l).curEvent die typ ctx datum detail).launches = NMap.del s.launches id
    ∧ bitN (((s.dropLaunch id l).curEvent die typ ctx datum detail).queue l.die l.queue).ctl.toNat 62 = true := by
  have h := reports_curEvent (s.dropLaunch id l) die typ ctx datum detail
  rw [h.launches, h.queue]
  exact s.dropLaunch_spec id l

end

section
variable {s : State} {id : Nat} {l : Launch} (hl : NMap.find s.launches id = some l)
include hl

theorem State.checkStep_passes {l' : Launch} (h : s.readLaunch l = .ok l') :
    s.checkStep id = { s with launches := NMap.put s.launches id l' }.post (.leaseResidencyCheck id) := by
  simp only [State.checkStep, hl, h]

theorem State.checkStep_fails {e : LaunchError} (h : s.readLaunch l = .error e) : s.checkStep id = s.refuse id l e := by
  simp only [State.checkStep, hl, h]

theorem State.failResidency_refuses {d k cause : Nat} (hk : NMap.find (s.die d).resSlots k = some id) :
    s.failResidency d k cause = (s.dropLaunch id l).curEvent d 0x0D l.ctx l.failPage
      (leBytes 4 k ++ leBytes 4 cause ++ leBytes 4 l.queue ++ leBytes 4 l.head.toNat) := by
  simp only [State.failResidency, hk, hl]

end

/-! ### Pages marked as leased -/

/-- A bit set beside a field leaves the field. -/
theorem fieldOf_withBit {w i lo n : Nat} (v : BitVec w) (h : i < lo) : fieldOf (withBit v i) lo n = fieldOf v lo n := by
  refine Nat.eq_of_testBit_eq fun k => ?_
  have hbit := withBit_getLsbD_of_ne v (k := lo + k) (i := i) (by omega)
  simp only [BitVec.getLsbD] at hbit
  simp only [fieldOf, bitsN, Nat.testBit_mod_two_pow, Nat.testBit_div_two_pow, Nat.add_comm k lo, hbit]

/-- What of a mapped page decides on residency: its range, whether it is valid and writable, and its kind (09 R186). -/
def PageMap.view (p : PageMap) : Nat × Bool × Nat × Bool × Nat := (p.va, pdValid p.desc, pdSize p.desc, pdW p.desc, pdKind p.desc)

theorem PageMap.view_leased (p : PageMap) : ({ p with desc := withBit p.desc 55 } : PageMap).view = p.view := by
  have hvalid : pdValid (withBit p.desc 55) = pdValid p.desc := withBit_getLsbD_of_ne p.desc (by decide)
  have hsize : pdSize (withBit p.desc 55) = pdSize p.desc := congrArg pageSize (fieldOf_withBit p.desc (by decide))
  have hw : pdW (withBit p.desc 55) = pdW p.desc := withBit_getLsbD_of_ne p.desc (by decide)
  have hkind : pdKind (withBit p.desc 55) = pdKind p.desc := fieldOf_withBit p.desc (by decide)
  simp only [PageMap.view, hvalid, hsize, hw, hkind]

/-- From `s` to `s'` the mapped pages of every context stay, but for their marks. -/
structure SameViews (s s' : State) : Prop where
  pkg : s'.pkg = s.pkg
  pages : ∀ c d, (s'.cd c d).pages.map PageMap.view = (s.cd c d).pages.map PageMap.view

theorem sameViews_markLeased (s : State) (c : Nat) (r : LeaseRange) : SameViews s (s.markLeased c r) := by
  unfold State.markLeased
  split
  · exact ⟨rfl, fun _ _ => rfl⟩
  · refine ⟨rfl, fun e d => ?_⟩
    by_cases hkey : cdKey e d = cdKey c (vaDie r.base)
    · rw [State.cd, hkey]
      show (((s.modCd c (vaDie r.base) _).cd c (vaDie r.base)).pages.map PageMap.view) = _
      rw [State.modCd_cd_self, List.map_map, State.cd.eq_1 s e d, hkey]
      refine List.map_congr_left fun p _ => ?_
      rw [Function.comp_apply]
      split
      · exact p.view_leased
      · rfl
    · rw [State.modCd_cd_ne _ _ _ _ _ _ hkey]

theorem SameViews.foldl {α : Type} {f : State → α → State} (l : List α) (h : ∀ s a, SameViews s (f s a)) (s : State) :
    SameViews s (l.foldl f s) :=
  List.foldlRecOn l f ⟨rfl, fun _ _ => rfl⟩ (fun _ hs a _ => ⟨(h _ a).pkg.trans hs.pkg, fun c d => ((h _ a).pages c d).trans (hs.pages c d)⟩)

/-- Whether a page seen so maps an address for an access (09 R192). -/
def viewFits (w : Bool) (a : Nat) (v : Nat × Bool × Nat × Bool × Nat) : Bool :=
  v.2.1 && v.1 ≤ a && a < v.1 + v.2.2.1 && (v.2.2.2.1 || !w)

theorem find?_view (w : Bool) (a : Nat) (ps : List PageMap) :
    (ps.find? (fun p => pdValid p.desc && p.va ≤ a && a < p.va + pdSize p.desc && (pdW p.desc || !w))).map PageMap.view =
      (ps.map PageMap.view).find? (viewFits w a) := by
  rw [List.find?_map]
  rfl

/-- The reach of mapped pages depends on what they are seen as. -/
theorem pageReach_of_views {ps qs : List PageMap} (h : ps.map PageMap.view = qs.map PageMap.view) (w : Bool) (n a : Nat) :
    pageReach ps w n a = pageReach qs w n a := by
  induction n generalizing a with
  | zero => rfl
  | succ n ih =>
    have hsame := (find?_view w a ps).trans (h ▸ (find?_view w a qs).symm)
    rw [pageReach, pageReach]
    split
    next hp =>
      rw [hp, Option.map_none, eq_comm, Option.map_eq_none_iff] at hsame
      rw [hsame]
    next p hp =>
      rw [hp, Option.map_some, eq_comm, Option.map_eq_some_iff] at hsame
      obtain ⟨q, hq, hview⟩ := hsame
      have hend : q.va + pdSize q.desc = p.va + pdSize p.desc := congrArg (fun v => v.1 + v.2.2.1) hview
      rw [hq]
      dsimp only
      rw [hend, ih]

section
variable {s s' : State} (h : SameViews s s')
include h

theorem SameViews.badPage (c : Nat) (r : LeaseRange) : s'.badPage c r = s.badPage c r := by
  have hpages := h.pages c (vaDie r.base)
  have hlen : (s'.cd c (vaDie r.base)).pages.length = (s.cd c (vaDie r.base)).pages.length := by
    simpa using congrArg List.length hpages
  simp only [State.badPage, h.pkg, hlen, pageReach_of_views hpages]

theorem SameViews.notUn (c a n : Nat) : s'.notUn c a n = s.notUn c a n := by
  have hany (ps : List PageMap) : (ps.any fun p => pdValid p.desc && p.va < a + n && a < p.va + pdSize p.desc && pdKind p.desc ≠ 2) =
      (ps.map PageMap.view).any (fun v => v.2.1 && v.1 < a + n && a < v.1 + v.2.2.1 && v.2.2.2.2 ≠ 2) := by
    rw [List.any_map]
    rfl
  simp only [State.notUn, h.pkg, hany, h.pages]

end

/-! ### The residency check -/

/-- The ranges of a launch that are confirmed, and a state with their pages marked as leased (09 R192). -/
def State.confirmed (s : State) (l : Launch) : List LeaseRange := l.leases.filter (fun r => (s.badPage l.ctx r).isNone)
def State.markConfirmed (s : State) (l : Launch) : State := (s.confirmed l).foldl (fun s r => s.markLeased l.ctx r) s

/-- The ranges of a launch that are not confirmed: their places, their first bad pages and the dies of their owners. -/
def State.unconfirmed (s : State) (l : Launch) : List (Nat × Nat × Nat) :=
  l.leases.zipIdx.filterMap (fun p => (s.badPage l.ctx p.1).map (fun a => (p.2, a, vaDie p.1.base)))

section
variable {s : State} {l : Launch}

theorem sameViews_markConfirmed (s : State) (l : Launch) : SameViews s (s.markConfirmed l) :=
  .foldl _ (fun s r => sameViews_markLeased s l.ctx r) s

theorem reports_markConfirmed (s : State) (l : Launch) : Reports s (s.markConfirmed l) :=
  .foldl _ (fun s r => reports_markLeased s l.ctx r) s

theorem State.markConfirmed_cycles (s : State) (l : Launch) : (s.markConfirmed l).cycles = s.cycles :=
  foldl_preserves (v := State.cycles) (fun s r _ => by rw [State.markLeased, apply_ite State.cycles]; exact ite_self _) s

theorem State.unconfirmed_markConfirmed : (s.markConfirmed l).unconfirmed l = s.unconfirmed l := by
  simp only [State.unconfirmed, (sameViews_markConfirmed s l).badPage]

theorem State.resident_iff : s.resident l = true ↔ ∀ r ∈ l.leases, s.badPage l.ctx r = none := by
  simp [State.resident]

theorem State.confirmed_of_resident (h : s.resident l = true) : s.confirmed l = l.leases :=
  List.filter_eq_self.mpr fun r hr => Option.isNone_iff_eq_none.mpr (State.resident_iff.mp h r hr)

theorem State.unconfirmed_of_resident (h : s.resident l = true) : s.unconfirmed l = [] :=
  List.filterMap_eq_nil_iff.mpr fun p hp => by
    rw [State.resident_iff.mp h p.1 (List.fst_mem_of_mem_zipIdx hp), Option.map_none]

theorem State.unconfirmed_of_not_resident (h : s.resident l = false) : ∃ i a d rest, s.unconfirmed l = (i, a, d) :: rest
    ∧ ∃ r ∈ l.leases, s.badPage l.ctx r = some a := by
  have hmem {i a d : Nat} (hin : (i, a, d) ∈ s.unconfirmed l) : ∃ r ∈ l.leases, s.badPage l.ctx r = some a := by
    obtain ⟨p, hp, heq⟩ := List.mem_filterMap.mp hin
    obtain ⟨b, hb, hba⟩ := Option.map_eq_some_iff.mp heq
    cases hba
    exact ⟨p.1, List.fst_mem_of_mem_zipIdx hp, hb⟩
  cases hlist : s.unconfirmed l with
  | nil =>
    refine absurd (State.resident_iff.mpr fun r hr => ?_) (Bool.eq_false_iff.mp h)
    obtain ⟨i, hi⟩ := List.mem_iff_getElem?.mp hr
    exact Option.map_eq_none_iff.mp (List.filterMap_eq_nil_iff.mp hlist _ (List.mk_mem_zipIdx_iff_getElem?.mpr hi))
  | cons x rest =>
    obtain ⟨i, a, d⟩ := x
    exact ⟨i, a, d, rest, rfl, hmem (hlist ▸ List.mem_cons_self)⟩

end

/-- A launch that waits in a residency slot for a page (09 R193). -/
def Launch.waiting (l : Launch) (active : List LeaseRange) (k since page : Nat) : Launch :=
  { l with active := active, slot := some k, since := since, failPage := page }

/-- A launch put into a residency slot of its die. -/
def State.takeSlot (s : State) (id : Nat) (l : Launch) (k : Nat) : State :=
  { s with launches := NMap.put s.launches id l }.modDie l.die (fun x => { x with resSlots := NMap.put x.resSlots k id })

theorem State.takeSlot_slot (s : State) (id : Nat) (l : Launch) (k : Nat) : NMap.find ((s.takeSlot id l k).die l.die).resSlots k = some id := by
  rw [State.takeSlot, State.modDie_die_self]
  exact NMap.find_put_self _ _ _

theorem State.takeSlot_listed (s : State) (id : Nat) (l : Launch) (k : Nat) : NMap.find (s.takeSlot id l k).launches id = some l :=
  NMap.find_put_self _ _ _

section
variable {s : State} {id : Nat} {l : Launch} (hl : NMap.find s.launches id = some l)
include hl

/-- A launch whose ranges are all confirmed proceeds: its ranges are active, its slot is free (09 R192). -/
theorem State.residencyStep_proceeds (hres : s.resident l = true) (hun : s.notUn l.ctx l.spillBase (2 ^ l.spillLog) = false) :
    ∃ v : State, s.residencyStep id = ({ v with launches := NMap.put v.launches id { l with active := l.leases, slot := none } }.post
      (.regionConfigured id)).due (.queueDecision l.die) := by
  rw [← (sameViews_markConfirmed s l).notUn] at hun
  have hnone : (s.markConfirmed l).unconfirmed l = [] := State.unconfirmed_markConfirmed.trans (State.unconfirmed_of_resident hres)
  unfold State.residencyStep
  split
  next hno => exact absurd (hl.symm.trans hno) nofun
  next m hm =>
    cases hl.symm.trans hm
    extract_lets good u l' bad freed
    have hgood : good = l.leases := State.confirmed_of_resident hres
    have hbad : bad = [] := hnone
    have hkind : u.notUn l'.ctx l'.spillBase (2 ^ l'.spillLog) = false := hun
    refine ⟨freed, ?_⟩
    rw [hbad]
    dsimp -zeta only
    rw [hkind, ← hgood, if_neg Bool.false_ne_true]

/-- A launch with a range that is not confirmed takes a free residency slot and waits there for its page (09 R193). -/
theorem State.residencyStep_waits (hres : s.resident l = false) (hslot : l.slot = none) {k : Nat}
    (hk : NMap.freeKey (s.die l.die).resSlots 8 = some k) : ∃ a, (∃ r ∈ l.leases, s.badPage l.ctx r = some a)
    ∧ ∃ v : State, Reports ((s.markConfirmed l).takeSlot id (l.waiting (s.confirmed l) k s.cycles a) k) v
      ∧ s.residencyStep id = v.due (.reswaitTimeout l.die k) := by
  obtain ⟨i, a, d, rest, hlist, hbad⟩ := State.unconfirmed_of_not_resident hres
  have hsome : (s.markConfirmed l).unconfirmed l = (i, a, d) :: rest := State.unconfirmed_markConfirmed.trans hlist
  have hfree : NMap.freeKey ((s.markConfirmed l).die l.die).resSlots 8 = some k := by rw [(reports_markConfirmed s l).resSlots, hk]
  refine ⟨a, hbad, ?_⟩
  unfold State.residencyStep
  split
  next hno => exact absurd (hl.symm.trans hno) nofun
  next m hm =>
    cases hl.symm.trans hm
    extract_lets good u l' bad
    have hbad : bad = (i, a, d) :: rest := hsome
    have hnoslot : l'.slot = none := hslot
    have hkey : NMap.freeKey (u.die l'.die).resSlots 8 = some k := hfree
    rw [hbad]
    dsimp -zeta only
    rw [hnoslot]
    dsimp -zeta only
    rw [hkey, ← s.markConfirmed_cycles l]
    refine ⟨_, ?_, rfl⟩
    exact Reports.foldl _ (fun s b => reports_curEvent s _ _ _ _ _) _

end

end Sys2Proof.Machine

end

section
/-! PROOFS. A region is configured (06 R131): its tiles are typed and its islands claimed before its initial tokens are placed. -/

namespace Sys2Proof.Machine

/-! ### Tiles -/

/-- A tile typed for a launch: its region, its kind by the table, and the registers that another context's launch left reset (07 R146). -/
structure Typed (l : Launch) (id : Nat) (t : TileId) (x y : Tile) : Prop where
  region : y.region = id
  lastCtx : y.lastCtx = some l.ctx
  kind : y.kind = tileKindOf ((NMap.getD l.kinds t.die []).getD t.tile 0)
  sregs : y.sregs = if x.lastCtx = some l.ctx then x.sregs else List.replicate 8 (zeros 128)
  wregs : y.wregs = if x.lastCtx = some l.ctx then x.wregs else List.replicate 16 (List.replicate 32 0x7F)
  aregs : y.aregs = if x.lastCtx = some l.ctx then x.aregs else List.replicate 16 0

section
variable {l : Launch} {id : Nat}

/-- A tile that the table names twice is typed as if it were named once. -/
theorem Typed.trans {t : TileId} {x y z : Tile} (h : Typed l id t x y) (h' : Typed l id t y z) : Typed l id t x z where
  region := h'.region
  lastCtx := h'.lastCtx
  kind := h'.kind
  sregs := by rw [h'.sregs, if_pos h.lastCtx, h.sregs]
  wregs := by rw [h'.wregs, if_pos h.lastCtx, h.wregs]
  aregs := by rw [h'.aregs, if_pos h.lastCtx, h.aregs]

theorem typed_typeTile (s : State) (pos : Nat) (t : TileId) : Typed l id t (s.tile t) ((s.typeTile l id pos t).tile t) := by
  unfold State.typeTile
  rw [State.modTile_tile_self]
  exact ⟨rfl, rfl, rfl, rfl, rfl, rfl⟩

theorem State.typeTile_tile_ne (s : State) (pos : Nat) {t u : TileId} (h : tileKey u ≠ tileKey t) :
    (s.typeTile l id pos t).tile u = s.tile u := State.modTile_tile_ne _ _ _ _ h

/-- The tiles of a list typed, one after another. -/
def State.typeTiles (s : State) (l : Launch) (id first : Nat) (ts : List (TileId × Nat)) : State :=
  ts.foldl (fun s p => s.typeTile l id (first + p.2) p.1) s

theorem tileKey_inj {t u : TileId} (ht : t.tile < 1024) (hu : u.tile < 1024) (h : tileKey t = tileKey u) : t = u := by
  obtain ⟨d, n⟩ := t
  obtain ⟨e, m⟩ := u
  simp only [tileKey] at h ht hu
  obtain ⟨rfl, rfl⟩ : d = e ∧ n = m := by omega
  rfl

theorem typed_typeTiles (first : Nat) {t : TileId} (ht : t.tile < 1024) (ts : List (TileId × Nat)) (hts : ∀ p ∈ ts, p.1.tile < 1024)
    (s : State) : (t ∈ ts.map (·.1) → Typed l id t (s.tile t) ((s.typeTiles l id first ts).tile t))
    ∧ (t ∉ ts.map (·.1) → (s.typeTiles l id first ts).tile t = s.tile t) := by
  induction ts generalizing s with
  | nil => exact ⟨nofun, fun _ => rfl⟩
  | cons p ts ih =>
    obtain ⟨hp, hrest⟩ := List.forall_mem_cons.mp hts
    obtain ⟨hin, hout⟩ := ih hrest (s.typeTile l id (first + p.2) p.1)
    have hcons : s.typeTiles l id first (p :: ts) = (s.typeTile l id (first + p.2) p.1).typeTiles l id first ts := rfl
    rw [hcons, List.map_cons, List.mem_cons]
    by_cases htp : p.1 = t
    · have hhead := typed_typeTile (l := l) (id := id) s (first + p.2) p.1
      refine ⟨fun _ => ?_, fun hno => absurd (.inl htp.symm) hno⟩
      generalize s.typeTile l id (first + p.2) p.1 = s1 at hin hout hhead ⊢
      rw [htp] at hhead
      by_cases hmem : t ∈ ts.map (·.1)
      · exact hhead.trans (hin hmem)
      · rw [hout hmem]
        exact hhead
    · have hother := State.typeTile_tile_ne (l := l) (id := id) s (first + p.2) (mt (tileKey_inj ht hp) (Ne.symm htp))
      generalize s.typeTile l id (first + p.2) p.1 = s1 at hin hout hother ⊢
      rw [hother] at hin hout
      exact ⟨fun hmem => hin (hmem.resolve_left (Ne.symm htp)), fun hno => hout (mt .inr hno)⟩

/-- What typing tiles leaves: the regions, the islands and the package. -/
theorem State.typeTiles_regions (s : State) (first : Nat) (ts : List (TileId × Nat)) : (s.typeTiles l id first ts).regions = s.regions := by
  refine foldl_preserves (v := State.regions) (fun s a _ => ?_) s
  rfl

theorem State.typeTiles_pkg (s : State) (first : Nat) (ts : List (TileId × Nat)) : (s.typeTiles l id first ts).pkg = s.pkg := by
  refine foldl_preserves (v := State.pkg) (fun s a _ => ?_) s
  rfl

theorem Launch.tile_lt_of_mem_tilesHere {pkg : Nat} {t : TileId} (h : t ∈ l.tilesHere pkg) : t.tile < 1024 := by
  unfold Launch.tilesHere at h
  split at h
  · obtain ⟨k, -, hk⟩ := List.mem_flatMap.mp h
    obtain ⟨i, hi, rfl⟩ := List.mem_map.mp hk
    exact List.mem_range.mp (List.mem_of_mem_filter hi)
  · cases h

/-! ### Islands -/

/-- An island claimed for a launch: its state is fresh (12 R243). -/
structure Claimed (l : Launch) (id : Nat) (x : Island) : Prop where
  region : x.region = id
  ctx : x.ctx = l.ctx
  acc : x.acc = []

theorem claimed_claimIsland (s : State) (d k : Nat) : Claimed l id ((s.claimIsland l id d k).island d k) := by
  unfold State.claimIsland
  dsimp only
  rw [State.modIsland_island_self]
  split <;> exact ⟨rfl, rfl, rfl⟩

theorem State.claimIsland_island_ne (s : State) {d k e n : Nat} (h : islKey e n ≠ islKey d k) :
    (s.claimIsland l id d k).island e n = s.island e n := State.modIsland_island_ne _ _ _ _ _ _ h

/-- The islands of a list claimed. -/
def State.claimIslands (s : State) (l : Launch) (id : Nat) (is : List (Nat × Nat)) : State :=
  is.foldl (fun s i => s.claimIsland l id i.1 i.2) s

theorem claimed_claimIslands (s : State) (is : List (Nat × Nat)) :
    ∀ p ∈ is, Claimed l id ((s.claimIslands l id is).island p.1 p.2) := by
  refine foldl_establishes (P := fun p s => Claimed l id (s.island p.1 p.2)) (fun s i => claimed_claimIsland s i.1 i.2)
    (fun s i p hp => ?_) is s
  by_cases hkey : islKey p.1 p.2 = islKey i.1 i.2
  · rw [State.island, hkey]
    exact claimed_claimIsland s i.1 i.2
  · rwa [State.claimIsland_island_ne s hkey]

theorem State.claimIslands_regions (s : State) (is : List (Nat × Nat)) : (s.claimIslands l id is).regions = s.regions := by
  refine foldl_preserves (v := State.regions) (fun s a _ => ?_) s
  rfl

theorem State.claimIslands_pkg (s : State) (is : List (Nat × Nat)) : (s.claimIslands l id is).pkg = s.pkg := by
  refine foldl_preserves (v := State.pkg) (fun s a _ => ?_) s
  rfl

theorem State.claimIslands_tile (s : State) (is : List (Nat × Nat)) (t : TileId) : (s.claimIslands l id is).tile t = s.tile t := by
  refine foldl_preserves (v := fun s => s.tile t) (fun s a _ => ?_) s
  rfl

/-! ### The region -/

/-- A launch's region entered in place of the launch. -/
def State.enterRegion (s : State) (id : Nat) (l : Launch) : State := { s with
  launches := NMap.del s.launches id
  regions := NMap.put s.regions id { launch := l, tiles := l.tilesHere s.pkg, islands := l.islandsHere s.pkg, since := s.cycles } }

/-- A region configured, its tokens still to be placed (06 R131). -/
def State.configured (s : State) (id : Nat) (l : Launch) : State :=
  ((s.enterRegion id l).typeTiles l id ((s.pkg - l.pkgFirst) * (l.tilesHere s.pkg).length) (l.tilesHere s.pkg).zipIdx).claimIslands l id
    (l.islandsHere s.pkg)

theorem State.configured_pkg (s : State) : (s.configured id l).pkg = s.pkg := by
  rw [State.configured, State.claimIslands_pkg, State.typeTiles_pkg]
  rfl

theorem State.configureStep_configures {s : State} (hl : NMap.find s.launches id = some l) (hfree : s.placesFree l = true) :
    s.configureStep id = ((((l.tokens.filter (fun p => numAt p.2 0 2 = s.pkg)).map (fun p => (s.configured id l).initialToken l p.2)).foldl
      (fun s a => (s.countSent a.at_ a.tok.tag.phase 1).arrive a) (s.configured id l)).post
        (if l.pkgCount > 1 then .phaseSum id else .quiescenceWave id)) := by
  rw [← s.configured_pkg (l := l) (id := id)]
  simp only [State.configureStep, hl, hfree, Bool.not_true, Bool.false_eq_true, if_false]
  rfl

theorem State.configured_find (s : State) : NMap.find (s.configured id l).regions id =
    some { launch := l, tiles := l.tilesHere s.pkg, islands := l.islandsHere s.pkg, since := s.cycles } := by
  rw [State.configured, State.claimIslands_regions, State.typeTiles_regions]
  exact NMap.find_put_self _ _ _

theorem typed_configured (s : State) : ∀ t ∈ l.tilesHere s.pkg, Typed l id t (s.tile t) ((s.configured id l).tile t) := by
  intro t ht
  rw [State.configured, State.claimIslands_tile]
  refine (typed_typeTiles _ (Launch.tile_lt_of_mem_tilesHere ht) _ (fun p hp => ?_) (s.enterRegion id l)).1 ?_
  · exact Launch.tile_lt_of_mem_tilesHere (List.fst_mem_of_mem_zipIdx hp)
  · rwa [List.zipIdx_map_fst]

theorem claimed_configured (s : State) : ∀ p ∈ l.islandsHere s.pkg, Claimed l id ((s.configured id l).island p.1 p.2) :=
  claimed_claimIslands _ _

end

end Sys2Proof.Machine

end

section
/-! PROOFS. A region completes (06 R132 to R135): the waves and the phase sums, the done barrier's join, and what is freed. -/

namespace Sys2Proof.Machine

/-! ### Histograms spilled -/

theorem State.writeByte_regions (s : State) (c va : Nat) (b : Byte) : (s.writeByte c va b).regions = s.regions := by
  unfold State.writeByte
  split
  · rfl
  · dsimp only
    split <;> rfl

theorem State.writeVa_regions (s : State) (c va : Nat) (bs : Bytes) : (s.writeVa c va bs).regions = s.regions :=
  foldl_preserves (v := State.regions) (fun s p _ => s.writeByte_regions c (va + p.2) p.1) s

theorem State.histSpill_regions (s : State) (t : TileId) (slot station : Nat) : (s.histSpill t slot station).regions = s.regions := by
  unfold State.histSpill
  dsimp only
  split
  · rfl
  · rw [State.modTile_regions]
    split
    · rfl
    · refine foldl_preserves (v := State.regions) (fun s p _ => ?_) s
      split
      · rfl
      · exact State.writeVa_regions _ _ _ _

theorem State.histSpillAll_regions (s : State) (t : TileId) (slot : Nat) : (s.histSpillAll t slot).regions = s.regions := by
  unfold State.histSpillAll
  exact foldl_preserves (v := State.regions) (fun s n _ => s.histSpill_regions t slot n) s

/-- The bins of every slot of a tile spilled (19 R392). -/
def State.spillTile (s : State) (t : TileId) : State := (List.range 8).foldl (fun s k => s.histSpillAll t k) s

theorem State.spillTile_regions (s : State) (t : TileId) : (s.spillTile t).regions = s.regions := by
  unfold State.spillTile
  exact foldl_preserves (v := State.regions) (fun s k _ => s.histSpillAll_regions t k) s

/-- The bins of a region's tiles spilled. -/
def State.spillTiles (s : State) (ts : List TileId) : State := ts.foldl State.spillTile s

theorem State.spillTiles_regions (s : State) (ts : List TileId) : (s.spillTiles ts).regions = s.regions :=
  foldl_preserves (v := State.regions) (fun s t _ => s.spillTile_regions t) s

/-! ### A region freed -/

/-- A region is gone and its tiles are free (06 R135). -/
def Freed (s : State) (id : Nat) (r : Region) (t : State) : Prop :=
  t.regions = NMap.del s.regions id ∧ ∀ x ∈ r.tiles, (t.tile x).region = 0

theorem Freed.reports {s t u : State} {id : Nat} {r : Region} (h : Freed s id r t) (hu : Reports t u) : Freed s id r u :=
  ⟨hu.regions.trans h.1, fun x hx => (congrArg Tile.region (hu.tile x)).trans (h.2 x hx)⟩

/-- What is freed from a state with the same regions is freed. -/
theorem Freed.of_regions {s s' t : State} {id : Nat} {r : Region} (hs : s'.regions = s.regions) (h : Freed s' id r t) : Freed s id r t :=
  ⟨h.1.trans (congrArg (NMap.del · id) hs), h.2⟩

/-- A list's tiles freed, their scratchpads to be cleared. -/
def State.freeTiles (s : State) (ts : List TileId) : State :=
  ts.foldl (fun s t => (s.modTile t freeTile).due (.scratchpadClearDone t)) s

theorem State.freeTiles_region (s : State) (ts : List TileId) : ∀ x ∈ ts, ((s.freeTiles ts).tile x).region = 0 := by
  refine foldl_establishes (P := fun x s => (s.tile x).region = 0) (fun s t => ?_) (fun s t x hx => ?_) ts s
  · rw [State.due_tile, State.modTile_tile_self]
    rfl
  · rw [State.due_tile]
    by_cases hkey : tileKey x = tileKey t
    · rw [State.tile, hkey]
      exact congrArg Tile.region (State.modTile_tile_self s t freeTile)
    · rwa [State.modTile_tile_ne _ _ _ _ hkey]

theorem State.freeTiles_regions (s : State) (ts : List TileId) : (s.freeTiles ts).regions = s.regions := by
  refine foldl_preserves (v := State.regions) (fun s t _ => ?_) s
  exact State.due_regions _ _

/-- A context's lines dropped from the fabric caches of some dies (10 R212). -/
def State.leaveFabric (s : State) (c : Nat) (ds : List Nat) : State :=
  ds.foldl (fun s d => s.modDie d (fun x => { x with fcache := x.fcache.filter (fun e => e.1.1 ≠ c) })) s

theorem reports_leaveFabric (s : State) (c : Nat) (ds : List Nat) : Reports s (s.leaveFabric c ds) := by
  refine .foldl _ (fun s d => ?_) s
  exact reports_modDie s d fun _ => ⟨rfl, rfl⟩

section
variable {s : State} {id : Nat} {r : Region}

theorem State.freeRegion_freed (hr : s.region? id = some r) : Freed s id r (s.freeRegion id) := by
  unfold State.freeRegion
  rw [hr]
  dsimp -zeta only
  extract_lets s1 s2 s3 s4 s5 s6
  have h1 : s1 = s.freeTiles r.tiles := rfl
  have h6 : Reports s5 s6 := reports_leaveFabric s5 _ _
  have h5 : Freed s id r s5 := ⟨congrArg (NMap.del · id) (s.freeTiles_regions r.tiles), s.freeTiles_region r.tiles⟩
  exact h5.reports (h6.trans (reports_dropLeases s6 _ _))

theorem State.finishRegion_freed (hr : s.region? id = some r) : Freed s id r (s.finishRegion id r) := by
  unfold State.finishRegion
  extract_lets l s1 s2 q s3
  have hregions : s1.regions = s.regions := s.spillTiles_regions r.tiles
  have hr1 : s1.region? id = some r := (congrArg (NMap.find · id) hregions).trans hr
  have h2 : Reports (s1.freeRegion id) s2 := reports_catalogueAt _ _ _ _ _ _ _ _ _ _ _
  have h3 : Reports s2 s3 := .ite (reports_curEvent _ _ _ _ _ _) (.refl s2)
  exact ((State.freeRegion_freed hr1).of_regions hregions).reports ((h2.trans h3).trans (reports_settleCtx s3 _))

end

/-! ### The done barrier -/

/-- The join of a region's done barrier (06 R135). -/
def State.donePacket (s : State) (id : Nat) (r : Region) : Packet := {
  typ := 0x02, addr := BitVec.ofNat 64 r.launch.doneBar, to_ := BitVec.ofNat 13 (vaOwner r.launch.doneBar), from_ := s.code r.launch.die,
  inc := (s.die r.launch.die).inc, ctx := BitVec.ofNat 12 r.launch.ctx, op := .barJoin 1, tile := 4094, serial := id,
  stamp := { level := if s.level r.launch.ctx = 0 then 0 else BitVec.ofNat 48 r.level.toNat } }

/-- The state in which a region has sent the join of its done barrier. -/
def State.sendJoin (s : State) (id : Nat) (r : Region) : State :=
  (s.dieSent r.launch.ctx r.launch.die 0).emitPkt r.launch.die (s.donePacket id r)

theorem State.emitPkt_dies (s : State) (d : Nat) (p : Packet) : (s.emitPkt d p).dies = s.dies := by
  unfold State.emitPkt
  split
  · dsimp only
    split
    · rfl
    · split <;> rfl
  · rfl

section
variable {s : State} {id : Nat} {r : Region}

theorem reports_sendJoin (s : State) (id : Nat) (r : Region) : Reports s (s.sendJoin id r) :=
  (reports_dieSent s _ _ _).trans (reports_emitPkt _ _ _)

/-- Without a done barrier, or with one of another package, a quiescent region is freed at once (log entry 4). -/
theorem State.completeRegion_freed (hr : s.region? id = some r) (hbar : r.launch.doneBar = 0 ∨ vaPkg r.launch.doneBar ≠ s.pkg) :
    Freed s id r (s.completeRegion id r) := by
  unfold State.completeRegion
  extract_lets l bar s1
  have h1 : Reports s s1 := reports_sendJoin s id r
  split
  · exact State.finishRegion_freed hr
  next hne =>
    have haway : vaPkg bar ≠ s1.pkg := by
      rw [h1.pkg]
      exact hbar.resolve_left hne
    rw [if_neg haway]
    exact (State.finishRegion_freed ((h1.region? id).trans hr)).of_regions h1.regions

/-- With a done barrier of this package a quiescent region joins it first. -/
theorem State.completeRegion_joins (hne : r.launch.doneBar ≠ 0) (hpkg : vaPkg r.launch.doneBar = s.pkg) :
    s.completeRegion id r = (s.sendJoin id r).modRegion id (fun x => { x with joining := true }) := by
  rw [← (reports_sendJoin s id r).pkg] at hpkg
  unfold State.completeRegion
  extract_lets l bar s1
  have h1 : s1 = s.sendJoin id r := rfl
  have hhere : vaPkg bar = s1.pkg := hpkg
  rw [if_neg hne, if_pos hhere, h1]

theorem State.leaves_donePacket (s : State) (id : Nat) (r : Region) (g : Region → Region) :
    Leaves r.launch.die (s.donePacket id r) ((s.sendJoin id r).modRegion id g) := by
  refine leaves_emitPkt (s := s.dieSent r.launch.ctx r.launch.die 0) ?_ ?_ (List.Subset.refl _)
  · exact (reports_emitPkt _ _ _).pkg
  · exact congrArg (fun m => NMap.getD m r.launch.die ({} : Die)) (State.emitPkt_dies _ _ _)

end

/-! ### Waves and phase sums -/

section
variable {s : State} {id : Nat} {r : Region} (hr : s.region? id = some r)
include hr

theorem State.waveStep_completes (h : (s.totals r).1 = (s.totals r).2 ∧ r.lastWave = some (s.totals r)) :
    s.waveStep id = s.completeRegion id r := by
  simp only [State.waveStep, hr, h.1, h.2, decide_true, Bool.and_self, if_true]

theorem State.waveStep_repeats (h : ¬ ((s.totals r).1 = (s.totals r).2 ∧ r.lastWave = some (s.totals r))) :
    s.waveStep id = (s.modRegion id (fun x => { x with lastWave := some (s.totals r), since := s.cycles })).post (.quiescenceWave id) := by
  unfold State.waveStep
  rw [hr]
  dsimp only
  rw [if_neg (by simpa using h)]

end

/-- The sums of a region's phases, by their number modulo 4 (06 R134). -/
def State.phaseSums (s : State) (r : Region) : NMap Int := (List.range 4).map (fun k => (k, s.phaseCount r k))

theorem State.phaseSums_find (s : State) (r : Region) : ∀ k < 4, NMap.find (s.phaseSums r) k = some (s.phaseCount r k) := by
  intro k hk
  have hlist : s.phaseSums r = [(0, s.phaseCount r 0), (1, s.phaseCount r 1), (2, s.phaseCount r 2), (3, s.phaseCount r 3)] := rfl
  rw [hlist]
  interval_cases k <;> rfl

/-- The phases that a sum shuts: their sums read zero, and did so at the sum before. -/
def State.shutPhases (s : State) (r : Region) : List Nat :=
  ((s.phaseSums r).filter (fun p => p.2 = 0 && NMap.find r.lastSums p.1 = some 0)).map (·.1)

theorem State.shutPhases_all (s : State) (r : Region) :
    (s.shutPhases r).length = 4 ↔ ∀ k < 4, s.phaseCount r k = 0 ∧ NMap.find r.lastSums k = some 0 := by
  have hlen : 4 = (s.phaseSums r).length := by rw [State.phaseSums, List.length_map, List.length_range]
  have hshut : (s.shutPhases r).length = (s.phaseSums r).length ↔ ∀ p ∈ s.phaseSums r, p.2 = 0 ∧ NMap.find r.lastSums p.1 = some 0 := by
    rw [State.shutPhases, List.length_map, List.length_filter_eq_length_iff]
    simp only [Bool.and_eq_true, decide_eq_true_eq]
  rw [← hlen] at hshut
  rw [hshut, State.phaseSums, List.forall_mem_map]
  simp only [List.mem_range]

section
variable {s : State} {id : Nat} {r : Region} (hr : s.region? id = some r)
include hr

theorem State.phaseStep_completes (h : ∀ k < 4, s.phaseCount r k = 0 ∧ NMap.find r.lastSums k = some 0) :
    s.phaseStep id = s.completeRegion id r := by
  unfold State.phaseStep
  rw [hr]
  exact if_pos ((s.shutPhases_all r).mpr h)

theorem State.phaseStep_repeats (h : ¬ ∀ k < 4, s.phaseCount r k = 0 ∧ NMap.find r.lastSums k = some 0) :
    ∃ closed, s.phaseStep id =
      (s.modRegion id (fun x => { x with lastSums := s.phaseSums r, closed := closed, since := s.cycles })).post (.phaseSum id) := by
  unfold State.phaseStep
  rw [hr]
  exact ⟨_, if_neg (mt (s.shutPhases_all r).mp h)⟩

/-- The answer of the done barrier's join finishes the region (06 R135). -/
theorem State.joinReply_finishes {p : Packet} (hp : p.serial = id) (hjoin : r.joining = true) {bs : Bytes} {line : Bool}
    (hop : p.op = .data bs line) : s.joinReply p = s.finishRegion id r := by
  rw [← hp] at hr ⊢
  simp only [State.joinReply, hr, hjoin, hop, Bool.not_true, Bool.false_eq_true, if_false]

end

end Sys2Proof.Machine

end

section
/-! PROOFS. O51: the steps of a launch. -/

namespace Sys2Proof.Machine

/-! ### What each event of a launch runs -/

section
variable {s : State}

theorem exec_qtailWrite {d q : Nat} {v : BitVec 32} (h : s.ev = .qtailWrite d q v) : exec .qtailWrite s = .next (s.tailWrite d q v) := by
  have hexec : exec .qtailWrite s = execQtailWrite s := rfl
  rw [hexec, execQtailWrite, h]

theorem exec_queueDecision {d : Nat} (h : s.ev = .queueDecision d) : exec .queueDecision s = .next (s.queueStep d) := by
  have hexec : exec .queueDecision s = execQueueDecision s := rfl
  rw [hexec, execQueueDecision, h]

theorem exec_queueWaiterAnswer {d q : Nat} {lv : BitVec 32} (h : s.ev = .queueWaiterAnswer d q lv) : exec .queueWaiterAnswer s =
    .next ((s.modQueue d q (fun x => if x.asked then { x with met := some lv } else x)).due (.queueDecision d)) := by
  have hexec : exec .queueWaiterAnswer s = execQueueWaiterAnswer s := rfl
  rw [hexec, execQueueWaiterAnswer, h]

theorem exec_launchRecordCheck {id : Nat} (h : s.ev = .launchRecordCheck id) : exec .launchRecordCheck s = .next (s.checkStep id) := by
  have hexec : exec .launchRecordCheck s = execLaunchRecordCheck s := rfl
  rw [hexec, execLaunchRecordCheck, h]

theorem exec_leaseResidencyCheck {id : Nat} (h : s.ev = .leaseResidencyCheck id) :
    exec .leaseResidencyCheck s = .next (s.residencyStep id) := by
  have hexec : exec .leaseResidencyCheck s = execLeaseResidencyCheck s := rfl
  rw [hexec, execLeaseResidencyCheck, h]

theorem exec_reswaitTimeout {d k : Nat} (h : s.ev = .reswaitTimeout d k) : exec .reswaitTimeout s = .next (s.failResidency d k 1) := by
  have hexec : exec .reswaitTimeout s = execReswaitTimeout s := rfl
  rw [hexec, execReswaitTimeout, h]

/-- A launch is configured alike by either event. -/
theorem exec_configure {id : Nat} (h : s.ev = .regionConfigured id ∨ s.ev = .heldLaunchConfigure id) :
    exec (if s.ev = .regionConfigured id then .regionConfigured else .heldLaunchConfigure) s = .next (s.configureStep id) := by
  rcases h with h | h
  · have hexec : exec .regionConfigured s = execRegionConfigured s := rfl
    rw [if_pos h, hexec, execRegionConfigured, h]
  · have hexec : exec .heldLaunchConfigure s = execHeldLaunchConfigure s := rfl
    rw [if_neg (h ▸ nofun), hexec, execHeldLaunchConfigure, h]

theorem exec_quiescenceWave {id : Nat} (h : s.ev = .quiescenceWave id) : exec .quiescenceWave s = .next (s.waveStep id) := by
  have hexec : exec .quiescenceWave s = execQuiescenceWave s := rfl
  rw [hexec, execQuiescenceWave, h]

theorem exec_phaseSum {id : Nat} (h : s.ev = .phaseSum id) : exec .phaseSum s = .next (s.phaseStep id) := by
  have hexec : exec .phaseSum s = execPhaseSum s := rfl
  rw [hexec, execPhaseSum, h]

/-- The reply to a done barrier's join. -/
theorem exec_replyDelivery_join {p : Packet} (h : s.ev = .replyDelivery p) (htile : p.tile = 4094) (hrel : p.rel = false) :
    exec .replyDelivery s = .next (s.joinReply p) := by
  have hexec : exec .replyDelivery s = execReplyDelivery s := rfl
  rw [hexec, execReplyDelivery, h]
  dsimp only
  rw [if_pos htile, hrel, if_pos Bool.not_false]

end

/-- What an event of completion does to a region that is quiescent, and to one that is not (06 R133 to R135). -/
structure Completes (s : State) (id : Nat) (r : Region) (i : Instr) (ended : Prop) (again : Region → State → Prop) : Prop where
  frees : ended → r.launch.doneBar = 0 ∨ vaPkg r.launch.doneBar ≠ s.pkg → ∃ t, exec i s = .next t ∧ Freed s id r t
  joins : ended → r.launch.doneBar ≠ 0 → vaPkg r.launch.doneBar = s.pkg → ∃ t r' q, exec i s = .next t ∧ t.region? id = some r'
    ∧ r'.joining = true ∧ r'.tiles = r.tiles ∧ Leaves r.launch.die q t ∧ q.typ = 0x02 ∧ q.addr = BitVec.ofNat 64 r.launch.doneBar
    ∧ q.op = .barJoin 1 ∧ q.tile = 4094 ∧ q.serial = id
  goesOn : ¬ ended → ∃ t r', exec i s = .next t ∧ t.region? id = some r' ∧ r'.launch = r.launch ∧ r'.tiles = r.tiles ∧ again r' t

section
variable {s : State} {id : Nat} {r : Region} (hr : s.region? id = some r)
include hr

theorem completes_of_exec {i : Instr} {ended : Prop} {again : Region → State → Prop}
    (hended : ended → exec i s = .next (s.completeRegion id r))
    (hgoes : ¬ ended → ∃ t r', exec i s = .next t ∧ t.region? id = some r' ∧ r'.launch = r.launch ∧ r'.tiles = r.tiles ∧ again r' t) :
    Completes s id r i ended again where
  frees he hbar := ⟨_, hended he, State.completeRegion_freed hr hbar⟩
  joins he hne hpkg := by
    refine ⟨_, { r with joining := true }, s.donePacket id r, hended he, ?region, rfl, rfl, ?leaves, rfl, rfl, rfl, rfl, rfl⟩
    case region => rw [State.completeRegion_joins hne hpkg, State.modRegion_region_self, (reports_sendJoin s id r).region?, hr, Option.map_some]
    case leaves =>
      rw [State.completeRegion_joins hne hpkg]
      exact State.leaves_donePacket s id r _
  goesOn := hgoes

theorem completes_quiescenceWave (hev : s.ev = .quiescenceWave id) :
    Completes s id r .quiescenceWave ((s.totals r).1 = (s.totals r).2 ∧ r.lastWave = some (s.totals r))
      (fun r' t => r'.lastWave = some (s.totals r) ∧ .quiescenceWave id ∈ t.agenda) := by
  have hexec := exec_quiescenceWave hev
  refine completes_of_exec hr (fun he => State.waveStep_completes hr he ▸ hexec) (fun hne => ?_)
  rw [State.waveStep_repeats hr hne] at hexec
  refine ⟨_, { r with lastWave := some (s.totals r), since := s.cycles }, hexec, ?_, rfl, rfl, rfl,
    List.mem_append_right _ (List.mem_singleton_self _)⟩
  rw [State.post_region, State.modRegion_region_self, hr, Option.map_some]

theorem completes_phaseSum (hev : s.ev = .phaseSum id) :
    Completes s id r .phaseSum (∀ k < 4, s.phaseCount r k = 0 ∧ NMap.find r.lastSums k = some 0)
      (fun r' t => (∀ k < 4, NMap.find r'.lastSums k = some (s.phaseCount r k)) ∧ .phaseSum id ∈ t.agenda) := by
  have hexec := exec_phaseSum hev
  refine completes_of_exec hr (fun he => State.phaseStep_completes hr he ▸ hexec) (fun hne => ?_)
  obtain ⟨closed, hstep⟩ := State.phaseStep_repeats hr hne
  rw [hstep] at hexec
  refine ⟨_, { r with lastSums := s.phaseSums r, closed := closed, since := s.cycles }, hexec, ?_, rfl, rfl, s.phaseSums_find r,
    List.mem_append_right _ (List.mem_singleton_self _)⟩
  rw [State.post_region, State.modRegion_region_self, hr, Option.map_some]

end

end Sys2Proof.Machine

open Sys2Proof Sys2Proof.Machine

/-- Settles O51: each event is one step of the launch's way, and the lemma named after the step says what it leaves. -/
theorem launchEventResults : Obligations.LaunchEventResults := by
  intro s d freed
  refine ⟨?doorbell, ?decision, ?answer, ?check, ?residency, ?timeout, ?configure, ?complete, ?joined⟩
  case doorbell =>
    intro q v hev hon
    obtain ⟨hqueue, hdecide, hmem⟩ := State.tailWrite_queue v hon
    refine ⟨_, exec_qtailWrite hev, ?_, ?_, hdecide, hmem, ?_⟩
    · rw [hqueue, Queue.judged_tail]
    · rw [hqueue, Queue.judged_head]
    · rw [hqueue, Queue.judged_err]
  case decision =>
    intro w q p turn hev hpick hlevel l
    obtain ⟨helig, htake, hprio⟩ := State.pickQueue_spec hpick
    obtain ⟨id, hcheck, hlisted, hhead, hage, hruns, hmem⟩ := State.takeHead_spec w d q p turn
    refine ⟨helig, htake, hprio, _, id, ?_, hcheck, hlisted, hhead, hage, hruns, hmem.trans (s.askBarriers_mem d)⟩
    rw [exec_queueDecision hev, State.queueStep_takes hpick hlevel]
    rfl
  case answer =>
    intro q lv hev hasked
    refine ⟨_, exec_queueWaiterAnswer hev, ?_, State.mem_due _ _⟩
    rw [(reports_due _ _).queue, State.modQueue_queue_self, if_pos hasked]
  case check =>
    intro id l hev hl
    refine ⟨fun l' hok => ⟨_, exec_launchRecordCheck hev, ?_, ?_⟩, fun e herr => ⟨_, exec_launchRecordCheck hev, ?_⟩⟩
    · rw [State.checkStep_passes hl hok]
      exact NMap.find_put_self _ _ _
    · rw [State.checkStep_passes hl hok]
      exact List.mem_append_right _ (List.mem_singleton_self _)
    · rw [State.checkStep_fails hl herr]
      exact State.dropLaunch_curEvent_spec _ _ _ _ _ _ _ _
  case residency =>
    intro id l hev hl
    refine ⟨fun hres hun => ?proceeds, fun hres hslot k hk => ?waits⟩
    case proceeds =>
      obtain ⟨v, hstep⟩ := State.residencyStep_proceeds hl hres hun
      have hreports := reports_due ({ v with launches := NMap.put v.launches id { l with active := l.leases, slot := none } }.post
        (.regionConfigured id)) (.queueDecision l.die)
      refine ⟨_, { l with active := l.leases, slot := none }, exec_leaseResidencyCheck hev, ?_, ?_, rfl, rfl⟩ <;> rw [hstep]
      · exact hreports.agenda (List.mem_append_right _ (List.mem_singleton_self _))
      · rw [hreports.launches]
        exact NMap.find_put_self _ _ _
    case waits =>
      obtain ⟨a, hbad, v, hv, hstep⟩ := State.residencyStep_waits hl hres hslot hk
      have hreports := hv.trans (reports_due v (.reswaitTimeout l.die k))
      refine ⟨_, l.waiting (s.confirmed l) k s.cycles a, exec_leaseResidencyCheck hev, ?_, ?_, ?_, rfl, rfl, hbad⟩ <;> rw [hstep]
      · exact State.mem_due _ _
      · rw [hreports.resSlots]
        exact State.takeSlot_slot _ id (l.waiting (s.confirmed l) k s.cycles a) k
      · rw [hreports.launches]
        exact State.takeSlot_listed _ _ _ _
  case timeout =>
    intro k id l hev hk hl
    refine ⟨_, exec_reswaitTimeout hev, ?_⟩
    rw [State.failResidency_refuses hl hk]
    exact State.dropLaunch_curEvent_spec _ _ _ _ _ _ _ _
  case configure =>
    intro id l hev hl hfree i
    refine ⟨s.configured id l, ?_, ⟨_, s.configured_find, rfl, rfl, rfl⟩, fun x hx => ?tile, fun p hp => ?island⟩
    · exact (exec_configure hev).trans (congrArg _ (State.configureStep_configures hl hfree))
    case tile =>
      obtain ⟨hregion, hctx, hkind, hsregs, hwregs, haregs⟩ := typed_configured (id := id) s x hx
      exact ⟨hregion, hctx, hkind, fun hother => ⟨hsregs.trans (if_neg hother), hwregs.trans (if_neg hother), haregs.trans (if_neg hother)⟩⟩
    case island =>
      obtain ⟨hregion, hctx, hacc⟩ := claimed_configured (id := id) s p hp
      exact ⟨hregion, hctx, hacc⟩
  case complete =>
    intro id r hev hr wave i ended bar
    by_cases hwave : s.ev = .quiescenceWave id
    · obtain ⟨hfrees, hjoins, hgoes⟩ := completes_quiescenceWave hr hwave
      simp only [i, ended, wave, hwave, if_true]
      refine ⟨hfrees, hjoins, fun hne => ?_⟩
      obtain ⟨t, r', hexec, hr', hlaunch, htiles, hagain⟩ := hgoes hne
      exact ⟨t, r', hexec, hr', hlaunch, htiles, fun _ => hagain, fun hno => absurd trivial hno⟩
    · obtain ⟨hfrees, hjoins, hgoes⟩ := completes_phaseSum hr (hev.resolve_left hwave)
      simp only [i, ended, wave, hwave, if_false]
      refine ⟨hfrees, hjoins, fun hne => ?_⟩
      obtain ⟨t, r', hexec, hr', hlaunch, htiles, hagain⟩ := hgoes hne
      exact ⟨t, r', hexec, hr', hlaunch, htiles, nofun, fun _ => hagain⟩
  case joined =>
    intro p r bs line hev htile hrel hr hjoin hop
    refine ⟨_, exec_replyDelivery_join hev htile hrel, ?_⟩
    rw [State.joinReply_finishes hr rfl hjoin hop]
    exact State.finishRegion_freed hr

end

section
/-! PROOFS. Elements of an operand (07 R143): their codes, and results formed element by element. -/

namespace Sys2Proof.Machine

/-- The lowest bits of a number. -/
theorem bitsN_zero (v n : Nat) : bitsN v 0 n = v % 2 ^ n := by rw [bitsN, pow_zero, Nat.div_one]

/-- An element is a bit pattern of its width. -/
theorem elems_lt {n : Nat} {bs : Bytes} {x : Nat} (h : x ∈ elems n bs) : x < 2 ^ (8 * n) := by
  obtain ⟨i, -, rfl⟩ := List.mem_map.mp h
  exact numAt_lt bs (i * n) n

/-- Padding adds zero elements only. -/
theorem mem_padTo {k x : Nat} {l : List Nat} (h : x ∈ padTo k l) : x ∈ l ∨ x = 0 :=
  (List.mem_append.mp h).imp List.mem_of_mem_take List.eq_of_mem_replicate

theorem padTo_elems_lt {k n : Nat} {bs : Bytes} {x : Nat} (h : x ∈ padTo k (elems n bs)) : x < 2 ^ (8 * n) := by
  obtain hx | rfl := mem_padTo h
  · exact elems_lt hx
  · positivity

theorem mapOne_congr {n : Nat} {g g' : Nat → Nat} (h : ∀ x < 2 ^ (8 * n), g x = g' x) (a : Bytes) : mapOne n g a = mapOne n g' a :=
  congrArg (packElems n) (List.map_congr_left fun x hx => h x (elems_lt hx))

theorem mapTwo_congr {n : Nat} {g g' : Nat → Nat → Nat} (h : ∀ x < 2 ^ (8 * n), ∀ y < 2 ^ (8 * n), g x y = g' x y) (a b : Bytes) :
    mapTwo n g a b = mapTwo n g' a b := by
  refine congrArg (packElems n) (List.map_congr_left fun p hp => ?_)
  obtain ⟨hx, hy⟩ := List.of_mem_zip hp
  exact h p.1 (padTo_elems_lt hx) p.2 (padTo_elems_lt hy)

end Sys2Proof.Machine

end

section
/-! PROOFS. IALU and ICMP (07 R149), element by element. -/

namespace Sys2Proof.Machine

section
variable {t : Ty} {x y : Nat}

theorem typeWidth_pos (t : Ty) : 0 < t.width := by cases t <;> decide

/-- The value of an element by its type (03 R59). -/
theorem intOf_eq (hx : x < 2 ^ t.width) :
    intOf t x = if t.isSigned && decide (2 ^ (t.width - 1) ≤ x) then (x : Int) - 2 ^ t.width else (x : Int) := by
  cases hs : t.isSigned
  · simp [intOf, hs, Nat.mod_eq_of_lt hx]
  · simp only [intOf, hs, asSigned, Nat.mod_eq_of_lt hx, if_true, Bool.true_and, decide_eq_true_eq, ← not_lt, ite_not]
    push_cast
    rfl

theorem wrapInt_eq (w : Nat) (z : Int) : wrapInt w z = (z % 2 ^ w).toNat := by
  rw [wrapInt]
  push_cast
  rfl

/-- A bit pattern is left by the reduction modulo its width. -/
theorem wrapInt_natCast (hx : x < 2 ^ t.width) : wrapInt t.width x = x := by
  rw [wrapInt, ← Int.natCast_mod, Int.toNat_natCast, Nat.mod_eq_of_lt hx]

/-- The value of an element, reduced, is the element. -/
theorem wrapInt_intOf (hx : x < 2 ^ t.width) : wrapInt t.width (intOf t x) = x := by
  have hcast : (x : Int) - 2 ^ t.width = x - (2 ^ t.width : ℕ) := by push_cast; rfl
  rw [intOf_eq hx]
  split
  · rw [hcast, wrapInt, Int.sub_emod_right]
    exact wrapInt_natCast hx
  · exact wrapInt_natCast hx

theorem intMin_eq (t : Ty) : intMin t = if t.isSigned then -(2 ^ (t.width - 1)) else 0 := by
  rw [intMin]
  push_cast
  rfl

theorem intMax_eq (t : Ty) : intMax t = if t.isSigned then 2 ^ (t.width - 1) - 1 else 2 ^ t.width - 1 := by
  rw [intMax]
  push_cast
  rfl

/-! ### Bits -/

/-- The parts of a rotated pattern stand side by side. -/
theorem rotated_lt {w s : Nat} (hs : s ≤ w) (hx : x < 2 ^ w) : x * 2 ^ s % 2 ^ w + x / 2 ^ (w - s) < 2 ^ w := by
  have hpow : 2 ^ w = 2 ^ (w - s) * 2 ^ s := by rw [← Nat.pow_add, Nat.sub_add_cancel hs]
  have hlow : x / 2 ^ (w - s) < 2 ^ s := Nat.div_lt_of_lt_mul (hpow ▸ hx)
  have hhigh : x % 2 ^ (w - s) + 1 ≤ 2 ^ (w - s) := Nat.mod_lt _ (by positivity)
  calc x * 2 ^ s % 2 ^ w + x / 2 ^ (w - s) = x % 2 ^ (w - s) * 2 ^ s + x / 2 ^ (w - s) := by rw [hpow, Nat.mul_mod_mul_right]
    _ < (x % 2 ^ (w - s) + 1) * 2 ^ s := by rw [Nat.add_one_mul]; omega
    _ ≤ 2 ^ w := by rw [hpow]; exact Nat.mul_le_mul_right _ hhigh

theorem popcount_eq (w : Nat) : ∀ x, popcount w x = ((List.range w).filter (fun i => x.testBit i)).length := by
  induction w with
  | zero => exact fun _ => rfl
  | succ w ih =>
    intro x
    have hshift : (fun i => x.testBit i) ∘ Nat.succ = fun i => (x / 2).testBit i := funext fun i => Nat.testBit_succ x i
    rw [popcount, ih, List.range_succ_eq_map, List.filter_cons, List.filter_map, hshift, Nat.testBit_zero]
    rcases Nat.mod_two_eq_zero_or_one x with h | h <;> simp [h, Nat.add_comm]

theorem popcount_le (w x : Nat) : popcount w x ≤ w := by
  rw [popcount_eq]
  exact (List.length_filter_le _ _).trans_eq (List.length_range)

theorem width_sub_bitLen (t : Ty) (x : Nat) : t.width - bitLen x = if x = 0 then t.width else t.width - 1 - Nat.log2 x := by
  rw [bitLen]
  split <;> omega

end

/-! ### One element -/

section
variable {t : Ty} {sat : Bool} {x y : Nat}

/-- A minor on which `sat` has no effect. -/
theorem ialuElem_of_plain {op : IOp} (h : op.satMatters = false) : ialuElem op t sat x y = wrapInt t.width (ialuExact op t x y) := by
  simp only [ialuElem, h, Bool.and_false, Bool.false_eq_true, if_false]

/-- A minor on which `sat` has effect. -/
theorem ialuElem_of_sat {op : IOp} (h : op.satMatters = true) : ialuElem op t sat x y =
    if sat then wrapInt t.width (satInt t (ialuExact op t x y)) else wrapInt t.width (ialuExact op t x y) := by
  simp only [ialuElem, h, Bool.and_true, apply_ite (wrapInt t.width)]

/-- A minor whose result is a bit pattern of the width. -/
theorem ialuElem_of_pattern {op : IOp} {r : Nat} (h : op.satMatters = false) (he : ialuExact op t x y = r) (hr : r < 2 ^ t.width) :
    ialuElem op t sat x y = r := by
  rw [ialuElem_of_plain h, he, wrapInt_natCast hr]

end

section
variable {f : Fields} {s u : State} (h : Fires f (sregDests f) s u)
include h

/-- An IALU set fires with its element-wise function of two operands (07 R149). -/
theorem fireIalu_next {op : IOp} {g : Nat → Nat → Nat}
    (hg : ∀ x < 2 ^ f.tyT.width, ∀ y < 2 ^ f.tyT.width, ialuElem op f.tyT f.sat x y = g x y) :
    fireIalu op f s = finished f s (valueOut f s u (mapTwo f.tyT.size g (opIn f s u f.tyT false) (opIn f s u f.tyT true))) := by
  rw [← mapTwo_congr hg]
  exact fireValue_next h _

theorem fireIalu1_next {op : IOp} {g : Nat → Nat} (hg : ∀ x < 2 ^ f.tyT.width, ialuElem op f.tyT f.sat x 0 = g x) :
    fireIalu1 op f s = finished f s (valueOut f s u (mapOne f.tyT.size g (opIn f s u f.tyT false))) := by
  rw [← mapOne_congr hg]
  exact fireValue_next h _

theorem fireIcmp_next {op : ICmp} {g : Nat → Nat → Nat}
    (hg : ∀ x < 2 ^ f.tyT.width, ∀ y < 2 ^ f.tyT.width, icmpElem op f.tyT x y = g x y) :
    fireIcmp op f s = finished f s (valueOut f s u (mapTwo f.tyT.size g (opIn f s u f.tyT false) (opIn f s u f.tyT true))) := by
  rw [← mapTwo_congr hg]
  exact fireValue_next h _

end

end Sys2Proof.Machine

open Sys2Proof Sys2Proof.Machine

/-- Settles O10: each minor gives on codes of the width the code of R149 (`ialuElem_of_sat`, `ialuElem_of_plain`, `ialuElem_of_pattern`),
and the elements of both sides, padding included, are such codes (`mapTwo_congr`). -/
theorem integerLanes : Obligations.IntegerLanes := by
  intro f s u _ h w v lo hi wrap sat mask two one
  have hv {x : Nat} (hx : x < 2 ^ w) : intOf f.tyT x = v x := intOf_eq hx
  have hwrap (z : Int) : wrapInt w z = wrap z := wrapInt_eq w z
  have hsat {op : IOp} {x y : Nat} (hop : op.satMatters = true) : ialuElem op f.tyT f.sat x y = sat (ialuExact op f.tyT x y) := by
    have hclamp (z : Int) : satInt f.tyT z = max lo (min hi z) := by rw [satInt, intMin_eq, intMax_eq]
    rw [ialuElem_of_sat hop, hwrap, hwrap, hclamp]
  have hplain {op : IOp} {x y : Nat} (hop : op.satMatters = false) : ialuElem op f.tyT f.sat x y = wrap (ialuExact op f.tyT x y) := by
    rw [ialuElem_of_plain hop, hwrap]
  have hamount {y : Nat} (hy : y < 2 ^ w) : y % 2 ^ w % w = y % w := by rw [Nat.mod_eq_of_lt hy]
  have hamount_le (y : Nat) : y % w ≤ w := (Nat.mod_lt _ (typeWidth_pos f.tyT)).le
  have two_of {op : IOp} {g : Nat → Nat → Nat} (hg : ∀ x < 2 ^ w, ∀ y < 2 ^ w, ialuElem op f.tyT f.sat x y = g x y) :
      .next (fireIalu op f s) = two g := congrArg Host.Outcome.next (fireIalu_next h hg)
  have one_of {op : IOp} {g : Nat → Nat} (hg : ∀ x < 2 ^ w, ialuElem op f.tyT f.sat x 0 = g x) :
      .next (fireIalu1 op f s) = one g := congrArg Host.Outcome.next (fireIalu1_next h hg)
  have cmp_of {op : ICmp} {g : Nat → Nat → Nat} (hg : ∀ x < 2 ^ w, ∀ y < 2 ^ w, icmpElem op f.tyT x y = g x y) :
      .next (fireIcmp op f s) = two g := congrArg Host.Outcome.next (fireIcmp_next h hg)
  refine ⟨two_of ?add, two_of ?sub, two_of ?mul, two_of ?mulh, two_of ?min, two_of ?max, two_of ?and, two_of ?or, two_of ?xor,
    one_of ?not, two_of ?shl, two_of ?shr, two_of ?rot, one_of ?popc, one_of ?clz, one_of ?abs, cmp_of ?eq, cmp_of ?ne, cmp_of ?lt,
    cmp_of ?le, cmp_of ?gt, cmp_of ?ge, cmp_of ?tst⟩
  all_goals intro x hx
  case add | sub | mul => exact fun y hy => by rw [hsat rfl, ialuExact, hv hx, hv hy]
  case mulh =>
    intro y hy
    rw [hplain rfl, ialuExact, hv hx, hv hy, Int.fdiv_eq_ediv_of_nonneg _ (by positivity), Nat.cast_pow, Nat.cast_ofNat]
  case min | max =>
    intro y hy
    rw [ialuElem_of_plain rfl, ialuExact, apply_ite (wrapInt f.tyT.width), wrapInt_intOf hx, wrapInt_intOf hy, hv hx, hv hy]
  case and => exact fun y hy => ialuElem_of_pattern rfl rfl (Nat.and_lt_two_pow x hy)
  case or => exact fun y hy => ialuElem_of_pattern rfl rfl (Nat.or_lt_two_pow hx hy)
  case xor => exact fun y hy => ialuElem_of_pattern rfl rfl (Nat.xor_lt_two_pow hx hy)
  case not =>
    refine ialuElem_of_pattern rfl ?_ ((Nat.sub_le _ x).trans_lt (Nat.sub_one_lt (by positivity)))
    rw [ialuExact, Nat.mod_eq_of_lt hx]
  case shl =>
    intro y hy
    rw [hsat rfl, ialuExact, hamount hy, hv hx, Nat.cast_pow, Nat.cast_ofNat]
  case shr =>
    intro y hy
    rw [hplain rfl, ialuExact, hamount hy, hv hx, Int.fdiv_eq_ediv_of_nonneg _ (by positivity), Nat.cast_pow, Nat.cast_ofNat]
  case rot =>
    intro y hy
    refine ialuElem_of_pattern rfl ?_ (rotated_lt (hamount_le y) hx)
    rw [ialuExact, hamount hy, Nat.mod_eq_of_lt hx]
  case popc =>
    rw [← popcount_eq]
    exact ialuElem_of_pattern rfl rfl ((popcount_le w x).trans_lt Nat.lt_two_pow_self)
  case clz =>
    rw [← width_sub_bitLen]
    refine ialuElem_of_pattern rfl ?_ ((Nat.sub_le _ _).trans_lt Nat.lt_two_pow_self)
    rw [ialuExact, Nat.mod_eq_of_lt hx]
  case abs =>
    rw [hsat rfl, ialuExact, hv hx]
    congr 1
    split <;> omega
  case eq | ne | lt | le | gt | ge => exact fun y hy => by rw [icmpElem, hv hx, hv hy]; rfl
  case tst => exact fun y _ => rfl

end

section
/-! PROOFS. ADDR (07 R151, R152): the address that each minor computes, emits and keeps for its register. -/

namespace Sys2Proof.Machine

/-- Bytes read as a number and written again. -/
theorem leBytes_leNat (bs : Bytes) : leBytes bs.length (leNat bs) = bs := by
  induction bs with
  | nil => rfl
  | cons b bs ih =>
    have hb : b.toNat < 256 := b.isLt
    have hdiv : (b.toNat + 256 * leNat bs) / 256 = leNat bs := by omega
    have hbyte : BitVec.ofNat 8 (b.toNat + 256 * leNat bs) = b := by
      refine BitVec.eq_of_toNat_eq ?_
      rw [BitVec.toNat_ofNat]
      omega
    rw [List.length_cons, leNat, leBytes, hdiv, hbyte, ih]

theorem addrValue_eq (s : State) (j : Job) : addrValue s j = leNat (sliceB (operandIn s j .none false) 0 8) := (leNat_sliceB _ 0 8).symm

theorem addrValue_lt (s : State) (j : Job) : addrValue s j < 2 ^ 64 := numAt_lt _ 0 8

theorem addrReg_eq (s : State) (j : Job) : addrReg s j = (byteAt (operandIn s j .none true) 0).toNat % 16 := by
  rw [addrReg, bitsN_zero]
  rfl

theorem windowOver_eight (w : Nat × Nat) (off : Nat) : windowOver w off 8 = decide (w.2 < off + 8) := rfl

/-- The eight bytes of a window at an offset, as a number: those from the bound upward are zero (06 R126). -/
def State.windowNum (s : State) (c base bound off : Nat) : Nat :=
  leNat ((List.range 8).map (fun i => if off + i < bound then s.readByte c (base + off + i) else 0))

theorem State.windowBytes_eight (s : State) (c base bound off : Nat) :
    s.windowBytes c (base, bound) off 8 = leBytes 8 (s.windowNum c base bound off) := (leBytes_leNat _).symm

theorem leNat_windowBytes (s : State) (c base bound off : Nat) :
    (BitVec.ofNat 64 (leNat (s.windowBytes c (base, bound) off 8))).toNat = s.windowNum c base bound off :=
  Nat.mod_eq_of_lt (leNat_lt (s.windowBytes c (base, bound) off 8))

/-- An address of a firing emitted, and kept for its register. -/
def State.addrOut (s : State) (j : Job) (k v : Nat) : State :=
  ((s.consume j.fi).emit2 j .value (leBytes 8 v)).regLater j (.a k) 0 (leBytes 8 v)

section
variable {f : Fields} {s u : State} (h : Fires f (sregDests f) s u)
include h

/-- A minor that writes its register emits the address and keeps it (07 R151). -/
theorem fireAddr_write {g : Job → State → BitVec 64} {v : Nat} (hv : (g ⟨s.cur, f⟩ u).toNat = v) :
    fireAddr true g f s = finished f s (u.addrOut ⟨s.cur, f⟩ ((byteAt (opIn f s u .none true) 0).toNat % 16) v) := by
  subst hv
  rw [opIn, ← addrReg_eq]
  exact fire_next h _ _ _

theorem fireAddr_show {g : Job → State → BitVec 64} {v : Nat} (hv : (g ⟨s.cur, f⟩ u).toNat = v) :
    fireAddr false g f s = finished f s (valueOut f s u (leBytes 8 v)) := by
  subst hv
  exact fire_next h _ _ _

/-- `apw` reads its window where it is bound (07 R152). -/
theorem fireApw_bound {base bound : Nat} (hw : u.window? s.cur.region ((byteAt (opIn f s u .none true) 1).toNat % 8) = some (base, bound)) :
    let c := u.regionCtx s.cur.region
    let off := leNat (sliceB (opIn f s u .none false) 0 4)
    exec (.addrApw f) s = .next (finished f s ((if bound < off + 8 then u.setStatus c s.cur.die 4 else u).addrOut ⟨s.cur, f⟩
      ((byteAt (opIn f s u .none true) 0).toNat % 16) (u.windowNum c base bound off))) := by
  have hk : bitsN (addrPar u ⟨s.cur, f⟩) 0 3 = (byteAt (opIn f s u .none true) 1).toNat % 8 := by
    rw [bitsN_zero]
    rfl
  intro c off
  have hoff : numAt (operandIn u ⟨s.cur, f⟩ .none false) 0 4 = off := (leNat_sliceB _ 0 4).symm
  refine congrArg Host.Outcome.next ((fire_next h _ _ _).trans (congrArg _ ?_))
  dsimp only
  rw [hk, hw]
  dsimp only
  rw [hoff, addrReg_eq, windowOver_eight, State.aregLater, leNat_windowBytes, State.windowBytes_eight]
  simp only [decide_eq_true_eq]
  rfl

end

end Sys2Proof.Machine

open Sys2Proof Sys2Proof.Machine

/-- Settles O11: a minor that fires emits its address and keeps it where it writes (`fireAddr_write`, `fireAddr_show`), and `apw` takes
the bytes of its window (`fireApw_bound`). -/
theorem addressArithmetic : Obligations.AddressArithmetic := by
  intro f s u h t a b x k r put show_
  have hx : addrValue u ⟨s.cur, f⟩ = x := addrValue_eq u ⟨s.cur, f⟩
  have hreg : addrReg u ⟨s.cur, f⟩ = k := addrReg_eq u ⟨s.cur, f⟩
  refine ⟨congrArg _ (fireAddr_write h ?mov), congrArg _ (fireAddr_write h ?off), congrArg _ (fireAddr_show h ?scale),
    congrArg _ (fireAddr_show h ?read), fun base bound hw => fireApw_bound h hw⟩
  case mov => rw [hx, BitVec.toNat_ofNat]; exact Nat.mod_eq_of_lt (hx ▸ addrValue_lt u ⟨s.cur, f⟩)
  case off => rw [hreg, hx, BitVec.toNat_add, BitVec.toNat_ofNat, Nat.add_mod_mod]; rfl
  case scale => rw [hreg, hx, BitVec.toNat_add, BitVec.toNat_ofNat, Nat.add_mod_mod, addrPar, bitsN_zero]; rfl
  case read => rw [hreg]; rfl

end

section
/-! PROOFS. VFMA (07 R153, R154): the fused minors element by element, and the dot products. -/

namespace Sys2Proof.Machine

/-- Element `i` of an addend: −0 where there is none (07 R154). -/
def addendVal (t : Ty) (c : Option Bytes) (i : Nat) : FVal :=
  match c with
  | none => fzero true
  | some cs => decodeF t.fty (numAt cs (i * t.size) t.size)

/-- The exact product of a pair of elements with the scale of its place. -/
def scaledProduct (t : Ty) (w : Option Bytes) (q : (Nat × Nat) × Nat) : FVal :=
  fmul (decodeF t.fty q.1.1) (wscaled t w q.2 (decodeF t.fty q.1.2))

/-- The fma family rounds each sum of a product and an addend once. -/
theorem vfmaElems_eq (negP negC : Bool) (t : Ty) (mode : Rnd) (nv : Bool) (w c : Option Bytes) (a b : Bytes) :
    vfmaElems negP negC t mode nv w c a b = packElems t.size ((pairElems t.size a b).zipIdx.map (fun q => roundF t.fty mode nv
      (faddR (mode = .rdn) (if negP then fneg (scaledProduct t w q) else scaledProduct t w q)
        (if negC then fneg (addendVal t c q.2) else addendVal t c q.2)))) := rfl

/-- The sum of the products of a dot product, and what it becomes with an accumulator. -/
def dotSum (t : Ty) (w : Option Bytes) (a b : Bytes) : Nat :=
  treeSum ((pairElems t.size a b).zipIdx.map (fun q => roundF .f32 .rne false (scaledProduct t w q)))

theorem vfmaDot_eq (t : Ty) (mode : Rnd) (nv f32 acc : Bool) (w : Option Bytes) (c : Nat) (a b : Bytes) :
    vfmaDot t mode nv f32 w (if acc then some c else none) a b =
      let y := if acc then addF32 (dotSum t w a b) c else dotSum t w a b
      if f32 then leBytes 4 y else leBytes t.size (roundF t.fty mode nv (f32Val y)) := by
  cases acc <;> rfl

section
variable (u : State) (j : Job)

/-- Element `i` of side B with its weight scale, where the station takes one (07 R154). -/
theorem wscaled_vfmaScale (i : Nat) (v : FVal) : wscaled j.f.tyT (vfmaScale u j) i v =
    if j.f.lit.toNat / 256 % 2 = 1 then
      (if (byteAt ((u.tile j.fi.at_).wregs.getD (j.f.lit.toNat / 16 % 16) []) (i * j.f.tyT.size / 4)).toNat = 0xFF then .nan
        else fscale (((byteAt ((u.tile j.fi.at_).wregs.getD (j.f.lit.toNat / 16 % 16) []) (i * j.f.tyT.size / 4)).toNat : Int) - 127) v)
    else v := by
  have hwen : j.f.litBits 8 1 = j.f.lit.toNat / 256 % 2 := rfl
  rw [vfmaScale, hwen]
  split <;> rfl

theorem vfmaReg_eq : vfmaReg u j = (u.tile j.fi.at_).sreg (j.f.lit.toNat % 8) := by
  rw [vfmaReg, Fields.litBits_zero]
  rfl

/-- The addend of the fma family: −0, or the element of the state register (07 R154). -/
theorem addendVal_vfmaReg (i : Nat) : addendVal j.f.tyT (if j.f.litBits 3 1 = 1 then none else some (vfmaReg u j)) i =
    if j.f.lit.toNat / 8 % 2 = 1 then fzero true
    else decodeF j.f.tyT.fty (numAt ((u.tile j.fi.at_).sreg (j.f.lit.toNat % 8)) (i * j.f.tyT.size) j.f.tyT.size) := by
  have hcz : j.f.litBits 3 1 = j.f.lit.toNat / 8 % 2 := rfl
  rw [vfmaReg_eq, hcz]
  split <;> rfl

end

end Sys2Proof.Machine

open Sys2Proof Sys2Proof.Machine

/-- Settles O12: the fma family rounds the sum of a scaled product and an addend (`vfmaElems_eq`), the dot products sum the rounded
products (`vfmaDot_eq`); scale, register and addend are those that the literal names. -/
theorem fusedAndDotResults : Obligations.FusedAndDotResults := by
  intro f s u h t n ps reg scale bv cv out lanes plus sum one
  let j : Job := ⟨s.cur, f⟩
  have hprod (q : (Nat × Nat) × Nat) : scaledProduct f.tyT (vfmaScale u j) q = fmul (decodeF t q.1.1) (bv q.2 q.1.2) :=
    congrArg _ (wscaled_vfmaScale u j q.2 _)
  have hadd (i : Nat) : addendVal f.tyT (if f.litBits 3 1 = 1 then none else some (vfmaReg u j)) i = cv i :=
    addendVal_vfmaReg u j i
  have hfma (negP negC : Bool) : .next (fireFma negP negC f s) =
      lanes (fun p c => plus (if negP then fneg p else p) (if negC then fneg c else c)) := by
    rw [fireFma, fireValue_next h, vfmaElems_eq]
    simp only [j, hprod, hadd]
    rfl
  have hsum : dotSum f.tyT (vfmaScale u j) (opIn f s u f.tyT false) (opIn f s u f.tyT true) = sum := by
    simp only [dotSum, hprod]
    rfl
  have hacc : numAt (vfmaReg u j) 0 4 = leNat (reg.take 4) := by
    rw [vfmaReg_eq]
    rfl
  have hdot (acc : Bool) : .next (fireDot acc f s) = one (if acc then addF32 sum (leNat (reg.take 4)) else sum) := by
    rw [fireDot, fireValue_next h, vfmaDot_eq, ← hsum, ← hacc]
    simp only [decide_eq_true_eq]
    rfl
  exact ⟨hfma false false, hfma false true, hfma true false, hfma true true, hdot false, hdot true⟩

end

section
/-! PROOFS. VFARITH (07 R155, R156), element by element. -/

namespace Sys2Proof.Machine

/-! ### Codes of the types of group F -/

/-- The sign is the highest bit of an element of group F. -/
theorem signBit_of_isF {t : Ty} (h : t.isF = true) : t.fty.signBit = t.width - 1 := by
  cases t with
  | f32 | bf16 | f16 => rfl
  | _ => cases h

theorem fty_ne_dv8_of_isF {t : Ty} (h : t.isF = true) : t.fty ≠ .dv8 := by
  cases t with
  | f32 | bf16 | f16 => decide
  | _ => cases h

/-- The highest bit inverted is the highest bit added or taken away. -/
theorem xor_top {a k : Nat} (ha : a < 2 ^ (k + 1)) : a ^^^ 2 ^ k = if a < 2 ^ k then a + 2 ^ k else a - 2 ^ k := by
  have hxor : a ^^^ 2 ^ k = (a / 2 ^ k ^^^ 1) * 2 ^ k + a % 2 ^ k := by
    have hdiv : (a ^^^ 2 ^ k) / 2 ^ k = a / 2 ^ k ^^^ 1 := by rw [Nat.xor_div_two_pow, Nat.div_self (by positivity)]
    have hmod : (a ^^^ 2 ^ k) % 2 ^ k = a % 2 ^ k := by rw [Nat.xor_mod_two_pow, Nat.mod_self, Nat.xor_zero]
    rw [← hdiv, ← hmod, Nat.div_add_mod']
  have hsplit : a / 2 ^ k * 2 ^ k + a % 2 ^ k = a := Nat.div_add_mod' a _
  have htop : a / 2 ^ k < 2 := Nat.div_lt_of_lt_mul (ha.trans_eq (Nat.pow_succ ..))
  have hlt : a % 2 ^ k < 2 ^ k := Nat.mod_lt _ (by positivity)
  rw [hxor]
  interval_cases a / 2 ^ k
  · rw [if_pos (by omega), show 0 ^^^ 1 = 1 from rfl]
    omega
  · rw [if_neg (by omega), show 1 ^^^ 1 = 0 from rfl]
    omega

/-- The highest bit of a pattern says whether it lies in the upper half. -/
theorem bitN_top {a k : Nat} (ha : a < 2 ^ (k + 1)) : bitN a k = decide (2 ^ k ≤ a) := by
  rcases lt_or_ge a (2 ^ k) with h | h
  · rw [bitN, Nat.testBit_lt_two_pow h, decide_eq_false (not_le.mpr h)]
  · rw [bitN, Nat.testBit_of_two_pow_le_and_two_pow_add_one_gt h ha, decide_eq_true h]

theorem signBit_of_ne_dv8 {t : FTy} (ht : t ≠ .dv8) : t.signBit = t.fbits + t.ebits := by
  cases t with
  | dv8 => exact absurd rfl ht
  | _ => rfl

/-- The exponent field of a code is that of its magnitude. -/
theorem exponent_field {t : FTy} (ht : t ≠ .dv8) (c : Nat) : bitsN c t.fbits t.ebits = c % 2 ^ t.signBit / 2 ^ t.fbits := by
  rw [bitsN, signBit_of_ne_dv8 ht, Nat.pow_add, Nat.mod_mul_right_div_self]

theorem FTy.num_m_eq_zero {t : FTy} {neg : Bool} {n : Nat} : (t.num neg n).m = 0 ↔ n = 0 := by
  rw [FTy.num_eq]
  split
  next h => rw [Nat.mod_eq_of_lt ((Nat.div_eq_zero_iff_lt (by positivity)).mp h)]
  next h =>
    have hpos : 0 < 2 ^ t.fbits := by positivity
    exact ⟨fun he => absurd he (by dsimp only; omega), fun he => absurd (by rw [he, Nat.zero_div]) h⟩

/-- The class of a code (07 R156), by its sign, its magnitude and the value that it stands for. -/
theorem fclassMask_eq {t : FTy} (ht : t ≠ .dv8) {c : Nat} (hc : c < 2 ^ (t.signBit + 1)) : fclassMask t c =
    if (decodeF t c).isNan then 1
    else if (decodeF t c).isInf then (if decide (2 ^ t.signBit ≤ c) then 2 else 2 ^ 8)
    else if c % 2 ^ t.signBit = 0 then (if decide (2 ^ t.signBit ≤ c) then 2 ^ 4 else 2 ^ 5)
    else if c % 2 ^ t.signBit < 2 ^ t.fbits then (if decide (2 ^ t.signBit ≤ c) then 2 ^ 3 else 2 ^ 6)
    else if decide (2 ^ t.signBit ≤ c) then 2 ^ 2 else 2 ^ 7 := by
  have hmag : bitsN c 0 t.signBit = c % 2 ^ t.signBit := by rw [bitsN_zero]
  have hnormal : c % 2 ^ t.signBit / 2 ^ t.fbits ≠ 0 ↔ ¬ c % 2 ^ t.signBit < 2 ^ t.fbits :=
    not_congr (Nat.div_eq_zero_iff_lt (by positivity))
  rw [fclassMask, decodeF_eq ht, hmag, bitN_top hc, exponent_field ht]
  by_cases hfin : c % 2 ^ t.signBit ≤ t.maxCode
  · rw [if_pos hfin]
    simp only [FVal.isNan, FVal.isInf, Bool.false_eq_true, if_false, FTy.num_m_eq_zero, FTy.num_neg, hnormal, ite_not]
    congr
  · rw [if_neg hfin]
    by_cases hinf : t.infCode = some (c % 2 ^ t.signBit)
    · rw [if_pos hinf]
      rfl
    · rw [if_neg hinf]
      rfl

/-! ### One element -/

section
variable {f : Fields} {s u : State} (h : Fires f (sregDests f) s u)
include h

/-- A VFARITH set fires with its element-wise function of two operands (07 R155, R156). -/
theorem fireFarith_next {op : FOp} {g : Nat → Nat → Nat}
    (hg : ∀ x < 2 ^ f.tyT.width, ∀ y < 2 ^ f.tyT.width, vfarithElem op f.tyT f.rnd f.nanovf x y = g x y) :
    fireFarith op f s = finished f s (valueOut f s u (mapTwo f.tyT.size g (opIn f s u f.tyT false) (opIn f s u f.tyT true))) := by
  rw [← mapTwo_congr hg]
  exact fireValue_next h _

theorem fireFarith1_next {op : FOp} {g : Nat → Nat}
    (hg : ∀ x < 2 ^ f.tyT.width, vfarithElem op f.tyT f.rnd f.nanovf x 0 = g x) :
    fireFarith1 op f s = finished f s (valueOut f s u (mapOne f.tyT.size g (opIn f s u f.tyT false))) := by
  rw [← mapOne_congr hg]
  exact fireValue_next h _

end

end Sys2Proof.Machine

open Sys2Proof Sys2Proof.Machine

/-- Settles O13: the functions of R155 are the model's own; the sign bit of group F is the highest (`signBit_of_isF`), which gives `fabs`,
`fneg` (`xor_top`) and the class mask (`fclassMask_eq`). -/
theorem floatLanes : Obligations.FloatLanes := by
  intro f s u hF h t n w d out mask below two one
  have hsign : t.signBit = w - 1 := signBit_of_isF hF
  have hwidth : t.signBit + 1 = w := by rw [hsign]; exact Nat.sub_add_cancel (typeWidth_pos f.tyT)
  have two_of {op : FOp} {g : Nat → Nat → Nat}
      (hg : ∀ x < 2 ^ w, ∀ y < 2 ^ w, vfarithElem op f.tyT f.rnd f.nanovf x y = g x y) : .next (fireFarith op f s) = two g :=
    congrArg Host.Outcome.next (fireFarith_next h hg)
  have one_of {op : FOp} {g : Nat → Nat} (hg : ∀ x < 2 ^ w, vfarithElem op f.tyT f.rnd f.nanovf x 0 = g x) :
      .next (fireFarith1 op f s) = one g := congrArg Host.Outcome.next (fireFarith1_next h hg)
  refine ⟨two_of fun x _ y _ => rfl, two_of fun x _ y _ => rfl, two_of fun x _ y _ => rfl, two_of fun x _ y _ => rfl,
    one_of fun x _ => rfl, two_of fun x _ y _ => rfl, two_of fun x _ y _ => rfl, one_of fun x _ => ?abs, one_of fun x hx => ?neg,
    two_of fun x _ y _ => rfl, two_of fun x _ y _ => rfl, two_of fun x _ y _ => rfl, one_of fun x hx => ?cls⟩
  case abs => rw [vfarithElem, bitsN_zero, ← hsign]
  case neg => rw [vfarithElem, ← hsign, ← xor_top (hwidth ▸ hx)]
  case cls =>
    rw [← hsign]
    exact fclassMask_eq (fty_ne_dv8_of_isF hF) (hwidth ▸ hx)

end

section
/-! PROOFS. VCVT (07 R157, R158): the part of the source that a conversion takes, and what the sides give it. -/

namespace Sys2Proof.Machine

/-- A source without bytes has no elements. -/
theorem elems_nil (n : Nat) : elems n [] = [] := by
  rw [elems, List.length_nil, Nat.zero_div]
  rfl

theorem Fields.sel_sideB (f : Fields) (k : BitVec 2) : Fields.sel f true = k.toNat ↔ f.srcB = k := BitVec.toNat_inj

/-- Side B extends the source of a sketch unless it selects a literal or nothing (07 R157). -/
theorem sketch_sideB (f : Fields) (n : Nat) (b : Bytes) :
    elems n (if Fields.sel f true = 1 ∨ Fields.sel f true = 3 then [] else b) = if f.srcB = 1 ∨ f.srcB = 3 then [] else elems n b := by
  rw [apply_ite (elems n), elems_nil]
  exact if_congr (or_congr (Fields.sel_sideB f 1) (Fields.sel_sideB f 3)) rfl rfl

end Sys2Proof.Machine

open Sys2Proof Sys2Proof.Machine

/-- Settles O14: each conversion emits its function of the part of the source; `ftoi` goes by the three kinds of value, and `sketch` by
what side B selects (`sketch_sideB`). -/
theorem conversionResults : Obligations.ConversionResults := by
  intro f s u h t v m p src mx out emits
  have fires (val : Job → State → Bytes) {d : Bytes} (hd : val ⟨s.cur, f⟩ u = d) : .next (s.fireValue f val) = emits d := by
    rw [fireValue_next h, hd]
    rfl
  refine ⟨fires _ rfl, fires _ ?ftoi, fires _ rfl, fires _ rfl, fires _ rfl, fires _ ?sketch⟩
  case ftoi =>
    refine congrArg (packElems t.size) (List.map_congr_left fun c _ => ?_)
    cases decodeF v.fty c <;> rfl
  case sketch => rw [vcvtSketchB, sketch_sideB]; rfl

end

section
/-! PROOFS. VSPECIAL (07 R159, R160): one rounding of the function's value, and the values at the special operands. -/

open Sys2Proof Sys2Proof.Machine

/-- Settles O15: each function is applied to the values of the elements, and its branch for a NaN, an infinity or a zero is the entry of
the table of R160. -/
theorem specialFunctionResults : Obligations.SpecialFunctionResults := by
  refine ⟨?fires, ?nan, ?table⟩
  case fires =>
    intro f s u h t emits
    have fires (g : FVal → FVal) : .next (fireSpecial g f s) = emits g := congrArg Host.Outcome.next (fireValue_next h _)
    exact ⟨fires _, fires _, fires _, fires _, fires _, fires _⟩
  case nan =>
    simp only [List.forall_mem_cons]
    exact ⟨rfl, rfl, rfl, rfl, rfl, rfl, List.forall_mem_nil _⟩
  case table =>
    intro t mode nv _ one r zero
    exact ⟨rfl, rfl, rfl, rfl, rfl, rfl⟩

end

section
/-! PROOFS. VPERM (07 R163): the elements that each permutation picks, and the write of a W register. -/

namespace Sys2Proof.Machine

/-- Padded elements, read with zero for what is missing: those of the list below the count. -/
theorem getD_padTo (n i : Nat) (l : List Nat) : (padTo n l).getD i 0 = if i < n then l.getD i 0 else 0 := by
  simp only [padTo, List.getD_eq_getElem?_getD, List.getElem?_append, List.getElem?_take, List.length_take,
    List.getElem?_replicate]
  grind

/-- The elements of A followed by those of B, read with zero for what is missing. -/
theorem getD_append_padTo (a l : List Nat) (i : Nat) : (a ++ padTo a.length l).getD i 0 =
    if i < a.length then a.getD i 0 else if i - a.length < a.length then l.getD (i - a.length) 0 else 0 := by
  split
  next h => rw [List.getD_append _ _ _ _ h]
  next h => rw [List.getD_append_right _ _ _ _ (not_lt.mp h), getD_padTo]

theorem asSigned_byte {x : Nat} (h : x < 256) : asSigned 8 x = if x < 128 then (x : Int) else (x : Int) - 256 := by
  rw [asSigned, Nat.mod_eq_of_lt (b := 2 ^ 8) h]
  rfl

/-- The write bit of a permute is the highest bit of its literal. -/
theorem litBits_top (f : Fields) : f.litBits 31 1 = 1 ↔ f.lit.toNat / 2 ^ 31 = 1 := by
  have hlt := f.lit.isLt
  rw [Fields.litBits_eq]
  omega

/-- Side B of a permute: only in `shuf` are a token's bytes read as they stand. -/
theorem permB_shuf (u : State) (j : Job) :
    permB .shuf u j = if j.f.srcB = 0 then j.fi.payload true else operandIn u j j.f.tyT true := by
  rw [permB]
  simp

/-- What a permute does with its result. -/
def State.permOut (u : State) (j : Job) (d : Bytes) : State :=
  if j.f.lit.toNat / 2 ^ 31 = 1 then ((u.consume j.fi).emit2 j .value d).regLater j (.w (j.f.lit.toNat / 2 ^ 27 % 16)) 0 d
  else (u.consume j.fi).emit2 j .value d

theorem firePerm_next {f : Fields} {s u : State} (h : Fires f (sregDests f) s u) (op : POp) : firePerm op f s =
    finished f s (u.permOut ⟨s.cur, f⟩ (vpermB op f.tyT (f.lit.toNat % 256) (f.lit.toNat / 256 % 2) (opIn f s u f.tyT false)
      (permB op u ⟨s.cur, f⟩))) := by
  rw [firePerm, fire_next h]
  simp only [litBits_top, Fields.litBits_zero]
  rfl

end Sys2Proof.Machine

open Sys2Proof Sys2Proof.Machine

/-- Settles O17: each minor picks its elements from A, from B padded to the count of A (`getD_padTo`) or from both (`getD_append_padTo`),
and what becomes of them is `State.permOut`. -/
theorem permuteResults : Obligations.PermuteResults := by
  intro f s u h m bytesB index a n A B C amt sel k by_ emits
  have hB (i : Nat) : (padTo n (elems m bytesB)).getD i 0 = B i := getD_padTo n i _
  have hC (i : Nat) : (a ++ padTo n (elems m bytesB)).getD i 0 = C i := getD_append_padTo a _ i
  have hby : asSigned 8 amt = by_ := asSigned_byte (Nat.mod_lt _ (by decide))
  have fires {op : POp} {b : Bytes} {g : Nat → Nat} (hb : permB op u ⟨s.cur, f⟩ = b)
      (hg : vpermB op f.tyT amt sel (opIn f s u f.tyT false) b = packElems m ((List.range n).map g)) :
      .next (firePerm op f s) = emits g := by
    rw [firePerm_next h, hb, hg]
    rfl
  refine ⟨fires (b := bytesB) rfl ?bcast, fires (permB_shuf u _) ?shuf, fires (b := bytesB) rfl ?slide,
    fires (b := bytesB) rfl ?zip, fires (b := bytesB) rfl ?unzip⟩
  all_goals refine congrArg (packElems m) ?_
  case bcast => rw [List.map_const', List.map_const', List.length_range]
  case shuf => rfl
  case slide =>
    refine List.map_congr_left fun i _ => ?_
    rw [← hC, ← hby]
  case zip =>
    refine List.map_congr_left fun i _ => ?_
    rw [← hB]
    exact if_congr and_comm rfl rfl
  case unzip =>
    refine List.map_congr_left fun i _ => ?_
    rw [← hC]

end

section
/-! PROOFS. Exact products and sums (07 R154, R155): their values as rational numbers, and the sign of a sum that is zero (03 R60). -/

namespace Sys2Proof.Machine

/-- A number in units of `2 ^ q`, for a place that does not lie above its last. -/
def Num.signedUnits (x : Num) (q : Int) : Int :=
  let a : Int := (x.m * 2 ^ (x.e - q).toNat : ℕ)
  if x.neg then -a else a

theorem Num.val_units {x : Num} {q : Int} (h : q ≤ x.e) : x.val = (x.signedUnits q : ℚ) * 2 ^ q := by
  have hmag : x.mag = ((x.m * 2 ^ (x.e - q).toNat : ℕ) : ℚ) * 2 ^ q := by rw [← Num.inUnits_of_le h, Num.inUnits_mul]
  rw [Num.signedUnits]
  cases hx : x.neg
  · rw [Num.val_pos hx, hmag]
    rfl
  · rw [Num.val_neg hx, hmag, ← neg_mul, if_pos rfl, Int.cast_neg, Int.cast_natCast]

/-- The exact sum of two numbers in units of their lower last place. -/
def exactSum (x y : Num) : Int := x.signedUnits (min x.e y.e) + y.signedUnits (min x.e y.e)

theorem exactSum_val (x y : Num) : (exactSum x y : ℚ) * 2 ^ min x.e y.e = x.val + y.val := by
  rw [exactSum, Int.cast_add, add_mul, ← Num.val_units (min_le_left _ _), ← Num.val_units (min_le_right _ _)]

theorem exactSum_eq_zero {x y : Num} : exactSum x y = 0 ↔ x.val = -y.val := by
  have hpos : (2 : ℚ) ^ min x.e y.e ≠ 0 := by positivity
  rw [eq_neg_iff_add_eq_zero, ← exactSum_val, mul_eq_zero_iff_right hpos, Int.cast_eq_zero]

/-- A sum of two numbers: of two zeros, a zero sum of others, and any other sum. -/
theorem faddR_fin (rdn : Bool) (x y : Num) : faddR rdn (.fin x) (.fin y) =
    if x.m = 0 ∧ y.m = 0 then fzero (if x.neg = y.neg then x.neg else rdn)
    else if exactSum x y = 0 then fzero rdn
    else .fin ⟨exactSum x y < 0, (exactSum x y).natAbs, min x.e y.e, false⟩ := by
  have hzero : (decide (x.m = 0) && decide (y.m = 0)) = true ↔ x.m = 0 ∧ y.m = 0 := by
    rw [Bool.and_eq_true, decide_eq_true_eq, decide_eq_true_eq]
  exact if_congr hzero rfl rfl

theorem Num.val_of_m_zero {x : Num} (h : x.m = 0) : x.val = 0 := by simp [Num.val, Num.mag, h]

/-- An integer as a sign and a magnitude. -/
theorem Num.val_ofInt (z e : Int) : Num.val ⟨z < 0, z.natAbs, e, false⟩ = (z : ℚ) * 2 ^ e := by
  rcases lt_or_ge z 0 with h | h
  · rw [Num.val_neg (decide_eq_true h), Num.mag, Nat.cast_natAbs, abs_of_neg h, ← neg_mul, Int.cast_neg, neg_neg]
  · rw [Num.val_pos (decide_eq_false (not_lt.mpr h)), Num.mag, Nat.cast_natAbs, abs_of_nonneg h]

/-- The product of two numbers. -/
def Num.prod (x y : Num) : Num := ⟨x.neg != y.neg, x.m * y.m, x.e + y.e, false⟩

theorem Num.val_prod (x y : Num) : (x.prod y).val = x.val * y.val := by
  have hmag : (x.prod y).mag = x.mag * y.mag := by
    simp only [Num.prod, Num.mag, zpow_add₀ (two_ne_zero (α := ℚ)), Nat.cast_mul]
    ring
  simp only [Num.val, hmag]
  cases hx : x.neg <;> cases hy : y.neg <;> simp [Num.prod, hx, hy]

/-- The exact sum is a number with the value of the sum. -/
theorem faddR_val (rdn : Bool) (x y : Num) : ∃ z : Num, faddR rdn (.fin x) (.fin y) = .fin z ∧ z.sticky = false
    ∧ z.val = x.val + y.val ∧ (x.m ≠ 0 → x.val = -y.val → z.neg = rdn) := by
  rw [faddR_fin]
  split
  next h =>
    exact ⟨_, rfl, rfl, by rw [Num.val_of_m_zero rfl, Num.val_of_m_zero h.1, Num.val_of_m_zero h.2, add_zero], fun hx => absurd h.1 hx⟩
  next =>
    split
    next h => exact ⟨_, rfl, rfl, by rw [Num.val_of_m_zero rfl, exactSum_eq_zero.mp h, neg_add_cancel], fun _ _ => rfl⟩
    next h => exact ⟨_, rfl, rfl, by rw [Num.val_ofInt, exactSum_val], fun _ hxy => absurd (exactSum_eq_zero.mpr hxy) h⟩

end Sys2Proof.Machine

open Sys2Proof Sys2Proof.Machine

/-- Settles O20: the product is `Num.prod`, the sum is an integer in units of the lower last place (`exactSum_val`), which is zero exactly
for opposite numbers (`exactSum_eq_zero`). -/
theorem exactArithmetic : Obligations.ExactArithmetic := by
  unfold Obligations.ExactArithmetic
  intro q x y _ _
  have hq (z : Machine.Num) : q z = z.val := mul_assoc _ _ _
  refine ⟨⟨x.prod y, rfl, rfl, ?_⟩, fun rdn => ?_⟩
  · rw [hq, hq, hq, Num.val_prod]
  · simp only [hq]
    exact faddR_val rdn x y

end

section
/-! PROOFS. VRED (07 R161) and the tree sum of 03 R64: a sum of more values than the tree has levels for. -/

namespace Sys2Proof.Machine

/-- An FP32 value added to itself. -/
def twiceF32 (a : Nat) : Nat := addF32 a a

/-- One level of the tree of 03 R64: the sums of neighbours. -/
def neighbourSums (y : List Nat) : List Nat :=
  (List.range (y.length / 2)).map (fun i => addF32 (y.getD (2 * i) 0) (y.getD (2 * i + 1) 0))

theorem neighbourSums_replicate (n a : Nat) : neighbourSums (List.replicate (2 * n) a) = List.replicate n (twiceF32 a) := by
  have hget {i : Nat} (h : i < 2 * n) : (List.replicate (2 * n) a).getD i 0 = a := List.getD_replicate a h
  refine List.eq_replicate_iff.mpr ⟨by simp [neighbourSums], fun b hb => ?_⟩
  obtain ⟨i, hi, rfl⟩ := List.mem_map.mp hb
  rw [List.mem_range, List.length_replicate, Nat.mul_div_cancel_left n two_pos] at hi
  rw [hget (by omega), hget (by omega)]
  rfl

/-- As many levels as there are doublings sum up equal values. -/
theorem neighbourSums_iterate (w : Nat) : ∀ a, neighbourSums^[w] (List.replicate (2 ^ w) a) = [twiceF32^[w] a] := by
  induction w with
  | zero => exact fun _ => rfl
  | succ w ih =>
    intro a
    rw [Function.iterate_succ_apply, Function.iterate_succ_apply, Nat.pow_succ', neighbourSums_replicate, ih]

theorem treeLevel_replicate (n a : Nat) : treeLevel (List.replicate (2 * n) a) = List.replicate n (twiceF32 a) := by
  induction n with
  | zero => rfl
  | succ n ih =>
    rw [Nat.mul_succ, List.replicate_succ, List.replicate_succ, treeLevel, ih, List.replicate_succ]
    rfl

/-- With one level too few the tree ends with two sums. -/
theorem treeGo_replicate (k : Nat) : ∀ a, treeGo k (List.replicate (2 ^ (k + 1)) a) = List.replicate 2 (twiceF32^[k] a) := by
  induction k with
  | zero => exact fun _ => rfl
  | succ k ih =>
    intro a
    have hlen : ¬ (List.replicate (2 * 2 ^ (k + 1)) a).length ≤ 1 := by
      rw [List.length_replicate]
      have : 0 < 2 ^ (k + 1) := by positivity
      omega
    rw [Nat.pow_succ' (n := k + 1), treeGo, if_neg hlen, treeLevel_replicate, ih, Function.iterate_succ_apply]

theorem treeSum_of_ne_nil {l : List Nat} (h : l ≠ []) : treeSum l = (treeGo 16 l).headD 0 := by
  cases l with
  | nil => exact absurd rfl h
  | cons a l => rfl

/-- The number 1 in FP32. -/
def oneF32 : Nat := 0x3F800000

/-- 2 ^ 17 ones. -/
def manyOnes : List Nat := List.replicate (2 ^ 17) oneF32

theorem manyOnes_length : manyOnes.length = 2 ^ 17 := List.length_replicate

theorem manyOnes_ne_nil : manyOnes ≠ [] := List.ne_nil_of_length_pos (by rw [manyOnes_length]; positivity)

/-- The model's tree, whose fuel is 16 levels, gives the sum of the first half. -/
theorem treeSum_manyOnes : treeSum manyOnes = twiceF32^[16] oneF32 := by
  rw [treeSum_of_ne_nil manyOnes_ne_nil, manyOnes, treeGo_replicate 16]
  rfl

end Sys2Proof.Machine

open Sys2Proof Sys2Proof.Machine

/-- Refutes O16: the last clause speaks of lists of every length, and the model's tree has levels for 2 ^ 16 values. Of 2 ^ 17 ones it
gives 2 ^ 16, the sum of the first half, where the 17 levels of R64 give 2 ^ 17. -/
theorem not_reductionResults : ¬ Obligations.ReductionResults := by
  rintro ⟨-, -, htree⟩
  obtain ⟨w, x, -, hfits, hleast, hx, hsum⟩ := htree manyOnes manyOnes_ne_nil
  rw [manyOnes_length] at hfits hleast hx
  have hw : w = 17 := by
    have hlo : 17 ≤ w := (Nat.pow_le_pow_iff_right one_lt_two).mp hfits
    have hhi : w < 18 := (Nat.pow_lt_pow_iff_right one_lt_two).mp (hleast.trans_eq (Nat.pow_succ' ..).symm)
    omega
  subst hw
  rw [Nat.sub_self, List.replicate_zero, List.append_nil] at hx
  have hlevels : (List.range 17).foldl (fun y _ => neighbourSums y) x = [twiceF32^[17] oneF32] := by
    rw [List.foldl_const, List.length_range, hx, manyOnes, neighbourSums_iterate]
  change treeSum manyOnes = ((List.range 17).foldl (fun y _ => neighbourSums y) x).getD 0 0 at hsum
  rw [hlevels, treeSum_manyOnes, List.getD_cons_zero] at hsum
  exact absurd hsum (by decide +kernel)

end

section
/-! PROOFS. The frame of the register classes: what a token that leaves does to its region (06 R134). -/

namespace Sys2Proof.Machine

/-- A station that adds its sides as INT16 and sends the sum to station 5 in the next phase. -/
def nextPhaseFields : Fields := ⟨0, 0, 0x0A, 0x7F, 4, 0, 0, 0, 10, 0, 0, 0, 0⟩

/-- A set of two tokens of phase 0 at station 0 of tile 0. -/
def phaseSet : Firing := { region := 1, inst := 1, tokA := some ⟨{}, [3, 0], 0⟩, tokB := some ⟨{}, [1, 0], 0⟩ }

/-- The region of the set: one of two packages, whose phase 1 has closed. -/
def closedRegion : Region :=
  { launch := { id := 1, ctx := 0, die := 0, queue := 0, head := 0, irq := false, pkgCount := 2 }, tiles := [⟨0, 0⟩], closed := [1] }

/-- The set about to fire in an open pass of that region. -/
def phaseState : State :=
  { cur := phaseSet, ctxs := [(0, { st := .running })], regions := [(1, closedRegion)],
    tiles := [(0, { region := 1, passes := [⟨1, 0, 0, 64, false, [], []⟩] })] }

/-- The sum that leaves in phase 1 opens that phase again. -/
theorem nextPhase_opens : ((fireIalu .add nextPhaseFields phaseState).region? 1).map (·.closed) = some [] := by decide

end Sys2Proof.Machine

open Sys2Proof Sys2Proof.Machine

/-- Refutes O60: a token that is sent opens its phase again (06 R134), in the list of closed phases of its region; the statement leaves no
region to change. The set fires in `phaseState`, and its sum leaves in phase 1, which had closed. -/
theorem not_registerFrame : ¬ Obligations.RegisterFrame := by
  intro h
  obtain ⟨t, hexec, hframe, -⟩ := h (.ialuAdd nextPhaseFields) phaseState 1 0 nextPhaseFields rfl (.inl (by decide)) rfl (by decide)
    (by decide) (by decide) (by decide)
  have hfire : t = fireIalu .add nextPhaseFields phaseState := (Host.Outcome.next.inj hexec).symm
  have hregions : t.regions = phaseState.regions := by rw [hframe]
  have hopen : (t.region? 1).map (·.closed) = some [] := hfire ▸ nextPhase_opens
  rw [State.region?, hregions] at hopen
  exact absurd hopen (by decide)

end

section
/-! PROOFS. ATOM and BAR (10 R214, R215, R221): the operands of side B, and what the place of an operation must allow. -/

namespace Sys2Proof.Machine

/-! ### Side B -/

/-- What a class takes by its select of side B (02 R23). -/
theorem select_sideB {α : Type} (f : Fields) (g : Nat → α) : g (Fields.sel f true) =
    if f.srcB = 0 then g 0 else if f.srcB = 2 then g 2 else if f.srcB = 3 then g 3 else g 1 := by
  have hcases : ∀ b : BitVec 2, b = 0 ∨ b = 2 ∨ b = 3 ∨ b = 1 := by decide
  have hsel : Fields.sel f true = f.srcB.toNat := rfl
  rw [hsel]
  rcases hcases f.srcB with h | h | h | h <;> rw [h] <;> rfl

theorem atomOperand_eq (s : State) (j : Job) (sz : Nat) : atomOperand s j sz =
    if j.f.srcB = 0 then wholeElems j.f.tyT (j.fi.payload true)
    else if j.f.srcB = 2 then (s.tile j.fi.at_).sreg j.f.sb.toNat
    else if j.f.srcB = 3 then []
    else if j.f.tyT = Ty.none then repeatTo 32 (leBytes 4 j.f.lit.toNat) else repeatTo (2 * sz) (litElem j.f.tyT j.f.lit) :=
  select_sideB j.f (fun k => match k with
    | 0 => wholeElems j.f.tyT (j.fi.payload true)
    | 1 => if j.f.tyT = Ty.none then repeatTo 32 (leBytes 4 j.f.lit.toNat) else repeatTo (2 * sz) (litElem j.f.tyT j.f.lit)
    | 2 => (s.tile j.fi.at_).sreg (Fields.sregNo j.f true)
    | _ => [])

/-- Side B of a barrier operation: the token's bytes, the literal, the register, or none (10 R221). -/
def barOperand (s : State) (j : Job) : Bytes :=
  match Fields.sel j.f true with
  | 0 => j.fi.payload true
  | 1 => leBytes 4 j.f.lit.toNat
  | 2 => (s.tile j.fi.at_).sreg (Fields.sregNo j.f true)
  | _ => []

theorem barOperand_eq (s : State) (j : Job) : barOperand s j =
    if j.f.srcB = 0 then j.fi.payload true
    else if j.f.srcB = 2 then (s.tile j.fi.at_).sreg j.f.sb.toNat
    else if j.f.srcB = 3 then [] else leBytes 4 j.f.lit.toNat :=
  select_sideB j.f (fun k => match k with
    | 0 => j.fi.payload true
    | 1 => leBytes 4 j.f.lit.toNat
    | 2 => (s.tile j.fi.at_).sreg (Fields.sregNo j.f true)
    | _ => [])

/-- The operation of a barrier class on its operand (10 R221). -/
def barOp (f : Fields) (minor : Nat) (b : Bytes) : MemOp :=
  let n4 := fun (o : Nat) => BitVec.ofNat 32 (numAt b o 4)
  match minor with
  | 0 => .barInit (n4 0) (n4 4) (BitVec.ofNat 64 (numAt b 8 8))
  | 1 => .barJoin (if f.srcB = 3 then 1 else n4 0)
  | _ => .barWait (n4 0)

/-! ### The place of an operation -/

/-- An operation on `n` bytes: it starts on an aligned place that the leases allow; a place that is misaligned or denied is a lease fault
(10 R205, R214, R218). -/
def State.startAt (s : State) (l : Launch) (write : Bool) (ea n : Nat) (a : Access) (k : ReplyKind) : State :=
  if ea % n ≠ 0 then s.leaseFault a.job a.major ea 1
  else match firstDenied l write ea n with
    | some x => s.leaseFault a.job a.major x 0
    | none => s.startSlot a k

section
variable {f : Fields} {s u : State} {r : Region} (h : Fires f (sregDests f) s u) (hr : u.region? s.cur.region = some r)
include h hr

theorem fireAtom_eq (minor : Nat) (op : AtomOp) {n ea : Nat} {b : Bytes} (hn : (if minor = 8 then 16 else f.tyT.size) = n)
    (hb : atomOperand u ⟨s.cur, f⟩ n = b) (hea : baseAddr u ⟨s.cur, f⟩ (descriptorOn u ⟨s.cur, f⟩ false) 0 = ea) :
    fireAtom minor op f s = finished f s (u.startAt r.launch true ea n
      { job := ⟨s.cur, f⟩, major := 0x18, minor := minor, size := n,
        op := some (ea, .atomic op n f.tyT.isSigned (sliceB b 0 n) (sliceB b n n)) } .atomic) := by
  subst hn hb hea
  have hl : u.launchOf s.cur = some r.launch := State.launchOf_of_region hr
  rw [fireAtom, fire_next h]
  simp only [hl]
  rfl

theorem fireBar_eq (minor : Nat) (w : Bool) {ea : Nat} {b : Bytes} (hb : barOperand u ⟨s.cur, f⟩ = b)
    (hea : baseAddr u ⟨s.cur, f⟩ (descriptorOn u ⟨s.cur, f⟩ false) 0 = ea) :
    fireBar minor w f s = finished f s (u.startAt r.launch w ea 64
      { job := ⟨s.cur, f⟩, major := 0x1A, minor := minor, size := 4, op := some (ea, barOp f minor b), scope := f.scope }
      (if minor = 2 then .barwait f.scope else .barrier)) := by
  subst hb hea
  have hl : u.launchOf s.cur = some r.launch := State.launchOf_of_region hr
  rw [fireBar, fire_next h]
  simp only [hl]
  rfl

end

end Sys2Proof.Machine

open Sys2Proof Sys2Proof.Machine

/-- Settles O39: each class starts its operation at the place that its descriptor forms (`fireAtom_eq`, `fireBar_eq`); an operation that may
start takes a free reply slot or is offered again (`State.startSlot_cases`). -/
theorem atomicAndBarrierResults : Obligations.AtomicAndBarrierResults := by
  intro f s u r h hr t j d b8 ea put goes atom bar n4
  have hea : baseAddr u j d 0 = ea := baseAddr_eq u j d 0
  have hgoes (i : Instr) (write : Bool) (n : Nat) (a : Access) (k : ReplyKind) (ha : a.job = j)
      (hi : exec i s = put (u.startAt r.launch write ea n a k)) : goes i write n a k := by
    obtain ⟨hissues, hwaits⟩ := State.startSlot_cases (v := u) (kind := k) (congrArg Job.fi ha)
    have hstart (hal : ea % n = 0) (hden : firstDenied r.launch write ea n = none) : exec i s = put (u.startSlot a k) := by
      rw [hi, State.startAt, if_neg (not_not.mpr hal), hden]
    refine ⟨fun hal hden => ⟨fun slot hslot hw => ?issues, fun hslot => ?waits⟩, fun hal => ?misaligned, fun x hal hden => ?denied⟩
    case issues => rw [hstart hal hden, hissues slot hslot hw]
    case waits => rw [hstart hal hden, hwaits hslot]
    case misaligned => rw [hi, State.startAt, if_pos hal, ha]
    case denied => rw [hi, State.startAt, if_neg (not_not.mpr hal), hden, ha]
  have hatom (i : Instr) (minor : Nat) (op : AtomOp) (hi : exec i s = .next (fireAtom minor op f s)) : atom i minor op :=
    hgoes _ _ _ _ _ rfl (hi.trans (congrArg Host.Outcome.next (fireAtom_eq h hr minor op rfl (atomOperand_eq u j _) hea)))
  have hn4 (b : Bytes) (o : Nat) : BitVec.ofNat 32 (numAt b o 4) = n4 b o := by rw [← leNat_sliceB]
  have hbar (i : Instr) (minor : Nat) (write : Bool) (op : Bytes → MemOp) (k : ReplyKind) (hop : ∀ b, barOp f minor b = op b)
      (hk : (if minor = 2 then .barwait f.scope else .barrier) = k) (hi : exec i s = .next (fireBar minor write f s)) :
      bar i minor write op k := by
    refine hgoes _ _ _ _ _ rfl (hi.trans (congrArg Host.Outcome.next ?_))
    rw [fireBar_eq h hr minor write (barOperand_eq u j) hea, hop, hk]
  refine ⟨hatom (.atomAtadd f) 0 .add rfl, hatom (.atomAtmin f) 1 .min rfl, hatom (.atomAtmax f) 2 .max rfl,
    hatom (.atomAtand f) 3 .and rfl, hatom (.atomAtor f) 4 .or rfl, hatom (.atomAtxor f) 5 .xor rfl, hatom (.atomAtxchg f) 6 .xchg rfl,
    hatom (.atomAtcas f) 7 .cas rfl, hatom (.atomAtcasw f) 8 .casw rfl, hatom (.atomAtfadd f) 9 .fadd rfl,
    hbar (.barBarinit f) 0 true (fun b => .barInit (n4 b 0) (n4 b 4) (BitVec.ofNat 64 (leNat (sliceB b 8 8)))) .barrier ?init rfl rfl,
    hbar (.barBarjoin f) 1 true (fun b => .barJoin (if f.srcB = 3 then 1 else n4 b 0)) .barrier ?join rfl rfl,
    hbar (.barBarwait f) 2 false (fun b => .barWait (n4 b 0)) (.barwait f.scope) ?wait rfl rfl⟩
  case init => simp only [barOp, hn4, leNat_sliceB, implies_true]
  case join => simp only [barOp, hn4, implies_true]
  case wait => simp only [barOp, hn4, implies_true]

end

section
/-! PROOFS. ASPACE (09 R195, R199 to R201): what its range must be, and what INVAL, PGATTR, LPIN and LQUERY come to. -/

namespace Sys2Proof.Machine

/-! ### The range of an ASPACE firing -/

section
variable {minor : Nat} {w : Bool} {f : Fields} {go : Job → State → Nat → Nat → Nat → State} {s u : State} {r : Region}
  (h : Fires f (sregDests f) s u) (hr : u.region? s.cur.region = some r) {a n : Nat}
  (ha : leNat (sliceB (descriptorOn u ⟨s.cur, f⟩ false) 0 8) = a)
  (hn : (if minor = 3 then 1 else leNat (sliceB (descriptorOn u ⟨s.cur, f⟩ false) 8 8)) = n)
include h hr ha hn

/-- A range without a byte, or beyond the limit, is a lease fault (09 R200). -/
theorem fireAspace_length (hlen : n = 0 ∨ 2 ^ 40 < n) :
    fireAspace minor w f go s = finished f s (u.leaseFault ⟨s.cur, f⟩ 0x2A a 2) := by
  have hl : u.launchOf s.cur = some r.launch := State.launchOf_of_region hr
  have hbad : (n = 0 || n > 2 ^ 40 : Bool) = true := by simpa only [Bool.or_eq_true, decide_eq_true_eq] using hlen
  rw [leNat_sliceB] at ha hn
  rw [fireAspace, fire_next h]
  simp only [hl, ha, hn, hbad, if_true]

/-- With an allowed range and a free reply slot the firing has its effect, on a range of this package or as a drain (09 R200). -/
theorem fireAspace_goes {slot : Nat} (hslot : (u.tile s.cur.at_).freeSlot = some slot) (hlo : 0 < n) (hhi : n ≤ 2 ^ 40)
    (hden : firstDenied r.launch w a n = none) (hhere : vaPkg a = u.pkg ∨ minor < 2) :
    fireAspace minor w f go s = finished f s (go ⟨s.cur, f⟩ u a n slot) := by
  have hl : u.launchOf s.cur = some r.launch := State.launchOf_of_region hr
  have hgood : (n = 0 || n > 2 ^ 40 : Bool) = false := by
    simp only [Bool.or_eq_false_iff, decide_eq_false_iff_not]
    exact ⟨hlo.ne', not_lt.mpr hhi⟩
  have hgo : (vaPkg a ≠ u.pkg && minor ≥ 2 : Bool) = false := by
    simp only [Bool.and_eq_false_iff, decide_eq_false_iff_not]
    exact hhere.imp not_not.mpr not_le.mpr
  rw [leNat_sliceB] at ha hn
  rw [fireAspace, fire_next h]
  simp only [hl, ha, hn, hgood, hden, hslot, hgo, Bool.false_eq_true, if_false]

end

/-! ### Statuses -/

/-- A range of this package is whole pages where a page begins at its base and one ends at its end (09 R199). -/
theorem State.pageAligned_iff (s : State) (c a n : Nat) : s.pageAligned c a n = true ↔
    (∃ p ∈ s.pagesIn c a n, p.va = a) ∧ ∃ p ∈ s.pagesIn c a n, p.va + pdSize p.desc = a + n := by
  simp only [State.pageAligned, Bool.and_eq_true, List.any_eq_true, decide_eq_true_eq]

/-- The status of a PGATTR, by the first check that it fails (09 R200). -/
theorem State.pgattrStatus_cases (s : State) (c a n kind : Nat) :
    (s.pageAligned c a n ≠ true → s.pgattrStatus c a n kind = 2)
    ∧ (s.pageAligned c a n = true → kind = 3 → s.pgattrStatus c a n kind = 5)
    ∧ (s.pageAligned c a n = true → kind ≠ 3 → (∃ p ∈ s.pagesIn c a n, p.desc.getLsbD 57 = false) → s.pgattrStatus c a n kind = 1)
    ∧ (s.pageAligned c a n = true → kind ≠ 3 → (∀ p ∈ s.pagesIn c a n, p.desc.getLsbD 57 = true) → s.pgattrStatus c a n kind = 0) := by
  have hany : ((s.pagesIn c a n).any (fun p => !pdAttrw p.desc)) = true ↔ ∃ p ∈ s.pagesIn c a n, p.desc.getLsbD 57 = false := by
    simp only [List.any_eq_true, Bool.not_eq_true', pdAttrw, bitN_eq_getLsbD]
  refine ⟨fun hw => ?_, fun hw hk => ?_, fun hw hk hp => ?_, fun hw hk hp => ?_⟩ <;> rw [State.pgattrStatus]
  · rw [if_pos (by simpa using hw)]
  · rw [if_neg (by simpa using hw), if_pos hk]
  · rw [if_neg (by simpa using hw), if_neg hk, if_pos (hany.mpr hp)]
  · rw [if_neg (by simpa using hw), if_neg hk, if_neg]
    rw [hany]
    rintro ⟨p, hmem, hbit⟩
    rw [hp p hmem] at hbit
    cases hbit

section
variable (s : State) (c a n : Nat) {e : Nat} (he : vaDie a = e)
include he

theorem State.pinRange_cases :
    ((s.cd c e).pins.length < 64 → s.pinRange c a n = (0, (s.modCd c e (fun x => { x with pins := x.pins ++ [(a, n)] })).repin c e))
    ∧ (64 ≤ (s.cd c e).pins.length → s.pinRange c a n = (3, s)) := by
  subst he
  exact ⟨fun hroom => if_neg (not_le.mpr hroom), fun hfull => if_pos hfull⟩

theorem State.unpinRange_cases :
    ((a, n) ∈ (s.cd c e).pins → s.unpinRange c a n
      = (0, (s.modCd c e (fun x => { x with pins := removeFirst (fun q => q = (a, n)) x.pins })).repin c e))
    ∧ ((a, n) ∉ (s.cd c e).pins → s.unpinRange c a n = (4, s)) := by
  subst he
  have htest : (!(s.cd c (vaDie a)).pins.contains (a, n)) = true ↔ (a, n) ∉ (s.cd c (vaDie a)).pins := by simp
  exact ⟨fun hin => if_neg (htest.not.mpr (not_not.mpr hin)), fun hout => if_pos (htest.mpr hout)⟩

end

/-- A PGATTR ends with a status, or drains its ports before it changes the KIND (09 R200). -/
def State.pgattrEnd (s : State) (j : Job) (a n slot kind status : Nat) : State :=
  if status = 0 then s.aspaceDrain j 1 a n slot (some kind) else s.emitStatus j status

/-- A PGATTR of another package's range drains without checks (log entry 4). -/
theorem execAspacePgattr_eq {f : Fields} {s u : State} {r : Region} (h : Fires f (sregDests f) s u)
    (hr : u.region? s.cur.region = some r) {a n slot kind : Nat}
    (ha : leNat (sliceB (descriptorOn u ⟨s.cur, f⟩ false) 0 8) = a) (hn : leNat (sliceB (descriptorOn u ⟨s.cur, f⟩ false) 8 8) = n)
    (hslot : (u.tile s.cur.at_).freeSlot = some slot) (hlo : 0 < n) (hhi : n ≤ 2 ^ 40) (hden : firstDenied r.launch true a n = none)
    (hkind : addendOn u ⟨s.cur, f⟩ 4 % 4 = kind) :
    execAspacePgattr f s = .next (finished f s (u.pgattrEnd ⟨s.cur, f⟩ a n slot kind
      (if vaPkg a = u.pkg then u.pgattrStatus r.launch.ctx a n kind else 0))) := by
  have hc : u.regionCtx s.cur.region = r.launch.ctx := State.regionCtx_of_region hr
  rw [execAspacePgattr, fireAspace_goes (minor := 1) h hr ha hn hslot hlo hhi hden (.inr Nat.one_lt_two)]
  simp only [aspaceB, hkind, hc, ite_not]
  generalize (if vaPkg a = u.pkg then u.pgattrStatus r.launch.ctx a n kind else 0) = status
  cases status <;> rfl

end Sys2Proof.Machine

open Sys2Proof Sys2Proof.Machine

/-- Settles O42: a range that is allowed goes to the effect of its minor (`fireAspace_goes`), and the effect to its status by
`State.pgattrStatus_cases`, `State.pinRange_cases` and `State.unpinRange_cases`; a length outside the limits faults (`fireAspace_length`). -/
theorem aspaceResults : Obligations.AspaceResults := by
  intro f s u r slot h hr t c j d a n b put status mine
  have hc : u.regionCtx s.cur.region = c := State.regionCtx_of_region hr
  have hlpin {v : State} {k : Nat} (hslot : (u.tile t).freeSlot = some slot) (hlo : 0 < n) (hhi : n ≤ 2 ^ 40)
      (hden : firstDenied r.launch false a n = none) (hmine : mine)
      (hx : (if b % 2 = 1 then u.pinRange c a n else u.unpinRange c a n) = (k, v)) : exec (.aspaceLpin f) s = status v k := by
    rw [← hc] at hx
    have hv : v = (k, v).2 := rfl
    have hk : k = (k, v).1 := rfl
    rw [hv, hk, ← hx]
    exact congrArg Host.Outcome.next (fireAspace_goes h hr rfl rfl hslot hlo hhi hden (.inl hmine))
  have hdie : vaDie a = a / 2 ^ 51 % 8 := rfl
  have heven (hb : b % 2 = 0) : b % 2 ≠ 1 := by omega
  refine ⟨fun hlen => ?length, fun hslot hlo hhi hden => ⟨?inval, fun hmine hb hroom => ?pin, fun hmine hb hfull => ?pinFull,
    fun hmine hb hin => ?unpin, fun hmine hb hout => ?notPinned⟩, fun hslot hlo hhi hden => ?pgattr, fun hslot hden hmine => ?lquery⟩
  case length =>
    exact ⟨congrArg Host.Outcome.next (fireAspace_length h hr rfl rfl hlen), congrArg Host.Outcome.next (fireAspace_length h hr rfl rfl hlen),
      congrArg Host.Outcome.next (fireAspace_length h hr rfl rfl hlen)⟩
  case inval => exact congrArg Host.Outcome.next (fireAspace_goes h hr rfl rfl hslot hlo hhi hden (.inr (by decide)))
  case pin => rw [hlpin hslot hlo hhi hden hmine ((if_pos hb).trans ((u.pinRange_cases c a n hdie).1 hroom))]
  case pinFull => rw [hlpin hslot hlo hhi hden hmine ((if_pos hb).trans ((u.pinRange_cases c a n hdie).2 hfull))]
  case unpin => rw [hlpin hslot hlo hhi hden hmine ((if_neg (heven hb)).trans ((u.unpinRange_cases c a n hdie).1 hin))]
  case notPinned => rw [hlpin hslot hlo hhi hden hmine ((if_neg (heven hb)).trans ((u.unpinRange_cases c a n hdie).2 hout))]
  case pgattr =>
    intro pages whole
    have hexec : exec (.aspacePgattr f) s =
        put (u.pgattrEnd j a n slot (b % 4) (if mine then u.pgattrStatus c a n (b % 4) else 0)) :=
      execAspacePgattr_eq h hr rfl rfl hslot hlo hhi hden rfl
    have hpages (hmine : mine) : u.pagesIn c a n = pages := if_neg (not_not.mpr hmine)
    have haligned (hmine : mine) : u.pageAligned c a n = true ↔ whole := by rw [State.pageAligned_iff, hpages hmine]
    obtain ⟨hpart, hkind, hattr, hall⟩ := u.pgattrStatus_cases c a n (b % 4)
    refine ⟨fun hmine hw => ?_, fun hmine hw hk => ?_, fun hmine hw hk hp => ?_, fun hgo => ?_⟩ <;> rw [hexec]
    · rw [if_pos hmine, hpart (mt (haligned hmine).mp hw)]
      rfl
    · rw [if_pos hmine, hkind ((haligned hmine).mpr hw) hk]
      rfl
    · rw [if_pos hmine, hattr ((haligned hmine).mpr hw) hk (by rwa [hpages hmine])]
      rfl
    · have hzero : (if mine then u.pgattrStatus c a n (b % 4) else 0) = 0 := by
        split
        next hmine =>
          obtain ⟨hw, hk, hp⟩ := hgo.resolve_left (not_not.mpr hmine)
          exact hall ((haligned hmine).mpr hw) hk (by rwa [hpages hmine])
        next => rfl
      rw [hzero]
      rfl
  case lquery =>
    have hexec : exec (.aspaceLquery f) s = put ((u.consume s.cur).emitBoth j .value (u.lquery c a)) := by
      rw [← hc]
      exact congrArg Host.Outcome.next
        (fireAspace_goes h hr rfl (if_pos rfl) hslot Nat.one_pos (Nat.one_le_two_pow) hden (.inl hmine))
    refine ⟨fun hpage => ?_, fun p hpage => ?_⟩ <;> rw [hexec, State.lquery, hpage]

end

section
/-! PROOFS. Fields of registers: what a field, and a bit, reads after a field of the register is replaced. -/

namespace Sys2Proof.Machine

theorem testBit_bitsN (v lo n i : Nat) : (bitsN v lo n).testBit i = (decide (i < n) && v.testBit (lo + i)) := by
  rw [bitsN, Nat.testBit_mod_two_pow, Nat.testBit_div_two_pow, Nat.add_comm]

/-- The number with a field replaced, bit by bit. -/
theorem testBit_setBitsN (v lo n x i : Nat) :
    (setBitsN v lo n x).testBit i = if lo ≤ i ∧ i < lo + n then x.testBit (i - lo) else v.testBit i := by
  have hsplit : setBitsN v lo n x = 2 ^ lo * (2 ^ n * (v / 2 ^ (lo + n)) + x % 2 ^ n) + v % 2 ^ lo := by
    have hzero : setBitsN v lo n x = setBitsN v lo n 0 + x % 2 ^ n * 2 ^ lo := by
      simp only [setBitsN, Nat.zero_mod, Nat.zero_mul, Nat.add_zero]
    rw [hzero, setBitsN_zero, Nat.pow_add]
    ring
  rw [hsplit, Nat.testBit_two_pow_mul_add _ (Nat.mod_lt _ (Nat.two_pow_pos lo)),
    Nat.testBit_two_pow_mul_add _ (Nat.mod_lt _ (Nat.two_pow_pos n)), Nat.testBit_mod_two_pow, Nat.testBit_mod_two_pow,
    Nat.testBit_div_two_pow]
  by_cases hlo : i < lo
  · have hout : ¬ (lo ≤ i ∧ i < lo + n) := by omega
    simp [hlo, hout]
  · by_cases hhi : i - lo < n
    · have hin : lo ≤ i ∧ i < lo + n := by omega
      simp [hlo, hhi, hin]
    · have hout : ¬ (lo ≤ i ∧ i < lo + n) := by omega
      have hi : i - lo - n + (lo + n) = i := by omega
      simp [hlo, hhi, hout, hi]

theorem testBit_withField {w : Nat} (v : BitVec w) (lo n x : Nat) {i : Nat} (hi : i < w) :
    (withField v lo n x).toNat.testBit i = if lo ≤ i ∧ i < lo + n then x.testBit (i - lo) else v.toNat.testBit i := by
  rw [withField, BitVec.toNat_ofNat, Nat.testBit_mod_two_pow, testBit_setBitsN]
  simp [hi]

/-- A field that is replaced reads what it is replaced by. -/
theorem fieldOf_withField_self {w : Nat} (v : BitVec w) {lo n : Nat} (x : Nat) (h : lo + n ≤ w) :
    fieldOf (withField v lo n x) lo n = x % 2 ^ n := by
  refine Nat.eq_of_testBit_eq fun i => ?_
  rw [fieldOf, testBit_bitsN, Nat.testBit_mod_two_pow]
  by_cases hi : i < n
  · rw [testBit_withField v lo n x (by omega), if_pos (by omega), Nat.add_sub_cancel_left]
  · simp [hi]

/-- A field that lies beside the one that is replaced stays. -/
theorem fieldOf_withField_ne {w : Nat} (v : BitVec w) {lo n lo' n' : Nat} (x : Nat) (h : lo' + n' ≤ w) (hne : lo' + n' ≤ lo ∨ lo + n ≤ lo') :
    fieldOf (withField v lo n x) lo' n' = fieldOf v lo' n' := by
  refine Nat.eq_of_testBit_eq fun i => ?_
  rw [fieldOf, fieldOf, testBit_bitsN, testBit_bitsN]
  by_cases hi : i < n'
  · rw [testBit_withField v lo n x (by omega), if_neg (by omega)]
  · simp [hi]

/-- A bit beside the field that is replaced stays. -/
theorem bitN_withField_ne {w : Nat} (v : BitVec w) {lo n i : Nat} (x : Nat) (hi : i < w) (hne : i < lo ∨ lo + n ≤ i) :
    bitN (withField v lo n x).toNat i = bitN v.toNat i := by
  rw [bitN, testBit_withField v lo n x hi, if_neg (by omega)]
  rfl

/-- A bit that is replaced. -/
theorem bitN_withField_self {w : Nat} (v : BitVec w) {i : Nat} (x : Nat) (hi : i < w) : bitN (withField v i 1 x).toNat i = x.testBit 0 := by
  rw [bitN, testBit_withField v i 1 x hi, if_pos (by omega), Nat.sub_self]

end Sys2Proof.Machine
end

section
/-! PROOFS. A tile's memory side (09 R200, 10 R203, R218, R221, R225): what leaves its port, what its reply slots gather, and the steps of a
streamer. -/

namespace Sys2Proof.Machine

/-! ### Packets that leave -/

theorem leaves_of_emitPkt (s : State) (d : Nat) (p : Packet) : Leaves d p (s.emitPkt d p) :=
  leaves_emitPkt (reports_emitPkt s d p).pkg (by rw [State.die, State.emitPkt_dies]; rfl) (List.Subset.refl _)

/-- A packet that has left has left whatever else becomes due. -/
theorem leaves_mono {d : Nat} {q : Packet} {s t : State} (h : Leaves d q s) (hpkg : t.pkg = s.pkg)
    (hcctl : (t.die d).cctl = (s.die d).cctl) (hagenda : s.agenda ⊆ t.agenda) : Leaves d q t := by
  have hcode : t.code d = s.code d := by rw [State.code, hpkg]; rfl
  have hold (q : Packet) : t.tooOld d q = s.tooOld d q := by rw [State.tooOld, hcctl]; rfl
  unfold Leaves at h ⊢
  rw [hcode]
  split
  next hhere =>
    rw [if_pos hhere] at h
    obtain ⟨tick, h⟩ := h
    refine ⟨tick, ?_⟩
    rw [hold]
    split
    next htoo => exact hagenda (by rwa [if_pos htoo] at h)
    next htoo =>
      rw [if_neg htoo] at h
      exact fun e he => hagenda (h e he)
  next haway => exact hagenda (by rwa [if_neg haway] at h)

theorem leaves_of_leaves_emitPkt {d : Nat} {q : Packet} {s : State} (h : Leaves d q s) (p : Packet) : Leaves d q (s.emitPkt d p) :=
  leaves_mono h (reports_emitPkt s d p).pkg (by rw [State.die, State.emitPkt_dies]; rfl) (reports_emitPkt s d p).agenda

theorem leaves_due {d : Nat} {q : Packet} {s : State} (h : Leaves d q s) (e : Event) : Leaves d q (s.due e) :=
  leaves_mono h (State.due_pkg s e) (by rw [State.due_die]) (State.agenda_subset_due s e)

/-! ### The request port -/

/-- A part taken out of its port (10 R203). -/
def State.portTaken (s : State) (t : TileId) (p : Part) : State :=
  let s := s.modTile t (fun x => { x with port := removeFirst (fun q => q = p) x.port })
  if (s.tile t).port.isEmpty then s else s.due (.agPortIssue t)

theorem State.portTaken_tile (s : State) (t u : TileId) (p : Part) : (s.portTaken t p).tile u =
    if tileKey u = tileKey t then { s.tile u with port := removeFirst (fun q => q = p) (s.tile u).port } else s.tile u := by
  rw [← State.modTile_tile s t u (fun x => { x with port := removeFirst (fun q => q = p) x.port })]
  unfold State.portTaken
  dsimp only
  split
  · rfl
  · exact State.due_tile _ _ _

theorem State.portTaken_mem (s : State) (t : TileId) (p : Part) : (s.portTaken t p).mem = s.mem := by
  unfold State.portTaken
  dsimp only
  split
  · rfl
  · exact State.due_mem _ _

theorem State.portTaken_regions (s : State) (t : TileId) (p : Part) : (s.portTaken t p).regions = s.regions := by
  unfold State.portTaken
  dsimp only
  split
  · rfl
  · exact State.due_regions _ _

theorem exec_agPortIssue {s : State} {t : TileId} {p : Part} (hev : s.ev = .agPortIssue t)
    (hp : (s.tile t).port.find? (fun q => (s.tile t).gateOpen q) = some p) :
    exec .agPortIssue s = .next ((s.portTaken t p).sendPart t p) := by
  have hexec : exec .agPortIssue s = execAgPortIssue s := rfl
  rw [hexec, execAgPortIssue, hev]
  simp only [State.portStep, hp]
  rfl

/-- A part that touches no L1 is sent as it stands; a release write to its own die is posted besides. -/
theorem State.sendPart_plain {s : State} {t : TileId} {p : Part} (hl1 : p.l1 = 0) (htyp : p.pkt.typ ≠ 0x05) :
    ∃ w, Reports s w ∧ s.sendPart t p = w.emitPkt t.die p.pkt := by
  have hpost (b : Bool) : ¬ (Decidable.decide (p.pkt.typ = 0x05) && b) = true := fun h => htyp (of_decide_eq_true (Bool.and_eq_true_iff.mp h).1)
  have hno4 : ¬ p.l1 = 4 := by omega
  have hno5 : ¬ p.l1 = 5 := by omega
  unfold State.sendPart
  dsimp only
  split
  · rw [hl1]
    exact ⟨_, reports_due s _, rfl⟩
  · rw [if_neg hno4, if_neg hno5]
    exact ⟨s, .refl s, if_neg (hpost _)⟩
  · rw [if_neg hno5]
    exact ⟨s, .refl s, rfl⟩

/-- The L1 serves a tile by the lines of its home and by the regions. -/
theorem State.l1Get_congr {s w : State} (hregions : w.regions = s.regions) (htile : ∀ t, (w.tile t).region = (s.tile t).region
    ∧ (w.tile t).l1 = (s.tile t).l1) (t : TileId) (line seen : Nat) : w.l1Get t line seen = s.l1Get t line seen := by
  have hof : w.regionOf t = s.regionOf t := by rw [State.regionOf, State.region?, hregions, (htile t).1]; rfl
  have hfused : w.fused t = s.fused t := by rw [State.fused, hof]; rfl
  have hhome : w.lineHome t line = s.lineHome t line := by rw [State.lineHome, hfused]; rfl
  rw [State.l1Get, hhome, (htile _).2]
  rfl

/-- A load of a line that the L1 holds is answered by it (10 R203, 08 R179). -/
theorem State.sendPart_hit {s : State} {t : TileId} {p : Part} {l : L1Line} (hop : ∃ n inst, p.pkt.op = .load n inst) (hl1 : p.l1 = 2)
    (hhit : s.l1Get t (p.pkt.addr.toNat / 64) p.seen = some l) :
    ∃ q, .replyDelivery q ∈ (s.sendPart t p).agenda ∧ q.serial = p.pkt.serial ∧ q.part = p.pkt.part
      ∧ q.op = .data (sliceB l.bytes (p.pkt.addr.toNat % 64) p.pkt.n) false := by
  obtain ⟨n, inst, hop⟩ := hop
  have hhit' : (s.due (.requestTimeoutResend t p.pkt.slot)).l1Get t (p.pkt.addr.toNat / 64) p.seen = some l := by
    rw [State.l1Get_congr (State.due_regions s _) (fun _ => by rw [State.due_tile]; exact ⟨rfl, rfl⟩), hhit]
  unfold State.sendPart
  simp only [hop, hl1, hhit']
  exact ⟨_, List.mem_append_right _ (List.mem_singleton_self _), rfl, rfl, rfl⟩

/-! ### Replies -/

section
variable {s : State} {p : Packet} {t : TileId} {r : Reply} {bs : Bytes}

/-- A reply to a tile, outside release groups. -/
theorem exec_replyDelivery_tile (hev : s.ev = .replyDelivery p) (hn : p.tile < 1024) (hrel : p.rel = false) :
    exec .replyDelivery s = .next (s.replyStep p) := by
  have hexec : exec .replyDelivery s = execReplyDelivery s := rfl
  have htile : p.tile ≠ 4094 := by omega
  rw [hexec, execReplyDelivery, hev]
  dsimp only
  rw [if_neg htile, hrel, if_pos Bool.not_false]

/-- A reply slot with the bytes of a part laid into it, at the level of its reply (10 R203, 11 R424). -/
def Reply.gather (r : Reply) (p : Packet) (bs : Bytes) : Reply :=
  { r with
    left := r.left.filter (· ≠ p.part), buf := overlay r.buf p.offset bs,
    level := if r.level < BitVec.ofNat 32 p.stamp.level.toNat then BitVec.ofNat 32 p.stamp.level.toNat else r.level }

/-- The bytes of a part reach the slot that waits for it. -/
theorem State.replyStep_gathers (hst : (s.ctx p.ctx.toNat).st ≠ .saved) (hdie : p.to_.toNat % 8 = t.die) (htile : p.tile = t.tile)
    (hn : p.tile < 1024) (hr : NMap.find (s.tile t).replies p.slot = some r) (hserial : r.serial = p.serial) (hpart : p.part ∈ r.left)
    (hop : p.op = .data bs false) (hfull : s.replyFull r (BitVec.ofNat 32 p.stamp.level.toNat) = false) :
    s.replyStep p = if (r.gather p bs).left.isEmpty then s.finishReply t p.slot (r.gather p bs)
      else (s.modTile t (fun x => { x with replies := NMap.put x.replies p.slot (r.gather p bs) })).due (.agPortIssue t) := by
  have hno : p.tile ≠ 4095 := by omega
  have hgo : ¬ (r.serial ≠ p.serial || !r.left.contains p.part : Bool) = true := by simp [hserial, hpart]
  have ht : (⟨p.to_.toNat % 8, p.tile⟩ : TileId) = t := by rw [hdie, htile]
  unfold State.replyStep
  dsimp only
  rw [if_neg (by simp [hst]), if_neg hno, if_neg (by omega), ht, hr]
  dsimp only
  rw [if_neg hgo, hop]
  simp only [hfull, Bool.false_eq_true, if_false]
  rfl

theorem State.replyFull_of_kind {lv : BitVec 32} (h : ∀ sc, r.kind ≠ .barwait sc) : s.replyFull r lv = false := by
  unfold State.replyFull
  split
  next sc hk => exact absurd hk (h sc)
  next => exact Bool.and_false _

theorem State.serialDone_tile (s : State) (t : TileId) (serial : Nat) : (s.serialDone t serial).tile t =
    { s.tile t with orders := (s.tile t).orders.map (fun o => { o with serials := o.serials.filter (· ≠ serial) }) } := by
  unfold State.serialDone
  dsimp only
  split
  · rw [State.due_tile, State.modTile_tile_self]
  · exact State.modTile_tile_self _ _ _

theorem State.serialDone_mem (s : State) (t : TileId) (serial : Nat) : (s.serialDone t serial).mem = s.mem := by
  unfold State.serialDone
  dsimp only
  split
  · exact State.due_mem _ _
  · rfl

/-- A slot of data that is complete at FREE is freed; its tokens carry the bytes, those of its own pass's stores over them (05 R104, 10 R203). -/
theorem State.finishReply_data (hk : r.kind = .data) (hfree : s.level (s.regionCtx r.job.fi.region) = 0) (t : TileId) (slot : Nat) :
    ∃ v : State, s.finishReply t slot r = v.settle r.job ((v.consume r.job.fi).emitAll r.job r.job.fi.stTag .value
        (r.own.foldl (fun b o => overlay b o.1 [o.2]) r.buf))
      ∧ (v.tile t).replies = NMap.del (s.tile t).replies slot ∧ v.mem = s.mem := by
  refine ⟨(s.freeReply t slot).serialDone t r.serial, ?_, ?_, State.serialDone_mem _ _ _⟩
  · simp only [State.finishReply, hk, hfree, if_true]
    rfl
  · rw [State.serialDone_tile, State.freeReply, State.modTile_tile_self]

end

/-- A refused BARWAIT is sent again (10 R221). -/
theorem barwaitRetry_sends {s : State} {t : TileId} {slot : Nat} {r : Reply} (hev : s.ev = .barwaitRetry t slot)
    (hr : NMap.find (s.tile t).replies slot = some r) :
    ∃ u, exec .barwaitRetry s = .next u ∧ u.mem = s.mem ∧ ∀ p ∈ r.pkts, Leaves t.die p u := by
  have hexec : exec .barwaitRetry s = execBarwaitRetry s := rfl
  refine ⟨r.pkts.foldl (fun s p => s.emitPkt t.die p) (s.countParts r.job.fi 0x02 r.pkts.length), ?_, ?_, ?_⟩
  · rw [hexec, execBarwaitRetry, hev]
    simp only [hr]
  · rw [(Reports.foldl r.pkts (fun s p => reports_emitPkt s t.die p) _).mem]
    exact (Reports.ite (Reports.refl s) (Reports.foldl _ (fun s _ => reports_dieSent s _ _ _) s)).mem
  · exact foldl_establishes (fun s p => leaves_of_emitPkt s t.die p) (fun s p q h => leaves_of_leaves_emitPkt h p) _ _

/-! ### Orders -/

/-- An ORDER or JOIN that waits for nothing more finishes, whatever other one is found (10 R218). -/
theorem orderConditionMet_finishes {s : State} {t : TileId} {o : OrderWait} (hev : s.ev = .orderConditionMet t)
    (ho : (s.tile t).orders.find? (fun o => o.serials.isEmpty) = some o) :
    ∃ v : State, exec .orderConditionMet s = .next (v.finishOrder o)
      ∧ (v.tile t).orders = removeFirst (fun q => q = o) (s.tile t).orders ∧ v.mem = s.mem := by
  have hexec : exec .orderConditionMet s = execOrderConditionMet s := rfl
  rw [hexec, execOrderConditionMet, hev]
  simp only [ho]
  refine ⟨_, rfl, ?_, ?_⟩
  · split
    · rw [State.due_tile, State.modTile_tile_self]
    · rw [State.modTile_tile_self]
  · split
    · exact State.due_mem _ _
    · rfl

/-- One that acquires nothing emits behind every store performed so far (11 R232). -/
theorem State.finishOrder_plain {s : State} {o : OrderWait} (hacq : o.acquire = false) (hfence : o.fence = false) :
    s.finishOrder o = s.settle o.job (s.emitAll o.job { o.tag with seen := s.stores } o.kind o.pay) := by
  rw [State.finishOrder_eq, State.acquired, hfence, hacq]
  rfl

/-! ### Drains of an ASPACE firing -/

/-- The pages of every context on every die stay. -/
theorem State.consume_pages (s : State) (fi : Firing) (c d : Nat) : ((s.consume fi).cd c d).pages = (s.cd c d).pages := by
  have hmod (s : State) (e n : Nat) (g : CtxDie → CtxDie) (hg : ∀ x, (g x).pages = x.pages) :
      ((s.modCd e n g).cd c d).pages = (s.cd c d).pages := by
    by_cases hkey : cdKey c d = cdKey e n
    · have hself : (s.modCd e n g).cd c d = g (s.cd c d) := by simp [State.modCd, State.cd, hkey]
      rw [hself, hg]
    · rw [State.modCd_cd_ne _ _ _ _ _ _ hkey]
  unfold State.consume
  split
  · rfl
  · refine foldl_preserves (v := fun s => (s.cd c d).pages) (fun s ph _ => ?_) s
    exact hmod (s.modTile fi.at_ _) _ _ _ fun _ => rfl

/-- A page of a range, when the KIND of the range is set: its place and size stay, its KIND is the new one (09 R199). -/
theorem PageMap.setKind {p : PageMap} {k : Nat} (hk : k < 4) :
    pdValid (withField p.desc 59 2 k) = pdValid p.desc ∧ pdSize (withField p.desc 59 2 k) = pdSize p.desc
      ∧ pdKind (withField p.desc 59 2 k) = k := by
  refine ⟨bitN_withField_ne _ _ (by omega) (by omega), congrArg pageSize (fieldOf_withField_ne _ _ (by omega) (by omega)), ?_⟩
  rw [pdKind, fieldOf_withField_self _ _ (by omega)]
  exact Nat.mod_eq_of_lt hk

/-- The pages of a range of this package have the KIND that was set (09 R200). -/
theorem State.modPages_kind {s : State} {c a n k : Nat} (hpkg : vaPkg a = s.pkg) (hk : k < 4) {q : PageMap}
    (hq : q ∈ ((s.modPages c a n (fun p => withField p.desc 59 2 k)).cd c (vaDie a)).pages) (hvalid : pdValid q.desc = true)
    (hlo : q.va < a + n) (hhi : a < q.va + pdSize q.desc) : pdKind q.desc = k := by
  rw [State.modPages, if_neg (not_not.mpr hpkg), State.modCd_cd_self] at hq
  obtain ⟨p, hp, rfl⟩ := List.mem_map.mp hq
  obtain ⟨hv, hs, hkind⟩ := PageMap.setKind (p := p) hk
  by_cases hin : (pdValid p.desc && p.va < a + n && a < p.va + pdSize p.desc) = true
  · rw [if_pos hin]
    exact hkind
  · rw [if_neg hin] at hvalid hlo hhi
    exact absurd (by simp [hvalid, hlo, hhi]) hin

theorem State.serialDone_cd (s : State) (t : TileId) (serial c d : Nat) : (s.serialDone t serial).cd c d = s.cd c d := by
  unfold State.serialDone
  dsimp only
  split
  · exact State.due_cd _ _ _ _
  · rfl

/-- The drain tokens of an INVAL or PGATTR that have arrived: the KIND changes, the slot is freed, the tokens leave (09 R200). -/
theorem drainTokenArrival_emits {s : State} {t : TileId} {id : Nat} {o : DrainOp} {j : Job} {slot : Nat} {r : Reply}
    (hev : s.ev = .drainTokenArrival id) (ho : s.drainOps.find? (fun q => q.id = id) = some o) (hj : o.job = some j) (hat : j.fi.at_ = t)
    (hr : (s.tile t).replies.find? (fun q => q.2.serial = o.id && q.2.kind = .drain) = some (slot, r))
    (hpkg : o.kindTo.isSome = true → vaPkg o.base = s.pkg) :
    ∃ v : State, exec .drainTokenArrival s
        = .next (v.settle j (v.emitAll j j.fi.stTag .value (if o.kindTo.isNone then [] else leBytes 4 0)))
      ∧ ∀ k, o.kindTo = some k → k < 4 → ∀ q ∈ (v.cd o.ctx (vaDie o.base)).pages, pdValid q.desc = true →
          q.va < o.base + o.len → o.base < q.va + pdSize q.desc → pdKind q.desc = k := by
  have hexec : exec .drainTokenArrival s = execDrainTokenArrival s := rfl
  rw [hexec, execDrainTokenArrival, hev]
  simp only [State.drainArrived, ho, hj]
  unfold State.aspaceArrived
  dsimp only
  have hr' : (({ s with drainOps := s.drainOps.filter (fun q => q.id ≠ id) } : State).tile j.fi.at_).replies.find?
      (fun q => q.2.serial = o.id && q.2.kind = .drain) = some (slot, r) := by rwa [hat]
  rw [hr']
  dsimp only
  cases hto : o.kindTo with
  | none => exact ⟨_, rfl, nofun⟩
  | some k =>
    have hhere : vaPkg o.base = s.pkg := hpkg (by rw [hto]; rfl)
    rw [if_neg (by simp [hhere])]
    refine ⟨_, rfl, fun k' hk' hlt q hq hvalid hlo hhi => ?_⟩
    cases hk'
    rw [State.consume_pages, State.serialDone_cd] at hq
    exact State.modPages_kind (s := { s with drainOps := s.drainOps.filter (fun q => q.id ≠ id) }) hhere hlt hq hvalid hlo hhi

/-! ### The streamers -/

/-- The streams of a die after the first copy of one is replaced. -/
theorem State.setCopy_stream (s : State) (d k : Nat) {q : CopyReq} {qs : List CopyReq}
    (hq : NMap.getD (s.die d).streams k [] = q :: qs) (c : CopyReq) :
    NMap.getD ((s.setCopy d k (some c)).die d).streams k [] = c :: qs := by
  simp [State.setCopy, hq]

theorem CopyReq.piece?_le {q : CopyReq} {a b n : Nat} (h : q.piece? = some (a, b, n)) (hminor : q.minor ≠ 2) : n ≤ 64 := by
  unfold CopyReq.piece? at h
  split at h
  · cases h
  · dsimp only at h
    cases h
    omega

theorem exec_streamerTakeCopy {s : State} {d k : Nat} (hev : s.ev = .streamerTakeCopy d k) : exec .streamerTakeCopy s = .next (s.streamStep d k) := by
  have hexec : exec .streamerTakeCopy s = execStreamerTakeCopy s := rfl
  rw [hexec, execStreamerTakeCopy, hev]

section
variable {s : State} {d k : Nat} {q : CopyReq} {qs : List CopyReq} (hev : s.ev = .streamerTakeCopy d k)
  (hq : NMap.getD (s.die d).streams k [] = q :: qs) (hbusy : q.busy = false)
include hev hq hbusy

/-- The next piece of a copy to memory is read at its source (10 R225). -/
theorem streamerTakeCopy_reads {a b n : Nat} (hp : q.piece? = some (a, b, n)) (hminor : q.minor ≠ 2) (hdsp : q.dsp = none) :
    ∃ u p, exec .streamerTakeCopy s = .next u ∧ Leaves d p u ∧ p.typ = 0x01 ∧ p.addr = BitVec.ofNat 64 a ∧ p.op = .load n false
      ∧ ∃ q', NMap.getD (u.die d).streams k [] = q' :: qs ∧ q'.busy = true ∧ q'.row = q.row ∧ q'.col = q.col := by
  rw [exec_streamerTakeCopy hev]
  unfold State.streamStep
  simp only [hq, List.head?_cons, hbusy, hp, hdsp, if_neg hminor, Bool.false_eq_true, if_false, Bool.not_true]
  refine ⟨_, _, rfl, leaves_of_emitPkt _ d _, rfl, rfl, rfl, 
    { q with busy := true, rid := s.nextId, since := s.cycles, dsp := none }, ?_, rfl, rfl, rfl⟩
  rw [State.die, State.emitPkt_dies]
  refine State.setCopy_stream (q := q) _ d k ?_ _
  rw [State.due_die]
  exact hq

/-- The next piece of a fill is written at its destination (10 R224, R225). -/
theorem streamerTakeCopy_fills {a b n : Nat} (hp : q.piece? = some (a, b, n)) (hminor : q.minor = 2) (hdsp : q.dsp = none) :
    ∃ u p, exec .streamerTakeCopy s = .next u ∧ Leaves d p u ∧ p.typ = 0x04 ∧ p.addr = BitVec.ofNat 64 b
      ∧ p.op = .store ((List.range n).map (fun i => byteAt q.pattern ((q.col + i) % 8))) := by
  rw [exec_streamerTakeCopy hev]
  unfold State.streamStep
  simp only [hq, List.head?_cons, hbusy, hp, hdsp, if_pos hminor, Bool.false_eq_true, if_false, Bool.not_true, State.copyWrite]
  refine ⟨_, _, rfl, leaves_of_emitPkt _ d _, rfl, rfl, ?_⟩
  simp only [Nat.mod_add_mod]

/-- A copy that has no piece left ends: the held effects of its tile may go on (10 R225). -/
theorem streamerTakeCopy_ends (hp : q.piece? = none) :
    ∃ v : State, exec .streamerTakeCopy s = .next v ∧ .commitDrain q.job.fi.at_ ∈ v.agenda := by
  rw [exec_streamerTakeCopy hev]
  unfold State.streamStep
  simp only [hq, List.head?_cons, hbusy, hp, Bool.false_eq_true, if_false]
  refine ⟨_, rfl, ?_⟩
  split
  · exact State.mem_due _ _
  · exact State.agenda_subset_due _ _ (State.mem_due _ _)

end

end Sys2Proof.Machine

open Sys2Proof Sys2Proof.Machine

/-- Settles O50: what each event of a tile's memory side runs, and what it comes to. -/
theorem tileMemoryEvents : Obligations.TileMemoryEvents := by
  intro s t x
  refine ⟨fun p hev hp hl1 => ?port, fun p l hev hp hl1 hop hhit => ?hit, fun p r bs hev hst hdie htile hn hrel hr hserial hpart hop => ?reply,
    fun slot r hev hr => barwaitRetry_sends hev hr, fun o hev ho => ?order,
    fun id o j slot r hev ho hj hat hr hpkg => drainTokenArrival_emits hev ho hj hat hr hpkg,
    fun k q qs hev hq hbusy => ⟨fun a b n hp hminor hdsp => ?reads, fun a b n hp hminor hdsp => streamerTakeCopy_fills hev hq hbusy hp hminor hdsp,
      fun hp => streamerTakeCopy_ends hev hq hbusy hp⟩⟩
  case port =>
    refine ⟨_, exec_agPortIssue hev hp, fun htyp => ?_⟩
    obtain ⟨w, hw, hsend⟩ := State.sendPart_plain (s := s.portTaken t p) (t := t) hl1 htyp
    rw [hsend]
    have hleft := hw.trans (reports_emitPkt w t.die p.pkt)
    refine ⟨leaves_of_emitPkt w t.die p.pkt, ?_, ?_⟩
    · rw [hleft.mem, State.portTaken_mem]
    · rw [hleft.tile, State.portTaken_tile, if_pos rfl]
  case hit =>
    have hhit' : (s.portTaken t p).l1Get t (p.pkt.addr.toNat / 64) p.seen = some l := by
      rw [State.l1Get_congr (State.portTaken_regions s t p) (fun u => ?_), hhit]
      rw [State.portTaken_tile]
      split <;> exact ⟨rfl, rfl⟩
    obtain ⟨q, hq, hfields⟩ := State.sendPart_hit hop hl1 hhit'
    exact ⟨_, q, exec_agPortIssue hev hp, hq, hfields⟩
  case reply =>
    have hstep := State.replyStep_gathers hst hdie htile hn hr hserial hpart hop
    refine ⟨fun hleft hkind => ?gathered, fun hleft hkind hfree => ?complete⟩
    case gathered =>
      have hmore : (r.gather p bs).left.isEmpty = false := by simpa [Reply.gather] using hleft
      rw [exec_replyDelivery_tile hev hn hrel, hstep (State.replyFull_of_kind hkind), hmore, if_neg Bool.false_ne_true]
      refine ⟨_, r.gather p bs, rfl, ?_, rfl, rfl⟩
      rw [State.due_tile, State.modTile_tile_self]
      exact NMap.find_put_self _ _ _
    case complete =>
      have hnone : (r.gather p bs).left.isEmpty = true := by simpa [Reply.gather] using hleft
      have hdata : ∀ sc, r.kind ≠ .barwait sc := by rw [hkind]; nofun
      rw [exec_replyDelivery_tile hev hn hrel, hstep (State.replyFull_of_kind hdata), hnone, if_pos rfl]
      obtain ⟨v, hv, hreplies, hmem⟩ := State.finishReply_data (s := s) (r := r.gather p bs) hkind hfree t p.slot
      exact ⟨v, congrArg Host.Outcome.next hv, hreplies, hmem⟩
  case order =>
    obtain ⟨v, hv, horders, hmem⟩ := orderConditionMet_finishes hev ho
    exact ⟨v, hv, horders, hmem, fun _ hacq hfence => State.finishOrder_plain hacq hfence⟩
  case reads =>
    obtain ⟨u, p, hu, hleaves, htyp, haddr, hop, hq'⟩ := streamerTakeCopy_reads hev hq hbusy hp hminor hdsp
    exact ⟨u, p, hu, hleaves, htyp, haddr, hop, CopyReq.piece?_le hp hminor, hq'⟩

end

section
/-! PROOFS. Curator's commands: a register that is written once drain tokens have arrived (09 R189, 20 R410) is not written in the state of
their arrival, which still lists the operation. -/

namespace Sys2Proof.Machine

/-! ### Completions -/

/-- Completions and the commands taken after them leave the operations that wait for drain tokens. -/
theorem State.complete_drainOps (s : State) (c : Command) (status result : Nat) :
    (s.complete c status result).drainOps = s.drainOps := by
  unfold State.complete
  split
  · rfl
  · dsimp only
    split <;> rfl

theorem State.takeNext_drainOps (s : State) (d n : Nat) : (s.takeNext d n).drainOps = s.drainOps := by
  induction n generalizing s with
  | zero => rfl
  | succ n ih =>
    unfold State.takeNext
    dsimp only
    split
    · rfl
    · split
      · rfl
      · rw [ih, State.complete_drainOps]
        rfl

theorem State.done_drainOps (s : State) (c : Command) (status : Nat) : (s.done c status).drainOps = s.drainOps := by
  rw [State.done, State.finish, State.takeNext_drainOps]
  exact State.complete_drainOps s c status 0

theorem State.headWrite_drainOps (s : State) (d c : Nat) (v : BitVec 64) : (s.headWrite d c v).drainOps = s.drainOps := by
  unfold State.headWrite
  split <;> rfl

/-! ### A drained register write -/

/-- REGW of ACC_HEAD (selector 0x07) of context 0 on die 0. -/
def regwHead : Command :=
  { die := 0, index := 0, opcode := 0x06, flags := 0, ctxField := 0, reserved := 0, tag := 0, args := [0x07] ++ zeros 47 }

/-- The operation of a command that waits for no request more. -/
def headDrain : DrainOp := { id := 1, ctx := 0, base := 0, len := 0, waits := [], cmd := some regwHead }

/-- The arrival of its drain tokens. -/
def headDrained : State := { ev := .drainTokenArrival 1, drainOps := [headDrain] }

/-- The write takes place when the operation is listed no more. -/
theorem exec_headDrained : exec .drainTokenArrival headDrained
    = .next ((({ headDrained with drainOps := [] } : State).headWrite 0 0 0).done regwHead 0) := by
  have hexec : exec .drainTokenArrival headDrained = .next (({ headDrained with drainOps := [] } : State).cmdDrained regwHead) := rfl
  rw [hexec]
  rfl

end Sys2Proof.Machine

open Sys2Proof Sys2Proof.Machine

/-- Refutes O59: of a register written after drain tokens the statement asks for the write in the state of their arrival, with the
operation still listed among `drainOps`; at ACC_HEAD (selector 0x07) the written state is named whole, and the operation is gone from it. -/
theorem not_unitCommandResults : ¬ Obligations.UnitCommandResults := by
  intro h
  obtain ⟨-, -, ⟨-, hdrained⟩, -⟩ := h headDrained regwHead
  obtain ⟨v, hexec, -, hwrote⟩ := hdrained ⟨1, headDrain, rfl, rfl, rfl, rfl⟩ rfl rfl rfl (by decide)
  obtain ⟨-, -, -, -, -, -, -, hhead, -⟩ := hwrote
  have hsame := congrArg State.drainOps (Host.Outcome.next.inj (exec_headDrained.symm.trans hexec))
  simp only [State.done_drainOps, hhead rfl, State.headWrite_drainOps] at hsame
  cases hsame

end

section
/-! PROOFS. Numbers in runs of bytes (00 R1): what is read where a run has been laid over another or stored, and beside it. -/

namespace Sys2Proof.Machine

@[simp] theorem leBytes_length (n v : Nat) : (leBytes n v).length = n := by
  induction n generalizing v with
  | zero => rfl
  | succ n ih => rw [leBytes, List.length_cons, ih]

theorem leNat_leBytes (n v : Nat) : leNat (leBytes n v) = v % 2 ^ (8 * n) := by
  induction n generalizing v with
  | zero => rw [leBytes, leNat, Nat.mul_zero, pow_zero, Nat.mod_one]
  | succ n ih =>
    have hpow : 2 ^ (8 * (n + 1)) = 256 * 2 ^ (8 * n) := by rw [Nat.mul_add, Nat.pow_add, Nat.mul_comm]
    rw [leBytes, leNat, ih, BitVec.toNat_ofNat, hpow, Nat.mod_mul]

@[simp] theorem zeros_length (n : Nat) : (zeros n).length = n := List.length_replicate

/-! ### Numbers by their bytes -/

/-- A number depends on its own bytes alone. -/
theorem numAt_congr {a b : Bytes} {o o' n : Nat} (h : ∀ i < n, byteAt a (o + i) = byteAt b (o' + i)) : numAt a o n = numAt b o' n := by
  rw [← leNat_sliceB, ← leNat_sliceB, sliceB_eq_map, sliceB_eq_map]
  exact congrArg leNat (List.map_congr_left fun i hi => h i (List.mem_range.mp hi))

/-- A number beside the bytes laid over a run stands as it was. -/
theorem numAt_overlay_beside {bs new : Bytes} {off o n : Nat} (h : o + n ≤ off ∨ off + new.length ≤ o) :
    numAt (overlay bs off new) o n = numAt bs o n := by
  refine numAt_congr fun i hi => ?_
  rw [byteAt_overlay, if_neg (by omega)]

/-- A number within the bytes laid over a run is theirs. -/
theorem numAt_overlay_within {bs new : Bytes} {off o n : Nat} (hfit : off + new.length ≤ bs.length) (hlo : off ≤ o)
    (hhi : o + n ≤ off + new.length) : numAt (overlay bs off new) o n = numAt new (o - off) n := by
  refine numAt_congr fun i hi => ?_
  rw [byteAt_overlay, if_pos (by omega), Nat.sub_add_comm hlo]

theorem numAt_leBytes (n v : Nat) : numAt (leBytes n v) 0 n = v % 2 ^ (8 * n) := by
  have htake : (leBytes n v).take n = leBytes n v := List.take_of_length_le (leBytes_length n v).le
  rw [numAt, List.drop_zero, htake, leNat_leBytes]

theorem numAt_zeros (k o n : Nat) : numAt (zeros k) o n = 0 := by
  have hzero (m : Nat) : leNat (zeros m) = 0 := leNat_append_zeros [] m
  rw [numAt, zeros, List.drop_replicate, List.take_replicate]
  exact hzero _

theorem numAt_append_left {a b : Bytes} {o n : Nat} (h : o + n ≤ a.length) : numAt (a ++ b) o n = numAt a o n := by
  refine numAt_congr fun i hi => ?_
  simp only [byteAt, List.getD_append _ _ _ _ (show o + i < a.length by omega)]

theorem numAt_append_right {a b : Bytes} {o n : Nat} (h : a.length ≤ o) : numAt (a ++ b) o n = numAt b (o - a.length) n := by
  refine numAt_congr fun i hi => ?_
  simp only [byteAt, List.getD_append_right _ _ _ _ (show a.length ≤ o + i by omega), Nat.sub_add_comm h]

/-! ### Runs of bytes in a memory -/

@[simp] theorem Memory.getN_length (m : Memory) (a n : Nat) : (Memory.getN m a n).length = n := by
  rw [Memory.getN, List.length_map, List.length_range]

theorem byteAt_getN (m : Memory) (a : Nat) {n i : Nat} (h : i < n) : byteAt (Memory.getN m a n) i = Memory.get m (a + i) := by
  simp [byteAt, Memory.getN, h]

/-- A number in a run of a memory's bytes. -/
theorem leNat_getN_within (m : Memory) (a : Nat) {o n k : Nat} (h : o + n ≤ k) :
    leNat (Memory.getN m (a + o) n) = numAt (Memory.getN m a k) o n := by
  have hself : numAt (Memory.getN m (a + o) n) 0 n = leNat (Memory.getN m (a + o) n) := by
    rw [numAt, List.drop_zero, List.take_of_length_le (Memory.getN_length _ _ _).le]
  rw [← hself]
  refine numAt_congr fun i hi => ?_
  rw [byteAt_getN _ _ (by omega), byteAt_getN _ _ (by omega)]
  congr 1
  omega

/-- A number in a run of bytes that has been stored. -/
theorem leNat_getN_setN (m : Memory) (a : Nat) {bs : Bytes} {o n : Nat} (h : o + n ≤ bs.length) :
    leNat (Memory.getN (Memory.setN m a bs) (a + o) n) = numAt bs o n := by
  rw [leNat_getN_within _ _ h]
  refine numAt_congr fun i hi => ?_
  rw [byteAt_getN _ _ (by omega), Memory.get_setN, if_pos (by omega), Nat.add_sub_cancel_left]
  rfl

theorem stored_setN (m : Memory) (a : Nat) (bs : Bytes) : Stored m (Memory.setN m a bs) a bs := fun x => Memory.get_setN m a x bs

/-! ### Keyed lists -/

theorem lookupK_putK_self {κ α : Type} [DecidableEq κ] (l : List (κ × α)) (k : κ) (v : α) : lookupK (putK l k v) k = some v := by
  induction l with
  | nil => simp [putK, lookupK]
  | cons x l ih =>
    unfold putK
    split
    · simp [lookupK]
    next hne =>
      rw [← ih, lookupK, List.find?_cons_of_neg (by simpa using hne)]
      rfl

end Sys2Proof.Machine
end

section
/-! PROOFS. Barriers (10 R219): what the test for completion makes of a barrier's counts. -/

namespace Sys2Proof.Machine

variable {b : Bytes}

@[simp] theorem bar4_length (b : Bytes) (off v : Nat) : (bar4 b off v).length = b.length := overlay_length _ _ _

theorem numAt_bar4_self {off v : Nat} (h : off + 4 ≤ b.length) : numAt (bar4 b off v) off 4 = v % 2 ^ 32 := by
  rw [bar4, numAt_overlay_within (by rwa [leBytes_length]) le_rfl (by rw [leBytes_length]), Nat.sub_self, numAt_leBytes]

theorem numAt_bar4_beside {off v o n : Nat} (h : o + n ≤ off ∨ off + 4 ≤ o) : numAt (bar4 b off v) o n = numAt b o n :=
  numAt_overlay_beside (by rwa [leBytes_length])

/-- Both counts of a barrier's phase are reached. -/
def Reached (b : Bytes) : Prop := numAt b 4 4 ≤ numAt b 8 4 ∧ numAt b 0x10 8 ≤ numAt b 0x18 8

/-- The fields of a barrier that its level and its flag of an overrun leave as they were. -/
structure SameCounts (b b' : Bytes) : Prop where
  length : b'.length = b.length
  phase : numAt b' 0 4 = numAt b 0 4
  expected : numAt b' 4 4 = numAt b 4 4
  arrived : numAt b' 8 4 = numAt b 8 4
  bytesExpected : numAt b' 0x10 8 = numAt b 0x10 8
  bytesArrived : numAt b' 0x18 8 = numAt b 0x18 8

theorem SameCounts.reached {b' : Bytes} (h : SameCounts b b') : Reached b' ↔ Reached b := by
  rw [Reached, h.expected, h.arrived, h.bytesExpected, h.bytesArrived, Reached]

theorem sameCounts_ite {c : Prop} [Decidable c] {b' : Bytes} (h : SameCounts b b') : SameCounts b (if c then b' else b) := by
  split
  · exact h
  · exact ⟨rfl, rfl, rfl, rfl, rfl, rfl⟩

theorem sameCounts_flag (b : Bytes) (v : Nat) : SameCounts b (bar4 b 0x0C v) where
  length := bar4_length _ _ _
  phase := numAt_bar4_beside (by decide)
  expected := numAt_bar4_beside (by decide)
  arrived := numAt_bar4_beside (by decide)
  bytesExpected := numAt_bar4_beside (by decide)
  bytesArrived := numAt_bar4_beside (by decide)

theorem sameCounts_level (b : Bytes) (lv : Nat) : SameCounts b (barLevel b lv) where
  length := bar4_length _ _ _
  phase := numAt_bar4_beside (by decide)
  expected := numAt_bar4_beside (by decide)
  arrived := numAt_bar4_beside (by decide)
  bytesExpected := numAt_bar4_beside (by decide)
  bytesArrived := numAt_bar4_beside (by decide)

/-- A barrier with its overrun noted. -/
def barFlagged (b : Bytes) : Bytes :=
  if numAt b 8 4 > numAt b 4 4 || numAt b 0x18 8 > numAt b 0x10 8 then bar4 b 0x0C (numAt b 0x0C 4 ||| 1) else b

/-- A barrier whose phase has completed. -/
def barNext (b : Bytes) : Bytes :=
  let b := overlay (bar4 (bar4 b 0 (numAt b 0 4 + 1)) 8 0) 0x18 (zeros 8)
  bar4 (bar4 b 0x24 (numAt b 0x20 4)) 0x20 0

theorem sameCounts_barFlagged (b : Bytes) : SameCounts b (barFlagged b) := sameCounts_ite (sameCounts_flag b _)

theorem barTest_of_reached (h : Reached b) : barTest b = (barNext (barFlagged b), true) :=
  if_pos (by simpa [Reached] using h)

theorem barTest_of_not_reached (h : ¬ Reached b) : barTest b = (barFlagged b, false) :=
  if_neg (by simpa [Reached] using h)

@[simp] theorem barNext_length (b : Bytes) : (barNext b).length = b.length := by simp [barNext, overlay_length]

/-- A field below those of the level, in a barrier whose phase has completed. -/
theorem numAt_barNext {o n : Nat} (h : o + n ≤ 0x20) :
    numAt (barNext b) o n = numAt (overlay (bar4 (bar4 b 0 (numAt b 0 4 + 1)) 8 0) 0x18 (zeros 8)) o n := by
  rw [barNext, numAt_bar4_beside (.inl h), numAt_bar4_beside (.inl (by omega))]

theorem numAt_barNext_counts {o n : Nat} (h : o + n ≤ 0x18) : numAt (barNext b) o n = numAt (bar4 (bar4 b 0 (numAt b 0 4 + 1)) 8 0) o n := by
  rw [numAt_barNext (by omega), numAt_overlay_beside (.inl h)]

theorem numAt_barNext_phase (h : b.length = 64) : numAt (barNext b) 0 4 = (numAt b 0 4 + 1) % 2 ^ 32 := by
  rw [numAt_barNext_counts (by decide), numAt_bar4_beside (by decide), numAt_bar4_self (by omega)]

theorem numAt_barNext_arrived (h : b.length = 64) : numAt (barNext b) 8 4 = 0 := by
  rw [numAt_barNext_counts (by decide), numAt_bar4_self (by rw [bar4_length]; omega), Nat.zero_mod]

theorem numAt_barNext_bytesArrived (h : b.length = 64) : numAt (barNext b) 0x18 8 = 0 := by
  rw [numAt_barNext (by decide), numAt_overlay_within (by simp [h]) le_rfl (by simp), numAt_zeros]

theorem numAt_barNext_expected (b : Bytes) : numAt (barNext b) 4 4 = numAt b 4 4 := by
  rw [numAt_barNext_counts (by decide), numAt_bar4_beside (by decide), numAt_bar4_beside (by decide)]

theorem numAt_barNext_bytesExpected (b : Bytes) : numAt (barNext b) 0x10 8 = numAt b 0x10 8 := by
  rw [numAt_barNext_counts (by decide), numAt_bar4_beside (by decide), numAt_bar4_beside (by decide)]

theorem phaseReached_iff (phase : Nat) (target : BitVec 32) :
    phaseReached phase target.toNat = true ↔ (phase + 2 ^ 32 - target.toNat) % 2 ^ 32 < 2 ^ 31 := by
  rw [phaseReached, Nat.mod_eq_of_lt target.isLt, decide_eq_true_iff]

end Sys2Proof.Machine
end

section
/-! PROOFS. A barrier at its owner (10 R219 to R221): what a join or a credit leaves in memory, and which waiters it answers. -/

namespace Sys2Proof.Machine

/-! ### What answers and counts leave as they were -/

/-- From `s` to `t` memory and the barrier waiters of a die stay, no event is lost, and what has left the die has still left. -/
structure OwnerKeeps (d : Nat) (s t : State) : Prop where
  mem : t.mem = s.mem
  pkg : t.pkg = s.pkg
  cctl : (t.die d).cctl = (s.die d).cctl
  waiters : (t.die d).waiters = (s.die d).waiters
  agenda : s.agenda ⊆ t.agenda

namespace OwnerKeeps
variable {d : Nat} {s t u : State}

theorem refl (s : State) : OwnerKeeps d s s := ⟨rfl, rfl, rfl, rfl, List.Subset.refl _⟩

theorem trans (h : OwnerKeeps d s t) (h' : OwnerKeeps d t u) : OwnerKeeps d s u :=
  ⟨h'.mem.trans h.mem, h'.pkg.trans h.pkg, h'.cctl.trans h.cctl, h'.waiters.trans h.waiters, List.Subset.trans h.agenda h'.agenda⟩

theorem leaves {q : Packet} (h : OwnerKeeps d s t) (hq : Leaves d q s) : Leaves d q t := leaves_mono hq h.pkg h.cctl h.agenda

end OwnerKeeps

section
variable (d : Nat) (s : State) (p : Packet)

theorem ownerKeeps_modCd (c e : Nat) (g : CtxDie → CtxDie) : OwnerKeeps d s (s.modCd c e g) := ⟨rfl, rfl, rfl, rfl, List.Subset.refl _⟩

theorem ownerKeeps_post (e : Event) : OwnerKeeps d s (s.post e) := ⟨rfl, rfl, rfl, rfl, List.subset_append_left _ _⟩

theorem ownerKeeps_emitPkt (e : Nat) (q : Packet) : OwnerKeeps d s (s.emitPkt e q) := by
  have hdie : (s.emitPkt e q).die d = s.die d := by rw [State.die, State.emitPkt_dies]; rfl
  have hr := reports_emitPkt s e q
  exact ⟨hr.mem, hr.pkg, by rw [hdie], by rw [hdie], hr.agenda⟩

theorem ownerKeeps_reqRecv : OwnerKeeps d s (s.reqRecv d p) := by
  unfold State.reqRecv
  split
  · exact .refl s
  · exact ownerKeeps_modCd d s _ _ _

theorem ownerKeeps_soDone : OwnerKeeps d s (s.soDone d p) := by
  unfold State.soDone
  split
  · exact .refl s
  · exact ⟨rfl, rfl, by rw [State.modDie_die_self], by rw [State.modDie_die_self], List.Subset.refl _⟩

theorem ownerKeeps_writeLevel (n : Nat) : OwnerKeeps d s (s.writeLevel d p n) := by
  unfold State.writeLevel
  split
  · exact .refl s
  · exact ownerKeeps_modCd d s _ _ _

/-- A request performed is held for its record no longer. -/
theorem ownerKeeps_unstalled (g : List Packet → List Packet) : OwnerKeeps d s (s.modDie d (fun x => { x with stalled := g x.stalled })) :=
  ⟨rfl, rfl, by rw [State.modDie_die_self], by rw [State.modDie_die_self], List.Subset.refl _⟩

theorem ownerKeeps_answer (q : Packet) (b : Bytes) : OwnerKeeps d s (s.answer d q b) := by
  unfold State.answer
  split
  · exact ownerKeeps_post d s _
  · exact ownerKeeps_emitPkt d s d _

/-! ### Bytes written at the owner -/

theorem State.writePkt_mem (key : Nat) (bs : Bytes) : (s.writePkt d p key bs).mem = Memory.setN s.mem key bs := by
  unfold State.writePkt
  dsimp only
  split <;> rfl

theorem State.writePkt_hostMem (key : Nat) (bs : Bytes) : (s.writePkt d p key bs).hostMem = s.hostMem := by
  unfold State.writePkt
  dsimp only
  split <;> rfl

theorem State.writePkt_die (key e : Nat) (bs : Bytes) : (s.writePkt d p key bs).die e = s.die e := by
  unfold State.writePkt
  dsimp only
  split <;> rfl

end

/-! ### Waiters -/

/-- A waiter has its answer: a reply with the phase, or, for a queue unit's, the level that wakes its queue (06 R129, 10 R221). -/
def HasAnswer (d : Nat) (q : Packet) (b : Bytes) (t : State) : Prop :=
  (q.tile ≠ 4095 → ∃ r, Leaves d r t ∧ r.typ = 0x03 ∧ r.to_ = q.from_ ∧ r.serial = q.serial ∧ r.part = q.part ∧ r.slot = q.slot
    ∧ r.op = .data (leBytes 4 (numAt b 0 4)) false)
  ∧ (q.tile = 4095 → .queueWaiterAnswer (q.from_.toNat % 8) q.slot (BitVec.ofNat 32 (numAt b 0x24 4)) ∈ t.agenda)

theorem HasAnswer.keeps {d : Nat} {q : Packet} {b : Bytes} {s t : State} (h : HasAnswer d q b s) (hk : OwnerKeeps d s t) :
    HasAnswer d q b t :=
  ⟨fun ht => (h.1 ht).imp fun _ hr => ⟨hk.leaves hr.1, hr.2⟩, fun ht => hk.agenda (h.2 ht)⟩

theorem hasAnswer_answer (d : Nat) (q : Packet) (b : Bytes) (s : State) : HasAnswer d q b (s.answer d q b) := by
  unfold State.answer
  constructor
  · intro ht
    rw [if_neg ht]
    exact ⟨_, leaves_of_emitPkt s d _, rfl, rfl, rfl, rfl, rfl, rfl⟩
  · intro ht
    rw [if_pos ht]
    exact List.mem_append_right _ (List.mem_singleton_self _)

/-- Whether a waiter stands at a barrier and waits for a phase that is reached. -/
def readyAt (key phase : Nat) (w : Nat × Packet) : Bool :=
  w.1 = key && (match w.2.op with
    | .barWait target => phaseReached phase target.toNat
    | _ => false)

theorem readyAt_barWait {key phase : Nat} {q : Packet} {target : BitVec 32} (hop : q.op = .barWait target)
    (h : (phase + 2 ^ 32 - target.toNat) % 2 ^ 32 < 2 ^ 31) : readyAt key phase (key, q) = true := by
  have hreached := (phaseReached_iff phase target).mpr h
  simp only [readyAt, hop, hreached, decide_true, Bool.and_self]

/-- A phase that completes answers the waiters of `ready`, which wait no longer. -/
def State.wakeWaiters (s : State) (d : Nat) (b : Bytes) (ready : List (Nat × Packet)) : State :=
  ready.foldl (fun s w => s.answer d w.2 b) (s.modDie d (fun x => { x with waiters := x.waiters.filter (fun w => !ready.contains w) }))

theorem State.barStore_of_reached {b : Bytes} (h : Reached b) (s : State) (d : Nat) (p : Packet) (key : Nat) :
    let b' := barNext (barFlagged b)
    s.barStore d p key b = (s.writePkt d p key b').wakeWaiters d b' ((s.die d).waiters.filter (readyAt key (numAt b' 0 4))) := by
  rw [State.barStore, barTest_of_reached h]
  dsimp only
  rw [State.writePkt_die]
  rfl

theorem State.barStore_of_not_reached {b : Bytes} (h : ¬ Reached b) (s : State) (d : Nat) (p : Packet) (key : Nat) :
    s.barStore d p key b = s.writePkt d p key (barFlagged b) := by
  rw [State.barStore, barTest_of_not_reached h]
  rfl

section
variable (s : State) (d : Nat) (b : Bytes) (ready : List (Nat × Packet))

theorem ownerKeeps_wakeWaiters : OwnerKeeps d (s.modDie d (fun x => { x with waiters := x.waiters.filter (fun w => !ready.contains w) }))
    (s.wakeWaiters d b ready) :=
  List.foldlRecOn (motive := OwnerKeeps d _) ready _ (.refl _) (fun _ h w _ => h.trans (ownerKeeps_answer d _ w.2 b))

theorem State.wakeWaiters_mem : (s.wakeWaiters d b ready).mem = s.mem := (ownerKeeps_wakeWaiters s d b ready).mem

theorem State.not_mem_wakeWaiters {w : Nat × Packet} (hw : w ∈ ready) : w ∉ ((s.wakeWaiters d b ready).die d).waiters := by
  rw [(ownerKeeps_wakeWaiters s d b ready).waiters, State.modDie_die_self, List.mem_filter]
  simp [hw]

theorem hasAnswer_wakeWaiters {w : Nat × Packet} (hw : w ∈ ready) : HasAnswer d w.2 b (s.wakeWaiters d b ready) :=
  foldl_establishes (P := fun (w : Nat × Packet) t => HasAnswer d w.2 b t) (fun s w => hasAnswer_answer d w.2 b s)
    (fun s w _ h => h.keeps (ownerKeeps_answer d s w.2 b)) ready _ w hw

end

/-! ### The counts of a barrier in memory -/

/-- A number at an offset of a barrier in memory. -/
def barNum (key : Nat) (m : Memory) (o n : Nat) : Nat := leNat (Memory.getN m (key + o) n)

/-- `b` is the barrier at a key, with `a` arrivals and `c` bytes arrived. -/
structure Arrives (m : Memory) (key a c : Nat) (b : Bytes) : Prop where
  length : b.length = 64
  phase : numAt b 0 4 = barNum key m 0 4
  expected : numAt b 4 4 = barNum key m 4 4
  arrived : numAt b 8 4 = a
  bytesExpected : numAt b 0x10 8 = barNum key m 0x10 8
  bytesArrived : numAt b 0x18 8 = c

section
variable {m : Memory} {key a c : Nat} {b : Bytes}

theorem Arrives.sameCounts {b' : Bytes} (h : Arrives m key a c b) (hs : SameCounts b b') : Arrives m key a c b' where
  length := hs.length.trans h.length
  phase := hs.phase.trans h.phase
  expected := hs.expected.trans h.expected
  arrived := hs.arrived.trans h.arrived
  bytesExpected := hs.bytesExpected.trans h.bytesExpected
  bytesArrived := hs.bytesArrived.trans h.bytesArrived

theorem Arrives.reached (h : Arrives m key a c b) : Reached b ↔ barNum key m 4 4 ≤ a ∧ barNum key m 0x10 8 ≤ c := by
  rw [Reached, h.expected, h.arrived, h.bytesExpected, h.bytesArrived]

theorem barNum_eq {o n : Nat} (h : o + n ≤ 64) : barNum key m o n = numAt (Memory.getN m key 64) o n := leNat_getN_within _ _ h

theorem barNum_setN {o n : Nat} (hb : b.length = 64) (h : o + n ≤ 64) : barNum key (Memory.setN m key b) o n = numAt b o n :=
  leNat_getN_setN _ _ (by omega)

theorem arrives_join (ha : a < 2 ^ 32) : Arrives m key a (barNum key m 0x18 8) (bar4 (Memory.getN m key 64) 8 a) where
  length := by rw [bar4_length, Memory.getN_length]
  phase := by rw [numAt_bar4_beside (by decide), barNum_eq (by decide)]
  expected := by rw [numAt_bar4_beside (by decide), barNum_eq (by decide)]
  arrived := by rw [numAt_bar4_self (by rw [Memory.getN_length]; decide), Nat.mod_eq_of_lt ha]
  bytesExpected := by rw [numAt_bar4_beside (by decide), barNum_eq (by decide)]
  bytesArrived := by rw [numAt_bar4_beside (by decide), barNum_eq (by decide)]

theorem arrives_credit (hc : c < 2 ^ 64) : Arrives m key (barNum key m 8 4) c (overlay (Memory.getN m key 64) 0x18 (leBytes 8 c)) where
  length := by rw [overlay_length, Memory.getN_length]
  phase := by rw [numAt_overlay_beside (by simp), barNum_eq (by decide)]
  expected := by rw [numAt_overlay_beside (by simp), barNum_eq (by decide)]
  arrived := by rw [numAt_overlay_beside (by simp), barNum_eq (by decide)]
  bytesExpected := by rw [numAt_overlay_beside (by simp), barNum_eq (by decide)]
  bytesArrived := by rw [numAt_overlay_within (by simp) le_rfl (by simp), Nat.sub_self, numAt_leBytes, Nat.mod_eq_of_lt hc]

end

/-! ### A join or a credit -/

/-- The waiters of a barrier whose phase is reached in `t` wait there no longer and have their answers. -/
def Answered (d key : Nat) (w t : State) : Prop :=
  ∀ k q, (k, q) ∈ (w.die d).waiters → k = key → ∀ target, q.op = .barWait target →
    (barNum key t.mem 0 4 + 2 ^ 32 - target.toNat) % 2 ^ 32 < 2 ^ 31 →
      (k, q) ∉ (t.die d).waiters
      ∧ (q.tile ≠ 4095 → ∃ r, Leaves d r t ∧ r.typ = 0x03 ∧ r.to_ = q.from_ ∧ r.serial = q.serial
          ∧ r.op = .data (leBytes 4 (barNum key t.mem 0 4)) false)
      ∧ (q.tile = 4095 → .queueWaiterAnswer (q.from_.toNat % 8) q.slot (BitVec.ofNat 32 (barNum key t.mem 0x24 4)) ∈ t.agenda)

/-- From `w` to `t` the barrier at a key has come to `a` arrivals and `c` bytes, and its phase has completed if these reach its counts. -/
def Counted (d key : Nat) (w t : State) (a c : Nat) : Prop :=
  (barNum key w.mem 4 4 ≤ a ∧ barNum key w.mem 0x10 8 ≤ c →
    barNum key t.mem 0 4 = (barNum key w.mem 0 4 + 1) % 2 ^ 32 ∧ barNum key t.mem 8 4 = 0 ∧ barNum key t.mem 0x18 8 = 0 ∧ Answered d key w t)
  ∧ (¬ (barNum key w.mem 4 4 ≤ a ∧ barNum key w.mem 0x10 8 ≤ c) →
    barNum key t.mem 0 4 = barNum key w.mem 0 4 ∧ barNum key t.mem 8 4 = a ∧ barNum key t.mem 0x18 8 = c
      ∧ (t.die d).waiters = (w.die d).waiters)
  ∧ barNum key t.mem 4 4 = barNum key w.mem 4 4 ∧ barNum key t.mem 0x10 8 = barNum key w.mem 0x10 8
  ∧ ∀ x, x < key ∨ key + 64 ≤ x → Memory.get t.mem x = Memory.get w.mem x

section
variable {d key a c : Nat} {w t : State} {b : Bytes} {p : Packet}

theorem Memory.get_setN_beside {m : Memory} {k : Nat} {bs : Bytes} {n : Nat} (hn : bs.length ≤ n) (x : Nat) (hx : x < k ∨ k + n ≤ x) :
    Memory.get (Memory.setN m k bs) x = Memory.get m x := by
  rw [Memory.get_setN, if_neg (by omega)]

theorem answered_of_barStore (hb : b.length = 64) (hr : Reached b) (ht : OwnerKeeps d (w.barStore d p key b) t) :
    Answered d key w t := by
  have hlen : (barNext (barFlagged b)).length = 64 := by rw [barNext_length, (sameCounts_barFlagged b).length, hb]
  rw [State.barStore_of_reached hr] at ht
  have hmem : t.mem = Memory.setN w.mem key (barNext (barFlagged b)) := by rw [ht.mem, State.wakeWaiters_mem, State.writePkt_mem]
  have hnum {o n : Nat} (h : o + n ≤ 64) : barNum key t.mem o n = numAt (barNext (barFlagged b)) o n := by rw [hmem, barNum_setN hlen h]
  rintro k q hq rfl target hop hphase
  rw [hnum (by decide)] at hphase
  have hready : (k, q) ∈ (w.die d).waiters.filter (readyAt k (numAt (barNext (barFlagged b)) 0 4)) :=
    List.mem_filter.mpr ⟨hq, readyAt_barWait hop hphase⟩
  obtain ⟨htile, hqueue⟩ := (hasAnswer_wakeWaiters _ d _ _ hready).keeps ht
  refine ⟨by rw [ht.waiters]; exact State.not_mem_wakeWaiters _ d _ _ hready, fun h => ?_, fun h => ?_⟩
  · obtain ⟨r, hleaves, htyp, hto, hserial, -, -, hop'⟩ := htile h
    exact ⟨r, hleaves, htyp, hto, hserial, by rw [hnum (by decide), hop']⟩
  · rw [hnum (by decide)]
    exact hqueue h

/-- A join or a credit stores the counts, or completes the phase and answers its waiters (10 R219). -/
theorem counted_of_barStore (hb : Arrives w.mem key a c b) (ht : OwnerKeeps d (w.barStore d p key b) t) : Counted d key w t a c := by
  have hf := hb.sameCounts (sameCounts_barFlagged b)
  by_cases hr : Reached b
  · have hlen : (barNext (barFlagged b)).length = 64 := by rw [barNext_length, hf.length]
    have hmem : t.mem = Memory.setN w.mem key (barNext (barFlagged b)) := by
      rw [ht.mem, State.barStore_of_reached hr, State.wakeWaiters_mem, State.writePkt_mem]
    have hnum {o n : Nat} (h : o + n ≤ 64) : barNum key t.mem o n = numAt (barNext (barFlagged b)) o n := by rw [hmem, barNum_setN hlen h]
    refine ⟨fun _ => ⟨?_, ?_, ?_, answered_of_barStore hb.length hr ht⟩, fun hn => absurd (hb.reached.mp hr) hn, ?_, ?_, ?_⟩
    · rw [hnum (by decide), numAt_barNext_phase hf.length, hf.phase]
    · rw [hnum (by decide), numAt_barNext_arrived hf.length]
    · rw [hnum (by decide), numAt_barNext_bytesArrived hf.length]
    · rw [hnum (by decide), numAt_barNext_expected, hf.expected]
    · rw [hnum (by decide), numAt_barNext_bytesExpected, hf.bytesExpected]
    · rw [hmem]
      exact Memory.get_setN_beside hlen.le
  · rw [State.barStore_of_not_reached hr] at ht
    have hmem : t.mem = Memory.setN w.mem key (barFlagged b) := by rw [ht.mem, State.writePkt_mem]
    have hnum {o n : Nat} (h : o + n ≤ 64) : barNum key t.mem o n = numAt (barFlagged b) o n := by rw [hmem, barNum_setN hf.length h]
    refine ⟨fun h => absurd (hb.reached.mpr h) hr, fun _ => ⟨?_, ?_, ?_, by rw [ht.waiters, State.writePkt_die]⟩, ?_, ?_, ?_⟩
    · rw [hnum (by decide), hf.phase]
    · rw [hnum (by decide), hf.arrived]
    · rw [hnum (by decide), hf.bytesArrived]
    · rw [hnum (by decide), hf.expected]
    · rw [hnum (by decide), hf.bytesExpected]
    · rw [hmem]
      exact Memory.get_setN_beside hf.length.le

end

end Sys2Proof.Machine
end

section
/-! PROOFS. A request performed at its slice (10 R206, R207): what each operation stores and answers. -/

namespace Sys2Proof.Machine

/-! ### Requests that nothing holds back -/

/-- A request performed, its accesses noted for the rebuilt order (11 R237). -/
def State.perform (s : State) (d : Nat) (p : Packet) (key : Nat) : State := (s.noteAccess d p).2.performAt d p key

/-- A die's list of stalled requests without one of them. -/
def State.unstalled (s : State) (d : Nat) (p : Packet) : State := s.modDie d (fun x => { x with stalled := x.stalled.filter (· ≠ p) })

section
variable {s : State} {d key : Nat} {p : Packet}

theorem State.ownerGo_atSlice (h : AtSlice s d p key) : s.ownerGo d p key = s.perform d p key := by
  have hperform : s.ownerGo d p key = if (s.noteAccess d p).1.isEmpty then s.perform d p key
      else (s.noteAccess d p).2.conflict d p (s.noteAccess d p).1 := by
    simp only [State.ownerGo, h.turn, h.copied]
    rfl
  rw [hperform, h.order, if_pos List.isEmpty_nil]

/-- The page of a request is in the TLB of its owner, and no page that a context maps is written by a host's physical write. -/
def Fetched (s : State) (d : Nat) (p : Packet) : Prop := s.tlbHit d p = true
  ∧ ¬ (p.phys = true ∧ opWrites p.op = true ∧ s.physMapped d (p.addr.toNat % 2 ^ 51) (opSpan p.op) = true)

theorem State.ownerStep_atSlice (h : AtSlice s d p key) (hf : Fetched s d p) : s.ownerStep d p = s.perform d p key := by
  have hfree : ¬ (p.phys && opWrites p.op && s.physMapped d (p.addr.toNat % 2 ^ 51) (opSpan p.op)) = true := by
    simpa [and_assoc] using hf.2
  rw [State.ownerStep, if_neg hfree, if_pos hf.1, h.mapped]
  exact State.ownerGo_atSlice h

/-- A physical address within a die lies below the register windows. -/
theorem atSlice_not_window (h : AtSlice s d p key) : ¬ (p.phys && bitN p.addr.toNat 50) = true := by
  intro hw
  obtain ⟨hphys, hbit⟩ := Bool.and_eq_true_iff.mp hw
  have hlow : p.addr.toNat % 2 ^ 51 < 2 ^ 50 := by
    have hk := h.mapped
    rw [State.pktKey, if_pos hphys] at hk
    dsimp only at hk
    split at hk
    next hle => rw [dieBytes] at hle; omega
    next => simp at hk
  have hmod : (p.addr.toNat % 2 ^ 51).testBit 50 = true := by rw [Nat.testBit_mod_two_pow]; exact hbit
  rw [Nat.testBit_lt_two_pow hlow] at hmod
  exact Bool.false_ne_true hmod

theorem exec_ownerPerform_atSlice (hev : s.ev = .ownerPerform d p) (h : AtSlice s d p key) (hf : Fetched s d p) :
    exec .ownerPerform s = .next (s.perform d p key) := by
  have hexec : exec .ownerPerform s = execOwnerPerform s := rfl
  rw [hexec, execOwnerPerform, hev]
  dsimp only
  rw [if_neg (atSlice_not_window h), State.ownerStep_atSlice h hf]

theorem exec_byteCredit_atSlice (hev : s.ev = .byteCredit d p) (h : AtSlice s d p key) (hf : Fetched s d p) :
    exec .byteCredit s = .next (s.perform d p key) := by
  have hexec : exec .byteCredit s = execByteCredit s := rfl
  rw [hexec, execByteCredit, hev]
  dsimp only
  rw [State.ownerStep_atSlice h hf]

theorem exec_soHeldPerform_atSlice (hev : s.ev = .soHeldPerform d p) (h : AtSlice s d p key) :
    exec .soHeldPerform s = .next (s.perform d p key) := by
  have hexec : exec .soHeldPerform s = execSoHeldPerform s := rfl
  rw [hexec, execSoHeldPerform, hev]
  dsimp only
  rw [h.mapped]
  exact congrArg _ (State.ownerGo_atSlice h)

/-! ### A TLB miss -/

/-- The TLB of a die with an entry read from the tables (09 R188). -/
def State.fetch (s : State) (d : Nat) (e : Nat × Nat × Nat) : State := s.modDie d (fun x =>
  let l := if x.tlb.contains e then x.tlb else x.tlb ++ [e]
  { x with tlb := l.drop (l.length - 4096) })

theorem State.mem_fetch_tlb (d : Nat) (e : Nat × Nat × Nat) (h : (s.die d).tlb.length ≤ 4096) : e ∈ ((s.fetch d e).die d).tlb := by
  rw [State.fetch, State.modDie_die_self]
  dsimp only
  split
  next hin =>
    rw [Nat.sub_eq_zero_of_le h, List.drop_zero]
    exact List.contains_iff_mem.mp hin
  next =>
    rw [List.length_append, List.length_singleton, List.drop_append_of_le_length (by omega)]
    exact List.mem_append_right _ (List.mem_singleton_self e)

theorem State.fetch_tlb_length (s : State) (d : Nat) (e : Nat × Nat × Nat) : ((s.fetch d e).die d).tlb.length ≤ 4096 := by
  rw [State.fetch, State.modDie_die_self, List.length_drop]
  omega

/-- What holds a request back does not turn on the TLB. -/
theorem atSlice_fetch (h : AtSlice s d p key) (e : Nat × Nat × Nat) : AtSlice (s.fetch d e) d p key where
  mapped := h.mapped
  turn := by
    have hnext : ((s.fetch d e).die d).soNext = (s.die d).soNext := by rw [State.fetch, State.modDie_die_self]
    have hahead : (s.fetch d e).soAhead d p = s.soAhead d p := by rw [State.soAhead, State.soAhead, hnext]
    rw [hahead, h.turn]
  copied := h.copied
  order := by
    have hbad : ((s.fetch d e).noteAccess d p).1 = (s.noteAccess d p).1 := by
      have hrebuilt : (s.fetch d e).rebuilt p = s.rebuilt p := rfl
      rw [State.noteAccess, State.noteAccess, hrebuilt]
      split <;> rfl
    rw [hbad, h.order]

theorem exec_tlbMissFill_atSlice (hev : s.ev = .tlbMissFill d p) (h : AtSlice s d p key) {g : PageMap}
    (hg : s.page? p.ctx.toNat p.addr.toNat = some g) :
    exec .tlbMissFill s = .next ((s.fetch d (p.ctx.toNat, g.va, fieldOf g.desc 61 2)).perform d p key) := by
  have hexec : exec .tlbMissFill s = execTlbMissFill s := rfl
  rw [hexec, execTlbMissFill, hev]
  dsimp only
  rw [State.tlbStep, hg, h.mapped]
  exact congrArg _ (State.ownerGo_atSlice (atSlice_fetch h _))

end

/-! ### What a noted access leaves as it was -/

section
variable (s : State) (d : Nat) (p : Packet)

/-- What a context holds on a die, with the accesses of a request noted (11 R237). -/
def CtxDie.noted (y : CtxDie) (p : Packet) : CtxDie :=
  { y with history := y.history ++ (unitsOf p.addr.toNat (opSpan p.op)).map (fun u => ⟨u, p.stamp, opWrites p.op⟩) }

/-- An access is noted in the history of its context on the die, or not at all. -/
theorem State.noteAccess_state : (s.noteAccess d p).2 = s
    ∨ (s.noteAccess d p).2 = s.modCd p.ctx.toNat d (fun y => y.noted p) := by
  unfold State.noteAccess
  split
  · exact .inl rfl
  · exact .inr rfl

theorem ownerKeeps_noteAccess : OwnerKeeps d s (s.noteAccess d p).2 := by
  obtain h | h := s.noteAccess_state d p
  · rw [h]; exact .refl s
  · rw [h]; exact ownerKeeps_modCd d s _ d _

theorem State.noteAccess_hostMem : (s.noteAccess d p).2.hostMem = s.hostMem := by
  obtain h | h := s.noteAccess_state d p <;> rw [h]
  rfl

theorem State.noteAccess_die (e : Nat) : (s.noteAccess d p).2.die e = s.die e := by
  obtain h | h := s.noteAccess_state d p <;> rw [h]
  rfl

theorem State.modCd_kindAt {c e : Nat} {g : CtxDie → CtxDie} (hg : ∀ y, (g y).pages = y.pages) (x va : Nat) :
    (s.modCd c e g).kindAt x va = s.kindAt x va := by
  have hpages (n : Nat) : ((s.modCd c e g).cd x n).pages = (s.cd x n).pages := by
    by_cases hk : cdKey x n = cdKey c e
    · simp only [State.cd, State.modCd, hk, NMap.getD_put_self, hg]
    · rw [State.modCd_cd_ne _ _ _ _ _ _ hk]
  have hpage : (s.modCd c e g).page? x va = s.page? x va := by
    rw [State.page?, hpages]
    rfl
  rw [State.kindAt, hpage]
  rfl

theorem State.noteAccess_kindAt (c va : Nat) : (s.noteAccess d p).2.kindAt c va = s.kindAt c va := by
  obtain h | h := s.noteAccess_state d p
  · rw [h]
  · have hpages (y : CtxDie) : (y.noted p).pages = y.pages := rfl
    rw [h, s.modCd_kindAt hpages]

variable {p}

/-- Only loads and stores are accesses of the rebuilt order. -/
theorem State.perform_other (hl : ∀ n inst, p.op ≠ .load n inst) (hs : ∀ bs, p.op ≠ .store bs) (key : Nat) :
    s.perform d p key = s.performAt d p key := by
  have hno : s.rebuilt p = false := by
    unfold State.rebuilt
    split
    next h => exact absurd h (hl _ _)
    next h => exact absurd h (hs _)
    next => exact Bool.and_false _
  rw [State.perform, State.noteAccess, hno]
  rfl

end

/-! ### Answers -/

/-- The reply to a request has left its owner. -/
def Answers (d : Nat) (p : Packet) (t : State) (op : MemOp) : Prop :=
  ∃ q, Leaves d q t ∧ q.typ = 0x03 ∧ q.to_ = p.from_ ∧ q.serial = p.serial ∧ q.part = p.part ∧ q.slot = p.slot ∧ q.op = op

theorem answers_emitPkt (s v : State) (d : Nat) (p : Packet) (op : MemOp) (lv : BitVec 48) : Answers d p (s.emitPkt d (v.replyPkt d p op lv)) op :=
  ⟨_, leaves_of_emitPkt s d _, rfl, rfl, rfl, rfl, rfl, rfl⟩

theorem State.soDone_soNext {p : Packet} {n : Nat} (h : p.soNum = some n) (s : State) (d : Nat) :
    ((s.soDone d p).die d).soNext = putK (s.die d).soNext (p.from_.toNat, p.tile)
      (max (n + 1) ((lookupK (s.die d).soNext (p.from_.toNat, p.tile)).getD 0)) := by
  simp only [State.soDone, h, State.modDie_die_self]

theorem State.emitPkt_die (s : State) (d e : Nat) (q : Packet) : (s.emitPkt d q).die e = s.die e := by
  rw [State.die, State.emitPkt_dies]
  rfl

/-! ### Loads -/

section
variable {s : State} {d key n : Nat} {p : Packet} {inst : Bool}

/-- What a load answers: its bytes, or for an installing load of a page of another kind than CO the line (10 R206). -/
def State.loaded (s : State) (p : Packet) (key n : Nat) (inst : Bool) : MemOp :=
  if inst && !p.phys && Decidable.decide (s.kindAt p.ctx.toNat p.addr.toNat ≠ 0) then .data (Memory.getN s.mem (key / 64 * 64) 64) true
  else .data (Memory.getN s.mem key n) false

theorem State.performAt_load (hop : p.op = .load n inst) : ∃ v lv at_ levels, OwnerKeeps d s v
    ∧ v = (s.unstalled d p).soDone d p
    ∧ s.performAt d p key = v.emitPkt d { v.replyPkt d p (s.loaded p key n inst) lv with readAt := at_, levels := levels } := by
  have hdata (line : Bool) (a b : Bytes) : MemOp.data (if line = true then a else b) line
      = if line = true then .data a true else .data b false := by cases line <;> rfl
  rw [State.loaded, ← hdata]
  unfold State.performAt
  simp only [hop]
  exact ⟨(s.unstalled d p).soDone d p, _, _, _, (ownerKeeps_unstalled d s _).trans (ownerKeeps_soDone d _ p), rfl, rfl⟩

theorem perform_load (hop : p.op = .load n inst) : (s.perform d p key).mem = s.mem ∧ Answers d p (s.perform d p key) (s.loaded p key n inst)
    ∧ ∀ m, p.soNum = some m → lookupK ((s.perform d p key).die d).soNext (p.from_.toNat, p.tile)
      = some (max (m + 1) ((lookupK (s.die d).soNext (p.from_.toNat, p.tile)).getD 0)) := by
  have hloaded : (s.noteAccess d p).2.loaded p key n inst = s.loaded p key n inst := by
    rw [State.loaded, State.noteAccess_kindAt, (ownerKeeps_noteAccess s d p).mem]
    rfl
  obtain ⟨v, lv, at_, levels, hk, hv, hperform⟩ := State.performAt_load (s := (s.noteAccess d p).2) (d := d) (key := key) hop
  rw [State.perform, hperform, hloaded]
  refine ⟨?_, ⟨_, leaves_of_emitPkt v d _, rfl, rfl, rfl, rfl, rfl, rfl⟩, fun m hm => ?_⟩
  · rw [(ownerKeeps_emitPkt d v d _).mem, hk.mem, (ownerKeeps_noteAccess s d p).mem]
  · rw [State.emitPkt_die, hv, State.soDone_soNext hm, lookupK_putK_self, State.unstalled, State.modDie_die_self, State.noteAccess_die]

end

/-! ### Stores -/

section
variable {s : State} {d key : Nat} {p : Packet} {bs : Bytes}

theorem perform_store (hop : p.op = .store bs) (hposted : p.fromHost = false ∨ p.typ = 0x04) :
    ∃ v : State, s.perform d p key = v.writeDone d p bs.length ∧ Stored s.mem v.mem key bs ∧ v.hostMem = s.hostMem := by
  have hno : ¬ (p.fromHost && Decidable.decide (p.typ ≠ 0x04)) = true := by
    rcases hposted with h | h <;> simp [h]
  set w := (s.noteAccess d p).2.unstalled d p with hw
  refine ⟨((w.writePkt d p key bs).writeLevel d p bs.length).soDone d p, ?_, ?_, ?_⟩
  · rw [State.perform]
    unfold State.performAt
    simp only [hop]
    exact if_neg hno
  · rw [(ownerKeeps_soDone d _ p).mem, (ownerKeeps_writeLevel d _ p _).mem, State.writePkt_mem, hw, State.unstalled, State.modDie_mem,
      (ownerKeeps_noteAccess s d p).mem]
    exact stored_setN _ _ _
  · have hso (v : State) : (v.soDone d p).hostMem = v.hostMem := by unfold State.soDone; split <;> rfl
    have hlevel (v : State) : (v.writeLevel d p bs.length).hostMem = v.hostMem := by unfold State.writeLevel; split <;> rfl
    rw [hso, hlevel, State.writePkt_hostMem, hw, State.unstalled, State.modDie_hostMem, State.noteAccess_hostMem]

/-- The credit of a posted write is sent to its barrier (10 R220). -/
theorem writeDone_sends_credit {n : Nat} (hcred : p.cred ≠ 0) (hn : n ≠ 0) (v : State) (d : Nat) :
    ∃ q, Leaves d q (v.writeDone d p n) ∧ q.typ = 0x0B ∧ q.addr = p.cred ∧ q.op = .credit n := by
  have hgo : ¬ (Decidable.decide (p.cred = 0) || Decidable.decide (n = 0)) = true := by
    rw [decide_eq_false hcred, decide_eq_false hn]
    exact Bool.false_ne_true
  unfold State.writeDone
  dsimp only
  rw [if_neg hgo]
  exact ⟨_, leaves_of_emitPkt _ d _, rfl, rfl, rfl⟩

end

/-! ### Atomics -/

section
variable {s w : State} {d key size : Nat} {p : Packet} {op : AtomOp} {signed : Bool} {b0 b1 : Bytes}

theorem perform_atomic (hop : p.op = .atomic op size signed b0 b1)
    (hg : (if p.fromHost then Gate.go (s.unstalled d p) else (s.unstalled d p).atomGate d p key) = .go w) :
    Stored w.mem (s.perform d p key).mem key
        (leBytes size (atomicNew op size signed (leNat (Memory.getN w.mem key size)) (leNat b0) (leNat b1)))
      ∧ Answers d p (s.perform d p key) (.data (Memory.getN w.mem key size) false) := by
  have hperform : s.perform d p key =
      let new := leBytes size (atomicNew op size signed (leNat (Memory.getN w.mem key size)) (leNat b0) (leNat b1))
      let v := (((w.writePkt d p key new).writeLevel d p size).soDone d p).reqRecv d p
      v.emitPkt d (v.replyPkt d p (.data (Memory.getN w.mem key size) false) (w.readLevel d p)) := by
    rw [State.unstalled] at hg
    rw [State.perform_other s d (by simp [hop]) (by simp [hop])]
    unfold State.performAt
    simp only [hop, hg]
  rw [hperform]
  refine ⟨?_, answers_emitPkt _ _ d p _ _⟩
  dsimp only
  rw [(ownerKeeps_emitPkt d _ d _).mem, (ownerKeeps_reqRecv d _ p).mem, (ownerKeeps_soDone d _ p).mem, (ownerKeeps_writeLevel d _ p _).mem,
    State.writePkt_mem]
  exact stored_setN _ _ _

theorem asSigned_eq_toInt {w : Nat} (hw : 0 < w) (v : Nat) : asSigned w v = (BitVec.ofNat w v).toInt := by
  have hpow := Nat.two_pow_pred_mul_two hw
  have hlow : 2 * (v % 2 ^ w) < 2 ^ w ↔ v % 2 ^ w < 2 ^ (w - 1) := by omega
  rw [asSigned, BitVec.toInt_eq_toNat_cond, BitVec.toNat_ofNat]
  simp only [hlow]

/-- The comparison of the elements of an ATOM, signed or not. -/
def atomLess (size : Nat) (signed : Bool) (x y : Nat) : Bool :=
  if signed then (BitVec.ofNat (8 * size) x).slt (BitVec.ofNat (8 * size) y) else Decidable.decide (x < y)

theorem atomLess_iff (hsize : 0 < size) (signed : Bool) (x y : Nat) : atomLess size signed x y = true ↔
    (if signed then asSigned (8 * size) x else (x : Int)) < (if signed then asSigned (8 * size) y else (y : Int)) := by
  cases signed
  · simp [atomLess]
  · have hw : 0 < 8 * size := by omega
    simp [atomLess, BitVec.slt, asSigned_eq_toInt hw]

/-- The new value of an ATOM, of elements as long as the place (10 R214). -/
def atomValue (op : AtomOp) (size : Nat) (signed : Bool) (old a b : Nat) : Nat :=
  match op with
  | .add => (old + a) % 2 ^ (8 * size)
  | .min => if atomLess size signed a old then a else old
  | .max => if atomLess size signed old a then a else old
  | .and => old &&& a
  | .or => old ||| a
  | .xor => old ^^^ a
  | .xchg => a
  | .cas | .casw => if old = a then b else old
  | .fadd => addF32 old a

theorem atomicNew_eq_atomValue (hsize : 0 < size) (op : AtomOp) (signed : Bool) (old a b : Nat) :
    atomicNew op size signed old a b = atomValue op size signed old a b := by
  cases op with
  | min => simp only [atomicNew, atomValue, atomLess_iff hsize]
  | max => simp only [atomicNew, atomValue, atomLess_iff hsize, gt_iff_lt]
  | add | and | or | xor | xchg | cas | casw | fadd => rfl

theorem leNat_mod_of_length {b : Bytes} (h : b.length = size) : leNat b % 2 ^ (8 * size) = leNat b :=
  Nat.mod_eq_of_lt (h ▸ leNat_lt b)

end

/-! ### Barriers -/

section
variable {s w : State} {d key : Nat} {p : Packet}

/-- The fields of a barrier set up (10 R219). -/
theorem perform_barInit {aExp phase : BitVec 32} {bExp : BitVec 64} (hop : p.op = .barInit aExp phase bExp) :
    let m := (s.perform d p key).mem
    barNum key m 0 4 = phase.toNat ∧ barNum key m 4 4 = aExp.toNat ∧ barNum key m 8 4 = 0 ∧ barNum key m 0x10 8 = bExp.toNat
      ∧ barNum key m 0x18 8 = 0 ∧ (∀ x, x < key ∨ key + 40 ≤ x → Memory.get m x = Memory.get s.mem x)
      ∧ Answers d p (s.perform d p key) (.data (leBytes 4 phase.toNat) false) := by
  set fields := leBytes 4 phase.toNat ++ leBytes 4 aExp.toNat ++ zeros 8 ++ leBytes 8 bExp.toNat ++ zeros 16 with hfields
  set b := overlay (Memory.getN s.mem key 64) 0 fields with hb
  have hflen : fields.length = 40 := by simp [hfields]
  have hlen : b.length = 64 := by rw [hb, overlay_length, Memory.getN_length]
  obtain ⟨lv, hperform⟩ : ∃ lv, s.perform d p key =
      let v := (((s.unstalled d p).writePkt d p key b).soDone d p).reqRecv d p
      v.emitPkt d (v.replyPkt d p (.data (leBytes 4 phase.toNat) false) lv) := by
    refine ⟨p.stamp.level, ?_⟩
    rw [State.perform_other s d (by simp [hop]) (by simp [hop])]
    unfold State.performAt
    simp only [hop]
    rfl
  have hmem : (s.perform d p key).mem = Memory.setN s.mem key b := by
    rw [hperform]
    dsimp only
    rw [(ownerKeeps_emitPkt d _ d _).mem, (ownerKeeps_reqRecv d _ p).mem, (ownerKeeps_soDone d _ p).mem, State.writePkt_mem]
    rfl
  have hnum {o n : Nat} (h : o + n ≤ 40) : barNum key (Memory.setN s.mem key b) o n = numAt fields o n := by
    rw [barNum_setN hlen (by omega), hb, numAt_overlay_within (by rw [hflen, Memory.getN_length]; decide) (Nat.zero_le o) (by omega),
      Nat.sub_zero]
  refine ⟨?_, ?_, ?_, ?_, ?_, fun x hx => ?_, ?_⟩
  · rw [hmem, hnum (by decide), hfields]
    simpa [numAt_append_left, numAt_leBytes] using phase.isLt
  · rw [hmem, hnum (by decide), hfields]
    simpa [numAt_append_left, numAt_append_right, numAt_leBytes] using aExp.isLt
  · rw [hmem, hnum (by decide), hfields]
    simp [numAt_append_left, numAt_append_right, numAt_zeros]
  · rw [hmem, hnum (by decide), hfields]
    simpa [numAt_append_left, numAt_append_right, numAt_leBytes] using bExp.isLt
  · rw [hmem, hnum (by decide), hfields]
    simp [numAt_append_right, numAt_zeros]
  · rw [hmem, Memory.get_setN]
    split
    next hin =>
      have hx : ¬ x - key < 40 := by omega
      have hbyte := byteAt_overlay (Memory.getN s.mem key 64) 0 fields (x - key)
      rw [if_neg (by omega), byteAt_getN _ _ (by omega), Nat.add_sub_cancel' hin.1] at hbyte
      exact hbyte
    next => rfl
  · rw [hperform]
    exact answers_emitPkt _ _ d p _ _

theorem perform_barJoin {n : BitVec 32} (hop : p.op = .barJoin n)
    (hg : (if p.fromHost then Gate.go (s.unstalled d p) else (s.unstalled d p).joinGate d p key) = .go w) :
    Counted d key w (s.perform d p key) (min (2 ^ 32 - 1) (barNum key w.mem 8 4 + n.toNat)) (barNum key w.mem 0x18 8)
      ∧ Answers d p (s.perform d p key) (.data (leBytes 4 (barNum key w.mem 0 4)) false) := by
  rw [barNum_eq (by decide), barNum_eq (o := 0) (by decide)]
  set joined := bar4 (Memory.getN w.mem key 64) 8 (min (2 ^ 32 - 1) (numAt (Memory.getN w.mem key 64) 8 4 + n.toNat))
  set b := if w.level p.ctx.toNat ≥ 1 then barLevel joined p.stamp.level.toNat else joined
  have harrives := arrives_join (m := w.mem) (key := key) (a := min (2 ^ 32 - 1) (numAt (Memory.getN w.mem key 64) 8 4 + n.toNat)) (by omega)
  have hperform : s.perform d p key =
      let v := ((w.barStore d p key b).soDone d p).reqRecv d p
      v.emitPkt d (v.replyPkt d p (.data (leBytes 4 (numAt (Memory.getN w.mem key 64) 0 4)) false) p.stamp.level) := by
    rw [State.unstalled] at hg
    rw [State.perform_other s d (by simp [hop]) (by simp [hop])]
    unfold State.performAt
    simp only [hop, hg]
    rfl
  rw [hperform]
  refine ⟨counted_of_barStore (b := b) (p := p) (harrives.sameCounts (sameCounts_ite (sameCounts_level _ _))) ?_, answers_emitPkt _ _ d p _ _⟩
  exact (ownerKeeps_soDone d _ p).trans ((ownerKeeps_reqRecv d _ p).trans (ownerKeeps_emitPkt d _ d _))

theorem perform_credit {n : Nat} (hop : p.op = .credit n) : Counted d key (s.unstalled d p) (s.perform d p key)
    (barNum key (s.unstalled d p).mem 8 4) (min (2 ^ 64 - 1) (barNum key (s.unstalled d p).mem 0x18 8 + n)) := by
  set u := s.unstalled d p
  rw [barNum_eq (o := 0x18) (by decide)]
  set credited := overlay (Memory.getN u.mem key 64) 0x18
    (leBytes 8 (min (2 ^ 64 - 1) (numAt (Memory.getN u.mem key 64) 0x18 8 + n)))
  set b := if u.level p.ctx.toNat ≥ 1 then barLevel credited p.stamp.level.toNat else credited
  have harrives := arrives_credit (m := u.mem) (key := key) (c := min (2 ^ 64 - 1) (numAt (Memory.getN u.mem key 64) 0x18 8 + n)) (by omega)
  have hperform : s.perform d p key = (u.barStore d p key b).reqRecv d p := by
    rw [State.perform_other s d (by simp [hop]) (by simp [hop])]
    unfold State.performAt
    simp only [hop]
    rfl
  rw [hperform]
  exact counted_of_barStore (b := b) (p := p) (harrives.sameCounts (sameCounts_ite (sameCounts_level _ _))) (ownerKeeps_reqRecv d _ p)

/-- A BARWAIT whose phase is reached is answered at once. -/
theorem perform_barWait_reached {target : BitVec 32} (hop : p.op = .barWait target)
    (hr : (barNum key s.mem 0 4 + 2 ^ 32 - target.toNat) % 2 ^ 32 < 2 ^ 31) :
    s.perform d p key = (((s.unstalled d p).soDone d p).reqRecv d p).answer d p (Memory.getN s.mem key 64) := by
  rw [barNum_eq (by decide), ← phaseReached_iff] at hr
  rw [State.perform_other s d (by simp [hop]) (by simp [hop])]
  unfold State.performAt
  simp only [hop, State.modDie_mem]
  exact if_pos hr

/-- A BARWAIT whose phase is not reached waits, or is refused where 256 wait at its slice (10 R221). -/
theorem perform_barWait_unreached {target : BitVec 32} (hop : p.op = .barWait target)
    (hr : ¬ (barNum key s.mem 0 4 + 2 ^ 32 - target.toNat) % 2 ^ 32 < 2 ^ 31) :
    let v := ((s.unstalled d p).soDone d p).reqRecv d p
    s.perform d p key =
      if ((v.die d).waiters.filter (fun w => sliceOf (w.1 % 2 ^ 39) = sliceOf (key % 2 ^ 39))).length ≥ 256
      then v.emitPkt d (v.replyPkt d p .retry p.stamp.level)
      else v.modDie d (fun x => { x with waiters := x.waiters ++ [(key, p)] }) := by
  rw [barNum_eq (by decide), ← phaseReached_iff] at hr
  rw [State.perform_other s d (by simp [hop]) (by simp [hop])]
  unfold State.performAt
  simp only [hop, State.modDie_mem]
  exact if_neg hr

theorem perform_barWait {target : BitVec 32} (hop : p.op = .barWait target) :
    let reached := (barNum key s.mem 0 4 + 2 ^ 32 - target.toNat) % 2 ^ 32 < 2 ^ 31
    let here := (s.die d).waiters.filter (fun w => sliceOf (w.1 % 2 ^ 39) = sliceOf (key % 2 ^ 39))
    let t := s.perform d p key
    t.mem = s.mem ∧ (reached → p.tile ≠ 4095 → Answers d p t (.data (leBytes 4 (barNum key s.mem 0 4)) false))
      ∧ (¬ reached → here.length < 256 → (t.die d).waiters = (s.die d).waiters ++ [(key, p)])
      ∧ (¬ reached → 256 ≤ here.length → Answers d p t .retry) := by
  have hk : OwnerKeeps d s (((s.unstalled d p).soDone d p).reqRecv d p) :=
    (ownerKeeps_unstalled d s _).trans ((ownerKeeps_soDone d _ p).trans (ownerKeeps_reqRecv d _ p))
  intro reached here t
  by_cases hr : reached
  · have ht : t = _ := perform_barWait_reached hop hr
    refine ⟨?_, fun _ htile => ?_, fun hn => absurd hr hn, fun hn => absurd hr hn⟩
    · rw [ht, (ownerKeeps_answer d _ p _).mem, hk.mem]
    · rw [ht, barNum_eq (by decide)]
      exact (hasAnswer_answer d p _ _).1 htile
  · have ht : t = _ := perform_barWait_unreached hop hr
    rw [hk.waiters] at ht
    by_cases hfull : 256 ≤ here.length
    · rw [if_pos hfull] at ht
      refine ⟨?_, fun h => absurd h hr, fun _ h => absurd hfull (by omega), fun _ _ => ?_⟩
      · rw [ht, (ownerKeeps_emitPkt d _ d _).mem, hk.mem]
      · rw [ht]
        exact answers_emitPkt _ _ d p _ _
    · rw [if_neg hfull] at ht
      refine ⟨?_, fun h => absurd h hr, fun _ _ => ?_, fun _ h => absurd h hfull⟩
      · rw [ht, State.modDie_mem, hk.mem]
      · rw [ht, State.modDie_die_self, hk.waiters]

end

end Sys2Proof.Machine
end

section
open Sys2Proof Sys2Proof.Machine

/-- Settles O48: a request that nothing holds back is performed, and each operation leaves what its `perform_` lemma says. -/
theorem ownerResults : Obligations.OwnerResults := by
  unfold Obligations.OwnerResults
  intro s d p key hat fetched answers loads u num outside answered counted performed
  have hload (v : State) (n : Nat) (inst : Bool) (hop : p.op = .load n inst) := perform_load (s := v) (d := d) (key := key) hop
  refine ⟨fun hev hf => exec_ownerPerform_atSlice hev hat hf, fun hev hf => exec_byteCredit_atSlice hev hat hf,
    fun hev => exec_soHeldPerform_atSlice hev hat, ?_, ?_, ?_, ?_, ?_, ?_⟩
  · -- a TLB miss
    intro hev g hg hlen
    exact ⟨s.fetch d (p.ctx.toNat, g.va, fieldOf g.desc 61 2), exec_tlbMissFill_atSlice hev hat hg, rfl, State.mem_fetch_tlb d _ hlen,
      State.fetch_tlb_length s d _⟩
  · -- a load at once
    intro hev hf n inst hop
    obtain ⟨hmem, hanswer, -⟩ := hload s n inst hop
    exact ⟨_, exec_ownerPerform_atSlice hev hat hf, hmem, trivial, hanswer⟩
  · -- a load after a TLB fill
    intro hev g hg n inst hop
    obtain ⟨hmem, hanswer, -⟩ := hload (s.fetch d (p.ctx.toNat, g.va, fieldOf g.desc 61 2)) n inst hop
    exact ⟨_, exec_tlbMissFill_atSlice hev hat hg, hmem, trivial, hanswer⟩
  · -- a load whose turn in its stream has come
    intro hev n inst hop
    obtain ⟨hmem, hanswer, hnext⟩ := hload s n inst hop
    exact ⟨_, exec_soHeldPerform_atSlice hev hat, hmem, hnext, hanswer⟩
  · intro hev hf
    have hexec := exec_ownerPerform_atSlice hev hat hf
    refine ⟨fun bs hop hposted => ?_, fun op size signed b0 b1 w hop hg => ⟨_, hexec, ?_⟩, fun aExp phase bExp hop => ⟨_, hexec, ?_⟩,
      fun n w hop hg => ⟨_, hexec, ?_⟩, fun target hop => ⟨_, hexec, ?_⟩⟩
    · obtain ⟨v, hv, hstored, hhost⟩ := perform_store (s := s) (d := d) (key := key) hop hposted
      refine ⟨v, by rw [hexec, hv], hstored, hhost, fun hcred hbs => ?_⟩
      exact writeDone_sends_credit hcred (fun h => hbs (List.eq_nil_of_length_eq_zero h)) v d
    · obtain ⟨hstored, hanswer⟩ := perform_atomic (s := s) hop hg
      refine ⟨fun hsize h0 h1 => ?_, hanswer⟩
      rw [atomicNew_eq_atomValue hsize, ← leNat_mod_of_length h0, ← leNat_mod_of_length h1] at hstored
      exact hstored
    · exact perform_barInit hop
    · exact perform_barJoin hop hg
    · exact perform_barWait hop
  · -- a byte credit
    intro hev hf n hop
    exact ⟨_, exec_byteCredit_atSlice hev hat hf, perform_credit hop⟩

end

section
/-! PROOFS. The release of a pending trap (18 R375): what is delivered, and the context that goes on (18 R366). -/

namespace Sys2Proof.Machine

/-! ### What a release delivers -/

section
variable {s : State} {c d k : Nat} {p : Pending} {b : Option Bytes}

theorem State.dropTrap_async (hsync : p.sync = false) : s.dropTrap c d k p b = s.freePending c d k := by
  simp only [State.dropTrap, hsync]

theorem State.dropTrap_nores (hindex : p.index ≠ 10) : s.dropTrap c d k p none = s.freePending c d k := by
  unfold State.dropTrap
  split
  next h _ => exact absurd h hindex
  next h _ => exact absurd h hindex
  next hb _ _ _ => cases hb
  next => rfl

theorem State.dropTrap_delivers {j : Job} {v : Bytes} (hsync : p.sync = true) (hindex : p.index ≠ 10) (hjob : p.job = some j) :
    s.dropTrap c d k p (some v) = (s.freePending c d k).trapDeliver j v := by
  simp [State.dropTrap, hsync, hindex, hjob]

theorem State.dropTrap_watched {a : Access} (hsync : p.sync = true) (hindex : p.index = 10) (hacc : p.acc = some a) :
    s.dropTrap c d k p b = (s.freePending c d k).issueHeld a := by
  simp only [State.dropTrap, hsync, hindex, hacc]

end

/-- An acquiring tag as R424 words it: one sync level up at ORDERED and above, except under `tag=parent`, behind every store so far. -/
theorem State.sawAll_syncUp (s : State) (j : Job) (g : Tag) : s.sawAll (s.syncUp j g) =
    { g with
      level := if 1 ≤ s.level (s.regionCtx j.fi.region) ∧ j.f.tag ≠ 5 then g.level + 1 else g.level
      seen := s.stores } := by
  have hcond : (s.level (s.regionCtx j.fi.region) ≥ 1 && j.f.tag ≠ 5) = true ↔ 1 ≤ s.level (s.regionCtx j.fi.region) ∧ j.f.tag ≠ 5 := by
    simp
  unfold State.sawAll State.syncUp
  rw [if_congr hcond rfl rfl]
  split <;> rfl

/-! ### The context that goes on -/

section
variable {s : State} {c d k : Nat} {p : Pending} {b : Option Bytes}

theorem State.releaseTrap_stays (h : p.stopping = false ∨ (s.dropTrap c d k p b).stopPending c = true) :
    s.releaseTrap c d k p b = s.dropTrap c d k p b := by
  rcases h with h | h <;> simp [State.releaseTrap, h]

theorem State.releaseTrap_goesOn (hstop : p.stopping = true) (hlast : (s.dropTrap c d k p b).stopPending c = false) :
    s.releaseTrap c d k p b = (s.dropTrap c d k p b).goOn c := by
  simp [State.releaseTrap, hstop, hlast]

end

theorem State.retryLatch_of_none {s : State} {t : TileId} (h : (s.tile t).latch = none) : s.retryLatch t = s := by
  simp only [State.retryLatch, h]

@[simp] theorem State.wakeTile_ctx (s : State) (t : TileId) (c : Nat) : (s.wakeTile t).ctx c = s.ctx c := by
  simp only [State.wakeTile, State.due_ctx]

/-- A context as `State.goOn` leaves it before its tiles and sets are looked at. -/
def State.resumed (s : State) (c : Nat) : State :=
  s.modCtx c (fun x => { x with
    st := if x.st = .halted then .running else x.st, brk := [], hangSince := s.cycles, reruns := if x.reruns ≥ 256 then 0 else x.reruns })

/-- The sets that a precise stop kept back on some tiles, delivered. -/
def State.deliverKept (s : State) (ts : List TileId) : State :=
  let kept := s.ready.filter (fun fi => fi.stopped && ts.contains fi.at_)
  kept.foldl (fun s fi => s.deliverSet { fi with stopped := false }) { s with ready := s.ready.filter (fun fi => !kept.contains fi) }

/-- The stages in which a context goes on. -/
theorem State.goOn_eq (s : State) (c : Nat) : s.goOn c =
    let retried := (s.ctxTiles c).foldl (fun s t => s.retryLatch t) (s.resumed c)
    let emitted := (s.ctx c).brk.foldl (fun s q => s.settle q.1 (s.emit2 q.1 .value q.2)) (retried.deliverKept (s.ctxTiles c))
    (s.ctxTiles c).foldl (fun s t => s.wakeTile t) emitted := rfl

theorem State.deliverKept_of_none {s : State} (h : s.ready.any (fun q => q.stopped) = false) (ts : List TileId) : s.deliverKept ts = s := by
  have hkept : s.ready.filter (fun fi => fi.stopped && ts.contains fi.at_) = [] :=
    List.filter_eq_nil_iff.mpr (fun fi hfi hand => List.any_eq_false.mp h fi hfi (Bool.and_eq_true_iff.mp hand).1)
  unfold State.deliverKept
  rw [hkept]
  simp

section
variable {s : State} {c : Nat}

theorem State.retryLatch_foldl_of_none {ts : List TileId} (h : ∀ x ∈ ts, (s.tile x).latch = none) :
    ts.foldl (fun s t => s.retryLatch t) s = s :=
  List.foldlRecOn (motive := (· = s)) _ _ rfl (fun _ hu x hx => hu.symm ▸ State.retryLatch_of_none (h x hx))

/-- With no latched token, no set kept back and no BRK firing, a context that goes on is resumed and its tiles are woken: nothing that could
stop it again is placed or delivered. -/
theorem State.goOn_of_nothing_kept (hlatch : ∀ x ∈ s.ctxTiles c, (s.tile x).latch = none) (hbrk : (s.ctx c).brk = [])
    (hready : s.ready.any (fun q => q.stopped) = false) :
    s.goOn c = (s.ctxTiles c).foldl (fun s t => s.wakeTile t) (s.resumed c) := by
  rw [State.goOn_eq, hbrk, State.retryLatch_foldl_of_none (s := s.resumed c) hlatch]
  dsimp only [List.foldl_nil]
  rw [State.deliverKept_of_none (s := s.resumed c) hready]

theorem State.goOn_running (hst : (s.ctx c).st = .halted) (hlatch : ∀ x ∈ s.ctxTiles c, (s.tile x).latch = none)
    (hbrk : (s.ctx c).brk = []) (hready : s.ready.any (fun q => q.stopped) = false) : ((s.goOn c).ctx c).st = .running := by
  rw [State.goOn_of_nothing_kept hlatch hbrk hready]
  have hwoken := foldl_preserves (f := fun s t => s.wakeTile t) (v := fun s => s.ctx c) (l := s.ctxTiles c)
    (fun u t _ => u.wakeTile_ctx t c) (s.resumed c)
  rw [hwoken, State.resumed, State.modCtx_ctx_self]
  exact if_pos hst

end

end Sys2Proof.Machine

open Sys2Proof Sys2Proof.Machine

/-- Settles O32: the four kinds of release (`State.dropTrap_async`, `_nores`, `_delivers`, `_watched`), and a context with nothing kept back
that runs again (`State.goOn_running`). -/
theorem trapIsReleased : Obligations.TrapIsReleased := by
  unfold Obligations.TrapIsReleased
  intro s c d k p b s1 t
  refine ⟨State.dropTrap_async, ?_, ?_, fun a => State.dropTrap_watched, State.releaseTrap_stays, State.releaseTrap_goesOn, ?_⟩
  · rintro - hindex rfl
    exact State.dropTrap_nores hindex
  · rintro j v hsync hindex rfl hjob lv g ds j'
    have hg : s1.sawAll (s1.syncUp j j.fi.stTag) = g := State.sawAll_syncUp s1 j j.fi.stTag
    calc t = s1.trapDeliver j v := State.dropTrap_delivers hsync hindex hjob
      _ = _ := by rw [← hg]; rfl
  · intro hst hlast hstop hbrk hready
    rw [State.releaseTrap_goesOn hstop hlast]
    by_cases hlatch : ∀ x ∈ t.ctxTiles c, (t.tile x).latch = none
    · exact .inl (State.goOn_running hst hlatch hbrk hready)
    · push Not at hlatch
      exact .inr hlatch

end

section
/-! PROOFS. Commands of a matrix island (12 R249 to R258): the port that a firing sends to, the slots that its command takes, and what each
way of sending comes to. -/

namespace Sys2Proof.Machine

/-! ### The port -/

/-- The port that a channel bound by `b` leads to (12 R249). -/
def State.boundPort (u : State) (j : Job) (b : BitVec 64) : IslPort :=
  let g := u.island j.fi.die (fieldOf b 16 8)
  ⟨j.f.lit.toNat % 8, fieldOf b 16 8, g.rows, g.cols, NMap.getD (u.tile j.fi.at_).chanFree (j.f.lit.toNat % 8) 0⟩

theorem State.islPort_of_bound {u : State} {j : Job} {b : BitVec 64}
    (hb : NMap.find (u.tile j.fi.at_).channels (j.f.lit.toNat % 8) = some b) (hkind : fieldOf b 13 3 = 4) :
    u.islPort j = some (u.boundPort j b) := by
  have hchan : j.f.litBits 0 3 = j.f.lit.toNat % 8 := Fields.litBits_zero j.f 3
  simp only [State.islPort, hchan, hb, hkind, ne_eq, not_true_eq_false, if_false, State.boundPort]

section
variable {f : Fields} {s u : State} (h : Fires f (sregDests f) s u) {q : IslPort} (hq : u.islPort ⟨s.cur, f⟩ = some q)
  {slots : Job → State → Nat} (go : Job → State → IslPort → State)

include h hq

/-- With the slots that its command takes a firing has its effect. -/
theorem fireIsland_goes (hroom : slots ⟨s.cur, f⟩ u ≤ q.free) : fireIsland slots f go s = finished f s (go ⟨s.cur, f⟩ u q) := by
  rw [fireIsland, fire_next h]
  simp only [hq, if_neg (not_lt.mpr hroom)]

/-- Without them its set stands ready. -/
theorem fireIsland_waits (hfull : q.free < slots ⟨s.cur, f⟩ u) : fireIsland slots f go s = finished f s (u.offerAgain s.cur) := by
  rw [fireIsland, fire_next h]
  simp only [hq, if_pos hfull]

end

/-! ### The limits of a descriptor -/

/-- A range of rows that its group has passes the check of a command (12 R255). -/
theorem rangeCheck_passes {g m rows : Nat} (h : 0 < m ∧ g + m ≤ rows) : ¬ (m = 0 || g + m > rows : Bool) = true := by
  simp only [Bool.or_eq_true, decide_eq_true_eq]
  omega

/-- A segment that its group has passes it. -/
theorem placeCheck_passes {g sg rows segs : Nat} (h : g < rows ∧ sg < segs) : ¬ (g ≥ rows || sg ≥ segs : Bool) = true := by
  simp only [Bool.or_eq_true, decide_eq_true_eq]
  omega

/-- A count of rows that a gather may have passes its own (12 R252). -/
theorem countCheck_passes {n limit : Nat} (h : 0 < n ∧ n ≤ limit) : ¬ (n = 0 || n > limit : Bool) = true := by
  simp only [Bool.or_eq_true, decide_eq_true_eq]
  omega

/-- Scales within the depth of the channel's last weights pass theirs (12 R254). -/
theorem scaleCheck_passes {a n limit : Nat} (h : 0 < n ∧ n ≤ 128 ∧ a + n ≤ limit) :
    ¬ (n = 0 || n > 128 || a + n > limit : Bool) = true := by
  simp only [Bool.or_eq_true, decide_eq_true_eq]
  omega

/-- A B tile within the depth and the columns of its group passes that of a load (12 R251). -/
theorem depthCheck_passes {kb deep nb wide : Nat} (h : 0 < kb ∧ kb ≤ deep ∧ 0 < nb ∧ nb ≤ wide) :
    ¬ (kb = 0 || kb > deep || nb = 0 || nb > wide : Bool) = true := by
  simp only [Bool.or_eq_true, decide_eq_true_eq]
  omega

/-! ### Rows -/

/-- The rows that follow the first are left to be read (12 R252). -/
def State.leaveRows (s : State) (d lead id : Nat) (later : List (Nat × Nat)) : State :=
  if later = [] then s
  else s.modIsland d lead (fun y => { y with
    cmds := y.cmds.map (fun c => if c.id = id then { c with todo := later, ready := false } else c) })

/-- Rows that the group has and the scratchpad holds are sent: the first is read at once, the others in the cycles that follow. -/
theorem State.sendRows_within {s : State} {j : Job} {q : IslPort} {rs : List (Nat × Nat)} {sparse : Bool}
    (h : ∀ x ∈ rs, x.2 < 256 * q.rows ∧ x.1 + rowLen j.f.tyT sparse ≤ spadBytes) :
    s.sendRows j q rs sparse =
      ((s.sendNow j q 1 rs.length (.rows ((rs.take 1).map (fun x =>
          (x.2, (s.tile j.fi.at_).spadRead j.fi.inst x.1 (rowLen j.f.tyT sparse)))) j.f.tyT sparse)).leaveRows
        j.fi.die q.lead s.nextId ((rs.drop 1).map (fun x => (x.2, x.1)))).returnTok j j.fi.stTag [] := by
  have hrows : rs.find? (fun r => r.2 ≥ 256 * q.rows) = none := by
    simpa using fun x o hx => (h (x, o) hx).1
  have hspad : rs.find? (fun r => r.1 + rowLen j.f.tyT sparse > spadBytes) = none := by
    simpa using fun x o hx => (h (x, o) hx).2
  simp only [State.sendRows, hrows, hspad, State.leaveRows, List.isEmpty_iff]

/-! ### Transfers -/

theorem sumN_eq_sum (l : List Nat) : sumN l = l.sum := by rw [sumN, List.sum_eq_foldl]

/-- Which bank a channel's last weights were for (12 R254). -/
def Tile.markSparse (x : Tile) (chan : Nat) (sparse : Bool) : Tile :=
  { x with chanSparse := if sparse then chan :: x.chanSparse.filter (· ≠ chan) else x.chanSparse.filter (· ≠ chan) }

/-- A transfer whose ranges are allowed takes a free reply slot, and its command waits in the port for the data (12 R251). -/
theorem State.sendLoad_issues {s : State} {j : Job} {q : IslPort} {major minor slot : Nat} {loads rs : List (Nat × Nat)} {op : IslOp}
    {sparse : Bool} {l : Launch} (hl : s.launchOf j.fi = some l) (hrs : loads.filter (fun r => r.2 ≠ 0) = rs)
    (hslot : (s.tile j.fi.at_).freeSlot = some slot) (hne : rs ≠ []) (hpos : ∀ x ∈ rs, 0 < x.2)
    (hden : ∀ x ∈ rs, firstDenied l false x.1 x.2 = none) (hown : ∀ x ∈ rs, ∀ y ∈ rs, x.1 / 2 ^ 51 = y.1 / 2 ^ 51) :
    s.sendLoad j q major minor loads op sparse =
      ((s.issueSlot { job := j, major := major, minor := minor, loads := rs, size := (rs.map (·.2)).sum } (.weights q.lead) slot).modTile
        j.fi.at_ (fun x => x.markSparse q.chan sparse)).sendCmd j q 0 1 op s.nextId false := by
  have hsum : (rs.map (·.2)).sum ≠ 0 :=
    (List.sum_pos _ (List.forall_mem_map.mpr hpos) (List.map_eq_nil_iff.not.mpr hne)).ne'
  simp only [State.sendLoad, hl, hrs, firstDeniedOf_none hden hown, hslot, sumN_eq_sum, if_neg hsum]
  rfl

/-- Of the two ranges of a B tile the one of its scales is left out where it has none. -/
theorem filter_loads (a el b sc : Nat) (hpos : ∀ x ∈ (if sc = 0 then [(a, el)] else [(a, el), (b, sc)]), 0 < x.2) :
    [(a, el), (b, sc)].filter (fun r => r.2 ≠ 0) = if sc = 0 then [(a, el)] else [(a, el), (b, sc)] := by
  have hel : el ≠ 0 := (hpos (a, el) (by split <;> exact List.mem_cons_self)).ne'
  by_cases hsc : sc = 0 <;> simp [hel, hsc]

end Sys2Proof.Machine

open Sys2Proof Sys2Proof.Machine

/-- Settles O43: a firing with the slots of its command has its effect and one without them stands ready (`fireIsland_goes`,
`fireIsland_waits`); within the limits of its descriptor it sends its rows (`State.sendRows_within`), issues its transfer
(`State.sendLoad_issues`), or sends its command as it stands. -/
theorem islandCommandsAreSent : Obligations.IslandCommandsAreSent := by
  intro f s u r b h hr hb hkind t j lead g free q d n2 put sent send rows load loadB sg vals range place
  have hq : u.islPort j = some q := State.islPort_of_bound hb hkind
  have hlaunch : u.launchOf j.fi = some r.launch := State.launchOf_of_region hr
  have hn2 (o : Nat) : numAt d o 2 = n2 o := (leNat_sliceB d o 2).symm
  have hgoes (i : Instr) (slots : Job → State → Nat) (go : Job → State → IslPort → State) (v : State)
      (hi : exec i s = .next (fireIsland slots f go s)) (hroom : slots j u ≤ free) (hgo : go j u q = v) : exec i s = put v := by
    rw [hi, fireIsland_goes h hq go hroom, hgo]
  have hsend (i : Instr) (ok : Prop) (port : Nat) (op : IslOp) (go : Job → State → IslPort → State)
      (hi : exec i s = .next (fireIsland (fun _ _ => 1) f go s)) (hgo : ok → go j u q = u.sendNow j q port 1 op) :
      send i ok port 1 op := by
    refine ⟨fun hroom hok => hgoes i _ go _ hi hroom (hgo hok), fun hfull => ?waits⟩
    case waits => rw [hi, fireIsland_waits h hq go hfull]
  have hrows (i : Instr) (sparse : Bool) (rs : List (Nat × Nat)) (slots : Job → State → Nat) (go : Job → State → IslPort → State)
      (hi : exec i s = .next (fireIsland slots f go s)) (hslots : 0 < rs.length → slots j u = rs.length)
      (hgo : 0 < rs.length → go j u q = u.sendRows j q rs sparse) : rows i sparse rs := by
    intro hroom hin hne
    have hlen : 0 < rs.length := List.length_pos_iff.mpr hne
    exact hgoes i slots go _ hi ((hslots hlen).trans_le hroom) ((hgo hlen).trans (State.sendRows_within hin))
  have hload (i : Instr) (major minor : Nat) (sparse : Bool) (all loads : List (Nat × Nat)) (op : IslOp) (ok : Prop)
      (go : Job → State → IslPort → State) (hi : exec i s = .next (fireIsland (fun _ _ => 1) f go s))
      (hall : (∀ x ∈ loads, 0 < x.2) → all.filter (fun r => r.2 ≠ 0) = loads)
      (hgo : ok → go j u q = u.sendLoad j q major minor all op sparse) : load i major minor sparse loads op ok := by
    intro slot hroom hok hslot hne hpos hden hown
    exact hgoes i _ go _ hi hroom ((hgo hok).trans (State.sendLoad_issues hlaunch (hall hpos) hslot hne hpos hden hown))
  have h8 (o : Nat) : numAt d o 8 = leNat (sliceB d o 8) := (leNat_sliceB d o 8).symm
  have hloadB (i : Instr) (major : Nat) (sparse : Bool) (hi : exec i s = .next (fireLoadB major sparse f s)) : loadB i major sparse := by
    refine hload i major 0 sparse _ _ _ _ _ hi (filter_loads _ _ _ _) fun hok => ?_
    rw [← hn2, ← hn2] at hok
    refine (if_neg (depthCheck_passes hok)).trans ?_
    simp only [← hn2, ← h8]
    rfl
  have hrow (i : Instr) (sparse : Bool) (hi : exec i s = .next (fireIsland (fun _ _ => 1) f (fun j s q =>
      s.sendRows j q [(numAt (descA s j) 0 4, numAt (descA s j) 4 2)] sparse) s)) : rows i sparse [(leNat (sliceB d 0 4), n2 4)] := by
    rw [leNat_sliceB, ← hn2]
    exact hrows i sparse _ _ _ hi (fun _ => rfl) (fun _ => rfl)
  have hrange (i : Instr) (op : Job → State → Bytes → IslOp) (o : IslOp) (hi : exec i s = .next (fireAcc f false op s))
      (ho : op j u d = o) : send i range 2 1 o :=
    hsend i range 2 o _ hi fun hok => by
      simp only [range, ← hn2] at hok
      rw [← ho]
      exact if_neg (rangeCheck_passes hok)
  have hplace (i : Instr) (op : Job → State → Bytes → IslOp) (o : IslOp) (hi : exec i s = .next (fireAcc f true op s))
      (ho : op j u d = o) : send i place 2 1 o :=
    hsend i place 2 o _ hi fun hok => by
      simp only [place, ← hn2] at hok
      rw [← ho]
      exact if_neg (placeCheck_passes hok)
  refine ⟨hrow _ false rfl, hrow _ true rfl, ?mgat, ?mscale, ?mend, hsend _ _ 1 _ _ rfl (fun _ => rfl),
    hrange (.maccAcinit f) _ _ rfl ?init, hrange (.maccAcsave f) _ _ rfl ?save, hplace (.maccAcadd f) _ _ rfl ?add,
    hplace (.maccAcread f) _ _ rfl ?read, hplace (.maccAcload f) _ _ rfl ?put, hloadB (.mmaMldb f) 0x1B false rfl,
    hloadB (.msparseMsldb f) 0x1D true rfl, ?msmeta⟩
  case mgat =>
    intro hcount
    refine hrows _ false _ _ _ rfl (fun hpos => ?_) (fun hpos => (if_neg ?_).trans ?_)
    · rw [List.length_map, List.length_range] at hpos ⊢
      exact (if_neg (not_lt.mpr hcount)).trans (max_eq_right hpos)
    · rw [List.length_map, List.length_range] at hpos
      exact countCheck_passes ⟨hpos, hcount⟩
    · simp only [leNat_sliceB, ← hn2]
      rfl
  case mscale =>
    intro kp n
    refine hsend _ _ 0 _ _ rfl fun hok => ?_
    rw [← hn2] at hok ⊢
    exact if_neg (scaleCheck_passes hok)
  case mend =>
    refine hsend _ _ 1 _ _ rfl fun hok => ?_
    simp only [range, ← hn2] at hok ⊢
    exact if_neg (rangeCheck_passes hok)
  case msmeta =>
    intro m
    refine hload _ 0x1D 1 true _ _ _ _ _ rfl (fun hpos => List.filter_eq_self.mpr fun x hx => decide_eq_true (hpos x hx).ne') fun _ => ?_
    rw [← h8]
    rfl
  case init => rw [hn2, hn2]
  case save => rw [hn2, hn2]
  case add => rw [hn2]; rfl
  case read => rw [hn2]
  case put => rw [hn2, hn2]; rfl

end

section
/-! PROOFS. An island that is its own group (12 R245, R246): what folds over a group come to, and what the updates of an island leave. -/

namespace Sys2Proof.Machine

/-! ### Islands -/

/-- What an update of an island leaves of it, it leaves of every island. -/
theorem State.modIsland_island_field {β : Type} (v : Island → β) (s : State) (d k e n : Nat) {g : Island → Island}
    (hg : ∀ x, v (g x) = v x) : v ((s.modIsland d k g).island e n) = v (s.island e n) := by
  by_cases h : islKey e n = islKey d k
  · have hsame (t : State) : t.island e n = t.island d k := by rw [State.island, State.island, h]
    rw [hsame, hsame, State.modIsland_island_self, hg]
  · rw [State.modIsland_island_ne s d k e n g h]

section
variable (s : State) (d k bit flag : Nat)

@[simp] theorem State.islandNote_island_self :
    (s.islandNote d k bit flag).island d k = { s.island d k with stat := withBit (s.island d k).stat bit } := by
  simp [State.islandNote]

@[simp] theorem State.islandNote_mem : (s.islandNote d k bit flag).mem = s.mem := rfl

@[simp] theorem State.islandNote_tile (t : TileId) : (s.islandNote d k bit flag).tile t = s.tile t := rfl

end

/-- The event that goes on with a list is due while the list holds more. -/
def State.dueWhile {α : Type} (s : State) (rest : List α) (e : Event) : State := if rest.isEmpty then s else s.due e

section
variable {α : Type} (s : State) (rest : List α) (e : Event)

@[simp] theorem State.dueWhile_island (d k : Nat) : (s.dueWhile rest e).island d k = s.island d k := by
  cases rest <;> simp [State.dueWhile]

@[simp] theorem State.dueWhile_mem : (s.dueWhile rest e).mem = s.mem := by
  cases rest <;> simp [State.dueWhile]

theorem State.agenda_subset_dueWhile : s.agenda ⊆ (s.dueWhile rest e).agenda := by
  cases rest
  · exact List.Subset.refl _
  · exact State.agenda_subset_due s e

theorem State.dueWhile_cases : s.dueWhile rest e = s ∨ s.dueWhile rest e = s.due e := by
  cases rest
  · exact .inl rfl
  · exact .inr rfl

end

/-! ### A group of one -/

@[simp] theorem State.member_origin (s : State) (d lead : Nat) : s.member d lead (0, 0) = lead := by
  simp [State.member]

/-- An island is its own group. -/
structure Island.Alone (x : Island) : Prop where
  rows : x.rows = 1
  cols : x.cols = 1

section
variable {s : State} {d k : Nat} (h : (s.island d k).Alone)
include h

theorem State.groupOf_alone : s.groupOf d k = [(0, 0)] := by
  rw [State.groupOf, h.rows, h.cols]
  rfl

/-- It holds every row of a range that begins below 256. -/
theorem State.rowBlocks_alone {g0 m : Nat} (hlo : 0 < g0 + m) (hhi : g0 < 256) : s.rowBlocks d k g0 m = [(0, 0)] := by
  simp [State.rowBlocks, State.groupOf_alone h, hlo, hhi]

/-- It holds every segment of such a row. -/
theorem State.segBlocks_alone {g0 sg : Nat} (hg : g0 < 256) (hsg : sg < 8) :
    (s.rowBlocks d k g0 1).filter (fun p => p.2 = sg / 8) = [(0, 0)] := by
  have hcol : 0 = sg / 8 := (Nat.div_eq_of_lt hsg).symm
  simp [State.rowBlocks_alone h (m := 1) g0.succ_pos hg, ← hcol]

end

/-- Whether a MEND finds room depends on the extent of its group and the pending ends alone (12 R256). -/
theorem State.endRoom_modIsland (s : State) (d lead e n : Nat) (c : IslCmd) {g : Island → Island}
    (hg : ∀ x, (g x).rows = x.rows ∧ (g x).cols = x.cols ∧ (g x).pend = x.pend) :
    (s.modIsland e n g).endRoom d lead c = s.endRoom d lead c := by
  have hrows (i m : Nat) := State.modIsland_island_field Island.rows s e n i m (fun x => (hg x).1)
  have hcols (i m : Nat) := State.modIsland_island_field Island.cols s e n i m (fun x => (hg x).2.1)
  have hpend (i m : Nat) := State.modIsland_island_field Island.pend s e n i m (fun x => (hg x).2.2)
  have hblocks (g0 m : Nat) : (s.modIsland e n g).rowBlocks d lead g0 m = s.rowBlocks d lead g0 m := by
    simp only [State.rowBlocks, State.groupOf, hrows, hcols]
  have hmember (p : Nat × Nat) : (s.modIsland e n g).member d lead p = s.member d lead p := by
    simp only [State.member, hcols]
  unfold State.endRoom
  cases c.op with
  | mend g0 m _ =>
    dsimp only
    rw [hblocks]
    exact congrArg _ (funext fun p => by rw [hmember, hpend])
  | _ => rfl

/-- An island without updates on the way has none to land. -/
theorem State.landAll_of_idle {s : State} {d k : Nat} (h : (s.island d k).flight = []) : s.landAll d k = s := by
  rw [State.landAll, h]
  rfl

/-- An island without pending ends has none to test. -/
theorem State.testEnds_of_idle {s : State} {d lead : Nat} {p : Nat × Nat} (h : (s.island d (s.member d lead p)).pend = []) :
    s.testEnds d lead p = s := by
  simp only [State.testEnds, h, List.foldl_nil]

end Sys2Proof.Machine
end

section
/-! PROOFS. The entry of an island of one (12 R247, R248): the one command that may enter is taken in, or stands held by the ramp limiter. -/

namespace Sys2Proof.Machine

/-! ### The command that enters -/

theorem arrivedOf_singleton (n : Nat) (c : IslCmd) : arrivedOf n [c] = [c] := by
  cases hc : c.here <;> cases hn : n.testBit 0 <;> simp [arrivedOf, hc, hn, Nat.mod_one]

theorem nextEntry_singleton (n : Nat) (c : IslCmd) : nextEntry n [c] = some c := by
  simp [nextEntry, arrivedOf_singleton, Nat.mod_one]

/-- A command has reached the entry of its group (12 R247). -/
def State.reached (s : State) (d lead : Nat) (c : IslCmd) : State :=
  s.modIsland d lead (fun x => { x with cmds := x.cmds.map (fun q => if q.id = c.id then { q with here := true } else q) })

theorem State.endRoom_reached (s : State) (d lead : Nat) (c : IslCmd) : (s.reached d lead c).endRoom d lead c = s.endRoom d lead c := by
  unfold State.reached
  exact State.endRoom_modIsland s d lead d lead c fun _ => ⟨rfl, rfl, rfl⟩

/-- Its entry cycles are counted in the ramp limiter's window (20 R412). -/
def State.charged (s : State) (d lead : Nat) (c : IslCmd) : State :=
  s.modDie d (fun x => { x with ramp := { x.ramp with count := x.ramp.count + c.op.cycles * s.cmdIslands d lead c } })

/-- It waits for the ramp limiter's next window, in which it is the next to enter (12 R260). -/
def State.rampHolds (s : State) (d lead : Nat) (c : IslCmd) : State :=
  (((s.groupOf d lead).foldl (fun s p => s.modIsland d (s.member d lead p) (fun x => { x with rampHeld := true })) s).modIsland d lead
    (fun x => { x with lock := some c.id })).modDie d (fun x => { x with ramp := { x.ramp with held := true } })

/-- It leaves its port as it enters. -/
def State.taken (s : State) (d lead : Nat) (c : IslCmd) : State := ((s.reached d lead c).charged d lead c).leavePort d lead c

/-- What a command that has reached the entry does there: a row of a gather leaves the others behind it (12 R252). -/
def State.opEnter (s : State) (d lead : Nat) (c : IslCmd) : State :=
  match c.op with
  | .rows ((g, a) :: rs) ty sparse =>
    let s := s.rowEnter d lead g a ty sparse
    if rs.isEmpty then (s.leavePort d lead c).cmdDone c.job
    else
      let s := s.modTile ⟨d, c.tile⟩ (fun x => { x with chanFree := NMap.alter x.chanFree c.chan (· + 1) })
      s.modIsland d lead (fun x => { x with
        lock := some c.id, cmds := x.cmds.map (fun q => if q.id = c.id then { q with op := .rows rs ty sparse } else q) })
  | _ => (s.leavePort d lead c).cmdEnter d lead c

theorem State.opEnter_row {s : State} {d lead g : Nat} {c : IslCmd} {a : Bytes} {ty : Ty} {sparse : Bool}
    (hop : c.op = .rows [(g, a)] ty sparse) :
    s.opEnter d lead c = ((s.rowEnter d lead g a ty sparse).leavePort d lead c).cmdDone c.job := by
  rw [State.opEnter, hop]
  rfl

theorem State.opEnter_command {s : State} {d lead : Nat} {c : IslCmd} (hop : ∀ rs ty sparse, c.op ≠ .rows rs ty sparse) :
    s.opEnter d lead c = (s.leavePort d lead c).cmdEnter d lead c := by
  unfold State.opEnter
  split
  next h => exact absurd h (hop _ _ _)
  next => rfl

/-- The entry goes on with the commands that are left. -/
def State.dueNext (s : State) (d lead : Nat) : State := s.dueWhile (s.island d lead).cmds (.islandCommandEntry d lead)

section
variable {s : State} {d k : Nat} {c : IslCmd} (hev : s.ev = .islandCommandEntry d k) (hmay : s.mayEnter d k = [c])
  (hroom : s.endRoom d k c = true)
include hev hmay hroom

/-- The one command that may enter is held where the window of the ramp limiter is full, and else taken in (12 R247, R260). -/
theorem exec_islandCommandEntry_single : exec .islandCommandEntry s = .next (if (s.die d).ramp.limit ≤ (s.die d).ramp.count
    then (s.reached d k c).rampHolds d k c else (((s.reached d k c).charged d k c).opEnter d k c).dueNext d k) := by
  change execIslandCommandEntry s = _
  simp only [execIslandCommandEntry, hev, State.islandStep, hmay, arrivedOf_singleton, nextEntry_singleton, List.map_cons, List.map_nil,
    List.contains_cons, List.contains_nil, Bool.or_false, beq_iff_eq]
  change Host.Outcome.next (if !(s.reached d k c).endRoom d k c then _ else _) = _
  rw [State.endRoom_reached, hroom]
  rfl

end

/-! ### A command that is held -/

section
variable {s : State} {d k : Nat} (c : IslCmd)

@[simp] theorem State.reached_island_self : (s.reached d k c).island d k = { s.island d k with
    cmds := (s.island d k).cmds.map (fun q => if q.id = c.id then { q with here := true } else q) } :=
  State.modIsland_island_self s d k _

/-- The islands of the group, the lead and the die note it; no accumulator and no memory changes. -/
theorem State.rampHolds_alone (h : (s.island d k).Alone) :
    (s.rampHolds d k c).island d k = { s.island d k with rampHeld := true, lock := some c.id }
    ∧ ((s.rampHolds d k c).die d).ramp.held = true ∧ (s.rampHolds d k c).mem = s.mem := by
  rw [State.rampHolds, State.groupOf_alone h]
  simp

end

/-! ### A command that is taken -/

section
variable {s : State} {d k : Nat} {c : IslCmd}

/-- A command has left its port with a slot given back to its channel (12 R244); memory is as it was. -/
structure State.Took (s : State) (d k : Nat) (c : IslCmd) (v : State) : Prop where
  cmds : (v.island d k).cmds
    = removeFirst (fun q => q.id = c.id) ((s.island d k).cmds.map (fun q => if q.id = c.id then { q with here := true } else q))
  slot : ∀ n, NMap.find (s.tile ⟨d, c.tile⟩).chanFree c.chan = some n → NMap.find (v.tile ⟨d, c.tile⟩).chanFree c.chan = some (n + 1)
  mem : v.mem = s.mem

theorem State.Took.leavePort {u : State} (hcmds : (u.island d k).cmds = ((s.reached d k c).island d k).cmds)
    (htile : u.tile ⟨d, c.tile⟩ = s.tile ⟨d, c.tile⟩) (hmem : u.mem = s.mem) : s.Took d k c (u.leavePort d k c) where
  cmds := by simp [State.leavePort, hcmds]
  slot n hn := by simp [State.leavePort, htile, NMap.alter, hn]
  mem := hmem

theorem State.Took.modIsland {v : State} (h : s.Took d k c v) {g : Island → Island} (hg : ∀ x, (g x).cmds = x.cmds) :
    s.Took d k c (v.modIsland d k g) where
  cmds := by rw [State.modIsland_island_self, hg, h.cmds]
  slot := h.slot
  mem := h.mem

theorem State.took_taken : s.Took d k c (s.taken d k c) := .leavePort rfl rfl rfl

theorem State.leavePort_island (s : State) (d lead : Nat) (c : IslCmd) : (s.leavePort d lead c).island d lead =
    { s.island d lead with cmds := removeFirst (fun q => q.id = c.id) (s.island d lead).cmds, lock := none, blocked := none } := by
  simp [State.leavePort]

/-- Its entry leaves of its island all but the commands and what they wait for. -/
theorem State.taken_island : (s.taken d k c).island d k =
    { s.island d k with cmds := ((s.taken d k c).island d k).cmds, lock := none, blocked := none } := by
  rw [State.taken, State.leavePort_island]
  simp [State.charged]

end

end Sys2Proof.Machine
end

section
/-! PROOFS. What a command does at an island of one with nothing on its way and no pending end (12 R251 to R258). -/

namespace Sys2Proof.Machine

/-! ### Maps and segments -/

theorem NMap.mem_of_find {α : Type} {m : NMap α} {n : Nat} {v : α} (h : NMap.find m n = some v) : (n, v) ∈ m := by
  induction m with
  | nil => cases h
  | cons p m ih =>
    obtain ⟨k, w⟩ := p
    rw [NMap.find] at h
    split at h
    next hk =>
      cases h
      exact hk ▸ List.mem_cons_self
    next =>
      split at h
      · cases h
      · exact List.mem_cons_of_mem _ (ih h)

/-- An entry of a map whose keys were filtered has a key that the filter keeps. -/
theorem NMap.key_of_find_filter {α : Type} {m : NMap α} {p : Nat → Bool} {n : Nat}
    (h : (NMap.find (m.filter (fun q => p q.1)) n).isSome = true) : p n = true := by
  obtain ⟨v, hv⟩ := Option.isSome_iff_exists.mp h
  exact (List.mem_filter.mp (NMap.mem_of_find hv)).2

/-- The rows of a range cleared, with their counts (12 R255). -/
def Island.clearRows (x : Island) (g0 m : Nat) : Island :=
  { x with
    acc := x.acc.filter (fun q => !(g0 ≤ q.1 && q.1 < g0 + m))
    count := x.count.filter (fun q => !(g0 ≤ q.1 && q.1 < g0 + m)) }

theorem Island.clearRows_cleared {x : Island} {g0 m r : Nat} (h : (NMap.find (x.clearRows g0 m).acc r).isSome = true) :
    ¬ (g0 ≤ r ∧ r < g0 + m) := by
  simpa [imp_iff_not_or] using NMap.key_of_find_filter (p := fun r => !(g0 ≤ r && r < g0 + m)) h

/-- Each value of a segment of a row replaced by what `put` makes of it and its place there, and the row's count raised by `n`
(12 R255). -/
def Island.changeSegment (x : Island) (g sg n : Nat) (put : Nat → Nat → Nat) : Island :=
  { x with
    acc := NMap.put x.acc g ((x.row g).zipIdx.map (fun q =>
      if 32 * sg ≤ q.2 && q.2 < 32 * sg + 32 then put q.1 (q.2 - 32 * sg) else q.1))
    count := NMap.put x.count g (min 0xFFFF (x.cnt g + n)) }

section
variable (x : Island) (g sg n : Nat) (put : Nat → Nat → Nat)

theorem Island.changeSegment_cnt : (x.changeSegment g sg n put).cnt g = min 0xFFFF (x.cnt g + n) := NMap.getD_put_self _ _ _ _

theorem Island.changeSegment_row (hlen : (x.row g).length = 256) {i : Nat} (hi : i < 256) :
    ((x.changeSegment g sg n put).row g)[i]? = some (if 32 * sg ≤ i ∧ i < 32 * sg + 32
      then put ((x.row g).getD i 0) (i - 32 * sg) else (x.row g).getD i 0) := by
  have hrow : (x.changeSegment g sg n put).row g = (x.row g).zipIdx.map (fun q =>
      if 32 * sg ≤ q.2 && q.2 < 32 * sg + 32 then put q.1 (q.2 - 32 * sg) else q.1) := NMap.getD_put_self _ _ _ _
  have hget : (x.row g)[i]? = some ((x.row g).getD i 0) := by
    rw [List.getD_eq_getElem?_getD, List.getElem?_eq_getElem (hlen ▸ hi)]
    rfl
  rw [hrow, List.getElem?_map, List.getElem?_zipIdx, hget]
  simp

end

/-! ### Effects -/

/-- An island with no update on its way and no pending end. -/
structure Island.Idle (x : Island) : Prop extends x.Alone where
  flight : x.flight = []
  pend : x.pend = []

section
variable {s : State} {d k : Nat} {c : IslCmd}

theorem State.taken_idle (h : (s.island d k).Idle) : ((s.taken d k c).island d k).Idle := by
  rw [State.taken_island]
  exact ⟨⟨h.rows, h.cols⟩, h.flight, h.pend⟩

theorem State.taken_row : ((s.taken d k c).island d k).row = (s.island d k).row := by
  rw [State.taken_island]
  rfl

theorem State.taken_cnt : ((s.taken d k c).island d k).cnt = (s.island d k).cnt := by
  rw [State.taken_island]
  rfl

end

theorem State.testEnds_modIsland {w : State} {d k : Nat} {g : Island → Island} (h : (g (w.island d k)).pend = []) :
    (w.modIsland d k g).testEnds d k (0, 0) = w.modIsland d k g := by
  refine State.testEnds_of_idle ?_
  rw [State.member_origin, State.modIsland_island_self, h]

section
variable {w : State} {d k : Nat} {c : IslCmd} (h : (w.island d k).Idle)
include h

/-- MLDB: its bank becomes the active one (12 R248, R251). -/
theorem State.cmdEnter_load {ty : Ty} {kp kb nb nEl : Nat} (hop : c.op = .load ty false kp kb nb nEl) :
    w.cmdEnter d k c = ((w.modIsland d k (fun x => { x with active := loadedBank ty false kp kb nEl c.data 0, loading := {} })).modIsland d k
      (fun x => { x with busy := false })).weightsDone c := by
  simp only [State.cmdEnter, hop, State.groupOf_alone h.toAlone, List.foldl_cons, List.foldl_nil, State.member_origin, Bool.false_eq_true,
    if_false, Island.switch]

/-- ACINIT clears its rows (12 R255). -/
theorem State.cmdEnter_init {g0 m : Nat} (hop : c.op = .init g0 m) (hg : g0 < 256) (hm : 0 < m) :
    w.cmdEnter d k c = ((w.modIsland d k (fun x => x.clearRows g0 m)).returnTok c.job c.job.fi.stTag []).cmdDone c.job := by
  simp only [State.cmdEnter, hop, State.rowBlocks_alone h.toAlone (Nat.add_pos_right g0 hm) hg, List.foldl_cons, List.foldl_nil,
    State.member_origin, State.landAll_of_idle h.flight, Nat.zero_mul, Nat.zero_add]
  rw [State.testEnds_modIsland (by exact h.pend)]
  rfl

variable {g0 sg : Nat} (hg : g0 < 256) (hsg : sg < 8)
include hg hsg

/-- ACADD adds to a segment (12 R255). -/
theorem State.cmdEnter_add {b : Bytes} (hop : c.op = .add g0 sg b) :
    w.cmdEnter d k c = ((w.modIsland d k (fun x => x.changeSegment g0 sg 1 (fun v i => addF32 v (numAt b (4 * i) 4)))).returnTok c.job
      c.job.fi.stTag []).cmdDone c.job := by
  simp only [State.cmdEnter, hop, State.segBlocks_alone h.toAlone hg hsg, List.foldl_cons, List.foldl_nil, State.member_origin,
    State.landAll_of_idle h.flight, Nat.mod_eq_of_lt hg, Nat.mod_eq_of_lt hsg]
  rw [State.testEnds_modIsland (by exact h.pend)]
  rfl

/-- ACLOAD replaces it (12 R255). -/
theorem State.cmdEnter_put {n : Nat} {b : Bytes} (hop : c.op = .put g0 sg n b) :
    w.cmdEnter d k c = ((w.modIsland d k (fun x => x.changeSegment g0 sg n (fun _ i => numAt b (4 * i) 4))).returnTok c.job
      c.job.fi.stTag []).cmdDone c.job := by
  simp only [State.cmdEnter, hop, State.segBlocks_alone h.toAlone hg hsg, List.foldl_cons, List.foldl_nil, State.member_origin,
    State.landAll_of_idle h.flight, Nat.mod_eq_of_lt hg, Nat.mod_eq_of_lt hsg]
  rw [State.testEnds_modIsland (by exact h.pend)]
  rfl

/-- ACREAD returns it (12 R255). -/
theorem State.cmdEnter_read (hop : c.op = .read g0 sg) :
    w.cmdEnter d k c = (w.returnTok c.job c.job.fi.stTag ((w.island d k).segment g0 sg)).cmdDone c.job := by
  simp only [State.cmdEnter, hop, State.segBlocks_alone h.toAlone hg hsg, List.foldl_cons, List.foldl_nil, State.member_origin,
    State.landAll_of_idle h.flight, Nat.mod_eq_of_lt hg, Nat.mod_eq_of_lt hsg, List.head?_cons, Option.map_some, Option.getD_some]

end

/-! ### A row -/

/-- A row's update joins the flight, and the sticky count of rows goes up (12 R253). -/
def Island.takeRow (x : Island) (u : RowUpd) : Island :=
  { x with flight := x.flight ++ [u], stat := withField x.stat 16 16 (fieldOf x.stat 16 16 + 1) }

/-- Whether a bank holds weights for the rows of a type. -/
def Bank.fits (b : Bank) (ty : Ty) (sparse : Bool) : Bool := b.ty ≠ .none && b.ty = ty && b.sparse = sparse

/-- The update that a row makes: of a row that does not fit the bank nothing is added (12 R253). -/
def Bank.update (b : Bank) (g : Nat) (a : Bytes) (ty : Ty) (sparse : Bool) : RowUpd :=
  ⟨g, if b.fits ty sparse then rowTerms b a sparse else []⟩

section
variable {w : State} {d k g : Nat} (h : (w.island d k).Alone) (hg : g < 256) (a : Bytes) (ty : Ty) (sparse : Bool)
include h hg

theorem State.rowEnter_alone : w.rowEnter d k g a ty sparse =
    ((if (w.island d k).active.fits ty sparse then w else w.islandNote d k 2 7).modIsland d k
      (fun x => x.takeRow ((w.island d k).active.update g a ty sparse))).due (.rowUpdateLand d k) := by
  simp only [State.rowEnter, State.rowBlocks_alone h (m := 1) g.succ_pos hg, List.foldl_cons, List.foldl_nil, State.member_origin,
    Nat.mod_eq_of_lt hg]
  rfl

theorem State.rowEnter_due : .rowUpdateLand d k ∈ (w.rowEnter d k g a ty sparse).agenda := by
  rw [State.rowEnter_alone h hg]
  exact State.mem_due _ _

theorem State.rowEnter_tile (t : TileId) : (w.rowEnter d k g a ty sparse).tile t = w.tile t := by
  rw [State.rowEnter_alone h hg]
  split <;> simp

theorem State.rowEnter_mem : (w.rowEnter d k g a ty sparse).mem = w.mem := by
  rw [State.rowEnter_alone h hg]
  split <;> simp

theorem State.rowEnter_island : ∃ x : Island, (w.rowEnter d k g a ty sparse).island d k = x.takeRow ((w.island d k).active.update g a ty sparse)
    ∧ x.flight = (w.island d k).flight ∧ x.cmds = (w.island d k).cmds ∧ fieldOf x.stat 16 16 = fieldOf (w.island d k).stat 16 16 := by
  rw [State.rowEnter_alone h hg]
  split
  · exact ⟨w.island d k, by simp, rfl, rfl, rfl⟩
  · exact ⟨{ w.island d k with stat := withBit (w.island d k).stat 2 }, by simp, rfl, rfl, fieldOf_withBit _ (by decide)⟩

end

theorem Island.takeRow_stat (x : Island) (u : RowUpd) : fieldOf (x.takeRow u).stat 16 16 = (fieldOf x.stat 16 16 + 1) % 2 ^ 16 :=
  fieldOf_withField_self _ _ (by decide)

/-- A row that is the last of its command enters an island of one, and the command leaves its port. -/
theorem State.took_row {s : State} {d k g : Nat} {c : IslCmd} (h : (s.island d k).Alone) (hg : g < 256) (a : Bytes) (ty : Ty) (sparse : Bool)
    {v : State} (hv : (((s.reached d k c).charged d k c).rowEnter d k g a ty sparse).leavePort d k c = v) :
    s.Took d k c v ∧ .rowUpdateLand d k ∈ v.agenda
    ∧ fieldOf (v.island d k).stat 16 16 = (fieldOf (s.island d k).stat 16 16 + 1) % 2 ^ 16
    ∧ (v.island d k).flight = (s.island d k).flight ++ [(s.island d k).active.update g a ty sparse] := by
  subst hv
  set w := (s.reached d k c).charged d k c
  have hw : w.island d k = (s.reached d k c).island d k := rfl
  rw [State.reached_island_self] at hw
  have hwstat : (w.island d k).stat = (s.island d k).stat := by rw [hw]
  have hwflight : (w.island d k).flight = (s.island d k).flight := by rw [hw]
  have hwactive : (w.island d k).active = (s.island d k).active := by rw [hw]
  have halone : (w.island d k).Alone := by
    rw [hw]
    exact ⟨h.rows, h.cols⟩
  obtain ⟨y, hy, hflight, hcmds, hstat⟩ := State.rowEnter_island halone hg a ty sparse
  have hcmds' : ((w.rowEnter d k g a ty sparse).island d k).cmds = ((s.reached d k c).island d k).cmds := by
    rw [hy]
    exact hcmds
  refine ⟨.leavePort hcmds' (State.rowEnter_tile halone hg a ty sparse _) (State.rowEnter_mem halone hg a ty sparse),
    State.rowEnter_due halone hg a ty sparse, ?_, ?_⟩ <;> rw [State.leavePort_island, hy]
  · refine (y.takeRow_stat ((w.island d k).active.update g a ty sparse)).trans ?_
    rw [hstat, hwstat]
  · rw [← hwflight, ← hwactive, ← hflight]
    rfl

/-- The terms of a row that fits: for each column the sum of each chunk (12 R253). -/
theorem Bank.update_terms {b : Bank} {ty : Ty} {sparse : Bool} (g : Nat) (a : Bytes) (hty : b.ty = ty) (hne : ty ≠ .none)
    (hsparse : b.sparse = sparse) {n : Nat} (hn : n < 256) :
    (b.update g a ty sparse).terms[n]? = some ((List.range (b.kp / 32)).map (chunkSum b a sparse n)) := by
  have hfits : b.fits ty sparse = true := by simp [Bank.fits, hty, hne, hsparse]
  rw [Bank.update, if_pos hfits, rowTerms, List.getElem?_map, List.getElem?_range hn]
  rfl

end Sys2Proof.Machine
end

section
/-! PROOFS. The landing of a row and the release of tokens (12 R253, R255, R256), and the steps of the ramp limiter (20 R412, R419). -/

namespace Sys2Proof.Machine

/-! ### A row lands -/

section
variable (x : Island) (u : RowUpd)

theorem Island.land_cnt : (x.land u).cnt u.row = min 0xFFFF (x.cnt u.row + 1) := NMap.getD_put_self _ _ _ _

theorem Island.land_row (hterms : u.terms ≠ []) :
    (x.land u).row u.row = ((x.row u.row).zip u.terms).map (fun p => p.2.foldl addF32 p.1) := by
  rw [Island.row, Island.land]
  dsimp only
  rw [if_neg (List.isEmpty_iff.not.mpr hterms), NMap.getD_put_self]

theorem Island.land_row_ne {r : Nat} (hr : r ≠ u.row) : (x.land u).row r = x.row r := by
  rw [Island.row, Island.land]
  dsimp only
  split
  · rfl
  · exact NMap.getD_put_ne _ _ _ hr

end

section
variable {s : State} {d k : Nat}

theorem exec_rowUpdateLand (hev : s.ev = .rowUpdateLand d k) : exec .rowUpdateLand s
    = .next ((s.landOne d k).dueWhile ((s.landOne d k).island d k).flight (.rowUpdateLand d k)) := by
  change execRowUpdateLand s = _
  simp only [execRowUpdateLand, hev]
  rfl

/-- On an island of one the oldest update lands, and the island's own pending ends are tested (12 R253, R256). -/
theorem State.landOne_alone {u : RowUpd} {us : List RowUpd} (h : (s.island d k).Alone) (hlead : (s.island d k).lead = k)
    (hflight : (s.island d k).flight = u :: us) :
    s.landOne d k = (s.modIsland d k (fun x => { x.land u with flight := us })).testEnds d k (0, 0) := by
  have hplace : (s.modIsland d k (fun x => { x.land u with flight := us })).placeOf d k = (0, 0) := by
    simp [State.placeOf, Island.land, h.cols, hlead]
  have hlead' : ((s.modIsland d k (fun x => { x.land u with flight := us })).island d k).lead = k := by
    rw [State.modIsland_island_self]
    exact hlead
  simp only [State.landOne, hflight]
  rw [hplace, hlead']

end

/-! ### Releases -/

/-- The tokens of a row that an island of one releases: one for each segment, the last of them marked (12 R256). -/
def Island.rowTokens (x : Island) (j : Job) (g : Nat) : List RelTok :=
  (List.range 8).map (fun sg => ⟨j, g * 32 + sg, x.segment g sg, decide (sg = 7)⟩)

/-- The row leaves with its tokens, and its count begins again. -/
def Island.dropRow (x : Island) (g : Nat) (toks : List RelTok) : Island :=
  { x with outq := x.outq ++ toks, acc := NMap.del x.acc g, count := NMap.put x.count g 0 }

theorem Island.dropRow_cnt (x : Island) (g : Nat) (toks : List RelTok) : (x.dropRow g toks).cnt g = 0 := NMap.getD_put_self _ _ _ _

section
variable {w : State} {d k g n : Nat} (j : Job)

theorem State.release_row (hg : g < 256) : w.release d k (0, 0) g 1 (some n) j =
    ((if n < (w.island d k).cnt g then w.islandNote d k 1 8 else w).modIsland d k
      (fun x => x.dropRow g ((w.island d k).rowTokens j g))).due (.releaseTokenOut d k) := by
  have hrows : ((List.range 1).map (· + g)).filter (fun r => r / 256 = (0, 0).1) = [g] := by
    simp [hg]
  simp only [State.release, hrows, List.getLast?_singleton, Option.getD_some, List.foldl_cons, List.foldl_nil, State.member_origin,
    Nat.mod_eq_of_lt hg, Nat.mul_zero, Nat.add_zero, decide_true, Bool.true_and, decide_eq_true_eq, gt_iff_lt]
  rfl

theorem State.release_row_island (hg : g < 256) : ∃ x : Island,
    (w.release d k (0, 0) g 1 (some n) j).island d k = x.dropRow g ((w.island d k).rowTokens j g)
    ∧ x.outq = (w.island d k).outq ∧ x.pend = (w.island d k).pend := by
  rw [State.release_row j hg]
  split
  · exact ⟨{ w.island d k with stat := withBit (w.island d k).stat 1 }, by simp, rfl, rfl⟩
  · exact ⟨w.island d k, by simp, rfl, rfl⟩

theorem State.release_row_due (hg : g < 256) : .releaseTokenOut d k ∈ (w.release d k (0, 0) g 1 (some n) j).agenda := by
  rw [State.release_row j hg]
  exact State.mem_due _ _

end

/-- A pending end over one row is satisfied by its count. -/
theorem Island.satisfied_row {x : Island} {e : PendEnd} (hm : e.m = 1) (hg : e.g0 < 256) (hn : e.n ≤ x.cnt e.g0) :
    x.satisfied 0 e = true := by
  simp [Island.satisfied, hm, Nat.mod_eq_of_lt hg, hn]

/-- The one pending end that is satisfied leaves, and its rows are released (12 R256). -/
theorem State.testEnds_satisfied {w : State} {d k : Nat} {e : PendEnd} (hpend : (w.island d k).pend = [e])
    (hsat : (w.island d k).satisfied 0 e = true) : w.testEnds d k (0, 0) =
      ((w.modIsland d k (fun x => { x with pend := removeFirst (fun q => q = e) x.pend })).release d k (0, 0) e.g0 e.m (some e.n) e.job).due
        (.islandCommandEntry d k) := by
  simp only [State.testEnds, State.member_origin, hpend, List.foldl_cons, List.foldl_nil, hsat, if_true]

section
variable {j : Job} {x : Island} {g sg : Nat}

theorem Island.rowTokens_length : (x.rowTokens j g).length = 8 := by
  rw [Island.rowTokens, List.length_map, List.length_range]

theorem Island.rowTokens_get (hsg : sg < 8) :
    (x.rowTokens j g)[sg]? = some ⟨j, g * 32 + sg, x.segment g sg, decide (sg = 7)⟩ := by
  rw [Island.rowTokens, List.getElem?_map, List.getElem?_range hsg]
  rfl

end

/-- The update that satisfies the pending end over its row releases that row. -/
theorem State.landOne_releases {s : State} {d k : Nat} {u : RowUpd} {us : List RowUpd} {e : PendEnd} (h : (s.island d k).Alone)
    (hlead : (s.island d k).lead = k) (hflight : (s.island d k).flight = u :: us) (hpend : (s.island d k).pend = [e])
    (hrow : e.g0 = u.row) (hm : e.m = 1) (hu : u.row < 256) (hn : e.n ≤ min 0xFFFF ((s.island d k).cnt u.row + 1)) :
    .releaseTokenOut d k ∈ (s.landOne d k).agenda ∧ ∃ x : Island,
      (s.landOne d k).island d k = x.dropRow u.row (((s.island d k).land u).rowTokens e.job u.row)
      ∧ x.outq = (s.island d k).outq ∧ x.pend = [] := by
  set w := s.modIsland d k (fun x => { x.land u with flight := us }) with hw
  have hisland : w.island d k = { (s.island d k).land u with flight := us } := State.modIsland_island_self s d k _
  have hpend' : (w.island d k).pend = [e] := by rw [hisland]; exact hpend
  have hcnt : (w.island d k).cnt u.row = min 0xFFFF ((s.island d k).cnt u.row + 1) := by rw [hisland]; exact Island.land_cnt _ u
  have hsat : (w.island d k).satisfied 0 e = true := Island.satisfied_row hm (hrow ▸ hu) (by rw [hrow, hcnt]; exact hn)
  rw [State.landOne_alone h hlead hflight, ← hw, State.testEnds_satisfied hpend' hsat, hm, hrow]
  set v := w.modIsland d k (fun x => { x with pend := removeFirst (fun q => q = e) x.pend }) with hv
  have hvisland : v.island d k = { (s.island d k).land u with flight := us, pend := [] } := by
    rw [hv, State.modIsland_island_self, hpend', hisland]
    simp [removeFirst]
  refine ⟨State.agenda_subset_due _ _ (State.release_row_due e.job hu), ?_⟩
  obtain ⟨x, hx, hout, hempty⟩ := State.release_row_island (w := v) (d := d) (k := k) (n := e.n) e.job hu
  rw [hvisland] at hx hout hempty
  exact ⟨x, by rw [State.due_island, hx]; rfl, hout, hempty⟩

section
variable {s : State} {d k : Nat}

/-- One token leaves, and the event stays due while there are more (12 R256). -/
theorem exec_releaseTokenOut {r : RelTok} {rs : List RelTok} (hev : s.ev = .releaseTokenOut d k) (hout : (s.island d k).outq = r :: rs) :
    exec .releaseTokenOut s =
      let w := (s.modIsland d k (fun x => { x with outq := rs })).returnTok r.job { r.job.fi.stTag with iter := BitVec.ofNat 16 r.iter } r.payload
      let w := if r.last then w.cmdDone r.job else w
      .next (if rs = [] then w else w.due (.releaseTokenOut d k)) := by
  change execReleaseTokenOut s = _
  simp only [execReleaseTokenOut, hev, hout, List.isEmpty_iff]

/-! ### The ramp limiter and the forecast -/

/-- An island that the ramp limiter holds is let go (20 R412). -/
def State.letGo (s : State) (d k : Nat) : State :=
  if (s.island d k).rampHeld then (s.modIsland d k (fun x => { x with rampHeld := false })).due (.islandCommandEntry d k) else s

theorem State.letGo_die (n : Nat) : (s.letGo d k).die n = s.die n := by
  unfold State.letGo
  split <;> simp

theorem State.letGo_self : ((s.letGo d k).island d k).rampHeld = false := by
  unfold State.letGo
  split
  · simp
  · simp_all

theorem State.letGo_keeps {n : Nat} (h : (s.island d n).rampHeld = false) : ((s.letGo d k).island d n).rampHeld = false := by
  unfold State.letGo
  split
  · rw [State.due_island]
    by_cases hn : islKey d n = islKey d k
    · have hsame (t : State) : t.island d n = t.island d k := by rw [State.island, State.island, hn]
      rw [hsame, State.modIsland_island_self]
    · rwa [State.modIsland_island_ne s d k d n _ hn]
  · exact h

theorem exec_rampWindow (hev : s.ev = .rampWindow d) : exec .rampWindow s = .next (((List.range 104).foldl (fun s k => s.letGo d k)
    (s.modDie d (fun x => { x with ramp := x.ramp.window s.cycles }))).due (.rampWindow d)) := by
  change execRampWindow s = _
  simp only [execRampWindow, hev]
  rfl

/-- A window's entries are the larger of those counted and the last window's less FALL, the empty slots what is missing (20 R412). -/
theorem Ramp.window_last (r : Ramp) (now : Nat) : (r.window now).last = max r.count (r.last - fieldOf r.eff 0 16)
    ∧ (r.window now).empty = (r.window now).last - r.count := by
  simp only [Ramp.window]
  omega

theorem exec_forecastUpdate (hev : s.ev = .forecastUpdate d) : exec .forecastUpdate s = .next ((s.modDie d (fun x => { x with ramp :=
    { x.ramp with fcst := withField x.ramp.fcst 0 32 (min (2 ^ 32 - 1) x.waiting) } })).due (.forecastUpdate d)) := by
  change execForecastUpdate s = _
  simp only [execForecastUpdate, hev]

theorem Die.waiting_eq (x : Die) :
    x.waiting = ((x.queues.filter (fun q => bitN q.2.ctl.toNat 63)).map (fun q => (q.2.tail - q.2.head).toNat)).sum := by
  rw [Die.waiting, sumN_eq_sum]

end

end Sys2Proof.Machine
end

section
open Sys2Proof Sys2Proof.Machine

/-- Settles O52: the one command that may enter is taken in or held (`exec_islandCommandEntry_single`), a row as `State.took_row` and every other
command as its `State.cmdEnter_` lemma says; the oldest update lands (`State.landOne_alone`) and releases the rows of the end that it satisfies
(`State.landOne_releases`), a token leaves (`exec_releaseTokenOut`), and the window and the forecast are taken by `Ramp.window_last` and
`Die.waiting_eq`. -/
theorem islandEventResults : Obligations.IslandEventResults := by
  unfold Obligations.IslandEventResults
  intro s d k x
  refine ⟨fun c hev hrows hcols hmay hroom hlimit hflight hpend => ?enters, fun c hev hrows hcols hmay hroom hfull => ?held,
    fun u us hev hflight hrows hcols hlead => ⟨fun hpend => ?lands, fun e hpend hrow hm hu hn => ?releases⟩,
    fun r rs hev hout => ⟨_, ?_, exec_releaseTokenOut hev hout⟩, fun hev => ?window, fun hev => ?forecast⟩
  case enters =>
    intro ends left back
    have hidle : x.Idle := ⟨⟨hrows, hcols⟩, hflight, hpend⟩
    have hends {w : State} (hw : ((s.reached d k c).charged d k c).opEnter d k c = w) : ends w := by
      have hexec := exec_islandCommandEntry_single hev hmay hroom
      rw [if_neg (not_le.mpr hlimit), hw] at hexec
      rcases w.dueWhile_cases (w.island d k).cmds (.islandCommandEntry d k) with h | h
      · exact .inl (hexec.trans (congrArg Host.Outcome.next h))
      · exact .inr (hexec.trans (congrArg Host.Outcome.next h))
    have hleft {v : State} (h : s.Took d k c v) : left v := ⟨h.cmds, h.slot, h.mem⟩
    have htaken : ((s.taken d k c).island d k).Idle := State.taken_idle hidle
    have hcommand {w : State} (hop : ∀ rs ty sparse, c.op ≠ .rows rs ty sparse) (hw : (s.taken d k c).cmdEnter d k c = w) : ends w :=
      hends ((State.opEnter_command hop).trans hw)
    refine ⟨fun g a ty sparse hop hg => ?row, fun ty kp kb nb nEl hop => ?load, fun g0 m hop hg hm => ?init, fun g0 sg b hop hg hsg hlen => ?add,
      fun g0 sg n b hop hg hsg hlen => ?put, fun g0 sg hop hg hsg => ?read⟩
    case row =>
      obtain ⟨htook, hdue, hstat, hlands⟩ := State.took_row hidle.toAlone hg a ty sparse rfl
      refine ⟨_, hends (State.opEnter_row hop), hleft htook, hdue, hstat, x.active.update g a ty sparse, ?_, rfl,
        fun hty hne hsparse n hn => Bank.update_terms g a hty hne hsparse hn⟩
      rw [hlands, hidle.flight, List.nil_append]
    case load =>
      refine ⟨_, hcommand (by simp [hop]) (State.cmdEnter_load htaken hop),
        hleft ((State.took_taken.modIsland (by exact fun _ => rfl)).modIsland (by exact fun _ => rfl)), ?_⟩
      rw [State.modIsland_island_self, State.modIsland_island_self, State.taken_island]
      exact ⟨rfl, rfl, rfl⟩
    case init =>
      refine ⟨_, hcommand (by simp [hop]) (State.cmdEnter_init htaken hop hg hm), hleft (State.took_taken.modIsland (by exact fun _ => rfl)),
        fun r _ hsome => ?_⟩
      rw [State.modIsland_island_self] at hsome
      exact Island.clearRows_cleared hsome
    case add =>
      refine ⟨_, hcommand (by simp [hop]) (State.cmdEnter_add htaken hg hsg hop), hleft (State.took_taken.modIsland (by exact fun _ => rfl)), ?_⟩
      rw [State.modIsland_island_self, Island.changeSegment_cnt, State.taken_cnt]
      refine ⟨rfl, fun i hi => ?_⟩
      rw [Island.changeSegment_row _ _ _ _ _ (by rw [State.taken_row, hlen]) hi, State.taken_row]
    case put =>
      refine ⟨_, hcommand (by simp [hop]) (State.cmdEnter_put htaken hg hsg hop), hleft (State.took_taken.modIsland (by exact fun _ => rfl)), ?_⟩
      rw [State.modIsland_island_self, Island.changeSegment_cnt, State.taken_cnt]
      refine ⟨rfl, fun i hi => ?_⟩
      rw [Island.changeSegment_row _ _ _ _ _ (by rw [State.taken_row, hlen]) hi, State.taken_row]
    case read =>
      have hread := State.cmdEnter_read htaken hg hsg hop
      rw [State.taken_island] at hread
      exact ⟨_, hcommand (by simp [hop]) hread, hleft State.took_taken⟩
  case held =>
    have hx : (s.reached d k c).island d k = _ := State.reached_island_self c
    have halone : ((s.reached d k c).island d k).Alone := by
      rw [hx]
      exact ⟨hrows, hcols⟩
    obtain ⟨hisland, hheld, hmem⟩ := State.rampHolds_alone c halone
    have hexec := exec_islandCommandEntry_single hev hmay hroom
    rw [if_pos hfull] at hexec
    refine ⟨_, hexec, ?_, ?_, hheld, ?_, hmem⟩ <;> rw [hisland]
    rw [hx]
  case lands =>
    have hland : s.landOne d k = s.modIsland d k (fun x => { x.land u with flight := us }) :=
      (State.landOne_alone ⟨hrows, hcols⟩ hlead hflight).trans (State.testEnds_modIsland hpend)
    have hisland : (s.landOne d k).island d k = { x.land u with flight := us } := by rw [hland, State.modIsland_island_self]
    refine ⟨_, exec_rowUpdateLand hev, ?_⟩
    rw [State.dueWhile_island, State.dueWhile_mem, hisland]
    exact ⟨rfl, x.land_cnt u, x.land_row u, fun r hr => x.land_row_ne u hr, by rw [hland]; rfl⟩
  case releases =>
    obtain ⟨hdue, y, hy, hyout, hypend⟩ := State.landOne_releases ⟨hrows, hcols⟩ hlead hflight hpend hrow hm hu hn
    refine ⟨_, exec_rowUpdateLand hev, ?_⟩
    rw [State.dueWhile_island, hy]
    have hout : (y.dropRow u.row ((x.land u).rowTokens e.job u.row)).outq = x.outq ++ (x.land u).rowTokens e.job u.row := by
      rw [Island.dropRow, hyout]
    have hget (sg : Nat) (hsg : sg < 8) : (y.dropRow u.row ((x.land u).rowTokens e.job u.row)).outq[x.outq.length + sg]?
        = some ⟨e.job, u.row * 32 + sg, (x.land u).segment u.row sg, decide (sg = 7)⟩ := by
      rw [hout, List.getElem?_append_right (Nat.le_add_right _ _), Nat.add_sub_cancel_left, Island.rowTokens_get hsg]
    refine ⟨hypend, Island.dropRow_cnt _ _ _, State.agenda_subset_dueWhile _ _ _ hdue, ?_,
      fun sg hsg => ⟨_, hget sg hsg, rfl, rfl, rfl, rfl⟩⟩
    rw [hout, List.length_append, Island.rowTokens_length]
  case window =>
    refine ⟨_, exec_rampWindow hev, State.mem_due _ _, fun n hn => ?_, ?_⟩
    · rw [State.due_island]
      exact foldl_establishes (P := fun n s => ((State.island s d n).rampHeld = false)) (fun s a => State.letGo_self)
        (fun s a b h => State.letGo_keeps h) _ _ n (List.mem_range.mpr hn)
    · intro r q
      have hq : q = r.window s.cycles := by
        simp only [q, State.due_die]
        rw [foldl_preserves (v := fun s => State.die s d) (fun s k _ => State.letGo_die d), State.modDie_die_self]
      obtain ⟨hlast, hempty⟩ := r.window_last s.cycles
      rw [hq]
      exact ⟨hlast, hempty, rfl, rfl, rfl, rfl, rfl⟩
  case forecast =>
    refine ⟨_, exec_forecastUpdate hev, State.mem_due _ _, ?_⟩
    rw [State.due_die, State.modDie_die_self, ← Die.waiting_eq]
    dsimp only
    rw [fieldOf_withField_self _ _ (by decide), Nat.mod_eq_of_lt]
    omega
  · rw [State.modIsland_island_self]

end

section
/-! PROOFS. SYS and TRAP (18 R375, R377), DBG and ACCN (17 R362, 19 R400): the firing rule with the effect of each class. -/

namespace Sys2Proof.Machine

/-- The package and the unused bits of a ticket name an entry of this package (18 R375). -/
theorem ticketHere_iff {k : Nat} (hk : k < 2 ^ 32) (pkg : Nat) :
    (bitsN k 9 10 = pkg && bitsN k 19 13 = 0) = true ↔ k / 512 % 1024 = pkg ∧ k < 2 ^ 19 := by
  rw [Bool.and_eq_true, decide_eq_true_iff, decide_eq_true_iff, bitsN, bitsN]
  omega

/-- The pending trap that a ticket names (18 R375). -/
def State.ticketEntry (u : State) (c k : Nat) : Option Pending :=
  if k / 512 % 1024 = u.pkg ∧ k < 2 ^ 19 then NMap.find (u.cd c (k / 64 % 8)).pending (k % 64) else none

/-- What a TRET comes to for the pending trap that its ticket names, or for none. -/
def State.tret (u : State) (j : Job) (k : Nat) : Option Pending → State
  | none => (u.consume j.fi).emit2 j .value (leBytes 4 1)
  | some p =>
    ((u.consume j.fi).releaseTrap (u.regionCtx j.fi.region) (k / 64 % 8) (k % 64) p
      (if j.f.lit.toNat % 2 = 1 then none else some (operandIn u j .none true))).emit2 j .value (leBytes 4 0)

theorem execTrapTret_eq {f : Fields} {s u : State} (h : Fires f (sregDests f) s u) : execTrapTret f s =
    let k := leNat (sliceB (opIn f s u .none false) 12 4)
    .next (finished f s (u.tret ⟨s.cur, f⟩ k (u.ticketEntry (u.regionCtx s.cur.region) k))) := by
  have hnum : numAt (operandIn u ⟨s.cur, f⟩ .none false) 0x0C 4 = leNat (sliceB (opIn f s u .none false) 12 4) := by
    rw [leNat_sliceB]; rfl
  have hlt := numAt_lt (operandIn u ⟨s.cur, f⟩ .none false) 0x0C 4
  rw [execTrapTret, fireAcquiring_next h]
  dsimp only
  rw [hnum] at hlt ⊢
  rw [if_congr (ticketHere_iff hlt u.pkg) rfl rfl, Fields.litBits_zero]
  generalize leNat (sliceB (opIn f s u .none false) 12 4) = k
  have hdie : bitsN k 6 3 = k / 64 % 8 := rfl
  rw [hdie, State.ticketEntry]
  generalize (if k / 512 % 1024 = u.pkg ∧ k < 2 ^ 19 then _ else none : Option Pending) = named
  cases named <;> rfl

/-- An end that meets no trap of its cycle is applied at once (18 R383). -/
theorem State.endOrHold_of_none {s : State} {c : Nat} (h : s.trapNow c = none) (d code : Nat) (record : Option Bytes) :
    s.endOrHold c d code record = s.endContext c d code record := by
  simp only [State.endOrHold, h]

end Sys2Proof.Machine

open Sys2Proof Sys2Proof.Machine

/-- Settles O31: each class is its firing rule with its effect; a ticket is read as R375 lays it out (`execTrapTret_eq`), and an end that meets
no trap is applied at once (`State.endOrHold_of_none`). -/
theorem systemResults : Obligations.SystemResults := by
  unfold Obligations.SystemResults
  intro f s u t c d a b j put timed
  refine ⟨fun h => ⟨?clock, ?tileid, ?timer, ?ctxst, ?tret⟩, fun h => ?ends⟩
  case clock => exact congrArg Host.Outcome.next (fire_next h _ _ _)
  case tileid => exact congrArg Host.Outcome.next (fire_next h _ _ _)
  case timer => exact congrArg Host.Outcome.next (fire_next h _ _ _)
  case ctxst =>
    refine congrArg Host.Outcome.next ((fire_next h _ _ _).trans ?_)
    rw [leNat_sliceB]
    rfl
  case tret =>
    refine ⟨fun hnone => (execTrapTret_eq h).trans ?_, fun p hsome => ⟨_, (execTrapTret_eq h).trans ?_, rfl⟩⟩
    · dsimp only
      rw [State.ticketEntry, hnone]
      rfl
    · dsimp only
      rw [State.ticketEntry, hsome]
      rfl
  case ends =>
    have hend : exec (.sysCtxend f) s = put ((u.consume s.cur).endOrHold c d (leNat (sliceB a 0 4)) none) := by
      refine congrArg Host.Outcome.next ((fire_next h _ _ _).trans ?_)
      rw [leNat_sliceB]
      rfl
    refine ⟨?_, hend, fun hnone => hend.trans (by rw [State.endOrHold_of_none hnone])⟩
    refine congrArg Host.Outcome.next ((fire_next h _ _ _).trans ?_)
    rw [Fields.litBits_zero]
    rfl

end

section
/-! PROOFS. DBG and ACCN (17 R362, 19 R400): the firing rule with the effect of each class. -/

namespace Sys2Proof.Machine

/-- AREC's effect for each answer of the log. -/
theorem execAccnArec_eq {f : Fields} {s u : State} (h : Fires f (sregDests f) s u) : execAccnArec f s = .next (finished f s
    (match u.logEvent (u.regionCtx s.cur.region) s.cur.die
        ⟨11, 0, s.cur.tile, s.cur.stTag.frame, s.cur.seq 0, arecDetail u ⟨s.cur, f⟩, f.lit.toNat % 256⟩ with
      | .go v => (v.consume s.cur).emit2 ⟨s.cur, f⟩ .value (opIn f s u .none false)
      | .wait v => v.offerAgain s.cur)) := by
  rw [execAccnArec, fire_next h]
  dsimp only
  rw [Fields.litBits_zero]
  rfl

end Sys2Proof.Machine

open Sys2Proof Sys2Proof.Machine

/-- Settles O33: each class is its firing rule with its effect, and its literal's fields are read as 19 R400 and 17 R362 lay them out. -/
theorem observationResults : Obligations.ObservationResults := by
  unfold Obligations.ObservationResults
  intro f s u h c d a b j lit put
  refine ⟨fun hoff => ?brkOff, fun hon => ?brkOn, ?trace, ?hist, fun hfree => ?intvFree, fun hlogged => ?intv, ?arecFree,
    fun v hgo => ?arecGo, fun v hwait => ?arecWait⟩
  case brkOff =>
    refine congrArg Host.Outcome.next ((fire_next h _ _ _).trans (congrArg (finished f s) ?_))
    exact if_neg (by rw [← BitVec.testBit_toNat] at hoff; exact ne_true_of_eq_false hoff)
  case brkOn =>
    refine congrArg Host.Outcome.next ((fire_next h _ _ _).trans (congrArg (finished f s) ?_))
    exact if_pos (by rw [← BitVec.testBit_toNat] at hon; exact hon)
  case trace =>
    refine congrArg Host.Outcome.next ((fire_next h _ _ _).trans ?_)
    rw [Fields.litBits_zero]
    rfl
  case hist =>
    refine congrArg Host.Outcome.next ((fire_next h _ _ _).trans ?_)
    rw [Fields.litBits_zero, Fields.litBits_eq, Fields.litBits_eq]
    rfl
  case intvFree =>
    refine congrArg Host.Outcome.next ((fire_next h _ _ _).trans (congrArg (finished f s) ?_))
    exact if_pos hfree
  case intv =>
    refine congrArg Host.Outcome.next ((fire_next h _ _ _).trans (congrArg (finished f s) ?_))
    exact if_neg (Nat.pos_iff_ne_zero.mp hlogged)
  case arecFree =>
    intro hlevel
    refine (execAccnArec_eq h).trans ?_
    rw [State.logEvent_go hlevel]
    rfl
  case arecGo => exact (execAccnArec_eq h).trans (by rw [hgo])
  case arecWait => exact (execAccnArec_eq h).trans (by rw [hwait])

end

section
/-! PROOFS. The key-store unit (13 R264 to R284): the issue of a firing, and the completion of the oldest one. -/

namespace Sys2Proof.Machine

/-- One byte read as a number. -/
theorem numAt_one (bs : Bytes) (o : Nat) : numAt bs o 1 = (byteAt bs o).toNat := by
  have hbyte : byteAt (bs.drop o) 0 = byteAt bs o := by simp [byteAt]
  exact (numAt_zero_one (bs.drop o)).trans (congrArg BitVec.toNat hbyte)

/-- The tile's unit as its oldest firing finds it. -/
def State.keyUnit (s : State) (t : TileId) (j : Job) : KUnit := { x := s.tile t, inst := j.fi.inst, keys := (s.tile t).keys }

/-- The unit after its oldest firing is taken; a completion for the next one is due. -/
def State.keyTaken (s : State) (t : TileId) (js : List (Nat × Nat × Job)) : State :=
  let v := s.modTile t (fun x => { x with kqueue := js })
  if js = [] then v else v.due (.keystoreCompletion t)

section
variable {s : State} {t : TileId} {major minor : Nat} {j : Job} {js : List (Nat × Nat × Job)}

/-- The completion of the oldest firing (13 R266): its results, or its key fault. -/
theorem State.keyComplete_eq (hqueue : (s.tile t).kqueue = (major, minor, j) :: js) : s.keyComplete t =
    match keyStep major minor j.f.lit ((s.keyTaken t js).keyUnit t j) (descriptorOn (s.keyTaken t js) j false) with
    | .error e => (s.keyTaken t js).keyFault j e
    | .ok (u, res) => (s.keyTaken t js).settle j ((((s.keyTaken t js).consume j.fi).keyApply t u).emit2 j .value res) := by
  unfold State.keyComplete
  rw [hqueue]
  cases js <;> rfl

theorem execKeystoreCompletion_eq (hev : s.ev = .keystoreCompletion t) : execKeystoreCompletion s = .next (s.keyComplete t) := by
  unfold execKeystoreCompletion
  rw [hev]

end

section
variable {u : KUnit} {a : Bytes} {r : SmRec} (hrec : u.rec? (leNat (sliceB a 0 4)) = .ok r)
include hrec

theorem smflag_ok :
    smflag u a = .ok (u.wr (leNat (sliceB a 0 4) + 4) (leBytes 4 (r.flags / 8 * 8)), leBytes 4 r.flags) := by
  rw [leNat_sliceB] at hrec ⊢
  simp only [smflag, hrec, bind, Except.bind]

theorem smnorm_ok : smnorm u a = .ok (u, packElems 4
    (((r.acc.drop (32 * (byteAt a 4).toNat)).take 32).map (fun c => roundF .f32 .rne false (fdiv (f32Val c) (f32Val r.l))))) := by
  have hgroup : numAt a 4 1 = (byteAt a 4).toNat := numAt_one a 4
  rw [leNat_sliceB] at hrec
  simp only [smnorm, hrec, bind, Except.bind, hgroup]

theorem smresc_ok (hset : r.m ≠ mUnset) (hlow : asSigned 32 (leNat (sliceB a 4 4)) ≤ r.ref) : smresc u a = .ok (u, r.summary) := by
  rw [leNat_sliceB] at hrec hlow
  simp only [smresc, hrec, bind, Except.bind, hset, hlow, ne_eq, not_false_eq_true, decide_true, Bool.and_self, if_true]

end

end Sys2Proof.Machine

open Sys2Proof Sys2Proof.Machine

/-- Settles O44: the issue is the firing rule, the completion goes by the unit's answer (`State.keyComplete_eq`), and on a valid record SMFLAG,
SMNORM and SMRESC answer as R284 says (`smflag_ok`, `smnorm_ok`, `smresc_ok`). -/
theorem keyStoreResults : Obligations.KeyStoreResults := by
  unfold Obligations.KeyStoreResults
  refine ⟨fun f s u h => ?issue, fun s t major minor j js hev hqueue => ?complete⟩
  case issue =>
    have hfire : ∀ major minor, fireKey major minor f s = finished f s
        ((u.modTile s.cur.at_ (fun x => { x with kqueue := x.kqueue ++ [(major, minor, ⟨s.cur, f⟩)] })).due (.keystoreCompletion s.cur.at_)) :=
      fun major minor => fire_next h _ _ _
    have hissue := fun major minor => congrArg (Host.Outcome.next (ρ := Refusal) (φ := Fault)) (hfire major minor)
    exact ⟨hissue _ _, hissue _ _, hissue _ _, hissue _ _, hissue _ _, hissue _ _, hissue _ _, hissue _ _, hissue _ _, hissue _ _,
      hissue _ _, hissue _ _, hissue _ _, hissue _ _⟩
  case complete =>
    intro v v' unit a put
    have hexec : exec .keystoreCompletion s = .next (match keyStep major minor j.f.lit unit a with
        | .error e => v'.keyFault j e
        | .ok (u, res) => v'.settle j (((v'.consume j.fi).keyApply t u).emit2 j .value res)) :=
      (execKeystoreCompletion_eq hev).trans (congrArg Host.Outcome.next (State.keyComplete_eq hqueue))
    have hok : ∀ r, keyStep major minor j.f.lit unit a = .ok r → exec .keystoreCompletion s = put r := fun r hr => by rw [hexec, hr]
    refine ⟨hok, fun e he => by rw [hexec, he]; rfl, ?_⟩
    rintro rfl r hrec ro
    refine ⟨?_, ?_, ?_⟩
    · rintro rfl
      exact hok _ (smflag_ok hrec)
    · rintro rfl
      exact hok _ (smnorm_ok hrec)
    · rintro rfl hset hlow
      exact hok _ (smresc_ok hrec hset hlow)

end

section
/-! PROOFS. The grammar engine (16 R335 to R342): requests in order, and STEP on a good cursor by the transition table. -/

namespace Sys2Proof.Machine

/-! ### What consuming a set leaves -/

/-- The state with its dies replaced. -/
def State.withDies (s : State) (x : NMap Die) : State := { s with dies := x }

/-- Tokens are counted beside the dies. -/
theorem State.consume_withDies (s : State) (x : NMap Die) (fi : Firing) : (s.withDies x).consume fi = (s.consume fi).withDies x := by
  unfold State.consume
  split
  next => rfl
  next => exact (List.foldl_hom (fun s : State => s.withDies x) (g₁ := fun s ph => s.countRecv fi.at_ ph 1) (fun _ _ => rfl))

@[simp] theorem State.consume_mem (s : State) (fi : Firing) : (s.consume fi).mem = s.mem := by
  unfold State.consume
  split
  next => rfl
  next => exact foldl_preserves (f := fun s ph => State.countRecv s fi.at_ ph 1) (v := State.mem) (fun _ _ _ => rfl) s

@[simp] theorem State.consume_agenda (s : State) (fi : Firing) : (s.consume fi).agenda = s.agenda := by
  unfold State.consume
  split
  next => rfl
  next => exact foldl_preserves (f := fun s ph => State.countRecv s fi.at_ ph 1) (v := State.agenda) (fun _ _ _ => rfl) s

/-! ### The engine -/

/-- The mask cache is the die's own. -/
theorem State.gramTouch_dies (s : State) (d c slot : Nat) (lines : List Nat) : ∃ x, s.gramTouch d c slot lines = s.withDies x := by
  unfold State.gramTouch
  refine List.foldlRecOn (motive := fun u => ∃ x, u = s.withDies x) _ _ ⟨s.dies, rfl⟩ ?_
  rintro _ ⟨x, rfl⟩ l -
  dsimp only
  split
  next => exact ⟨x, rfl⟩
  next => exact ⟨_, rfl⟩

/-- A die's engine after its oldest request is taken; the next one is due. -/
def State.gramTaken (s : State) (d : Nat) (rest : List GramReq) : State :=
  let v := s.modDie d (fun x => { x with gram := { x.gram with queue := rest } })
  if rest = [] then v else v.due (.gramRequestPerform d)

/-- The state from which an emitted result is returned: the engine's marks set, the set consumed. -/
def State.gramEmits (v : State) (d c slot : Nat) (oov : Bool) (lines : List Nat) (fi : Firing) : State :=
  let v := if oov then v.modGram d (fun x => { x with stat := withBit x.stat 0 }) else v
  (v.gramTouch d c slot lines).consume fi

theorem State.gramEmits_dies (v : State) (d c slot : Nat) (oov : Bool) (lines : List Nat) (fi : Firing) :
    ∃ x, v.gramEmits d c slot oov lines fi = (v.consume fi).withDies x := by
  have hmark : ∃ x, (if oov then v.modGram d (fun x => { x with stat := withBit x.stat 0 }) else v) = v.withDies x := by
    cases oov
    · exact ⟨v.dies, rfl⟩
    · exact ⟨_, rfl⟩
  obtain ⟨x, hx⟩ := hmark
  obtain ⟨y, hy⟩ := (v.withDies x).gramTouch_dies d c slot lines
  refine ⟨y, ?_⟩
  rw [State.gramEmits, hx, hy]
  exact v.consume_withDies y fi

/-- A request's literal bit 0, as the engine reads it. -/
theorem Fields.litBit_zero (f : Fields) : decide (f.litBits 0 1 = 1) = f.lit.getLsbD 0 := by
  rw [Fields.litBits_zero, ← BitVec.testBit_toNat, Nat.testBit_zero, pow_one]

/-- What a request comes to on the tile that issued it. -/
def State.gramAnswer (v : State) (d : Nat) (r : GramReq) : GramOut → State
  | .fault code t =>
    (v.modGram d (fun x => { x with stat := withBit x.stat (if code = 1 then 1 else 2) })).jobFault r.job 6 code (gramDetail r.minor r.a t)
  | .emit ra rb oov lines =>
    let w := v.gramEmits d (v.regionCtx r.job.fi.region) (gramSlot r.minor r.a) oov lines r.job.fi
    let g := r.job.fi.stTag
    w.settle r.job (if ra = rb then w.emitRes r.job false (dests r.job.f) g .value ra
      else match ra, rb with
        | some x, _ => w.emitRes r.job false [r.job.f.dstA.toNat] g .value (some x)
        | none, some x => w.emitRes r.job false [r.job.f.dstB.toNat] g .value (some x)
        | none, none => w)

/-- One result for both destinations is one value emitted. -/
theorem State.gramAnswer_emits (v : State) (d : Nat) (r : GramReq) (o : Bytes) (oov : Bool) (lines : List Nat) :
    v.gramAnswer d r (.emit (some o) (some o) oov lines) =
      let w := v.gramEmits d (v.regionCtx r.job.fi.region) (gramSlot r.minor r.a) oov lines r.job.fi
      w.settle r.job (w.emitRes r.job false (dests r.job.f) r.job.fi.stTag .value (some o)) := by
  unfold State.gramAnswer
  dsimp only
  rw [if_pos rfl]

section
variable {s : State} {d : Nat} {r : GramReq} {rest : List GramReq}

/-- The oldest request is taken and performed (16 R342). -/
theorem execGramRequestPerform_eq (hev : s.ev = .gramRequestPerform d) (hqueue : (s.die d).gram.queue = r :: rest) :
    let v := s.gramTaken d rest
    execGramRequestPerform s = .next (v.gramAnswer d r
      (v.gramDo (v.regionCtx r.job.fi.region) d r.minor r.valid r.a r.b (r.job.f.lit.getLsbD 0))) := by
  rw [← Fields.litBit_zero]
  unfold execGramRequestPerform State.gramTake
  rw [hev]
  dsimp only
  rw [hqueue]
  cases rest <;> rfl

end

/-! ### STEP (16 R339) -/

theorem State.numAt_readVa (s : State) (c va n : Nat) : numAt (s.readVa c va n) 0 n = leNat (s.readVa c va n) := by
  have hlen : (s.readVa c va n).length = n := by simp [State.readVa]
  rw [numAt, List.drop_zero, List.take_of_length_le hlen.le]

theorem State.leNat_readVa_lt (s : State) (c va n : Nat) : leNat (s.readVa c va n) < 2 ^ (8 * n) := by
  rw [← State.numAt_readVa]
  exact numAt_lt _ _ _

/-- The transition that STEP on a token reads (16 R335). -/
def State.gramEdge (s : State) (c : Nat) (g : GramHead) (x : Cursor) (t : Nat) : Nat :=
  leNat (s.readVa c (g.trans + 4 * (x.q * g.classes + leNat (s.readVa c (g.classMap + 2 * t) 2))) 4)

/-- A result that emits the cursor to both destinations. -/
def State.EmitsCursor (s : State) (c : Nat) (g : GramHead) (z : Cursor) (o : GramOut) : Prop :=
  ∃ oov lines, o = .emit (some (s.cursorBytes c g z)) (some (s.cursorBytes c g z)) oov lines

/-- The top of a cursor's stack. -/
def Cursor.peek (x : Cursor) : Option Nat := if x.depth = 0 then none else some (byteAt x.stack (x.depth - 1)).toNat

/-- A pop is refused on an empty stack and on another top. -/
theorem Cursor.pop_refused_iff (x : Cursor) (g : GramHead) (y : Nat) : (x.depth = 0 ∨ x.top g ≠ y) ↔ x.peek ≠ some y := by
  unfold Cursor.peek Cursor.top
  split_ifs with h <;> simp [h]

section
variable {s : State} {c : Nat} {g : GramHead} {x : Cursor} {t op y q : Nat}

theorem State.gramStep_unknown (ht : g.vocab ≤ t) : s.EmitsCursor c g { x with status := 2 } (s.gramStep c g x t) := by
  unfold State.gramStep
  dsimp only
  rw [if_pos ht]
  exact ⟨_, _, rfl⟩

/-- The cursor's move by a transition of operation `op`, symbol `y` and next state `q`, read in the line of `at_`. -/
def State.gramMove (s : State) (c : Nat) (g : GramHead) (x : Cursor) (t at_ op y q : Nat) : GramOut :=
  let out := fun (z : Cursor) =>
    GramOut.emit (some (s.cursorBytes c g z)) (some (s.cursorBytes c g z)) false ([at_] ++ [g.indexAt z.q (z.top g)])
  if op = 3 ∨ (op = 2 ∧ x.peek ≠ some y) then out { x with status := 1 }
  else if op = 1 ∧ x.depth = x.trap then .fault 1 t
  else if op = 1 then out { x with q := q, status := 0, depth := x.depth + 1, stack := x.stack.set x.depth (BitVec.ofNat 8 y) }
  else if op = 2 then out { x with q := q, status := 0, depth := x.depth - 1, stack := x.stack.set (x.depth - 1) 0 }
  else out { x with q := q, status := 0 }

/-- STEP on a token of the vocabulary moves the cursor by its transition. -/
theorem State.gramStep_known (ht : t < g.vocab) : s.gramStep c g x t =
    s.gramMove c g x t (g.transAt x.q (leNat (s.readVa c (g.classMap + 2 * t) 2))) (s.gramEdge c g x t / 2 ^ 30)
      (s.gramEdge c g x t / 2 ^ 22 % 256) (s.gramEdge c g x t / 2 ^ 10 % 4096) := by
  have hlt : s.gramEdge c g x t < 2 ^ 32 := State.leNat_readVa_lt s c _ 4
  have hop : bitsN (s.gramEdge c g x t) 30 2 = s.gramEdge c g x t / 2 ^ 30 := Nat.mod_eq_of_lt (by omega)
  have hedge : leNat (s.readVa c (g.transAt x.q (leNat (s.readVa c (g.classMap + 2 * t) 2))) 4) = s.gramEdge c g x t := rfl
  unfold State.gramStep
  dsimp only
  rw [if_neg (not_le.mpr ht)]
  simp only [State.numAt_readVa, hedge, hop, Bool.or_eq_true, Bool.and_eq_true, decide_eq_true_eq, x.pop_refused_iff g]
  rfl

variable {at_ : Nat}

theorem State.gramMove_keep : s.EmitsCursor c g { x with q := q, status := 0 } (s.gramMove c g x t at_ 0 y q) := ⟨_, _, rfl⟩

theorem State.gramMove_reject : s.EmitsCursor c g { x with status := 1 } (s.gramMove c g x t at_ 3 y q) := ⟨_, _, rfl⟩

theorem State.gramMove_pop_refused (hy : x.peek ≠ some y) : s.EmitsCursor c g { x with status := 1 } (s.gramMove c g x t at_ 2 y q) :=
  ⟨_, _, if_pos (.inr ⟨rfl, hy⟩)⟩

theorem State.gramMove_pop (hy : x.peek = some y) :
    s.EmitsCursor c g { x with q := q, status := 0, depth := x.depth - 1, stack := x.stack.set (x.depth - 1) 0 }
      (s.gramMove c g x t at_ 2 y q) :=
  ⟨_, _, if_neg (by simp [hy])⟩

theorem State.gramMove_push_full (hfull : x.depth = x.trap) : s.gramMove c g x t at_ 1 y q = .fault 1 t :=
  by simp [State.gramMove, hfull]

theorem State.gramMove_push (hroom : x.depth ≠ x.trap) :
    s.EmitsCursor c g { x with q := q, status := 0, depth := x.depth + 1, stack := x.stack.set x.depth (BitVec.ofNat 8 y) }
      (s.gramMove c g x t at_ 1 y q) :=
  ⟨false, _, by simp only [State.gramMove, hroom]; rfl⟩

end

end Sys2Proof.Machine

open Sys2Proof Sys2Proof.Machine

/-- Settles O47: an issue is the firing rule, the oldest request goes by its answer (`execGramRequestPerform_eq`), and STEP by the transition
that it reads (`State.gramStep_known`). -/
theorem grammarResults : Obligations.GrammarResults := by
  unfold Obligations.GrammarResults
  refine ⟨fun f s u h => ?issue, fun s d r rest hev hqueue => ?perform, fun s c d valid fpath a b g => ?step⟩
  case issue =>
    intro a issue
    have hslot : leNat (sliceB a 4 1) % 16 = bitsN (numAt a 4 1) 0 4 := by rw [leNat_sliceB, bitsN_zero]; rfl
    have hissue : ∀ minor, minor ≠ 4 → fireGram minor f s = finished f s
        ((u.modDie s.cur.die (fun x => { x with gram := { x.gram with queue := x.gram.queue ++ [⟨⟨s.cur, f⟩, minor,
          (u.gramImage (u.regionCtx s.cur.region) s.cur.die (leNat (sliceB a 4 1) % 16)).isSome, a, opIn f s u .none true⟩] } })).due
            (.gramRequestPerform s.cur.die)) := by
      intro minor hminor
      rw [fireGram, fire_next h, hslot]
      simp only [gramSlot, if_neg hminor]
      rfl
    exact ⟨congrArg Host.Outcome.next (hissue 0 (by decide)), congrArg Host.Outcome.next (hissue 1 (by decide)),
      congrArg Host.Outcome.next (hissue 2 (by decide)), congrArg Host.Outcome.next (hissue 3 (by decide)),
      congrArg Host.Outcome.next (fire_next h _ _ _)⟩
  case perform =>
    intro v v' c
    have hexec := execGramRequestPerform_eq hev hqueue
    have hmem : v'.mem = s.mem := by
      show (if rest = [] then v else v.due _).mem = s.mem
      split
      · rfl
      · exact State.due_mem v _
    refine ⟨fun code t hfault => ⟨_, hexec.trans (congrArg (fun o => Host.Outcome.next (v'.gramAnswer d r o)) hfault), hmem, rfl⟩,
      fun o oov lines hemit => ?_⟩
    obtain ⟨x, hx⟩ := v'.gramEmits_dies d (v'.regionCtx r.job.fi.region) (gramSlot r.minor r.a) oov lines r.job.fi
    refine ⟨_, hexec.trans ((congrArg (fun o => Host.Outcome.next (v'.gramAnswer d r o)) hemit).trans
      (congrArg Host.Outcome.next (State.gramAnswer_emits v' d r o oov lines))), ?_, ?_, ?_⟩
    · exact (congrArg State.mem hx).trans ((State.consume_mem _ _).trans hmem)
    · exact (congrArg State.agenda hx).trans (State.consume_agenda _ _)
    · exact (congrArg State.tiles hx).trans rfl
  case step =>
    intro x himage hzeros hgood t k e op y q top gives
    have hdo : s.gramDo c d 0 valid a b fpath = s.gramStep c g x t := by
      unfold State.gramDo
      rw [if_neg (by decide)]
      dsimp only
      rw [show s.gramImage c d (cursorOf a).slot = some g from himage]
      simp only [hzeros, show (cursorOf a).good g = true from hgood, Bool.not_true, Bool.or_self, Bool.false_eq_true, if_false]
      exact congrArg _ (leNat_sliceB b 0 4).symm
    have hgives : ∀ z, s.EmitsCursor c g z (s.gramStep c g x t) → gives z := fun z hz => by
      show ∃ oov lines, s.gramDo c d 0 valid a b fpath = _
      rw [hdo]
      exact hz
    have hmove : ∀ o, t < g.vocab → op = o → s.gramStep c g x t = s.gramMove c g x t (g.transAt x.q k) o y q := fun o ht ho =>
      ho ▸ State.gramStep_known ht
    refine ⟨fun ht => hgives _ (State.gramStep_unknown ht), fun ht hop => hgives _ (hmove 0 ht hop ▸ State.gramMove_keep),
      fun ht hop => hgives _ (hmove 3 ht hop ▸ State.gramMove_reject),
      fun ht hop htop => hgives _ (hmove 2 ht hop ▸ State.gramMove_pop_refused htop),
      fun ht hop htop => hgives _ (hmove 2 ht hop ▸ State.gramMove_pop htop),
      fun ht hop hfull => hdo.trans ((hmove 1 ht hop).trans (State.gramMove_push_full hfull)),
      fun ht hop hroom => hgives _ (hmove 1 ht hop ▸ State.gramMove_push hroom)⟩

end

section
/-! PROOFS. Taking a fault (18 R371 to R374): the record, and each of the ways in which a fault is taken. -/

namespace Sys2Proof.Machine

/-! ### The record (18 R372) -/

section
variable (s : State) (x : FaultInfo) (flags gen entry : Nat)

/-- The station byte of a fault's record. -/
def FaultInfo.stationByte (x : FaultInfo) : Nat :=
  match x.named, x.job with
  | some (slot, station), _ => slot * 32 + station
  | none, some j => if x.sync then j.fi.slot * 32 + j.fi.station else 0
  | none, none => 0

/-- The block of a fault's record. -/
def FaultInfo.recordBlock (x : FaultInfo) : Nat := (x.job.map (·.fi.block)).getD x.block

/-- The first 16 bytes of a fault record. -/
def faultHead (s : State) (x : FaultInfo) (flags gen entry : Nat) : Bytes :=
  [BitVec.ofNat 8 x.index, BitVec.ofNat 8 x.code, BitVec.ofNat 8 flags, BitVec.ofNat 8 x.stationByte]
    ++ leBytes 2 (x.tile.getD 0 + x.die * 1024) ++ leBytes 2 s.pkg ++ leBytes 2 x.recordBlock ++ leBytes 2 gen
    ++ leBytes 4 (entry + (s.pkg * 8 + x.die) * 64)

theorem faultRecord_eq : faultRecord s x flags gen entry = faultHead s x flags gen entry ++ sliceB x.detail 0 16 := by
  unfold faultRecord faultHead FaultInfo.stationByte FaultInfo.recordBlock
  cases x.job <;> rfl

theorem faultHead_length : (faultHead s x flags gen entry).length = 16 := by
  simp [faultHead]

theorem faultRecord_length : (faultRecord s x flags gen entry).length = 32 := by
  rw [faultRecord_eq, List.length_append, faultHead_length, sliceB_length]

theorem faultRecord_detail : sliceB (faultRecord s x flags gen entry) 0x10 16 = sliceB x.detail 0 16 := by
  have hlen := faultHead_length s x flags gen entry
  have hdrop : (faultHead s x flags gen entry ++ sliceB x.detail 0 16).drop 16 = sliceB x.detail 0 16 := by
    rw [← hlen, List.drop_left]
  rw [faultRecord_eq]
  show (List.drop 16 _).take 16 ++ zeros (16 - ((List.drop 16 _).take 16).length) = _
  rw [hdrop, List.take_of_length_le (sliceB_length _ _ _).le, sliceB_length]
  exact List.append_nil _

/-- A number of the record's head. -/
theorem faultRecord_num {o n : Nat} (h : o + n ≤ 16) :
    leNat (sliceB (faultRecord s x flags gen entry) o n) = numAt (faultHead s x flags gen entry) o n := by
  rw [leNat_sliceB, faultRecord_eq, numAt_append_left (by rw [faultHead_length]; exact h)]

theorem faultRecord_byte {o : Nat} (h : o < 4) : leNat (sliceB (faultRecord s x flags gen entry) o 1) =
    (([x.index, x.code, flags, x.stationByte] : List Nat).getD o 0) % 256 := by
  rw [faultRecord_num _ _ _ _ _ (by omega)]
  interval_cases o <;> simp [faultHead, numAt, leNat]

/-- The fields of a record from its byte 4 on. -/
theorem faultRecord_fields :
    leNat (sliceB (faultRecord s x flags gen entry) 4 2) = (x.tile.getD 0 + x.die * 1024) % 65536
    ∧ leNat (sliceB (faultRecord s x flags gen entry) 6 2) = s.pkg % 65536
    ∧ leNat (sliceB (faultRecord s x flags gen entry) 8 2) = x.recordBlock % 65536
    ∧ leNat (sliceB (faultRecord s x flags gen entry) 0x0A 2) = gen % 65536
    ∧ leNat (sliceB (faultRecord s x flags gen entry) 0x0C 4) = (entry + (s.pkg * 8 + x.die) * 64) % 2 ^ 32 := by
  refine ⟨?_, ?_, ?_, ?_, ?_⟩ <;> rw [faultRecord_num _ _ _ _ _ (by decide)]
  all_goals
    simp (disch := simp) only [faultHead, numAt_append_left, numAt_append_right, List.length_append, leBytes_length, List.length_cons,
      List.length_nil, Nat.reduceAdd, Nat.reduceSub, numAt_leBytes, Nat.reduceMul, Nat.reducePow]

end

/-! ### What taking a fault leaves -/

/-- From `s` to `t` no event comes due, every context stays in its state and every pending trap in its entry. -/
structure KeepsTraps (s t : State) : Prop where
  agenda : t.agenda = s.agenda
  ctxs : t.ctxs = s.ctxs
  pending : ∀ c d, (t.cd c d).pending = (s.cd c d).pending

theorem KeepsTraps.refl (s : State) : KeepsTraps s s := ⟨rfl, rfl, fun _ _ => rfl⟩

theorem KeepsTraps.trans {s t u : State} (h : KeepsTraps s t) (k : KeepsTraps t u) : KeepsTraps s u :=
  ⟨k.agenda.trans h.agenda, k.ctxs.trans h.ctxs, fun c d => (k.pending c d).trans (h.pending c d)⟩

theorem KeepsTraps.ctx {s t : State} (h : KeepsTraps s t) (c : Nat) : t.ctx c = s.ctx c := by
  rw [State.ctx, State.ctx, h.ctxs]

/-- A field of what contexts hold on dies that an update leaves is left everywhere. -/
theorem State.modCd_field {α : Type} {g : CtxDie → CtxDie} {v : CtxDie → α} (hg : ∀ x, v (g x) = v x) (s : State) (c d e n : Nat) :
    v ((s.modCd c d g).cd e n) = v (s.cd e n) := by
  by_cases hkey : cdKey e n = cdKey c d
  · have hself : (s.modCd c d g).cd e n = g (s.cd e n) := by
      rw [State.cd, State.cd, hkey]
      exact NMap.getD_put_self _ _ _ _
    rw [hself, hg]
  · rw [State.modCd_cd_ne _ _ _ _ _ _ hkey]

theorem keepsTraps_modCd (s : State) (c d : Nat) {g : CtxDie → CtxDie} (hg : ∀ x, (g x).pending = x.pending) :
    KeepsTraps s (s.modCd c d g) :=
  ⟨rfl, rfl, State.modCd_field hg s c d⟩

theorem KeepsTraps.of_eq {s t : State} (ha : t.agenda = s.agenda) (hc : t.ctxs = s.ctxs) (hd : t.ctxDies = s.ctxDies) : KeepsTraps s t :=
  ⟨ha, hc, fun c d => by rw [State.cd, State.cd, hd]⟩

theorem KeepsTraps.ite {p : Prop} [Decidable p] {s t u : State} (ht : KeepsTraps s t) (hu : KeepsTraps s u) :
    KeepsTraps s (if p then t else u) := by
  split <;> assumption

theorem keepsTraps_countRecv (s : State) (t : TileId) (phase : BitVec 8) (n : Nat) : KeepsTraps s (s.countRecv t phase n) := by
  refine ⟨rfl, rfl, fun c d => ?_⟩
  unfold State.countRecv
  dsimp only
  rw [State.modCd_field (v := CtxDie.pending)]
  · rfl
  · exact fun _ => rfl

theorem keepsTraps_countSent (s : State) (t : TileId) (phase : BitVec 8) (n : Nat) : KeepsTraps s (s.countSent t phase n) := by
  refine ⟨rfl, rfl, fun c d => ?_⟩
  unfold State.countSent
  dsimp only
  rw [State.modCd_field (v := CtxDie.pending)]
  · rfl
  · exact fun _ => rfl

theorem keepsTraps_consume (s : State) (fi : Firing) : KeepsTraps s (s.consume fi) := by
  unfold State.consume
  split
  next => exact .refl s
  next => exact List.foldlRecOn (motive := KeepsTraps s) _ _ (.refl s) fun u hu ph _ => hu.trans (keepsTraps_countRecv u _ ph 1)

theorem keepsTraps_curEvent (s : State) (die typ ctx datum : Nat) (detail : Bytes) : KeepsTraps s (s.curEvent die typ ctx datum detail) :=
  .ite (.of_eq rfl rfl rfl) (.ite (.of_eq rfl rfl rfl) (.of_eq rfl rfl rfl))

theorem keepsTraps_catalogueAt (s : State) (c d typ code tile station block : Nat) (g : Tag) (tag : BitVec 64) (data : Bytes) :
    KeepsTraps s (s.catalogueAt c d typ code tile station block g tag data) :=
  .ite (.refl s) (keepsTraps_modCd s c d fun _ => rfl)

theorem State.halt_st (s : State) (c : Nat) : ((s.halt c).ctx c).st = if (s.ctx c).st = .running then .halted else (s.ctx c).st := by
  rw [State.halt, State.modCtx_ctx_self]
  split_ifs <;> rfl

/-! ### The classes (18 R369) -/

theorem faultClass_ends_iff {index code : Nat} : faultClass index code = .ends ↔ index = 1 ∨ index = 9 := by
  unfold faultClass
  split_ifs <;> simp_all

theorem faultClass_stop_iff {index code : Nat} (h : ¬ (index = 1 ∨ index = 9)) :
    faultClass index code = .stop ↔ ¬ (index = 10 ∨ 16 ≤ index ∨ (index = 6 ∧ code = 1)) := by
  have hends : ¬ (index = 1 || index = 9 : Bool) = true := by simpa using h
  unfold faultClass
  rw [if_neg hends]
  split_ifs with hgoes hfull
  · have hor : index = 10 ∨ 16 ≤ index := by simpa using hgoes
    exact iff_of_false (by decide) fun hn => hn (hor.imp_right .inl)
  · have hand : index = 6 ∧ code = 1 := by simpa using hfull
    exact iff_of_false (by decide) fun hn => hn (.inr (.inr hand))
  · have hor : ¬ (index = 10 ∨ 16 ≤ index) := by simpa using hgoes
    have hand : ¬ (index = 6 ∧ code = 1) := by simpa using hfull
    exact iff_of_true rfl (by tauto)

/-! ### The ways of a fault (18 R371) -/

section
variable {s : State} {x : FaultInfo}

/-- The tag of a trap token. -/
def FaultInfo.trapTag (x : FaultInfo) : Tag :=
  match x.job with
  | some j =>
    let st := ((j.fi.tokA.map (·.tag)).getD ((j.fi.tokB.map (·.tag)).getD {}))
    if x.sync then { ctx := BitVec.ofNat 12 x.ctx, frame := st.frame, iter := st.iter, phase := st.phase, kind := .control, level := st.level }
    else { ctx := BitVec.ofNat 12 x.ctx, kind := .control }
  | none => { ctx := BitVec.ofNat 12 x.ctx, kind := .control }

theorem FaultInfo.trapTag_fixed (x : FaultInfo) : x.trapTag.kind = .control ∧ x.trapTag.ctx = BitVec.ofNat 12 x.ctx
    ∧ x.trapTag.null = false ∧ x.trapTag.pred = false
    ∧ (x.sync = false → x.trapTag.frame = 0 ∧ x.trapTag.iter = 0 ∧ x.trapTag.phase = 0) := by
  unfold FaultInfo.trapTag
  cases x.job <;> cases x.sync <;> simp

/-- The entry of the die's copy of the trap table that a fault reads. -/
def State.trapEntry (s : State) (x : FaultInfo) : BitVec 64 := (s.cd x.ctx x.die).trape.getD x.index 0

/-- The flags of a fault record: synchronous, stopping, without a usable entry. -/
def State.trapFlags (s : State) (x : FaultInfo) : Nat :=
  (if x.sync then 1 else 0) + (if faultClass x.index x.code = .stop then 2 else 0)
    + (if (s.usableEntry x (s.trapEntry x)).isNone then 8 else 0)

def State.trapRecord (s : State) (x : FaultInfo) (k : Nat) : Bytes := faultRecord s x (s.trapFlags x) (teGen (s.trapEntry x)) k

def FaultInfo.pendingOf (x : FaultInfo) : Pending := ⟨x.index, x.code, x.sync, faultClass x.index x.code = .stop, x.job, x.acc⟩

/-- A fault in a pending entry: its set is consumed, the entry counts as sent. -/
def State.enterTrap (s : State) (x : FaultInfo) (k : Nat) : State :=
  let s := match x.sync, x.job with
    | true, some j => s.consume j.fi
    | _, _ => s
  s.modCd x.ctx x.die (fun y => { y with pending := NMap.put y.pending k x.pendingOf, sent := y.sent + 1 })

/-- The trap token to a handler's tile. -/
def State.trapToken (s : State) (x : FaultInfo) (k n : Nat) : Arrival :=
  { at_ := ⟨x.die, n⟩, place := ⟨teBlock (s.trapEntry x), teD (s.trapEntry x) / 2, teD (s.trapEntry x) % 2 = 1⟩,
    tok := { tag := x.trapTag, payload := s.trapRecord x k ++ x.operand.take 96 }, src := 2 ^ 40, outside := true, trap := true }

/-- The tile of a synchronous fault notes the handler that it waits for. -/
def State.noteHandler (u : State) (x : FaultInfo) (n : Nat) : State :=
  match x.tile, x.sync with
  | some m, true => u.modTile ⟨x.die, m⟩ (fun y => { y with trapAt := some (u.cycles, n) })
  | _, _ => u

/-- The trap token sent: it comes due, counts as sent and is recorded. -/
def State.sendTrap (s u : State) (x : FaultInfo) (k n : Nat) : State :=
  let e := s.trapEntry x
  let v := (u.noteHandler x n).post (.tokenArrival (s.trapToken x k n))
  let w := v.countSent ⟨x.die, n⟩ x.trapTag.phase 1
  w.catalogueAt x.ctx x.die 4 x.index n (teD e / 2) (teBlock e) x.trapTag (((w.faultRegion x).map (·.launch.tag)).getD 0) (s.trapRecord x k)

/-- A stopping fault halts its context. -/
def State.haltIfStop (s : State) (x : FaultInfo) : State := if faultClass x.index x.code = .stop then s.halt x.ctx else s

theorem State.raiseFault_none (h : (s.ctx x.ctx).st = .free ∨ (s.ctx x.ctx).st = .ended
    ∨ (faultClass x.index x.code = .ends ∧ ((s.ctx x.ctx).st = .idle ∨ (s.ctx x.ctx).st = .saved))) : s.raiseFault x = s := by
  unfold State.raiseFault
  exact if_pos (by simpa [or_assoc] using h)

section
variable (htaken : ¬ ((s.ctx x.ctx).st = .free ∨ (s.ctx x.ctx).st = .ended
    ∨ (faultClass x.index x.code = .ends ∧ ((s.ctx x.ctx).st = .idle ∨ (s.ctx x.ctx).st = .saved))))
include htaken

theorem State.raiseFault_ends (hends : faultClass x.index x.code = .ends) : s.raiseFault x = s.endOrHold x.ctx x.die 0
    (some (faultRecord s x ((if x.sync then 1 else 0) + 4) (teGen (s.trapEntry x)) 0)) := by
  unfold State.raiseFault
  refine (if_neg (by simpa [or_assoc] using htaken)).trans ?_
  exact if_pos hends

theorem State.raiseFault_full (hends : faultClass x.index x.code ≠ .ends)
    (hfull : NMap.freeKey (s.cd x.ctx x.die).pending (if x.sync then 63 else 64) = none) : s.raiseFault x =
      if x.sync then (match x.job with
        | some j => s.offerAgain j.fi
        | none => s)
      else (s.modCd x.ctx x.die (fun y => { y with
        status := withField y.status 32 8 (min 255 (fieldOf (s.cd x.ctx x.die).status 32 8 + 1)) })).haltIfStop x := by
  unfold State.raiseFault
  refine (if_neg (by simpa [or_assoc] using htaken)).trans ?_
  refine (if_neg hends).trans ?_
  rw [hfull]
  rfl

section
variable (hends : faultClass x.index x.code ≠ .ends) {k : Nat}
  (hfree : NMap.freeKey (s.cd x.ctx x.die).pending (if x.sync then 63 else 64) = some k)
include hends hfree

theorem State.raiseFault_unused (huse : s.usableEntry x (s.trapEntry x) = none) : s.raiseFault x =
    ((s.enterTrap x k).halt x.ctx).curEvent x.die 0x0B x.ctx (numAt (s.trapRecord x k) 0 8) (sliceB (s.trapRecord x k) 8 16) := by
  have hcopy : s.usableEntry x ((s.cd x.ctx x.die).trape.getD x.index 0) = none := huse
  unfold State.raiseFault
  refine (if_neg (by simpa [or_assoc] using htaken)).trans ?_
  refine (if_neg hends).trans ?_
  simp only [hfree, hcopy, State.trapRecord, State.trapFlags, State.trapEntry]
  rfl

theorem State.raiseFault_used {n : Nat} (huse : s.usableEntry x (s.trapEntry x) = some n) :
    s.raiseFault x = (s.sendTrap (s.enterTrap x k) x k n).haltIfStop x := by
  have hcopy : s.usableEntry x ((s.cd x.ctx x.die).trape.getD x.index 0) = some n := huse
  unfold State.raiseFault
  refine (if_neg (by simpa [or_assoc] using htaken)).trans ?_
  refine (if_neg hends).trans ?_
  simp only [hfree, hcopy, State.sendTrap, State.trapToken, State.trapRecord, State.trapFlags, State.trapEntry]
  rfl

end

end

end

/-- The lowest free key. -/
theorem NMap.freeKey_eq_some_iff {α : Type} {m : NMap α} {bound k : Nat} :
    NMap.freeKey m bound = some k ↔ k < bound ∧ NMap.find m k = none ∧ ∀ i < k, NMap.find m i ≠ none := by
  rw [NMap.freeKey, List.find?_range_eq_some]
  simp only [List.mem_range, Option.isNone_iff_eq_none, Bool.not_eq_true', Option.isNone_eq_false_iff, Option.isSome_iff_ne_none]
  tauto

theorem NMap.freeKey_eq_none_iff {α : Type} {m : NMap α} {bound : Nat} :
    NMap.freeKey m bound = none ↔ ∀ i < bound, NMap.find m i ≠ none := by
  simp [NMap.freeKey, List.find?_eq_none]

/-! ### What each way leaves -/

/-- The set of a synchronous fault consumed leaves the traps. -/
theorem keepsTraps_faultSet (s : State) (x : FaultInfo) : KeepsTraps s (match x.sync, x.job with
    | true, some j => s.consume j.fi
    | _, _ => s) := by
  split
  next => exact keepsTraps_consume _ _
  next => exact .refl s

section
variable (s u : State) (x : FaultInfo) (k n : Nat)

theorem State.enterTrap_agenda : (s.enterTrap x k).agenda = s.agenda := (keepsTraps_faultSet s x).agenda

theorem State.enterTrap_ctx (c : Nat) : (s.enterTrap x k).ctx c = s.ctx c := (keepsTraps_faultSet s x).ctx c

theorem State.enterTrap_pending : NMap.find ((s.enterTrap x k).cd x.ctx x.die).pending k = some x.pendingOf := by
  rw [State.enterTrap, State.modCd_cd_self]
  exact NMap.find_put_self _ _ _

theorem State.noteHandler_keeps : KeepsTraps u (u.noteHandler x n) := by
  unfold State.noteHandler
  split
  next => exact .of_eq rfl rfl rfl
  next => exact .refl u

/-- Sending the token to the handler keeps the traps of the state in which it stands due. -/
theorem State.sendTrap_keeps :
    KeepsTraps ((u.noteHandler x n).post (.tokenArrival (s.trapToken x k n))) (s.sendTrap u x k n) :=
  (keepsTraps_countSent _ _ _ _).trans (keepsTraps_catalogueAt _ _ _ _ _ _ _ _ _ _ _)

theorem State.sendTrap_agenda : (s.sendTrap u x k n).agenda = u.agenda ++ [.tokenArrival (s.trapToken x k n)] :=
  (s.sendTrap_keeps u x k n).agenda.trans (congrArg (· ++ _) (u.noteHandler_keeps x n).agenda)

theorem State.sendTrap_ctx (c : Nat) : (s.sendTrap u x k n).ctx c = u.ctx c :=
  ((s.sendTrap_keeps u x k n).ctx c).trans ((u.noteHandler_keeps x n).ctx c)

theorem State.sendTrap_pending (c d : Nat) : ((s.sendTrap u x k n).cd c d).pending = (u.cd c d).pending :=
  ((s.sendTrap_keeps u x k n).pending c d).trans ((u.noteHandler_keeps x n).pending c d)

theorem State.haltIfStop_agenda : (s.haltIfStop x).agenda = s.agenda := by
  unfold State.haltIfStop; split <;> rfl

theorem State.haltIfStop_cd (c d : Nat) : (s.haltIfStop x).cd c d = s.cd c d := by
  unfold State.haltIfStop; split <;> rfl

theorem State.haltIfStop_st : ((s.haltIfStop x).ctx x.ctx).st =
    if (s.ctx x.ctx).st = .running ∧ faultClass x.index x.code = .stop then .halted else (s.ctx x.ctx).st := by
  unfold State.haltIfStop
  by_cases hstop : faultClass x.index x.code = .stop
  · simp only [hstop, if_true, and_true]
    exact s.halt_st x.ctx
  · simp only [hstop, if_false, and_false]

end

/-! ### A fault by its index (18 R369) -/

section
variable {s : State} {x : FaultInfo}

/-- A fault of the indices that end a context. -/
def FaultInfo.Ends (x : FaultInfo) : Prop := x.index = 1 ∨ x.index = 9

/-- A fault after which a context goes on. -/
def FaultInfo.Goes (x : FaultInfo) : Prop := x.index = 10 ∨ 16 ≤ x.index ∨ (x.index = 6 ∧ x.code = 1)

section
variable (hfree : (s.ctx x.ctx).st ≠ .free) (hended : (s.ctx x.ctx).st ≠ .ended)
include hfree hended

theorem State.fault_ends (hends : x.Ends) (hidle : (s.ctx x.ctx).st ≠ .idle) (hsaved : (s.ctx x.ctx).st ≠ .saved) :
    s.raiseFault x = s.endOrHold x.ctx x.die 0 (some (faultRecord s x ((if x.sync then 1 else 0) + 4) (teGen (s.trapEntry x)) 0)) :=
  State.raiseFault_ends (by rintro (h | h | ⟨-, h | h⟩) <;> contradiction) (faultClass_ends_iff.mpr hends)

section
variable (hends : ¬ x.Ends)
include hends

theorem State.fault_taken : ¬ ((s.ctx x.ctx).st = .free ∨ (s.ctx x.ctx).st = .ended
    ∨ (faultClass x.index x.code = .ends ∧ ((s.ctx x.ctx).st = .idle ∨ (s.ctx x.ctx).st = .saved))) := by
  rintro (h | h | ⟨h, -⟩)
  · exact hfree h
  · exact hended h
  · exact hends (faultClass_ends_iff.mp h)

omit hfree hended in
theorem FaultInfo.not_ends : faultClass x.index x.code ≠ .ends := fun h => hends (faultClass_ends_iff.mp h)

omit hfree hended in
theorem FaultInfo.stop_iff : faultClass x.index x.code = .stop ↔ ¬ x.Goes := faultClass_stop_iff hends

section
variable {k : Nat} (hlow : NMap.freeKey (s.cd x.ctx x.die).pending (if x.sync then 63 else 64) = some k)
include hlow

/-- Without a usable entry nothing comes due, and the context halts. -/
theorem State.fault_unused (huse : s.usableEntry x (s.trapEntry x) = none) :
    NMap.find ((s.raiseFault x).cd x.ctx x.die).pending k = some x.pendingOf ∧ (s.raiseFault x).agenda = s.agenda
    ∧ ((s.raiseFault x).ctx x.ctx).st = if (s.ctx x.ctx).st = .running then .halted else (s.ctx x.ctx).st := by
  rw [State.raiseFault_unused (State.fault_taken hfree hended hends) (FaultInfo.not_ends hends) hlow huse]
  have hkeeps := keepsTraps_curEvent ((s.enterTrap x k).halt x.ctx) x.die 0x0B x.ctx (numAt (s.trapRecord x k) 0 8)
    (sliceB (s.trapRecord x k) 8 16)
  refine ⟨?_, hkeeps.agenda.trans (s.enterTrap_agenda x k), ?_⟩
  · rw [hkeeps.pending]
    exact s.enterTrap_pending x k
  · rw [hkeeps.ctx, State.halt_st, State.enterTrap_ctx]

/-- With one the trap token comes due, and a stopping fault halts the context. -/
theorem State.fault_used {n : Nat} (huse : s.usableEntry x (s.trapEntry x) = some n) :
    NMap.find ((s.raiseFault x).cd x.ctx x.die).pending k = some x.pendingOf
    ∧ (s.raiseFault x).agenda = s.agenda ++ [.tokenArrival (s.trapToken x k n)]
    ∧ ((s.raiseFault x).ctx x.ctx).st =
      if (s.ctx x.ctx).st = .running ∧ faultClass x.index x.code = .stop then .halted else (s.ctx x.ctx).st := by
  rw [State.raiseFault_used (State.fault_taken hfree hended hends) (FaultInfo.not_ends hends) hlow huse]
  refine ⟨?_, ?_, ?_⟩
  · rw [State.haltIfStop_cd, State.sendTrap_pending]
    exact s.enterTrap_pending x k
  · rw [State.haltIfStop_agenda, State.sendTrap_agenda, State.enterTrap_agenda]
  · rw [State.haltIfStop_st, State.sendTrap_ctx, State.enterTrap_ctx]

end

/-- An asynchronous fault that finds no entry is counted. -/
theorem State.fault_lost (hfull : NMap.freeKey (s.cd x.ctx x.die).pending (if x.sync then 63 else 64) = none) (hsync : x.sync = false) :
    (s.raiseFault x).agenda = s.agenda ∧ ((s.raiseFault x).cd x.ctx x.die).pending = (s.cd x.ctx x.die).pending
    ∧ fieldOf ((s.raiseFault x).cd x.ctx x.die).status 32 8 = min 255 (fieldOf (s.cd x.ctx x.die).status 32 8 + 1)
    ∧ ((s.raiseFault x).ctx x.ctx).st =
      if (s.ctx x.ctx).st = .running ∧ faultClass x.index x.code = .stop then .halted else (s.ctx x.ctx).st := by
  rw [State.raiseFault_full (State.fault_taken hfree hended hends) (FaultInfo.not_ends hends) hfull, if_neg (ne_true_of_eq_false hsync)]
  refine ⟨?_, ?_, ?_, ?_⟩
  · rw [State.haltIfStop_agenda]; rfl
  · rw [State.haltIfStop_cd, State.modCd_cd_self]
  · rw [State.haltIfStop_cd, State.modCd_cd_self, fieldOf_withField_self _ _ (by decide), Nat.mod_eq_of_lt]
    omega
  · rw [State.haltIfStop_st]; rfl

/-- The set of a synchronous one stands ready again. -/
theorem State.fault_again (hfull : NMap.freeKey (s.cd x.ctx x.die).pending (if x.sync then 63 else 64) = none) {j : Job} (hsync : x.sync = true)
    (hjob : x.job = some j) : s.raiseFault x = s.offerAgain j.fi := by
  rw [State.raiseFault_full (State.fault_taken hfree hended hends) (FaultInfo.not_ends hends) hfull, if_pos hsync, hjob]

end
end

/-- The generation of a trap-table entry. -/
theorem teGen_eq (e : BitVec 64) : teGen e = e.toNat % 65536 := by
  rw [teGen, fieldOf, bitsN_zero]
  rfl

/-- The station and the side of a trap-table entry. -/
theorem teD_eq (e : BitVec 64) : teD e / 2 = fieldOf e 27 5 ∧ teD e % 2 = fieldOf e 26 1 := by
  simp only [teD, fieldOf, bitsN]
  omega

/-- The flags of a record whose fault finds a usable entry. -/
theorem State.trapFlags_used {n : Nat} (hends : ¬ x.Ends) (huse : s.usableEntry x (s.trapEntry x) = some n) :
    s.trapFlags x = (if x.sync then 1 else 0) + if x.index = 10 ∨ 16 ≤ x.index ∨ (x.index = 6 ∧ x.code = 1) then 0 else 2 := by
  have hstop := FaultInfo.stop_iff hends
  unfold FaultInfo.Goes at hstop
  rw [State.trapFlags, huse]
  split_ifs <;> simp_all

end

end Sys2Proof.Machine

open Sys2Proof Sys2Proof.Machine

/-- Settles O26: the record's fields lie where R372 puts them (`faultRecord_fields`), and each way of a fault is the lemma of its own
(`State.fault_ends`, `_unused`, `_used`, `_lost`, `_again`). -/
theorem faultIsTaken : Obligations.FaultIsTaken := by
  unfold Obligations.FaultIsTaken
  refine ⟨fun s x flags gen entry => ?record, fun s x => ?taken⟩
  case record =>
    intro r
    obtain ⟨htile, hpkg, hblock, hgen, hentry⟩ := faultRecord_fields s x flags gen entry
    have hbyte := fun o h => faultRecord_byte s x flags gen entry (o := o) h
    refine ⟨faultRecord_length s x flags gen entry, hbyte 0 (by decide), hbyte 1 (by decide), hbyte 2 (by decide), fun j hjob hnamed => ?_,
      fun slot n hnamed => ?_, htile, hpkg, hblock, hgen, hentry, faultRecord_detail s x flags gen entry⟩
    · refine (hbyte 3 (by decide)).trans ?_
      show x.stationByte % 256 = _
      rw [FaultInfo.stationByte, hnamed, hjob]
      dsimp only
      split <;> rfl
    · refine (hbyte 3 (by decide)).trans ?_
      show x.stationByte % 256 = _
      rw [FaultInfo.stationByte, hnamed]
  case taken =>
    dsimp only
    refine ⟨fun hnone => ?none, fun hfree hended => ⟨fun hends hidle hsaved => ?ends, fun k hends hlow => ?entry, fun hends hfull => ?full⟩⟩
    case none => exact State.raiseFault_none (by rwa [faultClass_ends_iff])
    case ends =>
      have hway := State.fault_ends hfree hended hends hidle hsaved
      rw [teGen_eq] at hway
      exact ⟨hway, fun htrap => hway.trans (State.endOrHold_of_none htrap _ _ _)⟩
    case entry =>
      have hkey := NMap.freeKey_eq_some_iff.mpr hlow
      have hstop := FaultInfo.stop_iff hends
      have hpending : decide (faultClass x.index x.code = .stop) = true ↔ ¬ x.Goes := decide_eq_true_iff.trans hstop
      cases huse : s.usableEntry x (s.trapEntry x) with
      | none =>
        obtain ⟨hentry, hagenda, hst⟩ := State.fault_unused hfree hended hends hkey huse
        exact ⟨⟨_, hpending, hentry⟩, fun _ => ⟨hagenda, hst⟩, fun n hn => absurd (hn.symm.trans huse) (Option.some_ne_none n)⟩
      | some n =>
        obtain ⟨hentry, hagenda, hst⟩ := State.fault_used hfree hended hends hkey huse
        refine ⟨⟨_, hpending, hentry⟩, fun hn => absurd (huse.symm.trans hn) (Option.some_ne_none n), fun m hm => ?_⟩
        obtain rfl : n = m := Option.some.inj (huse.symm.trans hm)
        obtain ⟨hkind, hctx, hnull, hpred, hasync⟩ := x.trapTag_fixed
        refine ⟨hst.trans (if_congr (and_congr_right' hstop) rfl rfl), s.trapToken x k n, hagenda, rfl, rfl, ?_, hkind, hctx, hnull, hpred, hasync, ?_⟩
        · obtain ⟨hstation, hside⟩ := teD_eq (s.trapEntry x)
          rw [State.trapToken, hstation, hside]
          rfl
        · show s.trapRecord x k ++ _ = _
          rw [State.trapRecord, State.trapFlags_used hends huse, teGen_eq]
          rfl
    case full =>
      have hkey := NMap.freeKey_eq_none_iff.mpr hfull
      refine ⟨fun j hsync hjob => State.fault_again hfree hended hends hkey hsync hjob, fun hsync => ?_⟩
      obtain ⟨hagenda, hentries, hcount, hst⟩ := State.fault_lost hfree hended hends hkey hsync
      exact ⟨hagenda, hentries, hcount, hst.trans (if_congr (and_congr_right' (FaultInfo.stop_iff hends)) rfl rfl)⟩

end

section
/-! PROOFS. RMT and RREL (14 R309 to R313): what a descriptor within its limits comes to, and the entries that a flag leaves. -/

namespace Sys2Proof.Machine

/-! ### What sending leaves -/

/-- A packet sent changes the agenda alone. -/
theorem State.emitPkt_agenda (s : State) (d : Nat) (p : Packet) : ∃ a, s.emitPkt d p = { s with agenda := a } := by
  unfold State.emitPkt
  dsimp only
  split
  · split
    · exact ⟨_, rfl⟩
    · split
      · exact ⟨_, rfl⟩
      · exact ⟨_, rfl⟩
  · exact ⟨_, rfl⟩

/-- So do several. -/
theorem State.emitPkts_agenda {α : Type} (l : List α) (d : Nat) (p : State → α → Packet) (s : State) :
    ∃ a, l.foldl (fun s x => s.emitPkt d (p s x)) s = { s with agenda := a } := by
  refine List.foldlRecOn (motive := fun u : State => ∃ a, u = { s with agenda := a }) _ _ ⟨s.agenda, rfl⟩ ?_
  rintro _ ⟨a, rfl⟩ x -
  exact State.emitPkt_agenda { s with agenda := a } d _

@[simp] theorem State.consume_dies (s : State) (fi : Firing) : (s.consume fi).dies = s.dies := by
  unfold State.consume
  split
  next => rfl
  next => exact foldl_preserves (f := fun s ph => State.countRecv s fi.at_ ph 1) (v := State.dies) (fun _ _ _ => rfl) s

@[simp] theorem State.consume_ready (s : State) (fi : Firing) : (s.consume fi).ready = s.ready := by
  unfold State.consume
  split
  next => rfl
  next => exact foldl_preserves (f := fun s ph => State.countRecv s fi.at_ ph 1) (v := State.ready) (fun _ _ _ => rfl) s

theorem State.noteLevel_dies (s : State) (j : Job) : (s.noteLevel j).dies = s.dies := by
  unfold State.noteLevel
  dsimp only
  split <;> rfl

theorem State.noteLevel_cycles (s : State) (j : Job) : (s.noteLevel j).cycles = s.cycles := by
  unfold State.noteLevel
  dsimp only
  split <;> rfl

/-! ### Send entries (14 R303) -/

theorem SendEntry.is_iff {e : SendEntry} {c rc ep dst : Nat} : e.is c rc ep dst = true ↔ e.ctx = c ∧ e.rc = rc ∧ e.epoch = ep ∧ e.dst = dst := by
  simp [SendEntry.is, SendEntry.ofGroup, and_assoc]

/-- An entry put in its place is the one of its group and destination. -/
theorem State.send?_putSend_self (s : State) (d : Nat) (e : SendEntry) :
    (s.putSend d e).send? d e.ctx e.rc e.epoch e.dst = some e := by
  have hself : e.is e.ctx e.rc e.epoch e.dst = true := SendEntry.is_iff.mpr ⟨rfl, rfl, rfl, rfl⟩
  unfold State.send? State.putSend
  rw [State.modDie_die_self]
  dsimp only
  generalize (s.die d).sends = l
  split_ifs with hany
  · obtain ⟨q, hq, hsame⟩ := List.any_eq_true.mp hany
    rw [List.find?_map]
    have hfind : l.find? ((fun q => q.is e.ctx e.rc e.epoch e.dst) ∘ fun q => if q.is e.ctx e.rc e.epoch e.dst = true then e else q)
        = l.find? (fun q => q.is e.ctx e.rc e.epoch e.dst) := by
      congr 1
      funext q
      dsimp only [Function.comp]
      split_ifs with hq
      · rw [hself, hq]
      · rfl
    rw [hfind]
    obtain ⟨r, hr⟩ := Option.isSome_iff_exists.mp (List.find?_isSome (p := fun q => q.is e.ctx e.rc e.epoch e.dst).mpr ⟨q, hq, hsame⟩)
    rw [hr, Option.map_some, if_pos (List.find?_some hr)]
  · have hnone : l.find? (fun q => q.is e.ctx e.rc e.epoch e.dst) = none :=
      List.find?_eq_none.mpr fun q hq hsame => hany (List.any_eq_true.mpr ⟨q, hq, hsame⟩)
    rw [List.find?_append, hnone, Option.none_or, List.find?_singleton, if_pos hself]

/-- An entry depends on its die's entries alone. -/
theorem State.send?_of_dies {s t : State} (h : t.dies = s.dies) (d c rc ep dst : Nat) : t.send? d c rc ep dst = s.send? d c rc ep dst := by
  rw [State.send?, State.send?, State.die, State.die, h]

/-- The entry that a flag sent leaves: flagged, with its count, from this cycle on. -/
def SendEntry.flaggedAt (e : SendEntry) (p : Packet) (cycle : Nat) : SendEntry :=
  { e with st := .flagged, flag := some p, resends := 0, since := cycle }

/-- A flag sent puts its entry and changes the agenda. -/
theorem State.sendFlag_eq (s : State) (d : Nat) (e : SendEntry) (p : Packet) :
    ∃ a q, s.sendFlag d e p = { s.putSend d (e.flaggedAt q s.cycles) with agenda := a } := by
  obtain ⟨a, ha⟩ := State.emitPkt_agenda ((s.putSend d (e.flaggedAt { p with
    rc := BitVec.ofNat 8 e.rc, epoch := BitVec.ofNat 8 e.epoch, index := e.count,
    stamp := { p.stamp with level := maxLevel p.stamp.level e.level } } s.cycles)).post (.flagResendTimer d e.key)) d { p with
      rc := BitVec.ofNat 8 e.rc, epoch := BitVec.ofNat 8 e.epoch, index := e.count,
      stamp := { p.stamp with level := maxLevel p.stamp.level e.level } }
  exact ⟨a, _, ha⟩

/-- A flag sent leaves its entry flagged. -/
theorem State.sendFlag_send? (s : State) (d : Nat) (e : SendEntry) (p : Packet) :
    ∃ q, (s.sendFlag d e p).send? d e.ctx e.rc e.epoch e.dst = some (e.flaggedAt q s.cycles) := by
  obtain ⟨a, q, h⟩ := State.sendFlag_eq s d e p
  refine ⟨q, ?_⟩
  rw [h]
  exact State.send?_putSend_self _ d (e.flaggedAt q s.cycles)

/-- Flags sent for one entry, at least one of them, leave it flagged. -/
theorem State.sendFlags_send? (ps : List Packet) (s : State) (d : Nat) (e : SendEntry) (hps : ps ≠ []) :
    ∃ q, (ps.foldl (fun s p => s.sendFlag d e p) s).send? d e.ctx e.rc e.epoch e.dst = some (e.flaggedAt q s.cycles) := by
  have hcycles : ∀ l : List Packet, (l.foldl (fun s p => s.sendFlag d e p) s).cycles = s.cycles := fun l =>
    foldl_preserves (f := fun s p => State.sendFlag s d e p) (v := State.cycles) (fun u p _ => by
      obtain ⟨a, q, h⟩ := u.sendFlag_eq d e p
      rw [h]
      rfl) s
  obtain ⟨l, p, rfl⟩ := List.eq_nil_or_concat ps |>.resolve_left hps
  rw [List.concat_eq_append, List.foldl_append]
  obtain ⟨q, hq⟩ := State.sendFlag_send? (l.foldl (fun s p => s.sendFlag d e p) s) d e p
  exact ⟨q, hq.trans (by rw [hcycles])⟩

theorem State.sendFlags_tiles (ps : List Packet) (s : State) (d : Nat) (e : SendEntry) :
    (ps.foldl (fun s p => s.sendFlag d e p) s).tiles = s.tiles :=
  foldl_preserves (f := fun s p => State.sendFlag s d e p) (v := State.tiles) (fun u p _ => by
    obtain ⟨a, q, h⟩ := u.sendFlag_eq d e p
    rw [h]
    rfl) s

/-- The entry that a flag test gives belongs to its group and destination. -/
theorem State.flagTest_ok {s : State} {d c rc ep dst : Nat} {e : SendEntry} (h : s.flagTest d c rc ep dst = .ok e) :
    e.ctx = c ∧ e.rc = rc := by
  unfold State.flagTest at h
  split at h
  · split at h
    · cases h
    · cases h
      exact ⟨rfl, rfl⟩
  next q hq =>
    split at h
    · cases h
      rw [State.send?] at hq
      have hmine := List.find?_some hq
      obtain ⟨hc, hrc, -, -⟩ := SendEntry.is_iff.mp hmine
      exact ⟨hc, hrc⟩
    · cases h

/-! ### The parts of an access with an operation -/

/-- A run of updates that each add one at the end of a list leaves it with something in it. -/
theorem foldl_snoc_ne_nil {α β σ : Type} {f : List β × σ → α → List β × σ} (hf : ∀ acc x, ∃ b, (f acc x).1 = acc.1 ++ [b]) {l : List α}
    (hl : l ≠ []) (acc : List β × σ) : (l.foldl f acc).1 ≠ [] := by
  obtain ⟨m, x, rfl⟩ := List.eq_nil_or_concat l |>.resolve_left hl
  obtain ⟨b, hb⟩ := hf (m.foldl f acc) x
  rw [List.concat_eq_append, List.foldl_append, List.foldl_cons, List.foldl_nil, hb]
  exact List.append_ne_nil_of_right_ne_nil _ (List.cons_ne_nil b [])

/-- An access with an operation is one piece. -/
theorem State.orderPieces_op (s : State) (c : Nat) {a : Access} (hop : a.op.isSome = true) : s.orderPieces c a.pieces ≠ [] := by
  obtain ⟨⟨ea, o⟩, ho⟩ := Option.isSome_iff_exists.mp hop
  have hpieces : a.pieces = [(ea, 0, a.size, [])] := by rw [Access.pieces, ho]
  rw [State.orderPieces, hpieces]
  by_cases hkind : s.kindAt c ea = 0 <;> simp [hkind, sortBy, insertBy]

/-- The parts of an access stand beside the dies and the time, and an access with an operation has one. -/
theorem State.mkParts_beside (s : State) (a : Access) (serial slot : Nat) :
    (s.mkParts a serial slot).2.dies = s.dies ∧ (s.mkParts a serial slot).2.cycles = s.cycles
    ∧ (a.op.isSome = true → (s.mkParts a serial slot).1 ≠ []) := by
  unfold State.mkParts
  extract_lets fi t c ps ids isSo soIds mixed s1
  refine ⟨?_, ?_, fun hop => ?_⟩
  · refine (foldl_preserves (v := fun acc : List Part × State => acc.2.dies) ?_ _).trans (State.noteLevel_dies _ a.job)
    intro acc q _
    dsimp only
    split <;> rfl
  · refine (foldl_preserves (v := fun acc : List Part × State => acc.2.cycles) ?_ _).trans (State.noteLevel_cycles _ a.job)
    intro acc q _
    dsimp only
    split <;> rfl
  · have hps : ps ≠ [] := by
      have hnone : a.op.isNone = false := by rw [Option.isNone_eq_false_iff]; exact hop
      show s.orderPieces c (if a.major = 0x21 && a.op.isNone then s.pagePieces a else a.pieces) ≠ []
      rw [hnone, Bool.and_false, if_neg Bool.false_ne_true]
      exact s.orderPieces_op c hop
    refine foldl_snoc_ne_nil (fun acc q => ⟨_, rfl⟩) ?_ _
    rw [Ne, ← List.length_eq_zero_iff]
    simpa [ids] using hps

/-! ### The issue of a release atomic and of a RELFLAG -/

section
variable {s : State} {a : Access} {ep : Nat} {e : SendEntry}

/-- The address of a release access. -/
def Access.flagAddr (a : Access) : Nat :=
  match a.op with
  | some (ea, _) => ea
  | none => (a.writes.map (·.1)).headD 0

/-- With an open epoch, room for its entry and no watch hit a release access counts as sent and goes (14 R303). -/
theorem State.startFlag_goes (hep : s.openEpoch (s.regionCtx a.job.fi.region) a.job.fi.die a.rc = some ep)
    (hok : s.flagTest a.job.fi.die (s.regionCtx a.job.fi.region) a.rc ep (vaOwner a.flagAddr) = .ok e) (hw : s.watchHit a = none)
    (go : SendEntry → State → State) : s.startFlag a go = go e (s.dieSent (s.regionCtx a.job.fi.region) a.job.fi.die a.job.fi.stTag.phase) := by
  cases ho : a.op <;> rw [Access.flagAddr, ho] at hok <;> simp only [State.startFlag, ho, hep, hok, hw]

/-- The reply slot of a release atomic. -/
def Access.atomReply (a : Access) (serial : Nat) (pkts : List Packet) (cycle : Nat) : Reply :=
  { job := { a.job with fi := { a.job.fi with parts := 1 } }, kind := .atomic, major := 0x21, minor := a.minor, serial := serial,
    left := pkts.map Packet.part, buf := zeros a.size, pkts := pkts, since := cycle }

/-- A release atomic that may go holds its reply slot and leaves its group's entry flagged, with its count (14 R310). -/
theorem State.issueRelAtom_goes {k : Nat} (hslot : (s.tile a.job.fi.at_).freeSlot = some k)
    (hep : s.openEpoch (s.regionCtx a.job.fi.region) a.job.fi.die a.rc = some ep)
    (hok : s.flagTest a.job.fi.die (s.regionCtx a.job.fi.region) a.rc ep (vaOwner a.flagAddr) = .ok e) (hw : s.watchHit a = none)
    (hop : a.op.isSome = true) :
    (∃ serial pkts cycle, NMap.find ((s.issueRelAtom a).tile a.job.fi.at_).replies k = some (a.atomReply serial pkts cycle))
    ∧ ∃ q, (s.issueRelAtom a).send? a.job.fi.die (s.regionCtx a.job.fi.region) a.rc e.epoch e.dst = some (e.flaggedAt q s.cycles) := by
  obtain ⟨hc, hrc⟩ := State.flagTest_ok hok
  unfold State.issueRelAtom
  dsimp only
  rw [hslot]
  dsimp only
  rw [State.startFlag_goes hep hok hw]
  generalize hu : s.dieSent (s.regionCtx a.job.fi.region) a.job.fi.die a.job.fi.stTag.phase = u
  have hcycles : u.cycles = s.cycles := by rw [← hu]; rfl
  obtain ⟨hdies, hnow, hparts⟩ := State.mkParts_beside u.fresh.2 a u.fresh.1 k
  replace hparts := hparts hop
  generalize u.fresh.2.mkParts a u.fresh.1 k = pw at hdies hnow hparts
  obtain ⟨parts, w⟩ := pw
  dsimp only at hdies hnow hparts ⊢
  generalize hpk : parts.map _ = pkts
  have hpkts : pkts ≠ [] := hpk ▸ List.map_eq_nil_iff.not.mpr hparts
  have htime : (w.l1Drop a.job.fi.at_ ((a.op.map (·.1)).getD 0 / 64)).cycles = s.cycles := hnow.trans hcycles
  refine ⟨⟨u.fresh.1, pkts, s.cycles, ?_⟩, ?_⟩
  · rw [State.tile, State.sendFlags_tiles, ← State.tile, State.modTile_tile_self, htime]
    exact NMap.find_put_self _ _ _
  · generalize hz : State.modTile _ _ _ = z
    have hend : z.cycles = s.cycles := by rw [← hz]; exact htime
    obtain ⟨q, hq⟩ := State.sendFlags_send? pkts z a.job.fi.die e hpkts
    rw [← hc, ← hrc]
    exact ⟨q, hq.trans (by rw [hend])⟩

/-- A RELFLAG that may go emits an empty value, its group's entry flagged with its count (14 R312). -/
theorem State.issueRelflag_goes (hep : s.openEpoch (s.regionCtx a.job.fi.region) a.job.fi.die a.rc = some ep)
    (hok : s.flagTest a.job.fi.die (s.regionCtx a.job.fi.region) a.rc ep (vaOwner a.flagAddr) = .ok e) (hw : s.watchHit a = none) :
    ∃ v : State, s.issueRelflag a = v.emitBoth a.job .value []
      ∧ ∃ q cycle, v.send? a.job.fi.die (s.regionCtx a.job.fi.region) a.rc e.epoch e.dst = some (e.flaggedAt q cycle) := by
  obtain ⟨hc, hrc⟩ := State.flagTest_ok hok
  unfold State.issueRelflag
  dsimp only
  rw [State.startFlag_goes hep hok hw]
  refine ⟨_, rfl, ?_⟩
  rw [State.send?_of_dies (State.consume_dies _ _), ← hc, ← hrc]
  obtain ⟨q, hq⟩ := State.sendFlag_send? _ a.job.fi.die e _
  exact ⟨q, _, hq⟩

end

/-! ### Descriptors within their limits -/

section
variable {f : Fields} {regs : List Nat} {s u : State} {r : Region} {ea : Nat} {d : Bytes}

/-- An RMT firing whose descriptor keeps its limits has its effect (14 R310). -/
theorem fireRmt_goes (h : Fires f regs s u) (hr : u.region? s.cur.region = some r) (hd : descriptorOn u ⟨s.cur, f⟩ false = d)
    (hea : baseAddr u ⟨s.cur, f⟩ d 0 = ea) (hring : rmtRing d ≠ 3) {limit : Nat} (hlen : 0 < limit → rmtLen d ≤ limit)
    (go : Job → Launch → Nat → Bytes → State → State) :
    fireRmt limit f regs go s = finished f s (go ⟨s.cur, f⟩ r.launch ea d u) := by
  have hl : u.launchOf s.cur = some r.launch := State.launchOf_of_region hr
  have hfits : (rmtRing d = 3 || (limit > 0 && rmtLen d > limit) : Bool) = false := by
    simp only [Bool.or_eq_false_iff, Bool.and_eq_false_iff, decide_eq_false_iff_not]
    exact ⟨hring, by omega⟩
  subst hd hea
  rw [fireRmt, fire_next h]
  simp only [hl, hfits, Bool.false_eq_true, if_false]

/-- The access of a release atomic (14 R310). -/
def rmtAtom (f : Fields) (s u : State) (minor : Nat) (op : AtomOp) (ea rc ring : Nat) : Access :=
  let sz := f.tyT.size
  let b := atomOperand u ⟨s.cur, f⟩ sz
  { job := ⟨s.cur, f⟩, major := 0x21, minor := minor, size := sz, rc := rc, ring := ring,
    op := some (ea, .atomic op sz f.tyT.isSigned (sliceB b 0 sz) (sliceB b sz sz)) }

theorem fireRmtAtom_goes (h : Fires f (sregDests f) s u) (hr : u.region? s.cur.region = some r)
    (hd : descriptorOn u ⟨s.cur, f⟩ false = d) (hea : baseAddr u ⟨s.cur, f⟩ d 0 = ea) (hring : rmtRing d ≠ 3) (hal : ea % f.tyT.size = 0)
    (hden : firstDenied r.launch true ea f.tyT.size = none) (minor : Nat) (op : AtomOp) :
    fireRmtAtom minor op f s = finished f s (u.issueRelAtom (rmtAtom f s u minor op ea (rmtRc d) (rmtRing d))) := by
  refine (fireRmt_goes h hr hd hea hring (fun hpos => absurd hpos (lt_irrefl 0)) _).trans (congrArg (finished f s) ?_)
  dsimp only
  rw [if_neg (not_not.mpr hal), hden]
  rfl

end

/-- A prefetch sends its pieces and leaves memory and the ready sets; an empty one sends nothing (14 R310). -/
def State.prefetch (u : State) (j : Job) (ea n : Nat) (d : Bytes) : State :=
  if n = 0 then u.consume j.fi
  else (u.pagePieces { job := j, major := 0x21, minor := 5, loads := [(ea, n)], size := n }).foldl (fun s p => s.emitPkt j.fi.at_.die {
    typ := 0x0A, addr := BitVec.ofNat 64 p.1, to_ := BitVec.ofNat 13 (vaOwner p.1), from_ := s.code j.fi.at_.die,
    inc := (s.die j.fi.at_.die).inc, cls := 2, ctx := BitVec.ofNat 12 (s.regionCtx j.fi.region), phase := j.fi.stTag.phase,
    ring := BitVec.ofNat 2 (rmtRing d), op := .prefetch p.2.2.1, n := p.2.2.1 }) (u.consume j.fi)

theorem State.prefetch_leaves (u : State) (j : Job) (ea n : Nat) (d : Bytes) : (u.prefetch j ea n d).mem = u.mem
    ∧ (u.prefetch j ea n d).ready = u.ready ∧ (n = 0 → u.prefetch j ea n d = u.consume j.fi) := by
  unfold State.prefetch
  split_ifs with hzero
  · exact ⟨u.consume_mem j.fi, u.consume_ready j.fi, fun _ => rfl⟩
  · obtain ⟨a, ha⟩ := State.emitPkts_agenda _ j.fi.at_.die _ (u.consume j.fi)
    rw [ha]
    exact ⟨u.consume_mem j.fi, u.consume_ready j.fi, fun h => absurd h hzero⟩

/-! ### Channels (14 R312) -/

section
variable {s : State} {c d rc : Nat} {ch : RelChan}

/-- RELOPEN of an unopened channel opens its epoch 0. -/
theorem State.relopenTest_first (hch : NMap.find (s.die d).relChans (chanKey c rc) = none) : ∃ v, s.relopenTest c d rc = .done v 0 := by
  unfold State.relopenTest
  rw [hch]
  exact ⟨_, rfl⟩

/-- An epoch of a channel opened at this cycle; the entries of two epochs before are freed (14 R312). -/
def State.openedEpoch (s : State) (c d rc e : Nat) : State :=
  s.modDie d (fun x => { x with
    relChans := NMap.put x.relChans (chanKey c rc) ⟨e, s.cycles⟩, sends := x.sends.filter (fun q => !q.ofGroup c rc ((e + 254) % 256)) })

theorem State.openedEpoch_chan (e : Nat) : NMap.find ((s.openedEpoch c d rc e).die d).relChans (chanKey c rc) = some ⟨e, s.cycles⟩ := by
  rw [State.openedEpoch, State.modDie_die_self, NMap.find_put_self]

/-- RELOPEN opens the next epoch of a channel whose last one is settled, whose spacing has passed and whose open one is flagged. -/
theorem State.relopenTest_next (hch : NMap.find (s.die d).relChans (chanKey c rc) = some ch)
    (hlive : s.groupLive d c rc ((ch.epoch + 255) % 256) = false) (hspaced : s.openFrom d ch ≤ s.cycles)
    (hflagged : (s.groupSends d c rc ch.epoch).any (fun e => e.st = .opened) = false) :
    s.relopenTest c d rc = .done (s.openedEpoch c d rc ((ch.epoch + 1) % 256)) ((ch.epoch + 1) % 256) := by
  unfold State.relopenTest
  rw [hch]
  simp only [hlive, hflagged, not_lt.mpr hspaced, Bool.or_self, decide_false, Bool.false_eq_true, if_false]
  rfl

/-- RELWAIT is done in the state in which it is tested. -/
theorem State.relwaitTest_done {ep e : Nat} {v : State} (h : s.relwaitTest c d rc ep = .done v e) : v = s := by
  unfold State.relwaitTest at h
  split at h
  · cases h; rfl
  · split_ifs at h <;> cases h <;> rfl

end

/-- A RELFLAG that passes its checks (14 R312). -/
theorem State.relflagBad_none {s : State} {j : Job} {l : Launch} {rc addr ring ep : Nat}
    (hep : s.openEpoch (s.regionCtx j.fi.region) j.fi.die rc = some ep) (hden : firstDenied l true addr 8 = none) (hal : addr % 8 = 0)
    (hring : ring ≠ 3) : s.relflagBad j l rc addr ring = none := by
  unfold State.relflagBad
  simp only [hep, hden, hal, hring, ne_eq, not_true_eq_false, if_false]

end Sys2Proof.Machine

open Sys2Proof Sys2Proof.Machine

/-- Settles O45: a descriptor within its limits has its class's effect (`fireRmt_goes`), a release atomic or RELFLAG that may go leaves its
entry flagged (`State.issueRelAtom_goes`, `State.issueRelflag_goes`), and RELOPEN and RELWAIT go by their tests. -/
theorem remoteAndReleaseResults : Obligations.RemoteAndReleaseResults := by
  unfold Obligations.RemoteAndReleaseResults
  intro f s u r hr t die c j d b8 ea ring rc len lit sz put small
  have hea : baseAddr u j d 0 = ea := baseAddr_eq u j d 0
  have hctx : u.regionCtx s.cur.region = c := by rw [State.regionCtx, hr]; rfl
  have hlen : rmtLen d = len := (leNat_sliceB d 10 2).symm
  have hlit : Fields.rcLit f = lit := Fields.litBits_zero f 8
  refine ⟨fun h => ⟨fun k hsmall hpos hden hk => ?rld, fun hsmall hden => ?rpf, fun i minor op k ep e hi hring hal hden hk hep hok => ?atom,
    fun v e hdone => ?relopen, fun ch hch hlive hspaced hflagged => ⟨_, State.relopenTest_next hch hlive hspaced hflagged,
      congrArg (Option.map (·.epoch)) (State.openedEpoch_chan _)⟩,
    State.relopenTest_first, fun hal hring hden ep e hep hok hw => ?relflag, ?relwait, ?relabort⟩, fun h hsmall => ?rst⟩
  case rld =>
    intro a hw
    obtain ⟨hring, hlen128, -⟩ := hsmall
    refine congrArg Host.Outcome.next ((fireRmt_goes h hr rfl hea hring (fun _ => hlen.trans_le hlen128) _).trans (congrArg (finished f s) ?_))
    dsimp only
    rw [hlen, hden]
    exact (if_neg hpos.ne').trans ((State.startSlot_cases rfl).1 k hk hw)
  case rpf =>
    obtain ⟨hring, hlen4096, -⟩ := hsmall
    obtain ⟨hmem, hready, hempty⟩ := State.prefetch_leaves u j ea len d
    refine ⟨_, ?_, hmem, hready, hempty⟩
    refine congrArg Host.Outcome.next ((fireRmt_goes h hr rfl hea hring (fun _ => hlen.trans_le hlen4096) _).trans (congrArg (finished f s) ?_))
    dsimp only
    rw [hlen, hden]
    rfl
  case atom =>
    intro b a hw
    have hfire := fireRmtAtom_goes h hr rfl hea hring hal hden
    have hexec : exec i s = put (u.issueRelAtom a) := by
      simp only [List.mem_cons, Prod.mk.injEq, List.not_mem_nil, or_false] at hi
      obtain ⟨rfl, rfl, rfl⟩ | ⟨rfl, rfl, rfl⟩ | ⟨rfl, rfl, rfl⟩ := hi <;> exact congrArg Host.Outcome.next (hfire _ _)
    obtain ⟨⟨serial, pkts, cycle, hreply⟩, q, hq⟩ := State.issueRelAtom_goes (s := u) (a := a) (ep := ep) (e := e) hk (hctx ▸ hep) (hctx ▸ hok) hw rfl
    exact ⟨_, hexec, ⟨_, hreply, rfl, rfl, rfl, rfl⟩, e.flaggedAt q u.cycles, by rw [← hctx]; exact hq, rfl, rfl, rfl⟩
  case relopen =>
    refine congrArg Host.Outcome.next ((fire_next h _ _ _).trans (congrArg (finished f s) ?_))
    dsimp only
    rw [hlit, hctx, hdone]
  case relflag =>
    have hnum : numAt d 0 8 = leNat (sliceB d 0 8) := (leNat_sliceB d 0 8).symm
    have hl : u.launchOf s.cur = some r.launch := State.launchOf_of_region hr
    have hbad : u.relflagBad j r.launch lit (leNat (sliceB d 0 8)) ring = none := State.relflagBad_none (hctx ▸ hep) hden hal hring
    obtain ⟨v, hv, q, cycle, hq⟩ := State.issueRelflag_goes (s := u) (a := {
      job := j, major := 0x22, minor := 1, writes := [(leNat (sliceB d 0 8), sliceB (opIn f s u .none true) 0 8)], size := 8, rc := lit,
      ring := ring }) (hctx ▸ hep) (hctx ▸ hok) hw
    refine ⟨v, congrArg Host.Outcome.next ((fire_next h _ _ _).trans (congrArg (finished f s) (Eq.trans ?_ hv))), e.flaggedAt q cycle, by rw [← hctx]; exact hq, rfl, rfl⟩
    dsimp only
    rw [hl]
    dsimp only
    rw [hlit, hnum, show u.relflagBad ⟨s.cur, f⟩ r.launch lit (leNat (sliceB d 0 8)) (rmtRing d) = none from hbad]
    rfl
  case relwait =>
    intro ep v e hdone g
    obtain rfl : u = v := (State.relwaitTest_done hdone).symm
    refine congrArg Host.Outcome.next ((fireAcquiring_next h _ _ _).trans (congrArg (finished f s) ?_))
    dsimp only
    rw [hlit, hctx, show u.relwaitTest c s.cur.die lit (byteAt (operandIn u ⟨s.cur, f⟩ .none false) 0).toNat = .done u e from hdone]
    dsimp only
    rw [State.sawAll_syncUp, hctx]
    rfl
  case relabort =>
    refine congrArg Host.Outcome.next ((fire_next h _ _ _).trans (congrArg (finished f s) ?_))
    dsimp only
    rw [hlit, hctx]
    show State.emitBoth _ _ _ _ = State.emitBoth _ _ _ _
    cases u.openEpoch c die lit <;> rfl
  case rst =>
    intro n m so hden hspad data
    obtain ⟨hring, hlen256, -⟩ := hsmall
    have hso : numAt d 12 4 = so := (leNat_sliceB d 12 4).symm
    have hspad' : ¬ (f.srcB = 3 && n > 0 && so + n > spadBytes : Bool) = true := by
      simp only [Bool.and_eq_true, decide_eq_true_eq, not_and, not_lt]
      rintro ⟨hsrc, hpos⟩
      have hn : n = len := if_pos hsrc
      rw [hn] at hpos ⊢
      exact hspad hsrc hpos
    have hgo : exec (.rmtRst f) s = put (if m = 0 then (u.consume s.cur).emitBoth j .value []
        else (u.consume s.cur).hold j (.rst { job := j, major := 0x21, minor := 1, writes := [(ea, data)], size := m, rc := rc, ring := ring })) := by
      refine congrArg Host.Outcome.next ((fireRmt_goes h hr rfl hea hring (fun _ => hlen.trans_le hlen256) _).trans (congrArg (finished f s) ?_))
      dsimp only
      rw [hlen, hso, if_neg hspad', hden]
      rfl
    exact ⟨fun hzero => hgo.trans (congrArg put (if_pos hzero)), fun hpos => hgo.trans (congrArg put (if_neg hpos.ne'))⟩

end

section
/-! PROOFS. The steps of release groups (14 R302 to R308): one lemma for what each event leaves of the entries, the copies, memory and the
packets sent. -/

namespace Sys2Proof.Machine

/-! ### Keyed lists -/

theorem lookupK_putK_ne {κ α : Type} [DecidableEq κ] {k h : κ} (hne : h ≠ k) (l : List (κ × α)) (v : α) :
    lookupK (putK l k v) h = lookupK l h := by
  unfold lookupK
  induction l with
  | nil => simp [putK, hne.symm]
  | cons p l ih =>
    obtain ⟨j, w⟩ := p
    by_cases hj : j = k
    · simp [putK, hj, hne.symm]
    · by_cases hjh : j = h
      · subst hjh
        simp [putK, hj]
      · simpa [putK, hj, hjh] using ih

theorem lookupK_delK_self {κ α : Type} [DecidableEq κ] (l : List (κ × α)) (k : κ) : lookupK (delK l k) k = none := by
  unfold lookupK delK
  rw [Option.map_eq_none_iff, List.find?_eq_none]
  intro p hp
  simpa using (List.mem_filter.mp hp).2

theorem lookupK_delK_ne {κ α : Type} [DecidableEq κ] {k h : κ} (hne : h ≠ k) (l : List (κ × α)) : lookupK (delK l k) h = lookupK l h := by
  unfold lookupK delK
  rw [List.find?_filter]
  congr 2
  funext p
  by_cases hp : p.1 = h
  · simp [hp, hne]
  · simp [hp]

/-! ### What has left stays sent -/

/-- From `s` to `t` memory stays, no event is lost, and what has left a die has still left: entries, copies and counts may change. -/
structure StillSent (d : Nat) (s t : State) : Prop where
  mem : t.mem = s.mem
  pkg : t.pkg = s.pkg
  cctl : (t.die d).cctl = (s.die d).cctl
  agenda : s.agenda ⊆ t.agenda

section
variable {d : Nat} {s t u : State}

theorem StillSent.refl (s : State) : StillSent d s s := ⟨rfl, rfl, rfl, List.Subset.refl _⟩

theorem StillSent.trans (h : StillSent d s t) (k : StillSent d t u) : StillSent d s u :=
  ⟨k.mem.trans h.mem, k.pkg.trans h.pkg, k.cctl.trans h.cctl, List.Subset.trans h.agenda k.agenda⟩

theorem StillSent.leaves {q : Packet} (h : StillSent d s t) (hq : Leaves d q s) : Leaves d q t := leaves_mono hq h.pkg h.cctl h.agenda

theorem stillSent_modDie (s : State) (d : Nat) {g : Die → Die} (hg : (g (s.die d)).cctl = (s.die d).cctl) : StillSent d s (s.modDie d g) :=
  ⟨rfl, rfl, by rw [State.modDie_die_self, hg], List.Subset.refl _⟩

theorem stillSent_post (s : State) (d : Nat) (e : Event) : StillSent d s (s.post e) := ⟨rfl, rfl, rfl, List.subset_append_left _ _⟩

theorem stillSent_emitPkt (s : State) (d : Nat) (p : Packet) : StillSent d s (s.emitPkt d p) :=
  ⟨(reports_emitPkt s d p).mem, (reports_emitPkt s d p).pkg, by rw [State.emitPkt_die], (reports_emitPkt s d p).agenda⟩

theorem stillSent_putRecv (s : State) (d : Nat) (g : GroupKey) (e : RecvEntry) : StillSent d s (s.putRecv d g e) := stillSent_modDie s d rfl

theorem stillSent_putSend (s : State) (d : Nat) (e : SendEntry) : StillSent d s (s.putSend d e) := by
  unfold State.putSend
  exact stillSent_modDie s d rfl

theorem stillSent_closeRecv (s : State) (d : Nat) (g : GroupKey) (e : RecvEntry) : StillSent d s (s.closeRecv d g e) :=
  (stillSent_putRecv s d g _).trans (stillSent_post _ d _)

end

/-! ### Receive entries (14 R304) -/

section
variable (s : State) (d : Nat) (g : GroupKey) (e : RecvEntry)

theorem State.recv?_of_die {t : State} (h : t.die d = s.die d) : t.recv? d g = s.recv? d g := by rw [State.recv?, h]; rfl

theorem State.recv?_putRecv_self : (s.putRecv d g e).recv? d g = some e := by
  rw [State.recv?, State.putRecv, State.modDie_die_self, lookupK_putK_self]

/-- An entry at its end, its source answered. -/
def State.endRecv : State := (s.closeRecv d g e).sendComplete d g

theorem State.endRecv_recv? : (s.endRecv d g e).recv? d g = some { e with since := s.cycles } := by
  rw [State.endRecv, State.sendComplete, State.recv?_of_die _ _ _ (State.emitPkt_die _ _ _ _)]
  exact s.recv?_putRecv_self d g _

theorem stillSent_endRecv : StillSent d s (s.endRecv d g e) := (stillSent_closeRecv s d g e).trans (stillSent_emitPkt _ d _)

/-- The source of the group is sent release-complete. -/
theorem State.endRecv_completes : ∃ q, Leaves d q (s.endRecv d g e) ∧ q.typ = 0x07 ∧ q.to_ = g.other ∧ q.rc = g.rc ∧ q.epoch = g.epoch :=
  ⟨_, leaves_of_emitPkt _ _ _, rfl, rfl, rfl, rfl⟩

theorem State.endRecv_expires : .receiveEntryExpiry d g ∈ (s.endRecv d g e).agenda :=
  (stillSent_emitPkt _ d _).agenda (List.mem_append_right _ (List.mem_singleton_self _))

end

/-! ### A release write (14 R302) -/

section
variable {s : State} {d : Nat} {p : Packet} {e : RecvEntry} {bs : Bytes} {key : Nat}

/-- A release write stored at its owner, its completion apart. -/
def State.storeWrite (s : State) (d : Nat) (p : Packet) (key : Nat) (bs : Bytes) : State :=
  (((s.modDie d (fun x => { x with stalled := x.stalled.filter (· ≠ p) })).writePkt d p key bs).writeLevel d p bs.length).soDone d p

theorem State.performAt_store (hop : p.op = .store bs) (hhost : p.fromHost = false) :
    s.performAt d p key = (s.storeWrite d p key bs).writeDone d p bs.length := by
  unfold State.performAt
  rw [hop, hhost]
  rfl

theorem State.writeLevel_hostMem (s : State) (d : Nat) (p : Packet) (n : Nat) : (s.writeLevel d p n).hostMem = s.hostMem := by
  unfold State.writeLevel
  split <;> rfl

theorem State.soDone_hostMem (s : State) (d : Nat) (p : Packet) : (s.soDone d p).hostMem = s.hostMem := by
  unfold State.soDone
  split <;> rfl

theorem State.storeWrite_stores (s : State) (d : Nat) (p : Packet) (key : Nat) (bs : Bytes) :
    Stored s.mem (s.storeWrite d p key bs).mem key bs ∧ (s.storeWrite d p key bs).hostMem = s.hostMem := by
  constructor
  · rw [State.storeWrite, (ownerKeeps_soDone d _ p).mem, (ownerKeeps_writeLevel d _ p _).mem, State.writePkt_mem]
    exact stored_setN _ _ _
  · rw [State.storeWrite, State.soDone_hostMem, State.writeLevel_hostMem, State.writePkt_hostMem]
    rfl

/-- Noting an access leaves memory. -/
theorem State.noteAccess_leaves (s : State) (d : Nat) (p : Packet) : (s.noteAccess d p).2.mem = s.mem ∧ (s.noteAccess d p).2.hostMem = s.hostMem := by
  unfold State.noteAccess
  split <;> exact ⟨rfl, rfl⟩

section
variable (hrecv : s.recv? d (relKey p) = some e) (hst : e.st = .counting)
include hrecv hst

theorem State.releaseWriteStep_repeated (hbit : p.index ∈ e.bits) : s.releaseWriteStep d p = s := by
  have hcontains : e.bits.contains p.index = true := by simpa using hbit
  unfold State.releaseWriteStep
  rw [hrecv]
  dsimp only
  rw [hst]
  exact if_pos hcontains

/-- A release write that has not arrived is stored and counted. -/
theorem State.releaseWriteStep_new (hop : p.op = .store bs) (hbit : p.index ∉ e.bits) (hkey : s.pktKey d p = some key)
    (hcopy : s.copyNeed d p key = none) (horder : (s.noteAccess d p).1 = []) (hhost : p.fromHost = false) :
    s.releaseWriteStep d p = ((((s.noteAccess d p).2.storeWrite d p key bs).writeDone d p bs.length).putRecv d (relKey p)
      { e with arrivals := e.arrivals + 1, bits := e.bits ++ [p.index] }).relTest d (relKey p) := by
  have hcontains : ¬ e.bits.contains p.index = true := by simpa using hbit
  unfold State.releaseWriteStep
  rw [hrecv]
  refine Eq.trans (b := s.relPerform d p e) ?_ ?_
  · dsimp only
    rw [hst]
    exact if_neg hcontains
  unfold State.relPerform
  rw [hkey]
  dsimp only
  rw [hcopy]
  dsimp only
  rw [horder, ← State.performAt_store hop hhost]
  rfl

end

/-! ### A flag (14 R303, R304) -/

/-- A receive entry that holds a flag from now on. -/
def RecvEntry.holding (e : RecvEntry) (p : Packet) (cycle : Nat) : RecvEntry :=
  { e with st := .waiting, held := some p, gaps := 0, since := cycle }

/-- A flag held at its receive entry, its gap timer running. -/
def State.holdFlag (s : State) (d : Nat) (p : Packet) (e : RecvEntry) : State :=
  (s.putRecv d (relKey p) (e.holding p s.cycles)).post (.gapTimer d (relKey p))

theorem State.holdFlag_recv? (s : State) (d : Nat) (p : Packet) (e : RecvEntry) :
    (s.holdFlag d p e).recv? d (relKey p) = some (e.holding p s.cycles) := s.recv?_putRecv_self d (relKey p) _

section
variable (hrecv : s.recv? d (relKey p) = some e) (hst : e.st = .counting)
include hrecv hst

theorem State.releaseFlagStep_holds : s.releaseFlagStep d p = (s.holdFlag d p e).relTest d (relKey p) := by
  unfold State.releaseFlagStep
  dsimp only
  rw [hrecv]
  dsimp only
  rw [hst]
  rfl

/-- A flag that is short of writes is held. -/
theorem State.releaseFlagStep_short (hshort : e.arrivals ≠ p.index) : s.releaseFlagStep d p = s.holdFlag d p e := by
  rw [State.releaseFlagStep_holds hrecv hst]
  unfold State.relTest
  rw [State.holdFlag_recv?]
  exact if_neg hshort

/-- The bytes of a flag stored at their owner. -/
def State.storeFlag (s : State) (d : Nat) (p : Packet) (key : Nat) (bs : Bytes) : State :=
  ((s.writePkt d p key bs).writeLevel d p bs.length).dieRecv p.ctx.toNat d p.phase

/-- A flag whose arrivals equal its count is stored, its entry ends and its source is answered. -/
theorem State.releaseFlagStep_met (hop : p.op = .flag bs) (hkey : s.pktKey d p = some key) (hcopy : s.copyNeed d p key = none)
    (hlevel : s.level p.ctx.toNat < 2) (hmet : e.arrivals = p.index) : s.releaseFlagStep d p =
      ((s.holdFlag d p e).storeFlag d p key bs).endRecv d (relKey p) { e.holding p s.cycles with st := .done, reply := none } := by
  have hkey' : (s.holdFlag d p e).pktKey d p = some key := hkey
  have hcopy' : (s.holdFlag d p e).copyNeed d p key = none := hcopy
  have hgo := State.logEvent_go (s := s.holdFlag d p e) hlevel d (relRecord (relKey p) p)
  rw [State.releaseFlagStep_holds hrecv hst]
  unfold State.relTest
  rw [State.holdFlag_recv?]
  refine (if_pos hmet).trans ?_
  unfold State.relSatisfy
  dsimp only
  rw [hkey']
  dsimp only
  rw [hcopy']
  dsimp only
  rw [hgo]
  dsimp only
  unfold State.relEffect
  rw [hop]
  rfl

end

theorem State.storeFlag_stores (s : State) (d : Nat) (p : Packet) (key : Nat) (bs : Bytes) :
    Stored s.mem (s.storeFlag d p key bs).mem key bs := by
  have hmem : (s.storeFlag d p key bs).mem = (s.writePkt d p key bs).mem := (ownerKeeps_writeLevel d _ p _).mem
  rw [hmem, State.writePkt_mem]
  exact stored_setN _ _ _

end

/-! ### The sender's entries (14 R303) -/

section
variable {s : State} {d : Nat} {e : SendEntry}

theorem State.mem_groupSends {c rc ep : Nat} : e ∈ s.groupSends d c rc ep ↔ e ∈ (s.die d).sends ∧ e.ctx = c ∧ e.rc = rc ∧ e.epoch = ep := by
  simp [State.groupSends, SendEntry.ofGroup, and_assoc]

/-- The entry of an update that keeps its group and destination. -/
theorem State.send?_putSend {s : State} {c rc ep dst : Nat} (h : e.is c rc ep dst = true) : (s.putSend d e).send? d c rc ep dst = some e := by
  obtain ⟨rfl, rfl, rfl, rfl⟩ := SendEntry.is_iff.mp h
  exact s.send?_putSend_self d e

theorem State.send?_is {c rc ep dst : Nat} (h : s.send? d c rc ep dst = some e) : e.is c rc ep dst = true := by
  rw [State.send?] at h
  have hmine := List.find?_some h
  exact hmine

/-- The copies of an entry leave the store of its die, whose entries stay. -/
theorem State.freeCopies_near (hnear : s.farSend e = false) : s.freeCopies d e false =
    s.modDie d (fun x => { x with copies := x.copies.filter (fun p => !e.owns p) }) := by
  unfold State.freeCopies
  have hfar : (s.modDie d (fun x => { x with copies := x.copies.filter (fun p => !e.owns p) })).farSend e = false := hnear
  simp only [hfar, Bool.or_self, Bool.false_eq_true, if_false]

theorem State.flagReceived_near (hnear : s.farSend e = false) : s.flagReceived d e = s := by
  unfold State.flagReceived
  split
  · rw [if_neg (ne_true_of_eq_false hnear)]
  · rfl

/-- The entry done and its copies freed, before the waiting firings are looked at. -/
def State.sendClosed (s : State) (d : Nat) (e : SendEntry) : State :=
  (s.putSend d { e with st := .done, answered := true }).modDie d (fun x => { x with copies := x.copies.filter (fun p => !e.owns p) })

theorem State.sendDone_near (hnear : s.farSend e = false) : s.sendDone d e = (s.sendClosed d e).relWake d e.ctx e.rc := by
  unfold State.sendDone
  rw [State.freeCopies_near (e := e) (s := s.putSend d { e with st := .done, answered := true }) hnear]
  exact congrArg (fun u => State.relWake u d e.ctx e.rc) (State.flagReceived_near hnear)

theorem State.send?_of_sends {s t : State} (h : (t.die d).sends = (s.die d).sends) (c rc ep dst : Nat) :
    t.send? d c rc ep dst = s.send? d c rc ep dst := by
  rw [State.send?, State.send?, h]

theorem State.sendClosed_entry : (s.sendClosed d e).send? d e.ctx e.rc e.epoch e.dst = some { e with st := .done, answered := true } := by
  rw [State.send?_of_sends (s := s.putSend d { e with st := .done, answered := true }) (by rw [State.sendClosed, State.modDie_die_self])]
  exact s.send?_putSend_self d { e with st := .done, answered := true }

theorem State.sendClosed_copies : ∀ q ∈ ((s.sendClosed d e).die d).copies, e.owns q = false := by
  intro q hq
  rw [State.sendClosed, State.modDie_die_self] at hq
  simpa using (List.mem_filter.mp hq).2

/-- A release-complete ends its flagged entry. -/
theorem State.completeStep_flagged {p : Packet} (hsend : s.send? d p.ctx.toNat p.rc.toNat p.epoch.toNat p.from_.toNat = some e)
    (hst : e.st = .flagged) : s.completeStep d p = s.sendDone d e := by
  unfold State.completeStep
  rw [hsend]
  dsimp only
  rw [hst]

/-! ### Packets sent again -/

theorem stillSent_again (s : State) (d : Nat) (p : Packet) : StillSent d s (s.again d p) := stillSent_emitPkt s d _

theorem leaves_again (s : State) (d : Nat) (p : Packet) : Leaves d { p with age := 0 } (s.again d p) := leaves_of_emitPkt s d _

/-- A gap report has the listed copies of its entry sent again. -/
theorem State.gapReportStep_again {p : Packet} {miss : List Nat} (hop : p.op = .gapReport miss)
    (hsend : s.send? d p.ctx.toNat p.rc.toNat p.epoch.toNat p.from_.toNat = some e) (hst : e.st = .flagged) :
    s.gapReportStep d p = ((s.die d).copies.filter (fun q => e.owns q && miss.contains q.index)).foldl (fun s q => s.again d q) s := by
  unfold State.gapReportStep
  rw [hsend, hop]
  dsimp only
  rw [if_neg (not_not.mpr hst)]

theorem stillSent_agains (l : List Packet) (s : State) (d : Nat) : StillSent d s (l.foldl (fun s q => s.again d q) s) :=
  List.foldlRecOn (motive := StillSent d s) l _ (.refl s) fun u hu q _ => hu.trans (stillSent_again u d q)

theorem leaves_agains (l : List Packet) (s : State) (d : Nat) : ∀ q ∈ l, Leaves d { q with age := 0 } (l.foldl (fun s q => s.again d q) s) :=
  foldl_establishes (P := fun (q : Packet) t => Leaves d { q with age := 0 } t) (fun s q => leaves_again s d q)
    (fun s q _ h => (stillSent_again s d q).leaves h) l s

/-! ### The timers -/

section
variable {g : GroupKey} (hsend : s.sendOf d g = some e)
include hsend

/-- An unanswered flag is sent again, at most twice (14 R303). -/
theorem State.flagTimer_again {p : Packet} (hst : e.st = .flagged) (hresends : e.resends < 2) (hflag : e.flag = some p) : s.flagTimer d g =
    ((s.putSend d { e with resends := e.resends + 1, since := s.cycles }).post (.flagResendTimer d g)).again d p := by
  unfold State.flagTimer
  rw [hsend]
  dsimp only
  rw [if_neg (not_not.mpr hst), if_pos hresends, hflag]

/-- Then the group is aborted, with remote fault 0x08. -/
theorem State.flagTimer_aborts (hst : e.st = .flagged) (hresends : 2 ≤ e.resends) : s.flagTimer d g =
    ((s.abortSend d e).remoteFault e.ctx d 0x08 ((e.flag.map (fun (p : Packet) => p.addr.toNat)).getD 0) e.dst e.rc e.epoch).relWake d e.ctx e.rc := by
  unfold State.flagTimer
  rw [hsend]
  dsimp only
  rw [if_neg (not_not.mpr hst), if_neg (not_lt.mpr hresends)]

/-- An unanswered abort is sent again, at most three times. -/
theorem State.abortTimer_again {p : Packet} (hst : e.st = .aborted) (hanswered : e.answered = false) (hresends : e.abortResends < 3)
    (hpkt : e.abortPkt = some p) : s.abortTimer d g =
      ((s.putSend d { e with abortResends := e.abortResends + 1, since := s.cycles }).post (.abortResendTimer d g)).again d p := by
  unfold State.abortTimer
  rw [hsend]
  dsimp only
  have hlive : ¬ ((e.st = .opened || e.st = .flagged : Bool) && (s.ctx e.ctx).st = .ended : Bool) = true := by simp [hst]
  have hdone : ¬ (e.st ≠ .aborted || e.answered || e.abortResends ≥ 3 : Bool) = true := by simp [hst, hanswered, hresends]
  rw [if_neg hlive, if_neg hdone, hpkt]

/-- An entry of the timer's key, put again, is the entry of the key. -/
theorem State.sendOf_again (e' : SendEntry) (p : Packet) (ev : Event) (hctx : e'.ctx = e.ctx) (hrc : e'.rc = e.rc)
    (hepoch : e'.epoch = e.epoch) (hdst : e'.dst = e.dst) : (((s.putSend d e').post ev).again d p).sendOf d g = some e' := by
  have hkey := SendEntry.is_iff.mp (State.send?_is hsend)
  have hmine : e'.is g.ctx.toNat g.rc.toNat g.epoch.toNat g.other.toNat = true :=
    SendEntry.is_iff.mpr ⟨hctx.trans hkey.1, hrc.trans hkey.2.1, hepoch.trans hkey.2.2.1, hdst.trans hkey.2.2.2⟩
  rw [State.sendOf, State.again, State.send?_of_sends (s := s.putSend d e') (by rw [State.emitPkt_die]; rfl)]
  exact State.send?_putSend hmine

end

/-! ### An abort (14 R303) -/

/-- The entry that an abort leaves at its sender, with the packet that it sends. -/
def State.abortedEntry (s : State) (d : Nat) (e : SendEntry) : SendEntry :=
  { e with st := .aborted, abortPkt := some { s.groupPkt d e 0x09 (.abort e.count e.flag.isSome) with
      phase := ((e.flag.map Packet.phase).getD 0) }, abortResends := 0, answered := false, since := s.cycles }

theorem State.freeCopies_none (h : ∀ q ∈ (s.die d).copies, e.owns q = false) (gone : Bool) : ((s.freeCopies d e gone).die d).sends = (s.die d).sends := by
  have hmine : (s.die d).copies.filter (fun p => e.owns p) = [] := List.filter_eq_nil_iff.mpr fun q hq => ne_true_of_eq_false (h q hq)
  unfold State.freeCopies
  simp only [hmine, List.foldl_nil, ite_self]
  rw [State.modDie_die_self]

theorem State.flagReceived_dies (s : State) (d : Nat) (e : SendEntry) : (s.flagReceived d e).dies = s.dies := by
  unfold State.flagReceived
  split
  · split <;> rfl
  · rfl

/-- An abort of an entry without copies leaves it aborted. -/
theorem State.abortSend_entry (h : ∀ q ∈ (s.die d).copies, e.owns q = false) :
    (s.abortSend d e).send? d e.ctx e.rc e.epoch e.dst = some (s.abortedEntry d e) := by
  have hput := s.send?_putSend_self d (s.abortedEntry d e)
  have hcopies : ∀ q ∈ ((s.putSend d (s.abortedEntry d e)).die d).copies, e.owns q = false := by
    unfold State.putSend
    rw [State.modDie_die_self]
    exact h
  rw [State.abortSend, State.send?_of_sends (s := s.putSend d (s.abortedEntry d e))]
  · exact hput
  · rw [State.emitPkt_die, State.die]
    show (NMap.getD (State.flagReceived _ d e).dies d {}).sends = _
    rw [State.flagReceived_dies]
    exact State.freeCopies_none hcopies true

/-- It sends the abort with the count and the flag bit of the entry. -/
theorem State.abortSend_sends : ∃ q, Leaves d q (s.abortSend d e) ∧ q.typ = 0x09 ∧ q.op = .abort e.count e.flag.isSome :=
  ⟨_, leaves_of_emitPkt _ _ _, rfl, rfl⟩

end

/-! ### An abort at its receive entry (14 R304) -/

section
variable {s : State} {d : Nat} {e : RecvEntry}

/-- Writes that will never come are counted as received. -/
theorem State.dieRecvs_recv (k : Nat) (s : State) (c d : Nat) (phase : BitVec 8) :
    (((List.range k).foldl (fun s _ => s.dieRecv c d phase) s).cd c d).recv = (s.cd c d).recv + k := by
  induction k with
  | zero => rfl
  | succ k ih =>
    rw [List.range_succ, List.foldl_append, List.foldl_cons, List.foldl_nil, State.dieRecv, State.modCd_cd_self]
    dsimp only
    rw [ih, Nat.add_assoc]

theorem State.dieRecvs_keeps (l : List Nat) (s : State) (c d : Nat) (phase : BitVec 8) (e : Nat) :
    StillSent e s (l.foldl (fun s _ => s.dieRecv c d phase) s) :=
  List.foldlRecOn (motive := StillSent e s) l _ (.refl s) fun _ hu _ _ => hu.trans ⟨rfl, rfl, rfl, List.Subset.refl _⟩

theorem State.abortStep_ends {p : Packet} {n : Nat} {f : Bool} (hop : p.op = .abort n f) (hrecv : s.recv? d (relKey p) = some e)
    (hst : e.st = .counting ∨ e.st = .waiting) : s.abortStep d p =
      ((List.range (n - e.arrivals + (if f then 1 else 0))).foldl (fun s _ => s.dieRecv p.ctx.toNat d p.phase) s).endRecv d (relKey p)
        { e with st := .aborted } := by
  unfold State.abortStep
  dsimp only
  rw [hop]
  dsimp only
  rw [hrecv]
  dsimp only
  rcases hst with hst | hst <;> rw [hst] <;> rfl

theorem State.emitPkt_cd (s : State) (d : Nat) (p : Packet) (c n : Nat) : (s.emitPkt d p).cd c n = s.cd c n := by
  obtain ⟨a, ha⟩ := s.emitPkt_agenda d p
  rw [ha]
  rfl

theorem State.endRecv_cd (s : State) (d : Nat) (g : GroupKey) (e : RecvEntry) (c n : Nat) : (s.endRecv d g e).cd c n = s.cd c n := by
  rw [State.endRecv, State.sendComplete, State.emitPkt_cd]
  rfl

/-! ### The gap timer (14 R304) -/

/-- The indices that a flag still misses, as many as a report takes. -/
def RecvEntry.missing (e : RecvEntry) (p : Packet) : List Nat := ((List.range p.index).filter (fun i => !e.bits.contains i)).take 96

/-- A gap report sent and counted. -/
def State.reportGap (s : State) (d : Nat) (g : GroupKey) (miss : List Nat) : State :=
  (s.cstatUp d 16 12).emitPkt d {
    typ := 0x08, to_ := g.other, from_ := s.code d, inc := (s.die d).inc, cls := 2, ctx := g.ctx, rc := g.rc,
    epoch := g.epoch, op := .gapReport miss }

theorem State.reportGap_sends (s : State) (d : Nat) (g : GroupKey) (miss : List Nat) :
    ∃ q, Leaves d q (s.reportGap d g miss) ∧ q.typ = 0x08 ∧ q.to_ = g.other ∧ q.op = .gapReport miss :=
  ⟨_, leaves_of_emitPkt _ _ _, rfl, rfl, rfl⟩

section
variable {g : GroupKey} {p : Packet} (hrecv : s.recv? d g = some e) (hst : e.st = .waiting) (hheld : e.held = some p)
  (hshort : e.arrivals ≠ p.index)
include hrecv hst hheld hshort

theorem State.gapStep_reports (hgaps : e.gaps + 1 < 16) : s.gapStep d g =
    ((s.reportGap d g (e.missing p)).putRecv d g { e with gaps := e.gaps + 1, since := (s.reportGap d g (e.missing p)).cycles }).post
      (.gapTimer d g) := by
  unfold State.gapStep
  rw [hrecv]
  dsimp only
  rw [hst, hheld]
  exact (if_neg hshort).trans (if_neg (not_le.mpr hgaps))

theorem State.gapStep_gives_up (hgaps : 16 ≤ e.gaps + 1) : s.gapStep d g =
    ((s.reportGap d g (e.missing p)).modDie d (fun x => { x with recvs := delK x.recvs g })).remoteFault g.ctx.toNat d 0x0A p.addr.toNat
      g.other.toNat g.rc.toNat g.epoch.toNat := by
  unfold State.gapStep
  rw [hrecv]
  dsimp only
  rw [hst, hheld]
  exact (if_neg hshort).trans (if_pos hgaps)

end

theorem State.expireRecv_ends {g : GroupKey} (hrecv : s.recv? d g = some e) (hst : e.st = .done ∨ e.st = .aborted) :
    s.expireRecv d g = s.modDie d (fun x => { x with recvs := delK x.recvs g }) := by
  unfold State.expireRecv
  rw [hrecv]
  dsimp only
  rcases hst with hst | hst <;> rw [hst]

end

/-! ### A RELOPEN that waits (14 R312) -/

section
variable {s : State} {t : TileId} {slot : Nat} {r : Reply}

/-- A waiting firing's reply slot freed, its set consumed. -/
def State.freeWaiting (s : State) (t : TileId) (slot : Nat) (r : Reply) : State :=
  ((s.freeReply t slot).serialDone t r.serial).consume r.job.fi

theorem State.serialDone_dies (s : State) (t : TileId) (serial : Nat) : (s.serialDone t serial).dies = s.dies := by
  unfold State.serialDone
  dsimp only
  split
  · exact State.due_dies _ _
  · rfl

/-- Counting tokens leaves the reply slots. -/
theorem State.consume_replies (s : State) (fi : Firing) (t : TileId) : ((s.consume fi).tile t).replies = (s.tile t).replies := by
  have hcount : ∀ (u : State) (ph : BitVec 8), ((u.countRecv fi.at_ ph 1).tile t).replies = (u.tile t).replies := fun u ph => by
    have htile : (u.countRecv fi.at_ ph 1).tile t = (u.modTile fi.at_ (fun x => { x with recv := x.recv + 1 })).tile t := rfl
    rw [htile, State.modTile_tile]
    split <;> rfl
  unfold State.consume
  split
  next => rfl
  next => exact foldl_preserves (f := fun s ph => State.countRecv s fi.at_ ph 1) (v := fun s => (s.tile t).replies) (fun u ph _ => hcount u ph) s

theorem State.freeWaiting_replies (s : State) (t : TileId) (slot : Nat) (r : Reply) :
    ((s.freeWaiting t slot r).tile t).replies = NMap.del (s.tile t).replies slot := by
  rw [State.freeWaiting, State.consume_replies, State.serialDone_tile, State.freeReply, State.modTile_tile_self]

theorem State.freeWaiting_die (s : State) (t : TileId) (slot : Nat) (r : Reply) (d : Nat) : (s.freeWaiting t slot r).die d = s.die d := by
  rw [State.freeWaiting, State.die, State.consume_dies, State.serialDone_dies]
  rfl

/-- A waiting RELOPEN that may open its epoch does so and emits its number. -/
theorem State.relCheck_opens {rc e : Nat} {v : State} (hreply : NMap.find (s.tile t).replies slot = some r) (hkind : r.kind = .relopen rc)
    (hdone : s.relopenTest (s.regionCtx r.job.fi.region) t.die rc = .done v e) :
    s.relCheck t slot = s.settle r.job ((v.freeWaiting t slot r).emitBoth r.job .value (leBytes 4 e)) := by
  unfold State.relCheck
  rw [hreply]
  dsimp only
  rw [hkind]
  dsimp only
  rw [hdone]
  rfl

end

end Sys2Proof.Machine

open Sys2Proof Sys2Proof.Machine

/-- Settles O54: each event is the step of its own lemma, and what it leaves of the entries, of memory and of the packets sent is read off there. -/
theorem releaseEventResults : Obligations.ReleaseEventResults := by
  unfold Obligations.ReleaseEventResults
  intro s d
  refine ⟨fun p e bs key hev hrecv hst hop => ?write, fun p e bs key hev hrecv hst hop hkey hcopy hlevel => ?flag,
    fun p e hev hsend hst hnear => ?complete, fun p e miss hev hop hsend hst => ?report, fun p e n f hev hop hrecv hst => ?abort,
    fun g e hev hsend hst => ?flagTimer, fun g e p hev hsend hst hanswered hresends hpkt => ?abortTimer,
    fun g e p hev hrecv hst hheld hshort => ?gap, fun g e hev hrecv hst => ?expiry, fun t slot r rc ch hev hreply hkind => ?relopen⟩
  case write =>
    have hexec : exec .releaseWriteArrival s = .next (s.releaseWriteStep d p) := by
      show execReleaseWriteArrival s = _
      rw [execReleaseWriteArrival, hev]
    refine ⟨fun hbit => hexec.trans (congrArg _ (State.releaseWriteStep_repeated hrecv hst hbit)), fun hbit hkey hcopy horder hhost => ?_⟩
    obtain ⟨hstored, hhostMem⟩ := (s.noteAccess d p).2.storeWrite_stores d p key bs
    obtain ⟨hmem, hnoted⟩ := s.noteAccess_leaves d p
    exact ⟨_, hexec.trans (congrArg _ (State.releaseWriteStep_new hrecv hst hop hbit hkey hcopy horder hhost)), hmem ▸ hstored, hhostMem.trans hnoted⟩
  case flag =>
    have hexec : exec .releaseFlagArrival s = .next (s.releaseFlagStep d p) := by
      show execReleaseFlagArrival s = _
      rw [execReleaseFlagArrival, hev]
    by_cases hmet : e.arrivals = p.index
    · rw [State.releaseFlagStep_met hrecv hst hop hkey hcopy hlevel hmet] at hexec
      refine ⟨_, _, hexec, State.endRecv_recv? _ _ _ _, fun _ => ⟨?_, rfl, State.endRecv_expires _ _ _ _, State.endRecv_completes _ _ _ _⟩,
        fun hshort => absurd hmet hshort⟩
      rw [(stillSent_endRecv _ _ _ _).mem]
      exact (s.holdFlag d p e).storeFlag_stores d p key bs
    · rw [State.releaseFlagStep_short hrecv hst hmet] at hexec
      exact ⟨_, _, hexec, s.holdFlag_recv? d p e, fun h => absurd h hmet,
        fun _ => ⟨rfl, rfl, rfl, List.mem_append_right _ (List.mem_singleton_self _)⟩⟩
  case complete =>
    have hexec : exec .releaseCompleteArrival s = .next (s.completeStep d p) := by
      show execReleaseCompleteArrival s = _
      rw [execReleaseCompleteArrival, hev]
    have hfar : s.farSend e = false := by rw [State.farSend, hnear]; simp
    rw [State.completeStep_flagged hsend hst, State.sendDone_near hfar] at hexec
    exact ⟨_, hexec, rfl, ⟨_, State.sendClosed_entry, rfl⟩, State.sendClosed_copies⟩
  case report =>
    have hexec : exec .gapReportArrival s = .next (s.gapReportStep d p) := by
      show execGapReportArrival s = _
      rw [execGapReportArrival, hev]
    rw [State.gapReportStep_again hop hsend hst] at hexec
    refine ⟨_, hexec, (stillSent_agains _ s d).mem, fun q hq howns hmiss => leaves_agains _ s d q (List.mem_filter.mpr ⟨hq, ?_⟩)⟩
    simp [howns, hmiss]
  case abort =>
    have hexec : exec .groupAbortArrival s = .next (s.abortStep d p) := by
      show execGroupAbortArrival s = _
      rw [execGroupAbortArrival, hev]
    rw [State.abortStep_ends hop hrecv hst] at hexec
    refine ⟨_, _, hexec, State.endRecv_recv? _ _ _ _, rfl, ?_, ?_, ?_⟩
    · exact (stillSent_endRecv _ _ _ _).mem.trans (State.dieRecvs_keeps _ s _ _ _ d).mem
    · rw [State.endRecv_cd, State.dieRecvs_recv, Nat.add_assoc]
    · obtain ⟨q, hq, htyp, hto, -⟩ := State.endRecv_completes ((List.range (n - e.arrivals + (if f then 1 else 0))).foldl
        (fun s _ => s.dieRecv p.ctx.toNat d p.phase) s) d (relKey p) { e with st := .aborted }
      exact ⟨q, hq, htyp, hto⟩
  case flagTimer =>
    have hexec : exec .flagResendTimer s = .next (s.flagTimer d g) := by
      show execFlagResendTimer s = _
      rw [execFlagResendTimer, hev]
    refine ⟨fun p hresends hflag => ?_, fun hresends => ⟨hexec.trans (congrArg _ (State.flagTimer_aborts hsend hst hresends)), fun hcopies =>
      ⟨_, State.abortSend_entry hcopies, rfl, State.abortSend_sends⟩⟩⟩
    rw [State.flagTimer_again hsend hst hresends hflag] at hexec
    exact ⟨_, _, hexec, leaves_again _ d p, State.sendOf_again hsend { e with resends := e.resends + 1, since := s.cycles } p _ rfl rfl rfl rfl, rfl, hst,
      (stillSent_again _ d p).agenda (List.mem_append_right _ (List.mem_singleton_self _))⟩
  case abortTimer =>
    have hexec : exec .abortResendTimer s = .next (s.abortTimer d g) := by
      show execAbortResendTimer s = _
      rw [execAbortResendTimer, hev]
    rw [State.abortTimer_again hsend hst hanswered hresends hpkt] at hexec
    exact ⟨_, _, hexec, leaves_again _ d p, State.sendOf_again hsend { e with abortResends := e.abortResends + 1, since := s.cycles } p _ rfl rfl rfl rfl, rfl,
      (stillSent_again _ d p).agenda (List.mem_append_right _ (List.mem_singleton_self _)), (stillSent_again _ d p).mem⟩
  case gap =>
    intro report
    have hexec : exec .gapTimer s = .next (s.gapStep d g) := by
      show execGapTimer s = _
      rw [execGapTimer, hev]
    obtain ⟨q, hq, hfields⟩ := s.reportGap_sends d g (e.missing p)
    refine ⟨fun hgaps => ?_, fun hgaps => ?_⟩
    · rw [State.gapStep_reports hrecv hst hheld hshort hgaps] at hexec
      exact ⟨_, _, hexec, ⟨q, (stillSent_post _ d _).leaves ((stillSent_putRecv _ d g _).leaves hq), hfields⟩,
        State.recv?_putRecv_self (s.reportGap d g (e.missing p)) d g _, rfl, hst, List.mem_append_right _ (List.mem_singleton_self _)⟩
    · rw [State.gapStep_gives_up hrecv hst hheld hshort hgaps] at hexec
      refine ⟨_, ⟨q, (stillSent_modDie _ d rfl).leaves hq, hfields⟩, ?_, hexec⟩
      rw [State.recv?, State.modDie_die_self, lookupK_delK_self]
  case expiry =>
    have hexec : exec .receiveEntryExpiry s = .next (s.expireRecv d g) := by
      show execReceiveEntryExpiry s = _
      rw [execReceiveEntryExpiry, hev]
    rw [State.expireRecv_ends hrecv hst] at hexec
    refine ⟨_, hexec, ?_, rfl, fun h hne => ?_⟩
    · rw [State.recv?, State.modDie_die_self, lookupK_delK_self]
    · rw [State.recv?, State.recv?, State.modDie_die_self, lookupK_delK_ne hne]
  case relopen =>
    intro c hch hspaced hsettled hflagged
    have hexec : exec .relopenSpacingExpiry s = .next (s.relCheck t slot) := by
      show execRelopenSpacingExpiry s = _
      rw [execRelopenSpacingExpiry, hev]
    have hlive : s.groupLive t.die c rc ((ch.epoch + 255) % 256) = false := List.any_eq_false.mpr fun e he => by
      obtain ⟨hmem, hctx, hrc, hepoch⟩ := State.mem_groupSends.mp he
      obtain ⟨hopened, hflag⟩ := hsettled e hmem hctx hrc hepoch
      simp [hopened, hflag]
    have hopen : (s.groupSends t.die c rc ch.epoch).any (fun e => e.st = .opened) = false := List.any_eq_false.mpr fun e he => by
      obtain ⟨hmem, hctx, hrc, hepoch⟩ := State.mem_groupSends.mp he
      simp [hflagged e hmem hctx hrc hepoch]
    have hdone := State.relopenTest_next hch hlive hspaced hopen
    refine ⟨_, hexec.trans (congrArg _ (State.relCheck_opens hreply hkind hdone)), ⟨⟨(ch.epoch + 1) % 256, s.cycles⟩, ?_, rfl, rfl⟩, ?_⟩
    · rw [State.freeWaiting_die]
      exact State.openedEpoch_chan _
    · exact State.freeWaiting_replies _ t slot r

end

section
/-! PROOFS. What faults, emissions and the end of a context leave alone: the engines of the dies, and what a context holds of them. -/

namespace Sys2Proof.Machine

/-! ### The engines kept -/

/-- A die but for its queues, its fabric cache and Curator's rings. -/
def Die.engines (x : Die) : Die := { x with queues := [], fcache := [], rings := {} }

/-- What a context holds on a die but for its traps, its pages' marks, its counts and the records of the cycle. -/
def CtxDie.engines (x : CtxDie) : CtxDie :=
  { x with status := 0, pending := [], pages := [], sent := 0, recv := 0, phases := [], catNext := [] }

/-- From `s` to `t` every engine keeps its state, and every context what it holds of them; a package with tiles in use stays one. -/
structure KeepsEngines (s t : State) : Prop where
  die : ∀ d, (t.die d).engines = (s.die d).engines
  cd : ∀ c d, (t.cd c d).engines = (s.cd c d).engines
  pkg : t.pkg = s.pkg
  tiles : t.tiles = [] → s.tiles = []

section
variable {s t u : State}

theorem KeepsEngines.of_eq (hdies : t.dies = s.dies) (hcds : t.ctxDies = s.ctxDies) (hpkg : t.pkg = s.pkg)
    (htiles : t.tiles = s.tiles) : KeepsEngines s t :=
  ⟨fun d => by rw [State.die, State.die, hdies], fun c d => by rw [State.cd, State.cd, hcds], hpkg, htiles.symm.trans⟩

theorem KeepsEngines.refl (s : State) : KeepsEngines s s := .of_eq rfl rfl rfl rfl

theorem KeepsEngines.trans (h : KeepsEngines s t) (k : KeepsEngines t u) : KeepsEngines s u :=
  ⟨fun d => (k.die d).trans (h.die d), fun c d => (k.cd c d).trans (h.cd c d), k.pkg.trans h.pkg, h.tiles ∘ k.tiles⟩

theorem KeepsEngines.ite {p : Prop} [Decidable p] (ht : KeepsEngines s t) (hu : KeepsEngines s u) :
    KeepsEngines s (if p then t else u) := by
  split <;> assumption

theorem KeepsEngines.foldl {α : Type} {f : State → α → State} (l : List α) (h : ∀ s a, KeepsEngines s (f s a)) (s : State) :
    KeepsEngines s (l.foldl f s) :=
  List.foldlRecOn l f (KeepsEngines.refl s) (fun _ hs a _ => hs.trans (h _ a))

theorem KeepsEngines.net (h : KeepsEngines s t) (d : Nat) : (t.die d).net = (s.die d).net := (congrArg Die.net (h.die d) :)
theorem KeepsEngines.links (h : KeepsEngines s t) (d : Nat) : (t.die d).links = (s.die d).links := (congrArg Die.links (h.die d) :)
theorem KeepsEngines.msgNo (h : KeepsEngines s t) (c d : Nat) : (t.cd c d).msgNo = (s.cd c d).msgNo := (congrArg CtxDie.msgNo (h.cd c d) :)
theorem KeepsEngines.ncnt (h : KeepsEngines s t) (c d : Nat) : (t.cd c d).ncnt = (s.cd c d).ncnt := (congrArg CtxDie.ncnt (h.cd c d) :)
theorem KeepsEngines.netDone (h : KeepsEngines s t) (c d : Nat) : (t.cd c d).netDone = (s.cd c d).netDone :=
  (congrArg CtxDie.netDone (h.cd c d) :)

/-- A part of a die that an update leaves is left on every die. -/
theorem State.modDie_field {α : Type} {g : Die → Die} {v : Die → α} (hg : ∀ x, v (g x) = v x) (s : State) (d e : Nat) :
    v ((s.modDie d g).die e) = v (s.die e) := by
  by_cases hkey : e = d
  · rw [hkey, State.modDie_die_self, hg]
  · rw [State.modDie_die_ne _ _ _ _ hkey]

end

theorem keepsEngines_modDie {g : Die → Die} (s : State) (d : Nat) (hg : ∀ x, (g x).engines = x.engines := by intro; rfl) :
    KeepsEngines s (s.modDie d g) :=
  ⟨State.modDie_field hg s d, fun _ _ => rfl, rfl, id⟩

theorem keepsEngines_modCd {g : CtxDie → CtxDie} (s : State) (c d : Nat) (hg : ∀ x, (g x).engines = x.engines := by intro; rfl) :
    KeepsEngines s (s.modCd c d g) :=
  ⟨fun _ => rfl, State.modCd_field hg s c d, rfl, id⟩

theorem NMap.put_ne_nil {α : Type} (m : NMap α) (n : Nat) (v : α) : NMap.put m n v ≠ [] := by
  cases m with
  | nil => simp [NMap.put]
  | cons p m =>
    unfold NMap.put
    split_ifs <;> simp

theorem keepsEngines_modTile (s : State) (t : TileId) (g : Tile → Tile) : KeepsEngines s (s.modTile t g) :=
  ⟨fun _ => rfl, fun _ _ => rfl, rfl, fun h => absurd h (NMap.put_ne_nil _ _ _)⟩

theorem keepsEngines_modCtx (s : State) (c : Nat) (g : Ctx → Ctx) : KeepsEngines s (s.modCtx c g) := .of_eq rfl rfl rfl rfl

theorem keepsEngines_setStatus (s : State) (c d bit : Nat) : KeepsEngines s (s.setStatus c d bit) := keepsEngines_modCd s c d

theorem keepsEngines_post (s : State) (e : Event) : KeepsEngines s (s.post e) := .of_eq rfl rfl rfl rfl

theorem keepsEngines_due (s : State) (e : Event) : KeepsEngines s (s.due e) := .ite (.refl s) (keepsEngines_post s e)

theorem KeepsEngines.modCd {g : CtxDie → CtxDie} {s t : State} {c d : Nat} (h : KeepsEngines s t) (hg : ∀ x, (g x).engines = x.engines) :
    KeepsEngines s (t.modCd c d g) := h.trans (keepsEngines_modCd t c d hg)

theorem KeepsEngines.modDie {g : Die → Die} {s t : State} {d : Nat} (h : KeepsEngines s t) (hg : ∀ x, (g x).engines = x.engines) :
    KeepsEngines s (t.modDie d g) := h.trans (keepsEngines_modDie t d hg)

theorem keepsEngines_countRecv (s : State) (t : TileId) (phase : BitVec 8) (n : Nat) : KeepsEngines s (s.countRecv t phase n) := by
  unfold State.countRecv
  dsimp only
  exact .modCd (keepsEngines_modTile s _ _) fun _ => rfl

theorem keepsEngines_countSent (s : State) (t : TileId) (phase : BitVec 8) (n : Nat) : KeepsEngines s (s.countSent t phase n) := by
  unfold State.countSent
  dsimp only
  exact .modCd (.trans (t := s.modTile t fun x => { x with sent := x.sent + n }) (keepsEngines_modTile s _ _) (.of_eq rfl rfl rfl rfl)) fun _ => rfl

theorem keepsEngines_dieSent (s : State) (c d : Nat) (phase : BitVec 8) : KeepsEngines s (s.dieSent c d phase) :=
  keepsEngines_modCd s c d

theorem keepsEngines_dieRecv (s : State) (c d : Nat) (phase : BitVec 8) : KeepsEngines s (s.dieRecv c d phase) :=
  keepsEngines_modCd s c d

theorem keepsEngines_consume (s : State) (fi : Firing) : KeepsEngines s (s.consume fi) :=
  .ite (.refl s) (.foldl _ (fun s ph => keepsEngines_countRecv s fi.at_ ph 1) s)

theorem keepsEngines_curEvent (s : State) (die typ ctx datum : Nat) (detail : Bytes) : KeepsEngines s (s.curEvent die typ ctx datum detail) :=
  .ite (.modDie (.of_eq rfl rfl rfl rfl) fun _ => rfl)
    (.ite (keepsEngines_modDie s die) (keepsEngines_modDie s die))

theorem keepsEngines_catalogueAt (s : State) (c d typ code tile station block : Nat) (g : Tag) (tag : BitVec 64) (data : Bytes) :
    KeepsEngines s (s.catalogueAt c d typ code tile station block g tag data) :=
  .ite (.refl s) (keepsEngines_modCd s c d)

theorem keepsEngines_writeByte (s : State) (c va : Nat) (b : Byte) : KeepsEngines s (s.writeByte c va b) := by
  unfold State.writeByte
  split
  · exact .refl s
  · exact .ite (.of_eq rfl rfl rfl rfl) (.modCd (.of_eq rfl rfl rfl rfl) fun _ => rfl)

theorem keepsEngines_writeVa (s : State) (c va : Nat) (bs : Bytes) : KeepsEngines s (s.writeVa c va bs) :=
  .foldl _ (fun s _ => keepsEngines_writeByte s c _ _) s

/-! ### Faults and ends -/

theorem keepsEngines_dropLeases (s : State) (c : Nat) (gone : List LeaseRange) : KeepsEngines s (s.dropLeases c gone) :=
  .foldl _ (fun s _ => .ite (.refl s) (keepsEngines_modCd s _ _)) s

theorem keepsEngines_freeRegion (s : State) (r : Nat) : KeepsEngines s (s.freeRegion r) := by
  unfold State.freeRegion
  split
  · exact .refl s
  next g _ =>
    extract_lets s1 s2 s3 s4 s5 s6
    have h1 : KeepsEngines s s1 := .foldl _ (fun s t => (keepsEngines_modTile s t _).trans (keepsEngines_due _ _)) s
    have h5 : KeepsEngines s1 s5 := .of_eq rfl rfl rfl rfl
    have h6 : KeepsEngines s5 s6 := .foldl _ (fun s d => keepsEngines_modDie s d) s5
    exact ((h1.trans h5).trans h6).trans (keepsEngines_dropLeases s6 _ _)

theorem keepsEngines_endContext (s : State) (c die code : Nat) (record : Option Bytes) :
    KeepsEngines s (s.endContext c die code record) := by
  unfold State.endContext
  extract_lets away s1 ids s2 s3 s4 s5 s6
  have h1 : KeepsEngines s s1 := keepsEngines_modCtx s c _
  have h2 : KeepsEngines s1 s2 := .foldl _ keepsEngines_freeRegion s1
  have h3 : KeepsEngines s2 s3 := by
    refine .foldl _ (fun s d => ?_) s2
    extract_lets u v
    have hu : KeepsEngines s u := keepsEngines_modCd s c d
    have hv : KeepsEngines u v := .foldl _ (fun s _ => keepsEngines_due s _) u
    exact (hu.trans hv).trans (keepsEngines_modDie v d)
  clear_value s3
  have h5 : KeepsEngines s3 s5 := .of_eq rfl rfl rfl rfl
  clear_value s5
  have h6 : KeepsEngines s5 s6 := .ite (.foldl _ (fun s d => keepsEngines_writeVa s _ _ _) s5) (.refl s5)
  have h : KeepsEngines s s6 := (((h1.trans h2).trans h3).trans h5).trans h6
  split
  · exact h.trans ((keepsEngines_writeVa s6 _ _ _).trans (keepsEngines_curEvent _ _ _ _ _ _))
  · exact h.trans (keepsEngines_curEvent s6 _ _ _ _ _)

theorem keepsEngines_endOrHold (s : State) (c d code : Nat) (record : Option Bytes) : KeepsEngines s (s.endOrHold c d code record) := by
  unfold State.endOrHold
  split
  · exact .ite (keepsEngines_endContext s _ _ _ _) (.ite (.refl s) (keepsEngines_modCtx s _ _))
  · exact keepsEngines_endContext s _ _ _ _

theorem keepsEngines_halt (s : State) (c : Nat) : KeepsEngines s (s.halt c) := keepsEngines_modCtx s c _

section
variable {s t : State}

theorem KeepsEngines.halt {c : Nat} (h : KeepsEngines s t) : KeepsEngines s (t.halt c) := h.trans (keepsEngines_halt t c)

theorem KeepsEngines.tile {x : TileId} {g : Tile → Tile} (h : KeepsEngines s t) : KeepsEngines s (t.modTile x g) :=
  h.trans (keepsEngines_modTile t x g)

/-- The trap token of a taken fault and its Catalogue record. -/
theorem KeepsEngines.trapSent {e : Event} {x : TileId} {phase : BitVec 8} {c d typ code tile station block : Nat} {g : Tag} {tag : BitVec 64}
    {data : Bytes} (h : KeepsEngines s t) :
    KeepsEngines s (((t.post e).countSent x phase 1).catalogueAt c d typ code tile station block g tag data) :=
  ((h.trans (keepsEngines_post t e)).trans (keepsEngines_countSent _ x phase 1)).trans (keepsEngines_catalogueAt _ _ _ _ _ _ _ _ _ _ _)

end

theorem KeepsEngines.haltIfStop {s t : State} (x : FaultInfo) (h : KeepsEngines s t) : KeepsEngines s (t.haltIfStop x) := .ite h.halt h

theorem keepsEngines_enterTrap (s : State) (x : FaultInfo) (k : Nat) : KeepsEngines s (s.enterTrap x k) := by
  unfold State.enterTrap
  refine .modCd ?_ fun _ => rfl
  split
  · exact keepsEngines_consume s _
  · exact .refl s

theorem keepsEngines_sendTrap (s u : State) (x : FaultInfo) (k n : Nat) : KeepsEngines u (s.sendTrap u x k n) := by
  unfold State.sendTrap
  refine .trapSent ?_
  unfold State.noteHandler
  split
  · exact keepsEngines_modTile u _ _
  · exact .refl u

theorem keepsEngines_offerAgain (s : State) (fi : Firing) : KeepsEngines s (s.offerAgain fi) := .of_eq rfl rfl rfl rfl

/-- A fault that finds no entry is counted (18 R371). -/
theorem keepsEngines_lostFault (s : State) (c d n : Nat) :
    KeepsEngines s (s.modCd c d (fun y => { y with status := withField y.status 32 8 n })) :=
  .modCd (.refl s) fun _ => by simp only [CtxDie.engines]

theorem keepsEngines_raiseFault (s : State) (x : FaultInfo) : KeepsEngines s (s.raiseFault x) := by
  by_cases htaken : (s.ctx x.ctx).st = .free ∨ (s.ctx x.ctx).st = .ended
      ∨ (faultClass x.index x.code = .ends ∧ ((s.ctx x.ctx).st = .idle ∨ (s.ctx x.ctx).st = .saved))
  · rw [State.raiseFault_none htaken]
    exact .refl s
  by_cases hends : faultClass x.index x.code = .ends
  · rw [State.raiseFault_ends htaken hends]
    exact keepsEngines_endOrHold s _ _ _ _
  cases hfree : NMap.freeKey (s.cd x.ctx x.die).pending (if x.sync then 63 else 64) with
  | none =>
    rw [State.raiseFault_full htaken hends hfree]
    split
    · split
      · exact keepsEngines_offerAgain s _
      · exact .refl s
    · exact (keepsEngines_lostFault s _ _ _).haltIfStop x
  | some k =>
    have henter := keepsEngines_enterTrap s x k
    cases huse : s.usableEntry x (s.trapEntry x) with
    | none =>
      rw [State.raiseFault_unused htaken hends hfree huse]
      exact henter.halt.trans (keepsEngines_curEvent _ _ _ _ _ _)
    | some n =>
      rw [State.raiseFault_used htaken hends hfree huse]
      exact (henter.trans (keepsEngines_sendTrap s _ x k n)).haltIfStop x

theorem keepsEngines_jobFault (s : State) (j : Job) (index code : Nat) (detail : Bytes) : KeepsEngines s (s.jobFault j index code detail) :=
  keepsEngines_raiseFault s _

theorem keepsEngines_catalogue (s : State) (c d typ code : Nat) (fi : Option Firing) (data : Bytes) :
    KeepsEngines s (s.catalogue c d typ code fi data) := keepsEngines_catalogueAt s _ _ _ _ _ _ _ _ _ _

theorem keepsEngines_writeHangMap (s : State) (c d code : Nat) (es : List HangEntry) : KeepsEngines s (s.writeHangMap c d code es) :=
  .ite (.refl s) (((keepsEngines_writeVa s _ _ _).trans (keepsEngines_writeVa _ _ _ _)).trans (keepsEngines_catalogue _ _ _ _ _ _ _))

/-! ### Passes and emissions -/

theorem keepsEngines_hold (s : State) (j : Job) (e : Effect) : KeepsEngines s (s.hold j e) := by
  unfold State.hold
  dsimp only
  split
  · exact (keepsEngines_modTile s _ _).trans (keepsEngines_due _ _)
  · exact .ite (.of_eq rfl rfl rfl rfl) (keepsEngines_modTile s _ _)

theorem keepsEngines_sweepPass (s : State) (t : TileId) (id : Nat) : KeepsEngines s (s.sweepPass t id) := by
  unfold State.sweepPass
  extract_lets x left sets s1 s2 s3 s4
  have h1 : KeepsEngines s s1 := .ite (.refl s) (keepsEngines_setStatus s _ _ _)
  have h2 : KeepsEngines s1 s2 := .foldl _ (fun s e => .foldl _ (fun s ph => keepsEngines_countRecv s t ph 1) s) s1
  have h3 : KeepsEngines s2 s3 := .foldl _ keepsEngines_consume s2
  exact (((h1.trans h2).trans h3).trans (keepsEngines_modTile s3 t _)).trans (t := s4) (.of_eq rfl rfl rfl rfl)

theorem keepsEngines_dropEffect (s : State) (t : TileId) (e : Effect) : KeepsEngines s (s.dropEffect t e) := by
  cases e with
  | chan | exit => exact keepsEngines_countRecv s t _ 1
  | spawn j kids => exact .foldl kids (fun s k => keepsEngines_countRecv s t _ 1) s
  | stl | store | copy | rst => exact .refl s

theorem keepsEngines_handlerDone (s : State) (t : TileId) : KeepsEngines s (s.handlerDone t) := by
  unfold State.handlerDone
  split
  · exact .ite (.refl s) (.ite (keepsEngines_endContext s _ _ _ _) (keepsEngines_modCtx s _ _))
  · exact .refl s

theorem keepsEngines_commitPass (s : State) (t : TileId) (p : Pass) (x : ExitTok) : KeepsEngines s (s.commitPass t p x) := by
  unfold State.commitPass
  extract_lets s1 s2 s3 s4
  have h1 : KeepsEngines s s1 := .ite (.refl s) (.foldl _ (fun s e => keepsEngines_dropEffect s t e) s)
  have h3 : KeepsEngines s s3 := (h1.trans (keepsEngines_modTile s1 t _)).trans (keepsEngines_sweepPass s2 t p.id)
  have h4 : KeepsEngines s s4 := ((h3.trans (keepsEngines_due _ _)).trans (keepsEngines_due _ _)).trans (keepsEngines_due _ _)
  exact .ite (h4.trans (keepsEngines_handlerDone s4 t)) h4

theorem keepsEngines_closePass (s : State) (t : TileId) (p : Pass) : KeepsEngines s (s.closePass t p) := by
  unfold State.closePass
  split
  · exact .refl s
  next x _ =>
    exact .trans (.ite (.refl s) (.trans (.foldl _ (fun s (y : ExitTok) => keepsEngines_dropEffect s t y.eff) s)
      (keepsEngines_setStatus _ _ _ _))) (keepsEngines_commitPass _ t p x)

theorem keepsEngines_closeTile (s : State) (t : TileId) : KeepsEngines s (s.closeTile t) := by
  rw [State.closeTile_eq]
  exact .trans (t := s.regsWritten t) (.tile (.of_eq rfl rfl rfl rfl)) (.foldl _ (fun s p => keepsEngines_closePass s t p) _)

theorem keepsEngines_flush (s : State) (t : TileId) : KeepsEngines s (s.flush t) := .ite (keepsEngines_closeTile s t) (.refl s)

theorem keepsEngines_discardTok (s : State) (t : TileId) (tok : Token) : KeepsEngines s (s.discardTok t tok) :=
  (keepsEngines_countSent s t _ 1).trans (keepsEngines_countRecv _ t _ 1)

theorem keepsEngines_sendTo (s : State) (j : Job) (rel : Bool) (d : Nat) (tok : Token) : KeepsEngines s (s.sendTo j rel d tok) :=
  .ite (.ite ((keepsEngines_countSent s _ _ _).trans (keepsEngines_post _ _))
    ((keepsEngines_discardTok s _ tok).trans (keepsEngines_setStatus _ _ _ _)))
    (.ite ((keepsEngines_countSent s _ _ _).trans (keepsEngines_hold _ j _)) (.refl s))

theorem keepsEngines_touch (s : State) (t : TileId) : KeepsEngines s (s.touch t) := .ite (.refl s) (.of_eq rfl rfl rfl rfl)

theorem keepsEngines_sendExits (s : State) (j : Job) (rel keep : Bool) (xs : List Nat) (tok : Token) :
    KeepsEngines s (s.sendExits j rel keep xs tok) := by
  unfold State.sendExits
  dsimp only
  refine .ite (.refl s) ?_
  split
  · exact .trans (.foldl _ (fun s _ => keepsEngines_discardTok s _ tok) s) (keepsEngines_setStatus _ _ _ _)
  · exact .ite (.of_eq rfl rfl rfl rfl) (.trans (.tile (keepsEngines_countSent s _ _ _)) (keepsEngines_touch _ _))

theorem keepsEngines_deliver (s : State) (j : Job) (rel : Bool) (ds : List Nat) (tok : Token) : KeepsEngines s (s.deliver j rel ds tok) :=
  .trans (.foldl _ (fun s d => keepsEngines_sendTo s j rel d tok) s) (keepsEngines_sendExits _ j rel true _ tok)

theorem keepsEngines_emitRes (s : State) (j : Job) (rel : Bool) (ds : List Nat) (g : Tag) (kind : Kind) (res : Option Bytes) :
    KeepsEngines s (s.emitRes j rel ds g kind res) := by
  unfold State.emitRes
  dsimp only
  refine .trans ?_ (keepsEngines_deliver _ j rel _ _)
  split
  · exact .refl s
  · exact .foldl _ (fun s d => (keepsEngines_modTile s _ _).trans (keepsEngines_touch _ _)) s

theorem keepsEngines_emitDone (s : State) (j : Job) (rel : Bool) (ds : List Nat) (g : Tag) (res : Option Bytes) :
    KeepsEngines s (s.emitDone j rel ds g res) := keepsEngines_deliver s j rel _ _

theorem keepsEngines_emitBoth (s : State) (j : Job) (kind : Kind) (res : Bytes) : KeepsEngines s (s.emitBoth j kind res) :=
  (keepsEngines_emitRes s j _ _ _ _ _).trans (keepsEngines_emitDone _ j _ _ _ _)

theorem KeepsEngines.settle {s after : State} (j : Job) (h : KeepsEngines s after) : KeepsEngines s (s.settle j after) :=
  .ite ((keepsEngines_writeHangMap s _ _ _ _).trans (keepsEngines_jobFault _ j _ _ _)) (h.trans (keepsEngines_flush after _))

end Sys2Proof.Machine
end

section
/-! PROOFS. NET (15 R321 to R331): the firing rule with the effect of each minor; what an accepted post leaves. -/

namespace Sys2Proof.Machine

/-! ### The engine of a die -/

theorem State.modNet_net_self (s : State) (d : Nat) (g : Net → Net) : ((s.modNet d g).die d).net = g (s.die d).net := by
  rw [State.modNet, State.modDie_die_self]

/-- A message put into a die's list. -/
def State.putMsg (s : State) (d id : Nat) (m : NetMsg) : State := s.modNet d (fun x => { x with msgs := NMap.put x.msgs id m })

theorem State.putMsg_msgs (s : State) (d id : Nat) (m : NetMsg) :
    ((s.putMsg d id m).die d).net.msgs = NMap.put (s.die d).net.msgs id m := by
  rw [State.putMsg, State.modNet_net_self]

theorem State.find_putMsg (s : State) (d id : Nat) (m : NetMsg) : NMap.find ((s.putMsg d id m).die d).net.msgs id = some m := by
  rw [State.putMsg_msgs, NMap.find_put_self]

theorem State.putMsg_upds (s : State) (d id : Nat) (m : NetMsg) : ((s.putMsg d id m).die d).net.upds = (s.die d).net.upds := by
  rw [State.putMsg, State.modNet_net_self]

section
variable {s : State} {d id : Nat} {m : NetMsg}

/-- The completion token of a post is sent once: where it is owed, nothing else of the engines changes. -/
theorem State.postDone_cases (hm : NMap.find (s.die d).net.msgs id = some m) :
    s.postDone d id = s ∨ KeepsEngines (s.putMsg d id { m with tokens := false }) (s.postDone d id) := by
  unfold State.postDone
  rw [hm]
  dsimp only
  split
  · exact .inl rfl
  · refine .inr (.ite (.refl _) (.settle m.job (keepsEngines_emitDone _ _ _ _ _ _)))

/-- A message in a list, its completion token perhaps no longer owed. -/
def HasMsg (x : Net) (id : Nat) (m : NetMsg) : Prop :=
  NMap.find x.msgs id = some m ∨ NMap.find x.msgs id = some { m with tokens := false }

theorem HasMsg.exists {x : Net} (h : HasMsg x id m) : ∃ b, NMap.find x.msgs id = some { m with tokens := b } :=
  h.elim (fun h => ⟨m.tokens, h⟩) (fun h => ⟨false, h⟩)

theorem State.postDone_msg (hm : NMap.find (s.die d).net.msgs id = some m) : HasMsg ((s.postDone d id).die d).net id m := by
  obtain heq | hkept := State.postDone_cases hm
  · rw [heq]
    exact .inl hm
  · rw [hkept.net]
    exact .inr (State.find_putMsg s d id _)

theorem State.postDone_cd (hm : NMap.find (s.die d).net.msgs id = some m) (c e : Nat) :
    ((s.postDone d id).cd c e).engines = (s.cd c e).engines := by
  obtain heq | hkept := State.postDone_cases hm
  · rw [heq]
  · exact hkept.cd c e

/-- A message with an update due stays as it is. -/
theorem State.netEnd_due {u : NetUpd} (hu : NMap.find (s.die d).net.upds id = some u) (cause : Nat) : s.netEnd d id cause = s := by
  unfold State.netEnd
  rw [hu]
  cases NMap.find (s.die d).net.msgs id <;> rfl

theorem State.netEnd_eq (hm : NMap.find (s.die d).net.msgs id = some m) (hu : NMap.find (s.die d).net.upds id = none) (cause : Nat) :
    s.netEnd d id cause = ((s.postDone d id).modNet d (fun x => { x with
      upds := NMap.put x.upds id ⟨m.ctx, m.lnc, cause ≠ 0, m.num, m.ep, false, true, cause, false⟩ })).post (.netLocalCompletion d id) := by
  unfold State.netEnd
  rw [hu, hm]

/-- The end of a message: the update of its counter is due (15 R326). -/
theorem State.netEnd_upd (hm : NMap.find (s.die d).net.msgs id = some m) (hu : NMap.find (s.die d).net.upds id = none) (cause : Nat) :
    .netLocalCompletion d id ∈ (s.netEnd d id cause).agenda ∧ NMap.find ((s.netEnd d id cause).die d).net.upds id
      = some ⟨m.ctx, m.lnc, cause ≠ 0, m.num, m.ep, false, true, cause, false⟩ := by
  rw [State.netEnd_eq hm hu]
  refine ⟨List.mem_append_right _ List.mem_cons_self, ?_⟩
  rw [State.post_die, State.modNet_net_self]
  exact NMap.find_put_self _ _ _

theorem State.netEnd_msg (hm : NMap.find (s.die d).net.msgs id = some m) (cause : Nat) : HasMsg ((s.netEnd d id cause).die d).net id m := by
  cases hu : NMap.find (s.die d).net.upds id with
  | some u =>
    rw [State.netEnd_due hu]
    exact .inl hm
  | none =>
    rw [State.netEnd_eq hm hu]
    have hkept := State.postDone_msg hm
    unfold HasMsg at hkept ⊢
    rwa [State.post_die, State.modNet_net_self]

theorem State.netEnd_cd (hm : NMap.find (s.die d).net.msgs id = some m) (cause c e : Nat) :
    ((s.netEnd d id cause).cd c e).engines = (s.cd c e).engines := by
  cases hu : NMap.find (s.die d).net.upds id with
  | some u => rw [State.netEnd_due hu]
  | none =>
    rw [State.netEnd_eq hm hu]
    exact State.postDone_cd hm c e

theorem State.netEnd_msgNo (hm : NMap.find (s.die d).net.msgs id = some m) (cause c e : Nat) :
    ((s.netEnd d id cause).cd c e).msgNo = (s.cd c e).msgNo :=
  have h := State.netEnd_cd hm cause c e
  (congrArg CtxDie.msgNo h :)

end

/-! ### NET.POST -/

/-- The state from which an accepted post emits: its number taken, its set consumed, the message counted as sent. -/
def State.netTaken (s : State) (j : Job) : State :=
  let c := s.regionCtx j.fi.region
  ((s.modCd c j.fi.die (fun x => { x with msgNo := x.msgNo + 1 })).consume j.fi).dieSent c j.fi.die j.fi.stTag.phase

/-- The number emitted, with the completion token where the post owes none. -/
def State.netNumber (s : State) (j : Job) (num : BitVec 32) (done : Bool) : State :=
  let s := s.emitRes j false (dests j.f) j.fi.stTag .value (some (leBytes 4 num.toNat))
  if done then s.emitDone j false (dests j.f) j.fi.stTag (some (leBytes 4 num.toNat)) else s

theorem keepsEngines_netNumber (s : State) (j : Job) (num : BitVec 32) (done : Bool) : KeepsEngines s (s.netNumber j num done) := by
  have hres := keepsEngines_emitRes s j false (dests j.f) j.fi.stTag .value (some (leBytes 4 num.toNat))
  exact .ite (hres.trans (keepsEngines_emitDone _ _ _ _ _ _)) hres

section
variable {s : State} {j : Job}

theorem State.netTaken_msgNo (s : State) (j : Job) : ((s.netTaken j).cd (s.regionCtx j.fi.region) j.fi.die).msgNo
    = (s.cd (s.regionCtx j.fi.region) j.fi.die).msgNo + 1 := by
  unfold State.netTaken
  dsimp only
  rw [(keepsEngines_dieSent _ _ _ _).msgNo, (keepsEngines_consume _ _).msgNo, State.modCd_cd_self]

theorem State.netTaken_netDone (s : State) (j : Job) (c d : Nat) : ((s.netTaken j).cd c d).netDone = (s.cd c d).netDone := by
  unfold State.netTaken
  dsimp only
  rw [(keepsEngines_dieSent _ _ _ _).netDone, (keepsEngines_consume _ _).netDone,
    State.modCd_field (v := CtxDie.netDone) (g := fun x => { x with msgNo := x.msgNo + 1 }) fun _ => rfl]

theorem State.netTaken_net (s : State) (j : Job) (d : Nat) : ((s.netTaken j).die d).net = (s.die d).net := by
  unfold State.netTaken
  dsimp only
  rw [(keepsEngines_dieSent _ _ _ _).net, (keepsEngines_consume _ _).net]
  rfl

theorem State.consume_regionCtx (s : State) (fi : Firing) (r : Nat) : (s.consume fi).regionCtx r = s.regionCtx r := by
  have hregions : (s.consume fi).regions = s.regions := by
    unfold State.consume
    split
    · rfl
    · exact foldl_preserves (f := fun s ph => State.countRecv s fi.at_ ph 1) (v := State.regions) (fun _ _ _ => rfl) s
  rw [State.regionCtx, State.regionCtx, State.region?, State.region?, hregions]

theorem State.netTaken_nextId (s : State) (j : Job) : (s.netTaken j).nextId = s.nextId := by
  unfold State.netTaken State.consume
  dsimp only
  split
  · rfl
  · exact foldl_preserves (f := fun s ph => State.countRecv s j.fi.at_ ph 1) (v := State.nextId) (fun _ _ _ => rfl) _

/-- The message of an accepted post: its work request and the number taken. -/
def State.postMsg (s : State) (j : Job) (w : Bytes) : NetMsg :=
  wrMsg j (s.regionCtx j.fi.region) (s.cd (s.regionCtx j.fi.region) j.fi.die).msgNo w

/-- A new message: its number is emitted, a read's completion token with it; its first packet is due, or its end where the port is down. -/
def State.netStarted (s : State) (j : Job) (m : NetMsg) : State :=
  let u := s.netTaken j
  let v := ((s.netTaken j).fresh.2.putMsg j.fi.die u.nextId { m with tokens := m.write }).netNumber j m.num (!m.write)
  if (v.die j.fi.die).net.up then v.post (.netMessageSend j.fi.die u.nextId) else v.netEnd j.fi.die u.nextId 4

/-- The three ways of an accepted post (17 R360): its message has ended, is still under way, or is new. -/
theorem State.netAccept_cases (s : State) (j : Job) (w : Bytes) :
    let m := s.postMsg j w
    let u := s.netTaken j
    let d := j.fi.die
    (m.write = true ∧ (s.cd (s.regionCtx j.fi.region) d).netDone.contains m.num = true ∧ s.netAccept j w
        = ((u.fresh.2.netNumber j m.num true).putMsg d u.nextId { m with tokens := false }).netEnd d u.nextId 0)
    ∨ (∃ id q, (id, q) ∈ s.netOf (s.regionCtx j.fi.region) d ∧ q.write = true ∧ q.num = m.num ∧ ∃ b, s.netAccept j w
        = (u.netNumber j m.num b).putMsg d id { q with job := j, ghost := false, tokens := !b })
    ∨ s.netAccept j w = s.netStarted j m := by
  have hdone := s.netTaken_netDone j (s.regionCtx j.fi.region) j.fi.die
  have hof : (s.netTaken j).netOf (s.regionCtx j.fi.region) j.fi.die = s.netOf (s.regionCtx j.fi.region) j.fi.die := by
    rw [State.netOf, State.netOf, s.netTaken_net j]
  intro m u d
  unfold State.netAccept
  dsimp only
  split
  next _ _ hfin =>
    obtain ⟨hwrite, hin⟩ := Bool.and_eq_true_iff.mp hfin
    exact .inl ⟨hwrite, by rw [← hdone]; exact hin, rfl⟩
  next id q _ hfind =>
    have hmem := List.mem_of_find?_eq_some hfind
    have hq := List.find?_some hfind
    obtain ⟨⟨hwrite, hnum⟩, -⟩ : (q.write = true ∧ q.num = (s.cd (s.regionCtx j.fi.region) j.fi.die).msgNo) ∧ _ := by simpa using hq
    exact .inr (.inl ⟨id, q, by rw [← hof]; exact hmem, hwrite, hnum, _, rfl⟩)
  next => exact .inr (.inr rfl)

theorem State.netStarted_msg (s : State) (j : Job) (m : NetMsg) :
    (∀ c, ((s.netStarted j m).cd c j.fi.die).msgNo = ((s.netTaken j).cd c j.fi.die).msgNo)
    ∧ ∃ b, NMap.find ((s.netStarted j m).die j.fi.die).net.msgs s.nextId = some { m with tokens := b } := by
  unfold State.netStarted
  extract_lets u v
  have hkept : KeepsEngines (u.fresh.2.putMsg j.fi.die u.nextId { m with tokens := m.write }) v := keepsEngines_netNumber _ j _ _
  have hmsg : NMap.find (v.die j.fi.die).net.msgs u.nextId = some { m with tokens := m.write } := by
    rw [hkept.net]
    exact State.find_putMsg _ _ _ _
  have hid : u.nextId = s.nextId := s.netTaken_nextId j
  rw [← hid]
  split
  · exact ⟨fun c => hkept.msgNo c _, m.write, hmsg⟩
  · refine ⟨fun c => ?_, (State.netEnd_msg hmsg 4).exists⟩
    rw [State.netEnd_msgNo hmsg]
    exact hkept.msgNo c _

/-- An accepted post takes the next number. -/
theorem State.netAccept_msgNo (s : State) (j : Job) (w : Bytes) :
    ((s.netAccept j w).cd (s.regionCtx j.fi.region) j.fi.die).msgNo = (s.cd (s.regionCtx j.fi.region) j.fi.die).msgNo + 1 := by
  rw [← s.netTaken_msgNo j]
  obtain ⟨-, -, heq⟩ | ⟨id, q, -, -, -, b, heq⟩ | heq := s.netAccept_cases j w
  · rw [heq]
    rw [State.netEnd_msgNo (State.find_putMsg _ _ _ _)]
    exact (keepsEngines_netNumber _ j _ true).msgNo _ _
  · rw [heq]
    exact (keepsEngines_netNumber _ j _ b).msgNo _ _
  · rw [heq]
    exact (s.netStarted_msg j _).1 _

end

end Sys2Proof.Machine

open Sys2Proof Sys2Proof.Machine

/-- Settles O46: each minor is its firing rule with its effect; an accepted post takes the next number (`State.netAccept_msgNo`) and starts its
message unless a rollback has left it behind (`State.netAccept_cases`, `State.netStarted_msg`). -/
theorem networkResults : Obligations.NetworkResults := by
  unfold Obligations.NetworkResults
  intro f s u r hf hr t d c j a b k both put shows now timed mine
  have hctx : u.regionCtx s.cur.region = c := by rw [State.regionCtx, hr]; rfl
  have hlit : Fields.ncLit f = k := by rw [Fields.ncLit, Fields.litBits_zero]; rfl
  have hnum : numAt (operandIn u j .none true) 0 4 = leNat (sliceB b 0 4) := by rw [leNat_sliceB]; rfl
  have hnumA : numAt (operandIn u j .none false) 0 4 = leNat (sliceB a 0 4) := by rw [leNat_sliceB]; rfl
  have htimed : ∀ bs, .next (finished f s (u.emitTimed j bs)) = timed bs := by
    intro bs
    dsimp only [timed, put, State.emitTimed]
    rw [hctx]
  refine ⟨?post, ?reached, ?waits, ?ncget, ?ncset, ?cancel, ?nfence, ?nstat⟩
  case post =>
    intro off w halign hspad hbad hdie hmine
    refine ⟨u.netAccept j w, ?_, ?_, ?_⟩
    · refine (congrArg Host.Outcome.next (fire_next hf _ _ _)).trans (congrArg put ?_)
      have hplace : ¬ (off % 64 ≠ 0 || off + 64 > spadBytes : Bool) = true := by
        have : spadBytes = 0x30000 := rfl
        simp only [Bool.or_eq_true, decide_eq_true_eq]
        omega
      have hroom : ¬ ((u.die d).net.msgs.length ≥ 2048 || (u.netOf c d).length ≥ 256 : Bool) = true := by
        simp only [Bool.or_eq_true, decide_eq_true_eq, not_or]
        exact ⟨not_le.mpr hdie, not_le.mpr hmine⟩
      have hw : ¬ u.wrBad j r.launch w = true := by rw [hbad]; exact Bool.false_ne_true
      dsimp only
      rw [State.launchOf_of_region hr, hnumA, hctx]
      exact (if_neg hplace).trans ((if_neg hw).trans (if_neg hroom))
    · have h := u.netAccept_msgNo j w
      rwa [hctx] at h
    · intro hdone hfree
      have hm : u.postMsg j w = wrMsg j c (u.cd c d).msgNo w := by rw [State.postMsg, hctx]
      obtain ⟨-, hin, -⟩ | ⟨id, q, hmem, hwrite, hnumq, -⟩ | heq := u.netAccept_cases j w
      · rw [hctx, hm] at hin
        exact absurd (hdone.symm.trans hin) Bool.false_ne_true
      · rw [hctx] at hmem
        rw [hm] at hnumq
        exact absurd ⟨hwrite, hnumq⟩ (hfree (id, q) hmem)
      · obtain ⟨tokens, hfind⟩ := (u.netStarted_msg j (u.postMsg j w)).2
        rw [← heq, hm] at hfind
        refine ⟨_, hfind, rfl, rfl, ?_, ?_, rfl, ?_, rfl⟩
        · exact (leNat_sliceB w 0x18 4).symm
        · exact (leNat_sliceB w 8 8).symm
        · exact congrArg (BitVec.ofNat 64) (leNat_sliceB w 0x28 8).symm
  case reached =>
    intro hreached g
    refine (congrArg Host.Outcome.next (fireAcquiring_next hf _ _ _)).trans (congrArg put ?_)
    dsimp only
    rw [hlit, hnum, hctx]
    refine (if_pos hreached).trans ?_
    rw [State.sawAll_syncUp, hctx]
    rfl
  case waits =>
    intro hreached
    refine (congrArg Host.Outcome.next (fireAcquiring_next hf _ _ _)).trans (congrArg put ?_)
    dsimp only
    rw [hlit, hnum, hctx]
    exact if_neg (by rw [show ncReached (u.ncnt c j.fi.die k) _ = false from hreached]; exact Bool.false_ne_true)
  case ncget =>
    refine (congrArg Host.Outcome.next (fire_next hf _ _ _)).trans (Eq.trans ?_ (htimed _))
    dsimp only
    rw [hlit, hctx]
    rfl
  case ncset =>
    intro n
    refine (congrArg Host.Outcome.next (fire_next hf _ _ _)).trans (congrArg put ?_)
    dsimp only
    rw [hlit, hnum, hctx]
    rfl
  case cancel =>
    intro n v
    have hof : v.netOf c d = mine := by
      rw [State.netOf, (keepsEngines_consume u s.cur).net]
    have hexec : exec (.netCancel f) s = put (match mine.find? (fun m => m.2.num = n) with
        | none => v.emitBoth j .value (leBytes 4 2)
        | some (id, m) =>
          if m.sent = 0 && (NMap.find (v.die d).net.upds id).isNone then (v.netEnd d id 3).emitBoth j .value (leBytes 4 0)
          else v.emitBoth j .value (leBytes 4 1)) := by
      refine (congrArg Host.Outcome.next (fire_next hf _ _ _)).trans (congrArg put ?_)
      dsimp only
      rw [hnumA, State.consume_regionCtx, hctx, hof] <;> rfl
    rw [(keepsEngines_consume u s.cur).net] at hexec
    refine ⟨fun hnone => ?_, fun x hx => ⟨fun hsent hupd => ?_, fun hbusy => ?_⟩⟩
    · rw [hexec, List.find?_eq_none.mpr (fun m hm => by simpa using hnone m hm)]
    · rw [hexec, hx]
      dsimp only
      rw [if_pos (by simp [hsent, hupd])]
    · rw [hexec, hx]
      dsimp only
      rw [if_neg (by simpa [Decidable.imp_iff_not_or] using hbusy)]
  case nfence =>
    intro open_
    have hexec : exec (.netNfence f) s = put (if (open_.map (·.1)).isEmpty then (u.consume s.cur).emitBoth j .value a
        else u.netHold j 5 (.netFence (open_.map (·.1))) a) := by
      refine (congrArg Host.Outcome.next (fire_next hf _ _ _)).trans (congrArg put ?_)
      dsimp only
      rw [hctx]
      rfl
    refine ⟨fun hnone => ?_, fun hsome => ?_⟩
    · rw [hexec, if_pos (by simp [hnone])]
    · rw [hexec, if_neg (by simpa using hsome)]
  case nstat => exact (congrArg Host.Outcome.next (fire_next hf _ _ _)).trans (htimed _)

end

section
/-! PROOFS. The failure of a message whose update names another number (15 R326): the event posted is the message's. -/

namespace Sys2Proof.Machine

/-! ### What waking leaves -/

theorem keepsEngines_freeReply (s : State) (t : TileId) (slot : Nat) : KeepsEngines s (s.freeReply t slot) := keepsEngines_modTile s t _

theorem keepsEngines_serialDone (s : State) (t : TileId) (serial : Nat) : KeepsEngines s (s.serialDone t serial) :=
  .ite ((keepsEngines_modTile s t _).trans (keepsEngines_due _ _)) (keepsEngines_modTile s t _)

theorem keepsEngines_acquire (s : State) (t : TileId) (scope : Nat) : KeepsEngines s (s.acquire t scope) :=
  .ite (.ite (.foldl _ (fun s _ => keepsEngines_modTile s _ _) s) (.refl s)) (.ite (keepsEngines_modTile s t _) (.refl s))

theorem keepsEngines_emitAll (s : State) (j : Job) (g : Tag) (kind : Kind) (res : Bytes) : KeepsEngines s (s.emitAll j g kind res) :=
  (keepsEngines_emitRes s j _ _ _ _ _).trans (keepsEngines_emitDone _ j _ _ _ _)

/-- A reply slot freed, its serial done and its set consumed. -/
theorem keepsEngines_slotDone (s : State) (t : TileId) (slot serial : Nat) (fi : Firing) :
    KeepsEngines s (((s.freeReply t slot).serialDone t serial).consume fi) :=
  ((keepsEngines_freeReply s t slot).trans (keepsEngines_serialDone _ t serial)).trans (keepsEngines_consume _ fi)

theorem keepsEngines_netAnswer (s : State) (t : TileId) (slot k : Nat) (r : Reply) : KeepsEngines s (s.netAnswer t slot k r) :=
  (keepsEngines_slotDone s t slot r.serial r.job.fi).trans
    (.settle r.job ((keepsEngines_acquire _ t _).trans (keepsEngines_emitAll _ r.job _ _ _)))

theorem keepsEngines_netWake (s : State) (c d k : Nat) : KeepsEngines s (s.netWake c d k) := by
  unfold State.netWake
  refine .foldl _ (fun s q => ?_) s
  exact keepsEngines_netAnswer s q.1 q.2.1 k q.2.2

theorem keepsEngines_fenceWake (s : State) (c d id : Nat) : KeepsEngines s (s.fenceWake c d id) := by
  refine .foldl _ (fun s q => ?_) s
  split
  · refine .ite ?_ (keepsEngines_modTile s _ _)
    exact (keepsEngines_slotDone s q.1 q.2.1 q.2.2.serial q.2.2.job.fi).trans (.settle _ (keepsEngines_emitAll _ _ _ _ _))
  · exact .refl s

/-! ### Waking where no tile is in use -/

theorem State.slotsOn_of_tiles {s : State} (h : s.tiles = []) (c d : Nat) (p : Reply → Bool) : s.slotsOn c d p = [] := by
  have htile : ∀ t, s.tile t = {} := fun t => by rw [State.tile, h]; rfl
  unfold State.slotsOn
  refine List.flatMap_eq_nil_iff.mpr fun t _ => ?_
  split
  · rfl
  · rw [htile]
    rfl

theorem State.netWake_of_tiles {s : State} (h : s.tiles = []) (c d k : Nat) : s.netWake c d k = s := by
  unfold State.netWake
  dsimp only
  rw [State.slotsOn_of_tiles h]
  rfl

theorem State.fenceWake_of_tiles {s : State} (h : s.tiles = []) (c d id : Nat) : s.fenceWake c d id = s := by
  unfold State.fenceWake
  rw [State.slotsOn_of_tiles h]
  rfl

/-- A state without tiles in use has woken nothing. -/
theorem State.wakes_of_tiles {v t : State} {c d id k : Nat} (h : t = (v.fenceWake c d id).netWake c d k) (ht : t.tiles = []) : t = v := by
  have hfence : (v.fenceWake c d id).tiles = [] := (keepsEngines_netWake _ c d k).tiles (h ▸ ht)
  have hv : v.tiles = [] := (keepsEngines_fenceWake v c d id).tiles hfence
  rw [h, State.netWake_of_tiles hfence, State.fenceWake_of_tiles hv]

/-! ### A failure with two numbers -/

/-- Message 0 of context 0, outstanding. -/
def failingMsg : NetMsg :=
  { job := ⟨{}, ⟨0, 0, 0, 0, 0, 0, 0, 0, 0, 0, 0, 0, 0⟩⟩, ctx := 0, num := 0, write := true, lsp := false, ord := false, notify := false,
    lnc := 0, ep := 0, window := 0, addr := 0, roff := 0, length := 1, credit := 0, tag := 0 }

/-- Its failure is due under the number 1. -/
def failingState : State :=
  { ev := .netLocalCompletion 0 1, ctxs := [(0, { st := .running })],
    dies := [(0, { net := { msgs := [(1, failingMsg)], upds := [(1, ⟨0, 0, true, 1, 0, false, true, 1, false⟩)] } })] }

/-- The update posts the event of the message: its 16th byte is the message's number 0. -/
theorem exec_failingState : ∃ t, exec .netLocalCompletion failingState = .next t ∧ t.tiles = [] ∧ Memory.get t.hostMem 16 = 0 :=
  ⟨failingState.netUpdate 0 1, rfl, by decide, by decide⟩

end Sys2Proof.Machine

open Sys2Proof Sys2Proof.Machine

/-- Refutes O55: the statement puts the number of the due update into the network event, the engine the number of the message that it ends
(15 R326); of a message 0 whose update bears the number 1 (`failingState`) the event holds 0. -/
theorem not_networkEventResults : ¬ Obligations.NetworkEventResults := by
  intro h
  obtain ⟨-, -, hupdate, -, -⟩ := h failingState 0
  obtain ⟨-, hends⟩ := hupdate 1 _ rfl rfl (by decide) (by decide) (by decide)
  obtain ⟨v, hexec, -, -, -, hposted⟩ := hends failingMsg rfl rfl rfl
  obtain ⟨t, ht, htiles, hbyte⟩ := exec_failingState
  have hv : t = v := State.wakes_of_tiles (Host.Outcome.next.inj (ht.symm.trans hexec)) htiles
  have hstored := hposted rfl (by decide) (by decide) rfl 16
  rw [← hv, hbyte] at hstored
  exact absurd hstored (by decide)

end

section
/-! PROOFS. The steps of the fabric (14 R294 to R300, R305): links and their ends, hops and slots, loss and resending, notices. -/

namespace Sys2Proof.Machine

/-! ### Links and their ends (14 R299) -/

theorem State.modLink_link (s : State) (d port : Nat) (g : Link → Link) (e n : Nat) :
    (s.modLink d port g).link e n = if e = d ∧ n = port then g (s.link d port) else s.link e n := by
  unfold State.link State.modLink
  by_cases hd : e = d
  · subst hd
    rw [State.modDie_die_self]
    by_cases hn : n = port
    · rw [hn, if_pos ⟨rfl, rfl⟩]
      exact NMap.getD_put_self _ _ _ _
    · rw [if_neg fun h => hn h.2]
      exact NMap.getD_put_ne _ _ _ hn
  · rw [State.modDie_die_ne _ _ _ _ hd, if_neg fun h => hd h.1]

theorem State.modLink_link_self (s : State) (d port : Nat) (g : Link → Link) : (s.modLink d port g).link d port = g (s.link d port) := by
  rw [State.modLink_link, if_pos ⟨rfl, rfl⟩]

theorem State.modLink_link_ne {q e : Nat × Nat} (h : q ≠ e) (s : State) (g : Link → Link) :
    (s.modLink e.1 e.2 g).link q.1 q.2 = s.link q.1 q.2 := by
  rw [State.modLink_link, if_neg fun hq => h (Prod.ext hq.1 hq.2)]

theorem KeepsEngines.link {s t : State} (h : KeepsEngines s t) (d port : Nat) : t.link d port = s.link d port := by
  rw [State.link, State.link, h.links]

/-- The links of another state with the same dies. -/
theorem State.link_of_dies {s t : State} (h : t.dies = s.dies) (d port : Nat) : t.link d port = s.link d port := by
  rw [State.link, State.link, State.die, State.die, h]

/-- A ring link has a second end on the neighbouring die, another link none in the package. -/
theorem linkEnds_cases (d port : Nat) : (2 ≤ port ∧ linkEnds d port = [(d, port)])
    ∨ ∃ e, e.1 ≠ d ∧ e.2 ≠ port ∧ linkEnds d port = [(d, port), e] := by
  unfold linkEnds
  split_ifs with h0 h1
  · exact .inr ⟨((d + 1) % 8, 1), by omega, by omega, by rw [h0]⟩
  · exact .inr ⟨((d + 7) % 8, 0), by omega, by omega, by rw [h1]⟩
  · exact .inl ⟨by omega, rfl⟩

theorem mem_linkEnds_self (d port : Nat) : (d, port) ∈ linkEnds d port := by
  obtain ⟨-, h⟩ | ⟨e, -, -, h⟩ := linkEnds_cases d port <;> rw [h] <;> exact List.mem_cons_self

/-- What a step does to one end of a link it does to each, when it leaves every other end as it is. `I` holds throughout. -/
theorem forall_linkEnds {f : State → Nat × Nat → State} {R : Link → State → Nat × Nat → Prop} {I : State → Prop} {s : State}
    (hI : I s) (hstep : ∀ s e, I s → I (f s e)) (hself : ∀ s e, I s → R (s.link e.1 e.2) (f s e) e)
    (hother : ∀ s e q, q ≠ e → (f s e).link q.1 q.2 = s.link q.1 q.2)
    (hkeeps : ∀ s e q l, q ≠ e → R l s q → R l (f s e) q) (d port : Nat) :
    ∀ e ∈ linkEnds d port, R (s.link e.1 e.2) ((linkEnds d port).foldl f s) e := by
  obtain ⟨-, h⟩ | ⟨q, hdie, -, h⟩ := linkEnds_cases d port
  · rw [h]
    intro e he
    rw [List.mem_singleton.mp he]
    exact hself s (d, port) hI
  · rw [h]
    have hne : q ≠ (d, port) := fun heq => hdie (by rw [heq])
    intro e he
    obtain rfl | he := List.mem_cons.mp he
    · exact hkeeps _ _ _ _ hne.symm (hself s (d, port) hI)
    · rw [List.mem_singleton.mp he, ← hother s (d, port) q hne]
      exact hself _ q (hstep s (d, port) hI)

/-- An end that begins to train: its state, and the event that follows. -/
def Training (n : Nat) (t : State) (e : Nat × Nat) : Prop :=
  (t.link e.1 e.2).st = .retrain ∧ (t.link e.1 e.2).since = n
    ∧ (.trainingComplete e.1 e.2 ∈ t.agenda ∨ .retrainTimeout e.1 e.2 ∈ t.agenda)

theorem State.trainEnd_eq (s : State) (d port : Nat) : ∃ ev, (ev = .trainingComplete d port ∨ ev = .retrainTimeout d port)
    ∧ s.trainEnd d port = (s.modLink d port (fun l => { l with st := .retrain, since := s.cycles })).post ev := by
  unfold State.trainEnd
  dsimp only
  split
  · exact ⟨_, .inl rfl, rfl⟩
  · exact ⟨_, .inr rfl, rfl⟩

theorem State.trainEnd_link (s : State) (d port e n : Nat) : (s.trainEnd d port).link e n
    = if e = d ∧ n = port then { s.link d port with st := .retrain, since := s.cycles } else s.link e n := by
  obtain ⟨ev, -, h⟩ := s.trainEnd_eq d port
  rw [h]
  exact s.modLink_link d port (fun l => { l with st := .retrain, since := s.cycles }) e n

theorem State.trainEnd_agenda (s : State) (d port : Nat) : s.agenda ⊆ (s.trainEnd d port).agenda := by
  obtain ⟨ev, -, h⟩ := s.trainEnd_eq d port
  rw [h]
  exact List.subset_append_left _ _

theorem State.trainEnd_cycles (s : State) (d port : Nat) : (s.trainEnd d port).cycles = s.cycles := by
  obtain ⟨ev, -, h⟩ := s.trainEnd_eq d port
  rw [h]
  rfl

theorem State.trainEnd_link_ne {q e : Nat × Nat} (h : q ≠ e) (s : State) : (s.trainEnd e.1 e.2).link q.1 q.2 = s.link q.1 q.2 := by
  rw [State.trainEnd_link, if_neg fun hq => h (Prod.ext hq.1 hq.2)]

theorem State.trainEnd_training (s : State) (e : Nat × Nat) : Training s.cycles (s.trainEnd e.1 e.2) e := by
  rw [Training, State.trainEnd_link, if_pos ⟨rfl, rfl⟩]
  refine ⟨rfl, rfl, ?_⟩
  obtain ⟨ev, rfl | rfl, h⟩ := s.trainEnd_eq e.1 e.2 <;> rw [h]
  · exact .inl (List.mem_append_right _ List.mem_cons_self)
  · exact .inr (List.mem_append_right _ List.mem_cons_self)

theorem Training.trainEnd {n : Nat} {s : State} {q : Nat × Nat} (h : Training n s q) {e : Nat × Nat} (hne : q ≠ e) :
    Training n (s.trainEnd e.1 e.2) q := by
  obtain ⟨hst, hsince, hev⟩ := h
  rw [Training, State.trainEnd_link_ne hne]
  exact ⟨hst, hsince, hev.imp (fun h => s.trainEnd_agenda _ _ h) (fun h => s.trainEnd_agenda _ _ h)⟩

/-- The ends of a link that are up retrain together. -/
theorem State.retrain_ends (s : State) (d port : Nat) : ∀ e ∈ linkEnds d port, (s.link e.1 e.2).st = .up →
    Training s.cycles (s.retrain d port) e := by
  unfold State.retrain
  refine forall_linkEnds (R := fun l t e => l.st = .up → Training s.cycles t e) (I := fun t => t.cycles = s.cycles) rfl ?_ ?_ ?_ ?_ d port
  · intro u e hu
    split
    · rw [State.trainEnd_cycles, hu]
    · exact hu
  · intro u e hu hup
    rw [if_pos hup, ← hu]
    exact u.trainEnd_training e
  · intro u e q hne
    split
    · exact State.trainEnd_link_ne hne u
    · rfl
  · intro u e q l hne h hup
    split
    · exact (h hup).trainEnd hne
    · exact h hup

/-- Training that has completed: the end sends its view, to be compared when the other end has sent its own. -/
theorem State.trained_confirms {s : State} {d port : Nat} (hst : (s.link d port).st = .retrain) :
    ((s.trained d port).link d port).st = .confirm
    ∧ (2 ≤ port → ∃ peer, .confirmViews d port ((s.trained d port).link d port).view peer ∈ (s.trained d port).agenda)
    ∧ (∀ e, (linkEnds d port).drop 1 = [e] → (s.link e.1 e.2).st = .confirm →
        .confirmViews d port ((s.trained d port).link d port).view (s.link e.1 e.2).view ∈ (s.trained d port).agenda) := by
  have hset := s.modLink_link_self d port (fun l => { l with st := .confirm, view := viewOf (Config.linkView s.ticks d port) })
  unfold State.trained
  rw [if_neg (not_not.mpr hst)]
  dsimp only
  obtain ⟨-, hends⟩ | ⟨q, hdie, hport, hends⟩ := linkEnds_cases d port
  · rw [hends]
    refine ⟨?_, fun _ => ⟨viewOf (Config.linkView s.ticks d (port + 8)), ?_⟩, fun e he => by cases he⟩
    · exact congrArg Link.st hset
    · refine List.mem_append_right _ (List.mem_singleton.mpr ?_)
      exact congrArg (fun l : Link => Event.confirmViews d port l.view _) hset
  · rw [hends]
    have hne : q ≠ (d, port) := fun heq => hdie (by rw [heq])
    have hother : (s.modLink d port (fun l => { l with st := .confirm, view := viewOf (Config.linkView s.ticks d port) })).link q.1 q.2
        = s.link q.1 q.2 := State.modLink_link_ne (e := (d, port)) hne s _
    have hlow : ¬ 2 ≤ port := by
      intro h2
      unfold linkEnds at hends
      rw [if_neg (by omega), if_neg (by omega)] at hends
      cases hends
    dsimp only [List.drop]
    rw [hother]
    refine ⟨?_, fun h2 => absurd h2 hlow, fun e he hconfirm => ?_⟩
    · split
      · exact congrArg Link.st hset
      · exact congrArg Link.st hset
    · obtain rfl : q = e := List.singleton_injective he
      rw [if_pos hconfirm]
      refine List.mem_append_right _ (List.mem_singleton.mpr ?_)
      exact congrArg (fun l : Link => Event.confirmViews d port l.view _) hset

/-! ### Views compared -/

theorem keepsEngines_modRings (s : State) (d : Nat) (g : Rings → Rings) : KeepsEngines s (s.modRings d g) :=
  keepsEngines_modDie s d fun _ => rfl

theorem keepsEngines_complete (s : State) (c : Command) (status result : Nat) : KeepsEngines s (s.complete c status result) :=
  .ite (.refl s) (.ite (.of_eq rfl rfl rfl rfl) (keepsEngines_modRings s _ _))

theorem keepsEngines_takeNext (s : State) (d n : Nat) : KeepsEngines s (s.takeNext d n) := by
  induction n generalizing s with
  | zero => exact .refl s
  | succ n ih =>
    unfold State.takeNext
    dsimp only
    refine .ite (.refl s) ?_
    split
    · exact ((keepsEngines_modRings s _ _).trans (keepsEngines_modRings _ _ _)).trans (keepsEngines_post _ _)
    · exact ((keepsEngines_modRings s _ _).trans (keepsEngines_complete _ _ _ _)).trans (ih _)

theorem keepsEngines_flushEvents (s : State) (d n : Nat) : KeepsEngines s (s.flushEvents d n) := by
  induction n generalizing s with
  | zero => exact .refl s
  | succ n ih =>
    unfold State.flushEvents
    dsimp only
    split
    · exact .refl s
    · exact .ite (.refl s) (.trans (.trans (t := { s with hostMem := Memory.setN s.hostMem _ _ }) (.of_eq rfl rfl rfl rfl)
        (keepsEngines_modRings _ _ _)) (ih _))

theorem keepsEngines_hostBack (s : State) : KeepsEngines s s.hostBack := by
  refine .foldl _ (fun s d => ?_) s
  dsimp only
  have hflushed := (((KeepsEngines.foldl (s.die d).rings.cplKept (f := fun s (q : Nat × Bytes) =>
    ({ s with hostMem := Memory.setN s.hostMem q.1 q.2 } : State)) (fun s q => .of_eq rfl rfl rfl rfl) s).trans
    (keepsEngines_modRings _ d (fun x => { x with cplKept := [] }))).trans (keepsEngines_flushEvents _ d 256))
  exact .ite (hflushed.trans (keepsEngines_takeNext _ _ _)) hflushed

/-- Equal views bring both ends up. -/
theorem State.linkUp_ends (s : State) (d port : Nat) (v : LinkView) : ∀ e ∈ linkEnds d port,
    (s.linkUp d port v).link e.1 e.2 = { s.link e.1 e.2 with st := .up, view := v, attempts := 0 } := by
  intro e he
  have hset := forall_linkEnds (R := fun l t e => t.link e.1 e.2 = { l with st := .up, view := v, attempts := 0 }) (I := fun _ => True)
    (f := fun s e => s.modLink e.1 e.2 (fun l => { l with st := .up, view := v, attempts := 0 })) (s := s) trivial
    (fun _ _ _ => trivial) (fun u e _ => u.modLink_link_self e.1 e.2 _) (fun u e q hne => State.modLink_link_ne hne u _)
    (fun u e q l hne h => (State.modLink_link_ne hne u _).trans h) d port e he
  unfold State.linkUp
  dsimp only
  split
  · rw [(keepsEngines_hostBack _).link, hset]
  · exact hset

/-- Different views have both ends train again. -/
theorem State.confirmAgain_ends (s : State) (d port : Nat) : ∀ e ∈ linkEnds d port,
    let t := (linkEnds d port).foldl (fun s e => (s.modLink e.1 e.2 (fun l => { l with attempts := l.attempts + 1 })).trainEnd e.1 e.2) s
    (t.link e.1 e.2).st = .retrain ∧ (t.link e.1 e.2).attempts = (s.link e.1 e.2).attempts + 1 := by
  refine forall_linkEnds (R := fun l t e => (t.link e.1 e.2).st = .retrain ∧ (t.link e.1 e.2).attempts = l.attempts + 1)
    (I := fun _ => True) trivial (fun _ _ _ => trivial) ?_ ?_ ?_ d port
  · intro u e _
    rw [State.trainEnd_link, if_pos ⟨rfl, rfl⟩, State.modLink_link_self]
    exact ⟨rfl, rfl⟩
  · intro u e q hne
    rw [State.trainEnd_link_ne hne, State.modLink_link_ne hne]
  · intro u e q l hne h
    rwa [State.trainEnd_link_ne hne, State.modLink_link_ne hne]

/-- The ends of a link fail together, and no other link does. -/
theorem State.linkFailed_ends (s : State) (d port : Nat) :
    (∀ e ∈ linkEnds d port, ((s.linkFailed d port).link e.1 e.2).st = .failed)
    ∧ ∀ n, n ≠ port → (s.linkFailed d port).link d n = s.link d n := by
  have hone : ∀ (u : State) (e q : Nat × Nat), ((let u := u.modLink e.1 e.2 (fun l => { l with st := .failed })
      u.curEvent e.1 8 0 e.2 (leBytes 8 ((u.link e.1 e.2).stat e.2).toNat)).link q.1 q.2)
      = (u.modLink e.1 e.2 (fun l => { l with st := .failed })).link q.1 q.2 := fun u e q => (keepsEngines_curEvent _ _ _ _ _ _).link _ _
  unfold State.linkFailed
  constructor
  · refine forall_linkEnds (R := fun _ t e => (t.link e.1 e.2).st = .failed) (I := fun _ => True) trivial (fun _ _ _ => trivial) ?_ ?_ ?_ d port
    · intro u e _
      rw [hone, State.modLink_link_self]
    · intro u e q hne
      rw [hone, State.modLink_link_ne hne]
    · intro u e q _ hne h
      rwa [hone, State.modLink_link_ne hne]
  · intro n hn
    have hself : (d, n) ≠ (d, port) := fun h => hn (congrArg Prod.snd h)
    obtain ⟨-, h⟩ | ⟨q, hdie, -, h⟩ := linkEnds_cases d port
    · rw [h]
      exact (hone s (d, port) (d, n)).trans (State.modLink_link_ne hself s _)
    · rw [h]
      have hother : (d, n) ≠ q := fun h => hdie (by rw [← h])
      refine (hone _ q (d, n)).trans ((State.modLink_link_ne hother _ _).trans ?_)
      exact (hone s (d, port) (d, n)).trans (State.modLink_link_ne hself s _)

/-! ### Hops (14 R296 to R298) -/

section
variable {s : State} {d : Nat} {p : Packet}

theorem State.leaveSlot_cases (s : State) (p : Packet) : (∃ e, s.leaveSlot p = s.post e) ∨ s.leaveSlot p = s := by
  unfold State.leaveSlot
  split
  · exact .inl ⟨_, rfl⟩
  · exact .inr rfl

/-- Only the agenda changes where a packet leaves its slot. -/
theorem State.leaveSlot_agenda (s : State) (p : Packet) : ∃ a, s.leaveSlot p = { s with agenda := a } := by
  obtain ⟨e, h⟩ | h := s.leaveSlot_cases p <;> rw [h]
  · exact ⟨_, rfl⟩
  · exact ⟨s.agenda, rfl⟩

theorem State.leaveSlot_credits {l : Nat} {k : SlotKind} (hvia : p.viaLink = some l) (hheld : p.held = some k) :
    .creditReturn l k ∈ (s.leaveSlot p).agenda := by
  unfold State.leaveSlot
  rw [hvia, hheld]
  exact List.mem_append_right _ List.mem_cons_self

/-- The route within the package. -/
theorem State.route_within (hpkg : p.to_.toNat / 8 = s.pkg) (hhost : p.toHost = false) : s.route p = some (p.to_.toNat % 8, none) := by
  unfold State.route
  dsimp only
  rw [if_neg (not_not.mpr hpkg), hhost]
  rfl

/-- A packet that has reached the age at which a die drops it. -/
theorem State.hop_old (hbad : badPacket p = false) (hold : s.tooOld d (aged s.ticks p) = true) :
    s.hop d p = s.post (.packetAgeDrop d (aged s.ticks p)) := by
  unfold State.hop
  dsimp only
  rw [if_neg (by rw [show badPacket (aged s.ticks p) = false from hbad]; exact Bool.false_ne_true), if_pos hold]

section
variable (hbad : badPacket p = false) (hyoung : s.tooOld d (aged s.ticks p) = false)
include hbad hyoung

/-- A packet at the die that it is bound for. -/
theorem State.hop_here (hroute : s.route (aged s.ticks p) = some (d, none)) : s.hop d p = s.deliverPkt d (aged s.ticks p) := by
  unfold State.hop
  dsimp only
  rw [if_neg (by rw [show badPacket (aged s.ticks p) = false from hbad]; exact Bool.false_ne_true),
    if_neg (by rw [hyoung]; exact Bool.false_ne_true), hroute]
  exact if_pos rfl

/-- A packet on its way around the ring goes on a link of its direction. -/
theorem State.hop_ring {n w : Nat} {port : Option Nat} (hroute : s.route (aged s.ticks p) = some (n, port)) (hne : n ≠ d)
    (hway : s.ringWay d n (aged s.ticks p) = some w) : ∃ u : State, (∀ e m, u.link e m = s.link e m)
      ∧ s.hop d p = u.sendOn d (if w = 1 then 0 else 1) { aged s.ticks p with dir := BitVec.ofNat 2 w }
        { aged s.ticks p with
          dir := BitVec.ofNat 2 w
          dateline := p.dateline || ((w = 1 && d = 7) || (w = 2 && d = 0)) } := by
  unfold State.hop
  dsimp only
  rw [if_neg (by rw [show badPacket (aged s.ticks p) = false from hbad]; exact Bool.false_ne_true),
    if_neg (by rw [hyoung]; exact Bool.false_ne_true), hroute]
  dsimp only
  rw [if_neg hne, hway]
  dsimp only
  refine ⟨_, fun e m => ?_, rfl⟩
  split
  · have hkeep : ((s.cstatUp d 0 4).die e).links = (s.die e).links := State.modDie_field (v := Die.links)
      (g := fun x => { x with cstat := withField x.cstat 0 4 (min (2 ^ 4 - 1) (fieldOf x.cstat 0 4 + 1)) }) (fun _ => rfl) s d e
    rw [State.link, State.link, hkeep]
  · rfl

/-- A packet that leaves the package by an optical port. -/
theorem State.hop_out {o : Nat} (hroute : s.route (aged s.ticks p) = some (d, some o)) : ∃ next : Packet, (o ≠ 6 → next.escape = false)
    ∧ s.hop d p = s.sendOn d o (aged s.ticks p) next := by
  unfold State.hop
  dsimp only
  rw [if_neg (by rw [show badPacket (aged s.ticks p) = false from hbad]; exact Bool.false_ne_true),
    if_neg (by rw [hyoung]; exact Bool.false_ne_true), hroute]
  dsimp only
  rw [if_pos rfl]
  refine ⟨_, fun ho => ?_, rfl⟩
  rw [if_neg ho]
  split <;> rfl

end

/-- A packet at the die that it is bound for: its slot is given back, memory stays, and its arrival comes due. -/
theorem State.deliverPkt_arrives (hknown : p.fromHost = true ∨ p.typ = 0x0C ∨ p.inc = NMap.getD (s.die d).incs p.from_.toNat 0) :
    (s.deliverPkt d p).mem = s.mem ∧ (s.leaveSlot p).agenda ⊆ (s.deliverPkt d p).agenda
    ∧ ∀ e, arrivalEvent d { p with viaLink := none, held := none, dir := 0, dateline := false, escape := false } = some e →
        e ∈ (s.deliverPkt d p).agenda := by
  have hfresh : ¬ (!p.fromHost && p.typ ≠ 0x0C && p.inc ≠ NMap.getD ((s.leaveSlot p).die d).incs p.from_.toNat 0 : Bool) = true := by
    obtain ⟨a, ha⟩ := s.leaveSlot_agenda p
    have hincs : ((s.leaveSlot p).die d).incs = (s.die d).incs := by rw [ha]; rfl
    rw [hincs]
    rcases hknown with h | h | h <;> simp [h]
  have hmem : (s.leaveSlot p).mem = s.mem := by
    obtain ⟨a, ha⟩ := s.leaveSlot_agenda p
    rw [ha]
  unfold State.deliverPkt
  dsimp only
  rw [if_neg hfresh]
  generalize arrivalEvent d _ = arrival
  cases arrival with
  | none => exact ⟨hmem, List.Subset.refl _, fun e he => by cases he⟩
  | some e' => exact ⟨hmem, List.subset_append_left _ _, fun e he => List.mem_append_right _ (by rw [Option.some.inj he]; exact List.mem_cons_self)⟩

/-! ### Slots (14 R297) -/

theorem Link.slotFor_shared {l : Link} {ring : Bool} {q : Packet} (hescape : q.escape = false) (hfree : 0 < l.shared) :
    l.slotFor ring q = some .shared := by
  unfold Link.slotFor
  dsimp only
  rw [if_neg (by rw [hescape]; exact Bool.false_ne_true), if_pos hfree]

section
variable {port : Nat} {next : Packet} (hup : (s.link d port).st = .up) (hfree : 0 < (s.link d port).shared) (hescape : next.escape = false)
include hup hfree hescape

/-- A packet put on a ring link with a free slot is on its way to the neighbouring die. -/
theorem State.sendOn_ring (hring : port < 2) : .packetHop ((d + (if port = 0 then 1 else 7)) % 8)
    { next with viaLink := some (d * 8 + port), held := some .shared } ∈ (s.sendOn d port p next).agenda := by
  have hlabel : ¬ (port = 4 || port = 5 : Bool) = true := by simp; omega
  unfold State.sendOn
  dsimp only
  rw [if_neg hlabel, if_pos hup, Link.slotFor_shared hescape hfree]
  dsimp only
  rw [if_pos (by simpa using hring)]
  exact List.mem_append_right _ List.mem_cons_self

/-- A packet put on a link out of the package has left it. -/
theorem State.sendOn_out (hout : 2 ≤ port) : p ∈ (s.sendOn d port p next).outbound := by
  have hlabel : (if (port = 4 || port = 5 : Bool) = true then { next with gHops := p.gHops, lHops := p.lHops } else next).escape = false := by
    split
    · exact hescape
    · exact hescape
  unfold State.sendOn
  dsimp only
  rw [if_pos hup, Link.slotFor_shared hlabel hfree]
  dsimp only
  rw [if_neg (by simp; omega)]
  unfold State.departed
  dsimp only
  exact List.mem_append_right _ List.mem_cons_self

end

/-- Where no link has failed, the shorter way around the ring is free. -/
theorem State.ringBlocked_false (hopen : ∀ n m, s.failedPort n m = false) (cw : Bool) (d n : Nat) : s.ringBlocked cw d n = false := by
  induction n generalizing d with
  | zero => rfl
  | succ n ih => rw [State.ringBlocked, hopen, ih]; rfl

theorem State.ringWay_shorter (hopen : ∀ n m, s.failedPort n m = false) (hdir : p.dir = 0) (hring : p.ring = 0) (n : Nat) :
    s.ringWay d n p = some (if (n + 8 - d) % 8 ≤ 4 then 1 else 2) := by
  have hfree : s.ringBlocked = fun _ _ _ => false := by
    funext cw e m
    exact State.ringBlocked_false hopen cw e m
  unfold State.ringWay
  rw [hfree, hdir, hring]
  simp

end

/-! ### Credits, loss and resending -/

theorem Link.give_escape (l : Link) (c w : Nat) : NMap.getD (l.give (.escape c w)).escape (c * 2 + w) 1 = 1 := NMap.getD_put_self _ _ _ _

theorem Link.give_reserved (l : Link) (v : Nat) : NMap.getD (l.give (.reserved v)).reserved v 2 = min 2 (NMap.getD l.reserved v 2 + 1) :=
  NMap.getD_put_self _ _ _ _

/-- A dropped packet is counted (14 R315). -/
theorem State.dropPkt_counts (s : State) (d : Nat) (p : Packet) : ((s.leaveSlot p).cstatUp d 40 12).mem = s.mem
    ∧ fieldOf (((s.leaveSlot p).cstatUp d 40 12).die d).cstat 40 12 = min 4095 (fieldOf (s.die d).cstat 40 12 + 1) := by
  obtain ⟨a, ha⟩ := s.leaveSlot_agenda p
  rw [ha]
  refine ⟨rfl, ?_⟩
  rw [State.cstatUp, State.modDie_die_self]
  refine (fieldOf_withField_self _ _ (by decide)).trans (Nat.mod_eq_of_lt ?_)
  exact lt_of_le_of_lt (Nat.min_le_left _ _) (by decide)

/-- The parts of a slot's requests that are still out. -/
def Reply.outParts (r : Reply) : List Packet := r.pkts.filter (fun p => r.left.contains p.part && p.typ = 0x01)

theorem Reply.mem_outParts {r : Reply} {p : Packet} : p ∈ r.outParts ↔ p ∈ r.pkts ∧ p.part ∈ r.left ∧ p.typ = 0x01 := by
  simp [Reply.outParts]

/-- A slot whose requests are tried once more. -/
def State.countTry (s : State) (t : TileId) (slot : Nat) (r : Reply) : State :=
  s.modTile t (fun x => { x with replies := NMap.put x.replies slot { r with tries := r.tries + 1, since := s.cycles } })

theorem State.countTry_slot (s : State) (t : TileId) (slot : Nat) (r : Reply) :
    NMap.find ((s.countTry t slot r).tile t).replies slot = some { r with tries := r.tries + 1, since := s.cycles } := by
  rw [State.countTry, State.modTile_tile_self]
  exact NMap.find_put_self _ _ _

/-- The unanswered reads of a slot sent again, and their timer with them. -/
def State.sendAgain (s : State) (t : TileId) (slot : Nat) (r : Reply) : State :=
  r.outParts.foldl (fun s q => s.emitPkt t.die q) ((s.countTry t slot r).post (.requestTimeoutResend t slot))

section
variable {s : State} {t : TileId} {slot : Nat} {r : Reply} {p : Packet} (htile : t.tile < 1024)
  (hslot : NMap.find (s.tile t).replies slot = some r) (hout : p ∈ r.outParts)
include htile hslot hout

theorem State.resend_again (htries : r.tries < 3) : s.resend t slot = s.sendAgain t slot r := by
  unfold State.resend
  dsimp only
  rw [if_neg (by omega), hslot]
  dsimp only
  unfold State.sendAgain Reply.outParts
  unfold Reply.outParts at hout
  generalize r.pkts.filter _ = ps at hout ⊢
  cases ps with
  | nil => cases hout
  | cons q ps => exact if_pos htries

theorem State.resend_ends (htries : 3 ≤ r.tries) : ∃ p' ∈ r.outParts,
    s.resend t slot = s.replyFault t slot 0x02 p'.addr.toNat p'.to_.toNat false := by
  unfold State.resend
  dsimp only
  rw [if_neg (by omega), hslot]
  dsimp only
  unfold Reply.outParts at hout ⊢
  generalize r.pkts.filter _ = ps at hout ⊢
  cases ps with
  | nil => cases hout
  | cons q ps => exact ⟨q, List.mem_cons_self, if_neg (not_lt.mpr htries)⟩

end

theorem State.sendAgain_leaves (s : State) (t : TileId) (slot : Nat) (r : Reply) :
    (∀ p ∈ r.outParts, Leaves t.die p (s.sendAgain t slot r))
    ∧ NMap.find ((s.sendAgain t slot r).tile t).replies slot = some { r with tries := r.tries + 1, since := s.cycles }
    ∧ .requestTimeoutResend t slot ∈ (s.sendAgain t slot r).agenda := by
  unfold State.sendAgain
  refine ⟨?_, ?_, ?_⟩
  · exact foldl_establishes (P := fun (q : Packet) u => Leaves t.die q u) (fun u q => leaves_of_emitPkt u t.die q)
      (fun u q _ h => (stillSent_emitPkt u t.die q).leaves h) _ _
  · obtain ⟨a, ha⟩ := State.emitPkts_agenda r.outParts t.die (fun _ q => q) ((s.countTry t slot r).post (.requestTimeoutResend t slot))
    rw [ha]
    exact s.countTry_slot t slot r
  · refine List.foldlRecOn (motive := fun u : State => .requestTimeoutResend t slot ∈ u.agenda) _ _ ?_ ?_
    · exact List.mem_append_right _ List.mem_cons_self
    · exact fun u hu q _ => (stillSent_emitPkt u t.die q).agenda hu

/-! ### Notices (14 R305) -/

theorem KeepsEngines.recvs {s t : State} (h : KeepsEngines s t) (d : Nat) : (t.die d).recvs = (s.die d).recvs :=
  (congrArg Die.recvs (h.die d) :)

/-- An ended firing keeps the receive entries where its effects do. -/
theorem State.settle_recvs {s after : State} (j : Job) {d : Nat} (h : (after.die d).recvs = (s.die d).recvs) :
    ((s.settle j after).die d).recvs = (s.die d).recvs := by
  unfold State.settle
  split
  · exact ((keepsEngines_writeHangMap s _ _ _ _).trans (keepsEngines_jobFault _ j _ _ _)).recvs d
  · exact ((keepsEngines_flush after _).recvs d).trans h

theorem State.relopenTest_recvs {s t : State} {c d rc e : Nat} (h : s.relopenTest c d rc = .done t e) (n : Nat) :
    (t.die n).recvs = (s.die n).recvs := by
  unfold State.relopenTest at h
  dsimp only at h
  split at h
  · cases h
    refine State.modDie_field (v := Die.recvs) ?_ s d n
    exact fun _ => rfl
  · split at h
    · cases h
    · split at h
      · cases h
      · cases h
        refine State.modDie_field (v := Die.recvs) ?_ s d n
        exact fun _ => rfl

/-- Waking the firings of a release channel leaves the receive entries. -/
theorem State.relCheck_recvs (s : State) (t : TileId) (slot d : Nat) : ((s.relCheck t slot).die d).recvs = (s.die d).recvs := by
  unfold State.relCheck
  dsimp only
  split
  · rfl
  next r _ =>
    split
    · split
      · split
        · split
          · exact (keepsEngines_due s _).recvs d
          · rfl
        · rfl
      · exact ((keepsEngines_slotDone s t slot r.serial r.job.fi).trans (keepsEngines_raiseFault _ _)).recvs d
      next s' e hdone =>
        refine State.settle_recvs r.job ?_
        rw [((keepsEngines_slotDone s' t slot r.serial r.job.fi).trans (keepsEngines_emitBoth _ _ _ _)).recvs d]
        exact State.relopenTest_recvs hdone d
    · split
      · rfl
      · exact ((keepsEngines_slotDone s t slot r.serial r.job.fi).trans (keepsEngines_raiseFault _ _)).recvs d
      next s' _ hdone =>
        refine State.settle_recvs r.job ?_
        rw [((keepsEngines_slotDone s' t slot r.serial r.job.fi).trans (keepsEngines_emitAll _ _ _ _ _)).recvs d,
          State.relwaitTest_done hdone]
    · rfl

theorem State.relWake_recvs (s : State) (d c rc n : Nat) : ((s.relWake d c rc).die n).recvs = (s.die n).recvs :=
  foldl_preserves (f := fun s (q : TileId × Nat) => State.relCheck s q.1 q.2) (v := fun u : State => (u.die n).recvs)
    (fun u q _ => u.relCheck_recvs q.1 q.2 n) s

/-- An abort of an entry without copies: what its die holds afterwards. -/
theorem State.abortSend_die {s : State} {d : Nat} (hcopies : (s.die d).copies = []) (e : SendEntry) :
    (s.abortSend d e).die d = (s.putSend d (s.abortedEntry d e)).die d := by
  have hput : ((s.putSend d (s.abortedEntry d e)).die d).copies = [] := by
    rw [State.putSend, State.modDie_die_self]
    exact hcopies
  have hfree : ((s.putSend d (s.abortedEntry d e)).freeCopies d e true).die d = (s.putSend d (s.abortedEntry d e)).die d := by
    unfold State.freeCopies
    simp only [hput, List.filter_nil, List.foldl_nil, ite_self]
    rw [State.modDie_die_self, hput]
    generalize (s.putSend d (s.abortedEntry d e)).die d = x at hput ⊢
    cases x
    cases hput
    rfl
  rw [State.abortSend, State.emitPkt_die]
  show NMap.getD (State.flagReceived _ d e).dies d {} = _
  rw [State.flagReceived_dies]
  exact hfree

/-- A new incarnation in a die's table. -/
def State.learnInc (s : State) (d source : Nat) (inc : BitVec 8) : State := s.modDie d (fun x => { x with incs := NMap.put x.incs source inc })

/-- A new incarnation noted, the mail of saved contexts on its way. -/
def State.noted (s : State) (d source : Nat) (inc : BitVec 8) : State :=
  let u := s.learnInc d source inc
  (u.saves.flatMap (fun v => v.2.lostReplies u d source)).foldl (fun s p => s.post (.replyDelivery p)) u

theorem State.noted_agenda (s : State) (d source : Nat) (inc : BitVec 8) :
    ∃ a, s.noted d source inc = { s.learnInc d source inc with agenda := a } := by
  unfold State.noted
  dsimp only
  refine List.foldlRecOn (motive := fun u : State => ∃ a, u = { s.learnInc d source inc with agenda := a }) _ _ ⟨_, rfl⟩ ?_
  rintro _ ⟨a, rfl⟩ p -
  exact ⟨_, rfl⟩

theorem State.noted_die (s : State) (d source : Nat) (inc : BitVec 8) :
    (s.noted d source inc).die d = { s.die d with incs := NMap.put (s.die d).incs source inc } := by
  obtain ⟨a, ha⟩ := s.noted_agenda d source inc
  rw [ha]
  show (s.learnInc d source inc).die d = _
  rw [State.learnInc, State.modDie_die_self]

section
variable {s : State} {d source : Nat} {inc : BitVec 8} (hnew : NMap.getD (s.die d).incs source 0 ≠ inc)
  (htiles : ∀ q ∈ s.tiles, q.2.replies = []) (hstreams : ∀ q ∈ (s.die d).streams, q.2 = [])
include hnew htiles hstreams

/-- A notice on a die that waits for no request: the groups toward the other die are aborted, those from it freed. -/
theorem State.notice_eq : s.notice d source inc =
    let u := (((s.noted d source inc).die d).sends.filter (fun e => e.dst = source && e.st ≠ .done)).foldl (fun s e =>
      ((if e.st = .aborted then s else s.abortSend d e).remoteFault e.ctx d 0x09 0 source e.rc e.epoch).relWake d e.ctx e.rc)
      (s.noted d source inc)
    ((u.die d).recvs.filter (fun r => r.1.other.toNat = source && r.1.inc ≠ inc)).foldl (fun s r =>
      (s.modDie d (fun x => { x with recvs := delK x.recvs r.1 })).remoteFault
        r.1.ctx.toNat d 0x09 0 source r.1.rc.toNat r.1.epoch.toNat) u := by
  have hslots : ∀ (m : Nat) (g : Nat × Tile → List (TileId × Nat × Nat)), (∀ q, q.2.replies = [] → g q = []) →
      ((s.modDie m (fun x => { x with incs := NMap.put x.incs source inc })).tiles.filter (fun q => q.1 / 1024 = d)).flatMap g = [] :=
    fun _ g hg => List.flatMap_eq_nil_iff.mpr fun q hq => hg q (htiles q (List.mem_of_mem_filter hq))
  have hreads : ∀ g : Nat × List CopyReq → Option (Nat × Packet), (∀ q, q.2 = [] → g q = none) →
      ((s.modDie d (fun x => { x with incs := NMap.put x.incs source inc })).die d).streams.filterMap g = [] := by
    intro g hg
    rw [State.modDie_die_self]
    exact List.filterMap_eq_nil_iff.mpr fun q hq => hg q (hstreams q hq)
  unfold State.notice
  rw [if_neg hnew]
  dsimp only
  rw [hslots d _ fun q hq => by rw [hq]; rfl]
  rw [List.foldl_nil, hreads _ fun q hq => by rw [hq]; rfl]
  rfl

/-- Where every group toward the other die is done and none has come from it, nothing else changes. -/
theorem State.notice_quiet (hsends : ∀ e ∈ (s.die d).sends, e.dst = source → e.st = .done)
    (hrecvs : ∀ r ∈ (s.die d).recvs, r.1.other.toNat = source → r.1.inc = inc) : s.notice d source inc = s.noted d source inc := by
  have hlive : (s.die d).sends.filter (fun e => e.dst = source && e.st ≠ .done) = [] :=
    List.filter_eq_nil_iff.mpr fun e he => by simpa using hsends e he
  have hgone : (s.die d).recvs.filter (fun r => r.1.other.toNat = source && r.1.inc ≠ inc) = [] :=
    List.filter_eq_nil_iff.mpr fun r hr => by simpa using hrecvs r hr
  rw [State.notice_eq hnew htiles hstreams]
  dsimp only
  rw [State.noted_die]
  dsimp only
  rw [hlive, List.foldl_nil, State.noted_die]
  dsimp only
  rw [hgone, List.foldl_nil]

/-- One open group toward it is aborted with remote fault 0x09. -/
theorem State.notice_aborts {e : SendEntry} (hsends : (s.die d).sends = [e]) (hdst : e.dst = source) (hst : e.st = .opened)
    (hcopies : (s.die d).copies = []) (hrecvs : ∀ r ∈ (s.die d).recvs, r.1.other.toNat = source → r.1.inc = inc) :
    s.notice d source inc
      = (((s.noted d source inc).abortSend d e).remoteFault e.ctx d 0x09 0 source e.rc e.epoch).relWake d e.ctx e.rc := by
  have hcopies' : ((s.noted d source inc).die d).copies = [] := by
    rw [State.noted_die]
    exact hcopies
  have hgone : (s.die d).recvs.filter (fun r => r.1.other.toNat = source && r.1.inc ≠ inc) = [] :=
    List.filter_eq_nil_iff.mpr fun r hr => by simpa using hrecvs r hr
  have hleft : (((((s.noted d source inc).abortSend d e).remoteFault e.ctx d 0x09 0 source e.rc e.epoch).relWake d e.ctx e.rc).die d).recvs
      = (s.die d).recvs := by
    rw [State.relWake_recvs, State.remoteFault, (keepsEngines_raiseFault _ _).recvs, State.abortSend_die hcopies', State.putSend,
      State.modDie_die_self, State.noted_die]
  have hlive : [e].filter (fun e => e.dst = source && e.st ≠ .done) = [e] := by simp [hdst, hst]
  have hopen : ¬ e.st = .aborted := by rw [hst]; decide
  rw [State.notice_eq hnew htiles hstreams]
  dsimp only
  rw [State.noted_die]
  dsimp only
  rw [hsends, hlive, List.foldl_cons, List.foldl_nil, if_neg hopen, hleft, hgone, List.foldl_nil]

end

end Sys2Proof.Machine

open Sys2Proof Sys2Proof.Machine

/-- Settles O53: a hop by its route (`State.hop_here`, `State.hop_ring`, `State.hop_out`), slots and credits (`State.sendOn_ring`,
`State.sendOn_out`), loss and resending (`State.dropPkt_counts`, `State.resend_again`), the two ends of a link (`forall_linkEnds`) and a
notice on a die that waits for nothing (`State.notice_quiet`, `State.notice_aborts`). -/
theorem fabricEventResults : Obligations.FabricEventResults := by
  unfold Obligations.FabricEventResults
  intro s d port
  refine ⟨?hop, ?credit, ?drop, ?resend, ?retrain, ?trained, ?confirm, ?timeout, ?notice⟩
  case hop =>
    intro p hev hbad old young
    have hexec : exec .packetHop s = .next (s.hop d p) := by
      show execPacketHop s = _
      rw [execPacketHop, hev]
    have hold : aged s.ticks p = old := rfl
    have hyoung : young → s.tooOld d (aged s.ticks p) = false := fun h => by
      rw [State.tooOld, hold]
      exact decide_eq_false (not_le.mpr h)
    refine ⟨⟨_, hexec, fun h => ?_⟩, fun hpkg hdie hhost hknown => ⟨_, hexec, fun h => ?_⟩, ?ring, fun hdir hring hopen _ => ?_, ?out⟩
    · rw [State.hop_old hbad (by rw [State.tooOld, hold]; exact decide_eq_true (not_lt.mp h))]
      exact ⟨rfl, rfl⟩
    · have hroute : s.route (aged s.ticks p) = some (d, none) := by
        rw [State.route_within (p := aged s.ticks p) hpkg hhost]
        exact congrArg (fun n => some (n, none)) hdie
      obtain ⟨hmem, hslot, harrives⟩ := State.deliverPkt_arrives (s := s) (d := d) (p := aged s.ticks p) hknown
      rw [State.hop_here hbad (hyoung h) hroute]
      exact ⟨hmem, fun l k hvia hheld => hslot (State.leaveSlot_credits (p := aged s.ticks p) hvia hheld), harrives⟩
    case ring =>
      intro w hpkg hdie hd hhost hway hup hfree hescape hw
      refine ⟨_, hexec, fun h => ?_⟩
      have hroute : s.route (aged s.ticks p) = some (p.to_.toNat % 8, none) :=
        State.route_within (p := aged s.ticks p) hpkg hhost
      obtain ⟨u, hlink, heq⟩ := State.hop_ring hbad (hyoung h) hroute hdie hway
      rw [heq]
      have hport : (if w = 1 then 0 else 1) = w - 1 := by
        rcases hw with rfl | rfl <;> rfl
      rw [hport]
      have hsent := State.sendOn_ring (s := u) (d := d) (p := { aged s.ticks p with dir := BitVec.ofNat 2 w }) (port := w - 1)
        (next := { aged s.ticks p with
          dir := BitVec.ofNat 2 w
          dateline := p.dateline || ((w = 1 && d = 7) || (w = 2 && d = 0)) })
        (by rw [hlink]; exact hup) (by rw [hlink]; exact hfree) hescape (by omega)
      have hstep : (if w - 1 = 0 then 1 else 7) = if w = 1 then 1 else 7 := by
        rcases hw with rfl | rfl <;> rfl
      rw [hstep] at hsent
      exact ⟨_, hsent, rfl, rfl, rfl, rfl, rfl, rfl, rfl, (Bool.or_assoc _ _ _).symm⟩
    · exact State.ringWay_shorter hopen hdir hring _
    case out =>
      intro o hpkg hway hlo hhi hup hfree hescape
      refine ⟨_, hexec, fun h => ?_⟩
      have hroute : s.route (aged s.ticks p) = some (d, some o) := by
        have hway' : s.wayOut (aged s.ticks p) (p.from_.toNat / 8) (p.to_.toNat / 8) = some (d, o) := hway
        unfold State.route
        refine (if_pos hpkg).trans ?_
        exact congrArg (Option.map _) hway'
      obtain ⟨next, hnext, heq⟩ := State.hop_out hbad (hyoung h) hroute
      rw [heq]
      exact ⟨_, State.sendOn_out hup hfree (hnext (by omega)) hlo, rfl, rfl, rfl⟩
  case credit =>
    intro l k hev
    refine ⟨s.modLink (l / 8) (l % 8) (fun x => x.give k), ?_, rfl, ?_⟩
    · show execCreditReturn s = _
      rw [execCreditReturn, hev]
    · rw [State.modLink_link_self]
      cases k with
      | shared => exact ⟨rfl, rfl, rfl⟩
      | reserved v => exact ⟨Link.give_reserved _ v, rfl, rfl⟩
      | escape c n => exact ⟨Link.give_escape _ c n, rfl, rfl⟩
  case drop =>
    intro p hev
    have hexec : exec .packetAgeDrop s = .next (s.dropPkt d p) := by
      show execPacketAgeDrop s = _
      rw [execPacketAgeDrop, hev]
    have hcount := s.dropPkt_counts d p
    refine ⟨fun htyp => ⟨(s.leaveSlot p).cstatUp d 40 12, hexec.trans (congrArg _ ?_), hcount⟩,
      fun htyp hhost => ⟨(s.leaveSlot p).cstatUp d 40 12, hexec.trans (congrArg _ ?_), hcount.2⟩⟩
    · rw [State.dropPkt, htyp]
      rfl
    · rw [State.dropPkt, htyp, hhost]
      rfl
  case resend =>
    intro t slot r hev htile hslot out
    have hexec : exec .requestTimeoutResend s = .next (s.resend t slot) := by
      show execRequestTimeoutResend s = _
      rw [execRequestTimeoutResend, hev]
    refine ⟨fun p hp htries => ?_, fun p hp htries => ?_⟩
    · obtain ⟨hleaves, hfind, htimer⟩ := s.sendAgain_leaves t slot r
      rw [hexec, State.resend_again htile hslot (Reply.mem_outParts.mpr hp) htries]
      exact ⟨_, _, rfl, fun q hq => hleaves q (Reply.mem_outParts.mpr hq), hfind, rfl, rfl, htimer⟩
    · obtain ⟨p', hp', heq⟩ := State.resend_ends htile hslot (Reply.mem_outParts.mpr hp) htries
      exact ⟨p', Reply.mem_outParts.mp hp', by rw [hexec, heq]⟩
  case retrain =>
    intro hev hup
    refine ⟨(s.modLink d port (fun l => l.resent (Config.crcResends s.ticks))).retrain d port, ?_, fun e he hst => ?_⟩
    · show execLinkRetrainRequest s = _
      rw [execLinkRetrainRequest, hev]
      dsimp only
      rw [if_pos hup]
    · refine State.retrain_ends (s.modLink d port (fun l => l.resent (Config.crcResends s.ticks))) d port e he ?_
      rw [State.modLink_link]
      split
      next h =>
        obtain ⟨hdie, hport⟩ := h
        rw [← hdie, ← hport]
        exact hst
      next => exact hst
  case trained =>
    intro hev hst
    refine ⟨s.trained d port, ?_, State.trained_confirms hst⟩
    show execTrainingComplete s = _
    rw [execTrainingComplete, hev]
  case confirm =>
    intro own peer hev hst
    have hexec : exec .confirmViews s = .next (s.confirm d port own peer) := by
      show execConfirmViews s = _
      rw [execConfirmViews, hev]
    refine ⟨_, hexec, fun e he => ⟨fun hsame => ?_, fun hdiff htry => ?_, fun hdiff htry => ?_⟩⟩
    · rw [State.confirm, if_neg (not_not.mpr hst), if_pos hsame, State.linkUp_ends s d port own e he]
      exact ⟨rfl, rfl, rfl⟩
    · rw [State.confirm, if_neg (not_not.mpr hst), if_neg hdiff, if_pos htry]
      exact s.confirmAgain_ends d port e he
    · rw [State.confirm, if_neg (not_not.mpr hst), if_neg hdiff, if_neg (not_lt.mpr htry)]
      exact (s.linkFailed_ends d port).1 e he
  case timeout =>
    intro hev hst
    refine ⟨s.linkFailed d port, ?_, s.linkFailed_ends d port⟩
    show execRetrainTimeout s = _
    rw [execRetrainTimeout, hev]
    dsimp only
    rw [if_pos hst]
  case notice =>
    intro source inc hev hnew htiles hstreams hrecvs
    have hexec : exec .incarnationNotice s = .next (s.notice d source inc) := by
      show execIncarnationNotice s = _
      rw [execIncarnationNotice, hev]
    have hincs : NMap.find (NMap.put (s.die d).incs source inc) source = some inc := NMap.find_put_self _ _ _
    refine ⟨fun hdone => ⟨_, hexec, ?_, ?_⟩, fun e hsends hdst hst hcopies => ⟨(s.noted d source inc).abortSend d e, ?_, ?_, ?_, ?_⟩⟩
    · rw [State.notice_quiet hnew htiles hstreams hdone hrecvs, State.noted_die]
      exact hincs
    · rw [State.notice_quiet hnew htiles hstreams hdone hrecvs]
      obtain ⟨a, ha⟩ := s.noted_agenda d source inc
      rw [ha]
      rfl
    · rw [hexec, State.notice_aborts hnew htiles hstreams hsends hdst hst hcopies hrecvs]
    all_goals
      have hcopies' : ((s.noted d source inc).die d).copies = [] := by
        rw [State.noted_die]
        exact hcopies
    · rw [State.abortSend_die hcopies', State.putSend, State.modDie_die_self, State.noted_die]
      exact hincs
    · have hself : ((s.noted d source inc).abortedEntry d e).is e.ctx e.rc e.epoch e.dst = true := SendEntry.is_iff.mpr ⟨rfl, rfl, rfl, rfl⟩
      have hmine : e.is e.ctx e.rc e.epoch e.dst = true := SendEntry.is_iff.mpr ⟨rfl, rfl, rfl, rfl⟩
      refine ⟨(s.noted d source inc).abortedEntry d e, ?_, rfl, hself⟩
      rw [State.abortSend_die hcopies', State.putSend, State.modDie_die_self, State.noted_die]
      dsimp only
      rw [hsends]
      simp [State.abortedEntry, hmine]
    · refine ⟨_, leaves_of_emitPkt _ _ _, rfl, ?_, rfl⟩
      exact congrArg (BitVec.ofNat 13) hdst

end

section
/-! PROOFS. Curator's commands on contexts (20 R409): completions, what the commands change on every die, and how each of them ends. -/

namespace Sys2Proof.Machine

/-! ### An update for each element of a list -/

/-- Updates that each change the part of their own key change the parts of the keys that are listed, once each. -/
theorem foldl_at {σ α κ : Type} [DecidableEq κ] {f : σ → κ → σ} {v : σ → κ → α} {g : κ → α → α}
    (hf : ∀ s k j, v (f s k) j = if j = k then g k (v s j) else v s j) {l : List κ} (hl : l.Nodup) (s : σ) (j : κ) :
    v (l.foldl f s) j = if j ∈ l then g j (v s j) else v s j := by
  induction l generalizing s with
  | nil => simp
  | cons k l ih =>
    obtain ⟨hk, hl⟩ := List.nodup_cons.mp hl
    rw [List.foldl_cons, ih hl, hf]
    by_cases hj : j = k
    · subst hj
      simp [hk]
    · simp [hj]

theorem State.modCd_cd (s : State) (c d : Nat) (g : CtxDie → CtxDie) (e : Nat) :
    (s.modCd c d g).cd c e = if e = d then g (s.cd c e) else s.cd c e := by
  split_ifs with h
  · rw [h, State.modCd_cd_self]
  · refine State.modCd_cd_ne _ _ _ _ _ _ ?_
    unfold cdKey
    omega

theorem State.modDie_die (s : State) (d : Nat) (g : Die → Die) (e : Nat) :
    (s.modDie d g).die e = if e = d then g (s.die e) else s.die e := by
  split_ifs with h
  · rw [h, State.modDie_die_self]
  · exact State.modDie_die_ne _ _ _ _ h

/-- What a context holds on each die of the package changed alike. -/
theorem State.forDies_cd {f : State → Nat → State} {g : Nat → CtxDie → CtxDie} {c : Nat}
    (hf : ∀ s d e, (f s d).cd c e = if e = d then g d (s.cd c e) else s.cd c e) (s : State) {d : Nat} (hd : d < 8) :
    ((List.range 8).foldl f s).cd c d = g d (s.cd c d) := by
  rw [foldl_at (v := fun s e => State.cd s c e) hf List.nodup_range s d, if_pos (List.mem_range.mpr hd)]

/-- Each die of the package changed alike. -/
theorem State.forDies_die {f : State → Nat → State} {g : Nat → Die → Die}
    (hf : ∀ s d e, (f s d).die e = if e = d then g d (s.die e) else s.die e) (s : State) {d : Nat} (hd : d < 8) :
    ((List.range 8).foldl f s).die d = g d (s.die d) := by
  rw [foldl_at (v := fun s e => State.die s e) hf List.nodup_range s d, if_pos (List.mem_range.mpr hd)]

/-! ### Completions (20 R406) -/

theorem State.takeNext_none {s : State} {d : Nat} (h : (s.die d).rings.chead = (s.die d).rings.ctail) (n : Nat) : s.takeNext d n = s := by
  cases n with
  | zero => rfl
  | succ n => simp [State.takeNext, h]

@[simp] theorem State.modRings_rings_self (s : State) (d : Nat) (g : Rings → Rings) :
    ((s.modRings d g).die d).rings = g (s.die d).rings := by
  rw [State.modRings, State.modDie_die_self]

theorem State.complete_quiet {s : State} {k : Command} {status res : Nat} (h : bitN k.flags.toNat 0 = true ∧ status = 0) :
    s.complete k status res = s := by
  rw [State.complete, if_pos (by simp [h])]

/-- The bytes of a completion, and their place. -/
def replyBytes (k : Command) (status res : Nat) : Bytes :=
  leBytes 8 k.tag.toNat ++ leBytes 2 k.opcode.toNat ++ leBytes 2 status ++ leBytes 4 res
def replyAddr (r : Rings) (k : Command) : Nat := baseOf r.cpl + 16 * (k.index % r.slots)

theorem State.complete_open {s : State} {k : Command} {status res : Nat} (h : ¬ (bitN k.flags.toNat 0 = true ∧ status = 0))
    (hopen : s.hostOpen = true) : s.complete k status res
      = { s with hostMem := Memory.setN s.hostMem (replyAddr (s.die k.die).rings k) (replyBytes k status res) } := by
  rw [State.complete, if_neg (by simpa using h)]
  exact if_pos hopen

theorem State.complete_closed {s : State} {k : Command} {status res : Nat} (h : ¬ (bitN k.flags.toNat 0 = true ∧ status = 0))
    (hopen : s.hostOpen = false) : s.complete k status res
      = s.modRings k.die (fun x => { x with cplKept := x.cplKept ++ [(replyAddr (s.die k.die).rings k, replyBytes k status res)] }) := by
  rw [State.complete, if_neg (by simpa using h)]
  exact if_neg (by simp [hopen])

/-- A completion concerns the rings of its die alone. -/
theorem State.complete_rings (s : State) (k : Command) (status res : Nat) : ∃ kept,
    ((s.complete k status res).die k.die).rings = { (s.die k.die).rings with cplKept := kept } := by
  unfold State.complete
  dsimp only
  split_ifs
  · exact ⟨_, rfl⟩
  · exact ⟨_, rfl⟩
  · exact ⟨_, State.modRings_rings_self _ _ _⟩

/-- A command finished while its ring holds no other. -/
theorem State.finish_last {s : State} {k : Command} (h : (s.die k.die).rings.chead = (s.die k.die).rings.ctail) (status res : Nat) :
    s.finish k status res = (s.complete k status res).modRings k.die (fun x => { x with busy := none }) := by
  obtain ⟨kept, hrings⟩ := s.complete_rings k status res
  refine State.takeNext_none ?_ _
  rw [State.modRings_rings_self, hrings]
  exact h

/-! ### What operations leave of the contexts -/

/-- Bytes written to a context's memory change memory and the descriptors of its pages alone. -/
theorem State.writeByte_keeps {α : Type} {v : State → α} (hv : ∀ (s : State) m cds, v { s with mem := m, ctxDies := cds } = v s)
    (s : State) (c va : Nat) (b : Byte) : v (s.writeByte c va b) = v s := by
  unfold State.writeByte
  split
  · rfl
  · dsimp only
    split
    · exact hv s _ s.ctxDies
    · exact hv s _ _

theorem State.writeVa_keeps {α : Type} {v : State → α} (hv : ∀ (s : State) m cds, v { s with mem := m, ctxDies := cds } = v s)
    (s : State) (c va : Nat) (bs : Bytes) : v (s.writeVa c va bs) = v s :=
  foldl_preserves (v := v) (fun s p _ => s.writeByte_keeps hv c (va + p.2) p.1) s

theorem State.writeVa_ctxs (s : State) (c va : Nat) (bs : Bytes) : (s.writeVa c va bs).ctxs = s.ctxs :=
  s.writeVa_keeps (v := State.ctxs) (fun _ _ _ => rfl) c va bs

theorem State.curEvent_ctxs (s : State) (die typ ctx datum : Nat) (detail : Bytes) : (s.curEvent die typ ctx datum detail).ctxs = s.ctxs := by
  unfold State.curEvent
  dsimp only
  split_ifs <;> rfl

theorem State.dropLeases_ctxs (s : State) (c : Nat) (gone : List LeaseRange) : (s.dropLeases c gone).ctxs = s.ctxs := by
  refine foldl_preserves (v := State.ctxs) (fun s r _ => ?_) s
  split_ifs <;> rfl

theorem State.freeRegion_ctxs (s : State) (r : Nat) : (s.freeRegion r).ctxs = s.ctxs := by
  unfold State.freeRegion
  split
  · rfl
  next g _ =>
    extract_lets s1 s2 s3 s4 s5 s6
    have h1 : s1.ctxs = s.ctxs := by
      refine foldl_preserves (v := State.ctxs) (fun s t _ => ?_) s
      exact State.due_ctxs _ _
    have h6 : s6.ctxs = s5.ctxs := by
      refine foldl_preserves (v := State.ctxs) (fun s t _ => ?_) s5
      rfl
    exact (s6.dropLeases_ctxs _ _).trans (h6.trans h1)

theorem State.ctx_of_ctxs {s t : State} (h : t.ctxs = s.ctxs) (c : Nat) : t.ctx c = s.ctx c := by
  rw [State.ctx, State.ctx, h]

/-- A context that is ended is in the state ended (18 R368). -/
theorem State.endContext_st (s : State) (c die code : Nat) : ((s.endContext c die code none).ctx c).st = .ended := by
  unfold State.endContext
  dsimp -zeta only
  extract_lets away s1 ids s2 s3 s4 s5 s6
  have h2 : s2.ctxs = s1.ctxs := foldl_preserves (v := State.ctxs) (fun s r _ => s.freeRegion_ctxs r) s1
  have h3 : s3.ctxs = s2.ctxs := by
    refine foldl_preserves (v := State.ctxs) (fun s d _ => ?_) s2
    exact foldl_preserves (v := State.ctxs) (fun s e _ => s.due_ctxs _) _
  clear_value s3
  have h6 : s6.ctxs = s5.ctxs := by
    unfold s6
    split_ifs
    · exact foldl_preserves (v := State.ctxs) (fun s d _ => s.writeVa_ctxs _ _ _) s5
    · rfl
  have h5 : s5.ctxs = s3.ctxs := rfl
  rw [State.ctx_of_ctxs ((s6.curEvent_ctxs _ _ _ _ _).trans (h6.trans (h5.trans (h3.trans h2)))), State.modCtx_ctx_self]

/-! ### CREATE and DESTROY (18 R366) -/

/-- What a context holds on a die when it has been created. -/
def CtxDie.created (x : CtxDie) : CtxDie :=
  { x with status := 0, trape := List.replicate 32 0, sent := 0, recv := 0, phases := [], ncnt := [], msgNo := 0 }

/-- A die without the release groups of a context. -/
def Die.withoutGroups (c : Nat) (keep : SendEntry → Bool) (x : Die) : Die :=
  { x with
    relChans := x.relChans.filter (fun p => p.1 / 256 ≠ c)
    sends := x.sends.filter (fun e => e.ctx ≠ c || keep e)
    copies := x.copies.filter (fun p => p.ctx.toNat ≠ c)
    recvs := x.recvs.filter (fun r => r.1.ctx.toNat ≠ c) }

theorem State.dropGroups_die (s : State) (c : Nat) (keep : SendEntry → Bool) {d : Nat} (hd : d < 8) :
    (s.dropGroups c keep).die d = (s.die d).withoutGroups c keep :=
  State.forDies_die (g := fun _ => Die.withoutGroups c keep) (fun s d => State.modDie_die s d _) s hd

theorem State.dropGroups_relChans (s : State) (c : Nat) (keep : SendEntry → Bool) {d : Nat} (hd : d < 8) :
    ∀ q ∈ ((s.dropGroups c keep).die d).relChans, q.1 / 256 ≠ c := by
  intro q hq
  rw [State.dropGroups_die _ _ _ hd] at hq
  simpa using (List.mem_filter.mp hq).2

theorem State.dropGroups_ctxDies (s : State) (c : Nat) (keep : SendEntry → Bool) : (s.dropGroups c keep).ctxDies = s.ctxDies := by
  refine foldl_preserves (v := State.ctxDies) (fun _ _ _ => ?_) s
  rfl
theorem State.dropGroups_ctxs (s : State) (c : Nat) (keep : SendEntry → Bool) : (s.dropGroups c keep).ctxs = s.ctxs := by
  refine foldl_preserves (v := State.ctxs) (fun _ _ _ => ?_) s
  rfl
theorem State.dropGroups_mem (s : State) (c : Nat) (keep : SendEntry → Bool) : (s.dropGroups c keep).mem = s.mem := by
  refine foldl_preserves (v := State.mem) (fun _ _ _ => ?_) s
  rfl

theorem State.createCtx_free {s : State} {k : Command} (h : (s.ctx (cmdCtx k)).st = .free) : ∃ v : State, s.createCtx k = v.done k 0
    ∧ (v.ctx (cmdCtx k)).st = .idle ∧ v.level (cmdCtx k) = 0 ∧ (v.ctx (cmdCtx k)).dies = (s.ctx (cmdCtx k)).dies ∧ v.mem = s.mem
    ∧ ∀ d < 8, v.cd (cmdCtx k) d = (s.cd (cmdCtx k) d).created ∧ ∀ q ∈ (v.die d).relChans, q.1 / 256 ≠ cmdCtx k := by
  unfold State.createCtx
  extract_lets c s1 s2
  rw [if_neg (by simpa using h)]
  have h1 : s1.ctxs = s.ctxs ∧ s1.mem = s.mem := by
    constructor
    · refine foldl_preserves (v := State.ctxs) (fun _ _ _ => ?_) s
      rfl
    · refine foldl_preserves (v := State.mem) (fun _ _ _ => ?_) s
      rfl
  have hcd (d : Nat) (hd : d < 8) : s1.cd c d = (s.cd c d).created :=
    State.forDies_cd (g := fun _ => CtxDie.created) (fun s d => State.modCd_cd s c d _) s hd
  clear_value s1
  refine ⟨_, rfl, ?_, ?_, ?_, ?_, fun d hd => ⟨?_, ?_⟩⟩
  · rw [State.modCtx_ctx_self]
  · rw [State.level, State.modCtx_ctx_self]
    show fieldOf (0#64) 0 2 = 0
    decide
  · rw [State.modCtx_ctx_self]
    show (s2.ctx c).dies = (s.ctx c).dies
    rw [State.ctx_of_ctxs ((s1.dropGroups_ctxs c _).trans h1.1)]
  · rw [State.modCtx_mem, State.dropGroups_mem, h1.2]
  · rw [← hcd d hd, State.modCtx_cd, State.cd, State.cd, State.dropGroups_ctxDies]
  · rw [State.modCtx_die]
    exact s1.dropGroups_relChans c _ hd

/-- The states in which a context can be destroyed. -/
def CtxState.destroyable (x : CtxState) : Prop := x = .idle ∨ x = .saved ∨ x = .ended

theorem State.destroyCtx_refused {s : State} {k : Command} (hidle : (s.ctx (cmdCtx k)).st ≠ .idle) (hsaved : (s.ctx (cmdCtx k)).st ≠ .saved)
    (hended : (s.ctx (cmdCtx k)).st ≠ .ended) : s.destroyCtx k = s.done k 3 := by
  unfold State.destroyCtx
  extract_lets c
  split
  · next h => exact absurd h hidle
  · next h => exact absurd h hsaved
  · next h => exact absurd h hended
  · rfl

/-- What stands outside tiles and dies: the contexts with what they hold on dies, and memory. -/
def State.offChip (s : State) : NMap CtxDie × NMap Ctx × Memory := (s.ctxDies, s.ctxs, s.mem)

theorem State.dropLines_offChip (s : State) (c : Nat) (ts : List TileId) (a n : Nat) : (s.dropLines c ts a n).offChip = s.offChip := by
  have hrange (s : State) (t : TileId) : (s.dropRange t a n).offChip = s.offChip := by
    refine foldl_preserves (v := State.offChip) (fun _ _ _ => ?_) s
    rfl
  refine (foldl_preserves (v := State.offChip) (fun _ _ _ => ?_) _).trans
    (foldl_preserves (v := State.offChip) (fun s t _ => hrange s t) s)
  rfl

/-- A command that drains pages is listed, and the arrival of its drain tokens is due (09 R197). -/
theorem State.drainPages_waits (s : State) (k : Command) (ps : List (Nat × PageMap)) : ∃ op,
    .drainTokenArrival op ∈ (s.drainPages k ps).agenda ∧ (s.drainPages k ps).offChip = s.offChip
    ∧ ∃ o ∈ (s.drainPages k ps).drainOps, o.id = op ∧ o.cmd = some k := by
  refine ⟨s.nextId, List.mem_append_right _ (List.mem_singleton_self _), ?_, _, List.mem_append_right _ (List.mem_singleton_self _), rfl, rfl⟩
  exact foldl_preserves (v := State.offChip) (fun s q _ => s.dropLines_offChip _ _ _ _) s.fresh.2

/-- What is done for an operation without a firing once its drain tokens have arrived. -/
theorem State.drainArrived_cmd {s : State} {op : Nat} {o : DrainOp} {k : Command} (hfind : s.drainOps.find? (fun o => o.id = op) = some o)
    (hjob : o.job = none) (hcmd : o.cmd = some k) :
    s.drainArrived op = ({ s with drainOps := s.drainOps.filter (fun q => q.id ≠ op) } : State).cmdDrained k := by
  unfold State.drainArrived
  rw [hfind]
  simp only [hjob, hcmd]

/-- A die without what it holds of a context for translation and in its fabric cache. -/
def Die.forgets (c : Nat) (x : Die) : Die :=
  { x with tlb := x.tlb.filter (fun t => t.1 ≠ c), fcache := x.fcache.filter (fun f => f.1.1 ≠ c) }

/-- What a context holds on a die, and what the die holds of it, gone. -/
def State.forgetOn (s : State) (c d : Nat) : State := (s.modCd c d (fun _ => {})).modDie d (Die.forgets c)

theorem State.forgetOn_all (s : State) (c : Nat) {d : Nat} (hd : d < 8) :
    ((List.range 8).foldl (fun s d => s.forgetOn c d) s).cd c d = {}
      ∧ ∀ e ∈ (((List.range 8).foldl (fun s d => s.forgetOn c d) s).die d).tlb, e.1 ≠ c := by
  have hcd (s : State) (d e : Nat) : (s.forgetOn c d).cd c e = if e = d then {} else s.cd c e :=
    State.modCd_cd s c d (fun _ => {}) e
  have hdie (s : State) (d e : Nat) : (s.forgetOn c d).die e = if e = d then (s.die e).forgets c else s.die e :=
    State.modDie_die (s.modCd c d _) d _ e
  refine ⟨State.forDies_cd (g := fun _ _ => {}) hcd s hd, fun e he => ?_⟩
  rw [State.forDies_die (g := fun _ => Die.forgets c) hdie s hd] at he
  simpa using (List.mem_filter.mp he).2

/-- The state of a destroyable context that is destroyed, its tables apart. -/
def State.dropAll (s : State) (c : Nat) : State :=
  (((List.range 8).foldl (fun s d => s.writeVa c (s.saveBase c d + 6) [0]) s).dropCtx c).dropGroups c (fun e => e.st = .aborted && !e.answered)

theorem State.destroyNow_free {s : State} {k : Command} (h : (s.ctx (cmdCtx k)).st.destroyable) : s.destroyNow k
    = (((List.range 8).foldl (fun s d => s.forgetOn (cmdCtx k) d) (s.dropAll (cmdCtx k))).modCtx (cmdCtx k)
        (fun x => { dies := x.dies, st := .free })).done k 0 := by
  unfold State.destroyNow
  dsimp only
  rcases h with h | h | h <;> rw [h] <;> rfl

theorem State.destroyCtx_waits {s : State} {k : Command} (h : (s.ctx (cmdCtx k)).st.destroyable) : ∃ ps, s.destroyCtx k = s.drainPages k ps := by
  unfold State.destroyCtx
  dsimp only
  rcases h with h | h | h <;> rw [h] <;> exact ⟨_, rfl⟩

/-! ### RESIDENT and EVICT (18 R365) -/

/-- Whether the arguments of RESIDENT and EVICT name a die of this package. -/
def Names (s : State) (k : Command) (d : Nat) : Prop :=
  d < 8 ∧ bitN (numAt k.args 4 1) d = true ∧ numAt k.args 0 2 ≤ s.pkg ∧ s.pkg < numAt k.args 0 2 + numAt k.args 2 2

/-- Whether those arguments are out of range. -/
def WrongDies (k : Command) : Prop := numAt k.args 2 2 = 0 ∨ 1024 < numAt k.args 0 2 + numAt k.args 2 2 ∨ numAt k.args 4 1 = 0

theorem residentDies_wrong {s : State} {k : Command} (h : WrongDies k) : residentDies s k = none := by
  unfold residentDies
  rcases h with h | h | h <;> simp [Args.num, h]

theorem State.makeResident_wrong {s : State} {k : Command} (h : WrongDies k) : s.makeResident k = s.done k 2 := by
  rw [State.makeResident, residentDies_wrong h]

theorem State.evict_wrong {s : State} {k : Command} (h : WrongDies k) : s.evict k = s.done k 2 := by
  rw [State.evict, residentDies_wrong h]

theorem residentDies_names {s : State} {k : Command} (h : ¬ WrongDies k) : ∃ ds, residentDies s k = some ds ∧ ∀ d, d ∈ ds ↔ Names s k d := by
  unfold WrongDies at h
  unfold residentDies Names
  dsimp only [Args.num]
  rw [if_neg (by simp; omega)]
  split_ifs with hpkg
  · obtain ⟨hlo, hhi⟩ : numAt k.args 0 2 ≤ s.pkg ∧ s.pkg < numAt k.args 0 2 + numAt k.args 2 2 := by simpa using hpkg
    exact ⟨_, rfl, fun d => by simp [hlo, hhi]⟩
  · have hout : ¬ (numAt k.args 0 2 ≤ s.pkg ∧ s.pkg < numAt k.args 0 2 + numAt k.args 2 2) := by simpa using hpkg
    exact ⟨_, rfl, fun d => ⟨fun h => absurd h List.not_mem_nil, fun h => absurd h.2.2 hout⟩⟩

section
variable {s : State} {k : Command} {ds : List Nat} (hds : residentDies s k = some ds)
include hds

theorem State.makeResident_full (h : ∃ d ∈ ds, d ∉ (s.ctx (cmdCtx k)).dies ∧ 512 ≤ s.residents d) : s.makeResident k = s.done k 5 := by
  obtain ⟨d, hd, hnew, hfull⟩ := h
  unfold State.makeResident
  rw [hds]
  refine if_pos (List.any_eq_true.mpr ⟨d, List.mem_filter.mpr ⟨hd, ?_⟩, ?_⟩)
  · simpa using hnew
  · simpa using hfull

theorem State.makeResident_adds (h : ∀ d ∈ ds, d ∉ (s.ctx (cmdCtx k)).dies → s.residents d < 512) : ∃ v : State,
    s.makeResident k = v.done k 0 ∧ (v.ctx (cmdCtx k)).st = (s.ctx (cmdCtx k)).st
    ∧ (∀ d < 8, d ∈ (v.ctx (cmdCtx k)).dies ↔ d ∈ (s.ctx (cmdCtx k)).dies ∨ d ∈ ds)
    ∧ ∀ d ∈ ds, d ∉ (s.ctx (cmdCtx k)).dies → .queueDecision d ∈ v.agenda := by
  unfold State.makeResident
  rw [hds]
  dsimp -zeta only
  extract_lets c new s1
  rw [if_neg (by simpa [new] using h)]
  have hctx : (new.foldl (fun s d => s.due (.queueDecision d)) s1).ctx c = s1.ctx c :=
    State.ctx_of_ctxs (foldl_preserves (v := State.ctxs) (fun s d _ => s.due_ctxs _) s1) c
  refine ⟨_, rfl, ?_, fun d hd => ?_, fun d hd hnew => ?_⟩
  · rw [hctx, State.modCtx_ctx_self]
  · rw [hctx, State.modCtx_ctx_self]
    simp only [List.mem_filter, List.mem_range, hd, true_and, Bool.or_eq_true, new, Bool.not_eq_true',
      List.contains_eq_mem, decide_eq_false_iff_not, decide_eq_true_eq]
    tauto
  · refine foldl_establishes (P := fun d s => .queueDecision d ∈ s.agenda) (fun s d => s.mem_due _) (fun s d e he => ?_) new s1 d ?_
    · exact State.agenda_subset_due s _ he
    · exact List.mem_filter.mpr ⟨hd, by simpa [c] using hnew⟩

theorem State.evict_used (h : ∃ d ∈ ds, ∃ q ∈ s.regions, q.2.launch.ctx = cmdCtx k ∧ d ∈ q.2.launch.dies) : s.evict k = s.done k 3 := by
  unfold State.evict
  rw [hds]
  refine if_pos ?_
  obtain ⟨d, hd, q, hq, hc, hdie⟩ := h
  exact List.any_eq_true.mpr ⟨d, hd, List.any_eq_true.mpr ⟨q, hq, by simp [hc, hdie]⟩⟩

theorem State.evict_removes (h : ¬ ∃ d ∈ ds, ∃ q ∈ s.regions, q.2.launch.ctx = cmdCtx k ∧ d ∈ q.2.launch.dies) : s.evict k
    = (s.modCtx (cmdCtx k) (fun x => { x with dies := x.dies.filter (fun d => !ds.contains d) })).done k 0 := by
  unfold State.evict
  rw [hds]
  refine if_neg fun hon => h ?_
  obtain ⟨d, hd, hany⟩ := List.any_eq_true.mp hon
  obtain ⟨q, hq, hon⟩ := List.any_eq_true.mp hany
  exact ⟨d, hd, q, hq, by simpa using hon⟩

end

/-! ### MODE (17 R346) -/

theorem State.newInterval_ctxs (s : State) (c : Nat) : (s.newInterval c).ctxs = s.ctxs := by
  refine foldl_preserves (v := State.ctxs) (fun _ _ _ => ?_) s
  rfl

theorem State.newInterval_cd (s : State) (c : Nat) {d : Nat} (hd : d < 8) : (s.newInterval c).cd c d = (s.cd c d).newInterval :=
  State.forDies_cd (g := fun _ => CtxDie.newInterval) (fun s d => State.modCd_cd s c d _) s hd

/-- A ring at its start, as MODE leaves it. -/
def CtxDie.ringAnew (now : Nat) (x : CtxDie) : CtxDie :=
  { x with ring := { x.ring with head := 0, tail := 0, commit := 0, redo := none, failed := none, marked := false, highPosted := false, lowPosted := false, since := now } }

def State.ringsAnew (s : State) (c : Nat) : State := (List.range 8).foldl (fun s d => s.modCd c d (CtxDie.ringAnew s.cycles)) s

theorem State.ringsAnew_ctxs (s : State) (c : Nat) : (s.ringsAnew c).ctxs = s.ctxs := by
  refine foldl_preserves (v := State.ctxs) (fun _ _ _ => ?_) s
  rfl

theorem State.ringsAnew_copies (s : State) (c d : Nat) : ((s.ringsAnew c).cd c d).copies = (s.cd c d).copies := by
  refine foldl_preserves (v := fun s => (State.cd s c d).copies) (fun s e _ => ?_) s
  refine State.modCd_field (v := CtxDie.copies) ?_ s c e c d
  exact fun _ => rfl

/-- A ring that holds no record. -/
def Ring.isEmpty (r : Ring) : Prop := r.head = 0 ∧ r.tail = 0 ∧ r.commit = 0

theorem State.ringsAnew_ring (s : State) (c : Nat) {d : Nat} (hd : d < 8) : ((s.ringsAnew c).cd c d).ring.isEmpty := by
  have hself (s : State) (d : Nat) : ((s.modCd c d (CtxDie.ringAnew s.cycles)).cd c d).ring.isEmpty := by
    rw [State.modCd_cd_self]
    exact ⟨rfl, rfl, rfl⟩
  refine foldl_establishes (P := fun d s => (State.cd s c d).ring.isEmpty) hself (fun s e d hd => ?_) (List.range 8) s d
    (List.mem_range.mpr hd)
  by_cases h : d = e
  · exact h ▸ hself s d
  · rwa [State.modCd_cd, if_neg h]

theorem State.setMode_changes {s : State} {k : Command} (hlv : ¬ numAt k.args 0 1 > 3) (hst : (s.ctx (cmdCtx k)).st ≠ .free)
    (hbusy : s.busy (cmdCtx k) = false) (hne : s.level (cmdCtx k) ≠ numAt k.args 0 1) : ∃ v : State, s.setMode k = v.done k 0
      ∧ v.level (cmdCtx k) = numAt k.args 0 1 ∧ (v.ctx (cmdCtx k)).st = (s.ctx (cmdCtx k)).st ∧ (v.ctx (cmdCtx k)).interval = 0
      ∧ (1 ≤ numAt k.args 0 1 → (NMap.find v.snaps (cmdCtx k)).isSome = true)
      ∧ ∀ d < 8, (v.cd (cmdCtx k) d).copies = [] ∧ (v.cd (cmdCtx k) d).ring.head = 0 ∧ (v.cd (cmdCtx k) d).ring.tail = 0
        ∧ (v.cd (cmdCtx k) d).ring.commit = 0 := by
  unfold State.setMode
  extract_lets c lv s1 s2 s3 s4
  have hlv' : ¬ lv > 3 := hlv
  have hne' : s.level c ≠ lv := hne
  rw [if_neg hlv', if_neg (by simp [c, hst, hbusy]), if_neg hne']
  have h1 : s1 = (s.newInterval c).ringsAnew c := rfl
  have hctxs : s1.ctxs = s.ctxs := by rw [h1, State.ringsAnew_ctxs, State.newInterval_ctxs]
  have hcopies (d : Nat) (hd : d < 8) : (s1.cd c d).copies = [] := by
    rw [h1, State.ringsAnew_copies, State.newInterval_cd s c hd]
    rfl
  have hring (d : Nat) (hd : d < 8) : (s1.cd c d).ring.isEmpty := by
    rw [h1]
    exact State.ringsAnew_ring _ c hd
  clear_value s1
  have h4 {α : Type} {v : State → α} (hv : ∀ s e, v (State.due s e) = v s) : v s4 = v s3 := by
    unfold s4
    split_ifs
    · exact foldl_preserves (v := v) (fun s d _ => hv s _) s3
    · rfl
  have hctx : s4.ctx c = s2.ctx c := State.ctx_of_ctxs (h4 (v := State.ctxs) State.due_ctxs) c
  have hcd (d : Nat) : s4.cd c d = s1.cd c d := h4 (v := fun s => s.cd c d) (fun s e => s.due_cd e c d)
  have hmode : s2.ctx c = _ := State.modCtx_ctx_self s1 c _
  refine ⟨_, rfl, ?_, ?_, ?_, fun hpos => ?_, fun d hd => ?_⟩
  · rw [State.level, hctx, hmode]
    show fieldOf (BitVec.ofNat 64 lv) 0 2 = lv
    rw [fieldOf, bitsN, BitVec.toNat_ofNat]
    omega
  · rw [hctx, hmode]
    show (s1.ctx c).st = (s.ctx c).st
    rw [State.ctx_of_ctxs hctxs]
  · rw [hctx, hmode]
  · rw [h4 (v := State.snaps) State.due_snaps]
    show (NMap.find (if lv = 0 then _ else _) c).isSome = true
    rw [if_neg (show lv ≠ 0 from Nat.one_le_iff_ne_zero.mp hpos), NMap.find_put_self]
    rfl
  · rw [hcd]
    exact ⟨hcopies d hd, hring d hd⟩

/-! ### RESUME and KILL (18 R366) -/

/-- The pending traps of a context, each with its die. -/
def State.pendingOf (s : State) (c : Nat) : List (Nat × Nat × Pending) :=
  (List.range 8).flatMap (fun d => (s.cd c d).pending.map (fun p => (d, p)))

theorem State.resume_halted {s : State} {k : Command} (h : (s.ctx (cmdCtx k)).st = .halted) : s.resume k
    = (((s.pendingOf (cmdCtx k)).foldl (fun s q => s.dropTrap (cmdCtx k) q.1 q.2.1 q.2.2 none) s).goOn (cmdCtx k)).done k 0 :=
  if_neg (not_not_intro h)

/-- Lists of which all but one are empty, joined. -/
theorem flatMap_eq_of_mem {κ α : Type} {l : List κ} (hl : l.Nodup) {f : κ → List α} {d : κ} (hd : d ∈ l) (hne : ∀ e ∈ l, e ≠ d → f e = []) :
    l.flatMap f = f d := by
  induction l with
  | nil => exact absurd hd List.not_mem_nil
  | cons k l ih =>
    obtain ⟨hk, hl⟩ := List.nodup_cons.mp hl
    rw [List.flatMap_cons]
    rcases List.mem_cons.mp hd with rfl | hd
    · have hrest : l.flatMap f = [] :=
        List.flatMap_eq_nil_iff.mpr fun e he => hne e (List.mem_cons_of_mem _ he) fun h => hk (h ▸ he)
      rw [hrest, List.append_nil]
    · rw [hne k List.mem_cons_self fun h => hk (h ▸ hd), ih hl hd fun e he => hne e (List.mem_cons_of_mem _ he), List.nil_append]

theorem State.pendingOf_nil {s : State} {c : Nat} (h : ∀ d < 8, (s.cd c d).pending = []) : s.pendingOf c = [] :=
  List.flatMap_eq_nil_iff.mpr fun d hd => by rw [h d (List.mem_range.mp hd), List.map_nil]

theorem State.pendingOf_one {s : State} {c d n : Nat} {p : Pending} (hd : d < 8) (h : (s.cd c d).pending = [(n, p)])
    (hne : ∀ e < 8, e ≠ d → (s.cd c e).pending = []) : s.pendingOf c = [(d, n, p)] := by
  rw [State.pendingOf, flatMap_eq_of_mem List.nodup_range (List.mem_range.mpr hd) fun e he hed => ?_, h]
  · rfl
  · rw [hne e (List.mem_range.mp he) hed, List.map_nil]

/-- A trap that holds no access back is dropped without a delivery: its entry is free and counts as received. -/
theorem State.dropTrap_discards {p : Pending} (h : ¬ (p.sync = true ∧ p.index = 10)) (s : State) (c d n : Nat) :
    s.dropTrap c d n p none = s.freePending c d n := by
  cases hsync : p.sync with
  | false => exact State.dropTrap_async hsync
  | true => exact State.dropTrap_nores fun hindex => h ⟨hsync, hindex⟩

theorem State.freePending_one {s : State} {c d n : Nat} {p : Pending} (h : (s.cd c d).pending = [(n, p)]) :
    ((s.freePending c d n).cd c d).pending = [] ∧ ((s.freePending c d n).cd c d).recv = (s.cd c d).recv + 1 := by
  rw [State.freePending, State.modCd_cd_self, h]
  exact ⟨by simp [NMap.del], rfl⟩

theorem State.kill_free {s : State} {k : Command} (h : (s.ctx (cmdCtx k)).st = .free) : s.kill k = s.done k 3 := by
  unfold State.kill
  dsimp only
  rw [h]

theorem State.kill_ended {s : State} {k : Command} (h : (s.ctx (cmdCtx k)).st = .ended) : s.kill k = s.done k 0 := by
  unfold State.kill
  dsimp only
  rw [h]

section
variable {s : State} {k : Command} (hfree : (s.ctx (cmdCtx k)).st ≠ .free) (hended : (s.ctx (cmdCtx k)).st ≠ .ended)
include hfree hended

theorem State.kill_live : s.kill k = (let s := s.endOrHold (cmdCtx k) k.die (numAt k.args 0 4) none
    if (s.ctx (cmdCtx k)).st = .ended then s.done k 0 else s.post (.cmdKill k)) := by
  unfold State.kill
  extract_lets c
  split
  · next h => exact absurd h hfree
  · next h => exact absurd h hended
  · rfl

theorem State.kill_ends (htrap : s.trapNow (cmdCtx k) = none) : s.kill k = (s.endContext (cmdCtx k) k.die (numAt k.args 0 4) none).done k 0 := by
  rw [State.kill_live hfree hended, State.endOrHold_of_none htrap]
  exact if_pos (s.endContext_st _ _ _)

theorem State.kill_held {h : TileId} (htrap : s.trapNow (cmdCtx k) = some h) (hrun : 0 < s.handlersOn h)
    (hheld : (s.ctx (cmdCtx k)).heldEnd = none) : s.kill k = (s.modCtx (cmdCtx k) (fun x =>
      { x with heldEnd := some ⟨h, s.handlersOn h, k.die, numAt k.args 0 4, none⟩ })).post (.cmdKill k) := by
  have hhold : s.endOrHold (cmdCtx k) k.die (numAt k.args 0 4) none = s.modCtx (cmdCtx k) (fun x =>
      { x with heldEnd := some ⟨h, s.handlersOn h, k.die, numAt k.args 0 4, none⟩ }) := by
    simp only [State.endOrHold, htrap, hheld, Option.isSome_none, Bool.false_eq_true, if_false]
    exact if_neg hrun.ne'
  rw [State.kill_live hfree hended, hhold]
  refine if_neg ?_
  rw [State.modCtx_ctx_self]
  exact hended

end

/-! ### TRAPW (18 R370) -/

theorem leNat_append (a b : Bytes) : leNat (a ++ b) = leNat a + 2 ^ (8 * a.length) * leNat b := by
  induction a with
  | nil => simp [leNat]
  | cons x a ih =>
    have hpow : 2 ^ (8 * (a.length + 1)) = 256 * 2 ^ (8 * a.length) := by rw [Nat.mul_add, Nat.pow_add, Nat.mul_comm]
    rw [List.cons_append, leNat, leNat, ih, List.length_cons, hpow]
    ring

/-- A number in a run of bytes by its lower and upper bytes. -/
theorem numAt_add (bs : Bytes) (o m n : Nat) : numAt bs o (m + n) = numAt bs o m + 2 ^ (8 * m) * numAt bs (o + m) n := by
  rw [numAt, numAt, numAt, List.take_add, leNat_append, List.drop_drop]
  by_cases hlen : m ≤ (bs.drop o).length
  · rw [List.length_take, min_eq_left hlen]
  · have hend : bs.drop (o + m) = [] := by
      rw [List.drop_eq_nil_iff]
      rw [List.length_drop] at hlen
      omega
    simp [hend, leNat]

/-- The trap entry that TRAPW leaves in the place of another (18 R370): the generation is one more, the rest is the argument's. -/
def trapEntryOf (v : Nat) (old : BitVec 64) : BitVec 64 :=
  withField (withField (BitVec.ofNat 64 (v * 2 ^ 16)) 48 14 0) 0 16 (teGen old + 1)

theorem trapEntryOf_gen (v : Nat) (old : BitVec 64) : fieldOf (trapEntryOf v old) 0 16 = (fieldOf old 0 16 + 1) % 2 ^ 16 :=
  fieldOf_withField_self _ _ (by decide)

theorem trapEntryOf_handler (bs : Bytes) (old : BitVec 64) : fieldOf (trapEntryOf (numAt bs 8 6) old) 16 32 = numAt bs 8 4 := by
  rw [trapEntryOf, fieldOf_withField_ne _ _ (by decide) (by decide), fieldOf_withField_ne _ _ (by decide) (by decide), fieldOf, bitsN,
    BitVec.toNat_ofNat, numAt_add bs 8 4 2]
  have hlo := numAt_lt bs 8 4
  have hhi := numAt_lt bs 12 2
  omega

theorem trapEntryOf_flags (bs : Bytes) (old : BitVec 64) : fieldOf (trapEntryOf (numAt bs 8 6) old) 62 2 = numAt bs 13 1 / 64 := by
  rw [trapEntryOf, fieldOf_withField_ne _ _ (by decide) (by decide), fieldOf_withField_ne _ _ (by decide) (by decide), fieldOf, bitsN,
    BitVec.toNat_ofNat, numAt_add bs 8 5 1]
  have hlo := numAt_lt bs 8 5
  have hhi := numAt_lt bs (8 + 5) 1
  show _ = numAt bs (8 + 5) 1 / 64
  omega

/-- What a context holds on a die with one trap entry replaced. -/
def CtxDie.trapSet (i v : Nat) (x : CtxDie) : CtxDie := { x with trape := setAt x.trape i (trapEntryOf v (x.trape.getD i 0)) }

theorem State.trapWrite_writes {s : State} {k : Command} (hi : numAt k.args 0 1 < 32) : ∃ v : State, s.trapWrite k = v.done k 0 ∧ v.mem = s.mem
    ∧ ∀ d < 8, v.cd (cmdCtx k) d = (s.cd (cmdCtx k) d).trapSet (numAt k.args 0 1) (numAt k.args 8 6) := by
  refine ⟨_, if_neg (not_le.mpr hi), ?_, fun d hd => ?_⟩
  · refine foldl_preserves (v := State.mem) (fun _ _ _ => ?_) s
    rfl
  · exact State.forDies_cd (g := fun _ => CtxDie.trapSet (numAt k.args 0 1) (numAt k.args 8 6)) (fun s d => State.modCd_cd s _ d _) s hd

/-! ### PREEMPT and RESTORE (18 R379, R382) -/

theorem State.writeVa_saves (s : State) (c va : Nat) (bs : Bytes) : (s.writeVa c va bs).saves = s.saves :=
  s.writeVa_keeps (v := State.saves) (fun _ _ _ => rfl) c va bs

section
variable {s : State} {k : Command} (h : (s.ctx (cmdCtx k)).st = .running ∨ (s.ctx (cmdCtx k)).st = .halted)
include h

theorem State.preempt_unfit (hfit : ∃ d ∈ s.chipDies (cmdCtx k), s.saveFits (cmdCtx k) d = false) : s.preempt k = s.done k 5 := by
  obtain ⟨d, hd, hfit⟩ := hfit
  unfold State.preempt
  extract_lets c st s1
  rw [if_neg (by rcases h with h | h <;> simp [st, c, h])]
  exact if_pos (List.any_eq_true.mpr ⟨d, hd, by simp [c, hfit]⟩)

theorem State.preempt_fits (hfit : ∀ d ∈ s.chipDies (cmdCtx k), s.saveFits (cmdCtx k) d = true) : s.preempt k
    = ({ s.modCtx (cmdCtx k) (fun x => { x with st := .preempting }) with
        saves := NMap.put s.saves (cmdCtx k) { cstate := (s.ctx (cmdCtx k)).st } } : State).post (.preemptSaveComplete (cmdCtx k)) := by
  unfold State.preempt
  extract_lets c st s1
  rw [if_neg (by rcases h with h | h <;> simp [st, c, h]), if_neg ?_]
  · rfl
  · rw [List.any_eq_true]
    rintro ⟨d, hd, hno⟩
    simp [c, hfit d hd] at hno

end

theorem State.restore_refused {s : State} {k : Command} (h : (s.ctx (cmdCtx k)).st ≠ .saved) : s.restore k = s.done k 3 := by
  unfold State.restore
  dsimp only
  split
  · next hst _ => exact absurd hst h
  · rfl

section
variable {s : State} {k : Command} {v : Save} (h : (s.ctx (cmdCtx k)).st = .saved) (hv : NMap.find s.saves (cmdCtx k) = some v)
include h hv

theorem State.restore_saved : s.restore k = if v.dies.all (fun d => s.saveOk (cmdCtx k) d v)
    then (v.dies.foldl (fun s d => s.writeVa (cmdCtx k) (s.saveBase (cmdCtx k) d + 6) [3]) s).post (.restoreProceed (cmdCtx k))
    else s.done k 2 := by
  unfold State.restore
  dsimp only
  rw [h, hv]

theorem State.restore_sound (hok : ∀ d ∈ v.dies, s.saveOk (cmdCtx k) d v = true) : ∃ t, s.restore k = t
    ∧ .restoreProceed (cmdCtx k) ∈ t.agenda ∧ (t.ctx (cmdCtx k)).st = .saved ∧ NMap.find t.saves (cmdCtx k) = some v := by
  refine ⟨_, (s.restore_saved h hv).trans (if_pos (List.all_eq_true.mpr hok)), List.mem_append_right _ (List.mem_singleton_self _), ?_, ?_⟩
  · rw [State.post_ctx, State.ctx_of_ctxs (foldl_preserves (v := State.ctxs) (fun s d _ => s.writeVa_ctxs _ _ _) s), h]
  · rw [State.post_saves, foldl_preserves (v := State.saves) (fun s d _ => s.writeVa_saves _ _ _) s, hv]

theorem State.restore_unsound (hbad : ∃ d ∈ v.dies, s.saveOk (cmdCtx k) d v = false) : s.restore k = s.done k 2 := by
  obtain ⟨d, hd, hbad⟩ := hbad
  exact (s.restore_saved h hv).trans (if_neg fun hall => by simp [List.all_eq_true.mp hall d hd] at hbad)

end

end Sys2Proof.Machine

open Sys2Proof Sys2Proof.Machine

/-- Settles O58: a lemma for each way in which a command ends, and for a command that goes on in a step of its own. -/
theorem contextCommandResults : Obligations.ContextCommandResults := by
  unfold Obligations.ContextCommandResults
  intro s k c num st ends
  refine ⟨?finish, ?create, ?destroy, ?drained, ⟨?resident, ?evict⟩, ?mode, ?resume, ?kill, ?trapw, ?preempt, ?restore, ?ctxinfo⟩
  case finish =>
    intro status res t r quiet at_ bs hlast
    have ht : t = (s.complete k status res).modRings k.die (fun x => { x with busy := none }) := State.finish_last hlast status res
    have hkept : t.mem = s.mem ∧ t.agenda = s.agenda := by
      rw [ht]
      unfold State.complete
      dsimp only
      split_ifs <;> exact ⟨rfl, rfl⟩
    refine ⟨hkept.1, hkept.2, fun hquiet => ?_, fun hloud hopen => ?_, fun hloud hclosed => ?_⟩
    · rw [ht, State.complete_quiet hquiet]
      exact ⟨State.modRings_rings_self _ _ _, rfl⟩
    · rw [ht, State.complete_open hloud hopen]
      exact ⟨State.modRings_rings_self _ _ _, stored_setN _ _ _⟩
    · rw [ht, State.complete_closed hloud hclosed, State.modRings_rings_self, State.modRings_rings_self]
      exact ⟨rfl, rfl⟩
  case create =>
    intro hev
    have hexec : exec .cmdCreate s = .next (s.createCtx k) := by
      show execCmdCreate s = _
      rw [execCmdCreate, hev]
    refine ⟨fun hst => hexec.trans (congrArg _ (if_pos hst)), fun hst => ?_⟩
    obtain ⟨v, hv, hidle, hlevel, hdies, hmem, hcd⟩ := State.createCtx_free hst
    refine ⟨v, hexec.trans (congrArg _ hv), hidle, hlevel, hdies, hmem, fun d hd => ?_⟩
    obtain ⟨hcd, hchans⟩ := hcd d hd
    rw [hcd]
    exact ⟨rfl, rfl, rfl, rfl, rfl, rfl, hchans⟩
  case destroy =>
    intro hev
    have hexec : exec .cmdDestroy s = .next (s.destroyCtx k) := by
      show execCmdDestroy s = _
      rw [execCmdDestroy, hev]
    refine ⟨fun hidle hsaved hended => hexec.trans (congrArg _ (State.destroyCtx_refused hidle hsaved hended)), fun hst => ?_⟩
    obtain ⟨ps, hps⟩ := State.destroyCtx_waits hst
    obtain ⟨op, hev, hoff, hop⟩ := s.drainPages_waits k ps
    simp only [State.offChip, Prod.mk.injEq] at hoff
    obtain ⟨hcds, hctxs, hmem⟩ := hoff
    exact ⟨_, op, hexec.trans (congrArg _ hps), hev, hcds, congrArg Ctx.st (State.ctx_of_ctxs hctxs c), hmem, hop⟩
  case drained =>
    intro op o hev hfind hjob hcmd hop hst
    have hexec : exec .drainTokenArrival s = .next (s.drainArrived op) := by
      show execDrainTokenArrival s = _
      rw [execDrainTokenArrival, hev]
    have hdone : s.drainArrived op = ({ s with drainOps := s.drainOps.filter (fun q => q.id ≠ op) } : State).destroyNow k := by
      rw [State.drainArrived_cmd hfind hjob hcmd, State.cmdDrained, hop]
      rfl
    refine ⟨_, hexec.trans (congrArg _ (hdone.trans (State.destroyNow_free hst))), ?_, fun d hd => ?_⟩
    · rw [State.modCtx_ctx_self]
    · rw [State.modCtx_cd, State.modCtx_die]
      exact State.forgetOn_all _ c hd
  case resident =>
    intro hev
    have hexec : exec .cmdResident s = .next (s.makeResident k) := by
      show execCmdResident s = _
      rw [execCmdResident, hev]
    refine ⟨fun hwrong => ?_, fun hright hfull => ?_, fun hright hroom => ?_⟩
    · exact hexec.trans (congrArg _ (State.makeResident_wrong hwrong))
    · obtain ⟨ds, hds, hnames⟩ := residentDies_names (s := s) hright
      obtain ⟨d, hd, hnew, hfull⟩ := hfull
      exact hexec.trans (congrArg _ (State.makeResident_full hds ⟨d, (hnames d).mpr hd, hnew, hfull⟩))
    · obtain ⟨ds, hds, hnames⟩ := residentDies_names (s := s) hright
      obtain ⟨v, hv, hst, hdies, hdue⟩ := State.makeResident_adds hds fun d hd => hroom d ((hnames d).mp hd)
      exact ⟨v, hexec.trans (congrArg _ hv), hst, fun d hd => (hdies d hd).trans (or_congr_right (hnames d)),
        fun d hd => hdue d ((hnames d).mpr hd)⟩
  case evict =>
    intro hev
    have hexec : exec .cmdEvict s = .next (s.evict k) := by
      show execCmdEvict s = _
      rw [execCmdEvict, hev]
    refine ⟨fun hwrong => ?_, fun hright hused => ?_, fun hright hunused => ?_⟩
    · exact hexec.trans (congrArg _ (State.evict_wrong hwrong))
    · obtain ⟨ds, hds, hnames⟩ := residentDies_names (s := s) hright
      obtain ⟨d, hd, hused⟩ := hused
      exact hexec.trans (congrArg _ (State.evict_used hds ⟨d, (hnames d).mpr hd, hused⟩))
    · obtain ⟨ds, hds, hnames⟩ := residentDies_names (s := s) hright
      refine ⟨_, hexec.trans (congrArg _ (State.evict_removes hds fun ⟨d, hd, hused⟩ => hunused ⟨d, (hnames d).mp hd, hused⟩)), ?_, fun d => ?_⟩
      · rw [State.modCtx_ctx_self]
      · rw [State.modCtx_ctx_self]
        rw [List.mem_filter, List.contains_eq_mem, Bool.not_eq_true', decide_eq_false_iff_not, hnames d]
        rfl
  case mode =>
    intro hev lv
    have hexec : exec .cmdMode s = .next (s.setMode k) := by
      show execCmdMode s = _
      rw [execCmdMode, hev]
    refine ⟨fun hlv => hexec.trans (congrArg _ (if_pos hlv)), fun hlv hbusy => ?_, fun hlv hst hbusy hsame => ?_, fun hlv hst hbusy hne => ?_⟩
    · refine hexec.trans (congrArg _ ((if_neg (not_lt.mpr hlv)).trans (if_pos ?_)))
      rw [Bool.or_eq_true, decide_eq_true_eq]
      exact hbusy
    · refine hexec.trans (congrArg _ ((if_neg (not_lt.mpr hlv)).trans ((if_neg ?_).trans (if_pos hsame))))
      simp [c, st, hst, hbusy]
    · obtain ⟨v, hv, hlevel, hstay, hint, hsnap, hcd⟩ := State.setMode_changes (not_lt.mpr hlv) hst hbusy hne
      exact ⟨v, hexec.trans (congrArg _ hv), hlevel, hstay, hint, hsnap, hcd⟩
  case resume =>
    refine fun hev => ?_
    have hexec : exec .cmdResume s = .next (s.resume k) := by
      show execCmdResume s = _
      rw [execCmdResume, hev]
    refine ⟨fun hst => hexec.trans (congrArg _ (if_pos hst)), fun hst hnone => ⟨?_, fun hbrk hready hlatch => ?_⟩,
      fun d n p hst hd hp hne hacc => ?_⟩
    · exact hexec.trans (congrArg _ ((State.resume_halted hst).trans (by rw [State.pendingOf_nil hnone]; rfl)))
    · exact State.goOn_running hst hlatch hbrk (List.any_eq_false.mpr fun fi hfi => by simp [hready fi hfi])
    · obtain ⟨hpending, hrecv⟩ := State.freePending_one hp
      refine ⟨s.freePending c d n, hexec.trans (congrArg _ ((State.resume_halted hst).trans ?_)), hpending, hrecv, rfl, rfl⟩
      rw [State.pendingOf_one hd hp hne, List.foldl_cons, List.foldl_nil, State.dropTrap_discards hacc]
  case kill =>
    intro hev
    have hexec : exec .cmdKill s = .next (s.kill k) := by
      show execCmdKill s = _
      rw [execCmdKill, hev]
    refine ⟨fun hst => ?_, fun hst => ?_, fun hfree hended htrap => ⟨_, ?_, rfl, s.endContext_st _ _ _⟩, fun h hfree hended htrap hrun hheld => ?_⟩
    · exact hexec.trans (congrArg _ (State.kill_free hst))
    · exact hexec.trans (congrArg _ (State.kill_ended hst))
    · exact hexec.trans (congrArg _ (State.kill_ends hfree hended htrap))
    · refine ⟨_, hexec.trans (congrArg _ (State.kill_held hfree hended htrap hrun hheld)), List.mem_append_right _ (List.mem_singleton_self _), ?_, ?_⟩
      · rw [State.post_ctx, State.modCtx_ctx_self]
      · rw [State.post_ctx, State.modCtx_ctx_self]
  case trapw =>
    intro hev i
    have hexec : exec .cmdTrapw s = .next (s.trapWrite k) := by
      show execCmdTrapw s = _
      rw [execCmdTrapw, hev]
    refine ⟨fun hi => hexec.trans (congrArg _ (if_pos hi)), fun hi => ?_⟩
    obtain ⟨v, hv, hmem, hcd⟩ := State.trapWrite_writes (s := s) hi
    refine ⟨v, hexec.trans (congrArg _ hv), hmem, fun d hd hlen => ?_⟩
    intro old new
    have htrape (j : Nat) : (v.cd c d).trape.getD j 0 = if i = j ∧ j < 32 then trapEntryOf (num 8 6) old else (s.cd c d).trape.getD j 0 := by
      rw [hcd d hd, ← hlen]
      exact getD_setAt _ _ _ _ _
    have hnew : new = trapEntryOf (num 8 6) old := (htrape i).trans (if_pos ⟨rfl, hi⟩)
    rw [hnew]
    exact ⟨trapEntryOf_gen _ _, trapEntryOf_handler _ _, trapEntryOf_flags _ _, fun j hj => (htrape j).trans (if_neg fun h => hj h.1.symm)⟩
  case preempt =>
    intro hev
    have hexec : exec .cmdPreempt s = .next (s.preempt k) := by
      show execCmdPreempt s = _
      rw [execCmdPreempt, hev]
    refine ⟨fun hrun hhalt => hexec.trans (congrArg _ (if_pos ?_)), fun hst => ⟨_, hexec, fun hfit => State.preempt_unfit hst hfit, fun hfit => ?_⟩⟩
    · simp [c, st] at hrun hhalt ⊢
      exact ⟨hrun, hhalt⟩
    · rw [State.preempt_fits hst hfit]
      refine ⟨?_, List.mem_append_right _ (List.mem_singleton_self _), rfl, _, NMap.find_put_self _ _ _, rfl⟩
      show ((s.modCtx c (fun x => { x with st := .preempting })).ctx c).st = .preempting
      rw [State.modCtx_ctx_self]
  case restore =>
    intro hev
    have hexec : exec .cmdRestore s = .next (s.restore k) := by
      show execCmdRestore s = _
      rw [execCmdRestore, hev]
    refine ⟨fun hst => ?_, fun v hst hv => ⟨fun hbad => ?_, fun hok => ?_⟩⟩
    · exact hexec.trans (congrArg _ (State.restore_refused hst))
    · exact hexec.trans (congrArg _ (State.restore_unsound hst hv hbad))
    · obtain ⟨t, ht, hkeep⟩ := State.restore_sound hst hv hok
      exact ⟨t, hexec.trans (congrArg _ ht), hkeep⟩
  case ctxinfo =>
    intro hev
    have hexec : exec .cmdCtxinfo s = .next (s.ctxInfo k) := by
      show execCmdCtxinfo s = _
      rw [execCmdCtxinfo, hev]
    have hdie (h : num 0 2 < 8) : argDie k 0 = some (num 0 2) := if_pos h
    refine ⟨fun h => ?_, fun h hst => ?_, fun h hst => ?_⟩
    · have hnone : argDie k 0 = none := if_neg (not_lt.mpr h)
      exact hexec.trans (congrArg _ (by rw [State.ctxInfo, hnone]))
    · refine hexec.trans (congrArg _ ?_)
      rw [State.ctxInfo, hdie h]
      exact if_pos hst
    · have hinfo : ∃ res, s.ctxInfo k = s.finish k 0 res := by
        rw [State.ctxInfo, hdie h]
        exact ⟨_, if_neg hst⟩
      exact hinfo.imp fun res hres => hexec.trans (congrArg _ hres)

end

section
/-! PROOFS. A context saved, mailed to and restored (18 R379 to R382). -/

namespace Sys2Proof.Machine

/-! ### What finished commands leave -/

/-- What stands outside Curator's rings: tiles, contexts, what they hold on dies, saved contexts, memory and ready sets. -/
def State.content (s : State) : NMap Tile × NMap Ctx × NMap CtxDie × NMap Save × Memory × List Firing :=
  (s.tiles, s.ctxs, s.ctxDies, s.saves, s.mem, s.ready)

theorem State.complete_content (s : State) (k : Command) (status res : Nat) : (s.complete k status res).content = s.content := by
  unfold State.complete
  dsimp only
  split_ifs <;> rfl

theorem State.takeNext_content (s : State) (d n : Nat) : (s.takeNext d n).content = s.content := by
  induction n generalizing s with
  | zero => rfl
  | succ n ih =>
    unfold State.takeNext
    dsimp only
    split
    · rfl
    · split
      · rfl
      · rw [ih, State.complete_content]
        rfl

theorem State.done_content (s : State) (k : Command) (status : Nat) : (s.done k status).content = s.content :=
  (State.takeNext_content _ _ _).trans (s.complete_content k status 0)

theorem State.lateKills_content (s : State) (c : Nat) : (s.lateKills c).content = s.content :=
  foldl_preserves (v := State.content) (fun s q _ => s.done_content q 3) _

/-! ### Save (18 R379) -/

theorem State.writeSave_keeps {α : Type} {v : State → α} (hv : ∀ (s : State) m cds, v { s with mem := m, ctxDies := cds } = v s)
    (s : State) (c d : Nat) (st : CtxState) : v (s.writeSave c d st) = v s :=
  (State.writeVa_keeps hv _ _ _ _).trans (State.writeVa_keeps hv _ _ _ _)

/-- A save of a drained context, the end of the command apart that asked for it. -/
theorem State.saveStep_saves {s : State} {c : Nat} {v : Save} (hv : NMap.find s.saves c = some v) : ∃ w : State,
    (s.busyWith c 0x0C = none → s.saveStep c = w) ∧ (∀ k, s.busyWith c 0x0C = some k → s.saveStep c = w.done k 0)
    ∧ (w.ctx c).st = .saved ∧ (∀ x ∈ s.ctxTiles c, (w.tile x).region = 0) ∧ NMap.find w.saves c = some { v with snap := s.chipState c } := by
  unfold State.saveStep
  rw [hv]
  dsimp -zeta only
  extract_lets snap who ts is s1 s2 s3 s4
  have h3 : s3 = s2.freeTiles ts := rfl
  have h4 : s4.content = (s3.modCtx c (fun x => { x with st := .saved, intv := [], brk := [] })).content := State.lateKills_content _ c
  simp only [State.content, Prod.mk.injEq] at h4
  obtain ⟨htiles, hctxs, -, hsaves, -, -⟩ := h4
  refine ⟨s4, fun hwho => ?_, fun k hwho => ?_, ?_, fun x hx => ?_, ?_⟩
  · rw [show who = none from hwho]
  · rw [show who = some k from hwho]
  · rw [State.ctx_of_ctxs hctxs, State.modCtx_ctx_self]
  · rw [State.tile, htiles]
    exact h3 ▸ s2.freeTiles_region ts x hx
  · have hfreed : (s2.freeTiles ts).saves = s2.saves := by
      refine foldl_preserves (v := State.saves) (fun s t _ => ?_) s2
      exact State.due_saves _ _
    rw [hsaves, State.modCtx_saves, h3, hfreed]
    exact NMap.find_put_self _ _ _

/-! ### The mailbox (18 R381) -/

theorem State.mailStep_takes {s : State} {d : Nat} {p : Packet} {v : Save} {q : Reply} (hv : NMap.find s.saves p.ctx.toNat = some v)
    (hq : v.reply? d p = some q) : (s.mailStep d p).hostMem = s.hostMem
      ∧ NMap.find (s.mailStep d p).saves p.ctx.toNat = some { v with mail := v.mail ++ [(d, p)] } := by
  unfold State.mailStep
  dsimp only
  rw [hv]
  dsimp only
  rw [hq]
  refine ⟨?_, NMap.find_put_self _ _ _⟩
  refine (State.writeVa_keeps (v := State.hostMem) ?_ _ _ _ _).trans (State.writeVa_keeps (v := State.hostMem) ?_ _ _ _ _)
  · exact fun _ _ _ => rfl
  · exact fun _ _ _ => rfl

/-! ### Restore (18 R382) -/

/-- Tiles put back one after another. -/
def tilesBack (l m : NMap Tile) : NMap Tile := l.foldl (fun m p => NMap.put m p.1 (tileBack p.2 (NMap.getD m p.1 {}))) m

/-- A saved context's tiles and islands, ready sets and events put back. -/
def State.putBack (s : State) (c : Nat) (snap : Snapshot) : State :=
  snap.events.foldl (fun s e => s.due e) { s with
    saves := NMap.del s.saves c
    regions := s.regions.map (fun p => match NMap.find snap.regions p.1 with
      | some r => (p.1, { p.2 with tiles := r.tiles, islands := r.islands })
      | none => p)
    tiles := tilesBack snap.tiles s.tiles
    islands := snap.islands.foldl (fun m p => NMap.put m p.1 p.2) s.islands
    ready := s.ready ++ snap.ready }

/-- A context as it goes on in the state in which it was saved. -/
def State.asSaved (s : State) (c : Nat) (v : Save) : State :=
  s.modCtx c (fun x => { x with st := v.cstate, intv := v.snap.intv, brk := v.snap.brk })

/-- The end of a restore: the save areas are marked empty and the tiles looked through again. -/
def State.restoreEnds (s : State) (c : Nat) (v : Save) (ts : List TileId) : State :=
  ts.foldl (fun s t => s.wakeTile t) (v.dies.foldl (fun s d => s.writeVa c (s.saveBase c d + 6) [0]) s)

theorem State.restoreLatch_of_none {s : State} {t : TileId} (h : (s.tile t).latch = none) : s.restoreLatch t = s := by
  unfold State.restoreLatch
  dsimp only
  rw [h]
  exact State.retryLatch_of_none h

/-- A restore in which no latched token is to be placed, no mail to be taken and no reply slot to be tested again. -/
theorem State.restoreStep_quiet {s : State} {c : Nat} {v : Save} (hv : NMap.find s.saves c = some v) (hmail : v.mail = [])
    (hquiet : ∀ t ∈ v.snap.regions.flatMap (fun r => r.2.tiles), ((s.putBack c v.snap).tile t).latch = none
      ∧ ((s.putBack c v.snap).tile t).replies = []) :
    let w := (((s.putBack c v.snap).asSaved c v).startHang c).restoreEnds c v (v.snap.regions.flatMap (fun r => r.2.tiles))
    (w.busyWith c 0x0D = none → s.restoreStep c = w) ∧ (∀ k, w.busyWith c 0x0D = some k → s.restoreStep c = w.done k 0) := by
  intro w
  unfold State.restoreStep
  rw [hv]
  dsimp -zeta only
  extract_lets snap ts s1 s2 s3 s4 s5 s6 slots s7 s8 s9
  have h2 : s2 = s.putBack c v.snap := rfl
  have h3 : s3 = s2 := List.foldlRecOn (motive := (· = s2)) ts _ rfl fun u hu t ht =>
    hu.symm ▸ State.restoreLatch_of_none (h2 ▸ (hquiet t ht).1)
  have h5 : s5 = ((s.putBack c v.snap).asSaved c v).startHang c := by
    show (s3.asSaved c v).startHang c = _
    rw [h3, h2]
  have h6 : s6 = s5 := by
    unfold s6
    rw [hmail]
    rfl
  have hslots : slots = [] := by
    refine List.flatMap_eq_nil_iff.mpr fun t ht => ?_
    have htile : s6.tile t = (s.putBack c v.snap).tile t := by
      rw [h6, h5, State.startHang, State.due_tile]
      rfl
    rw [htile, (hquiet t ht).2, List.map_nil]
  have h7 : s7 = s5 := by
    unfold s7
    rw [hslots, h6]
    rfl
  have hw : s9 = w := by
    show s7.restoreEnds c v ts = _
    rw [h7, h5]
  constructor
  · intro hwho
    rw [hw, hwho]
  · intro k hwho
    rw [hw, hwho]

/-! ### What a restore brings back -/

/-- An event that comes due changes the agenda alone. -/
theorem State.due_keeps {α : Type} {v : State → α} (hv : ∀ (s : State) a, v { s with agenda := a } = v s) (s : State) (e : Event) :
    v (s.due e) = v s := by
  unfold State.due
  split_ifs
  · rfl
  · exact hv s _

theorem State.wakeTile_keeps {α : Type} {v : State → α} (hv : ∀ (s : State) a, v { s with agenda := a } = v s) (s : State) (t : TileId) :
    v (s.wakeTile t) = v s :=
  (State.due_keeps hv _ _).trans ((State.due_keeps hv _ _).trans ((State.due_keeps hv _ _).trans (State.due_keeps hv _ _)))

/-- What a restore leaves once tiles and ready sets are back: all but memory, page descriptors and the agenda. -/
def State.restored (s : State) : NMap Tile × NMap Ctx × NMap Die × List Firing := (s.tiles, s.ctxs, s.dies, s.ready)

theorem State.restoreEnds_restored (s : State) (c : Nat) (v : Save) (ts : List TileId) : (s.restoreEnds c v ts).restored = s.restored := by
  have hwake (s : State) (t : TileId) : (s.wakeTile t).restored = s.restored := State.wakeTile_keeps (v := State.restored) (fun _ _ => rfl) s t
  refine (foldl_preserves (v := State.restored) (fun s t _ => hwake s t) _).trans (foldl_preserves (v := State.restored) (fun s d _ => ?_) s)
  exact s.writeVa_keeps (v := State.restored) (fun _ _ _ => rfl) _ _ _

theorem State.putBack_restored (s : State) (c : Nat) (snap : Snapshot) : (s.putBack c snap).restored =
    (tilesBack snap.tiles s.tiles, s.ctxs, s.dies, s.ready ++ snap.ready) :=
  foldl_preserves (v := State.restored) (fun s e _ => State.due_keeps (v := State.restored) (fun _ _ => rfl) s e) _

section
variable (l : NMap Tile) (m : NMap Tile) (n : Nat)

theorem tilesBack_cases : NMap.getD (tilesBack l m) n {} = NMap.getD m n {} ∨ ∃ q ∈ l, ∃ now, NMap.getD (tilesBack l m) n {} = tileBack q.2 now := by
  refine List.foldlRecOn (motive := fun u => NMap.getD u n {} = NMap.getD m n {} ∨ ∃ q ∈ l, ∃ now, NMap.getD u n {} = tileBack q.2 now)
    l _ (.inl rfl) fun u hu q hq => ?_
  by_cases hn : n = q.1
  · subst hn
    exact .inr ⟨q, hq, _, NMap.getD_put_self _ _ _ _⟩
  · rwa [NMap.getD_put_ne _ _ _ hn]

variable {l n}

theorem tilesBack_unlisted (h : n ∉ l.map (·.1)) : NMap.getD (tilesBack l m) n {} = NMap.getD m n {} :=
  foldl_preserves (v := fun m : NMap Tile => NMap.getD m n {})
    (fun _ q hq => NMap.getD_put_ne _ _ _ fun hn => h (List.mem_map.mpr ⟨q, hq, hn.symm⟩)) m

theorem tilesBack_listed {y : Tile} (hl : (l.map (·.1)).Nodup) (h : (n, y) ∈ l) :
    NMap.getD (tilesBack l m) n {} = tileBack y (NMap.getD m n {}) := by
  induction l generalizing m with
  | nil => exact absurd h List.not_mem_nil
  | cons q l ih =>
    obtain ⟨hq, hl⟩ := List.nodup_cons.mp hl
    show NMap.getD (tilesBack l _) n {} = _
    rcases List.mem_cons.mp h with rfl | h
    · rw [tilesBack_unlisted _ hq, NMap.getD_put_self]
    · have hn : n ≠ q.1 := fun hn => hq (List.mem_map.mpr ⟨_, h, hn⟩)
      rw [ih _ hl h, NMap.getD_put_ne _ _ _ hn]

end

/-- A restore of a context whose tiles hold no latched token and no reply slot, the end of the command apart that asked for it. -/
theorem State.restoreStep_restores {s : State} {c : Nat} {v : Save} (hv : NMap.find s.saves c = some v) (hmail : v.mail = [])
    (hsaved : ∀ q ∈ v.snap.tiles, q.2.replies = [] ∧ q.2.latch = none)
    (hnow : ∀ g ∈ v.snap.regions, ∀ x ∈ g.2.tiles, (s.tile x).replies = [] ∧ (s.tile x).latch = none) : ∃ w : State,
      (s.busyWith c 0x0D = none → s.restoreStep c = w) ∧ (∀ k, s.busyWith c 0x0D = some k → s.restoreStep c = w.done k 0)
      ∧ (w.ctx c).st = v.cstate ∧ w.ready = s.ready ++ v.snap.ready ∧ w.tiles = tilesBack v.snap.tiles s.tiles := by
  have hback := s.putBack_restored c v.snap
  simp only [State.restored, Prod.mk.injEq] at hback
  obtain ⟨htiles, -, hdies, hready⟩ := hback
  obtain ⟨hnone, hsome⟩ := State.restoreStep_quiet hv hmail fun t ht => by
    obtain ⟨g, hg, ht⟩ := List.mem_flatMap.mp ht
    rw [State.tile, htiles]
    rcases tilesBack_cases v.snap.tiles s.tiles (tileKey t) with h | ⟨q, hq, now, h⟩
    · rw [h]
      exact (hnow g hg t ht).symm
    · rw [h]
      exact (hsaved q hq).symm
  have hends := State.restoreEnds_restored (((s.putBack c v.snap).asSaved c v).startHang c) c v (v.snap.regions.flatMap (fun r => r.2.tiles))
  simp only [State.restored, Prod.mk.injEq] at hends
  obtain ⟨hwtiles, hwctxs, hwdies, hwready⟩ := hends
  have hbusy (w : State) (hw : w.dies = s.dies) : w.busyWith c 0x0D = s.busyWith c 0x0D := by rw [State.busyWith, hw]; rfl
  have hwho := hbusy _ (hwdies.trans ((State.due_dies _ _).trans hdies))
  refine ⟨_, fun h => hnone (hwho.trans h), fun k h => hsome k (hwho.trans h), ?_, ?_, ?_⟩
  · rw [State.ctx_of_ctxs hwctxs, State.startHang, State.due_ctx, State.modCtx_ctx_self, State.asSaved, State.modCtx_ctx_self]
  · rw [hwready, State.startHang, State.due_ready]
    exact hready
  · rw [hwtiles, State.startHang, State.due_tiles]
    exact htiles

end Sys2Proof.Machine
end

section
/-! PROOFS. Hang intervals (19 R395), Curator's rings (20 R405 to R411) and the package's power (20 R413). -/

namespace Sys2Proof.Machine

/-! ### Hang intervals -/

theorem State.startHang_begins (s : State) (c : Nat) : ((s.startHang c).ctx c).hangSince = s.cycles
    ∧ ((s.startHang c).ctx c).hangMark = s.hangTotals c ∧ .hangIntervalExpiry c ∈ (s.startHang c).agenda ∧ (s.startHang c).mem = s.mem := by
  refine ⟨?_, ?_, State.mem_due _ _, State.due_mem _ _⟩
  · rw [State.startHang, State.due_ctx, State.modCtx_ctx_self]
  · rw [State.startHang, State.due_ctx, State.modCtx_ctx_self]

section
variable {s : State} {c : Nat}

theorem State.hangStep_halted (h : (s.ctx c).st = .halted) : s.hangStep c = s.startHang c := by
  rw [State.hangStep, h]

theorem State.hangStep_other (hrun : (s.ctx c).st ≠ .running) (hhalt : (s.ctx c).st ≠ .halted) : s.hangStep c = s := by
  unfold State.hangStep
  split
  · next h => exact absurd h hrun
  · next h => exact absurd h hhalt
  · rfl

theorem State.hangStep_running (h : (s.ctx c).st = .running) : s.hangStep c
    = (if s.regions.any (fun p => p.2.launch.ctx = c) && !s.hangExcused c && s.hangStill c then s.hangSuspect c else s).startHang c := by
  rw [State.hangStep, h]

theorem State.hangStep_moved (h : (s.ctx c).st = .running) (hmoved : s.hangTotals c ≠ (s.ctx c).hangMark) : s.hangStep c = s.startHang c := by
  have hstill : s.hangStill c = false := by simp [State.hangStill, hmoved]
  simp [State.hangStep_running h, hstill]

theorem State.hangStep_excused (h : (s.ctx c).st = .running) (hexcused : s.hangExcused c = true) : s.hangStep c = s.startHang c := by
  simp [State.hangStep_running h, hexcused]

theorem State.hangStep_suspected (h : (s.ctx c).st = .running) (hexcused : s.hangExcused c = false) (hstill : s.hangStill c = true)
    (hregion : ∃ g ∈ s.regions, g.2.launch.ctx = c) : s.hangStep c = (s.hangSuspect c).startHang c := by
  have hany : s.regions.any (fun p => p.2.launch.ctx = c) = true := by simpa using hregion
  rw [State.hangStep_running h, hany, hexcused, hstill]
  rfl

theorem State.hangSuspect_one {d : Nat} (h : (s.ctx c).dies = [d]) : s.hangSuspect c = (s.writeHangMap c d 3 (s.hangEntries c d)).raiseFault {
    index := 11, code := 3, sync := false, ctx := c, die := d, detail := leBytes 8 (lowestFrame (s.hangEntries c d)) } := by
  rw [State.hangSuspect, h]
  rfl

end

/-! ### Commands taken (20 R405, R407) -/

/-- Whether a command keeps its reserved fields zero. -/
def Sound (k : Command) : Prop := fieldOf k.flags 1 15 = 0 ∧ fieldOf k.ctxField 12 4 = 0 ∧ k.reserved = 0

section
variable {s : State} {d : Nat}

/-- A die takes no command that is busy, that has none, or that does not reach the host. -/
theorem State.takeNext_waits (h : s.hostOpen = false ∨ (s.die d).rings.busy ≠ none ∨ (s.die d).rings.chead = (s.die d).rings.ctail)
    (n : Nat) : s.takeNext d n = s := by
  cases n with
  | zero => rfl
  | succ n =>
    refine if_pos ?_
    rcases h with h | h | h
    · simp [h]
    · simp [Option.isSome_iff_ne_none.mpr h]
    · simp [h]

variable {k : Command} (hopen : s.hostOpen = true) (hidle : (s.die d).rings.busy = none)
  (hmore : (s.die d).rings.chead ≠ (s.die d).rings.ctail) (hk : s.commandAt d (s.die d).rings.chead.toNat = k)
include hopen hidle hmore hk

theorem State.takeNext_takes {e : Event} (hsound : Sound k) (he : cmdEvent k = some e) (n : Nat) : s.takeNext d (n + 1)
    = ((s.modRings d (fun x => { x with chead := x.chead + 1 })).modRings d (fun x => { x with busy := some k })).post e := by
  obtain ⟨hflags, hctx, hres⟩ := hsound
  conv_lhs => unfold State.takeNext
  simp only [hidle, hmore, hopen, hk, hflags, hctx, hres, he]
  rfl

theorem State.takeNext_refuses (h : ¬ Sound k ∨ cmdEvent k = none) (n : Nat) : s.takeNext d (n + 1)
    = ((s.modRings d (fun x => { x with chead := x.chead + 1 })).complete k 1 0).takeNext d n := by
  conv_lhs => unfold State.takeNext
  dsimp only
  rw [if_neg (by simp [hidle, hmore, hopen]), hk]
  split
  · next hbad he =>
    rcases h with h | h
    · exact absurd (by simpa [Sound, and_assoc] using hbad) h
    · exact absurd (h.symm.trans he) (by simp)
  · rfl

end

/-- The rings as a doorbell leaves them (20 R405). -/
def Rings.rung (now : Nat) (v : BitVec 32) (r : Rings) : Rings := { r with ctail := v, rungAt := if r.chead = v then r.rungAt else now + 1 }

theorem State.modRings_hostOpen (s : State) (d : Nat) (g : Rings → Rings) : (s.modRings d g).hostOpen = s.hostOpen := by
  have h (e : Nat) : ((s.modRings d g).die e).links = (s.die e).links := (keepsEngines_modRings s d g).links e
  simp only [State.hostOpen, h]

theorem State.modRings_allReady (s : State) (d : Nat) (g : Rings → Rings) : (s.modRings d g).allReady = s.allReady := by
  have h (e : Nat) : ((s.modRings d g).die e).boot = (s.die e).boot := by
    refine State.modDie_field (v := Die.boot) ?_ s d e
    exact fun _ => rfl
  simp only [State.allReady, h]

section
variable {s : State} {d : Nat} {v : BitVec 32}

theorem State.doorbell_eq (s : State) (d : Nat) (v : BitVec 32) : s.doorbell d v
    = if s.allReady then (s.modRings d (Rings.rung s.cycles v)).takeNext d 32768 else s.modRings d (Rings.rung s.cycles v) := by
  rw [← s.modRings_allReady d (Rings.rung s.cycles v)]
  rfl

theorem State.doorbell_waits (h : s.allReady = false ∨ s.hostOpen = false ∨ (s.die d).rings.busy ≠ none ∨ (s.die d).rings.chead = v) :
    s.doorbell d v = s.modRings d (Rings.rung s.cycles v) := by
  rw [State.doorbell_eq]
  split_ifs with hready
  · refine State.takeNext_waits ?_ _
    rw [State.modRings_hostOpen, State.modRings_rings_self]
    rcases h with h | h
    · simp [h] at hready
    · exact h
  · rfl

/-- The commands in a ring stay where they are while HEAD, TAIL and what is performed change. -/
theorem State.modRings_commandAt {g : Rings → Rings} (hcq : ∀ r, (g r).cq = r.cq) (s : State) (d i : Nat) :
    (s.modRings d g).commandAt d i = s.commandAt d i := by
  simp only [State.commandAt, State.modRings_rings_self, Rings.slots, hcq]
  rfl

section
variable {k : Command} (hready : s.allReady = true) (hopen : s.hostOpen = true) (hidle : (s.die d).rings.busy = none)
  (hmore : (s.die d).rings.chead ≠ v) (hk : s.commandAt d (s.die d).rings.chead.toNat = k)
include hready hopen hidle hmore hk

theorem State.doorbell_takes {e : Event} (hsound : Sound k) (he : cmdEvent k = some e) : (s.doorbell d v).hostMem = s.hostMem
    ∧ (s.doorbell d v).agenda = s.agenda ++ [e]
    ∧ ((s.doorbell d v).die d).rings = { (s.die d).rings with
        chead := (s.die d).rings.chead + 1, ctail := v, rungAt := s.cycles + 1, busy := some k } := by
  have hrings := s.modRings_rings_self d (Rings.rung s.cycles v)
  have htake := State.takeNext_takes (s := s.modRings d (Rings.rung s.cycles v)) (d := d) (k := k) (by rw [State.modRings_hostOpen, hopen])
    (by rw [hrings]; exact hidle) (by rw [hrings]; exact hmore) (by rw [State.modRings_commandAt (g := Rings.rung s.cycles v) fun _ => rfl, hrings]; exact hk) hsound he 32767
  rw [State.doorbell_eq, if_pos hready, htake]
  refine ⟨rfl, rfl, ?_⟩
  rw [State.post_die, State.modRings_rings_self, State.modRings_rings_self, hrings, Rings.rung, if_neg hmore]

theorem State.doorbell_refuses (h : ¬ Sound k ∨ cmdEvent k = none) (hlast : (s.die d).rings.chead + 1 = v) :
    (s.doorbell d v).agenda = s.agenda
      ∧ ((s.doorbell d v).die d).rings = { (s.die d).rings with chead := v, ctail := v, rungAt := s.cycles + 1 }
      ∧ Stored s.hostMem (s.doorbell d v).hostMem (replyAddr (s.die d).rings k) (replyBytes k 1 0) := by
  have hrings := s.modRings_rings_self d (Rings.rung s.cycles v)
  have htake := State.takeNext_refuses (s := s.modRings d (Rings.rung s.cycles v)) (d := d) (k := k) (by rw [State.modRings_hostOpen, hopen])
    (by rw [hrings]; exact hidle) (by rw [hrings]; exact hmore) (by rw [State.modRings_commandAt (g := Rings.rung s.cycles v) fun _ => rfl, hrings]; exact hk) h 32767
  have hdie : k.die = d := hk ▸ rfl
  have hnext : (((s.modRings d (Rings.rung s.cycles v)).modRings d (fun x => { x with chead := x.chead + 1 })).die d).rings
      = { (s.die d).rings with chead := v, ctail := v, rungAt := s.cycles + 1 } := by
    rw [State.modRings_rings_self, hrings, Rings.rung, if_neg hmore, hlast]
  rw [State.doorbell_eq, if_pos hready, htake,
    State.complete_open (by simp) (by rw [State.modRings_hostOpen, State.modRings_hostOpen, hopen])]
  generalize hw : (s.modRings d (Rings.rung s.cycles v)).modRings d (fun x => { x with chead := x.chead + 1 }) = w at hnext ⊢
  have hhost : w.hostMem = s.hostMem := hw ▸ rfl
  have hagenda : w.agenda = s.agenda := hw ▸ rfl
  rw [State.takeNext_waits (.inr (.inr (by show (w.die d).rings.chead = (w.die d).rings.ctail; rw [hnext]))), hdie]
  refine ⟨hagenda, hnext, ?_⟩
  show Stored s.hostMem (Memory.setN w.hostMem (replyAddr (w.die d).rings k) _) _ _
  rw [hhost, hnext]
  exact stored_setN _ _ _

end

end

/-! ### Kept events (20 R411) -/

theorem State.flushEvents_nil {s : State} {d : Nat} (h : (s.die d).rings.kept = []) (n : Nat) : s.flushEvents d n = s := by
  cases n with
  | zero => rfl
  | succ n =>
    conv_lhs => unfold State.flushEvents
    dsimp only
    rw [h]

theorem State.flushEvents_one {s : State} {d : Nat} {b : Bytes} (h : (s.die d).rings.kept = [b]) (hopen : s.hostOpen = true)
    (hroom : (s.die d).rings.full = false) (n : Nat) : s.flushEvents d (n + 1)
      = ({ s with hostMem := Memory.setN s.hostMem (eventAddr (s.die d).rings (s.die d).rings.etail.toNat) b } : State).modRings d
          (fun x => { x with kept := [], etail := x.etail + 1 }) := by
  conv_lhs => unfold State.flushEvents
  simp only [h, hopen, hroom]
  refine State.flushEvents_nil ?_ n
  rw [State.modRings_rings_self]

section
variable {s : State} {d : Nat} {v : BitVec 32}

theorem State.eheadWrite_nil (h : (s.die d).rings.kept = []) : s.eheadWrite d v = s.modRings d (fun x => { x with ehead := v }) := by
  refine State.flushEvents_nil ?_ _
  rw [State.modRings_rings_self]
  exact h

theorem State.eheadWrite_one {b : Bytes} (h : (s.die d).rings.kept = [b]) (hopen : s.hostOpen = true)
    (hroom : ((s.die d).rings.etail - v).toNat < 2 ^ fieldOf (s.die d).rings.eq 0 4) :
    ((s.eheadWrite d v).die d).rings = { (s.die d).rings with ehead := v, kept := [], etail := (s.die d).rings.etail + 1 }
      ∧ Stored s.hostMem (s.eheadWrite d v).hostMem (eventAddr (s.die d).rings (s.die d).rings.etail.toNat) b := by
  have hrings := s.modRings_rings_self d (fun x => { x with ehead := v })
  have hflush := State.flushEvents_one (s := s.modRings d (fun x => { x with ehead := v })) (d := d) (b := b) (by rw [hrings]; exact h)
    (by rw [State.modRings_hostOpen, hopen]) (by rw [hrings]; exact decide_eq_false (not_le.mpr hroom)) 255
  have hbell : s.eheadWrite d v = _ := hflush
  rw [hbell]
  generalize hw : s.modRings d (fun x => { x with ehead := v }) = w at hrings ⊢
  have hhost : w.hostMem = s.hostMem := hw ▸ rfl
  rw [State.modRings_rings_self]
  refine ⟨congrArg (fun r : Rings => { r with kept := [], etail := r.etail + 1 }) hrings, ?_⟩
  rw [hrings, ← hhost]
  exact stored_setN _ _ _

end

/-! ### Power (20 R413) -/

/-- CEIL of a die. -/
def State.ceilOf (s : State) (d : Nat) : Nat := fieldOf (s.die d).ramp.ctl 32 18

theorem State.curEvent_ramp (s : State) (die typ ctx datum : Nat) (detail : Bytes) (d : Nat) :
    ((s.curEvent die typ ctx datum detail).die d).ramp = (s.die d).ramp :=
  (congrArg Die.ramp ((keepsEngines_curEvent s die typ ctx datum detail).die d) :)

theorem State.setCeil_ceilOf (s : State) (d v watts e : Nat) : (s.setCeil d v watts).ceilOf e = if e = d then v % 2 ^ 18 else s.ceilOf e := by
  unfold State.setCeil
  split_ifs with hsame hd hd
  · rw [hd, ← hsame]
    exact (Nat.mod_eq_of_lt (Nat.mod_lt _ (by decide))).symm
  · rfl
  · rw [State.ceilOf, State.curEvent_ramp, State.modDie_die, if_pos hd]
    exact fieldOf_withField_self _ _ (by decide)
  · rw [State.ceilOf, State.curEvent_ramp, State.modDie_die, if_neg hd]
    rfl

/-- A die with RAMP_CTL replaced. -/
def Die.setCtl (x : Die) (y : BitVec 64) : Die := { x with ramp := { x.ramp with ctl := y } }

theorem Die.setCtl_ceil (x : Die) (y : BitVec 64) : (x.setCtl y).ramp.ceil = x.ramp.ceil := rfl

theorem State.setCeil_maxCeil (s : State) (d v watts e : Nat) : ((s.setCeil d v watts).die e).ramp.ceil = (s.die e).ramp.ceil := by
  have hset := State.modDie_field (v := fun x => x.ramp.ceil) (fun x => Die.setCtl_ceil x (withField x.ramp.ctl 32 18 v)) s d e
  unfold State.setCeil
  split_ifs
  · rfl
  · rw [State.curEvent_ramp]
    exact hset

/-- CEIL of every die lowered to 92 percent, and raised by 2 percent up to what the registers allow. -/
def State.lowerCeils (s : State) (watts : Nat) : State :=
  (List.range 8).foldl (fun s d => s.setCeil d (s.ceilOf d * 92 / 100) watts) s
def State.raiseCeils (s : State) (watts : Nat) : State :=
  (List.range 8).foldl (fun s d => s.setCeil d (min (s.die d).ramp.ceil (s.ceilOf d * 102 / 100)) watts) s

theorem State.lowerCeils_ceilOf (s : State) (watts : Nat) {d : Nat} (hd : d < 8) : (s.lowerCeils watts).ceilOf d = s.ceilOf d * 92 / 100 := by
  have hf (s : State) (k j : Nat) : (s.setCeil k (s.ceilOf k * 92 / 100) watts).ceilOf j
      = if j = k then s.ceilOf j * 92 / 100 % 2 ^ 18 else s.ceilOf j := by
    rw [State.setCeil_ceilOf]
    split_ifs with hjk
    · rw [hjk]
    · rfl
  rw [State.lowerCeils, foldl_at (v := State.ceilOf) (g := fun _ x => x * 92 / 100 % 2 ^ 18) hf List.nodup_range s d, if_pos (List.mem_range.mpr hd)]
  have hlt : s.ceilOf d < 2 ^ 18 := Nat.mod_lt _ (Nat.two_pow_pos _)
  omega

theorem State.raiseCeils_ceilOf (s : State) (watts : Nat) {d : Nat} (hd : d < 8) : (s.raiseCeils watts).ceilOf d
    = min (s.die d).ramp.ceil (s.ceilOf d * 102 / 100) % 2 ^ 18 := by
  have hf (s : State) (k j : Nat) : ((s.setCeil k (min (s.die k).ramp.ceil (s.ceilOf k * 102 / 100)) watts).ceilOf j,
      ((s.setCeil k (min (s.die k).ramp.ceil (s.ceilOf k * 102 / 100)) watts).die j).ramp.ceil)
      = if j = k then (min (s.die j).ramp.ceil (s.ceilOf j * 102 / 100) % 2 ^ 18, (s.die j).ramp.ceil)
        else (s.ceilOf j, (s.die j).ramp.ceil) := by
    rw [State.setCeil_ceilOf, State.setCeil_maxCeil]
    split_ifs with hjk
    · rw [hjk]
    · rfl
  have h := foldl_at (f := fun s d => State.setCeil s d (min (s.die d).ramp.ceil (s.ceilOf d * 102 / 100)) watts)
    (v := fun s d => (State.ceilOf s d, (State.die s d).ramp.ceil))
    (g := fun _ x => (min x.2 (x.1 * 102 / 100) % 2 ^ 18, x.2)) hf (List.nodup_range (n := 8)) s d
  rw [if_pos (List.mem_range.mpr hd)] at h
  exact congrArg Prod.fst h

section
variable (s : State) (w : Nat)

/-- The last measurements with a new one. -/
def State.measured : List Nat := (w :: s.powers).take 10

/-- The power that they may come to together. -/
def State.limit : Nat := min 7200 s.pwrCap * (s.measured w).length

variable {s w}

theorem State.measure_over (h : s.limit w < sumN (s.measured w)) :
    s.measure w = { ({ s with powers := s.measured w } : State).lowerCeils w with raised := 0 } := by
  unfold State.measure
  exact if_pos h

theorem State.measure_within (hlo : sumN (s.measured w) ≤ s.limit w) (hhi : s.limit w * 96 ≤ sumN (s.measured w) * 100) :
    s.measure w = { s with powers := s.measured w, raised := 0 } := by
  unfold State.measure
  exact (if_neg (not_lt.mpr hlo)).trans (if_neg (not_lt.mpr hhi))

theorem State.measure_under (h : sumN (s.measured w) * 100 < s.limit w * 96) : s.measure w
    = if s.raised + 1 < 10 then { s with powers := s.measured w, raised := s.raised + 1 }
      else { ({ s with powers := s.measured w } : State).raiseCeils w with raised := 0 } := by
  unfold State.measure
  exact (if_neg (by show ¬ s.limit w < sumN (s.measured w); omega)).trans (if_pos h)

end

end Sys2Proof.Machine
end

section
/-! PROOFS. The register window of a die and the requests of the host (20 R403 to R405). -/

namespace Sys2Proof.Machine

/-! ### Bytes of a register -/

theorem byteAt_leBytes {n i : Nat} (h : i < n) (v : Nat) : byteAt (leBytes n v) i = BitVec.ofNat 8 (v / 2 ^ (8 * i)) := by
  induction n generalizing v i with
  | zero => exact absurd h (Nat.not_lt_zero _)
  | succ n ih =>
    rw [leBytes]
    cases i with
    | zero => simp [byteAt]
    | succ i =>
      have hpow : 2 ^ (8 * (i + 1)) = 256 * 2 ^ (8 * i) := by rw [Nat.mul_add, Nat.pow_add, Nat.mul_comm]
      have htail : byteAt (BitVec.ofNat 8 v :: leBytes n (v / 256)) (i + 1) = byteAt (leBytes n (v / 256)) i := by simp [byteAt]
      rw [htail, ih (by omega), Nat.div_div_eq_div_mul, hpow]

/-- The bytes of a write over those that it does not name. -/
def namedBytes (old new : BitVec 64) (named : Nat) : Bytes :=
  (List.range 8).map (fun b => byteAt (leBytes 8 (if bitN named b then new else old).toNat) b)

theorem leBytes_mergeNamed (old new : BitVec 64) (named : Nat) : leBytes 8 (mergeNamed old new named).toNat = namedBytes old new named := by
  have hlen : (namedBytes old new named).length = 8 := by simp [namedBytes]
  have hlt : leNat (namedBytes old new named) < 2 ^ 64 := by
    have h := numAt_lt (namedBytes old new named) 0 8
    rwa [numAt, List.drop_zero, List.take_of_length_le hlen.le] at h
  have hval : (mergeNamed old new named).toNat = leNat (namedBytes old new named) :=
    (BitVec.toNat_ofNat _ _).trans (Nat.mod_eq_of_lt hlt)
  rw [hval, ← hlen, leBytes_leNat]

theorem byteAt_mergeNamed (old new : BitVec 64) (named : Nat) {b : Nat} (hb : b < 8) :
    byteAt (leBytes 8 (mergeNamed old new named).toNat) b = byteAt (leBytes 8 (if bitN named b then new else old).toNat) b := by
  rw [leBytes_mergeNamed]
  simp [namedBytes, byteAt, hb]

/-- A write that names every byte. -/
theorem mergeNamed_all (old new : BitVec 64) : mergeNamed old new 255 = new := by
  have hbytes : namedBytes old new 255 = leBytes 8 new.toNat := by
    have hlen : (leBytes 8 new.toNat).length = 8 := leBytes_length _ _
    refine List.ext_getElem (by simp [namedBytes]) fun b hb _ => ?_
    have hb8 : b < 8 := by simpa [namedBytes] using hb
    have hnamed : bitN 255 b = true := by
      show Nat.testBit (2 ^ 8 - 1) b = true
      rw [Nat.testBit_two_pow_sub_one, decide_eq_true hb8]
    simp [namedBytes, hnamed, byteAt, hlen, hb8]
  show BitVec.ofNat 64 (leNat (namedBytes old new 255)) = new
  rw [hbytes, leNat_leBytes, Nat.mod_eq_of_lt new.isLt, BitVec.ofNat_toNat, BitVec.setWidth_eq]

/-- The highest bits of a register stand in its last byte. -/
theorem fieldOf_top {v : BitVec 64} {i : Nat} (h : i < 8) : fieldOf v (56 + i) 1 = (byteAt (leBytes 8 v.toNat) 7).toNat / 2 ^ i % 2 := by
  rw [byteAt_leBytes (by decide), BitVec.toNat_ofNat, fieldOf, bitsN]
  have hlt := v.isLt
  interval_cases i <;> omega

theorem fieldOf_mergeNamed_top {old new : BitVec 64} {named i : Nat} (h : i < 8) :
    fieldOf (mergeNamed old new named) (56 + i) 1 = fieldOf (if bitN named 7 then new else old) (56 + i) 1 := by
  rw [fieldOf_top h, fieldOf_top h, byteAt_mergeNamed _ _ _ (by decide)]

/-- The bytes of a register of which the low seven bits are zero. -/
theorem byteAt_low7_zero (v : BitVec 64) {b : Nat} (hb : b < 8) : byteAt (leBytes 8 (withField v 0 7 0).toNat) b
    = if b = 0 then byteAt (leBytes 8 v.toNat) b &&& 0x80 else byteAt (leBytes 8 v.toNat) b := by
  have hval : (withField v 0 7 0).toNat = v.toNat / 128 * 128 := by
    rw [withField, setBitsN_zero, BitVec.toNat_ofNat]
    have hlt := v.isLt
    omega
  have hand : ∀ x : BitVec 8, x &&& 0x80 = BitVec.ofNat 8 (x.toNat / 128 * 128) := by decide
  rw [byteAt_leBytes hb, byteAt_leBytes hb, hval]
  split_ifs with h
  · subst h
    rw [hand, BitVec.toNat_ofNat]
    refine BitVec.eq_of_toNat_eq ?_
    simp only [BitVec.toNat_ofNat]
    omega
  · have hdiv : v.toNat / 128 * 128 / 2 ^ (8 * b) = v.toNat / 2 ^ (8 * b) := by interval_cases b <;> omega
    rw [hdiv]

/-! ### Work queues in the window (06 R128) -/

/-- QCTL as a write leaves it before the queue is judged. -/
def qctlOf (old v : BitVec 64) : BitVec 64 :=
  let on := bitN old.toNat 63
  BitVec.ofNat 64 (fieldOf v 63 1 * 2 ^ 63 + (if bitN v.toNat 62 then 0 else fieldOf old 62 1) * 2 ^ 62 + fieldOf v 61 1 * 2 ^ 61
    + (if on then fieldOf old 24 4 else max 1 (fieldOf v 24 4)) * 2 ^ 24 + (max 1 (fieldOf v 20 4)) * 2 ^ 20 + fieldOf v 16 3 * 2 ^ 16
    + (if on then fieldOf old 0 12 else fieldOf v 0 12))

/-- Six fields beside one another: the two highest are read back. -/
theorem fieldOf_packed {e r f n w p c : Nat} (he : e < 2) (hr : r < 2) (hf : f < 2) (hn : n < 16) (hw : w < 16) (hp : p < 8) (hc : c < 4096) :
    fieldOf (BitVec.ofNat 64 (e * 2 ^ 63 + r * 2 ^ 62 + f * 2 ^ 61 + n * 2 ^ 24 + w * 2 ^ 20 + p * 2 ^ 16 + c)) 63 1 = e
      ∧ fieldOf (BitVec.ofNat 64 (e * 2 ^ 63 + r * 2 ^ 62 + f * 2 ^ 61 + n * 2 ^ 24 + w * 2 ^ 20 + p * 2 ^ 16 + c)) 62 1 = r := by
  simp only [fieldOf, bitsN, BitVec.toNat_ofNat]
  omega

theorem fieldOf_lt {w : Nat} (v : BitVec w) (lo n : Nat) : fieldOf v lo n < 2 ^ n := Nat.mod_lt _ (Nat.two_pow_pos _)

theorem qctlOf_top (old v : BitVec 64) : fieldOf (qctlOf old v) 63 1 = fieldOf v 63 1
    ∧ fieldOf (qctlOf old v) 62 1 = if bitN v.toNat 62 then 0 else fieldOf old 62 1 := by
  have h1 := fieldOf_lt v 63 1
  have h2 := fieldOf_lt old 62 1
  have h3 := fieldOf_lt v 61 1
  have h4 := fieldOf_lt old 24 4
  have h5 := fieldOf_lt v 24 4
  have h6 := fieldOf_lt v 20 4
  refine fieldOf_packed h1 ?_ h3 ?_ (by omega) (fieldOf_lt v 16 3) ?_
  · split_ifs <;> omega
  · split_ifs <;> omega
  · split_ifs
    · exact fieldOf_lt old 0 12
    · exact fieldOf_lt v 0 12

/-- A queue that is judged keeps EN, and ERR once it is set. -/
theorem Queue.judged_top (x : Queue) : fieldOf x.judged.ctl 63 1 = fieldOf x.ctl 63 1 ∧ fieldOf x.ctl 62 1 ≤ fieldOf x.judged.ctl 62 1 := by
  unfold Queue.judged
  split_ifs
  · refine ⟨fieldOf_withBit _ (by decide), ?_⟩
    have hset : fieldOf (withBit x.ctl 62) 62 1 = 1 := fieldOf_withField_self x.ctl 1 (by decide)
    have hlt := fieldOf_lt x.ctl 62 1
    show _ ≤ fieldOf (withBit x.ctl 62) 62 1
    omega
  · exact ⟨rfl, le_rfl⟩

/-- A queue with QCTL written. -/
def Queue.qctlSet (v : BitVec 64) (x : Queue) : Queue :=
  let on := bitN x.ctl.toNat 63
  { x with
    ctl := qctlOf x.ctl v
    asked := if on then x.asked else false
    met := if on then x.met else none
    taken := if (if on then fieldOf x.ctl 0 12 else fieldOf v 0 12) = fieldOf x.ctl 0 12 then x.taken else 0 }

theorem State.qctlWrite_eq (s : State) (d q : Nat) (v : BitVec 64) :
    s.qctlWrite d q v = (s.modQueue d q (fun x => (x.qctlSet v).judged)).due (.queueDecision d) := rfl

theorem State.qctlWrite_top (s : State) (d q : Nat) (v : BitVec 64) : fieldOf ((s.qctlWrite d q v).queue d q).ctl 63 1 = fieldOf v 63 1
    ∧ (bitN v.toNat 62 = false → fieldOf (s.queue d q).ctl 62 1 ≤ fieldOf ((s.qctlWrite d q v).queue d q).ctl 62 1) := by
  obtain ⟨hen, herr⟩ := qctlOf_top (s.queue d q).ctl v
  have hqueue : (s.qctlWrite d q v).queue d q = ((s.queue d q).qctlSet v).judged := by
    rw [State.qctlWrite_eq, State.queue, State.due_die]
    exact State.modQueue_queue_self s d q _
  obtain ⟨hjen, hjerr⟩ := ((s.queue d q).qctlSet v).judged_top
  rw [hqueue, hjen]
  refine ⟨hen, fun h => ?_⟩
  have hctl : ((s.queue d q).qctlSet v).ctl = qctlOf (s.queue d q).ctl v := rfl
  rw [hctl, herr, h] at hjerr
  exact hjerr

/-! ### Writes of the window (20 R405) -/

/-- The effect of a register's whole value written. -/
def State.queueTakes (s : State) (d q reg : Nat) (v : BitVec 64) : State :=
  match reg with
  | 0 => s.qbaseWrite d q v
  | 8 => s.qctlWrite d q v
  | 0x18 => s.tailWrite d q (BitVec.ofNat 32 v.toNat)
  | _ => s
def State.ringTakes (s : State) (d off : Nat) (v : BitVec 64) : State :=
  match off with
  | 0x20000 => s.modRings d (fun r => if r.chead = r.ctail && r.rungAt ≠ s.cycles + 1 then { r with cq := ringBase v 6 } else r)
  | 0x20010 => s.doorbell d (BitVec.ofNat 32 v.toNat)
  | 0x20018 => s.modRings d (fun r => if r.chead = r.ctail && r.rungAt ≠ s.cycles + 1 then { r with cpl := withField v 0 12 0 } else r)
  | 0x20020 => s.modRings d (fun r => if r.ehead = r.etail then { r with eq := ringBase v 8 } else r)
  | 0x20028 => s.eheadWrite d (BitVec.ofNat 32 v.toNat)
  | 0x20030 => s.modRings d (fun r => if bitN v.toNat 63 then { r with lost := 0 } else r)
  | 0x100000 => s.modDie d (fun x => { x with boot := { x.boot with patch := withField v 0 6 0 } })
  | _ => s
def State.windowTakes (s : State) (d off : Nat) (v : BitVec 64) : State :=
  if off < 0x20000 then s.queueTakes d (off / 32) (off % 32) v else s.ringTakes d off v

theorem State.windowWrite64_eq (s : State) (d off : Nat) (v : BitVec 64) (named : Nat) : s.windowWrite64 d off v named
    = if windowNarrow off && named % 16 = 0 then s else s.windowTakes d off (mergeNamed (windowKeep off (s.windowReg d off)) v named) := rfl

section
variable (s : State) (d : Nat) {off : Nat} (v : BitVec 64)

theorem State.windowWrite64_unnamed {named : Nat} (h : windowNarrow off = true) (hnone : named % 16 = 0) : s.windowWrite64 d off v named = s := by
  rw [State.windowWrite64_eq, if_pos (by simp [h, hnone])]

theorem State.windowWrite64_all : s.windowWrite64 d off v 255 = s.windowTakes d off v := by
  rw [State.windowWrite64_eq, if_neg (by simp), mergeNamed_all]

theorem State.windowWrite64_base (hoff : off < 0x20000) (hreg : off % 32 = 0) (named : Nat) :
    s.windowWrite64 d off v named = s.qbaseWrite d (off / 32) (mergeNamed (s.queue d (off / 32)).base v named) := by
  have hnarrow : windowNarrow off = false := by simp [windowNarrow]; omega
  have hkeep : windowKeep off (s.windowReg d off) = (s.queue d (off / 32)).base := by
    have hnot : ¬ (off < 0x20000 && off % 32 = 8 : Bool) = true := by simp [hreg]
    rw [windowKeep, if_neg hnot, if_neg (by omega)]
    refine (if_pos hoff).trans ?_
    rw [hreg]
    rfl
  rw [State.windowWrite64_eq, hnarrow, hkeep, State.windowTakes, if_pos hoff, hreg]
  rfl

theorem State.windowWrite64_ctl (hoff : off < 0x20000) (hreg : off % 32 = 8) (named : Nat) : s.windowWrite64 d off v named
    = s.qctlWrite d (off / 32) (mergeNamed (withField (s.queue d (off / 32)).ctl 62 1 0) v named) := by
  have hnarrow : windowNarrow off = false := by simp [windowNarrow]; omega
  have hkeep : windowKeep off (s.windowReg d off) = withField (s.queue d (off / 32)).ctl 62 1 0 := by
    have hreg' : s.windowReg d off = (s.queue d (off / 32)).ctl := by
      refine (if_pos hoff).trans ?_
      rw [hreg]
      rfl
    rw [windowKeep, if_pos (by simp [hoff, hreg]), hreg']
  rw [State.windowWrite64_eq, hnarrow, hkeep, State.windowTakes, if_pos hoff, hreg]
  rfl

end

/-- The base and the size of a ring as they are stored. -/
theorem ringBase_fields (v : BitVec 64) {dflt : Nat} (hd : dflt < 16) : fieldOf (ringBase v dflt) 12 52 = fieldOf v 12 52
    ∧ fieldOf (ringBase v dflt) 0 4 = if fieldOf v 0 4 < 6 then dflt else fieldOf v 0 4 := by
  have hlt := fieldOf_lt v 0 4
  unfold ringBase
  constructor
  · rw [fieldOf_withField_ne _ _ (by decide) (by decide), fieldOf_withField_ne _ _ (by decide) (by decide)]
  · dsimp only
    rw [fieldOf_withField_self _ _ (by decide)]
    split_ifs <;> omega

theorem low12_zero (v : BitVec 64) : withField v 0 12 0 = BitVec.ofNat 64 (v.toNat / 4096 * 4096) := by
  rw [withField, setBitsN_zero]
  simp [Nat.mod_one]

/-! ### Requests of the host (20 R403, R404) -/

theorem map_byteAt_range {bs : Bytes} {n : Nat} (h : bs.length = n) : (List.range n).map (byteAt bs) = bs := by
  subst h
  refine List.ext_getElem (by simp) fun i _ hi => ?_
  simp [byteAt, hi]

theorem State.windowStore_word {s : State} {d off : Nat} {bs : Bytes} (hlen : bs.length = 8) (halign : off % 8 = 0) (hoff : off < 2 ^ 20) :
    s.windowStore d off bs = s.post (.registerWrite d off (BitVec.ofNat 64 (leNat bs)) 255) := by
  have hbase : 8 * (off / 8) = off := by omega
  have hcount : (off + bs.length - 1) / 8 - off / 8 + 1 = 1 := by omega
  have hin {b : Nat} (hb : b ∈ List.range 8) : (off ≤ off + b && off + b < off + bs.length : Bool) = true := by
    have hb := List.mem_range.mp hb
    simp [hlen, hb]
  have hbytes : (List.range 8).map (fun b => if (off ≤ off + b && off + b < off + bs.length : Bool) = true
      then byteAt bs (off + b - off) else 0) = bs := by
    refine (List.map_congr_left fun b hb => ?_).trans (map_byteAt_range hlen)
    rw [if_pos (hin hb), Nat.add_sub_cancel_left]
  have hmask : (List.range 8).map (fun b => if (off ≤ off + b && off + b < off + bs.length : Bool) = true then 2 ^ b else 0)
      = (List.range 8).map (fun b => 2 ^ b) := List.map_congr_left fun b hb => if_pos (hin hb)
  have hsum : sumN ((List.range 8).map (fun b => 2 ^ b)) = 255 := by decide
  have hempty : bs.isEmpty = false := by
    rw [List.isEmpty_eq_false_iff]
    exact fun h => by simp [h] at hlen
  unfold State.windowStore
  rw [hempty, hcount]
  simp only [List.range_one, List.foldl_cons, List.foldl_nil, Nat.add_zero, hbase, hbytes, hmask, hsum, Nat.mod_eq_of_lt hoff,
    Bool.false_eq_true, if_false]

theorem State.windowRequest_store {s : State} {d : Nat} {p : Packet} {bs : Bytes} (hop : p.op = .store bs) (htyp : p.typ = 0x04)
    (hlen : bs.length = 8) (halign : p.addr.toNat % 2 ^ 20 % 8 = 0) : s.windowRequest d p
      = s.post (.registerWrite d (p.addr.toNat % 2 ^ 20) (BitVec.ofNat 64 (leNat bs)) 255) := by
  unfold State.windowRequest
  rw [hop]
  dsimp only
  rw [if_pos htyp, State.windowStore_word hlen halign (Nat.mod_lt _ (by decide))]

theorem State.windowRequest_load {s : State} {d n : Nat} {p : Packet} {o : _} (hop : p.op = .load n o) : s.windowRequest d p
    = s.emitPkt d (s.replyPkt d p (.data (s.windowRead d (p.addr.toNat % 2 ^ 20) n) false) 0) := by
  unfold State.windowRequest
  rw [hop]

/-- The packet that a request of the host becomes at the die where it enters. -/
def State.hostPacket (s : State) (e : Nat) (p : Packet) : Packet :=
  { p with
    from_ := s.code e, fromHost := true, toHost := false, inc := 0, serial := s.nextId, soNum := none, rel := false
    stamp := {}, viaLink := none, held := none, dir := 0, dateline := false, escape := false, gHops := 0, lHops := 0
    to_ := BitVec.ofNat 13 (vaOwner p.addr.toNat) }

section
variable {s : State} {p : Packet}

theorem State.hostSends_none (h : s.hostLink (vaOwner p.addr.toNat) = none) : s.hostSends p = s := by
  unfold State.hostSends
  dsimp only
  rw [h]

variable {e : Nat} (he : s.hostLink (vaOwner p.addr.toNat) = some e)
include he

theorem State.hostSends_some : s.hostSends p = (if (s.fresh.2.link e 6).st ≠ .up then s.fresh.2
    else if badPacket (s.hostPacket e p) then s.fresh.2.cstatUp e 4 12 else s.fresh.2.emitPkt e (s.hostPacket e p)) := by
  unfold State.hostSends
  dsimp only
  rw [he]
  rfl

theorem State.hostSends_down (h : (s.link e 6).st ≠ .up) : s.hostSends p = s.fresh.2 :=
  (State.hostSends_some he).trans (if_pos h)

theorem State.hostSends_up (h : (s.link e 6).st = .up) (htyp : p.typ ≠ 0) (hmax : p.typ.toNat ≤ 12) (hcls : p.cls ≠ 3) :
    s.hostSends p = s.fresh.2.emitPkt e (s.hostPacket e p) := by
  have hgood : badPacket (s.hostPacket e p) = false := by
    show (p.typ = 0 || p.typ.toNat > 0x0C || p.cls = 3 || (p.phys && !true) : Bool) = false
    simp only [not_lt.mpr hmax, decide_false, Bool.not_true, Bool.and_false, Bool.or_false, Bool.or_eq_false_iff, decide_eq_false_iff_not]
    exact ⟨htyp, hcls⟩
  refine (State.hostSends_some he).trans ((if_neg (not_not_intro h)).trans (if_neg ?_))
  simp [hgood]

end

end Sys2Proof.Machine
end

section
/-! PROOFS. Bring-up and the loss of power (20 R417, R418). -/

namespace Sys2Proof.Machine

/-! ### Power applied -/

/-- How far stages 1 to 3 bring a die when they begin at a tick. -/
def stageAt (tick d : Nat) : Nat × Nat :=
  if (goodRows d).length < 32 then (1, 0x82) else if !Config.channelsTrain tick d then (2, 0x83) else (3, 0)

/-- A die after stages 1 to 3. -/
def Die.brought (tick d : Nat) (x : Die) : Die :=
  { x with
    boot := { x.boot with
      stat := bootStat (stageAt tick d).1 (stageAt tick d).2, rows := (goodRows d).take 32, rowsOff := (goodRows d).drop 32 }
    inc := Config.firstIncarnation tick d }

/-- Stages 1 to 3 of every die. -/
def State.bringFirst (s : State) : State := (List.range 8).foldl (fun s d => s.modDie d (Die.brought s.ticks d)) s

theorem State.bringFirst_die (s : State) {d : Nat} (hd : d < 8) : s.bringFirst.die d = Die.brought s.ticks d (s.die d) := by
  have hf (u : State) (k j : Nat) : ((u.modDie k (Die.brought u.ticks k)).ticks, (u.modDie k (Die.brought u.ticks k)).die j)
      = if j = k then (u.ticks, Die.brought u.ticks k (u.die j)) else (u.ticks, u.die j) := by
    rw [State.modDie_die, State.modDie_ticks]
    split_ifs <;> rfl
  have h := foldl_at (f := fun s d => State.modDie s d (Die.brought s.ticks d)) (v := fun s d => (State.ticks s, State.die s d))
    (g := fun d x => (x.1, Die.brought x.1 d x.2)) hf (List.nodup_range (n := 8)) s d
  rw [if_pos (List.mem_range.mpr hd)] at h
  exact congrArg Prod.snd h

/-- What the reset of links leaves of a die. -/
def Die.power (x : Die) : Boot × BitVec 8 := (x.boot, x.inc)

theorem State.modLink_power (s : State) (d port : Nat) (g : Link → Link) (n : Nat) : ((s.modLink d port g).die n).power = (s.die n).power := by
  refine State.modDie_field (v := Die.power) ?_ s d n
  exact fun _ => rfl

theorem State.trainEnd_power (s : State) (d port n : Nat) : ((s.trainEnd d port).die n).power = (s.die n).power := by
  obtain ⟨ev, -, h⟩ := s.trainEnd_eq d port
  rw [h, State.post_die, State.modLink_power]

theorem State.linkReset_power (s : State) (d port n : Nat) : ((s.linkReset d port).die n).power = (s.die n).power := by
  refine foldl_preserves (v := fun s => (State.die s n).power) (fun s e _ => ?_) s
  split
  · exact (State.trainEnd_power _ _ _ _).trans (State.modLink_power _ _ _ _ _)
  · exact (State.trainEnd_power _ _ _ _).trans (State.modLink_power _ _ _ _ _)
  · rfl

/-- The dies that have passed stages 1 to 3. -/
def State.live (s : State) : List Nat := (List.range 8).filter (fun d => s.stage d = 3)

/-- The ports of those dies reset. -/
def State.resetPorts (s : State) : State := s.live.foldl (fun s d => (Machine.portsOf d).foldl (fun s p => s.linkReset d p) s) s

theorem State.bringOn_eq (s : State) : s.bringOn = s.bringFirst.resetPorts.post .powerUp := rfl

theorem State.bringOn_power (s : State) {d : Nat} (hd : d < 8) : (s.bringOn.die d).power = (Die.brought s.ticks d (s.die d)).power := by
  rw [State.bringOn_eq, State.post_die, ← s.bringFirst_die hd]
  refine foldl_preserves (v := fun s => (State.die s d).power) (fun s e _ => ?_) _
  exact foldl_preserves (v := fun s => (State.die s d).power) (fun s p _ => s.linkReset_power e p d) s

theorem State.bringUp_on {s : State} (h : ∀ d < 8, s.stage d = 0) : s.bringUp = s.bringOn :=
  if_pos (List.all_eq_true.mpr fun d hd => decide_eq_true (h d (List.mem_range.mp hd)))

/-! ### Stages 4 to 6 -/

/-- What stage 5 leaves of a die: its incarnation and its registers but BOOT_STAT. -/
def Die.lasting (x : Die) : BitVec 8 × BitVec 64 × Rings × NMap Link := (x.inc, x.boot.patch, x.rings, x.links)

/-- What the check of a patch table leaves of the package: the dies' registers, the incarnations that they know, the events due. -/
structure Attests (s t : State) : Prop where
  pkg : t.pkg = s.pkg
  agenda : t.agenda = s.agenda
  lasting : ∀ n, (t.die n).lasting = (s.die n).lasting
  incs : ∀ n, (t.die n).incs = (s.die n).incs
  stat : ∀ n, (t.die n).boot.stat = (s.die n).boot.stat

theorem State.attest_attests (s : State) (d : Nat) : Attests s (s.attest d).2 := by
  have hpatch (a : Nat) : Attests s (s.patchApply d a false) := by
    refine ⟨rfl, rfl, ?_, ?_, ?_⟩
    · refine State.modDie_field (v := Die.lasting) ?_ s d
      exact fun _ => rfl
    · refine State.modDie_field (v := Die.incs) ?_ s d
      exact fun _ => rfl
    · refine State.modDie_field (v := fun x => x.boot.stat) ?_ s d
      exact fun _ => rfl
  have hself : Attests s s := ⟨rfl, rfl, fun _ => rfl, fun _ => rfl, fun _ => rfl⟩
  unfold State.attest
  dsimp only
  split_ifs
  · exact hself
  · split
    · exact hpatch _
    · exact hself

theorem State.attest_none {s : State} {d : Nat} (h : fieldOf (s.die d).boot.patch 6 58 = 0) : (s.attest d).1 = 0 := by
  unfold State.attest
  rw [h]
  rfl

/-! ### An incarnation announced -/

theorem State.announce_incs (s : State) (d : Nat) {m : Nat} (hm : m < 8) :
    ((s.announce d).die m).incs = NMap.put (s.die m).incs (s.code d).toNat (s.die d).inc :=
  congrArg Die.incs (State.forDies_die (g := fun _ x => { x with incs := NMap.put x.incs (s.code d).toNat (s.die d).inc })
    (fun u t => State.modDie_die u t _) s hm)

theorem State.announce_keeps {α : Type} {v : Die → α} (hv : ∀ x i, v { x with incs := i } = v x) (s : State) (d n : Nat) :
    v ((s.announce d).die n) = v (s.die n) := by
  refine foldl_preserves (v := fun s => v (State.die s n)) (fun s t _ => ?_) s
  exact State.modDie_field (fun x => hv x _) s t n

theorem State.announce_pkg (s : State) (d : Nat) : (s.announce d).pkg = s.pkg := by
  refine foldl_preserves (v := State.pkg) (fun s t _ => ?_) s
  rfl

theorem State.announce_agenda (s : State) (d : Nat) : (s.announce d).agenda = s.agenda := by
  refine foldl_preserves (v := State.agenda) (fun s t _ => ?_) s
  rfl

/-- Stages 4 and 5 of a die, the updates of its power apart that follow. -/
theorem State.bringDie_eq (s : State) (d : Nat) : s.bringDie d = ((((s.announce d).attest d).2.modDie d (fun x =>
    { x with boot := { x.boot with stat := bootStat 5 ((s.announce d).attest d).1 } })).due (.rampWindow d)).due (.forecastUpdate d) := rfl

theorem bootStat_stage (n : Nat) : fieldOf (bootStat 5 n) 0 3 = 5 := by
  simp only [bootStat, fieldOf, bitsN, BitVec.toNat_ofNat]
  omega

section
variable (s : State) (d : Nat)

theorem State.bringDie_pkg : (s.bringDie d).pkg = s.pkg := by
  rw [State.bringDie_eq, State.due_pkg, State.due_pkg, State.modDie_pkg, (State.attest_attests _ d).pkg, State.announce_pkg]

theorem State.bringDie_agenda : s.agenda ⊆ (s.bringDie d).agenda ∧ .rampWindow d ∈ (s.bringDie d).agenda
    ∧ .forecastUpdate d ∈ (s.bringDie d).agenda := by
  rw [State.bringDie_eq]
  refine ⟨List.Subset.trans ?_ (State.agenda_subset_due _ _), State.agenda_subset_due _ _ (State.mem_due _ _), State.mem_due _ _⟩
  refine List.Subset.trans ?_ (State.agenda_subset_due _ _)
  rw [State.modDie_agenda, (State.attest_attests _ d).agenda, State.announce_agenda]
  exact List.Subset.refl _

theorem State.bringDie_lasting (n : Nat) : ((s.bringDie d).die n).lasting = (s.die n).lasting := by
  rw [State.bringDie_eq, State.due_die, State.due_die]
  refine (State.modDie_field (v := Die.lasting) ?_ _ d n).trans (((State.attest_attests _ d).lasting n).trans ?_)
  · exact fun _ => rfl
  · exact State.announce_keeps (v := Die.lasting) (fun _ _ => rfl) s d n

theorem State.bringDie_incs {m : Nat} (hm : m < 8) : ((s.bringDie d).die m).incs = NMap.put (s.die m).incs (s.code d).toNat (s.die d).inc := by
  rw [State.bringDie_eq, State.due_die, State.due_die]
  refine (State.modDie_field (v := Die.incs) ?_ _ d m).trans (((State.attest_attests _ d).incs m).trans (s.announce_incs d hm))
  exact fun _ => rfl

theorem State.bringDie_stat (n : Nat) : ((s.bringDie d).die n).boot.stat
    = if n = d then bootStat 5 ((s.announce d).attest d).1 else (s.die n).boot.stat := by
  rw [State.bringDie_eq, State.due_die, State.due_die, State.modDie_die]
  split_ifs
  · rfl
  · rw [(State.attest_attests _ d).stat]
    exact State.announce_keeps (v := fun x => x.boot.stat) (fun _ _ => rfl) s d n

theorem State.bringDie_stage (n : Nat) : (s.bringDie d).stage n = if n = d then 5 else s.stage n := by
  rw [State.stage, State.bringDie_stat]
  split_ifs
  · exact bootStat_stage _
  · rfl

end

/-! ### The package brought up -/

/-- The dies brought through stages 4 and 5. -/
def State.bringDies (s : State) : State := s.live.foldl (fun s d => s.bringDie d) s

/-- The dies made ready, and their first commands taken. -/
def State.readyDies (s : State) : State := (List.range 8).foldl (fun s d => s.dieReady d) s
def State.takeFirst (s : State) : State := (List.range 8).foldl (fun s d => s.takeNext d 32768) s

theorem State.bringUp_later {s : State} (h : ∃ d < 8, s.stage d ≠ 0) : s.bringUp
    = if s.live.length = 8 && s.bringDies.hostOpen then s.bringDies.readyDies.takeFirst else s.bringDies := by
  obtain ⟨d, hd, hstage⟩ := h
  have hall : ¬ (List.range 8).all (fun d => s.stage d = 0) = true := fun h =>
    hstage (of_decide_eq_true (List.all_eq_true.mp h d (List.mem_range.mpr hd)))
  exact if_neg hall

theorem State.live_nodup (s : State) : s.live.Nodup := List.nodup_range.filter _

theorem State.bringDies_stage (s : State) (d : Nat) : s.bringDies.stage d = if d ∈ s.live then 5 else s.stage d :=
  foldl_at (f := fun s d => State.bringDie s d) (v := State.stage) (g := fun _ _ => 5) (fun s k j => s.bringDie_stage k j) s.live_nodup s d

/-- A package in which a die has not come through stages 1 to 3 gets no die ready. -/
theorem State.bringUp_short {s : State} (hsome : ∃ d < 8, s.stage d ≠ 0) (hshort : ∃ d < 8, s.stage d ≠ 3) : s.bringUp = s.bringDies := by
  obtain ⟨d, hd, hstage⟩ := hshort
  have hlen : s.live.length < 8 := by
    have h := List.length_filter_lt_length_iff_exists (l := List.range 8) (p := fun d => (s.stage d = 3 : Bool))
    rw [List.length_range] at h
    exact h.mpr ⟨d, List.mem_range.mpr hd, by simpa using hstage⟩
  rw [State.bringUp_later hsome, if_neg]
  simp [hlen.ne]

theorem State.live_all {s : State} (h : ∀ d < 8, s.stage d = 3) : s.live = List.range 8 :=
  List.filter_eq_self.mpr fun d hd => decide_eq_true (h d (List.mem_range.mp hd))

/-- What no die's stages 4 and 5 change. -/
theorem State.bringDies_lasting (s : State) (n : Nat) : (s.bringDies.die n).lasting = (s.die n).lasting :=
  foldl_preserves (v := fun s => (State.die s n).lasting) (fun s d _ => s.bringDie_lasting d n) s

theorem State.bringDies_hostOpen (s : State) : s.bringDies.hostOpen = s.hostOpen := by
  have h (n : Nat) : (s.bringDies.die n).links = (s.die n).links := congrArg (fun x => x.2.2.2) (s.bringDies_lasting n)
  simp only [State.hostOpen, h]

/-- What one update of a list brings about and no other undoes, each while a condition that they keep holds, holds after all of them. -/
theorem foldl_establishes_of {α σ : Type} {f : σ → α → σ} {P : α → σ → Prop} {I : σ → Prop} {l : List α}
    (hI : ∀ s, ∀ a ∈ l, I s → I (f s a)) (hset : ∀ s, ∀ a ∈ l, I s → P a (f s a))
    (hkeep : ∀ s, ∀ a ∈ l, ∀ b ∈ l, I s → P b s → P b (f s a)) {s : σ} (hs : I s) : ∀ a ∈ l, P a (l.foldl f s) := by
  induction l generalizing s with
  | nil => simp
  | cons x xs ih =>
    rw [List.forall_mem_cons, List.foldl_cons]
    have hx : I (f s x) := hI s x List.mem_cons_self hs
    constructor
    · refine (List.foldlRecOn (motive := fun s => I s ∧ P x s) xs f ⟨hx, hset s x List.mem_cons_self hs⟩ fun u hu a ha => ?_).2
      exact ⟨hI u a (List.mem_cons_of_mem _ ha) hu.1, hkeep u a (List.mem_cons_of_mem _ ha) x List.mem_cons_self hu.1 hu.2⟩
    · exact ih (fun u a ha => hI u a (List.mem_cons_of_mem _ ha)) (fun u a ha => hset u a (List.mem_cons_of_mem _ ha))
        (fun u a ha b hb => hkeep u a (List.mem_cons_of_mem _ ha) b (List.mem_cons_of_mem _ hb)) hx

/-- A die that has been brought through stages 4 and 5 of a package in which no patch table is named. -/
structure Brought (s : State) (d : Nat) (t : State) : Prop where
  stat : (t.die d).boot.stat = bootStat 5 0
  ramp : .rampWindow d ∈ t.agenda
  forecast : .forecastUpdate d ∈ t.agenda
  known : ∀ m < 8, NMap.find (t.die m).incs (s.code d).toNat = some (s.die d).inc

theorem State.code_inj {s : State} {d e : Nat} (hd : d < 8) (he : e < 8) (h : (s.code d).toNat = (s.code e).toNat) : d = e := by
  simp only [State.code, BitVec.toNat_ofNat] at h
  omega

theorem State.bringDies_brought {s : State} (hlive : ∀ d < 8, s.stage d = 3) (hpatch : ∀ d < 8, fieldOf (s.die d).boot.patch 6 58 = 0) :
    ∀ d ∈ List.range 8, Brought s d s.bringDies := by
  rw [State.bringDies, State.live_all hlive]
  have hconst (u : State) (d : Nat) (h : u.pkg = s.pkg ∧ ∀ n, (u.die n).lasting = (s.die n).lasting) :
      (u.bringDie d).pkg = s.pkg ∧ ∀ n, ((u.bringDie d).die n).lasting = (s.die n).lasting :=
    ⟨(u.bringDie_pkg d).trans h.1, fun n => (u.bringDie_lasting d n).trans (h.2 n)⟩
  have hself (u : State) (d : Nat) (hd : d ∈ List.range 8) (hu : u.pkg = s.pkg ∧ ∀ n, (u.die n).lasting = (s.die n).lasting) :
      Brought s d (u.bringDie d) := by
    have hinc : (u.die d).inc = (s.die d).inc := congrArg Prod.fst (hu.2 d)
    have hpat : ((u.announce d).die d).boot.patch = (s.die d).boot.patch :=
      (State.announce_keeps (v := fun x => x.boot.patch) (fun _ _ => rfl) u d d).trans (congrArg (fun x => x.2.1) (hu.2 d))
    have hcode : u.code d = s.code d := by rw [State.code, State.code, hu.1]
    refine ⟨?_, (u.bringDie_agenda d).2.1, (u.bringDie_agenda d).2.2, fun m hm => ?_⟩
    · rw [State.bringDie_stat, if_pos rfl, State.attest_none (hpat ▸ hpatch d (List.mem_range.mp hd))]
    · rw [u.bringDie_incs d hm, hcode, hinc, NMap.find_put_self]
  refine foldl_establishes_of (P := Brought s) (I := fun u => u.pkg = s.pkg ∧ ∀ n, (u.die n).lasting = (s.die n).lasting)
    (fun u d _ => hconst u d) (fun u d hd hu => hself u d hd hu) (fun u d hd e he hu hb => ?_) ⟨rfl, fun _ => rfl⟩
  by_cases hed : e = d
  · exact hed ▸ hself u d hd hu
  · refine ⟨?_, (u.bringDie_agenda d).1 hb.ramp, (u.bringDie_agenda d).1 hb.forecast, fun m hm => ?_⟩
    · rw [State.bringDie_stat, if_neg hed, hb.stat]
    · have hcode : (s.code e).toNat ≠ (u.code d).toNat := by
        rw [show u.code d = s.code d by rw [State.code, State.code, hu.1]]
        exact fun h => hed (State.code_inj (List.mem_range.mp he) (List.mem_range.mp hd) h)
      rw [u.bringDie_incs d hm, NMap.find_put_ne _ _ hcode, hb.known m hm]

/-! ### Stage 6 -/

theorem State.curEvent_heads (s : State) (die typ ctx datum : Nat) (detail : Bytes) (n : Nat) :
    ((s.curEvent die typ ctx datum detail).die n).rings.chead = (s.die n).rings.chead
      ∧ ((s.curEvent die typ ctx datum detail).die n).rings.ctail = (s.die n).rings.ctail := by
  have hmod (u : State) {g : Die → Die} (hg : ∀ x, (g x).rings.chead = x.rings.chead ∧ (g x).rings.ctail = x.rings.ctail) :
      ((u.modDie die g).die n).rings.chead = (u.die n).rings.chead ∧ ((u.modDie die g).die n).rings.ctail = (u.die n).rings.ctail := by
    rw [State.modDie_die]
    split_ifs
    · exact hg _
    · exact ⟨rfl, rfl⟩
  unfold State.curEvent
  dsimp only
  split_ifs
  · exact hmod { s with hostMem := _ } fun _ => ⟨rfl, rfl⟩
  · exact hmod s fun _ => ⟨rfl, rfl⟩
  · exact hmod s fun _ => ⟨rfl, rfl⟩

theorem State.curEvent_agenda (s : State) (die typ ctx datum : Nat) (detail : Bytes) : (s.curEvent die typ ctx datum detail).agenda = s.agenda := by
  unfold State.curEvent
  dsimp only
  split_ifs <;> rfl

/-- A die with BOOT_STAT replaced. -/
def Die.setStat (x : Die) (y : BitVec 64) : Die := { x with boot := { x.boot with stat := y } }

/-- What a die that is made ready keeps: its incarnation, what it knows of others, and the ends of its command ring. -/
def Die.steady (x : Die) : BitVec 8 × NMap (BitVec 8) × BitVec 32 × BitVec 32 := (x.inc, x.incs, x.rings.chead, x.rings.ctail)

theorem Die.setStat_steady (x : Die) (y : BitVec 64) : (x.setStat y).steady = x.steady := rfl

theorem State.dieReady_eq (s : State) (d : Nat) : ∃ datum detail, s.dieReady d
    = (s.modDie d (fun x => x.setStat (withField x.boot.stat 0 3 6))).curEvent d 1 0 datum detail := ⟨_, _, rfl⟩

theorem State.dieReady_stat (s : State) (d n : Nat) : ((s.dieReady d).die n).boot.stat
    = if n = d then withField (s.die n).boot.stat 0 3 6 else (s.die n).boot.stat := by
  obtain ⟨datum, detail, h⟩ := s.dieReady_eq d
  have hkeep := (keepsEngines_curEvent (s.modDie d (fun x => x.setStat (withField x.boot.stat 0 3 6))) d 1 0 datum detail).die n
  have hstat : ((s.dieReady d).die n).boot.stat = _ := h ▸ (congrArg (fun x : Die => x.boot.stat) hkeep :)
  rw [hstat]
  show ((s.modDie d (fun x => x.setStat (withField x.boot.stat 0 3 6))).die n).boot.stat = _
  rw [State.modDie_die]
  split_ifs <;> rfl

theorem State.dieReady_steady (s : State) (d n : Nat) : ((s.dieReady d).die n).steady = (s.die n).steady := by
  obtain ⟨datum, detail, h⟩ := s.dieReady_eq d
  have hset := State.modDie_field (v := Die.steady) (fun x => Die.setStat_steady x (withField x.boot.stat 0 3 6)) s d n
  have hkeep := (keepsEngines_curEvent (s.modDie d (fun x => x.setStat (withField x.boot.stat 0 3 6))) d 1 0 datum detail).die n
  obtain ⟨hhead, htail⟩ := (s.modDie d (fun x => x.setStat (withField x.boot.stat 0 3 6))).curEvent_heads d 1 0 datum detail n
  rw [h, ← hset]
  simp only [Die.steady, Prod.mk.injEq]
  exact ⟨(congrArg Die.inc hkeep :), (congrArg Die.incs hkeep :), hhead, htail⟩

theorem State.dieReady_agenda (s : State) (d : Nat) : (s.dieReady d).agenda = s.agenda := by
  obtain ⟨datum, detail, h⟩ := s.dieReady_eq d
  rw [h, State.curEvent_agenda, State.modDie_agenda]

theorem State.readyDies_steady (s : State) (n : Nat) : (s.readyDies.die n).steady = (s.die n).steady :=
  foldl_preserves (v := fun s => (State.die s n).steady) (fun s d _ => s.dieReady_steady d n) s

theorem State.readyDies_agenda (s : State) : s.readyDies.agenda = s.agenda :=
  foldl_preserves (v := State.agenda) (fun s d _ => s.dieReady_agenda d) s

theorem State.readyDies_stat (s : State) {d : Nat} (hd : d < 8) : (s.readyDies.die d).boot.stat = withField (s.die d).boot.stat 0 3 6 := by
  have h := foldl_at (f := fun s d => State.dieReady s d) (v := fun s d => (State.die s d).boot.stat) (g := fun _ x => withField x 0 3 6)
    (fun s k j => s.dieReady_stat k j) (List.nodup_range (n := 8)) s d
  rw [if_pos (List.mem_range.mpr hd)] at h
  rw [State.readyDies, h]

theorem State.takeFirst_none {s : State} (h : ∀ d < 8, (s.die d).rings.chead = (s.die d).rings.ctail) : s.takeFirst = s :=
  List.foldlRecOn (motive := (· = s)) _ _ rfl fun u hu d hd => by
    rw [hu]
    exact State.takeNext_none (h d (List.mem_range.mp hd)) _

/-- A package whose dies have all passed stages 1 to 3, with the host reached and no command and no patch table waiting. -/
theorem State.bringUp_ready {s : State} (hlive : ∀ d < 8, s.stage d = 3)
    (hidle : ∀ d < 8, (s.die d).rings.chead = (s.die d).rings.ctail) (hopen : s.hostOpen = true) : s.bringUp = s.bringDies.readyDies := by
  have hcond : (s.live.length = 8 && s.bringDies.hostOpen : Bool) = true := by
    rw [State.live_all hlive, State.bringDies_hostOpen, hopen]
    rfl
  rw [State.bringUp_later ⟨0, by decide, by rw [hlive 0 (by decide)]; decide⟩, if_pos hcond]
  refine State.takeFirst_none fun d hd => ?_
  have hsteady := s.bringDies.readyDies_steady d
  have hlast := s.bringDies_lasting d
  simp only [Die.steady, Die.lasting, Prod.mk.injEq] at hsteady hlast
  rw [hsteady.2.2.1, hsteady.2.2.2, hlast.2.2.1, hidle d hd]

/-! ### Power lost (20 R417) -/

/-- The fused minimum of the security version stands on every die; nothing else of the package does. -/
theorem State.powerLost_boot (s : State) {d : Nat} (hd : d < 8) :
    (s.powerLost.die d).boot = { (State.reset.die d).boot with secMin := (s.die d).boot.secMin } :=
  congrArg Die.boot (State.forDies_die (g := fun d x => { x with boot := { x.boot with secMin := (s.die d).boot.secMin } })
    (fun u d => State.modDie_die u d _) _ hd)

theorem State.powerLost_keeps {α : Type} {v : State → α} (hv : ∀ (s : State) x, v { s with dies := x } = v s) (s : State) :
    v s.powerLost = v { State.reset with ticks := s.ticks, cycles := 0, nextId := s.nextId, pkg := s.pkg, hostMem := s.hostMem, outbound := s.outbound, outTokens := s.outTokens } :=
  foldl_preserves (v := v) (fun u _ _ => hv u _) _

end Sys2Proof.Machine
end

section
/-! PROOFS. The host's requests and the registers of its window (20 R403, R405), and the events of the host and of Curator. -/

namespace Sys2Proof.Machine

/-! ### The power's measurements -/

theorem State.setCeil_powers (s : State) (d v watts : Nat) : (s.setCeil d v watts).powers = s.powers := by
  have hevent (u : State) (die typ ctx datum : Nat) (detail : Bytes) : (u.curEvent die typ ctx datum detail).powers = u.powers := by
    unfold State.curEvent
    dsimp only
    split_ifs <;> rfl
  unfold State.setCeil
  split_ifs
  · rfl
  · exact hevent _ _ _ _ _ _

theorem State.lowerCeils_powers (s : State) (watts : Nat) : (s.lowerCeils watts).powers = s.powers :=
  foldl_preserves (v := State.powers) (fun _ _ _ => State.setCeil_powers _ _ _ _) s

/-! ### Where a request of the host enters (01 R8) -/

section
variable {s : State} (owner : Nat)

theorem hostDie_eq : hostDie owner = if 3 ≤ owner % 8 ∧ owner % 8 ≤ 6 then 4 else 0 := by
  simp [hostDie]

theorem State.hostLink_failed (h0 : s.failedPort 0 6 = true) (h4 : s.failedPort 4 6 = true) : s.hostLink owner = none := by
  unfold State.hostLink
  rw [hostDie_eq]
  split_ifs <;> simp [h0, h4]

theorem State.hostLink_open {e : Nat} (h : if s.failedPort (hostDie owner) 6 = true then e = 4 - hostDie owner ∧ s.failedPort e 6 = false
    else e = hostDie owner) : s.hostLink owner = some e := by
  unfold State.hostLink
  dsimp only
  split_ifs at h with hnear
  · obtain ⟨rfl, hfar⟩ := h
    simp [hnear, hfar]
  · simp [hnear, h]

end

/-! ### The registers of a queue -/

/-- What a write of QBASE leaves of an enabled queue, and what it brings to one that is not. -/
theorem State.qbaseWrite_queue (s : State) (d q : Nat) (v : BitVec 64) : (s.qbaseWrite d q v).queue d q
    = if bitN (s.queue d q).ctl.toNat 63 = true then s.queue d q
      else { s.queue d q with base := withField v 0 7 0, asked := false, met := none } := by
  unfold State.qbaseWrite
  exact State.modQueue_queue_self s d q _

/-- A write of QCTL that does not name its last byte sets no bit 62. -/
theorem bitN_mergeNamed_err {old : BitVec 64} (v : BitVec 64) {named : Nat} (h : bitN named 7 = false) :
    bitN (mergeNamed (withField old 62 1 0) v named).toNat 62 = false := by
  have hfield : fieldOf (mergeNamed (withField old 62 1 0) v named) 62 1 = 0 := by
    refine (fieldOf_mergeNamed_top (i := 6) (by decide)).trans ?_
    rw [h, if_neg Bool.false_ne_true, fieldOf_withField_self _ _ (by decide), Nat.zero_mod]
  rw [bitN, Nat.testBit_eq_decide_div_mod_eq]
  exact decide_eq_false fun h => absurd (hfield.symm.trans h) (by decide)

section
variable {s : State} {d off : Nat} {v : BitVec 64}

/-- QBASE takes the bytes that a write names, with its low seven bits zero. -/
theorem State.windowWrite64_base_bytes (hoff : off < 0x20000) (hreg : off % 32 = 0) (hoffline : bitN (s.queue d (off / 32)).ctl.toNat 63 = false)
    (named : Nat) {b : Nat} (hb : b < 8) :
    let x := byteAt (leBytes 8 (if bitN named b then v else (s.queue d (off / 32)).base).toNat) b
    byteAt (leBytes 8 ((s.windowWrite64 d off v named).queue d (off / 32)).base.toNat) b = if b = 0 then x &&& 0x80 else x := by
  dsimp only
  rw [State.windowWrite64_base s d v hoff hreg, State.qbaseWrite_queue, if_neg (by simp [hoffline])]
  dsimp only
  rw [byteAt_low7_zero _ hb, byteAt_mergeNamed _ _ _ hb]

theorem State.windowWrite64_base_enabled (hoff : off < 0x20000) (hreg : off % 32 = 0) (hon : bitN (s.queue d (off / 32)).ctl.toNat 63 = true)
    (named : Nat) : (s.windowWrite64 d off v named).queue d (off / 32) = s.queue d (off / 32) := by
  rw [State.windowWrite64_base s d v hoff hreg, State.qbaseWrite_queue, if_pos hon]

/-- QCTL takes bit 63 where a write names its last byte and keeps bit 62 where it does not; the queues are judged again. -/
theorem State.windowWrite64_ctl_bits (hoff : off < 0x20000) (hreg : off % 32 = 8) (named : Nat) :
    let t := s.windowWrite64 d off v named
    .queueDecision d ∈ t.agenda
      ∧ (bitN named 7 = false → fieldOf (s.queue d (off / 32)).ctl 62 1 ≤ fieldOf (t.queue d (off / 32)).ctl 62 1)
      ∧ (bitN named 7 = true → fieldOf (t.queue d (off / 32)).ctl 63 1 = fieldOf v 63 1) := by
  dsimp only
  rw [State.windowWrite64_ctl s d v hoff hreg]
  obtain ⟨htop, herr⟩ := s.qctlWrite_top d (off / 32) (mergeNamed (withField (s.queue d (off / 32)).ctl 62 1 0) v named)
  refine ⟨State.mem_due _ _, fun h => herr (bitN_mergeNamed_err v h), fun h => htop.trans ?_⟩
  exact (fieldOf_mergeNamed_top (i := 7) (by decide)).trans (by rw [h, if_pos rfl])

theorem State.windowWrite64_tail (hoff : off < 0x20000) (hreg : off % 32 = 0x18) :
    s.windowWrite64 d off v 255 = s.tailWrite d (off / 32) (BitVec.ofNat 32 v.toNat) := by
  rw [State.windowWrite64_all, State.windowTakes, if_pos hoff, hreg]
  rfl

/-! ### The registers of Curator's rings -/

/-- CQ and CPL take a write only while no command waits and no doorbell rang in this cycle. -/
def State.ringsIdle (s : State) (d : Nat) : Bool := (s.die d).rings.chead = (s.die d).rings.ctail && (s.die d).rings.rungAt ≠ s.cycles + 1

theorem State.ringsIdle_iff : s.ringsIdle d = true ↔ (s.die d).rings.chead = (s.die d).rings.ctail ∧ (s.die d).rings.rungAt ≠ s.cycles + 1 := by
  simp [State.ringsIdle]

theorem State.windowWrite64_cq : ((s.windowWrite64 d 0x20000 v 255).die d).rings
    = if s.ringsIdle d then { (s.die d).rings with cq := ringBase v 6 } else (s.die d).rings := by
  rw [State.windowWrite64_all]
  exact State.modRings_rings_self s d _

theorem State.windowWrite64_cpl : ((s.windowWrite64 d 0x20018 v 255).die d).rings
    = if s.ringsIdle d then { (s.die d).rings with cpl := withField v 0 12 0 } else (s.die d).rings := by
  rw [State.windowWrite64_all]
  exact State.modRings_rings_self s d _

theorem State.windowWrite64_eq_ring : ((s.windowWrite64 d 0x20020 v 255).die d).rings
    = if (s.die d).rings.ehead = (s.die d).rings.etail then { (s.die d).rings with eq := ringBase v 8 } else (s.die d).rings := by
  rw [State.windowWrite64_all]
  exact State.modRings_rings_self s d _

theorem State.windowWrite64_lost (h : bitN v.toNat 63 = true) : ((s.windowWrite64 d 0x20030 v 255).die d).rings = { (s.die d).rings with lost := 0 } := by
  rw [State.windowWrite64_all]
  exact (State.modRings_rings_self s d _).trans (if_pos h)

theorem State.windowWrite64_doorbell : s.windowWrite64 d 0x20010 v 255 = s.doorbell d (BitVec.ofNat 32 v.toNat) :=
  State.windowWrite64_all s d v

theorem State.windowWrite64_ehead : s.windowWrite64 d 0x20028 v 255 = s.eheadWrite d (BitVec.ofNat 32 v.toNat) :=
  State.windowWrite64_all s d v

end

/-! ### What bring-up shows -/

theorem State.bringOn_posts (s : State) : .powerUp ∈ s.bringOn.agenda := by
  rw [State.bringOn_eq, State.post_agenda]
  exact List.mem_append_right _ (List.mem_singleton_self _)

section
variable {tick d : Nat} {x : Die}

theorem Die.brought_fits (h : (goodRows d).length ≥ 32 ∧ Config.channelsTrain tick d = true) : (Die.brought tick d x).boot.stat = 3 := by
  have hstage : stageAt tick d = (3, 0) := by rw [stageAt, if_neg (not_lt.mpr h.1), h.2]; rfl
  show bootStat (stageAt tick d).1 (stageAt tick d).2 = 3
  rw [hstage]
  decide

theorem Die.brought_few (h : (goodRows d).length < 32) : (Die.brought tick d x).boot.stat = 0x8201 := by
  have hstage : stageAt tick d = (1, 0x82) := if_pos h
  show bootStat (stageAt tick d).1 (stageAt tick d).2 = 0x8201
  rw [hstage]
  decide

theorem Die.brought_deaf (h : (goodRows d).length ≥ 32) (hdeaf : Config.channelsTrain tick d = false) :
    (Die.brought tick d x).boot.stat = 0x8302 := by
  have hstage : stageAt tick d = (2, 0x83) := by rw [stageAt, if_neg (not_lt.mpr h), hdeaf]; rfl
  show bootStat (stageAt tick d).1 (stageAt tick d).2 = 0x8302
  rw [hstage]
  decide

end

/-- All dies made ready: stage 6, the incarnation kept and known to every die, the ramp's windows and the forecasts due. -/
theorem State.bringUp_readies {s : State} (hlive : ∀ d < 8, s.stage d = 3) (hpatch : ∀ d < 8, fieldOf (s.die d).boot.patch 6 58 = 0)
    {n : Nat} (hn : n < 8) :
    let t := s.bringDies.readyDies
    (t.die n).boot.stat = 6 ∧ (t.die n).inc = (s.die n).inc ∧ .rampWindow n ∈ t.agenda ∧ .forecastUpdate n ∈ t.agenda
      ∧ ∀ m < 8, NMap.find (t.die m).incs (s.code n).toNat = some (s.die n).inc := by
  have hb := State.bringDies_brought hlive hpatch n (List.mem_range.mpr hn)
  have hsteady (m : Nat) := s.bringDies.readyDies_steady m
  simp only [Die.steady, Prod.mk.injEq] at hsteady
  have hinc : (s.bringDies.die n).inc = (s.die n).inc := congrArg Prod.fst (s.bringDies_lasting n)
  have hstat : withField (bootStat 5 0) 0 3 6 = 6 := by decide
  dsimp only
  rw [State.readyDies_agenda]
  refine ⟨?_, (hsteady n).1.trans hinc, hb.ramp, hb.forecast, fun m hm => ?_⟩
  · rw [State.readyDies_stat _ hn, hb.stat, hstat]
  · rw [(hsteady m).2.1]
    exact hb.known m hm

theorem State.bringDies_stage_six {s : State} {n : Nat} (h : s.bringDies.stage n = 6) : s.stage n = 6 := by
  rw [State.bringDies_stage] at h
  split_ifs at h
  · exact absurd h (by decide)
  · exact h

end Sys2Proof.Machine

open Sys2Proof Sys2Proof.Machine

/-- Settles O57: a lemma for each event that the host, Curator or the package's power brings about. -/
theorem hostEventResults : Obligations.HostEventResults := by
  unfold Obligations.HostEventResults
  intro s d c r
  refine ⟨?save, ?mail, ?restore, ?catHead, ?hang, ?doorbell, ?ehead, ?power, ?request, ?owner, ?register, ?powerUp, ?powerLoss⟩
  case save =>
    intro v hev hv
    have hexec : exec .preemptSaveComplete s = .next (s.saveStep c) := by
      show execPreemptSaveComplete s = _
      rw [execPreemptSaveComplete, hev]
    obtain ⟨w, hnone, hsome, hst, htiles, hsaves⟩ := State.saveStep_saves hv
    exact ⟨w, fun h => hexec.trans (congrArg _ (hnone h)), fun k h => hexec.trans (congrArg _ (hsome k h)), hst, htiles, _, hsaves, rfl, rfl, rfl⟩
  case mail =>
    intro p v hev hv
    have hexec : exec .mailboxWrite s = .next (s.mailStep d p) := by
      show execMailboxWrite s = _
      rw [execMailboxWrite, hev]
    refine ⟨fun hq => hexec.trans (congrArg _ ?_), fun q hq => ⟨_, hexec, State.mailStep_takes hv hq⟩⟩
    unfold State.mailStep
    dsimp only
    rw [hv]
    dsimp only
    rw [hq]
  case restore =>
    intro v hev hv hmail hsaved hnow
    have hexec : exec .restoreProceed s = .next (s.restoreStep c) := by
      show execRestoreProceed s = _
      rw [execRestoreProceed, hev]
    obtain ⟨w, hnone, hsome, hst, hready, htiles⟩ := State.restoreStep_restores hv hmail hsaved hnow
    refine ⟨w, fun h => hexec.trans (congrArg _ (hnone h)), fun k h => hexec.trans (congrArg _ (hsome k h)), hst, fun fi hfi => ?_,
      fun hnodup x y hy => ?_⟩
    · rw [hready]
      exact List.mem_append_right _ hfi
    · rw [State.tile, htiles]
      exact tilesBack_listed s.tiles hnodup hy
  case catHead =>
    intro v hev
    have hexec : exec .catHeadWrite s = .next (s.catHead d c v) := by
      show execCatHeadWrite s = _
      rw [execCatHeadWrite, hev]
    refine ⟨_, hexec, rfl, ?_⟩
    rw [State.catHead, State.modCd_cd_self]
  case hang =>
    intro hev again
    have hexec : exec .hangIntervalExpiry s = .next (s.hangStep c) := by
      show execHangIntervalExpiry s = _
      rw [execHangIntervalExpiry, hev]
    have hbegins (h : s.hangStep c = s.startHang c) : again := ⟨_, hexec.trans (congrArg _ h), s.startHang_begins c⟩
    refine ⟨fun h => hbegins (State.hangStep_halted h), fun h hmoved => hbegins (State.hangStep_moved h hmoved),
      fun h hexcused => hbegins (State.hangStep_excused h hexcused), fun h hexcused hstill hregion hdies => ?_,
      fun hrun hhalt => hexec.trans (congrArg _ (State.hangStep_other hrun hhalt))⟩
    exact hexec.trans (congrArg _ ((State.hangStep_suspected h hexcused hstill hregion).trans (by rw [State.hangSuspect_one hdies])))
  case doorbell =>
    intro v hev
    have hexec : exec .curCtailWrite s = .next (s.doorbell d v) := by
      show execCurCtailWrite s = _
      rw [execCurCtailWrite, hev]
    refine ⟨fun h => ⟨_, hexec.trans (congrArg _ (State.doorbell_waits h)), State.modRings_rings_self _ _ _, rfl, rfl⟩,
      fun hready hopen hidle hmore => ⟨fun e hsound he => ?_, fun h hlast => ?_⟩⟩
    · obtain ⟨hhost, hagenda, hrings⟩ := State.doorbell_takes hready hopen hidle hmore rfl hsound he
      exact ⟨_, hexec, hhost, hagenda, hrings⟩
    · obtain ⟨hagenda, hrings, hstored⟩ := State.doorbell_refuses hready hopen hidle hmore rfl h hlast
      exact ⟨_, hexec, hagenda, hrings, hstored⟩
  case ehead =>
    intro v hev
    have hexec : exec .curEheadWrite s = .next (s.eheadWrite d v) := by
      show execCurEheadWrite s = _
      rw [execCurEheadWrite, hev]
    refine ⟨fun h => ⟨_, hexec.trans (congrArg _ (State.eheadWrite_nil h)), State.modRings_rings_self _ _ _, rfl⟩, fun b h hopen hroom => ?_⟩
    exact ⟨_, hexec, State.eheadWrite_one h hopen hroom⟩
  case power =>
    intro w hev
    have hexec : exec .powerMeasure s = .next (s.measure w) := by
      show execPowerMeasure s = _
      rw [execPowerMeasure, hev]
    refine ⟨fun h => ?_, fun hlo hhi => ?_, fun h hfew => ?_, fun h hmany => ?_⟩
    · refine ⟨_, hexec.trans (congrArg _ (State.measure_over h)), ?_, rfl, fun n hn => State.lowerCeils_ceilOf _ w hn⟩
      exact State.lowerCeils_powers _ w
    · exact ⟨_, hexec.trans (congrArg _ (State.measure_within hlo hhi)), rfl, rfl, rfl⟩
    · exact ⟨_, hexec.trans (congrArg _ ((State.measure_under h).trans (if_pos hfew))), rfl, rfl⟩
    · exact ⟨_, hexec.trans (congrArg _ ((State.measure_under h).trans (if_neg (not_lt.mpr hmany)))), rfl, fun n hn =>
        State.raiseCeils_ceilOf _ w hn⟩
  case request =>
    intro p hev
    have hexec : exec .hostRequest s = .next (s.hostSends p) := by
      show execHostRequest s = _
      rw [execHostRequest, hev]
    refine ⟨fun h0 h4 => hexec.trans (congrArg _ (State.hostSends_none (State.hostLink_failed _ h0 h4))), fun e he => ?_⟩
    rw [← hostDie_eq] at he
    have hlink := State.hostLink_open _ he
    refine ⟨fun hdown => ⟨_, hexec.trans (congrArg _ (State.hostSends_down hlink hdown)), rfl, rfl, rfl⟩, fun hup htyp hmax hcls => ?_⟩
    obtain ⟨a, ha⟩ := s.fresh.2.emitPkt_agenda e (s.hostPacket e p)
    exact ⟨_, _, hexec.trans (congrArg _ (State.hostSends_up hlink hup htyp hmax hcls)), leaves_of_emitPkt _ _ _, rfl, rfl, rfl, rfl, rfl, rfl,
      rfl, by rw [ha]; rfl, State.emitPkt_dies _ _ _⟩
  case owner =>
    intro p hev hphys hwindow
    have hexec : exec .ownerPerform s = .next (s.windowRequest d p) := by
      show execOwnerPerform s = _
      rw [execOwnerPerform, hev]
      exact congrArg _ (if_pos (by rw [hphys, hwindow]; rfl))
    refine ⟨fun n o hop => ?_, fun bs hop htyp hlen halign => ?_⟩
    · obtain ⟨a, ha⟩ := s.emitPkt_agenda d (s.replyPkt d p (.data (s.windowRead d (p.addr.toNat % 2 ^ 20) n) false) 0)
      exact ⟨_, _, hexec.trans (congrArg _ (State.windowRequest_load hop)), leaves_of_emitPkt _ _ _, State.emitPkt_dies _ _ _, by rw [ha],
        rfl, rfl, rfl, rfl⟩
    · exact ⟨_, hexec.trans (congrArg _ (State.windowRequest_store hop htyp hlen halign)), rfl, rfl⟩
  case register =>
    intro off v named hev
    have hexec : exec .registerWrite s = .next (s.windowWrite64 d off v named) := by
      show execRegisterWrite s = _
      rw [execRegisterWrite, hev]
    refine ⟨_, hexec, ?unnamed, ?enabled, ?base, ?ctl, ?all⟩
    case unnamed => exact fun hnarrow hnone => State.windowWrite64_unnamed _ _ _ (by simpa [windowNarrow, or_assoc] using hnarrow) hnone
    case enabled => exact fun hoff hreg hon => State.windowWrite64_base_enabled hoff hreg hon named
    case base => exact fun hoff hreg hoffline b hb => State.windowWrite64_base_bytes hoff hreg hoffline named hb
    case ctl => exact fun hoff hreg => State.windowWrite64_ctl_bits hoff hreg named
    case all =>
      rintro rfl
      refine ⟨?tail, ?cq, ?busy, ?bell, ?cpl, ?eq, ?ehead, ?lost⟩
      case tail => exact fun hoff hreg => State.windowWrite64_tail hoff hreg
      case cq =>
        rintro rfl hidle hrung
        rw [State.windowWrite64_cq, if_pos (State.ringsIdle_iff.mpr ⟨hidle, hrung⟩)]
        exact ringBase_fields v (by decide)
      case busy =>
        intro hoff hbusy
        have hno : ¬ s.ringsIdle d = true := by
          rw [State.ringsIdle_iff, not_and_or, not_not]
          exact hbusy
        rcases hoff with rfl | rfl
        · rw [State.windowWrite64_cq, if_neg hno]
        · rw [State.windowWrite64_cpl, if_neg hno]
      case bell =>
        rintro rfl
        exact State.windowWrite64_doorbell
      case cpl =>
        rintro rfl hidle hrung
        rw [State.windowWrite64_cpl, if_pos (State.ringsIdle_iff.mpr ⟨hidle, hrung⟩)]
        exact low12_zero v
      case eq =>
        rintro rfl hidle
        rw [State.windowWrite64_eq_ring, if_pos hidle]
        exact ringBase_fields v (by decide)
      case ehead =>
        rintro rfl
        exact State.windowWrite64_ehead
      case lost =>
        rintro rfl h
        exact State.windowWrite64_lost h
  case powerUp =>
    intro hev
    have hexec : exec .powerUp s = .next (s.bringUp) := by
      show execPowerUp s = _
      rw [execPowerUp, hev]
    refine ⟨fun hoff => ?_, fun hlive hopen => ?_, fun hsome hshort => ?_⟩
    · refine ⟨_, hexec.trans (congrArg _ (State.bringUp_on hoff)), State.bringOn_posts s, fun n hn => ?_⟩
      obtain ⟨hboot, hinc⟩ := Prod.mk.inj (s.bringOn_power hn)
      rw [hboot, hinc]
      exact ⟨rfl, rfl, rfl, Die.brought_fits, Die.brought_few, Die.brought_deaf⟩
    · have hready := State.bringUp_ready (fun n hn => (hlive n hn).1) (fun n hn => (hlive n hn).2.2) hopen
      exact ⟨_, hexec.trans (congrArg _ hready), fun n hn =>
        State.bringUp_readies (fun n hn => (hlive n hn).1) (fun n hn => (hlive n hn).2.1) hn⟩
    · exact ⟨_, hexec.trans (congrArg _ (State.bringUp_short hsome hshort)), fun n _ h => State.bringDies_stage_six h⟩
  case powerLoss =>
    intro hev
    have hexec : exec .powerLoss s = .next (s.powerLost) := by
      show execPowerLoss s = _
      rw [execPowerLoss, hev]
    have hkeep {α : Type} {v : State → α} (hv : ∀ (s : State) x, v { s with dies := x } = v s) := State.powerLost_keeps hv s
    exact ⟨_, hexec, hkeep fun _ _ => rfl, hkeep fun _ _ => rfl, hkeep fun _ _ => rfl, hkeep fun _ _ => rfl, hkeep fun _ _ => rfl,
      hkeep fun _ _ => rfl, hkeep fun _ _ => rfl, hkeep fun _ _ => rfl, hkeep fun _ _ => rfl, fun n hn => State.powerLost_boot s hn⟩

end

section
/-! PROOFS. The Accession Ring's registers, first-write copies and uncorrectable errors (17 R350, R353, R355, R359, R361). -/

namespace Sys2Proof.Machine

variable {s : State} {d c : Nat}

/-! ### The ring's registers -/

theorem State.modRing_ring (s : State) (c d : Nat) (g : Ring → Ring) : ((s.modRing c d g).cd c d).ring = g (s.cd c d).ring := by
  rw [State.modRing, State.modCd_cd_self]

theorem State.headWrite_replay (h : s.level c = 3) (v : BitVec 64) : s.headWrite d c v = s := if_pos h

theorem State.headWrite_ring (h : s.level c ≠ 3) (v : BitVec 64) :
    (s.headWrite d c v).mem = s.mem ∧ ((s.headWrite d c v).cd c d).ring.head = (if (s.cd c d).ring.commit < v then (s.cd c d).ring.commit else v)
      ∧ ((s.headWrite d c v).cd c d).ring.tail = (s.cd c d).ring.tail ∧ ((s.headWrite d c v).cd c d).ring.commit = (s.cd c d).ring.commit := by
  rw [State.headWrite, if_neg h, State.modRing_ring]
  exact ⟨rfl, rfl, rfl, rfl⟩

theorem State.tailSupply_other (h : s.level c ≠ 3) (v : BitVec 64) : s.tailSupply d c v = s := if_pos h

theorem State.tailSupply_ring (h : s.level c = 3) (v : BitVec 64) :
    (s.tailSupply d c v).mem = s.mem ∧ ((s.tailSupply d c v).cd c d).ring.tail = v
      ∧ ((s.tailSupply d c v).cd c d).ring.head = (s.cd c d).ring.head ∧ .replayTimeout d c ∈ (s.tailSupply d c v).agenda := by
  rw [State.tailSupply, if_neg (not_not_intro h)]
  dsimp only
  refine ⟨?_, ?_, ?_, State.mem_due _ _⟩
  · rw [State.due_mem]
    rfl
  all_goals
    rw [State.due_cd, State.modRing_ring]

/-! ### The replay timeout -/

theorem State.replayLate_none (h : s.headIndex d c = none) : s.replayLate d c = s := by
  rw [State.replayLate, h]

theorem State.replayLate_some {i : Nat} (h : s.headIndex d c = some i) :
    s.replayLate d c = (s.diverge c d 1 i (s.recordAt c d i)).due (.replayTimeout d c) := by
  rw [State.replayLate, h]

/-! ### First-write copies -/

theorem State.copyStep_full (h : NMap.find (s.cd c d).copies unit = none) (hfull : s.copiesFull c d = true) :
    s.copyStep d c unit = (s.askBoundary c 2).post (.firstWriteCopy d c unit) := by
  rw [State.copyStep, h, if_neg (by simp), if_pos hfull]

theorem State.copyStep_takes (h : NMap.find (s.cd c d).copies unit = none) (hroom : s.copiesFull c d = false) :
    s.copyStep d c unit = s.takeCopy c d unit := by
  rw [State.copyStep, h, if_neg (by simp), if_neg (by simp [hroom])]

theorem State.takeCopy_copies (unit : Nat) : NMap.find ((s.takeCopy c d unit).cd c d).copies unit = some (unitBytes s.mem unit) := by
  rw [State.takeCopy, State.modCd_cd_self]
  exact NMap.find_put_self _ _ _

/-- The bytes of a memory whose addresses a test admits. -/
theorem Memory.get_filter {m : Memory} (h : Memory.wf m = true) (p : Nat → Bool) (a : Nat) :
    Memory.get (m.filter (fun x => p x.1)) a = if p a then Memory.get m a else memDefault := by
  induction m with
  | nil => simp [Memory.get]
  | cons x m ih =>
    have hm := ((Memory.wf_cons x m).mp h).2.2
    by_cases hx : p x.1 = true
    · rw [List.filter_cons, if_pos hx, Memory.get, Memory.get, ih hm]
      by_cases hxa : x.1 = a
      · rw [if_pos hxa, if_pos hxa, if_pos (hxa ▸ hx)]
      · rw [if_neg hxa, if_neg hxa]
    · rw [List.filter_cons, if_neg hx, ih hm, Memory.get]
      by_cases hxa : x.1 = a
      · rw [if_neg (hxa ▸ hx), if_neg (hxa ▸ hx)]
      · rw [if_neg hxa]

theorem get_unitBytes {m : Memory} (h : Memory.wf m = true) {unit a : Nat} (ha : a / 65536 = unit) : Memory.get (unitBytes m unit) a = Memory.get m a := by
  refine (Memory.get_filter h (fun x => x / 65536 = unit) a).trans ?_
  rw [if_pos (decide_eq_true ha)]

/-! ### Uncorrectable errors -/

/-- A line seen again in the interval, and a line of the ring, of the pool or of no copy: a rollback does not correct these. -/
def State.badAgain (s : State) (d c : Nat) : ErrorSite → Bool
  | .line pa => (s.ctx c).badLines.contains (d * 2 ^ 40 + pa / 64)
  | .chip => false
def State.lineLost (s : State) (d c : Nat) : ErrorSite → Bool
  | .line pa =>
    s.lineIn c d pa (fieldOf (s.cd c d).ring.base 21 43 * 2 ^ 21) (2 ^ fieldOf (s.cd c d).ring.size 0 5)
      || s.lineIn c d pa (fieldOf (s.cd c d).ring.shdBase 21 43 * 2 ^ 21) (2 ^ fieldOf (s.cd c d).ring.shdSize 0 5)
      || (NMap.find (s.cd c d).copies (physKey d pa / 65536)).isNone
  | .chip => false
def siteLine : ErrorSite → Nat
  | .line pa => pa / 64 * 64
  | .chip => 0
def State.errorFault (s : State) (d c : Nat) (site : ErrorSite) : FaultInfo :=
  { index := 9, sync := false, ctx := c, die := d
    detail := leBytes 8 (siteLine site) ++ [BitVec.ofNat 8 ((if s.badAgain d c site then 1 else 0) + (if s.bounding c then 2 else 0))] }

theorem State.errorStep_raises {site : ErrorSite} (hfree : (s.ctx c).st ≠ .free) (hended : (s.ctx c).st ≠ .ended)
    (h : (s.level c = 0 || s.bounding c || s.badAgain d c site || s.lineLost d c site || (NMap.find s.snaps c).isNone : Bool) = true) :
    s.errorStep d c site = s.raiseFault (s.errorFault d c site) := by
  unfold State.errorStep
  cases site <;> exact (if_neg (by simp [hfree, hended])).trans (if_pos h)

/-- The error counted on its die and noted as the cause of a rollback. -/
def State.errorNoted (s : State) (d c : Nat) (site : ErrorSite) : State :=
  (s.modDie d (fun x => { x with
    memord := withBit (withField x.memord 32 32 (min (2 ^ 32 - 1) (fieldOf x.memord 32 32 + 1))) 0 })).modCtx c (fun y => { y with
    cause := (1, d, 0)
    badLines := match site with
      | .line pa => y.badLines ++ [d * 2 ^ 40 + pa / 64]
      | .chip => y.badLines })

theorem State.errorStep_rolls {site : ErrorSite} (hfree : (s.ctx c).st ≠ .free) (hended : (s.ctx c).st ≠ .ended) (hlevel : 1 ≤ s.level c)
    (hcalm : s.bounding c = false) (hsnap : (NMap.find s.snaps c).isSome = true) (hfresh : s.badAgain d c site = false)
    (hkept : s.lineLost d c site = false) : s.errorStep d c site = (s.errorNoted d c site).due (.rollback c) := by
  have hno : ¬ (s.level c = 0 || s.bounding c || s.badAgain d c site || s.lineLost d c site || (NMap.find s.snaps c).isNone : Bool) = true := by
    rw [hcalm, hfresh, hkept, decide_eq_false (by omega), Option.isNone_eq_false_iff.mpr hsnap]
    decide
  unfold State.errorStep
  cases site <;> exact (if_neg (by simp [hfree, hended])).trans (if_neg hno)

/-- What the noted error leaves: the cause, the die's count one more, memory as it was. -/
theorem State.errorNoted_rolls (site : ErrorSite) :
    let t := (s.errorNoted d c site).due (.rollback c)
    .rollback c ∈ t.agenda ∧ (t.ctx c).cause = (1, d, 0) ∧ t.mem = s.mem
      ∧ fieldOf (t.die d).memord 32 32 = min (2 ^ 32 - 1) (fieldOf (s.die d).memord 32 32 + 1) := by
  dsimp only
  refine ⟨State.mem_due _ _, ?_, ?_, ?_⟩
  · rw [State.due_ctx, State.errorNoted, State.modCtx_ctx_self]
  · rw [State.due_mem, State.errorNoted, State.modCtx_mem, State.modDie_mem]
  · rw [State.due_die, State.errorNoted, State.modCtx_die, State.modDie_die_self]
    dsimp only
    rw [withBit, fieldOf_withField_ne _ _ (by decide) (by decide), fieldOf_withField_self _ _ (by decide),
      Nat.mod_eq_of_lt (by omega)]

end Sys2Proof.Machine
end

section
/-! PROOFS. Interval boundaries (17 R358): a record written in one page, levels restarted, the new interval, the checkpoint. -/

namespace Sys2Proof.Machine

/-! ### A run of bytes in one page -/

/-- A page map with another descriptor. -/
def PageMap.withDesc (p : PageMap) (x : BitVec 64) : PageMap := { p with desc := x }

theorem PageMap.withDesc_va (p : PageMap) (x : BitVec 64) : (p.withDesc x).va = p.va := rfl

/-- A page map with its IW bit set. -/
def PageMap.marked (p : PageMap) : PageMap := p.withDesc (withBit p.desc 54)

theorem PageMap.marked_va (p : PageMap) : p.marked.va = p.va := PageMap.withDesc_va p _

theorem PageMap.marked_fields (p : PageMap) : pdValid p.marked.desc = pdValid p.desc ∧ pdSize p.marked.desc = pdSize p.desc
    ∧ pdPa p.marked.desc = pdPa p.desc := by
  have hfield {lo n : Nat} (h : lo + n ≤ 54 ∨ 54 + 1 ≤ lo) (hlo : lo + n ≤ 64) : fieldOf p.marked.desc lo n = fieldOf p.desc lo n :=
    fieldOf_withField_ne _ _ hlo h
  refine ⟨?_, ?_, ?_⟩
  · exact bitN_withField_ne _ _ (by decide) (by decide)
  · rw [pdSize, hfield (by decide) (by decide), pdSize]
  · rw [pdPa, hfield (by decide) (by decide), pdPa]

/-- The descriptors of the pages of a list equal to `p` with their IW bits set. -/
def markPage (p q : PageMap) : PageMap := if q = p then q.marked else q

theorem markPage_fields (p q : PageMap) : (markPage p q).va = q.va ∧ pdValid (markPage p q).desc = pdValid q.desc
    ∧ pdSize (markPage p q).desc = pdSize q.desc ∧ pdPa (markPage p q).desc = pdPa q.desc := by
  by_cases h : q = p
  · rw [markPage, if_pos h]
    exact ⟨q.marked_va, q.marked_fields⟩
  · rw [markPage, if_neg h]
    exact ⟨rfl, rfl, rfl, rfl⟩

/-- The page of a list that maps an address. -/
def pageIn (l : List PageMap) (x : Nat) : Option PageMap :=
  l.find? (fun p => pdValid p.desc && p.va ≤ x && x < p.va + pdSize p.desc && pdPa p.desc + pdSize p.desc ≤ dieBytes)

theorem State.page?_eq (s : State) (c x : Nat) : s.page? c x = if vaPkg x ≠ s.pkg then none else pageIn (s.cd c (vaDie x)).pages x := rfl

theorem pageIn_mark {l : List PageMap} {x : Nat} {q : PageMap} (p : PageMap) (h : pageIn l x = some q) :
    pageIn (l.map (markPage p)) x = some (markPage p q) := by
  have hsame : pageIn (l.map (markPage p)) x = (pageIn l x).map (markPage p) := by
    refine List.find?_map.trans (congrArg _ (congrArg (List.find? · l) (funext fun q => ?_)))
    obtain ⟨hva, hvalid, hsize, hpa⟩ := markPage_fields p q
    simp only [Function.comp, hva, hvalid, hsize, hpa]
  rw [hsame, h]
  rfl

section
variable {s : State} {c va : Nat} {p : PageMap} (b : Byte)

theorem State.page_va_le (h : s.page? c va = some p) : p.va ≤ va := by
  unfold State.page? at h
  split_ifs at h
  have := List.find?_some h
  simp only [Bool.and_eq_true, decide_eq_true_eq] at this
  exact this.1.1.2

theorem State.writeByte_mem (h : s.page? c va = some p) :
    (s.writeByte c va b).mem = Memory.set s.mem (physKey (vaDie va) (pdPa p.desc + (va - p.va))) b := by
  unfold State.writeByte
  rw [h]
  dsimp only
  split_ifs <;> rfl

theorem State.writeByte_pages (h : s.page? c va = some p) :
    ((s.writeByte c va b).cd c (vaDie va)).pages = (s.cd c (vaDie va)).pages
      ∨ ((s.writeByte c va b).cd c (vaDie va)).pages = (s.cd c (vaDie va)).pages.map (markPage p) := by
  unfold State.writeByte
  rw [h]
  dsimp only
  split_ifs
  · exact .inl rfl
  · right
    rw [State.modCd_cd_self]
    rfl

/-- A byte written leaves the map of an address of its die, but for the IW bit. -/
theorem State.writeByte_page (h : s.page? c va = some p) {x : Nat} (hdie : vaDie x = vaDie va) {q : PageMap} (hq : s.page? c x = some q) :
    ∃ q', (s.writeByte c va b).page? c x = some q' ∧ q'.va = q.va ∧ pdPa q'.desc = pdPa q.desc := by
  rw [State.page?_eq, hdie] at hq
  split_ifs at hq with hpkg
  rw [State.page?_eq, hdie, s.writeByte_keeps (v := State.pkg) (fun _ _ _ => rfl) c va b, if_neg hpkg]
  rcases State.writeByte_pages b h with hpages | hpages
  · exact ⟨q, hpages ▸ hq, rfl, rfl⟩
  · exact ⟨markPage p q, hpages ▸ pageIn_mark p hq, (markPage_fields p q).1, (markPage_fields p q).2.2.2⟩

end

theorem mem_writeBytes {c va : Nat} {bs : Bytes} : ∀ {k : Nat} {s : State} {p : PageMap}, p.va ≤ va →
    (∀ i < bs.length, ∃ q, s.page? c (va + (k + i)) = some q ∧ q.va = p.va ∧ pdPa q.desc = pdPa p.desc) →
    (∀ i < bs.length, vaDie (va + (k + i)) = vaDie va) →
    ((bs.zipIdx k).foldl (fun s x => s.writeByte c (va + x.2) x.1) s).mem
      = Memory.setN s.mem (physKey (vaDie va) (pdPa p.desc + (va - p.va)) + k) bs := by
  induction bs with
  | nil => exact fun _ _ _ => rfl
  | cons b bs ih =>
    intro k s p hle hpage hdie
    obtain ⟨q, hq, hva, hpa⟩ := hpage 0 (by simp)
    have hd := hdie 0 (by simp)
    rw [Nat.add_zero] at hq hd
    have hnext (i : Nat) (hi : i < bs.length) : ∃ q, (s.writeByte c (va + k) b).page? c (va + (k + 1 + i)) = some q ∧ q.va = p.va
        ∧ pdPa q.desc = pdPa p.desc := by
      obtain ⟨r, hr, hrva, hrpa⟩ := hpage (i + 1) (by simpa using hi)
      have hdr := hdie (i + 1) (by simpa using hi)
      rw [show k + (i + 1) = k + 1 + i by omega] at hr hdr
      obtain ⟨r', hr', hr'va, hr'pa⟩ := State.writeByte_page b hq (hdr.trans hd.symm) hr
      exact ⟨r', hr', hr'va.trans hrva, hr'pa.trans hrpa⟩
    have hkey : physKey (vaDie (va + k)) (pdPa q.desc + (va + k - q.va)) = physKey (vaDie va) (pdPa p.desc + (va - p.va)) + k := by
      rw [hd, hva, hpa, physKey, physKey]
      omega
    rw [List.zipIdx_cons, List.foldl_cons, ih hle hnext fun i hi => by
      have h := hdie (i + 1) (by simpa using hi)
      rwa [show k + (i + 1) = k + 1 + i by omega] at h, State.writeByte_mem b hq, hkey, Memory.setN,
      Nat.add_assoc]

/-- A run of bytes that one page maps lies in memory as it was written. -/
theorem State.writeVa_stored {s : State} {c va : Nat} {p : PageMap} {bs : Bytes} (hpage : ∀ i < bs.length, s.page? c (va + i) = some p)
    (hpos : 0 < bs.length) (hdie : ∀ i < bs.length, vaDie (va + i) = vaDie va) :
    Stored s.mem (s.writeVa c va bs).mem (physKey (vaDie va) (pdPa p.desc + (va - p.va))) bs := by
  have hle : p.va ≤ va := State.page_va_le (hpage 0 hpos)
  have hmem := mem_writeBytes (k := 0) (s := s) (bs := bs) (c := c) hle
    (fun i hi => ⟨p, by rw [Nat.zero_add]; exact hpage i hi, rfl, rfl⟩) fun i hi => by rw [Nat.zero_add]; exact hdie i hi
  rw [State.writeVa, hmem, Nat.add_zero]
  exact stored_setN _ _ _

theorem State.writeVa_ring (s : State) (c va : Nat) (bs : Bytes) (e n : Nat) : ((s.writeVa c va bs).cd e n).ring = (s.cd e n).ring := by
  refine foldl_preserves (v := fun s => (State.cd s e n).ring) (fun s x _ => ?_) s
  unfold State.writeByte
  split
  · rfl
  · dsimp only
    split
    · rfl
    · refine State.modCd_field (v := CtxDie.ring) ?_ _ _ _ _ _
      exact fun _ => rfl

end Sys2Proof.Machine
end

section
/-! PROOFS. Interval boundaries (17 R358): the boundary's record, levels restarted, the new interval, the checkpoint. -/

namespace Sys2Proof.Machine

/-- An event for the host changes the dies' rings and the host's memory alone. -/
theorem State.curEvent_keeps {α : Type} {v : State → α} (hv : ∀ (s : State) x y, v { s with dies := x, hostMem := y } = v s)
    (s : State) (die typ ctx datum : Nat) (detail : Bytes) : v (s.curEvent die typ ctx datum detail) = v s := by
  unfold State.curEvent
  dsimp only
  split_ifs
  · exact hv s _ _
  · exact hv s _ s.hostMem
  · exact hv s _ s.hostMem

/-! ### The record of a boundary (17 R350 to R353) -/

theorem Ring.addr_aligned (g : Ring) (i : Nat) : g.addr i % 32 = 0 := by
  rw [Ring.addr]
  omega

theorem vaDie_add {va i : Nat} (hva : va % 32 = 0) (hi : i < 32) : vaDie (va + i) = vaDie va := by
  rw [vaDie, vaDie]
  omega

/-- The high mark of a ring changes it and the events for the host alone. -/
theorem State.ringHigh_keeps {α : Type} {v : State → α} (hv : ∀ (s : State) x y z, v { s with dies := x, hostMem := y, ctxDies := z } = v s)
    (s : State) (c d : Nat) : v (s.ringHigh c d) = v s := by
  unfold State.ringHigh
  dsimp only
  split
  · exact (State.curEvent_keeps (fun s x y => hv s x y s.ctxDies) _ d 4 c _ _).trans (hv s s.dies s.hostMem _)
  · rfl

theorem State.ringHigh_ends (s : State) (c d : Nat) : ((s.ringHigh c d).cd c d).ring.tail = (s.cd c d).ring.tail
    ∧ ((s.ringHigh c d).cd c d).ring.commit = (s.cd c d).ring.commit := by
  unfold State.ringHigh
  dsimp only
  split
  · have hcd (u : State) (n : Nat) (bs : Bytes) : (u.curEvent d 4 c n bs).cd c d = u.cd c d :=
      State.curEvent_keeps (v := fun s => State.cd s c d) (fun _ _ _ => rfl) u d 4 c n bs
    rw [hcd, State.modRing_ring]
    exact ⟨rfl, rfl⟩
  · exact ⟨rfl, rfl⟩

/-- A ring with a record of a type at its tail. -/
def Ring.grown (typ : Nat) (g : Ring) : Ring :=
  { g with tail := g.tail + 1, commit := if typ = 1 then g.tail else g.commit, marked := g.marked || typ = 1 }

theorem State.writeRecord_eq (s : State) (c d : Nat) (r : LogRec) : s.writeRecord c d r
    = ((s.writeVa c ((s.cd c d).ring.addr (s.cd c d).ring.tail.toNat) (recBytes (s.pkg * 8 + d) r)).modRing c d (Ring.grown r.typ)).ringHigh c d :=
  rfl

theorem recBytes_length (n : Nat) (r : LogRec) : (recBytes n r).length = 32 := by
  simp [recBytes, leBytes_length]

section
variable {s : State} {c d : Nat} {r : LogRec}

theorem State.writeRecord_keeps {α : Type} {v : State → α}
    (hv : ∀ (s : State) w x y z, v { s with mem := w, dies := x, hostMem := y, ctxDies := z } = v s) : v (s.writeRecord c d r) = v s := by
  rw [State.writeRecord_eq]
  refine (State.ringHigh_keeps (fun s x y z => hv s s.mem x y z) _ c d).trans ?_
  refine (hv _ (State.mem _) (State.dies _) (State.hostMem _) _).trans ?_
  exact State.writeVa_keeps (fun s m cds => hv s m s.dies s.hostMem cds) s c _ _

theorem State.writeRecord_ends (h : r.typ = 1) : ((s.writeRecord c d r).cd c d).ring.tail = (s.cd c d).ring.tail + 1
    ∧ ((s.writeRecord c d r).cd c d).ring.commit = (s.cd c d).ring.tail := by
  rw [State.writeRecord_eq]
  obtain ⟨htail, hcommit⟩ := State.ringHigh_ends
    ((s.writeVa c ((s.cd c d).ring.addr (s.cd c d).ring.tail.toNat) (recBytes (s.pkg * 8 + d) r)).modRing c d (Ring.grown r.typ)) c d
  rw [htail, hcommit, State.modRing_ring, State.writeVa_ring]
  exact ⟨rfl, if_pos h⟩

theorem State.writeRecord_stored {page : PageMap} (hpage : ∀ i < 32, s.page? c ((s.cd c d).ring.addr (s.cd c d).ring.tail.toNat + i) = some page) :
    let va := (s.cd c d).ring.addr (s.cd c d).ring.tail.toNat
    Stored s.mem (s.writeRecord c d r).mem (physKey (vaDie va) (pdPa page.desc + (va - page.va))) (recBytes (s.pkg * 8 + d) r) := by
  have hlen := recBytes_length (s.pkg * 8 + d) r
  have hmem : (s.writeRecord c d r).mem = (s.writeVa c ((s.cd c d).ring.addr (s.cd c d).ring.tail.toNat) (recBytes (s.pkg * 8 + d) r)).mem := by
    rw [State.writeRecord_eq, State.ringHigh_keeps (v := State.mem) (fun _ _ _ _ => rfl), State.modRing, State.modCd_mem]
  intro va
  rw [hmem]
  exact State.writeVa_stored (fun i hi => hpage i (hi.trans_eq hlen)) (hlen ▸ by decide) fun i hi =>
    vaDie_add (Ring.addr_aligned _ _) (hi.trans_eq hlen)

theorem State.logEvent_record (h : r.typ = 1) (hlevel : s.level c = 2) (hredo : (s.cd c d).ring.redo = none) (hnext : (s.cd c d).logNext = [])
    (hroom : ((s.cd c d).ring.tail - (s.cd c d).ring.head).toNat + 64 ≤ (s.cd c d).ring.cap) : s.logEvent c d r = .go (s.writeRecord c d r) := by
  have hshort : (s.cd c d).ring.short = false := decide_eq_false (not_lt.mpr hroom)
  unfold State.logEvent
  dsimp only
  rw [if_neg (by omega), if_pos hlevel, hredo]
  dsimp only
  rw [hshort, hnext, if_neg (by simp), h]
  simp

end

end Sys2Proof.Machine
end

section
/-! PROOFS. Interval boundaries (17 R358): levels restarted, the new interval, the checkpoint. -/

namespace Sys2Proof.Machine

/-! ### A boundary's gate -/

theorem State.boundaryGate_low {s : State} {c : Nat} (h : s.level c < 2) (r : LogRec) : s.boundaryGate c r = .go s := by
  unfold State.boundaryGate
  simp only [State.logEvent_go h]
  have hnone : (s.ctx c).dies.findSome? (fun _ => (none : Option State)) = none := by simp
  have hfold : (s.ctx c).dies.foldl (fun s d => match s.logEvent c d r with
      | .go s => s
      | .wait s => s) s = s :=
    List.foldlRecOn (motive := (· = s)) _ _ rfl fun u hu d _ => by
      rw [hu, State.logEvent_go h]
  rw [hnone]
  exact congrArg Gate.go hfold

theorem State.boundaryGate_one {s u : State} {c d : Nat} {r : LogRec} (hdies : (s.ctx c).dies = [d]) (h : s.logEvent c d r = .go u) :
    s.boundaryGate c r = .go u := by
  unfold State.boundaryGate
  simp only [hdies, List.findSome?_cons, List.findSome?_nil, h, List.foldl_cons, List.foldl_nil]

/-! ### Maps changed entry by entry -/

theorem NMap.find_map {α : Type} (m : NMap α) (g : Nat → α → α) (n : Nat) :
    NMap.find (m.map (fun p => (p.1, g p.1 p.2))) n = (NMap.find m n).map (g n) := by
  induction m with
  | nil => rfl
  | cons p m ih =>
    simp only [List.map_cons, NMap.find, ih]
    split_ifs with h
    · rw [h]
      rfl
    · rfl
    · rfl

/-- A map of which some keys' entries change. -/
theorem NMap.find_map_if {α : Type} (m : NMap α) (p : Nat → Prop) [DecidablePred p] (g : α → α) (n : Nat) :
    NMap.find (m.map (fun x => if p x.1 then (x.1, g x.2) else x)) n = (NMap.find m n).map (fun x => if p n then g x else x) := by
  refine Eq.trans ?_ (NMap.find_map m (fun k x => if p k then g x else x) n)
  congr 2
  funext x
  split_ifs <;> rfl

/-- What a change leaves of every entry of a map, and of the default, it leaves of each key's. -/
theorem NMap.getD_map_if {α β : Type} {v : α → β} {g : α → α} (hg : ∀ x, v (g x) = v x) (m : NMap α) (p : Nat → Prop) [DecidablePred p]
    (n : Nat) (d : α) : v (NMap.getD (m.map (fun x => if p x.1 then (x.1, g x.2) else x)) n d) = v (NMap.getD m n d) := by
  rw [NMap.getD, NMap.find_map_if, NMap.getD]
  cases NMap.find m n with
  | none => rfl
  | some x =>
    simp only [Option.map_some, Option.getD_some]
    split_ifs
    · exact hg x
    · rfl

/-! ### Levels restarted (11 R424) -/

/-- The tiles of a context with their levels at 0. -/
def State.levelTiles (s : State) (c : Nat) : State := (s.ctxTiles c).foldl (fun s t => (s.spillLevel0 t).modTile t Tile.level0) s

theorem State.spillLevel0_none {s : State} {t : TileId} (h : (s.tile t).spilled = []) : s.spillLevel0 t = s := by
  unfold State.spillLevel0
  split
  · rfl
  · rw [h]
    rfl

/-- A tile whose stored tokens all have level 0. -/
def levelled (x : Tile) : Prop := ∀ e ∈ x.entries, e.tok.tag.level = 0

theorem Tile.level0_levelled (x : Tile) : levelled x.level0 := fun e he => by
  obtain ⟨a, -, rfl⟩ := List.mem_map.mp he
  rfl

theorem State.modTile_field {α : Type} {v : Tile → α} {g : Tile → Tile} (hg : ∀ x, v (g x) = v x) (s : State) (t u : TileId) :
    v ((s.modTile t g).tile u) = v (s.tile u) := by
  by_cases h : tileKey u = tileKey t
  · have hself : (s.modTile t g).tile u = g (s.tile u) := by simp [State.modTile, State.setTile, State.tile, h]
    rw [hself, hg]
  · rw [State.modTile_tile_ne _ _ _ _ h]

/-- A state in which some tiles hold no spilled token and that has the memory, regions and contexts of another. -/
def Unspilled (s : State) (ts : List TileId) (u : State) : Prop :=
  (∀ x ∈ ts, (u.tile x).spilled = []) ∧ u.mem = s.mem ∧ u.regions = s.regions ∧ u.ctxs = s.ctxs ∧ u.ctxDies = s.ctxDies

theorem Unspilled.level {s u : State} {ts : List TileId} (h : Unspilled s ts u) {t : TileId} (ht : t ∈ ts) :
    (u.spillLevel0 t).modTile t Tile.level0 = u.modTile t Tile.level0 ∧ Unspilled s ts (u.modTile t Tile.level0) := by
  obtain ⟨hspill, hmem, hregions, hctxs, hcds⟩ := h
  refine ⟨by rw [State.spillLevel0_none (hspill t ht)], fun x hx => ?_, hmem, hregions, hctxs, hcds⟩
  rw [State.modTile_field (v := Tile.spilled) (g := Tile.level0) (fun _ => rfl)]
  exact hspill x hx

theorem State.levelTiles_levelled {s : State} {c : Nat} (h : ∀ x ∈ s.ctxTiles c, (s.tile x).spilled = []) :
    Unspilled s (s.ctxTiles c) (s.levelTiles c) ∧ ∀ x ∈ s.ctxTiles c, levelled ((s.levelTiles c).tile x) := by
  have hstart : Unspilled s (s.ctxTiles c) s := ⟨h, rfl, rfl, rfl, rfl⟩
  refine ⟨List.foldlRecOn (motive := Unspilled s (s.ctxTiles c)) _ _ hstart fun u hu t ht => ?_, ?_⟩
  · rw [(hu.level ht).1]
    exact (hu.level ht).2
  · refine foldl_establishes_of (P := fun x u => levelled (State.tile u x)) (I := Unspilled s (s.ctxTiles c)) (fun u t ht hu => ?_)
      (fun u t ht hu => ?_) (fun u t ht x _ hu hx => ?_) hstart
    · rw [(hu.level ht).1]
      exact (hu.level ht).2
    · rw [(hu.level ht).1, State.modTile_tile_self]
      exact Tile.level0_levelled _
    · rw [(hu.level ht).1]
      by_cases hkey : tileKey x = tileKey t
      · have hself : (u.modTile t Tile.level0).tile x = (u.tile x).level0 := by simp [State.modTile, State.setTile, State.tile, hkey]
        rw [hself]
        exact Tile.level0_levelled _
      · rwa [State.modTile_tile_ne _ _ _ _ hkey]

section
variable (s : State) (c : Nat)

/-- A context with the firings that it keeps at level 0. -/
def Ctx.level0 (x : Ctx) : Ctx := { x with brk := x.brk.map (fun b => (b.1.level0, b.2)), intv := x.intv.map (fun b => (b.1.level0, b.2)) }

/-- What a context holds on a die, with its pending faults at level 0. -/
def CtxDie.level0 (x : CtxDie) : CtxDie :=
  { x with pending := x.pending.map (fun p => (p.1, { p.2 with job := p.2.job.map Job.level0, acc := p.2.acc.map Access.level0 })) }

theorem State.levels0_tiles : (s.levels0 c).tiles = (s.levelTiles c).tiles := rfl
theorem State.levels0_mem : (s.levels0 c).mem = (s.levelTiles c).mem := rfl

theorem State.levels0_ctxs : (s.levels0 c).ctxs = (s.levelTiles c).ctxs.map (fun x => if x.1 = c then (x.1, x.2.level0) else x) := rfl

theorem State.levels0_ctxTiles (h : (s.levelTiles c).regions = s.regions) : (s.levels0 c).ctxTiles c = s.ctxTiles c := by
  have hregions : (s.levels0 c).regions = s.regions.map (fun p => if p.2.launch.ctx = c then (p.1, { p.2 with level := 0 }) else p) :=
    congrArg (List.map _) h
  unfold State.ctxTiles
  rw [hregions]
  induction s.regions with
  | nil => rfl
  | cons p m ih =>
    by_cases hp : p.2.launch.ctx = c
    · simp only [List.map_cons, hp, if_true, List.filter_cons, decide_true, List.flatMap_cons, ih]
    · simp only [List.map_cons, hp, if_false, List.filter_cons, decide_false, ih, Bool.false_eq_true]

theorem State.levels0_ring (e n : Nat) (h : (s.levelTiles c).ctxDies = s.ctxDies) : ((s.levels0 c).cd e n).ring = (s.cd e n).ring := by
  refine (NMap.getD_map_if (v := CtxDie.ring) (g := CtxDie.level0) (fun _ => rfl) (s.levelTiles c).ctxDies (fun k => k / 8 = c) (cdKey e n) {}).trans ?_
  rw [h]
  rfl

theorem State.levels0_ctx (h : (s.levelTiles c).ctxs = s.ctxs) : ((s.levels0 c).ctx c).st = (s.ctx c).st
    ∧ ((s.ctx c).intv = [] → ((s.levels0 c).ctx c).intv = []) := by
  have hctx : (s.levels0 c).ctxs = s.ctxs.map (fun x => if x.1 = c then (x.1, x.2.level0) else x) := by rw [State.levels0_ctxs, h]
  constructor
  · rw [State.ctx, hctx]
    exact NMap.getD_map_if (v := Ctx.st) (g := Ctx.level0) (fun _ => rfl) s.ctxs (· = c) c {}
  · intro hintv
    rw [State.ctx, hctx]
    have hempty (x : Ctx) : x.level0.intv.isEmpty = x.intv.isEmpty := List.isEmpty_map
    have := NMap.getD_map_if (v := fun x => x.intv.isEmpty) (g := Ctx.level0) hempty s.ctxs (· = c) c {}
    rw [← List.isEmpty_iff, this, List.isEmpty_iff]
    exact hintv

end

/-! ### The boundary taken -/

/-- The tiles' writers of state registers forgotten. -/
def State.clearWriters (s : State) (c : Nat) : State :=
  (s.ctxTiles c).foldl (fun s t => s.modTile t (fun x => { x with sregWriter := [] })) s

/-- The state of which a boundary keeps the checkpoint. -/
def State.atBoundary (s : State) (c n : Nat) : State :=
  (((s.levels0 c).newInterval c).clearWriters c).modCtx c (fun x => { x with
    interval := n, reruns := if x.reruns ≥ 256 then x.reruns else 0, badLines := [] })
def State.keepCheckpoint (s : State) (c : Nat) : State := { s with snaps := NMap.put s.snaps c (s.checkpoint c) }
def State.wakeTiles (s : State) (c : Nat) : State := (s.ctxTiles c).foldl (fun s t => s.wakeTile t) s

/-- A boundary taken with no INTV firing waiting. -/
def State.bounded (s : State) (c n : Nat) : State :=
  (((s.atBoundary c n).keepCheckpoint c).modCtx c (fun x => { x with intv := [] })).wakeTiles c

theorem State.newInterval_keeps {α : Type} {v : State → α} (hv : ∀ (s : State) x y, v { s with dies := x, ctxDies := y } = v s)
    (s : State) (c : Nat) : v (s.newInterval c) = v s :=
  (hv ((List.range 8).foldl (fun s d => s.modCd c d CtxDie.newInterval) s) _ (State.ctxDies _)).trans
    (foldl_preserves (v := v) (fun s _ _ => hv s s.dies _) s)

theorem State.clearWriters_keeps {α : Type} {v : State → α} (hv : ∀ (s : State) x, v { s with tiles := x } = v s) (s : State) (c : Nat) :
    v (s.clearWriters c) = v s :=
  foldl_preserves (v := v) (fun s _ _ => hv s _) s

theorem State.clearWriters_entries (s : State) (c : Nat) (t : TileId) : ((s.clearWriters c).tile t).entries = (s.tile t).entries := by
  refine foldl_preserves (v := fun s => (State.tile s t).entries) (fun s u _ => ?_) s
  refine State.modTile_field (v := Tile.entries) ?_ s u t
  exact fun _ => rfl

theorem State.wakeTiles_keeps {α : Type} {v : State → α} (hv : ∀ (s : State) a, v { s with agenda := a } = v s) (s : State) (c : Nat) :
    v (s.wakeTiles c) = v s :=
  foldl_preserves (v := v) (fun s t _ => s.wakeTile_keeps hv t) s

/-- What holds of a context once a boundary is taken. -/
structure BoundaryTaken (s t : State) (c n : Nat) : Prop where
  interval : (t.ctx c).interval = n
  fresh : ∀ k < 8, (t.cd c k).copies = [] ∧ ∀ p ∈ (t.cd c k).pages, bitN p.desc.toNat 54 = false
  levels : ∀ x ∈ t.ctxTiles c, levelled (t.tile x)
  snap : ∃ snap, NMap.find t.snaps c = some snap ∧ snap.st = (s.ctx c).st ∧ snap.regions = t.regionsOf c

/-- A context whose tiles hold no spilled token and that has no INTV firing waiting. -/
def Lone (s : State) (c : Nat) : Prop := (s.ctx c).intv = [] ∧ ∀ x ∈ s.ctxTiles c, (s.tile x).spilled = []

theorem CtxDie.newInterval_fresh (x : CtxDie) : x.newInterval.copies = [] ∧ ∀ p ∈ x.newInterval.pages, bitN p.desc.toNat 54 = false := by
  refine ⟨rfl, fun p hp => ?_⟩
  obtain ⟨q, -, rfl⟩ := List.mem_map.mp hp
  exact (bitN_withField_self q.desc 0 (by decide)).trans (Nat.zero_testBit 0)

section
variable {s : State} {c : Nat} (n : Nat)

theorem State.bounded_cd {k : Nat} (hk : k < 8) : (s.bounded c n).cd c k = ((s.levels0 c).cd c k).newInterval := by
  rw [State.bounded, State.wakeTiles_keeps (v := fun s => State.cd s c k) (fun _ _ => rfl), State.modCtx_cd]
  show ((s.atBoundary c n).cd c k) = _
  rw [State.atBoundary, State.modCtx_cd, State.clearWriters_keeps (v := fun s => State.cd s c k) (fun _ _ => rfl), State.newInterval_cd _ _ hk]

theorem State.bounded_regions : (s.bounded c n).regions = (s.atBoundary c n).regions := by
  rw [State.bounded, State.wakeTiles_keeps (v := State.regions) (fun _ _ => rfl)]
  rfl

theorem State.atBoundary_regions : (s.atBoundary c n).regions = (s.levels0 c).regions := by
  rw [State.atBoundary, State.modCtx_regions, State.clearWriters_keeps (v := State.regions) (fun _ _ => rfl),
    State.newInterval_keeps (v := State.regions) (fun _ _ _ => rfl)]

theorem State.bounded_tiles : (s.bounded c n).tiles = (s.atBoundary c n).tiles := by
  rw [State.bounded, State.wakeTiles_keeps (v := State.tiles) (fun _ _ => rfl)]
  rfl

theorem State.atBoundary_entries (t : TileId) : ((s.atBoundary c n).tile t).entries = ((s.levels0 c).tile t).entries := by
  rw [State.atBoundary, State.modCtx_tile, State.clearWriters_entries, State.newInterval_keeps (v := fun s => State.tile s t) (fun _ _ _ => rfl)]

theorem State.atBoundary_st : ((s.atBoundary c n).ctx c).st = ((s.levels0 c).ctx c).st := by
  rw [State.atBoundary, State.modCtx_ctx_self, State.clearWriters_keeps (v := fun s => State.ctx s c) (fun _ _ => rfl),
    State.newInterval_keeps (v := fun s => State.ctx s c) (fun _ _ _ => rfl)]

theorem State.bounded_taken (h : Lone s c) : BoundaryTaken s (s.bounded c n) c n ∧ (s.bounded c n).mem = s.mem := by
  obtain ⟨⟨-, hmem, hregions, hctxs, -⟩, hlevelled⟩ := State.levelTiles_levelled h.2
  have hctxTiles : (s.bounded c n).ctxTiles c = s.ctxTiles c := by
    rw [← s.levels0_ctxTiles c hregions, State.ctxTiles, State.ctxTiles, State.bounded_regions, State.atBoundary_regions]
  refine ⟨⟨?_, fun k hk => ?_, fun x hx e he => ?_, (s.atBoundary c n).checkpoint c, ?_, ?_, ?_⟩, ?_⟩
  · rw [State.bounded, State.wakeTiles_keeps (v := fun s => State.ctx s c) (fun _ _ => rfl), State.modCtx_ctx_self]
    show ((s.atBoundary c n).ctx c).interval = n
    rw [State.atBoundary, State.modCtx_ctx_self]
  · rw [State.bounded_cd n hk]
    exact CtxDie.newInterval_fresh _
  · rw [State.tile, State.bounded_tiles, ← State.tile, State.atBoundary_entries] at he
    exact hlevelled x (hctxTiles ▸ hx) e he
  · rw [State.bounded, State.wakeTiles_keeps (v := State.snaps) (fun _ _ => rfl)]
    exact NMap.find_put_self _ _ _
  · exact (State.atBoundary_st n).trans (s.levels0_ctx c hctxs).1
  · exact congrArg (List.filter _) (State.bounded_regions n).symm
  · rw [State.bounded, State.wakeTiles_keeps (v := State.mem) (fun _ _ => rfl)]
    show (s.atBoundary c n).mem = s.mem
    rw [State.atBoundary, State.modCtx_mem, State.clearWriters_keeps (v := State.mem) (fun _ _ => rfl),
      State.newInterval_keeps (v := State.mem) (fun _ _ _ => rfl)]
    exact hmem

theorem State.bounded_ring (h : Lone s c) (e k : Nat) : ((s.bounded c n).cd e k).ring = (s.cd e k).ring := by
  obtain ⟨⟨-, -, -, -, hcds⟩, -⟩ := State.levelTiles_levelled h.2
  have hnew : (((s.levels0 c).newInterval c).cd e k).ring = ((s.levels0 c).cd e k).ring := by
    refine foldl_preserves (v := fun s => (State.cd s e k).ring) (fun u d _ => ?_) (s.levels0 c)
    refine State.modCd_field (v := CtxDie.ring) ?_ u c d e k
    exact fun _ => rfl
  rw [State.bounded, State.wakeTiles_keeps (v := fun s => State.cd s e k) (fun _ _ => rfl), State.modCtx_cd]
  show ((s.atBoundary c n).cd e k).ring = _
  rw [State.atBoundary, State.modCtx_cd, State.clearWriters_keeps (v := fun s => State.cd s e k) (fun _ _ => rfl), hnew,
    s.levels0_ring c e k hcds]

end

/-! ### The step of a boundary -/

/-- The record of a boundary. -/
def boundaryRec (n cause : Nat) : LogRec := ⟨1, 5, 0, 0, n, cause, 0⟩

theorem recBytes_boundaryRec (k n cause : Nat) : recBytes k (boundaryRec n cause)
    = [1, 5, 0, 0] ++ leBytes 2 k ++ [0, 0] ++ zeros 8 ++ leBytes 8 n ++ leBytes 8 cause := by
  have htwo : leBytes 2 0 = [0, 0] := by decide
  have height : leBytes 8 (0 : BitVec 64).toNat = zeros 8 := by decide
  simp only [recBytes, boundaryRec, htwo, height]
  rfl

section
variable {s u : State} {c cause : Nat}

theorem State.boundaryStep_free (h : s.level c = 0) : s.boundaryStep c cause = s := if_pos h

theorem State.boundaryStep_waits (hlevel : s.level c ≠ 0) (hgate : s.boundaryGate c (boundaryRec ((s.ctx c).interval + 1) cause) = .wait u) :
    s.boundaryStep c cause = u.post (.intervalBoundary c (BitVec.ofNat 2 cause)) := by
  refine (if_neg hlevel).trans ?_
  dsimp only
  rw [show s.boundaryGate c ⟨1, 5, 0, 0, (s.ctx c).interval + 1, cause, 0⟩ = .wait u from hgate]

theorem State.boundaryStep_bounded (hlevel : s.level c ≠ 0) (hgate : s.boundaryGate c (boundaryRec ((s.ctx c).interval + 1) cause) = .go u)
    (hlone : Lone u c) : s.boundaryStep c cause = u.bounded c ((s.ctx c).interval + 1) := by
  obtain ⟨⟨-, -, -, hctxs, -⟩, -⟩ := State.levelTiles_levelled hlone.2
  have hintv : ((((u.levels0 c).newInterval c).clearWriters c).ctx c).intv = [] := by
    rw [State.clearWriters_keeps (v := fun s => State.ctx s c) (fun _ _ => rfl), State.newInterval_keeps (v := fun s => State.ctx s c) (fun _ _ _ => rfl)]
    exact (u.levels0_ctx c hctxs).2 hlone.1
  refine (if_neg hlevel).trans ?_
  dsimp only
  rw [show s.boundaryGate c ⟨1, 5, 0, 0, (s.ctx c).interval + 1, cause, 0⟩ = .go u from hgate]
  dsimp only
  rw [show (((u.levels0 c).newInterval c).ctxTiles c).foldl (fun s t => s.modTile t (fun x => { x with sregWriter := [] })) ((u.levels0 c).newInterval c)
    = ((u.levels0 c).newInterval c).clearWriters c from rfl, hintv]
  rfl

/-- At ORDERED a boundary is taken at once, with no record. -/
theorem State.boundaryStep_ordered (hlevel : s.level c = 1) (hlone : Lone s c) :
    s.boundaryStep c cause = s.bounded c ((s.ctx c).interval + 1) :=
  State.boundaryStep_bounded (by omega) (State.boundaryGate_low (by omega) _) hlone

/-- At RECORD a boundary of a context that is resident on one die stands in the ring of that die. -/
theorem State.boundaryStep_recorded {d : Nat} (hlevel : s.level c = 2) (hlone : Lone s c) (hdies : (s.ctx c).dies = [d])
    (hredo : (s.cd c d).ring.redo = none) (hnext : (s.cd c d).logNext = [])
    (hroom : ((s.cd c d).ring.tail - (s.cd c d).ring.head).toNat + 64 ≤ (s.cd c d).ring.cap) :
    let u := s.writeRecord c d (boundaryRec ((s.ctx c).interval + 1) cause)
    Lone u c ∧ s.boundaryStep c cause = u.bounded c ((s.ctx c).interval + 1) := by
  intro u
  have hkeep {α : Type} {v : State → α} (hv : ∀ (s : State) w x y z, v { s with mem := w, dies := x, hostMem := y, ctxDies := z } = v s) :
      v u = v s := State.writeRecord_keeps hv
  have hu : Lone u c := by
    have hctx : u.ctx c = s.ctx c := hkeep (v := fun s => State.ctx s c) fun _ _ _ _ _ => rfl
    have htiles : u.ctxTiles c = s.ctxTiles c := hkeep (v := fun s => State.ctxTiles s c) fun _ _ _ _ _ => rfl
    have htile (x : TileId) : u.tile x = s.tile x := hkeep (v := fun s => State.tile s x) fun _ _ _ _ _ => rfl
    exact ⟨hctx ▸ hlone.1, fun x hx => htile x ▸ hlone.2 x (htiles ▸ hx)⟩
  exact ⟨hu, State.boundaryStep_bounded (by omega) (State.boundaryGate_one hdies (State.logEvent_record rfl hlevel hredo hnext hroom)) hu⟩

end

end Sys2Proof.Machine
end

section
/-! PROOFS. A rollback's memory and on-chip state (17 R360). -/

namespace Sys2Proof.Machine

/-! ### Copied units put back -/

theorem Memory.get_of_not_mem {m : Memory} {x : Nat} (h : x ∉ m.map (·.1)) : Memory.get m x = memDefault := by
  induction m with
  | nil => rfl
  | cons p m ih =>
    simp only [List.map_cons, List.mem_cons, not_or] at h
    rw [Memory.get, if_neg (Ne.symm h.1), ih h.2]

/-- The cells of a memory in canonical form written over another. -/
theorem Memory.get_foldl_set {old : Memory} (hold : Memory.wf old = true) (m : Memory) (x : Nat) :
    Memory.get (old.foldl (fun m p => Memory.set m p.1 p.2) m) x = if x ∈ old.map (·.1) then Memory.get old x else Memory.get m x := by
  induction old generalizing m with
  | nil => rfl
  | cons p old ih =>
    obtain ⟨-, habove, hwf⟩ := (Memory.wf_cons p old).mp hold
    rw [List.foldl_cons, ih hwf, Memory.get_set, Memory.get]
    simp only [List.map_cons, List.mem_cons]
    by_cases hx : x = p.1
    · have hnot : p.1 ∉ old.map (·.1) := fun h => by
        obtain ⟨q, hq, hqp⟩ := List.mem_map.mp h
        have := habove q hq
        omega
      simp [hx, hnot]
    · simp [hx, Ne.symm hx]

theorem get_restoreUnit {m old : Memory} {u : Nat} (hm : Memory.wf m = true) (hold : Memory.wf old = true)
    (hunit : ∀ p ∈ old, p.1 / 65536 = u) (x : Nat) :
    Memory.get (restoreUnit m u old) x = if x / 65536 = u then Memory.get old x else Memory.get m x := by
  have hrest := Memory.get_filter hm (fun a => a / 65536 ≠ u) x
  rw [restoreUnit, Memory.get_foldl_set hold, hrest]
  by_cases hmem : x ∈ old.map (·.1)
  · obtain ⟨p, hp, rfl⟩ := List.mem_map.mp hmem
    rw [if_pos hmem, if_pos (hunit p hp)]
  · by_cases hx : x / 65536 = u
    · simp [hmem, hx, Memory.get_of_not_mem hmem]
    · simp [hmem, hx]

/-- A memory with copied units put back holds them, and no other byte changes. -/
theorem get_restoreUnits {units : NMap Memory} (hkeys : (units.map (·.1)).Nodup)
    (hunits : ∀ u ∈ units, Memory.wf u.2 = true ∧ ∀ p ∈ u.2, p.1 / 65536 = u.1) {m : Memory} (hm : Memory.wf m = true) (x : Nat) :
    Memory.get (units.foldl (fun m u => restoreUnit m u.1 u.2) m) x = match units.find? (fun u => u.1 = x / 65536) with
      | some u => Memory.get u.2 x
      | none => Memory.get m x := by
  induction units generalizing m with
  | nil => rfl
  | cons u units ih =>
    obtain ⟨hu, hkeys⟩ := List.nodup_cons.mp hkeys
    obtain ⟨⟨hwf, hin⟩, hunits⟩ := List.forall_mem_cons.mp hunits
    rw [List.foldl_cons, ih hkeys hunits (wf_restoreUnit u.1 u.2 hm), List.find?_cons]
    by_cases hx : u.1 = x / 65536
    · have hnone : units.find? (fun v => v.1 = x / 65536) = none := by
        refine List.find?_eq_none.mpr fun v hv => ?_
        rw [decide_eq_true_eq, ← hx]
        exact fun h => hu (List.mem_map.mpr ⟨v, hv, h⟩)
      rw [hnone, decide_eq_true hx]
      exact (get_restoreUnit hm hwf hin x).trans (if_pos hx.symm)
    · rw [decide_eq_false hx]
      cases units.find? (fun v => v.1 = x / 65536) with
      | none => exact (get_restoreUnit hm hwf hin x).trans (if_neg (Ne.symm hx))
      | some v => rfl

end Sys2Proof.Machine
end

section
/-! PROOFS. A rollback step by step (17 R360): what the checkpoint puts back and what stands. -/

namespace Sys2Proof.Machine

/-! ### What a rollback's steps leave -/

/-- A die's side toward the host and its bound of reruns. -/
def Die.hostSide (x : Die) : Rings × NMap Link × BitVec 64 := (x.rings, x.links, x.memord)

/-- What a context's die counts: its messages and its ring. -/
def CtxDie.counted (x : CtxDie) : BitVec 32 × Ring := (x.msgNo, x.ring)

/-- Steps that leave memory, the contexts and the dies' side toward the host. -/
structure Spares (s t : State) : Prop where
  mem : t.mem = s.mem
  hostMem : t.hostMem = s.hostMem
  ctxs : t.ctxs = s.ctxs
  pkg : t.pkg = s.pkg
  host : ∀ n, (t.die n).hostSide = (s.die n).hostSide

/-- Steps that leave the counts of the contexts' dies besides. -/
structure SparesAll (s t : State) : Prop extends Spares s t where
  counted : ∀ e n, (t.cd e n).counted = (s.cd e n).counted

theorem Spares.trans {s t u : State} (h : Spares s t) (h' : Spares t u) : Spares s u :=
  ⟨h'.mem.trans h.mem, h'.hostMem.trans h.hostMem, h'.ctxs.trans h.ctxs, h'.pkg.trans h.pkg, fun n => (h'.host n).trans (h.host n)⟩

theorem SparesAll.refl (s : State) : SparesAll s s := ⟨⟨rfl, rfl, rfl, rfl, fun _ => rfl⟩, fun _ _ => rfl⟩

theorem SparesAll.trans {s t u : State} (h : SparesAll s t) (h' : SparesAll t u) : SparesAll s u :=
  ⟨h.toSpares.trans h'.toSpares, fun e n => (h'.counted e n).trans (h.counted e n)⟩

theorem sparesAll_foldl {α : Type} {f : State → α → State} (hf : ∀ s a, SparesAll s (f s a)) (l : List α) (s : State) : SparesAll s (l.foldl f s) :=
  List.foldlRecOn (motive := SparesAll s) l f (SparesAll.refl s) fun u hu a _ => hu.trans (hf u a)

theorem sparesAll_due (s : State) (e : Event) : SparesAll s (s.due e) :=
  ⟨⟨State.due_mem _ _, State.due_hostMem _ _, State.due_ctxs _ _, State.due_pkg _ _, fun n => by rw [State.due_die]⟩,
    fun e n => by rw [State.due_cd]⟩

theorem sparesAll_modCd {g : CtxDie → CtxDie} (hg : ∀ x, (g x).counted = x.counted) (s : State) (c d : Nat) : SparesAll s (s.modCd c d g) :=
  ⟨⟨rfl, rfl, rfl, rfl, fun _ => rfl⟩, fun e n => State.modCd_field (v := CtxDie.counted) hg s c d e n⟩

theorem sparesAll_modDie {g : Die → Die} (hg : ∀ x, (g x).hostSide = x.hostSide) (s : State) (d : Nat) : SparesAll s (s.modDie d g) :=
  ⟨⟨rfl, rfl, rfl, rfl, fun n => State.modDie_field (v := Die.hostSide) hg s d n⟩, fun _ _ => rfl⟩

theorem getD_map {α β : Type} {v : α → β} {g : Nat → α → α} (hg : ∀ k x, v (g k x) = v x) (m : NMap α) (n : Nat) (d : α) :
    v (NMap.getD (m.map (fun p => (p.1, g p.1 p.2))) n d) = v (NMap.getD m n d) := by
  rw [NMap.getD, NMap.find_map, NMap.getD]
  cases NMap.find m n with
  | none => rfl
  | some x => exact hg n x

/-- Every die of a package changed but for its side toward the host. -/
theorem sparesAll_mapDies {g : Nat → Die → Die} (hg : ∀ k x, (g k x).hostSide = x.hostSide) (s : State) :
    SparesAll s { s with dies := s.dies.map (fun d => (d.1, g d.1 d.2)) } :=
  ⟨⟨rfl, rfl, rfl, rfl, fun n => getD_map (v := Die.hostSide) hg s.dies n {}⟩, fun _ _ => rfl⟩

/-! ### What belongs to a context thrown away -/

theorem sparesAll_leaveSlot (s : State) (p : Packet) : SparesAll s (s.leaveSlot p) := by
  unfold State.leaveSlot
  split <;> exact ⟨⟨rfl, rfl, rfl, rfl, fun _ => rfl⟩, fun _ _ => rfl⟩

theorem sparesAll_throwEvents (s : State) (c : Nat) : SparesAll s (s.throwEvents c) := by
  unfold State.throwEvents
  extract_lets gone s1
  refine SparesAll.trans (t := s1) ⟨⟨rfl, rfl, rfl, rfl, fun _ => rfl⟩, fun _ _ => rfl⟩ (sparesAll_foldl (fun u e => ?_) _ _)
  split
  · exact sparesAll_leaveSlot _ _
  · exact sparesAll_leaveSlot _ _
  · exact SparesAll.refl _

/-- A die without the streams, the held packets, the residency slots and the engine's requests of a context of a state. -/
def Die.thrown (s : State) (c : Nat) (x : Die) : Die :=
  { x with
    streams := x.streams.map (fun q => (q.1, q.2.filter (fun r => r.ctx ≠ c)))
    stalled := x.stalled.filter (fun p => p.ctx.toNat ≠ c)
    resSlots := x.resSlots.filter (fun k => ((NMap.find s.launches k.2).map (·.ctx)) ≠ some c)
    gram := { x.gram with queue := x.gram.queue.filter (fun r => s.regionCtx r.job.fi.region ≠ c) } }

theorem sparesAll_throwChip (s : State) (c : Nat) : SparesAll s (s.throwChip c) := by
  unfold State.throwChip
  extract_lets rs ts is s1 s2
  have h1 : SparesAll s s1 := (sparesAll_throwEvents s c).trans ⟨⟨rfl, rfl, rfl, rfl, fun _ => rfl⟩, fun _ _ => rfl⟩
  have h2 : SparesAll s1 s2 := (sparesAll_mapDies (g := fun _ => Die.thrown s1 c) (fun _ _ => rfl) s1).trans
    ⟨⟨rfl, rfl, rfl, rfl, fun _ => rfl⟩, fun _ _ => rfl⟩
  refine (h1.trans h2).trans (sparesAll_foldl (fun u t => ?_) _ _)
  exact SparesAll.trans (t := u.modTile t freeTile) ⟨⟨rfl, rfl, rfl, rfl, fun _ => rfl⟩, fun _ _ => rfl⟩ (sparesAll_due _ _)

/-! ### The messages (15 R327) -/

/-- With no message in the checkpoint only the lists of the die's engine change. -/
theorem State.netBack_none {snap : Snapshot} (h : snap.msgs = []) (s : State) (c d : Nat) :
    ∃ msgs upds, s.netBack c d snap = s.modNet d (fun x => { x with msgs := msgs, upds := upds }) := by
  unfold State.netBack
  simp only [h, List.filter_nil, List.map_nil, List.foldl_nil]
  exact ⟨_, _, rfl⟩

theorem sparesAll_netBack {snap : Snapshot} (h : snap.msgs = []) (s : State) (c d : Nat) : SparesAll s (s.netBack c d snap) := by
  obtain ⟨msgs, upds, heq⟩ := State.netBack_none h s c d
  rw [heq]
  refine sparesAll_modDie ?_ s d
  exact fun _ => rfl

/-! ### Leases and queues -/

theorem sparesAll_dropLeases (s : State) (c : Nat) (gone : List LeaseRange) : SparesAll s (s.dropLeases c gone) := by
  refine sparesAll_foldl (fun u r => ?_) _ _
  split
  · exact SparesAll.refl _
  · refine sparesAll_modCd ?_ _ _ _
    exact fun _ => rfl

theorem sparesAll_markLeased (s : State) (c : Nat) (r : LeaseRange) : SparesAll s (s.markLeased c r) := by
  unfold State.markLeased
  split
  · exact SparesAll.refl _
  · refine sparesAll_modCd ?_ _ _ _
    exact fun _ => rfl

theorem sparesAll_decideAgain (s : State) (d : Nat) : SparesAll s (s.decideAgain d) := by
  unfold State.decideAgain
  split
  · exact sparesAll_due _ _
  · exact SparesAll.refl _

theorem sparesAll_wakeTile (s : State) (t : TileId) : SparesAll s (s.wakeTile t) :=
  (sparesAll_due _ _).trans ((sparesAll_due _ _).trans ((sparesAll_due _ _).trans (sparesAll_due _ _)))

theorem sparesAll_launchBack (s : State) (p : Nat × Launch) : SparesAll s (s.launchBack p) := by
  have hput : SparesAll s { s with launches := NMap.put s.launches p.1 { p.2 with slot := none } } :=
    ⟨⟨rfl, rfl, rfl, rfl, fun _ => rfl⟩, fun _ _ => rfl⟩
  unfold State.launchBack
  dsimp only
  split
  · exact hput.trans (sparesAll_due _ _)
  · exact hput

end Sys2Proof.Machine
end

section
/-! PROOFS. A rollback's checkpoint put back, its event and its count (17 R360). -/

namespace Sys2Proof.Machine

/-! ### The checkpoint put back -/

/-- The copied units of a context, of all dies. -/
def State.copiedUnits (s : State) (c : Nat) : NMap Memory := (List.range 8).flatMap (fun d => (s.cd c d).copies)

/-- A die with the lists of a checkpoint put back, its SO streams those of some tiles of a state. -/
def Die.snapBack (s : State) (ts : List TileId) (c : Nat) (snap : Snapshot) (k : Nat) (x : Die) : Die :=
  { x with
    sends := backTo x.sends (fun e => e.ctx = c) k snap.sends
    recvs := backTo x.recvs (fun e => e.1.ctx.toNat = c) k snap.recvs
    copies := backTo x.copies (fun p => p.ctx.toNat = c) k snap.copies
    relChans := (snap.relChans.filter (fun e => e.1 = k)).foldl (fun m e => NMap.put m e.2.1 e.2.2) (x.relChans.filter (fun p => p.1 / 256 ≠ c))
    soNext := backTo x.soNext (s.soOf ts) k snap.soNext
    waiters := backTo x.waiters (fun w => w.2.ctx.toNat = c) k snap.waiters }

theorem sparesAll_mapQueues (s : State) (c : Nat) (g : Nat → Nat → Queue → Queue) : SparesAll s (s.mapQueues c g) :=
  sparesAll_mapDies (g := fun k x => { x with queues := x.queues.map (fun q => if fieldOf q.2.ctl 0 12 = c then (q.1, g k q.1 q.2) else q) })
    (fun _ _ => rfl) s

theorem CtxDie.rolledBack_counted {x y : CtxDie} (h : x.counted = y.counted) (old : CtxDie) (level now : Nat) :
    (x.rolledBack old level now).counted = (y.rolledBack old level now).counted := by
  obtain ⟨-, hring⟩ := Prod.mk.inj h
  simp only [CtxDie.counted, CtxDie.rolledBack, hring]

/-- What the checkpoint put back leaves of a state: memory holds the copies again, the context its state, and each die its counts. -/
structure SnapBack (s t : State) (c : Nat) (snap : Snapshot) : Prop where
  mem : t.mem = (s.copiedUnits c).foldl (fun m u => restoreUnit m u.1 u.2) s.mem
  hostMem : t.hostMem = s.hostMem
  pkg : t.pkg = s.pkg
  host : ∀ n, (t.die n).hostSide = (s.die n).hostSide
  ctx : t.ctx c = { s.ctx c with st := snap.st, brk := snap.brk, intv := [], heldEnd := none }
  counted : ∃ now, ∀ old : Nat → CtxDie, snap.cds = (List.range 8).map (fun k => (k, old k)) → ∀ k < 8,
    (t.cd c k).counted = ((s.cd c k).rolledBack (old k) (s.level c) now).counted

/-- What the dies hold of a context put back, each as a checkpoint has it. -/
def State.cdsBack (s : State) (c lv : Nat) (l : List (Nat × CtxDie)) : State :=
  l.foldl (fun s p => s.modCd c p.1 (fun x => x.rolledBack p.2 lv s.cycles)) s

theorem State.cdsBack_cd (s : State) (c lv : Nat) (old : Nat → CtxDie) {k : Nat} (hk : k < 8) :
    (s.cdsBack c lv ((List.range 8).map (fun k => (k, old k)))).cd c k = (s.cd c k).rolledBack (old k) lv s.cycles := by
  have hf (u : State) (k j : Nat) : ((u.modCd c k (fun x => x.rolledBack (old k) lv u.cycles)).cycles,
      (u.modCd c k (fun x => x.rolledBack (old k) lv u.cycles)).cd c j)
      = if j = k then (u.cycles, (u.cd c j).rolledBack (old k) lv u.cycles) else (u.cycles, u.cd c j) := by
    rw [State.modCd_cd, State.modCd_cycles]
    split_ifs <;> rfl
  have h := foldl_at (f := fun s k => State.modCd s c k (fun x => x.rolledBack (old k) lv s.cycles)) (v := fun s k => (State.cycles s, State.cd s c k))
    (g := fun k x => (x.1, x.2.rolledBack (old k) lv x.1)) hf (List.nodup_range (n := 8)) s k
  rw [if_pos (List.mem_range.mpr hk)] at h
  rw [State.cdsBack, List.foldl_map]
  exact congrArg Prod.snd h

theorem spares_cdsBack (s : State) (c lv : Nat) (l : List (Nat × CtxDie)) : Spares s (s.cdsBack c lv l) :=
  List.foldlRecOn (motive := Spares s) l _ ⟨rfl, rfl, rfl, rfl, fun _ => rfl⟩ fun _ hu _ _ => ⟨hu.mem, hu.hostMem, hu.ctxs, hu.pkg, hu.host⟩

theorem State.restoreSnap_back {snap : Snapshot} (hintv : snap.intv = []) (hmsgs : snap.msgs = []) (s : State) (c : Nat) :
    SnapBack s (s.restoreSnap c snap) c snap := by
  unfold State.restoreSnap
  extract_lets gone units s1 s2 ts s3 s4 s5 s6 s7 lv s8 s9 s10 held s11 s12 s13 s14
  have h2 : SparesAll s1 s2 := sparesAll_throwChip s1 c
  have hs1 : s1.mem = units.foldl (fun m u => restoreUnit m u.1 u.2) s.mem := rfl
  have h1 : s1.hostMem = s.hostMem ∧ s1.pkg = s.pkg ∧ s1.ctxs = s.ctxs ∧ (∀ n, s1.die n = s.die n) ∧ ∀ e n, s1.cd e n = s.cd e n :=
    ⟨rfl, rfl, rfl, fun _ => rfl, fun _ _ => rfl⟩
  have h3 : SparesAll s2 s3 := (sparesAll_mapDies (g := Die.snapBack s2 ts c snap) (fun _ _ => rfl) s2).trans
    ⟨⟨rfl, rfl, rfl, rfl, fun _ => rfl⟩, fun _ _ => rfl⟩
  have h4 : SparesAll s3 s4 := sparesAll_mapQueues s3 c _
  have h5 : SparesAll s4 s5 := ⟨⟨rfl, rfl, rfl, rfl, fun _ => rfl⟩, fun _ _ => rfl⟩
  have h6 : SparesAll s5 s6 := sparesAll_foldl (fun u p => sparesAll_launchBack u p) _ _
  have h7 : SparesAll s6 s7 := sparesAll_foldl (fun u e => by
    split
    · exact SparesAll.refl _
    · exact SparesAll.refl _
    · exact SparesAll.refl _
    · exact sparesAll_due _ _) _ _
  have h8 : Spares s7 s8 := spares_cdsBack s7 c lv snap.cds
  have hcds : s8 = s7.cdsBack c lv snap.cds := rfl
  have h9 : SparesAll s8 s9 := sparesAll_foldl (fun u d => sparesAll_netBack hmsgs u c d) _ _
  have h10 : SparesAll s9 s10 := sparesAll_dropLeases s9 c gone
  have h11 : SparesAll s10 s11 := sparesAll_foldl (fun u r => sparesAll_markLeased u c r) _ _
  have hlv : lv = s7.level c := rfl
  have h12 : s12 = s11.modCtx c (fun x => { x with st := snap.st, brk := snap.brk, intv := [], heldEnd := none }) := rfl
  have h13 : s13 = s12 := by
    show s12.intvOut snap.intv = s12
    rw [hintv]
    rfl
  have h14 : SparesAll s13 s14 := sparesAll_foldl (fun u d => sparesAll_decideAgain u d) _ _
  have hlast : SparesAll s14 (ts.foldl (fun s t => s.wakeTile t) s14) := sparesAll_foldl (fun u t => sparesAll_wakeTile u t) _ _
  generalize ts.foldl (fun s t => s.wakeTile t) s14 = t at hlast ⊢
  clear_value s14 s13 s12 s11 s10 s9 s8 lv s7 s6 s5 s4 s3 s2 s1
  obtain ⟨hhost1, hpkg1, hctxs1, hdie1, hcd1⟩ := h1
  have hfirst : SparesAll s1 s7 := h2.trans (h3.trans (h4.trans (h5.trans (h6.trans h7))))
  have hmid : SparesAll s8 s11 := h9.trans (h10.trans h11)
  have hend : SparesAll s12 t := h13 ▸ h14.trans hlast
  have hall : Spares s1 s11 := hfirst.toSpares.trans (h8.trans hmid.toSpares)
  have hctx7 : s7.ctx c = s.ctx c := by rw [State.ctx, hfirst.ctxs, hctxs1, ← State.ctx]
  have hctx11 : s11.ctx c = s.ctx c := by rw [State.ctx, hall.ctxs, hctxs1, ← State.ctx]
  refine ⟨?_, ?_, ?_, fun n => ?_, ?_, s7.cycles, fun old hold k hk => ?_⟩
  · rw [hend.mem, h12, State.modCtx_mem, hall.mem, hs1]
    rfl
  · rw [hend.hostMem, h12, State.modCtx_hostMem, hall.hostMem, hhost1]
  · rw [hend.pkg, h12, State.modCtx_pkg, hall.pkg, hpkg1]
  · rw [hend.host, h12, State.modCtx_die, hall.host, hdie1]
  · rw [State.ctx, hend.ctxs, ← State.ctx, h12, State.modCtx_ctx_self, hctx11]
  · rw [hend.counted, h12, State.modCtx_cd, hmid.counted, hcds, hold, State.cdsBack_cd s7 c lv old hk, hlv, State.level, hctx7, ← State.level]
    exact CtxDie.rolledBack_counted ((hfirst.counted c k).trans (congrArg CtxDie.counted (hcd1 c k))) _ _ _

/-! ### The rollback event and the count of reruns -/

theorem sliceB_leBytes (n : Nat) : sliceB (leBytes 8 n) 0 16 = leBytes 8 n ++ zeros 8 := by
  rw [sliceB, List.drop_zero, List.take_of_length_le (by simp [leBytes_length])]
  simp [leBytes_length]

theorem State.curEvent_stored {s : State} {d : Nat} (hopen : s.hostOpen = true) (hfull : (s.die d).rings.full = false)
    (hkept : (s.die d).rings.kept = []) (typ ctx datum : Nat) (detail : Bytes) :
    Stored s.hostMem (s.curEvent d typ ctx datum detail).hostMem (eventAddr (s.die d).rings (s.die d).rings.etail.toNat)
      ([BitVec.ofNat 8 typ, 0] ++ leBytes 2 (s.pkg * 8 + d) ++ leBytes 2 ctx ++ [0, 0] ++ leBytes 8 datum ++ sliceB detail 0 16) := by
  have hcond : (s.hostOpen && !(s.die d).rings.full && (s.die d).rings.kept.isEmpty : Bool) = true := by
    rw [hopen, hfull, hkept]
    rfl
  have heq : (s.curEvent d typ ctx datum detail).hostMem = Memory.setN s.hostMem (eventAddr (s.die d).rings (s.die d).rings.etail.toNat)
      ([BitVec.ofNat 8 typ, 0] ++ leBytes 2 (s.pkg * 8 + d) ++ leBytes 2 ctx ++ [0, 0] ++ leBytes 8 datum ++ sliceB detail 0 16) := by
    unfold State.curEvent
    dsimp only
    rw [if_pos hcond, State.modDie_hostMem]
  rw [heq]
  exact stored_setN _ _ _

/-- The dies whose recorded events are enforced in the rerun, at RECORD. -/
def State.rerunDies (s : State) (c : Nat) : State :=
  if s.level c = 2 then (s.ctx c).dies.foldl (fun s d => if (s.cd c d).ring.redo.isSome then s.due (.replayTimeout d c) else s) s else s

theorem sparesAll_rerunDies (s : State) (c : Nat) : SparesAll s (s.rerunDies c) := by
  unfold State.rerunDies
  split
  · refine sparesAll_foldl (fun u d => ?_) _ _
    split
    · exact sparesAll_due _ _
    · exact SparesAll.refl _
  · exact SparesAll.refl _

/-- The state of a rollback before its count of reruns is raised. -/
def State.rolledBack (s : State) (c : Nat) (snap : Snapshot) : State :=
  let u := s.restoreSnap c snap
  (u.curEvent (s.ctx c).cause.2.1 6 c (u.ctx c).interval (leBytes 8 (s.ctx c).cause.1)).rerunDies c

theorem State.rollbackStep_eq {s : State} {c : Nat} {snap : Snapshot} (hsnap : NMap.find s.snaps c = some snap)
    (hfew : (s.ctx c).reruns < fieldOf ((s.rolledBack c snap).die (s.ctx c).cause.2.1).memord 4 8) :
    s.rollbackStep c = (s.rolledBack c snap).modCtx c (fun x => { x with reruns := (s.ctx c).reruns + 1 }) := by
  unfold State.rollbackStep
  rw [hsnap]
  dsimp only
  exact if_neg (not_le.mpr hfew)

/-- What a rollback leaves: the checkpoint put back, one rerun more, and the event for the host. -/
structure RolledBack (s t : State) (c d cause : Nat) (snap : Snapshot) : Prop where
  st : (t.ctx c).st = snap.st
  reruns : (t.ctx c).reruns = (s.ctx c).reruns + 1
  mem : t.mem = (s.copiedUnits c).foldl (fun m u => restoreUnit m u.1 u.2) s.mem
  event : s.hostOpen = true → (s.die d).rings.full = false → (s.die d).rings.kept = [] →
    Stored s.hostMem t.hostMem (eventAddr (s.die d).rings (s.die d).rings.etail.toNat)
      ([6, 0] ++ leBytes 2 (s.pkg * 8 + d) ++ leBytes 2 c ++ [0, 0] ++ leBytes 8 (s.ctx c).interval ++ leBytes 8 cause ++ zeros 8)
  counted : ∃ now, ∀ old : Nat → CtxDie, snap.cds = (List.range 8).map (fun k => (k, old k)) → ∀ k < 8,
    (t.cd c k).counted = ((s.cd c k).rolledBack (old k) (s.level c) now).counted

section
variable {s : State} {c d cause frame : Nat} {snap : Snapshot} (hintv : snap.intv = []) (hmsgs : snap.msgs = [])
include hintv hmsgs

theorem State.rolledBack_memord : ((s.rolledBack c snap).die d).memord = (s.die d).memord := by
  have hback := State.restoreSnap_back hintv hmsgs s c
  have hhost (n : Nat) : ((s.restoreSnap c snap).die n).memord = (s.die n).memord := congrArg (fun x => x.2.2) (hback.host n)
  have hevent := (keepsEngines_curEvent (s.restoreSnap c snap) (s.ctx c).cause.2.1 6 c ((s.restoreSnap c snap).ctx c).interval
    (leBytes 8 (s.ctx c).cause.1)).die d
  have hmemord := (congrArg Die.memord hevent :)
  have hrerun := congrArg (fun x => x.2.2) ((sparesAll_rerunDies ((s.restoreSnap c snap).curEvent (s.ctx c).cause.2.1 6 c
    ((s.restoreSnap c snap).ctx c).interval (leBytes 8 (s.ctx c).cause.1)) c).host d)
  exact hrerun.trans (hmemord.trans (hhost d))

theorem State.rollbackStep_rolls (hsnap : NMap.find s.snaps c = some snap) (hcause : (s.ctx c).cause = (cause, d, frame))
    (hfew : (s.ctx c).reruns < fieldOf (s.die d).memord 4 8) : RolledBack s (s.rollbackStep c) c d cause snap := by
  have hback := State.restoreSnap_back hintv hmsgs s c
  have hfew' : (s.ctx c).reruns < fieldOf ((s.rolledBack c snap).die (s.ctx c).cause.2.1).memord 4 8 := by
    rw [State.rolledBack_memord hintv hmsgs, hcause]
    exact hfew
  have hrolled : s.rolledBack c snap = ((s.restoreSnap c snap).curEvent d 6 c (s.ctx c).interval (leBytes 8 cause)).rerunDies c := by
    rw [State.rolledBack, hcause, hback.ctx]
  rw [State.rollbackStep_eq hsnap hfew', hrolled]
  generalize hu : s.restoreSnap c snap = u at hback
  have hevent {α : Type} {v : State → α} (hv : ∀ (s : State) x y, v { s with dies := x, hostMem := y } = v s) :
      v (u.curEvent d 6 c (s.ctx c).interval (leBytes 8 cause)) = v u := State.curEvent_keeps hv u d 6 c _ _
  have hstored := State.curEvent_stored (s := u) (d := d)
  generalize hw : u.curEvent d 6 c (s.ctx c).interval (leBytes 8 cause) = w at hevent
  have hrerun := sparesAll_rerunDies w c
  have hctx : (w.rerunDies c).ctx c = { s.ctx c with st := snap.st, brk := snap.brk, intv := [], heldEnd := none } := by
    rw [State.ctx, hrerun.ctxs, ← State.ctx, hevent (v := fun s => State.ctx s c) fun _ _ _ => rfl, hback.ctx]
  refine ⟨?_, ?_, ?_, fun hopen hfull hkept => ?_, ?_⟩
  · rw [State.modCtx_ctx_self, hctx]
  · rw [State.modCtx_ctx_self]
  · rw [State.modCtx_mem, hrerun.mem, hevent (v := State.mem) fun _ _ _ => rfl, hback.mem]
  · have hrings : (u.die d).rings = (s.die d).rings := congrArg Prod.fst (hback.host d)
    have hlinks (n : Nat) : (u.die n).links = (s.die n).links := congrArg (fun x => x.2.1) (hback.host n)
    have hopen' : u.hostOpen = true := by
      simp only [State.hostOpen, hlinks]
      exact hopen
    have h := hstored hopen' (hrings ▸ hfull) (hrings ▸ hkept) 6 c (s.ctx c).interval (leBytes 8 cause)
    rw [hw, hrings, hback.pkg, hback.hostMem] at h
    rw [State.modCtx_hostMem, hrerun.hostMem]
    simpa [sliceB_leBytes] using h
  · obtain ⟨now, hcounted⟩ := hback.counted
    refine ⟨now, fun old hold k hk => ?_⟩
    rw [State.modCtx_cd, hrerun.counted, hevent (v := fun s => State.cd s c k) fun _ _ _ => rfl]
    exact hcounted old hold k hk

end

end Sys2Proof.Machine
end

section
/-! PROOFS. The events of the Accession Ring (17 R350 to R361). -/

namespace Sys2Proof.Machine

/-- What a rollback leaves of the numbers and the ring of a die at each level. -/
theorem CtxDie.rolledBack_ring (x old : CtxDie) (level now : Nat) :
    let from_ := if x.ring.marked then x.ring.commit.toNat + 1 else 0
    (x.rolledBack old level now).msgNo = old.msgNo
      ∧ (level = 2 → (x.rolledBack old level now).ring.redo = if from_ < x.ring.tail.toNat then some (from_, x.ring.tail.toNat) else none)
      ∧ (level = 3 → (x.rolledBack old level now).ring.head = BitVec.ofNat 64 from_) := by
  refine ⟨rfl, ?_, ?_⟩
  · rintro rfl
    rfl
  · rintro rfl
    rfl

section
variable {s : State} {d c : Nat} {site : ErrorSite}

theorem State.badAgain_of_not (h : ∀ l, site = .line l → d * 2 ^ 40 + l / 64 ∉ (s.ctx c).badLines) : s.badAgain d c site = false := by
  cases site with
  | line l => simpa [State.badAgain] using h l rfl
  | chip => rfl

theorem State.lineLost_of_copied {l : Nat}
    (hring : s.lineIn c d l (fieldOf (s.cd c d).ring.base 21 43 * 2 ^ 21) (2 ^ fieldOf (s.cd c d).ring.size 0 5) = false)
    (hshadow : s.lineIn c d l (fieldOf (s.cd c d).ring.shdBase 21 43 * 2 ^ 21) (2 ^ fieldOf (s.cd c d).ring.shdSize 0 5) = false)
    (hcopy : (NMap.find (s.cd c d).copies (physKey d l / 65536)).isSome = true) : s.lineLost d c (.line l) = false := by
  rw [State.lineLost, hring, hshadow, Option.isNone_eq_false_iff.mpr hcopy]
  rfl

/-- The fault of an error seen for the first time in its interval. -/
theorem State.errorFault_fresh (h : s.badAgain d c site = false) : s.errorFault d c site
    = { index := 9, sync := false, ctx := c, die := d, detail := leBytes 8 (siteLine site) ++ [if s.bounding c then 2 else 0] } := by
  unfold State.errorFault
  rw [h]
  cases s.bounding c <;> rfl

end

end Sys2Proof.Machine

open Sys2Proof Sys2Proof.Machine

/-- Settles O56: a lemma for each event of the ring; a rollback by what each of its steps leaves. -/
theorem accessionEventResults : Obligations.AccessionEventResults := by
  unfold Obligations.AccessionEventResults
  intro s d c
  refine ⟨?head, ?tail, ?timeout, ?boundary, ?copy, ?rollback, ?error⟩
  case head =>
    intro v hev
    have hexec : exec .accHeadWrite s = .next (s.headWrite d c v) := by
      show execAccHeadWrite s = _
      rw [execAccHeadWrite, hev]
    refine ⟨_, hexec, ?_, fun h => State.headWrite_replay h v, fun h => (State.headWrite_ring h v).2⟩
    by_cases h : s.level c = 3
    · rw [State.headWrite_replay h]
    · exact (State.headWrite_ring h v).1
  case tail =>
    intro v hev
    have hexec : exec .accTailWrite s = .next (s.tailSupply d c v) := by
      show execAccTailWrite s = _
      rw [execAccTailWrite, hev]
    refine ⟨_, hexec, ?_, fun h => State.tailSupply_other h v, fun h => (State.tailSupply_ring h v).2⟩
    by_cases h : s.level c = 3
    · exact (State.tailSupply_ring h v).1
    · rw [State.tailSupply_other h]
  case timeout =>
    intro hev
    have hexec : exec .replayTimeout s = .next (s.replayLate d c) := by
      show execReplayTimeout s = _
      rw [execReplayTimeout, hev]
    refine ⟨fun h => hexec.trans (congrArg _ (State.replayLate_none h)), fun i hi hfresh => ?_⟩
    refine ⟨s.modRing c d (fun x => { x with failed := some i }), ?_, ?_, rfl, rfl⟩
    · rw [hexec, State.replayLate_some hi, State.diverge, if_neg hfresh]
    · rw [State.modRing_ring]
  case boundary =>
    intro cause hev
    have hexec : exec .intervalBoundary s = .next (s.boundaryStep c cause.toNat) := by
      show execIntervalBoundary s = _
      rw [execIntervalBoundary, hev]
    refine ⟨fun h => hexec.trans (congrArg _ (State.boundaryStep_free h)), fun hlevel hlone => ?_, fun hlevel u hgate => ?_,
      fun hlevel hlone hdies hredo hnext hroom page hpage => ?_⟩
    · obtain ⟨htaken, hmem⟩ := State.bounded_taken ((s.ctx c).interval + 1) hlone
      exact ⟨_, hexec.trans (congrArg _ (State.boundaryStep_ordered hlevel hlone)),
        ⟨htaken.interval, htaken.fresh, htaken.levels, htaken.snap⟩, hmem⟩
    · rw [hexec, State.boundaryStep_waits (by omega) hgate, BitVec.ofNat_toNat, BitVec.setWidth_eq]
    · obtain ⟨hu, hstep⟩ := State.boundaryStep_recorded (cause := cause.toNat) hlevel hlone hdies hredo hnext hroom
      obtain ⟨htaken, hmem⟩ := State.bounded_taken ((s.ctx c).interval + 1) hu
      have hring := State.bounded_ring ((s.ctx c).interval + 1) hu c d
      have hends := State.writeRecord_ends (s := s) (c := c) (d := d) (r := boundaryRec ((s.ctx c).interval + 1) cause.toNat) rfl
      have hstored := State.writeRecord_stored (r := boundaryRec ((s.ctx c).interval + 1) cause.toNat) hpage
      have hst : ((s.writeRecord c d (boundaryRec ((s.ctx c).interval + 1) cause.toNat)).ctx c).st = (s.ctx c).st :=
        State.writeRecord_keeps (v := fun s => (State.ctx s c).st) fun _ _ _ _ _ => rfl
      refine ⟨_, hexec.trans (congrArg _ hstep), ⟨htaken.interval, htaken.fresh, htaken.levels, ?_⟩, ?_, ?_, ?_⟩
      · rw [← hst]
        exact htaken.snap
      · rw [hring]
        exact hends.1
      · rw [hring]
        exact hends.2
      · rw [hmem, ← recBytes_boundaryRec]
        exact hstored
  case copy =>
    intro unit hev hnone
    have hexec : exec .firstWriteCopy s = .next (s.copyStep d c unit) := by
      show execFirstWriteCopy s = _
      rw [execFirstWriteCopy, hev]
    refine ⟨fun h => hexec.trans (congrArg _ (State.copyStep_full hnone h)), fun h => ?_⟩
    exact ⟨_, _, hexec.trans (congrArg _ (State.copyStep_takes hnone h)), rfl, State.takeCopy_copies unit,
      fun hwf a ha => get_unitBytes hwf ha⟩
  case rollback =>
    intro snap cause frame hev hsnap hintv hmsgs hcause hfew units hwf hkeys hunits
    have hexec : exec .rollback s = .next (s.rollbackStep c) := by
      show execRollback s = _
      rw [execRollback, hev]
    have hrolled := State.rollbackStep_rolls hintv hmsgs hsnap hcause hfew
    obtain ⟨now, hcounted⟩ := hrolled.counted
    refine ⟨_, hexec, hrolled.st, hrolled.reruns, fun x => ?_, hrolled.event, fun old hold k hk => ?_⟩
    · rw [hrolled.mem]
      exact get_restoreUnits hkeys hunits hwf x
    · obtain ⟨hmsg, hring⟩ := Prod.mk.inj (hcounted old hold k hk)
      rw [hmsg, hring]
      exact (s.cd c k).rolledBack_ring (old k) (s.level c) now
  case error =>
    intro site hev hfree hended
    have hexec : exec .memoryUncorrectable s = .next (s.errorStep d c site) := by
      show execMemoryUncorrectable s = _
      rw [execMemoryUncorrectable, hev]
    refine ⟨fun hlevel hnot => ?_, fun hlevel hcalm hsnap => ⟨?_, ?_⟩⟩
    · rw [hexec, State.errorStep_raises hfree hended (by simp [hlevel]), State.errorFault_fresh (State.badAgain_of_not hnot)]
      rfl
    · rintro rfl
      exact ⟨_, hexec.trans (congrArg _ (State.errorStep_rolls hfree hended hlevel hcalm hsnap rfl rfl)), State.errorNoted_rolls _⟩
    · intro l hsite hnot g hring hshadow hcopy
      have hkept : s.lineLost d c site = false := hsite ▸ State.lineLost_of_copied hring hshadow hcopy
      exact ⟨_, hexec.trans (congrArg _ (State.errorStep_rolls hfree hended hlevel hcalm hsnap
        (State.badAgain_of_not fun k hk => (ErrorSite.line.inj (hsite.symm.trans hk)) ▸ hnot) hkept)), State.errorNoted_rolls _⟩

end
